-- ==== Sys2Proof/Word.lean ====
section
/-! DEFINITION. Words, identifiers and the sparse tables that the state is built from. -/

namespace Sys2Proof

/-- A 512-byte bench row as one number: byte i is bits 8i+7 to 8i (little-endian, R12, R72). -/
abbrev Row := BitVec 4096
/-- A logical core ID (R7). -/
abbrev CoreId := BitVec 12
/-- A global stand number, sector × 16 + stand (R7). -/
abbrev StandId := BitVec 7
/-- A coupe number (R265). -/
abbrev CoupeId := BitVec 7
/-- A ring number (R8). -/
abbrev RingId := BitVec 15
/-- A sequence slot (R8). -/
abbrev SlotId := BitVec 13
/-- A page group number (R217). -/
abbrev GroupId := BitVec 22
/-- A Mirovik link, ML0 to ML23 (R8). -/
abbrev LinkId := Fin 24
/-- A sector, and the deck stack attached to it (R172). -/
abbrev SectorId := Fin 8
/-- A yard channel (R174). -/
abbrev ChannelId := Fin 16

/-- A table of values by number, in one canonical form: keys rise strictly and no entry holds the
value that an unlisted key reads as. -/
abbrev Sparse (α : Type) := List (Nat × α)

namespace Sparse

/-- The entry at `k`, or `d`, the value that every unlisted key has. -/
def get {α : Type} (d : α) (k : Nat) (m : Sparse α) : α := (m.lookup k).getD d

/-- The table with `v` at `k`; an entry equal to `d` is not listed. -/
def set {α : Type} [DecidableEq α] (d : α) (k : Nat) (v : α) (m : Sparse α) : Sparse α :=
  m.filter (fun c => c.1 < k) ++ (if v = d then [] else [(k, v)]) ++ m.filter (fun c => k < c.1)

/-- The canonical form. -/
def wf {α : Type} [DecidableEq α] (d : α) (m : Sparse α) : Bool :=
  decide (m.Pairwise (fun a b => a.1 < b.1)) && m.all (fun c => decide (c.2 ≠ d))

end Sparse

/-- Field [hi:lo] of a word as a number. -/
def bits {w : Nat} (x : BitVec w) (hi lo : Nat) : Nat := (x.toNat >>> lo) % 2 ^ (hi + 1 - lo)

/-- Bit i of a word. -/
def bit {w : Nat} (x : BitVec w) (i : Nat) : Bool := x.toNat.testBit i

/-- A field value placed at bit `lo` of a record. -/
def put {w : Nat} (lo v : Nat) : BitVec w := BitVec.ofNat w (v <<< lo)

/-- Division rounding up. -/
def ceilDiv (a b : Nat) : Nat := if b = 0 then 0 else (a + b - 1) / b

/-- A truth value as a bit. -/
def b2n (b : Bool) : Nat := if b then 1 else 0

/-- Saturating addition in a counter of `w` bits. -/
def satAdd (w a n : Nat) : Nat := if a + n < 2 ^ w then a + n else 2 ^ w - 1

/-- Wrapping addition in a counter of `w` bits. -/
def wrapAdd (w a n : Nat) : Nat := (a + n) % 2 ^ w

/-- Byte i of a row. -/
def Row.byte (r : Row) (i : Nat) : Nat := bits r (8 * i + 7) (8 * i)
/-- 32-bit word i of a row. -/
def Row.word32 (r : Row) (i : Nat) : BitVec 32 := BitVec.ofNat 32 (r.toNat >>> (32 * i))
/-- 64-bit word i of a row. -/
def Row.word64 (r : Row) (i : Nat) : BitVec 64 := BitVec.ofNat 64 (r.toNat >>> (64 * i))

/-- A number built from little-endian digits of `w` bits, the first the lowest. -/
def packLE (w : Nat) : List Nat → Nat
  | [] => 0
  | x :: xs => x % 2 ^ w + 2 ^ w * packLE w xs

/-- A row built from bytes. -/
def Row.ofBytes (bs : List Nat) : Row := BitVec.ofNat 4096 (packLE 8 bs)
/-- A row built from 32-bit words. -/
def Row.ofWords32 (ws : List (BitVec 32)) : Row := BitVec.ofNat 4096 (packLE 32 (ws.map BitVec.toNat))

/-- The first stand number of a core, and its parts (R7). -/
def coreStand (c : CoreId) : StandId := BitVec.ofNat 7 (c.toNat / 32)
/-- The logical slot of a core within its stand. -/
def coreSlot (c : CoreId) : Nat := c.toNat % 32
/-- The sector of a stand. -/
def standSector (g : StandId) : SectorId := ⟨g.toNat / 16, by have := g.isLt; omega⟩
/-- The sector of a core. -/
def coreSector (c : CoreId) : SectorId := standSector (coreStand c)
/-- Stands 8–15 of a sector are courser stands (R7). -/
def standCourser (g : StandId) : Bool := 8 ≤ g.toNat % 16
/-- Whether a core is a courser core. -/
def coreCourser (c : CoreId) : Bool := standCourser (coreStand c)
/-- A core from its stand and slot. -/
def coreOf (g : StandId) (slot : Nat) : CoreId := BitVec.ofNat 12 (g.toNat * 32 + slot % 32)

end Sys2Proof
end

