-- ==== Sys2Proof/Syntax.lean ====
section
/-! DEFINITION. The commands of the part: one constructor per row of the opcode table. A core instruction
is the command "core c issues this instruction with these fields"; a descriptor is the command "the ring
engine starts this accepted descriptor"; every other row is an event. What the part reads from host
memory, from a pin, from a partner or from a sensor arrives as an operand. -/

namespace Sys2Proof

/-- The fields of a 64-bit instruction word below CLASS and OP (R75). -/
structure Fields where
  d : BitVec 5
  a : BitVec 5
  b : BitVec 5
  sel : BitVec 3
  mod : BitVec 4
  imm : BitVec 32
  deriving DecidableEq, Repr

/-- A fetched descriptor: its ring, its position and its 512 bits (R298). -/
structure Desc where
  ring : RingId
  pos : BitVec 32
  w : BitVec 512
  deriving DecidableEq, Repr

/-- What a host read of 32-bit words gives (R176, R202, R214). -/
inductive HostRead where
  | ok (words : List (BitVec 32))
  | failed
  | timeout
  deriving DecidableEq, Repr

/-- What a host read of 512-byte rows gives; each row with its poisoned-data indication (R176). -/
inductive HostRows where
  | ok (rows : List (Row × Bool))
  | failed
  | timeout
  deriving DecidableEq, Repr

/-- One entry of an image list (R196), what reading its shard gave, and whether its copy into the yard passed the deadline
(R197). -/
structure ShardRead where
  entry : BitVec 128
  data : HostRows
  late : Bool
  deriving DecidableEq, Repr

/-- Which narrow request starves (R101). -/
inductive NarrowKind where
  | localRequest | otherRequest | scrubber
  deriving DecidableEq, Repr

/-- Where an arrival is counted (R169). -/
inductive Arrival where
  | coupe (k : CoupeId) (barrier : BitVec 8)
  | memory (addr : BitVec 48) (tag : BitVec 16)
  deriving DecidableEq, Repr

/-- The two pools (R184). -/
inductive Pool where
  | deck | yard
  deriving DecidableEq, Repr

/-- A mover: agent 0–7 is a sector, 16 the host-link island (R382). -/
structure MoverId where
  agent : BitVec 8
  mover : BitVec 4
  deriving DecidableEq, Repr

/-- Sensors of R406. -/
inductive Sensor where
  | junction (g : StandId) (n : BitVec 2)
  | sramDie (g : StandId) (die : BitVec 2)
  | deckStack (s : SectorId)
  | converter (i : BitVec 8)
  | coolantInlet
  | coolantOutlet
  | inputPower
  deriving DecidableEq, Repr

/-- The rails of R386. -/
inductive Rail where
  | ib | aon | hsio | lnk | fab | deck | yphy | sram | core
  deriving DecidableEq, Repr

/-- What a soft-start or in-service rail failure measured (R390). -/
structure RailReading where
  cause : BitVec 4
  mv : BitVec 16
  ma100 : BitVec 16
  deriving DecidableEq, Repr

/-- What triggered a reset (R394). -/
inductive ResetTrigger where
  | pin | bmc | register | power
  deriving DecidableEq, Repr

/-- Why a stand leaves service (R372). -/
inductive StandCause where
  | clock | voltage | crossing
  deriving DecidableEq, Repr

/-- How an authentication exchange ends (R342). -/
structure AuthResult where
  chainOk : Bool
  leafOk : Bool
  challengeOk : Bool
  measurementOk : Bool
  partnerLink : BitVec 5
  deriving DecidableEq, Repr

/-- Where a link's errors lie, for the fallback of R343. -/
inductive LinkErrors where
  | confined (lanes : BitVec 4)
  | spread
  deriving DecidableEq, Repr

/-- Which limit a link exceeds (R341). -/
inductive FenceCause where
  | replay | credit | noLower
  deriving DecidableEq, Repr

/-- A ring table entry read for a ring (R290). -/
abbrev RingEntry := RingId × BitVec 512

/-- What a self-test finds (R378). -/
structure TestFinding where
  verdict : BitVec 8
  entries : List (BitVec 128)
  needed : BitVec 16
  left : BitVec 16
  deriving DecidableEq, Repr

/-- What bring-up finds: DIMM sizes in GiB of the channels that trained (0: not trained), and the stands
and deck stacks that fail their tests (R174, R379). -/
structure BringUp where
  dimms : List Nat
  badStands : List StandId
  badStacks : List SectorId
  /-- Soft repairs found by the tests of stands: result entries (R378), and physical cores that are mapped away (R66). -/
  lines : List (StandId × BitVec 128)
  unfit : List (StandId × BitVec 6)
  deriving DecidableEq, Repr

/-- A buffer of an Ethernet work request or export (R354). -/
inductive EthBuffer where
  | host (addr : BitVec 64) (len : Nat)
  | deck (addr : BitVec 48) (len : Nat)
  | seq (slot : SlotId) (gen : BitVec 16) (b0 : BitVec 16) (blocks : BitVec 16)
  deriving DecidableEq, Repr

/-- A work request's operation (R353, R354): a READ carries the bytes that arrive for a HOST or DECK buffer. -/
inductive EthOp where
  | send
  | write
  | read (data : List (BitVec 8))
  deriving DecidableEq, Repr

/-- How the partner of a queue pair ends a work request: done, a protection error of its own, or a failed transfer. -/
inductive EthReply where
  | done | protection | failed
  deriving DecidableEq, Repr

/-- What an executed work request cost the port: the lengths of the frames sent, and retransmissions among them. -/
structure EthSent where
  frames : List Nat
  retransmissions : Nat
  deriving DecidableEq, Repr

/-- What a partner's message does to an exported buffer of this device (R354). -/
inductive EthAccess where
  | none
  | write (func : BitVec 3) (buf : EthBuffer) (data : List (BitVec 8))
  | read (func : BitVec 3) (buf : EthBuffer)
  deriving DecidableEq, Repr

/-- Received frame features that decide whether it is supported (R353) and what the port counts (R413). -/
structure EthFrame where
  len : Nat
  ipv6 : Bool
  fragment : Bool
  udpPort : BitVec 16
  reliable : Bool
  opcodeSupported : Bool
  fcsOk : Bool
  pause : Bool
  cnp : Bool
  /-- Marked by a congested switch: a congestion notification answers it. -/
  congested : Bool
  priority : BitVec 3
  /-- It arrives during a slice of the port's self-test (R377). -/
  inSlice : Bool
  outOfSequence : Bool
  fecCorrected : Nat
  fecUncorrectable : Nat
  access : EthAccess
  deriving DecidableEq, Repr

/-- The commands. `stop` of a core instruction that R91 interrupts: it pauses at its interruption point after so many rows,
groups or slice rows (none: it runs on until it completes or waits), and goes on when the command is sent again. `wload` of
MPASS: the stand cycles that the engine waited for slice loads (R40). -/
inductive Instr where
  -- core instructions (R77, R248, R249)
  | nop (c : CoreId) (f : Fields)
  | endTask (c : CoreId) (f : Fields)
  | add (c : CoreId) (f : Fields)
  | sub (c : CoreId) (f : Fields)
  | and_ (c : CoreId) (f : Fields)
  | or_ (c : CoreId) (f : Fields)
  | xor_ (c : CoreId) (f : Fields)
  | shl (c : CoreId) (f : Fields)
  | shr (c : CoreId) (f : Fields)
  | sar (c : CoreId) (f : Fields)
  | mul (c : CoreId) (f : Fields)
  | slt (c : CoreId) (f : Fields)
  | sltu (c : CoreId) (f : Fields)
  | seq (c : CoreId) (f : Fields)
  | li (c : CoreId) (f : Fields)
  | br (c : CoreId) (f : Fields)
  | beq (c : CoreId) (f : Fields)
  | bne (c : CoreId) (f : Fields)
  | blt (c : CoreId) (f : Fields)
  | bge (c : CoreId) (f : Fields)
  | loop (c : CoreId) (f : Fields)
  | jal (c : CoreId) (f : Fields)
  | jr (c : CoreId) (f : Fields)
  | pop (c : CoreId) (f : Fields) (stop : Option Nat)
  | push (c : CoreId) (f : Fields) (stop : Option Nat)
  | popv (c : CoreId) (f : Fields)
  | pushv (c : CoreId) (f : Fields)
  | mark (c : CoreId) (f : Fields)
  | peek (c : CoreId) (f : Fields)
  | dropm (c : CoreId) (f : Fields)
  | bcopy (c : CoreId) (f : Fields) (stop : Option Nat)
  | rdw (c : CoreId) (f : Fields)
  | ldv (c : CoreId) (f : Fields)
  | stv (c : CoreId) (f : Fields)
  | rread (c : CoreId) (f : Fields)
  | rwrite (c : CoreId) (f : Fields) (stop : Option Nat)
  | wset (c : CoreId) (f : Fields)
  | wclr (c : CoreId) (f : Fields)
  | mreg (c : CoreId) (f : Fields) (stop : Option Nat)
  | mpass (c : CoreId) (f : Fields) (conflict : Option (BitVec 15 × BitVec 2)) (stop : Option Nat) (wload : Nat)
  | vadd (c : CoreId) (f : Fields)
  | vsub (c : CoreId) (f : Fields)
  | vmul (c : CoreId) (f : Fields)
  | vfma (c : CoreId) (f : Fields)
  | vmin (c : CoreId) (f : Fields)
  | vmax (c : CoreId) (f : Fields)
  | vabs (c : CoreId) (f : Fields)
  | vneg (c : CoreId) (f : Fields)
  | vcsgn (c : CoreId) (f : Fields)
  | vcmp (c : CoreId) (f : Fields)
  | vsel (c : CoreId) (f : Fields)
  | vrcp (c : CoreId) (f : Fields)
  | vrsq (c : CoreId) (f : Fields)
  | vexp (c : CoreId) (f : Fields)
  | vlog (c : CoreId) (f : Fields)
  | vhsum (c : CoreId) (f : Fields)
  | vhmax (c : CoreId) (f : Fields)
  | vsmx (c : CoreId) (f : Fields)
  | vsmxn (c : CoreId) (f : Fields)
  | vacc (c : CoreId) (f : Fields)
  | vmovs (c : CoreId) (f : Fields)
  | vbcast (c : CoreId) (f : Fields)
  | qcw (c : CoreId) (f : Fields)
  | qcb (c : CoreId) (f : Fields)
  | qcvt (c : CoreId) (f : Fields) (stop : Option Nat)
  | qflush (c : CoreId) (f : Fields) (stop : Option Nat)
  | waitu (c : CoreId) (f : Fields)
  | fencer (c : CoreId) (f : Fields)
  | arrive (c : CoreId) (f : Fields)
  | waitb (c : CoreId) (f : Fields)
  | rdsys (c : CoreId) (f : Fields)
  | trap (c : CoreId) (f : Fields)
  | tmask (c : CoreId) (f : Fields)
  | topk (c : CoreId) (f : Fields) (stop : Option Nat)
  -- tasks and cores
  | taskDispatch (c : CoreId) (record : BitVec 512)
  | taskRetire (c : CoreId)
  | halt (c : CoreId)
  | coreHalted (c : CoreId)
  | coreDeadTimeout (c : CoreId)
  | coreReset (c : CoreId) (q : Option Desc)
  | coupeReset (k : CoupeId) (q : Option Desc)
  -- bench and remote path
  | benchStarvation (c : CoreId) (row : BitVec 15) (kind : NarrowKind)
  | scrubRow (c : CoreId)
  | remoteReadRequest (c : CoreId)
  | remoteReadReply (c : CoreId)
  | windowRowArrival (c : CoreId)
  | rwriteAcknowledgement (c : CoreId)
  -- streams
  | streamRowArrival (k : CoupeId) (h : BitVec 16)
  | slackRefill (k : CoupeId) (h : BitVec 16)
  | creditReturn (k : CoupeId) (h : BitVec 16)
  | skidRow (k : CoupeId) (c : CoreId)
  | barrierArrival (a : Arrival)
  -- movers and memory
  | moverTransfer (m : MoverId) (w : BitVec 512) (n : Nat) (host : HostRows)
  | moverTransferComplete (m : MoverId) (host : HostRows)
  | transferDeadline (m : MoverId)
  | allocationRetry (p : Pool)
  | allocationWaitExpiry (p : Pool)
  | memoryPatrol (unit : Fin 24)
  -- ring engine
  | doorbellWrite (r : RingId) (count : BitVec 32)
  | pollRound (counts : List (RingId × BitVec 32))
  | descriptorFetch (ds : Option (List (BitVec 512)))
  | commit
  | bark
  -- admin descriptors and their later events
  | loadImage (q : Desc) (shards : List ShardRead)
  | unloadImage (q : Desc)
  | bind (q : Desc)
  | drain (q : Desc)
  | coupeDrained (k : CoupeId)
  | coupeCreate (q : Desc)
  | coupeSet (q : Desc)
  | coupeDestroy (q : Desc)
  | coupePreempt (q : Desc)
  | coupeQuiesced (k : CoupeId)
  | saveComplete (k : CoupeId)
  | coupeResume (q : Desc)
  | resumeComplete (k : CoupeId)
  | jobSwitch (k : CoupeId)
  | spanSet (q : Desc)
  | saltSet (q : Desc)
  | saltUnset (q : Desc)
  | expertMap (q : Desc) (map : HostRead)
  | selfTest (q : Desc)
  | selfTestComplete (target : BitVec 8) (index : BitVec 16) (finding : TestFinding)
  | repairSoft (q : Desc)
  | repairHard (q : Desc)
  | ringSet (q : Desc) (entry : BitVec 512)
  | power (q : Desc)
  | clock (q : Desc)
  | clockChangeApply (g : StandId)
  | ballast (q : Desc)
  | ballastUpdate (inputPower : BitVec 16)
  -- sequence descriptors
  | seqOpen (q : Desc) (tokens : HostRead)
  | seqClose (q : Desc)
  | cancel (q : Desc)
  | cancelImmediate (q : Desc)
  | cancelRelease (slot : SlotId)
  | pin (q : Desc)
  | unpin (q : Desc)
  | unpinAll (q : Desc)
  -- steps
  | step (q : Desc)
  | prefill (q : Desc) (src : HostRead)
  | verify (q : Desc) (src : HostRead)
  | fence (q : Desc)
  | fenceExpired (q : Desc)
  | nopDescriptor (q : Desc)
  | stepOpen (k : CoupeId) (rearm : HostRead)
  | thresholdRouteDispatch (k : CoupeId) (layer : BitVec 16)
  | sentinelEvaluation
  | shardDeadline (k : CoupeId)
  | stepReplay (k : CoupeId)
  | patrol (c : CoreId) (firstOk secondOk : Bool)
  | benchMoveComplete (c : CoreId)
  | scentRebuild
  -- failures
  | standLost (g : StandId) (cause : StandCause)
  | sramDieFailure (sec : SectorId) (die : BitVec 2)
  | deckStackFailure (sec : SectorId)
  | yardChannelFailure (ch : ChannelId)
  -- heat, power, resets
  | sensorPoll (readings : List (Sensor × Int))
  | thermalTrip (g : StandId)
  | tripWarmResetRelease (hottest : Int)
  | auxPowerOn
  | auxPowerLoss
  | mainPowerOn (mv : BitVec 17)
  | mainPowerLoss
  | railRampTimeout (rail : Rail) (n : BitVec 8) (reading : RailReading)
  | railRetry (rail : Rail) (n : BitVec 8)
  | railOutOfRegulation (rail : Rail) (n : BitVec 8) (reading : RailReading)
  | bringUpComplete (found : BringUp)
  | standCalibrated (g : StandId) (mv : BitVec 10)
  | coldReset (t : ResetTrigger)
  | warmReset (t : ResetTrigger)
  | perstRelease
  | functionLevelReset (f : BitVec 3)
  | busMasterEnable (f : BitVec 3)
  | hostLinkRetrain
  | hostLinkRestored (rate : BitVec 3) (width : BitVec 3)
  | cxlCacheEnableChange (on : Bool) (counts : List (RingId × BitVec 32))
  | wholeDeviceDrain
  | rangerWatchdog
  | telemetrySample
  | firmwareUpdate (ranger verified : Bool) (version : BitVec 16)
  | coordinateRecord (w : BitVec 128)
  -- set-up
  | setupLock (table : Option (List RingEntry))
  | warmRst (alsoLock : Bool)
  | registerWrite (f : BitVec 3) (offset : BitVec 20) (size : BitVec 4) (value : BitVec 64)
  -- links
  | linkSignalDetect (l : LinkId) (lanes : BitVec 4)
  | linkTrainComplete (l : LinkId) (lanes : BitVec 4) (half : Bool)
  | linkTrainTimeout (l : LinkId)
  | linkProbeRetry (l : LinkId)
  | linkAuth (l : LinkId) (r : AuthResult)
  | linkAuthTimeout (l : LinkId)
  | linkSignalLoss (l : LinkId)
  | linkErrorFallback (l : LinkId) (errors : LinkErrors)
  | linkFence (l : LinkId) (cause : FenceCause)
  | linkNak (l : LinkId) (ack : BitVec 8)
  | row (l : LinkId) (header : BitVec 128) (data : Row)
  | credit (l : LinkId) (header : BitVec 128) (count : BitVec 8)
  | outcome (l : LinkId) (header : BitVec 128) (xtag : BitVec 32) (attempt : BitVec 2) (nreq : BitVec 7)
      (status : BitVec 8) (statuses : List (BitVec 8)) (digest : Option (BitVec 64)) (count : BitVec 9)
  | flush (l : LinkId) (header : BitVec 128)
  | announce (l : LinkId) (header : BitVec 128) (members : List (BitVec 16 × BitVec 8)) (reach : BitVec 32)
  | bundle (l : LinkId) (header : BitVec 128) (layer : BitVec 16) (sender : BitVec 8) (pairs : List (BitVec 128))
  | spdm (l : LinkId) (message : BitVec 8)
  | coord (l : LinkId) (record : BitVec 128)
  -- Ethernet
  | ethWorkRequest (qp : BitVec 10) (func : BitVec 3) (port : Bool) (op : EthOp) (buf : EthBuffer) (cost : EthSent)
      (reply : EthReply)
  | ethFrameReceive (port : Bool) (frame : EthFrame)
  | seqImportComplete (qp : BitVec 10) (blocks : List (List (BitVec 32) × List (Row × Bool)))
  | ethPortLinkChange (port up : Bool)
  -- test access port and board
  | bypass
  | idcode
  | samplePreload
  | extest
  | clamp
  | highz
  | extestPulse
  | extestTrain
  | tapReset
  | flit (l : LinkId) (w : BitVec 2048) (corrected : Option (BitVec 8))
  | fastRetrainComplete (l : LinkId)
  | railInRegulation (rail : Rail) (n : BitVec 8)
  | auxReady
  | rangerRestart
  | releasePoint
  | wholeDeviceDrainTimeout
  | mrefLoss (second : Bool)
  | coldRstNRelease
  | entdaa (address : BitVec 7)
  deriving DecidableEq, Repr

end Sys2Proof
end

