-- ==== Sys2Proof/Decode.lean ====
section
/-! DEFINITION. From bits to commands. The opcode table gives no row a bit, so no word of it spells a command (log entry
2). The instruction words that core code is made of are the spec's own (R75–R77), and read and written here. -/

namespace Sys2Proof

/-- The command that a word spells by the table's bits: none, because no row of the table has a bit. -/
def decodeTableWord (_nbits _w : Nat) : Option Instr := none

namespace Machine

/-! ## The instruction word (R75–R77) -/

/-- CLASS × 64 + OP of an instruction word. -/
def Word.op (w : BitVec 64) : Nat := bits w 63 60 * 64 + bits w 59 54

/-- The other fields of an instruction word. -/
def Word.fields (w : BitVec 64) : Fields :=
  ⟨BitVec.ofNat 5 (bits w 53 49), BitVec.ofNat 5 (bits w 48 44), BitVec.ofNat 5 (bits w 43 39),
    BitVec.ofNat 3 (bits w 38 36), BitVec.ofNat 4 (bits w 35 32), BitVec.ofNat 32 (bits w 31 0)⟩

/-- The word of an operation with its fields. -/
def Word.make (op : Nat) (f : Fields) : BitVec 64 :=
  put 54 op ||| put 49 f.d.toNat ||| put 44 f.a.toNat ||| put 39 f.b.toNat ||| put 36 f.sel.toNat
    ||| put 32 f.mod.toNat ||| put 0 f.imm.toNat

/-- The command of an instruction word at core c (R75, R77); none where the CLASS is reserved or the OP unassigned. -/
def decodeCore (c : CoreId) (w : BitVec 64) : Option Instr :=
  let f := Word.fields w
  match Word.op w with
  | 0x000 => some (.nop c f) | 0x001 => some (.endTask c f) | 0x002 => some (.add c f) | 0x003 => some (.sub c f)
  | 0x004 => some (.and_ c f) | 0x005 => some (.or_ c f) | 0x006 => some (.xor_ c f) | 0x007 => some (.shl c f)
  | 0x008 => some (.shr c f) | 0x009 => some (.sar c f) | 0x00A => some (.mul c f) | 0x00B => some (.slt c f)
  | 0x00C => some (.sltu c f) | 0x00D => some (.seq c f) | 0x00E => some (.li c f) | 0x010 => some (.br c f)
  | 0x011 => some (.beq c f) | 0x012 => some (.bne c f) | 0x013 => some (.blt c f) | 0x014 => some (.bge c f)
  | 0x015 => some (.loop c f) | 0x016 => some (.jal c f) | 0x017 => some (.jr c f)
  | 0x040 => some (.pop c f none) | 0x041 => some (.push c f none) | 0x042 => some (.popv c f)
  | 0x043 => some (.pushv c f) | 0x044 => some (.mark c f) | 0x045 => some (.peek c f) | 0x046 => some (.dropm c f)
  | 0x080 => some (.bcopy c f none) | 0x081 => some (.rdw c f) | 0x082 => some (.ldv c f) | 0x083 => some (.stv c f)
  | 0x084 => some (.rread c f) | 0x085 => some (.rwrite c f none) | 0x086 => some (.wset c f)
  | 0x087 => some (.wclr c f) | 0x0C0 => some (.mreg c f none) | 0x0C2 => some (.mpass c f none none 0)
  | 0x100 => some (.vadd c f) | 0x101 => some (.vsub c f) | 0x102 => some (.vmul c f) | 0x103 => some (.vfma c f)
  | 0x104 => some (.vmin c f) | 0x105 => some (.vmax c f) | 0x106 => some (.vabs c f) | 0x107 => some (.vneg c f)
  | 0x108 => some (.vcsgn c f) | 0x109 => some (.vcmp c f) | 0x10A => some (.vsel c f) | 0x110 => some (.vrcp c f)
  | 0x111 => some (.vrsq c f) | 0x112 => some (.vexp c f) | 0x113 => some (.vlog c f) | 0x118 => some (.vhsum c f)
  | 0x119 => some (.vhmax c f) | 0x11A => some (.vsmx c f) | 0x11B => some (.vsmxn c f) | 0x120 => some (.vacc c f)
  | 0x121 => some (.vmovs c f) | 0x122 => some (.vbcast c f) | 0x140 => some (.qcw c f) | 0x141 => some (.qcb c f)
  | 0x142 => some (.qcvt c f none) | 0x143 => some (.qflush c f none) | 0x180 => some (.waitu c f)
  | 0x181 => some (.fencer c f) | 0x182 => some (.arrive c f) | 0x183 => some (.waitb c f) | 0x1C0 => some (.rdsys c f)
  | 0x1C1 => some (.trap c f) | 0x1D0 => some (.tmask c f) | 0x1D1 => some (.topk c f none) | _ => none

/-- The instruction word of a core instruction; none for any other command (R75, R77). -/
def encodeCore : Instr → Option (BitVec 64)
  | .nop _ f => some (Word.make 0x000 f)
  | .endTask _ f => some (Word.make 0x001 f)
  | .add _ f => some (Word.make 0x002 f)
  | .sub _ f => some (Word.make 0x003 f)
  | .and_ _ f => some (Word.make 0x004 f)
  | .or_ _ f => some (Word.make 0x005 f)
  | .xor_ _ f => some (Word.make 0x006 f)
  | .shl _ f => some (Word.make 0x007 f)
  | .shr _ f => some (Word.make 0x008 f)
  | .sar _ f => some (Word.make 0x009 f)
  | .mul _ f => some (Word.make 0x00A f)
  | .slt _ f => some (Word.make 0x00B f)
  | .sltu _ f => some (Word.make 0x00C f)
  | .seq _ f => some (Word.make 0x00D f)
  | .li _ f => some (Word.make 0x00E f)
  | .br _ f => some (Word.make 0x010 f)
  | .beq _ f => some (Word.make 0x011 f)
  | .bne _ f => some (Word.make 0x012 f)
  | .blt _ f => some (Word.make 0x013 f)
  | .bge _ f => some (Word.make 0x014 f)
  | .loop _ f => some (Word.make 0x015 f)
  | .jal _ f => some (Word.make 0x016 f)
  | .jr _ f => some (Word.make 0x017 f)
  | .pop _ f _ => some (Word.make 0x040 f)
  | .push _ f _ => some (Word.make 0x041 f)
  | .popv _ f => some (Word.make 0x042 f)
  | .pushv _ f => some (Word.make 0x043 f)
  | .mark _ f => some (Word.make 0x044 f)
  | .peek _ f => some (Word.make 0x045 f)
  | .dropm _ f => some (Word.make 0x046 f)
  | .bcopy _ f _ => some (Word.make 0x080 f)
  | .rdw _ f => some (Word.make 0x081 f)
  | .ldv _ f => some (Word.make 0x082 f)
  | .stv _ f => some (Word.make 0x083 f)
  | .rread _ f => some (Word.make 0x084 f)
  | .rwrite _ f _ => some (Word.make 0x085 f)
  | .wset _ f => some (Word.make 0x086 f)
  | .wclr _ f => some (Word.make 0x087 f)
  | .mreg _ f _ => some (Word.make 0x0C0 f)
  | .mpass _ f _ _ _ => some (Word.make 0x0C2 f)
  | .vadd _ f => some (Word.make 0x100 f)
  | .vsub _ f => some (Word.make 0x101 f)
  | .vmul _ f => some (Word.make 0x102 f)
  | .vfma _ f => some (Word.make 0x103 f)
  | .vmin _ f => some (Word.make 0x104 f)
  | .vmax _ f => some (Word.make 0x105 f)
  | .vabs _ f => some (Word.make 0x106 f)
  | .vneg _ f => some (Word.make 0x107 f)
  | .vcsgn _ f => some (Word.make 0x108 f)
  | .vcmp _ f => some (Word.make 0x109 f)
  | .vsel _ f => some (Word.make 0x10A f)
  | .vrcp _ f => some (Word.make 0x110 f)
  | .vrsq _ f => some (Word.make 0x111 f)
  | .vexp _ f => some (Word.make 0x112 f)
  | .vlog _ f => some (Word.make 0x113 f)
  | .vhsum _ f => some (Word.make 0x118 f)
  | .vhmax _ f => some (Word.make 0x119 f)
  | .vsmx _ f => some (Word.make 0x11A f)
  | .vsmxn _ f => some (Word.make 0x11B f)
  | .vacc _ f => some (Word.make 0x120 f)
  | .vmovs _ f => some (Word.make 0x121 f)
  | .vbcast _ f => some (Word.make 0x122 f)
  | .qcw _ f => some (Word.make 0x140 f)
  | .qcb _ f => some (Word.make 0x141 f)
  | .qcvt _ f _ => some (Word.make 0x142 f)
  | .qflush _ f _ => some (Word.make 0x143 f)
  | .waitu _ f => some (Word.make 0x180 f)
  | .fencer _ f => some (Word.make 0x181 f)
  | .arrive _ f => some (Word.make 0x182 f)
  | .waitb _ f => some (Word.make 0x183 f)
  | .rdsys _ f => some (Word.make 0x1C0 f)
  | .trap _ f => some (Word.make 0x1C1 f)
  | .tmask _ f => some (Word.make 0x1D0 f)
  | .topk _ f _ => some (Word.make 0x1D1 f)
  | _ => none

end Machine

end Sys2Proof
end

