-- ==== Sys2Proof/Config.lean ====
section
/-! DEFINITION. What the spec leaves to one module or leaves open: constants with no body, so that no
proof can see a value of them (log entries 3, 5 and 6). -/

namespace Sys2Proof

/-- What a residence record names (R164, R165): an entry of the tensor directory, its first tile and tile count, a
configuration core index, the deck-to-bench walk, and the first bench row of each of its areas (one in resident mode,
PREFETCH + 1 in streamed mode). -/
structure Residence where
  tensor : BitVec 16
  first : BitVec 16
  count : BitVec 16
  core : BitVec 12
  walk : BitVec 16
  row0 : BitVec 15
  row1 : BitVec 15
  row2 : BitVec 15
  deriving DecidableEq, Repr, Inhabited

/-- What a skid record names (R166): a walk, an entry of the tensor directory, a destination row, the members as
configuration core indices in chain order, and an entry of the barrier table. -/
structure Skid where
  walk : BitVec 16
  tensor : BitVec 16
  row : BitVec 15
  members : List (BitVec 12)
  barrier : BitVec 8
  deriving DecidableEq, Repr, Inhabited

end Sys2Proof

namespace Sys2Proof.Config

/-- A 64-bit value that the spec leaves open, the n-th one drawn (log entry 3). -/
opaque freeValue : Nat → BitVec 64

/-- The sign and payload of the NaN that operation `op` gives for two operands (R45: a fixed function
of the inputs; the spec states no payload; log entry 5). -/
opaque nanPayload : Nat → BitVec 32 → BitVec 32 → BitVec 32

/-- Which of the results within 1 ulp function `f` gives for an operand (R45; log entry 6). -/
opaque ulpPick : Nat → BitVec 32 → Nat

/-- The placement digest of the stands that a BIND assigns (R273: 64 bits computed from the sector and stand
numbers; the spec states no function; log entry 3). -/
opaque placementDigest : List (BitVec 7) → BitVec 64
/-- What the part measures at a time and no command reports: stand power (0–127), SRAM rail (128–135) and FAB rail
(136–143) voltages, input current (144), CORE voltages at bring-up (256–383) (R409; log entry 3). -/
opaque measured : Nat → BitVec 64 → BitVec 64
/-- Hard repairs that the PPR resources of a deck stack or of a yard channel's DIMM allow (R380 states no number; log
entry 3). -/
opaque pprLimit : Nat → Nat → Nat
/-- A word of TOPK's output rows beyond its entries (R249 gives no value; R29 makes it a function of the inputs; log entry
12): of the source rows, operand B, K and its place. -/
opaque topkUnused : List (BitVec 4096) → BitVec 64 → Nat → Nat → BitVec 64
/-- SERIAL, from eFuse (R413). -/
opaque serial : BitVec 64
/-- ROM_VER, from eFuse (R414). -/
opaque romVer : BitVec 16
/-- FW_VER of the verified ranger firmware (R414). -/
opaque fwVer : BitVec 16
/-- ETH_MAC0 and ETH_MAC1, from eFuse (R413). -/
opaque mac : Nat → BitVec 48
/-- The manufacturer code of IDCODE, from eFuse (R432). -/
opaque manufacturer : BitVec 11
/-- The ranger log's cold-reset count before the first start that the model sees (R209). -/
opaque firstColdCount : BitVec 32
/-- The ranger log's warm-reset count before then (R413). -/
opaque firstWarmCount : BitVec 32

/-- What a 128-bit residence record says: the spec names its fields and gives them no place (log entry 30). -/
opaque residence : BitVec 128 → Residence
/-- The first tile of layer L of a streamed residence record (R165 states none; log entry 136). -/
opaque layerTile : BitVec 128 → Nat → BitVec 16
/-- The coupe-scope barrier at which layer L's transfers of a configuration arrive (R165 gives it no place; log entry
136). -/
opaque layerBarrier : BitVec 4096 → Nat → BitVec 8
/-- Whether a configuration has experts, the stage of their templates, and for a layer its gate task's template and its
routing barrier (R254, R257, R260 give them no place in the record; log entry 139). -/
opaque hasExperts : BitVec 4096 → Bool
opaque expertStage : BitVec 4096 → Nat
opaque gateTemplate : BitVec 4096 → Nat → Nat
opaque routingBarrier : BitVec 4096 → Nat → BitVec 8
/-- The layer of a task template of a streamed configuration (R165; log entry 136). -/
opaque templateLayer : BitVec 1024 → Nat
/-- What record n of a SKIDS section of some rows says, its member run included: the spec names its fields and gives them no
place (log entry 30). -/
opaque skid : List (BitVec 4096) → Nat → Skid

end Sys2Proof.Config
end

