-- ==== Sys2Proof/Machine/Float.lean ====
section
/-! DEFINITION. FP32 arithmetic, exact values and rounding (R19, R27, R28, R30, R45, R46). -/

namespace Sys2Proof.Machine

/-- An FP32 value by its bits. -/
abbrev F32 := BitVec 32

/-- A decoded number: NaN, an infinity, or (−1)^neg × m × 2^e. -/
inductive Val where
  | nan
  | inf (neg : Bool)
  | fin (neg : Bool) (m : Nat) (e : Int)
  deriving DecidableEq, Repr

/-- An exact sum or product, m × 2^e. -/
structure Dy where
  m : Int
  e : Int
  deriving DecidableEq, Repr

namespace Dy
/-- Two values over one exponent. -/
def align (a b : Dy) : Int × Int × Int :=
  if a.e ≤ b.e then (a.m, b.m * 2 ^ (b.e - a.e).toNat, a.e)
  else (a.m * 2 ^ (a.e - b.e).toNat, b.m, b.e)
/-- Exact sum. -/
def add (a b : Dy) : Dy := let (x, y, e) := align a b; ⟨x + y, e⟩
/-- Exact product. -/
def mul (a b : Dy) : Dy := ⟨a.m * b.m, a.e + b.e⟩
/-- Exact difference. -/
def sub (a b : Dy) : Dy := add a ⟨-b.m, b.e⟩
/-- Comparison of exact values. -/
def lt (a b : Dy) : Bool := let (x, y, _) := align a b; decide (x < y)
/-- The magnitude. -/
def abs (a : Dy) : Dy := ⟨a.m.natAbs, a.e⟩
end Dy

/-- The exact value of a finite decoded number. -/
def Val.dy : Val → Dy
  | .fin neg m e => ⟨if neg then -(m : Int) else m, e⟩
  | _ => ⟨0, 0⟩

/-- An exact value as a decoded number; `zneg` is the sign of an exact zero. -/
def Dy.val (zneg : Bool) (d : Dy) : Val := .fin (if d.m = 0 then zneg else decide (d.m < 0)) d.m.natAbs d.e

/-- The magnitude of a decoded number. -/
def Val.abs : Val → Val
  | .nan => .nan
  | .inf _ => .inf false
  | .fin _ m e => .fin false m e

/-- The exact product, with IEEE 754's signs, infinities and NaNs. -/
def Val.mul : Val → Val → Val
  | .nan, _ => .nan
  | _, .nan => .nan
  | .inf s, .inf t => .inf (s ^^ t)
  | .inf s, .fin t m _ => if m = 0 then .nan else .inf (s ^^ t)
  | .fin s m _, .inf t => if m = 0 then .nan else .inf (s ^^ t)
  | .fin s m e, .fin t n f => .fin (s ^^ t) (m * n) (e + f)

/-- The exact sum; the sum of two −0 is −0, and every other exactly-zero sum +0 (R30). -/
def Val.add : Val → Val → Val
  | .nan, _ => .nan
  | _, .nan => .nan
  | .inf s, .inf t => if s = t then .inf s else .nan
  | .inf s, _ => .inf s
  | _, .inf t => .inf t
  | .fin s m e, .fin t n f =>
    let d := Dy.add (Val.fin s m e).dy (Val.fin t n f).dy
    Dy.val (s && t && d.m = 0) d

/-- Round half to even of n / 2^sh. -/
def roundHalfEven (n sh : Nat) : Nat :=
  if sh = 0 then n else
    let q := n >>> sh
    let r := n % 2 ^ sh
    let half := 2 ^ (sh - 1)
    if r < half then q else if half < r then q + 1 else if q % 2 = 0 then q else q + 1

/-- a × 2^d rounded half to even, for a shift of either sign. -/
def scaleRNE (a : Nat) (d : Int) : Nat :=
  if 0 ≤ d then a * 2 ^ d.toNat else roundHalfEven a (-d).toNat

/-- Bits of the FP32 magnitude n × 2^q, where q is the unit of the last place; n may be 2^24. -/
def f32Mag (n : Nat) (q : Int) : Nat :=
  let (n, q) := if 2 ^ 24 ≤ n then (n / 2, q + 1) else (n, q)
  if n < 2 ^ 23 then n
  else
    let e := (q + 150).toNat
    if 255 ≤ e then 0x7F800000 else e * 2 ^ 23 + (n - 2 ^ 23)

/-- An exact value rounded once to FP32 with RNE; `zneg` is the sign of an exact zero (R30). -/
def f32OfDy (zneg : Bool) (d : Dy) : F32 :=
  let a := d.m.natAbs
  if a = 0 then BitVec.ofNat 32 (if zneg then 2 ^ 31 else 0)
  else
    let top : Int := Nat.log2 a + d.e
    let q := max (top - 23) (-149)
    let n := scaleRNE a (d.e - q)
    BitVec.ofNat 32 (f32Mag n q + if d.m < 0 then 2 ^ 31 else 0)

namespace F32
def neg (x : F32) : Bool := bit x 31
def expo (x : F32) : Nat := bits x 30 23
def frac (x : F32) : Nat := bits x 22 0
def isNaN (x : F32) : Bool := x.expo = 255 && x.frac ≠ 0
def isInf (x : F32) : Bool := x.expo = 255 && x.frac = 0
def isZero (x : F32) : Bool := bits x 30 0 = 0
def posInf : F32 := 0x7F800000#32
def negInf : F32 := 0xFF800000#32
def one : F32 := 0x3F800000#32
def infOf (neg : Bool) : F32 := if neg then negInf else posInf
def zeroOf (neg : Bool) : F32 := if neg then 0x80000000#32 else 0#32
/-- |x|. -/
def abs (x : F32) : F32 := x &&& 0x7FFFFFFF#32
/-- −x. -/
def flip (x : F32) : F32 := x ^^^ 0x80000000#32

/-- The number an FP32 word stands for. -/
def val (x : F32) : Val :=
  if x.isNaN then .nan else if x.isInf then .inf x.neg
  else if x.expo = 0 then .fin x.neg x.frac (-149)
  else .fin x.neg (x.frac + 2 ^ 23) (x.expo - 150)

/-- The NaN of operation `op`: quiet, with sign and payload left open (log entry 5). -/
def nanOf (op : Nat) (a b : F32) : F32 :=
  0x7FC00000#32 ||| (Config.nanPayload op a b &&& 0x803FFFFF#32)

/-- Addition, RNE (R30, R45). -/
def add (a b : F32) : F32 :=
  match a.val, b.val with
  | .nan, _ => nanOf 0 a b
  | _, .nan => nanOf 0 a b
  | .inf s, .inf t => if s = t then infOf s else nanOf 0 a b
  | .inf s, _ => infOf s
  | _, .inf t => infOf t
  | .fin s m e, .fin t n f =>
    f32OfDy (s && t) (Dy.add (Val.fin s m e).dy (Val.fin t n f).dy)

/-- FP32 plus an exact product, one rounding (R36). -/
def addVal (a : F32) (p : Val) : F32 :=
  match a.val, p with
  | .nan, _ => nanOf 11 a 0
  | _, .nan => nanOf 11 a 0
  | .inf s, .inf t => if s = t then infOf s else nanOf 11 a 0
  | .inf s, _ => infOf s
  | _, .inf t => infOf t
  | .fin s m e, .fin t n f => f32OfDy (s && t) (Dy.add (Val.fin s m e).dy (Val.fin t n f).dy)

/-- Subtraction, RNE. -/
def sub (a b : F32) : F32 := if b.isNaN then nanOf 1 a b else if a.isNaN then nanOf 1 a b else add a b.flip

/-- Multiplication, RNE. -/
def mul (a b : F32) : F32 :=
  match a.val, b.val with
  | .nan, _ => nanOf 2 a b
  | _, .nan => nanOf 2 a b
  | .inf s, .inf t => infOf (s ^^ t)
  | .inf s, .fin t n _ => if n = 0 then nanOf 2 a b else infOf (s ^^ t)
  | .fin s m _, .inf t => if m = 0 then nanOf 2 a b else infOf (s ^^ t)
  | .fin s m e, .fin t n f =>
    f32OfDy (s ^^ t) (Dy.mul (Val.fin s m e).dy (Val.fin t n f).dy)

/-- Fused multiply-add a × b + c, one rounding (R45); a NaN may depend on all three operands. -/
def fma (a b c : F32) : F32 :=
  match a.val, b.val, c.val with
  | .fin s m e, .fin t n f, .fin u k g =>
    let p := Dy.mul (Val.fin s m e).dy (Val.fin t n f).dy
    f32OfDy ((s ^^ t) && u) (Dy.add p (Val.fin u k g).dy)
  | .fin _ _ _, .fin _ _ _, .inf u => infOf u
  | _, _, .nan => nanOf (16 + c.toNat) a b
  | _, _, _ =>
    let p := mul a b
    if p.isNaN then nanOf (16 + c.toNat) a b
    else if p.isInf && c.isInf && (p.neg != c.neg) then nanOf (16 + c.toNat) a b
    else p

/-- The order of two numbers, with −0 below +0 (R45, min and max). -/
def ltTotal (a b : F32) : Bool :=
  let key (x : F32) : Int := if x.neg then -1 - (bits x 30 0 : Int) else bits x 30 0
  decide (key a < key b)

/-- Numeric comparison (IEEE 754: −0 = +0, NaN compares false). -/
def lt (a b : F32) : Bool :=
  !a.isNaN && !b.isNaN && !(a.isZero && b.isZero) && ltTotal a b
/-- Numeric equality. -/
def eq (a b : F32) : Bool :=
  !a.isNaN && !b.isNaN && ((a.isZero && b.isZero) || a == b)
/-- Numeric ≤. -/
def le (a b : F32) : Bool := lt a b || eq a b

/-- min and max: exact, a NaN operand gives NaN, −0 is less than +0 (R45). -/
def min (a b : F32) : F32 :=
  if a.isNaN || b.isNaN then nanOf 4 a b else if ltTotal b a then b else a
def max (a b : F32) : F32 :=
  if a.isNaN || b.isNaN then nanOf 5 a b else if ltTotal a b then b else a

/-- Magnitude of `a` with the sign of `b` (VCSGN copies the sign of B onto A; log entry 7). -/
def copySign (a b : F32) : F32 := (a &&& 0x7FFFFFFF#32) ||| (b &&& 0x80000000#32)

/-- The magnitude bits of n × 2^(−k) rounded toward zero, and whether nothing was lost. -/
def truncBits (n : Nat) (k : Int) : Nat × Bool :=
  if n = 0 then (0, true)
  else
    let top : Int := Nat.log2 n - k
    let q := Max.max (top - 23) (-149)
    let d := -k - q
    if 0 ≤ d then (f32Mag (n * 2 ^ d.toNat) q, true)
    else (f32Mag (n >>> (-d).toNat) q, n % 2 ^ (-d).toNat = 0)

/-- One of the FP32 values within 1 ulp (below the normal range: one subnormal spacing) of the positive
value n × 2^(−k), of which `exact` says that it is the value itself and not a lower bracket (R45, log entry 6). -/
def ulpOf (f : Nat) (x : F32) (n : Nat) (k : Int) (exact : Bool) : Nat :=
  let (lo, e) := truncBits n k
  let cands := if e && exact then [lo - 1, lo, lo + 1] else [lo, lo + 1]
  cands.getD (Config.ulpPick f x % cands.length) lo

/-- 1/x within 1 ulp (R45). -/
def recip (x : F32) : F32 :=
  match x.val with
  | .nan => nanOf 6 x 0
  | .inf s => zeroOf s
  | .fin s m e =>
    if m = 0 then infOf s
    else BitVec.ofNat 32 (Nat.min (ulpOf 0 x (2 ^ 80 / m) (80 + e) (2 ^ 80 % m = 0)) 0x7F800000
      + if s then 2 ^ 31 else 0)

/-- Integer square root of n, deciding bits i−1 down to 0 above `r`. -/
def isqrt (n : Nat) : Nat → Nat → Nat
  | 0, r => r
  | i + 1, r => isqrt n i (if (r + 2 ^ i) * (r + 2 ^ i) ≤ n then r + 2 ^ i else r)

/-- 1/√x within 1 ulp (R45). -/
def rsqrt (x : F32) : F32 :=
  match x.val with
  | .nan => nanOf 7 x 0
  | .inf s => if s then nanOf 7 x 0 else zeroOf false
  | .fin s m e =>
    if m = 0 then infOf s
    else if s then nanOf 7 x 0
    else
      -- e is made even: x = m' × 2^(2h)
      let odd := e % 2 ≠ 0
      let m' := if odd then 2 * m else m
      let h := (if odd then e - 1 else e) / 2
      let r := isqrt (2 ^ 160 / m') 81 0
      BitVec.ofNat 32 (ulpOf 1 x r (80 + h) (r * r * m' = 2 ^ 160))

/-- ln 2 × 2^192, rounded down. -/
def ln2Fix : Nat := 0xB17217F7D1CF79ABC9E3B39803F2F6AF40F343267298B62D

/-- Σ r^i / i! from term i on, in fixed point with 192 bits. -/
def expSeries (r : Nat) : Nat → Nat → Nat → Nat
  | 0, _, _ => 0
  | fuel + 1, i, t => t + expSeries r fuel (i + 1) (t * r / 2 ^ 192 / (i + 1))

/-- e^x within 1 ulp; x above 88.72284 gives +∞ (R45). -/
def exp (x : F32) : F32 :=
  match x.val with
  | .nan => nanOf 8 x 0
  | .inf s => if s then zeroOf false else posInf
  | .fin s m e =>
    if m = 0 then BitVec.ofNat 32 (ulpOf 2 x 1 0 true)
    else if Dy.lt ⟨8872284, 0⟩ (Dy.mul ⟨100000, 0⟩ (Val.fin s m e).dy) then posInf
    else if Dy.lt (Val.fin s m e).dy ⟨-110, 0⟩ then BitVec.ofNat 32 (Config.ulpPick 2 x % 2)
    else
      let fix : Nat := if 0 ≤ e + 192 then m * 2 ^ (e + 192).toNat else m >>> (-(e + 192)).toNat
      -- x = n ln 2 + r with 0 ≤ r < ln 2
      let n : Int := if s then -((fix / ln2Fix + 1 : Nat) : Int) else (fix / ln2Fix : Nat)
      let r : Nat := if s then (fix / ln2Fix + 1) * ln2Fix - fix else fix % ln2Fix
      BitVec.ofNat 32 (Nat.min (ulpOf 2 x (expSeries r 60 0 (2 ^ 192)) (192 - n) false) 0x7F800000)

/-- Σ t^(2i+1) / (2i+1) in fixed point with 192 bits; `u` is t². -/
def atanhSeries (u : Nat) : Nat → Nat → Nat → Nat
  | 0, _, _ => 0
  | fuel + 1, i, t => t / (2 * i + 1) + atanhSeries u fuel (i + 1) (t * u / 2 ^ 192)

/-- The natural logarithm within 1 ulp (R45). -/
def log (x : F32) : F32 :=
  match x.val with
  | .nan => nanOf 9 x 0
  | .inf s => if s then nanOf 9 x 0 else posInf
  | .fin s m e =>
    if m = 0 then negInf
    else if s then nanOf 9 x 0
    else
      let l := Nat.log2 m
      let ex : Int := e + l
      -- x = f × 2^ex with 1 ≤ f < 2; f = m / 2^l
      let t := (m - 2 ^ l) * 2 ^ 192 / (m + 2 ^ l)
      let lf := 2 * atanhSeries (t * t / 2 ^ 192) 70 0 t
      let v : Int := ex * ln2Fix + lf
      if v = 0 then 0#32
      else BitVec.ofNat 32 (ulpOf 3 x v.natAbs 192 false + if v < 0 then 2 ^ 31 else 0)

end F32

/-- One level of the fixed tree of R46: lanes 2i and 2i+1 combined. -/
def pairUp (f : F32 → F32 → F32) : List F32 → List F32
  | a :: b :: rest => f a b :: pairUp f rest
  | l => l

/-- The horizontal reduction of one vector over six levels (R46). -/
def hreduce (f : F32 → F32 → F32) (v : List F32) : F32 :=
  ((pairUp f (pairUp f (pairUp f (pairUp f (pairUp f (pairUp f v)))))).headD 0#32)

/-- The softmax step of R47 on running maximum and sum. -/
def softmaxStep (m s : F32) (x : List F32) : F32 × F32 :=
  let mx := hreduce F32.max x
  let mNew := F32.max m mx
  if mNew = F32.negInf then (mNew, 0#32)
  else
    let ev := x.map (fun v => F32.exp (F32.sub v mNew))
    let c := F32.exp (F32.sub m mNew)
    (mNew, F32.fma s c (hreduce F32.add ev))

/-- The pair combination of R250: s := s1 × exp(m1 − m) + s2 × exp(m2 − m), each operation rounded. -/
def lseCombine (p q : F32 × F32) : F32 × F32 :=
  let m := F32.max p.1 q.1
  (m, F32.add (F32.mul p.2 (F32.exp (F32.sub p.1 m))) (F32.mul q.2 (F32.exp (F32.sub q.1 m))))

end Sys2Proof.Machine
end

