-- ==== Sys2Proof/Machine/Formats.lean ====
section
/-! DEFINITION. Number formats, their placement in rows, conversion and quantisation (R9–R24). -/

namespace Sys2Proof.Machine

namespace Fmt
/-- Format codes that R9 assigns. -/
def known (f : Nat) : Bool :=
  [0x00, 0x01, 0x02, 0x10, 0x11, 0x18, 0x19, 0x1A, 0x1C, 0x1D, 0x1E, 0x22, 0x23, 0x24].contains f
/-- The KB formats. -/
def isKB (f : Nat) : Bool := f = 0x22 || f = 0x23 || f = 0x24
/-- The MX formats, with a shared scale per block of 32. -/
def isMX (f : Nat) : Bool := f = 0x18 || f = 0x19 || f = 0x1A || f = 0x1C || f = 0x1D || f = 0x1E
/-- Formats with a scale plane (R11). -/
def scaled (f : Nat) : Bool := isKB f || isMX f
/-- Permitted on the weight side by a matrix instruction (R9, R26); MXFP6 is stored and widened. -/
def weightOk (f : Nat) : Bool := known f && f ≠ 0x00
/-- Permitted on the activation side (R9, R26). -/
def actOk (f : Nat) : Bool := known f && f ≠ 0x00 && !isKB f && f ≠ 0x1C && f ≠ 0x1D
/-- Permitted as quantiser output (R9): every recognised format. -/
def outOk (f : Nat) : Bool := known f
/-- 16-bit operand formats, which take the wide path (R28). -/
def wide (f : Nat) : Bool := f = 0x01 || f = 0x02
/-- Elements per 512-byte row (R9). -/
def perRow (f : Nat) : Nat :=
  match f with
  | 0x00 => 128 | 0x01 => 256 | 0x02 => 256 | 0x1C => 640 | 0x1D => 640 | 0x1E => 1024
  | 0x22 => 2048 | 0x23 => 1280 | 0x24 => 1024 | _ => 512
/-- Bits of one element. -/
def ebits (f : Nat) : Nat :=
  match f with
  | 0x00 => 32 | 0x01 => 16 | 0x02 => 16 | 0x1C => 6 | 0x1D => 6 | 0x1E => 4
  | 0x22 => 2 | 0x23 => 3 | 0x24 => 4 | _ => 8
/-- Bit position of element i in a row (R12). -/
def bitPos (f i : Nat) : Nat :=
  match f with
  | 0x1C => 32 * (i / 5) + 6 * (i % 5)
  | 0x1D => 32 * (i / 5) + 6 * (i % 5)
  | 0x23 => 32 * (i / 10) + 3 * (i % 10)
  | _ => ebits f * i
/-- Mantissa bits of an element. -/
def mant (f : Nat) : Nat :=
  match f with
  | 0x00 => 23 | 0x01 => 7 | 0x02 => 10 | 0x10 => 3 | 0x18 => 3 | 0x11 => 2 | 0x19 => 2
  | 0x1C => 2 | 0x1D => 3 | 0x1E => 1 | _ => 0
/-- Exponent bits of an element. -/
def expb (f : Nat) : Nat :=
  match f with
  | 0x00 => 8 | 0x01 => 8 | 0x02 => 5 | 0x10 => 4 | 0x18 => 4 | 0x11 => 5 | 0x19 => 5
  | 0x1C => 3 | 0x1D => 2 | 0x1E => 2 | _ => 0
/-- Exponent bias (R10). -/
def bias (f : Nat) : Int :=
  match f with
  | 0x00 => 127 | 0x01 => 127 | 0x02 => 15 | 0x10 => 7 | 0x18 => 7 | 0x11 => 15 | 0x19 => 15
  | 0x1C => 3 | 0x1D => 1 | 0x1E => 1 | _ => 0
/-- Formats with IEEE-style infinities and NaNs. -/
def hasInf (f : Nat) : Bool := f = 0x00 || f = 0x01 || f = 0x02 || f = 0x11 || f = 0x19
/-- E4M3, scaled or not: NaN at 0bS_1111_111 and no infinity. -/
def isE4M3 (f : Nat) : Bool := f = 0x10 || f = 0x18
/-- Exponent of the largest normal element value (R22). -/
def emax (f : Nat) : Int :=
  match f with
  | 0x10 => 8 | 0x18 => 8 | 0x11 => 15 | 0x19 => 15 | 0x1E => 2 | 0x1C => 4 | 0x1D => 2 | _ => 0
/-- Largest finite magnitude, for a value of sign `neg` (R10, R19). -/
def maxfin (f : Nat) (neg : Bool) : Dy :=
  if f = 0x1A then (if neg then ⟨128, -6⟩ else ⟨127, -6⟩)
  else if isE4M3 f then ⟨14, 5⟩
  else
    let top : Int := 2 ^ expb f - (if hasInf f then 2 else 1) - bias f
    ⟨2 ^ (mant f + 1) - 1, top - mant f⟩
/-- canonical_nan (R19); 0 where the format has no NaN. -/
def canonicalNaN (f : Nat) : Nat :=
  match f with
  | 0x00 => 0x7FC00000 | 0x01 => 0x7FC0 | 0x02 => 0x7E00 | 0x11 => 0x7E | 0x19 => 0x7E
  | 0x10 => 0x7F | 0x18 => 0x7F | _ => 0
end Fmt

/-- A floating-point code with `eb` exponent bits and `mb` mantissa bits, all of them finite. -/
def floatVal (eb mb : Nat) (bias : Int) (code : Nat) : Val :=
  let s := code.testBit (eb + mb)
  let e := code >>> mb % 2 ^ eb
  let m := code % 2 ^ mb
  if e = 0 then .fin s m (1 - bias - mb) else .fin s (m + 2 ^ mb) (e - bias - mb)

/-- The number an element code of a non-KB format stands for, before any block scale (R10). -/
def elemVal (f code : Nat) : Val :=
  if f = 0x1A then
    if 128 ≤ code % 256 then .fin true (256 - code % 256) (-6) else .fin false (code % 256) (-6)
  else
    let eb := Fmt.expb f
    let mb := Fmt.mant f
    let e := code >>> mb % 2 ^ eb
    let m := code % 2 ^ mb
    if Fmt.isE4M3 f && code % 128 = 127 then .nan
    else if Fmt.hasInf f && e = 2 ^ eb - 1 then
      if m = 0 then .inf (code.testBit (eb + mb)) else .nan
    else floatVal eb mb (Fmt.bias f) code

/-- An E4M3 code, as codebooks and knots use it. -/
def e4m3 (code : Nat) : Val := elemVal 0x10 code

/-- Element i of a row (R12). -/
def rowElem (f : Nat) (r : Row) (i : Nat) : Nat := (r.toNat >>> Fmt.bitPos f i) % 2 ^ Fmt.ebits f

/-- A row holding the codes of elements 0, 1, … ; unused bits are zero (R13). -/
def rowOfElems (f : Nat) (codes : List Nat) : Row :=
  BitVec.ofNat 4096
    ((codes.zipIdx.map (fun c => (c.1 % 2 ^ Fmt.ebits f) <<< Fmt.bitPos f c.2)).foldl (· ||| ·) 0)

/-- A value times 2^x. -/
def Val.scale (v : Val) (x : Int) : Val :=
  match v with
  | .fin s m e => .fin s m (e + x)
  | w => w

/-- The value with its FP32 bits, exactly, for the formats that widen to FP32. -/
def Val.toF32 : Val → F32
  | .nan => 0x7FC00000#32
  | .inf s => F32.infOf s
  | .fin s m e => f32OfDy s (Val.fin s m e).dy

/-- The FP32 word that a BF16 or FP16 element widens to; a NaN that is only widened keeps its sign and
its payload bits at the top of the fraction (log entry 8). -/
def widen16 (f code : Nat) : F32 :=
  if f = 0x01 then BitVec.ofNat 32 (code <<< 16)
  else
    match elemVal 0x02 code with
    | .nan => BitVec.ofNat 32 ((code >>> 15) <<< 31 ||| 0x7F800000 ||| (code % 1024) <<< 13)
    | v => v.toF32

/-- One step of the rounding LFSR (R20). -/
def lfsrStep (l : BitVec 32) : BitVec 32 :=
  if bit l 0 then (l >>> 1) ^^^ 0x80200003#32 else l >>> 1

/-- n steps. -/
def lfsrSteps : Nat → BitVec 32 → BitVec 32
  | 0, l => l
  | n + 1, l => lfsrSteps n (lfsrStep l)

/-- draw24: 32 steps, then bits [31:8] (R20). -/
def draw24 (l : BitVec 32) : Nat × BitVec 32 :=
  let l' := lfsrSteps 32 l
  (bits l' 31 8, l')

/-- What a conversion gives: the code, the elements saturated, whether a NaN was met, the LFSR after. -/
structure Conv where
  code : Nat
  qsat : Nat
  nan : Bool
  lfsr : BitVec 32
  deriving DecidableEq, Repr

/-- The code of the sign and rounded magnitude n × 2^(e−M), n at most 2^(M+1) (R19). -/
def encodeMag (f : Nat) (neg : Bool) (n : Nat) (e : Int) : Nat :=
  if f = 0x1A then if neg then (256 - n) % 256 else n
  else
    let M := Fmt.mant f
    let (n, e) := if 2 ^ (M + 1) ≤ n then (n / 2, e + 1) else (n, e)
    let body := if n < 2 ^ M then n else (e + Fmt.bias f).toNat * 2 ^ M + (n - 2 ^ M)
    body + b2n neg * 2 ^ (Fmt.ebits f - 1)

/-- The code of an exact value of the format, such as maxfin. -/
def encodeDy (f : Nat) (neg : Bool) (d : Dy) : Nat :=
  if f = 0x1A then encodeMag f neg d.m.natAbs 0
  else
    let a := d.m.natAbs
    let e : Int := Nat.log2 a + d.e
    encodeMag f neg (scaleRNE a (d.e - (e - Fmt.mant f))) e

/-- floor(m × 2^d + r / 2^24). -/
def floorPlus (m : Nat) (d : Int) (r : Nat) : Nat :=
  if 0 ≤ d + 24 then (m * 2 ^ (d + 24).toNat + r) >>> 24
  else (m + r * 2 ^ (-(d + 24)).toNat) >>> (-d).toNat

/-- to_narrow (R19): `v` is the input, already divided by the block's 2^X. -/
def toNarrow (f : Nat) (stoch : Bool) (v : Val) (lfsr : BitVec 32) : Conv :=
  let (r, l) := if stoch then draw24 lfsr else (0, lfsr)
  match v with
  | .nan => ⟨Fmt.canonicalNaN f, 0, true, l⟩
  | .inf s =>
    if Fmt.hasInf f then ⟨(2 ^ Fmt.expb f - 1) * 2 ^ Fmt.mant f + b2n s * 2 ^ (Fmt.ebits f - 1), 0, false, l⟩
    else ⟨encodeDy f s (Fmt.maxfin f s), 1, false, l⟩
  | .fin s m ex =>
    if m = 0 then ⟨if f = 0x1A then 0 else b2n s * 2 ^ (Fmt.ebits f - 1), 0, false, l⟩
    else
      let M : Int := Fmt.mant f
      let e : Int := if f = 0x1A then -6 else max (Nat.log2 m + ex) (1 - Fmt.bias f)
      let d := ex - (e - M)
      let n := if stoch then floorPlus m d r else scaleRNE m d
      if Dy.lt (Fmt.maxfin f s) ⟨n, e - M⟩ then ⟨encodeDy f s (Fmt.maxfin f s), 1, false, l⟩
      else ⟨encodeMag f s n e, 0, false, l⟩

/-- floor(log2 |v|) of a nonzero finite value. -/
def Val.log2 : Val → Int
  | .fin _ m e => Nat.log2 m + e
  | _ => 0

/-- The value of |x| as an exact number; callers exclude NaN and infinity. -/
def Val.mag (v : Val) : Dy := v.dy.abs

/-- Whether |a| < |b| for non-NaN values, +∞ being the largest. -/
def magLt (a b : Val) : Bool :=
  match a, b with
  | .inf _, _ => false
  | _, .inf _ => true
  | x, y => Dy.lt x.mag y.mag

/-- Clamp to [−127, 127]. -/
def clampX (x : Int) : Int := max (-127) (min 127 x)

/-- The shared scale exponent of an MX block (R22). -/
def mxScale (f : Nat) (xs : List Val) : Int :=
  let amax := xs.foldl (fun a v => if v = .nan then a else if magLt a v then v else a) (.fin false 0 0)
  match amax with
  | .inf _ => 127
  | .fin _ 0 _ => 0
  | v => clampX (v.log2 - Fmt.emax f)

/-- What converting a list of elements gives. -/
structure ConvList where
  codes : List Nat
  qsat : Nat
  nan : Bool
  lfsr : BitVec 32
  deriving DecidableEq, Repr

/-- Elements converted in ascending order (R21). -/
def toNarrowList (f : Nat) (stoch : Bool) : List Val → BitVec 32 → ConvList
  | [], l => ⟨[], 0, false, l⟩
  | v :: vs, l =>
    let c := toNarrow f stoch v l
    let r := toNarrowList f stoch vs c.lfsr
    ⟨c.code :: r.codes, c.qsat + r.qsat, c.nan || r.nan, r.lfsr⟩

/-- A codebook record (R16). -/
structure Codebook where
  tag : BitVec 32
  nent : Nat
  fmt : Nat
  entry : List Nat
  deriving DecidableEq, Repr

/-- A 256-bit record read as a codebook. -/
def Codebook.ofBits (w : BitVec 256) : Codebook where
  tag := BitVec.ofNat 32 (bits w 255 224)
  nent := bits w 143 136
  fmt := bits w 135 128
  entry := (List.range 16).map (fun k => bits w (8 * k + 7) (8 * k))

/-- The checks of R16 on a codebook record. -/
def codebookOk (w : BitVec 256) : Bool :=
  let c := Codebook.ofBits w
  Fmt.isKB c.fmt
    && c.nent = (if c.fmt = 0x24 then 16 else if c.fmt = 0x23 then 8 else 4)
    && (c.entry.drop c.nent).all (· = 0)
    && c.entry.all (fun e => e % 128 ≠ 127)
    && bits w 223 144 = 0

/-- The exact values of a codebook's entries. -/
def Codebook.vals (c : Codebook) : List Dy := (c.entry.take c.nent).map (fun e => (e4m3 e).dy)

/-- Distinct values in ascending order (ranks, R16). -/
def insertDy (d : Dy) : List Dy → List Dy
  | [] => [d]
  | x :: xs => if Dy.lt d x then d :: x :: xs else if Dy.lt x d then x :: insertDy d xs else x :: xs
def Codebook.ranks (c : Codebook) : List Dy := c.vals.foldl (fun acc d => insertDy d acc) []

def Dy.eqv (a b : Dy) : Bool := !Dy.lt a b && !Dy.lt b a

/-- Lowest index holding a value. -/
def Codebook.indexOf (c : Codebook) (d : Dy) : Nat := c.vals.findIdx (fun x => Dy.eqv x d)

/-- The two adjacent ranks around y, with the rank of the lower one. -/
def around (y : Dy) : List Dy → Nat → Option (Nat × Dy × Dy)
  | lo :: hi :: rest, k => if Dy.lt y hi then some (k, lo, hi) else around y (hi :: rest) (k + 1)
  | _, _ => none

/-- choose(y) of R23, with the draw r already taken. -/
def Codebook.choose (c : Codebook) (stoch : Bool) (r : Nat) (y : Dy) : Nat :=
  if c.vals.any (fun x => Dy.eqv x y) then c.indexOf y
  else
    match around y c.ranks 0 with
    | none => 0
    | some (k, lo, hi) =>
      let up : Bool :=
        if stoch then
          -- draw × (hi − lo) < (y − lo) × 2^24
          Dy.lt (Dy.mul ⟨r, 0⟩ (Dy.sub hi lo)) (Dy.mul ⟨2 ^ 24, 0⟩ (Dy.sub y lo))
        else
          let dl := Dy.sub y lo
          let dh := Dy.sub hi y
          if Dy.lt dl dh then false else if Dy.lt dh dl then true else k % 2 = 1
      c.indexOf (if up then hi else lo)

/-- The smallest X with a ≤ cbabs × 2^X, clamped (R23). A codebook of zeros only has no such X for a > 0: DESIGN CHOICE, the
largest, 127 (log entry 118). -/
def kbScale (cbabs : Dy) (a : Val) : Int :=
  match a with
  | .nan => 0
  | .inf _ => 127
  | .fin s m e =>
    if m = 0 then 0
    else if cbabs.m = 0 then 127
    else
      let est : Int := (Nat.log2 m + e) - (Nat.log2 cbabs.m.natAbs + cbabs.e)
      let cand := [est - 1, est, est + 1, est + 2]
      let x := (cand.find? (fun x => !Dy.lt ⟨cbabs.m.natAbs, cbabs.e + x⟩ (Val.fin s m e).mag)).getD (est + 2)
      clampX x

/-- What quantising one 128-element KB group gives (R23). -/
structure KBGroup where
  codes : List Nat
  scales : List Nat
  knot : Nat
  kovf : Nat
  qsat : Nat
  nan : Bool
  lfsr : BitVec 32
  deriving DecidableEq, Repr

/-- x / 2^X of R23: exact, or below the FP32 range one of the two neighbours (log entry 6). -/
def kbScaled (v : Val) (x : Int) : Dy :=
  match v.scale (-x) with
  | .fin s m e =>
    if -149 ≤ e || m % 2 ^ (-149 - e).toNat = 0 then (Val.fin s m e).dy
    else (Val.fin s (m / 2 ^ (-149 - e).toNat + Config.ulpPick 4 v.toF32 % 2) (-149)).dy
  | w => w.dy

/-- One element's code: `y` is the scaled input, none for ±∞ of sign `neg` (R23). -/
def kbCode (c : Codebook) (stoch : Bool) (r : Nat) (v : Val) (x : Int) : Nat × Bool :=
  let cbmin := c.ranks.headD ⟨0, 0⟩
  let cbmax := c.ranks.getLastD ⟨0, 0⟩
  match v with
  | .inf s => (c.indexOf (if s then cbmin else cbmax), true)
  | w =>
    let y := kbScaled w x
    if Dy.lt y cbmin then (c.indexOf cbmin, true)
    else if Dy.lt cbmax y then (c.indexOf cbmax, true)
    else (c.choose stoch r y, false)

/-- Codes of the elements in ascending order, each with its draw. -/
def kbCodes (c : Codebook) (stoch : Bool) (scale : Nat → Int) (p : Option Nat) :
    List (Nat × Bool × Val) → BitVec 32 → List Nat × Nat × BitVec 32
  | [], l => ([], 0, l)
  | (i, isNan, v) :: rest, l =>
    let (r, l) := if stoch then draw24 l else (0, l)
    let (code, clip) := kbCode c stoch r v (scale (i / 32))
    let (cs, q, l') := kbCodes c stoch scale p rest l
    (code :: cs, q + (if clip && p ≠ some i && !isNan then 1 else 0), l')

/-- KB quantisation of one group (R23). -/
def kbGroup (c : Codebook) (stoch : Bool) (ot : Nat) (xs : List F32) (lfsr : BitVec 32) : KBGroup :=
  let isNan := xs.map F32.isNaN
  let x0 := xs.map (fun x => if x.isNaN then 0#32 else x)
  let sum := x0.foldl (fun mu x => F32.add mu x.abs) 0#32
  let bound : Val :=
    if ot = 0xFF then .inf false
    else
      match sum.val with
      | .fin s m e => (f32OfDy false ((Val.fin s m (e - 7 + ot - 127)).dy)).val
      | _ => .inf false
  let vals := x0.map F32.val
  let out := vals.map (fun v => magLt bound v)
  let idx := (List.range 128).filter (fun i => out.getD i false)
  let p := idx.foldl (fun best i =>
    match best with
    | none => some i
    | some b => if magLt (vals.getD b .nan) (vals.getD i .nan) then some i else some b) none
  let ranks := c.ranks
  let cmin := (ranks.headD ⟨0, 0⟩).abs
  let cmax := (ranks.getLastD ⟨0, 0⟩).abs
  let cbabs := if Dy.lt cmin cmax then cmax else cmin
  let xOf (j : Nat) : Int :=
    let blk := (List.range 32).map (fun k => if out.getD (32 * j + k) false then Val.fin false 0 0 else vals.getD (32 * j + k) (.fin false 0 0))
    kbScale cbabs (blk.foldl (fun a v => if magLt a v then v else a) (.fin false 0 0))
  let xs4 := (List.range 4).map xOf
  let scale (j : Nat) := xs4.getD j 0
  let elems := (List.range 128).map (fun i => (i, isNan.getD i false, vals.getD i (.fin false 0 0)))
  let (codes, q, l) := kbCodes c stoch scale p elems lfsr
  let (knot, kq, l') :=
    match p with
    | none => (0, 0, l)
    | some i =>
      let k := toNarrow 0x10 stoch ((vals.getD i .nan).scale (-(scale (i / 32)))) l
      (0x8000 + i * 256 + k.code, k.qsat, k.lfsr)
  { codes := codes, scales := xs4.map (fun x => (127 + x).toNat), knot := knot,
    kovf := if 1 < idx.length then 1 else 0, qsat := q + kq, nan := isNan.any id, lfsr := l' }

/-- Fields of the quantiser control word (R24). -/
def qcwOutFmt (q : BitVec 64) : Nat := bits q 15 8
def qcwStoch (q : BitVec 64) : Bool := bit q 16
def qcwOT (q : BitVec 64) : Nat := bits q 31 24
def qcwThr (q : BitVec 64) : F32 := BitVec.ofNat 32 (bits q 63 32)
/-- The control word's reset value (R24). -/
def qcwReset : BitVec 64 := 0x7F80000083000000#64
/-- A control word that R24 permits. -/
def qcwOk (q : BitVec 64) : Bool := bits q 23 17 = 0 && bits q 7 0 = 0 && Fmt.outOk (qcwOutFmt q)

/-- seed_task (R21). -/
def taskSeed (configSeed : BitVec 32) (core : CoreId) (ordinal : Nat) : BitVec 32 :=
  let s := configSeed ^^^ BitVec.ofNat 32 (core.toNat <<< 20) ^^^ BitVec.ofNat 32 (ordinal % 2 ^ 20)
  if s = 0#32 then 1#32 else s

end Sys2Proof.Machine
end

