-- ==== Sys2Proof/Machine/State.lean ====
section
/-! DEFINITION. The state of the part: plain data, everything the spec gives the machine. -/

namespace Sys2Proof.Machine

/-- Why a step stops with a fault. -/
inductive Fault where
  /-- MAIN_POWER_ON with 48 V outside 40–60 V and not locked out: R427 says that outside the limits the device's behaviour is
  not specified. Raised by `execMainPowerOn`. Safe: the model stops where the spec says nothing. -/
  | supplyOutOfLimits
  deriving DecidableEq, Repr

/-- Why a command has no meaning. -/
inductive Refusal where
  /-- A command whose meaning is not written yet; raised only by the arms of `exec`. Safe. -/
  | notModelled (mnemonic : String)
  deriving DecidableEq, Repr

/-! ## Cores -/

/-- Stall categories of R63, in the order of its table. -/
inductive Stall where
  | idle | busy | wload | inEmpty | outFull | remote | narrow | sync | other
  deriving DecidableEq, Repr

/-- Markers (R77 MARK). -/
inductive Marker where
  | endOfStream | emptyOutput
  deriving DecidableEq, Repr

/-- A queue item: a row with its poison bit, or a marker (R50, R124). -/
inductive Item where
  | row (data : Row) (poison : Bool)
  | marker (m : Marker)
  deriving DecidableEq, Repr

/-- Exception classes (R86). -/
inductive ExcClass where
  | done | illegal | format | unit | bound | conflict | window | morder | region | stream | trap
  deriving DecidableEq, Repr

/-- Where a core's task stands (R57, R60). -/
inductive Phase where
  | idle | run | drain | retire
  deriving DecidableEq, Repr

/-- An accumulator region (R42, R81). -/
structure Region where
  first : Nat
  rows : Nat
  cursor : Nat
  deriving DecidableEq, Repr

/-- The check value and the magnitude of one row of a region over one span (R35, R36). -/
structure Lane where
  region : Nat
  row : Nat
  span : Nat
  check : BitVec 32
  mag : BitVec 32
  /-- Sum and magnitude sum of the values that MREG loaded into the row's columns of the span (log entry 10). -/
  start : BitVec 32
  startMag : BitVec 32
  deriving DecidableEq, Repr

/-- The row sum of one row over the columns of a span that are complete, the span reaching over several column groups of
the side plane that begins at row `side` (R35, R36). -/
structure SpanSum where
  side : Nat
  row : Nat
  span : Nat
  /-- K extent, columns of a span, accumulator row and pass of the last column group. -/
  k : Nat
  nc : Nat
  accRow : Nat
  pass : Nat
  sum : BitVec 32
  start : BitVec 32
  startMag : BitVec 32
  /-- The span's check value and magnitude as the last column group found them. -/
  check : BitVec 32
  mag : BitVec 32
  deriving DecidableEq, Repr

/-- The column group that passes over the side plane at row `side` are in: its element plane's first row and the number
of its first column within the tile (log entry 116). -/
structure SideGroup where
  side : Nat
  elem : Nat
  col : Nat
  deriving DecidableEq, Repr

/-- A flagged row (R43): the pass that completed it, its accumulator row, the first engine column of the span, and
whether a NaN flagged it (R36). -/
structure Flagged where
  pass : Nat
  row : Nat
  col : Nat
  nan : Bool
  deriving DecidableEq, Repr

/-- One slice that the stationary register holds (R40): its K position in units of 32 and the rows of the element plane
that it lies in. -/
structure StatSlice where
  k : Nat
  rows : List (Row × Bool)
  deriving DecidableEq, Repr

/-- What a plane buffer holds (R41): the aligned rows of the last wide access to its plane, those that were read. -/
structure PlaneBuf where
  first : Nat
  rows : List (Nat × Row × Bool)
  deriving DecidableEq, Repr

/-- An instruction that was issued to a unit and has not completed (R83, R92): where it lies, CLASS × 64 + OP, its other
fields, its place in the order of issue, and what it waits for. -/
structure Queued where
  pc : BitVec 21
  op : Nat
  f : Fields
  seq : Nat
  wait : Stall
  handle : BitVec 16
  deriving DecidableEq, Repr

/-- The quantiser's output under way (R49, R82); each code or byte with its poison. -/
structure QOut where
  fmt : Nat
  port : Option Nat
  elemRow : BitVec 15
  scaleRow : BitVec 15
  knotRow : BitVec 15
  elems : List (Nat × Bool)
  scales : List (Nat × Bool)
  knots : List (Nat × Bool)
  deriving DecidableEq, Repr

/-- A remote read that has no reply yet (R61, R78): where it reads, where its row lands (physical), and the
registers it advances. -/
structure RemoteRead where
  target : CoreId
  row : BitVec 15
  dest : BitVec 15
  dReg : BitVec 5
  aReg : BitVec 5
  bReg : BitVec 5
  deriving DecidableEq, Repr

/-- One logical core (R38, R52). -/
structure Core where
  g : Sparse (BitVec 64)
  gPoison : Sparse Bool
  v : Sparse (BitVec 2048)
  vPoison : Sparse Bool
  acc : Sparse (BitVec 32)
  accPoison : Sparse Bool
  regions : Sparse (Option Region)
  /-- Program counter: row in [20:6], slot in [5:0] (R72). -/
  pc : BitVec 21
  base : BitVec 15
  bound : BitVec 15
  task : Option (BitVec 512)
  next : Option (BitVec 512)
  phase : Phase
  exc : ExcClass
  trapCode : BitVec 8
  windowCause : BitVec 4
  conflictRec : BitVec 64
  qcw : BitVec 64
  lfsr : BitVec 32
  qsat : BitVec 32
  kovf : BitVec 32
  nanp : BitVec 16
  maxabs : BitVec 32
  rangeRaised : Bool
  flagged : List Flagged
  passes : Nat
  lanes : List Lane
  spanSums : List SpanSum
  sides : List SideGroup
  cursor : BitVec 64
  /-- Activation rows that the pass under way has taken from its port. -/
  passRows : List (Row × Bool)
  /-- The pass under way has met a NaN operand; one of its operands was poisoned (R31, R32). -/
  passNan : Bool
  passBad : Bool
  /-- The stationary register, two slices (R40), and the scale, knot and side plane buffers (R41). -/
  stationary : List StatSlice
  planeBufs : Sparse (Option PlaneBuf)
  /-- The issue queues of the units, in the order of issue (R38, R83). -/
  queue : List Queued
  /-- Instructions issued so far. -/
  issueSeq : Nat
  /-- The instruction that made the most recent wide access to each bank (R101). -/
  lastWide : Sparse (Option (BitVec 21 × Nat))
  qout : Option QOut
  /-- The QCVT under way has met a NaN (R32: it counts once). -/
  nanMet : Bool
  /-- Elements that the QCVT under way has taken from a region or from vectors. -/
  qdone : Nat
  codebook : Option (BitVec 256)
  statDesc : BitVec 128
  reads : List RemoteRead
  /-- Cancelled remote reads recorded in the save image, to be reissued on restore (R61). -/
  cancelledReads : List RemoteRead
  writesOut : Nat
  refused : Option (BitVec 4)
  /-- Resume record header and list (R92). -/
  resumeHeader : BitVec 32
  resumeList : List (BitVec 32)
  tainted : Bool
  stall : Stall
  stallSince : BitVec 48
  lastQueue : BitVec 16
  counters : Sparse (BitVec 48)
  /-- Cycles counted since the last tick (R63). -/
  counted : Nat
  ports : Sparse (BitVec 16)
  outStage : Sparse (List Item)
  windows : Sparse (BitVec 128)
  errLog : BitVec 64
  scrub : BitVec 15
  scrubCE : List Nat
  spareLines : Sparse Nat
  haltWanted : Bool
  halted : Bool
  /-- When it halted (R141). -/
  haltedAt : BitVec 48
  saving : Bool
  deriving DecidableEq, Repr

/-- A core after reset (R20, R24, R69, R118): registers zero, nothing running, no window open. -/
def Core.reset : Core where
  g := []
  gPoison := []
  v := []
  vPoison := []
  acc := []
  accPoison := []
  regions := []
  pc := 0
  base := 0
  bound := 0
  task := none
  next := none
  phase := .idle
  exc := .done
  trapCode := 0
  windowCause := 0
  conflictRec := 0
  qcw := 0x7F80000083000000#64
  lfsr := 1
  qsat := 0
  kovf := 0
  nanp := 0
  maxabs := 0
  rangeRaised := false
  flagged := []
  passes := 0
  lanes := []
  spanSums := []
  sides := []
  cursor := 0
  passRows := []
  passNan := false
  passBad := false
  stationary := []
  planeBufs := []
  queue := []
  issueSeq := 0
  lastWide := []
  qout := none
  nanMet := false
  qdone := 0
  codebook := none
  statDesc := 0
  reads := []
  cancelledReads := []
  writesOut := 0
  refused := none
  resumeHeader := 0
  resumeList := []
  tainted := false
  stall := .idle
  stallSince := 0
  lastQueue := 0xFFFF
  counters := []
  counted := 0
  ports := []
  outStage := []
  windows := []
  errLog := 0
  scrub := 0
  scrubCE := []
  spareLines := []
  haltWanted := false
  halted := false
  haltedAt := 0
  saving := false

/-- States of a logical slot (R65). -/
inductive SlotState where
  | inService | suspect | isolated | failed
  deriving DecidableEq, Repr

/-- A logical slot (R65, R66, R368). `phys = none` is the reset mapping, the slot's own number. -/
structure Slot where
  incarn : BitVec 16
  state : SlotState
  /-- The state a test returns the slot to (R379). -/
  before : SlotState
  phys : Option (BitVec 6)
  transients : List Nat
  coreSteps : Nat
  lastBad : Nat
  moving : Bool
  movingFrom : BitVec 6
  deriving DecidableEq, Repr

def Slot.reset : Slot := ⟨0, .inService, .inService, none, [], 0, 0, false, 0⟩

/-- One stand (R129, R371, R391–R404, R409). -/
structure Stand where
  inService : Bool
  isolated : Bool
  cal : Bool
  mhz : BitVec 11
  pstate : BitVec 4
  mv : BitVec 10
  ballast : Bool
  latch : Bool
  /-- A deferred clock or P-state change (R403): MHZ and PSTATE. -/
  deferred : Option (BitVec 11 × BitVec 4)
  /-- Physical cores retired (R370). -/
  retired : List (BitVec 6)
  /-- Physical cores that the soft repair at bring-up has mapped away, until the next cold reset (R66, R379). -/
  unfit : List (BitVec 6)
  zombies : Nat
  zombieRaised : Bool
  /-- Slots still to be patrolled after waking (R365). -/
  unpatrolled : List Nat
  tj : Int
  tsram : Int
  deriving DecidableEq, Repr

def Stand.reset : Stand where
  inService := true
  isolated := false
  cal := false
  mhz := 0
  pstate := 0
  mv := 0
  ballast := false
  latch := false
  deferred := none
  retired := []
  unfit := []
  zombies := 0
  zombieRaised := false
  unpatrolled := []
  tj := 0
  tsram := 0

/-- A sector: whether it is on, in S3 or out of service, and its last device fault (R373, R400, R409). -/
inductive SectorMode where
  | on | s3 | out
  deriving DecidableEq, Repr

structure Sector where
  mode : SectorMode
  lastFault : Option (BitVec 64)
  sequencerResets : Nat
  deriving DecidableEq, Repr

def Sector.reset : Sector := ⟨.on, none, 0⟩

/-- Stored code errors of a bench row (R113, R114): correctable codewords as (word, bit), the lowest
uncorrectable codeword, whether the poison copies disagree. -/
structure RowError where
  ce : List (Nat × Nat)
  ue : Option Nat
  copies : Bool
  deriving DecidableEq, Repr

def RowError.none : RowError := ⟨[], .none, false⟩

/-- Stored code error of a granule (R189). -/
inductive GranuleError where
  | none | correctable (symbol : BitVec 6) | uncorrectable
  deriving DecidableEq, Repr

/-! ## Streams -/

/-- The stamp of a packet in the network: its place in the order of injection, and its injection time (R135). -/
structure Stamp where
  ord : Nat
  time : BitVec 16
  deriving DecidableEq, Repr

/-- A queue of a bound configuration (R122, R124–R127, R137, R160, R335). -/
structure Queue where
  record : BitVec 128
  span : Bool
  epoch : BitVec 8
  credits : Nat
  /-- Credits on their way back to the producer, and whether a marker is among them (R336). -/
  returning : Nat
  markCredit : Bool
  /-- Items in the network, oldest first, and their stamps. -/
  network : List Item
  sent : List Stamp
  /-- The consumer port's staging, at most 4 items. -/
  staging : List Item
  /-- Rows in the slack ring and the ring position of the oldest. -/
  slackCount : Nat
  slackHead : Nat
  marker : Option Marker
  padRow : Nat
  rows : BitVec 48
  marks : BitVec 16
  prodFull : BitVec 48
  consEmpty : BitVec 48
  spilled : BitVec 32
  high : BitVec 16
  left : BitVec 16
  discarded : Nat
  /-- Rows sent to another device in the step (ORD of R331). -/
  ord : Nat
  deriving DecidableEq, Repr

/-- A row sent to a window of another core (R78, R109). -/
structure WindowRow where
  writer : CoreId
  incarn : BitVec 16
  target : CoreId
  window : BitVec 4
  offset : BitVec 11
  step : BitVec 16
  data : Row
  poison : Bool
  sent : Stamp
  deriving DecidableEq, Repr

/-- A remote read request in the network. -/
structure ReadReq where
  reader : CoreId
  incarn : BitVec 16
  target : CoreId
  row : BitVec 15
  sent : Stamp
  deriving DecidableEq, Repr

/-- A remote read reply in the network. -/
structure ReadReply where
  reader : CoreId
  data : Row
  poison : Bool
  source : CoreId
  sent : Stamp
  deriving DecidableEq, Repr

/-- An acknowledgement of a window write; `cause` 0 admits, else R109's cause code. -/
structure WriteAck where
  writer : CoreId
  cause : BitVec 4
  source : CoreId
  sent : Stamp
  deriving DecidableEq, Repr

/-- A skid row on its way to a member (R166): its chain, the member's place in it, its ordinal, whether it is the chain's
last. -/
structure SkidFwd where
  coupe : CoupeId
  chain : Nat
  place : Nat
  ord : Nat
  last : Bool
  data : Row
  poison : Bool
  deriving DecidableEq, Repr

/-- A lease row of a bench that was staged again after an uncorrectable codeword and is not reported yet (R360). `read`: a
task or a transfer found it, not the scrubber or a bench move; `settled`: no open step waits to be told. -/
structure LeaseHit where
  core : CoreId
  row : BitVec 15
  read : Bool
  settled : Bool
  deriving DecidableEq, Repr

/-! ## Movers and memory units -/

/-- A transfer in progress (R177, R179, R180). -/
structure Transfer where
  mover : MoverId
  w : BitVec 512
  /-- Source row addresses of the tiles in visiting order; none for a pad or pattern row. -/
  plan : List (Option (BitVec 64))
  written : Nat
  started : BitVec 64
  /-- Deadline in ticks of 10 ns after the start. -/
  limit : Nat
  /-- Cancelled: completes as it stands (R263). -/
  empty : Bool
  /-- It serves a masked request: its rows are the padding of the queue that carries them (R242). -/
  padded : Bool
  deriving DecidableEq, Repr

/-- A deck stack (R203, R376, R400). -/
inductive StackState where
  | on | failed | selfRefresh | testing
  deriving DecidableEq, Repr

structure Stack where
  state : StackState
  log : BitVec 64
  patrol : Nat
  temp : Int
  deriving DecidableEq, Repr

def Stack.reset : Stack := ⟨.on, 0, 0, 0⟩

structure Channel where
  dimm : Nat
  trained : Bool
  failed : Bool
  testing : Bool
  log : BitVec 64
  patrol : Nat
  deriving DecidableEq, Repr

def Channel.reset : Channel := ⟨0, false, false, false, 0, 0⟩

/-- Yard modes of R318: 0 none, 1 8-channel h = 0, 2 8-channel h = 1, 3 16-channel. -/
inductive YardMode where
  | none | half0 | half1 | full
  deriving DecidableEq, Repr

/-- What a pool allocation holds (R184, R185). -/
inductive AllocKind where
  | group (g : GroupId)
  | listPages (s : SlotId)
  | tree (s : SlotId)
  | save (k : CoupeId) (g : StandId)
  | jobSave (k : CoupeId) (j : BitVec 3)
  | imageYard (h : BitVec 10)
  | imageDeck (h : BitVec 10)
  /-- Destination units of a MOVE under way: they hold nothing valid (R181). -/
  | transit
  /-- The handoff block that a step names (R169, R185; log entry 135). -/
  | handoff (a : BitVec 48)
  deriving DecidableEq, Repr

/-- An allocation: its units, its first address, its owner and, when evictable, since when (R185). -/
structure Alloc where
  pool : Pool
  kind : AllocKind
  coupe : Option CoupeId
  addr : BitVec 48
  units : Nat
  evictable : Option (BitVec 48)
  deriving DecidableEq, Repr

/-- A queued allocation request: the runs that it asks for (R186, R188). -/
structure PoolWait where
  pool : Pool
  runs : List (AllocKind × Nat)
  coupe : Option CoupeId
  ring : RingId
  pos : BitVec 32
  since : BitVec 64
  limit : Nat
  deriving DecidableEq, Repr

/-- A granted request with the runs that are not placed yet; their units are charged (R186, R441). -/
structure PoolGrant where
  pool : Pool
  runs : List (AllocKind × Nat)
  coupe : Option CoupeId
  deriving DecidableEq, Repr

inductive MovePurpose where
  | evict | recall | relocate
  deriving DecidableEq, Repr

/-- A MOVE that the device has issued for an eviction, a recall or a relocation: the datum, its home, the destination
units and their number (R181, R187, R230, R441). -/
structure DevMove where
  purpose : MovePurpose
  kind : AllocKind
  src : BitVec 48
  dst : BitVec 48
  units : Nat
  deriving DecidableEq, Repr

/-- A descriptor whose recall has failed: the status and detail with which it ends (R214, R232). -/
structure RecallLoss where
  ring : RingId
  pos : BitVec 32
  status : BitVec 8
  detail : BitVec 64
  dkind : BitVec 4
  deriving DecidableEq, Repr

/-- A write to host memory: its address, its bytes, the poisoned-data indication (R176, R250). -/
structure HostWrite where
  addr : BitVec 64
  data : List (BitVec 8)
  poisoned : Bool
  deriving DecidableEq, Repr

/-! ## Images -/

inductive ImageState where
  | absent | loading | ready | unloading
  deriving DecidableEq, Repr

/-- A shard of an image in the yard copy: its index, first row address, rows. -/
structure Shard where
  index : BitVec 16
  addr : BitVec 48
  rows : Nat
  deriving DecidableEq, Repr

structure Image where
  state : ImageState
  shards : List Shard
  bindings : Nat
  deck : Bool
  rows : Nat
  deriving DecidableEq, Repr

def Image.reset : Image := ⟨.absent, [], 0, false, 0⟩

/-! ## Coupes -/

inductive CoupeState where
  | free | idle | bound | draining | preempting | preempted | resuming
  deriving DecidableEq, Repr

/-- A residence record of a streamed configuration as bound (R165): its core, the first bench row of each area, its walk, its
tiles per layer, and the first image row of each layer's tiles. -/
structure Stream where
  core : CoreId
  areas : List Nat
  walk : Nat
  count : Nat
  firsts : List Nat
  deriving DecidableEq, Repr

/-- A skid record as bound (R166): its walk, the first image row of its tensor, the destination row, the members in chain
order, the barrier. -/
structure Chain where
  walk : Nat
  first : Nat
  row : Nat
  members : List CoreId
  barrier : BitVec 8
  deriving DecidableEq, Repr

/-- What a configuration gives a bound coupe (R150–R170): the parts the device uses after BIND. -/
structure Config where
  image : BitVec 10
  config : BitVec 4
  shard : BitVec 16
  model : BitVec 32
  adapter : BitVec 16
  seed : BitVec 32
  prows : BitVec 8
  players : BitVec 8
  vocab : BitVec 20
  /-- Device stand of each configuration stand (R151). -/
  stands : List StandId
  dims : Nat
  stages : Nat
  templates : List (BitVec 1024)
  buckets : List (BitVec 256)
  queues : List (BitVec 128)
  padding : List (BitVec 64)
  barriers : List (BitVec 64)
  feeds : List (BitVec 128)
  walks : List (BitVec 512)
  floor : Nat
  /-- Rows from 0 to the highest declared row of each core, by device core ID (R154, R285). -/
  tops : List (Nat × Nat)
  /-- Code runs (R440): device core ID, first bench row, first row of the image, rows. -/
  code : List (Nat × Nat × Nat × Nat)
  /-- Resident tiles (R164): device core ID, first bench row, walk, and for each bench row its row of the image, none for a
  row of a pad tile. -/
  tiles : List (CoreId × Nat × BitVec 512 × List (Option Nat))
  /-- Layers ahead of the running one that are prefetched, the barrier of each layer, and the streamed tiles (R165). -/
  prefetch : Nat
  layers : List (BitVec 8)
  streams : List Stream
  /-- Skid chains (R166). -/
  chains : List Chain
  /-- It has experts; the stage of their templates; each layer's gate template and routing barrier (R254, R257, R260). -/
  experts : Bool
  expertStage : Nat
  gates : List (Nat × BitVec 8)
  deriving DecidableEq, Repr

/-- A coupe's expert map (R255). -/
structure ExpertMap where
  e : Nat
  k : Nat
  key : BitVec 64
  entries : List (BitVec 32)
  deriving DecidableEq, Repr

/-- The map of a coupe that no EXPERT_MAP has named: no entry is VALID; E, k and RKEY are the lowest legal values (log entry
140). -/
def ExpertMap.reset : ExpertMap := ⟨1, 1, 0, []⟩

/-- A run of one expert in a step (R260): the layer, LOCAL, the bucket of the expert stage, the lanes that enter it. -/
structure ExpertRun where
  layer : Nat
  loc : Nat
  bucket : Nat
  lanes : List Nat
  deriving DecidableEq, Repr

/-- A request of an open step (R239, R242). -/
structure Req where
  pos : BitVec 32
  w : BitVec 512
  verify : Bool
  src : HostRead
  /-- none while it runs with its own lanes; a status once it has ended or is masked. -/
  status : Option (BitVec 8)
  detail : BitVec 64
  dkind : BitVec 4
  /-- It passed the checks at step open. -/
  passed : Bool
  /-- Page groups and workspace the device allocated for it. -/
  groups : List GroupId
  /-- Logit record of it written with POISON, or a poisoned row transferred for it (R359). -/
  poisoned : Bool
  deriving DecidableEq, Repr

/-- An OUTCOME held for a span step (R349). -/
structure HeldOutcome where
  member : BitVec 8
  xtag : BitVec 32
  attempt : BitVec 2
  nreq : BitVec 7
  status : BitVec 8
  statuses : List (BitVec 8)
  digest : Option (BitVec 64)
  /-- S_COUNT of the member (R273; log entry 134). -/
  count : BitVec 9
  deriving DecidableEq, Repr

/-- An attention entry that awaits a commit (R320). -/
structure Event where
  func : BitVec 3
  kind : BitVec 8
  record : BitVec 64
  value : BitVec 32
  stepno : BitVec 48
  ring : RingId
  coupe : CoupeId
  core : CoreId
  deriving DecidableEq, Repr

/-- Safeguard totals of a coupe (R34, R319). -/
structure Totals where
  qsat : BitVec 64
  kovf : BitVec 64
  nanp : BitVec 64
  maxabs : BitVec 32
  deriving DecidableEq, Repr

def Totals.zero : Totals := ⟨0, 0, 0, 0⟩

/-- A retire report as the sector sequencer receives it (R58): the retire status is the exception class, and `flag` the
lowest flagged pass and row. -/
structure Report where
  core : CoreId
  tag : BitVec 32
  step : BitVec 16
  status : ExcClass
  qsat : BitVec 32
  kovf : BitVec 32
  nanp : BitVec 16
  maxabs : BitVec 32
  flag : Option (Nat × Nat)
  deriving DecidableEq, Repr

/-- A checksum flag that a retire report named (R37, R364): its core, TASK_TAG, pass and row. -/
structure FlagReport where
  core : CoreId
  tag : BitVec 32
  pass : Nat
  row : Nat
  deriving DecidableEq, Repr

/-- What a transfer that the sequencer issues for a step fills: an area with the tiles of a layer (R165), or the first member
of a skid chain (R166). -/
inductive LoadKind where
  | layer (n : Nat)
  | chain (n : Nat)
  deriving DecidableEq, Repr

/-- Such a transfer: its descriptor, its source rows, and whether its last row has left. A chain's stays until the chain has
arrived at its barrier. -/
structure StepLoad where
  w : BitVec 512
  plan : List (Option (BitVec 64))
  kind : LoadKind
  sent : Bool
  deriving DecidableEq, Repr

/-- A step: ready (not open) or open (R237–R243). -/
structure Step where
  ring : RingId
  pos : BitVec 32
  w : BitVec 512
  stamp : Nat
  reqs : List Req
  number : BitVec 48
  attempt : Nat
  bucket : Option Nat
  /-- Task records still to be dispatched, with their cores. -/
  toDispatch : List (CoreId × BitVec 512)
  /-- Cores with a dispatched task of the step that has not retired. -/
  running : List CoreId
  /-- Step-wide status once one is decided (R243). -/
  status : Option (BitVec 8)
  detail : BitVec 64
  dkind : BitVec 4
  boundary : Bool
  needReplay : Bool
  replayable : Bool
  agreed : Bool
  outcomes : List HeldOutcome
  outcomeSent : Bool
  /-- Routes in force when the step opened: device, odd channels?, first link (R340). -/
  routes : List (Nat × Bool × Option LinkId)
  /-- Runs built for experts, in order (R260). -/
  expertRuns : List ExpertRun
  /-- Routing of the layers dispatched: layer, lane, experts by routing slot (R256, R257). -/
  routing : List (Nat × Nat × List Nat)
  /-- Layers whose pairs this device has dispatched; layers below `built` have their runs (R259, R260). -/
  routed : List Nat
  built : Nat
  /-- The checksum flag that the attempt before met (R364). -/
  flagged : Option FlagReport
  /-- Retire reports of the attempt under way, in order (R58). -/
  reports : List Report
  /-- Totals and QUANT_RANGE events of the attempt under way (R34). -/
  totals : Totals
  events : List Event
  memArrivalsStopped : Bool
  poppedForeign : Bool
  /-- Transfers of streamed layers and skid chains that are not over (R165, R166). -/
  loads : List StepLoad
  /-- Layers of the tasks that have not retired, in order on each core. -/
  layerTasks : List (CoreId × Nat)
  deriving DecidableEq, Repr

/-- What a coupe is waiting to finish for the admin ring. -/
inductive CoupeAction where
  | none
  | drain (ring : RingId) (pos : BitVec 32)
  | bind (q : Desc)
  /-- A BIND whose deck units are granted and not all placed. -/
  | bindUnits (q : Desc)
  | destroy (ring : RingId) (pos : BitVec 32)
  | preempt (ring : RingId) (pos : BitVec 32)
  | taken (by_ : CoupeId) (ring : RingId) (pos : BitVec 32)
  | resume (ring : RingId) (pos : BitVec 32)
  | create (ring : RingId) (pos : BitVec 32)
  deriving DecidableEq, Repr

/-- State of a save area (R275). -/
inductive AreaState where
  | empty | writing | valid | invalid
  deriving DecidableEq, Repr

/-- Image state of a core save image (R52). -/
inductive ImageMode where
  | idle | running | pendingOnly
  deriving DecidableEq, Repr

/-- One core save image (R52): its header, and what the image holds. What the spec places lies in the deck as well (log
entry 74). -/
structure SavedCore where
  id : CoreId
  version : BitVec 16
  courser : Bool
  incarn : BitVec 16
  mode : ImageMode
  core : Core
  /-- Of a job save area (R285): bench cells by offset within the core's bench, and poisoned rows. -/
  bench : List (Nat × BitVec 8)
  poison : List Nat
  deriving DecidableEq, Repr

/-- A stand's save area: its header and its images (R275). -/
structure SaveArea where
  stand : StandId
  version : BitVec 16
  coupe : CoupeId
  job : BitVec 3
  stepctr : BitVec 48
  time : BitVec 64
  state : AreaState
  /-- Slots saved RUNNING; slots whose image is invalid (R71). -/
  running : BitVec 32
  invalid : BitVec 32
  cores : List SavedCore
  deriving DecidableEq, Repr

/-- A feed in a step: its queue, the descriptor of its walk, the marker that follows (R158, R167, R177). -/
structure FeedRun where
  handle : BitVec 16
  w : Option (BitVec 512)
  mark : Option Marker
  deriving DecidableEq, Repr

/-- The saved state of a pre-empted coupe or of one job of a time-shared coupe (R275, R287). -/
structure Saved where
  areas : List SaveArea
  queues : List (Nat × Queue)
  barriers : Sparse Nat
  transfers : List Transfer
  stepctr : BitVec 48
  time : BitVec 64
  deriving DecidableEq, Repr

/-- The durable part of a coupe: its record (R265) and its bindings. -/
structure Coupe where
  stands : BitVec 128
  state : CoupeState
  prio : BitVec 3
  preemptible : Bool
  tshare : Bool
  jobs : BitVec 3
  curJob : BitVec 3
  quantum : BitVec 8
  func : BitVec 3
  sentinel : BitVec 17
  stepctr : BitVec 48
  floor : BitVec 27
  /-- Its floor was not kept when a stack failed (R204). -/
  floorLost : Bool
  spanId : BitVec 16
  sCount : BitVec 9
  sIndex : BitVec 8
  bindings : Sparse (Option Config)
  map : ExpertMap
  /-- A new map that waits for the coupe's next step (R255). -/
  nextMap : Option ExpertMap
  /-- Stands the coupe was saved from (R281). -/
  savedStands : BitVec 128
  totals : Totals
  /-- Digests have differed, and not every member has shown a BIND that makes them equal (R273). -/
  digestBad : Bool
  /-- Placement digests that the members have sent, by index; after a mismatch those sent since. -/
  digests : List (Nat × BitVec 64)
  firstSpanStep : Bool
  deriving DecidableEq, Repr

/-- A coupe number after reset (R265). -/
def Coupe.reset : Coupe where
  stands := 0
  state := .free
  prio := 0
  preemptible := false
  tshare := false
  jobs := 0
  curJob := 0
  quantum := 0
  func := 0
  sentinel := 20
  stepctr := 0
  floor := 0
  floorLost := false
  spanId := 0
  sCount := 0
  sIndex := 0
  bindings := []
  map := ExpertMap.reset
  nextMap := none
  savedStands := 0
  totals := Totals.zero
  digestBad := false
  digests := []
  firstSpanStep := false

/-- What a coupe is doing now (not journalled). -/
structure CoupeRun where
  action : CoupeAction
  ready : List Step
  openStep : Option Step
  /-- Coupe-scope barrier counts (R169). -/
  barriers : Sparse Nat
  queues : Sparse (Option Queue)
  epoch : BitVec 8
  spanEpoch : BitVec 8
  /-- FLUSH packets that have arrived, as member × 256 + epoch, and whether the span epoch has advanced
  since BIND (R336). -/
  flushed : List Nat
  spanAdvanced : Bool
  lastProgress : BitVec 64
  lastCross : BitVec 64
  shardWait : Option (BitVec 64)
  heldOutcomes : List HeldOutcome
  saved : Option Saved
  jobSaved : Sparse (Option Saved)
  turn : Nat
  isolation : List (BitVec 4)
  /-- BASEs that re-arms have given, by feed record (R168). -/
  feeds : List (Nat × BitVec 48)
  /-- Feeds of the open step that have not ended (R158, R167). -/
  feedPlans : List FeedRun
  /-- Pairs that the open step keeps here, by layer and sending member, its own among them; those from another coupe d of
  the device stand under 256 + d (R259, R348). -/
  bundles : List (Nat × Nat × List (BitVec 128))
  /-- Bundles of a step or attempt that is not open here yet: span epoch, layer, sending member, pairs. -/
  earlyBundles : List (Nat × Nat × Nat × List (BitVec 128))
  /-- Rows discarded because their handle is not bound here (R336). -/
  strays : Nat
  /-- XTAGs of the span steps that the coupe has ended (R349). -/
  xtagsDone : List (BitVec 32)
  spanConflict : Bool
  quiesced : Bool
  clockChanging : Bool
  /-- Descriptors of its rings accepted from this stamp on are held: it drains, is pre-empted, or has been drained and not
  been bound again (R144, R145, R155, R276). -/
  heldFrom : Option Nat
  /-- The drain has pushed its end-of-stream markers (R144 step 3). -/
  ended : Bool
  /-- Its queue counters as the mirror shows them: those of its last step commit or BIND (R137). -/
  shown : List (Nat × Queue)
  deriving DecidableEq, Repr

def CoupeRun.reset : CoupeRun where
  action := .none
  ready := []
  openStep := none
  barriers := []
  queues := []
  epoch := 0
  spanEpoch := 0
  flushed := []
  spanAdvanced := false
  lastProgress := 0
  lastCross := 0
  shardWait := none
  heldOutcomes := []
  saved := none
  jobSaved := []
  turn := 0
  isolation := []
  feeds := []
  feedPlans := []
  bundles := []
  earlyBundles := []
  strays := 0
  xtagsDone := []
  spanConflict := false
  quiesced := false
  clockChanging := false
  heldFrom := none
  ended := false
  shown := []

/-! ## Sequences, groups, scent -/

/-- What a binding must have in common with the data of a sequence (R211, R242). -/
structure BindKey where
  model : BitVec 32
  adapter : BitVec 16
  shard : BitVec 16
  prows : BitVec 8
  players : BitVec 8
  deriving DecidableEq, Repr

def BindKey.none : BindKey := ⟨0, 0, 0, 0, 0⟩

def Config.key (c : Config) : BindKey := ⟨c.model, c.adapter, c.shard, c.prows, c.players⟩

inductive SeqState where
  | free | opening | active | closing
  deriving DecidableEq, Repr

/-- A half of a tree workspace (R253): the node list, its POS. -/
structure TreeHalf where
  nodes : List (BitVec 64)
  pos : Nat
  deriving DecidableEq, Repr

structure Tree where
  addr : BitVec 48
  /-- Its stack failed (R204). -/
  lost : Bool
  parity : Bool
  half0 : TreeHalf
  half1 : TreeHalf
  deriving DecidableEq, Repr

/-- A sequence record (R206) with its page list (R221) and tree workspace (R253). -/
structure Seq where
  state : SeqState
  /-- GEN as an advance over the value loaded at cold reset (R209). -/
  gen : BitVec 16
  ring : RingId
  coupe : CoupeId
  span : Bool
  salt : BitVec 12
  length : BitVec 20
  matched : BitVec 16
  recalled : BitVec 16
  tail : Option GroupId
  /-- Groups of blocks 0, 1, …; none where a block has no group. -/
  pages : List (Option GroupId)
  listAddr : BitVec 48
  /-- A page of its list was homed in a stack that failed (R204). -/
  listLost : Bool
  tree : Option Tree
  /-- No step has acted on it since SEQ_OPEN (R215). -/
  fresh : Bool
  /-- Its references and allocations have been released before the commit that frees it (R263). -/
  released : Bool
  /-- An immediate cancel applies to it. -/
  immediate : Bool
  /-- Position of the SEQ_OPEN that is opening it. -/
  openPos : BitVec 32
  /-- The binding that SEQ_OPEN used. -/
  key : BindKey
  deriving DecidableEq, Repr

def Seq.reset : Seq where
  state := .free
  gen := 0
  ring := 0
  coupe := 0
  span := false
  salt := 0
  length := 0
  matched := 0
  recalled := 0
  tail := none
  pages := []
  listAddr := 0
  listLost := false
  tree := none
  fresh := false
  released := false
  immediate := false
  openPos := 0
  key := BindKey.none

inductive GroupState where
  | free | open_ | sealed | poisoned
  deriving DecidableEq, Repr

/-- A page group record (R218). -/
structure Group where
  scent : BitVec 64
  tokens : List (BitVec 32)
  parent : GroupId
  home : BitVec 48
  units : BitVec 16
  refs : BitVec 16
  model : BitVec 32
  adapter : BitVec 16
  shard : BitVec 16
  salt : BitVec 12
  state : GroupState
  scented : Bool
  pinned : Bool
  pinCoupe : CoupeId
  age : BitVec 48
  root : Bool
  prows : BitVec 8
  players : BitVec 8
  inYard : Bool
  /-- Homed on a unit that failed: lost data (R204, R205). -/
  lost : Bool
  deriving DecidableEq, Repr

def Group.reset : Group where
  scent := 0
  tokens := []
  parent := 0
  home := 0
  units := 0
  refs := 0
  model := 0
  adapter := 0
  shard := 0
  salt := 0
  state := .free
  scented := false
  pinned := false
  pinCoupe := 0
  age := 0
  root := false
  prows := 0
  players := 0
  inYard := false
  lost := false

/-- FILL (R218). -/
def Group.fill (g : Group) : Nat := g.tokens.length

/-- A valid scent table entry (R226). -/
structure ScentEntry where
  tag : BitVec 46
  group : GroupId
  salt : BitVec 12
  deriving DecidableEq, Repr

/-! ## Rings -/

inductive RingState where
  | disabled | enabled | error
  deriving DecidableEq, Repr

/-- How far an accepted descriptor has come (R301, R307). -/
inductive EntryState where
  | waiting
  | started
  | held
  /-- Started, and waiting for units, a drain or a pre-emption; its command is sent again to go on. -/
  | queued
  | done (status : BitVec 8) (dkind : BitVec 4) (detail : BitVec 64) (stepno : BitVec 48)
  deriving DecidableEq, Repr

/-- An accepted descriptor (R300): the device's own copy. -/
structure Entry where
  pos : BitVec 32
  w : BitVec 512
  stamp : Nat
  state : EntryState
  /-- For a request, the position of its STEP; none when it belongs to no step (R240). -/
  step : Option (BitVec 32)
  /-- A request whose sequence was cancelled before its turn (R262). -/
  cancelled : Bool
  since : BitVec 64
  /-- Its completion is journalled and waits until its function may write to the host again (R314). -/
  kept : Bool
  deriving DecidableEq, Repr

/-- A ledger record (R310). -/
structure Ledger where
  pos : BitVec 32
  /-- 1 ACCEPTED, 2 COMPLETED. -/
  state : BitVec 2
  status : BitVec 8
  opcode : BitVec 8
  commit : BitVec 64
  deriving DecidableEq, Repr

/-- A ring as the device knows it (R290–R297, R323, R324). -/
structure Ring where
  entry : BitVec 512
  state : RingState
  cause : BitVec 8
  /-- TAIL of a submission ring, HEAD of another, as last observed. -/
  count : BitVec 32
  /-- ACCEPTED or POSTED. -/
  front : BitVec 32
  /-- COMPLETED, or LOST of an attention ring. -/
  back : BitVec 32
  commit : BitVec 64
  accepted : List Entry
  ledger : Sparse (Option Ledger)
  reserved : Nat
  armed : Bool
  overflowOwed : Bool
  waitingSince : Option (BitVec 64)
  deriving DecidableEq, Repr

def Ring.reset : Ring where
  entry := 0
  state := .disabled
  cause := 0
  count := 0
  front := 0
  back := 0
  commit := 0
  accepted := []
  ledger := []
  reserved := 0
  armed := false
  overflowOwed := false
  waitingSince := none

/-- A published completion or attention entry: ring, position, 256 bits. -/
structure Posted where
  ring : RingId
  pos : BitVec 32
  w : BitVec 256
  deriving DecidableEq, Repr

/-- What the journal holds and a warm reset returns to (R305, R312): records that change at commit. -/
structure Durable where
  coupes : Sparse Coupe
  seqs : Sparse Seq
  groups : Sparse Group
  salts : Sparse (Option (BitVec 64))
  scent : Sparse (Option ScentEntry)
  images : Sparse Image
  allocs : List Alloc
  commits : BitVec 64
  deriving DecidableEq, Repr

def Durable.reset : Durable where
  coupes := []
  seqs := []
  groups := []
  salts := []
  scent := []
  images := []
  allocs := []
  commits := 0

/-- Sequence changes accepted and awaiting the next commit. -/
inductive Due where
  | freeSeq (s : SlotId)
  | activate (s : SlotId)
  | cancel (s : SlotId) (k : CoupeId) (ring : RingId) (pos : BitVec 32)
  | salt (i : BitVec 12) (v : Option (BitVec 64))
  | unpinGroups (gs : List GroupId)
  | coupeSet (k : CoupeId) (w : BitVec 512)
  | spanSet (k : CoupeId) (id : BitVec 16) (count : BitVec 9) (index : BitVec 8)
  | poisonGroup (g : GroupId)
  | ringEntry (r : RingId) (entry : BitVec 512)
  /-- FAILED slots of a stand take cores that a hard repair has returned (R380). -/
  | remap (g : StandId)
  /-- Groups that may have lost their last reference (R220). -/
  | settle (gs : List GroupId)
  /-- A PIN whose recalls have homed their groups: slot, blocks, coupe (R232). -/
  | pin (s : SlotId) (n : Nat) (k : CoupeId) (ring : RingId) (pos : BitVec 32)
  /-- An import whose last byte has arrived: its groups with their tokens (R355). -/
  | importBlocks (qp : BitVec 10) (s : SlotId) (gen b0 : BitVec 16) (gs : List (GroupId × List (BitVec 32)))
  /-- An ANNOUNCE to every partner (R337). -/
  | announce
  deriving DecidableEq, Repr

/-! ## Links and Ethernet -/

inductive LinkState where
  | down | probe | train | auth | up | degraded | fenced | quarantined
  deriving DecidableEq, Repr

/-- A Mirovik link: its record (R351) and its island's state (R330–R343). -/
structure Link where
  state : LinkState
  cause : BitVec 4
  lanes : BitVec 4
  half : Bool
  reach : BitVec 2
  pPod : BitVec 16
  pDev : BitVec 8
  pLink : BitVec 5
  cwRx : BitVec 64
  symCorr : BitVec 48
  cwUncorr : BitVec 32
  replays : BitVec 32
  downs : BitVec 16
  fences : BitVec 16
  txFlits : BitVec 48
  rxFlits : BitVec 48
  crdWait : BitVec 48
  since : BitVec 48
  /-- The configuration that training qualified would enter DEGRADED (R341). -/
  degradedNext : Bool
  retraining : Bool
  left : Bool
  /-- Next FSEQ to send, and those of the flits sent and not acknowledged, oldest first (R332). -/
  fseq : BitVec 8
  replay : List (BitVec 8)
  /-- Payload bytes in the last flit begun of each stream (class × 2 + VC). -/
  fill : Sparse Nat
  /-- Last FSEQ received in order and intact; whether a replay is awaited; NAK owed. -/
  lastGood : BitVec 8
  awaiting : Bool
  nakOwed : Bool
  /-- Credits for each stream (R333). -/
  credits : Sparse Nat
  /-- Flits received of the codeword group under way (R330). -/
  groupFlits : Nat
  spdm : List (BitVec 8)
  coord : Option (BitVec 128)
  testWaits : Bool
  /-- The state that a self-test took the link from (R341, R379). -/
  before : LinkState
  /-- A training has failed and the second before its retry has not passed (R341). -/
  retryWait : Bool
  deriving DecidableEq, Repr

def Link.reset : Link where
  state := .down
  cause := 0
  lanes := 0
  half := false
  reach := 0
  pPod := 0
  pDev := 0
  pLink := 0
  cwRx := 0
  symCorr := 0
  cwUncorr := 0
  replays := 0
  downs := 0
  fences := 0
  txFlits := 0
  rxFlits := 0
  crdWait := 0
  since := 0
  degradedNext := false
  retraining := false
  left := false
  fseq := 0
  replay := []
  fill := []
  lastGood := 255
  awaiting := false
  nakOwed := false
  credits := []
  groupFlits := 0
  spdm := []
  coord := none
  testWaits := false
  before := .down
  retryWait := false

/-- What follows a packet header (R331, R336, R337, R348, R349). A marker is a ROW packet with LEN 0. -/
inductive Payload where
  | row (data : Row)
  | nothing
  | credit (rows : Nat)
  | outcome (o : HeldOutcome)
  | announce (members : List (BitVec 16 × BitVec 8)) (reach : BitVec 32)
  | bundle (layer : BitVec 16) (sender : BitVec 8) (pairs : List (BitVec 128))
  | spdm (message : BitVec 8)
  | coord (record : BitVec 128)
  deriving DecidableEq, Repr

/-- A packet that this device has sent on a link. -/
structure Sent where
  link : LinkId
  header : BitVec 128
  payload : Payload
  deriving DecidableEq, Repr

/-- An announced member or reach (R337). -/
structure Announced where
  dev : BitVec 8
  members : List (BitVec 16 × BitVec 8)
  reach : BitVec 32
  deriving DecidableEq, Repr

/-- Contributions held by a reduction unit (R347): the channel, the row ordinal and each member's row. -/
structure Reduction where
  coupe : CoupeId
  handle : BitVec 16
  ord : BitVec 16
  parts : List (Nat × Row × Bool)
  deriving DecidableEq, Repr

structure EthPort where
  up : Bool
  stats : Sparse (BitVec 64)
  testing : Bool
  deriving DecidableEq, Repr

def EthPort.reset : EthPort := ⟨false, [], false⟩

/-- A work request's outcome (R354): 0 executed, 1 local protection error, 2 remote protection error, 3 failed. -/
structure WorkDone where
  qp : BitVec 10
  status : BitVec 2
  deriving DecidableEq, Repr

/-- An RDMA READ into a SEQ buffer that has not finished (R355). -/
structure Import where
  qp : BitVec 10
  slot : SlotId
  gen : BitVec 16
  b0 : BitVec 16
  blocks : BitVec 16
  /-- Groups allocated so far for the blocks that arrive. -/
  groups : List GroupId := []
  deriving DecidableEq, Repr

/-! ## Set-up, power, heat -/

/-- The set-up registers of R413 that hold a value. -/
structure Setup where
  locked : Bool
  checking : Bool
  lockViol : BitVec 32
  err : BitVec 8
  ringTable : BitVec 64
  ledgerBase : BitVec 64
  ledgerSize : BitVec 64
  devMirror : BitVec 64
  coupeMirror : BitVec 64
  doorbellMode : BitVec 1
  pollInterval : BitVec 7
  nfunc : BitVec 4
  qpBase : BitVec 64
  qpCount : BitVec 11
  exportBase : BitVec 64
  exportCount : BitVec 16
  ip0 : BitVec 128
  ip1 : BitVec 128
  pfc : BitVec 16
  cnp : BitVec 32
  telemIp : BitVec 128
  telemPort : BitVec 17
  deriving DecidableEq, Repr

def Setup.reset : Setup where
  locked := false
  checking := false
  lockViol := 0
  err := 0
  ringTable := 0
  ledgerBase := 0
  ledgerSize := 0
  devMirror := 0
  coupeMirror := 0
  doorbellMode := 0
  pollInterval := 2
  nfunc := 1
  qpBase := 0
  qpCount := 0
  exportBase := 0
  exportCount := 0
  ip0 := 0
  ip1 := 0
  pfc := 0
  cnp := 0
  telemIp := 0
  telemPort := 0

/-- Device states of R391. -/
inductive DeviceState where
  | bringUp | early | ready | draining | tripped
  deriving DecidableEq, Repr

inductive RailState where
  | off | ramping | on | shutOff | latched
  deriving DecidableEq, Repr

structure RailUnit where
  state : RailState
  retries : BitVec 2
  inService : Bool
  deriving DecidableEq, Repr

def RailUnit.reset : RailUnit := ⟨.off, 0, false⟩

/-- The ranger (R390, R398, R399). -/
structure Ranger where
  booted : Bool
  running : Bool
  auxReady : Bool
  restarts : BitVec 8
  /-- Power fault records, newest last, at most 256. -/
  log : List (BitVec 128)
  fwVer : BitVec 16
  deriving DecidableEq, Repr

def Ranger.reset : Ranger := ⟨false, false, false, 0, [], 0⟩

/-- A self-test under way (R376) and recorded repairs of a block (R379, R380). -/
structure SelfTest where
  target : BitVec 8
  index : BitVec 16
  ring : RingId
  pos : BitVec 32
  start : BitVec 64
  deriving DecidableEq, Repr

/-- A self-test result as written to the host (R378): where, its header and its entries. -/
structure TestResult where
  addr : BitVec 64
  header : BitVec 512
  entries : List (BitVec 128)
  deriving DecidableEq, Repr

structure Block where
  target : BitVec 8
  index : BitVec 16
  recorded : List (BitVec 128)
  applied : List (BitVec 128)
  fused : List (BitVec 128)
  /-- Every entry of the last self-test. -/
  result : List (BitVec 128)
  deriving DecidableEq, Repr

/-- HST_RB (R325, R326). -/
inductive RbLevel where
  | busy | released
  deriving DecidableEq, Repr

/-- A reset in progress (R395). -/
inductive ResetPhase where
  | none | warm (needsPerst : Bool) | heldWarm
  deriving DecidableEq, Repr

/-- TAP instructions (R432). -/
inductive TapInstr where
  | bypass | idcode | samplePreload | extest | clamp | highz | extestPulse | extestTrain
  deriving DecidableEq, Repr

/-- Power, pins and heat (R384–R411). -/
structure Power where
  aux : Bool
  main : Bool
  device : DeviceState
  /-- The state a warm reset returns to (R391). -/
  before : DeviceState
  resetPhase : ResetPhase
  perst : Bool
  coldRst : Bool
  trip : Bool
  pwrFlt : Bool
  rb : RbLevel
  lastBark : Option (BitVec 64)
  barkOwed : Bool
  busySince : BitVec 64
  releasedAt : BitVec 64
  linkUp : Bool
  rate : BitVec 3
  width : BitVec 3
  cxl : Bool
  floor : BitVec 12
  ramp : BitVec 16
  ballast : BitVec 16
  /-- The floor that the ramp has reached, in tenths of a W (R405). -/
  floorNow : Nat
  lastShort : Option (BitVec 64)
  vin : BitVec 32
  pin : BitVec 32
  tjmax : Int
  tin : Int
  tout : Int
  warned : List (Sensor × Nat)
  warnedAt : List (Sensor × BitVec 64)
  colds : BitVec 32
  warms : BitVec 32
  drainSince : Option (BitVec 64)
  deriving DecidableEq, Repr

def Power.reset : Power where
  aux := false
  main := false
  device := .bringUp
  before := .bringUp
  resetPhase := .none
  perst := true
  coldRst := false
  trip := false
  pwrFlt := false
  rb := .busy
  lastBark := none
  barkOwed := false
  busySince := 0
  releasedAt := 0
  linkUp := false
  rate := 0
  width := 0
  cxl := false
  floor := 0
  ramp := 0
  ballast := 0
  floorNow := 0
  lastShort := none
  vin := 0
  pin := 0
  tjmax := 0
  tin := 0
  tout := 0
  warned := []
  warnedAt := []
  colds := 0
  warms := 0
  drainSince := none

/-- What the mirrors show besides the journalled records, as of the last commit (R65, R117, R192, R351, R409). -/
structure Mirror where
  slots : Sparse Slot
  benchLogs : Sparse (BitVec 64)
  tierLogs : Sparse (BitVec 64)
  links : Sparse Link
  coord : BitVec 128
  reach : BitVec 32
  stands : Sparse Stand
  power : Power
  timebase : BitVec 64
  dropped : BitVec 64
  yardMode : YardMode
  yardGib : Nat
  sectors : Sparse Sector
  deckStacks : Sparse Stack
  restarts : BitVec 8
  latched : Nat
  queues : List (Nat × Nat × Queue)
  /-- LIST_HEAD and the tree's address of sequences whose homes an open step may have moved, as they stood before it
  (R181). -/
  homes : Sparse (Option (BitVec 48 × BitVec 48))
  /-- GEN of a mirror page, and the COMMIT that last changed it, by page number; coupe mirrors from 128 on. -/
  gens : Sparse (BitVec 64)
  commits : Sparse (BitVec 64)
  deriving DecidableEq, Repr

def Mirror.reset : Mirror where
  slots := []
  benchLogs := []
  tierLogs := []
  links := []
  coord := 0
  reach := 0
  stands := []
  power := Power.reset
  timebase := 0
  dropped := 0
  yardMode := .none
  yardGib := 0
  sectors := []
  deckStacks := []
  restarts := 0
  latched := 0
  queues := []
  homes := []
  gens := []
  commits := []

/-! ## The whole part -/

structure State where
  /-- Commands that wait, first in, first out. -/
  pending : List Instr
  /-- The device timebase in ticks of 10 ns (R64, R413). -/
  timebase : BitVec 64
  /-- Free values drawn so far (the model's own; log entry 3). -/
  free : Nat
  /-- All memory of the device address map (R172): bench, deck and yard, byte by byte. -/
  mem : List Host.Cell
  /-- Poisoned rows and granules, by their first address, ascending. -/
  poison : List Nat
  rowErrors : Sparse RowError
  granuleErrors : Sparse GranuleError
  cores : Sparse Core
  slots : Sparse Slot
  stands : Sparse Stand
  sectors : Sparse Sector
  -- the network between cores
  readReqs : List ReadReq
  readReplies : List ReadReply
  windowRows : List WindowRow
  acks : List WriteAck
  /-- Packets that have entered the network so far (the model's own: the order of their injection). -/
  injected : Nat
  skids : List SkidFwd
  leaseHits : List LeaseHit
  /-- Arrivals on their way to their barriers (R169, R170). -/
  arrivals : List Arrival
  -- memory units and movers
  deckStacks : Sparse Stack
  channels : Sparse Channel
  yardMode : YardMode
  yardGib : Nat
  /-- The yard is in self-refresh (R194). -/
  yardRefresh : Bool
  /-- Writes sent to host memory, in order (R176, R245). -/
  hostOut : List HostWrite
  transfers : List Transfer
  poolWait : List PoolWait
  /-- Granted requests with runs not placed yet (R186). -/
  granted : List PoolGrant
  /-- MOVE transfers that the device has issued for its pools (R187, R230, R441). -/
  moves : List DevMove
  /-- Descriptors whose recall has failed, each with its status (R214, R232). -/
  recallLost : List RecallLoss
  /-- Group numbers freed since the last commit, not reused before the next (R217). -/
  freedGroups : List GroupId
  journalA : SectorId
  journalB : SectorId
  journalOk : Bool
  -- journalled records, live and as of the last commit
  dur : Durable
  journal : Durable
  due : List Due
  /-- Changes that were still due after the last commit (R312). -/
  journalDue : List Due
  /-- Save areas as the last commit knew them: of a coupe, and of its jobs (R312). -/
  journalSaved : List (Nat × Option Saved × Sparse (Option Saved))
  mirror : Mirror
  -- coupes
  runs : Sparse CoupeRun
  scentRebuild : Bool
  -- rings
  rings : Sparse Ring
  fetchLast : Sparse (BitVec 15)
  stamp : Nat
  posted : List Posted
  events : List Event
  dropped : BitVec 64
  funcReset : BitVec 8
  -- links
  coord : Option (BitVec 128)
  links : Sparse Link
  announced : List Announced
  sent : List Sent
  reductions : List Reduction
  -- Ethernet
  eth : Sparse EthPort
  workDone : List WorkDone
  imports : List Import
  telemetry : Nat
  -- set-up, power, test
  setup : Setup
  /-- RING_TABLE_BASE, LEDGER_BASE and LEDGER_SIZE of the last lock (R313). -/
  lastLock : Option (BitVec 64 × BitVec 64 × BitVec 64)
  power : Power
  rails : Sparse RailUnit
  ranger : Ranger
  tests : List SelfTest
  testResults : List TestResult
  blocks : List Block
  tap : TapInstr
  tapHolds : Bool
  i3c : Option (BitVec 7)
  /-- The provisional ID last sent on the I3C bus (R431). -/
  i3cSent : Option (BitVec 48)
  deriving DecidableEq, Repr

/-- The part as it is before any supply is applied (R385, R413): nothing runs, nothing is held, every
register at the value the spec gives for reset or the value a log entry names (entries 3 and 4). -/
def State.reset : State where
  pending := []
  timebase := 0
  free := 0
  mem := []
  poison := []
  rowErrors := []
  granuleErrors := []
  cores := []
  slots := []
  stands := []
  sectors := []
  readReqs := []
  readReplies := []
  windowRows := []
  acks := []
  injected := 0
  skids := []
  leaseHits := []
  arrivals := []
  deckStacks := []
  channels := []
  yardMode := .none
  yardGib := 0
  yardRefresh := false
  hostOut := []
  transfers := []
  poolWait := []
  granted := []
  moves := []
  recallLost := []
  freedGroups := []
  journalA := 0
  journalB := 4
  journalOk := true
  dur := Durable.reset
  journal := Durable.reset
  due := []
  journalDue := []
  journalSaved := []
  mirror := Mirror.reset
  runs := []
  scentRebuild := false
  rings := []
  fetchLast := []
  stamp := 0
  posted := []
  events := []
  dropped := 0
  funcReset := 0
  coord := none
  links := []
  announced := []
  sent := []
  reductions := []
  eth := []
  workDone := []
  imports := []
  telemetry := 0
  setup := Setup.reset
  lastLock := none
  power := Power.reset
  rails := []
  ranger := Ranger.reset
  tests := []
  testResults := []
  blocks := []
  tap := .idcode
  tapHolds := false
  i3c := none
  i3cSent := none

end Sys2Proof.Machine
end

