-- ==== Sys2Proof/Machine/Ops.lean ====
section
/-! DEFINITION. The named operations over memory, cores, records, events and completions. -/

namespace Sys2Proof.Machine

/-! ## Memory (R95, R96, R172, R175) -/

/-- What a byte that nothing has written reads as: 0 (R118, R194, R379). -/
def Memory.empty : BitVec 8 := 0

/-- The canonical form of memory: addresses rise strictly, and no entry holds what an unlisted address
reads as. -/
def Memory.wf (m : List Host.Cell) : Bool :=
  decide (m.Pairwise (fun a b => a.1 < b.1)) && m.all (fun c => decide (c.2 ≠ Memory.empty))

/-- One byte. -/
def Memory.byte (a : Nat) (m : List Host.Cell) : BitVec 8 := (m.lookup a).getD Memory.empty

/-- The cells of bytes `bs` from address `a` on, without those equal to the empty byte. -/
def Memory.cells : Nat → List (BitVec 8) → List Host.Cell
  | _, [] => []
  | a, b :: bs => (if b = Memory.empty then [] else [(a, b)]) ++ Memory.cells (a + 1) bs

/-- Bytes written from address `a` on. -/
def Memory.write (a : Nat) (bs : List (BitVec 8)) (m : List Host.Cell) : List Host.Cell :=
  m.filter (fun c => c.1 < a) ++ Memory.cells a bs ++ m.filter (fun c => a + bs.length ≤ c.1)

/-- `n` bytes from address `a` as one little-endian number. -/
def Memory.read (a n : Nat) (m : List Host.Cell) : Nat :=
  (m.filter (fun c => a ≤ c.1 && c.1 < a + n)).foldl (fun acc c => acc + c.2.toNat * 2 ^ (8 * (c.1 - a))) 0

/-- The bytes of a number, lowest first. -/
def bytesLE : Nat → Nat → List (BitVec 8)
  | 0, _ => []
  | n + 1, v => BitVec.ofNat 8 v :: bytesLE n (v / 256)

/-- A 512-byte row. -/
def Memory.row (a : Nat) (m : List Host.Cell) : Row := BitVec.ofNat 4096 (Memory.read a 512 m)
/-- A whole row written. -/
def Memory.writeRow (a : Nat) (r : Row) (m : List Host.Cell) : List Host.Cell :=
  Memory.write a (bytesLE 512 r.toNat) m

/-- The poison list with `a` in it, in ascending order. -/
def Poison.add (a : Nat) (p : List Nat) : List Nat := p.filter (· < a) ++ [a] ++ p.filter (a < ·)
/-- The poison list without `a`. -/
def Poison.del (a : Nat) (p : List Nat) : List Nat := p.filter (· ≠ a)
/-- Poison at `a` set to `b`. -/
def Poison.put (a : Nat) (b : Bool) (p : List Nat) : List Nat := if b then Poison.add a p else Poison.del a p

/-- First byte of bench row r of core c (R96). -/
def benchAddr (c : CoreId) (r : Nat) : Nat := c.toNat * 2 ^ 24 + r * 2 ^ 9
/-- The last bench row (R95). -/
def lastRow : Nat := 30719
/-- Deck base (R8). -/
def deckBase : Nat := 0x010000000000
/-- Size of one deck stack (R172). -/
def stackSize : Nat := 0xC00000000
/-- Deck base of stack s. -/
def stackBase (s : Nat) : Nat := deckBase + s * stackSize
/-- First offset of the device reserve of a stack (R173). -/
def reserveOff : Nat := 0xBF0000000
/-- Yard base (R8). -/
def yardBase : Nat := 0x080000000000

/-! ## Accessors -/

namespace State
def core (s : State) (c : CoreId) : Core := s.cores.get Core.reset c.toNat
def setCore (s : State) (c : CoreId) (x : Core) : State := { s with cores := s.cores.set Core.reset c.toNat x }
def slot (s : State) (c : CoreId) : Slot := s.slots.get Slot.reset c.toNat
def setSlot (s : State) (c : CoreId) (x : Slot) : State := { s with slots := s.slots.set Slot.reset c.toNat x }
def stand (s : State) (g : StandId) : Stand := s.stands.get Stand.reset g.toNat
def setStand (s : State) (g : StandId) (x : Stand) : State :=
  { s with stands := s.stands.set Stand.reset g.toNat x }
def sector (s : State) (i : SectorId) : Sector := s.sectors.get Sector.reset i.val
def setSector (s : State) (i : SectorId) (x : Sector) : State :=
  { s with sectors := s.sectors.set Sector.reset i.val x }
def stack (s : State) (i : SectorId) : Stack := s.deckStacks.get Stack.reset i.val
def setStack (s : State) (i : SectorId) (x : Stack) : State :=
  { s with deckStacks := s.deckStacks.set Stack.reset i.val x }
def channel (s : State) (i : ChannelId) : Channel := s.channels.get Channel.reset i.val
def setChannel (s : State) (i : ChannelId) (x : Channel) : State :=
  { s with channels := s.channels.set Channel.reset i.val x }
def coupe (s : State) (k : CoupeId) : Coupe := s.dur.coupes.get Coupe.reset k.toNat
def setCoupe (s : State) (k : CoupeId) (x : Coupe) : State :=
  { s with dur := { s.dur with coupes := s.dur.coupes.set Coupe.reset k.toNat x } }
def run (s : State) (k : CoupeId) : CoupeRun := s.runs.get CoupeRun.reset k.toNat
def setRun (s : State) (k : CoupeId) (x : CoupeRun) : State :=
  { s with runs := s.runs.set CoupeRun.reset k.toNat x }
def seq (s : State) (i : SlotId) : Seq := s.dur.seqs.get Seq.reset i.toNat
def setSeq (s : State) (i : SlotId) (x : Seq) : State :=
  { s with dur := { s.dur with seqs := s.dur.seqs.set Seq.reset i.toNat x } }
def group (s : State) (i : GroupId) : Group := s.dur.groups.get Group.reset i.toNat
def setGroup (s : State) (i : GroupId) (x : Group) : State :=
  { s with dur := { s.dur with groups := s.dur.groups.set Group.reset i.toNat x } }
def image (s : State) (h : BitVec 10) : Image := s.dur.images.get Image.reset h.toNat
def setImage (s : State) (h : BitVec 10) (x : Image) : State :=
  { s with dur := { s.dur with images := s.dur.images.set Image.reset h.toNat x } }
def ringOf (s : State) (r : RingId) : Ring := s.rings.get Ring.reset r.toNat
def setRing (s : State) (r : RingId) (x : Ring) : State :=
  { s with rings := s.rings.set Ring.reset r.toNat x }
def link (s : State) (l : LinkId) : Link := s.links.get Link.reset l.val
def setLink (s : State) (l : LinkId) (x : Link) : State :=
  { s with links := s.links.set Link.reset l.val x }
def railUnit (s : State) (i : Nat) : RailUnit := s.rails.get RailUnit.reset i
def setRail (s : State) (i : Nat) (x : RailUnit) : State :=
  { s with rails := s.rails.set RailUnit.reset i x }
def ethPort (s : State) (p : Bool) : EthPort := s.eth.get EthPort.reset (b2n p)
def setEth (s : State) (p : Bool) (x : EthPort) : State :=
  { s with eth := s.eth.set EthPort.reset (b2n p) x }
def queue (s : State) (k : CoupeId) (h : BitVec 16) : Option Queue := (s.run k).queues.get none h.toNat
def setQueue (s : State) (k : CoupeId) (h : BitVec 16) (q : Option Queue) : State :=
  s.setRun k { s.run k with queues := (s.run k).queues.set none h.toNat q }
end State

/-- The low 48 bits of the timebase, as STALL_SINCE and AGE hold it. -/
def now48 (s : State) : BitVec 48 := BitVec.ofNat 48 s.timebase.toNat

/-- A value the spec leaves open; the counter advances so that the next one is another (log entry 3). -/
def drawFree (s : State) : BitVec 64 × State := (Config.freeValue s.free, { s with free := s.free + 1 })

/-- All 128 coupe numbers, 128 stands, 24 links, 8 sectors, and a stand's 32 slots. -/
def allCoupes : List CoupeId := (List.range 128).map (BitVec.ofNat 7)
def allStands : List StandId := (List.range 128).map (BitVec.ofNat 7)
def allLinks : List LinkId := List.finRange 24
def allSectors : List SectorId := List.finRange 8
def allChannels : List ChannelId := List.finRange 16
def standCores (g : StandId) : List CoreId := (List.range 32).map (coreOf g)
def sectorStands (i : SectorId) : List StandId := (List.range 16).map (fun t => BitVec.ofNat 7 (i.val * 16 + t))

/-- Numbers of the coupes with an entry in the coupe table. -/
def listedCoupes (s : State) : List CoupeId := s.dur.coupes.map (fun e => BitVec.ofNat 7 e.1)

/-- Whether a stand mask names stand g. -/
def inMask (m : BitVec 128) (g : StandId) : Bool := bit m g.toNat

/-- The stands of a coupe in ascending number. -/
def Coupe.standList (c : Coupe) : List StandId := allStands.filter (inMask c.stands)

/-- The cores of a coupe. -/
def coupeCores (s : State) (k : CoupeId) : List CoreId := (s.coupe k).standList.flatMap standCores

/-- The coupe that holds a stand (R3: at most one). -/
def coupeOfStand (s : State) (g : StandId) : Option CoupeId :=
  (listedCoupes s).find? (fun k => inMask (s.coupe k).stands g)

/-- The coupe of a core. -/
def coupeOf (s : State) (c : CoreId) : Option CoupeId := coupeOfStand s (coreStand c)

/-- The resident binding of a coupe (R265, R285). -/
def bindingOf (s : State) (k : CoupeId) : Option Config :=
  (s.coupe k).bindings.get none (s.coupe k).curJob.toNat

/-- Low 16 bits of the coupe's step counter (R237). -/
def step16 (s : State) (k : CoupeId) : BitVec 16 := BitVec.ofNat 16 (s.coupe k).stepctr.toNat

/-- Progress of a coupe (R140). -/
def progress (s : State) (c : CoreId) : State :=
  match coupeOf s c with
  | none => s
  | some k => s.setRun k { s.run k with lastProgress := s.timebase }

/-! ## Events (R320–R324) -/

/-- An attention event for function f. -/
def raise (f : BitVec 3) (kind : Nat) (record : BitVec 64) (value : Nat) (stepno : BitVec 48) (ring : RingId)
    (k : CoupeId) (c : CoreId) (s : State) : State :=
  { s with events := s.events ++ [⟨f, BitVec.ofNat 8 kind, record, BitVec.ofNat 32 value, stepno, ring, k, c⟩] }

/-- An event with only a value, for function 0. -/
def raise0 (kind value : Nat) (s : State) : State := raise 0 kind 0 value 0 0 0 0 s

/-- An event about a core, owned by its coupe's function, or function 0 (R321, R383). -/
def raiseCore (kind : Nat) (record : BitVec 64) (value : Nat) (c : CoreId) (s : State) : State :=
  match coupeOf s c with
  | none => raise 0 kind record value 0 0 0 c s
  | some k => raise (s.coupe k).func kind record value (s.coupe k).stepctr 0 k c s

/-- An event of a task, kept with its step's attempt: only those of the attempt that commits are published (R34). -/
def raiseTask (kind : Nat) (record : BitVec 64) (c : CoreId) (s : State) : State :=
  match coupeOf s c with
  | none => raise 0 kind record 0 0 0 0 c s
  | some k =>
    match (s.run k).openStep with
    | none => raise (s.coupe k).func kind record 0 (s.coupe k).stepctr 0 k c s
    | some st =>
      let e : Event := ⟨(s.coupe k).func, BitVec.ofNat 8 kind, record, 0, st.number, 0, k, c⟩
      s.setRun k { s.run k with openStep := some { st with events := st.events ++ [e] } }

/-! ## The device state (R391) -/

/-- STATE of a device (R318, R391). -/
def DeviceState.code : DeviceState → Nat
  | .bringUp => 0 | .early => 1 | .ready => 2 | .draining => 3 | .tripped => 4

/-- The device changes its state, which raises DEVICE_STATE (R410). -/
def setDevice (d : DeviceState) (s : State) : State :=
  if s.power.device = d then s else raise0 0x30 d.code { s with power := { s.power with device := d } }

/-- EARLY becomes READY once every stand in service and in no coupe is calibrated (R391, R393). -/
def maybeReady (s : State) : State :=
  if s.power.device = .early
      && allStands.all (fun g => !(s.stand g).inService || (coupeOfStand s g).isSome || (s.stand g).cal) then
    setDevice .ready s
  else s

/-! ## HST_RB (R325, R385, R419) -/

/-- What lets HST_RB be released: main power, EARLY or READY, set-up locked, no reset under way, a journal. -/
def mayRelease (s : State) : Bool :=
  s.power.main && (s.power.device = .early || s.power.device = .ready) && s.setup.locked
    && s.power.resetPhase = .none && s.journalOk

/-- HST_RB as the device's condition has it. -/
def settleRb (s : State) : State :=
  if mayRelease s then
    if s.power.rb = .released then s
    else { s with power := { s.power with rb := .released, releasedAt := s.timebase } }
  else if s.power.rb = .busy then s
  else { s with power := { s.power with rb := .busy, busySince := s.timebase } }

/-- A stand as an event's CORE: its core bits are zero. -/
def standCore (g : StandId) : CoreId := coreOf g 0

/-- Stand clocks run: main power is on, and no reset or trip has stopped the part (R395, R407). -/
def clocksRun (s : State) : Bool := s.power.main && s.power.resetPhase = .none && s.power.device ≠ .tripped

/-- One isolation event per kind, coupe and step (R272). -/
def raiseIsolation (kind : BitVec 4) (src : CoupeId) (dst : Option CoupeId) (c : CoreId) (s : State) : State :=
  let r := s.run src
  if r.isolation.contains kind then s
  else
    let rec64 : BitVec 64 :=
      put 60 kind.toNat ||| put 52 src.toNat ||| put 44 (match dst with | some d => d.toNat | none => 0xFF)
        ||| put 32 c.toNat ||| put 16 (step16 s src).toNat
    raise 0 0x03 rec64 0 (s.coupe src).stepctr 0 src c
      (s.setRun src { r with isolation := r.isolation ++ [kind] })

/-! ## Bench rows (R113–R117) -/

/-- A bench error log after an event (R117). -/
def benchLog (log : BitVec 64) (row : Nat) (word bit_ : Nat) (ue : Bool) (src : Nat) : BitVec 64 :=
  let ce := bits log 63 48
  let u := bits log 47 40
  put 48 (if ue then ce else satAdd 16 ce 1) ||| put 40 (if ue then satAdd 8 u 1 else u)
    ||| put 25 row ||| put 20 word ||| put 12 bit_ ||| put 11 (b2n ue) ||| put 9 src

/-- First addresses of the granules that [a, a+n) touches. -/
def granulesOf (a n : Nat) : List Nat :=
  if n = 0 then [] else
    (List.range ((a + n - 1) / 64 - a / 64 + 1)).map (fun i => (a / 64 + i) * 64)

/-- The yard copy of a granule of a deck image copy, when that copy is clean (R360). The copy's units lie in rotation over
its runs (R184). -/
def leaseSource (s : State) (a : Nat) : Option Nat :=
  s.dur.allocs.findSome? (fun x =>
    match x.kind with
    | .imageDeck h =>
      if x.addr.toNat ≤ a && a < x.addr.toNat + x.units * 4096 then
        let runs := s.dur.allocs.filter (fun y => y.kind = .imageDeck h)
        let j := runs.findIdx (fun y => y.addr = x.addr)
        let off := ((a - x.addr.toNat) / 4096 * runs.length + j) * 4096 + a % 4096
        match s.dur.allocs.find? (fun y => y.kind = .imageYard h) with
        | some y =>
          let src := y.addr.toNat + off
          if s.poison.contains src || s.granuleErrors.get .none src = .uncorrectable then none else some src
        | none => none
      else none
    | _ => none)

/-- Deck address of unit u of a copy of m runs. -/
def copyUnit (runs : List Alloc) (u : Nat) : Nat :=
  match runs[u % runs.length]? with
  | some r => r.addr.toNat + u / runs.length * 4096
  | none => 0

/-- The runs of an image's deck copy, in rotation order. -/
def copyRuns (s : State) (h : BitVec 10) : List Alloc := s.dur.allocs.filter (fun a => a.kind = .imageDeck h)

/-- The deck copy of the image row that a resident tile put into row r of core c's bench (R164, R183). -/
def leaseRow (s : State) (c : CoreId) (r : Nat) : Option Nat :=
  match coupeOf s c with
  | none => none
  | some k =>
    match bindingOf s k with
    | none => none
    | some cfg =>
      let runs := copyRuns s cfg.image
      if runs.isEmpty then none
      else (cfg.tiles.findSome? (fun l => if l.1 = c && l.2.1 ≤ r then l.2.2.2.getD (r - l.2.1) none else none)).map
        (fun i => copyUnit runs (i / 8) + i % 8 * 512)

/-- A granule of a deck copy that is clean, or is once it has been staged again. -/
def cleanGranule (s : State) (g : Nat) : Bool :=
  match s.granuleErrors.get .none g with
  | .uncorrectable => (leaseSource s g).isSome
  | _ => !s.poison.contains g

/-- Row r of core c's bench is a lease row with a clean copy (R360); one that a task has written over is none (log entry
30). -/
def benchLease (s : State) (c : CoreId) (r : Nat) : Bool :=
  match leaseRow s c r with
  | none => false
  | some a => (granulesOf a 512).all (cleanGranule s) && Memory.row a s.mem = Memory.row (benchAddr c r) s.mem

/-- The lowest of a row's corrected codewords, with its bit (R117). -/
def lowestWord : List (Nat × Nat) → Option (Nat × Nat)
  | [] => none
  | e :: es =>
    match lowestWord es with
    | some b => if e.1 < b.1 then some e else some b
    | none => some e

/-- Read one bench row; `src` is LAST_SRC. Gives the delivered row and its poison (R114). A lease row with
an uncorrectable codeword is delivered poisoned and staged again from its clean copy (R360). A row with both corrected
codewords and disagreeing poison copies logs one event, that of the copies (DESIGN CHOICE, log entry 123). -/
def readBench (c : CoreId) (r : Nat) (src : Nat) (s : State) : (Row × Bool) × State :=
  let a := benchAddr c r
  let data := Memory.row a s.mem
  let e := s.rowErrors.get RowError.none a
  let x := s.core c
  match e.ue, e.copies, lowestWord e.ce with
  | some w, _, _ =>
    let y := { x with errLog := benchLog x.errLog r w 0xFF true src }
    if benchLease s c r then
      ((data, true), { s with
        poison := Poison.del a s.poison
        rowErrors := s.rowErrors.set RowError.none a RowError.none
        leaseHits := s.leaseHits ++ [(⟨c, BitVec.ofNat 15 r, src ≠ 3, false⟩ : LeaseHit)] }.setCore c y)
    else ((data, true), { s with poison := Poison.add a s.poison }.setCore c y)
  | none, true, _ =>
    ((data, s.poison.contains a),
      { s with rowErrors := s.rowErrors.set RowError.none a { e with copies := false } }.setCore c
        { x with errLog := benchLog x.errLog r 0 0xFF false src })
  | none, false, some (w, b) =>
    ((data, s.poison.contains a), s.setCore c { x with errLog := benchLog x.errLog r w b false src })
  | none, false, none => ((data, s.poison.contains a), s)

/-- Write one whole bench row; its poison becomes that of the data (R115). -/
def writeBench (c : CoreId) (r : Nat) (data : Row) (poison : Bool) (s : State) : State :=
  let a := benchAddr c r
  { s with
    mem := Memory.writeRow a data s.mem
    poison := Poison.put a poison s.poison
    rowErrors := s.rowErrors.set RowError.none a RowError.none }

/-- A row that the running task writes: poisoned too when the task is poison-tainted (R358). -/
def taskWrite (c : CoreId) (r : Nat) (data : Row) (poison : Bool) (s : State) : State :=
  writeBench c r data (poison || (s.core c).tainted) s

/-- Several rows read in ascending order. -/
def readBenchRows (c : CoreId) (src : Nat) : List Nat → State → List (Row × Bool) × State
  | [], s => ([], s)
  | r :: rs, s =>
    let (d, s1) := readBench c r src s
    let (ds, s2) := readBenchRows c src rs s1
    (d :: ds, s2)

/-! ## Deck and yard granules (R175, R176, R189, R190) -/

/-- Whether an address lies in the bench window. -/
def isBench (a : Nat) : Bool := a < 0x001000000000
/-- Whether an address lies in the deck. -/
def isDeck (a : Nat) : Bool := deckBase ≤ a && a < deckBase + 8 * stackSize
/-- Whether an address lies in the yard's valid capacity (R174). -/
def isYard (s : State) (a : Nat) : Bool := yardBase ≤ a && a < yardBase + s.yardGib * 2 ^ 30
/-- The stack of a deck address. -/
def stackOf (a : Nat) : SectorId := ⟨(a - deckBase) / stackSize % 8, by omega⟩

/-- The pseudo-channel that serves a deck row: A[14:9] xor A[20:15], A being the offset in the stack (R173). Only the timing
depends on it. -/
def pseudoChannel (a : Nat) : Nat :=
  let o := (a - deckBase) % stackSize
  (o >>> 9) % 64 ^^^ (o >>> 15) % 64

/-- The yard channel of an address (R174). -/
def yardChannel (s : State) (a : Nat) : ChannelId :=
  let y := a - yardBase
  match s.yardMode with
  | .full => ⟨(y >>> 10 % 16) ^^^ (y >>> 14 % 16), by
      have h1 : y >>> 10 % 16 < 2 ^ 4 := Nat.mod_lt _ (by decide)
      have h2 : y >>> 14 % 16 < 2 ^ 4 := Nat.mod_lt _ (by decide)
      exact Nat.xor_lt_two_pow h1 h2⟩
  | .half1 => ⟨2 * ((y >>> 10 ^^^ y >>> 14) % 8) + 1, by omega⟩
  | _ => ⟨2 * ((y >>> 10 ^^^ y >>> 14) % 8), by omega⟩

/-- A deck or yard error log after an event (R192): kind 0 CE, 1 UE, 2 timeout, 3 unit failure. -/
def tierLog (log : BitVec 64) (kind symbol granule : Nat) : BitVec 64 :=
  let ce := bits log 63 52
  let ue := bits log 51 46
  let tmo := bits log 45 40
  put 52 (if kind = 0 then satAdd 12 ce 1 else ce) ||| put 46 (if kind = 1 then satAdd 6 ue 1 else ue)
    ||| put 40 (if kind = 2 then satAdd 6 tmo 1 else tmo) ||| put 38 kind ||| put 32 symbol
    ||| put 0 (granule % 2 ^ 32)

/-- The granule of a yard address within its channel: its 1 KiB pieces count in ascending address (R174, R192). -/
def yardGranule (s : State) (a : Nat) : Nat :=
  let y := a - yardBase
  let row := match s.yardMode with
    | .full => y / 16384
    | _ => y / 8192
  row * 16 + y % 1024 / 64

/-- Log an event of the unit that holds an address (R192). -/
def logTier (a kind symbol : Nat) (s : State) : State :=
  if isDeck a then
    let i := stackOf a
    s.setStack i { s.stack i with log := tierLog (s.stack i).log kind symbol ((a - stackBase i.val) / 64) }
  else
    let i := yardChannel s a
    s.setChannel i { s.channel i with log := tierLog (s.channel i).log kind symbol (yardGranule s a) }

/-- The page group whose rows hold an address. -/
def groupAt (s : State) (a : Nat) : Option GroupId :=
  s.dur.allocs.findSome? (fun x =>
    match x.kind with
    | .group g => if x.addr.toNat ≤ a && a < x.addr.toNat + x.units * 4096 then some g else none
    | _ => none)

/-- An uncorrectable granule found: logged; one of a deck image copy is staged again from its clean copy (R360); any other
is stored with the poison pattern, and the group it belongs to poisoned at the next commit (R189, R190, R222). -/
def foundBad (a : Nat) (s : State) : State :=
  let s1 := logTier a 1 0x3F { s with granuleErrors := s.granuleErrors.set .none a .none }
  match leaseSource s a with
  | some src =>
    raise0 0x19 ((a - deckBase) % stackSize / 64) { s1 with
      mem := Memory.write a (bytesLE 64 (Memory.read src 64 s1.mem)) s1.mem
      poison := Poison.del a s1.poison }
  | none =>
    let s2 : State := { s1 with poison := Poison.add a s1.poison }
    match groupAt s a with
    | none => s2
    | some g => { s2 with due := s2.due ++ [.poisonGroup g] }

/-- A row of the deck whose uncorrectable granule is staged again once it is read. -/
def leaseHit (s : State) (a : Nat) : Bool :=
  !isBench a && (granulesOf a 512).any (fun g => s.granuleErrors.get .none g = .uncorrectable && (leaseSource s g).isSome)

/-- One granule read: whether it is delivered poisoned, with the effects of R189. -/
def readGranule (a : Nat) (s : State) : Bool × State :=
  match s.granuleErrors.get .none a with
  | .none => (s.poison.contains a, s)
  | .correctable sym => (s.poison.contains a, logTier a 0 sym.toNat s)
  | .uncorrectable => (true, foundBad a s)

/-- The granules of a row, poisoned when any of them is (R176). -/
def readGranules : List Nat → State → Bool × State
  | [], s => (false, s)
  | a :: as, s =>
    let (p, s1) := readGranule a s
    let (q, s2) := readGranules as s1
    (p || q, s2)

/-- Read a 512-byte row of any tier by device address. -/
def readRowAt (a : Nat) (s : State) : (Row × Bool) × State :=
  if isBench a then readBench (BitVec.ofNat 12 (a >>> 24)) (a >>> 9 % 2 ^ 15) 2 s
  else
    let (p, s1) := readGranules (granulesOf a 512) s
    ((Memory.row a s.mem, p), s1)

/-- Poison and errors of whole granules written with data of the given poison (R190). -/
def setGranules (p : Bool) : List Nat → State → State
  | [], s => s
  | a :: as, s =>
    setGranules p as { s with
      poison := Poison.put a p s.poison
      granuleErrors := s.granuleErrors.set .none a .none }

/-- Write a whole row of any tier by device address (R176, R190). -/
def writeRowAt (a : Nat) (data : Row) (poison : Bool) (s : State) : State :=
  if isBench a then writeBench (BitVec.ofNat 12 (a >>> 24)) (a >>> 9 % 2 ^ 15) data poison s
  else setGranules poison (granulesOf a 512) { s with mem := Memory.writeRow a data s.mem }

/-- One granule after a partial write (R190): poison is never laundered. -/
def mergeGranule (p : Bool) (a : Nat) (s : State) : State :=
  match s.granuleErrors.get .none a with
  | .none => if p then { s with poison := Poison.add a s.poison } else s
  | .correctable sym =>
    logTier a 0 sym.toNat { s with
      poison := if p then Poison.add a s.poison else s.poison
      granuleErrors := s.granuleErrors.set .none a .none }
  | .uncorrectable => foundBad a s

/-- Write bytes into the deck or the yard: whole granules afresh, covered parts read-modify-write (R190). -/
def writeBytesAt (a : Nat) (bs : List (BitVec 8)) (p : Bool) (s : State) : State :=
  let s1 := { s with mem := Memory.write a bs s.mem }
  (granulesOf a bs.length).foldl (fun t g =>
    if a ≤ g && g + 64 ≤ a + bs.length then setGranules p [g] t else mergeGranule p g t) s1

/-- Bytes, poison and errors of a range gone: it holds zero with valid codes. -/
def clearRange (lo n : Nat) (s : State) : State :=
  { s with
    mem := s.mem.filter (fun c => c.1 < lo || lo + n ≤ c.1)
    poison := s.poison.filter (fun a => a < lo || lo + n ≤ a)
    rowErrors := s.rowErrors.filter (fun e => e.1 < lo || lo + n ≤ e.1)
    granuleErrors := s.granuleErrors.filter (fun e => e.1 < lo || lo + n ≤ e.1) }

/-! ## Stall counters (R63, R64) -/

/-- Order of the stall counters in R63 and RDSYS: CYCLES is 0. -/
def Stall.index : Stall → Nat
  | .idle => 1 | .busy => 2 | .wload => 3 | .inEmpty => 4 | .outFull => 5
  | .remote => 6 | .narrow => 7 | .sync => 8 | .other => 9

/-- The four categories in which STALL_SINCE holds (R64). -/
def Stall.latched : Stall → Bool
  | .inEmpty => true | .outFull => true | .remote => true | .sync => true | _ => false

/-- n stand cycles counted in a category (R63). -/
def countCycles (k : Stall) (n : Nat) (x : Core) : Core :=
  let up (i : Nat) (m : Sparse (BitVec 48)) := m.set 0 i (m.get 0 i + BitVec.ofNat 48 n)
  { x with counters := up k.index (up 0 x.counters), counted := x.counted + n }

/-- One counted stand cycle in a category (R63). -/
def countCycle (k : Stall) (x : Core) : Core := countCycles k 1 x

/-- The category of a cycle in which core x's task stands as it does: IDLE without a task, OTHER in Dispatch, Drain and
Retire and where nothing is known to wait, else the category in which its instruction waits (R63). -/
def Core.category (x : Core) : Stall :=
  if x.task.isNone then .idle
  else if x.phase = .run && x.stall ≠ .busy && x.stall ≠ .idle then x.stall
  else .other

/-- The cycles of one tick counted, but for those that issue and stall have already counted; a halted core counts
nothing (R63). -/
def Core.elapse (n : Nat) (x : Core) : Core :=
  if x.halted then x
  else
    let k := n - x.counted
    let y := if k = 0 then x else countCycles x.category k x
    { y with counted := x.counted - n }

/-- The core issues: BUSY, and STALL_SINCE reads zero (R63, R64). -/
def Core.issued (x : Core) : Core := { countCycle .busy x with stall := .busy, stallSince := 0 }

/-- The core stalls in a category, waiting on queue `h` (R63, R64). -/
def Core.stalled (x : Core) (k : Stall) (h : BitVec 16) (t : BitVec 48) : Core :=
  let y := countCycle k x
  if k.latched then
    if x.stall.latched then { y with stall := k }
    else { y with stall := k, stallSince := t, lastQueue := h }
  else { y with stall := k, stallSince := 0 }

/-- Stand cycles of the tick at time t for a clock of f MHz: 10 ns hold f / 100 of them. -/
def tickCycles (f t : Nat) : Nat := (t + 1) * f / 100 - t * f / 100

/-- Whether the cores of a stand count cycles: its clock runs, in S1 while a task of it does (R402). -/
def standCounts (s : State) (g : StandId) : Bool :=
  clocksRun s && (s.stand g).inService && (s.stand g).mhz ≠ 0
    && ((s.stand g).pstate.toNat < 8 || ((s.stand g).pstate = 8 && (standCores g).any (fun c => (s.core c).task.isSome)))

/-- The cores of a stand count the cycles of a tick. -/
def elapseStand (s : State) (g : StandId) : State :=
  if standCounts s g then
    let n := tickCycles (s.stand g).mhz.toNat s.timebase.toNat
    (standCores g).foldl (fun t c => t.setCore c ((t.core c).elapse n)) s
  else s

/-- One tick of 10 ns of the device timebase (R64, R413), in which every core whose clock runs counts its cycles (R63). -/
def tick (s : State) : State :=
  let t := allStands.foldl elapseStand s
  { t with timebase := t.timebase + 1 }

/-! ## Scalar and vector registers (R74) -/

def Core.rd (x : Core) (r : Nat) : BitVec 64 := if r = 0 then 0 else x.g.get 0 r
def Core.rdP (x : Core) (r : Nat) : Bool := if r = 0 then false else x.gPoison.get false r
/-- g0 discards writes. -/
def Core.wr (x : Core) (r : Nat) (v : BitVec 64) (p : Bool) : Core :=
  if r = 0 then x else { x with g := x.g.set 0 r v, gPoison := x.gPoison.set false r p }
/-- The 64 lanes of a vector register. -/
def Core.vec (x : Core) (r : Nat) : List F32 :=
  let w := x.v.get 0 r
  (List.range 64).map (fun i => BitVec.ofNat 32 (w.toNat >>> (32 * i)))
def Core.vecP (x : Core) (r : Nat) : Bool := x.vPoison.get false r
def packVec (ls : List F32) : BitVec 2048 := BitVec.ofNat 2048 (packLE 32 (ls.map BitVec.toNat))
def Core.wrVec (x : Core) (r : Nat) (ls : List F32) (p : Bool) : Core :=
  { x with v := x.v.set 0 r (packVec ls), vPoison := x.vPoison.set false r p }

/-- The columns of the engine of a core's kind (R38). -/
def engineCols (c : CoreId) : Nat := if coreCourser c then 32 else 64
/-- The accumulator rows of a core's kind (R38). -/
def accRows (c : CoreId) : Nat := if coreCourser c then 128 else 64

/-! ## Task records (R55) -/

namespace Task
def qcw (w : BitVec 512) : BitVec 64 := BitVec.ofNat 64 (bits w 511 448)
def seed (w : BitVec 512) : BitVec 32 := BitVec.ofNat 32 (bits w 447 416)
def tag (w : BitVec 512) : BitVec 32 := BitVec.ofNat 32 (bits w 415 384)
def incarn (w : BitVec 512) : BitVec 16 := BitVec.ofNat 16 (bits w 383 368)
def step (w : BitVec 512) : BitVec 16 := BitVec.ofNat 16 (bits w 367 352)
def base (w : BitVec 512) : BitVec 15 := BitVec.ofNat 15 (bits w 351 337)
def bound (w : BitVec 512) : BitVec 15 := BitVec.ofNat 15 (bits w 336 322)
def entry (w : BitVec 512) : BitVec 21 := BitVec.ofNat 21 (bits w 321 301)
def port (w : BitVec 512) (p : Nat) : BitVec 16 := BitVec.ofNat 16 (bits w (300 - 16 * p) (285 - 16 * p))
def arg0 (w : BitVec 512) : BitVec 64 := BitVec.ofNat 64 (bits w 172 109)
def arg1 (w : BitVec 512) : BitVec 64 := BitVec.ofNat 64 (bits w 108 45)
def patrol (w : BitVec 512) : Bool := bit w 7
def repeat_ (w : BitVec 512) : Bool := bit w 6
def courser (w : BitVec 512) : Bool := bit w 0
def rsvdOk (w : BitVec 512) : Bool := bits w 44 8 = 0 && bits w 5 1 = 0
end Task

/-! ## Queue records (R122) -/

namespace QRec
def prod (w : BitVec 128) : CoreId := BitVec.ofNat 12 (bits w 127 116)
def prodPort (w : BitVec 128) : Nat := bits w 115 114
def cons (w : BitVec 128) : CoreId := BitVec.ofNat 12 (bits w 113 102)
def consPort (w : BitVec 128) : Nat := bits w 101 100
def slackLen (w : BitVec 128) : Nat := bits w 99 88
def slackBase (w : BitVec 128) : Nat := bits w 87 73
def padSel (w : BitVec 128) : Nat := bits w 72 65
def persist (w : BitVec 128) : Bool := bit w 64
def handle (w : BitVec 128) : BitVec 16 := BitVec.ofNat 16 (bits w 55 40)
/-- Depth 4 + SLACK_LEN (R124). -/
def depth (w : BitVec 128) : Nat := 4 + slackLen w
end QRec

/-! ## Exceptions of core instructions (R59, R86, R87) -/

/-- R86's status code of a class. -/
def ExcClass.code : ExcClass → Nat
  | .done => 0 | .illegal => 1 | .format => 2 | .unit => 3 | .bound => 4 | .conflict => 5
  | .window => 6 | .morder => 7 | .region => 8 | .stream => 9 | .trap => 10

/-- Rank in the order of R87. -/
def ExcClass.rank : ExcClass → Nat
  | .illegal => 0 | .unit => 1 | .format => 2 | .bound => 3 | .region => 4 | .stream => 5
  | .morder => 6 | .conflict => 7 | .window => 8 | .trap => 9 | .done => 10

/-- Taking a core exception: the task stops at the instruction and goes to Retire with the class (R59). -/
def takeExc (c : CoreId) (k : ExcClass) (s : State) : State :=
  let x := s.core c
  s.setCore c { x with phase := .retire, exc := k, stall := .other, stallSince := 0 }

/-- The first cause, in the order of R87, among those that hold. -/
def firstCause (l : List (ExcClass × Bool)) : Option ExcClass :=
  let hit := (l.filter (·.2)).map (·.1)
  hit.foldl (fun best k =>
    match best with
    | none => some k
    | some b => if k.rank < b.rank then some k else some b) none

/-! ## Completions (R300, R301, R306, R307) -/

namespace Status
def ok : BitVec 8 := 0x00
def cancelled : BitVec 8 := 0x01
def seqTableFull : BitVec 8 := 0x02
def noBuffer : BitVec 8 := 0x03
def shapeExceeds : BitVec 8 := 0x04
def doesNotFit : BitVec 8 := 0x05
def imageIncomplete : BitVec 8 := 0x06
def badDescriptor : BitVec 8 := 0x07
def fenceExpired : BitVec 8 := 0x08
def poisonConsumed : BitVec 8 := 0x10
def checksumFault : BitVec 8 := 0x11
def benchConflict : BitVec 8 := 0x12
def windowFault : BitVec 8 := 0x13
def deadlock : BitVec 8 := 0x14
def taskException : BitVec 8 := 0x15
def lowerFailed : BitVec 8 := 0x20
def lowerTimeout : BitVec 8 := 0x21
def shardTimeout : BitVec 8 := 0x22
def sequenceLost : BitVec 8 := 0x30
def restartRequired : BitVec 8 := 0x31
/-- REPLAY, only in OUTCOME packets (R363). -/
def replay : BitVec 8 := 0xFE
end Status

/-! Fields of the descriptor header (R298). -/

namespace Hdr
def opcode (w : BitVec 512) : Nat := bits w 63 56
def wait (w : BitVec 512) : Bool := bit w 55
def waitTicks (w : BitVec 512) : Nat := (bits w 47 32 + 1) * 1000
def tag (w : BitVec 512) : BitVec 32 := BitVec.ofNat 32 (bits w 31 0)
end Hdr

/-- The state of one accepted descriptor set. -/
def setEntry (r : RingId) (p : BitVec 32) (st : EntryState) (s : State) : State :=
  let x := s.ringOf r
  s.setRing r { x with accepted := x.accepted.map (fun e => if e.pos = p then { e with state := st } else e) }

/-- A descriptor has finished: its completion awaits a commit (R307). -/
def finishAt (r : RingId) (p : BitVec 32) (status : BitVec 8) (dkind : BitVec 4) (detail : BitVec 64)
    (stepno : BitVec 48) (s : State) : State := setEntry r p (.done status dkind detail stepno) s

/-- A descriptor completes with a status and no detail. -/
def finish (q : Desc) (status : BitVec 8) (s : State) : State := finishAt q.ring q.pos status 0 0 0 s

/-- The descriptor keeps its place and its reservation (R301). -/
def hold (q : Desc) (s : State) : State := setEntry q.ring q.pos .held s

/-- The descriptor has started and waits; its command goes on when it is sent again. -/
def awaits (q : Desc) (s : State) : State := setEntry q.ring q.pos .queued s

/-- The accepted entry of a descriptor. -/
def entryOf (s : State) (r : RingId) (p : BitVec 32) : Option Entry :=
  (s.ringOf r).accepted.find? (fun e => e.pos = p)

/-- An entry that has not started. -/
def EntryState.unstarted : EntryState → Bool
  | .waiting => true | .held => true | _ => false

def EntryState.isDone : EntryState → Bool
  | .done _ _ _ _ => true | _ => false

/-- The opcode of a FENCE. -/
def opFence : Nat := 0x30
def opCancel : Nat := 0x22

/-- Whether a descriptor's coupe holds it: accepted on a ring that serves a coupe which drains, is pre-empted or awaits a
BIND (R144, R145, R155, R276). -/
def heldBack (s : State) (r : RingId) (e : Entry) : Bool :=
  r ≠ 0 && e.state.unstarted &&
    (match (s.run (BitVec.ofNat 7 (bits (s.ringOf r).entry 270 264))).heldFrom with
      | some n => n ≤ e.stamp
      | none => false)

/-- Whether the ring engine may start the descriptor now (R301, R303): its ring accepted exactly these bits at
this position, and either they have started and wait, or they have not started, every earlier one of the ring has, no
FENCE before it is open, and its coupe does not hold it. -/
def canStart (s : State) (q : Desc) : Bool :=
  let x := s.ringOf q.ring
  match x.accepted.find? (fun e => e.pos = q.pos) with
  | none => false
  | some e =>
    e.w = q.w && (e.state = .queued || e.state.unstarted && !heldBack s q.ring e &&
      (x.accepted.takeWhile (fun e => e.pos ≠ q.pos)).all
        (fun e => !e.state.unstarted && !(Hdr.opcode e.w = opFence && !e.state.isDone)))

/-- The descriptor has started and waits. -/
def isQueued (s : State) (q : Desc) : Bool := (entryOf s q.ring q.pos).any (fun e => e.state = .queued)

/-- CANCEL executes at its acceptance, ahead of its ring's order (R301). -/
def canStartNow (s : State) (q : Desc) : Bool :=
  match entryOf s q.ring q.pos with
  | none => false
  | some e => e.w = q.w && e.state.unstarted

/-- The function that owns a ring (R290). -/
def ringFunc (s : State) (r : RingId) : BitVec 3 := BitVec.ofNat 3 (bits (s.ringOf r).entry 288 286)
/-- The coupe a submission ring serves. -/
def ringCoupe (s : State) (r : RingId) : CoupeId := BitVec.ofNat 7 (bits (s.ringOf r).entry 270 264)
/-- The job a ring names (R285). -/
def ringJob (s : State) (r : RingId) : BitVec 3 := BitVec.ofNat 3 (bits (s.ringOf r).entry 263 261)
/-- IMMCAN. -/
def ringImm (s : State) (r : RingId) : Bool := bit (s.ringOf r).entry 257

end Sys2Proof.Machine
end

