-- ==== Sys2Proof/Machine/Operands.lean ====
section
/-! DEFINITION. Operand forms of the core instructions: which fields an operation uses (R75, R76), the
second operand (R75), rows (R103), the structured operands (R78–R80, R82), and the issue and completion
of an instruction (R57, R59, R63, R83–R90). -/

namespace Sys2Proof.Machine

/-- How many bits of each field an operation uses; `sel` is how many selector values it takes. -/
structure Form where
  d : Nat
  a : Nat
  b : Nat
  sel : Nat
  mod : Nat
  imm : Nat
  deriving DecidableEq, Repr

/-- R76: every field, and every bit of a field, that the operation does not use is zero. `mod` is the mask of
the modifier bits that it uses. -/
def Form.ok (fm : Form) (f : Fields) : Bool :=
  f.d.toNat < 2 ^ fm.d && f.a.toNat < 2 ^ fm.a && f.b.toNat < 2 ^ fm.b && f.sel.toNat < fm.sel
    && (f.mod.toNat &&& fm.mod) = f.mod.toNat && f.imm.toNat < 2 ^ fm.imm

/-- A form in which nothing is used. -/
def Form.nil : Form := ⟨0, 0, 0, 1, 0, 0⟩

/-- Legality of an operation whose operands read "D, A, B or IMM" (R75): MOD[0] chooses, and the operand not
chosen is unused. -/
def legalBI (f : Fields) : Bool :=
  if bit f.mod 0 then Form.ok ⟨5, 5, 0, 1, 1, 32⟩ f else Form.ok ⟨5, 5, 5, 1, 0, 0⟩ f

/-- A register pair is named by its even member (R74). -/
def pairOk (r : BitVec 5) : Bool := r.toNat % 2 = 0
/-- A pair of vector registers (R74, R76). -/
def vpairOk (r : BitVec 5) : Bool := r.toNat % 2 = 0 && r.toNat < 16

/-- IMM sign-extended to 64 bits. -/
def immSext (f : Fields) : BitVec 64 := f.imm.signExtend 64
/-- Operand B, or IMM when MOD[0] is 1 (R75), with its poison. -/
def opB (x : Core) (f : Fields) : BitVec 64 := if bit f.mod 0 then immSext f else x.rd f.b.toNat
def opBP (x : Core) (f : Fields) : Bool := if bit f.mod 0 then false else x.rdP f.b.toNat

/-! ## Rows -/

/-- The physical row of a row relative to BASE (R103). -/
def Core.phys (x : Core) (rel : Nat) : Nat := x.base.toNat + rel
/-- Rows rel … rel + n − 1 lie within BASE to BOUND (R87, R103). -/
def Core.rowsIn (x : Core) (rel n : Nat) : Bool := n = 0 || x.base.toNat + rel + n - 1 ≤ x.bound.toNat

/-! ## Program counter (R72, R77) -/

/-- The linear index of the instruction at the program counter: row × 64 + slot. -/
def Core.lin (x : Core) : Nat := x.pc.toNat
/-- The program counter's row lies beyond BOUND (R72). -/
def Core.codeOut (x : Core) : Bool := x.bound.toNat < x.base.toNat + x.pc.toNat / 64
/-- A branch target lies within BASE to BOUND (R77). -/
def Core.targetOk (x : Core) (t : Int) : Bool := decide (0 ≤ t) && decide (x.base.toNat + t.toNat / 64 ≤ x.bound.toNat)
/-- The target IMM instructions from the branch. -/
def Core.relTarget (x : Core) (f : Fields) : Int := x.pc.toNat + f.imm.toInt
/-- The next instruction. -/
def Core.advance (x : Core) : Core := { x with pc := x.pc + 1 }
/-- The program counter at a linear index. -/
def Core.goTo (x : Core) (t : Nat) : Core := { x with pc := BitVec.ofNat 21 t }

/-! ## Taint (R358) -/

/-- A poisoned scalar used as a condition, target, count, row, address, descriptor or control word. -/
def Core.taint (x : Core) (p : Bool) : Core := { x with tainted := x.tainted || p }

/-! ## Operations (R76, R77) -/

/-! The operations that R77 assigns, as CLASS × 64 + OP. -/
namespace Op
def nop := 0x000
def endTask := 0x001
def add := 0x002
def sub := 0x003
def and_ := 0x004
def or_ := 0x005
def xor_ := 0x006
def shl := 0x007
def shr := 0x008
def sar := 0x009
def mul := 0x00A
def slt := 0x00B
def sltu := 0x00C
def seq := 0x00D
def li := 0x00E
def br := 0x010
def beq := 0x011
def bne := 0x012
def blt := 0x013
def bge := 0x014
def loop := 0x015
def jal := 0x016
def jr := 0x017
def pop := 0x040
def push := 0x041
def popv := 0x042
def pushv := 0x043
def mark := 0x044
def peek := 0x045
def dropm := 0x046
def bcopy := 0x080
def rdw := 0x081
def ldv := 0x082
def stv := 0x083
def rread := 0x084
def rwrite := 0x085
def wset := 0x086
def wclr := 0x087
def mreg := 0x0C0
def mpass := 0x0C2
def vadd := 0x100
def vsub := 0x101
def vmul := 0x102
def vfma := 0x103
def vmin := 0x104
def vmax := 0x105
def vabs := 0x106
def vneg := 0x107
def vcsgn := 0x108
def vcmp := 0x109
def vsel := 0x10A
def vrcp := 0x110
def vrsq := 0x111
def vexp := 0x112
def vlog := 0x113
def vhsum := 0x118
def vhmax := 0x119
def vsmx := 0x11A
def vsmxn := 0x11B
def vacc := 0x120
def vmovs := 0x121
def vbcast := 0x122
def qcw := 0x140
def qcb := 0x141
def qcvt := 0x142
def qflush := 0x143
def waitu := 0x180
def fencer := 0x181
def arrive := 0x182
def waitb := 0x183
def rdsys := 0x1C0
def trap := 0x1C1
def tmask := 0x1D0
def topk := 0x1D1
end Op

/-- A CLASS that is not reserved and an OP that is assigned in it (R76, R77). -/
def opAssigned (op : Nat) : Bool :=
  match op / 64 with
  | 0 => op % 64 ≤ 0x0E || (0x10 ≤ op % 64 && op % 64 ≤ 0x17)
  | 1 => op % 64 ≤ 6
  | 2 => op % 64 ≤ 7
  | 3 => op % 64 = 0 || op % 64 = 2
  | 4 => op % 64 ≤ 0x0A || (0x10 ≤ op % 64 && op % 64 ≤ 0x13) || (0x18 ≤ op % 64 && op % 64 ≤ 0x1B)
      || (0x20 ≤ op % 64 && op % 64 ≤ 0x22)
  | 5 => op % 64 ≤ 3
  | 6 => op % 64 ≤ 3
  | 7 => op % 64 ≤ 1 || op % 64 = 0x10 || op % 64 = 0x11
  | _ => false

/-! ## Units, queues and dependencies (R38, R83) -/

/-- The units that have an issue queue; control, sync and system instructions run in the scalar unit. -/
inductive UnitQ where
  | matrix | vector | quantiser | transfer
  deriving DecidableEq, Repr

/-- The queue of an operation. -/
def opUnit (op : Nat) : Option UnitQ :=
  match op / 64 with
  | 1 => some .transfer | 2 => some .transfer | 3 => some .matrix | 4 => some .vector | 5 => some .quantiser | _ => none

/-- Entries of a queue (R38). -/
def UnitQ.depth : UnitQ → Nat
  | .matrix => 4 | .vector => 8 | .quantiser => 4 | .transfer => 8

/-- The bit of WAITU's mask that names a unit (R77). -/
def UnitQ.maskBit : UnitQ → Nat
  | .matrix => 0 | .vector => 1 | .quantiser => 2 | .transfer => 3

/-- What the scoreboard tracks, by number: scalar registers 1–31, vector registers from 32, regions from 64, ports from 80
(R83). g0 carries nothing. -/
def useG (r : BitVec 5) : List Nat := if r = 0 then [] else [r.toNat]
def useGPair (r : BitVec 5) : List Nat := useG r ++ useG (r + 1)
def useV (r : BitVec 5) : List Nat := [32 + r.toNat]
def useVPair (r : BitVec 5) : List Nat := [32 + r.toNat, 33 + r.toNat]
def useRegion (r : BitVec 5) : List Nat := [64 + r.toNat]
def usePort (p : Nat) : List Nat := [80 + p]

/-- Reads and writes of an operation. -/
structure Uses where
  reads : List Nat
  writes : List Nat
  deriving DecidableEq, Repr

/-- What an instruction reads and writes of the scoreboard's registers, regions and ports (R77). -/
def usesOf (x : Core) (op : Nat) (f : Fields) : Uses :=
  let i := op % 64
  let p := f.sel.toNat
  let held := match x.qout with
    | some q => (match q.port with | some j => usePort (4 + j) | none => [])
    | none => []
  match op / 64 with
  | 0 =>
    if 2 ≤ i && i ≤ 0x0D then ⟨useG f.a ++ (if bit f.mod 0 then [] else useG f.b), useG f.d⟩
    else if i = 0x0E then ⟨if bit f.mod 1 then useG f.d else [], useG f.d⟩
    else if 0x11 ≤ i && i ≤ 0x14 then ⟨useG f.a ++ useG f.b, []⟩
    else if i = 0x15 then ⟨useG f.a, useG f.a⟩
    else if i = 0x16 then ⟨[], useG f.d⟩
    else if i = 0x17 then ⟨useG f.a, []⟩
    else ⟨[], []⟩
  | 1 =>
    if i = 0 then ⟨[], useG f.a ++ useG f.b ++ usePort p⟩
    else if i = 1 then ⟨[], useG f.a ++ useG f.b ++ usePort (4 + p)⟩
    else if i = 2 then ⟨[], useVPair f.d ++ usePort p⟩
    else if i = 3 then ⟨useVPair f.d, usePort (4 + p)⟩
    else if i = 4 then ⟨[], usePort (4 + p)⟩
    else if i = 5 then ⟨usePort p, useG f.d⟩
    else ⟨[], usePort p⟩
  | 2 =>
    if i = 0 || i = 4 || i = 5 then ⟨[], useG f.d ++ useG f.a ++ useG f.b⟩
    else if i = 1 then ⟨useG f.a, useG f.d⟩
    else if i = 2 then ⟨useG f.a, useV f.d⟩
    else if i = 3 then ⟨useG f.a ++ useVPair f.d, []⟩
    else if i = 6 then ⟨useGPair f.a, []⟩
    else ⟨[], []⟩
  | 3 =>
    if i = 0 then ⟨if bit f.mod 1 then useG f.a else [], useRegion f.d⟩
    else ⟨useGPair f.a ++ useG f.b ++ (if p = 5 then (List.range 8).map (40 + ·) else []),
      useRegion f.d ++ (if p < 4 then usePort p else [])⟩
  | 4 =>
    if i = 0x20 then ⟨useRegion f.a, useV f.d⟩
    else if i = 0x21 then ⟨useV f.a, useG f.d⟩
    else if i = 0x22 then ⟨useG f.a, useV f.d⟩
    else if i = 0x1A then ⟨useV f.a, useVPair f.d⟩
    else if i = 0x1B then ⟨useV f.d ++ useVPair f.a, useV f.d⟩
    else if i = 3 || i = 0x0A then ⟨useV f.a ++ useV f.b ++ useV f.d, useV f.d⟩
    else if i ≤ 9 && i ≠ 6 && i ≠ 7 then ⟨useV f.a ++ useV f.b, useV f.d⟩
    else ⟨useV f.a, useV f.d⟩
  | 5 =>
    if i = 0 then ⟨useG f.a, held⟩
    else if i = 1 then ⟨useG f.a, []⟩
    else if i = 2 then
      ⟨(if p = 4 then useRegion f.d else if p = 5 then (List.range (16 - f.d.toNat)).map (32 + f.d.toNat + ·) else []),
       useG f.b ++ (if bit f.mod 1 then usePort (4 + f.imm.toNat % 4) else useGPair f.a) ++ (if p < 4 then usePort p else [])
        ++ held⟩
    else ⟨[], held⟩
  | 6 => if i = 3 then ⟨useG f.a, []⟩ else ⟨[], []⟩
  | _ =>
    if i = 0 then ⟨[], useG f.d⟩
    else if i = 0x10 then ⟨useG f.d ++ useG f.a, []⟩
    else if i = 0x11 then ⟨useG f.d ++ useG f.a ++ useG f.b, []⟩
    else ⟨[], []⟩

/-- A read-after-write, write-after-read or write-after-write dependency of the later instruction on the earlier (R83). -/
def Uses.dependsOn (later earlier : Uses) : Bool :=
  later.reads.any earlier.writes.contains || later.writes.any earlier.reads.contains
    || later.writes.any earlier.writes.contains

/-- The first earlier instruction that the instruction must wait for. -/
def Core.blocker (x : Core) (op : Nat) (f : Fields) : Option Queued :=
  x.queue.find? (fun e => (usesOf x op f).dependsOn (usesOf x e.op e.f))

/-- Entries of a unit's queue. -/
def Core.inUnit (x : Core) (u : UnitQ) : List Queued := x.queue.filter (fun e => opUnit e.op = some u)

/-- Instructions that write bench rows: POP, BCOPY, STV, RREAD, QCVT to the bench, QCW and QFLUSH. -/
def writesBench (op : Nat) (f : Fields) : Bool :=
  op = Op.pop || op = Op.bcopy || op = Op.stv || op = Op.rread || (op = Op.qcvt && !bit f.mod 1) || op = Op.qcw
    || op = Op.qflush

/-! ## Issue and completion -/

/-- The scalar unit issues: a task is in Run and no halt is wanted (R57, R60). -/
def Core.ready (x : Core) : Bool := x.task.isSome && x.phase = .run && !x.haltWanted && !x.halted

/-- An issued instruction goes on: in Run while no halt is wanted, and in Drain and Retire (R57, R62, R88, R90). -/
def Core.goesOn (x : Core) : Bool :=
  x.task.isSome && !x.halted && x.phase ≠ .idle && (x.phase ≠ .run || !x.haltWanted)

abbrev Out := Host.Outcome State Fault Refusal

/-- The instruction word at the program counter (R72). -/
def codeWord (s : State) (c : CoreId) : BitVec 64 :=
  let x := s.core c
  BitVec.ofNat 64 (Memory.read (benchAddr c (x.phys (x.pc.toNat / 64)) + 8 * (x.pc.toNat % 64)) 8 s.mem)

/-- The instruction stays in its unit's queue, and the scalar unit goes on with the next one (R83). -/
def queueUp (c : CoreId) (op : Nat) (f : Fields) (s : State) : State :=
  let x := s.core c
  s.setCore c { x with
    queue := x.queue ++ [⟨x.pc, op, f, x.issueSeq, x.stall, x.lastQueue⟩]
    issueSeq := x.issueSeq + 1
    pc := x.pc + 1 }

/-- The instruction runs; one of a unit that has not completed stays in its queue. -/
def runNew (c : CoreId) (op : Nat) (f : Fields) (body : State → State) (s : State) : State :=
  let t := body s
  if (opUnit op).isSome && (t.core c).task.isSome && (t.core c).phase = .run && (t.core c).pc = (s.core c).pc then
    queueUp c op f t
  else t

/-- A queued instruction goes on from where it stands: it completes and leaves the queue, or keeps waiting, or meets an
exception, which discards every later one and lets the earlier ones complete (R85, R88). The program counter is that of the
next instruction to issue, and stays. -/
def runQueued (c : CoreId) (e : Queued) (causes : List (ExcClass × Bool)) (body : State → State) (s : State) : State :=
  let x := s.core c
  let t := match firstCause (causes.filter (fun k => k.1 = .stream)) with
    | some k => takeExc c k s
    | none => body s
  let y := t.core c
  if y.pc ≠ x.pc then
    t.setCore c { y with
      queue := y.queue.filter (fun o => o.seq ≠ e.seq)
      pc := x.pc, counters := x.counters, counted := x.counted }
  else if y.stall = .other then
    t.setCore c { y with queue := y.queue.takeWhile (fun o => o.seq ≠ e.seq) }
  else
    t.setCore c { y with
      queue := y.queue.map (fun o => if o.seq = e.seq then { o with wait := y.stall, handle := y.lastQueue } else o) }

/-- Where the instruction that runs as (op, f) lies: its queue entry, or the program counter. -/
def Core.pcOf (x : Core) (op : Nat) (f : Fields) : BitVec 21 :=
  match x.queue.find? (fun e => e.op = op && e.f = f) with
  | some e => e.pc
  | none => x.pc

/-- Its place in the order of issue. -/
def Core.seqOf (x : Core) (op : Nat) (f : Fields) : Nat :=
  match x.queue.find? (fun e => e.op = op && e.f = f) with
  | some e => e.seq
  | none => x.issueSeq

/-- The scalar unit waits for an earlier instruction, in the category in which that one waits (R63, R83). -/
def waitFor (c : CoreId) (e : Queued) (s : State) : State :=
  s.setCore c ((s.core c).stalled e.wait e.handle (now48 s))

/-- Core `c` issues an instruction, or goes on with the one that it issued earlier: nothing when it does not issue (log
entry 9); BOUND when the program counter lies beyond BOUND (R72); ILLEGAL when the word there has a reserved CLASS or an
unassigned OP (R76); a wait while it depends on an earlier one or its queue is full (R83); the first cause of R87 among
those that hold at issue; unstarted in its queue behind an earlier one of its unit; else its effect. Of accesses to one
row that no WAITU orders (R84), each sees what those that have run before it left: DESIGN CHOICE (log entry 121). -/
def issue (c : CoreId) (op : Nat) (f : Fields) (causes : List (ExcClass × Bool)) (body : State → State) (s : State) : Out :=
  let x := s.core c
  match x.queue.find? (fun e => e.op = op && e.f = f) with
  | some e =>
    if x.goesOn && ((x.queue.filter (fun o => opUnit o.op = opUnit op)).head?.map (·.seq)) = some e.seq then
      .next (runQueued c e causes body s)
    else .next s
  | none =>
    if x.ready then
      if x.codeOut then .next (takeExc c .bound s)
      else if !opAssigned (Word.op (codeWord s c)) then .next (takeExc c .illegal s)
      else
        match x.blocker op f with
        | some e => .next (waitFor c e s)
        | none =>
          match firstCause causes with
          | some k => .next (takeExc c k s)
          | none =>
            match opUnit op with
            | none => .next (body s)
            | some u =>
              if u.depth ≤ (x.inUnit u).length then .next s
              else if (x.inUnit u).isEmpty then .next (runNew c op f body s)
              else .next (queueUp c op f (s.setCore c x.issued))
    else .next s

/-- An instruction completes: the core counts BUSY, makes progress and moves to the next instruction. -/
def completeWith (c : CoreId) (x : Core) (s : State) : State :=
  progress (s.setCore c x.issued.advance) c

/-- A control transfer to a linear index completes. -/
def jumpWith (c : CoreId) (x : Core) (t : Nat) (s : State) : State :=
  progress (s.setCore c (x.issued.goTo t)) c

/-- The instruction waits: its partial progress stays in `x`, and it is issued again (R85, R91). -/
def stallWith (c : CoreId) (x : Core) (k : Stall) (h : BitVec 16) (s : State) : State :=
  s.setCore c (x.stalled k h (now48 s))

/-- The instruction has reached an interruption point, and goes on when it is sent again (R91). -/
def pauseWith (c : CoreId) (x : Core) (s : State) : State := s.setCore c x.issued

/-- How many of n rows or groups run before the instruction pauses. -/
def pauseAt (stop : Option Nat) (n : Nat) : Nat := match stop with
  | none => n
  | some k => min k n

/-! ## Structured operands -/

/-- A remote address (R78). -/
def remoteOk (w : BitVec 64) : Bool := bits w 63 27 = 0
def remoteCore (w : BitVec 64) : CoreId := BitVec.ofNat 12 (bits w 26 15)
def remoteRow (w : BitVec 64) : Nat := bits w 14 0
def remoteWindow (w : BitVec 64) : Nat := bits w 14 11
def remoteOffset (w : BitVec 64) : Nat := bits w 10 0

/-- Plane rows: first register of a stationary source descriptor (R79), also QCVT's pair (R82). -/
structure PlaneRows where
  elem : Nat
  scale : Nat
  knot : Nat
  side : Nat
  deriving DecidableEq, Repr

def planeOk (w : BitVec 64) : Bool := bits w 3 0 = 0
def PlaneRows.ofBits (w : BitVec 64) : PlaneRows := ⟨bits w 63 49, bits w 48 34, bits w 33 19, bits w 18 4⟩
def PlaneRows.toBits (p : PlaneRows) : BitVec 64 :=
  put 49 (p.elem % 2 ^ 15) ||| put 34 (p.scale % 2 ^ 15) ||| put 19 (p.knot % 2 ^ 15) ||| put 4 (p.side % 2 ^ 15)

/-- Second register of a stationary source descriptor (R79). -/
structure Extent where
  wfmt : Nat
  cbRow : Nat
  cbSlot : Nat
  kext : Nat
  ncs : Nat
  deriving DecidableEq, Repr

def extentOk (w : BitVec 64) : Bool := bits w 13 0 = 0
def Extent.ofBits (w : BitVec 64) : Extent := ⟨bits w 63 56, bits w 55 41, bits w 40 37, bits w 36 21, bits w 20 14⟩

/-- Register B of MPASS (R80). -/
def passBOk (w : BitVec 64) : Bool := bits w 47 15 = 0
def passKstart (w : BitVec 64) : Nat := bits w 63 48
def passRow (w : BitVec 64) : Nat := bits w 14 0
/-- IMM of MPASS (R80). -/
def passAfmt (i : BitVec 32) : Nat := bits i 31 24
def passM (i : BitVec 32) : Nat := bits i 23 16
def passKlen (i : BitVec 32) : Nat := bits i 15 0

/-- The codebook record `slot` of a row (R16): 16 records of 32 bytes. -/
def codebookAt (r : Row) (slot : Nat) : BitVec 256 := BitVec.ofNat 256 (r.toNat >>> (256 * slot))

end Sys2Proof.Machine
end

