-- ==== Sys2Proof/Machine/Flags.lean ====
section
/-! DEFINITION. Safeguard counters, the range guard, the checksum test and the records of failures
(R31–R37, R102, R142, R308, R381, R382). -/

namespace Sys2Proof.Machine

/-! ## Safeguard counters (R32) -/

def Core.addQsat (x : Core) (n : Nat) : Core := { x with qsat := BitVec.ofNat 32 (satAdd 32 x.qsat.toNat n) }
def Core.addKovf (x : Core) (n : Nat) : Core := { x with kovf := BitVec.ofNat 32 (satAdd 32 x.kovf.toNat n) }
/-- One instruction met a NaN and poisoned its output. -/
def Core.addNanp (x : Core) (met : Bool) : Core :=
  if met then { x with nanp := BitVec.ofNat 16 (satAdd 16 x.nanp.toNat 1) } else x

/-- MAXABS after one value, NaNs excluded. -/
def maxAbsOf (m v : F32) : F32 := if !v.isNaN && F32.lt m v.abs then v.abs else m

/-- MAXABS after values in order, and its value at the first moment it exceeds the threshold (R33). -/
def rangeScan (thr : F32) : List F32 → F32 → Option F32 → F32 × Option F32
  | [], m, hit => (m, hit)
  | v :: vs, m, hit =>
    let m1 := maxAbsOf m v
    rangeScan thr vs m1 (match hit with
      | some h => some h
      | none => if F32.lt thr m1 then some m1 else none)

/-- The range guard over the values that enter the quantiser (R33): at most one event per task. A tag applies when OUT_FMT
is a KB format; TENSOR_TAG is zero otherwise: DESIGN CHOICE (log entry 120). -/
def rangeGuard (c : CoreId) (tag : BitVec 32) (vals : List F32) (s : State) : State :=
  let x := s.core c
  let (m, hit) := rangeScan (qcwThr x.qcw) vals x.maxabs none
  match hit with
  | some h =>
    if x.rangeRaised then s.setCore c { x with maxabs := m }
    else raiseTask 0x02 (put 32 tag.toNat ||| put 0 h.toNat) c
      (s.setCore c { x with maxabs := m, rangeRaised := true })
  | none => s.setCore c { x with maxabs := m }

/-! ## Checksum test (R36) -/

/-- τ = (2^−8 + (2K + N_c) × 2^−23) × P + (K + N_c) × 2^−149, exactly. -/
def tau (k nc : Nat) (p : F32) : Dy :=
  Dy.add (Dy.mul ⟨2 ^ 15 + 2 * k + nc, -23⟩ p.val.dy) ⟨k + nc, -149⟩

/-- Whether a row has a NaN among its three quantities, which flags and poisons it. -/
def checksumNaN (sum c p : F32) : Bool := sum.isNaN || c.isNaN || p.isNaN

/-- Whether a row is flagged: |ΣY − C| > τ, or a NaN among the three. -/
def checksumFlag (k nc : Nat) (sum c p : F32) : Bool :=
  if checksumNaN sum c p then true
  else if p.isInf then false
  else if sum.isInf || c.isInf then !(sum == c)
  else Dy.lt (tau k nc p) (Dy.abs (Dy.sub sum.val.dy c.val.dy))

/-! ## Records -/

/-- The conflict record (R102). -/
def conflictRecord (c : CoreId) (cause row instrRow instrSlot gap : Nat) : BitVec 64 :=
  put 52 c.toNat ||| put 50 cause ||| put 35 row ||| put 30 (row % 32) ||| put 15 instrRow
    ||| put 9 instrSlot ||| put 7 gap

/-- The deadlock record (R142). -/
def deadlockRecord (c : CoreId) (queue : BitVec 16) (cause us stalled : Nat) : BitVec 64 :=
  put 52 c.toNat ||| put 36 queue.toNat ||| put 34 cause ||| put 16 (min us 262143) ||| put 3 (stalled % 2 ^ 13)

/-- The fault record (R381). -/
def faultRecord (cause : Nat) (core : Nat) (tag : BitVec 32) (kind attempts place : Nat) : BitVec 64 :=
  put 60 cause ||| put 48 core ||| put 16 tag.toNat ||| put 12 kind ||| put 8 attempts ||| put 0 (place % 256)

/-- The mover record (R382). -/
def moverRecord (m : MoverId) (cause op : Nat) (step : BitVec 16) (seq : BitVec 14) (k : CoupeId) (device : Bool) :
    BitVec 64 :=
  put 56 m.agent.toNat ||| put 52 m.mover.toNat ||| put 48 cause ||| put 40 op ||| put 24 step.toNat
    ||| put 10 seq.toNat ||| put 3 k.toNat ||| put 2 (b2n device)

/-- The exception DETAIL of WINDOW_FAULT and TASK_EXCEPTION (R308). -/
def exceptionDetail (tag : BitVec 32) (c : CoreId) (k : ExcClass) (windowCause : BitVec 4) : BitVec 64 :=
  put 32 tag.toNat ||| put 20 c.toNat ||| put 16 k.code ||| put 12 (if k = .window then windowCause.toNat else 0)

/-- CONFLICT charged to the instruction at `pc` of core `owner`, the `seq`-th issued, for an access to a row of bench
`bench` (R100–R102): the record is kept for the step's completion, and the task retires under R88, with every instruction
issued after it discarded. -/
def chargeConflict (owner bench : CoreId) (cause row gap : Nat) (pc : BitVec 21) (seq : Nat) (s : State) : State :=
  let x := s.core owner
  takeExc owner .conflict (s.setCore owner { x with
    conflictRec := conflictRecord bench cause row (pc.toNat / 64) (pc.toNat % 64) gap
    queue := x.queue.filter (fun o => o.seq < seq) })

end Sys2Proof.Machine
end

