-- ==== Sys2Proof/Machine/Mesh.lean ====
section
/-! DEFINITION. The stand routers' crossing queues, the mesh and its bridges: nodes, attachments, paths, traffic classes,
packet headers, the arbiter, and the order in which packets between one pair of cores arrive (R129, R131, R133–R136). -/

namespace Sys2Proof.Machine

/-! ## Agents and nodes (R131, R136) -/

/-- What a packet comes from or goes to. -/
inductive Agent where
  | core (c : CoreId)
  | sequencer (i : SectorId)
  | deck (i : SectorId)
  | yard (c : ChannelId)
  | link (l : LinkId)
  | ringEngine
  | hostLink
  | ranger
  | ethernet (port : Bool)
  deriving DecidableEq, Repr

/-- A node by its X and Y. -/
abbrev MeshNode := Nat × Nat

/-- The node of a sector's local node (x, y): the sector stands at column s mod 4 and row s div 4. -/
def localNode (i : SectorId) (x y : Nat) : MeshNode := (4 * (i.val % 4) + x, 4 * (i.val / 4) + y)

/-- The node of a stand. -/
def standNode (g : StandId) : MeshNode := localNode (standSector g) (g.toNat % 16 % 4) (g.toNat % 16 / 4)

/-- Where an agent joins the mesh: the agent port of a node, or the perimeter beyond an edge node. -/
inductive Attach where
  | router (n : MeshNode)
  | agentPort (n : MeshNode)
  | north (x : Nat)
  | south (x : Nat)
  | west (y : Nat)
  | east (y : Nat)
  deriving DecidableEq, Repr

/-- Every place at which an agent is attached. -/
def attachments : Agent → List Attach
  | .core c => [.router (standNode (coreStand c))]
  | .sequencer i => [.agentPort (localNode i 0 0)]
  | .deck i => [1, 2].flatMap (fun y => (List.range 4).map (fun x => .agentPort (localNode i x y)))
  | .yard c =>
    let i : SectorId := ⟨c.val / 2, by omega⟩
    [.agentPort (if c.val % 2 = 0 then localNode i 3 0 else localNode i 0 3)]
  | .link l => [if l.val < 12 then .north (2 + l.val) else .south (2 + (l.val - 12))]
  | .ringEngine => [.west 2]
  | .hostLink => [.west 3, .west 4]
  | .ranger => [.west 5]
  | .ethernet p => [.east (if p then 4 else 3)]

/-- The node at which an attachment meets the mesh. X grows towards the east; the spec does not say whether row 0 is the
northern or the southern one: row 0 is taken as the northern (PRESUMED, log entry 143). -/
def Attach.node : Attach → MeshNode
  | .router n => n
  | .agentPort n => n
  | .north x => (x, 0)
  | .south x => (x, 7)
  | .west y => (0, y)
  | .east y => (15, y)

/-! ## Paths (R133) -/

/-- The values from a on to b, a left out: up or down by one each. -/
def stepsTo (a b : Nat) : List Nat :=
  if a ≤ b then (List.range (b - a)).map (fun i => a + i + 1) else (List.range (a - b)).map (fun i => a - i - 1)

/-- The nodes that a packet passes, its source node first: in X to the destination column, then in Y. -/
def meshPath (a b : MeshNode) : List MeshNode :=
  a :: (stepsTo a.1 b.1).map (fun x => (x, a.2)) ++ (stepsTo a.2 b.2).map (fun y => (b.1, y))

/-- Two neighbouring nodes of different sectors are joined by a bridge lane, others by a mesh link (R131). -/
def isBridge (a b : MeshNode) : Bool := a.1 / 4 ≠ b.1 / 4 || a.2 / 4 ≠ b.2 / 4

/-- Bridges that a path crosses. -/
def bridgesOf : List MeshNode → Nat
  | a :: b :: rest => b2n (isBridge a b) + bridgesOf (b :: rest)
  | _ => 0

/-! ## Crossing queues (R129) -/

/-- The lane that a packet from core slot a to slot b takes at each stand boundary. -/
def crossingLane (a b : Nat) : Nat := (a ^^^ b) % 4

/-- Traffic between two cores of one stand never leaves its router. -/
def crosses (a b : CoreId) : Bool := coreStand a ≠ coreStand b

/-! ## Classes and headers (R134, R135) -/

/-- Traffic classes, each with its own buffers everywhere. -/
inductive TrafficClass where
  | ctrl | stream | req | rsp | move
  deriving DecidableEq, Repr

/-- A packet's header on the mesh. -/
structure Header where
  cls : TrafficClass
  src : Agent
  dst : Agent
  coupe : Option CoupeId
  epoch : BitVec 8
  time : BitVec 16
  deriving DecidableEq, Repr

/-- Injection time t is older than u, modulo the wrap. -/
def older (t u : BitVec 16) : Bool := t ≠ u && (u - t).toNat < 2 ^ 15

/-- Inputs of a node, in the order in which the arbiter takes them on equal times. -/
inductive Input where
  | agent | local_ | west | north | east | south
  deriving DecidableEq, Repr

def Input.order : Input → Nat
  | .agent => 0 | .local_ => 1 | .west => 2 | .north => 3 | .east => 4 | .south => 5

/-- Whether the arbiter prefers the first of two waiting packets. -/
def prefers (a b : Input × Header) : Bool :=
  if a.2.cls = .ctrl && b.2.cls ≠ .ctrl then true
  else if b.2.cls = .ctrl && a.2.cls ≠ .ctrl then false
  else if a.2.time = b.2.time then a.1.order < b.1.order
  else older a.2.time b.2.time

/-- The packet that leaves by an output: among those whose class has buffer space downstream. -/
def arbitrate (room : TrafficClass → Bool) (l : List (Input × Header)) : Option (Input × Header) :=
  (l.filter (fun p => room p.2.cls)).foldl (fun best p =>
    match best with
    | none => some p
    | some b => if prefers p b then some p else some b) none

/-! ## Packets of this part -/

/-- The header of a remote read request, of its reply, of a window row and of its acknowledgement. -/
def ReadReq.header (s : State) (q : ReadReq) : Header :=
  ⟨.req, .core q.reader, .core q.target, coupeOf s q.reader, ((coupeOf s q.reader).map (fun k => (s.run k).epoch)).getD 0, q.sent.time⟩
def ReadReply.header (s : State) (q : ReadReply) : Header :=
  ⟨.rsp, .core q.source, .core q.reader, coupeOf s q.reader, ((coupeOf s q.reader).map (fun k => (s.run k).epoch)).getD 0, q.sent.time⟩
def WindowRow.header (s : State) (q : WindowRow) : Header :=
  ⟨.req, .core q.writer, .core q.target, coupeOf s q.writer, ((coupeOf s q.writer).map (fun k => (s.run k).epoch)).getD 0, q.sent.time⟩
def WriteAck.header (s : State) (q : WriteAck) : Header :=
  ⟨.rsp, .core q.source, .core q.writer, coupeOf s q.writer, ((coupeOf s q.writer).map (fun k => (s.run k).epoch)).getD 0, q.sent.time⟩

/-- A task of the configuration produces the queue, so that its items come from the core that its record names. -/
def coreFed (s : State) (k : CoupeId) (q : Queue) : Bool :=
  !q.span && !(match bindingOf s k with
    | some cfg => cfg.feeds.any (fun w => bits w 127 112 = (QRec.handle q.record).toNat)
    | none => false)

/-- The header of the oldest item of a queue that a core feeds. -/
def Queue.header (k : CoupeId) (q : Queue) : Header :=
  ⟨.stream, .core (QRec.prod q.record), .core (QRec.cons q.record), some k, q.epoch, ((q.sent.head?).map (·.time)).getD 0⟩

/-- The mesh path of a packet between agents, from the first attachment of each; a deck or host attachment nearer to the
other end may serve instead, which only the timing shows. -/
def Header.path (h : Header) : List MeshNode :=
  match (attachments h.src).head?, (attachments h.dst).head? with
  | some a, some b => meshPath a.node b.node
  | _, _ => []

/-! ## Injection and order (R129, R135) -/

/-- Injection times count units of 8 fabric cycles at 2.4 GHz: 3 in a tick of 10 ns. -/
def injectionTime (t : BitVec 64) : BitVec 16 := BitVec.ofNat 16 (3 * t.toNat)

/-- The stamp of a packet that enters the network now. -/
def sentNow (s : State) : Stamp := ⟨s.injected, injectionTime s.timebase⟩

/-- One packet more has entered. -/
def inject (s : State) : State := { s with injected := s.injected + 1 }

/-- An item enters the network on queue h. -/
def enterQueue (k : CoupeId) (h : BitVec 16) (q : Queue) (it : Item) (s : State) : State :=
  (inject s).setQueue k h (some { q with network := q.network ++ [it], sent := q.sent ++ [sentNow s] })

/-- The oldest item has left the network. -/
def Queue.left1 (q : Queue) (rest : List Item) : Queue := { q with network := rest, sent := q.sent.drop 1 }

/-- The oldest item of queue q entered before that of queue p. -/
def Queue.before (q p : Queue) : Bool :=
  match q.sent.head?, p.sent.head? with
  | some a, some b => a.ord < b.ord
  | _, _ => false

/-- No other queue between the same two cores holds an older item: one pair's traffic takes one lane, in order (R129). -/
def laneFirst (s : State) (k : CoupeId) (p : Queue) : Bool :=
  !(coreFed s k p && crosses (QRec.prod p.record) (QRec.cons p.record)) ||
    (s.run k).queues.all (fun e => match e.2 with
      | none => true
      | some q => !(coreFed s k q && QRec.prod q.record = QRec.prod p.record && QRec.cons q.record = QRec.cons p.record
          && q.before p))

/-- No older window row from the same core to the same core is still under way (class REQ). -/
def requestFirst (s : State) (q : ReadReq) : Bool :=
  !crosses q.reader q.target
    || s.windowRows.all (fun w => !(w.writer = q.reader && w.target = q.target && w.sent.ord < q.sent.ord))

/-- No older read request from the same core to the same core is still under way. -/
def windowFirst (s : State) (w : WindowRow) : Bool :=
  !crosses w.writer w.target
    || s.readReqs.all (fun q => !(q.reader = w.writer && q.target = w.target && q.sent.ord < w.sent.ord))

/-- No older acknowledgement from the same core is still under way (class RSP), and the same for a reply. -/
def replyFirst (s : State) (q : ReadReply) : Bool :=
  !crosses q.source q.reader
    || s.acks.all (fun a => !(a.source = q.source && a.writer = q.reader && a.sent.ord < q.sent.ord))
def ackFirst (s : State) (a : WriteAck) : Bool :=
  !crosses a.source a.writer
    || s.readReplies.all (fun q => !(q.source = a.source && q.reader = a.writer && q.sent.ord < a.sent.ord))

end Sys2Proof.Machine
end

