-- ==== Sys2Proof/Machine/Net.lean ====
section
/-! DEFINITION. Coordinates, routes between devices, packets sent, span queues and reduction units
(R327–R329, R335–R340, R346, R347). -/

namespace Sys2Proof.Machine

/-! ## The coordinate record (R328) -/

namespace Coord
def pod (w : BitVec 128) : BitVec 16 := BitVec.ofNat 16 (bits w 127 112)
def board (w : BitVec 128) : Nat := bits w 111 107
def slot (w : BitVec 128) : Nat := bits w 106 104
def width (w : BitVec 128) : Nat := bits w 103 99 + 1
def reach (w : BitVec 128) (n : Nat) : Nat := bits w (48 + 2 * n + 1) (48 + 2 * n)
def rgen (w : BitVec 128) : BitVec 16 := BitVec.ofNat 16 (bits w 47 32)
/-- DEVNO is BOARD × 8 + SLOT. -/
def devno (w : BitVec 128) : Nat := board w * 8 + slot w
/-- Reserved bits zero, and no class but BOARD given to ML0–ML13 (R328); "not fitted" is no class. -/
def ok (w : BitVec 128) : Bool :=
  bits w 98 96 = 0 && bits w 31 0 = 0 && (List.range 14).all (fun n => reach w n = 0 || reach w n = 3)
end Coord

/-- The coordinate record in force, zero before the first. -/
def coordOf (s : State) : BitVec 128 := s.coord.getD 0
/-- This device's number. -/
def ownDev (s : State) : Nat := Coord.devno (coordOf s)

/-- The k-th slot of the board, the own slot left out (R329). -/
def otherSlot (own k : Nat) : Nat := if k < own then k else k + 1
/-- Where slot t comes in the ascending list without the own slot. -/
def slotIndex (own t : Nat) : Nat := if t < own then t else t - 1

/-- The expected partner of a link: its board (none: any other board) , slot and link (R329); none where the link
has no partner. -/
structure Partner where
  board : Option Nat
  slot : Nat
  link : Nat
  deriving DecidableEq, Repr

def expectedPartner (w : BitVec 128) (l : LinkId) : Option Partner :=
  let n := l.val
  let b := Coord.board w
  let own := Coord.slot w
  let wd := Coord.width w
  if Coord.reach w n = 3 then none
  else if n < 14 then some ⟨some b, otherSlot own (n / 2), 2 * slotIndex (otherSlot own (n / 2)) own + n % 2⟩
  else if n = 14 then (if b % wd = 0 then none else some ⟨some (b - 1), own, 15⟩)
  else if n = 15 then (if b % wd = wd - 1 || b = 31 then none else some ⟨some (b + 1), own, 14⟩)
  else if n = 16 then (if b < wd then none else some ⟨some (b - wd), own, 17⟩)
  else if n = 17 then (if 31 < b + wd then none else some ⟨some (b + wd), own, 16⟩)
  else some ⟨none, own, n⟩

/-- Whether a link is in service: UP or DEGRADED (R341). -/
def Link.works (x : Link) : Bool := x.state = .up || x.state = .degraded
/-- A link that new steps may route over: in service, and no self-test waits for it (R377). -/
def Link.routable (x : Link) : Bool := x.works && !x.testWaits

/-! ## Routes (R338) -/

/-- The board link to slot t for a packet of even or odd channel, the other of the pair when that one is not in
service. -/
def boardLink (s : State) (t : Nat) (odd : Bool) : Option LinkId :=
  let k := slotIndex (Coord.slot (coordOf s)) t
  let a := 2 * k + b2n odd
  let b := 2 * k + 1 - b2n odd
  allLinks.find? (fun l => l.val = a && (s.link l).routable) |>.or
    (allLinks.find? (fun l => l.val = b && (s.link l).routable))

/-- The lowest off-board link in service that reaches a board. -/
def offBoardLink (s : State) (board : Nat) : Option LinkId :=
  allLinks.find? (fun l => 14 ≤ l.val && (s.link l).routable && (s.link l).pDev.toNat / 8 = board)

/-- Whether a device has announced that it reaches a board (R337). -/
def announcesReach (s : State) (dev board : Nat) : Bool :=
  s.announced.any (fun a => a.dev.toNat = dev && bit a.reach board)

/-- The first hop from this device to another. -/
def route (s : State) (dst : Nat) (odd : Bool) : Option LinkId :=
  let w := coordOf s
  let b := dst / 8
  let t := dst % 8
  if b = Coord.board w then (if t = Coord.slot w then none else boardLink s t odd)
  else
    match offBoardLink s b with
    | some l => some l
    | none =>
      if announcesReach s (Coord.board w * 8 + t) b && t ≠ Coord.slot w then boardLink s t odd else none

/-- The boards that the off-board links in service reach (R337). -/
def boardReach (s : State) : BitVec 32 :=
  allLinks.foldl (fun acc l =>
    if 14 ≤ l.val && (s.link l).works then acc ||| put ((s.link l).pDev.toNat / 8) 1 else acc) 0

/-! ## Task templates (R152): the record in the low 512 bits, the control word above it -/

namespace Tpl
def record (w : BitVec 1024) : BitVec 512 := BitVec.ofNat 512 w.toNat
def stage (w : BitVec 1024) : Nat := bits w 575 573
def core (w : BitVec 1024) : CoreId := BitVec.ofNat 12 (bits w 567 556)
def reloc0 (w : BitVec 1024) : Bool := bit w 555
def reloc1 (w : BitVec 1024) : Bool := bit w 554
def shape0 (w : BitVec 1024) : Bool := bit w 553
def shape1 (w : BitVec 1024) : Bool := bit w 552
end Tpl

/-- Whether a task of the stage produces the queue (an output port of one of its templates). -/
def stageProduces (cfg : Config) (stage : Nat) (h : BitVec 16) : Bool :=
  cfg.templates.any (fun t => Tpl.stage t = stage
    && (List.range 4).any (fun p => Task.port (Tpl.record t) (4 + p) = h))

/-- Whether a task of the stage consumes the queue. -/
def stageConsumes (cfg : Config) (stage : Nat) (h : BitVec 16) : Bool :=
  cfg.templates.any (fun t => Tpl.stage t = stage
    && (List.range 4).any (fun p => Task.port (Tpl.record t) p = h))

/-- Whether any task of the configuration produces the queue. -/
def taskProduces (cfg : Config) (h : BitVec 16) : Bool :=
  cfg.templates.any (fun t => (List.range 4).any (fun p => Task.port (Tpl.record t) (4 + p) = h))

/-! ## The STEP descriptor (R238) -/

namespace StepD
def coupe (w : BitVec 512) : CoupeId := BitVec.ofNat 7 (bits w 511 505)
def stage (w : BitVec 512) : Nat := bits w 504 502
def nreq (w : BitVec 512) : Nat := bits w 501 495
def route (w : BitVec 512) : Nat := bits w 494 493
def shape (w : BitVec 512) (i : Nat) : Nat := bits w (479 - 20 * i) (460 - 20 * i)
def shapes (w : BitVec 512) : List Nat := (List.range 4).map (shape w)
def xtag (w : BitVec 512) : BitVec 32 := BitVec.ofNat 32 (bits w 335 304)
def rearm (w : BitVec 512) : Nat := bits w 303 240
def nrearm (w : BitVec 512) : Nat := bits w 239 235
def thr (w : BitVec 512) : F32 := BitVec.ofNat 32 (bits w 234 203)
def kmax (w : BitVec 512) : Nat := bits w 202 199
end StepD

/-! ## Packets (R331) -/

namespace Pkt
def ptype (h : BitVec 128) : Nat := bits h 127 120
def dst (h : BitVec 128) : Nat := bits h 119 112
def src (h : BitVec 128) : Nat := bits h 111 104
def span (h : BitVec 128) : BitVec 16 := BitVec.ofNat 16 (bits h 103 88)
def idx (h : BitVec 128) : Nat := bits h 87 80
def channel (h : BitVec 128) : Nat := bits h 79 75
def epoch (h : BitVec 128) : BitVec 8 := BitVec.ofNat 8 (bits h 74 67)
def poison (h : BitVec 128) : Bool := bit h 66
def len (h : BitVec 128) : Nat := bits h 63 48
def ord (h : BitVec 128) : BitVec 16 := BitVec.ofNat 16 (bits h 47 32)
/-- Reserved bits of the header. -/
def rsvdOk (h : BitVec 128) : Bool := bits h 65 64 = 0 && bits h 31 0 = 0
/-- A header. -/
def make (ptype dst src : Nat) (span : BitVec 16) (idx channel epoch : Nat) (poison : Bool) (len ord : Nat) :
    BitVec 128 :=
  put 120 ptype ||| put 112 dst ||| put 104 src ||| put 88 span.toNat ||| put 80 idx ||| put 75 channel
    ||| put 67 epoch ||| put 66 (b2n poison) ||| put 48 len ||| put 32 (ord % 2 ^ 16)
end Pkt

/-! ## Packets sent (R330–R333) -/

/-- The traffic class of a packet: TENSOR, REDUCE, ROUTE or CONTROL. -/
def Pkt.tc (h : BitVec 128) : Nat :=
  if Pkt.ptype h = 1 then (if 24 ≤ Pkt.channel h then 1 else 0) else if Pkt.ptype h = 6 then 2 else 3

/-- A link-management packet, which travels in LINK flits. -/
def Pkt.linkOnly (h : BitVec 128) : Bool := Pkt.ptype h = 7 || Pkt.ptype h = 8

/-- Flits that a packet of n bytes begins in a stream whose last flit holds `fill` bytes: packets lie back to back (R331). -/
def newFlits (fill n : Nat) : Nat := ceilDiv (fill + n) 240 - ceilDiv fill 240

/-- The link after a packet has left on virtual channel vc: its flits take the next FSEQs and, for a DATA stream, link
credits (log entry 43). -/
def Link.sends (x : Link) (vc : Nat) (h : BitVec 128) : Link :=
  let key := 2 * Pkt.tc h + vc
  let n := 16 + Pkt.len h
  let fill := x.fill.get 0 key
  let k := newFlits fill n
  let q := x.replay ++ (List.range k).map (fun i => x.fseq + BitVec.ofNat 8 i)
  let y := { x with
    fseq := x.fseq + BitVec.ofNat 8 k
    nakOwed := x.nakOwed && k = 0
    replay := q.drop (q.length - 64)
    fill := x.fill.set 0 key ((fill + n) % 240) }
  if Pkt.linkOnly h then y
  else { y with
    txFlits := x.txFlits + BitVec.ofNat 48 k
    credits := x.credits.set 0 key (x.credits.get 0 key - k) }

/-- A packet leaves on a link and virtual channel. -/
def transmit (l : LinkId) (vc : Nat) (header : BitVec 128) (p : Payload) (s : State) : State :=
  let t := s.setLink l ((s.link l).sends vc header)
  { t with sent := t.sent ++ [⟨l, header, p⟩] }

/-- A packet leaves on its route, or NO_ROUTE is raised and it is not sent (R338). -/
def sendTo (dst : Nat) (odd : Bool) (header : BitVec 128) (p : Payload) (s : State) : State :=
  match route s dst odd with
  | some l => transmit l 0 header p s
  | none => raise0 0x23 (dst * 256) s

/-- A packet of coupe k leaves on the route that its open step froze, or on the route in force (R340); on a frozen route
whose link has left service it is lost. -/
def sendRouted (k : CoupeId) (dst : Nat) (odd : Bool) (header : BitVec 128) (p : Payload) (s : State) : State :=
  match (s.run k).openStep with
  | none => sendTo dst odd header p s
  | some st =>
    match st.routes.find? (fun r => r.1 = dst && r.2.1 = odd) with
    | none => sendTo dst odd header p s
    | some (_, _, none) => raise0 0x23 (dst * 256) s
    | some (_, _, some l) => if (s.link l).works then transmit l 0 header p s else s

/-- The device that the span directory lists for a member (R337, R345). -/
def memberDev (s : State) (span : BitVec 16) (idx : Nat) : Option Nat :=
  (s.announced.find? (fun a => a.members.any (fun m => m.1 = span && m.2.toNat = idx))).map (·.dev.toNat)

/-- The coupe of this device that is a member of a span. -/
def spanCoupe (s : State) (span : BitVec 16) : Option CoupeId :=
  (listedCoupes s).find? (fun k =>
    (s.coupe k).state ≠ .free && (s.coupe k).sCount ≠ 0 && (s.coupe k).spanId = span && span ≠ 0)

/-- The other members of a coupe's span. -/
def otherMembers (x : Coupe) : List Nat := (List.range x.sCount.toNat).filter (· ≠ x.sIndex.toNat)

/-- A packet of coupe k for member m of its span. -/
def sendMember (k : CoupeId) (m ptype channel : Nat) (poison : Bool) (len ord : Nat) (p : Payload) (s : State) :
    State :=
  let x := s.coupe k
  match memberDev s x.spanId m with
  | none => s
  | some d =>
    sendRouted k d (channel % 2 = 1)
      (Pkt.make ptype d (ownDev s) x.spanId x.sIndex.toNat channel (s.run k).spanEpoch.toNat poison len ord) p s

/-- A packet of coupe k for every other member. -/
def sendAllMembers (k : CoupeId) (ptype len : Nat) (p : Payload) (s : State) : State :=
  (otherMembers (s.coupe k)).foldl (fun t m => sendMember k m ptype 0 false len 0 p t) s

/-- This device's ANNOUNCE (R337): every span member coupe, and the board reach, to every partner in service. -/
def announceAll (s : State) : State :=
  let ms := ((listedCoupes s).filter (fun k => (s.coupe k).sCount ≠ 0 && (s.coupe k).spanId ≠ 0)).map
    (fun k => ((s.coupe k).spanId, (s.coupe k).sIndex))
  (allLinks.filter (fun l => (s.link l).works)).foldl (fun t l =>
    transmit l 0 (Pkt.make 5 (s.link l).pDev.toNat (ownDev s) 0 0 0 0 false (8 + 4 * ms.length) 0)
      (.announce ms (boardReach s)) t) s

/-- An ANNOUNCE falls due at the next commit (R337). -/
def dueAnnounce (s : State) : State := if s.due.contains .announce then s else { s with due := s.due ++ [.announce] }

/-- Who claims a span's member index: this device's coupes and the announced members (R337). -/
def spanClaims (s : State) : List (Nat × BitVec 16 × Nat) :=
  ((listedCoupes s).filter (fun k => (s.coupe k).sCount ≠ 0 && (s.coupe k).spanId ≠ 0)).map
      (fun k => (ownDev s, (s.coupe k).spanId, (s.coupe k).sIndex.toNat))
    ++ s.announced.flatMap (fun a => a.members.map (fun m => (a.dev.toNat, m.1, m.2.toNat)))

/-- Indices that two devices claim. -/
def spanConflicts (s : State) : List (BitVec 16 × Nat) :=
  let c := spanClaims s
  ((c.filter (fun x => c.any (fun y => y.2 = x.2 && y.1 ≠ x.1))).map (·.2)).eraseDups

/-! ## Span queue handles (R335, R346) -/

def isSpanHandle (h : BitVec 16) : Bool := 0x2000 ≤ h.toNat && h.toNat ≤ 0x3FFF
def handlePartner (h : BitVec 16) : Nat := (h.toNat - 0x2000) / 32
def handleChannel (h : BitVec 16) : Nat := (h.toNat - 0x2000) % 32
def spanHandle (partner channel : Nat) : BitVec 16 := BitVec.ofNat 16 (0x2000 + partner * 32 + channel)
def isReduction (h : BitVec 16) : Bool := isSpanHandle h && 24 ≤ handleChannel h

/-- Whether a producing end may send to a member (R336): before the first advance of the epoch, or once that
member's FLUSH for the current epoch has arrived. -/
def spanGate (r : CoupeRun) (m : Nat) : Bool :=
  !r.spanAdvanced || r.flushed.contains (m * 256 + r.spanEpoch.toNat)

/-- Most rows held at once by staging, slack and marker register (R137, HIGH). -/
def Queue.held (q : Queue) : Nat := q.staging.length + q.slackCount + b2n q.marker.isSome
def Queue.seen (q : Queue) : Queue := { q with high := BitVec.ofNat 16 (max q.high.toNat (min q.held 65535)) }

/-- The 32 rows that a reduction unit holds per contributor (R347). -/
def reductionCredits : Nat := 32

/-- The depth that a queue's producer may use. -/
def Queue.depth (q : Queue) : Nat :=
  if isReduction (QRec.handle q.record) then reductionCredits else QRec.depth q.record

/-! ## Reduction units (R346, R347) -/

def rowF32 (r : Row) : List F32 := (List.range 128).map (fun i => Row.word32 r i)

/-- LSE pairs: m in even and s in odd positions (R346). -/
def lseRow : List F32 → List F32 → List F32
  | m1 :: s1 :: a, m2 :: s2 :: b =>
    let (m, t) := lseCombine (m1, s1) (m2, s2)
    m :: t :: lseRow a b
  | _, _ => []

/-- Two rows combined by the channel's operation. -/
def combineRows (channel : Nat) (a b : Row) : Row :=
  let x := rowF32 a
  let y := rowF32 b
  Row.ofWords32 (if channel < 28 then List.zipWith F32.add x y
    else if channel < 30 then List.zipWith F32.max x y else lseRow x y)

/-- Insertion by ascending member index. -/
def insertPart (p : Nat × Row × Bool) : List (Nat × Row × Bool) → List (Nat × Row × Bool)
  | [] => [p]
  | x :: xs => if p.1 < x.1 then p :: x :: xs else x :: insertPart p xs

/-- The result of all contributions, in ascending member index from the first. -/
def reduceParts (channel : Nat) : List (Nat × Row × Bool) → Row × Bool
  | [] => (0, false)
  | (_, r, p) :: rest =>
    rest.foldl (fun acc x => (combineRows channel acc.1 x.2.1, acc.2 || x.2.2)) (r, p)

/-- A credit for a contribution that the unit has used: local, or in a CREDIT packet (R336, R347). -/
def creditPart (k : CoupeId) (h : BitVec 16) (m : Nat) (s : State) : State :=
  if m = (s.coupe k).sIndex.toNat then
    match s.queue k h with
    | none => s
    | some q => s.setQueue k h (some { q with credits := q.credits + 1 })
  else sendMember k m 2 (handleChannel h) false 4 0 (.credit 1) s

/-- A contribution reaches the root's unit; with the last one the result row goes to the local queue. -/
def contribute (k : CoupeId) (h : BitVec 16) (m : Nat) (ord : BitVec 16) (data : Row) (poison : Bool) (s : State) :
    State :=
  let old := (s.reductions.find? (fun r => r.coupe = k && r.handle = h && r.ord = ord)).map (·.parts)
  let parts := insertPart (m, data, poison) (old.getD [])
  let others := s.reductions.filter (fun r => !(r.coupe = k && r.handle = h && r.ord = ord))
  if parts.length < (s.coupe k).sCount.toNat then
    { s with reductions := others ++ [⟨k, h, ord, parts⟩] }
  else
    let res := reduceParts (handleChannel h) parts
    let s1 := { s with reductions := others }
    let s2 := match s1.queue k h with
      | none => s1
      | some q => enterQueue k h q (.row res.1 res.2) s1
    parts.foldl (fun t p => creditPart k h p.1 t) s2

/-! ## Items that leave a producer's staging (R124, R336) -/

def Item.data : Item → Row
  | .row d _ => d
  | .marker _ => 0
def Item.poison : Item → Bool
  | .row _ p => p
  | .marker _ => false
def Item.isRow : Item → Bool
  | .row _ _ => true
  | .marker _ => false

/-- One item of queue h leaves; none when it must wait. -/
def sendItem (k : CoupeId) (h : BitVec 16) (q : Queue) (it : Item) (s : State) : Option State :=
  if q.credits = 0 then none
  else
    let r := handlePartner h
    let own := (s.coupe k).sIndex.toNat
    let q1 := { q with credits := q.credits - 1 }
    if !isSpanHandle h then some (enterQueue k h q1 it s)
    else if isReduction h && !it.isRow then
      some (if r = own then enterQueue k h q1 it s else s)
    else if isReduction h && r = own then
      some (contribute k h own (BitVec.ofNat 16 q.ord) it.data it.poison
        (s.setQueue k h (some { q1 with ord := q.ord + 1 })))
    else if !spanGate (s.run k) r then none
    else
      some (sendMember k r 1 (handleChannel h) it.poison (if it.isRow then 512 else 0) q.ord
        (match it with | .row d _ => .row d | .marker _ => .nothing)
        (s.setQueue k h (some { q1 with ord := if it.isRow then q.ord + 1 else q.ord })))

/-- Items leave the staging of an output port while credits last. -/
def releaseItems (k : CoupeId) (h : BitVec 16) : List Item → State → List Item × State
  | [], s => ([], s)
  | it :: rest, s =>
    match s.queue k h with
    | none => (it :: rest, s)
    | some q =>
      match sendItem k h q it s with
      | none => (it :: rest, s)
      | some t => releaseItems k h rest t

/-- Release from output port p (4–7) of core c, bound to queue h of coupe k. -/
def releasePort (c : CoreId) (p : Nat) (k : CoupeId) (h : BitVec 16) (s : State) : State :=
  let held := (s.core c).outStage.get [] p
  let (left, t) := releaseItems k h held s
  let x := t.core c
  let u := t.setCore c { x with outStage := x.outStage.set [] p left }
  if left.length < held.length then progress u c else u

end Sys2Proof.Machine
end

