-- ==== Sys2Proof/Machine/Units.lean ====
section
/-! DEFINITION. Stream ports and the quantiser as shared units of a core (R49, R50, R82, R123–R127). -/

namespace Sys2Proof.Machine

/-! ## Ports -/

/-- The queue handle that port p (IN0–IN3 for 0–3, OUT0–OUT3 for 4–7) is bound to; 0xFFFF: unbound. -/
def Core.port (x : Core) (p : Nat) : BitVec 16 := x.ports.get 0xFFFF p

/-- A port that is bound: its coupe, handle and queue. -/
structure Bound where
  coupe : CoupeId
  handle : BitVec 16
  queue : Queue
  deriving DecidableEq, Repr

/-- The queue bound to port p of core c. -/
def portQueue (s : State) (c : CoreId) (p : Nat) : Option Bound :=
  match coupeOf s c with
  | none => none
  | some k =>
    let h := (s.core c).port p
    match s.queue k h with
    | none => none
    | some q => if h = 0xFFFF then none else some ⟨k, h, q⟩

/-- The consumer takes the head row: a credit returns (R124) and ROWS counts it (R137). -/
def Queue.takeRow (q : Queue) : Queue :=
  { q with staging := q.staging.tail, returning := q.returning + 1, rows := q.rows + 1 }
/-- The consumer drops the head marker. -/
def Queue.dropMarker (q : Queue) : Queue :=
  { q with staging := q.staging.tail, returning := q.returning + 1, markCredit := true,
           marks := BitVec.ofNat 16 (satAdd 16 q.marks.toNat 1) }

/-- A row popped from a persistent queue whose producer is a task of another stage: the step cannot be replayed (R362). -/
def notePop (b : Bound) (s : State) : State :=
  match bindingOf s b.coupe, (s.run b.coupe).openStep with
  | some cfg, some st =>
    if QRec.persist b.queue.record && taskProduces cfg b.handle && !stageProduces cfg (StepD.stage st.w) b.handle then
      s.setRun b.coupe { s.run b.coupe with openStep := some { st with poppedForeign := true } }
    else s
  | _, _ => s

/-- A stall on an input port: IN_EMPTY, counted by the queue too (R63, R137). -/
def stallIn (c : CoreId) (x : Core) (b : Bound) (s : State) : State :=
  let s1 := match s.queue b.coupe b.handle with
    | none => s
    | some q => s.setQueue b.coupe b.handle (some { q with consEmpty := q.consEmpty + 1 })
  stallWith c x .inEmpty b.handle s1

/-- A stall on an output port: OUT_FULL. -/
def stallOut (c : CoreId) (x : Core) (b : Bound) (s : State) : State :=
  let s1 := match s.queue b.coupe b.handle with
    | none => s
    | some q => s.setQueue b.coupe b.handle (some { q with prodFull := q.prodFull + 1 })
  stallWith c x .outFull b.handle s1

/-- Room in the staging of output port p, after what credits release has left. -/
def portRoom (c : CoreId) (p : Nat) (b : Bound) (s : State) : Option State :=
  let s0 := releasePort c p b.coupe b.handle s
  if ((s0.core c).outStage.get [] p).length < 4 then some s0 else none

/-- An item enters the staging of output port p, at most 4, and leaves as credits allow; none when the staging is
full (R50). Rows of a poison-tainted task are poisoned (R358). -/
def pushItem (c : CoreId) (p : Nat) (b : Bound) (it : Item) (s : State) : Option State :=
  match portRoom c p b s with
  | none => none
  | some s0 =>
    let x := s0.core c
    let it' := match it with
      | .row d q => .row d (q || x.tainted)
      | m => m
    some (releasePort c p b.coupe b.handle
      (s0.setCore c { x with outStage := x.outStage.set [] p (x.outStage.get [] p ++ [it']) }))

/-- Every earlier RWRITE row has been acknowledged (R89). -/
def Core.writesSettled (x : Core) : Bool := x.writesOut = 0 && !x.queue.any (fun e => e.op = Op.rwrite)

/-! ## Vector rows -/

/-- The row that two vectors form, the lower-numbered in bytes 0–255 (R77). -/
def rowOfVecs (a b : List F32) : Row := Row.ofWords32 (a ++ b)
/-- Half `i` of a row as 64 lanes. -/
def rowVec (r : Row) (i : Nat) : List F32 := (List.range 64).map (fun j => Row.word32 r (64 * i + j))

/-! ## Accumulator file (R42, R44) -/

/-- Row r of the accumulator file of core c. -/
def Core.accRow (x : Core) (c : CoreId) (r : Nat) : List F32 :=
  (List.range (engineCols c)).map (fun n => x.acc.get 0 (r * engineCols c + n))
def Core.accRowP (x : Core) (r : Nat) : Bool := x.accPoison.get false r

/-- One row of the accumulator file written. -/
def setAccRow (c : CoreId) (r : Nat) (vs : List F32) (m : Sparse (BitVec 32)) : Sparse (BitVec 32) :=
  vs.zipIdx.foldl (fun acc v => acc.set 0 (r * engineCols c + v.2) v.1) m

def Core.setAcc (x : Core) (c : CoreId) (r : Nat) (vs : List F32) (p : Bool) : Core :=
  { x with acc := setAccRow c r vs x.acc, accPoison := x.accPoison.set false r p }

/-- A region definition. -/
def Core.region (x : Core) (i : Nat) : Option Region := x.regions.get none i

/-! ## The quantiser (R49, R82) -/

/-- Whether the output that the quantiser holds is the one a QCVT would continue. -/
def QOut.continues (q : QOut) (fmt : Nat) (port : Option Nat) (p : PlaneRows) : Bool :=
  q.fmt = fmt && q.port = port &&
    (port.isSome || (q.elemRow.toNat = p.elem && (!Fmt.scaled fmt || q.scaleRow.toNat = p.scale)
      && (!Fmt.isKB fmt || q.knotRow.toNat = p.knot)))

/-- A fresh output. -/
def QOut.start (fmt : Nat) (port : Option Nat) (p : PlaneRows) : QOut :=
  ⟨fmt, port, BitVec.ofNat 15 p.elem, BitVec.ofNat 15 p.scale, BitVec.ofNat 15 p.knot, [], [], []⟩

/-- Elements of one conversion group: values with the poison of their source. -/
structure QGroup where
  elems : List (Nat × Bool)
  scales : List (Nat × Bool)
  knots : List (Nat × Bool)
  qsat : Nat
  kovf : Nat
  nan : Bool
  lfsr : BitVec 32

/-- Blocks of 32 values. -/
def blocks32 : Nat → List (F32 × Bool) → List (List (F32 × Bool))
  | 0, _ => []
  | _, [] => []
  | n + 1, l => l.take 32 :: blocks32 n (l.drop 32)

/-- Whether any value of a block is poisoned by its source or is a NaN. -/
def badBlock (l : List (F32 × Bool)) : Bool := l.any (fun v => v.2 || v.1.isNaN)

/-- MX blocks converted in ascending order (R22). -/
def quantMX (f : Nat) (stoch : Bool) : List (List (F32 × Bool)) → BitVec 32 → QGroup
  | [], l => ⟨[], [], [], 0, 0, false, l⟩
  | b :: bs, l =>
    let vals := b.map (fun v => v.1.val)
    let x := mxScale f vals
    let r := toNarrowList f stoch (vals.map (fun v => v.scale (-x))) l
    let rest := quantMX f stoch bs r.lfsr
    { elems := (List.zipWith (fun code v => (code, v.2 || v.1.isNaN)) r.codes b) ++ rest.elems
      scales := ((127 + x).toNat, badBlock b) :: rest.scales
      knots := [], qsat := r.qsat + rest.qsat, kovf := 0, nan := r.nan || rest.nan, lfsr := rest.lfsr }

/-- At most 128 values converted to the output format (R19–R23). -/
def quantGroup (f : Nat) (stoch : Bool) (ot : Nat) (cb : Codebook) (vals : List (F32 × Bool)) (lfsr : BitVec 32) :
    QGroup :=
  if Fmt.isKB f then
    let g := kbGroup cb stoch ot (vals.map (·.1)) lfsr
    { elems := List.zipWith (fun code v => (code, v.2 || v.1.isNaN)) g.codes vals
      scales := List.zipWith (fun sc b => (sc, badBlock b)) g.scales (blocks32 4 vals)
      knots := [(g.knot, badBlock vals)], qsat := g.qsat, kovf := g.kovf, nan := g.nan, lfsr := g.lfsr }
  else if Fmt.isMX f then quantMX f stoch (blocks32 4 vals) lfsr
  else
    let r := toNarrowList f stoch (vals.map (fun v => v.1.val)) lfsr
    { elems := List.zipWith (fun code v => (code, v.2 || v.1.isNaN)) r.codes vals
      scales := [], knots := [], qsat := r.qsat, kovf := 0, nan := r.nan, lfsr := r.lfsr }

/-- The codebook that QCB loaded. -/
def Core.cb (x : Core) : Codebook := Codebook.ofBits (x.codebook.getD 0)

/-- Values enter the quantiser: counters, range guard, and the codes appended to the output held. TENSOR_TAG of the event is
the codebook's for a KB format and zero otherwise (log entry 120). -/
def quantise (c : CoreId) (vals : List (F32 × Bool)) (s : State) : State :=
  let x := s.core c
  match x.qout with
  | none => s
  | some q =>
    let g := quantGroup q.fmt (qcwStoch x.qcw) (qcwOT x.qcw) x.cb vals x.lfsr
    let y := ((x.addQsat g.qsat).addKovf g.kovf).addNanp (g.nan && !x.nanMet)
    rangeGuard c (if Fmt.isKB q.fmt then x.cb.tag else 0) (vals.map (·.1))
      (s.setCore c { y with
        lfsr := g.lfsr, nanMet := x.nanMet || g.nan
        qout := some { q with elems := q.elems ++ g.elems, scales := q.scales ++ g.scales, knots := q.knots ++ g.knots } })

/-- The next row that the quantiser writes: its plane (0 element, 1 scale, 2 knot), the row, its poison, and the
output after it. With `final` partly filled rows are written too, with zero in their unused bytes; for a port, scale
and knot rows wait until then (R49). -/
def QOut.nextRow (q : QOut) (final : Bool) : Option (Nat × Row × Bool × QOut) :=
  let n := Fmt.perRow q.fmt
  let full (k : Nat) (l : List (Nat × Bool)) : Bool := k ≤ l.length || (final && !l.isEmpty)
  let late := q.port.isSome && !final
  if full n q.elems then
    some (0, rowOfElems q.fmt ((q.elems.take n).map (·.1)), (q.elems.take n).any (·.2),
      { q with elems := q.elems.drop n, elemRow := if n ≤ q.elems.length then q.elemRow + 1 else q.elemRow })
  else if !late && full 512 q.scales then
    some (1, Row.ofBytes ((q.scales.take 512).map (·.1)), (q.scales.take 512).any (·.2),
      { q with scales := q.scales.drop 512,
               scaleRow := if 512 ≤ q.scales.length then q.scaleRow + 1 else q.scaleRow })
  else if !late && full 256 q.knots then
    some (2, BitVec.ofNat 4096 (packLE 16 ((q.knots.take 256).map (·.1))), (q.knots.take 256).any (·.2),
      { q with knots := q.knots.drop 256,
               knotRow := if 256 ≤ q.knots.length then q.knotRow + 1 else q.knotRow })
  else none

/-- Where a row of a plane goes in the bench, relative to BASE. -/
def QOut.planeRow (q : QOut) (plane : Nat) : Nat :=
  if plane = 0 then q.elemRow.toNat else if plane = 1 then q.scaleRow.toNat else q.knotRow.toNat

/-- Rows written in plane order, at most `fuel` of them, each of which is progress (R140); false when an output port is
full. -/
def emit (c : CoreId) (final : Bool) : Nat → State → Bool × State
  | 0, s => (true, s)
  | fuel + 1, s =>
    let x := s.core c
    match x.qout with
    | none => (true, s)
    | some q =>
      match q.nextRow final with
      | none => (true, s)
      | some (plane, r, p, q') =>
        match q.port with
        | none =>
          emit c final fuel
            (progress (taskWrite c (x.phys (q.planeRow plane)) r p (s.setCore c { x with qout := some q' })) c)
        | some i =>
          match portQueue s c (4 + i) with
          | none => (true, s)
          | some b =>
            match pushItem c (4 + i) b (.row r p) s with
            | none => (false, s)
            | some t => emit c final fuel (progress (t.setCore c { t.core c with qout := some q' }) c)

/-- More than the rows that a held output can have. -/
def QOut.fuel (q : QOut) : Nat := q.elems.length + q.scales.length + q.knots.length + 1

/-- Writing out everything that the quantiser holds (QFLUSH, END, QCW, and a QCVT that does not continue it). -/
def writeOut (c : CoreId) (s : State) : Bool × State :=
  match (s.core c).qout with
  | none => (true, s)
  | some q =>
    let (ok, t) := emit c true q.fuel s
    if ok then (true, t.setCore c { t.core c with qout := none }) else (false, t)

/-- The stall of an instruction whose write-out waits on the held output's port. -/
def stallWriteOut (c : CoreId) (s : State) : State :=
  let x := s.core c
  match x.qout with
  | some q =>
    match q.port with
    | some i =>
      match portQueue s c (4 + i) with
      | some b => stallOut c x b s
      | none => stallWith c x .outFull 0xFFFF s
    | none => stallWith c x .outFull 0xFFFF s
  | none => stallWith c x .outFull 0xFFFF s

end Sys2Proof.Machine
end

