-- ==== Sys2Proof/Machine/Sync.lean ====
section
/-! DEFINITION. Classes 0x6, sync, and 0x7, system (R77, R89, R169–R171, R248, R249). -/

namespace Sys2Proof.Machine

/-! ## Barriers (R169) -/

namespace Barrier
def memory (w : BitVec 64) : Bool := bit w 63
def entry (w : BitVec 64) : Bool := bit w 62
def stage (w : BitVec 64) : Nat := bits w 61 59
def target (w : BitVec 64) : Nat := bits w 58 43
def slot (w : BitVec 64) : Nat := bits w 42 37
def arrivers (w : BitVec 64) (s : Nat) : Bool := bit w (29 + s)
end Barrier

/-- HANDOFF and HTAG of a STEP descriptor (R238). -/
def stepHandoff (w : BitVec 512) : Nat := bits w 399 352
def stepHtag (w : BitVec 512) : BitVec 16 := BitVec.ofNat 16 (bits w 351 336)

/-- The barrier entry of core c's configuration. -/
def barrierOf (s : State) (c : CoreId) (i : Nat) : Option (CoupeId × BitVec 64) :=
  match coupeOf s c with
  | none => none
  | some k =>
    match bindingOf s k with
    | none => none
    | some cfg => cfg.barriers[i]?.map (fun w => (k, w))

/-- The word of a memory-scope barrier and the tag of the coupe's open step. -/
def barrierWord (s : State) (k : CoupeId) (w : BitVec 64) : BitVec 48 × BitVec 16 :=
  match (s.run k).openStep with
  | none => (0, 0)
  | some st => (BitVec.ofNat 48 (stepHandoff st.w + 8 * Barrier.slot w), stepHtag st.w)

/-- TAG and COUNT of a barrier word in the deck. -/
def wordTag (s : State) (a : Nat) : BitVec 16 := BitVec.ofNat 16 (Memory.read (a + 6) 2 s.mem)
def wordCount (s : State) (a : Nat) : Nat := Memory.read a 4 s.mem

/-- An arrival at barrier i of coupe k, on its way. -/
def sendArrival (k : CoupeId) (i : Nat) (w : BitVec 64) (s : State) : State :=
  let a := if Barrier.memory w then
      let (addr, tag) := barrierWord s k w
      Arrival.memory addr tag
    else Arrival.coupe k (BitVec.ofNat 8 i)
  { s with arrivals := s.arrivals ++ [a] }

/-- Whether a barrier is open for a waiter with this target (R170). -/
def barrierOpen (s : State) (k : CoupeId) (i : Nat) (w : BitVec 64) (target : Nat) : Bool :=
  if Barrier.memory w then
    let (addr, tag) := barrierWord s k w
    wordTag s addr.toNat = tag && target ≤ wordCount s addr.toNat
  else target ≤ (s.run k).barriers.get 0 i

/-! ## Sync -/

/-- An instruction of a unit that WAITU's mask names. -/
def maskNames (m : BitVec 4) (e : Queued) : Bool := (opUnit e.op).any (fun u => bit m u.maskBit)

/-- WAITU: waits until every earlier instruction of the named units has completed. -/
def execWaitu (c : CoreId) (f : Fields) (s : State) : Out :=
  issue c Op.waitu f [(.illegal, !Form.ok ⟨0, 0, 0, 1, 15, 0⟩ f)] (fun s =>
    let x := s.core c
    if x.queue.any (maskNames f.mod) then stallWith c x .sync 0xFFFF s else completeWith c x s) s

/-- FENCER: waits until every earlier RWRITE row has been acknowledged; a refused one raises WINDOW. -/
def execFencer (c : CoreId) (f : Fields) (s : State) : Out :=
  let x := s.core c
  issue c Op.fencer f [(.illegal, !Form.nil.ok f), (.window, x.writesSettled && x.refused.isSome)] (fun s =>
    if x.writesSettled then completeWith c x s else stallWith c x .sync 0xFFFF s) s

/-- ARRIVE: an arrival at barrier IMM, once every earlier instruction that writes bench rows has completed (R170). -/
def execArrive (c : CoreId) (f : Fields) (s : State) : Out :=
  let b := barrierOf s c f.imm.toNat
  issue c Op.arrive f [(.illegal, !Form.ok ⟨0, 0, 0, 1, 0, 32⟩ f || b.isNone)] (fun s =>
    match b with
    | none => s
    | some (k, w) =>
      let x := s.core c
      if x.queue.any (fun e => writesBench e.op e.f) then stallWith c x .sync 0xFFFF s
      else completeWith c x (sendArrival k f.imm.toNat w s)) s

/-- WAITB: waits until the count of barrier IMM reaches A. -/
def execWaitb (c : CoreId) (f : Fields) (s : State) : Out :=
  let x := s.core c
  let b := barrierOf s c f.imm.toNat
  issue c Op.waitb f [(.illegal, !Form.ok ⟨0, 5, 0, 1, 0, 32⟩ f || b.isNone)] (fun s =>
    match b with
    | none => s
    | some (k, w) =>
      if barrierOpen s k f.imm.toNat w (x.rd f.a.toNat).toNat then completeWith c x s
      else stallWith c x .sync 0xFFFF s) s

/-! ## System -/

/-- The core value that RDSYS reads; none for an unassigned selector. -/
def sysValue (s : State) (c : CoreId) (sel : Nat) : Option (BitVec 64) :=
  let x := s.core c
  if sel = 0 then some (c.setWidth 64)
  else if sel = 1 then some ((s.slot c).incarn.setWidth 64)
  else if sel = 2 then some (if coreCourser c then 1 else 0)
  else if sel = 3 then some s.timebase
  else if sel = 4 then some (match x.task with
    | some w => (Task.step w).setWidth 64
    | none => 0)
  else if 0x10 ≤ sel && sel ≤ 0x19 then some ((x.counters.get 0 (sel - 0x10)).setWidth 64)
  else if sel = 0x20 then some (x.qsat.setWidth 64)
  else if sel = 0x21 then some (x.kovf.setWidth 64)
  else if sel = 0x22 then some (x.nanp.setWidth 64)
  else if sel = 0x23 then some (x.maxabs.setWidth 64)
  else none

/-- RDSYS. -/
def execRdsys (c : CoreId) (f : Fields) (s : State) : Out :=
  let v := sysValue s c f.imm.toNat
  issue c Op.rdsys f [(.illegal, !Form.ok ⟨5, 0, 0, 1, 0, 32⟩ f || v.isNone)] (fun s =>
    completeWith c ((s.core c).wr f.d.toNat (v.getD 0) false) s) s

/-- TRAP: raises TRAP and reports IMM[7:0]. -/
def execTrap (c : CoreId) (f : Fields) (s : State) : Out :=
  issue c Op.trap f [(.illegal, !Form.ok ⟨0, 0, 0, 1, 0, 8⟩ f)] (fun s =>
    takeExc c .trap (s.setCore c { s.core c with trapCode := BitVec.ofNat 8 f.imm.toNat })) s

/-! ## TMASK (R246–R248) -/

/-- A tree node as TMASK judges it: its mask, depth and PARENT. -/
structure Node where
  anc : Nat
  depth : Nat
  parent : Nat
  deriving DecidableEq, Repr

/-- Entry i after the nodes before it; a broken entry is a child of node 0 (R248). -/
def nodeStep (ns : List Node) (i : Nat) (e : BitVec 64) : Node :=
  if i = 0 then ⟨1, 0, 0xFF⟩
  else
    let p := bits e 63 56
    let broken := i ≤ p || bits e 55 32 ≠ 0 || (match ns[p]? with
      | some n => 15 ≤ n.depth
      | none => true)
    if broken then ⟨1 ||| 2 ^ i, 1, 0⟩
    else
      match ns[p]? with
      | some n => ⟨n.anc ||| 2 ^ i, n.depth + 1, p⟩
      | none => ⟨1 ||| 2 ^ i, 1, 0⟩

/-- The first n nodes of a row. -/
def treeNodes (r : Row) (n : Nat) : List Node :=
  (List.range n).foldl (fun ns i => ns ++ [nodeStep ns i (Row.word64 r i)]) []

/-- A row of 64-bit words. -/
def rowOfWords64 (ws : List Nat) : Row := BitVec.ofNat 4096 (packLE 64 ws)

/-- TMASK: row D := the masks, row D + 1 := depths and parents. -/
def execTmask (c : CoreId) (f : Fields) (s : State) : Out :=
  let x := s.core c
  let d := (x.rd f.d.toNat).toNat
  let a := (x.rd f.a.toNat).toNat
  let n := f.imm.toNat
  issue c Op.tmask f [(.illegal, !(Form.ok ⟨5, 5, 0, 1, 0, 7⟩ f && 1 ≤ n && n ≤ 64)), (.unit, !coreCourser c),
      (.bound, !(x.rowsIn d 2 && x.rowsIn a 1))] (fun s =>
    let s0 := s.setCore c (x.taint (x.rdP f.d.toNat || x.rdP f.a.toNat))
    let (v, s1) := readBench c (x.phys a) 1 s0
    let ns := treeNodes v.1 n
    let s2 := taskWrite c (x.phys d) (rowOfWords64 (ns.map (·.anc))) v.2 s1
    let s3 := taskWrite c (x.phys (d + 1)) (rowOfWords64 (ns.map (fun q => q.depth ||| q.parent <<< 8))) v.2 s2
    completeWith c (s3.core c) s3) s

/-! ## TOPK (R249) -/

/-- A candidate comes before another: larger value first, equal values in ascending id. -/
def candBefore (a b : BitVec 32 × F32) : Bool :=
  F32.lt b.2 a.2 || (!F32.lt a.2 b.2 && a.1.toNat < b.1.toNat)

def insertCand (x : BitVec 32 × F32) : List (BitVec 32 × F32) → List (BitVec 32 × F32)
  | [] => [x]
  | y :: ys => if candBefore x y then x :: y :: ys else y :: insertCand x ys

/-- The K best of the candidates, the missing ones as −∞ and 0xFFFF_FFFF. -/
def topK (k : Nat) (cs : List (BitVec 32 × F32)) : List (BitVec 32 × F32) :=
  let best := cs.foldl (fun acc x => (insertCand x acc).take k) []
  best ++ List.replicate (k - best.length) (0xFFFFFFFF#32, F32.negInf)

/-- 64-bit words as whole rows; the words beyond the last are `unused` of their number (log entry 12). -/
def wordRows (ws : List Nat) (rows : Nat) (unused : Nat → BitVec 64) : List Row :=
  (List.range rows).map (fun i =>
    rowOfWords64 ((List.range 64).map (fun j => (ws[64 * i + j]?).getD (unused (64 * i + j)).toNat)))

/-- Rows written one after another. -/
def storeRows (c : CoreId) (row : Nat) (p : Bool) (rs : List Row) (s : State) : State :=
  rs.zipIdx.foldl (fun t r => taskWrite c ((t.core c).phys (row + r.2)) r.1 p t) s

/-- The softmax state over N logits in vectors of 64, missing lanes −∞. -/
def topkSoftmax : Nat → List F32 → F32 × F32 → F32 × F32
  | 0, _, st => st
  | fuel + 1, l, st =>
    if l.isEmpty then st
    else
      let v := l.take 64
      topkSoftmax fuel (l.drop 64) (softmaxStep st.1 st.2 (v ++ List.replicate (64 - v.length) F32.negInf))

/-- TOPK: the K largest values in descending order, and with SEL 0 the pair (m, s) in the next row. One that pauses after
some output rows starts again (R91, R93). -/
def execTopk (c : CoreId) (f : Fields) (stop : Option Nat) (s : State) : Out :=
  let x := s.core c
  let d := (x.rd f.d.toNat).toNat
  let a := (x.rd f.a.toNat).toNat
  let b := x.rd f.b.toNat
  let n := bits b 19 0
  let k := f.imm.toNat
  let raw := f.sel = 0
  let src := if raw then ceilDiv n 128 else ceilDiv n 64
  let out := ceilDiv (8 * k) 512
  let legal := Form.ok ⟨5, 5, 5, 2, 0, 9⟩ f && 1 ≤ k && k ≤ 256 && n ≠ 0 && bits b 31 20 = 0 && bits b 63 52 = 0
  issue c Op.topk f [(.illegal, !legal), (.unit, !coreCourser c),
      (.bound, !(x.rowsIn d (out + b2n raw) && x.rowsIn a src))] (fun s =>
    let s0 := s.setCore c (x.taint (x.rdP f.d.toNat || x.rdP f.a.toNat || x.rdP f.b.toNat))
    let (rows, s1) := readBenchRows c 1 ((List.range src).map (fun i => x.phys (a + i))) s0
    let row (i : Nat) : Row := (rows.getD i (0, false)).1
    let cands : List (BitVec 32 × F32) := (List.range n).map (fun i =>
      if raw then (BitVec.ofNat 32 (bits b 51 32 + i), Row.word32 (row (i / 128)) (i % 128))
      else
        let e := Row.word64 (row (i / 64)) (i % 64)
        (BitVec.ofNat 32 (bits e 63 32), BitVec.ofNat 32 (bits e 31 0)))
    let nan := cands.any (fun e => e.2.isNaN)
    let p := nan || rows.any (·.2)
    let best := topK k (cands.filter (fun e => !e.2.isNaN))
    let unused (j : Nat) : BitVec 64 := Config.topkUnused (rows.map (·.1)) b k j
    let (m, sm) := if raw then topkSoftmax (n / 64 + 1) (cands.map (·.2)) (F32.negInf, 0) else (0, 0)
    let all := wordRows (best.map (fun e => e.1.toNat <<< 32 ||| e.2.toNat)) out unused
      ++ (if raw then wordRows [sm.toNat <<< 32 ||| m.toNat] 1 (fun j => unused (64 * out + j)) else [])
    let lim := pauseAt stop all.length
    let s2 := storeRows c d p (all.take lim) s1
    if lim = all.length then completeWith c ((s2.core c).addNanp nan) s2 else pauseWith c (s2.core c) s2) s

end Sys2Proof.Machine
end

