-- ==== Sys2Proof/Machine/Binding.lean ====
section
/-! DEFINITION. The parts of a bound configuration: templates, buckets, padding, feeds and walks
(R150–R152, R156–R163, R167). -/

namespace Sys2Proof.Machine

/-! ## Buckets (R156) -/

namespace Bkt
def max (w : BitVec 256) (d : Nat) : Nat := bits w (255 - 20 * d) (236 - 20 * d)
def key (w : BitVec 256) : Nat := bits w 175 144
def stage (w : BitVec 256) : Nat := bits w 143 141
def first (w : BitVec 256) : Nat := bits w 140 125
def count (w : BitVec 256) : Nat := bits w 124 109
end Bkt

/-- The templates of a bucket, in order. -/
def bucketTemplates (cfg : Config) (b : Nat) : List (BitVec 1024) :=
  match cfg.buckets[b]? with
  | none => []
  | some w => (cfg.templates.drop (Bkt.first w)).take (Bkt.count w)

/-- What R157 makes of a step's shape: refused, a zero-shape step, or a bucket. -/
inductive ShapeChoice where
  | refused
  | zero
  | bucket (i : Nat)
  deriving DecidableEq, Repr

def chooseBucket (cfg : Config) (stage : Nat) (s : List Nat) : ShapeChoice :=
  if (s.drop cfg.dims).any (· ≠ 0) then .refused
  else if (s.take cfg.dims).any (· = 0) then .zero
  else
    match cfg.buckets.zipIdx.find? (fun b => Bkt.stage b.1 = stage
        && (List.range cfg.dims).all (fun d => s.getD d 0 ≤ Bkt.max b.1 d)) with
    | some b => .bucket b.2
    | none => .refused

/-- A task's record as the sequencer dispatches it (R152, R21): STEP, INCARN, SEED and shape arguments filled in;
`ord` is the task's ordinal on its core within the step. -/
def dispatchRecord (cfg : Config) (incarn step : BitVec 16) (s : List Nat) (ord : Nat) (t : BitVec 1024) : BitVec 512 :=
  let w := Tpl.record t
  let a0 := if Tpl.shape0 t then s.getD 3 0 * 2 ^ 32 + s.getD 2 0 else (Task.arg0 w).toNat
  let a1 := if Tpl.shape1 t then s.getD 1 0 * 2 ^ 32 + s.getD 0 0 else (Task.arg1 w).toNat
  let clear : BitVec 512 :=
    ~~~(put 416 (2 ^ 32 - 1) ||| put 368 (2 ^ 16 - 1) ||| put 352 (2 ^ 16 - 1) ||| put 45 (2 ^ 128 - 1))
  (w &&& clear) ||| put 416 (taskSeed cfg.seed (Tpl.core t) ord).toNat ||| put 368 incarn.toNat
    ||| put 352 step.toNat ||| put 109 (a0 % 2 ^ 64) ||| put 45 (a1 % 2 ^ 64)

/-- Records of a bucket's templates in order, each with its core; ordinals count per core, after the step's earlier
templates. -/
def dispatchList (s : State) (cfg : Config) (step : BitVec 16) (shape : List Nat) (earlier : List (BitVec 1024)) (b : Nat) :
    List (CoreId × BitVec 512) :=
  let ts := bucketTemplates cfg b
  ts.zipIdx.map (fun t =>
    let c := Tpl.core t.1
    let ord := ((earlier ++ ts.take t.2).filter (fun u => Tpl.core u = c)).length
    (c, dispatchRecord cfg (s.slot c).incarn step shape ord t.1))

/-! ## Padding (R159, R160) -/

namespace Pad
def value (w : BitVec 64) : Nat := bits w 63 32
def fmt (w : BitVec 64) : Nat := bits w 31 24
def mode (w : BitVec 64) : Nat := bits w 23 22
def dim (w : BitVec 64) : Nat := bits w 21 20
def unit (w : BitVec 64) : Nat := bits w 19 8
def gran (w : BitVec 64) : Bool := bit w 7
/-- The element code that replaces a padded position. -/
def code (w : BitVec 64) : Nat :=
  if mode w = 0 then value w
  else if mode w = 1 then
    let f := fmt w
    if Fmt.hasInf f then (2 ^ Fmt.expb f - 1) * 2 ^ Fmt.mant f + 2 ^ (Fmt.ebits f - 1)
    else encodeDy f true (Fmt.maxfin f true)
  else 0
/-- A row of pad values. -/
def row (w : BitVec 64) : Row := rowOfElems (fmt w) (List.replicate (Fmt.perRow (fmt w)) (code w))
end Pad

/-- Row q of a padded stream, for shape value `s` on the entry's dimension: the row and its poison (R160). -/
def padRow (w : BitVec 64) (s q : Nat) (data : Row) (poison : Bool) : Row × Bool :=
  let f := Pad.fmt w
  if !Pad.gran w then
    if s ≤ q / Pad.unit w then (Pad.row w, false) else (data, poison)
  else
    let n := Fmt.perRow f
    let per := n / Pad.unit w
    let first := q * Pad.unit w
    if s ≤ first then (Pad.row w, false)
    else
      (rowOfElems f ((List.range n).map (fun i =>
        if s ≤ first + i / per then Pad.code w else rowElem f data i)), poison)

/-! ## Walks (R162, R163) -/

namespace Walk
def ndim (w : BitVec 512) : Nat := bits w 511 509
def perm (w : BitVec 512) (d : Nat) : Nat := bits w (491 + 3 * d + 2) (491 + 3 * d)
def morton (w : BitVec 512) : Bool := bit w 490
def skip (w : BitVec 512) : Bool := bit w 489
def padSel (w : BitVec 512) : Nat := bits w 488 481
def tileRows (w : BitVec 512) : Nat := if bits w 480 473 = 0 then 256 else bits w 480 473
def count (w : BitVec 512) (j : Nat) : Nat := bits w (67 * j + 66) (67 * j + 51)
def stride (w : BitVec 512) (j : Nat) : Int := (BitVec.ofNat 32 (bits w (67 * j + 50) (67 * j + 19))).toInt
def shape (w : BitVec 512) (j : Nat) : Nat := bits w (67 * j + 18) (67 * j + 16)
def unit (w : BitVec 512) (j : Nat) : Nat := bits w (67 * j + 15) (67 * j)
/-- run[j] of R163. -/
def run (w : BitVec 512) (s : List Nat) (j : Nat) : Nat :=
  if shape w j = 0 then count w j else min (count w j) (ceilDiv (s.getD (shape w j - 1) 0) (unit w j))
end Walk

/-- unmorton of R163, at most `fuel` more bits. -/
def unmorton (z ba bb : Nat) : Nat → Nat → Nat → Nat → Nat → Nat → Nat × Nat
  | 0, a, b, _, _, _ => (a, b)
  | fuel + 1, a, b, na, nb, i =>
    if ba ≤ na && bb ≤ nb then (a, b)
    else
      let (a, na, i) := if na < ba then (a + (z >>> i) % 2 * 2 ^ na, na + 1, i + 1) else (a, na, i)
      let (b, nb, i) := if nb < bb then (b + (z >>> i) % 2 * 2 ^ nb, nb + 1, i + 1) else (b, nb, i)
      unmorton z ba bb fuel a b na nb i

/-- Index vectors (level 0 first) over levels 0 … n − 1, the highest level outermost. -/
def nestIndices (counts : List Nat) : List (List Nat) :=
  counts.foldl (fun inner c => (List.range c).flatMap (fun i => inner.map (fun v => v ++ [i]))) [[]]

/-- Index vectors of a walk by level, in visiting order. -/
def walkIndices (w : BitVec 512) : List (List Nat) :=
  let counts := (List.range (Walk.ndim w)).map (fun d => Walk.count w (Walk.perm w d))
  if Walk.morton w then
    let c0 := counts.getD 0 1
    let c1 := counts.getD 1 1
    let z := (List.range (c0 * c1)).map (fun z =>
      let p := unmorton z (Nat.log2 c0) (Nat.log2 c1) 34 0 0 0 0 0
      [p.1, p.2])
    (counts.drop 2).foldl (fun inner c => (List.range c).flatMap (fun i => inner.map (fun v => v ++ [i]))) z
  else nestIndices counts

/-- The tiles of a walk: the row offset of each from its base, none for a pad tile. -/
def walkTiles (w : BitVec 512) (s : List Nat) : List (Option Int) :=
  (walkIndices w).filterMap (fun v =>
    let js := v.zipIdx.map (fun p => (Walk.perm w p.2, p.1))
    if js.any (fun p => Walk.run w s p.1 ≤ p.2) then (if Walk.skip w then none else some none)
    else some (some ((js.map (fun p => (p.2 : Int) * Walk.stride w p.1)).foldl (· + ·) 0)))

/-- The rows of a walk in visiting order from a device address: each row's address, none for a pad row. -/
def walkRows (w : BitVec 512) (base : Nat) (s : List Nat) : List (Option Nat) :=
  (walkTiles w s).flatMap (fun t => (List.range (Walk.tileRows w)).map (fun (i : Nat) =>
    t.map (fun off => ((base : Int) + (off + (i : Int)) * 512).toNat)))

/-- The row that a pad row of a walk holds. -/
def walkPadRow (cfg : Config) (w : BitVec 512) : Row :=
  if Walk.padSel w = 0 then 0 else ((cfg.padding[Walk.padSel w]?).map Pad.row).getD 0

/-! ## Feeds (R167) -/

namespace Feed
def queue (w : BitVec 128) : BitVec 16 := BitVec.ofNat 16 (bits w 127 112)
def walk (w : BitVec 128) : Nat := bits w 111 96
def base (w : BitVec 128) : BitVec 48 := BitVec.ofNat 48 (bits w 95 48)
def end_ (w : BitVec 128) : Nat := bits w 47 46
def stage (w : BitVec 128) : Nat := bits w 45 43
end Feed

end Sys2Proof.Machine
end

