-- ==== Sys2Proof/Machine/Pool.lean ====
section
/-! DEFINITION. The deck and yard pools: floors, grants, placement, eviction, relocation and the records that name
an allocation (R181, R182, R184–R188, R204, R217, R220, R221, R230, R441). The MOVE transfers of evictions, recalls and
relocations are issued here and run on movers; the requests that need them wait (log entry 13). -/

namespace Sys2Proof.Machine

/-! ## Mover descriptors (R177) -/

namespace Mv
def op (w : BitVec 512) : Nat := bits w 511 504
def sspace (w : BitVec 512) : Nat := bits w 503 502
def dspace (w : BitVec 512) : Nat := bits w 501 500
def src (w : BitVec 512) : Nat := bits w 495 432
def dst (w : BitVec 512) : Nat := bits w 431 368
def rows (w : BitVec 512) : Nat := bits w 367 344
def walk (w : BitVec 512) : Nat := bits w 343 328
def boff (w : BitVec 512) : Nat := bits w 327 319
def blen (w : BitVec 512) : Nat := bits w 318 309
def device (w : BitVec 512) : Bool := bit w 308
def coupe (w : BitVec 512) : CoupeId := BitVec.ofNat 7 (bits w 307 301)
def seq (w : BitVec 512) : Nat := bits w 300 287
def step (w : BitVec 512) : BitVec 16 := BitVec.ofNat 16 (bits w 286 271)
def bscope (w : BitVec 512) : Nat := bits w 270 269
def barrier (w : BitVec 512) : BitVec 8 := BitVec.ofNat 8 (bits w 268 261)
def btag (w : BitVec 512) : BitVec 16 := BitVec.ofNat 16 (bits w 260 245)
def baddr (w : BitVec 512) : BitVec 48 := BitVec.ofNat 48 (bits w 244 197)
def deadline (w : BitVec 512) : Nat := bits w 196 193
def pattern (w : BitVec 512) : BitVec 32 := BitVec.ofNat 32 (bits w 192 161)
/-- The transfer belongs to coupe k. -/
def ofCoupe (w : BitVec 512) (k : CoupeId) : Bool := !device w && coupe w = k
end Mv

/-- The descriptor of a MOVE that the device issues (R177). -/
def DevMove.desc (m : DevMove) : BitVec 512 :=
  put 504 2 ||| put 432 m.src.toNat ||| put 368 m.dst.toNat ||| put 344 (8 * m.units) ||| put 328 0xFFFF ||| put 308 1
    ||| put 287 0x3FFF

/-! ## Units -/

/-- Pool units of one deck stack: 48 GiB less the device reserve (R173). -/
def stackUnits : Nat := reserveOff / 4096

/-- A stack whose units the allocator grants: in service, not in self-refresh, not under test (R203, R377, R400). -/
def stackInPool (s : State) (i : SectorId) : Bool := (s.stack i).state = .on

/-- Units of a pool. -/
def poolTotal (s : State) : Pool → Nat
  | .deck => stackUnits * (allSectors.filter (stackInPool s)).length
  | .yard => s.yardGib * 2 ^ 18

/-- Whether an allocation lies in a pool as it stands. -/
def allocIn (s : State) (p : Pool) (a : Alloc) : Bool :=
  a.pool = p && (p = .yard || stackInPool s (stackOf a.addr.toNat))

def poolAllocs (s : State) (p : Pool) : List Alloc := s.dur.allocs.filter (allocIn s p)
def sumUnits (l : List Alloc) : Nat := (l.map (·.units)).sum
def freeUnits (s : State) (p : Pool) : Nat := poolTotal s p - sumUnits (poolAllocs s p)
/-- Evictable units, those on their way out included. -/
def evictableUnits (s : State) (p : Pool) : Nat := sumUnits ((poolAllocs s p).filter (·.evictable.isSome))
/-- Units of the runs of a request. -/
def unitsOf (l : List (AllocKind × Nat)) : Nat := (l.map (·.2)).sum
/-- Units that a pool has granted and not placed yet. -/
def grantedUnits (s : State) (p : Pool) : Nat := ((s.granted.filter (fun g => g.pool = p)).map (fun g => unitsOf g.runs)).sum
/-- Whether n more units stay within free + evictable: free counts what has been granted (R186). -/
def fits (s : State) (p : Pool) (n : Nat) : Bool :=
  n + sumUnits (poolAllocs s p) + grantedUnits s p ≤ poolTotal s p + evictableUnits s p

/-- Save areas and image copies are outside floors and usage (R185). -/
def AllocKind.counted : AllocKind → Bool
  | .save _ _ => false
  | .jobSave _ _ => false
  | .imageYard _ => false
  | .imageDeck _ => false
  | _ => true

/-- Whether a datum is homed to coupe k (R185): a group that a page list of one of its sequences names, that its open step
has taken, or whose pin it is charged with (R232); any other datum of its own (log entry 111). -/
def homedTo (d : Durable) (k : CoupeId) (a : Alloc) : Bool :=
  match a.kind with
  | .group g =>
    let x := d.groups.get Group.reset g.toNat
    (x.state = .free && a.coupe = some k) || (x.pinned && x.pinCoupe = k)
      || d.seqs.any (fun e => e.2.coupe = k && e.2.state ≠ .free && e.2.pages.contains (some g))
  | kd => a.coupe = some k && kd.counted

/-- Deck units homed to a coupe (USED of R265). -/
def homedUnits (d : Durable) (k : CoupeId) : Nat :=
  sumUnits (d.allocs.filter (fun a => a.pool = .deck && homedTo d k a))
def usedUnits (s : State) (k : CoupeId) : Nat := homedUnits s.dur k

/-- Deck units charged to a coupe: those homed to it and those granted to it (R186). -/
def chargedUnits (s : State) (k : CoupeId) : Nat :=
  usedUnits s k + ((s.granted.filter (fun g => g.pool = .deck && g.coupe = some k)).map
    (fun g => unitsOf (g.runs.filter (fun r => r.1.counted)))).sum

/-- The floor that counts in a reserve: a floor not kept counts only up to the usage (R204). -/
def floorUnits (s : State) (k : CoupeId) : Nat :=
  let f := (s.coupe k).floor.toNat
  if (s.coupe k).floorLost then min f (usedUnits s k) else f

/-- Units that a coupe still has within its floor; floors in the yard are zero. -/
def ownUnits (s : State) (p : Pool) (k : CoupeId) : Nat :=
  match p with
  | .deck => floorUnits s k - chargedUnits s k
  | .yard => 0

/-- The reserve of R186. -/
def poolReserve (s : State) (p : Pool) : Nat := ((listedCoupes s).map (ownUnits s p)).sum

/-- Units of groups pinned and charged to a coupe. -/
def pinnedUnits (s : State) (k : CoupeId) : Nat :=
  ((s.dur.groups.filter (fun g => g.2.pinned && g.2.pinCoupe = k)).map (fun g => g.2.units.toNat)).sum

/-- A coupe whose floor was not kept, or whose pins exceed its floor, gets no grant beyond its usage (R204, R232). -/
def grantBarred (s : State) (c : Option CoupeId) : Bool :=
  match c with
  | none => false
  | some k => (s.coupe k).floorLost || (s.coupe k).floor.toNat < pinnedUnits s k

/-- Units that the requests ahead in the wait queue still need. -/
def queuedUnits (s : State) (p : Pool) : Nat :=
  ((s.poolWait.filter (fun w => w.pool = p)).map (fun w => unitsOf w.runs)).sum

/-- R186's decision on a request of n units with `queued` units ahead of it. -/
def grants (s : State) (p : Pool) (c : Option CoupeId) (n queued : Nat) : Bool :=
  let own := match c with
    | some k => ownUnits s p k
    | none => 0
  n ≤ own ||
    (!grantBarred s c && fits s p (n + (poolReserve s p - own) + queued))

/-! ## Placement (R184) -/

/-- Insertion by address. -/
def insertAlloc (a : Alloc) : List Alloc → List Alloc
  | [] => [a]
  | x :: xs => if a.addr.toNat < x.addr.toNat then a :: x :: xs else x :: insertAlloc a xs

def sortAllocs (l : List Alloc) : List Alloc := l.foldl (fun acc a => insertAlloc a acc) []

/-- Allocations in [lo, hi), ascending. -/
def allocsIn (s : State) (lo hi : Nat) : List Alloc :=
  sortAllocs (s.dur.allocs.filter (fun a => lo ≤ a.addr.toNat && a.addr.toNat < hi))

/-- The lowest run of `n` bytes between ascending allocations. -/
def firstFit (hi n : Nat) : Nat → List Alloc → Option Nat
  | cur, [] => if cur + n ≤ hi then some cur else none
  | cur, a :: as =>
    if cur + n ≤ a.addr.toNat then some cur else firstFit hi n (max cur (a.addr.toNat + a.units * 4096)) as

/-- The stacks a deck request may use, in order: those of the coupe's sectors, then the others. -/
def stackOrder (s : State) (c : Option CoupeId) : List SectorId :=
  let mine (i : SectorId) : Bool := match c with
    | some k => (sectorStands i).any (inMask (s.coupe k).stands)
    | none => false
  (allSectors.filter (fun i => mine i && stackInPool s i)) ++
    (allSectors.filter (fun i => !mine i && stackInPool s i))

/-- A run of n units in one stack. -/
def placeIn (s : State) (i : SectorId) (n : Nat) : Option Nat :=
  let lo := stackBase i.val
  firstFit (lo + reserveOff) (n * 4096) lo (allocsIn s lo (lo + reserveOff))

/-- The stacks of a coupe's sectors that are in the pool. -/
def coupeStacks (s : State) (k : CoupeId) : List SectorId :=
  allSectors.filter (fun i => (sectorStands i).any (inMask (s.coupe k).stands) && stackInPool s i)

/-- The stacks in which an allocation may lie: a stand's save area in the stack of its sector (R275), an image's deck copy
in the stacks of the binding coupe's sectors, one run in each (R199), any other in the stacks of the coupe's sectors and
then in the rest (R184). -/
def kindStacks (s : State) (kd : AllocKind) (c : Option CoupeId) : List SectorId :=
  match kd with
  | .save _ g => [standSector g].filter (stackInPool s)
  | .imageDeck _ =>
    match c with
    | some k => ((coupeStacks s k).filter (fun i =>
        !s.dur.allocs.any (fun a => a.kind = kd && stackOf a.addr.toNat = i))).take 1
    | none => []
  | _ => stackOrder s c

/-- A run of n units for a request. -/
def place (s : State) (p : Pool) (kd : AllocKind) (c : Option CoupeId) (n : Nat) : Option Nat :=
  match p with
  | .deck => (kindStacks s kd c).findSome? (fun i => placeIn s i n)
  | .yard =>
    let hi := yardBase + s.yardGib * 2 ^ 30
    firstFit hi (n * 4096) yardBase (allocsIn s yardBase hi)

/-- The allocation entered. -/
def addAlloc (a : Alloc) (s : State) : State := { s with dur := { s.dur with allocs := s.dur.allocs ++ [a] } }
/-- A MOVE of the device ends without its last row: its transfer stops and its destination units return (R182, R193). -/
def dropMove (m : DevMove) (s : State) : State :=
  { s with
    moves := s.moves.filter (fun x => x ≠ m)
    transfers := s.transfers.filter (fun t => t.w ≠ m.desc)
    dur := { s.dur with allocs := s.dur.allocs.filter (fun a => !(a.kind = .transit && a.addr = m.dst)) } }
/-- Every MOVE that a test names ends so. -/
def dropMoves (f : DevMove → Bool) (s : State) : State := (s.moves.filter f).foldl (fun t m => dropMove m t) s
/-- A grant's runs of one kind given up. -/
def dropGrant (p : Pool) (kd : AllocKind) (s : State) : State :=
  { s with granted := s.granted.filter (fun g => !(g.pool = p && g.runs.any (fun r => r.1 = kd))) }
/-- Every allocation of the kinds that a test names freed, with what is granted and what moves for them. -/
def dropKinds (f : AllocKind → Bool) (s : State) : State :=
  let s1 := dropMoves (fun m => f m.kind) s
  { s1 with
    granted := s1.granted.filter (fun g => !g.runs.any (fun r => f r.1))
    dur := { s1.dur with allocs := s1.dur.allocs.filter (fun a => !f a.kind) } }
/-- The same for one kind. -/
def dropAlloc (kd : AllocKind) (s : State) : State := dropKinds (fun x => x = kd) s
/-- Save areas of coupe k freed. -/
def dropSaves (k : CoupeId) (s : State) : State :=
  dropKinds (fun kd => match kd with
    | .save k' _ => k' = k
    | _ => false) s
/-- The grant that still has runs of a kind to place. -/
def findGrant (s : State) (p : Pool) (kd : AllocKind) : Option PoolGrant :=
  s.granted.find? (fun g => g.pool = p && g.runs.any (fun r => r.1 = kd))
/-- The allocation of a kind in a pool. -/
def findAlloc (s : State) (p : Pool) (kd : AllocKind) : Option Alloc :=
  s.dur.allocs.find? (fun a => a.kind = kd && a.pool = p)

/-! ## Groups leave (R187, R220) -/

/-- Scent entries that a test names removed. -/
def dropScent (f : ScentEntry → Bool) (s : State) : State :=
  { s with dur := { s.dur with scent := s.dur.scent.filter (fun e => match e.2 with
      | some x => !f x
      | none => true) } }

/-- A group freed: its units return at once; its scent entry leaves at the commit, and its number is not reused before then
(R217, R220, R228). -/
def freeGroup (g : GroupId) (s : State) : State :=
  let s1 := dropAlloc (.group g) s
  { s1.setGroup g Group.reset with freedGroups := s1.freedGroups ++ [g] }

/-- Whether a datum is being moved. -/
def moving (s : State) (a : Alloc) : Bool := s.moves.any (fun m => m.kind = a.kind && m.src = a.addr)

/-- The evictable allocation of a pool with the oldest time, but for those on their way out. -/
def oldestEvictable (s : State) (p : Pool) : Option Alloc :=
  ((poolAllocs s p).filter (fun a => !moving s a)).foldl (fun best a =>
    match a.evictable, best with
    | none, b => b
    | some _, none => some a
    | some t, some b =>
      match b.evictable with
      | some u => if t.toNat < u.toNat then some a else some b
      | none => some a) none

/-- Bytes [src, src + n) copied to dst, over what stood there. -/
def Memory.copy (src dst n : Nat) (m : List Host.Cell) : List Host.Cell :=
  m.filter (fun c => c.1 < dst)
    ++ (m.filter (fun c => src ≤ c.1 && c.1 < src + n)).map (fun c => (c.1 - src + dst, c.2))
    ++ m.filter (fun c => dst + n ≤ c.1)
/-- The same for the poison list. -/
def Poison.copy (src dst n : Nat) (p : List Nat) : List Nat :=
  p.filter (· < dst) ++ (p.filter (fun a => src ≤ a && a < src + n)).map (fun a => a - src + dst)
    ++ p.filter (fun a => dst + n ≤ a)

/-- Granules of [src, src + n) read: correctable ones are logged, uncorrectable ones reach dst poisoned (R189, R176); none
of dst keeps an error. -/
def copyRange (src dst n : Nat) (s : State) : State :=
  let bad := (s.granuleErrors.filter (fun e => src ≤ e.1 && e.1 < src + n)).map (·.1)
  let s1 := bad.foldl (fun t a => (readGranule a t).2) s
  { s1 with
    mem := Memory.copy src dst n s1.mem
    poison := Poison.copy src dst n s1.poison
    granuleErrors := s1.granuleErrors.filter (fun e => e.1 < dst || dst + n ≤ e.1) }

/-! ## Page lists (R221) -/

/-- Addresses of a sequence's list pages, in chain order. -/
def listPages (s : State) (i : SlotId) : List (BitVec 48) :=
  (s.dur.allocs.filter (fun a => a.kind = .listPages i)).map (·.addr)

/-- One entry of a list page. -/
def pageEntry : Option GroupId → Nat
  | none => 0
  | some g => 2 ^ 31 + g.toNat

/-- The bytes of a sequence's list pages stored in the deck. -/
def storeList : List (BitVec 48) → List (Option GroupId) → State → State
  | [], _, s => s
  | a :: rest, pages, s =>
    let next := match rest with
      | [] => 0
      | b :: _ => b.toNat
    let entries := (pages.take 1020).map pageEntry
    storeList rest (pages.drop 1020)
      (writeBytesAt a.toNat (bytesLE 16 next ++ (entries ++ List.replicate (1020 - entries.length) 0).flatMap (bytesLE 4))
        false s)

/-- LIST_HEAD and the list pages of sequence slot i as they stand. -/
def writeList (i : SlotId) (s : State) : State :=
  let pages := listPages s i
  let t := s.setSeq i { s.seq i with listAddr := pages.headD 0 }
  storeList pages (t.seq i).pages t

/-- List pages that n blocks need. -/
def listPagesFor (n : Nat) : Nat := ceilDiv n 1020

/-- List pages that the page list does not need go back to the pool, and those granted for it. -/
def trimList (i : SlotId) (s : State) : State :=
  let spare := (listPages s i).drop (listPagesFor (s.seq i).pages.length)
  let s1 := dropGrant .deck (.listPages i) s
  { s1 with dur := { s1.dur with
    allocs := s1.dur.allocs.filter (fun a => !(a.kind = .listPages i && spare.contains a.addr)) } }

/-! ## Relocation (R441) -/

/-- Groups that the requests of open steps use. -/
def groupsInUse (s : State) : List GroupId :=
  (listedCoupes s).flatMap (fun k =>
    match (s.run k).openStep with
    | none => []
    | some st => st.reqs.flatMap (fun r => (s.seq (BitVec.ofNat 13 (bits r.w 511 499))).pages.filterMap id))

/-- A coupe has no open step and is not being saved or restored. -/
def coupeQuiet (s : State) (k : CoupeId) : Bool :=
  (s.run k).openStep.isNone && (s.coupe k).state ≠ .preempting && (s.coupe k).state ≠ .resuming

/-- Whether an outstanding transfer reads or writes a row of [lo, hi). -/
def Transfer.touches (t : Transfer) (lo hi : Nat) : Bool :=
  let meets (a n : Nat) : Bool := a < hi && lo < a + n
  t.plan.any (fun o => o.any (fun a => meets a.toNat 512))
    || (Mv.dspace t.w = 0 && meets (Mv.dst t.w) (512 * t.plan.length))

/-- Data that may be relocated: homed data that nothing is using. Image copies need no relocation. -/
def relocatable (s : State) (a : Alloc) : Bool :=
  let lo := a.addr.toNat
  !moving s a && !s.transfers.any (fun t => t.touches lo (lo + a.units * 4096)) &&
    match a.kind with
    | .group g => !(groupsInUse s).contains g
    | .listPages i => coupeQuiet s (s.seq i).coupe
    | .tree i => coupeQuiet s (s.seq i).coupe
    | .save k _ => coupeQuiet s k
    | .jobSave k _ => coupeQuiet s k
    | _ => false

/-- A MOVE of a datum to a free run is issued: its destination units are allocated (R181). -/
def issueMove (purpose : MovePurpose) (p : Pool) (c : Option CoupeId) (kd : AllocKind) (src dst units : Nat) (s : State) :
    State :=
  let s1 := addAlloc ⟨p, .transit, c, BitVec.ofNat 48 dst, units, none⟩ s
  { s1 with moves := s1.moves ++ [⟨purpose, kd, BitVec.ofNat 48 src, BitVec.ofNat 48 dst, units⟩] }

/-- The last row of a MOVE of the device is written: the home transfers in that cycle with every record that names it, and
the source units return (R181, R441). -/
def moveDone (m : DevMove) (s : State) : State :=
  let p : Pool := if yardBase ≤ m.dst.toNat then .yard else .deck
  let s1 : State := { s with
    moves := s.moves.filter (fun x => x ≠ m)
    dur := { s.dur with allocs := (s.dur.allocs.filter (fun a => !(a.kind = .transit && a.addr = m.dst))).map (fun a =>
      if a.kind = m.kind && a.addr = m.src then { a with addr := m.dst, pool := p } else a) } }
  match m.kind with
  | .group g => s1.setGroup g { s1.group g with home := m.dst, inYard := p = .yard }
  | .listPages i => if (s1.seq i).state = .opening then s1 else writeList i s1
  | .tree i => s1.setSeq i { s1.seq i with tree := (s1.seq i).tree.map (fun t => { t with addr := m.dst }) }
  | _ => s1

/-- The parts of a pool in which a run of a kind may lie. -/
def poolParts (s : State) (p : Pool) (kd : AllocKind) (c : Option CoupeId) : List (Nat × Nat) :=
  match p with
  | .deck => (kindStacks s kd c).map (fun i => (stackBase i.val, stackBase i.val + reserveOff))
  | .yard => [(yardBase, yardBase + s.yardGib * 2 ^ 30)]

/-- Moves of data out of a window, each to the lowest free run that does not meet it; none when one finds no run. -/
def clearWindow (p : Pool) (w n : Nat) : List Alloc → State → Option State
  | [], s => some s
  | a :: as, s =>
    match place (addAlloc ⟨p, .transit, none, BitVec.ofNat 48 w, n, none⟩ s) p a.kind a.coupe a.units with
    | none => none
    | some d => clearWindow p w n as (issueMove .relocate p none a.kind a.addr.toNat d a.units s)

/-- The MOVEs that free a run of n units in a part of a pool: the lowest window all of whose data may move elsewhere (log
entry 130). -/
def openWindow (p : Pool) (n : Nat) (part : Nat × Nat) (s : State) : Option State :=
  let l := allocsIn s part.1 part.2
  let starts := part.1 :: l.map (fun a => a.addr.toNat + a.units * 4096)
  starts.findSome? (fun w =>
    if part.2 < w + n * 4096 then none
    else
      let hit := l.filter (fun a => a.addr.toNat < w + n * 4096 && w < a.addr.toNat + a.units * 4096)
      if hit.all (relocatable s) then clearWindow p w n hit s else none)

/-- Otherwise the lowest datum that a free run below it can take moves down. -/
def slideDown (p : Pool) (part : Nat × Nat) (s : State) : Option State :=
  (allocsIn s part.1 part.2).findSome? (fun a =>
    if relocatable s a then
      match firstFit part.2 (a.units * 4096) part.1 (allocsIn s part.1 part.2) with
      | some d => if d < a.addr.toNat then some (issueMove .relocate p none a.kind a.addr.toNat d a.units s) else none
      | none => none
    else none)

/-- Relocation for a run of n units, unless it is under way (R441). -/
def startRelocation (p : Pool) (kd : AllocKind) (c : Option CoupeId) (n : Nat) (s : State) : State :=
  if s.moves.any (fun m => m.purpose = .relocate && (yardBase ≤ m.src.toNat) = (p = .yard)) then s
  else
    let parts := poolParts s p kd c
    match parts.findSome? (fun x => openWindow p n x s) with
    | some t => t
    | none => (parts.findSome? (fun x => slideDown p x s)).getD s

/-- A yard group evicted: freed. -/
def evictYard (a : Alloc) (s : State) : State :=
  match a.kind with
  | .group g => freeGroup g s
  | kd => dropAlloc kd s

/-- Room in the yard for a granted request: eviction oldest first, then relocation; no address while it must wait. -/
def yardRoom (kd : AllocKind) (c : Option CoupeId) (n : Nat) : Nat → State → Option Nat × State
  | 0, s => (none, s)
  | fuel + 1, s =>
    match place s .yard kd none n with
    | some a => (some a, s)
    | none =>
      match oldestEvictable s .yard with
      | some a => yardRoom kd c n fuel (evictYard a s)
      | none => (none, startRelocation .yard kd c n s)

/-- A deck group leaves for the yard, by a device-owned request there: its MOVE is issued, it waits for a run, or the yard
cannot take it and it is freed (R187). -/
def evictGroup (g : GroupId) (a : Alloc) (s : State) : State :=
  if (findGrant s .yard (.group g)).isNone && !grants s .yard none a.units (queuedUnits s .yard) then freeGroup g s
  else
    let s1 := dropGrant .yard (.group g) s
    let s2 := { s1 with granted := s1.granted ++ [⟨.yard, [(.group g, a.units)], none⟩] }
    match yardRoom (.group g) none a.units (s.dur.allocs.length + 1) s2 with
    | (some dst, t) => issueMove .evict .yard none (.group g) a.addr.toNat dst a.units (dropGrant .yard (.group g) t)
    | (none, t) => t

/-- Whether evictions or relocations within the deck are outstanding. -/
def deckMoves (s : State) : Bool := s.moves.any (fun m => m.purpose ≠ .recall && m.src.toNat < yardBase)

/-- Deck units that outstanding evictions will free. -/
def leavingUnits (s : State) : Nat := ((s.moves.filter (fun m => m.purpose = .evict)).map (·.units)).sum

/-- Room in the deck for a granted request: eviction oldest first for the shortfall, a wait for the MOVEs under way, further
eviction, then relocation; no address while it must wait (R186, R187, R441). -/
def deckRoom (kd : AllocKind) (c : Option CoupeId) (n : Nat) : Nat → State → Option Nat × State
  | 0, s => (none, s)
  | fuel + 1, s =>
    match place s .deck kd c n with
    | some a => (some a, s)
    | none =>
      if deckMoves s && sumUnits (poolAllocs s .deck) + grantedUnits s .deck ≤ poolTotal s .deck + leavingUnits s then
        (none, s)
      else
        match oldestEvictable s .deck with
        | none => (none, if deckMoves s then s else startRelocation .deck kd c n s)
        | some a =>
          match a.kind with
          | .group g =>
            let t := evictGroup g a s
            if (findGrant t .yard (.group g)).isSome then (none, t) else deckRoom kd c n fuel t
          | .imageDeck h => deckRoom kd c n fuel ((dropAlloc (.imageDeck h) s).setImage h { s.image h with deck := false })
          | k' => deckRoom kd c n fuel (dropAlloc k' s)

/-- Room for one run of a granted request. -/
def makeRoom (p : Pool) (kd : AllocKind) (c : Option CoupeId) (n : Nat) (s : State) : Option Nat × State :=
  match p with
  | .deck => deckRoom kd c n (s.dur.allocs.length + 1) s
  | .yard => yardRoom kd c n (s.dur.allocs.length + 1) s

/-- How the allocator answers a request. -/
inductive Grant where
  | granted (addr : Nat) (s : State)
  | refused
  /-- Granted and charged, and waiting for its units to become free: not a NO_BUFFER. -/
  | waits (s : State)

/-- A run entered: that of a group homed elsewhere is the destination of its recall or its eviction (R187, R230). -/
def enterRun (p : Pool) (kd : AllocKind) (c : Option CoupeId) (a n : Nat) (s : State) : State :=
  match kd with
  | .group g =>
    let x := s.group g
    if x.state ≠ .free then
      issueMove (match p with | .deck => .recall | .yard => .evict) p c kd x.home.toNat a n s
    else addAlloc ⟨p, kd, c, BitVec.ofNat 48 a, n, none⟩ s
  | _ => addAlloc ⟨p, kd, c, BitVec.ofNat 48 a, n, none⟩ s

/-- The runs of a granted request placed one after another; those that must wait stay granted. -/
def placeRuns (p : Pool) (c : Option CoupeId) (last : Nat) : List (AllocKind × Nat) → State → Grant
  | [], s => .granted last s
  | (kd, n) :: rest, s =>
    let s1 := { s with granted := s.granted ++ [⟨p, (kd, n) :: rest, c⟩] }
    match makeRoom p kd c n s1 with
    | (some a, t) => placeRuns p c a rest (enterRun p kd c a n (dropGrant p kd t))
    | (none, t) => .waits t

/-- A request for several runs, decided by their units together (R186), with nothing ahead of it when `head`; one that has
been granted goes on. -/
def allocateRuns (p : Pool) (c : Option CoupeId) (head : Bool) (runs : List (AllocKind × Nat)) (s : State) : Grant :=
  match runs with
  | [] => .granted 0 s
  | (kd, _) :: _ =>
    match findGrant s p kd with
    | some g => placeRuns p g.coupe 0 g.runs (dropGrant p kd s)
    | none =>
      if grants s p c (unitsOf runs) (if head then 0 else queuedUnits s p) then placeRuns p c 0 runs s else .refused

/-- A request for one run. -/
def allocate (p : Pool) (kd : AllocKind) (c : Option CoupeId) (n : Nat) (head : Bool) (s : State) : Grant :=
  allocateRuns p c head [(kd, n)] s

/-- Every granted request of a pool that still waits for units tried again (R186). -/
def pumpGrants (p : Pool) (s : State) : State :=
  (s.granted.filter (fun g => g.pool = p)).foldl (fun t g =>
    match g.runs with
    | [] => t
    | (kd, _) :: _ =>
      match placeRuns p g.coupe 0 g.runs (dropGrant p kd t) with
      | .granted _ u => u
      | .waits u => u
      | .refused => t) s

/-- A queued request (R186): the descriptor waits. -/
def enqueue (p : Pool) (runs : List (AllocKind × Nat)) (c : Option CoupeId) (q : Desc) (s : State) : State :=
  if s.poolWait.any (fun w => w.ring = q.ring && w.pos = q.pos && w.pool = p) then s
  else { s with poolWait := s.poolWait ++ [⟨p, runs, c, q.ring, q.pos, s.timebase, Hdr.waitTicks q.w⟩] }
/-- Whether a request of the descriptor waits in a queue. -/
def waitsInPool (s : State) (q : Desc) : Bool := s.poolWait.any (fun w => w.ring = q.ring && w.pos = q.pos)

/-- The requests of a descriptor leave the queue. -/
def dequeue (q : Desc) (s : State) : State :=
  { s with
    poolWait := s.poolWait.filter (fun w => !(w.ring = q.ring && w.pos = q.pos))
    recallLost := s.recallLost.filter (fun x => !(x.1 = q.ring && x.2.1 = q.pos)) }

/-! ## Group numbers (R217) -/

/-- Whether group number n can be taken now. -/
def groupFree (s : State) (n : Nat) : Bool :=
  let g := BitVec.ofNat 22 n
  (s.group g).state = .free && !s.freedGroups.contains g && !s.dur.allocs.any (fun a => a.kind = .group g)
    && (findGrant s .deck (.group g)).isNone
    && stackInPool s ⟨n % 8, by omega⟩

/-- The lowest number from n on that is free. -/
def lowestGroup (s : State) : Nat → Nat → Option GroupId
  | 0, _ => none
  | fuel + 1, n => if groupFree s n then some (BitVec.ofNat 22 n) else lowestGroup s fuel (n + 1)

/-- A free number: at most all taken numbers, all freed ones and eight stacks' worth are passed over. -/
def newGroup (s : State) : Option GroupId :=
  lowestGroup s (min 4194304 (8 * (s.dur.groups.length + s.freedGroups.length + s.dur.allocs.length + 1))) 0

/-! ## Recall (R182, R230) -/

/-- The deck units of a yard group asked for, unless it is on its way already: the group's MOVE is issued once they are
placed. -/
def recallGroup (g : GroupId) (k : CoupeId) (s : State) : Grant :=
  if s.moves.any (fun m => m.purpose = .recall && m.kind = .group g) then .granted 0 s
  else allocate .deck (.group g) (some k) (s.group g).units.toNat false s

/-- An eviction of a group is abandoned: a reference has been taken to it (R182). -/
def abandonEvict (g : GroupId) (s : State) : State :=
  if (s.group g).inYard then s
  else dropMoves (fun m => m.purpose = .evict && m.kind = .group g) (dropGrant .yard (.group g) s)

/-- A recall is abandoned: no sequence that is opening, and no PIN, needs it any more. -/
def abandonRecall (g : GroupId) (s : State) : State :=
  if (s.group g).inYard then dropMoves (fun m => m.purpose = .recall && m.kind = .group g) (dropGrant .deck (.group g) s)
  else s

/-! ## Images and their bindings (R195, R199, R200) -/

/-- The image becomes ABSENT; its deck copy and its yard copy are freed. -/
def dropImage (h : BitVec 10) (s : State) : State :=
  (dropAlloc (.imageDeck h) (dropAlloc (.imageYard h) s)).setImage h Image.reset

/-- One binding of an image ends: an UNLOADING image with no binding left becomes ABSENT, and the deck copy of a READY
one becomes evictable (R185). -/
def unbindImage (h : BitVec 10) (s : State) : State :=
  let x := s.image h
  let n := x.bindings - 1
  if n = 0 && x.state = .unloading then dropImage h s
  else
    let s1 := s.setImage h { x with bindings := n }
    if n = 0 then
      { s1 with dur := { s1.dur with allocs := s1.dur.allocs.map (fun a =>
        if a.kind = .imageDeck h then { a with evictable := some (now48 s) } else a) } }
    else s1

/-- The binding of job j of a coupe ends. -/
def unbindJob (k : CoupeId) (j : Nat) (s : State) : State :=
  match (s.coupe k).bindings.get none j with
  | none => s
  | some cfg =>
    let s1 := unbindImage cfg.image s
    s1.setCoupe k { s1.coupe k with bindings := (s1.coupe k).bindings.set none j none }

/-- Every binding of a coupe ends, and its handoff blocks return to the pool (log entry 135). -/
def unbindAll (k : CoupeId) (s : State) : State :=
  let t := (List.range 8).foldl (fun t j => unbindJob k j t) s
  { t with dur := { t.dur with allocs := t.dur.allocs.filter (fun a => !(a.coupe = some k && (match a.kind with
      | .handoff _ => true
      | _ => false))) } }

end Sys2Proof.Machine
end

