-- ==== Sys2Proof/Machine/Jobs.lean ====
section
/-! DEFINITION. What befalls a core's or a coupe's work as a whole: core reset, flush, the span epoch, the end of a
step, replay, retirement and the loss of stands and sectors (R69–R71, R146, R308, R336, R349, R361–R373). -/

namespace Sys2Proof.Machine

/-! ## Core reset (R69, R70) -/

/-- The core after a core reset: the save image zero but for the LFSR, the stall counters clear; windows, error log and
the bench's own records stay, and so does what a halt in progress wants. -/
def Core.cleared (x : Core) : Core :=
  { Core.reset with
    qcw := 0
    windows := x.windows
    errLog := x.errLog
    scrub := x.scrub
    scrubCE := x.scrubCE
    spareLines := x.spareLines
    haltWanted := x.haltWanted
    halted := x.halted
    saving := x.saving }

/-- The items staged at the core's input ports are discarded; their credits return (log entry 14). -/
def dropStaging (c : CoreId) (s : State) : State :=
  (List.range 4).foldl (fun t p =>
    match portQueue t c p with
    | none => t
    | some b =>
      t.setQueue b.coupe b.handle (some { b.queue with
        staging := [], returning := b.queue.returning + b.queue.staging.length })) s

/-- Core reset of core c. Its remote reads end; window rows under way land whole. -/
def resetCore (c : CoreId) (s : State) : State :=
  let s1 := dropStaging c s
  { s1.setCore c (s1.core c).cleared with
    readReqs := s1.readReqs.filter (fun q => q.reader ≠ c)
    readReplies := s1.readReplies.filter (fun q => q.reader ≠ c)
    acks := s1.acks.filter (fun q => q.writer ≠ c) }

/-- The image of a core that is being saved is marked invalid in its stand's save area (R71). -/
def markInvalid (k : CoupeId) (c : CoreId) (s : State) : State :=
  let r := s.run k
  match r.saved with
  | none => s
  | some sv =>
    s.setRun k { r with saved := some { sv with areas := sv.areas.map (fun a =>
      if a.stand = coreStand c then { a with invalid := a.invalid ||| BitVec.ofNat 32 (2 ^ coreSlot c) } else a) } }

/-! ## Coupes that are halted (R274, R276) -/

/-- A coupe whose cores, transfers and feeds halt or have halted: PREEMPTING, PREEMPTED or RESUMING. A span member with an
open step still runs it to its commit. -/
def coupeHalting (s : State) (k : CoupeId) : Bool :=
  let x := s.coupe k
  match x.state with
  | .preempting => !(x.sCount ≠ 0 && x.spanId ≠ 0 && (s.run k).openStep.isSome && !(s.run k).quiesced)
  | .preempted => true
  | .resuming => true
  | _ => false

/-! ## Flush (R146, R147, R193) -/

/-- A queue end emptied, its credits at depth. -/
def Queue.emptied (q : Queue) : Queue :=
  { q with
    credits := q.depth
    returning := 0
    markCredit := false
    network := []
    sent := []
    staging := []
    slackCount := 0
    slackHead := 0
    marker := none }

/-- The queue after a flush: a local queue's epoch advances, a span queue's does not. -/
def Queue.flushed (q : Queue) : Queue :=
  if q.span then q.emptied else { q.emptied with epoch := q.epoch + 1 }

/-- Every queue of a coupe changed by f. -/
def mapQueues (f : Queue → Queue) (m : Sparse (Option Queue)) : Sparse (Option Queue) :=
  m.map (fun e => (e.1, e.2.map f))

/-- Whether core c is one of coupe k's. -/
def ofCoupe (s : State) (k : CoupeId) (c : CoreId) : Bool := coupeOf s c = some k

/-- Flush of coupe k. -/
def flushCoupe (k : CoupeId) (s : State) : State :=
  let s1 := (coupeCores s k).foldl (fun t c => resetCore c t) s
  let r := s1.run k
  { s1.setRun k { r with queues := mapQueues Queue.flushed r.queues, epoch := r.epoch + 1, feedPlans := [] } with
    readReqs := s1.readReqs.filter (fun q => !ofCoupe s1 k q.reader)
    readReplies := s1.readReplies.filter (fun q => !ofCoupe s1 k q.reader)
    windowRows := s1.windowRows.filter (fun q => !ofCoupe s1 k q.writer)
    acks := s1.acks.filter (fun q => !ofCoupe s1 k q.writer)
    skids := s1.skids.filter (fun q => q.coupe ≠ k)
    arrivals := s1.arrivals.filter (fun a => match a with
      | .coupe k' _ => k' ≠ k
      | .memory _ _ => true)
    reductions := s1.reductions.filter (fun q => q.coupe ≠ k)
    transfers := s1.transfers.filter (fun t => !Mv.ofCoupe t.w k) }

/-! ## The span epoch (R336) -/

/-- Every member advances the span epoch, empties its ends and sends a FLUSH to every other member. -/
def spanAdvance (k : CoupeId) (s : State) : State :=
  let r := s.run k
  let e := r.spanEpoch + 1
  let s1 := s.setRun k { r with
    spanEpoch := e
    spanAdvanced := true
    flushed := r.flushed.filter (fun m => m % 256 ≠ r.spanEpoch.toNat)
    queues := mapQueues (fun q => if q.span then { q.emptied with epoch := e } else q) r.queues }
  sendAllMembers k 4 0 .nothing { s1 with reductions := s1.reductions.filter (fun q => q.coupe ≠ k) }

/-! ## The end of a step (R243, R308, R349) -/

/-- The open step changed. -/
def setStep (k : CoupeId) (st : Step) (s : State) : State :=
  s.setRun k { s.run k with openStep := some st }

/-- Whether a step-wide failure gives the request its status: it passed the checks (R243), and no CANCEL has ended it
(R264). -/
def Step.decides (st : Step) (r : Req) : Bool :=
  st.status.any (· ≠ Status.ok) && r.status ≠ some Status.cancelled && (r.passed || r.status.isNone)

/-- The status with which a request ends. -/
def Step.final (st : Step) (r : Req) : BitVec 8 :=
  if st.decides r then st.status.getD Status.ok
  else r.status.getD (if r.poisoned then Status.poisonConsumed else Status.ok)

/-- The step's own status. -/
def Step.result (st : Step) : BitVec 8 := st.status.getD Status.ok

/-- Whether the step is one of a span (XTAG ≠ 0). -/
def Step.spans (st : Step) : Bool := StepD.xtag st.w ≠ 0

/-- Whether the step may be replayed (R361, R362). -/
def Step.canReplay (st : Step) : Bool :=
  st.replayable && !st.poppedForeign && st.attempt < 3 && !st.boundary

/-- The digest that the first span step after a BIND carries (R273). -/
def digestOf (s : State) (k : CoupeId) : Option (BitVec 64) :=
  if (s.coupe k).firstSpanStep then (bindingOf s k).map (fun c => Config.placementDigest c.stands) else none

/-- This member's OUTCOME with a step status, for every other member (R349, R363). -/
def sendOutcome (k : CoupeId) (status : BitVec 8) (s : State) : State :=
  match (s.run k).openStep with
  | none => s
  | some st =>
    let o : HeldOutcome :=
      ⟨(s.coupe k).sIndex, StepD.xtag st.w, BitVec.ofNat 2 st.attempt, BitVec.ofNat 7 (StepD.nreq st.w), status,
        st.reqs.map st.final, digestOf s k, (s.coupe k).sCount⟩
    let len := 8 + st.reqs.length + (if o.digest.isSome then 8 else 0)
    let s1 := setStep k { st with outcomeSent := true } (sendAllMembers k 3 len (.outcome o) s)
    s1.setRun k { s1.run k with lastCross := s1.timebase }

/-- The boundary of the step is reached with a status: it waits for its commit, or for the other members. -/
def endStep (k : CoupeId) (status : BitVec 8) (detail : BitVec 64) (dkind : BitVec 4) (s : State) : State :=
  match (s.run k).openStep with
  | none => s
  | some st =>
    if st.boundary then s
    else
      let s1 := setStep k { st with
        status := some status
        detail := detail
        dkind := dkind
        boundary := true
        needReplay := false
        running := []
        toDispatch := []
        loads := []
        layerTasks := [] } s
      if st.spans then sendOutcome k status s1 else s1

/-- A task's failure recorded: the first decides the step's status at its boundary (log entry 15). -/
def noteStatus (k : CoupeId) (status : BitVec 8) (detail : BitVec 64) (dkind : BitVec 4) (s : State) : State :=
  match (s.run k).openStep with
  | none => s
  | some st =>
    match st.status with
    | some _ => s
    | none => setStep k { st with status := some status, detail := detail, dkind := dkind } s

/-- Whether a layer's transfer waits for tasks: while layer L runs, the layers up to L + PREFETCH are filled, and no area is
before every task of the layer that used it has retired (R165). -/
def StepLoad.waits (st : Step) (prefetch : Nat) (l : StepLoad) : Bool :=
  match l.kind with
  | .layer n => st.layerTasks.any (fun t => t.2 + prefetch < n)
  | .chain _ => false

/-- Whether a transfer or a feed of the coupe is outstanding; one that a mover may take now is. -/
def transfersOf (s : State) (k : CoupeId) : Bool :=
  s.transfers.any (fun t => Mv.ofCoupe t.w k) || !(s.run k).feedPlans.isEmpty || s.skids.any (fun f => f.coupe = k)
    || (match (s.run k).openStep with
      | some st => st.loads.any (fun l => !l.sent && !l.waits st (((bindingOf s k).map (·.prefetch)).getD 0))
      | none => false)

/-! ## Slots (R368) -/

/-- A slot becomes SUSPECT: 1 transients, 2 mismatch, 3 unresolved, 4 bank spares exhausted (R383). -/
def suspect (c : CoreId) (cause : Nat) (s : State) : State :=
  let x := s.slot c
  if x.state = .inService then
    raiseCore 0x12 0 (1 + 2 * cause) c (s.setSlot c { x with state := .suspect, lastBad := x.coreSteps })
  else s.setSlot c { x with lastBad := x.coreSteps }

/-- A transient counted on a slot. -/
def transient (c : CoreId) (s : State) : State :=
  let x := s.slot c
  let l := (x.transients ++ [x.coreSteps]).drop (x.transients.length - 2)
  let s1 := s.setSlot c { x with transients := l, lastBad := x.coreSteps }
  if l.length = 3 && x.coreSteps - l.headD 0 ≤ 1000000 then suspect c 1 s1 else s1

/-- A row repair (R369): the row on a spare line of its bank, or the slot SUSPECT when the bank has none left. -/
def repairRow (c : CoreId) (r : Nat) (s : State) : State :=
  let x := s.core c
  let n := x.spareLines.get 0 (r % 32)
  if n < 8 then
    let s1 := { s with rowErrors := s.rowErrors.set RowError.none (benchAddr c r) RowError.none }
    raiseCore 0x16 0 (r + (7 - n) * 2 ^ 16) c (s1.setCore c { x with spareLines := x.spareLines.set 0 (r % 32) (n + 1) })
  else suspect c 4 s

/-! ## Lease rows staged again (R360) -/

/-- A lease row that a task or a transfer of coupe k read poisoned, and whose staging again has not yet replayed a step. -/
def LeaseHit.counts (s : State) (k : CoupeId) (h : LeaseHit) : Bool :=
  h.read && !h.settled && coupeOf s h.core = some k

/-- Such rows of coupe k count no more. -/
def settleHits (k : CoupeId) (s : State) : State :=
  if s.leaseHits.any (LeaseHit.counts s k) then
    { s with leaseHits := s.leaseHits.map (fun h => if h.counts s k then { h with settled := true } else h) }
  else s

/-- The open step that read a lease row since staged again needs a replay, where it may have one (R361). -/
def replayLeases (k : CoupeId) (s : State) : State :=
  if s.leaseHits.any (LeaseHit.counts s k) then
    let s1 := settleHits k s
    match (s1.run k).openStep with
    | some st => if st.canReplay then setStep k { st with needReplay := true } s1 else s1
    | none => s1
  else s

/-- One row reported at a commit: repaired where a task or a transfer read it (R369), and its event. -/
def reportLease (s : State) (h : LeaseHit) : State :=
  raiseCore 0x19 0 h.row.toNat h.core (if h.read then repairRow h.core h.row.toNat s else s)

/-- Every lease row staged again since the last commit. -/
def reportLeases (s : State) : State :=
  let s1 := (s.leaseHits.filterMap (fun h => coupeOf s h.core)).eraseDups.foldl (fun t k => replayLeases k t) s
  s1.leaseHits.foldl reportLease { s1 with leaseHits := [] }

/-- Whether a layer's expert runs are still to be built, in a step that nothing has failed (R260). -/
def expertsPending (s : State) (k : CoupeId) (st : Step) : Bool :=
  match bindingOf s k with
  | some cfg => cfg.experts && st.bucket.isSome && st.status.isNone && !st.needReplay && st.built < cfg.players.toNat
  | none => false

/-- The step reaches its boundary once every task has retired, experts' among them, and no transfer of the coupe is
outstanding. A step that needs a replay then waits for it, and a span member says so in its OUTCOME. -/
def checkBoundary (k : CoupeId) (s : State) : State :=
  let s := replayLeases k s
  match (s.run k).openStep with
  | none => s
  | some st =>
    if st.boundary || !st.running.isEmpty || !st.toDispatch.isEmpty || !st.loads.isEmpty || transfersOf s k
        || expertsPending s k st then s
    else if st.needReplay then
      if st.spans && !st.outcomeSent then sendOutcome k Status.replay s else s
    else endStep k st.result st.detail st.dkind s

/-- A replay trigger of R361: the step needs a replay, or ends with the status that applies otherwise. -/
def triggerReplay (k : CoupeId) (status : BitVec 8) (detail : BitVec 64) (dkind : BitVec 4) (s : State) : State :=
  match (s.run k).openStep with
  | none => s
  | some st =>
    if st.boundary then s
    else if st.canReplay then
      let s1 := setStep k { st with needReplay := true } s
      if st.spans && !st.outcomeSent then sendOutcome k Status.replay s1 else s1
    else endStep k status detail dkind s

/-! ## Loss of stands and sectors (R372) -/

/-- A stand in S2 or S3 (R400). -/
def Stand.asleep (x : Stand) : Bool := x.pstate = 9 || x.pstate = 10

/-- The descriptor whose work a coupe had under way, and what it is. -/
def CoupeAction.desc : CoupeAction → Option (RingId × BitVec 32)
  | .none => Option.none
  | .drain r p => some (r, p)
  | .bind q => some (q.ring, q.pos)
  | .bindUnits q => some (q.ring, q.pos)
  | .destroy r p => some (r, p)
  | .preempt r p => some (r, p)
  | .taken _ r p => some (r, p)
  | .resume r p => some (r, p)
  | .create r p => some (r, p)

/-- The configuration of a coupe is unbound: no queue, no binding. -/
def unbindCoupe (k : CoupeId) (s : State) : State :=
  let s1 := unbindAll k s
  s1.setRun k { s1.run k with queues := [], feedPlans := [], feeds := [] }

/-- The descriptor for which a coupe was to be saved ends with a status; a creation gives up its own save areas, and
nothing of it is left (R266, R280). -/
def failSave (act : CoupeAction) (status : BitVec 8) (s : State) : State :=
  match act with
  | .preempt ring pos => finishAt ring pos status 0 0 0 s
  | .taken k ring pos =>
    let r := s.run k
    match r.action with
    | .create _ _ => finishAt ring pos status 0 0 0 (dropSaves k (s.setRun k { r with action := .none }))
    | .resume _ _ => finishAt ring pos status 0 0 0 (s.setRun k { r with action := .none })
    | _ => s
  | _ => s

/-- A coupe loses a stand: its step ends, its configuration is unbound, and what a descriptor had under way on it ends
with DOES_NOT_FIT, but for a drain, which has nothing left to wait for (log entry 16). -/
def loseStand (k : CoupeId) (g : StandId) (s : State) : State :=
  let s1 := unbindCoupe k (endStep k Status.doesNotFit 0 0 (flushCoupe k s))
  let x := s1.coupe k
  let drain := x.state = .draining
  let s2 := s1.setCoupe k { x with
    stands := x.stands &&& ~~~(put g.toNat 1 : BitVec 128)
    state := if drain then .draining else .idle }
  if drain then s2
  else
    let r := s2.run k
    let s3 := s2.setRun k { r with action := .none, saved := none, quiesced := false }
    match r.action with
    | .preempt _ _ => failSave r.action Status.doesNotFit s3
    | .taken _ _ _ => failSave r.action Status.doesNotFit s3
    | act =>
      match act.desc with
      | some (ring, pos) => finishAt ring pos Status.doesNotFit 0 0 0 s3
      | none => s3

/-- An event about a stand, for its coupe's function. -/
def raiseStand (kind value : Nat) (g : StandId) (s : State) : State :=
  match coupeOfStand s g with
  | none => raise 0 kind 0 value 0 0 0 (standCore g) s
  | some k => raise (s.coupe k).func kind 0 value (s.coupe k).stepctr 0 k (standCore g) s

/-- A stand leaves service. -/
def standOut (g : StandId) (s : State) : State :=
  if (s.stand g).inService then
    let s1 := raiseStand 0x15 (1 + g.toNat * 256) g s
    let s2 := s1.setStand g { s1.stand g with inService := false }
    maybeReady (match coupeOfStand s2 g with
      | none => s2
      | some k => loseStand k g s2)
  else s

/-- A sector leaves service with its 16 stands. -/
def sectorOut (i : SectorId) (s : State) : State :=
  if (s.sector i).mode = .out then s
  else
    let s1 := raise0 0x15 (2 + i.val * 256) (s.setSector i { s.sector i with mode := .out })
    (sectorStands i).foldl (fun t g => standOut g t) s1

/-- Coupes with stands in a sector. -/
def coupesOfSector (s : State) (i : SectorId) : List CoupeId :=
  (listedCoupes s).filter (fun k => (sectorStands i).any (inMask (s.coupe k).stands))

/-- A device fault charged to a sector (R373): its sequencer is reset and its coupes replay; the second within 1 s takes
the sector out of service. -/
def deviceFault (i : SectorId) (record : BitVec 64) (s : State) : State :=
  let x := s.sector i
  let s1 := raise 0 0x17 record i.val 0 0 0 0 s
  match x.lastFault with
  | some t =>
    if s.timebase.toNat ≤ t.toNat + 100000000 then sectorOut i s1
    else
      (coupesOfSector s1 i).foldl (fun u k => triggerReplay k Status.restartRequired 0 0 u)
        (s1.setSector i { x with lastFault := some s.timebase, sequencerResets := x.sequencerResets + 1 })
  | none =>
    (coupesOfSector s1 i).foldl (fun u k => triggerReplay k Status.restartRequired 0 0 u)
      (s1.setSector i { x with lastFault := some s.timebase, sequencerResets := x.sequencerResets + 1 })

/-! ## Retirement (R66, R370) -/

/-- The physical core that serves a slot. -/
def physOf (s : State) (c : CoreId) : BitVec 6 := (s.slot c).phys.getD (BitVec.ofNat 6 (coreSlot c))

/-- Physical cores of a stand that no slot uses and that are neither retired nor mapped away at bring-up, ascending. -/
def spares (s : State) (g : StandId) : List (BitVec 6) :=
  ((List.range 34).map (BitVec.ofNat 6)).filter (fun p =>
    !(s.stand g).retired.contains p && !(s.stand g).unfit.contains p && !((standCores g).any (fun c => physOf s c = p && (s.slot c).state ≠ .failed)))

/-- INCARN after one retirement: 0xFFFF wraps to 1. -/
def nextIncarn (i : BitVec 16) : BitVec 16 := if i = 0xFFFF then 1 else i + 1

/-- The slot record of core c shown in the device mirror at once (R370): GEN of its page advances by two. -/
def showSlot (c : CoreId) (s : State) : State :=
  let m := s.mirror
  let page := 70 + c.toNat / 1008
  { s with mirror := { m with
    slots := m.slots.set Slot.reset c.toNat (s.slot c)
    gens := m.gens.set 0 page (m.gens.get 0 page + 2) } }

/-- The physical core of slot c is retired: incarnation, remap to the lowest unused spare with its bench move, and the
open step replayed; or the slot FAILED and the stand lost. -/
def retireCore (c : CoreId) (s : State) : State :=
  let g := coreStand c
  let x := s.slot c
  let old := physOf s c
  let inc := nextIncarn x.incarn
  let s0 := resetCore c s
  let s1 := s0.setStand g { s0.stand g with retired := (s0.stand g).retired ++ [old] }
  match spares s1 g with
  | p :: _ =>
    let s2 := raiseCore 0x13 0 (inc.toNat + p.toNat * 2 ^ 16) c
      (showSlot c (s1.setSlot c { x with incarn := inc, phys := some p, moving := true, movingFrom := old }))
    match coupeOf s2 c with
    | none => s2
    | some k => triggerReplay k Status.restartRequired 0 0 s2
  | [] =>
    standOut g (raiseCore 0x13 0 (inc.toNat + old.toNat * 2 ^ 16 + 2 ^ 22) c
      (showSlot c (s1.setSlot c { x with incarn := inc, state := .failed })))

/-! ## Fresh stands (R118, R268) -/

/-- Every cell of a core's bench dropped: rows zero, clean, unpoisoned. -/
def clearBench (c : CoreId) (s : State) : State := clearRange (benchAddr c 0) (2 ^ 24) s

/-- A core as at cold reset: bench, windows and state. Its error log is held (R117), and its scrubber goes on where it
stopped (R116). -/
def freshCore (c : CoreId) (s : State) : State :=
  let s1 := clearBench c s
  let x := s1.core c
  s1.setCore c { Core.reset with errLog := x.errLog, scrub := x.scrub, spareLines := x.spareLines }

def freshStand (g : StandId) (s : State) : State := (standCores g).foldl (fun t c => freshCore c t) s

/-! ## Checks that several commands make -/

/-- A descriptor's ring may name the coupe: function 0 owns every coupe, another function its own; a ring other than ring
0 must serve the coupe (R271, R289, R299). -/
def mayName (s : State) (q : Desc) (k : CoupeId) : Bool :=
  (ringFunc s q.ring = 0 || ringFunc s q.ring = (s.coupe k).func) && (q.ring = 0 || ringCoupe s q.ring = k)

/-- The isolation event of a descriptor from another function (R272, kind 4). -/
def foreignDescriptor (s : State) (q : Desc) (k : CoupeId) : State :=
  if ringFunc s q.ring = 0 || ringFunc s q.ring = (s.coupe k).func then s
  else raiseIsolation 4 (ringCoupe s q.ring) (some k) 0xFFF s

/-- The descriptor of a command starts and its outcome is `body`; nothing when it may not start now, or when the accepted
descriptor is of another operation. -/
def starts (op : Nat) (q : Desc) (body : State → State) (s : State) : Out :=
  if canStart s q && Hdr.opcode q.w = op then .next (body s) else .next s

end Sys2Proof.Machine
end

