-- ==== Sys2Proof/Machine/StreamEvents.lean ====
section
/-! DEFINITION. Events of the stream network: rows and markers that arrive, slack, skid chains and
arrivals at barriers (R124–R128, R158, R160, R166–R170, R336). -/

namespace Sys2Proof.Machine

/-! ## Staging (R124–R127, R160) -/

/-- The padding that queue q's rows take in the open step: the entry and the shape value on its dimension. -/
def padOf (s : State) (k : CoupeId) (q : Queue) : Option (BitVec 64 × Nat) :=
  match bindingOf s k, (s.run k).openStep with
  | some cfg, some st =>
    if QRec.padSel q.record = 0 then none
    else (cfg.padding[QRec.padSel q.record]?).map (fun w => (w, StepD.shape st.w (Pad.dim w)))
  | _, _ => none

/-- An item enters the consumer's staging; rows are counted and padded by R160, markers are not. -/
def stageItem (q : Queue) (pad : Option (BitVec 64 × Nat)) (it : Item) : Queue :=
  match it, pad with
  | .row d p, some (w, v) =>
    let r := padRow w v q.padRow d p
    Queue.seen { q with staging := q.staging ++ [.row r.1 r.2], padRow := q.padRow + 1 }
  | .row d p, none => Queue.seen { q with staging := q.staging ++ [.row d p], padRow := q.padRow + 1 }
  | .marker m, _ => Queue.seen { q with staging := q.staging ++ [.marker m] }

/-- The row of the slack ring at position i from the oldest. -/
def Queue.slackRow (q : Queue) (i : Nat) : Nat :=
  QRec.slackBase q.record + (q.slackHead + i) % QRec.slackLen q.record

/-- Whether the consumer's router admits an item now. -/
def Queue.admits (q : Queue) (it : Item) : Bool :=
  q.marker.isNone &&
    match it with
    | .marker _ => true
    | .row _ _ => (q.slackCount = 0 && q.staging.length < 4) || q.slackCount < QRec.slackLen q.record

/-- An admitted item staged, spilled to slack or held in the marker register. -/
def admitItem (k : CoupeId) (h : BitVec 16) (q : Queue) (it : Item) (s : State) : State :=
  match it with
  | .marker m =>
    if q.slackCount = 0 && q.staging.length < 4 then s.setQueue k h (some (stageItem q none it))
    else s.setQueue k h (some (Queue.seen { q with marker := some m }))
  | .row d p =>
    if q.slackCount = 0 && q.staging.length < 4 then s.setQueue k h (some (stageItem q (padOf s k q) it))
    else
      (writeBench (QRec.cons q.record) (q.slackRow q.slackCount) d p s).setQueue k h (some (Queue.seen { q with
        slackCount := q.slackCount + 1
        spilled := BitVec.ofNat 32 (satAdd 32 q.spilled.toNat 1) }))

/-- STREAM_ROW_ARRIVAL: the oldest item of the queue reaches the consumer's router, after what the same core sent the same
core before it (R129). -/
def execStreamRowArrival (k : CoupeId) (h : BitVec 16) (s : State) : Out :=
  match s.queue k h with
  | none => .next s
  | some q =>
    match q.network with
    | [] => .next s
    | it :: rest =>
      if q.admits it && laneFirst s k q then
        .next (progress (admitItem k h (q.left1 rest) it s) (QRec.cons q.record))
      else .next s

/-- The held marker is staged once the ring is empty and the staging has room. -/
def stageMarker (q : Queue) : Queue :=
  match q.marker with
  | some m => if q.slackCount = 0 && q.staging.length < 4 then stageItem { q with marker := none } none (.marker m) else q
  | none => q

/-- SLACK_REFILL: the oldest slack row refills the staging, then a held marker follows. -/
def execSlackRefill (k : CoupeId) (h : BitVec 16) (s : State) : Out :=
  match s.queue k h with
  | none => .next s
  | some q =>
    if q.staging.length < 4 then
      if q.slackCount = 0 then
        if q.marker.isNone then .next s
        else .next (progress (s.setQueue k h (some (stageMarker q))) (QRec.cons q.record))
      else
        let (d, s1) := readBench (QRec.cons q.record) (q.slackRow 0) 2 s
        let q1 := { q with slackHead := (q.slackHead + 1) % QRec.slackLen q.record, slackCount := q.slackCount - 1 }
        .next (progress (s1.setQueue k h (some (stageMarker (stageItem q1 (padOf s k q) (.row d.1 d.2)))))
          (QRec.cons q.record))
    else .next s

/-! ## Skid chains (R166) -/

/-- One occurrence leaves the forwarded rows under way. -/
def dropSkid (f : SkidFwd) : List SkidFwd → List SkidFwd
  | [] => []
  | x :: xs => if x = f then xs else x :: dropSkid f xs

/-- The chain that a row runs along. -/
def SkidFwd.along (f : SkidFwd) (s : State) : Option Chain := (bindingOf s f.coupe).bind (fun cfg => cfg.chains[f.chain]?)

/-- The oldest row on its way to core c by a chain of coupe k. -/
def skidFor (s : State) (k : CoupeId) (c : CoreId) : Option (SkidFwd × Chain) :=
  s.skids.findSome? (fun f =>
    match f.along s with
    | some x => if f.coupe = k && x.members[f.place]? = some c then some (f, x) else none
    | none => none)

/-- Chain n of coupe k has arrived at its barrier. -/
def chainDone (k : CoupeId) (n : Nat) (x : Chain) (s : State) : State :=
  let s1 : State := { s with arrivals := s.arrivals ++ [.coupe k x.barrier] }
  match (s1.run k).openStep with
  | none => s1
  | some st => checkBoundary k (setStep k { st with loads := st.loads.filter (fun l => l.kind ≠ LoadKind.chain n) } s1)

/-- SKID_ROW: the oldest row under way reaches the member, whose router writes it and forwards it; the last row of the last
member arrives at the chain's barrier. -/
def execSkidRow (k : CoupeId) (c : CoreId) (s : State) : Out :=
  match skidFor s k c with
  | none => .next s
  | some (f, x) =>
    if coupeOf s c ≠ some k || (s.slot c).moving || coupeHalting s k then .next s
    else
      let s1 := writeBench c (x.row + f.ord) f.data f.poison { s with skids := dropSkid f s.skids }
      if f.place + 1 < x.members.length then .next { s1 with skids := s1.skids ++ [{ f with place := f.place + 1 }] }
      else if f.last then .next (chainDone k f.chain x s1)
      else .next s1

/-- The chains of a core's coupe that run through it and are not over start again from their first row: the core's slot has
been remapped, and its bench move is complete (R166). -/
def restartChains (c : CoreId) (s : State) : State :=
  match coupeOf s c with
  | none => s
  | some k =>
    match (s.run k).openStep, bindingOf s k with
    | some st, some cfg =>
      let hit (n : Nat) : Bool := (cfg.chains[n]?).any (fun x => x.members.contains c)
      let again (l : StepLoad) : Bool := match l.kind with
        | .chain n => hit n
        | .layer _ => false
      let gone := (st.loads.filter again).map (·.w)
      let s1 := setStep k { st with loads := st.loads.map (fun l => if again l then { l with sent := false } else l) } s
      { s1 with
        skids := s1.skids.filter (fun f => !(f.coupe = k && hit f.chain))
        transfers := s1.transfers.map (fun t => if gone.contains t.w then { t with written := 0 } else t) }
    | _, _ => s

/-! ## Arrivals (R169, R170) -/

/-- A barrier word: TAG in [63:48], COUNT in [31:0]. -/
def setWord (addr : Nat) (tag : BitVec 16) (count : Nat) (s : State) : State :=
  writeBytesAt addr (bytesLE 8 (tag.toNat * 2 ^ 48 + count % 2 ^ 32)) false s

/-- A barrier word lies in a deck stack that has not failed: a controller holds it. -/
def wordStands (s : State) (addr : Nat) : Bool := isDeck addr && (s.stack (stackOf addr)).state ≠ .failed

/-- An arrival reaches a memory-scope word: counted, the newer tag taken, or an older one discarded. -/
def arriveMemory (addr : Nat) (tag : BitVec 16) (s : State) : State :=
  let old := wordTag s addr
  let diff := (tag - old).toNat
  if diff = 0 then setWord addr old (wordCount s addr + 1) s
  else if diff ≤ 0x7FFF then setWord addr tag 1 s
  else s

/-- One occurrence leaves the arrivals under way. -/
def dropArrival (a : Arrival) : List Arrival → Option (List Arrival)
  | [] => none
  | x :: xs => if x = a then some xs else (dropArrival a xs).map (x :: ·)

/-- BARRIER_ARRIVAL: an arrival under way takes effect, once. -/
def execBarrierArrival (a : Arrival) (s : State) : Out :=
  match dropArrival a s.arrivals with
  | none => .next s
  | some rest =>
    let s1 := { s with arrivals := rest }
    match a with
    | .coupe k b =>
      let r := s1.run k
      .next (s1.setRun k { r with barriers := r.barriers.set 0 b.toNat (r.barriers.get 0 b.toNat + 1) })
    | .memory addr tag =>
      if wordStands s1 addr.toNat then .next (arriveMemory addr.toNat tag s1)
      else .next s1

end Sys2Proof.Machine
end

