-- ==== Sys2Proof/Machine/Movers.lean ====
section
/-! DEFINITION. Movers: the checks on a descriptor, the rows of a transfer, its completion and its deadline, and the
patrol of the deck and the yard; feeds and the return of credits, which lets their rows enter (R124, R163, R167,
R176–R183, R189–R193, R201–R203, R271, R336, R359, R382). -/

namespace Sys2Proof.Machine

/-! ## Addresses (R172, R178) -/

/-- Where the region of a device address ends; none for an address that names no memory. -/
def regionEnd (s : State) (a : Nat) : Option Nat :=
  if isBench a then
    if a >>> 9 % 2 ^ 15 ≤ lastRow then some (benchAddr (BitVec.ofNat 12 (a >>> 24)) (lastRow + 1)) else none
  else if isDeck a then some (deckBase + 8 * stackSize)
  else if isYard s a then some (yardBase + s.yardGib * 2 ^ 30)
  else none

/-- A deck address in the device reserve of its stack (R173). -/
def inReserve (a : Nat) : Bool := isDeck a && reserveOff ≤ (a - deckBase) % stackSize

/-- A deck address in a read-only lease: the deck copy of an image (R183). -/
def inLease (s : State) (a : Nat) : Bool :=
  s.dur.allocs.any (fun x => x.addr.toNat ≤ a && a < x.addr.toNat + x.units * 4096
    && (match x.kind with | .imageDeck _ => true | _ => false))

/-- Whether a transfer of coupe k may touch a deck or yard address (R271). -/
def unitAllowed (s : State) (k : CoupeId) (a : Nat) : Bool :=
  s.dur.allocs.any (fun x => x.addr.toNat ≤ a && a < x.addr.toNat + x.units * 4096 &&
    (homedTo s.dur k x ||
      match x.kind with
      | .imageDeck h => (List.range 8).any (fun j => match (s.coupe k).bindings.get none j with
          | some cfg => cfg.image = h
          | none => false)
      | .save k' _ => k' = k
      | .jobSave k' _ => k' = k
      | _ => false))

/-- The walk that a transfer applies to its source: one of its coupe's binding. COUPE is ignored in the device's own
transfers, which have none (R177; log entry 131). -/
def transferWalk (s : State) (w : BitVec 512) : Option (BitVec 512) :=
  if Mv.device w then none else (bindingOf s (Mv.coupe w)).bind (fun cfg => cfg.walks[Mv.walk w]?)

/-- The transfer of the open step that a descriptor makes, when the sequencer built it for a layer or a chain. -/
def loadOf (s : State) (w : BitVec 512) : Option StepLoad :=
  if Mv.device w then none
  else
    match (s.run (Mv.coupe w)).openStep with
    | none => none
    | some st => st.loads.find? (fun l => l.w = w)

/-- A transfer of the open step changed, the first with this descriptor. -/
def mapLoad (w : BitVec 512) (f : StepLoad → Option StepLoad) : List StepLoad → List StepLoad
  | [] => []
  | l :: rest => if l.w = w then (match f l with | some x => x :: rest | none => rest) else l :: mapLoad w f rest

/-- The same in the state. -/
def onLoad (w : BitVec 512) (f : StepLoad → Option StepLoad) (s : State) : State :=
  match (s.run (Mv.coupe w)).openStep with
  | none => s
  | some st =>
    if Mv.device w || !st.loads.any (fun l => l.w = w) then s
    else setStep (Mv.coupe w) { st with loads := mapLoad w f st.loads } s

/-- Rows of the transfer: each one's source address, or none for a row that is read from nowhere: a pad or pattern row. -/
def transferPlan (s : State) (w : BitVec 512) : List (Option (BitVec 64)) :=
  if Mv.op w = 3 then List.replicate (Mv.rows w) none
  else if Mv.walk w = 0xFFFF then (List.range (Mv.rows w)).map (fun i => some (BitVec.ofNat 64 (Mv.src w + 512 * i)))
  else if (loadOf s w).isSome then ((loadOf s w).map (·.plan)).getD []
  else
    let shape := match (s.run (Mv.coupe w)).openStep with
      | some st => StepD.shapes st.w
      | none => [0, 0, 0, 0]
    match transferWalk s w with
    | none => []
    | some sp => (walkRows sp (Mv.src w) shape).map (fun o => o.map (BitVec.ofNat 64))

/-- Reserved fields and values (cause 1 of R382). -/
def moverFields (s : State) (w : BitVec 512) : Bool :=
  1 ≤ Mv.op w && Mv.op w ≤ 3 && (Mv.op w = 3 || Mv.sspace w < 2) && Mv.dspace w < 3 && Mv.bscope w < 3
    && bits w 499 496 = 0 && bits w 160 0 = 0
    && (Mv.op w = 3 || Mv.sspace w = 1 || Mv.src w < 2 ^ 48)
    && (Mv.dspace w = 1 || (if Mv.dspace w = 2 then Mv.dst w < 2 ^ 14 else Mv.dst w < 2 ^ 48))
    && (if Mv.walk w = 0xFFFF then 1 ≤ Mv.rows w
        else Mv.rows w = 0 && (transferWalk s w).isSome)
    && (Mv.bscope w ≠ 2 || (Mv.baddr w).toNat % 8 = 0)

/-- The device addresses that a transfer reads and writes, with the length of each access. -/
def moverRanges (w : BitVec 512) (plan : List (Option (BitVec 64))) : List (Nat × Nat) :=
  let src := if Mv.op w = 3 || Mv.sspace w = 1 then []
    else if Mv.walk w = 0xFFFF then [(Mv.src w, 512 * Mv.rows w)]
    else plan.filterMap (fun o => o.map (fun a => (a.toNat, 512)))
  let dst := if Mv.dspace w = 0 then [(Mv.dst w, 512 * plan.length)] else []
  src ++ dst

/-- Whether any 4 KiB unit of a range fails a test. -/
def anyUnit (f : Nat → Bool) (r : Nat × Nat) : Bool :=
  r.2 ≠ 0 && (List.range ((r.1 + r.2 - 1) / 4096 - r.1 / 4096 + 1)).any (fun i => f ((r.1 / 4096 + i) * 4096))

/-- The cause with which a mover refuses a descriptor, the lowest that applies (log entry 20); 0 when it takes it. -/
def moverCause (s : State) (w : BitVec 512) (plan : List (Option (BitVec 64))) : Nat :=
  let rs := moverRanges w plan
  let toTier := Mv.dspace w = 0 && !isBench (Mv.dst w)
  if !moverFields s w then 1
  else if rs.any (fun r => (regionEnd s r.1).isNone) || (Mv.bscope w = 2 && !isDeck (Mv.baddr w).toNat) then 2
  else if rs.any (fun r => (regionEnd s r.1).getD 0 < r.1 + r.2) then 3
  else if rs.any (fun r => r.1 % 512 ≠ 0) then 4
  else if !Mv.device w && (rs.any (anyUnit inReserve) || (Mv.bscope w = 2 && inReserve (Mv.baddr w).toNat)) then 5
  else if Mv.blen w ≠ 0 && (Mv.rows w ≠ 1 || Mv.walk w ≠ 0xFFFF || 512 < Mv.boff w + Mv.blen w || 512 < Mv.blen w
      || Mv.dspace w = 2 || (Mv.dspace w = 0 && isBench (Mv.dst w))) then 6
  else if toTier && anyUnit (inLease s) (Mv.dst w, 512 * plan.length)
      && !(Mv.device w && Mv.op w = 1 && Mv.blen w = 0) then 7
  else if !Mv.device w && rs.any (fun r => !isBench r.1 && anyUnit (fun a => !unitAllowed s (Mv.coupe w) a) r) then 8
  else 0

/-! ## Requests that depend on a transfer (R201) -/

/-- The slot of a request. -/
def Req.slot (r : Req) : SlotId := BitVec.ofNat 13 (bits r.w 511 499)

/-- Transfers of a slot stop writing rows and complete as they stand (R263). -/
def stopTransfers (k : CoupeId) (i : SlotId) (s : State) : State :=
  { s with transfers := s.transfers.map (fun t =>
    if Mv.ofCoupe t.w k && Mv.seq t.w = i.toNat then { t with plan := t.plan.take t.written, empty := true } else t) }

/-- The request of a slot, or every request for 0x3FFF, ends with a status; its lanes leave the step as in an immediate
cancellation (R201). -/
def endRequests (k : CoupeId) (seq : Nat) (status : BitVec 8) (detail : BitVec 64) (dkind : BitVec 4) (s : State) :
    State :=
  match (s.run k).openStep with
  | none => s
  | some st =>
    if st.boundary then s
    else
      let f (r : Req) : Req := if (seq = 0x3FFF || r.slot.toNat = seq) && r.status.isNone then
        { r with status := some status, detail := detail, dkind := dkind } else r
      let gone := (st.reqs.filter (fun r => seq = 0x3FFF || r.slot.toNat = seq)).map Req.slot
      let s1 := setStep k { st with reqs := st.reqs.map f } (gone.foldl (fun t i => stopTransfers k i t) s)
      if seq = 0x3FFF then noteStatus k status detail dkind s1 else s1

/-- A transfer leaves its mover. -/
def dropTransfer (m : MoverId) (s : State) : State :=
  { s with transfers := s.transfers.filter (fun t => t.mover ≠ m) }

/-- The feed whose walk a descriptor makes is over. -/
def dropFeed (w : BitVec 512) (s : State) : State :=
  let k := Mv.coupe w
  if Mv.device w || Mv.dspace w ≠ 2 then s
  else s.setRun k { s.run k with feedPlans := (s.run k).feedPlans.filter (fun f => f.w ≠ some w) }

/-- The SEQ_OPENs and PINs that wait for the recall of a group (R214, R232). -/
def recallUsers (s : State) (g : GroupId) : List (RingId × BitVec 32) :=
  ((s.dur.seqs.filter (fun e => e.2.state = .opening && e.2.pages.contains (some g))).map (fun e => (e.2.ring, e.2.openPos)))
    ++ s.rings.flatMap (fun r => (r.2.accepted.filter (fun e =>
      e.state = .queued && Hdr.opcode e.w = 0x23
        && ((s.seq (BitVec.ofNat 13 (bits e.w 511 499))).pages.take (bits e.w 482 467)).contains (some g))).map
          (fun e => (BitVec.ofNat 15 r.1, e.pos)))

/-- A transfer of the device itself ends without its last row: a MOVE leaves the home at its source, and a recall ends the
descriptors that it serves (R181, R201). -/
def deviceEnds (w : BitVec 512) (status : BitVec 8) (detail : BitVec 64) (dkind : BitVec 4) (s : State) : State :=
  match s.moves.find? (fun m => m.desc = w) with
  | none => s
  | some m =>
    let t := dropMove m s
    match m.purpose, m.kind with
    | .recall, .group g =>
      { t with recallLost := t.recallLost ++ (recallUsers s g).map (fun u => ⟨u.1, u.2, status, detail, dkind⟩) }
    | _, _ => t

/-- A transfer aborted: what depends on it ends with a status. -/
def abortTransfer (m : MoverId) (w : BitVec 512) (status : BitVec 8) (s : State) : State :=
  let s1 := onLoad w (fun _ => none) (dropFeed w (dropTransfer m s))
  if Mv.device w then deviceEnds w status 0 0 s1
  else checkBoundary (Mv.coupe w) (endRequests (Mv.coupe w) (Mv.seq w) status 0 0 s1)

/-- A refusal (R178): the requests, or the descriptor that a transfer of the device serves, end with LOWER_TIER_FAILED and
the mover record; a sector mover's is a device fault, but for isolation (R271, R373). -/
def refuseTransfer (m : MoverId) (w : BitVec 512) (cause : Nat) (s : State) : State :=
  let k := Mv.coupe w
  let rec64 := moverRecord m cause (Mv.op w) (Mv.step w) (BitVec.ofNat 14 (Mv.seq w)) k (Mv.device w)
  let s1 := if Mv.device w then deviceEnds w Status.lowerFailed rec64 5 s
    else endRequests k (Mv.seq w) Status.lowerFailed rec64 5 (onLoad w (fun _ => none) (dropFeed w s))
  let s2 := if cause = 8 then raiseIsolation 3 k none 0xFFF s1
    else if h : m.agent.toNat < 8 then deviceFault ⟨m.agent.toNat, h⟩ rec64 s1
    else s1
  if Mv.device w then s2 else checkBoundary k s2

/-! ## Poison that a request consumes (R359) -/

/-- Bytes from one logit record of a request to the next (R250). -/
def logitStride (w : BitVec 512) : Nat := 64 * ceilDiv (16 + 8 * bits w 415 407) 64

/-- Host addresses of a request's logit records: from OUT on, one for each node or position that is due; none under K 0
(R245, R250). -/
def logitArea (r : Req) : Nat × Nat :=
  let n := if r.verify || bits r.w 406 405 = 2 then bits r.w 442 423 else bits r.w 406 405 % 2
  (bits r.w 340 277, if bits r.w 415 407 = 0 then 0 else n * logitStride r.w)

/-- LSE of a record from its vocabulary's merged pair (m, s): m + log(s), one rounding for each (R250). -/
def logitLse (m s : F32) : F32 := F32.add m (F32.log s)

/-- The header of a logit record, as the configuration's tasks write it (R250). -/
def logitHeader (lse : F32) (position node kcount : Nat) (poison : Bool) (step : BitVec 16) : BitVec 128 :=
  put 96 lse.toNat ||| put 76 position ||| put 69 node ||| put 60 kcount ||| put 59 (b2n poison) ||| put 43 step.toNat

/-- Bytes bound for host address `a`, with the POISON bit of every logit record header that they hold set (R250, R251): bit
59 is bit 3 of the header's byte 7. -/
def poisonHeaders (r : Req) (a : Nat) (data : List (BitVec 8)) : List (BitVec 8) :=
  let area := logitArea r
  data.zipIdx.map (fun b =>
    if area.1 ≤ a + b.2 && a + b.2 < area.1 + area.2 && (a + b.2 - area.1) % logitStride r.w = 7 then b.1 ||| 8 else b.1)

/-- Where a poisoned row lands (WHERE of R381): logit record, page, workspace, host buffer. -/
def poisonWhere (s : State) (r : Req) (w : BitVec 512) : Nat :=
  if Mv.dspace w = 1 then
    let area := logitArea r
    if area.1 ≤ Mv.dst w && Mv.dst w < area.1 + area.2 then 1 else 4
  else if (groupAt s (Mv.dst w)).isSome then 2
  else if s.dur.allocs.any (fun x => x.addr.toNat ≤ Mv.dst w && Mv.dst w < x.addr.toNat + x.units * 4096
      && (match x.kind with | .tree _ => true | _ => false)) then 3
  else 0

/-- The request, or every request, that the transfer serves consumes poison. -/
def consumePoison (w : BitVec 512) (origin : Nat) (core : Nat) (tag : BitVec 32) (s : State) : State :=
  let k := Mv.coupe w
  match (s.run k).openStep with
  | none => s
  | some st =>
    let f (r : Req) : Req :=
      if (Mv.seq w = 0x3FFF || r.slot.toNat = Mv.seq w) && !r.poisoned && r.status.isNone then
        { r with
          poisoned := true
          detail := faultRecord 1 core tag origin st.attempt (poisonWhere s r w)
          dkind := 7 }
      else r
    setStep k { st with reqs := st.reqs.map f } s

/-- The origin of a row's poison that KIND of R381 gives: detected in this transfer by tier, a NaN of the source core's
task, or inherited (log entry 21). -/
def poisonOrigin (before : State) (src : Option Nat) (host : Bool) : Nat :=
  if host then 4
  else
    match src with
    | none => 0
    | some a =>
      if isBench a then
        if before.poison.contains a then
          (if (before.core (BitVec.ofNat 12 (a >>> 24))).nanp ≠ 0 then 6 else 0)
        else 1
      else if (granulesOf a 512).any before.poison.contains then 0
      else if isDeck a then 2 else 3

/-! ## Rows -/

/-- The padding of a queue: its entry's rows, or rows of zeros (R159, R242). -/
def queuePad (s : State) (k : CoupeId) (h : BitVec 16) : Row :=
  match bindingOf s k, s.queue k h with
  | some cfg, some q => if QRec.padSel q.record = 0 then 0 else ((cfg.padding[QRec.padSel q.record]?).map Pad.row).getD 0
  | _, _ => 0

/-- The row that a transfer puts where its walk reads nothing, or its pattern. -/
def padRowOf (s : State) (w : BitVec 512) : Row :=
  if Mv.op w = 3 then Row.ofWords32 (List.replicate 128 (Mv.pattern w))
  else
    match bindingOf s (Mv.coupe w), transferWalk s w with
    | some cfg, some sp => walkPadRow cfg sp
    | _, _ => 0

/-- The next source row of a transfer: the row, its poison, the state; none when the host gave no row. -/
def sourceRow (t : Transfer) (e : Option (BitVec 64)) (host : List (Row × Bool)) (s : State) :
    Option ((Row × Bool) × List (Row × Bool) × State) :=
  match e with
  | none =>
    some ((if t.padded then queuePad s (Mv.coupe t.w) (BitVec.ofNat 16 (Mv.dst t.w)) else padRowOf s t.w, false), host, s)
  | some a =>
    if Mv.sspace t.w = 1 then
      match host with
      | [] => none
      | r :: rest => some (r, rest, s)
    else
      let (d, s1) := readRowAt a.toNat s
      some (d, host, s1)

/-- The open step's request that a transfer serves. -/
def reqOf (s : State) (w : BitVec 512) : Option Req :=
  match (s.run (Mv.coupe w)).openStep with
  | none => none
  | some st => if Mv.device w then none else st.reqs.find? (fun r => r.slot.toNat = Mv.seq w)

/-- Data of a transfer sent to host memory, with the poisoned-data indication when it carries poison (R176); a poisoned logit
record says so in its header (R251). -/
def sendHost (w : BitVec 512) (a : Nat) (data : List (BitVec 8)) (p : Bool) (s : State) : State :=
  let bytes := match (if p then reqOf s w else none) with
    | some r => poisonHeaders r a data
    | none => data
  { s with hostOut := s.hostOut ++ [⟨BitVec.ofNat 64 a, bytes, p⟩] }

/-- The bytes that a transfer writes of a row: BLEN from BOFF on, or all (R177). -/
def rowPart (w : BitVec 512) (d : Row) : List (BitVec 8) :=
  let l := bytesLE 512 d.toNat
  if Mv.blen w ≠ 0 then (l.drop (Mv.boff w)).take (Mv.blen w) else l

/-- A row on its way to the first member of the skid chain that a transfer feeds (R166). -/
def chainRow (t : Transfer) (d : Row) (p : Bool) (s : State) : Option SkidFwd :=
  match loadOf s t.w with
  | some ⟨_, _, .chain n, _⟩ => some ⟨Mv.coupe t.w, n, 0, t.written, t.written + 1 = t.plan.length, d, p⟩
  | _ => none

/-- One row written at the destination; none while a queue has no credit. -/
def destRow (t : Transfer) (d : Row) (p : Bool) (s : State) : Option State :=
  if (chainRow t d p s).isSome then some { s with skids := s.skids ++ (chainRow t d p s).toList }
  else if Mv.dspace t.w = 1 then
    some (sendHost t.w (Mv.dst t.w + (if Mv.blen t.w ≠ 0 then Mv.boff t.w else 512 * t.written)) (rowPart t.w d) p s)
  else if Mv.dspace t.w = 2 then
    let h := BitVec.ofNat 16 (Mv.dst t.w)
    match s.queue (Mv.coupe t.w) h with
    | none => none
    | some q => sendItem (Mv.coupe t.w) h q (.row d p) s
  else if Mv.blen t.w ≠ 0 then
    some (writeBytesAt (Mv.dst t.w + Mv.boff t.w) (rowPart t.w d) p s)
  else some (writeRowAt (Mv.dst t.w + 512 * t.written) d p s)

/-- A step that read a poisoned lease row whose clean copy exists is replayed where it may be (R360). -/
def replayIfAble (k : CoupeId) (s : State) : State :=
  match (s.run k).openStep with
  | some st => if st.canReplay then triggerReplay k Status.restartRequired 0 0 s else s
  | none => s

/-- One row moved. -/
def moveRow (t : Transfer) (e : Option (BitVec 64)) (host : List (Row × Bool)) (s : State) :
    Option (List (Row × Bool) × State) :=
  match sourceRow t e host s with
  | none => none
  | some ((d, p), rest, s1) =>
    match destRow t d p s1 with
    | none => none
    | some s2 =>
      let e := if Mv.sspace t.w = 0 then e else none
      let outward := Mv.dspace t.w = 1 || (Mv.dspace t.w = 0 && !isBench (Mv.dst t.w))
      if p && outward && !Mv.device t.w then
        let a := e.map BitVec.toNat
        let core := match a with
          | some x => if isBench x then x >>> 24 else 0xFFF
          | none => 0xFFF
        let tag : BitVec 32 := if core = 0xFFF then 0
          else ((s1.core (BitVec.ofNat 12 core)).task.map Task.tag).getD 0
        let s3 := consumePoison t.w (poisonOrigin s a (Mv.sspace t.w = 1)) core tag s2
        some (rest, match a with
          | some x => if leaseHit s x then replayIfAble (Mv.coupe t.w) s3 else s3
          | none => s3)
      else
        some (rest, match e with
          | some x => if p && !Mv.device t.w && leaseHit s x.toNat then replayIfAble (Mv.coupe t.w) s2 else s2
          | none => s2)

/-- Up to n rows of a transfer moved in order; the transfer as it then stands. -/
def moveRows : Nat → Transfer → List (Row × Bool) → State → Transfer × State
  | 0, t, _, s => (t, s)
  | n + 1, t, host, s =>
    match t.plan[t.written]? with
    | none => (t, s)
    | some e =>
      match moveRow t e host s with
      | none => (t, s)
      | some (rest, s1) => moveRows n { t with written := t.written + 1 } rest s1

/-! ## Issue -/

/-- The deadline in ticks of 10 ns (R202). -/
def transferLimit (w : BitVec 512) (plan : List (Option (BitVec 64))) : Nat :=
  let yard (a : Nat) : Bool := yardBase ≤ a
  if Mv.deadline w ≠ 0 then 1000 * 2 ^ Mv.deadline w
  else if Mv.dspace w = 1 || (Mv.op w ≠ 3 && Mv.sspace w = 1) then 2000000 * max 1 (ceilDiv plan.length 4096)
  else if (Mv.op w ≠ 3 && yard (Mv.src w)) || (Mv.dspace w = 0 && yard (Mv.dst w)) then 200000
  else 20000

/-- Whether a deck or yard unit that the transfer touches has failed (R203). -/
def touchesFailed (s : State) (w : BitVec 512) (plan : List (Option (BitVec 64))) : Bool :=
  (moverRanges w plan).any (fun r => anyUnit (fun a => isDeck a && (s.stack (stackOf a)).state = .failed) r)

/-- Whether the slot that a transfer serves has been masked out of the step; `passed` tells a request that the step opened
with (R201, R263) from one that failed a check (R242). -/
def maskedSeq (s : State) (w : BitVec 512) (passed : Bool) : Bool :=
  match (s.run (Mv.coupe w)).openStep with
  | none => false
  | some st => Mv.seq w ≠ 0x3FFF && !Mv.device w
      && st.reqs.any (fun r => r.slot.toNat = Mv.seq w && r.status.isSome && r.passed = passed)

/-- Whether movers stand still (R395, R407), transfers of the coupe are paused (R276), this one fills an area that is not
free yet (R165), or it is barred because it names a memory-scope barrier of an attempt that a checksum flag has ended (R363). -/
def transferHeld (s : State) (w : BitVec 512) : Bool :=
  !clocksRun s || !Mv.device w &&
    (coupeHalting s (Mv.coupe w)
      || (match (s.run (Mv.coupe w)).openStep, loadOf s w with
        | some st, some l => l.sent || l.waits st (((bindingOf s (Mv.coupe w)).map (·.prefetch)).getD 0)
        | _, _ => false)
      || (Mv.bscope w = 2 && (match (s.run (Mv.coupe w)).openStep with
        | some st => st.memArrivalsStopped
        | none => false)))

/-- Host rows that a command brings. -/
def hostList : HostRows → List (Row × Bool)
  | .ok l => l
  | _ => []

/-- What a failed or late host read makes of a transfer. -/
def hostBad (m : MoverId) (w : BitVec 512) (host : HostRows) (s : State) : Option State :=
  match host with
  | .ok _ => none
  | .failed => some (abortTransfer m w Status.lowerFailed s)
  | .timeout => some (abortTransfer m w Status.lowerTimeout s)

/-- A transfer goes on by up to n rows. -/
def continueTransfer (t : Transfer) (n : Nat) (host : HostRows) (s : State) : State :=
  match (if Mv.sspace t.w = 1 && Mv.op t.w ≠ 3 && !t.padded then hostBad t.mover t.w host s else none) with
  | some u => u
  | none =>
    let (t', s1) := moveRows n t (hostList host) s
    { s1 with transfers := s1.transfers.map (fun x => if x.mover = t.mover then t' else x) }

/-- MOVER_TRANSFER: a mover takes a descriptor, checks it, and writes up to n rows; it refuses it before it moves any
row. A mover that runs this transfer goes on with it; one that runs another takes nothing. -/
def execMoverTransfer (m : MoverId) (w : BitVec 512) (n : Nat) (host : HostRows) (s : State) : Out :=
  if transferHeld s w then .next s
  else
    match s.transfers.find? (fun t => t.mover = m) with
    | some t => if t.w = w then .next (continueTransfer t n host s) else .next s
    | none =>
      let plan := transferPlan s w
      let cause := moverCause s w plan
      if cause ≠ 0 then .next (refuseTransfer m w cause s)
      else if touchesFailed s w plan then .next (abortTransfer m w Status.lowerFailed s)
      else
        let padded := maskedSeq s w false && Mv.dspace w = 2
        let masked := maskedSeq s w true || (maskedSeq s w false && !padded)
        let t : Transfer := ⟨m, w, if masked then [] else if padded then plan.map (fun _ => none) else plan, 0, s.timebase,
          transferLimit w plan, masked, padded⟩
        .next (continueTransfer t n host { s with transfers := s.transfers ++ [t] })

/-! ## Completion (R180, R181) -/

/-- A MOVE's home transfers: the datum at the source address is now at the destination, whose units it takes over. -/
def moveHome (src dst : Nat) (s : State) : State :=
  match s.dur.allocs.find? (fun a => a.addr.toNat = src) with
  | none => s
  | some a =>
    let s1 := { s with dur := { s.dur with allocs := s.dur.allocs.filter (fun b => b.addr.toNat ≠ dst) } }
    moveDone ⟨.relocate, a.kind, BitVec.ofNat 48 src, BitVec.ofNat 48 dst, a.units⟩ s1

/-- The home that a complete MOVE transfers: that of a datum that the device moves, or that of the descriptor's source. -/
def homeMoves (t : Transfer) (s : State) : State :=
  if Mv.op t.w = 2 && Mv.sspace t.w = 0 && Mv.dspace t.w = 0 && !t.empty then
    match s.moves.find? (fun m => m.desc = t.w) with
    | some m => moveDone m s
    | none => moveHome (Mv.src t.w) (Mv.dst t.w) s
  else s

/-- The arrival that a completed transfer makes at its barrier. -/
def transferArrival (w : BitVec 512) (s : State) : State :=
  if Mv.bscope w = 1 then { s with arrivals := s.arrivals ++ [.coupe (Mv.coupe w) (Mv.barrier w)] }
  else if Mv.bscope w = 2 then { s with arrivals := s.arrivals ++ [.memory (Mv.baddr w) (Mv.btag w)] }
  else s

/-- A marker sent into the queue of a feed; none while it has no credit. -/
def sendMark (k : CoupeId) (h : BitVec 16) (m : Marker) (s : State) : Option State :=
  match s.queue k h with
  | none => some s
  | some q => sendItem k h q (.marker m) s

/-- The end of a feed's walk: its marker follows, and the feed is over (R167). -/
def feedMark (w : BitVec 512) (s : State) : Option State :=
  let k := Mv.coupe w
  match (s.run k).feedPlans.find? (fun f => f.w = some w) with
  | none => some s
  | some f =>
    match f.mark with
    | none => some (dropFeed w s)
    | some m => (sendMark k f.handle m s).map (dropFeed w)

/-- MOVER_TRANSFER_COMPLETE: the rows still to move are written; with the last one the home transfers, the transfer
arrives at its barrier and leaves its mover; grants that waited for the units go on. A transfer that still lacks rows or
credits stays. -/
def execMoverTransferComplete (m : MoverId) (host : HostRows) (s : State) : Out :=
  match s.transfers.find? (fun t => t.mover = m) with
  | none => .next s
  | some t =>
    if transferHeld s t.w then .next s
    else
      let s1 := continueTransfer t t.plan.length host s
      match s1.transfers.find? (fun t => t.mover = m) with
      | none => .next s1
      | some u =>
        if u.written < u.plan.length then .next s1
        else
          let s2 := onLoad t.w (fun l => match l.kind with
            | .layer _ => none
            | .chain _ => if l.plan.isEmpty then none else some { l with sent := true }) (dropTransfer m s1)
          match feedMark t.w s2 with
          | none => .next s1
          | some s3 =>
            let s4 := transferArrival t.w (homeMoves u s3)
            .next (if Mv.device t.w then pumpGrants .yard (pumpGrants .deck s4) else checkBoundary (Mv.coupe t.w) s4)

/-- A timeout counted in the log of the unit that the transfer waits for (R192). -/
def countTimeout (t : Transfer) (s : State) : State :=
  let src := match t.plan[t.written]? with
    | some (some a) => a.toNat
    | _ => 0
  let dst := Mv.dst t.w + 512 * t.written
  let tier (a : Nat) : Bool := isDeck a || isYard s a
  if yardBase ≤ src && tier src then logTier src 2 0x3F s
  else if Mv.dspace t.w = 0 && tier dst then logTier dst 2 0x3F s
  else if tier src then logTier src 2 0x3F s
  else s

/-- TRANSFER_DEADLINE: a transfer whose deadline has passed is aborted with its prefix written (R203). -/
def execTransferDeadline (m : MoverId) (s : State) : Out :=
  match s.transfers.find? (fun t => t.mover = m) with
  | none => .next s
  | some t =>
    if transferHeld s t.w || s.timebase.toNat < t.started.toNat + t.limit then .next s
    else .next (abortTransfer m t.w Status.lowerTimeout (countTimeout t s))

/-! ## Feeds (R158, R167, R168) -/

/-- Markers of feeds that run no walk sent as credits allow. -/
def feedMarks (k : CoupeId) (h : BitVec 16) (s : State) : State :=
  ((s.run k).feedPlans.filter (fun f => f.handle = h && f.w.isNone)).foldl (fun t f =>
    match f.mark with
    | none => t
    | some m =>
      match sendMark k h m t with
      | none => t
      | some u => checkBoundary k (u.setRun k { u.run k with feedPlans := (u.run k).feedPlans.erase f })) s

/-- The feeds of queue h go on as credits allow; they pause while their coupe halts (R276 step 3). -/
def runFeed (k : CoupeId) (h : BitVec 16) (s : State) : State :=
  if coupeHalting s k then s
  else
    let mine := s.transfers.filter (fun t => Mv.ofCoupe t.w k && Mv.dspace t.w = 2 && Mv.dst t.w = h.toNat && Mv.sspace t.w ≠ 1)
    mine.foldl (fun t x => continueTransfer x x.plan.length (.ok []) t) (feedMarks k h s)

/-! ## Credits (R124, R336) -/

/-- Credits that the consuming end of a span queue returns in one packet: per 8 rows, or per depth when that is less
(log entry 19), and at every marker. -/
def Queue.creditBatch (q : Queue) : Nat :=
  if q.markCredit then q.returning
  else
    let n := min 8 (QRec.depth q.record)
    if n ≤ q.returning then n else 0

/-- CREDIT_RETURN: a local credit reaches the producer's router and releases what waits there; a span queue's consumer
sends a CREDIT packet. -/
def execCreditReturn (k : CoupeId) (h : BitVec 16) (s : State) : Out :=
  match s.queue k h with
  | none => .next s
  | some q =>
    if q.returning = 0 then .next s
    else if isReduction h then .next (s.setQueue k h (some { q with returning := 0, markCredit := false }))
    else if q.span then
      let n := q.creditBatch
      if n = 0 then .next s
      else .next (sendMember k (handlePartner h) 2 (handleChannel h) false 4 0 (.credit n)
        (s.setQueue k h (some { q with returning := q.returning - n, markCredit := false })))
    else
      let s1 := s.setQueue k h (some { q with returning := q.returning - 1, credits := q.credits + 1 })
      let c := QRec.prod q.record
      let p := 4 + QRec.prodPort q.record
      let s2 := if (s1.core c).port p = h then releasePort c p k h s1 else s1
      .next (runFeed k h s2)

/-! ## Patrol of the tiers (R191) -/

/-- One granule patrolled: rewritten corrected, or with the poison pattern. -/
def patrolGranule (a : Nat) (s : State) : State :=
  match s.granuleErrors.get .none a with
  | .none => s
  | .correctable sym => logTier a 0 sym.toNat { s with granuleErrors := s.granuleErrors.set .none a .none }
  | .uncorrectable => foundBad a s

/-- Granule p of a yard channel (R174): its channel's 1 KiB pieces in ascending address. -/
def channelGranule (s : State) (ch p : Nat) : Nat :=
  let j := p / 16
  let low := match s.yardMode with
    | .full => j * 16384 + (ch ^^^ (j % 16)) * 1024
    | _ => j * 8192 + (ch / 2 ^^^ (j / 2 % 8)) * 1024
  yardBase + low + p % 16 * 64

/-- Granules of one yard channel; none for a channel that the mode leaves out. -/
def channelGranules (s : State) (ch : Nat) : Nat :=
  match s.yardMode with
  | .none => 0
  | .full => s.yardGib * 2 ^ 24 / 16
  | .half0 => if ch % 2 = 0 then s.yardGib * 2 ^ 24 / 8 else 0
  | .half1 => if ch % 2 = 1 then s.yardGib * 2 ^ 24 / 8 else 0

/-- MEMORY_PATROL: units 0–7 are the deck stacks, 8–23 the yard channels. A stack in self-refresh, or a unit that has
failed or is tested, patrols nothing. -/
def execMemoryPatrol (u : Fin 24) (s : State) : Out :=
  if h : u.val < 8 then
    let i : SectorId := ⟨u.val, h⟩
    let x := s.stack i
    if x.state = .on then
      let s1 := patrolGranule (stackBase i.val + 64 * x.patrol) s
      .next (s1.setStack i { s1.stack i with patrol := (x.patrol + 1) % (stackSize / 64) })
    else .next s
  else
    let ch : ChannelId := ⟨u.val - 8, by omega⟩
    let x := s.channel ch
    let n := channelGranules s ch.val
    if n = 0 || x.failed || x.testing || s.yardRefresh then .next s
    else
      let s1 := patrolGranule (channelGranule s ch.val x.patrol) s
      .next (s1.setChannel ch { s1.channel ch with patrol := (x.patrol + 1) % n })

end Sys2Proof.Machine
end

