-- ==== Sys2Proof/Machine/Sequences.lean ====
section
/-! DEFINITION. Sequences, page groups and scent: opening, closing, cancelling, pinning and salts, and the allocator's
wait queue (R188, R206–R235, R261–R264). -/

namespace Sys2Proof.Machine

/-! ## Scent (R223, R226) -/

def scentK1 : BitVec 64 := 0xC3A56E1B27D94F35
def scentK2 : BitVec 64 := 0x8B71D2E45A09C6E7

/-- fold of R223. -/
def fold (h w : BitVec 64) : BitVec 64 :=
  let x := (h ^^^ w) * scentK1
  x ^^^ (x >>> 31)

/-- Pairs of token ids folded in position order. -/
def foldTokens : List (BitVec 32) → BitVec 64 → BitVec 64
  | a :: b :: rest, h => foldTokens rest (fold h (b ++ a))
  | _, h => h

/-- scent of R223 for a block of 16 tokens. -/
def scent (parent : BitVec 64) (t : List (BitVec 32)) (model : BitVec 32) (adapter : BitVec 16) (salt : BitVec 64) :
    BitVec 64 :=
  let h := fold (parent ^^^ salt) (model.setWidth 64 <<< 32 ||| adapter.setWidth 64 <<< 16 ||| 0x5C3E)
  let h := foldTokens t h
  let h := h ^^^ (h >>> 33)
  let h := h * scentK2
  let h := h ^^^ (h >>> 29)
  if h = 0 then 1 else h

/-- Set and tag of a scent. -/
def scentSet (x : BitVec 64) : Nat := x.toNat % 2 ^ 18
def scentTag (x : BitVec 64) : BitVec 46 := BitVec.ofNat 46 (x.toNat / 2 ^ 18)

/-- Way w of a set. -/
def scentWay (s : State) (set w : Nat) : Option ScentEntry := s.dur.scent.get none (4 * set + w)

/-- The valid entry with a scent's tag and a salt index. -/
def findScent (s : State) (x : BitVec 64) (salt : BitVec 12) : Option ScentEntry :=
  (List.range 4).findSome? (fun w =>
    match scentWay s (scentSet x) w with
    | some e => if e.tag = scentTag x && e.salt = salt then some e else none
    | none => none)

/-- The salt of an index. -/
def saltOf (s : State) (i : BitVec 12) : Option (BitVec 64) := s.dur.salts.get none i.toNat

/-! ## Sequence records -/

/-- The slot's generation: the advances since the cold reset over the value loaded then (R209). -/
def seqGen (s : State) (i : SlotId) : BitVec 16 :=
  BitVec.ofNat 16 (Config.firstColdCount.toNat + s.power.colds.toNat) + (s.seq i).gen

/-- SLOT and GEN of a descriptor that names a sequence (R239, R299). -/
def descSlot (w : BitVec 512) : SlotId := BitVec.ofNat 13 (bits w 511 499)
def descGen (w : BitVec 512) : BitVec 16 := BitVec.ofNat 16 (bits w 498 483)

/-- The slot is FREE or its GEN differs (R208). -/
def seqLost (s : State) (w : BitVec 512) : Bool :=
  (s.seq (descSlot w)).state = .free || seqGen s (descSlot w) ≠ descGen w

/-- The ring is not one of the function that owns the sequence's ring (R261, R299). -/
def otherFunction (s : State) (q : Desc) : Bool :=
  ringFunc s q.ring ≠ ringFunc s (s.seq (descSlot q.w)).ring

/-- One reference more on a group, which is evictable no longer: an eviction under way is abandoned (R182, R227); and one
less. -/
def addRef (g : GroupId) (s : State) : State :=
  let s0 := abandonEvict g s
  let s1 := s0.setGroup g { s0.group g with refs := (s0.group g).refs + 1 }
  { s1 with dur := { s1.dur with allocs := s1.dur.allocs.map (fun a =>
    if a.kind = .group g then { a with evictable := none } else a) } }
def dropRef (g : GroupId) (s : State) : State := s.setGroup g { s.group g with refs := (s.group g).refs - 1 }

/-- A group with no reference (R220): a scented sealed one is evictable or stays pinned, any other is freed. -/
def settleGroup (g : GroupId) (s : State) : State :=
  let x := s.group g
  if x.state = .free || x.refs ≠ 0 then s
  else if x.state = .sealed && x.scented then
    if x.pinned then s
    else if (s.dur.allocs.find? (fun a => a.kind = .group g)).any (·.evictable.isSome) then s
    else
      let s1 := s.setGroup g { x with age := now48 s }
      { s1 with dur := { s1.dur with allocs := s1.dur.allocs.map (fun a =>
        if a.kind = .group g then { a with evictable := some (now48 s) } else a) } }
  else freeGroup g s

/-- Groups that a sequence's page list names. -/
def Seq.groups (x : Seq) : List GroupId := x.pages.filterMap id

/-- What a sequence holds is given up: its references, list pages and tree workspace (R234). -/
def dropHeld (i : SlotId) (s : State) : State :=
  let x := s.seq i
  let s1 := x.groups.foldl (fun t g => dropRef g t) s
  (dropAlloc (.tree i) (dropAlloc (.listPages i) s1)).setSeq i { x with
    pages := [], tail := none, listAddr := 0, tree := none, released := true }

/-- Everything the sequence holds is released, and groups that lose their last reference are settled (R220, R234). -/
def releaseSeq (i : SlotId) (s : State) : State :=
  (s.seq i).groups.foldl (fun t g => settleGroup g t) (dropHeld i s)

/-- The slot returns to FREE with its GEN advanced (R207, R234). -/
def freeSeq (i : SlotId) (s : State) : State :=
  let s1 := if (s.seq i).released then s else releaseSeq i s
  s1.setSeq i { Seq.reset with gen := (s.seq i).gen + 1 }

/-! ## SEQ_OPEN (R210–R214, R227, R230) -/

/-- Whether a record confirms block b of the prompt (R227). -/
def confirms (s : State) (cfg : Config) (b : Nat) (prev : Option GroupId) (g : GroupId) (toks : List (BitVec 32)) :
    Bool :=
  let x := s.group g
  x.state = .sealed && x.model = cfg.model && x.adapter = cfg.adapter && x.shard = cfg.shard
    && x.prows = cfg.prows && x.players = cfg.players && x.tokens = toks
    && (if b = 0 then x.root else !x.root && some x.parent = prev)

/-- Blocks matched in ascending order, at most `n` more: the groups found and how many are recalled. The page list of slot i
names a group from the moment it confirms; one that would have to be recalled and may not ends the matching, and settles at
the next commit (R214, R220, R230). -/
def matchBlocks (cfg : Config) (k : CoupeId) (i : SlotId) (saltIdx : BitVec 12) (salt : BitVec 64) :
    Nat → Nat → BitVec 64 → Option GroupId → List (BitVec 32) → State → List GroupId × Nat × State
  | 0, _, _, _, _, s => ([], 0, s)
  | n + 1, b, parent, prev, toks, s =>
    let t := toks.take 16
    let x := scent parent t cfg.model cfg.adapter salt
    match findScent s x saltIdx with
    | none => ([], 0, s)
    | some e =>
      if confirms s cfg b prev e.group t then
        let s0 := addRef e.group s
        let s1 := s0.setSeq i { s0.seq i with pages := (s0.seq i).pages ++ [some e.group] }
        let yard := (s1.group e.group).inYard
        match (if yard then recallGroup e.group k s1 else .granted 0 s1) with
        | .refused =>
          let u := dropRef e.group (s1.setSeq i (s.seq i))
          ([], 0, { u with due := u.due ++ [.settle [e.group]] })
        | .granted _ s2 =>
          let (gs, r, s3) := matchBlocks cfg k i saltIdx salt n (b + 1) x (some e.group) (toks.drop 16) s2
          (e.group :: gs, r + b2n yard, s3)
        | .waits s2 =>
          let (gs, r, s3) := matchBlocks cfg k i saltIdx salt n (b + 1) x (some e.group) (toks.drop 16) s2
          (e.group :: gs, r + b2n yard, s3)
      else ([], 0, s)

/-- The lowest FREE slot. -/
def lowestSlot (s : State) : Nat → Nat → Option SlotId
  | 0, _ => none
  | fuel + 1, n =>
    if (s.seq (BitVec.ofNat 13 n)).state = .free then some (BitVec.ofNat 13 n) else lowestSlot s fuel (n + 1)

def freeSlot (s : State) : Option SlotId := lowestSlot s (min 8192 (s.dur.seqs.length + 1)) 0

/-- Recalls that no reference needs any more are abandoned. -/
def dropRecalls (gs : List GroupId) (s : State) : State :=
  gs.foldl (fun t g => if (t.group g).refs = 0 then abandonRecall g t else t) s

/-- A SEQ_OPEN that cannot finish: what it took is released, and its groups settle at the next commit. Its slot stays
OPENING until the commit that posts the failure (R214). -/
def failOpen (q : Desc) (i : SlotId) (status : BitVec 8) (detail : BitVec 64) (dkind : BitVec 4) (s : State) : State :=
  let gs := (s.seq i).groups
  let s1 := dropRecalls gs (dropHeld i (dequeue q s))
  finishAt q.ring q.pos status dkind detail 0 { s1 with due := s1.due ++ [.settle gs] }

/-- The slot that a held SEQ_OPEN is opening. -/
def openingSlot (s : State) (q : Desc) : Option SlotId :=
  (s.dur.seqs.find? (fun e => e.2.state = .opening && e.2.ring = q.ring && e.2.openPos = q.pos)).map
    (fun e => BitVec.ofNat 13 e.1)

/-- The matched blocks have their list pages and are homed in the deck: the completion waits for the commit (R210). -/
def openedSeq (q : Desc) (i : SlotId) (s : State) : State :=
  let x := s.seq i
  let detail : BitVec 64 := put 51 i.toNat ||| put 35 (seqGen s i).toNat ||| put 19 x.matched.toNat
    ||| put 3 x.recalled.toNat
  finishAt q.ring q.pos Status.ok 1 detail 0 { s with due := s.due ++ [.activate i] }

/-- Recalls that were granted and still wait for their units tried again. -/
def retryRecalls (k : CoupeId) (gs : List GroupId) (s : State) : State :=
  gs.foldl (fun t g =>
    if (t.group g).inYard && (findGrant t .deck (.group g)).isSome then
      match recallGroup g k t with
      | .granted _ u => u
      | .waits u => u
      | .refused => t
    else t) s

/-- The failure of a recall that a descriptor waits for. -/
def recallLoss (s : State) (q : Desc) : Option RecallLoss := s.recallLost.find? (fun x => x.ring = q.ring && x.pos = q.pos)

/-- A SEQ_OPEN waits until every recall that it requested has homed its group in the deck (R230). -/
def openRecalls (q : Desc) (k : CoupeId) (i : SlotId) (s : State) : State :=
  let gs := (s.seq i).groups
  if gs.any (fun g => (s.group g).inYard) then awaits q (retryRecalls k gs s) else openedSeq q i s

/-- List pages for the matched blocks: granted, queued, waiting for units in use, or refused; then the recalls. -/
def openPages (q : Desc) (k : CoupeId) (i : SlotId) (s : State) : State :=
  match recallLoss s q with
  | some x => failOpen q i x.status x.detail x.dkind s
  | none =>
    let need := listPagesFor (s.seq i).pages.length - (listPages s i).length
    let runs := List.replicate need (AllocKind.listPages i, 1)
    if need = 0 then openRecalls q k i s
    else if waitsInPool s q then awaits q s
    else
      match allocateRuns .deck (some k) false runs s with
      | .granted _ t => openRecalls q k i t
      | .waits t => awaits q t
      | .refused =>
        if Hdr.wait q.w then awaits q (enqueue .deck runs (some k) q s) else failOpen q i Status.noBuffer 0 0 s

/-- The binding that a SEQ_OPEN uses: that of the job its ring names (R211). -/
def ringBinding (s : State) (q : Desc) (k : CoupeId) : Option Config :=
  (s.coupe k).bindings.get none (ringJob s q.ring).toNat

/-- The tokens read, the blocks matched and the pages asked for. -/
def openMatch (q : Desc) (k : CoupeId) (cfg : Config) (i : SlotId) (toks : List (BitVec 32)) (s : State) : State :=
  let n := bits q.w 492 473
  let saltIdx := BitVec.ofNat 12 (bits q.w 504 493)
  let mMax := if n = 0 then 0 else min (bits q.w 472 457) ((n - 1) / 16)
  let (gs, r, s1) := match saltOf s saltIdx with
    | none => ([], 0, s)
    | some salt => matchBlocks cfg k i saltIdx salt mMax 0 0 none (toks.take n) s
  openPages q k i (s1.setSeq i { s1.seq i with
    matched := BitVec.ofNat 16 gs.length, recalled := BitVec.ofNat 16 r })

/-- SEQ_OPEN. -/
def execSeqOpen (q : Desc) (tokens : HostRead) (s : State) : Out :=
  let k := BitVec.ofNat 7 (bits q.w 511 505)
  starts 0x20 q (fun s =>
    if !mayName s q k then finish q Status.doesNotFit (foreignDescriptor s q k)
    else if (s.coupe k).state = .free then finish q Status.doesNotFit s
    else if (s.coupe k).state ≠ .bound || s.scentRebuild then hold q s
    else
      match ringBinding s q k, openingSlot s q with
      | none, _ => hold q s
      | some _, some i => openPages q k i s
      | some cfg, none =>
        match freeSlot s with
        | none => finish q Status.seqTableFull s
        | some i =>
          let s1 := s.setSeq i { s.seq i with
            state := .opening
            ring := q.ring
            coupe := k
            span := (s.coupe k).sCount ≠ 0 && (s.coupe k).spanId ≠ 0
            salt := BitVec.ofNat 12 (bits q.w 504 493)
            openPos := q.pos
            key := cfg.key
            fresh := true }
          if bits q.w 492 473 = 0 then openMatch q k cfg i [] s1
          else
            match tokens with
            | .failed => failOpen q i Status.lowerFailed 0 0 s1
            | .timeout => failOpen q i Status.lowerTimeout 0 0 s1
            | .ok ws => openMatch q k cfg i ws s1) s

/-! ## SEQ_CLOSE and CANCEL -/

/-- SEQ_CLOSE: an ACTIVE sequence becomes CLOSING and is freed at the next commit; one that is CLOSING already stays so. -/
def execSeqClose (q : Desc) (s : State) : Out :=
  starts 0x21 q (fun s =>
    let i := descSlot q.w
    if seqLost s q.w || otherFunction s q then finish q Status.sequenceLost s
    else
      match (s.seq i).state with
      | .active =>
        finish q Status.ok { s.setSeq i { s.seq i with state := .closing } with due := s.due ++ [.freeSeq i] }
      | .closing => finish q Status.ok s
      | _ => hold q s) s

/-- A request names the sequence as a CANCEL does. -/
def namesSeq (w v : BitVec 512) : Bool := descSlot w = descSlot v && descGen w = descGen v
def isRequest (w : BitVec 512) : Bool := Hdr.opcode w = 0x29 || Hdr.opcode w = 0x2A

/-- Every request of the sequence ends with CANCELLED: in the open step, in a ready step, or when its turn comes. -/
def cancelRequests (k : CoupeId) (v : BitVec 512) (s : State) : State :=
  let r := s.run k
  let f (x : Req) : Req := if namesSeq x.w v then { x with status := some Status.cancelled, detail := 0, dkind := 0 } else x
  let g (st : Step) : Step := if st.boundary && st.outcomeSent then st else { st with reqs := st.reqs.map f }
  let s1 := s.setRun k { r with ready := r.ready.map g, openStep := r.openStep.map g }
  { s1 with rings := s1.rings.map (fun e => (e.1, { e.2 with accepted := e.2.accepted.map (fun x =>
    if !(isRequest x.w && namesSeq x.w v) then x
    else if x.state.unstarted then { x with cancelled := true }
    else
      match x.state with
      | .done st _ _ n =>
        if st = Status.shapeExceeds || st = Status.doesNotFit then { x with state := .done Status.cancelled 0 0 n } else x
      | _ => x) })) }

/-- A SEQ_OPEN whose slot a CANCEL closes ends with CANCELLED, and its request leaves the pool's queue (R188; log entry
132). -/
def cancelOpen (i : SlotId) (s : State) : State :=
  let x := s.seq i
  match entryOf s x.ring x.openPos with
  | none => s
  | some e =>
    if x.state ≠ .opening || e.state.isDone then s
    else
      let q : Desc := ⟨x.ring, x.openPos, e.w⟩
      finish q Status.cancelled (dropRecalls x.groups (dequeue q s))

/-- A SEQ_OPEN under way whose coupe is destroyed ends with a status, and leaves the pool's queue (R211, R269). -/
def endOpening (k : CoupeId) (status : BitVec 8) (s : State) : State :=
  (s.dur.seqs.filter (fun e => e.2.state = .opening && e.2.coupe = k)).foldl (fun t e =>
    match entryOf t e.2.ring e.2.openPos with
    | none => t
    | some x =>
      if x.state.isDone then t
      else
        let q : Desc := ⟨e.2.ring, e.2.openPos, x.w⟩
        finish q status (dropRecalls e.2.groups (dequeue q t))) s

/-- The acceptance of a CANCEL: the slot becomes CLOSING, and the completion waits for the coupe's next commit (R261,
R262). -/
def acceptCancel (q : Desc) (immediate : Bool) (s : State) : State :=
  let i := descSlot q.w
  if seqLost s q.w || otherFunction s q then finish q Status.sequenceLost s
  else if (s.seq i).state = .closing then
    let s1 := if immediate then s.setSeq i { s.seq i with immediate := true } else s
    finish q Status.cancelled s1
  else
    let k := (s.seq i).coupe
    let s0 := cancelOpen i s
    let s1 := s0.setSeq i { s0.seq i with state := .closing, immediate := immediate }
    let s2 := cancelRequests k q.w s1
    setEntry q.ring q.pos .started { s2 with due := s2.due ++ [.cancel i k q.ring q.pos] }

/-- IMMEDIATE on a ring that holds the privilege (R261). -/
def immediateForm (s : State) (q : Desc) : Bool := bit q.w 482 && ringImm s q.ring

/-- CANCEL: the boundary form. It executes at its acceptance (R301). -/
def execCancel (q : Desc) (s : State) : Out :=
  if canStartNow s q && Hdr.opcode q.w = opCancel && !immediateForm s q then .next (acceptCancel q false s) else .next s

/-- CANCEL_IMMEDIATE: besides, the sequence's lanes leave the running step at once. -/
def execCancelImmediate (q : Desc) (s : State) : Out :=
  if canStartNow s q && Hdr.opcode q.w = opCancel && immediateForm s q then
    let i := descSlot q.w
    let lost := seqLost s q.w || otherFunction s q
    let s1 := acceptCancel q true s
    .next (if lost then s1 else stopTransfers (s.seq i).coupe i s1)
  else .next s

/-- CANCEL_RELEASE: once the reads of an immediately cancelled sequence have drained, what it holds is released (R263). -/
def execCancelRelease (i : SlotId) (s : State) : Out :=
  let x := s.seq i
  if x.state = .closing && x.immediate && !x.released
      && !s.transfers.any (fun t => Mv.ofCoupe t.w x.coupe && Mv.seq t.w = i.toNat && t.written < t.plan.length) then
    .next (releaseSeq i s)
  else .next s

/-! ## Pins (R232, R233) -/

/-- Groups of blocks 0 to n − 1, and which of them a PIN pins anew (R232). -/
def pinNames (s : State) (i : SlotId) (n : Nat) : List GroupId := ((s.seq i).pages.take n).filterMap id
def pinnable (s : State) (g : GroupId) : Bool := (s.group g).state = .sealed && (s.group g).scented
def freshPins (s : State) (i : SlotId) (n : Nat) : List GroupId :=
  (pinNames s i n).filter (fun g => pinnable s g && !(s.group g).pinned)

/-- The pins of a PIN would exceed the coupe's floor. -/
def pinsExceed (s : State) (i : SlotId) (n : Nat) (k : CoupeId) : Bool :=
  (s.coupe k).floor.toNat < pinnedUnits s k + ((freshPins s i n).map (fun g => (s.group g).units.toNat)).sum

/-- Recalls for a PIN, in block order, for the sequence's coupe (R230); false when one is refused. -/
def recallAll (k : CoupeId) : List GroupId → State → Bool × State
  | [], s => (true, s)
  | g :: gs, s =>
    if (s.group g).inYard then
      match recallGroup g k s with
      | .refused => (false, s)
      | .granted _ t => recallAll k gs t
      | .waits t => recallAll k gs t
    else recallAll k gs s

/-- The pins of a PIN whose groups are homed in the deck, in its commit. -/
def applyPin (i : SlotId) (n : Nat) (k : CoupeId) (ring : RingId) (pos : BitVec 32) (s : State) : State :=
  let gs := pinNames s i n
  let fresh := freshPins s i n
  let already := (gs.filter (fun g => pinnable s g && (s.group g).pinned)).length
  if pinsExceed s i n k then finishAt ring pos Status.noBuffer 0 0 0 s
  else
    finishAt ring pos Status.ok 1
      (put 48 fresh.length ||| put 32 (gs.length - fresh.length - already) ||| put 16 already) 0
      (fresh.foldl (fun t g => t.setGroup g { t.group g with pinned := true, pinCoupe := k }) s)

/-- A PIN of the groups of blocks 0 to n − 1: it recalls those in the yard and waits for them, then pins at the next
commit (R232). -/
def pinBlocks (q : Desc) (i : SlotId) (n : Nat) (k : CoupeId) (s : State) : State :=
  let fresh := freshPins s i n
  match recallLoss s q with
  | some x => finishAt q.ring q.pos x.status x.dkind x.detail 0 (dequeue q s)
  | none =>
    if pinsExceed s i n k then finish q Status.noBuffer s
    else
      let (done, s1) := recallAll (s.seq i).coupe fresh s
      if !done then finish q Status.noBuffer s1
      else if fresh.any (fun g => (s1.group g).inYard) then awaits q s1
      else setEntry q.ring q.pos .started { s1 with due := s1.due ++ [.pin i n k q.ring q.pos] }

/-- PIN. -/
def execPin (q : Desc) (s : State) : Out :=
  starts 0x23 q (fun s =>
    let i := descSlot q.w
    let k := BitVec.ofNat 7 (bits q.w 466 460)
    if !mayName s q k then finish q Status.doesNotFit (foreignDescriptor s q k)
    else if seqLost s q.w || otherFunction s q then finish q Status.sequenceLost s
    else pinBlocks q i (bits q.w 482 467) k s) s

/-- UNPIN of a sequence's blocks that are charged to the coupe, at the next commit. -/
def execUnpin (q : Desc) (s : State) : Out :=
  if bit q.w 459 then .next s
  else
    starts 0x24 q (fun s =>
      let i := descSlot q.w
      let k := BitVec.ofNat 7 (bits q.w 466 460)
      if !mayName s q k then finish q Status.doesNotFit (foreignDescriptor s q k)
      else if seqLost s q.w || otherFunction s q then finish q Status.sequenceLost s
      else
        let gs := (((s.seq i).pages.take (bits q.w 482 467)).filterMap id).filter (fun g =>
          (s.group g).pinned && (s.group g).pinCoupe = k)
        finish q Status.ok { s with due := s.due ++ [.unpinGroups gs] }) s

/-- Groups charged to a coupe. -/
def pinnedGroups (s : State) (k : CoupeId) : List GroupId :=
  (s.dur.groups.filter (fun g => g.2.pinned && g.2.pinCoupe = k)).map (fun g => BitVec.ofNat 22 g.1)

/-- UNPIN with ALL: every group charged to the coupe. -/
def execUnpinAll (q : Desc) (s : State) : Out :=
  if !bit q.w 459 then .next s
  else
    starts 0x24 q (fun s =>
      let k := BitVec.ofNat 7 (bits q.w 466 460)
      if !mayName s q k then finish q Status.doesNotFit (foreignDescriptor s q k)
      else finish q Status.ok { s with due := s.due ++ [.unpinGroups (pinnedGroups s k)] }) s

/-! ## Salts (R224, R225) -/

/-- SALT_SET: takes effect at the next commit. -/
def execSaltSet (q : Desc) (s : State) : Out :=
  if bit q.w 499 then .next s
  else
    starts 0x0B q (fun s =>
      finish q Status.ok { s with due := s.due ++
        [.salt (BitVec.ofNat 12 (bits q.w 511 500)) (some (BitVec.ofNat 64 (bits q.w 447 384)))] }) s

/-- SALT_SET with UNSET. -/
def execSaltUnset (q : Desc) (s : State) : Out :=
  if !bit q.w 499 then .next s
  else
    starts 0x0B q (fun s =>
      finish q Status.ok { s with due := s.due ++ [.salt (BitVec.ofNat 12 (bits q.w 511 500)) none] }) s

/-! ## The allocator's wait queue (R188) -/

/-- The queue without its first request equal to w. -/
def dropWait (w : PoolWait) : List PoolWait → List PoolWait
  | [] => []
  | x :: xs => if x = w then xs else x :: dropWait w xs

/-- ALLOCATION_RETRY: granted requests are covered first; then the head of the queue is granted when R186 allows, with
nothing ahead of it. -/
def execAllocationRetry (p : Pool) (s : State) : Out :=
  let s1 := pumpGrants p s
  if s1.granted.any (fun g => g.pool = p) then .next s1
  else
    match s1.poolWait.find? (fun w => w.pool = p) with
    | none => .next s1
    | some w =>
      match allocateRuns p w.coupe true w.runs { s1 with poolWait := dropWait w s1.poolWait } with
      | .granted _ t => .next t
      | .waits t => .next t
      | .refused => .next s1

/-- A request that waited in vain: the descriptor completes with NO_BUFFER and changes nothing else. -/
def expireWait (w : PoolWait) (s : State) : State :=
  let q : Desc := ⟨w.ring, w.pos, (entryOf s w.ring w.pos).elim 0 (·.w)⟩
  let s1 := dequeue q s
  match w.runs with
  | (.listPages i, _) :: _ => failOpen q i Status.noBuffer 0 0 s1
  | (.imageYard h, _) :: _ => finish q Status.noBuffer (s1.setImage h Image.reset)
  | _ => finish q Status.noBuffer s1

/-- ALLOCATION_WAIT_EXPIRY: the oldest queued request whose limit has passed leaves the queue. -/
def execAllocationWaitExpiry (p : Pool) (s : State) : Out :=
  match s.poolWait.find? (fun w => w.pool = p && w.since.toNat + w.limit ≤ s.timebase.toNat) with
  | none => .next s
  | some w => .next (expireWait w s)

end Sys2Proof.Machine
end

