-- ==== Sys2Proof/Machine/Steps.lean ====
section
/-! DEFINITION. The descriptors of steps, and the opening of a step (R157, R158, R168, R215, R217, R237–R260, R300–R303). -/

namespace Sys2Proof.Machine

/-! ## PREFILL and VERIFY (R239) -/

namespace ReqD
def pos (w : BitVec 512) : Nat := bits w 482 463
def lane (w : BitVec 512) : Nat := bits w 462 443
def count (w : BitVec 512) : Nat := bits w 442 423
def accept (w : BitVec 512) : Nat := bits w 422 416
def k (w : BitVec 512) : Nat := bits w 415 407
def logits (w : BitVec 512) : Nat := bits w 406 405
def out (w : BitVec 512) : Nat := bits w 340 277
def rsvdOk (w : BitVec 512) : Bool := bits w 276 64 = 0 && bits w 54 48 = 0
end ReqD

/-- A request before its step opens. -/
def freshReq (pos : BitVec 32) (w : BitVec 512) (verify cancelled : Bool) (src : HostRead) : Req where
  pos := pos
  w := w
  verify := verify
  src := src
  status := if cancelled then some Status.cancelled else none
  detail := 0
  dkind := 0
  passed := false
  groups := []
  poisoned := false

/-- A step whose descriptor and requests have been accepted (R240). -/
def freshStep (ring : RingId) (e : Entry) : Step where
  ring := ring
  pos := e.pos
  w := e.w
  stamp := e.stamp
  reqs := []
  number := 0
  attempt := 1
  bucket := none
  toDispatch := []
  running := []
  status := none
  detail := 0
  dkind := 0
  boundary := false
  needReplay := false
  replayable := true
  agreed := false
  outcomes := []
  outcomeSent := false
  routes := []
  expertRuns := []
  routing := []
  routed := []
  built := 0
  flagged := none
  reports := []
  totals := Totals.zero
  events := []
  memArrivalsStopped := false
  poppedForeign := false
  loads := []
  layerTasks := []

/-! ## STEP, PREFILL, VERIFY (R240, R301) -/

/-- The entries of a ring at the NREQ positions after a STEP, as far as they are accepted. -/
def runEntries (s : State) (q : Desc) : List Entry :=
  ((s.ringOf q.ring).accepted.dropWhile (fun e => e.pos ≠ q.pos)).tail.take (StepD.nreq q.w)

/-- The entries that a step takes: its position noted in each. -/
def claim (ring : RingId) (pos : BitVec 32) (ps : List (BitVec 32)) (s : State) : State :=
  let x := s.ringOf ring
  s.setRing ring { x with accepted := x.accepted.map (fun e =>
    if ps.contains e.pos then { e with step := some pos } else e) }

/-- The status of a request that no step runs: CANCELLED when a CANCEL has named its sequence (R262), else another. -/
def Entry.ends (e : Entry) (status : BitVec 8) : BitVec 8 := if e.cancelled then Status.cancelled else status

/-- STEP: ready once its requests have been accepted; ended at once when another descriptor stands among them. -/
def startStep (q : Desc) (s : State) : State :=
  let k := StepD.coupe q.w
  let es := runEntries s q
  let reqs := es.takeWhile (fun e => isRequest e.w)
  if !mayName s q k then
    finish q Status.doesNotFit (foreignDescriptor s q k)
  else if (s.coupe k).state = .free then finish q Status.doesNotFit s
  else if reqs.length < es.length then
    reqs.foldl (fun t e => finishAt q.ring e.pos (e.ends Status.shapeExceeds) 0 0 0 t) (finish q Status.shapeExceeds s)
  else if es.length < StepD.nreq q.w then hold q s
  else
    match entryOf s q.ring q.pos with
    | none => s
    | some e =>
      let s1 := claim q.ring q.pos (reqs.map (·.pos)) (setEntry q.ring q.pos .started s)
      s1.setRun k { s1.run k with ready := (s1.run k).ready ++ [freshStep q.ring e] }

/-- STEP. -/
def execStep (q : Desc) (s : State) : Out := starts 0x28 q (startStep q) s

/-- A request added to its ready step. -/
def addRequest (ring : RingId) (pos : BitVec 32) (r : Req) (st : Step) : Step :=
  if st.ring = ring && st.pos = pos then { st with reqs := st.reqs ++ [r] } else st

/-- A request joins the step that claimed it; one that belongs to no step completes with SHAPE_EXCEEDS_BUCKET (R240). -/
def startRequest (q : Desc) (verify : Bool) (src : HostRead) (s : State) : State :=
  match entryOf s q.ring q.pos with
  | none => s
  | some e =>
    match e.step with
    | none => finish q (e.ends Status.shapeExceeds) s
    | some p =>
      match (listedCoupes s).find? (fun k => (s.run k).ready.any (fun st => st.ring = q.ring && st.pos = p)) with
      | none => finish q (e.ends Status.shapeExceeds) s
      | some k =>
        let s1 := setEntry q.ring q.pos .started s
        s1.setRun k { s1.run k with
          ready := (s1.run k).ready.map (addRequest q.ring p (freshReq q.pos q.w verify e.cancelled src)) }

/-- PREFILL. -/
def execPrefill (q : Desc) (src : HostRead) (s : State) : Out := starts 0x29 q (startRequest q false src) s

/-- VERIFY. -/
def execVerify (q : Desc) (src : HostRead) (s : State) : Out := starts 0x2A q (startRequest q true src) s

/-! ## FENCE and NOP (R303) -/

/-- The VALID conditions of a FENCE: ring and count. -/
def fenceConds (w : BitVec 512) : List (RingId × BitVec 32) :=
  (List.range 4).filterMap (fun j =>
    let lo := 464 - 48 * j
    if bit w (lo + 47) then
      some (BitVec.ofNat 15 (bits w (lo + 46) (lo + 32)), BitVec.ofNat 32 (bits w (lo + 31) lo))
    else none)

/-- A condition that names a disabled ring, a ring of another function or the FENCE's own ring. -/
def fenceBad (s : State) (q : Desc) (c : RingId × BitVec 32) : Bool :=
  (s.ringOf c.1).state = .disabled || ringFunc s c.1 ≠ ringFunc s q.ring || c.1 = q.ring

/-- COMPLETED of the ring has reached the count. -/
def fenceReached (s : State) (c : RingId × BitVec 32) : Bool := ((s.ringOf c.1).back - c.2).toNat < 2 ^ 31

/-- A FENCE held: the wait counts from its start. -/
def holdSince (q : Desc) (s : State) : State :=
  let x := s.ringOf q.ring
  s.setRing q.ring { x with accepted := x.accepted.map (fun e =>
    if e.pos = q.pos then { e with since := if e.state = .held then e.since else s.timebase, state := .held } else e) }

/-- FENCE. -/
def execFence (q : Desc) (s : State) : Out :=
  starts opFence q (fun s =>
    let cs := fenceConds q.w
    if cs.any (fenceBad s q) then finish q Status.badDescriptor s
    else if cs.all (fenceReached s) then finish q Status.ok s
    else holdSince q s) s

/-- FENCE_EXPIRED: the wait limit of a held FENCE passes. -/
def execFenceExpired (q : Desc) (s : State) : Out :=
  match entryOf s q.ring q.pos with
  | none => .next s
  | some e =>
    if e.w = q.w && Hdr.opcode q.w = opFence && e.state = .held && Hdr.wait q.w
        && e.since.toNat + Hdr.waitTicks q.w ≤ s.timebase.toNat then
      .next (finish q Status.fenceExpired s)
    else .next s

/-- NOP on a ring. -/
def execNopDescriptor (q : Desc) (s : State) : Out := starts 0x31 q (finish q Status.ok) s

/-! ## Trees (R246, R247, R252, R253) -/

/-- Words read from the host; a missing one reads as 0. -/
def readWords (src : HostRead) (n : Nat) : List (BitVec 32) :=
  match src with
  | .ok ws => (List.range n).map (fun i => ws.getD i 0)
  | _ => []

/-- Node entries of 64 bits. -/
def wordPairs : List (BitVec 32) → List (BitVec 64)
  | a :: b :: rest => (b ++ a) :: wordPairs rest
  | _ => []

/-- Depths of the nodes of a tree, by PARENT. -/
def nodeDepths (ns : List (BitVec 64)) : List Nat :=
  ns.zipIdx.foldl (fun ds n => ds ++ [if n.2 = 0 then 0 else ds.getD (bits n.1 63 56) 0 + 1]) []

/-- R247. -/
def treeOk (ns : List (BitVec 64)) : Bool :=
  ns.zipIdx.all (fun n => bits n.1 55 32 = 0
    && (if n.2 = 0 then bits n.1 63 56 = 0xFF else bits n.1 63 56 < n.2)) && (nodeDepths ns).all (· ≤ 15)

/-- Nodes of the path from node 0 to node a, ascending. -/
def pathTo (ns : List (BitVec 64)) : Nat → Nat → List Nat
  | 0, _ => []
  | fuel + 1, a => if a = 0 then [0] else pathTo ns fuel (((ns[a]?).map (fun n => bits n 63 56)).getD 0) ++ [a]

/-- Tokens of nodes. -/
def nodeToken (n : BitVec 64) : BitVec 32 := BitVec.ofNat 32 n.toNat

/-- The half that the parity bit names, and the other. -/
def Tree.current (t : Tree) : TreeHalf := if t.parity then t.half1 else t.half0

/-- The pending tree of a sequence. -/
def Seq.pending (x : Seq) : Option TreeHalf :=
  match x.tree with
  | none => none
  | some t => if t.current.nodes.isEmpty then none else some t.current

/-- Node entries of a VERIFY. -/
def Req.nodes (r : Req) : List (BitVec 64) := wordPairs (readWords r.src (2 * ReqD.count r.w))

/-- Token ids that a request brings. -/
def Req.tokens (r : Req) : List (BitVec 32) :=
  if r.verify then r.nodes.map nodeToken else readWords r.src (ReqD.count r.w)

/-- Nodes of the previous tree that the request accepts. -/
def acceptedPath (s : State) (r : Req) : List Nat :=
  match (s.seq r.slot).pending with
  | none => []
  | some h => if ReqD.accept r.w = 0x7F then [] else pathTo h.nodes 65 (ReqD.accept r.w)

/-! ## The checks of R242 -/

/-- POS under R245 (with R215) and R252. -/
def posOk (s : State) (r : Req) : Bool :=
  let x := s.seq r.slot
  let p := ReqD.pos r.w
  let len := x.length.toNat
  if r.verify then
    if ReqD.accept r.w = 0x7F then p = len
    else
      match x.pending with
      | none => false
      | some h =>
        ReqD.accept r.w < h.nodes.length && p = h.pos + (nodeDepths h.nodes).getD (ReqD.accept r.w) 0 + 1
  else p = len || (x.fresh && p % 16 = 0 && p < len)

/-- LENGTH after the request's commit. -/
def newLength (r : Req) : Nat := if r.verify then ReqD.pos r.w else ReqD.pos r.w + ReqD.count r.w

/-- Logit records are due. -/
def Req.recordsDue (r : Req) : Bool :=
  ReqD.k r.w ≠ 0 && ReqD.count r.w ≠ 0 && (r.verify || ReqD.logits r.w ≠ 0)

/-- Lanes of two requests overlap. -/
def lanesMeet (a b : Req) : Bool :=
  ReqD.count a.w ≠ 0 && ReqD.count b.w ≠ 0
    && ReqD.lane a.w < ReqD.lane b.w + ReqD.count b.w && ReqD.lane b.w < ReqD.lane a.w + ReqD.count a.w

/-- Check 5. -/
def formOk (s : State) (st : Step) (i : Nat) (r : Req) : Bool :=
  ReqD.rsvdOk r.w && posOk s r
    && ReqD.lane r.w + ReqD.count r.w ≤ StepD.shape st.w 0
    && !(st.reqs.zipIdx.any (fun o => o.2 ≠ i && lanesMeet o.1 r))
    && (if r.verify then ReqD.count r.w ≤ 64 && ReqD.logits r.w = 0
        else ReqD.accept r.w = 0x7F && ReqD.logits r.w ≠ 3)
    && (!r.recordsDue || (ReqD.k r.w ≤ 256 && ReqD.out r.w % 64 = 0))
    && newLength r ≤ 1048560

/-- Check 6. -/
def contentOk (cfg : Config) (r : Req) : Bool :=
  (!r.verify || treeOk r.nodes) && r.tokens.all (fun t => t.toNat < cfg.vocab.toNat)

/-- A group that the request's tokens follow, a page of its list, or its tree workspace, is lost (R204, R235). -/
def dataLost (s : State) (r : Req) : Bool :=
  let x := s.seq r.slot
  x.listLost || (x.pages.take (ceilDiv (ReqD.pos r.w) 16)).any (fun g =>
      match g with
      | some g => (s.group g).lost
      | none => false)
    || (r.verify && (match x.tree with
        | some t => t.lost
        | none => false))

/-- Checks 1 to 7 of request i: the status of the first that fails. -/
def checkReq (s : State) (cfg : Config) (st : Step) (i : Nat) (r : Req) : Option (BitVec 8) :=
  let x := s.seq r.slot
  if r.status.isSome then r.status
  else if seqLost s r.w || x.ring ≠ st.ring then some Status.sequenceLost
  else if x.state = .closing then some Status.cancelled
  else if x.key ≠ cfg.key then some Status.doesNotFit
  else if (st.reqs.take i).any (fun o => o.slot = r.slot) then some Status.shapeExceeds
  else if !formOk s st i r then some Status.shapeExceeds
  else
    match (if ReqD.count r.w = 0 then HostRead.ok [] else r.src) with
    | .failed => some Status.lowerFailed
    | .timeout => some Status.lowerTimeout
    | .ok _ => if contentOk cfg r then none else some Status.shapeExceeds

/-- Every request with its status from checks 1 to 7. -/
def checkReqs (s : State) (cfg : Config) (st : Step) : List Req :=
  st.reqs.zipIdx.map (fun r => { r.1 with status := checkReq s cfg st r.2 r.1 })

/-! ## Allocations at step open (R217, R219, R221, R253) -/

/-- What the allocator makes of a request's needs; what is granted stays so while the opening waits for units in use, or
for a group number that a commit releases. -/
inductive OpenGrant where
  | granted (gs : List GroupId) (s : State)
  | refused
  | waits (gs : List GroupId) (s : State)

/-- Units of one page group (R216). -/
def groupUnits (cfg : Config) : Nat := ceilDiv (cfg.prows.toNat * cfg.players.toNat * 512) 4096

/-- A yard-homed evictable group freed, for a number that is then free after the next commit (R217); none when there is no
such group. -/
def freeNumbers (s : State) : Option State :=
  ((oldestEvictable s .yard).filter (fun a => match a.kind with | .group _ => true | _ => false)).map
    (fun a => evictYard a s)

/-- Groups taken whose units are still to be placed tried again. -/
def placeGroups (k : CoupeId) (units : Nat) (gs : List GroupId) (s : State) : State :=
  gs.foldl (fun t g =>
    if (findAlloc t .deck (.group g)).isSome then t
    else
      match allocate .deck (.group g) (some k) units false t with
      | .granted _ u => u
      | .waits u => u
      | .refused => t) s

/-- n page groups more than `gs`, each with its number and its units. -/
def takeGroups (k : CoupeId) (units : Nat) : Nat → List GroupId → State → OpenGrant
  | 0, gs, s =>
    let t := placeGroups k units gs s
    if gs.all (fun g => (findAlloc t .deck (.group g)).isSome) then .granted gs t else .waits gs t
  | n + 1, gs, s =>
    match newGroup s with
    | none =>
      match freeNumbers s with
      | some t => .waits gs t
      | none => if s.freedGroups.isEmpty then .refused else .waits gs s
    | some g =>
      match allocate .deck (.group g) (some k) units false s with
      | .refused => .refused
      | .waits t => takeGroups k units n (gs ++ [g]) t
      | .granted _ t => takeGroups k units n (gs ++ [g]) t

/-- Single runs of a kind. -/
def takeRuns (k : CoupeId) (kd : AllocKind) (units n : Nat) (s : State) : OpenGrant :=
  match allocateRuns .deck (some k) false (List.replicate n (kd, units)) s with
  | .granted _ t => .granted [] t
  | .refused => .refused
  | .waits t => .waits [] t

/-- Blocks that the sequence keeps when the request begins at its POS (R215). -/
def keptPages (x : Seq) (r : Req) : List (Option GroupId) :=
  if !r.verify && ReqD.pos r.w < x.length.toNat then x.pages.take (ReqD.pos r.w / 16) else x.pages

/-- What follows a grant of a request: the next one, from the groups and the state so far; what waits does not hold up the
requests after it. -/
def OpenGrant.bind (o : OpenGrant) (gs : List GroupId) (f : State → OpenGrant) : OpenGrant :=
  match o with
  | .refused => .refused
  | .granted _ t => f t
  | .waits _ t =>
    match f t with
    | .granted gs u => .waits gs u
    | .waits gs u => .waits gs u
    | .refused => .waits gs t

/-- The tree workspace of a first VERIFY, then the groups and list pages of the tokens that the request commits. -/
def grantReq (k : CoupeId) (cfg : Config) (r : Req) (s : State) : OpenGrant :=
  let i := r.slot
  let x := s.seq i
  let blocks := ceilDiv (newLength r) 16
  let tree := if r.verify && (findAlloc s .deck (.tree i)).isNone && x.tree.isNone then 1 else 0
  (takeRuns k (.tree i) (1 + cfg.players.toNat * cfg.prows.toNat) tree s).bind r.groups (fun s1 =>
    match takeGroups k (groupUnits cfg) (blocks - (keptPages x r).length - r.groups.length) r.groups s1 with
    | .refused => .refused
    | .granted gs s2 =>
      (takeRuns k (.listPages i) 1 (listPagesFor blocks - (listPages s2 i).length) s2).bind gs (fun t => .granted gs t)
    | .waits gs s2 => .waits gs s2)

/-- What a request took for a step that does not commit it goes back to the pool (R235). -/
def giveBack (r : Req) (s : State) : State :=
  let i := r.slot
  let s1 := r.groups.foldl (fun t g => dropAlloc (.group g) t) s
  trimList i (if (s1.seq i).tree.isNone then dropAlloc (.tree i) s1 else s1)

/-- Allocations of every request that passed checks 1 to 7, in order; one that is refused ends with NO_BUFFER and keeps
nothing. The requests as they then stand, the state, and whether the opening has to wait. -/
def grantReqs (k : CoupeId) (cfg : Config) : List Req → State → List Req × State × Bool
  | [], s => ([], s, false)
  | r :: rs, s =>
    if r.status.isSome then
      let (l, u, w) := grantReqs k cfg rs (giveBack r s)
      ({ r with groups := [] } :: l, u, w)
    else
      match grantReq k cfg r s with
      | .granted gs t =>
        let (l, u, w) := grantReqs k cfg rs t
        ({ r with groups := gs, passed := true } :: l, u, w)
      | .refused =>
        let (l, u, w) := grantReqs k cfg rs (giveBack r s)
        ({ r with status := some Status.noBuffer, groups := [] } :: l, u, w)
      | .waits gs t =>
        let (l, u, _) := grantReqs k cfg rs t
        ({ r with groups := gs } :: l, u, true)

/-- A request whose data has been lost ends with LOWER_TIER_FAILED and its sequence with it. -/
def markLost (s : State) (r : Req) : Req :=
  if r.passed && r.status.isNone && dataLost s r then { r with status := some Status.lowerFailed } else r

/-! ## Expert routing (R254–R260) -/

/-- The experts that draws choose, at most k of them. -/
def hashDraws (e k : Nat) : Nat → BitVec 64 → List Nat → List Nat
  | 0, _, r => r
  | fuel + 1, h, r =>
    if k ≤ r.length then r
    else
      let h1 := fold h 0x6A09E667F3BCC909
      let x := (h1.toNat / 2 ^ 32 * e) / 2 ^ 32
      hashDraws e k fuel h1 (if r.contains x then r else r ++ [x])

/-- The lowest index not among r. -/
def lowestMissing (r : List Nat) : Nat := ((List.range (r.length + 1)).find? (fun x => !r.contains x)).getD 0

/-- hash_route of R256. -/
def hashRoute (t : BitVec 32) (l e k : Nat) (rkey : BitVec 64) : List Nat :=
  let h := fold rkey (BitVec.ofNat 64 (l * 2 ^ 32 + t.toNat))
  let r := hashDraws e k 64 h []
  (List.range (k - r.length)).foldl (fun acc _ => acc ++ [lowestMissing acc]) r

/-! Map entry fields (R255). -/

namespace MapE
def valid (w : BitVec 32) : Bool := bit w 31
def group (w : BitVec 32) : Nat := bits w 30 23
def member (w : BitVec 32) : Nat := bits w 22 15
def coupe (w : BitVec 32) : Nat := bits w 14 8
def loc (w : BitVec 32) : Nat := bits w 7 0
end MapE

def ExpertMap.entry (m : ExpertMap) (x : Nat) : BitVec 32 := m.entries.getD x 0

/-- Lanes and tokens of the requests that run. -/
def laneTokens (rs : List Req) : List (Nat × BitVec 32) :=
  (rs.filter (fun r => r.status.isNone)).flatMap (fun r =>
    r.tokens.zipIdx.map (fun t => (ReqD.lane r.w + t.2, t.1)))

/-- Routing records of every layer: layer, lane and experts. -/
def hashRouting (cfg : Config) (m : ExpertMap) (rs : List Req) : List (Nat × Nat × List Nat) :=
  (List.range cfg.players.toNat).flatMap (fun l =>
    (laneTokens rs).map (fun t => (l, t.1, hashRoute t.2 l m.e m.k m.key)))

/-- A routing that names an expert whose entry is not VALID. -/
def routingBad (m : ExpertMap) (rt : List (Nat × Nat × List Nat)) : Bool :=
  rt.any (fun x => x.2.2.any (fun e => !MapE.valid (m.entry e)))

/-- Index of a member within its span: groups of eight devices (log entry 23). -/
def memberIndex (group member : Nat) : Nat := group * 8 + member

/-- A (token, expert) pair of a bundle: lane, routing slot, expert (log entry 24). -/
def bundlePair (lane slot e : Nat) : BitVec 128 := put 64 lane ||| put 32 slot ||| put 0 e
def pairExpert (p : BitVec 128) : Nat := bits p 31 0

/-- Pairs of one layer. -/
def layerPairs (rt : List (Nat × Nat × List Nat)) (l : Nat) : List (BitVec 128) :=
  (rt.filter (fun x => x.1 = l)).flatMap (fun x => x.2.2.zipIdx.map (fun e => bundlePair x.2.1 e.2 e.1))

/-- Pairs whose expert lies at a group, and at a member of it. -/
def pairsAt (m : ExpertMap) (group : Nat) (member : Option Nat) (ps : List (BitVec 128)) : List (BitVec 128) :=
  ps.filter (fun p =>
    let w := m.entry (pairExpert p)
    MapE.group w = group && (match member with
      | none => true
      | some x => MapE.member w = x))

/-- A BUNDLE packet of coupe k for member m. -/
def sendBundle (k : CoupeId) (m : Nat) (layer : Nat) (sender : Nat) (ps : List (BitVec 128)) (s : State) : State :=
  sendMember k m 6 0 false (4 + 16 * ps.length) 0
    (.bundle (BitVec.ofNat 16 layer) (BitVec.ofNat 8 sender) ps) s

/-- The bundles of one layer (R259): one to every other member of the own group, one to MEMBER 0 of each other group;
also those without pairs. -/
def sendLayer (k : CoupeId) (m : ExpertMap) (layer : Nat) (ps : List (BitVec 128)) (s : State) : State :=
  let x := s.coupe k
  let own := x.sIndex.toNat
  (otherMembers x).foldl (fun t j =>
    if j / 8 = own / 8 then sendBundle k j layer own (pairsAt m (j / 8) (some (j % 8)) ps) t
    else if j % 8 = 0 then sendBundle k j layer own (pairsAt m (j / 8) none ps) t
    else t) s

/-- The pairs that this member keeps: those of its own place in the map; on a coupe of no span, all. -/
def ownPairs (x : Coupe) (m : ExpertMap) (ps : List (BitVec 128)) : List (BitVec 128) :=
  if x.sCount = 0 then ps else pairsAt m (x.sIndex.toNat / 8) (some (x.sIndex.toNat % 8)) ps

/-- Pairs whose expert lies on coupe d of its device. -/
def pairsOn (m : ExpertMap) (d : CoupeId) (ps : List (BitVec 128)) : List (BitVec 128) :=
  ps.filter (fun p => MapE.coupe (m.entry (pairExpert p)) = d.toNat)

/-- Coupes of the device, other than k, on which experts of some pairs lie. -/
def otherCoupes (m : ExpertMap) (k : CoupeId) (ps : List (BitVec 128)) : List CoupeId :=
  ((ps.map (fun p => BitVec.ofNat 7 (MapE.coupe (m.entry (pairExpert p))))).eraseDups).filter (· ≠ k)

/-- Pairs of another coupe of the device for coupe d: they join its open step, or wait for one (R259). -/
def givePairs (k d : CoupeId) (layer : Nat) (ps : List (BitVec 128)) (s : State) : State :=
  let r := s.run d
  if r.openStep.any (fun st => !st.boundary) then
    s.setRun d { r with bundles := r.bundles ++ [(layer, 256 + k.toNat, ps)] }
  else s.setRun d { r with earlyBundles := r.earlyBundles ++ [(r.spanEpoch.toNat, layer, 256 + k.toNat, ps)] }

/-- Pairs that this device keeps, split by COUPE (R259). -/
def keepPairs (k : CoupeId) (m : ExpertMap) (layer sender : Nat) (ps : List (BitVec 128)) (s : State) : State :=
  let r := s.run k
  let s1 := s.setRun k { r with bundles := r.bundles ++ [(layer, sender, pairsOn m k ps)] }
  (otherCoupes m k ps).foldl (fun t d => givePairs k d layer (pairsOn m d ps) t) s1

/-- Insertion by ascending lane. -/
def insertLane (n : Nat) : List Nat → List Nat
  | [] => [n]
  | x :: xs => if n < x then n :: x :: xs else x :: insertLane n xs

/-- Lanes of one expert of this coupe, ascending. -/
def expertLanes (m : ExpertMap) (loc : Nat) (ps : List (BitVec 128)) : List Nat :=
  (ps.filter (fun p => MapE.loc (m.entry (pairExpert p)) = loc)).foldl (fun l p => insertLane (bits p 127 64) l) []

/-- The largest MAX0 of a stage. -/
def largestMax (cfg : Config) (stage : Nat) : Nat :=
  ((cfg.buckets.filter (fun b => Bkt.stage b = stage)).map (fun b => Bkt.max b 0)).foldl max 0

/-- Lists of at most n elements, in order. -/
def chunks (n : Nat) : Nat → List Nat → List (List Nat)
  | 0, _ => []
  | fuel + 1, l => if l.isEmpty then [] else l.take n :: chunks n fuel (l.drop n)

/-- The runs of one expert with some lanes (R260); none when no bucket of the expert stage takes the shape. -/
def runsOf (cfg : Config) (shape : List Nat) (layer loc : Nat) (lanes : List Nat) : Option (List ExpertRun) :=
  let n := max 1 (largestMax cfg cfg.expertStage)
  (chunks n lanes.length lanes).mapM (fun l =>
    match chooseBucket cfg cfg.expertStage (l.length :: shape.drop 1) with
    | .bucket b => some ⟨layer, loc, b, l⟩
    | _ => none)

/-- The runs of a layer, LOCAL ascending. -/
def layerRuns (cfg : Config) (m : ExpertMap) (shape : List Nat) (layer : Nat) (ps : List (BitVec 128)) :
    Option (List ExpertRun) :=
  ((List.range 256).mapM (fun loc => runsOf cfg shape layer loc (expertLanes m loc ps))).map List.flatten

/-- Every pair of a layer has come: this device's own, and a bundle from every other member (R348). -/
def layerHere (s : State) (k : CoupeId) (st : Step) (layer : Nat) : Bool :=
  let x := s.coupe k
  st.routed.contains layer && (!st.spans || x.sCount = 0 || x.spanId = 0
    || (otherMembers x).all (fun j => (s.run k).bundles.any (fun b => b.1 = layer && b.2.1 = j)))

/-- The templates that a step has dispatched so far: its bucket's and its expert runs'. -/
def stepTemplates (cfg : Config) (st : Step) : List (BitVec 1024) :=
  ((st.bucket.map (bucketTemplates cfg)).getD []) ++ st.expertRuns.flatMap (fun r => bucketTemplates cfg r.bucket)

/-- One run's tasks follow those of the step (R260). -/
def addRun (k : CoupeId) (cfg : Config) (run : ExpertRun) (s : State) : State :=
  match (s.run k).openStep with
  | none => s
  | some st =>
    let shape := run.lanes.length :: (StepD.shapes st.w).drop 1
    setStep k { st with
      expertRuns := st.expertRuns ++ [run]
      toDispatch := st.toDispatch ++ dispatchList s cfg (step16 s k) shape (stepTemplates cfg st) run.bucket
      layerTasks := if cfg.streams.isEmpty then st.layerTasks
        else st.layerTasks ++ (bucketTemplates cfg run.bucket).map (fun t => (Tpl.core t, Config.templateLayer t)) } s

/-- The command lists of the layers whose pairs have come, layers ascending; a run that no bucket takes ends the step (log
entry 139). -/
def buildLayers (k : CoupeId) (cfg : Config) (m : ExpertMap) : Nat → State → State
  | 0, s => s
  | fuel + 1, s =>
    match (s.run k).openStep with
    | none => s
    | some st =>
      if st.boundary || cfg.players.toNat ≤ st.built || !layerHere s k st st.built then s
      else
        let ps := ((s.run k).bundles.filter (fun b => b.1 = st.built)).flatMap (fun b => b.2.2)
        match layerRuns cfg m (StepD.shapes st.w) st.built ps with
        | none => endStep k Status.shapeExceeds 0 0 s
        | some runs =>
          buildLayers k cfg m fuel (runs.foldl (fun t r => addRun k cfg r t) (setStep k { st with built := st.built + 1 } s))

/-- The routing of the layers dispatched: bundles sent, the pairs of this device kept, and what can be built. -/
def dispatchLayers (k : CoupeId) (cfg : Config) (m : ExpertMap) (rt : List (Nat × Nat × List Nat)) (layers : List Nat)
    (s : State) : State :=
  let own := (s.coupe k).sIndex.toNat
  let s1 := layers.foldl (fun t l =>
    let ps := layerPairs rt l
    let t1 := if (t.coupe k).sCount = 0 || (t.coupe k).spanId = 0 then t else sendLayer k m l ps t
    let t2 := keepPairs k m l own (ownPairs (t1.coupe k) m ps) t1
    match (t2.run k).openStep with
    | none => t2
    | some st => setStep k { st with routed := st.routed ++ [l] } t2) s
  buildLayers k cfg m cfg.players.toNat s1

/-- A bundle joins the open step: MEMBER 0 of the group splits one from another group and forwards its parts; the pairs of
this member's experts are kept (R259, R348). A second one of the same layer and sender adds nothing. -/
def joinBundle (k : CoupeId) (cfg : Config) (m : ExpertMap) (layer sender : Nat) (ps : List (BitVec 128)) (s : State) :
    State :=
  let x := s.coupe k
  let own := x.sIndex.toNat
  let r := s.run k
  if r.bundles.any (fun b => b.1 = layer && b.2.1 = sender) then s
  else if 256 ≤ sender then s.setRun k { r with bundles := r.bundles ++ [(layer, sender, ps)] }
  else
    let s1 := if sender / 8 ≠ own / 8 && own % 8 = 0 then
        ((otherMembers x).filter (fun j => j / 8 = own / 8)).foldl (fun t j =>
          sendBundle k j layer sender (pairsAt m (j / 8) (some (j % 8)) ps) t) s
      else s
    buildLayers k cfg m cfg.players.toNat (keepPairs k m layer sender (ownPairs x m ps) s1)

/-- Bundles that came before the step or attempt opened join it; those of another span epoch are stale. -/
def joinEarly (k : CoupeId) (cfg : Config) (m : ExpertMap) (s : State) : State :=
  let r := s.run k
  (r.earlyBundles.filter (fun b => b.1 = r.spanEpoch.toNat)).foldl (fun t b =>
    joinBundle k cfg m b.2.1 b.2.2.1 b.2.2.2 t) (s.setRun k { r with earlyBundles := [] })

/-- Routing slot j of a routing record (R257). -/
def routingSlots (es : List Nat) : List (BitVec 32) := es.map (fun e => BitVec.ofNat 32 (2 ^ 31 + e))

/-- The routing area of a layer: ARG1 of its gate task, in the form of RREAD (R78, R257). -/
def routingArea (cfg : Config) (shape : List Nat) (layer : Nat) : Option (CoreId × Nat) :=
  ((cfg.gates[layer]?).bind (fun g => cfg.templates[g.1]?)).map (fun t =>
    let a := Task.arg1 (dispatchRecord cfg 0 0 shape 0 t)
    (BitVec.ofNat 12 (bits a 26 15), bits a 14 0))

/-- One row of eight routing records, lanes ascending; a lane without a token has no VALID slot. -/
def routingRow (rt : List (Nat × Nat × List Nat)) (layer row : Nat) : Row :=
  Row.ofWords32 ((List.range 8).flatMap (fun i =>
    let es := ((rt.find? (fun x => x.1 = layer && x.2.1 = 8 * row + i)).map (·.2.2)).getD []
    (routingSlots es ++ List.replicate (16 - es.length) 0).take 16))

/-- The routing records that the ring engine writes under hash routing (R257). -/
def writeRouting (k : CoupeId) (cfg : Config) (st : Step) (rt : List (Nat × Nat × List Nat)) (s : State) : State :=
  (List.range cfg.players.toNat).foldl (fun t l =>
    match routingArea cfg (StepD.shapes st.w) l with
    | none => t
    | some (c, row) =>
      if coupeOf t c ≠ some k then t
      else (List.range (ceilDiv (StepD.shape st.w 0) 8)).foldl (fun u i => writeBench c (row + i) (routingRow rt l i) false u) t)
    s

/-- How a token's expert outputs combine on the device that holds its lanes: in ascending routing slot, each by one fma of
weight and output into the running sum from +0 (R259). The tasks of the configuration do it. -/
def combineExperts (outs : List (F32 × F32)) : F32 := outs.foldl (fun acc o => F32.fma o.1 o.2 acc) 0

/-! ## Re-arm (R168, R238) -/

/-- Re-arm entries: handle and BASE. -/
def rearmEntries (n : Nat) (src : HostRead) : List (BitVec 16 × BitVec 48) :=
  let ws := readWords src (4 * n)
  (List.range n).map (fun i =>
    let hi := ws.getD (4 * i + 3) 0
    let lo := ws.getD (4 * i + 2) 0
    (BitVec.ofNat 16 (bits hi 31 16), BitVec.ofNat 48 (bits hi 15 0 * 2 ^ 32 + lo.toNat)))

/-- The feeds' BASEs with the entries applied in order; an entry that names no feed of the stage changes nothing. -/
def rearm (cfg : Config) (stage : Nat) (es : List (BitVec 16 × BitVec 48)) (old : List (Nat × BitVec 48)) :
    List (Nat × BitVec 48) :=
  es.foldl (fun acc e =>
    (cfg.feeds.zipIdx.filter (fun f => Feed.queue f.1 = e.1 && Feed.stage f.1 = stage)).foldl (fun a f =>
      a.filter (fun o => o.1 ≠ f.2) ++ [(f.2, e.2)]) acc) old

/-- The BASE of feed record i. -/
def feedBase (r : CoupeRun) (f : BitVec 128) (i : Nat) : BitVec 48 :=
  ((r.feeds.find? (fun e => e.1 = i)).map (·.2)).getD (Feed.base f)

/-- The descriptor that the sequencer builds for a feed's walk (R167, R177). -/
def feedDesc (k : CoupeId) (step : BitVec 16) (base : BitVec 48) (f : BitVec 128) : BitVec 512 :=
  put 504 1 ||| put 500 2 ||| put 432 base.toNat ||| put 368 (Feed.queue f).toNat ||| put 328 (Feed.walk f)
    ||| put 301 k.toNat ||| put 287 0x3FFF ||| put 271 step.toNat

/-- The walks of the stage's feeds for a step. -/
def feedPlansOf (k : CoupeId) (cfg : Config) (r : CoupeRun) (stage : Nat) (step : BitVec 16) : List FeedRun :=
  (cfg.feeds.zipIdx.filter (fun f => Feed.stage f.1 = stage && Feed.queue f.1 ≠ 0xFFFF)).map (fun f =>
    ⟨Feed.queue f.1, some (feedDesc k step (feedBase r f.1 f.2) f.1), if Feed.end_ f.1 = 1 then some .endOfStream else none⟩)

/-- The descriptor that the sequencer builds to read tiles from the deck into a bench (R165, R166, R177). -/
def loadDesc (k : CoupeId) (step : BitVec 16) (src : Nat) (c : CoreId) (row walk : Nat) (barrier : Option (BitVec 8)) :
    BitVec 512 :=
  put 504 1 ||| put 432 src ||| put 368 (benchAddr c row) ||| put 328 walk ||| put 301 k.toNat ||| put 287 0x3FFF
    ||| put 271 step.toNat ||| (match barrier with
      | some b => put 269 1 ||| put 261 b.toNat
      | none => 0)

/-- Source rows of `count` tiles of a walk from an image row on, in the deck copy. -/
def loadPlan (s : State) (cfg : Config) (w : BitVec 512) (first count : Nat) (shape : List Nat) :
    List (Option (BitVec 64)) :=
  let runs := copyRuns s cfg.image
  ((walkTiles w shape).take count).flatMap (fun t => (List.range (Walk.tileRows w)).map (fun (i : Nat) =>
    t.map (fun off =>
      let row := ((first : Int) + off + (i : Int)).toNat
      BitVec.ofNat 64 (copyUnit runs (row / 8) + row % 8 * 512))))

/-- The transfers of a step's streamed layers, layers ascending (R165), and of its skid chains (R166; log entry 136). -/
def stepLoads (s : State) (k : CoupeId) (cfg : Config) (step : BitVec 16) (shape : List Nat) : List StepLoad :=
  let runs := copyRuns s cfg.image
  let at_ (row : Nat) : Nat := copyUnit runs (row / 8) + row % 8 * 512
  (cfg.layers.zipIdx.flatMap (fun b => cfg.streams.filterMap (fun x =>
      (cfg.walks[x.walk]?).map (fun w =>
        let first := x.firsts.getD b.2 0
        ⟨loadDesc k step (at_ first) x.core (x.areas.getD (b.2 % (cfg.prefetch + 1)) 0) x.walk (some b.1),
          loadPlan s cfg w first x.count shape, .layer b.2, false⟩))))
    ++ cfg.chains.zipIdx.filterMap (fun x => (cfg.walks[x.1.walk]?).map (fun w =>
        ⟨loadDesc k step (at_ x.1.first) (x.1.members.headD 0) x.1.row x.1.walk none,
          loadPlan s cfg w x.1.first (walkTiles w shape).length shape, .chain x.2, false⟩))

/-- Every feed of the step starts. -/
def startFeeds (k : CoupeId) (plans : List FeedRun) (s : State) : State :=
  plans.foldl (fun t p => runFeed k p.handle t) (s.setRun k { s.run k with feedPlans := (s.run k).feedPlans ++ plans })

/-! ## Zero-shape steps (R158) -/

/-- Queues into which a zero-shape step pushes an empty-output marker. -/
def emptyQueues (cfg : Config) (stage : Nat) : List (BitVec 16) :=
  (cfg.queues.map QRec.handle).filter (fun h =>
      (stageProduces cfg stage h && !stageConsumes cfg stage h))
    ++ (cfg.feeds.filter (fun f => Feed.stage f = stage && Feed.queue f ≠ 0xFFFF)).map Feed.queue

/-- A memory-scope barrier that names the stage raised to its target under the step's tag. -/
def raiseBarriers (k : CoupeId) (cfg : Config) (stage : Nat) (s : State) : State :=
  (cfg.barriers.filter (fun w => Barrier.memory w && Barrier.arrivers w stage)).foldl (fun t w =>
    let (a, tag) := barrierWord t k w
    if !wordStands t a.toNat then t
    else
      (List.range (Barrier.target w)).foldl (fun u _ =>
        if wordTag u a.toNat = tag && Barrier.target w ≤ wordCount u a.toNat then u else arriveMemory a.toNat tag u) t) s

/-! ## Compaction of the accepted path (R253) -/

/-- Bytes of one token's entry in one layer. -/
def entryBytes (cfg : Config) : Nat := cfg.prows.toNat * 32

/-- Address of node j of layer l in half h. -/
def nodeAddr (cfg : Config) (t : Tree) (half : Bool) (l j : Nat) : Nat :=
  t.addr.toNat + 4096 + b2n half * (64 * cfg.players.toNat * entryBytes cfg) + (l * 64 + j) * entryBytes cfg

/-- Address of token position p of layer l in its group (log entry 25). -/
def tokenAddr (cfg : Config) (home : Nat) (l p : Nat) : Nat :=
  home + l * cfg.prows.toNat * 512 + (p % 16) * entryBytes cfg

/-- One entry copied; whether it was poisoned. -/
def copyEntry (src dst n : Nat) (s : State) : Bool × State :=
  let (p, s1) := readGranules (granulesOf src n) s
  (p, writeBytesAt dst (bytesLE n (Memory.read src n s1.mem)) p s1)

/-- HOME of block b of a request's sequence as the step sees it: its page list, then the groups the step took. -/
def blockHome (s : State) (i : SlotId) (r : Req) (b : Nat) : Option Nat :=
  let kept := keptPages (s.seq i) r
  if b < kept.length then (kept[b]?).join.map (fun g => (s.group g).home.toNat)
  else ((r.groups[b - kept.length]?).bind (fun g => findAlloc s .deck (.group g))).map (·.addr.toNat)

/-- The accepted path's entries copied from the current half into the pages; whether any was poisoned. -/
def compactPath (cfg : Config) (r : Req) (s : State) : Bool × State :=
  let i := r.slot
  match (s.seq i).tree, (s.seq i).pending with
  | some t, some h =>
    (acceptedPath s r).zipIdx.foldl (fun acc n =>
      (List.range cfg.players.toNat).foldl (fun a l =>
        let p := h.pos + n.2
        match blockHome a.2 i r (p / 16) with
        | none => a
        | some home =>
          let (b, u) := copyEntry (nodeAddr cfg t t.parity l n.1) (tokenAddr cfg home l p) (entryBytes cfg) a.2
          (a.1 || b, u)) acc) (false, s)
  | _, _ => (false, s)

/-- Compaction for every VERIFY that runs; a poisoned entry is consumed by its request (R359). -/
def compactAll (cfg : Config) : List Req → State → List Req × State
  | [], s => ([], s)
  | r :: rs, s =>
    let (p, s1) := if r.verify && r.status.isNone then compactPath cfg r s else (false, s)
    let r1 := if p then { r with poisoned := true, detail := faultRecord 1 0xFFF 0 2 1 2, dkind := 7 } else r
    let (l, s2) := compactAll cfg rs s1
    (r1 :: l, s2)

/-! ## Opening (R241, R242) -/

/-- Every ENTRY barrier of a step's stage is open (R171). With HANDOFF 0 the word is that at device address 8·SLOT: DESIGN
CHOICE (log entry 127). -/
def entryOpen (s : State) (cfg : Config) (w : BitVec 512) : Bool :=
  cfg.barriers.all (fun b =>
    !(Barrier.memory b && Barrier.entry b && Barrier.stage b = StepD.stage w)
      || (let a := stepHandoff w + 8 * Barrier.slot b
          wordTag s a = stepHtag w && Barrier.target b ≤ wordCount s a))

/-- Every request of a step has been cancelled: nothing holds it unopened any more (R171). -/
def stepCancelled (st : Step) : Bool := !st.reqs.isEmpty && st.reqs.all (fun r => r.status = some Status.cancelled)

/-- The handoff block that a step names was in a deck stack that has failed (R204). -/
def handoffLost (s : State) (w : BitVec 512) : Bool :=
  stepHandoff w ≠ 0 && isDeck (stepHandoff w) && (s.stack (stackOf (stepHandoff w))).state = .failed

/-- The unit of a step's handoff block charged to the coupe that names it first, where nothing else has it (R185; log entry
135). -/
def takeHandoff (k : CoupeId) (w : BitVec 512) (s : State) : State :=
  let a := stepHandoff w
  if a = 0 || !isDeck a || inReserve a || !stackInPool s (stackOf a)
      || s.dur.allocs.any (fun x => x.addr.toNat < a + 4096 && a < x.addr.toNat + x.units * 4096) then s
  else addAlloc ⟨.deck, .handoff (BitVec.ofNat 48 a), some k, BitVec.ofNat 48 a, 1, none⟩ s

/-- Whether a job other than the resident one has a ready step (R286). -/
def otherJobReady (s : State) (k : CoupeId) : Bool :=
  (s.run k).ready.any (fun st => ringJob s st.ring ≠ (s.coupe k).curJob)

/-- A commit waits for the host link (R315): changes, a finished descriptor or a step at its boundary are there to publish. -/
def commitWaits (s : State) : Bool :=
  !s.power.linkUp && (!s.due.isEmpty
    || s.rings.any (fun e => (match e.2.accepted with
      | x :: _ => x.state.isDone
      | [] => false))
    || s.runs.any (fun e => (match e.2.openStep with
      | some st => st.boundary
      | none => false)))

/-- The coupe may open a step now. -/
def coupeMayOpen (s : State) (k : CoupeId) : Bool :=
  let x := s.coupe k
  let r := s.run k
  x.state = .bound && r.openStep.isNone && r.action.desc.isNone && !r.clockChanging
    && (s.power.device = .early || s.power.device = .ready)
    && s.power.resetPhase = .none && !commitWaits s
    && !bit s.funcReset x.func.toNat
    && x.standList.all (fun g => (s.stand g).unpatrolled.isEmpty)
    && !(x.tshare && x.quantum.toNat ≤ r.turn && otherJobReady s k)

/-- A ready step that may open: all its requests have come, its job is resident, and its ENTRY barriers are open, or will
not be: it has been cancelled, or its handoff block is lost. -/
def stepMayOpen (s : State) (k : CoupeId) (cfg : Config) (st : Step) : Bool :=
  st.reqs.length = StepD.nreq st.w && (!(s.coupe k).tshare || ringJob s st.ring = (s.coupe k).curJob)
    && (entryOpen s cfg st.w || stepCancelled st || handoffLost s st.w)

/-- The first accepted of some steps, the lower ring on a tie. -/
def firstStep (l : List Step) : Option Step :=
  l.foldl (fun best st =>
    match best with
    | none => some st
    | some b => if st.stamp < b.stamp || (st.stamp = b.stamp && st.ring.toNat < b.ring.toNat) then some st else some b) none

/-- A ready step leaves the list. -/
def dropReady (k : CoupeId) (st : Step) (s : State) : State :=
  s.setRun k { s.run k with ready := (s.run k).ready.filter (fun x => !(x.ring = st.ring && x.pos = st.pos)) }

/-- A step refused at open: the STEP and its requests complete with a status, a cancelled request with CANCELLED
(R157, R242, R258, R264). The step counter does not advance (log entry 26). -/
def refuseStep (k : CoupeId) (st : Step) (status : BitVec 8) (s : State) : State :=
  let n := (s.coupe k).stepctr + 1
  let s1 := st.reqs.foldl (fun t r => giveBack r t) (dropReady k st s)
  st.reqs.foldl (fun t r =>
    finishAt st.ring r.pos (if r.status = some Status.cancelled then Status.cancelled else status) 0 0 n t)
    (finishAt st.ring st.pos status 0 0 n s1)

/-- Routes to the other members at step open (R340). -/
def frozenRoutes (s : State) (k : CoupeId) : List (Nat × Bool × Option LinkId) :=
  let x := s.coupe k
  ((otherMembers x).filterMap (memberDev s x.spanId)).flatMap (fun d =>
    [(d, false, route s d false), (d, true, route s d true)])

/-- Per-step counts of a queue start at 0 (R160, R331). -/
def Queue.stepStart (q : Queue) : Queue := { q with padRow := 0, ord := 0 }

/-- A step-wide status that is decided as the step opens: a span conflict, a digest mismatch, a lost handoff block, a failed
re-arm read. -/
def openStatus (s : State) (k : CoupeId) (st : Step) (src : HostRead) : Option (BitVec 8) :=
  if st.spans && (s.run k).spanConflict then some Status.shardTimeout
  else if st.spans && (s.coupe k).digestBad && !(s.coupe k).firstSpanStep then some Status.doesNotFit
  else if handoffLost s st.w then some Status.lowerFailed
  else if StepD.nrearm st.w = 0 then none
  else
    match src with
    | .ok _ => none
    | .failed => some Status.lowerFailed
    | .timeout => some Status.lowerTimeout

/-- The open step with its shape taken: tasks to dispatch, feeds, or the marks of a zero-shape step. -/
def launch (k : CoupeId) (cfg : Config) (choice : ShapeChoice) (s : State) : State :=
  match (s.run k).openStep with
  | none => s
  | some st =>
    let stage := StepD.stage st.w
    match choice with
    | .bucket b =>
      let l := dispatchList s cfg (step16 s k) (StepD.shapes st.w) [] b
      startFeeds k (feedPlansOf k cfg (s.run k) stage (step16 s k))
        (setStep k { st with
          bucket := some b
          toDispatch := l
          loads := stepLoads s k cfg (step16 s k) (StepD.shapes st.w)
          layerTasks := if cfg.streams.isEmpty then []
            else (bucketTemplates cfg b).map (fun t => (Tpl.core t, Config.templateLayer t)) } s)
    | _ =>
      checkBoundary k (startFeeds k ((emptyQueues cfg stage).map (fun h => ⟨h, none, some .emptyOutput⟩))
        (raiseBarriers k cfg stage s))

/-- The experts of an open step: its routing records and bundles, the early ones of the members, the runs (R256–R260). -/
def openExperts (k : CoupeId) (cfg : Config) (s : State) : State :=
  match (s.run k).openStep with
  | none => s
  | some st =>
    let m := (s.coupe k).map
    if !cfg.experts || st.boundary || st.bucket.isNone then s
    else
      let s1 := if StepD.route st.w = 0 then
          dispatchLayers k cfg m st.routing (List.range cfg.players.toNat) (writeRouting k cfg st st.routing s)
        else s
      joinEarly k cfg m s1

/-- The step opens: the counter advances, the map changes, what was granted is held. -/
def openWith (k : CoupeId) (cfg : Config) (st : Step) (choice : ShapeChoice) (rt : List (Nat × Nat × List Nat))
    (src : HostRead) (reqs : List Req) (s : State) : State :=
  let x := s.coupe k
  let number := x.stepctr + 1
  let early := openStatus s k st src
  let s1 := (settleHits k (dropReady k st (takeHandoff k st.w s))).setCoupe k
    { x with stepctr := number, map := x.nextMap.getD x.map, nextMap := none }
  let (reqs1, s2) := compactAll cfg (reqs.map (markLost s1)) s1
  let r := s2.run k
  let stage := StepD.stage st.w
  let mine := r.heldOutcomes.filter (fun o => st.spans && o.xtag = StepD.xtag st.w)
  let s3 := s2.setRun k { r with
    openStep := some { st with
      reqs := reqs1
      number := number
      routing := rt
      routes := frozenRoutes s2 k
      outcomes := mine }
    heldOutcomes := r.heldOutcomes.filter (fun o => !(st.spans && o.xtag = StepD.xtag st.w))
    queues := mapQueues Queue.stepStart r.queues
    feeds := rearm cfg stage (rearmEntries (StepD.nrearm st.w) src) r.feeds
    lastProgress := s2.timebase
    lastCross := s2.timebase
    shardWait := none
    isolation := []
    turn := if x.tshare && otherJobReady s2 k then r.turn + 1 else 0 }
  match early with
  | some status => endStep k status 0 0 s3
  | none => openExperts k cfg (launch k cfg choice s3)

/-- A ready step that waits keeps the groups that its requests have taken. -/
def holdReady (k : CoupeId) (st : Step) (rs : List Req) (s : State) : State :=
  let r := s.run k
  s.setRun k { r with ready := r.ready.map (fun x =>
    if x.ring = st.ring && x.pos = st.pos then
      { x with reqs := (x.reqs.zip rs).map (fun p => { p.1 with groups := p.2.groups }) }
    else x) }

/-- The chosen step is checked and opens, is refused, or waits for units or numbers. -/
def openStep (k : CoupeId) (cfg : Config) (st : Step) (src : HostRead) (s : State) : State :=
  match chooseBucket cfg (StepD.stage st.w) (StepD.shapes st.w) with
  | .refused => refuseStep k st Status.shapeExceeds s
  | choice =>
    let reqs := checkReqs s cfg st
    let m := (s.coupe k).nextMap.getD (s.coupe k).map
    let rt := if cfg.experts && StepD.route st.w = 0 then hashRouting cfg m reqs else []
    if routingBad m rt then refuseStep k st Status.doesNotFit s
    else
      let (rs, t, wait) := grantReqs k cfg reqs s
      if wait then holdReady k st rs t else openWith k cfg st choice rt src rs t

/-- STEP_OPEN: the first ready step of coupe k that may open opens; `src` is the re-arm list that the host gives. -/
def execStepOpen (k : CoupeId) (src : HostRead) (s : State) : Out :=
  match bindingOf s k with
  | none => .next s
  | some cfg =>
    if coupeMayOpen s k then
      match firstStep ((s.run k).ready.filter (stepMayOpen s k cfg)) with
      | none => .next s
      | some st => .next (openStep k cfg st src s)
    else .next s

/-! ## Threshold routing (R257) -/

/-- The experts of one routing record: the slots up to the first that is not VALID. -/
def recordExperts (row : Row) (i : Nat) : List Nat :=
  (((List.range 16).map (fun j => Row.word32 row (16 * i + j))).takeWhile (fun w => bit w 31)).map (fun w => bits w 11 0)

/-- The routing barrier of a layer is open: as many gate tasks have arrived as its entry needs (R169, R257). -/
def routingOpen (s : State) (k : CoupeId) (cfg : Config) (layer : Nat) : Bool :=
  match cfg.gates[layer]? with
  | none => false
  | some g =>
    match cfg.barriers[g.2.toNat]? with
    | none => false
    | some w => barrierOpen s k g.2.toNat w (Barrier.target w)

/-- A layer of threshold routing read from its area: what the records of the step's tokens say, lanes ascending. -/
def readRouting (k : CoupeId) (cfg : Config) (st : Step) (layer : Nat) (s : State) : List (Nat × Nat × List Nat) × State :=
  match routingArea cfg (StepD.shapes st.w) layer with
  | none => ([], s)
  | some (c, row) =>
    if coupeOf s c ≠ some k then ([], s)
    else
      let (rows, t) := readBenchRows c 2 ((List.range (ceilDiv (StepD.shape st.w 0) 8)).map (row + ·)) s
      ((laneTokens st.reqs).map (fun x =>
        (layer, x.1, recordExperts (rows.getD (x.1 / 8) (0, false)).1 (x.1 % 8))), t)

/-- THRESHOLD_ROUTE_DISPATCH: the layer's routing barrier is open; the sequencer reads the routing records through the remote
path and dispatches the layer. A record that names an expert whose entry is not VALID ends the step. -/
def execThresholdRouteDispatch (k : CoupeId) (layer : BitVec 16) (s : State) : Out :=
  match (s.run k).openStep, bindingOf s k with
  | some st, some cfg =>
    let l := layer.toNat
    if st.boundary || !cfg.experts || st.bucket.isNone || StepD.route st.w ≠ 1 || st.routed.contains l
        || cfg.players.toNat ≤ l || coupeHalting s k || !routingOpen s k cfg l then .next s
    else
      let m := (s.coupe k).map
      let (rt, s1) := readRouting k cfg st l s
      if routingBad m rt then .next (endStep k Status.doesNotFit 0 0 s1)
      else
        .next (checkBoundary k (dispatchLayers k cfg m rt [l] (setStep k { st with routing := st.routing ++ rt } s1)))
  | _, _ => .next s

end Sys2Proof.Machine
end

