-- ==== Sys2Proof/Machine/StepRun.lean ====
section
/-! DEFINITION. What befalls an open step: agreement over a span, the sentinel, the shard deadline, replay, patrol, the
end of a bench move and the rebuilding of the scent table (R67, R139–R143, R231, R244, R349, R350, R361–R367). -/

namespace Sys2Proof.Machine

/-! ## Agreement (R244, R273, R349, R363) -/

/-- What the members of a span make of a step: the step's status, one per request, whether the digests still have to be
made equal, and those known then (R273). -/
structure Agreement where
  step : BitVec 8
  reqs : List (BitVec 8)
  digestBad : Bool
  digests : List (Nat × BitVec 64)
  deriving DecidableEq, Repr

/-- This member's OUTCOME of the attempt as it stands. -/
def ownOutcome (s : State) (k : CoupeId) (st : Step) : HeldOutcome :=
  ⟨(s.coupe k).sIndex, StepD.xtag st.w, BitVec.ofNat 2 st.attempt, BitVec.ofNat 7 (StepD.nreq st.w), st.result,
    st.reqs.map st.final, digestOf s k, (s.coupe k).sCount⟩

/-- The other members' OUTCOMEs of the attempt, by ascending index; none while one is missing. -/
def otherOutcomes (s : State) (k : CoupeId) (st : Step) : Option (List HeldOutcome) :=
  (otherMembers (s.coupe k)).mapM (fun m =>
    st.outcomes.find? (fun o => o.member.toNat = m && o.attempt.toNat = st.attempt))

/-- Whether another member reports REPLAY for the attempt. -/
def replayAsked (st : Step) : Bool :=
  st.outcomes.any (fun o => o.attempt.toNat = st.attempt && o.status = Status.replay)

/-- The first status that is not OK. -/
def firstBad (l : List (BitVec 8)) : BitVec 8 := (l.find? (· ≠ Status.ok)).getD Status.ok

/-- The status that stands for REPLAY when no attempt is left (R361). -/
def spent (x : BitVec 8) : BitVec 8 := if x = Status.replay then Status.restartRequired else x

/-- OUTCOMEs of every member, in ascending member index. -/
def insertOutcome (o : HeldOutcome) : List HeldOutcome → List HeldOutcome
  | [] => [o]
  | x :: xs => if o.member.toNat < x.member.toNat then o :: x :: xs else x :: insertOutcome o xs

/-- The digests known after the OUTCOMEs of a step: the latest of each member. -/
def mergeDigests (l : List (Nat × BitVec 64)) (os : List HeldOutcome) : List (Nat × BitVec 64) :=
  os.foldl (fun acc o =>
    match o.digest with
    | some d => acc.filter (fun e => e.1 ≠ o.member.toNat) ++ [(o.member.toNat, d)]
    | none => acc) l

/-- Two members' digests differ. -/
def digestsDiffer (l : List (Nat × BitVec 64)) : Bool := l.any (fun d => some d.2 ≠ (l.head?).map (·.2))

/-- Digests have differed and not every member has been bound anew. -/
def digestsWanting (x : Coupe) (l : List (Nat × BitVec 64)) : Bool :=
  x.digestBad && (List.range x.sCount.toNat).any (fun m => !l.any (fun e => e.1 = m))

/-- The agreement, once every member's OUTCOME of the attempt is there and none asks for a replay that can be run. -/
def agreement (s : State) (k : CoupeId) (st : Step) : Option Agreement :=
  match otherOutcomes s k st with
  | none => none
  | some others =>
    if replayAsked st && st.attempt < 3 then none
    else
      let os := insertOutcome (ownOutcome s k st) others
      let n := st.reqs.length
      let x := s.coupe k
      let ds := mergeDigests x.digests os
      if os.any (fun o => o.nreq.toNat ≠ StepD.nreq st.w) then
        some ⟨Status.shardTimeout, List.replicate n Status.shardTimeout, x.digestBad, ds⟩
      else if digestsDiffer ds then some ⟨Status.doesNotFit, List.replicate n Status.doesNotFit, true, []⟩
      else if digestsWanting x ds then some ⟨Status.doesNotFit, List.replicate n Status.doesNotFit, true, ds⟩
      else
        some ⟨spent (firstBad (os.map (·.status))),
          (List.range n).map (fun i =>
            firstBad (os.map (fun o =>
              if o.status = Status.replay then Status.restartRequired else o.statuses.getD i Status.ok))), false, ds⟩

/-! ## Cross-device waits (R350) -/

/-- Stalled cores of a coupe (R140); a halted core does not count (R141). -/
def stalledCores (s : State) (k : CoupeId) : List CoreId :=
  (coupeCores s k).filter (fun c => (s.core c).task.isSome && (s.core c).stall.latched && !(s.core c).halted)

/-- Cores of the coupe that wait on a span queue: in IN_EMPTY, or in OUT_FULL for a member's FLUSH. -/
def spanWaiters (s : State) (k : CoupeId) : List CoreId :=
  (stalledCores s k).filter (fun c =>
    let x := s.core c
    isSpanHandle x.lastQueue &&
      (x.stall = .inEmpty || (x.stall = .outFull && !isReduction x.lastQueue
        && !spanGate (s.run k) (handlePartner x.lastQueue))))

/-- Bundles that the open step still waits for. -/
def bundlesMissing (s : State) (k : CoupeId) (st : Step) : Bool :=
  let x := s.coupe k
  match bindingOf s k with
  | some cfg =>
    cfg.experts && st.spans && !st.boundary && x.sCount ≠ 0 && st.bucket.isSome
      && ((s.run k).bundles.filter (fun b => b.2.1 < 256 && b.2.1 ≠ x.sIndex.toNat)).length
        < (x.sCount.toNat - 1) * cfg.players.toNat
  | none => false

/-- A wait for another device other than a core's. -/
def otherCrossWait (s : State) (k : CoupeId) : Bool :=
  s.reductions.any (fun r => r.coupe = k) ||
    match (s.run k).openStep with
    | none => false
    | some st => bundlesMissing s k st || (st.spans && st.outcomeSent && (otherOutcomes s k st).isNone)

def crossWait (s : State) (k : CoupeId) : Bool := otherCrossWait s k || !(spanWaiters s k).isEmpty

/-! ## The stall sentinel (R139–R143) -/

/-- A threshold in ticks. -/
def Coupe.threshold (x : Coupe) : Nat := x.sentinel.toNat * 1000

/-- The instants at which the sentinel and the shard deadline are evaluated. -/
def gridInstant (s : State) : Bool := s.timebase.toNat % 1000 = 0

/-- A coupe that runs: not halted, saved or restored. -/
def coupeRuns (s : State) (k : CoupeId) : Bool :=
  (s.coupe k).state = .bound || (s.coupe k).state = .draining
    || ((s.coupe k).state = .preempting && !coupeHalting s k)

/-- Whether the sentinel fires for the coupe. -/
def sentinelFires (s : State) (k : CoupeId) : Bool :=
  (match (s.run k).openStep with
    | some st => !st.boundary
    | none => false)
    && coupeRuns s k && (s.run k).lastProgress.toNat + (s.coupe k).threshold ≤ s.timebase.toNat
    && !(stalledCores s k).isEmpty && !transfersOf s k && !crossWait s k

/-- The oldest STALL_SINCE of some cores, the lowest ID on a tie. -/
def oldestStalled (s : State) (l : List CoreId) : Option CoreId :=
  l.foldl (fun best c =>
    match best with
    | none => some c
    | some b =>
      if (s.core c).stallSince.toNat < (s.core b).stallSince.toNat
          || ((s.core c).stallSince = (s.core b).stallSince && c.toNat < b.toNat) then some c else some b) none

/-- The core that the record names: an OUT_FULL core before any other (R142). -/
def namedCore (s : State) (k : CoupeId) : Option CoreId :=
  let l := stalledCores s k
  (oldestStalled s (l.filter (fun c => (s.core c).stall = .outFull))).or (oldestStalled s l)

/-- CAUSE of the deadlock record. -/
def Stall.cause : Stall → Nat
  | .outFull => 1
  | .remote => 2
  | .sync => 3
  | _ => 0

/-- The deadlock record of a firing. -/
def deadlockOf (s : State) (k : CoupeId) : BitVec 64 :=
  match namedCore s k with
  | none => 0
  | some c =>
    let x := s.core c
    let q := if x.stall = .inEmpty || x.stall = .outFull then x.lastQueue else 0xFFFF
    deadlockRecord c q x.stall.cause ((now48 s - x.stallSince).toNat / 100) (stalledCores s k).length

/-- A firing: the coupe is flushed and its step ends. -/
def fire (k : CoupeId) (s : State) : State :=
  let rec64 := deadlockOf s k
  endStep k Status.deadlock rec64 4 (flushCoupe k s)

/-- SENTINEL_EVALUATION: every coupe for which the sentinel fires, at a grid instant. -/
def execSentinelEvaluation (s : State) : Out :=
  if gridInstant s then .next (((listedCoupes s).filter (sentinelFires s)).foldl (fun t k => fire k t) s) else .next s

/-! ## The shard deadline (R350) -/

/-- Since when the coupe has waited for another device with nothing arriving. -/
def waitStart (s : State) (k : CoupeId) : Nat :=
  let last := (s.run k).lastCross.toNat
  if otherCrossWait s k then last
  else
    match oldestStalled s (spanWaiters s k) with
    | none => last
    | some c => max last (s.core c).stallSince.toNat

/-- The step ended with SHARD_TIMEOUT on this member, and its OUTCOME sent. -/
def shardTimeout (k : CoupeId) (s : State) : State :=
  let s1 := flushCoupe k s
  match (s1.run k).openStep with
  | none => s1
  | some st =>
    let s2 := setStep k { st with
      status := some Status.shardTimeout
      detail := 0
      dkind := 0
      boundary := true
      needReplay := false
      running := []
      toDispatch := []
      loads := []
      layerTasks := [] } s1
    let s3 := if st.spans then sendOutcome k Status.shardTimeout s2 else s2
    s3.setRun k { s3.run k with shardWait := some s.timebase }

/-- No agreement: SHARD_TIMEOUT for every request but those cancelled. -/
def noAgreement (st : Step) : Step :=
  { st with
    agreed := true
    status := some Status.shardTimeout
    reqs := st.reqs.map (fun r =>
      if r.status = some Status.cancelled then r
      else { r with status := some Status.shardTimeout, detail := 0, dkind := 0 }) }

/-- SHARD_DEADLINE: the first pass flushes the coupe and reports SHARD_TIMEOUT; one threshold later the step ends without
the members that are still missing. -/
def execShardDeadline (k : CoupeId) (s : State) : Out :=
  let r := s.run k
  if gridInstant s && coupeRuns s k then
    match r.openStep with
    | none => .next s
    | some st =>
      match r.shardWait with
      | some t =>
        if t.toNat + (s.coupe k).threshold ≤ s.timebase.toNat && (agreement s k st).isNone then
          .next (setStep k (noAgreement st) s)
        else .next s
      | none =>
        if crossWait s k && waitStart s k + (s.coupe k).threshold ≤ s.timebase.toNat then .next (shardTimeout k s)
        else .next s
  else .next s

/-! ## Replay (R361–R363) -/

/-- COUNT of every memory-scope barrier that names the stage under the step's tag set to zero. -/
def clearWords (k : CoupeId) (cfg : Config) (stage : Nat) (s : State) : State :=
  (cfg.barriers.filter (fun w => Barrier.memory w && Barrier.arrivers w stage)).foldl (fun t w =>
    let (a, tag) := barrierWord t k w
    if wordTag t a.toNat = tag then setWord a.toNat tag 0 t else t) s

/-- A request at the start of another attempt: what befell it in the attempt that ended is forgotten; a cancelled one stays
cancelled. -/
def Req.again (r : Req) : Req :=
  { r with
    status := if r.passed && r.status ≠ some Status.cancelled then none else r.status
    detail := 0
    dkind := 0
    poisoned := false }

/-- The step as its next attempt opens. -/
def Step.again (st : Step) : Step :=
  { st with
    reqs := st.reqs.map Req.again
    attempt := st.attempt + 1
    toDispatch := []
    running := []
    loads := []
    layerTasks := []
    reports := []
    status := none
    detail := 0
    dkind := 0
    boundary := false
    needReplay := false
    outcomeSent := false
    outcomes := st.outcomes.filter (fun o => st.attempt < o.attempt.toNat)
    expertRuns := []
    routing := if StepD.route st.w = 0 then st.routing else []
    routed := []
    built := 0
    memArrivalsStopped := false
    poppedForeign := false
    totals := Totals.zero
    events := [] }

/-- The attempt opens again (R363). -/
def reopen (k : CoupeId) (cfg : Config) (st : Step) (s : State) : State :=
  let s1 := clearWords k cfg (StepD.stage st.w) (flushCoupe k s)
  let st1 := st.again
  let (reqs, s2) := compactAll cfg (st1.reqs.map (markLost s1)) s1
  let r := s2.run k
  let s3 := s2.setRun k { r with
    openStep := some { st1 with reqs := reqs }
    barriers := []
    bundles := []
    queues := mapQueues Queue.stepStart r.queues
    lastProgress := s2.timebase
    lastCross := s2.timebase
    shardWait := none }
  let s4 := if st.spans then spanAdvance k s3 else s3
  openExperts k cfg (launch k cfg (match st.bucket with
    | some b => .bucket b
    | none => .zero) s4)

/-- A member that cannot replay reports its terminal status in the next attempt (log entry 22). -/
def cannotReplay (k : CoupeId) (st : Step) (s : State) : State :=
  let st1 := { st with
    attempt := st.attempt + 1
    status := some Status.restartRequired
    detail := 0
    dkind := 0
    boundary := true
    needReplay := false
    outcomes := st.outcomes.filter (fun o => st.attempt < o.attempt.toNat) }
  let s1 := spanAdvance k (setStep k st1 (flushCoupe k s))
  sendOutcome k Status.restartRequired s1

/-- STEP_REPLAY: a step that needs a replay, here or on another member, is run again once every bench move is done. -/
def execStepReplay (k : CoupeId) (s : State) : Out :=
  match (s.run k).openStep, bindingOf s k with
  | some st, some cfg =>
    let asked := st.spans && st.outcomeSent && replayAsked st && !st.agreed && st.attempt < 3
    let moving := (coupeCores s k).any (fun c => (s.slot c).moving)
    if !coupeRuns s k || moving || !(st.needReplay || asked) then .next s
    else if st.replayable && !st.poppedForeign && st.attempt < 3 then .next (reopen k cfg st s)
    else .next (cannotReplay k st s)
  | _, _ => .next s

/-! ## Patrol (R365–R367) -/

/-- A patrol may run on the core now. -/
def mayPatrol (s : State) (c : CoreId) : Bool :=
  let g := s.stand (coreStand c)
  let x := s.core c
  g.inService && !g.isolated && !g.asleep && (s.slot c).state ≠ .failed && !(s.slot c).moving && x.task.isNone
    && x.next.isNone && !x.halted && !x.haltWanted

/-- PATROL: the outcome of the patrol set on core c, and of its repeat when it failed. -/
def execPatrol (c : CoreId) (firstOk secondOk : Bool) (s : State) : Out :=
  if mayPatrol s c then
    let g := coreStand c
    let s1 := s.setStand g { s.stand g with unpatrolled := (s.stand g).unpatrolled.filter (· ≠ coreSlot c) }
    if firstOk then .next s1
    else
      let s2 := raiseCore 0x11 0 (b2n !secondOk) c s1
      .next (if secondOk then transient c s2 else retireCore c s2)
  else .next s

/-! ## The end of a bench move (R67) -/

/-- A row with a stored error as it arrives: corrected, or poisoned. -/
def moveRowError (c : CoreId) (a : Nat) (s : State) : State :=
  let s1 := (readBench c ((a - benchAddr c 0) / 512) 2 s).2
  { s1 with rowErrors := s1.rowErrors.set RowError.none a RowError.none }

/-- BENCH_MOVE_COMPLETE: the slot may serve tasks again. The spare's own spare lines are unused. -/
def execBenchMoveComplete (c : CoreId) (s : State) : Out :=
  let x := s.slot c
  if x.moving then
    let lo := benchAddr c 0
    let rows := (s.rowErrors.filter (fun e => lo ≤ e.1 && e.1 < lo + 2 ^ 24)).map (·.1)
    let s1 := rows.foldl (fun t a => moveRowError c a t) s
    let s2 : State := { s1.setCore c { s1.core c with spareLines := [], scrubCE := [], scrub := 0 } with
      leaseHits := s1.leaseHits.map (fun h => if h.core = c then { h with read := false } else h) }
    .next (restartChains c (s2.setSlot c { s2.slot c with moving := false }))
  else .next s

/-! ## The scent table (R228, R231) -/

/-- A way of a set given an entry. -/
def setWay (set w : Nat) (e : Option ScentEntry) (s : State) : State :=
  { s with dur := { s.dur with scent := s.dur.scent.set none (4 * set + w) e } }

/-- The lowest empty way of a set. -/
def emptyWay (s : State) (set : Nat) : Option Nat := (List.range 4).find? (fun w => (scentWay s set w).isNone)

/-- The entry of a scented group put into an empty way. -/
def reinsert (g : GroupId) (s : State) : State :=
  let x := s.group g
  match emptyWay s (scentSet x.scent) with
  | none => s
  | some w => setWay (scentSet x.scent) w (some ⟨scentTag x.scent, g, x.salt⟩) s

/-- SCENT_REBUILD: the table rebuilt from the group records after a warm reset. -/
def execScentRebuild (s : State) : Out :=
  if s.scentRebuild then
    let gs := (s.dur.groups.filter (fun e => e.2.scented)).map (fun e => BitVec.ofNat 22 e.1)
    let s1 : State := { s with scentRebuild := false, dur := { s.dur with scent := [] } }
    .next (gs.foldl (fun t g => reinsert g t) s1)
  else .next s

end Sys2Proof.Machine
end

