-- ==== Sys2Proof/Machine/StepCommit.lean ====
section
/-! DEFINITION. What a commit does with a step that has reached its boundary, and with the changes that await a commit
(R34, R128, R215, R219–R225, R228, R233–R235, R243, R244, R252, R253, R359, R364, R368). -/

namespace Sys2Proof.Machine

/-! ## Sealing (R219, R228) -/

/-- The way of a set whose group is evictable with the oldest AGE; the lowest way on a tie (R228). -/
def oldestWay (s : State) (set : Nat) : Option Nat :=
  ((List.range 4).foldl (fun (best : Option (Nat × Nat)) w =>
    match scentWay s set w with
    | none => best
    | some e =>
      if (s.dur.allocs.find? (fun a => a.kind = .group e.group)).any (·.evictable.isSome) then
        let age := (s.group e.group).age.toNat
        match best with
        | none => some (w, age)
        | some (v, b) => if age < b then some (w, age) else some (v, b)
      else best) none).map (·.1)

/-- A sealed group takes a way of its set. -/
def takeWay (g : GroupId) (set w : Nat) (s : State) : State :=
  let x := s.group g
  setWay set w (some ⟨scentTag x.scent, g, x.salt⟩) (s.setGroup g { x with scented := true })

/-- A group offered to the scent table (R228). -/
def offerGroup (g : GroupId) (s : State) : State :=
  let x := s.group g
  let set := scentSet x.scent
  if (findScent s x.scent x.salt).isSome then s
  else
    match emptyWay s set with
    | some w => takeWay g set w s
    | none =>
      match oldestWay s set with
      | none => s
      | some w =>
        match scentWay s set w with
        | none => s
        | some e => takeWay g set w (freeGroup e.group s)

/-- A group whose FILL has reached 16: its scent, and the offer. The scent of a group under an unset salt is a value that the
spec does not state (log entry 27). -/
def sealGroup (g : GroupId) (s : State) : State :=
  let x := s.group g
  let parent := if x.root then 0 else (s.group x.parent).scent
  match saltOf s x.salt with
  | none =>
    let (v, t) := drawFree s
    t.setGroup g { x with state := .sealed, scent := v }
  | some salt =>
    let t := s.setGroup g { x with state := .sealed, scent := scent parent x.tokens x.model x.adapter salt }
    if x.root || (t.group x.parent).scented then offerGroup g t else t

/-! ## Tokens committed (R215, R219, R221) -/

/-- The record of a group that the sequence's next block creates (R218, R219). -/
def createGroup (cfg : Config) (i : SlotId) (g : GroupId) (s : State) : State :=
  let x := s.seq i
  let prev := (x.pages.getLast?).join
  let a := findAlloc s .deck (.group g)
  (s.setGroup g { Group.reset with
    parent := prev.getD 0
    home := (a.map (·.addr)).getD 0
    units := BitVec.ofNat 16 ((a.map (·.units)).getD 0)
    refs := 1
    model := cfg.model
    adapter := cfg.adapter
    shard := cfg.shard
    salt := x.salt
    state := .open_
    root := x.pages.isEmpty
    prows := cfg.prows
    players := cfg.players }).setSeq i { x with pages := x.pages ++ [some g] }

/-- Tokens written to a group; a full one is sealed, unless it has been found POISONED (R222). -/
def fillGroup (g : GroupId) (toks : List (BitVec 32)) (s : State) : State :=
  let x := s.group g
  let t := s.setGroup g { x with tokens := x.tokens ++ toks }
  if (t.group g).fill = 16 && x.state = .open_ then sealGroup g t else t

/-- Tokens from position p on, in the sequence's blocks; new blocks take the groups given, in order. -/
def commitTokens (cfg : Config) (i : SlotId) : Nat → Nat → List (BitVec 32) → List GroupId → State → State
  | 0, _, _, _, s => s
  | fuel + 1, p, toks, gs, s =>
    if toks.isEmpty then s
    else
      let n := 16 - p % 16
      let (s1, rest) := if p / 16 < (s.seq i).pages.length then (s, gs)
        else
          match gs with
          | [] => (s, [])
          | g :: more => (createGroup cfg i g s, more)
      match ((s1.seq i).pages[p / 16]?).join with
      | none => s1
      | some g => commitTokens cfg i fuel (p + n) (toks.drop n) rest (fillGroup g (toks.take n) s1)

/-- The references of the blocks at P / 16 and later are released (R215). -/
def cutSeq (i : SlotId) (kept : List (Option GroupId)) (s : State) : State :=
  let x := s.seq i
  let gone := (x.pages.drop kept.length).filterMap id
  let s1 := gone.foldl (fun t g => dropRef g t) (s.setSeq i { x with pages := kept })
  gone.foldl (fun t g => settleGroup g t) s1

/-- The tree workspace after a request: a VERIFY's tree in the half that was not current, a PREFILL's discard of the pending
one (R245, R252, R253). -/
def commitTree (r : Req) (s : State) : State :=
  let i := r.slot
  let x := s.seq i
  if r.verify then
    let old := x.tree.orElse (fun _ => (findAlloc s .deck (.tree i)).map (fun a =>
      (⟨a.addr, false, true, ⟨[], 0⟩, ⟨[], 0⟩⟩ : Tree)))
    let next := old.map (fun t =>
      let h : TreeHalf := ⟨r.nodes, ReqD.pos r.w⟩
      if t.parity then { t with parity := false, half0 := h } else { t with parity := true, half1 := h })
    s.setSeq i { x with tree := next }
  else
    s.setSeq i { x with tree := x.tree.map (fun t =>
      if t.parity then { t with half1 := ⟨[], 0⟩ } else { t with half0 := ⟨[], 0⟩ }) }

/-- A request that ended with OK: its sequence advances (R243, R245, R252). -/
def commitOk (cfg : Config) (r : Req) (s : State) : State :=
  let i := r.slot
  let toks := if r.verify then
      match (s.seq i).pending with
      | some h => (acceptedPath s r).map (fun n => nodeToken (h.nodes.getD n 0))
      | none => []
    else r.tokens
  let start := if r.verify then (s.seq i).length.toNat else ReqD.pos r.w
  let s1 := cutSeq i (keptPages (s.seq i) r) s
  let s2 := commitTokens cfg i (toks.length / 16 + 2) start toks r.groups s1
  let s3 := commitTree r s2
  let x := s3.seq i
  let len := newLength r
  writeList i (trimList i (s3.setSeq i { x with
    length := BitVec.ofNat 20 len
    tail := if len % 16 = 0 then none else (x.pages.getLast?).join
    fresh := false }))

/-- A request whose sequence has been freed since its step opened (R208, R234): the groups it took return. -/
def commitLost (st : Step) (r : Req) (s : State) : State :=
  finishAt st.ring r.pos Status.sequenceLost 0 0 st.number (r.groups.foldl (fun t g => dropAlloc (.group g) t) s)

/-- Whether the status frees the request's sequence (R235). -/
def endsSeq (s : State) (r : Req) (status : BitVec 8) : Bool :=
  !seqLost s r.w &&
    if status = Status.cancelled then (s.seq r.slot).state = .closing || r.passed
    else r.passed && (status = Status.poisonConsumed || status = Status.sequenceLost || status = Status.restartRequired
      || (status = Status.lowerFailed && dataLost s r))

/-! ## A step's requests -/

/-- DKIND and DETAIL that this member has for a request. -/
def Step.ownDetail (st : Step) (r : Req) : BitVec 4 × BitVec 64 :=
  if st.decides r then (st.dkind, st.detail)
  else if r.status.isSome || r.poisoned then (r.dkind, r.detail) else (0, 0)

/-- DKIND and DETAIL of a completion with a status: this member's own, or what another member's status gives. -/
def agreedDetail (st : Step) (own status : BitVec 8) (mine : BitVec 4 × BitVec 64) : BitVec 4 × BitVec 64 :=
  if own = status then mine
  else if status = Status.poisonConsumed then (7, faultRecord 1 0xFFF 0 5 st.attempt 5)
  else (0, 0)

/-- One request of the step at its commit. -/
def commitReq (cfg : Config) (st : Step) (status : BitVec 8) (r : Req) (s : State) : State :=
  let free := endsSeq s r status
  let (dk, det) := agreedDetail st (st.final r) status (st.ownDetail r)
  let s1 := if status = Status.ok && r.passed then commitOk cfg r s else if r.passed then giveBack r s else s
  let s2 := if free then freeSeq r.slot s1 else s1
  if status = Status.ok then
    finishAt st.ring r.pos status 1 (put 44 (s2.seq r.slot).length.toNat) st.number s2
  else finishAt st.ring r.pos status dk det st.number s2

/-- Requests of the step in order, each with its final status. -/
def commitReqs (cfg : Config) (st : Step) : List (Req × BitVec 8) → State → State
  | [], s => s
  | (r, x) :: rest, s =>
    commitReqs cfg st rest (if r.passed && seqLost s r.w then commitLost st r s else commitReq cfg st x r s)

/-! ## The step itself (R243) -/

/-- Items of a non-persistent queue discarded at a commit: counted in LEFT, their credits returned (R128). -/
def Queue.discard (q : Queue) : Queue :=
  if QRec.persist q.record then q
  else
    let n := q.network.length + q.staging.length + q.slackCount + b2n q.marker.isSome
    let marks := q.marker.isSome || (q.network ++ q.staging).any (fun it => !it.isRow)
    { q with
      network := []
      sent := []
      staging := []
      slackCount := 0
      slackHead := 0
      marker := none
      left := BitVec.ofNat 16 (satAdd 16 q.left.toNat n)
      discarded := q.discarded + n
      returning := q.returning + n
      markCredit := q.markCredit || marks }

/-- Cores that ran a task of the step: one more core-step each (R368). -/
def countCoreSteps (cfg : Config) (st : Step) (s : State) : State :=
  match st.bucket with
  | none => s
  | some b =>
    ((bucketTemplates cfg b).map Tpl.core).eraseDups.foldl (fun t c =>
      t.setSlot c { t.slot c with coreSteps := (t.slot c).coreSteps + 1 }) s

/-- The verdict TRANSIENT of a step whose later attempt came through clean (R364). -/
def transientVerdict (st : Step) (ok : Bool) (s : State) : State :=
  match st.flagged with
  | none => s
  | some f =>
    if ok && 2 ≤ st.attempt then
      transient f.core (raiseCore 0x10 (faultRecord 2 f.core.toNat f.tag 0 st.attempt f.row) 0 f.core s)
    else s

/-- Totals of a coupe with a step's totals added (R34). -/
def Totals.plus (a b : Totals) : Totals where
  qsat := a.qsat + b.qsat
  kovf := a.kovf + b.kovf
  nanp := a.nanp + b.nanp
  maxabs := if F32.lt a.maxabs b.maxabs then b.maxabs else a.maxabs

/-- Zombie events of the coupe's stands may be raised again (R371). -/
def rearmZombies (k : CoupeId) (s : State) : State :=
  (s.coupe k).standList.foldl (fun t g => t.setStand g { t.stand g with zombieRaised := false }) s

/-- The step's status and its requests' at the commit. -/
def stepStatuses (s : State) (k : CoupeId) (st : Step) : BitVec 8 × List (BitVec 8) :=
  if st.spans && !st.agreed then
    match agreement s k st with
    | some a => (a.step, a.reqs)
    | none => (st.result, st.reqs.map st.final)
  else (st.result, st.reqs.map st.final)

/-- What the step's agreement leaves of the digests (R273). -/
def stepDigests (s : State) (k : CoupeId) (st : Step) : Bool × List (Nat × BitVec 64) :=
  let x := s.coupe k
  if st.spans && !st.agreed then
    match agreement s k st with
    | some a => (a.digestBad, a.digests)
    | none => (x.digestBad, x.digests)
  else (x.digestBad, x.digests)

/-- The commit of coupe k's step (R243). An arrival at a coupe-scope barrier that is still under way counts in the next step:
DESIGN CHOICE (R169; log entry 126). -/
def commitStep (k : CoupeId) (cfg : Config) (st : Step) (s0 : State) : State :=
  let s := { s0 with skids := s0.skids.filter (fun f => f.coupe ≠ k) }
  let (status, finals) := stepStatuses s k st
  let (bad, digests) := stepDigests s k st
  let (dk, det) := agreedDetail st st.result status (st.dkind, st.detail)
  let s1 := commitReqs cfg st (st.reqs.zip finals) s
  let s2 := finishAt st.ring st.pos status dk det st.number s1
  let s3 := transientVerdict st (status = Status.ok) (countCoreSteps cfg st { s2 with events := s2.events ++ st.events })
  let x := s3.coupe k
  let s4 := s3.setCoupe k { x with
    totals := x.totals.plus st.totals
    digestBad := bad
    digests := digests
    firstSpanStep := x.firstSpanStep && !st.spans }
  let r := s4.run k
  let s5 := rearmZombies k (s4.setRun k { r with
    openStep := none
    feedPlans := []
    barriers := []
    bundles := []
    xtagsDone := if st.spans then r.xtagsDone ++ [StepD.xtag st.w] else r.xtagsDone
    shardWait := none
    queues := mapQueues Queue.discard r.queues
    shown := (mapQueues Queue.discard r.queues).filterMap (fun e => e.2.map (fun q => (e.1, q))) })
  if st.spans && status ≠ Status.ok then spanAdvance k s5 else s5

/-- Whether a coupe's open step takes part in the commit: it has reached its boundary, and the members of its span agree, or
will not. -/
def commits (s : State) (k : CoupeId) (st : Step) : Bool :=
  st.boundary && (!st.spans || st.agreed || (agreement s k st).isSome)

/-- Every step that has reached its boundary, by ascending coupe. -/
def commitSteps (s : State) : State :=
  (listedCoupes s).foldl (fun t k =>
    match (t.run k).openStep, bindingOf t k with
    | some st, some cfg => if commits t k st then commitStep k cfg st t else t
    | some st, none => if commits t k st then commitStep k unboundConfig st t else t
    | none, _ => t) s
where
  /-- A coupe that lost its binding while its step ended (R372): nothing of the step commits. -/
  unboundConfig : Config :=
    ⟨0, 0, 0, 0, 0, 0, 0, 0, 0, [], 0, 0, [], [], [], [], [], [], [], 0, [], [], [], 0, [], [], [], false, 0, []⟩

/-! ## Changes that await a commit -/

/-- A sequence activated: SEQ_OPEN has posted its completion (R207, R210). -/
def activateSeq (i : SlotId) (s : State) : State :=
  let x := s.seq i
  if x.state = .opening then
    writeList i (s.setSeq i { x with state := .active, length := BitVec.ofNat 20 (16 * x.matched.toNat) })
  else s

/-- A CANCEL waits for the next commit of the sequence's coupe (R262): while a step is open, or while the coupe is saved or
restored. -/
def cancelWaits (s : State) (k : CoupeId) : Bool :=
  let x := (s.coupe k).state
  (s.run k).openStep.isSome || x = .preempting || x = .preempted || x = .resuming

/-- Freed unless it is already. -/
def freeTaken (i : SlotId) (s : State) : State :=
  if (s.seq i).state = .closing || (s.seq i).state = .opening then freeSeq i s else s

/-- A group without its scent entry, its pin and its SCENTED bit. -/
def unscent (g : GroupId) (s : State) : State :=
  (dropScent (fun e => e.group = g) s).setGroup g { s.group g with scented := false, pinned := false }

/-- Allocations of a group no longer evictable. -/
def unevict (g : GroupId) (s : State) : State :=
  { s with dur := { s.dur with allocs := s.dur.allocs.map (fun a =>
    if a.kind = .group g then { a with evictable := none } else a) } }

/-- A salt takes effect (R225). -/
def applySalt (i : BitVec 12) (v : Option (BitVec 64)) (s : State) : State :=
  let gs := if (saltOf s i).isNone then []
    else (s.dur.groups.filter (fun e => e.2.salt = i && e.2.state ≠ .free)).map (fun e => BitVec.ofNat 22 e.1)
  let s1 := { s with dur := { s.dur with salts := s.dur.salts.set none i.toNat v } }
  gs.foldl (fun t g => settleGroup g (unscent g t)) s1

/-- A group found poisoned (R222). -/
def poisonGroup (g : GroupId) (s : State) : State :=
  if (s.group g).state = .free then s
  else
    let s1 := unscent g s
    settleGroup g (unevict g (s1.setGroup g { s1.group g with state := .poisoned }))

end Sys2Proof.Machine
end

