-- ==== Sys2Proof/Machine/Ethernet.lean ====
section
/-! DEFINITION. Ethernet: frames, work requests and their buffers, imports of page groups, telemetry (R353–R356, R413). -/

namespace Sys2Proof.Machine

/-! ## Counters (R413) -/

/-- Counter k of a port advanced, wrapping. -/
def countEth (p : Bool) (k n : Nat) (s : State) : State :=
  let x := s.ethPort p
  s.setEth p { x with stats := x.stats.set 0 k (x.stats.get 0 k + BitVec.ofNat 64 n) }

/-- Several counters advanced. -/
def countEths (p : Bool) (l : List (Nat × Nat)) (s : State) : State := l.foldl (fun t c => countEth p c.1 c.2 t) s

/-- A port works: main power is on, its link is up, and no reset or trip holds it. -/
def ethOn (s : State) (p : Bool) : Bool :=
  s.power.main && s.power.resetPhase = .none && s.power.device ≠ .tripped && (s.ethPort p).up

/-- ETH_PORT_LINK_CHANGE. -/
def execEthPortLinkChange (p up : Bool) (s : State) : Out :=
  if (s.ethPort p).up = up || !s.power.main then .next s
  else .next (raise0 0x26 (b2n p + 2 * b2n up) (s.setEth p { s.ethPort p with up := up }))

/-! ## Buffers (R354, R355) -/

/-- Every 4 KiB unit of a deck range is homed to a coupe of the function; a read-only lease takes no write. -/
def deckRangeOk (s : State) (f : BitVec 3) (a n : Nat) (writes : Bool) : Bool :=
  n ≠ 0 && isDeck a && isDeck (a + n - 1) &&
    (List.range ((a + n - 1) / 4096 - a / 4096 + 1)).all (fun i =>
      let u := (a / 4096 + i) * 4096
      (listedCoupes s).any (fun k => (s.coupe k).state ≠ .free && (s.coupe k).func = f && unitAllowed s k u)
        && !(writes && inLease s u))

/-- The groups of blocks b0 and later of a sequence. -/
def seqBlocks (s : State) (i : SlotId) (b0 n : Nat) : List (Option GroupId) := ((s.seq i).pages.drop b0).take n

/-- A SEQ buffer as a source: every block is sealed. -/
def seqSourceOk (s : State) (i : SlotId) (gen b0 n : BitVec 16) : Bool :=
  let bs := seqBlocks s i b0.toNat n.toNat
  (s.seq i).state = .active && seqGen s i = gen && bs.length = n.toNat
    && bs.all (fun g => match g with
      | some g => (s.group g).state = .sealed && !(s.group g).lost
      | none => false)

/-- A SEQ buffer as the local destination of a READ. -/
def seqTargetOk (s : State) (i : SlotId) (gen b0 : BitVec 16) : Bool :=
  let x := s.seq i
  x.state = .active && seqGen s i = gen && x.length.toNat = 16 * b0.toNat && x.tail.isNone

/-- Whether a buffer may be read, or written. -/
def sourceOk (s : State) (f : BitVec 3) : EthBuffer → Bool
  | .host _ _ => true
  | .deck a n => deckRangeOk s f a.toNat n false
  | .seq i gen b0 n => seqSourceOk s i gen b0 n

def targetOk (s : State) (f : BitVec 3) : EthBuffer → Bool
  | .host _ _ => true
  | .deck a n => deckRangeOk s f a.toNat n true
  | .seq _ _ _ _ => false

/-- First addresses of the granules that reading a buffer touches. -/
def bufferGranules (s : State) : EthBuffer → List Nat
  | .host _ _ => []
  | .deck a n => granulesOf a.toNat n
  | .seq i _ b0 n =>
    (seqBlocks s i b0.toNat n.toNat).flatMap (fun g => match g with
      | some g => granulesOf (s.group g).home.toNat ((s.group g).prows.toNat * (s.group g).players.toNat * 512)
      | none => [])

/-- Bytes that arrive in a buffer. -/
def fillBuffer (b : EthBuffer) (data : List (BitVec 8)) (s : State) : State :=
  match b with
  | .deck a n => writeBytesAt a.toNat (data.take n) false s
  | _ => s

/-! ## Work requests (R354) -/

/-- A work request's completion. -/
def workDone (qp : BitVec 10) (status : Nat) (s : State) : State :=
  { s with workDone := s.workDone ++ [⟨qp, BitVec.ofNat 2 status⟩] }

/-- A local protection error: no byte moves. -/
def localError (p : Bool) (qp : BitVec 10) (s : State) : State := workDone qp 1 (countEth p 12 1 s)

/-- Frames sent for a request. -/
def countSent (p : Bool) (c : EthSent) (s : State) : State :=
  countEths p [(0, c.frames.length), (2, c.frames.sum), (10, c.retransmissions)] s

/-- Bytes read from a local buffer and sent; a poisoned granule makes the transfer fail at its receiver. -/
def sendFrom (p : Bool) (qp : BitVec 10) (b : EthBuffer) (c : EthSent) (reply : EthReply) (s : State) : State :=
  let (bad, s1) := readGranules (bufferGranules s b) s
  let s2 := countSent p c s1
  match reply with
  | .protection => workDone qp 2 s2
  | .failed => workDone qp 3 s2
  | .done => workDone qp (if bad then 3 else 0) s2

/-- Bytes read from the partner into a local buffer; a SEQ buffer's READ goes on until its last byte. -/
def readInto (p : Bool) (qp : BitVec 10) (b : EthBuffer) (data : List (BitVec 8)) (c : EthSent) (reply : EthReply)
    (s : State) : State :=
  let s1 := countSent p c s
  match reply with
  | .protection => workDone qp 2 s1
  | .failed => workDone qp 3 s1
  | .done =>
    match b with
    | .seq i gen b0 n => { s1 with imports := s1.imports ++ [⟨qp, i, gen, b0, n, []⟩] }
    | _ => workDone qp 0 (fillBuffer b data s1)

/-- Whether the queue pair is in use and can take a request now: of a function that may use host memory, with fewer than
16 READs outstanding. -/
def qpReady (s : State) (qp : BitVec 10) (f : BitVec 3) : Bool :=
  s.setup.locked && s.setup.qpBase ≠ 0 && qp.toNat < s.setup.qpCount.toNat && !bit s.funcReset f.toNat
    && s.power.linkUp && (s.imports.filter (fun i => i.qp = qp)).length < 16

/-- ETH_WORK_REQUEST. -/
def execEthWorkRequest (qp : BitVec 10) (f : BitVec 3) (p : Bool) (op : EthOp) (b : EthBuffer) (c : EthSent)
    (reply : EthReply) (s : State) : Out :=
  if !ethOn s p || (s.ethPort p).testing || !qpReady s qp f then .next s
  else
    match op with
    | .read data =>
      let ok := match b with
        | .seq i gen b0 _ => seqTargetOk s i gen b0
        | _ => targetOk s f b
      if ok then .next (readInto p qp b data c reply s) else .next (localError p qp s)
    | .send => if sourceOk s f b then .next (sendFrom p qp b c reply s) else .next (localError p qp s)
    | .write => if sourceOk s f b then .next (sendFrom p qp b c reply s) else .next (localError p qp s)

/-! ## Frames received (R353) -/

/-- A feature that R353 does not list. -/
def frameUnsupported (x : EthFrame) : Bool :=
  9216 < x.len || !x.ipv6 || x.fragment || x.udpPort ≠ 4791 || !x.reliable || !x.opcodeSupported

/-- What a frame's message does to an exported buffer. -/
def remoteAccess (p : Bool) (a : EthAccess) (s : State) : State :=
  match a with
  | .none => s
  | .write f b data => if targetOk s f b then fillBuffer b data s else countEth p 12 1 s
  | .read f b => if sourceOk s f b then (readGranules (bufferGranules s b) s).2 else countEth p 12 1 s

/-- A priority of the port has flow control (ETH_PFC). -/
def pfcOn (s : State) (p : Bool) (prio : BitVec 3) : Bool := bit s.setup.pfc (8 * b2n p + prio.toNat)

/-- ETH_FRAME_RECEIVE. Frames of a priority with flow control are held back by the partner during a slice of a test. -/
def execEthFrameReceive (p : Bool) (x : EthFrame) (s : State) : Out :=
  if !ethOn s p then .next s
  else
    let s1 := countEths p [(14, x.fecCorrected), (15, x.fecUncorrectable)] s
    if !x.fcsOk then .next (countEth p 4 1 s1)
    else if x.pause then .next (countEths p [(1, 1), (3, x.len), (6, 1)] s1)
    else if (s.ethPort p).testing && x.inSlice then
      .next (if pfcOn s p x.priority then s1 else countEths p [(1, 1), (3, x.len), (13, 1)] s1)
    else
      let s2 := countEths p [(1, 1), (3, x.len)] s1
      if frameUnsupported x then .next (countEth p 5 1 s2)
      else if x.cnp then .next (countEth p 8 1 s2)
      else
        let s3 := if x.congested then countEth p 9 1 s2 else s2
        if x.outOfSequence then .next (countEth p 11 1 s3) else .next (remoteAccess p x.access s3)

/-! ## Imports (R355) -/

/-- Rows of a block written to its group's units, in layer order. -/
def writeBlock (a : Nat) : List (Row × Bool) → State → State
  | [], s => s
  | r :: rest, s => writeBlock (a + 512) rest (writeRowAt a r.1 r.2 s)

/-- Whether the blocks that arrived are whole and clean. -/
def blocksOk (cfg : Config) (n : Nat) (bs : List (List (BitVec 32) × List (Row × Bool))) : Bool :=
  bs.length = n && bs.all (fun b => b.1.length = 16 && b.2.length = cfg.prows.toNat * cfg.players.toNat
    && b.2.all (fun r => !r.2))

/-- Groups for the blocks that arrive beyond those already taken, and the list pages that they need. -/
def takeImport (k : CoupeId) (cfg : Config) (m : Import) (s : State) : OpenGrant :=
  let i := m.slot
  let n := m.blocks.toNat
  match takeGroups k (groupUnits cfg) (n - m.groups.length) m.groups s with
  | .granted gs t =>
    (takeRuns k (.listPages i) 1 (listPagesFor ((t.seq i).pages.length + n) - (listPages t i).length) t).bind gs
      (fun u => .granted gs u)
  | o => o

/-- An import that fails: the groups taken for it are freed, and its sequence is unchanged (R355). -/
def failImport (qp : BitVec 10) (i : SlotId) (gs : List GroupId) (s : State) : State :=
  workDone qp 3 (trimList i (gs.foldl (fun t g => dropAlloc (.group g) t) s))

/-- SEQ_IMPORT_COMPLETE: the last byte of a READ into a SEQ buffer. The next commit creates the groups. A transfer that
brings poison, is short, or is refused room fails; one whose granted units are still in use waits with what it has. -/
def execSeqImportComplete (qp : BitVec 10) (bs : List (List (BitVec 32) × List (Row × Bool))) (s : State) : Out :=
  match s.imports.find? (fun x => x.qp = qp) with
  | none => .next s
  | some m =>
    let s1 := { s with imports := s.imports.erase m }
    let k := (s.seq m.slot).coupe
    match bindingOf s k with
    | none => .next (failImport qp m.slot m.groups s1)
    | some cfg =>
      if !blocksOk cfg m.blocks.toNat bs || !seqTargetOk s m.slot m.gen m.b0 then
        .next (failImport qp m.slot m.groups s1)
      else
        match takeImport k cfg m s1 with
        | .granted gs t =>
          let u := (gs.zip bs).foldl (fun v g =>
            writeBlock (((findAlloc v .deck (.group g.1)).map (fun a => a.addr.toNat)).getD 0) g.2.2 v) t
          .next { u with due := u.due ++ [.importBlocks qp m.slot m.gen m.b0 (gs.zip (bs.map (·.1)))] }
        | .waits gs t => .next { t with imports := { m with groups := gs } :: t.imports }
        | .refused => .next (failImport qp m.slot m.groups s1)

/-- The groups of an import created, sealed and offered at the commit, and the sequence advanced; on a sequence that has
changed, the import fails and its groups are freed. -/
def applyImport (qp : BitVec 10) (i : SlotId) (gen : BitVec 16) (b0 : Nat) (gs : List (GroupId × List (BitVec 32)))
    (s : State) : State :=
  match bindingOf s (s.seq i).coupe with
  | some cfg =>
    if seqTargetOk s i gen (BitVec.ofNat 16 b0) then
      let s1 := gs.foldl (fun t g => fillGroup g.1 g.2 (createGroup cfg i g.1 t)) s
      let s2 := writeList i (s1.setSeq i { s1.seq i with length := BitVec.ofNat 20 (16 * (b0 + gs.length)) })
      workDone qp 0 s2
    else failImport qp i (gs.map (·.1)) s
  | none => failImport qp i (gs.map (·.1)) s

/-! ## Telemetry (R356) -/

/-- TELEMETRY_SAMPLE: one datagram from port 0 to the collector. Its length is not in the spec. -/
def execTelemetrySample (s : State) : Out :=
  if s.ranger.running && ethOn s false && bit s.setup.telemPort 16 && !(s.ethPort false).testing then
    let (v, t) := drawFree { s with telemetry := s.telemetry + 1 }
    .next (countEths false [(0, 1), (2, v.toNat % 9217)] t)
  else .next s

end Sys2Proof.Machine
end

