-- ==== Sys2Proof/Machine/Mirrors.lean ====
section
/-! DEFINITION. The records that the host sees: completion and attention entries, ledger records, status lines and the
pages of the state mirrors (R65, R117, R192, R206, R265, R292, R306, R310, R317–R320, R351, R409). -/

namespace Sys2Proof.Machine

/-! ## Entries -/

/-- A completion entry (R306). -/
def completionEntry (ring : RingId) (pos : BitVec 32) (status : BitVec 8) (dkind : BitVec 4) (detail : BitVec 64)
    (stepno : BitVec 48) (tag : BitVec 32) (commit : BitVec 64) : BitVec 256 :=
  put 192 detail.toNat ||| put 144 stepno.toNat ||| put 112 pos.toNat ||| put 97 ring.toNat ||| put 89 status.toNat
    ||| put 85 dkind.toNat ||| put 32 tag.toNat ||| put 0 (commit.toNat % 2 ^ 32)

/-- An attention entry (R320). -/
def attentionEntry (e : Event) (commit : BitVec 64) : BitVec 256 :=
  put 192 e.record.toNat ||| put 160 e.value.toNat ||| put 112 e.stepno.toNat ||| put 97 e.ring.toNat
    ||| put 90 e.coupe.toNat ||| put 78 e.core.toNat ||| put 70 e.kind.toNat ||| put 0 commit.toNat

/-- A ledger record (R310). -/
def ledgerRecord (l : Option Ledger) : BitVec 128 :=
  match l with
  | none => 0
  | some r => put 96 r.pos.toNat ||| put 94 r.state.toNat ||| put 86 r.status.toNat ||| put 78 r.opcode.toNat
      ||| put 0 r.commit.toNat

/-- STATE of a status line. -/
def RingState.code : RingState → Nat
  | .disabled => 0 | .enabled => 1 | .error => 2

/-- A status line as offset, bytes and value (R292). -/
def statusLine (x : Ring) : List (Nat × Nat × Nat) :=
  [(0x00, 4, x.front.toNat), (0x04, 4, x.back.toNat), (0x08, 1, x.state.code), (0x09, 1, x.cause.toNat),
    (0x10, 8, x.commit.toNat)]

/-! ## Records of the device mirror -/

/-- STATE of a coupe record. -/
def CoupeState.code : CoupeState → Nat
  | .free => 0 | .idle => 1 | .bound => 2 | .draining => 3 | .preempting => 4 | .preempted => 5 | .resuming => 6

/-- The coupe record (R265). -/
def coupeRecord (d : Durable) (k : Nat) : BitVec 512 :=
  let x := d.coupes.get Coupe.reset k
  let used := homedUnits d (BitVec.ofNat 7 k)
  let b := x.bindings.get none x.curJob.toNat
  put 384 x.stands.toNat ||| put 381 x.state.code ||| put 378 x.prio.toNat ||| put 377 (b2n x.preemptible)
    ||| put 376 (b2n x.tshare) ||| put 373 x.jobs.toNat ||| put 370 x.curJob.toNat ||| put 362 x.quantum.toNat
    ||| put 359 x.func.toNat ||| put 342 x.sentinel.toNat ||| put 294 x.stepctr.toNat ||| put 267 x.floor.toNat
    ||| put 240 (used % 2 ^ 27) ||| put 230 ((b.map (·.image.toNat)).getD 0)
    ||| put 226 ((b.map (·.config.toNat)).getD 0) ||| put 210 x.spanId.toNat ||| put 201 x.sCount.toNat
    ||| put 193 x.sIndex.toNat

/-- STATE of a sequence record. -/
def SeqState.code : SeqState → Nat
  | .free => 0 | .opening => 1 | .active => 2 | .closing => 3

/-- The homes that a sequence record shows: those kept for an open step, or the sequence's own (R181). -/
def shownHomes (d : Durable) (homes : Sparse (Option (BitVec 48 × BitVec 48))) (i : Nat) : BitVec 48 × BitVec 48 :=
  let x := d.seqs.get Seq.reset i
  (homes.get none i).getD (x.listAddr, (x.tree.map (·.addr)).getD 0)

/-- The sequence record (R206); GEN over the cold-reset count (R209). -/
def seqRecord (d : Durable) (homes : Sparse (Option (BitVec 48 × BitVec 48))) (colds : BitVec 32) (i : Nat) : BitVec 256 :=
  let x := d.seqs.get Seq.reset i
  let h := shownHomes d homes i
  let gen : BitVec 16 := BitVec.ofNat 16 (Config.firstColdCount.toNat + colds.toNat) + x.gen
  put 254 x.state.code ||| put 238 gen.toNat ||| put 223 x.ring.toNat ||| put 216 x.coupe.toNat ||| put 215 (b2n x.span)
    ||| put 203 x.salt.toNat ||| put 183 x.length.toNat ||| put 167 x.matched.toNat ||| put 151 x.recalled.toNat
    ||| put 129 ((x.tail.map BitVec.toNat).getD 0) ||| put 81 h.1.toNat
    ||| put 33 h.2.toNat ||| put 32 (b2n x.tail.isSome)

/-- STATE of a slot record. -/
def SlotState.code : SlotState → Nat
  | .inService => 0 | .suspect => 1 | .isolated => 2 | .failed => 3

/-- The logical slot record (R65); PHYS is the slot's own number at reset. -/
def slotRecord (x : Slot) (c : Nat) : BitVec 32 :=
  put 16 x.incarn.toNat ||| put 6 x.state.code ||| put 0 ((x.phys.map BitVec.toNat).getD (c % 32))

/-- STATE of an image entry, in R195's order. -/
def ImageState.code : ImageState → Nat
  | .absent => 0 | .loading => 1 | .ready => 2 | .unloading => 3

/-- An image entry (R318). -/
def imageEntry (x : Image) : BitVec 64 :=
  put 62 x.state.code ||| put 61 (b2n x.deck) ||| put 53 (x.bindings % 256) ||| put 0 (x.rows % 2 ^ 53)

/-- STATE of a link record. -/
def LinkState.code : LinkState → Nat
  | .down => 0 | .probe => 1 | .train => 2 | .auth => 3 | .up => 4 | .degraded => 5 | .fenced => 6 | .quarantined => 7

/-- The link record (R351). -/
def linkRecord (x : Link) : BitVec 1024 :=
  put 1020 x.state.code ||| put 1016 x.cause.toNat ||| put 1012 x.lanes.toNat ||| put 1011 (b2n x.half)
    ||| put 1009 x.reach.toNat ||| put 989 x.pPod.toNat ||| put 981 x.pDev.toNat ||| put 976 x.pLink.toNat
    ||| put 896 x.cwRx.toNat ||| put 848 x.symCorr.toNat ||| put 816 x.cwUncorr.toNat ||| put 784 x.replays.toNat
    ||| put 768 x.downs.toNat ||| put 752 x.fences.toNat ||| put 704 x.txFlits.toNat ||| put 656 x.rxFlits.toNat
    ||| put 608 x.crdWait.toNat ||| put 560 x.since.toNat

/-- RECORD of a link event: bits [1023:960] of the link record (R352). -/
def linkEventRecord (x : Link) : BitVec 64 := BitVec.ofNat 64 ((linkRecord x).toNat >>> 960)

/-- A temperature in sixteenths of a degree as a field of w bits. -/
def tempField (w : Nat) (t : Int) : Nat := (BitVec.ofInt w t).toNat

/-- The stand record (R409). POWER is what the part measures (Config.measured). -/
def standRecord (x : Stand) (g : Nat) (t : BitVec 64) : BitVec 64 :=
  put 60 (if x.inService then x.pstate.toNat else 15) ||| put 59 (b2n x.cal) ||| put 58 (b2n x.ballast)
    ||| put 57 (b2n x.latch) ||| put 46 x.mhz.toNat ||| put 36 x.mv.toNat ||| put 24 (tempField 12 x.tj)
    ||| put 12 (tempField 12 x.tsram) ||| put 0 ((Config.measured g t).toNat % 2 ^ 12)

/-- Yard mode (R318). -/
def YardMode.code : YardMode → Nat
  | .none => 0 | .half0 => 1 | .half1 => 2 | .full => 3

/-- A queue record of a coupe mirror (R319). -/
def queueRecord (q : Queue) : BitVec 256 :=
  put 208 q.rows.toNat ||| put 192 q.marks.toNat ||| put 144 q.prodFull.toNat ||| put 96 q.consEmpty.toNat
    ||| put 64 q.spilled.toNat ||| put 48 q.high.toNat ||| put 32 q.left.toNat

/-! ## Pages (R317–R319): offset, bytes and value of each field -/

/-- Records of a section: page `first` on, `per` to a page, of `size` bytes, `n` in all. -/
def pageOf (p first per size n : Nat) (f : Nat → Nat) : List (Nat × Nat × Nat) :=
  (List.range per).filterMap (fun i =>
    let r := (p - first) * per + i
    if r < n then some (64 + i * size, size, f r) else none)

/-- The device summary (R318). -/
def summaryPage (m : Mirror) : List (Nat × Nat × Nat) :=
  [(64, 1, m.power.device.code), (65, 1, m.yardMode.code), (66, 2, m.yardGib),
    (68, 4, (Config.firstColdCount + m.power.colds).toNat), (72, 4, (Config.firstWarmCount + m.power.warms).toNat),
    (80, 8, m.timebase.toNat), (88, 8, m.dropped.toNat)]

/-- The power and thermal page (R409). The input current and the SRAM and FAB rail voltages are what the part measures. -/
def powerPage (m : Mirror) : List (Nat × Nat × Nat) :=
  let p := m.power
  [(0x040, 4, p.vin.toNat), (0x044, 4, (Config.measured 144 m.timebase).toNat % 2 ^ 32), (0x048, 4, p.pin.toNat), (0x04C, 2, p.floor.toNat),
    (0x04E, 2, p.ramp.toNat), (0x050, 2, p.ballast.toNat), (0x052, 2, tempField 16 p.tjmax),
    (0x054, 2, tempField 16 p.tin), (0x056, 2, tempField 16 p.tout), (0x058, 1, m.restarts.toNat), (0x059, 1, m.latched % 256)]
  ++ (List.range 128).map (fun g => (0x060 + 8 * g, 8, (standRecord (m.stands.get Stand.reset g) g m.timebase).toNat))
  ++ (List.range 8).flatMap (fun i =>
    let at_ := 0x460 + 32 * i
    let tsram := ((List.range 16).map (fun g => (m.stands.get Stand.reset (16 * i + g)).tsram)).foldl max (-(2 ^ 15))
    [(at_, 2, (Config.measured (128 + i) m.timebase).toNat % 2 ^ 16),
      (at_ + 2, 2, (Config.measured (136 + i) m.timebase).toNat % 2 ^ 16),
      (at_ + 4, 2, tempField 16 tsram), (at_ + 6, 2, tempField 16 (m.deckStacks.get Stack.reset i).temp),
      (at_ + 8, 1, match (m.sectors.get Sector.reset i).mode with
        | .on => 0
        | .s3 => 1
        | .out => 2)])

/-- LATCHED: rails latched off. -/
def latchedRails (s : State) : Nat := (s.rails.filter (fun e => e.2.state = .latched)).length

/-- A page of the device mirror below its header. -/
def devicePage (s : State) (p : Nat) : List (Nat × Nat × Nat) :=
  let d := s.journal
  let m := s.mirror
  if p = 0 then summaryPage m
  else if p ≤ 3 then pageOf p 1 63 64 128 (fun k => (coupeRecord d k).toNat)
  else if p ≤ 69 then pageOf p 4 126 32 8192 (fun i => (seqRecord d m.homes m.power.colds i).toNat)
  else if p ≤ 74 then pageOf p 70 1008 4 4096 (fun c => (slotRecord (m.slots.get Slot.reset c) c).toNat)
  else if p ≤ 83 then pageOf p 75 504 8 4096 (fun c => (m.benchLogs.get 0 c).toNat)
  else if p = 84 then pageOf p 84 24 8 24 (fun u => (m.tierLogs.get 0 u).toNat)
  else if p ≤ 87 then pageOf p 85 504 8 1024 (fun h => (imageEntry (d.images.get Image.reset h)).toNat)
  else if p = 88 then
    pageOf p 88 24 128 24 (fun l => (linkRecord (m.links.get Link.reset l)).toNat)
      ++ [(3136, 16, m.coord.toNat), (3152, 4, m.reach.toNat)]
  else if p = 89 then powerPage m
  else []

/-- A page of coupe k's mirror below its header. -/
def coupePage (s : State) (k : CoupeId) (p : Nat) : List (Nat × Nat × Nat) :=
  if p = 0 then
    let t := (s.journal.coupes.get Coupe.reset k.toNat).totals
    [(64, 8, t.qsat.toNat), (72, 8, t.kovf.toNat), (80, 8, t.nanp.toNat), (88, 4, t.maxabs.toNat)]
  else if p ≤ 131 then
    (s.mirror.queues.filter (fun e => e.1 = k.toNat && e.2.1 / 126 = p - 1)).map (fun e =>
      (64 + e.2.1 % 126 * 32, 32, (queueRecord e.2.2).toNat))
  else []

/-- A page's header: GEN and COMMIT; pages 128 and on are those of the coupe mirrors, 256 to a coupe. -/
def pageHeader (s : State) (p : Nat) : BitVec 64 × BitVec 64 := (s.mirror.gens.get 0 p, s.mirror.commits.get 0 p)

/-! ## The snapshot that a commit takes -/

/-- Sequences of the open steps' requests, with the homes that the host saw last: a MOVE that serves a step shows at that
step's commit (R181, R243). -/
def heldHomes (s : State) : Sparse (Option (BitVec 48 × BitVec 48)) :=
  let slots := (listedCoupes s).flatMap (fun k =>
    match (s.run k).openStep with
    | none => []
    | some st => (st.reqs.filter (·.passed)).map (fun r => r.slot.toNat))
  slots.foldl (fun m i => Sparse.set none i (some (shownHomes s.journal s.mirror.homes i)) m) []

/-- The mirror's contents besides the journalled records. -/
def snapshot (s : State) : Mirror where
  slots := s.slots
  benchLogs := (s.cores.filter (fun e => e.2.errLog ≠ 0)).map (fun e => (e.1, e.2.errLog))
  tierLogs := (s.deckStacks.filter (fun e => e.2.log ≠ 0)).map (fun e => (e.1, e.2.log))
    ++ (s.channels.filter (fun e => e.2.log ≠ 0)).map (fun e => (e.1 + 8, e.2.log))
  links := s.links
  coord := coordOf s
  reach := boardReach s
  stands := s.stands
  power := s.power
  timebase := s.timebase
  dropped := s.dropped
  yardMode := s.yardMode
  yardGib := s.yardGib
  sectors := s.sectors
  deckStacks := s.deckStacks
  restarts := s.ranger.restarts
  latched := latchedRails s
  queues := s.runs.flatMap (fun e => e.2.shown.map (fun q => (e.1, q.1, q.2)))
  homes := heldHomes s
  gens := s.mirror.gens
  commits := s.mirror.commits

/-- Keys at which two tables show different records. -/
def changed {α β : Type} [DecidableEq β] (d : α) (f : Nat → α → β) (old new_ : Sparse α) : List Nat :=
  ((old.map (·.1)) ++ (new_.map (·.1))).filter (fun k => f k (old.get d k) ≠ f k (new_.get d k))

/-- Pages of the mirrors that differ between two states of the records; pages 0 and 89 are written by every commit
(R305, R398). -/
def changedPages (d d' : Durable) (m m' : Mirror) : List Nat :=
  let coupes := ((d.coupes.map (·.1)) ++ (d'.coupes.map (·.1))).filter (fun k => coupeRecord d k ≠ coupeRecord d' k)
  let totals := changed Coupe.reset (fun _ x => x.totals) d.coupes d'.coupes
  let seqs := ((d.seqs.map (·.1)) ++ (d'.seqs.map (·.1))).filter (fun i =>
    seqRecord d m.homes m.power.colds i ≠ seqRecord d' m'.homes m'.power.colds i)
  let queues := ((m.queues ++ m'.queues).filter (fun e =>
    m.queues.find? (fun x => x.1 = e.1 && x.2.1 = e.2.1) ≠ m'.queues.find? (fun x => x.1 = e.1 && x.2.1 = e.2.1))).map
      (fun e => 128 + 256 * e.1 + 1 + e.2.1 / 126)
  [0] ++ coupes.map (fun k => 1 + k / 63) ++ seqs.map (fun i => 4 + i / 126)
    ++ (changed Slot.reset (fun c x => slotRecord x c) m.slots m'.slots).map (fun c => 70 + c / 1008)
    ++ (changed 0 (fun _ x => x) m.benchLogs m'.benchLogs).map (fun c => 75 + c / 504)
    ++ (if m.tierLogs ≠ m'.tierLogs then [84] else [])
    ++ (changed Image.reset (fun _ x => imageEntry x) d.images d'.images).map (fun h => 85 + h / 504)
    ++ (if m.coord ≠ m'.coord || m.reach ≠ m'.reach || !(changed Link.reset (fun _ x => linkRecord x) m.links m'.links).isEmpty
        then [88] else [])
    ++ [89]
    ++ totals.map (fun k => 128 + 256 * k) ++ queues

/-- The mirrors as a commit leaves them: GEN of each changed page advances by two, its COMMIT is this commit. -/
def publishMirror (commit : BitVec 64) (d' : Durable) (s : State) : Mirror :=
  let m' := snapshot s
  let ps := (changedPages s.journal d' s.mirror m').eraseDups
  { m' with
    gens := ps.foldl (fun g p => g.set 0 p (g.get 0 p + 2)) m'.gens
    commits := ps.foldl (fun g p => g.set 0 p commit) m'.commits }

end Sys2Proof.Machine
end

