-- ==== Sys2Proof/Machine/Links.lean ====
section
/-! DEFINITION. Mirovik links: their states, training, authentication, flits and the coordinate record (R327–R333,
R341–R345, R430). -/

namespace Sys2Proof.Machine

/-! ## State changes (R341, R351, R352) -/

/-! CAUSE of a link's last change (R351). -/

namespace LinkCause
def record : Nat := 1
def signal : Nat := 2
def training : Nat := 3
def errors : Nat := 4
def replay : Nat := 5
def credit : Nat := 6
def auth : Nat := 7
def coordinate : Nat := 8
def malformed : Nat := 9
def forwarding : Nat := 10
def window : Nat := 11
def selfTest : Nat := 12
end LinkCause

/-- A state of service. -/
def LinkState.works (st : LinkState) : Bool := st = .up || st = .degraded
/-- A state that counts in FENCES. -/
def LinkState.barred (st : LinkState) : Bool := st = .fenced || st = .quarantined

/-- The link as it enters a state: counted, and without its flits when it leaves service. -/
def Link.enters (x : Link) (st : LinkState) (cause : Nat) (now : BitVec 48) : Link :=
  let lost := x.state.works && !st.works
  { x with
    state := st
    cause := BitVec.ofNat 4 cause
    since := if st = x.state then x.since else now
    downs := if lost then BitVec.ofNat 16 (satAdd 16 x.downs.toNat 1) else x.downs
    fences := if st.barred && !x.state.barred then BitVec.ofNat 16 (satAdd 16 x.fences.toNat 1) else x.fences
    lanes := if st = .down || st = .probe then 0 else x.lanes
    half := if st = .down || st = .probe then false else x.half
    replay := if lost then [] else x.replay
    fill := if lost then [] else x.fill
    retraining := x.retraining && !lost
    awaiting := x.awaiting && !lost
    nakOwed := x.nakOwed && !lost
    testWaits := x.testWaits && st ≠ .down
    retryWait := st = .probe && x.retryWait
    left := (x.left && st ≠ .down) || x.state = .probe && st ≠ .down && st ≠ .probe }

/-- The event of a change from x to y (R352); `claimed` is the device number that the partner claims. -/
def linkEvents (l : LinkId) (x y : Link) (claimed : Nat) (s : State) : State :=
  let go (kind value : Nat) (t : State) : State := raise 0 kind (linkEventRecord y) value 0 0 0 0 t
  if y.state = x.state then s
  else if y.state = .fenced then go 0x21 l.val s
  else if y.state = .quarantined then go 0x22 (l.val + claimed * 256) s
  else if y.state.works || y.state = .probe || (x.state = .probe && y.left && !x.left) then go 0x20 l.val s
  else s

/-- A link enters a state (R341). Partners hear at the next commit of a link that enters or leaves service (R337). -/
def enterLink (l : LinkId) (st : LinkState) (cause claimed : Nat) (s : State) : State :=
  let x := s.link l
  let y := x.enters st cause (now48 s)
  let s1 := linkEvents l x y claimed (s.setLink l y)
  if x.state.works ≠ st.works then dueAnnounce s1 else s1

/-- A link that works loses its signal. -/
def signalLost (l : LinkId) (s : State) : State :=
  if (s.link l).works then enterLink l .probe LinkCause.signal 0 s else s

/-- Whether links run at all: main power is on and no reset or trip is under way. -/
def linksOn (s : State) : Bool := s.power.main && s.power.resetPhase = .none && s.power.device ≠ .tripped

/-- The LNK rail of a link is in regulation (R386: each serves six islands in numbering order). -/
def linkPowered (s : State) (l : LinkId) : Bool := (s.railUnit (4 * 256 + l.val / 6)).state = .on

/-! ## The coordinate record (R328) -/

/-- REACH of the record in force, and DOWN for a link without a partner or PROBE for another. A link that is fenced or
quarantined stays so (R341), and one under test takes the state afterwards. -/
def placeLink (w : BitVec 128) (l : LinkId) (s : State) : State :=
  let s1 := s.setLink l { s.link l with reach := BitVec.ofNat 2 (Coord.reach w l.val) }
  let x := s1.link l
  let dest : LinkState := if (expectedPartner w l).isSome then .probe else .down
  if s.tests.any (fun t => t.target = 4 && t.index.toNat = l.val) then
    s1.setLink l { x with before := if x.before.barred && dest = .probe then x.before else dest }
  else if dest = .down then enterLink l .down LinkCause.record 0 s1
  else if x.state.barred then s1
  else enterLink l .probe LinkCause.record 0 s1

/-- Every link as the record in force places it. -/
def placeLinks (w : BitVec 128) (s : State) : State := allLinks.foldl (fun t l => placeLink w l t) s

/-- COORDINATE_RECORD: the ranger takes a record over MCTP. -/
def execCoordinateRecord (w : BitVec 128) (s : State) : Out :=
  if !s.ranger.running then .next s
  else
    let s1 := raise0 0x25 ((Coord.rgen w).toNat * 65536 + b2n (!Coord.ok w) * 256) s
    if !Coord.ok w then .next s1
    else
      let s2 := { s1 with coord := some w }
      .next (if linksOn s2 then placeLinks w s2 else s2)

/-! ## Training (R341) -/

/-- LINK_SIGNAL_DETECT. -/
def execLinkSignalDetect (l : LinkId) (lanes : BitVec 4) (s : State) : Out :=
  let x := s.link l
  if linksOn s && linkPowered s l && x.state = .probe && !x.retryWait && 2 ≤ lanes.toNat then
    .next (enterLink l .train LinkCause.signal 0 s)
  else .next s

/-- Receive buffers for each stream (R333), as class × 2 + VC. -/
def streamBuffers : Sparse Nat := [(0, 256), (1, 256), (2, 128), (3, 128), (4, 128), (5, 128), (6, 32), (7, 32)]

/-- This device's COORD packet (R342). -/
def sendCoord (l : LinkId) (s : State) : State :=
  transmit l 0 (Pkt.make 8 0 (ownDev s) 0 0 0 0 false 16 0) (.coord (coordOf s)) s

/-- LINK_TRAIN_COMPLETE: the link level starts afresh, and the partners exchange their records. -/
def execLinkTrainComplete (l : LinkId) (lanes : BitVec 4) (half : Bool) (s : State) : Out :=
  let x := s.link l
  if x.state = .train && (lanes = 8 || lanes = 4 || lanes = 2) then
    let s1 := s.setLink l { x with
      lanes := lanes
      half := half
      degradedNext := lanes ≠ 8 || half
      fseq := 0
      lastGood := 255
      replay := []
      fill := []
      awaiting := false
      nakOwed := false
      retraining := false
      groupFlits := 0
      credits := streamBuffers
      spdm := []
      coord := none }
    .next (sendCoord l (enterLink l .auth LinkCause.training 0 s1))
  else .next s

/-- The training deadline in ticks: 20 ms, or 100 ms over optical modules. -/
def trainTicks (x : Link) : Nat := if x.reach = 2 then 10000000 else 2000000

/-- LINK_TRAIN_TIMEOUT. -/
def execLinkTrainTimeout (l : LinkId) (s : State) : Out :=
  let x := s.link l
  if x.state = .train && trainTicks x ≤ (now48 s - x.since).toNat then
    .next (enterLink l .probe LinkCause.training 0 (s.setLink l { x with retryWait := true }))
  else .next s

/-- LINK_PROBE_RETRY: one second after the failed training. -/
def execLinkProbeRetry (l : LinkId) (s : State) : Out :=
  let x := s.link l
  if x.state = .probe && x.retryWait && 100000000 ≤ (now48 s - x.since).toNat then
    .next (s.setLink l { x with retryWait := false })
  else .next s

/-! ## Authentication (R342) -/

/-- Whether the partner's record and link match the expected partner. -/
def partnerOk (own w : BitVec 128) (l : LinkId) (link : BitVec 5) : Bool :=
  match expectedPartner own l with
  | none => false
  | some p =>
    Coord.pod w = Coord.pod own && Coord.slot w = p.slot && link.toNat = p.link
      && (match p.board with
        | some b => Coord.board w = b
        | none => Coord.board w ≠ Coord.board own)

/-- LINK_AUTH: the exchanges have finished. -/
def execLinkAuth (l : LinkId) (r : AuthResult) (s : State) : Out :=
  let x := s.link l
  if x.state ≠ .auth || !s.ranger.running then .next s
  else
    let claimed := match x.coord with
      | some w => Coord.devno w
      | none => 0
    if !(r.chainOk && r.leafOk && r.challengeOk && r.measurementOk) then
      .next (enterLink l .quarantined LinkCause.auth claimed s)
    else if (match x.coord with
        | some w => partnerOk (coordOf s) w l r.partnerLink
        | none => false) then
      .next (enterLink l (if x.degradedNext then .degraded else .up) LinkCause.auth claimed
        (s.setLink l { x with pLink := r.partnerLink }))
    else .next (enterLink l .quarantined LinkCause.coordinate claimed (s.setLink l { x with pLink := r.partnerLink }))

/-- LINK_AUTH_TIMEOUT: 50 ms in AUTH. -/
def execLinkAuthTimeout (l : LinkId) (s : State) : Out :=
  let x := s.link l
  if x.state = .auth && 5000000 ≤ (now48 s - x.since).toNat then
    .next (enterLink l .quarantined LinkCause.auth (match x.coord with
      | some w => Coord.devno w
      | none => 0) s)
  else .next s

/-- LINK_SIGNAL_LOSS. -/
def execLinkSignalLoss (l : LinkId) (s : State) : Out := .next (signalLost l s)

/-- MREF_LOSS: the links on one of the two reference clocks (R430). -/
def execMrefLoss (second : Bool) (s : State) : Out :=
  .next ((allLinks.filter (fun l => decide (12 ≤ l.val) = second)).foldl (fun t l => signalLost l t) s)

/-! ## Fallback (R343) -/

/-- The next lower configuration: lanes and half rate. -/
def lowerConfig (x : Link) (e : LinkErrors) : Option (BitVec 4 × Bool) :=
  let spread : Option (BitVec 4 × Bool) :=
    if !x.half then some (x.lanes, true)
    else if x.lanes = 8 then some (4, true)
    else if x.lanes = 4 then some (2, true)
    else none
  match e with
  | .confined n => if (n = 4 || n = 2) && n.toNat < x.lanes.toNat then some (n, x.half) else spread
  | .spread => spread

/-- LINK_ERROR_FALLBACK: a fast retrain to the next lower configuration, or FENCED. -/
def execLinkErrorFallback (l : LinkId) (e : LinkErrors) (s : State) : Out :=
  let x := s.link l
  if !x.works then .next s
  else
    match lowerConfig x e with
    | none => .next (enterLink l .fenced LinkCause.errors 0 s)
    | some (lanes, half) =>
      .next (enterLink l .degraded LinkCause.errors 0 (s.setLink l { x with lanes := lanes, half := half, retraining := true }))

/-- FAST_RETRAIN_COMPLETE: the link carries traffic again. -/
def execFastRetrainComplete (l : LinkId) (s : State) : Out := .next (s.setLink l { s.link l with retraining := false })

/-- CAUSE of a fence. -/
def fenceCode : FenceCause → Nat
  | .replay => LinkCause.replay
  | .credit => LinkCause.credit
  | .noLower => LinkCause.errors

/-- LINK_FENCE. -/
def execLinkFence (l : LinkId) (c : FenceCause) (s : State) : Out :=
  if (s.link l).works then .next (enterLink l .fenced (fenceCode c) 0 s) else .next s

/-- A link that works is quarantined (R345). -/
def quarantine (l : LinkId) (cause claimed : Nat) (s : State) : State :=
  if (s.link l).works then enterLink l .quarantined cause claimed s else s

/-! ## Flits (R330–R333) -/

namespace Flit
def ftype (w : BitVec 2048) : Nat := bits w 127 124
def stream (w : BitVec 2048) : Nat := 2 * bits w 123 122 + bits w 121 121
def fseq (w : BitVec 2048) : BitVec 8 := BitVec.ofNat 8 (bits w 120 113)
def ack (w : BitVec 2048) : BitVec 8 := BitVec.ofNat 8 (bits w 112 105)
def nak (w : BitVec 2048) : Bool := bit w 104
def crdStream (w : BitVec 2048) : Nat := 2 * bits w 103 102 + bits w 101 101
def crd (w : BitVec 2048) : Nat := bits w 100 93
def rsvdOk (w : BitVec 2048) : Bool := bits w 88 32 = 0
def crc (w : BitVec 2048) : Nat := bits w 31 0
end Flit

/-- One bit of CRC-32C, reflected. -/
def crcBit (c : Nat) : Nat := if c % 2 = 1 then (c / 2) ^^^ 0x82F63B78 else c / 2

/-- One byte of CRC-32C. -/
def crcByte (c b : Nat) : Nat := (List.range 8).foldl (fun x _ => crcBit x) (c ^^^ b)

/-- CRC-32C of bytes: start and final value inverted. -/
def crc32c (bs : List Nat) : Nat := (bs.foldl crcByte 0xFFFFFFFF) ^^^ 0xFFFFFFFF

/-- The bytes that a flit's CRC covers: header bits [127:32] and the payload. -/
def flitBytes (w : BitVec 2048) : List Nat := (List.range 252).map (fun i => bits w (8 * (i + 4) + 7) (8 * (i + 4)))

/-- An ACK names a flit that was sent: one that awaits its acknowledgement, or the last acknowledged. -/
def Link.ackOk (x : Link) (a : BitVec 8) : Bool := (x.fseq - 1 - a).toNat ≤ x.replay.length

/-- Acknowledged flits leave the replay buffer. -/
def Link.acked (x : Link) (a : BitVec 8) : Link :=
  { x with replay := x.replay.drop (x.replay.length - (x.fseq - 1 - a).toNat) }

/-- Link credits returned, up to the receiver's buffers. -/
def Link.credited (x : Link) (stream n : Nat) : Link :=
  { x with credits := x.credits.set 0 stream (min (streamBuffers.get 0 stream) (x.credits.get 0 stream + n)) }

/-- A NAK: everything after the acknowledged flit is sent again, in order. -/
def Link.naked (x : Link) (a : BitVec 8) : Link :=
  { x.acked a with replays := BitVec.ofNat 32 (satAdd 32 x.replays.toNat 1) }

/-- LINK_NAK. -/
def execLinkNak (l : LinkId) (a : BitVec 8) (s : State) : Out :=
  let x := s.link l
  if !(x.works || x.state = .auth) then .next s
  else if x.ackOk a then .next (s.setLink l (x.naked a))
  else .next (quarantine l LinkCause.malformed x.pDev.toNat s)

/-- What the decoder counts: a codeword group of four codewords every five flits, and its corrections. -/
def Link.counted (x : Link) (corrected : Option (BitVec 8)) : Link :=
  let full := x.groupFlits + 1 = 5
  { x with
    groupFlits := if full then 0 else x.groupFlits + 1
    cwRx := if full then x.cwRx + 4 else x.cwRx
    symCorr := match corrected with
      | some n => x.symCorr + BitVec.ofNat 48 n.toNat
      | none => x.symCorr
    cwUncorr := if corrected.isNone then BitVec.ofNat 32 (satAdd 32 x.cwUncorr.toNat 1) else x.cwUncorr }

/-- How far a flit's number lies ahead of the last one received in order. -/
def Link.ahead (x : Link) (w : BitVec 2048) : Nat := (Flit.fseq w - x.lastGood).toNat

/-- A flit that breaks R345's form: reserved FTYPE or bits, an ACK never sent, FSEQ outside the partner's window, or a LINK
flit after AUTH. -/
def Link.malformed (x : Link) (w : BitVec 2048) : Bool :=
  3 ≤ Flit.ftype w || !Flit.rsvdOk w || !x.ackOk (Flit.ack w)
    || (Flit.ftype w ≠ 0 && 64 < x.ahead w && x.ahead w ≤ 192)
    || (Flit.ftype w = 2 && x.works)

/-- A sound flit's ACK, NAK, CRD and number taken. -/
def Link.takes (x : Link) (w : BitVec 2048) : Link :=
  let y := ((if Flit.nak w then x.naked (Flit.ack w) else x.acked (Flit.ack w)).credited (Flit.crdStream w) (Flit.crd w))
  let z := if Flit.ftype w = 1 then { y with rxFlits := y.rxFlits + 1 } else y
  if Flit.ftype w = 0 then z
  else if x.ahead w = 1 then { z with lastGood := Flit.fseq w, awaiting := false }
  else if x.ahead w = 0 || 64 < x.ahead w || x.awaiting then z
  else { z with awaiting := true, nakOwed := true }

/-- FLIT: `corrected` is the number of symbols that the decoder corrected, none when a codeword was uncorrectable. -/
def execFlit (l : LinkId) (w : BitVec 2048) (corrected : Option (BitVec 8)) (s : State) : Out :=
  let x := s.link l
  if !(x.works || x.state = .auth) || x.retraining then .next s
  else
    let y := x.counted corrected
    if corrected.isNone || crc32c (flitBytes w) ≠ Flit.crc w then
      .next (s.setLink l { y with nakOwed := true, awaiting := true })
    else if y.malformed w then .next (quarantine l LinkCause.malformed x.pDev.toNat (s.setLink l y))
    else .next (s.setLink l (y.takes w))

end Sys2Proof.Machine
end

