-- ==== Sys2Proof/Machine/Packets.lean ====
section
/-! DEFINITION. Packets from other devices: what a partner may send, forwarding, and what each packet does (R331,
R336–R339, R342, R345–R349). -/

namespace Sys2Proof.Machine

/-! ## Admission (R345) -/

/-- Whether a device number may send over the link: the partner, a device of its board, or one of its slot. -/
def partnerMaySend (x : Link) (src : Nat) : Bool :=
  src = x.pDev.toNat || src / 8 = x.pDev.toNat / 8 || src % 8 = x.pDev.toNat % 8

/-- A packet that names a span of this device comes from the device that the directory lists for its index. -/
def windowOk (s : State) (h : BitVec 128) : Bool :=
  (spanCoupe s (Pkt.span h)).isNone || memberDev s (Pkt.span h) (Pkt.idx h) = some (Pkt.src h)

/-- How a packet for another device goes on (R339): to a board link, to an off-board link, or not at all. -/
inductive Forward where
  | board | offBoard | broken
  deriving DecidableEq, Repr

/-- R339's two kinds. -/
def forwardOf (s : State) (l : LinkId) (h : BitVec 128) : Forward :=
  let own := ownDev s / 8
  if 14 ≤ l.val then (if Pkt.dst h / 8 = own then .board else .broken)
  else if Pkt.src h / 8 = own && Pkt.dst h / 8 ≠ own then .offBoard
  else .broken

/-- A packet sent on its second hop, on VC 1 (R338); without a link in service it is not sent. -/
def forwardPkt (l : LinkId) (h : BitVec 128) (p : Payload) (s : State) : State :=
  let via := match forwardOf s l h with
    | .board => boardLink s (Pkt.dst h % 8) (Pkt.channel h % 2 = 1)
    | _ => offBoardLink s (Pkt.dst h / 8)
  match via with
  | some o => transmit o 1 h p s
  | none => raise0 0x23 (Pkt.dst h * 256) s

/-- A packet of type `ptype` with LEN `lenOk` arrives: refused by R345, forwarded, or taken by `act`. -/
def takePkt (l : LinkId) (h : BitVec 128) (ptype : Nat) (lenOk windowed : Bool) (p : Payload)
    (act : State → State) (s : State) : Out :=
  let x := s.link l
  if !x.works || x.retraining then .next s
  else if Pkt.ptype h ≠ ptype || !Pkt.rsvdOk h || !lenOk then .next (quarantine l LinkCause.malformed (Pkt.src h) s)
  else if !partnerMaySend x (Pkt.src h) then .next (quarantine l LinkCause.forwarding (Pkt.src h) s)
  else if Pkt.dst h ≠ ownDev s then
    (if forwardOf s l h = .broken then .next (quarantine l LinkCause.forwarding (Pkt.src h) s)
      else .next (forwardPkt l h p s))
  else if windowed && !windowOk s h then .next (quarantine l LinkCause.window (Pkt.src h) s)
  else .next (act s)

/-- Something for the coupe has come from another device (R350). -/
def crossArrival (k : CoupeId) (s : State) : State := s.setRun k { s.run k with lastCross := s.timebase }

/-! ## ROW (R336, R347) -/

/-- A row or marker of a point-to-point channel reaches the consuming end of its queue. -/
def rowToQueue (k : CoupeId) (h : BitVec 16) (q : Queue) (it : Item) (s : State) : State :=
  if q.network.isEmpty && q.admits it then progress (admitItem k h q it s) (QRec.cons q.record)
  else enterQueue k h q it s

/-- The item of a ROW packet. The packet's fields do not say which marker a packet with LEN 0 carries: a free value. -/
def rowItem (h : BitVec 128) (data : Row) (s : State) : Item × State :=
  if Pkt.len h = 512 then (.row data (Pkt.poison h), s)
  else
    let (v, t) := drawFree s
    (.marker (if v.toNat % 2 = 0 then .endOfStream else .emptyOutput), t)

/-- A ROW packet for coupe k. -/
def takeRow (k : CoupeId) (h : BitVec 128) (data : Row) (s : State) : State :=
  let reduces := 24 ≤ Pkt.channel h
  let handle := spanHandle (if reduces then (s.coupe k).sIndex.toNat else Pkt.idx h) (Pkt.channel h)
  match s.queue k handle with
  | none => s.setRun k { s.run k with strays := (s.run k).strays + 1 }
  | some q =>
    if q.epoch ≠ Pkt.epoch h then s.setQueue k handle (some { q with discarded := q.discarded + 1 })
    else
      let s1 := crossArrival k s
      if reduces then contribute k handle (Pkt.idx h) (Pkt.ord h) data (Pkt.poison h) s1
      else
        let (it, s2) := rowItem h data s1
        rowToQueue k handle q it s2

/-- ROW. -/
def execRow (l : LinkId) (h : BitVec 128) (data : Row) (s : State) : Out :=
  takePkt l h 1 (Pkt.len h = 512 || (Pkt.len h = 0 && Pkt.channel h < 24)) true
    (if Pkt.len h = 512 then .row data else .nothing)
    (fun t => match spanCoupe t (Pkt.span h) with
      | none => t
      | some k => takeRow k h data t) s

/-! ## CREDIT (R336) -/

/-- Credits for the producing end of a queue, at most its depth, and what they release. -/
def takeCredit (k : CoupeId) (h : BitVec 128) (n : Nat) (s : State) : State :=
  let handle := spanHandle (Pkt.idx h) (Pkt.channel h)
  match s.queue k handle with
  | none => s
  | some q =>
    if q.epoch ≠ Pkt.epoch h then s
    else
      let s1 := s.setQueue k handle (some { q with credits := min q.depth (q.credits + n) })
      let c := QRec.prod q.record
      let p := 4 + QRec.prodPort q.record
      runFeed k handle (if (s1.core c).port p = handle then releasePort c p k handle s1 else s1)

/-- CREDIT. -/
def execCredit (l : LinkId) (h : BitVec 128) (count : BitVec 8) (s : State) : Out :=
  takePkt l h 2 (Pkt.len h = 4) true (.credit count.toNat)
    (fun t => match spanCoupe t (Pkt.span h) with
      | none => t
      | some k => takeCredit k h count.toNat t) s

/-! ## OUTCOME (R349, R363) -/

/-- An OUTCOME of the open step, of a step still to come, or of an older one. -/
def takeOutcome (k : CoupeId) (o : HeldOutcome) (s : State) : State :=
  let s1 := crossArrival k s
  let r := s1.run k
  let hold_ : State :=
    if r.xtagsDone.contains o.xtag || 4 ≤ (r.heldOutcomes.filter (fun x => x.member = o.member)).length then s1
    else s1.setRun k { r with heldOutcomes := r.heldOutcomes ++ [o] }
  match r.openStep with
  | none => hold_
  | some st =>
    if st.spans && StepD.xtag st.w = o.xtag then
      if o.attempt.toNat < st.attempt || st.outcomes.any (fun x => x.member = o.member && x.attempt = o.attempt) then s1
      else setStep k { st with outcomes := st.outcomes ++ [o] } s1
    else hold_

/-- OUTCOME. One of a member with another S_COUNT takes no part in the agreement (R273). -/
def execOutcome (l : LinkId) (h : BitVec 128) (xtag : BitVec 32) (attempt : BitVec 2) (nreq : BitVec 7)
    (status : BitVec 8) (statuses : List (BitVec 8)) (digest : Option (BitVec 64)) (count : BitVec 9) (s : State) : Out :=
  let o : HeldOutcome := ⟨BitVec.ofNat 8 (Pkt.idx h), xtag, attempt, nreq, status, statuses, digest, count⟩
  takePkt l h 3 (Pkt.len h = 8 + statuses.length + (if digest.isSome then 8 else 0)) true (.outcome o)
    (fun t => match spanCoupe t (Pkt.span h) with
      | none => t
      | some k => if count = (t.coupe k).sCount then takeOutcome k o t else crossArrival k t) s

/-! ## FLUSH (R336) -/

/-- Output ports of a coupe that wait to send to a member, and its feeds, go on. -/
def releaseTo (k : CoupeId) (m : Nat) (s : State) : State :=
  let hs := ((s.run k).queues.map (fun e => BitVec.ofNat 16 e.1)).filter (fun h => isSpanHandle h && handlePartner h = m)
  hs.foldl (fun t h =>
    match t.queue k h with
    | none => t
    | some q =>
      let c := QRec.prod q.record
      let p := 4 + QRec.prodPort q.record
      runFeed k h (if (t.core c).port p = h then releasePort c p k h t else t)) s

/-- FLUSH. -/
def execFlush (l : LinkId) (h : BitVec 128) (s : State) : Out :=
  takePkt l h 4 (Pkt.len h = 0) true .nothing
    (fun t => match spanCoupe t (Pkt.span h) with
      | none => t
      | some k =>
        let r := t.run k
        let e := Pkt.idx h * 256 + (Pkt.epoch h).toNat
        releaseTo k (Pkt.idx h)
          (t.setRun k { r with flushed := if r.flushed.contains e then r.flushed else r.flushed ++ [e] })) s

/-! ## ANNOUNCE (R337) -/

/-- Events for conflicts that were not there before. -/
def raiseConflicts (old : List (BitVec 16 × Nat)) (s : State) : State :=
  ((spanConflicts s).filter (fun c => !old.contains c)).foldl (fun t c =>
    raise0 0x24 (c.1.toNat * 65536 + c.2 * 256) t) s

/-- The mark of each member coupe of a span in conflict; its open step that still runs ends with SHARD_TIMEOUT. -/
def markConflict (k : CoupeId) (s : State) : State :=
  let bad := (s.coupe k).sCount ≠ 0 && (spanConflicts s).any (fun c => c.1 = (s.coupe k).spanId)
  let r := s.run k
  if r.spanConflict = bad then s
  else
    let s1 := s.setRun k { r with spanConflict := bad }
    match r.openStep with
    | some st =>
      if bad && st.spans && !st.boundary then endStep k Status.shardTimeout 0 0 (flushCoupe k s1) else s1
    | none => s1

/-- Conflicts judged again after the claims have changed. -/
def judgeClaims (old : List (BitVec 16 × Nat)) (s : State) : State :=
  (listedCoupes s).foldl (fun t k => markConflict k t) (raiseConflicts old s)

/-- An ANNOUNCE from the partner itself goes on once: from a board link to the off-board links, and the other way. -/
def relayAnnounce (l : LinkId) (h : BitVec 128) (p : Payload) (s : State) : State :=
  if Pkt.src h ≠ (s.link l).pDev.toNat then s
  else
    (allLinks.filter (fun o => (s.link o).works && decide (14 ≤ o.val) ≠ decide (14 ≤ l.val))).foldl (fun t o =>
      transmit o 1 (Pkt.make 5 (t.link o).pDev.toNat (Pkt.src h) 0 0 0 0 false (Pkt.len h) 0) p t) s

/-- ANNOUNCE. -/
def execAnnounce (l : LinkId) (h : BitVec 128) (members : List (BitVec 16 × BitVec 8)) (reach : BitVec 32) (s : State) :
    Out :=
  takePkt l h 5 (Pkt.len h = 8 + 4 * members.length) false (.announce members reach)
    (fun t =>
      let old := spanConflicts t
      let src := BitVec.ofNat 8 (Pkt.src h)
      let t1 := { t with announced := t.announced.filter (fun a => a.dev ≠ src) ++ [⟨src, members, reach⟩] }
      relayAnnounce l h (.announce members reach) (judgeClaims old t1)) s

/-! ## BUNDLE (R259, R348) -/

/-- A bundle for coupe k joins its open step, or waits for the step or attempt that it belongs to. -/
def takeBundle (k : CoupeId) (h : BitVec 128) (layer sender : Nat) (ps : List (BitVec 128)) (s : State) : State :=
  let s1 := crossArrival k s
  let r := s1.run k
  let early := s1.setRun k { r with
    earlyBundles := r.earlyBundles ++ [((Pkt.epoch h).toNat, layer, sender, ps)] }
  match r.openStep, bindingOf s1 k with
  | some st, some cfg =>
    if st.spans && !st.boundary && Pkt.epoch h = r.spanEpoch then
      checkBoundary k (joinBundle k cfg (s1.coupe k).map layer sender ps s1)
    else early
  | _, _ => early

/-- BUNDLE. -/
def execBundle (l : LinkId) (h : BitVec 128) (layer : BitVec 16) (sender : BitVec 8) (pairs : List (BitVec 128))
    (s : State) : Out :=
  takePkt l h 6 (Pkt.len h = 4 + 16 * pairs.length) true (.bundle layer sender pairs)
    (fun t => match spanCoupe t (Pkt.span h) with
      | none => t
      | some k => takeBundle k h layer.toNat sender.toNat pairs t) s

/-! ## SPDM and COORD (R342) -/

/-- A link-management packet: in AUTH it is taken; on a link in service it is malformed (R345). -/
def takeAuth (l : LinkId) (f : Link → Link) (s : State) : Out :=
  let x := s.link l
  if x.state = .auth then .next (s.setLink l (f x))
  else if x.retraining then .next s
  else .next (quarantine l LinkCause.malformed x.pDev.toNat s)

/-- SPDM: a message of the exchange. -/
def execSpdm (l : LinkId) (message : BitVec 8) (s : State) : Out :=
  takeAuth l (fun x => { x with spdm := x.spdm ++ [message] }) s

/-- COORD: the partner's coordinate record. -/
def execCoord (l : LinkId) (w : BitVec 128) (s : State) : Out :=
  takeAuth l (fun x => { x with
    coord := some w
    pPod := Coord.pod w
    pDev := BitVec.ofNat 8 (Coord.devno w) }) s

end Sys2Proof.Machine
end

