-- ==== Sys2Proof/Machine/Images.lean ====
section
/-! DEFINITION. Weight images: an image's sections and the checks of LOAD_IMAGE, loading and unloading
(R16, R24, R121, R122, R126, R148–R156, R159, R161, R162, R167, R169, R195–R198, R200, R440). -/

namespace Sys2Proof.Machine

/-! ## Refusal records (R153) -/

/-- What a check refuses: REASON, SECTION, CONFIG, ENTRY, DETAIL. -/
structure Refused where
  reason : Nat
  section_ : Nat
  config : Nat
  entry : Nat
  detail : Nat
  deriving DecidableEq, Repr

/-- The refusal record (R153). It has no place for the IMAGE_TAG that R148 wants reported: DESIGN CHOICE, it is reported
nowhere (log entry 124). -/
def Refused.record (r : Refused) : BitVec 64 :=
  put 56 r.reason ||| put 48 r.section_ ||| put 43 (r.config % 32) ||| put 16 (r.entry % 2 ^ 27) ||| put 0 (r.detail % 2 ^ 16)

/-- The status that a reason gives (R154). -/
def Refused.status (r : Refused) : BitVec 8 := if r.reason < 0x20 then Status.imageIncomplete else Status.doesNotFit

/-- A descriptor completes with a refusal record. -/
def refuse (q : Desc) (r : Refused) (s : State) : State := finishAt q.ring q.pos r.status 2 r.record 0 s

/-- The lowest reason among those that hold. -/
def lowestReason (l : List (Nat × Bool)) : Option Nat :=
  ((l.filter (·.2)).map (·.1)).foldl (fun best r =>
    match best with
    | none => some r
    | some b => some (min b r)) none

/-! Reason codes. -/

namespace Reason
def header : Nat := 0x01
def section_ : Nat := 0x02
def field : Nat := 0x03
def codebook : Nat := 0x04
def reference : Nat := 0x05
def queue : Nat := 0x06
def overlap : Nat := 0x07
def order : Nat := 0x08
def shard : Nat := 0x09
def image : Nat := 0x0A
def stands : Nat := 0x20
def bench : Nat := 0x21
def placement : Nat := 0x22
def deck : Nat := 0x23
def span : Nat := 0x24
def profile : Nat := 0x25
def router : Nat := 0x26
def barriers : Nat := 0x27
end Reason

/-! ## A shard as rows (R148, R149) -/

/-- Entry i of a section of entries of `size` bytes that begins at row `first`. -/
def secEntry (f : Nat → Row) (first size i : Nat) : Nat :=
  ((f (first + i * size / 512)).toNat >>> (8 * (i * size % 512))) % 2 ^ (8 * size)

/-! Header fields. -/

namespace ImgHdr
def field (r : Row) (off size : Nat) : Nat := bits r (8 * off + 8 * size - 1) (8 * off)
def magic (r : Row) : Nat := field r 0x000 8
def version (r : Row) : Nat := field r 0x008 2
def stepping (r : Row) : Nat := field r 0x00A 2
def model (r : Row) : Nat := field r 0x00C 4
def adapter (r : Row) : Nat := field r 0x010 2
def shardIndex (r : Row) : Nat := field r 0x012 2
def shardCount (r : Row) : Nat := field r 0x014 2
def configCount (r : Row) : Nat := field r 0x016 2
def rows (r : Row) : Nat := field r 0x018 8
def sectRow (r : Row) : Nat := field r 0x020 8
def sectCount (r : Row) : Nat := field r 0x028 4
def tag (r : Row) : Nat := field r 0x030 8
def rsvdOk (r : Row) : Bool := field r 0x02C 4 = 0 && field r 0x038 456 = 0
/-- "KRWPHIMG", first byte lowest. -/
def magicValue : Nat := 0x474D49485057524B
end ImgHdr

/-! Section table entries. -/

namespace Sect
def type (w : BitVec 128) : Nat := bits w 127 120
def config (w : BitVec 128) : Nat := bits w 119 115
def rsvdOk (w : BitVec 128) : Bool := bits w 114 112 = 0
def first (w : BitVec 128) : Nat := bits w 111 64
def rows (w : BitVec 128) : Nat := bits w 63 16
def count (w : BitVec 128) : Nat := bits w 15 0
/-- Bytes of one entry; 0 for DATA. -/
def size (t : Nat) : Nat :=
  match t with
  | 0x01 => 512 | 0x02 => 1 | 0x03 => 16 | 0x04 => 128 | 0x05 => 16 | 0x06 => 8 | 0x07 => 32 | 0x08 => 8
  | 0x09 => 8 | 0x0A => 16 | 0x0B => 16 | 0x0C => 16 | 0x10 => 32 | 0x11 => 64 | 0x12 => 32 | 0x13 => 32
  | _ => 0
def perConfig (t : Nat) : Bool := 0x01 ≤ t && t ≤ 0x0C
def shared (t : Nat) : Bool := 0x10 ≤ t && t ≤ 0x14
/-- Per-configuration types that every configuration must have. -/
def required : List Nat := [0x01, 0x02, 0x03, 0x04, 0x07]
/-- The CONFIG of a shared section. -/
def all : Nat := 0x1F
end Sect

/-- A shard's section table entry i. -/
def sectAt (f : Nat → Row) (i : Nat) : BitVec 128 := BitVec.ofNat 128 (secEntry f (ImgHdr.sectRow (f 0)) 16 i)

/-- The section of a type and configuration. -/
def findSect (f : Nat → Row) (type config : Nat) : Option (BitVec 128) :=
  ((List.range (ImgHdr.sectCount (f 0))).map (sectAt f)).find? (fun w => Sect.type w = type && Sect.config w = config)

/-- The entries of a section, none where the shard has no such section. -/
def entriesOf (f : Nat → Row) (type config : Nat) : List Nat :=
  match findSect f type config with
  | none => []
  | some w => (List.range (Sect.count w)).map (secEntry f (Sect.first w) (Sect.size type))

/-! ## The configuration record (R150–R152) -/

namespace CfgRec
def byte (w : BitVec 4096) (i : Nat) : Nat := Row.byte w i
def half (w : BitVec 4096) (i : Nat) : Nat := Row.byte w i + 256 * Row.byte w (i + 1)
def profile (w : BitVec 4096) : Nat := byte w 2
def mode (w : BitVec 4096) : Nat := byte w 3
def standsD (w : BitVec 4096) : Nat := byte w 4
def standsC (w : BitVec 4096) : Nat := byte w 5
def span (w : BitVec 4096) : Nat := half w 6
def dims (w : BitVec 4096) : Nat := byte w 8
def stages (w : BitVec 4096) : Nat := byte w 9
def prefetch (w : BitVec 4096) : Nat := byte w 0x0A
def layers (w : BitVec 4096) : Nat := half w 0x0C
def floor (w : BitVec 4096) : Nat := bits w 191 128
def rsvdOk (w : BitVec 4096) : Bool := byte w 0x0B = 0 && half w 0x0E = 0 && bits w 4095 192 = 0
end CfgRec

/-- The configuration record of configuration c, zero where it is missing. -/
def cfgRec (f : Nat → Row) (c : Nat) : BitVec 4096 := BitVec.ofNat 4096 ((entriesOf f 0x01 c).headD 0)

/-- Placement bytes of configuration c. -/
def placement (f : Nat → Row) (c : Nat) : List Nat := entriesOf f 0x02 c
/-- KIND (courser) and SGROUP of a placement byte. -/
def placeCourser (b : Nat) : Bool := b.testBit 7
def placeGroup (b : Nat) : Nat := b / 16 % 8

/-- A configuration core index names a configuration stand. -/
def coreIndexOk (f : Nat → Row) (c idx : Nat) : Bool := idx / 32 < (placement f c).length

/-! Code run entries (R440). -/

namespace Run
def core (w : BitVec 128) : Nat := bits w 127 116
def row (w : BitVec 128) : Nat := bits w 115 101
def rows (w : BitVec 128) : Nat := bits w 100 85
def offset (w : BitVec 128) : Nat := bits w 84 37
def rsvdOk (w : BitVec 128) : Bool := bits w 36 0 = 0
end Run

/-! Window declarations (R152). -/

namespace WinDecl
def core (w : BitVec 64) : Nat := bits w 63 52
def base (w : BitVec 64) : Nat := bits w 47 33
def len (w : BitVec 64) : Nat := bits w 32 21
def rsvdOk (w : BitVec 64) : Bool := bits w 20 0 = 0
end WinDecl

def cfgQueues (f : Nat → Row) (c : Nat) : List (BitVec 128) := (entriesOf f 0x05 c).map (BitVec.ofNat 128)
def cfgTemplates (f : Nat → Row) (c : Nat) : List (BitVec 1024) := (entriesOf f 0x04 c).map (BitVec.ofNat 1024)
def cfgFeeds (f : Nat → Row) (c : Nat) : List (BitVec 128) := (entriesOf f 0x0B c).map (BitVec.ofNat 128)
def cfgRuns (f : Nat → Row) (c : Nat) : List (BitVec 128) := (entriesOf f 0x03 c).map (BitVec.ofNat 128)
def cfgWindows (f : Nat → Row) (c : Nat) : List (BitVec 64) := (entriesOf f 0x06 c).map (BitVec.ofNat 64)

/-- The end of a queue that tasks of the configuration bind: as consumer, as producer (R335). -/
def bindsIn (f : Nat → Row) (c : Nat) (h : BitVec 16) : Bool :=
  (cfgTemplates f c).any (fun t => (List.range 4).any (fun p => Task.port (Tpl.record t) p = h))
def bindsOut (f : Nat → Row) (c : Nat) (h : BitVec 16) : Bool :=
  (cfgTemplates f c).any (fun t => (List.range 4).any (fun p => Task.port (Tpl.record t) (4 + p) = h))
    || (cfgFeeds f c).any (fun w => Feed.queue w = h)

/-- Slack rings of configuration c: core index, first row, rows. The consumer of a span queue counts where tasks of this
device bind it. -/
def slackRings (f : Nat → Row) (c : Nat) : List (Nat × Nat × Nat) :=
  ((cfgQueues f c).filter (fun q => QRec.slackLen q ≠ 0
      && (!isSpanHandle (QRec.handle q) || bindsIn f c (QRec.handle q)))).map (fun q =>
    ((QRec.cons q).toNat, QRec.slackBase q, QRec.slackLen q))

/-- Two ranges of n and m rows share a row. -/
def rangesMeet (a n b m : Nat) : Bool := a < b + m && b < a + n

/-! ## Entry checks (R150–R169, R198, R440): the lowest reason, with its DETAIL -/

/-- A refusal whose DETAIL is a core index for BENCH and OVERLAP. -/
def withCore (idx : Nat) (r : Option Nat) : Option (Nat × Nat) :=
  r.map (fun x => (x, if x = Reason.bench || x = Reason.overlap then idx else 0))
def plain (r : Option Nat) : Option (Nat × Nat) := r.map (fun x => (x, 0))

def checkConfig (w : BitVec 4096) : Option (Nat × Nat) :=
  let big := 64 < CfgRec.standsD w || 64 < CfgRec.standsC w
  match lowestReason [
    (Reason.field, 1 < CfgRec.profile w || 1 < CfgRec.mode w || CfgRec.span w = 0 || 256 < CfgRec.span w
      || CfgRec.dims w = 0 || 4 < CfgRec.dims w || CfgRec.stages w = 0 || 8 < CfgRec.stages w
      || (if CfgRec.mode w = 0 then CfgRec.prefetch w ≠ 0 || CfgRec.layers w ≠ 0
          else CfgRec.prefetch w = 0 || 2 < CfgRec.prefetch w)
      || !CfgRec.rsvdOk w),
    (Reason.stands, big)] with
  | none => none
  | some r => some (r, if r = Reason.stands then (if 64 < CfgRec.standsD w then 0 else 1) else 0)

/-- Placement entry i; the entry past the last stands for a kind that falls short. -/
def checkPlacement (f : Nat → Row) (c i b : Nat) : Option (Nat × Nat) :=
  let kind := placeCourser b
  let before := ((placement f c).take (i + 1)).filter (fun x => placeCourser x = kind)
  let most := if kind then CfgRec.standsC (cfgRec f c) else CfgRec.standsD (cfgRec f c)
  plain (lowestReason [(Reason.field, b % 16 ≠ 0 || most < before.length)])

/-- The kinds of a PLACEMENT section fall short. -/
def placementShort (f : Nat → Row) (c : Nat) : Bool :=
  let l := placement f c
  let w := cfgRec f c
  (l.filter placeCourser).length < CfgRec.standsC w || (l.filter (fun b => !placeCourser b)).length < CfgRec.standsD w

def checkRun (f : Nat → Row) (c : Nat) (w : BitVec 128) : Option (Nat × Nat) :=
  let sect := findSect f 0x03 c
  let n := (sect.map Sect.count).getD 0
  let rows := (sect.map Sect.rows).getD 0
  withCore (Run.core w) (lowestReason [
    (Reason.field, !Run.rsvdOk w || Run.rows w = 0 || 30720 < Run.rows w || Run.offset w < ceilDiv (16 * n) 512
      || rows < Run.offset w + Run.rows w),
    (Reason.reference, !coreIndexOk f c (Run.core w)),
    (Reason.overlap, (slackRings f c).any (fun r => r.1 = Run.core w && rangesMeet r.2.1 r.2.2 (Run.row w) (Run.rows w))),
    (Reason.bench, lastRow < Run.row w + Run.rows w - 1)])

/-- A feed drives output port p − 4 of the template's core (R154, R167). -/
def feedPort (f : Nat → Row) (c : Nat) (t : BitVec 1024) (p : Nat) : Bool :=
  4 ≤ p && (cfgFeeds f c).any (fun w => (cfgQueues f c).any (fun q =>
    QRec.handle q = Feed.queue w && QRec.prod q = Tpl.core t && QRec.prodPort q = p - 4))

/-- A template's binding of port p against the queue records and feeds (R121, R154). -/
def portFault (f : Nat → Row) (c : Nat) (t : BitVec 1024) (p : Nat) : Bool :=
  let h := Task.port (Tpl.record t) p
  if h = 0xFFFF then false
  else if 0x4000 ≤ h.toNat || feedPort f c t p then true
  else
    match (cfgQueues f c).find? (fun q => QRec.handle q = h) with
    | none => true
    | some q =>
      if p < 4 then !(QRec.cons q = Tpl.core t && QRec.consPort q = p)
      else !(QRec.prod q = Tpl.core t && QRec.prodPort q = p - 4) || (cfgFeeds f c).any (fun w => Feed.queue w = h)

def checkTemplate (f : Nat → Row) (c : Nat) (t : BitVec 1024) : Option (Nat × Nat) :=
  let w := Tpl.record t
  let idx := (Tpl.core t).toNat
  let kind := ((placement f c)[idx / 32]?).map placeCourser
  withCore idx (lowestReason [
    (Reason.field, Task.seed w ≠ 0 || Task.incarn w ≠ 0 || Task.step w ≠ 0 || !Task.rsvdOk w || !qcwOk (Task.qcw w)
      || (Task.bound w).toNat < (Task.base w).toNat || bits t 572 568 ≠ 0 || bits t 551 512 ≠ 0 || bits t 1023 576 ≠ 0
      || (Tpl.reloc0 t && Tpl.shape0 t) || (Tpl.reloc1 t && Tpl.shape1 t)
      || (kind.isSome && kind ≠ some (Task.courser w))),
    (Reason.reference, kind.isNone || (Tpl.reloc0 t && !coreIndexOk f c (bits (Task.arg0 w) 26 15))
      || (Tpl.reloc1 t && !coreIndexOk f c (bits (Task.arg1 w) 26 15))),
    (Reason.queue, (List.range 8).any (portFault f c t)),
    (Reason.bench, lastRow < (Task.bound w).toNat)])

/-- Queue record i (R121, R122, R126). -/
def checkQueue (f : Nat → Row) (c i : Nat) (q : BitVec 128) : Option (Nat × Nat) :=
  let h := QRec.handle q
  let span := isSpanHandle h
  let inner := !span || bindsIn f c h
  let outer := !span || bindsOut f c h
  let cons := (QRec.cons q).toNat
  let base := QRec.slackBase q
  let len := QRec.slackLen q
  let slack := inner && len ≠ 0
  withCore cons (lowestReason [
    (Reason.field, bits q 39 0 ≠ 0),
    (Reason.reference, (inner && !coreIndexOk f c cons) || (outer && !coreIndexOk f c (QRec.prod q).toNat)
      || (QRec.padSel q ≠ 0 && (entriesOf f 0x08 c).length ≤ QRec.padSel q)),
    (Reason.queue, (h ≠ 0xFFFF && 0x4000 ≤ h.toNat)
      || ((cfgQueues f c).take i).any (fun o => QRec.handle o = h)),
    (Reason.overlap, slack &&
      ((cfgTemplates f c).any (fun t => (Tpl.core t).toNat = cons
          && rangesMeet base len (Task.base (Tpl.record t)).toNat
            ((Task.bound (Tpl.record t)).toNat + 1 - (Task.base (Tpl.record t)).toNat))
        || (cfgWindows f c).any (fun w => WinDecl.core w = cons && rangesMeet base len (WinDecl.base w) (WinDecl.len w))
        || ((cfgQueues f c).zipIdx.any (fun o => o.2 ≠ i && QRec.slackLen o.1 ≠ 0 && (QRec.cons o.1).toNat = cons
          && (!isSpanHandle (QRec.handle o.1) || bindsIn f c (QRec.handle o.1))
          && rangesMeet base len (QRec.slackBase o.1) (QRec.slackLen o.1))))),
    (Reason.bench, slack && lastRow < base + len - 1)])

def checkWindow (f : Nat → Row) (c : Nat) (w : BitVec 64) : Option (Nat × Nat) :=
  withCore (WinDecl.core w) (lowestReason [
    (Reason.field, !WinDecl.rsvdOk w || WinDecl.len w = 0 || 2048 < WinDecl.len w),
    (Reason.reference, !coreIndexOk f c (WinDecl.core w)),
    (Reason.bench, lastRow < WinDecl.base w + WinDecl.len w - 1)])

/-- Bucket i (R156). -/
def checkBucket (f : Nat → Row) (c i : Nat) (b : BitVec 256) : Option (Nat × Nat) :=
  let ts := cfgTemplates f c
  let prior := (((entriesOf f 0x07 c).take i).map (BitVec.ofNat 256)).filter (fun (o : BitVec 256) => Bkt.stage o = Bkt.stage b)
  plain (lowestReason [
    (Reason.field, Bkt.max b 0 = 0 || Bkt.count b = 0 || bits b 108 0 ≠ 0
      || (List.range 4).any (fun d => CfgRec.dims (cfgRec f c) ≤ d && Bkt.max b d ≠ 0)),
    (Reason.reference, ts.length < Bkt.first b + Bkt.count b
      || ((ts.drop (Bkt.first b)).take (Bkt.count b)).any (fun t => Tpl.stage t ≠ Bkt.stage b)),
    (Reason.order, prior.any (fun (o : BitVec 256) => Bkt.key b < Bkt.key o))])

/-- Padding entry i (R159). -/
def checkPadding (i : Nat) (w : BitVec 64) : Option (Nat × Nat) :=
  let fmt := Pad.fmt w
  let bad := bits w 6 0 ≠ 0 || !(fmt = 0x00 || fmt = 0x01 || fmt = 0x02 || fmt = 0x10 || fmt = 0x11) || Pad.mode w = 3
    || Pad.unit w = 0 || 2 ^ Fmt.ebits fmt ≤ Pad.value w || (Pad.gran w && Fmt.perRow fmt % Pad.unit w ≠ 0)
  plain (lowestReason [(Reason.field, if i = 0 then w ≠ 0 else bad)])

def checkBarrier (w : BitVec 64) : Option (Nat × Nat) :=
  plain (lowestReason [
    (Reason.field, bits w 28 0 ≠ 0 || Barrier.target w = 0 || (Barrier.entry w && !Barrier.memory w))])

/-- A walk names a padding entry that the configuration does not have. -/
def walkPadMissing (f : Nat → Row) (c : Nat) (w : Option (BitVec 512)) : Bool :=
  w.any (fun v => Walk.padSel v ≠ 0 && (entriesOf f 0x08 c).length ≤ Walk.padSel v)

/-- A feed (R121, R167): its walk, its queue, unless 0xFFFF leaves it without one, and the padding that the walk names in this configuration. -/
def checkFeed (f : Nat → Row) (c : Nat) (w : BitVec 128) : Option (Nat × Nat) :=
  let h := Feed.queue w
  let rec_ := (cfgQueues f c).find? (fun q => QRec.handle q = h)
  let walk := ((entriesOf f 0x11 Sect.all)[Feed.walk w]?).map (BitVec.ofNat 512)
  plain (lowestReason [
    (Reason.field, bits w 42 0 ≠ 0 || 1 < Feed.end_ w || (h ≠ 0xFFFF && rec_.any (fun q => !QRec.persist q))),
    (Reason.reference, walk.isNone
      || walkPadMissing f c walk),
    (Reason.queue, h ≠ 0xFFFF && (0x4000 ≤ h.toNat || rec_.isNone))])

/-! Tensor directory entries (R198). -/

namespace Tensor
def tag (w : BitVec 256) : Nat := bits w 255 224
def layout (w : BitVec 256) : Nat := bits w 223 208
def codebook (w : BitVec 256) : Nat := bits w 207 192
def first (w : BitVec 256) : Nat := bits w 191 144
def rows (w : BitVec 256) : Nat := bits w 143 96
def tiles (w : BitVec 256) : Nat := bits w 95 80
def tileRows (w : BitVec 256) : Nat := if bits w 79 72 = 0 then 256 else bits w 79 72
end Tensor

/-- Tensor n of a shard, when its directory has one. -/
def tensorAt (f : Nat → Row) (n : Nat) : Option (BitVec 256) := ((entriesOf f 0x12 Sect.all)[n]?).map (BitVec.ofNat 256)

/-- Walk n of a shard, when it has one. -/
def walkAt (f : Nat → Row) (n : Nat) : Option (BitVec 512) := ((entriesOf f 0x11 Sect.all)[n]?).map (BitVec.ofNat 512)

/-! Residence and skid records (R164–R166): the spec names their fields, and what a record says of them is free (log entry
30). -/

/-- Residence records of configuration c. -/
def cfgResidence (f : Nat → Row) (c : Nat) : List Residence :=
  (entriesOf f 0x0C c).map (fun v => Config.residence (BitVec.ofNat 128 v))

/-- Skid records of configuration c. -/
def cfgSkids (f : Nat → Row) (c : Nat) : List Skid :=
  match findSect f 0x0A c with
  | none => []
  | some w => (List.range (Sect.count w)).map
      (Config.skid ((List.range (Sect.rows w)).map (fun i => f (Sect.first w + i))))

/-- Rows that a walk emits at full extent, at most `most` tiles of it; a row is counted from the walk's base, none for a row
of a pad tile. -/
def walkPlan (w : BitVec 512) (most : Nat) : List (Option Int) :=
  ((walkTiles w (List.replicate 4 (2 ^ 32))).take most).flatMap (fun t =>
    (List.range (Walk.tileRows w)).map (fun (i : Nat) => t.map (fun off => off + (i : Int))))

/-- First bench rows of the areas of a residence record (R164, R165). -/
def areasOf (prefetch : Nat) (r : Residence) : List Nat := ([r.row0, r.row1, r.row2].map (·.toNat)).take (prefetch + 1)

/-- Core index, first bench row and rows of everything that configuration c's residence records declare. -/
def residenceRows (f : Nat → Row) (c : Nat) : List (Nat × Nat × Nat) :=
  (cfgResidence f c).flatMap (fun r =>
    let n := ((walkAt f r.walk.toNat).map (fun w => (walkPlan w r.count.toNat).length)).getD 0
    (areasOf (CfgRec.prefetch (cfgRec f c)) r).map (fun a => (r.core.toNat, a, n)))

/-- The same for skid destinations. -/
def skidRows (f : Nat → Row) (c : Nat) : List (Nat × Nat × Nat) :=
  (cfgSkids f c).flatMap (fun r =>
    let n := ((walkAt f r.walk.toNat).map (fun w => (walkTiles w (List.replicate 4 (2 ^ 32))).length * Walk.tileRows w)).getD 0
    r.members.map (fun m => (m.toNat, r.row.toNat, n)))

/-- Rows that would pass the bench, or overlap a slack ring, on some core. -/
def pastBench (l : List (Nat × Nat × Nat)) : Option Nat := (l.find? (fun e => lastRow + 1 < e.2.1 + e.2.2)).map (·.1)
def onSlack (f : Nat → Row) (c : Nat) (l : List (Nat × Nat × Nat)) : Option Nat :=
  (l.find? (fun e => (slackRings f c).any (fun r => r.1 = e.1 && rangesMeet r.2.1 r.2.2 e.2.1 e.2.2))).map (·.1)

/-- A refusal of a record that declares rows, with the core index of BENCH or OVERLAP. -/
def rowFault (f : Nat → Row) (c : Nat) (field reference : Bool) (l : List (Nat × Nat × Nat)) : Option (Nat × Nat) :=
  match lowestReason [(Reason.field, field), (Reason.reference, reference), (Reason.overlap, (onSlack f c l).isSome),
      (Reason.bench, (pastBench l).isSome)] with
  | none => none
  | some r => some (r, if r = Reason.overlap then (onSlack f c l).getD 0
      else if r = Reason.bench then (pastBench l).getD 0 else 0)

/-- A residence record (R150, R154, R164). -/
def checkResidence (f : Nat → Row) (c v : Nat) : Option (Nat × Nat) :=
  let r := Config.residence (BitVec.ofNat 128 v)
  let t := tensorAt f r.tensor.toNat
  let w := walkAt f r.walk.toNat
  let n := (w.map (fun w => (walkPlan w r.count.toNat).length)).getD 0
  rowFault f c (t.any (fun t => Tensor.tiles t < r.first.toNat + r.count.toNat))
    (t.isNone || w.isNone || walkPadMissing f c w || !coreIndexOk f c r.core.toNat)
    ((areasOf (CfgRec.prefetch (cfgRec f c)) r).map (fun a => (r.core.toNat, a, n)))

/-- Skid record i (R150, R154, R166). -/
def checkSkid (f : Nat → Row) (c i : Nat) : Option (Nat × Nat) :=
  match (cfgSkids f c)[i]? with
  | none => none
  | some r =>
    let t := tensorAt f r.tensor.toNat
    let w := walkAt f r.walk.toNat
    let b := ((entriesOf f 0x09 c)[r.barrier.toNat]?).map (BitVec.ofNat 64)
    let n := (w.map (fun w => (walkTiles w (List.replicate 4 (2 ^ 32))).length * Walk.tileRows w)).getD 0
    rowFault f c (r.members.length < 2 || 64 < r.members.length || b.any Barrier.memory)
      (t.isNone || w.isNone || b.isNone || walkPadMissing f c w || r.members.any (fun m => !coreIndexOk f c m.toNat))
      (r.members.map (fun m => (m.toNat, r.row.toNat, n)))

/-- Every row that the counts of a walk reach from row `base` of a tensor lies within the tensor (R162). -/
def walkFits (w : BitVec 512) (base rows : Nat) : Bool :=
  let reach (f : Int → Int) : Int := ((List.range (Walk.ndim w)).map (fun j =>
    f (((Walk.count w j : Nat) - 1 : Int) * Walk.stride w j))).foldl (· + ·) (base : Int)
  0 ≤ reach (min 0) && reach (max 0) + (Walk.tileRows w : Int) ≤ (rows : Int)

/-- The tensors that the records of every configuration visit by walk i, with the first row of each visit. -/
def walkUses (f : Nat → Row) (i : Nat) : List (Nat × BitVec 256) :=
  (List.range (ImgHdr.configCount (f 0))).flatMap (fun c =>
    ((cfgResidence f c).filter (fun r => r.walk.toNat = i)).filterMap (fun r =>
      (tensorAt f r.tensor.toNat).map (fun t => (r.first.toNat * Tensor.tileRows t, t)))
      ++ ((cfgSkids f c).filter (fun r => r.walk.toNat = i)).filterMap (fun r =>
        (tensorAt f r.tensor.toNat).map (fun t => (0, t))))

/-- A tile layout (R161). A format that R9 does not permit in the layout's role is accepted: DESIGN CHOICE (log entry 119). -/
def checkLayout (w : BitVec 256) : Option (Nat × Nat) :=
  let act := bit w 247
  let cols := bits w 246 240
  let ncs := bits w 203 197
  plain (lowestReason [
    (Reason.field, !Fmt.known (bits w 255 248) || bits w 196 0 ≠ 0
      || (if act then cols ≠ 0 || ncs ≠ 0
          else !(cols = 32 || cols = 64) || bits w 223 204 % cols ≠ 0 || 64 < ncs))])

/-- A power of two. -/
def isPow2 (n : Nat) : Bool := n ≠ 0 && 2 ^ Nat.log2 n = n

/-- Walk specification i (R162). PERM subfields of levels at or beyond NDIM must be zero: DESIGN CHOICE (log entry 125). -/
def checkWalk (f : Nat → Row) (i : Nat) (w : BitVec 512) : Option (Nat × Nat) :=
  let n := Walk.ndim w
  let perm := (List.range n).map (Walk.perm w)
  let permOk := (List.range n).all (fun j => perm.contains j) && (List.range 6).all (fun d => d < n || Walk.perm w d = 0)
  plain (lowestReason [
    (Reason.field, n = 0 || 6 < n || bits w 472 402 ≠ 0 || !permOk
      || (List.range 6).any (fun j =>
        if j < n then Walk.count w j = 0 || 4 < Walk.shape w j || (Walk.shape w j ≠ 0 && Walk.unit w j = 0)
        else bits w (67 * j + 66) (67 * j) ≠ 0)
      || (Walk.morton w && (n < 2 || !isPow2 (Walk.count w (Walk.perm w 0)) || !isPow2 (Walk.count w (Walk.perm w 1))))
      || (walkUses f i).any (fun u => !walkFits w u.1 (Tensor.rows u.2)))])

/-- Tensor i (R198). -/
def checkTensor (f : Nat → Row) (i : Nat) (w : BitVec 256) : Option (Nat × Nat) :=
  let layout := ((entriesOf f 0x10 Sect.all)[Tensor.layout w]?).map (fun n => BitVec.ofNat 256 n)
  let book := ((entriesOf f 0x13 Sect.all)[Tensor.codebook w]?).map (fun n => BitVec.ofNat 256 n)
  let data := ((findSect f 0x14 Sect.all).map Sect.rows).getD 0
  let kb := (layout.map (fun l => Fmt.isKB (bits l 255 248))).getD (Tensor.codebook w ≠ 0xFFFF)
  let before := ((entriesOf f 0x12 Sect.all).take i).map (fun n => BitVec.ofNat 256 n)
  plain (lowestReason [
    (Reason.field, bits w 71 0 ≠ 0 || Tensor.tiles w = 0 || Tensor.rows w ≠ Tensor.tiles w * Tensor.tileRows w
      || (Tensor.codebook w = 0xFFFF) = kb
      || book.any (fun b => bits b 255 224 ≠ Tensor.tag w)
      || before.any (fun o => rangesMeet (Tensor.first o) (Tensor.rows o) (Tensor.first w) (Tensor.rows w))),
    (Reason.reference, layout.isNone || (Tensor.codebook w ≠ 0xFFFF && book.isNone)
      || data < Tensor.first w + Tensor.rows w)])

def checkCodebook (w : BitVec 256) : Option (Nat × Nat) := plain (lowestReason [(Reason.codebook, !codebookOk w)])

/-- Entry i, of value v, of a section of a type and configuration. -/
def checkEntry (f : Nat → Row) (type c i v : Nat) : Option (Nat × Nat) :=
  match type with
  | 0x01 => checkConfig (BitVec.ofNat 4096 v)
  | 0x02 => checkPlacement f c i v
  | 0x03 => checkRun f c (BitVec.ofNat 128 v)
  | 0x04 => checkTemplate f c (BitVec.ofNat 1024 v)
  | 0x05 => checkQueue f c i (BitVec.ofNat 128 v)
  | 0x06 => checkWindow f c (BitVec.ofNat 64 v)
  | 0x07 => checkBucket f c i (BitVec.ofNat 256 v)
  | 0x08 => checkPadding i (BitVec.ofNat 64 v)
  | 0x09 => checkBarrier (BitVec.ofNat 64 v)
  | 0x0A => checkSkid f c i
  | 0x0B => checkFeed f c (BitVec.ofNat 128 v)
  | 0x0C => checkResidence f c v
  | 0x10 => checkLayout (BitVec.ofNat 256 v)
  | 0x11 => checkWalk f i (BitVec.ofNat 512 v)
  | 0x12 => checkTensor f i (BitVec.ofNat 256 v)
  | 0x13 => checkCodebook (BitVec.ofNat 256 v)
  | _ => none

/-! ## The order of R153 -/

/-- 1. The header. -/
def checkHeader (f : Nat → Row) : Option Refused :=
  let h := f 0
  let table := ceilDiv (16 * ImgHdr.sectCount h) 512
  let bad := ImgHdr.magic h ≠ ImgHdr.magicValue || ImgHdr.version h ≠ 1 || ImgHdr.stepping h ≠ 0xA1
    || ImgHdr.shardCount h = 0 || 256 < ImgHdr.shardCount h || ImgHdr.configCount h = 0 || 16 < ImgHdr.configCount h
    || ImgHdr.sectCount h = 0 || 4096 < ImgHdr.sectCount h || !ImgHdr.rsvdOk h || ImgHdr.sectRow h = 0
    || ImgHdr.rows h < ImgHdr.sectRow h + table
  if bad then some ⟨Reason.header, 0, Sect.all, 0, 0⟩ else none

/-- Section table entry i against the table before it. -/
def checkSect (f : Nat → Row) (i : Nat) : Option Refused :=
  let h := f 0
  let w := sectAt f i
  let before := (List.range i).map (sectAt f)
  let t := Sect.type w
  let cfg := cfgRec f (Sect.config w)
  let fault := lowestReason [
    (Reason.section_, !(Sect.perConfig t || Sect.shared t)
      || (Sect.perConfig t && ImgHdr.configCount h ≤ Sect.config w)
      || (Sect.shared t && Sect.config w ≠ Sect.all)
      || ImgHdr.rows h < Sect.first w + Sect.rows w
      || rangesMeet 0 1 (Sect.first w) (Sect.rows w)
      || rangesMeet (ImgHdr.sectRow h) (ceilDiv (16 * ImgHdr.sectCount h) 512) (Sect.first w) (Sect.rows w)
      || before.any (fun o => rangesMeet (Sect.first o) (Sect.rows o) (Sect.first w) (Sect.rows w)
        || (Sect.type o = t && Sect.config o = Sect.config w))
      || 512 * Sect.rows w < Sect.count w * Sect.size t
      || ((t = 0x08 || t = 0x09) && 256 < Sect.count w)
      || (t = 0x02 && (findSect f 0x01 (Sect.config w)).isSome
        && Sect.count w ≠ CfgRec.standsD cfg + CfgRec.standsC cfg)),
    (Reason.field, !Sect.rsvdOk w || Sect.rows w = 0 || (t = 0x14 && Sect.count w ≠ 0)
      || (t = 0x01 && Sect.count w ≠ 1))]
  fault.map (fun r => ⟨r, t, Sect.config w, i, 0⟩)

/-- A required section that is missing: configurations ascending, then types ascending. -/
def missingSect (f : Nat → Row) : Option Refused :=
  (List.range (ImgHdr.configCount (f 0))).findSome? (fun c =>
    Sect.required.findSome? (fun t =>
      if (findSect f t c).isNone then some ⟨Reason.section_, t, c, ImgHdr.sectCount (f 0), 0⟩ else none))

/-- 3. The entries of section i. -/
def checkEntries (f : Nat → Row) (i : Nat) : Option Refused :=
  let w := sectAt f i
  let t := Sect.type w
  let c := Sect.config w
  let found := (List.range (if t = 0x14 then 0 else Sect.count w)).findSome? (fun j =>
    (checkEntry f t c j (secEntry f (Sect.first w) (Sect.size t) j)).map (fun r => (⟨r.1, t, c, j, r.2⟩ : Refused)))
  match found with
  | some r => some r
  | none => if t = 0x02 && placementShort f c then some ⟨Reason.field, t, c, Sect.count w, 0⟩ else none

/-- A whole shard. -/
def checkShard (f : Nat → Row) : Option Refused :=
  let n := ImgHdr.sectCount (f 0)
  (checkHeader f).orElse (fun _ =>
    ((List.range n).findSome? (checkSect f)).orElse (fun _ =>
      (missingSect f).orElse (fun _ => (List.range n).findSome? (checkEntries f))))

/-! ## LOAD_IMAGE (R196, R197) -/

/-! Image list entries. -/

namespace ListE
def haddr (w : BitVec 128) : Nat := bits w 127 64
def rows (w : BitVec 128) : Nat := bits w 63 16
def shard (w : BitVec 128) : BitVec 16 := BitVec.ofNat 16 (bits w 15 0)
end ListE

/-- Row i of a host read; a row past the last reads as zero. -/
def HostRows.row (h : HostRows) (i : Nat) : Row :=
  match h with
  | .ok rs => (rs.getD i (0, false)).1
  | _ => 0

/-- Whether shard i of a list is bad (R197's table), all of them with reason SHARD. -/
def shardBad (l : List ShardRead) (i : Nat) (x : ShardRead) : Bool :=
  let h := HostRows.row x.data 0
  let h0 := match l with
    | [] => h
    | y :: _ => HostRows.row y.data 0
  ListE.rows x.entry = 0
    || ListE.haddr x.entry % 512 ≠ 0
    || (match x.data with
      | .failed => true
      | .timeout => true
      | .ok rs => rs.any (·.2))
    || (l.take i).any (fun y => ListE.shard y.entry = ListE.shard x.entry)
    || ImgHdr.shardIndex h ≠ (ListE.shard x.entry).toNat || ImgHdr.rows h ≠ ListE.rows x.entry
    || ImgHdr.model h ≠ ImgHdr.model h0 || ImgHdr.adapter h ≠ ImgHdr.adapter h0
    || ImgHdr.shardCount h ≠ ImgHdr.shardCount h0 || ImgHdr.tag h ≠ ImgHdr.tag h0
    || ImgHdr.shardCount h0 ≤ (ListE.shard x.entry).toNat

/-- The first bad shard, in list order. -/
def firstBadShard (l : List ShardRead) : Option Refused :=
  (l.zipIdx.find? (fun x => shardBad l x.2 x.1)).map (fun x => ⟨Reason.shard, 0, Sect.all, x.2, 0⟩)

/-- The rows of a shard written to the yard from an address on. -/
def storeShard (addr : Nat) (x : ShardRead) (s : State) : State :=
  (List.range (ListE.rows x.entry)).foldl (fun t i => writeRowAt (addr + 512 * i) (HostRows.row x.data i) false t) s

/-- Shards with their yard addresses. -/
def placeShards : Nat → List ShardRead → List (Nat × ShardRead)
  | _, [] => []
  | a, x :: rest => (a, x) :: placeShards (a + 512 * ListE.rows x.entry) rest

/-- Rows of the whole image. -/
def listRows (l : List ShardRead) : Nat := (l.map (fun x => ListE.rows x.entry)).sum

/-- A load that fails: the yard allocation is freed, and the handle returns to ABSENT. -/
def failLoad (h : BitVec 10) (s : State) : State := (dropAlloc (.imageYard h) s).setImage h Image.reset

/-- Steps 3 and 4: the shards copied into the granted yard units at an address and checked as they arrive. The image stays
LOADING with its shards named. -/
def copyShards (q : Desc) (h : BitVec 10) (l : List ShardRead) (addr : Nat) (s : State) : State :=
  if l.any (·.late) then finish q Status.lowerTimeout (failLoad h s)
  else
    match firstBadShard l with
    | some r => refuse q r (failLoad h s)
    | none =>
      let placed := placeShards addr l
      let s1 := placed.foldl (fun t x => storeShard x.1 x.2 t) s
      (if l.isEmpty then finish q Status.ok else awaits q) (s1.setImage h {
        state := if l.isEmpty then .ready else .loading
        shards := placed.map (fun x => ⟨ListE.shard x.2.entry, BitVec.ofNat 48 x.1, ListE.rows x.2.entry⟩)
        bindings := 0
        deck := false
        rows := listRows l })

/-- Rows of a shard that R153 reads: its header, its section table, and its sections but for DATA. -/
def checkedRows (f : Nat → Row) : List Nat :=
  let n := ImgHdr.sectCount (f 0)
  let table := (List.range (ceilDiv (16 * n) 512)).map (· + ImgHdr.sectRow (f 0))
  0 :: table ++ ((List.range n).map (sectAt f)).flatMap (fun w =>
    if Sect.type w = 0x14 then [] else (List.range (Sect.rows w)).map (· + Sect.first w))

/-- The rows of a shard that R153 reads are read from the yard; whether a granule of them was uncorrectable. -/
def readShard (x : Shard) (rows : List Nat) (s : State) : Bool × State :=
  rows.foldl (fun acc i =>
    let a := x.addr.toNat + 512 * i
    if i < x.rows then
      let (d, t) := readRowAt a acc.2
      (acc.1 || d.2, t)
    else acc) (false, s)

/-- Step 5: R153 over the yard copy of the shards, in list order; a shard whose rows cannot be read is refused with SHARD. -/
def checkShards : Nat → List Shard → State → Option Refused × State
  | _, [], s => (none, s)
  | n, x :: rest, s =>
    let f := fun i => Memory.row (x.addr.toNat + 512 * i) s.mem
    let bad := checkHeader f
    let (poison, t) := readShard x (if bad.isSome then [0] else checkedRows f) s
    if poison then (some ⟨Reason.shard, 0, Sect.all, n, 0⟩, t)
    else
      match checkShard f with
      | some r => (some r, t)
      | none => checkShards (n + 1) rest t

/-- The load with its shards in the yard: READY, or refused. -/
def finishLoad (q : Desc) (h : BitVec 10) (s : State) : State :=
  match checkShards 0 (s.image h).shards s with
  | (some r, t) => refuse q r (failLoad h t)
  | (none, t) => finish q Status.ok (t.setImage h { t.image h with state := .ready })

/-- A handle that is not ABSENT: the existing image is untouched. -/
def handleTaken : Refused := ⟨Reason.shard, 0, Sect.all, 0x7FFFFFF, 0⟩

/-- The yard allocation of a load asked for. -/
def askYard (q : Desc) (h : BitVec 10) (l : List ShardRead) (s : State) : State :=
  let n := ceilDiv (listRows l) 8
  match allocate .yard (.imageYard h) none n false s with
  | .granted a t => copyShards q h l a t
  | .waits t => awaits q t
  | .refused =>
    if Hdr.wait q.w then awaits q (enqueue .yard [(.imageYard h, n)] none q s)
    else finish q Status.noBuffer (s.setImage h Image.reset)

/-- LOAD_IMAGE: `shards` is the image list and what the host reads of the shards gave. The command is sent again when its
units are granted, and when its shards are in the yard (log entry 133). -/
def execLoadImage (q : Desc) (shards : List ShardRead) (s : State) : Out :=
  let h := BitVec.ofNat 10 (bits q.w 438 429)
  let l := shards.take (bits q.w 447 439)
  starts 0x01 q (fun s =>
    if isQueued s q then
      if waitsInPool s q then s
      else if !(s.image h).shards.isEmpty then finishLoad q h s
      else
        match findAlloc s .yard (.imageYard h) with
        | some a => copyShards q h l a.addr.toNat s
        | none => askYard q h l s
    else if (s.image h).state ≠ .absent then refuse q handleTaken s
    else askYard q h l (s.setImage h { Image.reset with state := .loading })) s

/-! ## UNLOAD_IMAGE (R200) -/

/-- UNLOAD_IMAGE: the yard copy is freed at once. A handle that is UNLOADING already gives OK and nothing changes: DESIGN
CHOICE (log entry 128). -/
def execUnloadImage (q : Desc) (s : State) : Out :=
  let h := BitVec.ofNat 10 (bits q.w 511 502)
  starts 0x02 q (fun s =>
    let x := s.image h
    match x.state with
    | .ready =>
      if x.bindings = 0 then finish q Status.ok (dropImage h s)
      else finish q Status.ok ((dropAlloc (.imageYard h) s).setImage h { x with state := .unloading, shards := [] })
    | _ => finish q Status.ok s) s

end Sys2Proof.Machine
end

