-- ==== Sys2Proof/Machine/Matrix.lean ====
section
/-! DEFINITION. Class 0x3, matrix: regions, passes and checksum lanes (R25–R28, R31, R35–R43, R79–R81, R161). -/

namespace Sys2Proof.Machine

/-! ## MREG (R81) -/

def mregFirst (i : BitVec 32) : Nat := bits i 15 8
def mregRows (i : BitVec 32) : Nat := bits i 7 0

/-- Whether two regions share an accumulator row. -/
def Region.overlaps (a b : Region) : Bool := a.first < b.first + b.rows && b.first < a.first + a.rows

/-- The region fits the file and overlaps no other defined region. -/
def regionFits (c : CoreId) (x : Core) (i : Nat) (r : Region) : Bool :=
  r.first + r.rows ≤ accRows c
    && (List.range 8).all (fun j => j = i || (match x.region j with
      | some o => !r.overlaps o
      | none => true))

/-- Bench rows that a load reads: 128 FP32 values a row. -/
def loadRows (c : CoreId) (rows : Nat) : Nat := ceilDiv (rows * engineCols c) 128

/-- Accumulator rows loaded from FP32 bench rows, in order; each takes the poison of its bench row. -/
def loadRegion (c : CoreId) (first rows : Nat) (data : List (Row × Bool)) (x : Core) : Core :=
  let n := engineCols c
  (List.range rows).foldl (fun y r =>
    let d := data.getD (r * n / 128) (0, false)
    y.setAcc c (first + r) ((List.range n).map (fun j => Row.word32 d.1 ((r * n + j) % 128))) d.2) x

def clearRegion (c : CoreId) (first rows : Nat) (x : Core) : Core :=
  (List.range rows).foldl (fun y r => y.setAcc c (first + r) (List.replicate (engineCols c) 0) false) x

/-- MREG: defines region aD, clears its cursor, and clears the rows or loads them. A row count of 0 is outside the
range that R81 gives, so it is ILLEGAL (R76). A load that pauses has loaded its first rows, and starts again (R91). -/
def execMreg (c : CoreId) (f : Fields) (stop : Option Nat) (s : State) : Out :=
  let x := s.core c
  let load := bit f.mod 1
  let row := (x.rd f.a.toNat).toNat
  let i := f.d.toNat
  let reg : Region := ⟨mregFirst f.imm, mregRows f.imm, 0⟩
  let n := loadRows c reg.rows
  let form := Form.ok ⟨3, if load then 5 else 0, 0, 1, 2, 16⟩ f && 1 ≤ reg.rows
  issue c Op.mreg f [(.illegal, !form), (.bound, load && !x.rowsIn row n), (.region, !regionFits c x i reg)] (fun s =>
    let s0 := s.setCore c { x with
      regions := x.regions.set none i (some reg), lanes := x.lanes.filter (fun l => l.region ≠ i) }
    if load then
      let k := pauseAt stop reg.rows
      let s1 := s0.setCore c ((s0.core c).taint (x.rdP f.a.toNat))
      let (data, t) := readBenchRows c 1 ((List.range (loadRows c k)).map (fun j => x.phys (row + j))) s1
      let y := loadRegion c reg.first k data (t.core c)
      if k = reg.rows then completeWith c y t else pauseWith c y t
    else completeWith c (clearRegion c reg.first reg.rows (s0.core c)) s0) s

/-! ## Operands of a pass -/

/-- A decoded element: its number and the exponent of its block's scale. -/
structure Elem where
  v : Val
  x : Int

/-- The element's value. -/
def Elem.val (e : Elem) : Val := e.v.scale e.x

/-- An element under a scale byte; 0xFF makes it NaN (R18). -/
def underScale (v : Val) (byte : Nat) : Elem := if byte = 0xFF then ⟨.nan, 0⟩ else ⟨v, byte - 127⟩

/-- Rows of a plane with their numbers in it. -/
structure Plane where
  rows : List (Nat × Row × Bool)

def Plane.row (p : Plane) (i : Nat) : Row := ((p.rows.find? (fun r => r.1 = i)).map (·.2.1)).getD 0
def Plane.poison (p : Plane) : Bool := p.rows.any (·.2.2)

/-- The planes of the stationary operand (R11, R79, R161). -/
structure Stationary where
  fmt : Nat
  cols : Nat
  elem : Plane
  scale : Plane
  knot : Plane
  side : Plane
  cb : Codebook

/-- Element (k, n) of the column group (R14, R17, R161). -/
def Stationary.at (w : Stationary) (k n : Nat) : Elem :=
  let i := ((k / 128) * w.cols + n) * 128 + k % 128
  let code := rowElem w.fmt (w.elem.row (i / Fmt.perRow w.fmt)) (i % Fmt.perRow w.fmt)
  let blk := i / 32
  let byte := Row.byte (w.scale.row (blk / 512)) (blk % 512)
  if Fmt.isKB w.fmt then
    let g := i / 128
    let slot := bits (w.knot.row (g / 256)) (16 * (g % 256) + 15) (16 * (g % 256))
    if slot.testBit 15 && slot / 256 % 128 = k % 128 then underScale (e4m3 (slot % 256)) byte
    else underScale (e4m3 (w.cb.entry.getD code 0)) byte
  else if Fmt.isMX w.fmt then underScale (elemVal w.fmt code) byte
  else ⟨elemVal w.fmt code, 0⟩

/-- The activation operand of one pass: M rows of 32 × KLEN positions (R80). -/
structure Activation where
  fmt : Nat
  m : Nat
  klen : Nat
  rows : List (Row × Bool)

/-- Whole bench rows of one activation row. -/
def actRowLen (fmt klen : Nat) : Nat := ceilDiv (32 * klen * Fmt.ebits fmt) 4096
/-- Rows of the whole operand, scale plane included. -/
def actRows (fmt m klen : Nat) : Nat := m * actRowLen fmt klen + (if Fmt.isMX fmt then ceilDiv (m * klen) 512 else 0)

/-- Element k (from the pass's first position) of activation row m. -/
def Activation.at (a : Activation) (m k : Nat) : Elem :=
  let r := m * actRowLen a.fmt a.klen + k / Fmt.perRow a.fmt
  let code := rowElem a.fmt (a.rows.getD r (0, false)).1 (k % Fmt.perRow a.fmt)
  if Fmt.isMX a.fmt then
    let blk := m * a.klen + k / 32
    underScale (elemVal a.fmt code)
      (Row.byte (a.rows.getD (a.m * actRowLen a.fmt a.klen + blk / 512) (0, false)).1 (blk % 512))
  else ⟨elemVal a.fmt code, 0⟩

/-! ## Arithmetic of a pass (R27, R28, R30, R31) -/

/-- A running exact sum of products, or what infinities and NaNs make of it. -/
inductive Acc where
  | fin (d : Dy)
  | inf (neg : Bool)
  | nan
  deriving DecidableEq, Repr

/-- One product added. -/
def Acc.addProd (s : Acc) (a b : Val) : Acc :=
  match a, b with
  | .nan, _ => .nan
  | _, .nan => .nan
  | .fin p m e, .fin q n g =>
    match s with
    | .fin d => .fin (Dy.add d (Dy.mul (Val.fin p m e).dy (Val.fin q n g).dy))
    | t => t
  | x, y =>
    let zero := (match x with | .fin _ 0 _ => true | _ => false) || (match y with | .fin _ 0 _ => true | _ => false)
    let neg := (match x with | .inf s => s | .fin s _ _ => s | .nan => false)
      ^^ (match y with | .inf s => s | .fin s _ _ => s | .nan => false)
    if zero then .nan
    else match s with
      | .nan => .nan
      | .inf t => if t = neg then .inf t else .nan
      | .fin _ => .inf neg

/-- A slice sum times both block scales, rounded once; an exact zero is +0 (R27, R30). -/
def Acc.round (s : Acc) (x : Int) : F32 :=
  match s with
  | .fin d => f32OfDy false ⟨d.m, d.e + x⟩
  | .inf t => F32.infOf t
  | .nan => F32.nanOf 10 0 0

/-- One slice of 32 positions of the narrow path. -/
def sliceSum (ws as : List Elem) : F32 :=
  let x := (ws.headD ⟨.nan, 0⟩).x + (as.headD ⟨.nan, 0⟩).x
  let nan := ws.any (fun e => e.v = .nan) || as.any (fun e => e.v = .nan)
  if nan then F32.nanOf 10 0 0
  else ((List.zip ws as).foldl (fun s p => Acc.addProd s p.1.v p.2.v) (.fin ⟨0, 0⟩)).round x

/-- One output element over the pass, narrow path: slices in ascending K. -/
def narrowSum : Nat → List Elem → List Elem → F32 → F32
  | 0, _, _, acc => acc
  | n + 1, ws, as, acc =>
    narrowSum n (ws.drop 32) (as.drop 32) (F32.add acc (sliceSum (ws.take 32) (as.take 32)))

/-- An FP32 product of two decoded values, exact unless it leaves the FP32 range (R28). -/
def prod32 (a b : Val) : F32 :=
  match a, b with
  | .fin s m e, .fin t n g => f32OfDy (s ^^ t) (Dy.mul (Val.fin s m e).dy (Val.fin t n g).dy)
  | x, y => (Acc.addProd (.fin ⟨0, 0⟩) x y).round 0

/-- One output element over the pass, wide path: products one at a time. -/
def wideSum (ws as : List Elem) (acc : F32) : F32 :=
  (List.zip ws as).foldl (fun s p => F32.add s (prod32 p.2.val p.1.val)) acc

/-! ## Checksum lanes (R35, R36, log entries 10 and 116) -/

/-- The smallest power of two not below a magnitude sum; 0 for 0. -/
def pow2Above : Val → Val
  | .fin _ m e =>
    if m = 0 then .fin false 0 0
    else
      let l := Nat.log2 m
      if m = 2 ^ l then .fin false (2 ^ l) e else .fin false (2 ^ (l + 1)) e
  | v => v

/-- WSUM and WABS of one K position, exact, for self-checksum mode. -/
def selfSums (es : List Elem) : Val × Val :=
  let r := es.foldl (fun acc e => (acc.1.add e.val, acc.2.add e.val.abs)) (Val.fin false 0 0, Val.fin false 0 0)
  (r.1, pow2Above r.2)

/-- WSUM and WABS of a side-plane entry; a WABS of 0xFF is a NaN, as any E8M0 byte. -/
def sideSums (entry : BitVec 32) : Val × Val :=
  (F32.val (BitVec.ofNat 32 (bits entry 31 16 <<< 16)),
   if bits entry 15 8 = 0xFF then .nan else .fin false 1 ((bits entry 15 8 : Int) - 127))

/-- C and P over the positions of a slice in ascending k, each with one rounding (R36). -/
def laneRun (sums : List (Val × Val)) (as : List Elem) (c p : F32) : F32 × F32 :=
  (List.zip sums as).foldl (fun acc x =>
    (F32.addVal acc.1 (x.2.val.mul x.1.1), F32.addVal acc.2 (x.2.val.abs.mul x.1.2))) (c, p)

def Core.lane (x : Core) (region row span : Nat) : Option Lane :=
  x.lanes.find? (fun l => l.region = region && l.row = row && l.span = span)

def Core.dropLane (x : Core) (region row span : Nat) : Core :=
  { x with lanes := x.lanes.filter (fun o => !(o.region = region && o.row = row && o.span = span)) }

def Core.setLane (x : Core) (l : Lane) : Core :=
  let y := x.dropLane l.region l.row l.span
  { y with lanes := y.lanes ++ [l] }

/-- Sum in ascending order, from the first value on. -/
def rowSum : List F32 → F32
  | [] => 0
  | v :: vs => vs.foldl F32.add v

/-- Sum continued from an earlier part of the row. -/
def rowSumFrom (start : Option F32) (vs : List F32) : F32 :=
  match start with
  | none => rowSum vs
  | some v => vs.foldl F32.add v

/-- What a pass is: its region and first accumulator row, its K positions in units of 32, K extent, span, side plane, and
the number of its first column within the tile. -/
structure PassInfo where
  region : Nat
  first : Nat
  ks : Nat
  klen : Nat
  kext : Nat
  ncs : Nat
  side : Nat
  col : Nat

/-- Columns of a span: those that the layout declares, or the engine's own in self-checksum mode (log entry 117). -/
def PassInfo.nc (i : PassInfo) (cols : Nat) : Nat := if i.ncs = 0 then cols else 32 * i.ncs

/-- The spans that the column group lies in, by number within the tile. -/
def PassInfo.spans (i : PassInfo) (cols : Nat) : List Nat :=
  if i.ncs = 0 then [0]
  else
    let nc := i.nc cols
    (List.range ((i.col + cols - 1) / nc + 1 - i.col / nc)).map (i.col / nc + ·)

/-- The engine columns of a span: the first, and how many. -/
def PassInfo.columns (i : PassInfo) (cols span : Nat) : Nat × Nat :=
  if i.ncs = 0 then (0, cols)
  else
    let nc := i.nc cols
    (span * nc - i.col, min cols ((span + 1) * nc - i.col) - (span * nc - i.col))

/-- The first column of the tile that the column group of a side plane covers: the groups that name one side plane follow
one another in ascending ELEM_ROW, and the lowest begins the tile (log entry 116). -/
def Core.groupCol (x : Core) (side elem cols : Nat) : Nat :=
  match x.sides.find? (fun g => g.side = side) with
  | none => 0
  | some g => if g.elem < elem then g.col + cols else if g.elem = elem then g.col else 0

def Core.noteGroup (x : Core) (side elem col : Nat) : Core :=
  { x with sides := x.sides.filter (fun g => g.side ≠ side) ++ [⟨side, elem, col⟩] }

/-- WSUM and WABS of each span over the positions of a slice. -/
def spanEntries (i : PassInfo) (w : Stationary) (ks : List Nat) : List (Nat × List (Val × Val)) :=
  (i.spans w.cols).map (fun sp =>
    let (lo, n) := i.columns w.cols sp
    (sp, ks.map (fun k =>
      if i.ncs = 0 then selfSums ((List.range n).map (fun j => w.at k (lo + j)))
      else
        let e := sp * (32 * i.kext) + k
        sideSums (Row.word32 (w.side.row (e / 128)) (e % 128)))))

/-- The lane of one row over one span after a slice; one that begins takes the values that the row was loaded with. In
self-checksum mode (NCS 0) N_c is the engine's column count: DESIGN CHOICE (log entry 117). -/
def laneStep (i : PassInfo) (cols : Nat) (as : List Elem) (before : List F32) (m : Nat) (x : Core)
    (e : Nat × List (Val × Val)) : Core :=
  let (lo, n) := i.columns cols e.1
  let loaded := (before.drop lo).take n
  let old := (x.lane i.region m e.1).getD
    ⟨i.region, m, e.1, 0, 0, rowSum loaded, rowSum (loaded.map F32.abs)⟩
  let (cv, pv) := laneRun e.2 as old.check old.mag
  x.setLane { old with check := cv, mag := pv }

/-- The check of R36 on one row and span: a flagged row enters the task's checksum record, and one that a NaN flags is
poisoned (R31, R43). -/
def flagRow (k nc pass accRow col : Nat) (sum cv pv : F32) (x : Core) : Core :=
  if checksumFlag k nc sum cv pv then
    let nan := checksumNaN sum cv pv
    { x with
      flagged := x.flagged ++ [⟨pass, accRow, col, nan⟩]
      accPoison := if nan then x.accPoison.set false accRow true else x.accPoison }
  else x

/-- One span of one row whose K extent is complete: checked when its last column is in this column group, else kept for the
next group. -/
def closeLane (c : CoreId) (i : PassInfo) (cols m : Nat) (x : Core) (span : Nat) : Core :=
  match x.lane i.region m span with
  | none => x
  | some l =>
    let nc := i.nc cols
    let (lo, n) := i.columns cols span
    let vals := ((x.accRow c (i.first + m)).drop lo).take n
    let own (o : SpanSum) : Bool := o.side = i.side && o.row = m && o.span = span
    let prev := if i.ncs = 0 || i.col ≤ span * nc then none else x.spanSums.find? own
    let sum := rowSumFrom (prev.map (·.sum)) vals
    let st := match prev with
      | none => l.start
      | some o => F32.add o.start l.start
    let stm := match prev with
      | none => l.startMag
      | some o => F32.add o.startMag l.startMag
    let y := x.dropLane i.region m span
    let z := { y with spanSums := y.spanSums.filter (fun o => i.ncs = 0 || !own o) }
    if i.ncs = 0 || (span + 1) * nc ≤ i.col + cols then
      flagRow (32 * i.kext) nc x.passes (i.first + m) lo sum (F32.add l.check st) (F32.add l.mag stm) z
    else
      { z with spanSums := z.spanSums ++
          [⟨i.side, m, span, 32 * i.kext, nc, i.first + m, x.passes, sum, st, stm, l.check, l.mag⟩] }

/-- The spans that a task leaves incomplete when it ends, checked over the columns that it has computed (R35, log entry
116). -/
def Core.closeSpans (x : Core) : Core :=
  x.spanSums.foldl (fun y o =>
    flagRow o.k o.nc o.pass o.accRow 0 o.sum (F32.add o.check o.start) (F32.add o.mag o.startMag) y)
    { x with spanSums := [] }

/-! ## Slices (R38–R40) -/

/-- K positions of a slice in units of 32. -/
def sliceUnits (c : CoreId) (wfmt : Nat) : Nat := (if coreCourser c then 1 else 2) * (if wfmt = 0x22 then 2 else 1)

/-- The slices of K positions ks … ks + klen − 1, in units of 32: where each begins and how many it covers. -/
def slicesOf (u ks klen : Nat) : List (Nat × Nat) :=
  (List.range ((ks + klen - 1) / u + 1 - ks / u)).map (fun j =>
    let lo := max ks ((ks / u + j) * u)
    (lo, min (ks + klen) ((ks / u + j + 1) * u) - lo))

/-- One activation row of one slice. -/
structure PassUnit where
  k : Nat
  len : Nat
  row : Nat
  deriving DecidableEq, Repr

/-- The units of a pass in their order, from slice position `k` and row `row` on. -/
def passUnits (u ks klen m k row : Nat) : List PassUnit :=
  (slicesOf u ks klen).flatMap (fun sl =>
    if sl.1 < k then []
    else (List.range m).filterMap (fun r => if sl.1 = k && r < row then none else some ⟨sl.1, sl.2, r⟩))

/-- Rows of the activation operand that must have arrived for a unit. -/
def Activation.needs (a : Activation) (ks : Nat) (q : PassUnit) : Nat :=
  if Fmt.isMX a.fmt then actRows a.fmt a.m a.klen
  else q.row * actRowLen a.fmt a.klen + (32 * (q.k - ks + q.len) - 1) / Fmt.perRow a.fmt + 1

/-! ## MPASS (R80) -/

/-- Rows of planes that a pass touches, relative to their first row: [from, from + count). -/
def planeSpan (unit i0 i1 : Nat) : Nat × Nat := (i0 / unit, (i1 - 1) / unit + 1 - i0 / unit)

/-- The rows of a range as a list. -/
def spanRows (q : Nat × Nat) : List Nat := (List.range q.2).map (q.1 + ·)

/-- Every plane of the descriptor with the rows that positions [k0, k1) touch (R39, R80, R98, R161). -/
structure PassPlanes where
  elem : List Nat
  scale : List Nat
  knot : List Nat
  side : List Nat

def passPlanes (cols : Nat) (e : Extent) (i : PassInfo) (k0 k1 : Nat) : PassPlanes :=
  if k1 ≤ k0 then ⟨[], [], [], []⟩
  else
    let i0 := k0 / 128 * cols * 128
    let i1 := ceilDiv k1 128 * cols * 128
    ⟨spanRows (planeSpan (Fmt.perRow e.wfmt) i0 i1),
     if Fmt.scaled e.wfmt then spanRows (planeSpan 16384 i0 i1) else [],
     if Fmt.isKB e.wfmt then spanRows (planeSpan 32768 i0 i1) else [],
     if e.ncs = 0 then []
     else ((i.spans cols).flatMap (fun sp =>
       spanRows (planeSpan 128 (sp * (32 * e.kext) + k0) (sp * (32 * e.kext) + k1)))).eraseDups⟩

/-- One unit of a pass: the slice's products added to the row, and its checksum lanes. -/
def passUnit (c : CoreId) (i : PassInfo) (w : Stationary) (a : Activation) (wcols : List (List Elem))
    (entries : List (Nat × List (Val × Val))) (q : PassUnit) (x : Core) : Core :=
  let as := (List.range (32 * q.len)).map (fun j => a.at q.row (32 * (q.k - i.ks) + j))
  let acc := x.accRow c (i.first + q.row)
  let wide := Fmt.wide w.fmt || Fmt.wide a.fmt
  let new := List.zipWith (fun ws v => if wide then wideSum ws as v else narrowSum q.len ws as v) wcols acc
  let nan := wcols.any (fun col => col.any (fun e => e.v = .nan)) || as.any (fun e => e.v = .nan)
  let y := x.setAcc c (i.first + q.row) new (x.accRowP (i.first + q.row))
  let z := entries.foldl (fun z e => laneStep i w.cols as acc q.row z e) { y with passNan := y.passNan || nan }
  if q.k + q.len = i.kext then (i.spans w.cols).foldl (fun z sp => closeLane c i w.cols q.row z sp) z else z

/-- Units in order; the columns and the span sums of a slice serve all its rows. -/
def passSlices (c : CoreId) (i : PassInfo) (w : Stationary) (a : Activation) (us : List PassUnit) : List (Nat × Nat) →
    Core → Core
  | [], x => x
  | sl :: rest, x =>
    let ks := (List.range (32 * sl.2)).map (32 * sl.1 + ·)
    let wcols := (List.range w.cols).map (fun n => ks.map (fun k => w.at k n))
    let entries := spanEntries i w ks
    passSlices c i w a us rest
      ((us.filter (fun q => q.k = sl.1)).foldl (fun z q => passUnit c i w a wcols entries q z) x)

/-- A pass that ends, complete or not: one that met a NaN counts once and poisons its rows, and so do poisoned operands
(R31, R32, R51). -/
def Core.passEnd (x : Core) (first m : Nat) : Core :=
  let y := if x.passNan || x.passBad then
      (List.range m).foldl (fun z r => { z with accPoison := z.accPoison.set false (first + r) true }) x
    else x
  { y.addNanp x.passNan with passNan := false, passBad := false, cursor := 0, passRows := [] }

/-- The packed bytes of v8–v15 as 4 rows (R80). -/
def vecRows (x : Core) : List (Row × Bool) :=
  (List.range 4).map (fun i =>
    (rowOfVecs (x.vec (8 + 2 * i)) (x.vec (9 + 2 * i)), x.vecP (8 + 2 * i) || x.vecP (9 + 2 * i)))

/-- Rows taken from a port for a pass: up to `n`, stopping at a marker. -/
def takeRows (b : Bound) : List Item → Nat → List (Row × Bool) × Bool
  | .row d p :: rest, n + 1 =>
    let (l, m) := takeRows b rest n
    ((d, p) :: l, m)
  | .marker _ :: _, _ + 1 => ([], true)
  | _, _ => ([], false)

/-- The queue after its consumer took n rows. -/
def Queue.takeRows : Nat → Queue → Queue
  | 0, q => q
  | n + 1, q => Queue.takeRows n q.takeRow

/-- Rows of a wide access (R98). -/
def wideRows (c : CoreId) : Nat := if coreCourser c then 4 else 2

/-- The wide port's accesses to rows of the bench: the instruction is the last that accessed their banks (R101). -/
def Core.noteWide (x : Core) (pc : BitVec 21) (seq : Nat) (rows : List Nat) : Core :=
  { x with lastWide := rows.foldl (fun m r => m.set none (r % 32) (some (pc, seq))) x.lastWide }

/-- A plane read through the wide port. -/
def readPlane (c : CoreId) (x : Core) (first : Nat) (rows : List Nat) (s : State) : Plane × State :=
  let (ds, t) := readBenchRows c 0 (rows.map (fun j => x.phys (first + j))) s
  (⟨List.zip rows ds⟩, t)

/-- The plane buffer after a plane's rows have been read: the aligned rows of the last access (R41). -/
def refill (c : CoreId) (x : Core) (which first : Nat) (p : Plane) (y : Core) : Core :=
  match p.rows.getLast? with
  | none => y
  | some l =>
    let g := x.phys (first + l.1) / wideRows c
    { y with planeBufs := y.planeBufs.set none which (some ⟨g * wideRows c,
        (p.rows.filter (fun r => x.phys (first + r.1) / wideRows c = g)).map (fun r => (x.phys (first + r.1), r.2))⟩) }

/-- The stationary operand read from the bench; the plane buffers hold the last rows read. -/
def readStationary (c : CoreId) (x : Core) (p : PlaneRows) (e : Extent) (sp : PassPlanes) (cb : Row × Bool) (s : State) :
    Stationary × State :=
  let (el, s1) := readPlane c x p.elem sp.elem s
  let (sc, s2) := readPlane c x p.scale sp.scale s1
  let (kn, s3) := readPlane c x p.knot sp.knot s2
  let (si, s4) := readPlane c x p.side sp.side s3
  let y := refill c x 2 p.side si (refill c x 1 p.knot kn (refill c x 0 p.scale sc (s4.core c)))
  (⟨e.wfmt, engineCols c, el, sc, { kn with rows := kn.rows ++ [(2 ^ 16, 0, cb.2)] }, si,
    Codebook.ofBits (codebookAt cb.1 e.cbSlot)⟩, s4.setCore c y)

/-- The stationary register after slices of a tile have been loaded: the last two (R40). -/
def Core.loadSlices (x : Core) (cols wfmt : Nat) (el : Plane) (sls : List (Nat × Nat)) : Core :=
  let new := sls.map (fun sl =>
    let i0 := sl.1 * 32 / 128 * cols * 128
    let i1 := ceilDiv (32 * (sl.1 + sl.2)) 128 * cols * 128
    (⟨sl.1, (spanRows (planeSpan (Fmt.perRow wfmt) i0 i1)).map (fun r =>
      ((el.rows.find? (fun q => q.1 = r)).map (·.2)).getD (0, false))⟩ : StatSlice))
  let all := x.stationary ++ new
  { x with stationary := all.drop (all.length - 2) }

/-- A pass from the registers of its instruction. -/
structure PassOp where
  rows : PlaneRows
  ext : Extent
  info : PassInfo
  afmt : Nat
  m : Nat
  sel : Nat
  actRow : Nat

def passOp (c : CoreId) (x : Core) (f : Fields) : PassOp :=
  let p := PlaneRows.ofBits (x.rd f.a.toNat)
  let e := Extent.ofBits (x.rd (f.a.toNat + 1))
  let rb := x.rd f.b.toNat
  ⟨p, e, ⟨f.d.toNat, ((x.region f.d.toNat).map (·.first)).getD 0, passKstart rb, passKlen f.imm, e.kext, e.ncs, p.side,
      if e.ncs = 0 then 0 else x.groupCol p.side p.elem (engineCols c)⟩,
    passAfmt f.imm, passM f.imm, f.sel.toNat, passRow rb⟩

/-- Rows of the whole activation operand. -/
def PassOp.nact (o : PassOp) : Nat := if o.info.klen = 0 then 0 else actRows o.afmt o.m o.info.klen

/-- Whether a slice needs a physical row through the wide port. -/
def PassOp.touches (o : PassOp) (c : CoreId) (x : Core) (row : Nat) (q : PassUnit) : Bool :=
  let sp := passPlanes (engineCols c) o.ext o.info (32 * q.k) (32 * (q.k + q.len))
  let hit (first : Nat) (rows : List Nat) : Bool := rows.any (fun r => x.phys (first + r) = row)
  hit o.rows.elem sp.elem || hit o.rows.scale sp.scale || hit o.rows.knot sp.knot || hit o.rows.side sp.side

/-- Where a pass goes on: the cursor of one in progress, or its start (R85, R93). -/
def Core.passFrom (x : Core) (ks : Nat) : Nat × Nat :=
  if bit x.cursor 63 then (bits x.cursor 62 47, bits x.cursor 46 39) else (ks, 0)

/-- The cursor at a unit. -/
def cursorAt (q : PassUnit) : BitVec 64 := put 63 1 ||| put 47 q.k ||| put 39 q.row

/-- The units of a pass run: the stationary operand is read through the wide port and each slice row added. -/
def runUnits (c : CoreId) (f : Fields) (o : PassOp) (us : List PassUnit) (s : State) : State :=
  match us with
  | [] => s
  | u :: _ =>
    let x := s.core c
    let kEnd := us.foldl (fun e q => max e (q.k + q.len)) 0
    let sls := (us.map (fun q => (q.k, q.len))).eraseDups
    let (cb, s0) := if Fmt.isKB o.ext.wfmt then readBench c (x.phys o.ext.cbRow) 0 s else ((0, false), s)
    let sp := passPlanes (engineCols c) o.ext o.info (32 * u.k) (32 * kEnd)
    let (w, s1) := readStationary c x o.rows o.ext sp cb s0
    let a : Activation := ⟨o.afmt, o.m, o.info.klen, x.passRows⟩
    let y := passSlices c o.info w a us sls (s1.core c)
    let bad := w.elem.poison || w.scale.poison || w.knot.poison || w.side.poison || a.rows.any (·.2)
    let ps (first : Nat) (rows : List Nat) : List Nat := rows.map (fun r => x.phys (first + r))
    let z := (y.loadSlices (engineCols c) o.ext.wfmt w.elem sls).noteWide (x.pcOf Op.mpass f) (x.seqOf Op.mpass f)
      (ps o.rows.elem sp.elem ++ ps o.rows.scale sp.scale ++ ps o.rows.knot sp.knot ++ ps o.rows.side sp.side)
    s1.setCore c { z with passBad := z.passBad || bad }

/-- The activation rows that have arrived: those taken before, and from a port those that stand at it now; whether a marker
keeps back the rest. -/
def passTake (c : CoreId) (o : PassOp) (b : Option Bound) (s : State) : Bool × State :=
  let x := s.core c
  match b with
  | some b =>
    let (got, marker) := takeRows b b.queue.staging (o.nact - x.passRows.length)
    let s1 := if got.isEmpty then s
      else progress (notePop b (s.setQueue b.coupe b.handle (some (b.queue.takeRows got.length)))) c
    (marker, s1.setCore c { s1.core c with passRows := x.passRows ++ got })
  | none =>
    if !x.passRows.isEmpty then (false, s)
    else if o.sel = 4 then
      let (acts, t) := readBenchRows c 1 ((List.range o.nact).map (fun j => x.phys (o.actRow + j))) s
      (false, t.setCore c { t.core c with passRows := acts })
    else (false, s.setCore c { x with passRows := vecRows x })

/-- What stops a pass at a unit, after the units before it have run: the wide-port conflict, the pause, the marker, or an
empty port. -/
def passStop (c : CoreId) (f : Fields) (o : PassOp) (b : Option Bound) (conflict : Option (BitVec 15 × BitVec 2))
    (paused marker : Bool) (q : PassUnit) (s : State) : State :=
  let x := s.core c
  match conflict with
  | some (row, gap) =>
    chargeConflict c c 0 row.toNat gap.toNat (x.pcOf Op.mpass f) (x.seqOf Op.mpass f)
      (s.setCore c (x.passEnd o.info.first o.m))
  | none =>
    let y := { x with cursor := cursorAt q }
    if paused then pauseWith c y s
    else if marker then takeExc c .stream (s.setCore c (x.passEnd o.info.first o.m))
    else
      match b with
      | some b => stallIn c y b s
      | none => pauseWith c y s

/-- MPASS: one matrix pass. `conflict` is the wide-port schedule's conflict, if this pass meets one: the physical row
that could not be served and the cycles since the earlier access (R100); the slices before the one that needs the row have
been added (R88). `wload` cycles are counted as WLOAD (R40). -/
def execMpass (c : CoreId) (f : Fields) (conflict : Option (BitVec 15 × BitVec 2)) (stop : Option Nat) (wload : Nat)
    (s : State) : Out :=
  let x := s.core c
  let d0 := x.rd f.a.toNat
  let d1 := x.rd (f.a.toNat + 1)
  let rb := x.rd f.b.toNat
  let o := passOp c x f
  let i := o.info
  let legal := Form.ok ⟨3, 5, 5, 6, 0, 32⟩ f && pairOk f.a && planeOk d0 && extentOk d1 && passBOk rb
    && !(o.sel = 5 && Fmt.known o.afmt && 4 < o.nact)
  let kb := Fmt.isKB o.ext.wfmt
  let cbIn := x.rowsIn o.ext.cbRow 1
  let cbRow := Memory.row (benchAddr c (x.phys o.ext.cbRow)) s.mem
  let formatOk := Fmt.weightOk o.ext.wfmt && Fmt.actOk o.afmt && o.ext.ncs ≤ 64
    && !(kb && cbIn && !codebookOk (codebookAt cbRow o.ext.cbSlot))
  let sp := passPlanes (engineCols c) o.ext i (32 * i.ks) (32 * (i.ks + i.klen))
  let inB (first : Nat) (rows : List Nat) : Bool := rows.all (fun r => x.rowsIn (first + r) 1)
  let boundOk := i.ks + i.klen ≤ o.ext.kext && inB o.rows.elem sp.elem && inB o.rows.scale sp.scale
    && inB o.rows.knot sp.knot && inB o.rows.side sp.side && (!kb || cbIn)
    && (o.sel ≠ 4 || x.rowsIn o.actRow o.nact)
  let reg := x.region f.d.toNat
  let regOk := match reg with
    | some r => o.m ≤ r.rows
    | none => false
  let order := match reg with
    | some r => r.cursor ≤ i.ks
    | none => true
  let b := if o.sel < 4 then portQueue s c o.sel else none
  issue c Op.mpass f [(.illegal, !legal), (.format, !formatOk), (.bound, !boundOk), (.region, !regOk), (.morder, !order),
      (.stream, o.sel < 4 && b.isNone)] (fun s =>
    let y := countCycles .wload wload ({ x with statDesc := d0 ++ d1 }.taint
      (x.rdP f.a.toNat || x.rdP (f.a.toNat + 1) || x.rdP f.b.toNat))
    if o.m = 0 || i.klen = 0 then completeWith c y s
    else
      let y := if o.ext.ncs = 0 then y else y.noteGroup o.rows.side o.rows.elem i.col
      let (marker, s1) := passTake c o b (s.setCore c y)
      let from_ := y.passFrom i.ks
      let all := passUnits (sliceUnits c o.ext.wfmt) i.ks i.klen o.m from_.1 from_.2
      let a : Activation := ⟨o.afmt, o.m, i.klen, (s1.core c).passRows⟩
      let here := all.takeWhile (fun q => a.needs i.ks q ≤ a.rows.length)
      let clear := match conflict with
        | none => here
        | some (row, _) => here.takeWhile (fun q => !o.touches c x row.toNat q)
      let now := clear.take (pauseAt stop clear.length)
      let s2 := runUnits c f o now s1
      match all[now.length]? with
      | none =>
        let z := (s2.core c).passEnd i.first o.m
        completeWith c { z with
          regions := z.regions.set none i.region (reg.map (fun r => { r with cursor := i.ks + i.klen }))
          passes := z.passes + 1 } s2
      | some q =>
        let met := if now.length = clear.length && clear.length < here.length then conflict else none
        passStop c f o b met (decide (now.length < clear.length)) marker q s2) s

end Sys2Proof.Machine
end

