-- ==== Sys2Proof/Machine/Tasks.lean ====
section
/-! DEFINITION. Tasks and cores: dispatch, retirement, halt and reset (R55–R62, R69–R71, R123, R308, R364, R370). -/

namespace Sys2Proof.Machine

/-! ## Dispatch -/

/-- The handle that port p binds, or 0xFFFF when the queue record does not match the core and the port (R123). -/
def bindPort (s : State) (c : CoreId) (w : BitVec 512) (p : Nat) : BitVec 16 :=
  let h := Task.port w p
  match coupeOf s c with
  | none => 0xFFFF
  | some k =>
    match s.queue k h with
    | none => 0xFFFF
    | some q =>
      let ok := if p < 4 then QRec.cons q.record = c && QRec.consPort q.record = p
        else QRec.prod q.record = c && QRec.prodPort q.record = p - 4
      if ok then h else 0xFFFF

/-- The core as Dispatch leaves it (R57): what the record gives is loaded, and the task's own state is clear. Regions and
the loaded codebook are clear too (R29: a task's result does not depend on what ran before it; log entry 18). -/
def Core.dispatched (x : Core) (w : BitVec 512) (ports : Sparse (BitVec 16)) : Core :=
  { x with
    g := Sparse.set 0 2 (Task.arg1 w) (Sparse.set 0 1 (Task.arg0 w) [])
    gPoison := []
    v := []
    vPoison := []
    acc := []
    accPoison := []
    regions := []
    pc := Task.entry w
    base := Task.base w
    bound := Task.bound w
    task := some w
    phase := .run
    exc := .done
    trapCode := 0
    windowCause := 0
    conflictRec := 0
    qcw := Task.qcw w
    lfsr := Task.seed w
    qsat := 0
    kovf := 0
    nanp := 0
    maxabs := 0
    rangeRaised := false
    flagged := []
    passes := 0
    lanes := []
    spanSums := []
    sides := []
    cursor := 0
    passRows := []
    passNan := false
    passBad := false
    queue := []
    qout := none
    nanMet := false
    qdone := 0
    codebook := none
    statDesc := 0
    writesOut := 0
    refused := none
    resumeHeader := 0
    resumeList := []
    tainted := false
    stall := .other
    stallSince := 0
    ports := ports
    outStage := [] }

/-- The record starts to run on core c. -/
def startTask (c : CoreId) (w : BitVec 512) (s : State) : State :=
  let ports := (List.range 8).foldl (fun m p => Sparse.set 0xFFFF p (bindPort s c w p) m) []
  s.setCore c ((s.core c).dispatched w ports)

/-- The checks of R56 but for the incarnation. -/
def recordOk (c : CoreId) (w : BitVec 512) : Bool :=
  Task.courser w = coreCourser c && Task.rsvdOk w && (Task.base w).toNat ≤ (Task.bound w).toNat
    && (Task.bound w).toNat ≤ lastRow

/-- A record with another INCARN. -/
def withIncarn (w : BitVec 512) (i : BitVec 16) : BitVec 512 :=
  (w &&& ~~~(put 368 (2 ^ 16 - 1) : BitVec 512)) ||| put 368 i.toNat

/-- One occurrence of a record leaves the list of those to dispatch. -/
def dropFirst (c : CoreId) (w : BitVec 512) : List (CoreId × BitVec 512) → List (CoreId × BitVec 512)
  | [] => []
  | e :: es => if e = (c, w) then es else e :: dropFirst c w es

/-- The open step of core c's coupe, changed. -/
def onStep (c : CoreId) (f : Step → Step) (s : State) : State :=
  match coupeOf s c with
  | none => s
  | some k =>
    match (s.run k).openStep with
    | none => s
    | some st => setStep k (f st) s

/-- The sequencer's record of a dispatch: the task of core c now runs. -/
def noteDispatch (c : CoreId) (w : BitVec 512) (s : State) : State :=
  onStep c (fun st => { st with toDispatch := dropFirst c w st.toDispatch, running := st.running ++ [c] }) s

/-- The core's coupe halts (R276 step 2: dispatching stops). -/
def coreHalting (s : State) (c : CoreId) : Bool := (coupeOf s c).any (coupeHalting s)

/-- Whether the sequencer sends core c this record next: the first that its coupe's open step has for the core (R152). With no
step open nothing is known of who sends it. -/
def nextRecord (s : State) (c : CoreId) (w : BitVec 512) : Bool :=
  match coupeOf s c with
  | none => true
  | some k =>
    match (s.run k).openStep with
    | none => true
    | some st => (st.toDispatch.find? (fun e => e.1 = c)).map (·.2) = some w

/-- TASK_DISPATCH: the record is refused as a dispatch fault (R56, R373), refused as stale and reissued by the sequencer
with the current incarnation, held pending, or started. A core that halts, whose slot is moving, or that already holds a
pending record takes no record, and of an open step's records it takes them in template order. -/
def execTaskDispatch (c : CoreId) (w : BitVec 512) (s : State) : Out :=
  let x := s.core c
  if !clocksRun s || x.haltWanted || x.halted || (s.slot c).moving || x.next.isSome || coreHalting s c then .next s
  else if !recordOk c w then .next (deviceFault (coreSector c) 0 s)
  else if !nextRecord s c w then .next s
  else if Task.incarn w ≠ (s.slot c).incarn then
    .next (onStep c (fun st => { st with toDispatch := st.toDispatch.map (fun e =>
      if e = (c, w) then (c, withIncarn w (s.slot c).incarn) else e) }) s)
  else
    let s1 := noteDispatch c w s
    if x.task.isSome then .next (s1.setCore c { x with next := some w })
    else .next (startTask c w s1)

/-! ## Retirement of a task -/

/-- Exception status, detail kind and detail of R308. -/
def exceptionStatus (c : CoreId) (x : Core) (w : BitVec 512) : BitVec 8 × BitVec 4 × BitVec 64 :=
  if x.exc = .conflict then (Status.benchConflict, 3, x.conflictRec)
  else (if x.exc = .window then Status.windowFault else Status.taskException, 6,
    exceptionDetail (Task.tag w) c x.exc x.windowCause)

/-- Totals with a task's counters added (R34). -/
def Totals.add (t : Totals) (x : Core) : Totals where
  qsat := t.qsat + x.qsat.setWidth 64
  kovf := t.kovf + x.kovf.setWidth 64
  nanp := t.nanp + x.nanp.setWidth 64
  maxabs := if F32.lt t.maxabs x.maxabs then x.maxabs else t.maxabs

/-- The task's counters added to the attempt under way, or to the coupe's totals outside a step. -/
def addTotals (c : CoreId) (x : Core) (s : State) : State :=
  match coupeOf s c with
  | none => s
  | some k =>
    match (s.run k).openStep with
    | some st => setStep k { st with totals := st.totals.add x } s
    | none => s.setCoupe k { s.coupe k with totals := (s.coupe k).totals.add x }

/-- The lowest flagged pass and row (R58). A row that a NaN flagged is left to the NaN handling of R31 (R36). -/
def lowestFlag (l : List Flagged) : Option (Nat × Nat) :=
  ((l.filter (fun f => !f.nan)).foldl (fun (b : Option Flagged) f =>
    match b with
    | none => some f
    | some g => if f.pass < g.pass || (f.pass = g.pass && f.row < g.row) then some f else some g) none).map
      (fun f => (f.pass, f.row))

/-- The retire report of core c's task (R58). -/
def retireReport (c : CoreId) (x : Core) (w : BitVec 512) : Report :=
  ⟨c, Task.tag w, Task.step w, x.exc, x.qsat, x.kovf, x.nanp, x.maxabs, lowestFlag x.flagged⟩

/-- A checksum verdict: its event, and the end of the step with CHECKSUM_FAULT when `fail` (R364). -/
def verdict (k : CoupeId) (c : CoreId) (tag : BitVec 32) (kind attempts row : Nat) (fail : Bool) (s : State) : State :=
  let rec64 := faultRecord 2 c.toNat tag kind attempts row
  let s1 := raiseCore 0x10 rec64 0 c s
  if fail then endStep k Status.checksumFault rec64 7 s1 else s1

/-- A task of the open step retires with a checksum flag (R361, R364): the first attempt is replayed with diagnosis. On a
later one the shadow on an unused spare computes the same bits (R29) and is flagged too, so the verdict is DATA; without
a spare it is UNRESOLVED. A third attempt flagged is PERMANENT. -/
def checksumFlagged (k : CoupeId) (c : CoreId) (x : Core) (w : BitVec 512) (pass row : Nat) (s : State) : State :=
  match (s.run k).openStep with
  | none => s
  | some st =>
    if st.attempt = 3 then verdict k c (Task.tag w) 1 3 row true s
    else if (st.flagged.map (·.core)) = some c && 2 ≤ st.attempt then
      if (spares s (coreStand c)).isEmpty then
        suspect c 3 (verdict k c (Task.tag w) 4 st.attempt row true s)
      else
        let (v, s1) := match x.codebook with
          | some _ => (x.cb.tag, s)
          | none => let (y, t) := drawFree s; (BitVec.ofNat 32 y.toNat, t)
        verdict k c v 2 st.attempt row true s1
    else if st.canReplay then
      let s1 := setStep k { st with
        flagged := some ⟨c, Task.tag w, pass, row⟩, needReplay := true, memArrivalsStopped := true } s
      checkBoundary k s1
    else verdict k c (Task.tag w) 5 st.attempt row true s

/-- The pending record starts, when there is one and the core is not halting. -/
def startNext (c : CoreId) (s : State) : State :=
  let x := s.core c
  match x.next with
  | some w => if x.haltWanted then s else startTask c w (s.setCore c { x with next := none })
  | none => s

/-- One running entry of the core leaves the list. -/
def dropRunning (c : CoreId) : List CoreId → List CoreId
  | [] => []
  | e :: es => if e = c then es else e :: dropRunning c es

/-- The layer of the task that core c has retired leaves the list. -/
def dropLayer (c : CoreId) : List (CoreId × Nat) → List (CoreId × Nat)
  | [] => []
  | e :: es => if e.1 = c then es else e :: dropLayer c es

/-- Every output row has been accepted by its queue. -/
def Core.drained (x : Core) : Bool := x.outStage.all (fun e => e.2.isEmpty)

/-- The task has retired: its totals, its report to the sequencer, what its exception and its checksum record bring about,
and the pending record (R34, R37, R57–R59). -/
def retireTask (c : CoreId) (w : BitVec 512) (s : State) : State :=
  let x := (s.core c).closeSpans
  let s1 := addTotals c x (s.setCore c { x with task := none, phase := .idle, stall := .idle, stallSince := 0 })
  let s2 := onStep c (fun st => { st with
    running := dropRunning c st.running, layerTasks := dropLayer c st.layerTasks, reports := st.reports ++ [retireReport c x w] }) s1
  let s3 := match coupeOf s2 c with
    | none => s2
    | some k =>
      let t := if x.exc = .done then s2
        else
          let (st, dk, det) := exceptionStatus c x w
          noteStatus k st det dk s2
      match lowestFlag x.flagged with
      | none => t
      | some (pass, row) => checksumFlagged k c x w pass row t
  let s4 := progress (startNext c s3) c
  match coupeOf s4 c with
  | none => s4
  | some k => checkBoundary k s4

/-- TASK_RETIRE: in Drain the quantiser writes its output out as its port takes it (R49); once it has, every issued
instruction has completed and every output row has been accepted by its queue, or, after an exception, once the earlier
instructions have completed, the task retires (R57–R59, R88). -/
def execTaskRetire (c : CoreId) (s : State) : Out :=
  let x := s.core c
  match x.task with
  | none => .next s
  | some w =>
    if !x.queue.isEmpty then .next s
    else if x.phase = .retire then .next (retireTask c w s)
    else if x.phase = .drain then
      let (ok, t) := writeOut c s
      if ok && (t.core c).drained then .next (retireTask c w t) else .next t
    else .next s

/-! ## Halt (R60–R62) -/

/-- HALT reaches the core: it issues no further instruction. -/
def execHalt (c : CoreId) (s : State) : Out :=
  let x := s.core c
  if x.halted then .next s else .next (s.setCore c { x with haltWanted := true })

/-- The resume record of a halted core (R92): PENDW, the issued instructions that have not completed, in the order of issue,
and the next one that was not issued. -/
def Core.resumeRecord (x : Core) : BitVec 32 × List (BitVec 32) :=
  (put 31 (b2n x.refused.isSome) ||| put 24 x.queue.length ||| put 0 x.pc.toNat,
   x.queue.map (fun e => put 0 e.pc.toNat))

/-- HALTED: a core that drains or retires does so first (R62); remote reads without a reply are cancelled and recorded in
the save image (R61); the state is frozen, STALL_SINCE with the stall it was in (R52, R141). -/
def execCoreHalted (c : CoreId) (s : State) : Out :=
  let x := s.core c
  if x.haltWanted && !x.halted && (x.phase = .run || x.phase = .idle) then
    .next { s.setCore c { x with
        halted := true, reads := [], cancelledReads := x.cancelledReads ++ x.reads
        haltedAt := now48 s, stationary := []
        resumeHeader := x.resumeRecord.1, resumeList := x.resumeRecord.2 } with
      readReqs := s.readReqs.filter (fun q => q.reader ≠ c)
      readReplies := s.readReplies.filter (fun q => q.reader ≠ c) }
  else .next s

/-- CORE_DEAD_TIMEOUT: the core is declared dead and retired (R370). -/
def execCoreDeadTimeout (c : CoreId) (s : State) : Out := .next (retireCore c s)

/-! ## Resets (R69–R71) -/

/-- The reset of one core and what follows for its coupe: an image being saved is marked invalid, or the open step is
replayed. -/
def resetAndReplay (c : CoreId) (s : State) : State :=
  let s1 := resetCore c s
  match coupeOf s1 c with
  | none => s1
  | some k =>
    if (s1.core c).saving then markInvalid k c s1
    else triggerReplay k Status.restartRequired 0 0 s1

/-- CORE_RESET by the fault logic, or by a RESET descriptor of core scope that names the core. -/
def execCoreReset (c : CoreId) (q : Option Desc) (s : State) : Out :=
  match q with
  | none => .next (resetAndReplay c s)
  | some d =>
    if bits d.w 511 510 = 0 && bits d.w 509 498 = c.toNat then
      starts 0x0D d (fun s => finish d Status.ok (resetAndReplay c s)) s
    else .next s

/-- Every core of a coupe reset at once, the coupe flushed and its step replayed. -/
def resetCoupe (k : CoupeId) (s : State) : State :=
  let saving := (coupeCores s k).filter (fun c => (s.core c).saving)
  let s1 := flushCoupe k s
  if saving.isEmpty then triggerReplay k Status.restartRequired 0 0 s1
  else saving.foldl (fun t c => markInvalid k c t) s1

/-- COUPE_RESET. -/
def execCoupeReset (k : CoupeId) (q : Option Desc) (s : State) : Out :=
  match q with
  | none => .next (resetCoupe k s)
  | some d =>
    if bits d.w 511 510 = 1 && bits d.w 497 491 = k.toNat then
      starts 0x0D d (fun s => finish d Status.ok (resetCoupe k s)) s
    else .next s

end Sys2Proof.Machine
end

