-- ==== Sys2Proof/Machine/Save.lean ====
section
/-! DEFINITION. Save areas and core save images: what a save writes to the deck, and what a restore takes back
(R52–R54, R93, R94, R275, R282, R285). -/

namespace Sys2Proof.Machine

/-- Units of one stand's save area (R275). -/
def saveUnits : Nat := 123648
/-- Bytes of one core's bench. -/
def benchBytes : Nat := 15728640

/-! Sections of a stand's save area, as offsets (R275). -/

namespace Area
def windows : Nat := 0x00011000
def paused : Nat := 0x00015000
def images : Nat := 0x00100000
def benches : Nat := 0x00300000
end Area

/-- The version of save areas and of core save images (R52, R275). -/
def saveVersion : BitVec 16 := 1

/-! ## Writing (R52, R275) -/

/-- Values of a sparse file written at `size` bytes each from address a on. -/
def writeFile {w : Nat} (a size : Nat) (l : Sparse (BitVec w)) (s : State) : State :=
  l.foldl (fun t e => writeBytesAt (a + size * e.1) (bytesLE size e.2.toNat) false t) s

/-- The rows among staged items, each in its place. -/
def writeItems (a : Nat) (l : List Item) (s : State) : State :=
  l.zipIdx.foldl (fun t e =>
    match e.1 with
    | .row d p => writeRowAt (a + 512 * e.2) d p t
    | .marker _ => t) s

/-- What the spec places of core c's save image, written from address a on: scalar registers, vectors, the accumulator file
and the port staging. The sections whose layout it does not give stay zero in memory (log entry 74). -/
def writeImage (a : Nat) (c : CoreId) (s : State) : State :=
  let x := s.core c
  let s1 := writeFile (a + 0x2000) 4 x.acc (writeFile (a + 0x1000) 256 x.v (writeFile (a + 0x100) 8 x.g s))
  let ins (p : Nat) : List Item := ((portQueue s c p).map (fun b => b.queue.staging)).getD []
  (List.range 4).foldl (fun t p =>
    writeItems (a + 0x8000 + 2048 * (4 + p)) (x.outStage.get [] p) (writeItems (a + 0x8000 + 2048 * p) (ins p) t)) s1

/-- Core c's bench written from address dst on: rows corrected, a poisoned row as poisoned granules (R176, R275). -/
def saveBench (c : CoreId) (dst : Nat) (s : State) : State :=
  let lo := benchAddr c 0
  let s1 := ((s.rowErrors.filter (fun e => lo ≤ e.1 && e.1 < lo + benchBytes)).map (·.1)).foldl
    (fun t a => moveRowError c a t) s
  { s1 with
    mem := Memory.copy lo dst benchBytes s1.mem
    poison := s1.poison.filter (· < dst)
      ++ (s1.poison.filter (fun a => lo ≤ a && a < lo + benchBytes)).flatMap (fun a => granulesOf (a - lo + dst) 512)
      ++ s1.poison.filter (dst + benchBytes ≤ ·) }

/-- Paused transfers: the descriptor, then the count of rows written. -/
def writePaused (a : Nat) (l : List Transfer) (s : State) : State :=
  l.zipIdx.foldl (fun t e =>
    writeBytesAt (a + 128 * e.2) (bytesLE 64 e.1.w.toNat ++ bytesLE 64 e.1.written) false t) s

/-- A stand's save area written from address a on, but for its header. -/
def writeArea (a : Nat) (g : StandId) (paused : List Transfer) (s : State) : State :=
  let s1 := writePaused (a + Area.paused) paused (clearRange a (4096 * saveUnits) s)
  (standCores g).foldl (fun t c =>
    let i := coreSlot c
    saveBench c (a + Area.benches + benchBytes * i)
      (writeImage (a + Area.images + 0x10000 * i) c
        (writeFile (a + Area.windows + 512 * i) 16 (t.core c).windows t))) s1

/-- Image state of a core (R52). -/
def Core.imageMode (x : Core) : ImageMode :=
  if x.task.isSome then .running else if x.next.isSome then .pendingOnly else .idle

/-- The save image of core c as it stands. -/
def coreImage (s : State) (c : CoreId) : SavedCore :=
  ⟨c, saveVersion, coreCourser c, (s.slot c).incarn, (s.core c).imageMode, s.core c, [], []⟩

/-- The mask of the slots saved RUNNING. -/
def runningMask (l : List SavedCore) : BitVec 32 :=
  l.foldl (fun m x => if x.mode = .running then m ||| BitVec.ofNat 32 (2 ^ coreSlot x.id) else m) 0

/-- The header that a save of coupe k gives a stand's area, before its images (R275). -/
def newArea (s : State) (k : CoupeId) (g : StandId) : SaveArea :=
  ⟨g, saveVersion, k, (s.coupe k).curJob, (s.coupe k).stepctr, s.timebase, .writing, 0, 0, []⟩

/-- The images of an area written, its state VALID last; the mask of invalid images stays (R71). -/
def SaveArea.filled (a : SaveArea) (l : List SavedCore) : SaveArea :=
  { a with cores := l, running := runningMask l, state := .valid }

/-- Every stand of coupe k saved into its area. -/
def saveStands (k : CoupeId) (paused : List Transfer) : List SaveArea → State → List SaveArea × State
  | [], s => ([], s)
  | a :: rest, s =>
    let l := (standCores a.stand).map (coreImage s)
    let s1 := match findAlloc s .deck (.save k a.stand) with
      | some d => writeArea d.addr.toNat a.stand paused s
      | none => s
    let (as, s2) := saveStands k [] rest s1
    (a.filled l :: as, s2)

/-! ## Job save areas (R285, R287): kept as data (log entry 74) -/

/-- Highest declared row of a core in a binding, plus one. -/
def topRow (cfg : Config) (c : CoreId) : Nat :=
  ((cfg.tops.find? (fun e => e.1 = c.toNat)).map (·.2)).getD 0

/-- The image of a core with its bench rows below a row; stored errors corrected, or poisoned. -/
def saveRows (c : CoreId) (rows : Nat) (s : State) : SavedCore × State :=
  let lo := benchAddr c 0
  let hi := lo + 512 * rows
  let s1 := ((s.rowErrors.filter (fun e => lo ≤ e.1 && e.1 < hi)).map (·.1)).foldl (fun t a => moveRowError c a t) s
  ({ coreImage s1 c with
     bench := (s1.mem.filter (fun e => lo ≤ e.1 && e.1 < hi)).map (fun e => (e.1 - lo, e.2))
     poison := (s1.poison.filter (fun a => lo ≤ a && a < hi)).map (· - lo) }, s1)

/-- Images of cores with their declared rows, in order. -/
def saveJobCores (cfg : Config) : List CoreId → State → List SavedCore × State
  | [], s => ([], s)
  | c :: cs, s =>
    let (x, s1) := saveRows c (topRow cfg c) s
    let (xs, s2) := saveJobCores cfg cs s1
    (x :: xs, s2)

/-- A coupe's stands saved for the resident job. -/
def saveJobStands (k : CoupeId) (cfg : Config) : List StandId → State → List SaveArea × State
  | [], s => ([], s)
  | g :: gs, s =>
    let (l, s1) := saveJobCores cfg (standCores g) s
    let (rest, s2) := saveJobStands k cfg gs s1
    ((newArea s k g).filled l :: rest, s2)

/-! ## Restoring (R53, R54, R93, R94, R282) -/

/-- Core c's bench read back from a save area: granules corrected or poisoned as they are read, a row poisoned when one of
its granules is (R176). -/
def restoreBench (c : CoreId) (src : Nat) (s : State) : State :=
  let lo := benchAddr c 0
  let bad := (s.granuleErrors.filter (fun e => src ≤ e.1 && e.1 < src + benchBytes)).map (·.1)
  let s1 := bad.foldl (fun t a => (readGranule a t).2) (clearBench c s)
  { s1 with
    mem := Memory.copy src lo benchBytes s1.mem
    poison := s1.poison.filter (· < lo)
      ++ ((s1.poison.filter (fun a => src ≤ a && a < src + benchBytes)).map (fun a => lo + (a - src) / 512 * 512)).eraseDups
      ++ s1.poison.filter (lo + benchBytes ≤ ·) }

/-- What the resume record re-enters (R93): the listed instructions in order, and the next one to issue. -/
def Core.reentered (x : Core) : Core :=
  let n := bits x.resumeHeader 28 24
  { x with
    queue := x.queue.take n
    pc := BitVec.ofNat 21 (bits x.resumeHeader 20 0) }

/-- A core from its save image: the slot's present incarnation (R282), STALL_SINCE later by the time that the core spent
halted (R141), cancelled remote reads to be issued again (R61). Windows come with the area; error log, scrubber and spare
lines belong to the physical core. The stationary register is empty: the next slice reloads it from the bench (R53). -/
def restoreCore (x : SavedCore) (s : State) : State :=
  let now := s.core x.id
  let inc := (s.slot x.id).incarn
  let y := x.core.reentered
  s.setCore x.id { y with
    task := y.task.map (fun w => withIncarn w inc)
    next := y.next.map (fun w => withIncarn w inc)
    stallSince := if y.stall.latched then y.stallSince + (now48 s - y.haltedAt) else y.stallSince
    stationary := []
    reads := y.cancelledReads
    cancelledReads := []
    haltWanted := false
    halted := false
    saving := false
    errLog := now.errLog
    scrub := now.scrub
    scrubCE := now.scrubCE
    spareLines := now.spareLines }

/-- A stand's benches and cores restored from its area. -/
def restoreArea (k : CoupeId) (a : SaveArea) (s : State) : State :=
  a.cores.foldl (fun t x =>
    let u := match findAlloc t .deck (.save k a.stand) with
      | some d => restoreBench x.id (d.addr.toNat + Area.benches + benchBytes * coreSlot x.id) t
      | none => t
    restoreCore x u) s

/-- A saved core's rows over its bench as it stands, and its state (R287). -/
def restoreRows (x : SavedCore) (s : State) : State :=
  let lo := benchAddr x.id 0
  let now := s.core x.id
  let s1 : State := { s with
    mem := x.bench.foldl (fun m e => Memory.write (lo + e.1) [e.2] m) s.mem
    poison := x.poison.foldl (fun p a => Poison.add (lo + a) p) s.poison }
  s1.setCore x.id { x.core with
    errLog := now.errLog, scrub := now.scrub, scrubCE := now.scrubCE, spareLines := now.spareLines }

/-- An image that a core refuses: another kind or version (R54), a COUNT above 24, or a reserved bit set in its resume
record (R94). -/
def SavedCore.refused (x : SavedCore) : Bool :=
  let h := x.core.resumeHeader
  x.version ≠ saveVersion || x.courser ≠ coreCourser x.id || 24 < bits h 28 24 || bits h 30 29 ≠ 0 || bits h 23 21 ≠ 0
    || x.core.resumeList.any (fun e => bits e 31 21 ≠ 0)

/-- Whether an image of the coupe is refused, or marked invalid in its stand's area (R283). -/
def Saved.refused (sv : Saved) : Bool :=
  sv.areas.any (fun a => a.state = .invalid || a.version ≠ saveVersion || a.invalid ≠ 0 || a.cores.any SavedCore.refused)

/-- Some remote reads of core c sent again. -/
def sendAgain (c : CoreId) (l : List RemoteRead) (s : State) : State :=
  l.foldl (fun t r => inject { t with
    readReqs := t.readReqs ++ [⟨c, (t.slot c).incarn, r.target, r.row, sentNow t⟩] }) s

/-- Remote reads of a restored core issued again (R61, R93). -/
def reissueReads (c : CoreId) (s : State) : State := sendAgain c (s.core c).reads s

/-- A halted core of a coupe that is not saved after all goes on, its STALL_SINCE later by the time spent halted (R141),
its cancelled remote reads issued again; an idle one starts the record that it holds (R57). -/
def unhaltCore (c : CoreId) (s : State) : State :=
  let x := s.core c
  let away := if x.halted && x.stall.latched then now48 s - x.haltedAt else 0
  startNextIdle c (sendAgain c x.cancelledReads (s.setCore c { x with
    haltWanted := false, halted := false, saving := false, stallSince := x.stallSince + away
    reads := x.reads ++ x.cancelledReads, cancelledReads := [] }))
where
  /-- The pending record of a core that runs no task starts. -/
  startNextIdle (c : CoreId) (s : State) : State := if (s.core c).task.isNone then startNext c s else s

end Sys2Proof.Machine
end

