-- ==== Sys2Proof/Machine/Coupes.lean ====
section
/-! DEFINITION. Coupes: creating, changing, destroying, pre-empting, resuming and time-sharing them
(R265–R288, R52–R54, R60–R62, R93, R276–R284). -/

namespace Sys2Proof.Machine

/-! ## Stands (R266, R268) -/

/-- A stand that a coupe may be given: in service, with no FAILED slot, its sector in service, not in S2 or lower. -/
def standServes (s : State) (g : StandId) : Bool :=
  (s.stand g).inService && !(s.stand g).isolated && !(s.stand g).asleep && (s.sector (standSector g)).mode = .on
    && (standCores g).all (fun c => (s.slot c).state ≠ .failed)

/-- Stands of a mask, ascending. -/
def maskStands (m : BitVec 128) : List StandId := allStands.filter (inMask m)

/-! COUPE_CREATE and COUPE_SET fields (R299). -/

namespace CoupeD
def coupe (w : BitVec 512) : CoupeId := BitVec.ofNat 7 (bits w 511 505)
def stands (w : BitVec 512) : BitVec 128 := BitVec.ofNat 128 (bits w 504 377)
def prio (w : BitVec 512) : BitVec 3 := BitVec.ofNat 3 (bits w 376 374)
def preemptible (w : BitVec 512) : Bool := bit w 373
def tshare (w : BitVec 512) : Bool := bit w 372
def jobs (w : BitVec 512) : BitVec 3 := BitVec.ofNat 3 (bits w 371 369)
def quantum (w : BitVec 512) : BitVec 8 := BitVec.ofNat 8 (bits w 368 361)
def func (w : BitVec 512) : BitVec 3 := BitVec.ofNat 3 (bits w 360 358)
def sentinel (w : BitVec 512) : BitVec 17 := BitVec.ofNat 17 (bits w 357 341)
def take (w : BitVec 512) : Bool := bit w 340
/-- CHANGE of COUPE_SET: bit 0 STANDS, 1 PRIO, 2 PREEMPTIBLE, 3 QUANTUM, 4 SENTINEL. -/
def change (w : BitVec 512) (i : Nat) : Bool := bit w (335 + i)
def sentinelOk (w : BitVec 512) : Bool := 2 ≤ (sentinel w).toNat && (sentinel w).toNat ≤ 100000
end CoupeD

/-- The coupe whose creation is under way on a stand. -/
def claimant (s : State) (g : StandId) : Option (BitVec 512) :=
  s.runs.findSome? (fun e =>
    match e.2.action with
    | .create r p =>
      match entryOf s r p with
      | some x => if inMask (CoupeD.stands x.w) g then some x.w else none
      | none => none
    | _ => none)

/-- Coupes that hold stands of a mask. -/
def holders (s : State) (m : BitVec 128) : List CoupeId :=
  (listedCoupes s).filter (fun k => (s.coupe k).stands &&& m ≠ 0)

/-- A holder that a TAKE of priority `prio` may not pre-empt. -/
def heldFast (s : State) (take : Bool) (prio : BitVec 3) (k : CoupeId) : Bool :=
  !take || !(s.coupe k).preemptible || prio.toNat ≤ (s.coupe k).prio.toNat

/-! ## Halting and saving (R60, R276, R277) -/

/-- A member of a span. -/
def Coupe.member (x : Coupe) : Bool := x.sCount ≠ 0 && x.spanId ≠ 0

/-- A coupe enters PREEMPTING (R276 step 1); what waits for it is noted. -/
def startPreempt (k : CoupeId) (act : CoupeAction) (s : State) : State :=
  let s1 := s.setCoupe k { s.coupe k with state := .preempting }
  s1.setRun k { s1.run k with
    action := act, quiesced := false, heldFrom := (s1.run k).heldFrom.or (some s1.stamp) }

/-- No packet of the coupe remains in the network and its window writes are acknowledged (R276 step 4). -/
def networkQuiet (s : State) (k : CoupeId) : Bool :=
  s.readReqs.all (fun q => !ofCoupe s k q.reader) && s.readReplies.all (fun q => !ofCoupe s k q.reader)
    && s.windowRows.all (fun q => !ofCoupe s k q.writer) && s.acks.all (fun q => !ofCoupe s k q.writer)
    && (coupeCores s k).all (fun c => (s.core c).writesOut = 0)
    && (s.run k).queues.all (fun e => match e.2 with
      | none => true
      | some q => q.network.isEmpty && q.returning = 0)
    && s.arrivals.all (fun a => match a with
      | .coupe k' _ => k' ≠ k
      | .memory _ _ => true)

/-- COUPE_QUIESCED: every core is halted, nothing of the coupe is in the network; its transfers pause with what remains of
their deadlines, and the bench save begins. -/
def execCoupeQuiesced (k : CoupeId) (s : State) : Out :=
  let r := s.run k
  if coupeHalting s k && !r.quiesced && (coupeCores s k).all (fun c => (s.core c).halted) && networkQuiet s k then
    let mine := s.transfers.filter (fun t => Mv.ofCoupe t.w k)
    let paused := mine.map (fun t => { t with limit := t.limit - (s.timebase.toNat - t.started.toNat) })
    let areas := (s.coupe k).standList.map (newArea s k)
    let sv : Saved := ⟨areas, [], r.barriers, paused, (s.coupe k).stepctr, s.timebase⟩
    let s1 : State := { s with transfers := s.transfers.filter (fun t => !Mv.ofCoupe t.w k) }
    let s2 := (coupeCores s k).foldl (fun t c => t.setCore c { t.core c with saving := true }) s1
    .next (s2.setRun k { r with quiesced := true, saved := some sv })
  else .next s

/-! ## Ballast on a stand (R404) -/

/-- Ballast stops on a stand. What is drawn on the stands that remain is not stated: the value is free. -/
def stopBallast (g : StandId) (s : State) : State :=
  if (s.stand g).ballast then
    let s1 := s.setStand g { s.stand g with ballast := false }
    if allStands.any (fun h => (s1.stand h).ballast) then
      let (v, t) := drawFree s1
      { t with power := { t.power with ballast := BitVec.ofNat 16 v.toNat } }
    else { s1 with power := { s1.power with ballast := 0 } }
  else s

/-! ## The new coupe (R266, R268) -/

/-- The coupe of a COUPE_CREATE exists: its stands are as at cold reset, and it is IDLE. -/
def createDone (ring : RingId) (pos : BitVec 32) (w : BitVec 512) (s : State) : State :=
  let k := CoupeD.coupe w
  let s1 := (maskStands (CoupeD.stands w)).foldl (fun t g => freshStand g (stopBallast g t)) s
  let s2 := s1.setCoupe k { Coupe.reset with
    stands := CoupeD.stands w
    state := .idle
    prio := CoupeD.prio w
    preemptible := CoupeD.preemptible w
    tshare := CoupeD.tshare w
    jobs := CoupeD.jobs w
    quantum := CoupeD.quantum w
    func := CoupeD.func w
    sentinel := CoupeD.sentinel w }
  finishAt ring pos Status.ok 0 0 0 (maybeReady (s2.setRun k CoupeRun.reset))

/-- Holders that a TAKE names are pre-empted; one with a drain, a BIND or a pre-emption under way is waited for (R284). -/
def takeHolders (k : CoupeId) (ring : RingId) (pos : BitVec 32) (m : BitVec 128) (s : State) : State :=
  (holders s m).foldl (fun t h =>
    let x := (t.coupe h).state
    if (x = .idle || x = .bound) && (t.run h).action = .none then startPreempt h (.taken k ring pos) t else t) s

/-- Creation with the save areas reserved: at once, or once the holders of its stands are saved. -/
def createTake (q : Desc) (s : State) : State :=
  let k := CoupeD.coupe q.w
  let m := CoupeD.stands q.w
  if (holders s m).isEmpty then createDone q.ring q.pos q.w s
  else
    let s1 := takeHolders k q.ring q.pos m s
    awaits q (s1.setRun k { s1.run k with action := .create q.ring q.pos })

/-- Save areas for stands that have none, asked for together: granted, waiting, queued or refused. -/
def reserveSaves (q : Desc) (k : CoupeId) (gs : List StandId) (ok : State → State) (s : State) : State :=
  let need := gs.filter (fun g => (findAlloc s .deck (.save k g)).isNone)
  let runs := need.map (fun g => (AllocKind.save k g, saveUnits))
  if !need.all (fun g => stackInPool s (standSector g)) then finish q Status.noBuffer s
  else
  match allocateRuns .deck none false runs s with
  | .granted _ t => ok t
  | .waits t => awaits q t
  | .refused =>
    if Hdr.wait q.w then awaits q (enqueue .deck runs none q s)
    else finish q Status.noBuffer s

/-- Checks 1 to 3 of COUPE_CREATE: whether it passes. -/
def createOk (s : State) (q : Desc) : Bool :=
  let w := q.w
  let k := CoupeD.coupe w
  let fields := CoupeD.sentinelOk w && (CoupeD.func w).toNat < s.setup.nfunc.toNat
    && (if CoupeD.tshare w then CoupeD.quantum w ≠ 0 else CoupeD.jobs w = 0)
  (s.coupe k).state = .free && ((s.run k).action = .none || (s.run k).action = .create q.ring q.pos)
    && CoupeD.stands w ≠ 0 && fields
    && (maskStands (CoupeD.stands w)).all (standServes s)
    && (holders s (CoupeD.stands w)).all (fun h => !heldFast s (CoupeD.take w) (CoupeD.prio w) h)

/-- Whether another COUPE_CREATE under way claims a named stand, and whether this one may not take it. -/
def claimed (s : State) (q : Desc) : Option Bool :=
  (maskStands (CoupeD.stands q.w)).foldl (fun acc g =>
    match claimant s g with
    | none => acc
    | some w => if w = q.w then acc
      else some (acc.getD false || !CoupeD.take q.w || !CoupeD.preemptible w
        || (CoupeD.prio q.w).toNat ≤ (CoupeD.prio w).toNat)) none

/-- COUPE_CREATE. -/
def execCoupeCreate (q : Desc) (s : State) : Out :=
  starts 0x05 q (fun s =>
    let k := CoupeD.coupe q.w
    if waitsInPool s q then s
    else if (s.run k).action = .create q.ring q.pos then
      let s1 := createTake q s
      if (holders s (CoupeD.stands q.w)).isEmpty then s1 else awaits q s1
    else if !createOk s q then
      finish q Status.doesNotFit (if isQueued s q then dropSaves k s else s)
    else
      match claimed s q with
      | some true => finish q Status.doesNotFit (if isQueued s q then dropSaves k s else s)
      | some false => awaits q s
      | none =>
        if CoupeD.preemptible q.w then reserveSaves q k (maskStands (CoupeD.stands q.w)) (createTake q) s
        else createTake q s) s

/-! ## SAVE_COMPLETE (R276, R280) -/

/-- The areas of a resuming coupe's stands are restored from now on: it holds its stands again (R282). -/
def resumeStart (k : CoupeId) (ring : RingId) (pos : BitVec 32) (s : State) : State :=
  let x := s.coupe k
  let r := s.run k
  match r.saved with
  | some _ =>
    (s.setCoupe k { x with state := .resuming, stands := x.savedStands }).setRun k { r with action := .resume ring pos }
  | none =>
    finishAt ring pos Status.ok 0 0 0
      ((s.setCoupe k { x with state := .idle, stands := x.savedStands, savedStands := 0 }).setRun k { r with action := .none })

/-- What waited for a coupe to be saved goes on. -/
def afterSave (act : CoupeAction) (s : State) : State :=
  match act with
  | .preempt ring pos => finishAt ring pos Status.ok 0 0 0 s
  | .taken k ring pos =>
    match (s.run k).action, entryOf s ring pos with
    | .create _ _, some e => if (holders s (CoupeD.stands e.w)).isEmpty then createDone ring pos e.w s else s
    | .resume _ _, some _ => if (holders s (s.coupe k).savedStands).isEmpty then resumeStart k ring pos s else s
    | _, _ => s
  | _ => s

/-- SAVE_COMPLETE: every area of the coupe is VALID; the homes of its rows move, and it is PREEMPTED. -/
def execSaveComplete (k : CoupeId) (s : State) : Out :=
  let r := s.run k
  match r.saved with
  | none => .next s
  | some sv =>
    if (s.coupe k).state = .preempting && r.quiesced then
      let gs := (s.coupe k).standList
      let (areas, s1) := saveStands k sv.transfers sv.areas s
      let qs := r.queues.filterMap (fun e => e.2.map (fun q => (e.1, q)))
      let s2 := gs.foldl (fun t g => freshStand g t) s1
      let x := s2.coupe k
      let s3 := (s2.setCoupe k { x with state := .preempted, stands := 0, savedStands := x.stands }).setRun k { s2.run k with
        saved := some { sv with areas := areas, queues := qs }
        queues := []
        action := .none
        quiesced := false }
      .next (afterSave r.action s3)
    else .next s

/-! ## COUPE_SET (R267) -/

/-- A queue record that a stand's router holds. -/
def Queue.onStand (q : Queue) (g : StandId) : Bool := coreStand (QRec.prod q.record) = g || coreStand (QRec.cons q.record) = g

/-- Stands given to an IDLE coupe: those that leave it and those that join it are as at cold reset, and the queue records
and save areas of those that leave go (R268). -/
def setStands (k : CoupeId) (m : BitVec 128) (s : State) : State :=
  let old := (s.coupe k).stands
  let s1 := (maskStands (old ^^^ m)).foldl (fun t g => freshStand g t) s
  let s2 := s1.setCoupe k { s1.coupe k with stands := m }
  let r := s2.run k
  let gone (q : Queue) : Bool := (maskStands (old &&& ~~~m)).any (fun g => q.onStand g)
  let s3 := s2.setRun k { r with
    queues := r.queues.filter (fun e => !e.2.any gone)
    shown := r.shown.filter (fun e => !gone e.2) }
  dropKinds (fun kd => match kd with
    | .save k' g => k' = k && !inMask m g
    | _ => false) s3

/-- The stands that a COUPE_SET names may be the coupe's. -/
def setStandsOk (s : State) (k : CoupeId) (m : BitVec 128) : Bool :=
  (s.coupe k).state = .idle && m ≠ 0 && (holders s m).all (· = k)
    && (maskStands m).all (fun g => (claimant s g).isNone && (standServes s g || inMask (s.coupe k).stands g))

/-- What a COUPE_SET changes at its commit. A coupe that is saved keeps its areas until it has resumed (log entry 33). -/
def applyCoupeSet (k : CoupeId) (w : BitVec 512) (s : State) : State :=
  let x := s.coupe k
  if x.state = .free then s
  else
    let s1 := s.setCoupe k { x with
      prio := if CoupeD.change w 1 then CoupeD.prio w else x.prio
      preemptible := if CoupeD.change w 2 then CoupeD.preemptible w else x.preemptible
      quantum := if CoupeD.change w 3 then CoupeD.quantum w else x.quantum
      sentinel := if CoupeD.change w 4 then CoupeD.sentinel w else x.sentinel }
    let saved := x.state = .preempting || x.state = .preempted || x.state = .resuming
    if CoupeD.change w 2 && !CoupeD.preemptible w && !saved then dropSaves k s1 else s1

/-- COUPE_SET. -/
def execCoupeSet (q : Desc) (s : State) : Out :=
  starts 0x06 q (fun s =>
    let k := CoupeD.coupe q.w
    let x := s.coupe k
    let m := if CoupeD.change q.w 0 then CoupeD.stands q.w else x.stands
    let goOn (s : State) : State :=
      let s1 := if CoupeD.change q.w 0 then setStands k m s else s
      finish q Status.ok { s1 with due := s1.due ++ [.coupeSet k q.w] }
    if waitsInPool s q then s
    else if x.state = .free || (CoupeD.change q.w 0 && !setStandsOk s k m) then finish q Status.doesNotFit s
    else
      let wants := if CoupeD.change q.w 2 then CoupeD.preemptible q.w else x.preemptible && CoupeD.change q.w 0
      if wants then
        reserveSaves q k (if x.stands = 0 && !CoupeD.change q.w 0 then maskStands x.savedStands else maskStands m) goOn s
      else goOn s) s

/-! ## COUPE_DESTROY (R269) -/

/-- A descriptor held for a destroyed coupe ends with RESTART_REQUIRED; a cancelled request with CANCELLED. -/
def endHeld (e : Entry) : Entry :=
  let op := Hdr.opcode e.w
  if e.state.isDone || op = opCancel || op < 0x20 || 0x2A < op then e
  else { e with state := .done (if e.cancelled then Status.cancelled else Status.restartRequired) 0 0 0 }

/-- Whether a ring is a submission ring of coupe k. -/
def servesCoupe (x : Ring) (k : CoupeId) : Bool := bits x.entry 295 294 = 1 && BitVec.ofNat 7 (bits x.entry 270 264) = k

/-- Everything held for a PREEMPTED coupe ends (R269), its allocation requests with it. -/
def endAllHeld (k : CoupeId) (s : State) : State :=
  let mine (r : RingId) : Bool := r ≠ 0 && servesCoupe (s.ringOf r) k
  { s with
    rings := s.rings.map (fun e =>
      if e.1 ≠ 0 && servesCoupe e.2 k then (e.1, { e.2 with accepted := e.2.accepted.map endHeld }) else e)
    poolWait := s.poolWait.filter (fun w => !mine w.ring)
    recallLost := s.recallLost.filter (fun x => !mine x.ring) }

/-- The open step of a coupe that is saved ends: STEPNO noted in the completions of its STEP and requests. -/
def endOpenStep (k : CoupeId) (status : BitVec 8) (s : State) : State :=
  match (s.run k).openStep with
  | none => s
  | some st =>
    let s1 := st.reqs.foldl (fun t r =>
      finishAt st.ring r.pos (if r.status = some Status.cancelled then Status.cancelled else status) 0 0 st.number
        (giveBack r t))
      (finishAt st.ring st.pos status 0 0 st.number s)
    s1.setRun k { s1.run k with openStep := none }

/-- Ready steps of a coupe that is gone: the STEP does not fit, its requests' sequences are lost (R208). -/
def endReady (k : CoupeId) (s : State) : State :=
  (s.run k).ready.foldl (fun t st =>
    st.reqs.foldl (fun u r =>
      finishAt st.ring r.pos (if r.status = some Status.cancelled then Status.cancelled else Status.sequenceLost) 0 0 0
        (giveBack r u))
      (finishAt st.ring st.pos Status.doesNotFit 0 0 0 t)) s

/-- Ready steps of a PREEMPTED coupe: what was granted to them returns; their descriptors end with what is held. -/
def clearReady (k : CoupeId) (s : State) : State :=
  let s1 := (s.run k).ready.foldl (fun t st => st.reqs.foldl (fun u r => giveBack r u) t) s
  s1.setRun k { s1.run k with ready := [] }

/-- Allocations of a destroyed coupe: its save areas are freed, what stays homed belongs to no coupe. -/
def disown (k : CoupeId) (s : State) : State :=
  let s1 := dropKinds (fun kd => match kd with
    | .save k' _ => k' = k
    | .jobSave k' _ => k' = k
    | _ => false) s
  { s1 with dur := { s1.dur with
    allocs := s1.dur.allocs.map (fun a => if a.coupe = some k then { a with coupe := none } else a) } }

/-- The coupe is gone (R269). A SEQ_OPEN that is opening a sequence on it ends with DOES_NOT_FIT (R211). -/
def destroyCoupe (k : CoupeId) (s : State) : State :=
  let s0 := endOpening k Status.doesNotFit (endReady k s)
  let seqs := (s0.dur.seqs.filter (fun e => e.2.coupe = k && e.2.state ≠ .free)).map (fun e => BitVec.ofNat 13 e.1)
  let s1 := seqs.foldl (fun t i => freeSeq i t) s0
  let s2 := (pinnedGroups s1 k).foldl (fun t g => settleGroup g (t.setGroup g { t.group g with pinned := false })) s1
  let s3 := disown k (unbindAll k s2)
  let s4 := (s3.coupe k).standList.foldl (fun t g => freshStand g t) s3
  let s5 := (s4.setCoupe k Coupe.reset).setRun k CoupeRun.reset
  { s5 with transfers := s5.transfers.filter (fun t => !Mv.ofCoupe t.w k) }

/-- A drain begins: no new step, what is accepted is held (R144 step 1). -/
def startDrain (k : CoupeId) (act : CoupeAction) (s : State) : State :=
  let s1 := s.setCoupe k { s.coupe k with state := .draining }
  s1.setRun k { s1.run k with action := act, ended := false, heldFrom := (s1.run k).heldFrom.or (some s1.stamp) }

/-- COUPE_DESTROY. -/
def execCoupeDestroy (q : Desc) (s : State) : Out :=
  starts 0x07 q (fun s =>
    let k := CoupeD.coupe q.w
    match (s.coupe k).state with
    | .free => finish q Status.doesNotFit s
    | .idle => if (s.run k).action = .none then finish q Status.ok (destroyCoupe k s) else hold q s
    | .bound =>
      if (s.run k).action = .none then setEntry q.ring q.pos .started (startDrain k (.destroy q.ring q.pos) s) else hold q s
    | .preempted =>
      if (s.run k).action = .none then
        finish q Status.ok (destroyCoupe k (endAllHeld k (endOpening k Status.restartRequired
          (endOpenStep k Status.restartRequired (clearReady k s)))))
      else hold q s
    | _ => hold q s) s

/-! ## COUPE_PREEMPT (R274, R276, R284) -/

/-- COUPE_PREEMPT. A coupe that is PREEMPTED already stays so (log entry 34). -/
def execCoupePreempt (q : Desc) (s : State) : Out :=
  starts 0x08 q (fun s =>
    let k := CoupeD.coupe q.w
    let x := s.coupe k
    if x.state = .free || !x.preemptible then finish q Status.doesNotFit s
    else if x.state = .preempted then (if (s.run k).action = .none then finish q Status.ok s else hold q s)
    else if (x.state = .idle || x.state = .bound) && (s.run k).action = .none then
      setEntry q.ring q.pos .started (startPreempt k (.preempt q.ring q.pos) s)
    else hold q s) s

/-! ## COUPE_RESUME (R281, R283) -/

/-- COUPE_RESUME: onto the stands it was saved from. -/
def execCoupeResume (q : Desc) (s : State) : Out :=
  starts 0x09 q (fun s =>
    let k := CoupeD.coupe q.w
    let x := s.coupe k
    let m := x.savedStands
    let lost := x.state = .idle && x.stands = 0 && m ≠ 0
    if !(x.state = .preempted || lost) then
      if x.state = .preempting then hold q s else finish q Status.doesNotFit s
    else if !(maskStands m).all (standServes s) then
      finish q Status.doesNotFit (s.setRun k { s.run k with action := .none })
    else if (maskStands m).any (fun g => (claimant s g).isSome)
        || (holders s m).any (heldFast s (bit q.w 504) x.prio) then
      finish q Status.noBuffer (s.setRun k { s.run k with action := .none })
    else if (holders s m).isEmpty then
      resumeStart k q.ring q.pos (setEntry q.ring q.pos .started s)
    else
      let s1 := takeHolders k q.ring q.pos m s
      awaits q (s1.setRun k { s1.run k with action := .resume q.ring q.pos })) s

/-- Queues of a coupe from its saved state. -/
def restoreQueues (l : List (Nat × Queue)) : Sparse (Option Queue) :=
  l.foldl (fun m e => Sparse.set none e.1 (some e.2) m) []

/-- RESUME_COMPLETE: the coupe runs again, its transfers with the time they had left; a failed resume flushes it and
replays its step. A core with nothing to run starts the record that it holds (R57). -/
def execResumeComplete (k : CoupeId) (s : State) : Out :=
  let r := s.run k
  match (s.coupe k).state, r.saved, r.action with
  | .resuming, some sv, .resume ring pos =>
    let ago := s.timebase - sv.time
    let cores := sv.areas.flatMap (·.cores)
    let s1 := sv.areas.foldl (fun t a => restoreArea k a t) s
    let s2 := cores.foldl (fun t x => reissueReads x.id t) s1
    let x := s2.coupe k
    let s3 := (s2.setCoupe k { x with
      state := if x.bindings.isEmpty then .idle else .bound
      savedStands := 0 }).setRun k { r with
        saved := none
        action := .none
        queues := restoreQueues sv.queues
        barriers := sv.barriers
        heldFrom := if x.bindings.isEmpty then r.heldFrom else none
        lastProgress := r.lastProgress + ago
        lastCross := r.lastCross + ago }
    let s4 : State := { s3 with transfers := s3.transfers ++ sv.transfers.map (fun t => { t with started := s3.timebase }) }
    let s5 := if x.preemptible then s4 else dropSaves k s4
    let s6 := finishAt ring pos Status.ok 0 0 0 s5
    .next (if sv.refused then triggerReplay k Status.restartRequired 0 0 (flushCoupe k s6)
      else cores.foldl (fun t x => if (t.core x.id).task.isNone then startNext x.id t else t) s6)
  | _, _, _ => .next s

/-! ## Time-sharing (R285–R287) -/

/-- The resident job's state saved: router state, windows, core images, bench rows up to its highest declared rows. -/
def saveJob (k : CoupeId) (s : State) : State :=
  match bindingOf s k with
  | none => s
  | some cfg =>
    let x := s.coupe k
    let (areas, s1) := saveJobStands k cfg x.standList s
    let r := s1.run k
    let sv : Saved := ⟨areas, r.queues.filterMap (fun e => e.2.map (fun q => (e.1, q))), r.barriers, [], x.stepctr, s.timebase⟩
    s1.setRun k { r with jobSaved := r.jobSaved.set none x.curJob.toNat (some sv), queues := [], barriers := [] }

/-- Rows up to a job's highest declared rows written to zero. -/
def clearRows (cfg : Config) (c : CoreId) (s : State) : State := clearRange (benchAddr c 0) (512 * topRow cfg c) s

/-- The state of job j resident again, over rows that hold zeros. -/
def restoreJob (k : CoupeId) (j : BitVec 3) (s : State) : State :=
  let r := s.run k
  let s1 := s.setCoupe k { s.coupe k with curJob := j }
  match r.jobSaved.get none j.toNat with
  | none => s1.setRun k { s1.run k with turn := 0 }
  | some sv =>
    let s2 := (sv.areas.flatMap (·.cores)).foldl (fun t x => restoreRows x t) s1
    s2.setRun k { s2.run k with
      queues := restoreQueues sv.queues
      barriers := sv.barriers
      jobSaved := (s2.run k).jobSaved.set none j.toNat none
      turn := 0 }
/-- A switch from the resident job to job j. -/
def switchJob (k : CoupeId) (j : BitVec 3) (s : State) : State :=
  match bindingOf s k with
  | none => restoreJob k j s
  | some cfg => restoreJob k j ((coupeCores s k).foldl (fun t c => clearRows cfg c t) (saveJob k s))

/-- The job to which a coupe switches at a boundary: that of the oldest ready STEP of another job, when the resident job has
none ready or has had its turn. -/
def nextJob (s : State) (k : CoupeId) : Option (BitVec 3) :=
  let x := s.coupe k
  let r := s.run k
  let own := r.ready.any (fun st => ringJob s st.ring = x.curJob)
  let others := r.ready.filter (fun st => ringJob s st.ring ≠ x.curJob)
  match firstStep others with
  | none => none
  | some st => if !own || x.quantum.toNat ≤ r.turn then some (ringJob s st.ring) else none

/-- JOB_SWITCH: at a boundary, with every core idle. -/
def execJobSwitch (k : CoupeId) (s : State) : Out :=
  let x := s.coupe k
  let r := s.run k
  if x.tshare && x.state = .bound && r.openStep.isNone && r.action = .none
      && (coupeCores s k).all (fun c => (s.core c).task.isNone && (s.core c).next.isNone) then
    match nextJob s k with
    | none => .next s
    | some j => .next (switchJob k j s)
  else .next s

/-! ## SPAN_SET (R273) -/

/-- SPAN_SET: at the next commit. -/
def execSpanSet (q : Desc) (s : State) : Out :=
  starts 0x0A q (fun s =>
    let k := CoupeD.coupe q.w
    if (s.coupe k).state = .idle then
      finish q Status.ok { s with due := s.due ++
        [.spanSet k (BitVec.ofNat 16 (bits q.w 504 489)) (BitVec.ofNat 9 (bits q.w 488 480)) (BitVec.ofNat 8 (bits q.w 479 472))] }
    else finish q Status.doesNotFit s) s

end Sys2Proof.Machine
end

