-- ==== Sys2Proof/Machine/BindCmd.lean ====
section
/-! DEFINITION. DRAIN, COUPE_DRAINED and BIND: draining a coupe and attaching a configuration to it
(R144, R145, R150–R155, R199, R285, R440). -/

namespace Sys2Proof.Machine

/-! ## Drain (R144) -/

/-- DRAIN. An IDLE coupe has nothing to drain. -/
def execDrain (q : Desc) (s : State) : Out :=
  starts 0x04 q (fun s =>
    let k := CoupeD.coupe q.w
    match (s.coupe k).state with
    | .free => finish q Status.doesNotFit s
    | .idle => if (s.run k).action = .none then finish q Status.ok s else hold q s
    | .bound =>
      if (s.run k).action = .none then setEntry q.ring q.pos .started (startDrain k (.drain q.ring q.pos) s) else hold q s
    | _ => hold q s) s

/-- No row, marker or credit of a queue is left (step 4). -/
def queueDrained (q : Queue) : Bool :=
  q.network.isEmpty && q.staging.isEmpty && q.slackCount = 0 && q.marker.isNone && q.returning = 0
    && q.credits = q.depth

/-- Persistent queues of a coupe. -/
def persistentQueues (s : State) (k : CoupeId) : List (BitVec 16) :=
  ((s.run k).queues.filter (fun e => e.2.any (fun q => QRec.persist q.record))).map (fun e => BitVec.ofNat 16 e.1)

/-- Step 3: an end-of-stream marker for each persistent queue from its producer side, under its credits. -/
def pushEnds (k : CoupeId) (s : State) : State :=
  let hs := persistentQueues s k
  let r := s.run k
  hs.foldl (fun t h => feedMarks k h t)
    (s.setRun k { r with ended := true, feedPlans := r.feedPlans ++ hs.map (fun h => ⟨h, none, some .endOfStream⟩) })

/-- What a persistent queue still holds when no task is left to pop it, its marker included, goes with the drain and counts
as consumed; `waiting` markers have not entered it (log entry 35). -/
def drainPersistent (waiting : Nat) (q : Queue) : Queue :=
  if QRec.persist q.record then
    { q.emptied with
      rows := q.rows + BitVec.ofNat 48
        ((q.network ++ q.staging).filter Item.isRow).length + BitVec.ofNat 48 q.slackCount
      marks := BitVec.ofNat 16 (satAdd 16 q.marks.toNat
        (((q.network ++ q.staging).filter (fun i => !i.isRow)).length + b2n q.marker.isSome + waiting)) }
  else q

/-- Step 2 is reached: no open step, idle cores, no transfer. -/
def drainIdle (s : State) (k : CoupeId) : Bool :=
  (s.coupe k).state = .draining && (s.run k).openStep.isNone
    && (coupeCores s k).all (fun c => (s.core c).task.isNone && (s.core c).next.isNone)
    && !s.transfers.any (fun t => Mv.ofCoupe t.w k) && (s.run k).feedPlans.all (fun f => f.w.isNone)

/-- Steps 2 to 5 are reached: besides, the markers are pushed and the other queues empty. -/
def coupeIsDrained (s : State) (k : CoupeId) : Bool :=
  drainIdle s k && (s.run k).ended
    && (s.run k).queues.all (fun e => e.2.all (fun q => QRec.persist q.record || queueDrained q))

/-- The coupe is DRAINED: IDLE with no configuration; its queue counters stay. -/
def drained (k : CoupeId) (s : State) : State :=
  let s1 := s.setCoupe k { s.coupe k with state := .idle }
  let r := s1.run k
  let waiting (h : Nat) : Nat := (r.feedPlans.filter (fun f => f.handle.toNat = h)).length
  s1.setRun k { r with
    queues := r.queues.map (fun e => (e.1, e.2.map (drainPersistent (waiting e.1))))
    feeds := [], feedPlans := [], ended := false }

/-- COUPE_DRAINED: once the coupe is idle its persistent queues get their markers; once it is drained, what waited for the
drain goes on. -/
def execCoupeDrained (k : CoupeId) (s : State) : Out :=
  if coupeIsDrained s k then
    let act := (s.run k).action
    let s1 := drained k s
    match act with
    | .drain ring pos =>
      let s2 := unbindAll k s1
      .next (finishAt ring pos Status.ok 0 0 0 (s2.setRun k { s2.run k with action := .none, jobSaved := [] }))
    | .bind q => .next (unbindJob k (bits q.w 490 488) s1)
    | .destroy ring pos => .next (finishAt ring pos Status.ok 0 0 0 (destroyCoupe k s1))
    | _ => .next s1
  else if drainIdle s k && !(s.run k).ended then .next (pushEnds k s)
  else .next s

/-! ## BIND fields (R299) -/

namespace BindD
def coupe (w : BitVec 512) : CoupeId := BitVec.ofNat 7 (bits w 511 505)
def handle (w : BitVec 512) : BitVec 10 := BitVec.ofNat 10 (bits w 504 495)
def config (w : BitVec 512) : Nat := bits w 494 491
def job (w : BitVec 512) : Nat := bits w 490 488
def seed (w : BitVec 512) : BitVec 32 := BitVec.ofNat 32 (bits w 487 456)
def prows (w : BitVec 512) : BitVec 8 := BitVec.ofNat 8 (bits w 455 448)
def players (w : BitVec 512) : BitVec 8 := BitVec.ofNat 8 (bits w 447 440)
def vocab (w : BitVec 512) : BitVec 20 := BitVec.ofNat 20 (bits w 439 420)
def shard (w : BitVec 512) : BitVec 16 := BitVec.ofNat 16 (bits w 419 404)
end BindD

/-- The shard that a BIND names. -/
def bindShard (s : State) (q : Desc) : Option Shard :=
  (s.image (BindD.handle q.w)).shards.find? (fun x => x.index = BindD.shard q.w)

/-- The rows of the shard that a BIND names, in the yard copy. -/
def bindRows (s : State) (q : Desc) : Nat → Row :=
  fun i => match bindShard s q with
    | some x => Memory.row (x.addr.toNat + 512 * i) s.mem
    | none => 0

/-! ## Placement (R151) -/

/-- Sector groups that occur, ascending. -/
def groupsOf (pl : List Nat) : List Nat := (List.range 8).filter (fun g => pl.any (fun b => placeGroup b = g))

/-- Stands of a kind of a coupe in a sector, ascending. -/
def kindStandsOf (x : Coupe) (i : SectorId) (courser : Bool) : List StandId :=
  (sectorStands i).filter (fun g => inMask x.stands g && standCourser g = courser)

/-- Placement bytes of a group and kind. -/
def groupCount (pl : List Nat) (g : Nat) (courser : Bool) : Nat :=
  (pl.filter (fun b => placeGroup b = g && placeCourser b = courser)).length

/-- Whether a sector holds enough stands of both kinds for a group. -/
def sectorHolds (x : Coupe) (pl : List Nat) (g : Nat) (i : SectorId) : Bool :=
  groupCount pl g false ≤ (kindStandsOf x i false).length && groupCount pl g true ≤ (kindStandsOf x i true).length

/-- Sectors of the groups in order: the lowest that holds the group and that no earlier group took; or the group for
which there is none. -/
def assignGroups (x : Coupe) (pl : List Nat) : List Nat → List (Nat × SectorId) → Except Nat (List (Nat × SectorId))
  | [], acc => .ok acc
  | g :: rest, acc =>
    match allSectors.find? (fun i => sectorHolds x pl g i && acc.all (fun a => a.2 ≠ i)) with
    | some i => assignGroups x pl rest (acc ++ [(g, i)])
    | none => .error g

/-- Device stand of configuration stand i. -/
def standOf (x : Coupe) (pl : List Nat) (asg : List (Nat × SectorId)) (i : Nat) : StandId :=
  let b := pl.getD i 0
  let rank := ((pl.take i).filter (fun y => placeGroup y = placeGroup b && placeCourser y = placeCourser b)).length
  match asg.find? (fun a => a.1 = placeGroup b) with
  | some (_, sec) => (kindStandsOf x sec (placeCourser b)).getD rank 0
  | none => 0

/-- Device core of a configuration core index (R150). -/
def mapCore (stands : List StandId) (idx : Nat) : CoreId := coreOf (stands.getD (idx / 32) 0) (idx % 32)

/-! ## Translation (R150, R152, R335) -/

/-- A template with its core and relocated arguments. -/
def mapTemplate (stands : List StandId) (t : BitVec 1024) : BitVec 1024 :=
  let field (lo : Nat) (old : BitVec 1024) : BitVec 1024 :=
    (old &&& ~~~(put lo 0xFFF)) ||| put lo (mapCore stands (bits old (lo + 11) lo)).toNat
  let t1 := field 556 t
  let t2 := if Tpl.reloc0 t then field (109 + 15) t1 else t1
  if Tpl.reloc1 t then field (45 + 15) t2 else t2

/-- A queue record with its local ends; the other end of a span queue is not a core of this device. -/
def mapQueue (stands : List StandId) (inner outer : Bool) (q : BitVec 128) : BitVec 128 :=
  let field (lo : Nat) (on : Bool) (old : BitVec 128) : BitVec 128 :=
    if on then (old &&& ~~~(put lo 0xFFF)) ||| put lo (mapCore stands (bits old (lo + 11) lo)).toNat else old
  field 116 outer (field 102 inner q)

/-- The queues of a configuration with core IDs of this device. -/
def mapQueues' (f : Nat → Row) (c : Nat) (stands : List StandId) : List (BitVec 128) :=
  (cfgQueues f c).map (fun q =>
    let span := isSpanHandle (QRec.handle q)
    mapQueue stands (!span || bindsIn f c (QRec.handle q)) (!span || bindsOut f c (QRec.handle q)) q)

/-- Highest declared row of each core plus one (R154, reason BENCH). -/
def declaredRows (f : Nat → Row) (c : Nat) (stands : List StandId) : List (Nat × Nat) :=
  let l : List (Nat × Nat) :=
    (cfgTemplates f c).map (fun t => ((Tpl.core t).toNat, (Task.bound (Tpl.record t)).toNat + 1))
      ++ (cfgRuns f c).map (fun r => (Run.core r, Run.row r + Run.rows r))
      ++ (cfgWindows f c).map (fun w => (WinDecl.core w, WinDecl.base w + WinDecl.len w))
      ++ (slackRings f c).map (fun r => (r.1, r.2.1 + r.2.2))
      ++ (residenceRows f c ++ skidRows f c).map (fun r => (r.1, r.2.1 + r.2.2))
  (l.map (·.1)).eraseDups.map (fun i =>
    ((mapCore stands i).toNat, (l.filter (fun e => e.1 = i)).foldl (fun m e => max m e.2) 0))

/-- Code runs with core IDs: first bench row, first row of the image on this device, rows (R440). -/
def bindRuns (f : Nat → Row) (c : Nat) (base : Nat) (stands : List StandId) : List (Nat × Nat × Nat × Nat) :=
  let first := ((findSect f 0x03 c).map Sect.first).getD 0
  (cfgRuns f c).map (fun r => ((mapCore stands (Run.core r)).toNat, Run.row r, base + first + Run.offset r, Run.rows r))

/-- Resident tiles (R164): core ID, first bench row, walk, and the image row of each bench row. Tiles of a residence record
are those that its walk visits from its first tile on. -/
def bindTiles (f : Nat → Row) (c : Nat) (base : Nat) (stands : List StandId) :
    List (CoreId × Nat × BitVec 512 × List (Option Nat)) :=
  if CfgRec.mode (cfgRec f c) ≠ 0 then []
  else
    let data := ((findSect f 0x14 Sect.all).map Sect.first).getD 0
    (cfgResidence f c).filterMap (fun r =>
      match tensorAt f r.tensor.toNat, walkAt f r.walk.toNat with
      | some t, some w =>
        let first := base + data + Tensor.first t + r.first.toNat * Tensor.tileRows t
        some (mapCore stands r.core.toNat, r.row0.toNat, w,
          (walkPlan w r.count.toNat).map (fun o => o.map (fun i => ((first : Int) + i).toNat)))
      | _, _ => none)

/-- Streamed residence records (R150, R165). -/
def bindStreams (f : Nat → Row) (c : Nat) (base : Nat) (stands : List StandId) : List Stream :=
  let rec_ := cfgRec f c
  if CfgRec.mode rec_ = 0 then []
  else
    let data := base + ((findSect f 0x14 Sect.all).map Sect.first).getD 0
    (entriesOf f 0x0C c).filterMap (fun v =>
      let bits_ := BitVec.ofNat 128 v
      let r := Config.residence bits_
      (tensorAt f r.tensor.toNat).map (fun t =>
        { core := mapCore stands r.core.toNat
          areas := areasOf (CfgRec.prefetch rec_) r
          walk := r.walk.toNat
          count := r.count.toNat
          firsts := (List.range (CfgRec.layers rec_)).map (fun l =>
            data + Tensor.first t + (Config.layerTile bits_ l).toNat * Tensor.tileRows t) }))

/-- Skid chains (R150, R166). -/
def bindChains (f : Nat → Row) (c : Nat) (base : Nat) (stands : List StandId) : List Chain :=
  let data := base + ((findSect f 0x14 Sect.all).map Sect.first).getD 0
  (cfgSkids f c).filterMap (fun r =>
    (tensorAt f r.tensor.toNat).map (fun t =>
      { walk := r.walk.toNat
        first := data + Tensor.first t
        row := r.row.toNat
        members := r.members.map (fun m => mapCore stands m.toNat)
        barrier := r.barrier }))

/-- The bound configuration. -/
def bindConfig (f : Nat → Row) (q : Desc) (base : Nat) (stands : List StandId) : Config :=
  let c := BindD.config q.w
  let rec_ := cfgRec f c
  { image := BindD.handle q.w
    config := BitVec.ofNat 4 c
    shard := BitVec.ofNat 16 (ImgHdr.shardIndex (f 0))
    model := BitVec.ofNat 32 (ImgHdr.model (f 0))
    adapter := BitVec.ofNat 16 (ImgHdr.adapter (f 0))
    seed := BindD.seed q.w
    prows := BindD.prows q.w
    players := BindD.players q.w
    vocab := BindD.vocab q.w
    stands := stands
    dims := CfgRec.dims rec_
    stages := CfgRec.stages rec_
    templates := (cfgTemplates f c).map (mapTemplate stands)
    buckets := (entriesOf f 0x07 c).map (BitVec.ofNat 256)
    queues := mapQueues' f c stands
    padding := (entriesOf f 0x08 c).map (BitVec.ofNat 64)
    barriers := (entriesOf f 0x09 c).map (BitVec.ofNat 64)
    feeds := cfgFeeds f c
    walks := (entriesOf f 0x11 Sect.all).map (BitVec.ofNat 512)
    floor := ceilDiv (CfgRec.floor rec_) 4096
    tops := declaredRows f c stands
    code := bindRuns f c base stands
    tiles := bindTiles f c base stands
    prefetch := CfgRec.prefetch rec_
    layers := (List.range (CfgRec.layers rec_)).map (Config.layerBarrier rec_)
    streams := bindStreams f c base stands
    chains := bindChains f c base stands
    experts := Sys2Proof.Config.hasExperts rec_
    expertStage := Sys2Proof.Config.expertStage rec_
    gates := (List.range (BindD.players q.w).toNat).map (fun l =>
      (Config.gateTemplate rec_ l, Config.routingBarrier rec_ l)) }

/-! ## The bind checks (R153, R154) -/

/-- A refusal found at BIND. -/
def bindRefusal (q : Desc) (reason detail : Nat) : Refused := ⟨reason, 0x01, BindD.config q.w, 0, detail⟩

/-- Reason IMAGE. -/
def checkBindImage (s : State) (q : Desc) : Option Refused :=
  let x := s.image (BindD.handle q.w)
  let f := bindRows s q
  let bad (d : Nat) : Option Refused := some ⟨Reason.image, 0, BindD.config q.w, 0, d⟩
  if x.state ≠ .ready then bad (match x.state with | .absent => 0 | .loading => 1 | .ready => 2 | .unloading => 3)
  else if (bindShard s q).isNone then bad 0xFFFF
  else if ImgHdr.configCount (f 0) ≤ BindD.config q.w then bad 0xFFFE
  else none

/-- Reasons STANDS and PLACEMENT. -/
def checkBindStands (s : State) (q : Desc) : Option Refused :=
  let f := bindRows s q
  let c := BindD.config q.w
  let x := s.coupe (BindD.coupe q.w)
  let have_ (courser : Bool) : Nat := (x.standList.filter (fun g => standCourser g = courser)).length
  if have_ false < CfgRec.standsD (cfgRec f c) then some (bindRefusal q Reason.stands 0)
  else if have_ true < CfgRec.standsC (cfgRec f c) then some (bindRefusal q Reason.stands 1)
  else
    match assignGroups x (placement f c) (groupsOf (placement f c)) [] with
    | .error g => some (bindRefusal q Reason.placement g)
    | .ok _ => none

/-- Device stands of the configuration stands. -/
def bindStands (s : State) (q : Desc) : List StandId :=
  let pl := placement (bindRows s q) (BindD.config q.w)
  let x := s.coupe (BindD.coupe q.w)
  match assignGroups x pl (groupsOf pl) [] with
  | .error _ => []
  | .ok asg => (List.range pl.length).map (standOf x pl asg)

/-- Queue records that a stand's router would hold, the producer's and the consumer's copies counted; of a span queue only
the ends that tasks of this device bind (R335). -/
def routerLoad (cfg : Config) (g : StandId) : Nat :=
  let l := cfg.queues.filter (fun q => QRec.handle q ≠ 0xFFFF)
  let binds (ps : List Nat) (h : BitVec 16) : Bool :=
    cfg.templates.any (fun t => ps.any (fun p => Task.port (Tpl.record t) p = h))
  (l.filter (fun q => coreStand (QRec.prod q) = g && (!isSpanHandle (QRec.handle q)
      || binds [4, 5, 6, 7] (QRec.handle q) || cfg.feeds.any (fun w => Feed.queue w = QRec.handle q)))).length
    + (l.filter (fun q => coreStand (QRec.cons q) = g && (!isSpanHandle (QRec.handle q)
      || binds [0, 1, 2, 3] (QRec.handle q)))).length

/-- The lowest-numbered sector of a coupe. -/
def coupeSector (x : Coupe) : Option SectorId := x.standList.head?.map standSector

/-- Coupe-scope barriers of a list. -/
def coupeBarriers (l : List (BitVec 64)) : Nat := (l.filter (fun w => !Barrier.memory w)).length

/-- Barrier counters that a sector's sequencer holds for the other coupes that it serves, and other jobs. -/
def barrierLoad (s : State) (k : CoupeId) (j : Nat) (i : SectorId) : Nat :=
  ((listedCoupes s).map (fun d =>
    if coupeSector (s.coupe d) = some i then
      ((s.coupe d).bindings.map (fun e =>
        if d = k && e.1 = j then 0 else ((e.2.map (fun c => coupeBarriers c.barriers)).getD 0))).sum
    else 0)).sum

/-- Reasons SPAN, PROFILE, ROUTER and BARRIERS, in that order. -/
def checkBindRest (s : State) (q : Desc) (cfg : Config) : Option Refused :=
  let k := BindD.coupe q.w
  let x := s.coupe k
  let f := bindRows s q
  let rec_ := cfgRec f (BindD.config q.w)
  let member := x.sCount ≠ 0 && x.spanId ≠ 0
  let devices := if member then x.sCount.toNat else 1
  let spanUsed := cfg.templates.any (fun t => (List.range 8).any (fun p => isSpanHandle (Task.port (Tpl.record t) p)))
  if CfgRec.span rec_ ≠ devices || (!member && spanUsed) then some (bindRefusal q Reason.span 0)
  else if CfgRec.profile rec_ = 0 && s.power.device = .early then some (bindRefusal q Reason.profile 0)
  else if x.standList.any (fun g => 1024 < routerLoad cfg g) then some (bindRefusal q Reason.router 0)
  else
    match coupeSector x with
    | some i =>
      if 1024 < barrierLoad s k (BindD.job q.w) i + coupeBarriers cfg.barriers then some (bindRefusal q Reason.barriers 0)
      else none
    | none => none

/-! ## Deck units for a BIND (R155, R199, R285) -/

/-- The runs of an image's deck copy of n units: the stacks of the coupe's sectors take them in rotation. -/
def copyParts (s : State) (k : CoupeId) (h : BitVec 10) (n : Nat) : List (AllocKind × Nat) :=
  let m := (coupeStacks s k).length
  ((List.range m).map (fun j => (AllocKind.imageDeck h, (n + m - 1 - j) / m))).filter (fun r => r.2 ≠ 0)

/-- The yard copy of an image staged into its deck copy. -/
def fillCopy (h : BitVec 10) (n : Nat) (s : State) : State :=
  match findAlloc s .yard (.imageYard h) with
  | none => s
  | some y =>
    let runs := copyRuns s h
    (List.range n).foldl (fun t u => copyRange (y.addr.toNat + 4096 * u) (copyUnit runs u) 4096 t) s

/-- Units of a job's save area: the fixed sections of each stand, and the declared rows of its cores (R285). -/
def jobUnits (x : Coupe) (cfg : Config) : Nat :=
  768 * x.standList.length + ceilDiv ((cfg.tops.map (·.2)).sum) 8

/-- The runs that a BIND needs: the image's deck copy, where it has none, and the job's save area (R199, R285). -/
def bindParts (q : Desc) (cfg : Config) (s : State) : List (AllocKind × Nat) :=
  let k := BindD.coupe q.w
  let x := s.coupe k
  let img := s.image (BindD.handle q.w)
  (if img.deck then [] else copyParts s k (BindD.handle q.w) (ceilDiv img.rows 8))
    ++ (if x.tshare then [(.jobSave k (BitVec.ofNat 3 (BindD.job q.w)), jobUnits x cfg)] else [])

/-- The floor of a BIND's coupe set, the old save area of its job given up. -/
def takeFloor (q : Desc) (cfg : Config) (s : State) : State :=
  let k := BindD.coupe q.w
  let x := s.coupe k
  let floor := (x.bindings.map (fun e => (e.2.map (·.floor)).getD 0)).foldl max cfg.floor
  (dropAlloc (.jobSave k (BitVec.ofNat 3 (BindD.job q.w))) s).setCoupe k
    { x with floor := BitVec.ofNat 27 floor, floorLost := false }

/-- Whether the deck can hold what a BIND needs, its floor beside (R154, R185, R186, R199); a copy needs a stack of the
coupe's sectors. -/
def deckHolds (q : Desc) (cfg : Config) (s : State) : Bool :=
  let t := takeFloor q cfg s
  let k := BindD.coupe q.w
  let img := s.image (BindD.handle q.w)
  fits t .deck (poolReserve t .deck)
    && (img.deck || img.rows = 0 || !(coupeStacks s k).isEmpty)
    && grants t .deck none (unitsOf (bindParts q cfg t)) (queuedUnits t .deck)

/-- Whether another coupe's BIND is placing this image's deck copy. -/
def copyPending (q : Desc) (s : State) : Bool :=
  s.granted.any (fun g => g.coupe ≠ some (BindD.coupe q.w) && g.runs.any (fun r => r.1 = .imageDeck (BindD.handle q.w)))

/-- A run that a BIND asked for. -/
def bindKind (q : Desc) : AllocKind → Bool
  | .imageDeck h => h = BindD.handle q.w
  | .jobSave k j => k = BindD.coupe q.w && j.toNat = BindD.job q.w
  | _ => false

/-- The grant of a BIND that still has runs to place. -/
def bindGrant (q : Desc) (s : State) : Option PoolGrant :=
  s.granted.find? (fun g => g.pool = .deck && g.coupe = some (BindD.coupe q.w) && g.runs.any (fun r => bindKind q r.1))

/-- Every run of a BIND is in place. -/
def bindPlaced (q : Desc) (s : State) : Bool :=
  let h := BindD.handle q.w
  ((s.image h).deck || sumUnits (copyRuns s h) = ceilDiv (s.image h).rows 8)
    && (!(s.coupe (BindD.coupe q.w)).tshare
      || (findAlloc s .deck (.jobSave (BindD.coupe q.w) (BitVec.ofNat 3 (BindD.job q.w)))).isSome)

/-- What is placed for a BIND given up: a copy that is not whole, and the job's save area. -/
def dropParts (q : Desc) (s : State) : State :=
  dropKinds (fun kd => bindKind q kd && !(match kd with | .imageDeck h => (s.image h).deck | _ => false)) s

/-- The image's deck copy in place: staged from the yard, and no longer evictable. -/
def deckReady (h : BitVec 10) (s : State) : State :=
  let x := s.image h
  if x.deck then
    { s with dur := { s.dur with allocs := s.dur.allocs.map (fun a =>
      if a.kind = .imageDeck h then { a with evictable := none } else a) } }
  else fillCopy h (ceilDiv x.rows 8) (s.setImage h { x with deck := true })

/-! ## Staging and attachment (R155) -/

/-- One row of a deck copy; a granule staged again on its first read is read again (R360). -/
def readLease (a : Nat) (s : State) : (Row × Bool) × State :=
  if leaseHit s a then
    let (_, t) := readRowAt a s
    readRowAt a t
  else readRowAt a s

/-- The rows of a code run written to its core's bench, ascending. -/
def stageRun (runs : List Alloc) (r : Nat × Nat × Nat × Nat) (s : State) : State :=
  (List.range r.2.2.2).foldl (fun t i =>
    let row := r.2.2.1 + i
    let (d, u) := readLease (copyUnit runs (row / 8) + row % 8 * 512) t
    writeBench (BitVec.ofNat 12 r.1) (r.2.1 + i) d.1 d.2 u) s

/-- The rows of a resident tile written to its core's bench, in the walk's order. -/
def stageTile (cfg : Config) (runs : List Alloc) (l : CoreId × Nat × BitVec 512 × List (Option Nat)) (s : State) : State :=
  (l.2.2.2.zipIdx).foldl (fun t e =>
    let (d, u) := match e.1 with
      | some row => readLease (copyUnit runs (row / 8) + row % 8 * 512) t
      | none => ((walkPadRow cfg l.2.2.1, false), t)
    writeBench l.1 (l.2.1 + e.2) d.1 d.2 u) s

/-- The code runs and resident tiles of a configuration staged into the benches (R155 step 7, R164, R440) from the runs of
a copy of its image. -/
def stageFrom (runs : List Alloc) (cfg : Config) (s : State) : State :=
  cfg.tiles.foldl (fun t l => stageTile cfg runs l t) (cfg.code.foldl (fun t r => stageRun runs r t) s)
/-- The same from the deck copy. -/
def stageConfig (cfg : Config) (s : State) : State := stageFrom (copyRuns s cfg.image) cfg s

/-- A queue as BIND writes it: EPOCH 0, credits at depth, counters clear. -/
def freshQueue (w : BitVec 128) : Queue :=
  let q : Queue :=
    { record := w, span := isSpanHandle (QRec.handle w), epoch := 0, credits := 0, returning := 0, markCredit := false
      network := [], sent := [], staging := [], slackCount := 0, slackHead := 0, marker := none, padRow := 0, rows := 0, marks := 0
      prodFull := 0, consEmpty := 0, spilled := 0, high := 0, left := 0, discarded := 0, ord := 0 }
  { q with credits := q.depth }

/-- The queues of a configuration by handle; records with handle 0xFFFF are unused. -/
def freshQueues (cfg : Config) : Sparse (Option Queue) :=
  cfg.queues.foldl (fun m w =>
    if QRec.handle w = 0xFFFF then m else Sparse.set none (QRec.handle w).toNat (some (freshQueue w)) m) []

/-- All 16 windows of a core closed. -/
def closeWindows (c : CoreId) (s : State) : State := s.setCore c { s.core c with windows := [] }

/-- The configuration attached: the coupe is BOUND. The state of a job that was resident is saved first. -/
def attach (q : Desc) (cfg : Config) (s : State) : State :=
  let k := BindD.coupe q.w
  let j := BindD.job q.w
  let s1 := if (s.coupe k).tshare && (s.coupe k).curJob.toNat ≠ j then saveJob k s else s
  let s2 := (coupeCores s1 k).foldl (fun t c => closeWindows c t) s1
  let s3 := stageConfig cfg s2
  let s4 := s3.setImage cfg.image { s3.image cfg.image with bindings := (s3.image cfg.image).bindings + 1 }
  let x := s4.coupe k
  let s5 := s4.setCoupe k { x with
    state := .bound
    curJob := BitVec.ofNat 3 j
    bindings := x.bindings.set none j (some cfg)
    totals := Totals.zero
    firstSpanStep := true }
  let r := s5.run k
  let s6 := s5.setRun k { r with
    action := .none
    heldFrom := none
    queues := freshQueues cfg
    shown := (freshQueues cfg).filterMap (fun e => e.2.map (fun q => (e.1, q)))
    barriers := []
    spanEpoch := 0
    spanAdvanced := false
    flushed := []
    earlyBundles := []
    xtagsDone := []
    feeds := []
    feedPlans := []
    jobSaved := r.jobSaved.set none j none
    turn := 0 }
  finish q Status.ok (dueAnnounce s6)

/-- A BIND that fails leaves the job without a configuration; a coupe with another job bound serves that one. -/
def bindFails (q : Desc) (r : Refused) (s : State) : State :=
  let k := BindD.coupe q.w
  let x := s.coupe k
  let left := x.bindings.any (fun e => e.2.isSome)
  let s1 := s.setCoupe k { x with state := if left then .bound else .idle }
  refuse q r (s1.setRun k { s1.run k with
    action := .none, heldFrom := if left then none else (s1.run k).heldFrom })

/-- The configuration of a BIND. -/
def bindCfg (q : Desc) (s : State) : Config :=
  let img := s.image (BindD.handle q.w)
  let base := ((img.shards.takeWhile (fun x => x.index ≠ BindD.shard q.w)).map (·.rows)).sum
  bindConfig (bindRows s q) q base (bindStands s q)

/-- A BIND that waits: what is accepted for its coupe meanwhile is held (R155). -/
def bindWaits (q : Desc) (act : CoupeAction) (s : State) : State :=
  let k := BindD.coupe q.w
  let r := s.run k
  awaits q (s.setRun k { r with action := act, heldFrom := r.heldFrom.or (some s.stamp) })

/-- What follows the checks: the deck units, and with them the attachment; a BIND whose units are not free yet goes on when
it is sent again. -/
def bindGoes (q : Desc) (runs : List (AllocKind × Nat)) (s : State) : State :=
  let k := BindD.coupe q.w
  match placeRuns .deck (some k) 0 runs s with
  | .granted _ t =>
    let cfg := bindCfg q t
    attach q cfg (deckReady cfg.image t)
  | .waits t => bindWaits q (.bindUnits q) t
  | .refused => s

/-- The checks, and what follows, on a drained coupe. -/
def bindChecks (q : Desc) (s : State) : State :=
  match checkBindImage s q with
  | some r => bindFails q r s
  | none =>
    match checkBindStands s q with
    | some r => bindFails q r s
    | none =>
      let cfg := bindCfg q s
      if copyPending q s then bindWaits q (.bind q) s
      else if !deckHolds q cfg s then bindFails q (bindRefusal q Reason.deck 0) s
      else
        match checkBindRest s q cfg with
        | some r => bindFails q r s
        | none =>
          let t := takeFloor q cfg s
          bindGoes q (bindParts q cfg t) t

/-- A BIND on a drained coupe: the checks, or what its granted units waited for; where a failed stack took some of them, the
checks are made again. -/
def bindNow (q : Desc) (s : State) : State :=
  if (s.run (BindD.coupe q.w)).action = .bindUnits q then
    match bindGrant q s with
    | some g => bindGoes q g.runs { s with granted := s.granted.filter (fun x => x ≠ g) }
    | none => if bindPlaced q s then bindGoes q [] s else bindChecks q (dropParts q s)
  else bindChecks q s

/-- BIND: a job that the coupe does not have is refused (log entry 36); a coupe with a bound configuration drains first;
the command is sent again when it is drained. -/
def execBind (q : Desc) (s : State) : Out :=
  starts 0x03 q (fun s =>
    let k := BindD.coupe q.w
    let act := (s.run k).action
    if (s.coupe k).jobs.toNat < BindD.job q.w then finish q Status.doesNotFit s
    else
    match (s.coupe k).state with
    | .free => finish q Status.doesNotFit s
    | .idle => if act = .none || act = .bind q || act = .bindUnits q then bindNow q s else hold q s
    | .bound => if act = .none then awaits q (startDrain k (.bind q) s) else hold q s
    | .draining => if act = .bind q then s else hold q s
    | _ => hold q s) s

end Sys2Proof.Machine
end

