-- ==== Sys2Proof/Machine/RingEngine.lean ====
section
/-! DEFINITION. The ring engine: the ring table, doorbells, fetching and accepting descriptors (R289–R303, R325, R326). -/

namespace Sys2Proof.Machine

/-! ## Ring table entries (R290) -/

namespace RingE
def base (w : BitVec 512) : Nat := bits w 511 448
def dbell (w : BitVec 512) : Nat := bits w 447 384
def status (w : BitVec 512) : Nat := bits w 383 320
/-- First byte of the ring's ledger in the ledger region. -/
def ledger (w : BitVec 512) : Nat := 4096 * bits w 319 296
def kind (w : BitVec 512) : Nat := bits w 295 294
def log2n (w : BitVec 512) : Nat := bits w 293 289
/-- Entries of the ring. -/
def size (w : BitVec 512) : Nat := 2 ^ log2n w
def func (w : BitVec 512) : Nat := bits w 288 286
def cq (w : BitVec 512) : RingId := BitVec.ofNat 15 (bits w 285 271)
def prio (w : BitVec 512) : Nat := bits w 260 258
def immcan (w : BitVec 512) : Bool := bit w 257
def notify (w : BitVec 512) : Bool := bit w 256
def enable (w : BitVec 512) : Bool := bit w 255
def rsvdOk (w : BitVec 512) : Bool := bits w 254 0 = 0
end RingE

/-- Checks of an enabled entry that concern no other ring (R291). -/
def entryShape (w : BitVec 512) : Bool :=
  6 ≤ RingE.log2n w && RingE.log2n w ≤ 16 && RingE.base w % 4096 = 0 && RingE.dbell w % 64 = 0
    && RingE.status w % 64 = 0 && RingE.rsvdOk w && RingE.kind w ≠ 0
    && (!RingE.notify w || RingE.kind w = 2) && (!RingE.immcan w || RingE.kind w = 1)

/-- Whether an enabled entry for ring r is valid beside the rings that are already in use (R291; log entry 37). -/
def entryValid (ledgerSize : Nat) (on : List RingEntry) (r : RingId) (w : BitVec 512) : Bool :=
  let others := on.filter (fun e => e.1 ≠ r)
  let lo := RingE.ledger w
  let len := 16 * RingE.size w
  entryShape w
    && (RingE.kind w ≠ 1 ||
      (others.any (fun e => e.1 = RingE.cq w && RingE.kind e.2 = 2 && RingE.func e.2 = RingE.func w)
        && lo + len ≤ ledgerSize
        && others.all (fun e => !(RingE.kind e.2 = 1 && rangesMeet lo len (RingE.ledger e.2) (16 * RingE.size e.2)))))
    && (!RingE.immcan w || (others.filter (fun e => e.1.toNat < r.toNat && RingE.immcan e.2)).length < 256)
    && (RingE.kind w ≠ 3 || others.all (fun e => !(RingE.kind e.2 = 3 && RingE.func e.2 = RingE.func w)))

/-- The rings in use, with their entries. -/
def ringsOn (s : State) : List RingEntry :=
  (s.rings.filter (fun e => e.2.state = .enabled)).map (fun e => (BitVec.ofNat 15 e.1, e.2.entry))

/-- An event about a ring, for its function. -/
def raiseRing (kind value : Nat) (r : RingId) (s : State) : State := raise (ringFunc s r) kind 0 value 0 r 0 0 s

/-- A ring enters ERROR (R292, R321). -/
def ringError (r : RingId) (cause : Nat) (s : State) : State :=
  raiseRing 0x05 cause r (s.setRing r { s.ringOf r with state := .error, cause := BitVec.ofNat 8 cause })

/-- A ring as its table entry makes it, with zero counts: disabled, in use, or ERROR with cause TABLE. -/
def placeRing (valid : Bool) (r : RingId) (w : BitVec 512) (s : State) : State :=
  let fresh : Ring := { Ring.reset with entry := w }
  if !RingE.enable w then s.setRing r fresh
  else if valid then s.setRing r { fresh with state := .enabled, armed := RingE.notify w }
  else ringError r 1 (s.setRing r fresh)

/-! ## Doorbells (R292–R295) -/

/-- The ring engine observes doorbells and fetches (R325): HST_RB is released and the host link works. -/
def engineRuns (s : State) : Bool := s.power.rb = .released && s.power.linkUp && s.power.main

/-- A function under reset: its rings and its host memory are left alone (R314). -/
def funcStopped (s : State) (f : Nat) : Bool := bit s.funcReset f

/-- Doorbells by CXL.cache (R294, R421). -/
def cxlMode (s : State) : Bool := s.setup.doorbellMode = 1 && s.power.cxl

/-- Descriptors written and not yet accepted. -/
def unfetched (x : Ring) : Nat := (x.count - x.front).toNat

/-- A doorbell count as observed: TAIL of a submission ring, HEAD of another, which arms a ring that asks for notice (R323). -/
def observe (r : RingId) (n : BitVec 32) (s : State) : State :=
  let x := s.ringOf r
  if x.state ≠ .enabled || funcStopped s (RingE.func x.entry) then s
  else if RingE.kind x.entry = 1 then
    let y := { x with
      count := n
      waitingSince := if n = x.front then none else x.waitingSince.orElse (fun _ => some s.timebase) }
    if RingE.size x.entry < (n - x.back).toNat then ringError r 2 (s.setRing r y) else s.setRing r y
  else if n = x.count then s
  else s.setRing r { x with count := n, armed := x.armed || RingE.notify x.entry }

/-- DOORBELL_WRITE: in CXL mode the engine refetches the line that the host has written. -/
def execDoorbellWrite (r : RingId) (count : BitVec 32) (s : State) : Out :=
  if engineRuns s && cxlMode s then .next (observe r count s) else .next s

/-- POLL_ROUND: in polling mode the engine reads the doorbell line of every ring in use. -/
def execPollRound (counts : List (RingId × BitVec 32)) (s : State) : Out :=
  if engineRuns s && !cxlMode s then .next (counts.foldl (fun t c => observe c.1 c.2 t) s) else .next s

/-! ## What to fetch (R296, R297) -/

/-- Free entries of a completion ring: N − (POSTED − HEAD) − reserved. -/
def cqFree (s : State) (r : RingId) : Nat :=
  let x := s.ringOf r
  if x.state = .enabled then RingE.size x.entry - (x.front - x.count).toNat - x.reserved else 0

/-- The descriptors that a turn of ring r would fetch. -/
def burst (s : State) (r : RingId) : Nat :=
  let x := s.ringOf r
  if x.state = .enabled && RingE.kind x.entry = 1 && !funcStopped s (RingE.func x.entry) then
    min (min 32 (unfetched x))
      (min (RingE.size x.entry - x.front.toNat % RingE.size x.entry) (cqFree s (RingE.cq x.entry)))
  else 0

/-- Rings that a turn may serve, ascending. -/
def fetchable (s : State) : List RingId :=
  (s.rings.map (fun e => BitVec.ofNat 15 e.1)).filter (fun r => burst s r ≠ 0)

/-- The ring that has waited longest, of those that have waited 1 ms. -/
def oldestWaiter (s : State) : Option RingId :=
  ((fetchable s).foldl (fun (best : Option (RingId × Nat)) r =>
    match (s.ringOf r).waitingSince with
    | none => best
    | some t =>
      if s.timebase.toNat < t.toNat + 100000 then best
      else
        match best with
        | none => some (r, t.toNat)
        | some (b, u) => if t.toNat < u then some (r, t.toNat) else some (b, u)) none).map (·.1)

/-- The next ring of the highest priority, after the one served last. -/
def byPriority (s : State) : Option RingId :=
  let l := fetchable s
  let p := (l.map (fun r => RingE.prio (s.ringOf r).entry)).foldl max 0
  let same := l.filter (fun r => RingE.prio (s.ringOf r).entry = p)
  let last := s.fetchLast.get 0 p
  (same.find? (fun r => last.toNat < r.toNat)).or same.head?

/-- The ring that the engine picks. -/
def pickRing (s : State) : Option RingId :=
  if burst s 0 ≠ 0 then some 0 else (oldestWaiter s).or (byPriority s)

/-! ## The checks at acceptance (R299, R300) -/

/-- Bits of the body, below the header's 64, that lie in none of the given fields. -/
def strayBits (w : BitVec 512) (fields : List (Nat × Nat)) : Bool :=
  let used : BitVec 512 := fields.foldl (fun m f => m ||| put f.2 (2 ^ (f.1 + 1 - f.2) - 1)) 0
  (w &&& ~~~used &&& ~~~(put 0 (2 ^ 64 - 1))) ≠ 0

/-- Fields of the body of each operation. -/
def bodyFields (op : Nat) : List (Nat × Nat) :=
  match op with
  | 0x01 => [(511, 448), (447, 439), (438, 429)]
  | 0x02 => [(511, 502)]
  | 0x03 => [(511, 505), (504, 495), (494, 491), (490, 488), (487, 456), (455, 448), (447, 440), (439, 420), (419, 404)]
  | 0x04 => [(511, 505)]
  | 0x05 => [(511, 340)]
  | 0x06 => [(511, 335)]
  | 0x07 => [(511, 505)]
  | 0x08 => [(511, 505)]
  | 0x09 => [(511, 504)]
  | 0x0A => [(511, 472)]
  | 0x0B => [(511, 499), (447, 384)]
  | 0x0C => [(511, 487), (447, 320)]
  | 0x0D => [(511, 491)]
  | 0x0E => [(511, 488), (447, 384)]
  | 0x0F => [(511, 487)]
  | 0x10 => [(511, 497)]
  | 0x11 => [(504, 373)]
  | 0x12 => [(504, 366)]
  | 0x13 => [(511, 484)]
  | 0x20 => [(511, 457), (447, 384)]
  | 0x21 => [(511, 483)]
  | 0x22 => [(511, 482)]
  | 0x23 => [(511, 460)]
  | 0x24 => [(511, 459)]
  | 0x28 => [(511, 493), (479, 199)]
  | 0x30 => [(511, 320)]
  | _ => []

/-- The operations that a ring accepts. -/
def ringTakes (r : RingId) (op : Nat) : Bool :=
  if r = 0 then (0x01 ≤ op && op ≤ 0x13) || op = 0x30 || op = 0x31
  else (0x20 ≤ op && op ≤ 0x24) || op = 0x28 || op = 0x29 || op = 0x2A || op = 0x30 || op = 0x31

/-- Fields of COUPE_SET that CHANGE does not select are zero, selected ones in range. -/
def setFieldsOk (w : BitVec 512) : Bool :=
  (CoupeD.change w 0 || CoupeD.stands w = 0) && (CoupeD.change w 1 || CoupeD.prio w = 0)
    && (CoupeD.change w 2 || !CoupeD.preemptible w)
    && (if CoupeD.change w 3 then CoupeD.quantum w ≠ 0 else CoupeD.quantum w = 0)
    && (if CoupeD.change w 4 then CoupeD.sentinelOk w else CoupeD.sentinel w = 0)
    && !CoupeD.tshare w && CoupeD.jobs w = 0 && CoupeD.func w = 0 && !CoupeD.take w

/-- The blocks that SELF_TEST and REPAIR may name (R376). -/
def testTargetOk (target index : Nat) : Bool :=
  match target with
  | 1 => index < 128
  | 2 => index < 8
  | 3 => index < 16
  | 4 => index < 24
  | 5 => index < 2
  | 6 => index < 8
  | _ => false

/-- Field ranges of a STEP (R238). -/
def stepFieldsOk (w : BitVec 512) : Bool :=
  StepD.route w ≤ 1 && StepD.nreq w ≤ 64 && StepD.nrearm w ≤ 16 && stepHandoff w % 4096 = 0 && StepD.rearm w % 64 = 0
    && (StepD.nrearm w ≠ 0 || StepD.rearm w = 0) && (StepD.route w = 0 || StepD.kmax w ≠ 0)

/-- Field ranges of each operation. SPAN_SET with all of its fields zero takes a coupe out of its span (log entry 38). -/
def fieldsOk (op : Nat) (w : BitVec 512) : Bool :=
  match op with
  | 0x01 => bits w 511 448 % 16 = 0 && 1 ≤ bits w 447 439 && bits w 447 439 ≤ 256
  | 0x06 => setFieldsOk w
  | 0x0A =>
    (1 ≤ bits w 488 480 && bits w 488 480 ≤ 256 && bits w 479 472 < bits w 488 480)
      || (bits w 504 489 = 0 && bits w 488 480 = 0 && bits w 479 472 = 0)
  | 0x0B => !bit w 499 || bits w 447 384 = 0
  | 0x0C => 1 ≤ bits w 504 492 && bits w 504 492 ≤ 4096 && 1 ≤ bits w 491 487 && bits w 491 487 ≤ 16
  | 0x0D => bits w 511 510 ≤ 1
  | 0x0E => testTargetOk (bits w 511 504) (bits w 503 488) && bits w 447 384 % 4096 = 0
  | 0x0F => testTargetOk (bits w 511 504) (bits w 503 488)
  | 0x10 => bits w 511 497 ≠ 0
  | 0x11 => bits w 376 373 ≤ 3 || (8 ≤ bits w 376 373 && bits w 376 373 ≤ 10)
  | 0x12 => 700 ≤ bits w 376 366 && bits w 376 366 ≤ 1800 && bits w 376 366 % 25 = 0
  | 0x20 => bits w 492 473 ≤ 1048560
  | 0x24 => !bit w 459 || bits w 511 467 = 0
  | 0x28 => stepFieldsOk w
  | _ => true

/-- A malformed descriptor. PREFILL and VERIFY are checked at step open. -/
def malformed (r : RingId) (w : BitVec 512) : Bool :=
  let op := Hdr.opcode w
  !ringTakes r op
    || (op ≠ 0x29 && op ≠ 0x2A && (bits w 54 48 ≠ 0 || strayBits w (bodyFields op) || !fieldsOk op w))

/-! ## Acceptance (R300, R310) -/

/-- One descriptor accepted at the ring's next position. -/
def acceptOne (r : RingId) (w : BitVec 512) (s : State) : State :=
  let x := s.ringOf r
  let e : Entry :=
    { pos := x.front, w := w, stamp := s.stamp, step := none, cancelled := false, since := s.timebase, kept := false
      state := if malformed r w then .done Status.badDescriptor 0 0 0 else .waiting }
  let rec_ : Ledger := ⟨x.front, 1, 0, BitVec.ofNat 8 (Hdr.opcode w), s.dur.commits⟩
  let s1 := s.setRing r { x with
    front := x.front + 1
    accepted := x.accepted ++ [e]
    ledger := x.ledger.set none (x.front.toNat % RingE.size x.entry) (some rec_) }
  let q := RingE.cq x.entry
  { s1.setRing q { s1.ringOf q with reserved := (s1.ringOf q).reserved + 1 } with stamp := s.stamp + 1 }

/-- The turn of ring r is over. -/
def endTurn (r : RingId) (s : State) : State :=
  let x := s.ringOf r
  { s.setRing r { x with waitingSince := if unfetched x = 0 then none else some s.timebase } with
    fetchLast := s.fetchLast.set 0 (RingE.prio x.entry) r }

/-- DESCRIPTOR_FETCH: `ds` is what the host read of the burst gives. -/
def execDescriptorFetch (ds : Option (List (BitVec 512))) (s : State) : Out :=
  if engineRuns s then
    match pickRing s with
    | none => .next s
    | some r =>
      match ds with
      | none => .next (ringError r 3 s)
      | some l => .next (endTurn r ((l.take (burst s r)).foldl (fun t w => acceptOne r w t) s))
  else .next s

/-! ## RING_SET (R299, R314) -/

/-- RING_SET: `entry` is the table entry that the device reads again. A ring of a function under reset may be replaced
although it has accepted descriptors, which then receive nothing. -/
def execRingSet (q : Desc) (entry : BitVec 512) (s : State) : Out :=
  starts 0x10 q (fun s =>
    let r : RingId := BitVec.ofNat 15 (bits q.w 511 497)
    let x := s.ringOf r
    if RingE.kind x.entry = 1 && x.state ≠ .disabled && x.front ≠ x.back && !funcStopped s (RingE.func x.entry) then
      finish q Status.doesNotFit s
    else finish q Status.ok { s with due := s.due ++ [.ringEntry r entry] }) s

/-- What RING_SET does at its commit. -/
def applyRingEntry (r : RingId) (w : BitVec 512) (s : State) : State :=
  let x := s.ringOf r
  let c := RingE.cq x.entry
  let s1 := if RingE.kind x.entry = 1 then
      s.setRing c { s.ringOf c with reserved := (s.ringOf c).reserved - x.accepted.length }
    else s
  placeRing (entryValid s.setup.ledgerSize.toNat (ringsOn s) r w) r w s1

/-! ## HST_RB (R325, R326) -/

/-- BARK: a pulse of 1 µs announces the entries published since the last one; at least 10 µs after the previous bark and
after the end of busy. -/
def execBark (s : State) : Out :=
  let p := s.power
  let quiet := match p.lastBark with
    | none => true
    | some t => t.toNat + 1000 ≤ s.timebase.toNat
  if p.barkOwed && p.rb = .released && quiet && p.releasedAt.toNat + 1000 ≤ s.timebase.toNat then
    .next { s with power := { p with barkOwed := false, lastBark := some s.timebase } }
  else .next s

end Sys2Proof.Machine
end

