-- ==== Sys2Proof/Machine/Publish.lean ====
section
/-! DEFINITION. COMMIT: the effects that await a commit, the completions, the attention entries and the mirrors that it
publishes (R34, R304–R310, R317–R324, R368). -/

namespace Sys2Proof.Machine

/-! ## Changes that await the commit -/

/-- A span's identity given to a coupe (R273). -/
def applySpanSet (k : CoupeId) (id : BitVec 16) (count : BitVec 9) (index : BitVec 8) (s : State) : State :=
  if (s.coupe k).state = .idle then
    announceAll (judgeClaims (spanConflicts s)
      (s.setCoupe k { s.coupe k with
        spanId := id, sCount := count, sIndex := index, digestBad := false, digests := [] }))
  else s

/-- FAILED slots of a stand remapped to unused cores, lowest first; a stand with none left can serve again (R380). -/
def remapFailed (g : StandId) (s : State) : State :=
  let s1 := (standCores g).foldl (fun t c =>
    let x := t.slot c
    if x.state = .failed then
      match spares t g with
      | p :: _ => t.setSlot c { x with state := .inService, phys := some p }
      | [] => t
    else t) s
  if (standCores g).any (fun c => (s.slot c).state = .failed) && (standCores g).all (fun c => (s1.slot c).state ≠ .failed) then
    s1.setStand g { s1.stand g with inService := true }
  else s1

/-- One change that a commit applies; it stays due while it must wait. -/
def applyDue (d : Due) (s : State) : State :=
  let keep (s : State) : State := { s with due := s.due ++ [d] }
  match d with
  | .freeSeq i => freeTaken i s
  | .activate i => activateSeq i s
  | .cancel i k ring pos =>
    if cancelWaits s k then keep s else finishAt ring pos Status.cancelled 0 0 0 (freeTaken i s)
  | .salt i v => applySalt i v s
  | .unpinGroups gs => gs.foldl (fun t g => settleGroup g (t.setGroup g { t.group g with pinned := false })) s
  | .coupeSet k w => applyCoupeSet k w s
  | .spanSet k id n i => applySpanSet k id n i s
  | .poisonGroup g => poisonGroup g s
  | .ringEntry r w => applyRingEntry r w s
  | .importBlocks qp i gen b0 gs => applyImport qp i gen b0.toNat gs s
  | .remap g => remapFailed g s
  | .settle gs => gs.foldl (fun t g => settleGroup g t) s
  | .pin i n k ring pos => applyPin i n k ring pos s
  | .announce => announceAll s

/-- Every change of a list, in order. -/
def applyDues (l : List Due) (s : State) : State := l.foldl (fun t d => applyDue d t) s

/-- Whether a change comes before the steps of the commit. -/
def Due.first : Due → Bool
  | .activate _ => true
  | _ => false

/-- The entries of groups freed since the last commit leave the scent table, and their numbers may be used again (R217,
R228). -/
def releaseNumbers (s : State) : State :=
  { dropScent (fun e => s.freedGroups.contains e.group) s with freedGroups := [] }

/-- Steps and other changes, in the order of one commit. -/
def applyCommit (s : State) : State :=
  let early := s.due.filter Due.first
  let late := s.due.filter (fun d => !d.first)
  let s1 := commitSteps (applyDues early (releaseNumbers { s with due := [] }))
  let added := s1.due
  let s2 := applyDues late { s1 with due := [] }
  { s2 with due := s2.due ++ added }

/-- A SUSPECT slot with 1,000,000 clean core-steps is in service again (R368). -/
def clearSuspects (s : State) : State :=
  (s.slots.map (·.1)).foldl (fun t n =>
    let c := BitVec.ofNat 12 n
    let x := t.slot c
    if x.state = .suspect && x.lastBad + 1000000 ≤ x.coreSteps then
      raiseCore 0x12 0 0 c (t.setSlot c { x with state := .inService })
    else t) s

/-! ## Completions (R306, R307, R310) -/

/-- The slot of a SEQ_OPEN that failed returns to FREE in the commit that posts the failure (R207, R214). -/
def freeFailed (r : RingId) (pos : BitVec 32) (s : State) : State :=
  match s.dur.seqs.find? (fun e => e.2.state = .opening && e.2.released && e.2.ring = r && e.2.openPos = pos) with
  | some e => freeSeq (BitVec.ofNat 13 e.1) s
  | none => s

/-- The completion of one finished descriptor published under commit n. -/
def publishOne (n : BitVec 64) (r : RingId) (e : Entry) (s : State) : State :=
  match e.state with
  | .done status dkind detail stepno =>
    let x := s.ringOf r
    let cq := RingE.cq x.entry
    let y := s.ringOf cq
    let w := completionEntry r e.pos status dkind detail stepno (Hdr.tag e.w) n
    let rec_ : Ledger := ⟨e.pos, 2, status, BitVec.ofNat 8 (Hdr.opcode e.w), n⟩
    let s1 := s.setRing cq { y with front := y.front + 1, reserved := y.reserved - 1, commit := n }
    let s2 := s1.setRing r { s1.ringOf r with
      back := x.back + 1
      commit := n
      ledger := x.ledger.set none (e.pos.toNat % RingE.size x.entry) (some rec_) }
    freeFailed r e.pos { s2 with posted := s2.posted ++ [⟨cq, y.front, w⟩] }
  | _ => s

/-- The finished descriptors at the front of a ring, published in ring order. Those of a function under reset wait in the
journal (R314). -/
def publishRing (n : BitVec 64) (r : RingId) (s : State) : State :=
  let x := s.ringOf r
  if RingE.kind x.entry ≠ 1 then s
  else
    let done := x.accepted.takeWhile (fun e => e.state.isDone)
    let rest := x.accepted.dropWhile (fun e => e.state.isDone)
    if funcStopped s (RingE.func x.entry) then
      s.setRing r { x with accepted := done.map (fun e => { e with kept := true }) ++ rest }
    else done.foldl (fun t e => publishOne n r e t) (s.setRing r { x with accepted := rest })

/-- Every ring in ascending number. -/
def publishRings (n : BitVec 64) (s : State) : State :=
  (s.rings.map (·.1)).foldl (fun t r => publishRing n (BitVec.ofNat 15 r) t) s

/-! ## Attention (R320–R324) -/

/-- The enabled attention ring of a function. -/
def attentionRing (s : State) (f : Nat) : Option RingId :=
  (s.rings.find? (fun e => e.2.state = .enabled && RingE.kind e.2.entry = 3 && RingE.func e.2.entry = f)).map
    (fun e => BitVec.ofNat 15 e.1)

/-- The ring to which an event of function f goes: its own, or that of function 0. -/
def eventRing (s : State) (f : Nat) : Option RingId := (attentionRing s f).or (attentionRing s 0)

/-- An attention ring has no free entry. -/
def ringFull (s : State) (r : RingId) : Bool :=
  let x := s.ringOf r
  RingE.size x.entry ≤ (x.front - x.count).toNat

/-- One entry written to an attention ring, which owes a bark. -/
def putAttention (n : BitVec 64) (r : RingId) (e : Event) (s : State) : State :=
  let x := s.ringOf r
  let s1 := s.setRing r { x with front := x.front + 1, commit := n }
  { s1 with posted := s1.posted ++ [⟨r, x.front, attentionEntry e n⟩], power := { s1.power with barkOwed := true } }

/-- An OVERFLOW entry goes first once space has returned (R324). -/
def putOverflow (n : BitVec 64) (r : RingId) (s : State) : State :=
  let x := s.ringOf r
  if x.overflowOwed && !ringFull s r then
    let e : Event := ⟨BitVec.ofNat 3 (RingE.func x.entry), 6, 0, x.back, 0, r, 0, 0⟩
    putAttention n r e (s.setRing r { x with overflowOwed := false })
  else s

/-- An entry counted in LOST, saturating. -/
def loseAttention (r : RingId) (s : State) : State :=
  let x := s.ringOf r
  s.setRing r { x with back := BitVec.ofNat 32 (satAdd 32 x.back.toNat 1), overflowOwed := true }

/-- One entry more that no ring could take (R318, R322), saturating. -/
def dropAttention (s : State) : State := { s with dropped := BitVec.ofNat 64 (satAdd 64 s.dropped.toNat 1) }

/-- One event published, lost, dropped, or kept while the ring's function is under reset. -/
def publishEvent (n : BitVec 64) (e : Event) (s : State) : State :=
  match eventRing s e.func.toNat with
  | none => dropAttention s
  | some r =>
    if funcStopped s (RingE.func (s.ringOf r).entry) then { s with events := s.events ++ [e] }
    else
      let s1 := putOverflow n r s
      if ringFull s1 r then loseAttention r s1 else putAttention n r e s1

/-- CQ_POSTED for an armed completion ring that has entries the host has not consumed (R323). -/
def notifyRing (n : BitVec 64) (r : RingId) (s : State) : State :=
  let x := s.ringOf r
  if x.state = .enabled && RingE.kind x.entry = 2 && x.armed && x.front ≠ x.count then
    match eventRing s (RingE.func x.entry) with
    | none => dropAttention s
    | some a =>
      if funcStopped s (RingE.func (s.ringOf a).entry) then s
      else
        let s1 := putOverflow n a s
        if ringFull s1 a then s1
        else
          let e : Event := ⟨BitVec.ofNat 3 (RingE.func x.entry), 1, 0, x.front, 0, r, 0, 0⟩
          putAttention n a e (s1.setRing r { s1.ringOf r with armed := false })
  else s

/-- All attention entries of a commit: the events in the order raised, then CQ_POSTED by ascending ring. -/
def publishEvents (n : BitVec 64) (s : State) : State :=
  let s1 := s.events.foldl (fun t e => publishEvent n e t) { s with events := [] }
  (s1.rings.map (·.1)).foldl (fun t r => notifyRing n (BitVec.ofNat 15 r) t)
    ((s1.rings.map (·.1)).foldl (fun t r =>
      if RingE.kind (t.ringOf (BitVec.ofNat 15 r)).entry = 3 && (t.ringOf (BitVec.ofNat 15 r)).state = .enabled
          && !funcStopped t (RingE.func (t.ringOf (BitVec.ofNat 15 r)).entry) then
        putOverflow n (BitVec.ofNat 15 r) t
      else t) s1)

/-! ## COMMIT (R305) -/

/-- A commit may be published: set-up is locked, the host link works, no reset or trip is under way, and the journal can
be written (R315, R316, R395, R407). -/
def mayCommit (s : State) : Bool :=
  s.power.main && s.power.linkUp && s.setup.locked && s.journalOk && s.power.device ≠ .tripped
    && s.power.resetPhase = .none

/-- Publication under the next commit number, once the effects are in. -/
def publish (s : State) : State :=
  let n := s.dur.commits + 1
  let s1 := { s with dur := { s.dur with commits := n } }
  let s2 := publishEvents n (publishRings n s1)
  let m := publishMirror n s2.dur s2
  { s2 with
    mirror := m
    journal := s2.dur
    journalDue := s2.due
    journalSaved := s2.runs.filterMap (fun e =>
      if e.2.saved.isNone && e.2.jobSaved.isEmpty then none else some (e.1, e.2.saved, e.2.jobSaved))
    rings := s2.rings.map (fun e => (e.1, { e.2 with
      accepted := e.2.accepted.map (fun x => if x.state.isDone then { x with kept := true } else x) })) }

end Sys2Proof.Machine
end

