-- ==== Sys2Proof/Machine/Admin.lean ====
section
/-! DEFINITION. Admin descriptors about experts, tests, repairs, power, clocks and ballast, and their later events
(R174, R255, R365, R375–R380, R400–R405). -/

namespace Sys2Proof.Machine

/-! ## EXPERT_MAP (R255) -/

/-- EXPERT_MAP: `map` is what the host read of the entries gives. -/
def execExpertMap (q : Desc) (map : HostRead) (s : State) : Out :=
  starts 0x0C q (fun s =>
    let k := CoupeD.coupe q.w
    let e := bits q.w 504 492
    if (s.coupe k).state = .free then finish q Status.doesNotFit s
    else
      match map with
      | .failed => finish q Status.lowerFailed s
      | .timeout => finish q Status.lowerTimeout s
      | .ok ws =>
        let entries := ws.take e ++ List.replicate (e - ws.length) 0
        finish q Status.ok (s.setCoupe k { s.coupe k with
          nextMap := some ⟨e, bits q.w 491 487, BitVec.ofNat 64 (bits q.w 383 320), entries⟩ })) s

/-! ## The yard's mode (R174, R205) -/

/-- Whether every channel of a half is trained, sound and not under test. -/
def halfSound (s : State) (h : Nat) : Bool :=
  allChannels.all (fun c => c.val % 2 ≠ h || ((s.channel c).trained && !(s.channel c).failed && !(s.channel c).testing))

/-- The smallest DIMM of the channels that a test names. -/
def smallestDimm (s : State) (f : ChannelId → Bool) : Nat :=
  ((allChannels.filter f).map (fun c => (s.channel c).dimm)).foldl min 256

/-- The yard in 8-channel mode on a sound half, the even one preferred, or no yard. -/
def yardByHalf (s : State) : State :=
  if halfSound s 0 then { s with yardMode := .half0, yardGib := 8 * smallestDimm s (fun c => c.val % 2 = 0) }
  else if halfSound s 1 then { s with yardMode := .half1, yardGib := 8 * smallestDimm s (fun c => c.val % 2 = 1) }
  else { s with yardMode := .none, yardGib := 0 }

/-- The mode chosen at bring-up. -/
def yardAtBringUp (s : State) : State :=
  if halfSound s 0 && halfSound s 1 then { s with yardMode := .full, yardGib := 16 * smallestDimm s (fun _ => true) }
  else yardByHalf s

/-! ## The journal's stacks (R375) -/

/-- The replacement for a journal stack: the first in service upward from it, modulo 8, that does not hold the other copy. -/
def journalSpare (s : State) (failed other : SectorId) : Option SectorId :=
  ((List.range 7).map (fun (i : Nat) => (⟨(failed.val + i + 1) % 8, Nat.mod_lt _ (by decide)⟩ : SectorId))).find?
    (fun i => stackInPool s i && i ≠ other)

/-- The journal copy on stack i written to a replacement (event JOURNAL); without one the journal is lost, which R375 and
R316 leave uncovered. -/
def moveJournal (i : SectorId) (s : State) : State :=
  let go (other : SectorId) (put_ : SectorId → State → State) : State :=
    match journalSpare s i other with
    | some j => raise0 0x18 (j.val + 16 * i.val) (put_ j s)
    | none => settleRb { s with journalOk := false }
  if s.journalA = i then go s.journalB (fun j t => { t with journalA := j })
  else if s.journalB = i then go s.journalA (fun j t => { t with journalB := j })
  else s

/-- Whether a journal copy on stack i could be moved. -/
def journalMovable (s : State) (i : SectorId) : Bool :=
  if s.journalA = i then (journalSpare s i s.journalB).isSome
  else if s.journalB = i then (journalSpare s i s.journalA).isSome
  else true

/-- A descriptor that waits on the ranger is held while the ranger restarts (R399). -/
def byRanger (q : Desc) (body : State → State) (s : State) : State := if s.ranger.running then body s else hold q s

/-! ## SELF_TEST (R376, R377) -/

namespace TestD
def target (w : BitVec 512) : BitVec 8 := BitVec.ofNat 8 (bits w 511 504)
def index (w : BitVec 512) : BitVec 16 := BitVec.ofNat 16 (bits w 503 488)
def result (w : BitVec 512) : BitVec 64 := BitVec.ofNat 64 (bits w 447 384)
end TestD

/-- The blocks as typed numbers. -/
def testStand (n : BitVec 16) : StandId := BitVec.ofNat 7 n.toNat
def testStack (n : BitVec 16) : SectorId := ⟨n.toNat % 8, Nat.mod_lt _ (by decide)⟩
def testChannel (n : BitVec 16) : ChannelId := ⟨n.toNat % 16, Nat.mod_lt _ (by decide)⟩
def testLink (n : BitVec 16) : LinkId := ⟨n.toNat % 24, Nat.mod_lt _ (by decide)⟩

/-- Whether the deck pool holds anything in a stack. -/
def stackEmpty (s : State) (i : SectorId) : Bool := s.dur.allocs.all (fun a => a.pool ≠ .deck || stackOf a.addr.toNat ≠ i)

/-- A channel of the half that the yard uses. -/
def channelInUse (s : State) (c : ChannelId) : Bool :=
  match s.yardMode with
  | .none => false
  | .half0 => c.val % 2 = 0
  | .half1 => c.val % 2 = 1
  | .full => true

/-- What a block must meet before its test, and before a repair (R380). A deck stack must hold nothing of the pool (log
entry 39). -/
def testReady (s : State) (target : BitVec 8) (index : BitVec 16) : Bool :=
  match target.toNat with
  | 1 => (coupeOfStand s (testStand index)).isNone && (claimant s (testStand index)).isNone
  | 2 => stackEmpty s (testStack index) && journalMovable s (testStack index)
  | 3 => !channelInUse s (testChannel index) || s.dur.allocs.all (fun a => a.pool ≠ .yard)
  | _ => true

/-- A test of the block is running. -/
def underTest (s : State) (target : BitVec 8) (index : BitVec 16) : Bool :=
  s.tests.any (fun t => t.target = target && t.index = index)

/-- Steps that opened with the link in their routes have not all committed (R377). -/
def linkHeld (s : State) (l : LinkId) : Bool :=
  (listedCoupes s).any (fun k => match (s.run k).openStep with
    | some st => st.routes.any (fun r => r.2.2 = some l)
    | none => false)

/-- The block leaves its service state. -/
def isolate (target : BitVec 8) (index : BitVec 16) (s : State) : State :=
  match target.toNat with
  | 1 =>
    let g := testStand index
    let s1 := stopBallast g s
    let s2 := s1.setStand g { s1.stand g with isolated := true }
    (standCores g).foldl (fun t c => t.setSlot c { t.slot c with before := (t.slot c).state, state := .isolated }) s2
  | 2 =>
    let i := testStack index
    let s1 := moveJournal i s
    s1.setStack i { s1.stack i with state := .testing }
  | 3 => s.setChannel (testChannel index) { s.channel (testChannel index) with testing := true }
  | 4 =>
    let l := testLink index
    let s1 := s.setLink l { s.link l with before := (s.link l).state, testWaits := false }
    if (s.link l).state.barred then s1 else enterLink l .down LinkCause.selfTest 0 s1
  | 5 => s.setEth (index ≠ 0) { s.ethPort (index ≠ 0) with testing := true }
  | _ => s

/-- The test begins. -/
def beginTest (q : Desc) (s : State) : State :=
  let t := TestD.target q.w
  let i := TestD.index q.w
  let s1 := isolate t i s
  setEntry q.ring q.pos .started { s1 with tests := s1.tests ++ [⟨t, i, q.ring, q.pos, s1.timebase⟩] }

/-- SELF_TEST. A link in service first leaves the routes of new steps. -/
def execSelfTest (q : Desc) (s : State) : Out :=
  starts 0x0E q (byRanger q fun s =>
    let t := TestD.target q.w
    let i := TestD.index q.w
    if underTest s t i then hold q s
    else if !testReady s t i then finish q Status.doesNotFit s
    else if t = 4 && (s.link (testLink i)).works && linkHeld s (testLink i) then
      awaits q (s.setLink (testLink i) { s.link (testLink i) with testWaits := true })
    else beginTest q s) s

/-! ## SELF_TEST_COMPLETE (R378, R379) -/

/-- The result record's header. -/
def resultHeader (t : SelfTest) (verdict : Nat) (f : TestFinding) (now : BitVec 64) : BitVec 512 :=
  put 0 t.target.toNat ||| put 16 t.index.toNat ||| put 32 verdict ||| put 40 (min 252 f.entries.length)
    ||| put 48 (b2n (252 < f.entries.length)) ||| put 64 t.start.toNat ||| put 128 now.toNat ||| put 192 f.needed.toNat
    ||| put 208 f.left.toNat

/-- The block of a target and index, with nothing recorded when it is not listed. -/
def blockOf (s : State) (target : BitVec 8) (index : BitVec 16) : Block :=
  (s.blocks.find? (fun b => b.target = target && b.index = index)).getD ⟨target, index, [], [], [], []⟩

def setBlock (b : Block) (s : State) : State :=
  { s with blocks := s.blocks.filter (fun x => !(x.target = b.target && x.index = b.index)) ++ [b] }

/-- The block is initialised and returns to service, whether or not it passed. A yard channel that fails stays failed. -/
def reinit (target : BitVec 8) (index : BitVec 16) (verdict : Nat) (s : State) : State :=
  match target.toNat with
  | 1 =>
    let g := testStand index
    let s1 := freshStand g s
    let s2 := (standCores g).foldl (fun t c => t.setSlot c { t.slot c with state := (t.slot c).before }) s1
    s2.setStand g { s2.stand g with isolated := false }
  | 2 =>
    let i := testStack index
    let s1 := clearRange (stackBase i.val) stackSize s
    s1.setStack i { s1.stack i with state := .on }
  | 3 =>
    let c := testChannel index
    let x := s.channel c
    let s1 := s.setChannel c { x with testing := false, failed := x.failed && verdict ≠ 0 && verdict ≠ 1 }
    if s1.yardMode = .none then yardByHalf s1 else s1
  | 4 =>
    let l := testLink index
    let was := (s.link l).before
    if was.barred && verdict ≠ 0 then s
    else enterLink l (if was = .down then .down else .probe) LinkCause.selfTest 0 s
  | 5 => s.setEth (index ≠ 0) { s.ethPort (index ≠ 0) with testing := false, up := false }
  | _ => s

/-- A test ends with a verdict: result written, block initialised, descriptor finished. -/
def endTest (t : SelfTest) (verdict : Nat) (f : TestFinding) (s : State) : State :=
  let s1 : State := { s with
    tests := s.tests.filter (fun x => !(x.target = t.target && x.index = t.index))
    testResults := s.testResults ++ (match entryOf s t.ring t.pos with
      | some e => [⟨TestD.result e.w, resultHeader t verdict f s.timebase, f.entries.take 252⟩]
      | none => []) }
  let b := blockOf s1 t.target t.index
  let soft := f.entries.filter (fun e => bits e 47 44 = 0)
  let s2 := setBlock { b with recorded := if verdict = 1 then soft else [], result := f.entries } s1
  finishAt t.ring t.pos Status.ok 0 0 0 (reinit t.target t.index verdict s2)

/-- SELF_TEST_COMPLETE. -/
def execSelfTestComplete (target : BitVec 8) (index : BitVec 16) (finding : TestFinding) (s : State) : Out :=
  match s.tests.find? (fun t => t.target = target && t.index = index) with
  | none => .next s
  | some t => .next (endTest t finding.verdict.toNat finding s)

/-! ## REPAIR (R380) -/

/-- BLOCK, UNIT and ADDRESS of a result entry. -/
def entryBlock (e : BitVec 128) : Nat := bits e 127 120
def entryUnit (e : BitVec 128) : Nat := bits e 119 112
def entryAddress (e : BitVec 128) : Nat := bits e 111 80

/-- A bench line on a spare line of its bank, for the slot that the physical core serves. -/
def applyLine (g : StandId) (e : BitVec 128) (s : State) : State :=
  if entryBlock e ≠ 2 then s
  else
    match (standCores g).find? (fun c => (physOf s c).toNat = entryUnit e && (s.slot c).state ≠ .failed) with
    | none => s
    | some c =>
      let x := s.core c
      let bank := entryAddress e % 32
      let s1 : State := { s with
        rowErrors := s.rowErrors.set RowError.none (benchAddr c (entryAddress e)) RowError.none }
      s1.setCore c { x with spareLines := x.spareLines.set 0 bank (min 8 (x.spareLines.get 0 bank + 1)) }

/-- REPAIR with HARD clear: the recorded soft repairs take effect. -/
def execRepairSoft (q : Desc) (s : State) : Out :=
  if bit q.w 487 then .next s
  else
    starts 0x0F q (byRanger q fun s =>
      let t := TestD.target q.w
      let i := TestD.index q.w
      if underTest s t i then hold q s
      else if !testReady s t i then finish q Status.doesNotFit s
      else
        let b := blockOf s t i
        let s1 := if t = 1 then b.recorded.foldl (fun u e => applyLine (testStand i) e u) s else s
        finish q Status.ok (setBlock { b with applied := b.applied ++ b.recorded, recorded := [] } s1)) s

/-- Retired cores of a stand all of whose failures in the last test are soft-repairable. -/
def repairableCores (s : State) (g : StandId) (b : Block) : List (BitVec 6) :=
  (s.stand g).retired.filter (fun p =>
    (b.result.filter (fun e => entryUnit e = p.toNat && (entryBlock e = 1 || entryBlock e = 2))).all
      (fun e => bits e 47 44 = 0))

/-- The repairs that a hard repair makes permanent: those in effect, and those of the cores that it returns. -/
def toFuse (s : State) (t : BitVec 8) (i : BitVec 16) (b : Block) : List (BitVec 128) :=
  let cores := if t = 1 then repairableCores s (testStand i) b else []
  let more := b.result.filter (fun e => cores.any (fun p => p.toNat = entryUnit e) && (entryBlock e = 1 || entryBlock e = 2))
  ((b.applied ++ more).filter (fun e => !b.fused.contains e)).eraseDups

/-- Whether the fuses or the PPR resources of the block can take them. -/
def fuseFits (t : BitVec 8) (i : BitVec 16) (all : List (BitVec 128)) : Bool :=
  match t.toNat with
  | 1 => (all.filter (fun e => entryBlock e = 2)).length ≤ 128 && (all.filter (fun e => entryBlock e = 1)).length ≤ 4
  | 2 => all.length ≤ Config.pprLimit 2 i.toNat
  | 3 => all.length ≤ Config.pprLimit 3 i.toNat
  | _ => true

/-- REPAIR with HARD set: the soft repairs in effect become permanent; retired cores of a stand return as spares, and FAILED
slots take them at the next commit. -/
def execRepairHard (q : Desc) (s : State) : Out :=
  if !bit q.w 487 then .next s
  else
    starts 0x0F q (byRanger q fun s =>
      let t := TestD.target q.w
      let i := TestD.index q.w
      if underTest s t i then hold q s
      else if !testReady s t i then finish q Status.doesNotFit s
      else
        let b := blockOf s t i
        let new_ := toFuse s t i b
        if !fuseFits t i (b.fused ++ new_) then finish q Status.noBuffer s
        else
          let s1 := setBlock { b with fused := b.fused ++ new_ } s
          if t = 1 then
            let g := testStand i
            let back := repairableCores s g b
            let s2 := s1.setStand g { s1.stand g with retired := (s1.stand g).retired.filter (fun p => !back.contains p) }
            finish q Status.ok { s2 with due := s2.due ++ [.remap g] }
          else finish q Status.ok s1) s

/-! ## POWER and CLOCK (R400–R403) -/

namespace PowerD
def stands (w : BitVec 512) : BitVec 128 := BitVec.ofNat 128 (bits w 504 377)
def state (w : BitVec 512) : Nat := bits w 376 373
def mhz (w : BitVec 512) : Nat := bits w 376 366
end PowerD

/-- The clock of a P-state. -/
def pstateMhz (p : Nat) : Nat :=
  match p with
  | 0 => 1800
  | 1 => 1400
  | 2 => 1100
  | _ => 700

/-- The PSTATE that a clock shows as: a P-state's own, or 4. -/
def mhzPstate (m : Nat) : Nat :=
  if m = 1800 then 0 else if m = 1400 then 1 else if m = 1100 then 2 else if m = 700 then 3 else 4

/-- Sectors with a stand in a mask. -/
def maskSectors (m : BitVec 128) : List SectorId := allSectors.filter (fun i => (sectorStands i).any (inMask m))

/-- A clock above 900 MHz needs READY and calibrated stands (R392, R393, R401). -/
def clockAllowed (s : State) (m : BitVec 128) (mhz : Nat) : Bool :=
  mhz ≤ 900 || (s.power.device ≠ .early && (maskStands m).all (fun g => (s.stand g).cal))

/-- S3's conditions on a sector (R401). -/
def mayS3 (s : State) (m : BitVec 128) (i : SectorId) : Bool :=
  (sectorStands i).all (fun g => inMask m g && (coupeOfStand s g).isNone)
    && s.journalA ≠ i && s.journalB ≠ i && stackEmpty s i
    && s.dur.groups.all (fun e => e.2.state = .free || e.1 % 8 ≠ i.val)

/-- Whether R401 allows a POWER. -/
def powerAllowed (s : State) (m : BitVec 128) (p : Nat) : Bool :=
  if p ≤ 3 then clockAllowed s m (pstateMhz p)
  else if p = 9 then (maskStands m).all (fun g => (coupeOfStand s g).isNone)
  else if p = 10 then (maskSectors m).all (mayS3 s m)
  else true

/-- A stand at a clock; the voltage of a calibrated stand at another clock is not stated, so it is free. -/
def setClock (g : StandId) (mhz : BitVec 11) (p : BitVec 4) (s : State) : State :=
  let x := s.stand g
  let y := { x with mhz := mhz, pstate := p, deferred := none }
  if x.cal && x.mhz ≠ mhz then
    let (v, t) := drawFree s
    t.setStand g { y with mv := BitVec.ofNat 10 v.toNat }
  else s.setStand g y

/-- Every slot of a stand awaits its patrol (R365). -/
def wakePatrol (g : StandId) (s : State) : State := s.setStand g { s.stand g with unpatrolled := List.range 32 }

/-- A stand's cores lose their state with their rail off; benches and windows stay. -/
def coresOff (g : StandId) (s : State) : State :=
  (standCores g).foldl (fun t c => t.setCore c (t.core c).cleared) s

/-- A sector leaves S3: its stack ends self-refresh, its benches are initialised, its stands are patrolled. -/
def leaveS3 (i : SectorId) (mhz : BitVec 11) (p : BitVec 4) (s : State) : State :=
  let s1 := s.setSector i { s.sector i with mode := .on }
  let s2 := if (s1.stack i).state = .selfRefresh then s1.setStack i { s1.stack i with state := .on } else s1
  (sectorStands i).foldl (fun t g =>
    if (t.stand g).inService then wakePatrol g (setClock g mhz p (freshStand g t)) else t) s2

/-- A sector enters S3. -/
def enterS3 (i : SectorId) (s : State) : State :=
  let s1 := s.setSector i { s.sector i with mode := .s3 }
  let s2 := if (s1.stack i).state = .on then s1.setStack i { s1.stack i with state := .selfRefresh } else s1
  (sectorStands i).foldl (fun t g =>
    if (t.stand g).inService then
      let u := freshStand g t
      u.setStand g { u.stand g with pstate := 10, mhz := 0 }
    else t) s2

/-- The coupe of a stand has an open step. -/
def stepOpenOn (s : State) (g : StandId) : Bool :=
  match coupeOfStand s g with
  | none => false
  | some k => (s.run k).openStep.isSome

/-- A clock for one stand now, or deferred to the commit of its coupe's open step; the coupe then opens no step. -/
def clockStand (mhz : BitVec 11) (p : BitVec 4) (g : StandId) (s : State) : State :=
  if !(s.stand g).inService then s
  else
    match coupeOfStand s g with
    | some k =>
      if stepOpenOn s g then
        let s1 := s.setStand g { s.stand g with deferred := some (mhz, p) }
        s1.setRun k { s1.run k with clockChanging := true }
      else setClock g mhz p s
    | none =>
      if (s.stand g).pstate = 9 then wakePatrol g (setClock g mhz p s) else setClock g mhz p s

/-- A stand to the state that POWER names. -/
def powerStand (p : Nat) (g : StandId) (s : State) : State :=
  let x := s.stand g
  if !x.inService then s
  else if p ≤ 3 then clockStand (BitVec.ofNat 11 (pstateMhz p)) (BitVec.ofNat 4 p) g s
  else if p = 8 then (if x.asleep then s else s.setStand g { x with pstate := 8 })
  else if p = 9 then
    let s1 := coresOff g s
    s1.setStand g { s1.stand g with pstate := 9, mhz := 0 }
  else s

/-- Whether a clock change of any stand of a mask is deferred. -/
def anyDeferred (s : State) (m : BitVec 128) : Bool := (maskStands m).any (fun g => (s.stand g).deferred.isSome)

/-- POWER or CLOCK finishes once none of its changes is deferred. -/
def endClock (q : Desc) (s : State) : State :=
  if anyDeferred s (PowerD.stands q.w) then setEntry q.ring q.pos .started s else finish q Status.ok s

/-- POWER. -/
def execPower (q : Desc) (s : State) : Out :=
  starts 0x11 q (byRanger q fun s =>
    let m := PowerD.stands q.w
    let p := PowerD.state q.w
    if !powerAllowed s m p then finish q Status.doesNotFit s
    else
      let s1 := (maskStands m).foldl (fun t g => stopBallast g t) s
      if p = 10 then finish q Status.ok ((maskSectors m).foldl (fun t i => if (t.sector i).mode = .on then enterS3 i t else t) s1)
      else
        let s2 := if p ≤ 3 then
            (maskSectors m).foldl (fun t i => if (t.sector i).mode = .s3 then
              leaveS3 i (BitVec.ofNat 11 (pstateMhz p)) (BitVec.ofNat 4 p) t else t) s1
          else s1
        let gs := (maskStands m).filter (fun g => (s1.sector (standSector g)).mode = .on)
        endClock q (gs.foldl (fun t g => powerStand p g t) s2)) s

/-- CLOCK. A sleeping stand keeps its state (log entry 40). -/
def execClock (q : Desc) (s : State) : Out :=
  starts 0x12 q (byRanger q fun s =>
    let m := PowerD.stands q.w
    let mhz := PowerD.mhz q.w
    if !clockAllowed s m mhz then finish q Status.doesNotFit s
    else
      let s1 := (maskStands m).foldl (fun t g => stopBallast g t) s
      let gs := (maskStands m).filter (fun g => !(s1.stand g).asleep)
      endClock q (gs.foldl (fun t g =>
        clockStand (BitVec.ofNat 11 mhz) (if (t.stand g).pstate = 8 then 8 else BitVec.ofNat 4 (mhzPstate mhz)) g t) s1)) s

/-- POWER and CLOCK descriptors whose last change has been applied finish. -/
def endClocks (s : State) : State :=
  ((s.ringOf 0).accepted.filter (fun e => e.state = .started && (Hdr.opcode e.w = 0x11 || Hdr.opcode e.w = 0x12)
      && !anyDeferred s (PowerD.stands e.w))).foldl (fun t e => finishAt 0 e.pos Status.ok 0 0 0 t) s

/-- CLOCK_CHANGE_APPLY: a deferred change once the coupe's open step has committed. -/
def execClockChangeApply (g : StandId) (s : State) : Out :=
  match (s.stand g).deferred with
  | none => .next s
  | some (mhz, p) =>
    if stepOpenOn s g || !s.ranger.running then .next s
    else
      let s1 := setClock g mhz p s
      let s2 := match coupeOfStand s1 g with
        | none => s1
        | some k => s1.setRun k { s1.run k with clockChanging := anyDeferred s1 (s1.coupe k).stands }
      .next (endClocks s2)

/-! ## Ballast (R404, R405) -/

/-- BALLAST: the floor and the ramp. -/
def execBallast (q : Desc) (s : State) : Out :=
  starts 0x13 q (byRanger q fun s =>
    finish q Status.ok { s with power := { s.power with
      floor := BitVec.ofNat 12 (bits q.w 511 500), ramp := BitVec.ofNat 16 (bits q.w 499 484) } }) s

/-- A stand that may run ballast. -/
def ballastOk (s : State) (g : StandId) : Bool :=
  let x := s.stand g
  (coupeOfStand s g).isNone && x.pstate.toNat ≤ 4 && x.cal && !x.isolated && x.inService
    && (s.sector (standSector g)).mode = .on

/-- What a stand's ballast draws at most, in tenths of a W (log entry 41). -/
def ballastMax (g : StandId) : Nat := if standCourser g then 110 else 260

/-- The floor after one update: toward FLOOR, by at most RAMP's tenth of a millisecond (RAMP 0: at once). -/
def rampFloor (p : Power) : Nat :=
  let goal := 10 * p.floor.toNat
  let r := p.ramp.toNat
  if r = 0 then goal else if p.floorNow < goal then min goal (p.floorNow + r) else max goal (p.floorNow - r)

/-- Stands in ascending number that together draw a ballast. -/
def ballastStands : Nat → List StandId → List StandId
  | _, [] => []
  | need, g :: gs => if need = 0 then [] else g :: ballastStands (need - ballastMax g) gs

/-- BALLAST_UPDATE: ballast fills what the input power, in W, lacks to the ramped floor. -/
def execBallastUpdate (inputPower : BitVec 16) (s : State) : Out :=
  let p := s.power
  if !(p.main && s.ranger.running && p.resetPhase = .none && p.device ≠ .tripped) then .next s
  else
    let base := 10 * (inputPower.toNat - p.ballast.toNat)
    let floor := rampFloor p
    let ok := allStands.filter (ballastOk s)
    let cap := (ok.map ballastMax).sum
    let bal := min cap (floor - base)
    let on := ballastStands bal ok
    let s1 := allStands.foldl (fun t g =>
      if (t.stand g).ballast = on.contains g then t else t.setStand g { t.stand g with ballast := on.contains g }) s
    let short := 10 * p.floor.toNat - (base + cap)
    let due := short ≠ 0 && (match p.lastShort with
      | none => true
      | some t => t.toNat + 10000000 ≤ s.timebase.toNat)
    let s2 : State := { s1 with power := { p with
      floorNow := floor
      ballast := BitVec.ofNat 16 (bal / 10)
      pin := inputPower.setWidth 32
      lastShort := if due then some s.timebase else p.lastShort } }
    .next (if due then raise0 0x35 (ceilDiv short 10) s2 else s2)

end Sys2Proof.Machine
end

