-- ==== Sys2Proof/Machine/BenchOps.lean ====
section
/-! DEFINITION. Class 0x2, bench: copies, loads, stores, remote rows and windows (R77, R78, R104–R112). -/

namespace Sys2Proof.Machine

/-- Rows copied one at a time in ascending order. -/
def copyRows (c : CoreId) : Nat → Nat → Nat → State → State
  | 0, _, _, s => s
  | n + 1, d, a, s =>
    let x := s.core c
    let (v, s1) := readBench c (x.phys a) 1 s
    copyRows c n (d + 1) (a + 1) (taskWrite c (x.phys d) v.1 v.2 s1)

/-- BCOPY: D = row, A = row, B = count; the registers follow every row, and at its end the count is zero and the rows
point past the last (R85). -/
def execBcopy (c : CoreId) (f : Fields) (stop : Option Nat) (s : State) : Out :=
  let x := s.core c
  let d := (x.rd f.d.toNat).toNat
  let a := (x.rd f.a.toNat).toNat
  let n := (x.rd f.b.toNat).toNat
  issue c Op.bcopy f [(.illegal, !Form.ok ⟨5, 5, 5, 1, 0, 0⟩ f), (.bound, !(x.rowsIn d n && x.rowsIn a n))] (fun s =>
    let s0 := s.setCore c (x.taint (x.rdP f.d.toNat || x.rdP f.a.toNat || x.rdP f.b.toNat))
    let k := pauseAt stop n
    let t := copyRows c k d a s0
    let y := (((t.core c).wr f.d.toNat (BitVec.ofNat 64 (d + k)) (x.rdP f.d.toNat)).wr f.a.toNat
      (BitVec.ofNat 64 (a + k)) (x.rdP f.a.toNat)).wr f.b.toNat (BitVec.ofNat 64 (n - k)) (x.rdP f.b.toNat)
    if k = n then completeWith c y t else progress (pauseWith c y t) c) s

/-- RDW: D := 64-bit word IMM[5:0] of the row, with the row's poison (R358). -/
def execRdw (c : CoreId) (f : Fields) (s : State) : Out :=
  let x := s.core c
  let a := (x.rd f.a.toNat).toNat
  issue c Op.rdw f [(.illegal, !Form.ok ⟨5, 5, 0, 1, 0, 6⟩ f), (.bound, !x.rowsIn a 1)] (fun s =>
    let s0 := s.setCore c (x.taint (x.rdP f.a.toNat))
    let (v, t) := readBench c (x.phys a) 1 s0
    completeWith c ((t.core c).wr f.d.toNat (Row.word64 v.1 (f.imm.toNat % 64)) v.2) t) s

/-- 64 elements of a row widened exactly: SEL 0 FP32, 1 BF16, 2 FP16. -/
def loadVec (sel i : Nat) (r : Row) : List F32 :=
  (List.range 64).map (fun j =>
    if sel = 0 then Row.word32 r (64 * i + j) else widen16 sel (rowElem 0x01 r (64 * i + j)))

/-- LDV. -/
def execLdv (c : CoreId) (f : Fields) (s : State) : Out :=
  let x := s.core c
  let a := (x.rd f.a.toNat).toNat
  let start := f.imm.toNat < (if f.sel = 0 then 2 else 4)
  issue c Op.ldv f [(.illegal, !(Form.ok ⟨4, 5, 0, 3, 0, 8⟩ f && start)), (.bound, !x.rowsIn a 1)] (fun s =>
    let s0 := s.setCore c (x.taint (x.rdP f.a.toNat))
    let (v, t) := readBench c (x.phys a) 1 s0
    completeWith c ((t.core c).wrVec f.d.toNat (loadVec f.sel.toNat f.imm.toNat v.1) v.2) t) s

/-- STV: vD, vD + 1 as one FP32 row. -/
def execStv (c : CoreId) (f : Fields) (s : State) : Out :=
  let x := s.core c
  let a := (x.rd f.a.toNat).toNat
  issue c Op.stv f [(.illegal, !(Form.ok ⟨4, 5, 0, 1, 0, 0⟩ f && vpairOk f.d)), (.bound, !x.rowsIn a 1)] (fun s =>
    let s0 := s.setCore c (x.taint (x.rdP f.a.toNat))
    let t := taskWrite c (x.phys a) (rowOfVecs (x.vec f.d.toNat) (x.vec (f.d.toNat + 1)))
      (x.vecP f.d.toNat || x.vecP (f.d.toNat + 1)) s0
    completeWith c (t.core c) t) s

/-- At most 8 remote reads are pending at a core (R52). -/
def maxReads : Nat := 8

/-- Requests for the next rows, `out` of which are already pending. -/
def sendReads (c : CoreId) (f : Fields) : Nat → Nat → State → State
  | 0, _, s => s
  | n + 1, out, s =>
    let x := s.core c
    let addr := x.rd f.a.toNat + BitVec.ofNat 64 out
    let dest := BitVec.ofNat 15 (x.phys ((x.rd f.d.toNat).toNat + out))
    let rr : RemoteRead := ⟨remoteCore addr, BitVec.ofNat 15 (remoteRow addr), dest, f.d, f.a, f.b⟩
    sendReads c f n (out + 1)
      { s.setCore c { x with reads := x.reads ++ [rr] } with
        readReqs := s.readReqs ++ [⟨c, (s.slot c).incarn, rr.target, rr.row, sentNow s⟩]
        injected := s.injected + 1 }

/-- RREAD: D = local row, A = remote address, B = count. Rows are requested, at most 8 at a time; each reply writes
its row and advances the registers (REMOTE_READ_REPLY); the instruction completes when the count is zero. -/
def execRread (c : CoreId) (f : Fields) (s : State) : Out :=
  let x := s.core c
  let d := (x.rd f.d.toNat).toNat
  let n := (x.rd f.b.toNat).toNat
  issue c Op.rread f [(.illegal, !(Form.ok ⟨5, 5, 5, 1, 0, 0⟩ f && remoteOk (x.rd f.a.toNat))), (.bound, !x.rowsIn d n)] (fun s =>
    let y := x.taint (x.rdP f.d.toNat || x.rdP f.a.toNat || x.rdP f.b.toNat)
    if n = 0 then completeWith c y s
    else
      let out := x.reads.length
      let t := sendReads c f (min (maxReads - out) (n - out)) out (s.setCore c y)
      stallWith c (t.core c) .remote 0xFFFF t) s

/-- Window rows posted one after another. -/
def postRows (c : CoreId) : Nat → BitVec 64 → Nat → State → State
  | 0, _, _, s => s
  | n + 1, addr, a, s =>
    let x := s.core c
    let (v, s1) := readBench c (x.phys a) 1 s
    let y := s1.core c
    let step := match y.task with
      | some w => Task.step w
      | none => 0
    postRows c n (addr + 1) (a + 1)
      { s1.setCore c { y with writesOut := y.writesOut + 1 } with
        windowRows := s1.windowRows ++ [⟨c, (s1.slot c).incarn, remoteCore addr, BitVec.ofNat 4 (remoteWindow addr),
          BitVec.ofNat 11 (remoteOffset addr), step, v.1, v.2 || y.tainted, sentNow s1⟩]
        injected := s1.injected + 1 }

/-- RWRITE: D = remote address, A = local row, B = count. A refusal is recorded later (R89). -/
def execRwrite (c : CoreId) (f : Fields) (stop : Option Nat) (s : State) : Out :=
  let x := s.core c
  let a := (x.rd f.a.toNat).toNat
  let n := (x.rd f.b.toNat).toNat
  issue c Op.rwrite f [(.illegal, !(Form.ok ⟨5, 5, 5, 1, 0, 0⟩ f && remoteOk (x.rd f.d.toNat))), (.bound, !x.rowsIn a n)] (fun s =>
    let s0 := s.setCore c (x.taint (x.rdP f.d.toNat || x.rdP f.a.toNat || x.rdP f.b.toNat))
    let k := pauseAt stop n
    let t := postRows c k (x.rd f.d.toNat) a s0
    let y := (((t.core c).wr f.d.toNat (x.rd f.d.toNat + BitVec.ofNat 64 k) (x.rdP f.d.toNat)).wr f.a.toNat
      (BitVec.ofNat 64 (a + k)) (x.rdP f.a.toNat)).wr f.b.toNat (BitVec.ofNat 64 (n - k)) (x.rdP f.b.toNat)
    if k = n then completeWith c y t else progress (pauseWith c y t) c) s

/-! ## Windows (R107, R108) -/

namespace Win
def baseRow (w : BitVec 128) : Nat := bits w 127 113
def len (w : BitVec 128) : Nat := bits w 112 98
def gen (w : BitVec 128) : BitVec 16 := BitVec.ofNat 16 (bits w 97 82)
def any (w : BitVec 128) : Bool := bit w 81
def mode (w : BitVec 128) : Nat := bits w 80 79
def writer (w : BitVec 128) (i : Nat) : Nat := bits w (59 - 12 * i) (48 - 12 * i)
def count (w : BitVec 128) : Nat := bits w 11 9
/-- R108: the record that WSET accepts. -/
def ok (w : BitVec 128) : Bool :=
  1 ≤ len w && len w ≤ 2048 && baseRow w + len w - 1 ≤ lastRow && mode w < 2
    && bits w 78 64 = 0 && bits w 63 60 = 0 && bits w 8 0 = 0
    && (if mode w = 0 then bits w 63 0 = 0
        else 1 ≤ count w && count w ≤ 4 && (List.range 4).all (fun i => i < count w || writer w i = 0))
end Win

/-- The window record of a register pair, first register uppermost. -/
def windowOf (x : Core) (r : Nat) : BitVec 128 := x.rd r ++ x.rd (r + 1)

/-- WSET: opens or changes window IMM[3:0]. -/
def execWset (c : CoreId) (f : Fields) (s : State) : Out :=
  let x := s.core c
  let w := windowOf x f.a.toNat
  issue c Op.wset f [(.illegal, !(Form.ok ⟨0, 5, 0, 1, 0, 4⟩ f && pairOk f.a && Win.ok w))] (fun s =>
    completeWith c ({ x with windows := x.windows.set 0 f.imm.toNat w }.taint (x.rdP f.a.toNat || x.rdP (f.a.toNat + 1))) s) s

/-- WCLR: sets LEN to 0. -/
def execWclr (c : CoreId) (f : Fields) (s : State) : Out :=
  issue c Op.wclr f [(.illegal, !Form.ok ⟨0, 0, 0, 1, 0, 4⟩ f)] (fun s =>
    let x := s.core c
    let w := x.windows.get 0 f.imm.toNat
    let w' : BitVec 128 := w &&& ~~~(put 98 (2 ^ 15 - 1))
    completeWith c { x with windows := x.windows.set 0 f.imm.toNat w' } s) s

end Sys2Proof.Machine
end

