-- ==== Sys2Proof/Machine/Control.lean ====
section
/-! DEFINITION. Class 0x0, control: scalar arithmetic, branches and END (R77). -/

namespace Sys2Proof.Machine

/-- A scalar operation of form "D, A, B or IMM": D := op A B (R77). -/
def aluBI (n : Nat) (op : BitVec 64 → BitVec 64 → BitVec 64) (c : CoreId) (f : Fields) (s : State) : Out :=
  issue c n f [(.illegal, !legalBI f)] (fun s =>
    let x := s.core c
    completeWith c (x.wr f.d.toNat (op (x.rd f.a.toNat) (opB x f)) (x.rdP f.a.toNat || opBP x f)) s) s

/-- 1 or 0 (R77). -/
def setIf (b : Bool) : BitVec 64 := if b then 1 else 0

/-- NOP. -/
def execNop (c : CoreId) (f : Fields) (s : State) : Out :=
  issue c Op.nop f [(.illegal, !Form.nil.ok f)] (fun s => completeWith c (s.core c) s) s

/-- ADD. -/
def execAdd (c : CoreId) (f : Fields) (s : State) : Out := aluBI Op.add (fun a b => a + b) c f s

/-- SUB. -/
def execSub (c : CoreId) (f : Fields) (s : State) : Out := aluBI Op.sub (fun a b => a - b) c f s

/-- AND. -/
def execAnd (c : CoreId) (f : Fields) (s : State) : Out := aluBI Op.and_ (fun a b => a &&& b) c f s

/-- OR. -/
def execOr (c : CoreId) (f : Fields) (s : State) : Out := aluBI Op.or_ (fun a b => a ||| b) c f s

/-- XOR. -/
def execXor (c : CoreId) (f : Fields) (s : State) : Out := aluBI Op.xor_ (fun a b => a ^^^ b) c f s

/-- SHL, by B[5:0]. -/
def execShl (c : CoreId) (f : Fields) (s : State) : Out := aluBI Op.shl (fun a b => a <<< (b.toNat % 64)) c f s

/-- SHR, by B[5:0]. -/
def execShr (c : CoreId) (f : Fields) (s : State) : Out := aluBI Op.shr (fun a b => a >>> (b.toNat % 64)) c f s

/-- SAR, by B[5:0]. -/
def execSar (c : CoreId) (f : Fields) (s : State) : Out := aluBI Op.sar (fun a b => a.sshiftRight (b.toNat % 64)) c f s

/-- MUL: the low 64 bits. -/
def execMul (c : CoreId) (f : Fields) (s : State) : Out := aluBI Op.mul (fun a b => a * b) c f s

/-- SLT, signed. -/
def execSlt (c : CoreId) (f : Fields) (s : State) : Out := aluBI Op.slt (fun a b => setIf (a.slt b)) c f s

/-- SLTU, unsigned. -/
def execSltu (c : CoreId) (f : Fields) (s : State) : Out := aluBI Op.sltu (fun a b => setIf (a.ult b)) c f s

/-- SEQ. -/
def execSeq (c : CoreId) (f : Fields) (s : State) : Out := aluBI Op.seq (fun a b => setIf (a == b)) c f s

/-- LI: D := sign-extended IMM; with MOD[1] = 1, D := (D << 32) or IMM. -/
def execLi (c : CoreId) (f : Fields) (s : State) : Out :=
  issue c Op.li f [(.illegal, !Form.ok ⟨5, 0, 0, 1, 2, 32⟩ f)] (fun s =>
    let x := s.core c
    if bit f.mod 1 then
      completeWith c (x.wr f.d.toNat (x.rd f.d.toNat <<< 32 ||| f.imm.setWidth 64) (x.rdP f.d.toNat)) s
    else completeWith c (x.wr f.d.toNat (immSext f) false) s) s

/-- BR: always branches, so it always checks its target. -/
def execBr (c : CoreId) (f : Fields) (s : State) : Out :=
  let x := s.core c
  issue c Op.br f [(.illegal, !Form.ok ⟨0, 0, 0, 1, 0, 32⟩ f), (.bound, !x.targetOk (x.relTarget f))] (fun s =>
    jumpWith c x (x.relTarget f).toNat s) s

/-- A conditional branch: the target is checked only when it branches; a poisoned condition taints the task. -/
def branchIf (n : Nat) (cond : BitVec 64 → BitVec 64 → Bool) (c : CoreId) (f : Fields) (s : State) : Out :=
  let x := s.core c
  let taken := cond (x.rd f.a.toNat) (x.rd f.b.toNat)
  issue c n f [(.illegal, !Form.ok ⟨0, 5, 5, 1, 0, 32⟩ f), (.bound, taken && !x.targetOk (x.relTarget f))] (fun s =>
    let y := x.taint (x.rdP f.a.toNat || x.rdP f.b.toNat)
    if taken then jumpWith c y (x.relTarget f).toNat s else completeWith c y s) s

/-- BEQ. -/
def execBeq (c : CoreId) (f : Fields) (s : State) : Out := branchIf Op.beq (fun a b => a == b) c f s
/-- BNE. -/
def execBne (c : CoreId) (f : Fields) (s : State) : Out := branchIf Op.bne (fun a b => a != b) c f s
/-- BLT, signed. -/
def execBlt (c : CoreId) (f : Fields) (s : State) : Out := branchIf Op.blt (fun a b => a.slt b) c f s
/-- BGE, signed. -/
def execBge (c : CoreId) (f : Fields) (s : State) : Out := branchIf Op.bge (fun a b => b.sle a) c f s

/-- LOOP: A := A − 1, then branch when A ≠ 0. g0 stays zero, so LOOP on g0 does not branch. -/
def execLoop (c : CoreId) (f : Fields) (s : State) : Out :=
  let x := s.core c
  let y := (x.wr f.a.toNat (x.rd f.a.toNat - 1) (x.rdP f.a.toNat)).taint (x.rdP f.a.toNat)
  let taken := y.rd f.a.toNat ≠ 0
  issue c Op.loop f [(.illegal, !Form.ok ⟨0, 5, 0, 1, 0, 32⟩ f), (.bound, taken && !x.targetOk (x.relTarget f))] (fun s =>
    if taken then jumpWith c y (x.relTarget f).toNat s else completeWith c y s) s

/-- JAL: D := linear index of the next instruction, then branch by IMM. -/
def execJal (c : CoreId) (f : Fields) (s : State) : Out :=
  let x := s.core c
  issue c Op.jal f [(.illegal, !Form.ok ⟨5, 0, 0, 1, 0, 32⟩ f), (.bound, !x.targetOk (x.relTarget f))] (fun s =>
    jumpWith c (x.wr f.d.toNat (BitVec.ofNat 64 (x.lin + 1)) false) (x.relTarget f).toNat s) s

/-- JR: jump to the linear index in A. -/
def execJr (c : CoreId) (f : Fields) (s : State) : Out :=
  let x := s.core c
  issue c Op.jr f [(.illegal, !Form.ok ⟨0, 5, 0, 1, 0, 0⟩ f), (.bound, !x.targetOk (x.rd f.a.toNat).toNat)] (fun s =>
    jumpWith c (x.taint (x.rdP f.a.toNat)) (x.rd f.a.toNat).toNat s) s

/-- END: waits for every acknowledgement, then raises WINDOW when a window write was refused (R89); else Drain begins
(R57), in which the instructions that are still running complete and the quantiser writes its output out (R49). A core that
halts completes the drain first (R62). -/
def execEndTask (c : CoreId) (f : Fields) (s : State) : Out :=
  let x := s.core c
  issue c Op.endTask f [(.illegal, !Form.nil.ok f), (.window, x.writesSettled && x.refused.isSome)] (fun s =>
    if x.writesSettled then progress (s.setCore c { x.issued with phase := .drain }) c
    else stallWith c x .sync 0xFFFF s) s

end Sys2Proof.Machine
end

