-- ==== Sys2Proof/Machine/Failures.lean ====
section
/-! DEFINITION. Loss of stands, sectors, deck stacks and yard channels (R203–R205, R217, R280, R372–R375). -/

namespace Sys2Proof.Machine

/-! ## Stands and sectors (R372) -/

/-- STAND_LOST: the clock generator, the voltage or the crossing queues of a stand fail. -/
def execStandLost (g : StandId) (_cause : StandCause) (s : State) : Out := .next (standOut g s)

/-- SRAM_DIE_FAILURE: an SRAM die of a sector fails, and the sector leaves service. -/
def execSramDieFailure (i : SectorId) (_die : BitVec 2) (s : State) : Out := .next (sectorOut i s)

/-! ## Data lost with a stack (R204, R217) -/

/-- An allocation of the deck pool in a stack. -/
def inStack (i : SectorId) (a : Alloc) : Bool := a.pool = .deck && stackOf a.addr.toNat = i

/-- Groups homed in a stack, and those whose records its reserve held. -/
def groupsOfStack (s : State) (i : SectorId) : List GroupId :=
  ((s.dur.groups.filter (fun e => e.2.state ≠ .free && (e.1 % 8 = i.val
      || (!e.2.inYard && stackOf e.2.home.toNat = i)))).map (fun e => BitVec.ofNat 22 e.1))

/-- A group is lost data: without home, scent or pin; freed when nothing refers to it (log entry 42). -/
def loseGroup (g : GroupId) (s : State) : State :=
  let s1 := dropScent (fun e => e.group = g) (dropAlloc (.group g) s)
  if (s1.group g).refs = 0 then freeGroup g s1
  else s1.setGroup g { s1.group g with lost := true, scented := false, pinned := false }

/-- What a sequence had in a stack besides its groups. -/
def loseSeqPart (i : SectorId) (s : State) (a : Alloc) : State :=
  if !inStack i a then s
  else
    match a.kind with
    | .listPages x => s.setSeq x { s.seq x with listLost := true }
    | .tree x => s.setSeq x { s.seq x with tree := (s.seq x).tree.map (fun t => { t with lost := true }) }
    | .imageDeck h => s.setImage h { s.image h with deck := false }
    | _ => s

/-- Image copies with a run in the stack. -/
def copiesOfStack (s : State) (i : SectorId) : List AllocKind :=
  (s.dur.allocs.filter (fun a => inStack i a && (match a.kind with
    | .imageDeck _ => true
    | _ => false))).map (·.kind)

/-- Every allocation of a stack gone, and with it the other runs of a broken image copy, which is staged again at the next
BIND. -/
def dropStack (i : SectorId) (s : State) : State :=
  let broken := copiesOfStack s i
  { s with dur := { s.dur with allocs := s.dur.allocs.filter (fun a => !inStack i a && !broken.contains a.kind) } }

/-! ## Open steps (R362, R374) -/

/-- Whether the inputs of coupe k's open step lay in the stack or among the lost groups. -/
def inputsLost (s : State) (i : SectorId) (lost : List GroupId) (k : CoupeId) (st : Step) : Bool :=
  let at_ (a : Nat) : Bool := isDeck a && stackOf a = i
  st.reqs.any (fun r =>
      (s.seq r.slot).pages.any (fun g => match g with
        | some g => lost.contains g
        | none => false)
      || (s.seq r.slot).listLost || (match (s.seq r.slot).tree with
        | some t => t.lost
        | none => false))
    || at_ (stepHandoff st.w) || (s.run k).feeds.any (fun f => at_ f.2.toNat)

/-- A request whose new group or tree workspace lay in the stack ends with LOWER_TIER_FAILED. -/
def loseTaken (s : State) (i : SectorId) (r : Req) : Req :=
  let held (kd : AllocKind) : Bool := s.dur.allocs.any (fun a => a.kind = kd && inStack i a)
  if r.status.isNone && (r.groups.any (fun g => held (.group g)) || (r.verify && held (.tree r.slot))) then
    { r with status := some Status.lowerFailed }
  else r

/-- The open step of a coupe after a stack's failure. -/
def markStep (i : SectorId) (lost : List GroupId) (before : State) (k : CoupeId) (s : State) : State :=
  match (s.run k).openStep with
  | none => s
  | some st =>
    let reqs := if st.boundary then st.reqs else st.reqs.map (loseTaken before i)
    setStep k { st with reqs := reqs, replayable := st.replayable && !inputsLost s i lost k st } s

/-! ## Save areas (R280) -/

/-- Coupes with a save area in a stack. -/
def savedInStack (s : State) (i : SectorId) : List CoupeId :=
  (listedCoupes s).filter (fun k => s.dur.allocs.any (fun a => inStack i a && (match a.kind with
    | .save k' _ => k' = k
    | _ => false)))

/-- The cores of a coupe whose save is given up go on: nothing has moved home. -/
def unhalt (k : CoupeId) (s : State) : State := (coupeCores s k).foldl (fun t c => unhaltCore c t) s

/-- The saved state of a coupe is lost: the requests of its open step end, and it is IDLE. -/
def loseSaved (k : CoupeId) (s : State) : State :=
  let s1 := unbindCoupe k (endOpenStep k Status.lowerFailed s)
  (s1.setCoupe k { s1.coupe k with state := .idle }).setRun k { s1.run k with saved := none, barriers := [] }

/-- A save area of coupe k was in a stack that failed. It is not PREEMPTIBLE until a COUPE_SET reserves its areas again (log
entry 28). -/
def loseArea (k : CoupeId) (s : State) : State :=
  let s1 := dropSaves k (s.setCoupe k { s.coupe k with preemptible := false })
  let x := s1.coupe k
  let r := s1.run k
  match x.state with
  | .preempting =>
    let back : State := { s1 with transfers := s1.transfers ++ ((r.saved.map (·.transfers)).getD []).map (fun t =>
      { t with started := s1.timebase }) }
    let s2 := (back.setCoupe k { x with state := if x.bindings.isEmpty then .idle else .bound }).setRun k { r with
      action := .none, saved := none, quiesced := false, heldFrom := if x.bindings.isEmpty then r.heldFrom else none }
    failSave r.action Status.lowerFailed (unhalt k s2)
  | .preempted => loseSaved k s1
  | .resuming =>
    let s2 := (loseSaved k s1).setCoupe k { (loseSaved k s1).coupe k with savedStands := 0 }
    let s3 := s2.setRun k { s2.run k with action := .none }
    match r.action with
    | .resume ring pos => finishAt ring pos Status.lowerFailed 0 0 0 s3
    | _ => s3
  | _ => s1

/-- Job save areas in a stack: a job that is not resident loses its state and with it its binding (log entry 29). -/
def loseJobs (i : SectorId) (s : State) : State :=
  s.dur.allocs.foldl (fun t a =>
    match a.kind with
    | .jobSave k j =>
      if inStack i a && j ≠ (t.coupe k).curJob then
        let t1 := unbindJob k j.toNat t
        t1.setRun k { t1.run k with jobSaved := (t1.run k).jobSaved.set none j.toNat none }
      else t
    | _ => t) s

/-! ## Floors (R204) -/

/-- Units that the pool must hold for a coupe to keep its floor beside those kept. -/
def keptNeed (s : State) (kept : List CoupeId) : Nat :=
  ((listedCoupes s).map (fun k =>
    if kept.contains k then max (s.coupe k).floor.toNat (usedUnits s k) else usedUnits s k)).sum

/-- The coupes that keep their floors, taken in ascending number. -/
def keptFloors (s : State) : List CoupeId :=
  (listedCoupes s).foldl (fun kept k =>
    if !(s.coupe k).floorLost && keptNeed s (kept ++ [k]) ≤ poolTotal s .deck then kept ++ [k] else kept) []

/-- Floors guaranteed again from the stacks that remain. -/
def floorsAgain (s : State) : State :=
  let kept := keptFloors s
  (listedCoupes s).foldl (fun t k => t.setCoupe k { t.coupe k with floorLost := !kept.contains k }) s

/-! ## DECK_STACK_FAILURE -/

/-- Transfers of a coupe that pause with it and touch failed units end; what depends on them ends with them (R203). -/
def abortPaused (f : Transfer → Bool) (s : State) : State :=
  (listedCoupes s).foldl (fun t k =>
    match (t.run k).saved with
    | none => t
    | some sv =>
      (sv.transfers.filter f).foldl (fun u x => endRequests k (Mv.seq x.w) Status.lowerFailed 0 0 (onLoad x.w (fun _ => none)
        (dropFeed x.w u)))
        (t.setRun k { t.run k with saved := some { sv with transfers := sv.transfers.filter (fun x => !f x) } })) s

/-- Transfers that touch failed units aborted, paused ones too, and the device's MOVEs that meet [lo, hi) with those still to
start (R203). -/
def abortFailed (f : Transfer → Bool) (lo hi : Nat) (s : State) : State :=
  let s1 := (s.transfers.filter f).foldl (fun t x => abortTransfer x.mover x.w Status.lowerFailed t) (abortPaused f s)
  let meets (a : BitVec 48) : Bool := lo ≤ a.toNat && a.toNat < hi
  (s1.moves.filter (fun m => meets m.src || meets m.dst)).foldl (fun t m => deviceEnds m.desc Status.lowerFailed 0 0 t) s1

/-- What a stack that has left the pool can no longer give: save areas of its sector asked for or granted. Their requests
come to nothing when they are tried again (log entry 141). -/
def dropAsked (i : SectorId) (s : State) : State :=
  let f (r : AllocKind × Nat) : Bool := match r.1 with
    | .save _ g => standSector g = i
    | _ => false
  { s with
    poolWait := s.poolWait.filter (fun w => !w.runs.any f)
    granted := s.granted.filter (fun g => !g.runs.any f) }

/-- DECK_STACK_FAILURE. -/
def execDeckStackFailure (i : SectorId) (s : State) : Out :=
  let x := s.stack i
  if x.state = .failed then .next s
  else
    let s1 := raise0 0x15 (3 + i.val * 256)
      (s.setStack i { x with state := .failed, log := tierLog x.log 3 0x3F (bits x.log 31 0) })
    let s2 := moveJournal i s1
    let s3 := abortFailed (fun t => touchesFailed s2 t.w t.plan) (stackBase i.val) (stackBase i.val + stackSize)
      (dropAsked i s2)
    let lost := groupsOfStack s3 i
    let saved := savedInStack s3 i
    let s4 := loseJobs i s3
    let s5 := dropStack i (s3.dur.allocs.foldl (loseSeqPart i) s4)
    let s6 := lost.foldl (fun t g => loseGroup g t) s5
    let s7 := (listedCoupes s6).foldl (fun t k => checkBoundary k (markStep i lost s3 k t)) s6
    let s8 := saved.foldl (fun t k => loseArea k t) s7
    .next (floorsAgain (clearRange (stackBase i.val) stackSize s8))

/-! ## YARD_CHANNEL_FAILURE (R205) -/

/-- A load under way ends with LOWER_TIER_FAILED. -/
def failLoads (h : BitVec 10) (s : State) : State :=
  ((s.ringOf 0).accepted.filter (fun e => e.state = .queued && Hdr.opcode e.w = 0x01
      && BitVec.ofNat 10 (bits e.w 438 429) = h)).foldl (fun t e =>
    finishAt 0 e.pos Status.lowerFailed 0 0 0 (dequeue ⟨0, e.pos, e.w⟩ t)) s

/-- An image loses its yard copy: UNLOADING while it has bindings, else ABSENT. -/
def loseImage (h : BitVec 10) (s : State) : State :=
  let x := s.image h
  if x.state = .absent then s
  else if x.bindings = 0 then dropImage h (failLoads h s)
  else s.setImage h { x with state := .unloading, shards := [] }

/-- The SEQ_OPENs and PINs that a group's recall serves end with LOWER_TIER_FAILED. -/
def loseRecall (g : GroupId) (s : State) : State :=
  { s with recallLost := s.recallLost ++ (recallUsers s g).map (fun u => ⟨u.1, u.2, Status.lowerFailed, 0, 0⟩) }

/-- Everything homed in the yard is lost. -/
def emptyYard (s : State) : State :=
  let groups := (s.dur.groups.filter (fun e => e.2.state ≠ .free && e.2.inYard)).map (fun e => BitVec.ofNat 22 e.1)
  let s1 := groups.foldl (fun t g => loseGroup g (loseRecall g t)) s
  let s2 := (s1.dur.images.map (fun e => BitVec.ofNat 10 e.1)).foldl (fun t h => loseImage h t) s1
  clearRange yardBase (2 ^ 43) { s2 with dur := { s2.dur with allocs := s2.dur.allocs.filter (fun a => a.pool ≠ .yard) } }

/-- YARD_CHANNEL_FAILURE. A channel of the half that the yard does not use takes nothing with it. -/
def execYardChannelFailure (c : ChannelId) (s : State) : Out :=
  let x := s.channel c
  if x.failed then .next s
  else
    let used := channelInUse s c
    let s1 := raise0 0x15 (4 + c.val * 256)
      (s.setChannel c { x with failed := true, log := tierLog x.log 3 0x3F (bits x.log 31 0) })
    if !used then .next s1
    else
      let s2 := abortFailed (fun t => (moverRanges t.w t.plan).any (fun r => yardBase ≤ r.1)) yardBase (2 ^ 48) s1
      .next (yardByHalf (emptyYard { s2 with granted := s2.granted.filter (fun g => g.pool ≠ .yard) }))

end Sys2Proof.Machine
end

