-- ==== Sys2Proof/Machine/Power.lean ====
section
/-! DEFINITION. Supplies, rails, bring-up, calibration, heat and the ranger (R66, R384–R393, R396, R398–R399, R404–R411). -/

namespace Sys2Proof.Machine

/-! ## Losing what a cold reset clears (R66, R118, R194, R313, R394) -/

/-- A stand after a cold reset: only its retired cores are remembered (R370). -/
def coldStands (s : State) : Sparse Stand :=
  (s.stands.filter (fun e => !e.2.retired.isEmpty)).map (fun e => (e.1, { Stand.reset with retired := e.2.retired }))

/-- Slots of a stand whose physical core is retired, or was found unfit, take its unused cores, lowest first. -/
def coldSlots (g : StandId) (s : State) : State :=
  (standCores g).foldl (fun t c =>
    if (t.stand g).retired.contains (physOf t c) || (t.stand g).unfit.contains (physOf t c) then
      match spares t g with
      | p :: _ => t.setSlot c { t.slot c with phys := some p }
      | [] => (t.setSlot c { t.slot c with state := .failed }).setStand g { t.stand g with inService := false }
    else t) s

/-- A ring as the host's memory still shows it, for the recovery at the next lock. -/
def coldRing (x : Ring) : Ring :=
  { x with state := .disabled, armed := false, overflowOwed := false, waitingSince := none, reserved := 0 }

/-- The part after a cold reset: State.reset, but for what the board drives, the ranger, the fuses and host memory. -/
def coldState (s : State) : State :=
  let p := s.power
  let r := State.reset
  let s1 : State := { r with
    pending := s.pending
    free := s.free
    stands := coldStands s
    rings := s.rings.map (fun e => (e.1, coldRing e.2))
    posted := s.posted
    sent := s.sent
    hostOut := s.hostOut
    workDone := s.workDone
    testResults := s.testResults
    telemetry := s.telemetry
    lastLock := s.lastLock
    blocks := (s.blocks.filter (fun b => !b.fused.isEmpty)).map (fun b => ⟨b.target, b.index, [], [], b.fused, []⟩)
    ranger := { s.ranger with restarts := 0 }
    tap := s.tap
    tapHolds := s.tapHolds
    i3c := s.i3c
    i3cSent := s.i3cSent
    power := { Power.reset with
      aux := p.aux
      main := p.main
      perst := p.perst
      coldRst := p.coldRst
      colds := p.colds
      warms := p.warms } }
  (s1.stands.map (fun e => BitVec.ofNat 7 e.1)).foldl (fun t g => coldSlots g t) s1

/-! ## Rails (R386–R390) -/

/-- RAIL codes. -/
def railCode : Rail → Nat
  | .ib => 1 | .aon => 2 | .hsio => 3 | .lnk => 4 | .fab => 5 | .sram => 6 | .core => 7 | .deck => 8 | .yphy => 9

/-- The order in which the groups start. -/
def railOrder : Rail → Nat
  | .ib => 1 | .aon => 2 | .hsio => 3 | .lnk => 3 | .fab => 4 | .deck => 5 | .yphy => 5 | .sram => 6 | .core => 7

/-- Rails whose loss takes the whole device. -/
def railWhole : Rail → Bool
  | .ib => true | .aon => true | .hsio => true | .fab => true | _ => false

/-- How many of each. -/
def railCount : Rail → Nat
  | .ib => 4 | .aon => 1 | .hsio => 1 | .lnk => 4 | .fab => 8 | .deck => 8 | .yphy => 8 | .sram => 8 | .core => 128

/-- Every kind of rail, in starting order. -/
def railKinds : List Rail := [.ib, .aon, .hsio, .lnk, .fab, .deck, .yphy, .sram, .core]

/-- The place of an instance in the table of rails. -/
def railKey (r : Rail) (i : Nat) : Nat := railCode r * 256 + i

def State.rail (s : State) (r : Rail) (i : Nat) : RailUnit := s.railUnit (railKey r i)

/-- Whether every instance of a kind satisfies a test. -/
def railAll (s : State) (r : Rail) (f : RailUnit → Bool) : Bool := (List.range (railCount r)).all (fun i => f (s.rail r i))

/-- Groups before this one have all been ramped, and those that feed it are in regulation. -/
def railDue (s : State) (r : Rail) (i : Nat) : Bool :=
  (railKinds.filter (fun x => railOrder x < railOrder r)).all (fun x =>
      railAll s x (fun u => u.state ≠ .off && u.state ≠ .ramping && (!railWhole x || u.state = .on))
        || (x = .sram && r = .core))
    && (r ≠ .core || (s.rail .sram (i / 16)).state = .on)
    && (r ≠ .core || railAll s .sram (fun u => u.state ≠ .off && u.state ≠ .ramping))

/-- CORE rails that ramp now. -/
def coresRamping (s : State) : Nat := ((List.range 128).filter (fun i => (s.rail .core i).state = .ramping)).length

/-- One rail starts when its turn has come. -/
def startRail (r : Rail) (i : Nat) (s : State) : State :=
  if (s.rail r i).state = .off && railDue s r i && (r ≠ .core || coresRamping s < 8) then
    s.setRail (railKey r i) { s.rail r i with state := .ramping }
  else s

/-- The ranger starts every rail whose turn has come (R384, R386). -/
def startRails (s : State) : State :=
  if s.power.aux && s.power.main && s.ranger.running && s.ranger.auxReady && !s.power.coldRst
      && s.power.device ≠ .tripped then
    railKinds.foldl (fun t r => (List.range (railCount r)).foldl (fun u i => startRail r i u) t) s
  else s

/-- A power fault record (R390). -/
def powerRecord (s : State) (r : Rail) (i : Nat) (retries : Nat) (latched : Bool) (x : RailReading) : BitVec 128 :=
  put 120 (railCode r) ||| put 112 i ||| put 108 x.cause.toNat ||| put 106 retries ||| put 105 (b2n latched)
    ||| put 80 x.mv.toNat ||| put 64 x.ma100.toNat ||| put 48 ((Config.firstColdCount + s.power.colds).toNat % 2 ^ 16)
    ||| put 0 (s.timebase.toNat / 100 % 2 ^ 48)

/-- A record written to the ranger's log, which holds 256, and its event. -/
def logPower (w : BitVec 128) (s : State) : State :=
  let l := s.ranger.log ++ [w]
  raise 0 0x34 (BitVec.ofNat 64 (w.toNat / 2 ^ 64)) 0 0 0 0 0
    { s with ranger := { s.ranger with log := l.drop (l.length - 256) } }

/-- The yard channels of a PHY rail: the two of its sector. -/
def phyChannels (i : Nat) : List ChannelId := allChannels.filter (fun c => c.val / 2 = i)

/-- A meaning's next state, or the state itself. -/
def nextOr (o : Out) (s : State) : State :=
  match o with
  | .next t => t
  | _ => s

/-- The consumers of a rail leave service (R388). -/
def loseConsumers (r : Rail) (i : Nat) (s : State) : State :=
  match r with
  | .core => standOut (BitVec.ofNat 7 i) s
  | .sram => sectorOut ⟨i % 8, Nat.mod_lt _ (by decide)⟩ s
  | .deck => nextOr (execDeckStackFailure ⟨i % 8, Nat.mod_lt _ (by decide)⟩ s) s
  | .yphy => (phyChannels i).foldl (fun t c => nextOr (execYardChannelFailure c t) t) s
  | .lnk => (allLinks.filter (fun l => l.val / 6 = i)).foldl (fun t l => signalLost l t) s
  | _ => s

/-- The rails fed only through a sector's SRAM rail go off with it. -/
def dropFed (r : Rail) (i : Nat) (s : State) : State :=
  if r ≠ .sram then s
  else (List.range 16).foldl (fun t j =>
    let x := t.rail .core (16 * i + j)
    if x.state = .on || x.state = .ramping then t.setRail (railKey .core (16 * i + j)) { x with state := .off } else t) s

/-- A rail that takes the whole device goes out of regulation: everything is lost as with main power, and the rails after
it wait for its retry. -/
def loseDevice (r : Rail) (s : State) : State :=
  let rails := s.rails.filter (fun e => railKinds.any (fun x => railCode x = e.1 / 256 && railOrder x ≤ railOrder r)
    || e.2.state = .latched)
  let p := s.power.pwrFlt
  let t := { coldState s with rails := rails, timebase := s.timebase }
  { t with power := { t.power with pwrFlt := p } }

/-- RAIL_OUT_OF_REGULATION: the converter shuts the rail off. -/
def execRailOutOfRegulation (r : Rail) (i : BitVec 8) (x : RailReading) (s : State) : Out :=
  let u := s.rail r i.toNat
  if u.state ≠ .on then .next s
  else
    let s1 := s.setRail (railKey r i.toNat) { u with state := .shutOff, retries := 0 }
    let s2 := if railWhole r then loseDevice r s1 else dropFed r i.toNat (loseConsumers r i.toNat s1)
    .next (logPower (powerRecord s r i.toNat 0 false x) s2)

/-- The rail latches off after its third retry. -/
def latchRail (r : Rail) (i : Nat) (x : RailReading) (s : State) : State :=
  let s1 := s.setRail (railKey r i) { s.rail r i with state := .latched }
  let s2 := { s1 with power := { s1.power with pwrFlt := true } }
  let s3 := logPower (powerRecord s r i 3 true x) s2
  if railWhole r then
    settleRb (setDevice .tripped { s3 with power := { s3.power with before := s3.power.device, linkUp := false } })
  else
    let s4 := dropFed r i (loseConsumers r i s3)
    let g : StandId := BitVec.ofNat 7 i
    startRails (if r = .core then s4.setStand g { s4.stand g with latch := true } else s4)

/-- RAIL_RAMP_TIMEOUT: no regulation within 2 ms. -/
def execRailRampTimeout (r : Rail) (i : BitVec 8) (x : RailReading) (s : State) : Out :=
  let u := s.rail r i.toNat
  if u.state ≠ .ramping then .next s
  else if u.retries = 3 then .next (latchRail r i.toNat x s)
  else .next (startRails (s.setRail (railKey r i.toNat) { u with state := .shutOff }))

/-- RAIL_RETRY: 50 ms later the ranger ramps the rail again. -/
def execRailRetry (r : Rail) (i : BitVec 8) (s : State) : Out :=
  let u := s.rail r i.toNat
  if u.state = .shutOff && s.ranger.running && s.power.main && u.retries ≠ 3 then
    .next (s.setRail (railKey r i.toNat) { u with state := .ramping, retries := u.retries + 1 })
  else .next s

/-- Consumers of a rail that has come back are initialised as after self-test; stands are free, in no coupe. -/
def returnConsumers (r : Rail) (i : Nat) (s : State) : State :=
  match r with
  | .core =>
    let g : StandId := BitVec.ofNat 7 i
    let s1 := freshStand g s
    s1.setStand g { s1.stand g with inService := true }
  | .sram =>
    let j : SectorId := ⟨i % 8, Nat.mod_lt _ (by decide)⟩
    s.setSector j { s.sector j with mode := .on }
  | .deck =>
    let j : SectorId := ⟨i % 8, Nat.mod_lt _ (by decide)⟩
    s.setStack j { s.stack j with state := .on }
  | .yphy =>
    let s1 := (phyChannels i).foldl (fun t c => t.setChannel c { t.channel c with failed := false }) s
    if s1.yardMode = .none then yardByHalf s1 else s1
  | _ => s

/-- RAIL_IN_REGULATION. -/
def execRailInRegulation (r : Rail) (i : BitVec 8) (s : State) : Out :=
  let u := s.rail r i.toNat
  if u.state ≠ .ramping then .next s
  else
    let s1 := s.setRail (railKey r i.toNat) { u with state := .on, retries := 0, inService := true }
    .next (startRails (if u.inService then returnConsumers r i.toNat s1 else s1))

/-! ## Supplies (R384, R385, R389, R427) -/

/-- AUX_POWER_ON. -/
def execAuxPowerOn (s : State) : Out :=
  if s.power.aux then .next s
  else .next { s with
    power := { s.power with
      aux := true
      rb := .busy
      colds := if s.power.main then s.power.colds + 1 else s.power.colds }
    ranger := { s.ranger with booted := true } }

/-- AUX_READY: the ranger's verified firmware runs. -/
def execAuxReady (s : State) : Out :=
  if s.power.aux && !s.ranger.auxReady then
    .next (startRails { s with ranger := { s.ranger with booted := true, running := true, auxReady := true, fwVer := Config.fwVer } })
  else .next s

/-- AUX_POWER_LOSS: an interlock shuts every converter; the latches are cleared. -/
def execAuxPowerLoss (s : State) : Out :=
  if !s.power.aux then .next s
  else
    let t := coldState s
    .next { t with
      timebase := s.timebase
      tap := .idcode
      tapHolds := false
      i3c := none
      i3cSent := none
      ranger := { t.ranger with booted := false, running := false, auxReady := false, fwVer := 0 }
      power := { t.power with aux := false } }

/-- The device as main power arrives or a cold reset ends: counted, its rails starting. -/
def coldStart (s : State) : State :=
  let t := coldState s
  startRails { t with power := { t.power with colds := s.power.colds + 1 } }

/-- MAIN_POWER_ON: 48 V within 40 V to 60 V; a cold reset. Without AUX_READY the converters wait. Below 39 V the
undervoltage lockout holds (R427). -/
def execMainPowerOn (mv : BitVec 17) (s : State) : Out :=
  if mv.toNat < 39000 then .next s
  else if mv.toNat < 40000 || 60000 < mv.toNat then .fault .supplyOutOfLimits
  else if s.power.main then .next s
  else
    let t := coldStart { s with power := { s.power with main := true } }
    .next { t with power := { t.power with vin := mv.setWidth 32 } }

/-- MAIN_POWER_LOSS: every tier's contents are lost; a latch stays. -/
def execMainPowerLoss (s : State) : Out :=
  if !s.power.main then .next s
  else
    let t := coldState s
    .next { t with
      timebase := s.timebase
      rails := s.rails.filter (fun e => e.2.state = .latched)
      power := { t.power with main := false, pwrFlt := s.power.pwrFlt } }

/-! ## Bring-up and calibration (R174, R379, R385, R391–R393) -/

/-- Stands and stacks as their tests left them; a rail that is not in regulation takes its consumers out. -/
def bringUpUnits (b : BringUp) (s : State) : State :=
  let s1 := allStands.foldl (fun t g =>
    let i := g.toNat
    let ok := !b.badStands.contains g && (t.rail .core i).state = .on && (t.stand g).inService
    t.setStand g { t.stand g with
      inService := ok, mhz := 900, pstate := 4, mv := BitVec.ofNat 10 (Config.measured (256 + i) t.timebase).toNat }) s
  let s2 := allSectors.foldl (fun t i =>
    let t1 := if (t.rail .sram i.val).state = .on then t else t.setSector i { t.sector i with mode := .out }
    if b.badStacks.contains i || (t1.rail .deck i.val).state ≠ .on then t1.setStack i { t1.stack i with state := .failed }
    else t1) s1
  allChannels.foldl (fun t c =>
    let n := b.dimms.getD c.val 0
    t.setChannel c { t.channel c with
      dimm := n, trained := n ≠ 0, failed := (t.rail .yphy (c.val / 2)).state ≠ .on }) s2

/-- A journal copy on a stack that is not in service starts on its replacement (R375). -/
def bringUpJournal (s : State) : State :=
  [s.journalA, s.journalB].foldl (fun t i => if (t.stack i).state = .on then t else moveJournal i t) s

/-- The repairs at bring-up: fused bench lines, then what the tests of stands found; unfit cores are mapped away to the
lowest unused spares (R66, R379). -/
def bringUpRepairs (b : BringUp) (s : State) : State :=
  let fused := (s.blocks.filter (fun x => x.target = 1)).flatMap (fun x => x.fused.map (fun e => (testStand x.index, e)))
  let s1 := b.unfit.foldl (fun t u => t.setStand u.1 { t.stand u.1 with unfit := (t.stand u.1).unfit ++ [u.2] }) s
  let s2 := ((b.unfit.map (·.1)).eraseDups).foldl (fun t g => coldSlots g t) s1
  let s3 := (fused ++ b.lines).foldl (fun t l => applyLine l.1 l.2 t) s2
  b.lines.foldl (fun t l =>
    let x := blockOf t 1 (l.1.setWidth 16)
    setBlock { x with applied := x.applied ++ [l.2] } t) s3

/-- BRING_UP_COMPLETE: memory trained, the self-test and soft repairs done: EARLY. -/
def execBringUpComplete (b : BringUp) (s : State) : Out :=
  let ready := s.power.main && s.ranger.running && s.power.device = .bringUp && !s.power.coldRst
    && railKinds.all (fun r => railAll s r (fun u => u.state = .on || u.state = .latched
      || (!railWhole r && (u.state = .shutOff || u.state = .off))) && (!railWhole r || railAll s r (fun u => u.state = .on)))
  if ready then .next (settleRb (maybeReady (setDevice .early (bringUpJournal (yardAtBringUp (bringUpRepairs b (bringUpUnits b s))))))) else .next s

/-- STAND_CALIBRATED: a stand in no coupe; `mv` is its lowest stable voltage at its clock. -/
def execStandCalibrated (g : StandId) (mv : BitVec 10) (s : State) : Out :=
  let x := s.stand g
  if (s.power.device = .early || s.power.device = .ready) && s.ranger.running && x.inService && !x.isolated && !x.cal
      && (coupeOfStand s g).isNone && s.power.resetPhase = .none then
    let s1 := raiseStand 0x37 0 g (s.setStand g { x with cal := true, mv := mv })
    .next (maybeReady s1)
  else .next s

/-! ## Heat (R120, R406–R408, R410, R411) -/

/-- Event of a crossing: kind, VALUE and the core it names. -/
def warnOf (x : Sensor) (limit : Nat) (t : Int) : Nat × Nat × CoreId :=
  let temp := tempField 16 t * 65536
  match x with
  | .junction g _ => (0x31, temp + limit, standCore g)
  | .sramDie g die => (0x04, temp + die.toNat, standCore g)
  | .deckStack _ => (0x31, temp + 256 + limit, 0)
  | .converter _ => (0x31, temp + 512 + limit, 0)
  | .inputPower => (0x33, t.toNat, 0)
  | _ => (0x32, temp, 0)

/-- Thresholds of a sensor, in the unit of its limit. -/
def limitsOf : Sensor → List Nat
  | .junction _ _ => [100, 108]
  | .sramDie _ _ => [108]
  | .deckStack _ => [95]
  | .converter _ => [110]
  | .coolantInlet => [45]
  | .coolantOutlet => []
  | .inputPower => [3600]

/-- A reading's unit: sixteenths of a degree, or W. -/
def unitOf : Sensor → Int
  | .inputPower => 1
  | _ => 16

/-- A sensor may warn: 100 ms have passed since it last did. -/
def mayWarn (s : State) (x : Sensor) : Bool :=
  match s.power.warnedAt.find? (fun e => e.1 = x) with
  | none => true
  | some e => e.2.toNat + 10000000 ≤ s.timebase.toNat

/-- One threshold judged by a reading. -/
def judge (x : Sensor) (t : Int) (limit : Nat) (s : State) : State :=
  let p := s.power
  let on := p.warned.contains (x, limit)
  if unitOf x * limit < t && !on && mayWarn s x then
    let (kind, value, c) := warnOf x limit t
    raise 0 kind 0 value 0 0 0 c { s with power := { p with
      warned := p.warned ++ [(x, limit)]
      warnedAt := p.warnedAt.filter (fun e => e.1 ≠ x) ++ [(x, s.timebase)] } }
  else if on && t ≤ unitOf x * limit - (match x with
      | .inputPower => 0
      | _ => 48) then
    { s with power := { p with warned := p.warned.filter (fun e => e ≠ (x, limit)) } }
  else s

/-- The hottest of a pass's readings of some sensors, at least t. -/
def hottest (l : List (Sensor × Int)) (f : Sensor → Bool) (t : Int) : Int :=
  l.foldl (fun m r => if f r.1 then max m r.2 else m) t

/-- The junction sensors and the SRAM-die sensors of a stand. -/
def Sensor.junctionOf (g : StandId) : Sensor → Bool
  | .junction h _ => h = g
  | _ => false
def Sensor.dieOf (g : StandId) : Sensor → Bool
  | .sramDie h _ => h = g
  | _ => false

/-- A reading of a pass kept where the mirror shows it: of a stand's sensors the hottest (R409). -/
def keepReading (l : List (Sensor × Int)) (x : Sensor) (t : Int) (s : State) : State :=
  match x with
  | .junction g _ => s.setStand g { s.stand g with tj := hottest l (Sensor.junctionOf g) t }
  | .sramDie g _ => s.setStand g { s.stand g with tsram := hottest l (Sensor.dieOf g) t }
  | .deckStack i => s.setStack i { s.stack i with temp := t }
  | .converter _ => s
  | .coolantInlet => { s with power := { s.power with tin := t } }
  | .coolantOutlet => { s with power := { s.power with tout := t } }
  | .inputPower => { s with power := { s.power with pin := BitVec.ofInt 32 t } }

/-- SENSOR_POLL: one pass of the ranger. TJMAX is the hottest junction of the pass. -/
def execSensorPoll (readings : List (Sensor × Int)) (s : State) : Out :=
  if !(s.ranger.running && s.power.main) then .next s
  else
    let s1 := readings.foldl (fun t r =>
      (limitsOf r.1).foldl (fun u n => judge r.1 r.2 n u) (keepReading readings r.1 r.2 t)) s
    let js := readings.filterMap (fun r => match r.1 with
      | .junction _ _ => some r.2
      | _ => none)
    .next (match js with
      | [] => s1
      | j :: rest => { s1 with power := { s1.power with tjmax := rest.foldl max j } })

/-- Benches lost (R118): every bench byte, its poison and its errors. -/
def benchesLost (s : State) : State :=
  { s with
    mem := s.mem.filter (fun c => !isBench c.1)
    poison := s.poison.filter (fun a => !isBench a)
    rowErrors := [] }

/-- Cores as a warm reset or a trip leaves them: their error logs, spare lines and stall counters, which only a core reset
and a cold reset clear (R63). -/
def warmCores (s : State) : Sparse Core :=
  s.cores.foldl (fun m e => m.set Core.reset e.1
    { Core.reset with errLog := e.2.errLog, spareLines := e.2.spareLines, counters := e.2.counters }) []

/-- The deck and the yard placed in self-refresh (R194, R395, R407). -/
def tiersRest (s : State) : State :=
  allSectors.foldl (fun t i =>
    if (t.stack i).state = .on then t.setStack i { t.stack i with state := .selfRefresh } else t) { s with yardRefresh := true }

/-- Self-refresh ended, but for the stacks of sectors in S3. -/
def tiersWake (s : State) : State :=
  allSectors.foldl (fun t i =>
    if (t.stack i).state = .selfRefresh && (t.sector i).mode ≠ .s3 then t.setStack i { t.stack i with state := .on } else t)
    { s with yardRefresh := false }

/-- Every stand clock stops: no task, packet or transfer goes on (R395, R407). -/
def stopClocks (s : State) : State :=
  { s with
    cores := warmCores s
    readReqs := []
    readReplies := []
    windowRows := []
    acks := []
    skids := []
    arrivals := []
    transfers := [] }

/-- Ballast stops at once on every stand. -/
def ballastOff (s : State) : State :=
  let s1 := allStands.foldl (fun t g =>
    if (t.stand g).ballast then t.setStand g { t.stand g with ballast := false } else t) s
  { s1 with power := { s1.power with ballast := 0, floorNow := 0 } }

/-- Every Mirovik link DOWN, and the Ethernet ports when `eth`. -/
def linksDown (eth : Bool) (s : State) : State :=
  let s1 := allLinks.foldl (fun t l =>
    if (t.link l).state = .down then t else enterLink l .down LinkCause.record 0 t) s
  if !eth then s1
  else [false, true].foldl (fun t p =>
    if (t.ethPort p).up then raise0 0x26 (b2n p) (t.setEth p { t.ethPort p with up := false }) else t) s1

/-- CORE and SRAM rails in regulation go off (R407), or come back. -/
def coreRails (off : Bool) (s : State) : State :=
  { s with rails := s.rails.map (fun e =>
    if e.1 / 256 = 6 || e.1 / 256 = 7 then
      (e.1, { e.2 with state := if off && e.2.state = .on then .off else if !off && e.2.state = .off then .on else e.2.state })
    else e) }

/-- THERMAL_TRIP: the second of two samples at 115 °C or more. -/
def execThermalTrip (_g : StandId) (s : State) : Out :=
  if !s.power.main || s.power.device = .tripped then .next s
  else
    let was := if s.power.device = .draining then s.power.before else s.power.device
    let s1 := coreRails true (tiersRest (benchesLost (stopClocks (linksDown true (ballastOff s)))))
    let s2 := { s1 with power := { s1.power with trip := true, before := was, drainSince := none } }
    .next (settleRb (setDevice .tripped s2))

/-! ## The ranger (R342, R399) -/

/-- Running self-tests end with ABORTED (R399). -/
def abortTests (s : State) : State := s.tests.foldl (fun t x => endTest x 3 ⟨3, [], 0, 0⟩ t) s

/-- RANGER_WATCHDOG: only the ranger is reset. -/
def execRangerWatchdog (s : State) : Out :=
  if !s.ranger.running then .next s
  else
    let s1 := { s with ranger := { s.ranger with running := false } }
    let s2 := (allLinks.filter (fun l => (s1.link l).state = .auth)).foldl (fun t l =>
      enterLink l .probe LinkCause.auth 0 t) s1
    .next (abortTests s2)

/-- RANGER_RESTART: the ranger has returned. -/
def execRangerRestart (s : State) : Out :=
  if s.ranger.running || !s.ranger.auxReady || !s.power.aux then .next s
  else
    let n := satAdd 8 s.ranger.restarts.toNat 1
    .next (startRails (raise0 0x36 n { s with ranger := { s.ranger with running := true, restarts := BitVec.ofNat 8 n } }))

end Sys2Proof.Machine
end

