-- ==== Sys2Proof/Machine/Quantise.lean ====
section
/-! DEFINITION. Class 0x5, quantise (R24, R49, R77, R82). -/

namespace Sys2Proof.Machine

/-- QCW: replaces the control word, after writing out what the quantiser holds; a bad word raises FORMAT and the
previous one stays. -/
def execQcw (c : CoreId) (f : Fields) (s : State) : Out :=
  let x := s.core c
  let w := x.rd f.a.toNat
  issue c Op.qcw f [(.illegal, !Form.ok ⟨0, 5, 0, 1, 0, 0⟩ f), (.format, !qcwOk w)] (fun s =>
    let (ok, t) := writeOut c s
    if ok then completeWith c ({ t.core c with qcw := w }.taint (x.rdP f.a.toNat)) t
    else stallWriteOut c t) s

/-- QCB: loads codebook record IMM[3:0] of the row. -/
def execQcb (c : CoreId) (f : Fields) (s : State) : Out :=
  let x := s.core c
  let a := (x.rd f.a.toNat).toNat
  let inB := x.rowsIn a 1
  let rec_ := codebookAt (Memory.row (benchAddr c (x.phys a)) s.mem) f.imm.toNat
  issue c Op.qcb f [(.illegal, !Form.ok ⟨0, 5, 0, 1, 0, 4⟩ f), (.bound, !inB), (.format, inB && !codebookOk rec_)] (fun s =>
    let s0 := s.setCore c (x.taint (x.rdP f.a.toNat))
    let (v, t) := readBench c (x.phys a) 1 s0
    completeWith c { t.core c with codebook := some (codebookAt v.1 f.imm.toNat) } t) s

/-- The output port that MOD[1] = 1 names, OUT(IMM[1:0]). -/
def qcvtPort (f : Fields) : Option Nat := if bit f.mod 1 then some (f.imm.toNat % 4) else none

/-- The plane rows that a QCVT to the bench names. -/
def qcvtPlanes (x : Core) (f : Fields) : PlaneRows := PlaneRows.ofBits (x.rd f.a.toNat)

/-- The output held that this QCVT continues, if any. -/
def qcvtHeld (x : Core) (f : Fields) : Option QOut :=
  match x.qout with
  | some q => if q.continues (qcwOutFmt x.qcw) (qcvtPort f) (qcvtPlanes x f) then some q else none
  | none => none

/-- How many elements, scale bytes and knot slots are held for this output after the whole count. -/
def qcvtTotals (x : Core) (f : Fields) (n : Nat) : Nat × Nat × Nat :=
  let fmt := qcwOutFmt x.qcw
  let h := qcvtHeld x f
  ((h.map (·.elems.length)).getD 0 + n,
   (h.map (·.scales.length)).getD 0 + (if Fmt.scaled fmt then ceilDiv n 32 else 0),
   (h.map (·.knots.length)).getD 0 + (if Fmt.isKB fmt then n / 128 else 0))

/-- The bound check of R82 over every bench row of the output. -/
def qcvtBound (x : Core) (f : Fields) (n : Nat) : Bool :=
  let (e, sc, k) := qcvtTotals x f n
  let p := qcvtPlanes x f
  x.rowsIn p.elem (ceilDiv e (Fmt.perRow (qcwOutFmt x.qcw))) && x.rowsIn p.scale (ceilDiv sc 512)
    && x.rowsIn p.knot (ceilDiv k 256)

/-- Port output whose held rows would exceed the 32 rows of the output buffer (R82). -/
def qcvtTooMuch (x : Core) (f : Fields) (n : Nat) : Bool :=
  let (e, sc, k) := qcvtTotals x f n
  32 < ceilDiv sc 512 + ceilDiv k 256 + b2n (e % Fmt.perRow (qcwOutFmt x.qcw) ≠ 0)

/-- Registers after progress: the count, and for the bench the plane rows (R85). -/
def qcvtRegs (f : Fields) (n : Nat) (x : Core) : Core :=
  let y := x.wr f.b.toNat (BitVec.ofNat 64 n) (x.rdP f.b.toNat)
  match qcvtPort f, x.qout with
  | none, some q =>
    let p := PlaneRows.ofBits (x.rd f.a.toNat)
    y.wr f.a.toNat
      ({ p with elem := q.elemRow.toNat
                scale := if Fmt.scaled q.fmt then q.scaleRow.toNat else p.scale
                knot := if Fmt.isKB q.fmt then q.knotRow.toNat else p.knot } : PlaneRows).toBits
      (x.rdP f.a.toNat)
  | _, _ => y

/-- Source values of the next group of at most 128 for a region or vectors. -/
def qcvtSource (c : CoreId) (x : Core) (f : Fields) (n : Nat) : List (F32 × Bool) :=
  let k := min 128 n
  let done := x.qdone
  if f.sel.toNat = 4 then
    match x.region f.d.toNat with
    | none => []
    | some r =>
      let w := engineCols c
      (List.range k).map (fun j =>
        let row := r.first + (done + j) / w
        (x.acc.get 0 (row * w + (done + j) % w), x.accRowP row))
  else
    (List.range k).map (fun j =>
      let v := f.d.toNat + (done + j) / 64
      ((x.vec v).getD ((done + j) % 64) 0, x.vecP v))

/-- Rows that are full leave; false when an output port is full. -/
def emitFull (c : CoreId) (s : State) : Bool × State :=
  match (s.core c).qout with
  | none => (true, s)
  | some q => emit c false q.fuel s

/-- Groups from a region or vectors, at most `fuel`: elements still to convert, whether the output port is full. -/
def qcvtGroups (c : CoreId) (f : Fields) : Nat → Nat → State → Nat × Bool × State
  | 0, n, s =>
    let (ok, t) := emitFull c s
    (n, !ok, t)
  | fuel + 1, n, s =>
    let (ok, t) := emitFull c s
    if !ok then (n, true, t)
    else if n = 0 then (0, false, t)
    else
      let u := quantise c (qcvtSource c (t.core c) f n) t
      qcvtGroups c f fuel (n - min 128 n) (u.setCore c { u.core c with qdone := (u.core c).qdone + min 128 n })

/-- Groups from the rows staged at an input port. -/
def qcvtPortGroups (c : CoreId) (b : Bound) : List Item → Nat → State → Nat × Bool × Bool × State
  | items, n, s =>
    let (ok, t) := emitFull c s
    if !ok then (n, true, false, t)
    else if n = 0 then (0, false, false, t)
    else
      match items with
      | [] => (n, false, false, t)
      | .marker _ :: _ => (n, false, true, t)
      | .row d p :: rest =>
        let vals := ((List.range (min 128 n)).map (fun j => (Row.word32 d j, p)))
        let t1 := match t.queue b.coupe b.handle with
          | none => t
          | some q => notePop b (t.setQueue b.coupe b.handle (some q.takeRow))
        qcvtPortGroups c b rest (n - min 128 n) (quantise c vals t1)

/-- QCVT is over: nothing of it is pending. -/
def qcvtDone (c : CoreId) (f : Fields) (n : Nat) (s : State) : State :=
  completeWith c { qcvtRegs f n (s.core c) with nanMet := false, qdone := 0 } s

/-- The wait of a QCVT on its output port. -/
def qcvtWaitOut (c : CoreId) (f : Fields) (n : Nat) (s : State) : State :=
  stallWriteOut c (s.setCore c (qcvtRegs f n (s.core c)))

/-- The output that this QCVT fills: the one it continues, or a fresh one once the old one is written out. -/
def qcvtOpen (c : CoreId) (f : Fields) (s : State) : Bool × State :=
  let x := s.core c
  match qcvtHeld x f with
  | some _ => (true, s)
  | none =>
    let (ok, t) := writeOut c s
    if ok then
      (true, t.setCore c { t.core c with
        qout := some (QOut.start (qcwOutFmt x.qcw) (qcvtPort f) (qcvtPlanes x f)), nanMet := false })
    else (false, t)

/-- The head of the queue's staging is a row, so a conversion that stopped before it has paused. -/
def rowWaits (s : State) (b : Bound) : Bool :=
  match s.queue b.coupe b.handle with
  | some q => (match q.staging with
    | .row _ _ :: _ => true
    | _ => false)
  | none => false

/-- QCVT: converts count elements. A region or vectors are converted at once; from a port each row is one conversion
group; the count and plane rows follow each group (R85), and a full output port or an empty input port leaves the
rest for the next issue. -/
def execQcvt (c : CoreId) (f : Fields) (stop : Option Nat) (s : State) : Out :=
  let x := s.core c
  let sel := f.sel.toNat
  let toPort := bit f.mod 1
  let n := (x.rd f.b.toNat).toNat
  let fmt := qcwOutFmt x.qcw
  let form := Form.ok ⟨if sel < 4 then 0 else if sel = 4 then 3 else 4, if toPort then 0 else 5, 5, 6, 2,
      if toPort then 2 else 0⟩ f
    && (toPort || (pairOk f.a && planeOk (x.rd f.a.toNat)))
    && !(sel = 5 && 16 < f.d.toNat + ceilDiv (x.qdone + n) 64)
  let kbOk := !Fmt.isKB fmt || (n % 128 = 0 && x.codebook.isSome && x.cb.fmt = fmt)
  let format := !kbOk || (toPort && qcvtTooMuch x f n)
  let region := sel = 4 && (match x.region f.d.toNat with
    | some r => r.rows < ceilDiv (x.qdone + n) (engineCols c)
    | none => true)
  let src := if sel < 4 then portQueue s c sel else none
  let dst := match qcvtPort f with
    | some i => (portQueue s c (4 + i)).isNone
    | none => false
  issue c Op.qcvt f [(.illegal, !form), (.format, format), (.bound, !toPort && !qcvtBound x f n), (.region, region),
      (.stream, (sel < 4 && src.isNone) || dst)] (fun s =>
    let s0 := s.setCore c (x.taint (x.rdP f.b.toNat || (!toPort && (x.rdP f.a.toNat || x.rdP (f.a.toNat + 1)))))
    let (ok, s1) := qcvtOpen c f s0
    if !ok then stallWriteOut c s1
    else
      match src with
      | some b =>
        let items := b.queue.staging
        let (n', full, marker, t) := qcvtPortGroups c b (items.take (pauseAt stop items.length)) n s1
        if full then
          let u := qcvtWaitOut c f n' t
          if n' < n then progress u c else u
        else if n' = 0 then qcvtDone c f 0 t
        else if marker then takeExc c .stream (t.setCore c { qcvtRegs f n' (t.core c) with nanMet := false })
        else
          let y := qcvtRegs f n' (t.core c)
          let u := if rowWaits t b then pauseWith c y t else stallIn c y b t
          if n' < n then progress u c else u
      | none =>
        let (n', full, t) := qcvtGroups c f (pauseAt stop (n / 128 + 2)) n s1
        if full then
          let u := qcvtWaitOut c f n' t
          if n' < n then progress u c else u
        else if n' = 0 then qcvtDone c f 0 t
        else progress (pauseWith c (qcvtRegs f n' (t.core c)) t) c) s

/-- QFLUSH: writes every held row out, partly filled rows zero-filled. -/
def execQflush (c : CoreId) (f : Fields) (stop : Option Nat) (s : State) : Out :=
  issue c Op.qflush f [(.illegal, !Form.nil.ok f)] (fun s =>
    match stop with
    | none =>
      let (ok, t) := writeOut c s
      if ok then completeWith c (t.core c) t else stallWriteOut c t
    | some k =>
      let (ok, t) := emit c true k s
      if !ok then stallWriteOut c t
      else if ((t.core c).qout.bind (fun q => q.nextRow true)).isNone then
        completeWith c { t.core c with qout := none } t
      else pauseWith c (t.core c) t) s

end Sys2Proof.Machine
end

