-- ==== Sys2Proof/Machine/Remote.lean ====
section
/-! DEFINITION. Events of the bench and the remote path: starvation, the scrubber, remote reads and window writes
(R101, R104–R111, R116, R369, R371). -/

namespace Sys2Proof.Machine

/-- The local instruction whose request waits for a narrow-port slot: the earliest that uses the narrow port and has not
completed, else the one at the program counter. -/
def Core.firstIssued (x : Core) : BitVec 21 × Nat :=
  match x.queue.find? (fun e => opUnit e.op = some .transfer || opUnit e.op = some .quantiser || e.op = Op.mreg) with
  | some e => (e.pc, e.seq)
  | none => (x.pc, x.issueSeq)

/-- BENCH_STARVATION: CONFLICT is charged to the local instruction, whose 1,024 cycles of waiting count NARROW (R63, R99),
or to the instruction that made the most recent wide access to the blocking bank; the scrubber's requests are never charged
(R101). -/
def execBenchStarvation (c : CoreId) (row : BitVec 15) (kind : NarrowKind) (s : State) : Out :=
  let x := s.core c
  if x.task.isSome && x.phase = .run && !x.halted then
    match kind with
    | .localRequest =>
      let y := countCycles .narrow 1024 x
      .next (chargeConflict c c 1 row.toNat 0 (x.firstIssued.1) (x.firstIssued.2) (s.setCore c y))
    | .otherRequest =>
      match x.lastWide.get none (row.toNat % 32) with
      | some (pc, seq) => .next (chargeConflict c c 2 row.toNat 0 pc seq s)
      | none => .next s
    | .scrubber => .next s
  else .next s

/-! ## Scrubber -/

/-- A row that the scrubber read with only correctable errors is written back corrected; found so on two consecutive
passes it is repaired (R116, R369). -/
def scrubCorrected (c : CoreId) (r : Nat) (s : State) : State :=
  let a := benchAddr c r
  let e := s.rowErrors.get RowError.none a
  let x := s.core c
  let s1 := { s with rowErrors := s.rowErrors.set RowError.none a { e with ce := [] } }
  if x.scrubCE.contains r then
    repairRow c r (s1.setCore c { x with scrubCE := x.scrubCE.filter (· ≠ r) })
  else s1.setCore c { x with scrubCE := x.scrubCE ++ [r] }

/-- SCRUB_ROW: the next row in ascending order. -/
def execScrubRow (c : CoreId) (s : State) : Out :=
  if (s.stand (coreStand c)).asleep then .next s
  else
    let r := (s.core c).scrub.toNat
    let e := s.rowErrors.get RowError.none (benchAddr c r)
    let s1 := (readBench c r 3 s).2
    let s2 := if e.ue.isSome then repairRow c r s1
      else if !e.ce.isEmpty then scrubCorrected c r s1
      else s1.setCore c { s1.core c with scrubCE := (s1.core c).scrubCE.filter (· ≠ r) }
    .next (s2.setCore c { s2.core c with scrub := BitVec.ofNat 15 ((r + 1) % 30720) })

/-! ## Incarnations (R371) -/

/-- A packet of a retired incarnation is discarded and counted; at most one ZOMBIE event per stand and step. -/
def zombie (g : StandId) (s : State) : State :=
  let x := s.stand g
  let s1 := s.setStand g { x with zombies := x.zombies + 1, zombieRaised := true }
  if x.zombieRaised then s1 else raiseStand 0x14 (x.zombies + 1) g s1

/-- The first element that a test accepts, and the list without it. -/
def takeFirst {α : Type} (f : α → Bool) : List α → Option (α × List α)
  | [] => none
  | x :: xs => if f x then some (x, xs) else (takeFirst f xs).map (fun r => (r.1, x :: r.2))

/-! ## Remote reads (R105, R106) -/

/-- What a remote read returns: the row, or zeros poisoned and an isolation event when it is not served (R105, R272). -/
def serveRead (q : ReadReq) (s : State) : (Row × Bool) × State :=
  let mine := coupeOf s q.reader
  if mine.isNone || coupeOf s q.target ≠ mine || (s.stand (coreStand q.target)).isolated
      || (s.slot q.target).state = .failed || lastRow < q.row.toNat then
    ((0, true), match mine with
      | none => s
      | some k => raiseIsolation 1 k (coupeOf s q.target) q.reader s)
  else readBench q.target q.row.toNat 2 s

/-- REMOTE_READ_REQUEST: the service port of core c serves the oldest request for it. -/
def execRemoteReadRequest (c : CoreId) (s : State) : Out :=
  match takeFirst (fun q => q.target = c) s.readReqs with
  | none => .next s
  | some (q, rest) =>
    let s1 := { s with readReqs := rest }
    if !requestFirst s q then .next s
    else if q.incarn ≠ (s.slot q.reader).incarn then .next (zombie (coreStand c) s1)
    else
      let (d, s2) := serveRead q s1
      .next { s2 with readReplies := s2.readReplies ++ [⟨q.reader, d.1, d.2, c, sentNow s2⟩], injected := s2.injected + 1 }

/-- REMOTE_READ_REPLY: the row is written to the reader's bench and RREAD's registers advance; a reply to a cancelled
read is discarded (R61). -/
def execRemoteReadReply (c : CoreId) (s : State) : Out :=
  match takeFirst (fun q => q.reader = c) s.readReplies with
  | none => .next s
  | some (q, rest) =>
    let s1 := { s with readReplies := rest }
    let x := s1.core c
    if !replyFirst s q then .next s
    else
    match x.reads with
    | [] => .next s1
    | rr :: more =>
      let step (r : BitVec 5) (v : BitVec 64) (y : Core) : Core := y.wr r.toNat (y.rd r.toNat + v) (y.rdP r.toNat)
      let y := step rr.bReg (-1) (step rr.aReg 1 (step rr.dReg 1 { x with reads := more }))
      .next (progress (taskWrite c rr.dest.toNat q.data q.poison (s1.setCore c y)) c)

/-! ## Window writes (R109, R111) -/

/-- The cause with which window admission refuses a row; 0 admits it. -/
def windowCheck (s : State) (q : WindowRow) : Nat :=
  let x := s.core q.target
  let w := x.windows.get 0 q.window.toNat
  if x.saving then 6
  else if (coupeOf s q.writer).isNone || coupeOf s q.writer ≠ coupeOf s q.target then 5
  else if Win.len w = 0 then 1
  else if Win.len w ≤ q.offset.toNat then 2
  else if Win.mode w = 1 && !((List.range (Win.count w)).any (fun i => Win.writer w i = q.writer.toNat)) then 3
  else if !Win.any w && Win.gen w ≠ q.step then 4
  else 0

/-- WINDOW_ROW_ARRIVAL: the oldest row for core c is admitted and stored, or refused with its cause. Rows of different
writers arrive in the order in which they were sent: DESIGN CHOICE (R111; log entry 122). -/
def execWindowRowArrival (c : CoreId) (s : State) : Out :=
  match takeFirst (fun q => q.target = c) s.windowRows with
  | none => .next s
  | some (q, rest) =>
    let s1 := { s with windowRows := rest }
    if !windowFirst s q then .next s
    else if q.incarn ≠ (s.slot q.writer).incarn then .next (zombie (coreStand c) s1)
    else
      let cause := windowCheck s1 q
      let s2 := if cause = 0 then
          writeBench c (Win.baseRow ((s1.core c).windows.get 0 q.window.toNat) + q.offset.toNat) q.data q.poison s1
        else if cause = 5 then
          (match coupeOf s1 q.writer with
            | none => s1
            | some k => raiseIsolation 2 k (coupeOf s1 c) q.writer s1)
        else s1
      .next { s2 with acks := s2.acks ++ [⟨q.writer, BitVec.ofNat 4 cause, c, sentNow s2⟩], injected := s2.injected + 1 }

/-- RWRITE_ACKNOWLEDGEMENT: one write of the writer is acknowledged; the first refusal is recorded (R89). -/
def execRwriteAcknowledgement (c : CoreId) (s : State) : Out :=
  match takeFirst (fun q => q.writer = c) s.acks with
  | none => .next s
  | some (q, rest) =>
    let s1 := { s with acks := rest }
    let x := s1.core c
    if !ackFirst s q then .next s
    else
    .next (s1.setCore c { x with
      writesOut := x.writesOut - 1
      refused := if q.cause = 0 then x.refused else x.refused.or (some q.cause)
      windowCause := if q.cause ≠ 0 && x.refused.isNone then q.cause else x.windowCause })

end Sys2Proof.Machine
end

