-- ==== Sys2Proof/Machine/Resets.lean ====
section
/-! DEFINITION. Resets, recovery, whole-device drain, commits, host-link retraining and firmware (R193, R194, R305, R311–R316,
R391, R394–R397, R408, R421). -/

namespace Sys2Proof.Machine

/-! ## Cold reset -/

/-- The ranger's firmware restarts. -/
def restartRanger (s : State) : State :=
  { s with ranger := { s.ranger with running := false, auxReady := false, fwVer := 0 } }

/-- A cold reset under power. -/
def coldReset (s : State) : State := if s.power.main then coldStart (restartRanger s) else s

/-- COLD_RESET. The pin is then held; the board management controller's command needs the ranger. -/
def execColdReset (t : ResetTrigger) (s : State) : Out :=
  match t with
  | .pin => .next (coldReset { s with power := { s.power with coldRst := true } })
  | .bmc => if s.ranger.running then .next (coldReset s) else .next s
  | _ => .next (coldReset s)

/-- COLD_RST_N_RELEASE: a boundary-scan instruction that holds the lands gives way first (R432). -/
def execColdRstNRelease (s : State) : Out :=
  let s1 := { s with
    tap := if s.tapHolds then .idcode else s.tap
    tapHolds := false
    power := { s.power with coldRst := false } }
  .next (startRails s1)

/-! ## Warm reset: the stop (R395) -/

/-- Self-tests under way end with their blocks initialised; their descriptors run again after recovery. -/
def stopTests (s : State) : State :=
  s.tests.foldl (fun t x => reinit x.target x.index 3 t) { s with tests := [] }

/-- The stop of a warm reset; with `pin`, recovery waits for PERST_N. -/
def warmStop (pin : Bool) (s : State) : State :=
  let s1 := tiersRest (stopClocks (linksDown false (ballastOff (stopTests s))))
  let p := s1.power
  settleRb { s1 with power := { p with
    resetPhase := .warm pin
    warms := p.warms + 1
    linkUp := false
    cxl := false
    before := if p.device = .draining || p.device = .tripped then p.before else p.device
    drainSince := none } }

/-- A warm reset as the device's state allows it (R391, R396, R408). -/
def warmReset (pin : Bool) (s : State) : State :=
  let p := s.power
  if !p.main then s
  else if p.device = .bringUp then coldReset s
  else if p.device = .tripped && p.resetPhase = .none then
    (if p.trip then { s with power := { p with resetPhase := .heldWarm } } else s)
  else
    match p.resetPhase with
    | .none => warmStop pin s
    | .warm w => { s with power := { p with resetPhase := .warm (w || pin) } }
    | .heldWarm => s

/-- WARM_RESET. -/
def execWarmReset (t : ResetTrigger) (s : State) : Out :=
  match t with
  | .pin =>
    if s.power.perst then .next s
    else
      let s1 := warmReset true s
      .next { s1 with power := { s1.power with perst := true, linkUp := false } }
  | .bmc => if s.ranger.running then .next (warmReset false s) else .next s
  | _ => .next (warmReset false s)

/-- TRIP_WARM_RESET_RELEASE: every junction reads below 95 °C, and the held warm reset runs (R408). -/
def execTripWarmResetRelease (hottest : Int) (s : State) : Out :=
  if s.power.resetPhase = .heldWarm && hottest < 95 * 16 then
    .next (warmStop s.power.perst { s with power := { s.power with trip := false } })
  else .next s

/-! ## Recovery (R311, R312) -/

/-- Stands without what was under way. -/
def warmStands (s : State) : Sparse Stand :=
  s.stands.foldl (fun m e => m.set Stand.reset e.1
    { e.2 with deferred := none, isolated := false, unpatrolled := [], zombieRaised := false }) []

/-- Slots whose bench move is overtaken: the bench is gone. -/
def warmSlots (s : State) : Sparse Slot :=
  s.slots.foldl (fun m e => m.set Slot.reset e.1 { e.2 with moving := false }) []

/-- The state that a coupe's committed record comes back to. -/
def warmCoupe (x : Coupe) : Coupe :=
  { x with state := match x.state with
    | .preempting => if x.bindings.isEmpty then .idle else .bound
    | .draining => .bound
    | .resuming => .preempted
    | st => st }

/-- What a coupe does after a warm reset: nothing; its queues are empty, its saved state as committed. The span epoch is
that of the last commit: the advances of the attempts that are undone are taken back. -/
def warmRun (s : State) (k : Nat) (x : Coupe) (r : CoupeRun) : CoupeRun :=
  let back := match r.openStep with
    | some st => if st.spans then st.attempt - 1 else 0
    | none => 0
  let saved := s.journalSaved.find? (fun e => e.1 = k)
  { CoupeRun.reset with
    queues := match x.bindings.get none x.curJob.toNat with
      | some cfg => if x.state = .preempted then [] else
          mapQueues (fun q => { q with epoch := if q.span then r.spanEpoch - BitVec.ofNat 8 back else r.epoch }) (freshQueues cfg)
      | none => []
    epoch := r.epoch
    spanEpoch := r.spanEpoch - BitVec.ofNat 8 back
    flushed := r.flushed
    spanAdvanced := r.spanAdvanced
    heldFrom := if x.state = .bound then none else r.heldFrom
    shown := r.shown
    lastProgress := s.timebase
    lastCross := s.timebase
    saved := if x.state = .preempted then (saved.map (·.2.1)).join else none
    jobSaved := (saved.map (·.2.2)).getD []
    turn := r.turn
    feeds := r.feeds
    strays := r.strays
    xtagsDone := r.xtagsDone
    spanConflict := r.spanConflict }

/-- Whether an allocation belongs to what the journal's records name: destinations of MOVEs, and what was taken for steps,
imports, creations and BINDs that had not ended, go back to their pools (R193, R235, R312). -/
def keptAlloc (d : Durable) (a : Alloc) : Bool :=
  let coupe (k : CoupeId) : Coupe := d.coupes.get Coupe.reset k.toNat
  match a.kind with
  | .transit => false
  | .group g => (d.groups.get Group.reset g.toNat).state ≠ .free
  | .tree i => (d.seqs.get Seq.reset i.toNat).tree.isSome
  | .imageDeck h => (d.images.get Image.reset h.toNat).deck
  | .save k _ => (coupe k).state ≠ .free
  | .jobSave k j => ((coupe k).bindings.get none j.toNat).isSome
  | _ => true

/-- The device as of the last commit, with nothing in flight. -/
def rollback (s : State) : State :=
  let coupes : Sparse Coupe := s.journal.coupes.foldl (fun m e => m.set Coupe.reset e.1 (warmCoupe e.2)) []
  let s1 := benchesLost { s with
    dur := { s.journal with coupes := coupes, allocs := s.journal.allocs.filter (keptAlloc s.journal) }
    due := s.journalDue
    cores := warmCores s
    stands := warmStands s
    slots := warmSlots s
    readReqs := []
    readReplies := []
    windowRows := []
    acks := []
    skids := []
    leaseHits := []
    arrivals := []
    transfers := []
    poolWait := []
    granted := []
    moves := []
    recallLost := []
    freedGroups := []
    reductions := []
    imports := []
    scentRebuild := true }
  let s2 : State := { s1 with runs := coupes.foldl (fun m e =>
      m.set CoupeRun.reset e.1 (warmRun s e.1 e.2 (s.runs.get CoupeRun.reset e.1))) [] }
  (s2.dur.seqs.map (fun e => BitVec.ofNat 13 e.1)).foldl (fun t i => trimList i t) s2

/-- Loads that a commit saw half done are undone: LOAD_IMAGE runs again. -/
def undoLoads (s : State) : State :=
  (s.dur.images.filter (fun e => e.2.state = .loading)).foldl (fun t e => dropImage (BitVec.ofNat 10 e.1) t) s

/-- Sequences that a commit saw OPENING are free again unless their SEQ_OPEN has finished: it runs again. -/
def undoOpens (s : State) : State :=
  (s.dur.seqs.filter (fun e => e.2.state = .opening
      && !(entryOf s e.2.ring e.2.openPos).any (fun x => x.state.isDone && x.kept))).foldl
    (fun t e => freeSeq (BitVec.ofNat 13 e.1) t) s

/-- Resident tiles staged again from the deck copy, or from the yard copy where it is gone (R194; log entry 142); a coupe
whose image has neither copy loses its binding, and the flag is set. -/
def restage (k : CoupeId) (s : State) : Bool × State :=
  match bindingOf s k with
  | none => (false, s)
  | some cfg =>
    if (s.coupe k).state ≠ .bound then (false, s)
    else
      let runs := if (s.image cfg.image).deck then copyRuns s cfg.image
        else if (s.image cfg.image).state = .ready then (findAlloc s .yard (.imageYard cfg.image)).toList else []
      if runs.isEmpty && (s.image cfg.image).rows ≠ 0 then
        let t := unbindCoupe k s
        (true, t.setCoupe k { t.coupe k with state := .idle })
      else (false, stageFrom runs cfg s)

/-- Every coupe's tiles; the coupes that cannot be returned to their binding. -/
def restageAll : List CoupeId → State → List CoupeId × State
  | [], s => ([], s)
  | k :: ks, s =>
    let (lost, t) := restage k s
    let (l, u) := restageAll ks t
    (if lost then k :: l else l, u)

/-- Whether the ledger knows the position (R310, R311). -/
def ledgerKnows (x : Ring) (p : BitVec 32) : Bool :=
  match x.ledger.get none (p.toNat % RingE.size x.entry) with
  | some l => l.pos = p && l.state ≠ 0
  | none => false

/-- An accepted descriptor after a warm reset: a completion that the journal holds stays, a cancel already accepted stays
due, and the rest runs again from its start. -/
def recoverEntry (s : State) (r : RingId) (lost : Bool) (e : Entry) : Entry :=
  let x := s.ringOf r
  if e.state.isDone && e.kept then e
  else
    let fresh : Entry := { e with step := none, cancelled := false, since := s.timebase, kept := false, state := .waiting }
    if !ledgerKnows x e.pos || lost then { fresh with state := .done Status.restartRequired 0 0 0 }
    else if malformed r e.w then { fresh with state := .done Status.badDescriptor 0 0 0 }
    else if Hdr.opcode e.w = opCancel && s.due.any (fun d => match d with
        | .cancel _ _ r' p => r' = r && p = e.pos
        | _ => false) then { fresh with state := .started }
    else fresh

/-- R311 on one ring. -/
def recoverRing (lost : List CoupeId) (s : State) (r : RingId) : State :=
  let x := s.ringOf r
  if x.state ≠ .enabled || RingE.kind x.entry ≠ 1 then s
  else
    let bad := x.accepted.any (fun e => !(e.state.isDone && e.kept) && !ledgerKnows x e.pos)
    let gone := r ≠ 0 && lost.contains (ringCoupe s r)
    let s1 := s.setRing r { x with accepted := x.accepted.map (recoverEntry s r gone) }
    if bad then ringError r 4 s1 else s1

/-- Every ring in ascending number. -/
def recoverRings (lost : List CoupeId) (s : State) : State :=
  (s.rings.map (fun e => BitVec.ofNat 15 e.1)).foldl (recoverRing lost) s

/-- Recovery from a warm reset, to the state that the device held before. -/
def recover (s : State) : State :=
  let s1 := undoOpens (undoLoads (rollback (coreRails false (tiersWake s))))
  let (lost, s2) := restageAll (listedCoupes s1) s1
  let s3 := recoverRings lost s2
  let s4 := setDevice s3.power.before { s3 with power := { s3.power with
    resetPhase := .none, linkUp := !s3.power.perst, trip := false, lastBark := none } }
  let s5 := match s4.coord with
    | some w => placeLinks w s4
    | none => s4
  settleRb (maybeReady s5)

/-- RELEASE_POINT: 100 µs after a trigger other than PERST_N. -/
def execReleasePoint (s : State) : Out :=
  match s.power.resetPhase with
  | .warm false => if s.journalOk then .next (recover s) else .next s
  | _ => .next s

/-- The host link has trained; the rate and width that it reaches are not the device's to choose. -/
def trainHost (s : State) : State :=
  let (v, t) := drawFree s
  { t with power := { t.power with
    linkUp := true, rate := BitVec.ofNat 3 (1 + v.toNat % 6), width := BitVec.ofNat 3 (v.toNat / 8 % 5) } }

/-- PERST_RELEASE. -/
def execPerstRelease (s : State) : Out :=
  if !s.power.perst then .next s
  else
    let s1 := { s with power := { s.power with perst := false } }
    if !s.power.main then .next s1
    else
      match s.power.resetPhase with
      | .warm true => if s.journalOk then .next (recover (trainHost s1)) else .next s1
      | .none => .next (trainHost s1)
      | _ => .next s1

/-! ## Commits and the whole-device drain (R305, R397) -/

/-- No step is open on any coupe. -/
def noOpenStep (s : State) : Bool := s.runs.all (fun e => e.2.openStep.isNone)

/-- A drain that has nothing left to wait for ends in a warm reset. -/
def drainEnd (s : State) : State :=
  if s.power.device = .draining && s.power.resetPhase = .none && noOpenStep s then warmStop false s else s

/-- COMMIT. -/
def execCommit (s : State) : Out :=
  if mayCommit s then .next (drainEnd (publish (clearSuspects (applyCommit (reportLeases s))))) else .next s

/-- The drain begins: HST_RB busy, no fetching, no further step. -/
def beginDrain (s : State) : State :=
  let p := s.power
  if p.main && p.resetPhase = .none && (p.device = .ready || p.device = .early) then
    drainEnd (settleRb (setDevice .draining { s with power := { p with before := p.device, drainSince := some s.timebase } }))
  else s

/-- WHOLE_DEVICE_DRAIN: the board management controller's drain-and-reset command. -/
def execWholeDeviceDrain (s : State) : Out := if s.ranger.running then .next (beginDrain s) else .next s

/-- WHOLE_DEVICE_DRAIN_TIMEOUT: after 1 s the warm reset takes place anyway. -/
def execWholeDeviceDrainTimeout (s : State) : Out :=
  match s.power.drainSince with
  | some t =>
    if s.power.device = .draining && t.toNat + 100000000 ≤ s.timebase.toNat then .next (warmStop false s) else .next s
  | none => .next s

/-- FIRMWARE_UPDATE: a verified image is activated: the ranger's by restarting the ranger, other firmware by a drain. -/
def execFirmwareUpdate (ranger verified : Bool) (version : BitVec 16) (s : State) : Out :=
  if !verified || !s.ranger.running then .next s
  else if !ranger then .next (beginDrain s)
  else
    match execRangerWatchdog s with
    | .next t => .next { t with ranger := { t.ranger with fwVer := version } }
    | o => o

/-! ## Function-level reset (R314) -/

/-- FUNCTION_LEVEL_RESET: fetching and host accesses of the function stop. -/
def execFunctionLevelReset (f : BitVec 3) (s : State) : Out :=
  if s.power.main && f.toNat < s.setup.nfunc.toNat then .next { s with funcReset := s.funcReset ||| put f.toNat 1 } else .next s

/-- Whether a position belongs to the open step of the ring's coupe. -/
def inOpenStep (s : State) (r : RingId) (p : BitVec 32) : Bool :=
  match (s.run (ringCoupe s r)).openStep with
  | some st => st.ring = r && (st.pos = p || st.reqs.any (fun q => q.pos = p))
  | none => false

/-- A descriptor of a function that has been reset: one that has not begun, or whose step has not opened, runs again. -/
def againEntry (s : State) (r : RingId) (e : Entry) : Entry :=
  let op := Hdr.opcode e.w
  if e.state = .held || ((op = 0x28 || op = 0x29 || op = 0x2A) && !e.state.isDone && !inOpenStep s r e.pos) then
    { e with step := none, state := .waiting, since := s.timebase }
  else e

/-- R311 for one ring of the function. -/
def againRing (f : BitVec 3) (s : State) (r : RingId) : State :=
  let x := s.ringOf r
  if x.state ≠ .enabled || RingE.kind x.entry ≠ 1 || RingE.func x.entry ≠ f.toNat then s
  else
    let k := ringCoupe s r
    let s1 := s.setRing r { x with accepted := x.accepted.map (againEntry s r) }
    let s2 := ((s1.run k).ready.filter (fun st => st.ring = r)).foldl (fun t st => st.reqs.foldl (fun u q => giveBack q u) t) s1
    s2.setRun k { s2.run k with ready := (s2.run k).ready.filter (fun st => st.ring ≠ r) }

/-- BUS_MASTER_ENABLE: the function's rings recover and go on. -/
def execBusMasterEnable (f : BitVec 3) (s : State) : Out :=
  if bit s.funcReset f.toNat then
    let s1 := (s.rings.map (fun e => BitVec.ofNat 15 e.1)).foldl (againRing f) s
    .next { s1 with funcReset := s1.funcReset &&& ~~~(put f.toNat 1 : BitVec 8) }
  else .next s

/-! ## The host link (R315, R421) -/

/-- HOST_LINK_RETRAIN: every host access stops. -/
def execHostLinkRetrain (s : State) : Out := .next { s with power := { s.power with linkUp := false } }

/-- HOST_LINK_RESTORED. -/
def execHostLinkRestored (rate width : BitVec 3) (s : State) : Out :=
  if s.power.main && !s.power.perst && s.power.resetPhase = .none then
    .next { s with power := { s.power with linkUp := true, rate := rate, width := width } }
  else .next s

/-- CXL_CACHE_ENABLE_CHANGE: every doorbell line is read once at the switch. -/
def execCxlCacheEnableChange (on : Bool) (counts : List (RingId × BitVec 32)) (s : State) : Out :=
  if !s.power.main then .next s
  else
    let s1 := { s with power := { s.power with cxl := on } }
    .next (if engineRuns s && s.setup.doorbellMode = 1 then counts.foldl (fun t c => observe c.1 c.2 t) s1 else s1)

end Sys2Proof.Machine
end

