-- ==== Sys2Proof/Machine/Setup.lean ====
section
/-! DEFINITION. Set-up registers, their lock, and the recovery after a cold reset (R311, R313, R412–R419). -/

namespace Sys2Proof.Machine

/-! ## Registers (R413–R416) -/

/-- DEV_ID (R414). -/
def devId (s : State) : BitVec 64 :=
  put 48 0x4096 ||| put 40 0xA1 ||| put 24 Config.romVer.toNat ||| put 8 s.ranger.fwVer.toNat

/-- DEV_STATUS (R415). -/
def devStatus (s : State) : BitVec 64 :=
  let p := s.power
  put 13 p.device.code ||| put 11 s.yardMode.code ||| put 10 (b2n s.setup.locked) ||| put 9 (b2n (p.rb = .busy))
    ||| put 8 (b2n p.trip) ||| put 7 (b2n p.pwrFlt) ||| put 6 (b2n p.cxl) ||| put 3 p.rate.toNat ||| put 0 p.width.toNat

/-- SETUP_CTRL as read (R416): the write-only fields read zero. -/
def setupCtrl (s : State) : BitVec 64 :=
  put 32 s.setup.lockViol.toNat ||| put 3 (b2n s.setup.checking) ||| put 0 (b2n s.setup.locked)

/-- A half of a 128-bit register. -/
def halfOf (w : BitVec 128) (hi : Bool) : BitVec 64 := BitVec.ofNat 64 (w.toNat / (if hi then 2 ^ 64 else 1))

/-- A 128-bit register with one half replaced. -/
def putHalf (w : BitVec 128) (hi : Bool) (v : BitVec 64) : BitVec 128 :=
  if hi then put 64 v.toNat ||| put 0 (halfOf w false).toNat else put 64 (halfOf w true).toNat ||| put 0 v.toNat

/-- A counter of ETH_STAT, when the offset names one. -/
def ethStat (s : State) (off : Nat) : Option (BitVec 64) :=
  if 0x3000 ≤ off && off < 0x3400 && (off - 0x3000) % 0x200 < 0x80 then
    some ((s.ethPort (0x3200 ≤ off)).stats.get 0 ((off - 0x3000) % 0x200 / 8))
  else none

/-- The register at an 8-byte offset of function f's BAR0; zero where the map lists none (R412, R413). -/
def readReg (s : State) (f : Nat) (off : Nat) : BitVec 64 :=
  let u := s.setup
  match off with
  | 0x0000 => devId s
  | 0x0008 => Config.serial
  | 0x0010 => devStatus s
  | 0x0018 => s.timebase
  | 0x0020 => put 32 (Config.firstColdCount + s.power.colds).toNat ||| put 0 (Config.firstWarmCount + s.power.warms).toNat
  | 0x0028 => put 4 u.nfunc.toNat ||| put 0 (f % 8)
  | _ =>
    if f ≠ 0 then 0
    else
      match off with
      | 0x1000 => setupCtrl s
      | 0x1008 => u.err.setWidth 64
      | 0x1010 => u.ringTable
      | 0x1018 => u.ledgerBase
      | 0x1020 => u.ledgerSize
      | 0x1028 => u.devMirror
      | 0x1030 => u.coupeMirror
      | 0x1038 => u.doorbellMode.setWidth 64
      | 0x1040 => u.pollInterval.setWidth 64
      | 0x1048 => u.nfunc.setWidth 64
      | 0x2000 => u.qpBase
      | 0x2008 => u.qpCount.setWidth 64
      | 0x2010 => u.exportBase
      | 0x2018 => u.exportCount.setWidth 64
      | 0x2020 => (Config.mac 0).setWidth 64
      | 0x2028 => (Config.mac 1).setWidth 64
      | 0x2030 => halfOf u.ip0 false
      | 0x2038 => halfOf u.ip0 true
      | 0x2040 => halfOf u.ip1 false
      | 0x2048 => halfOf u.ip1 true
      | 0x2050 => u.pfc.setWidth 64
      | 0x2058 => u.cnp.setWidth 64
      | 0x2060 => halfOf u.telemIp false
      | 0x2068 => halfOf u.telemIp true
      | 0x2070 => u.telemPort.setWidth 64
      | _ => (ethStat s off).getD 0

/-- A read of function f's BAR0 (R412): 4 or 8 bytes, aligned; any other size or alignment reads zero, and so does a
function at or beyond NFUNC, which has no BAR (R420). -/
def readBar (s : State) (f offset size : Nat) : BitVec 64 :=
  if !(size = 4 || size = 8) || offset % size ≠ 0 || s.setup.nfunc.toNat ≤ f then 0
  else if size = 8 then readReg s f offset
  else BitVec.ofNat 64 ((readReg s f (offset - offset % 8)).toNat / 2 ^ (8 * (offset % 8)) % 2 ^ 32)

/-- An address register ignores bits [11:0]. -/
def pageAddr (v : BitVec 64) : BitVec 64 := v &&& ~~~(0xFFF : BitVec 64)

/-- The set-up registers after an RW register has been written; unchanged for any other offset. -/
def writeSetup (u : Setup) (off : Nat) (v : BitVec 64) : Setup :=
  match off with
  | 0x1010 => { u with ringTable := pageAddr v }
  | 0x1018 => { u with ledgerBase := pageAddr v }
  | 0x1020 => { u with ledgerSize := v }
  | 0x1028 => { u with devMirror := pageAddr v }
  | 0x1030 => { u with coupeMirror := pageAddr v }
  | 0x1038 => { u with doorbellMode := v.setWidth 1 }
  | 0x1040 => { u with pollInterval := v.setWidth 7 }
  | 0x1048 => { u with nfunc := v.setWidth 4 }
  | 0x2000 => { u with qpBase := pageAddr v }
  | 0x2008 => { u with qpCount := v.setWidth 11 }
  | 0x2010 => { u with exportBase := pageAddr v }
  | 0x2018 => { u with exportCount := v.setWidth 16 }
  | 0x2030 => { u with ip0 := putHalf u.ip0 false v }
  | 0x2038 => { u with ip0 := putHalf u.ip0 true v }
  | 0x2040 => { u with ip1 := putHalf u.ip1 false v }
  | 0x2048 => { u with ip1 := putHalf u.ip1 true v }
  | 0x2050 => { u with pfc := v.setWidth 16 }
  | 0x2058 => { u with cnp := v.setWidth 32 }
  | 0x2060 => { u with telemIp := putHalf u.telemIp false v }
  | 0x2068 => { u with telemIp := putHalf u.telemIp true v }
  | 0x2070 => { u with telemPort := v.setWidth 17 }
  | _ => u

/-- RW registers that the lock closes (R418). -/
def lockedReg (off : Nat) : Bool :=
  (0x1010 ≤ off && off ≤ 0x1048) || (0x2000 ≤ off && off ≤ 0x2018) || (0x2030 ≤ off && off ≤ 0x2048)

/-- A write that the lock discards is counted, saturating. -/
def countViolation (s : State) : State :=
  { s with setup := { s.setup with lockViol := BitVec.ofNat 32 (satAdd 32 s.setup.lockViol.toNat 1) } }

/-- The host reaches BAR0: main power is on and the host link is up. -/
def barOpen (s : State) : Bool := s.power.main && s.power.linkUp

/-- The 64-bit value of a register after a write of 4 or 8 bytes at an offset. -/
def mergeReg (old value : BitVec 64) (off size : Nat) : BitVec 64 :=
  if size = 8 then value
  else if off % 8 = 4 then put 32 (value.toNat % 2 ^ 32) ||| put 0 (old.toNat % 2 ^ 32)
  else put 32 (old.toNat / 2 ^ 32) ||| put 0 (value.toNat % 2 ^ 32)

/-- Whether an attempt runs or has succeeded, which closes the registers (R418). -/
def Setup.closed (u : Setup) : Bool := u.checking || u.locked

/-- An attempt under way is abandoned: SETUP_ERR and LOCKED keep their values from before it (R419). -/
def abandonLock (s : State) : State := { s with setup := { s.setup with checking := false } }

/-- SETUP_CTRL written: WARM_RST before LOCK, and it abandons an attempt under way (R419). A LOCK of a locked set-up is
counted; one of an open set-up starts an attempt, which SETUP_LOCK ends with what the host's ring table holds. -/
def writeCtrl (v : BitVec 64) (s : State) : State :=
  if bit v 2 then warmReset false (abandonLock s)
  else if bit v 1 then
    (if s.setup.locked then countViolation s else { s with setup := { s.setup with checking := true } })
  else s

/-- REGISTER_WRITE. -/
def execRegisterWrite (f : BitVec 3) (offset : BitVec 20) (size : BitVec 4) (value : BitVec 64) (s : State) : Out :=
  let o := offset.toNat
  let n := size.toNat
  let off := o - o % 8
  if !barOpen s || f ≠ 0 || !(n = 4 || n = 8) || o % n ≠ 0 then .next s
  else if off = 0x1000 then .next (writeCtrl (mergeReg 0 value o n) s)
  else if lockedReg off && s.setup.closed then .next (countViolation s)
  else .next { s with setup := writeSetup s.setup off (mergeReg (readReg s 0 off) value o n) }

/-- WARM_RST: no lock attempt is made with it (R419). -/
def execWarmRst (_alsoLock : Bool) (s : State) : Out := 
  if barOpen s then .next (warmReset false (abandonLock s)) else .next s

/-! ## SETUP_LOCK (R417) -/

/-- The four regions of host memory: base and length. -/
def setupRegions (u : Setup) : List (Nat × Nat) :=
  [(u.ringTable.toNat, 2 ^ 21), (u.ledgerBase.toNat, u.ledgerSize.toNat), (u.devMirror.toNat, 2 ^ 19),
    (u.coupeMirror.toNat, 2 ^ 27)]

/-- Whether any two of a list of ranges meet. -/
def anyMeet : List (Nat × Nat) → Bool
  | [] => false
  | x :: xs => xs.any (fun y => rangesMeet x.1 x.2 y.1 y.2) || anyMeet xs

/-- Bits set in a byte. -/
def bitsSet (w : BitVec 16) (lo : Nat) : Nat := ((List.range 8).filter (fun i => bit w (lo + i))).length

/-- An entry in its place by ring number. -/
def insertRing (e : RingEntry) : List RingEntry → List RingEntry
  | [] => [e]
  | x :: xs => if e.1.toNat ≤ x.1.toNat then e :: x :: xs else x :: insertRing e xs

/-- The order in which entries are judged: completion rings first, each kind by ascending number (log entry 37). -/
def tableOrder (l : List RingEntry) : List RingEntry :=
  let sorted := l.foldr insertRing []
  sorted.filter (fun e => RingE.kind e.2 = 2) ++ sorted.filter (fun e => RingE.kind e.2 ≠ 2)

/-- The enabled entries that are valid. -/
def validEntries (size : Nat) (l : List RingEntry) : List RingEntry :=
  (tableOrder l).foldl (fun on e =>
    if RingE.enable e.2 && entryValid size on e.1 e.2 then on ++ [e] else on) []

/-- Ring 0 is a valid submission ring of function 0. -/
def ringZeroOk (size : Nat) (l : List RingEntry) : Bool :=
  (validEntries size l).any (fun e => e.1 = 0 && RingE.kind e.2 = 1 && RingE.func e.2 = 0)

/-- The code of the first check that fails, zero when all pass. -/
def lockCode (s : State) (table : Option (List RingEntry)) : Nat :=
  let u := s.setup
  if u.ringTable = 0 then 1
  else if u.ledgerSize = 0 || u.ledgerSize.toNat % 4096 ≠ 0 || 2 ^ 35 < u.ledgerSize.toNat || u.ledgerBase = 0 then 2
  else if u.devMirror = 0 || u.coupeMirror = 0 then 3
  else if anyMeet (setupRegions u) then 4
  else if u.doorbellMode = 1 && !s.power.cxl then 5
  else if u.pollInterval.toNat < 1 || 100 < u.pollInterval.toNat || u.nfunc.toNat < 1 || 8 < u.nfunc.toNat then 6
  else if (1024 < u.qpCount.toNat && u.qpBase ≠ 0) || 2 < bitsSet u.pfc 0 || 2 < bitsSet u.pfc 8 then 7
  else
    match table with
    | none => 8
    | some l => if ringZeroOk u.ledgerSize.toNat l then 0 else 9

/-! ## Recovery after a cold reset (R311, R313) -/

/-- The cold outcome of an accepted descriptor. -/
def coldEntry (x : Ring) (now : BitVec 64) (e : Entry) : Entry :=
  let op := Hdr.opcode e.w
  let fresh : Entry := { e with step := none, cancelled := false, since := now, kept := false, state := .waiting }
  if !ledgerKnows x e.pos then { fresh with state := .done Status.restartRequired 0 0 0 }
  else if 0x20 ≤ op && op ≤ 0x2A then { fresh with state := .done Status.sequenceLost 0 0 0 }
  else if op = 0x30 || op = 0x31 then fresh
  else { fresh with state := .done Status.restartRequired 0 0 0 }

/-- A ring placed with the counts that its status line, doorbell line and ledger still show. -/
def resumeRing (valid : Bool) (old : Ring) (e : RingEntry) (s : State) : State :=
  let s1 := placeRing valid e.1 e.2 s
  let x := s1.ringOf e.1
  let isSub := RingE.kind e.2 = 1
  let y : Ring := { x with
    count := old.count
    front := old.front
    back := old.back
    commit := old.commit
    ledger := old.ledger
    accepted := if isSub then old.accepted.map (coldEntry { old with entry := e.2 } s.timebase) else [] }
  let s2 := s1.setRing e.1 y
  if valid && isSub && old.accepted.any (fun d => !ledgerKnows { old with entry := e.2 } d.pos) then ringError e.1 4 s2 else s2

/-- Reservations of a completion ring: one for each accepted descriptor of its submission rings (R297). -/
def reservationsOf (s : State) (q : RingId) : Nat :=
  ((s.rings.filter (fun e => e.2.state ≠ .disabled && RingE.kind e.2.entry = 1 && RingE.cq e.2.entry = q)).map
    (fun e => e.2.accepted.length)).sum

/-- Every ring of the table placed; `resume` keeps what the last lock's rings show. -/
def placeTable (resume : Bool) (l : List RingEntry) (s : State) : State :=
  let valid := validEntries s.setup.ledgerSize.toNat l
  let old := s.rings
  let s1 := (tableOrder l).foldl (fun t e =>
    resumeRing (valid.contains e) (if resume then old.get Ring.reset e.1.toNat else Ring.reset) e t) { s with rings := [] }
  { s1 with rings := s1.rings.map (fun e =>
    (e.1, { e.2 with reserved := reservationsOf s1 (BitVec.ofNat 15 e.1) })) }

/-- SETUP_LOCK: the checks of an attempt end; one that no REGISTER_WRITE of LOCK has started starts with the command.
`table` is what reading the ring table gives. -/
def execSetupLock (table : Option (List RingEntry)) (s : State) : Out :=
  if !barOpen s then .next s
  else if s.setup.locked then .next (countViolation s)
  else
    let code := lockCode s table
    let u := { s.setup with err := BitVec.ofNat 8 code, checking := false }
    if code ≠ 0 then .next { s with setup := u }
    else
      let where_ := (u.ringTable, u.ledgerBase, u.ledgerSize)
      let s1 := placeTable (s.lastLock = some where_) (table.getD []) { s with setup := { u with locked := true } }
      .next (settleRb { s1 with lastLock := some where_ })

end Sys2Proof.Machine
end

