-- ==== Sys2Proof/Machine/Stream.lean ====
section
/-! DEFINITION. Class 0x1, stream: rows and markers between ports, bench and vector registers (R77, R85, R88). -/

namespace Sys2Proof.Machine

/-- Rows taken from the staging into the bench: up to `n`, stopping at a marker or at the end of the staging.
Gives the rows still to move, the next row, whether a marker stopped it, and the state. -/
def popRows (c : CoreId) (b : Bound) : List Item → Nat → Nat → State → Nat × Nat × Bool × State
  | .row d p :: rest, n + 1, r, s =>
    let s1 := taskWrite c ((s.core c).phys r) d p s
    let s2 := match s1.queue b.coupe b.handle with
      | none => s1
      | some q => notePop b (s1.setQueue b.coupe b.handle (some q.takeRow))
    popRows c b rest n (r + 1) s2
  | .marker _ :: _, n + 1, r, s => (n + 1, r, true, s)
  | _, n, r, s => (n, r, false, s)

/-- POP: the row and count registers follow every row (R85); a marker at the head ends it early. -/
def execPop (c : CoreId) (f : Fields) (stop : Option Nat) (s : State) : Out :=
  let x := s.core c
  let row := (x.rd f.a.toNat).toNat
  let n := (x.rd f.b.toNat).toNat
  let b := portQueue s c f.sel.toNat
  issue c Op.pop f [(.illegal, !Form.ok ⟨0, 5, 5, 4, 0, 0⟩ f), (.bound, !x.rowsIn row n), (.stream, b.isNone)] (fun s =>
    match b with
    | none => s
    | some b =>
      let s0 := s.setCore c (x.taint (x.rdP f.a.toNat || x.rdP f.b.toNat))
      let lim := pauseAt stop n
      let (n1, r', marker, t) := popRows c b b.queue.staging lim row s0
      let n' := n - (lim - n1)
      let y := ((t.core c).wr f.a.toNat (BitVec.ofNat 64 r') (x.rdP f.a.toNat)).wr f.b.toNat (BitVec.ofNat 64 n')
        (x.rdP f.b.toNat)
      if n' = 0 || marker then completeWith c y t
      else
        let u := if n1 = 0 then pauseWith c y t else stallIn c y b t
        if n' < n then progress u c else u) s

/-- Rows pushed from the bench while the port takes them: the rows still to move, the next row, the state. -/
def pushRows (c : CoreId) (p : Nat) (b : Bound) : Nat → Nat → State → Nat × Nat × State
  | 0, r, s => (0, r, s)
  | n + 1, r, s =>
    match portRoom c p b s with
    | none => (n + 1, r, s)
    | some s0 =>
      let (d, s1) := readBench c ((s0.core c).phys r) 1 s0
      match pushItem c p b (.row d.1 d.2) s1 with
      | none => (n + 1, r, s1)
      | some s2 => pushRows c p b n (r + 1) s2

/-- PUSH: the row and count registers follow every row. -/
def execPush (c : CoreId) (f : Fields) (stop : Option Nat) (s : State) : Out :=
  let x := s.core c
  let row := (x.rd f.a.toNat).toNat
  let n := (x.rd f.b.toNat).toNat
  let b := portQueue s c (4 + f.sel.toNat)
  issue c Op.push f [(.illegal, !Form.ok ⟨0, 5, 5, 4, 0, 0⟩ f), (.bound, !x.rowsIn row n), (.stream, b.isNone)] (fun s =>
    match b with
    | none => s
    | some b =>
      let s0 := s.setCore c (x.taint (x.rdP f.a.toNat || x.rdP f.b.toNat))
      let lim := pauseAt stop n
      let (n1, r', t) := pushRows c (4 + f.sel.toNat) b lim row s0
      let n' := n - (lim - n1)
      let y := ((t.core c).wr f.a.toNat (BitVec.ofNat 64 r') (x.rdP f.a.toNat)).wr f.b.toNat (BitVec.ofNat 64 n')
        (x.rdP f.b.toNat)
      if n' = 0 then completeWith c y t
      else
        let u := if n1 = 0 then pauseWith c y t else stallOut c y b t
        if n' < n then progress u c else u) s

/-- POPV: one row into vD, vD + 1; a marker at the head raises STREAM and stays (R88). -/
def execPopv (c : CoreId) (f : Fields) (s : State) : Out :=
  let x := s.core c
  let b := portQueue s c f.sel.toNat
  let marker := match b with
    | some b => match b.queue.staging with
      | .marker _ :: _ => true
      | _ => false
    | none => false
  issue c Op.popv f [(.illegal, !(Form.ok ⟨4, 0, 0, 4, 0, 0⟩ f && vpairOk f.d)), (.stream, b.isNone || marker)] (fun s =>
    match b with
    | none => s
    | some b =>
      match b.queue.staging with
      | .row d p :: _ =>
        let t := notePop b (s.setQueue b.coupe b.handle (some b.queue.takeRow))
        completeWith c ((x.wrVec f.d.toNat (rowVec d 0) p).wrVec (f.d.toNat + 1) (rowVec d 1) p) t
      | _ => stallIn c x b s) s

/-- PUSHV: vD, vD + 1 as one row. -/
def execPushv (c : CoreId) (f : Fields) (s : State) : Out :=
  let x := s.core c
  let b := portQueue s c (4 + f.sel.toNat)
  issue c Op.pushv f [(.illegal, !(Form.ok ⟨4, 0, 0, 4, 0, 0⟩ f && vpairOk f.d)), (.stream, b.isNone)] (fun s =>
    match b with
    | none => s
    | some b =>
      let it := Item.row (rowOfVecs (x.vec f.d.toNat) (x.vec (f.d.toNat + 1)))
        (x.vecP f.d.toNat || x.vecP (f.d.toNat + 1))
      match pushItem c (4 + f.sel.toNat) b it s with
      | none => stallOut c x b s
      | some t => completeWith c (t.core c) t) s

/-- MARK: pushes an end-of-stream marker (MOD[2:1] = 0) or an empty-output marker (1). -/
def execMark (c : CoreId) (f : Fields) (s : State) : Out :=
  let x := s.core c
  let b := portQueue s c (4 + f.sel.toNat)
  let m := bits f.mod 2 1
  issue c Op.mark f [(.illegal, !(Form.ok ⟨0, 0, 0, 4, 6, 0⟩ f && m < 2)), (.stream, b.isNone)] (fun s =>
    match b with
    | none => s
    | some b =>
      match pushItem c (4 + f.sel.toNat) b (.marker (if m = 0 then .endOfStream else .emptyOutput)) s with
      | none => stallOut c x b s
      | some t => completeWith c (t.core c) t) s

/-- What PEEK writes for a head: 0 row, 1 end of stream, 2 empty output. -/
def Item.peek : Item → BitVec 64
  | .row _ _ => 0
  | .marker .endOfStream => 1
  | .marker .emptyOutput => 2

/-- PEEK: waits until the port holds a head. -/
def execPeek (c : CoreId) (f : Fields) (s : State) : Out :=
  let x := s.core c
  let b := portQueue s c f.sel.toNat
  issue c Op.peek f [(.illegal, !Form.ok ⟨5, 0, 0, 4, 0, 0⟩ f), (.stream, b.isNone)] (fun s =>
    match b with
    | none => s
    | some b =>
      match b.queue.staging with
      | [] => stallIn c x b s
      | it :: _ => completeWith c (x.wr f.d.toNat it.peek false) s) s

/-- DROPM: discards the head marker; a row at the head raises STREAM. With no head it waits (R50). -/
def execDropm (c : CoreId) (f : Fields) (s : State) : Out :=
  let x := s.core c
  let b := portQueue s c f.sel.toNat
  let row := match b with
    | some b => match b.queue.staging with
      | .row _ _ :: _ => true
      | _ => false
    | none => false
  issue c Op.dropm f [(.illegal, !Form.ok ⟨0, 0, 0, 4, 0, 0⟩ f), (.stream, b.isNone || row)] (fun s =>
    match b with
    | none => s
    | some b =>
      match b.queue.staging with
      | [] => stallIn c x b s
      | _ => completeWith c x (s.setQueue b.coupe b.handle (some b.queue.dropMarker))) s

end Sys2Proof.Machine
end

