-- ==== Sys2Proof/Machine/Tap.lean ====
section
/-! DEFINITION. The test access port and the management bus address (R431, R432). -/

namespace Sys2Proof.Machine

/-- IDCODE: version 0x1, part 0x4096, the manufacturer code, and a one. -/
def idcodeValue : BitVec 32 := put 28 1 ||| put 12 0x4096 ||| put 1 Config.manufacturer.toNat ||| put 0 1

/-- Instruction codes (R432). -/
def TapInstr.code : TapInstr → Nat
  | .bypass => 0xFF | .idcode => 0x01 | .samplePreload => 0x02 | .extest => 0x03 | .clamp => 0x04 | .highz => 0x05
  | .extestPulse => 0x06 | .extestTrain => 0x07

/-- An instruction that leaves the lands to the device. -/
def tapFree (i : TapInstr) (s : State) : Out :=
  if s.power.aux then .next { s with tap := i, tapHolds := false } else .next s

/-- An instruction that holds the lands: only while COLD_RST_N is asserted, otherwise BYPASS. -/
def tapHold (i : TapInstr) (s : State) : Out :=
  if !s.power.aux then .next s
  else if s.power.coldRst then .next { s with tap := i, tapHolds := true }
  else .next { s with tap := .bypass, tapHolds := false }

/-- BYPASS. -/
def execBypass (s : State) : Out := tapFree .bypass s
/-- IDCODE. -/
def execIdcode (s : State) : Out := tapFree .idcode s
/-- SAMPLE/PRELOAD. -/
def execSamplePreload (s : State) : Out := tapFree .samplePreload s
/-- EXTEST. -/
def execExtest (s : State) : Out := tapHold .extest s
/-- CLAMP. -/
def execClamp (s : State) : Out := tapHold .clamp s
/-- HIGHZ. -/
def execHighz (s : State) : Out := tapHold .highz s
/-- EXTEST_PULSE. -/
def execExtestPulse (s : State) : Out := tapHold .extestPulse s
/-- EXTEST_TRAIN. -/
def execExtestTrain (s : State) : Out := tapHold .extestTrain s
/-- TRST_N, or test-logic reset. -/
def execTapReset (s : State) : Out := .next { s with tap := .idcode, tapHolds := false }

/-- The 48-bit provisional ID: the low bits of SERIAL (R431). -/
def provisionalId : BitVec 48 := Config.serial.setWidth 48

/-- ENTDAA: the ranger sends its provisional ID on the I3C bus and takes a dynamic address. -/
def execEntdaa (address : BitVec 7) (s : State) : Out :=
  if s.power.aux && s.ranger.running then .next { s with i3c := some address, i3cSent := some provisionalId } else .next s

end Sys2Proof.Machine
end

