-- ==== Sys2Proof/Machine/Vector.lean ====
section
/-! DEFINITION. Class 0x4, vector: lane-wise functions, reductions, softmax steps and moves (R44–R47, R77). -/

namespace Sys2Proof.Machine

/-- A vector operation D := op A B, lane by lane; poison of either source goes with the result (R357). -/
def vec2 (n : Nat) (op : F32 → F32 → F32) (c : CoreId) (f : Fields) (s : State) : Out :=
  issue c n f [(.illegal, !Form.ok ⟨4, 4, 4, 1, 0, 0⟩ f)] (fun s =>
    let x := s.core c
    completeWith c (x.wrVec f.d.toNat (List.zipWith op (x.vec f.a.toNat) (x.vec f.b.toNat))
      (x.vecP f.a.toNat || x.vecP f.b.toNat)) s) s

/-- A vector operation D := op A, lane by lane. -/
def vec1 (n : Nat) (op : F32 → F32) (c : CoreId) (f : Fields) (s : State) : Out :=
  issue c n f [(.illegal, !Form.ok ⟨4, 4, 0, 1, 0, 0⟩ f)] (fun s =>
    let x := s.core c
    completeWith c (x.wrVec f.d.toNat ((x.vec f.a.toNat).map op) (x.vecP f.a.toNat)) s) s

/-- A vector operation D := op A B D, lane by lane. -/
def vec3 (n : Nat) (op : F32 → F32 → F32 → F32) (c : CoreId) (f : Fields) (s : State) : Out :=
  issue c n f [(.illegal, !Form.ok ⟨4, 4, 4, 1, 0, 0⟩ f)] (fun s =>
    let x := s.core c
    let d := x.vec f.d.toNat
    completeWith c (x.wrVec f.d.toNat
      (List.zipWith (fun p z => op p.1 p.2 z) (List.zip (x.vec f.a.toNat) (x.vec f.b.toNat)) d)
      (x.vecP f.a.toNat || x.vecP f.b.toNat || x.vecP f.d.toNat)) s) s

/-- A reduction: lane 0 := the tree of R46 over A, other lanes +0. -/
def vecReduce (n : Nat) (op : F32 → F32 → F32) (c : CoreId) (f : Fields) (s : State) : Out :=
  issue c n f [(.illegal, !Form.ok ⟨4, 4, 0, 1, 0, 0⟩ f)] (fun s =>
    let x := s.core c
    completeWith c (x.wrVec f.d.toNat (hreduce op (x.vec f.a.toNat) :: List.replicate 63 0) (x.vecP f.a.toNat)) s) s

/-- VADD. -/
def execVadd (c : CoreId) (f : Fields) (s : State) : Out := vec2 Op.vadd F32.add c f s
/-- VSUB. -/
def execVsub (c : CoreId) (f : Fields) (s : State) : Out := vec2 Op.vsub F32.sub c f s
/-- VMUL. -/
def execVmul (c : CoreId) (f : Fields) (s : State) : Out := vec2 Op.vmul F32.mul c f s
/-- VFMA: D := fma(A, B, D), one rounding. -/
def execVfma (c : CoreId) (f : Fields) (s : State) : Out := vec3 Op.vfma F32.fma c f s
/-- VMIN. -/
def execVmin (c : CoreId) (f : Fields) (s : State) : Out := vec2 Op.vmin F32.min c f s
/-- VMAX. -/
def execVmax (c : CoreId) (f : Fields) (s : State) : Out := vec2 Op.vmax F32.max c f s
/-- VABS. -/
def execVabs (c : CoreId) (f : Fields) (s : State) : Out := vec1 Op.vabs F32.abs c f s
/-- VNEG. -/
def execVneg (c : CoreId) (f : Fields) (s : State) : Out := vec1 Op.vneg F32.flip c f s
/-- VCSGN: the magnitude of A with the sign of B (log entry 7). -/
def execVcsgn (c : CoreId) (f : Fields) (s : State) : Out := vec2 Op.vcsgn F32.copySign c f s

/-- The comparison that SEL names: 0 <, 1 ≤, 2 =, 3 ≠. -/
def vcmpHolds (sel : Nat) (a b : F32) : Bool :=
  match sel with
  | 0 => F32.lt a b
  | 1 => F32.le a b
  | 2 => F32.eq a b
  | _ => !F32.eq a b

/-- VCMP: lane := 1.0 when the comparison holds, otherwise +0. -/
def execVcmp (c : CoreId) (f : Fields) (s : State) : Out :=
  issue c Op.vcmp f [(.illegal, !Form.ok ⟨4, 4, 4, 4, 0, 0⟩ f)] (fun s =>
    let x := s.core c
    completeWith c (x.wrVec f.d.toNat
      (List.zipWith (fun a b => if vcmpHolds f.sel.toNat a b then F32.one else 0) (x.vec f.a.toNat) (x.vec f.b.toNat))
      (x.vecP f.a.toNat || x.vecP f.b.toNat)) s) s

/-- VSEL: lane := A where D ≠ 0, otherwise B. A NaN is not equal to 0. -/
def execVsel (c : CoreId) (f : Fields) (s : State) : Out :=
  vec3 Op.vsel (fun a b d => if F32.isZero d then b else a) c f s

/-- VRCP. -/
def execVrcp (c : CoreId) (f : Fields) (s : State) : Out := vec1 Op.vrcp F32.recip c f s
/-- VRSQ. -/
def execVrsq (c : CoreId) (f : Fields) (s : State) : Out := vec1 Op.vrsq F32.rsqrt c f s
/-- VEXP. -/
def execVexp (c : CoreId) (f : Fields) (s : State) : Out := vec1 Op.vexp F32.exp c f s
/-- VLOG. -/
def execVlog (c : CoreId) (f : Fields) (s : State) : Out := vec1 Op.vlog F32.log c f s
/-- VHSUM. -/
def execVhsum (c : CoreId) (f : Fields) (s : State) : Out := vecReduce Op.vhsum F32.add c f s
/-- VHMAX. -/
def execVhmax (c : CoreId) (f : Fields) (s : State) : Out := vecReduce Op.vhmax F32.max c f s

/-- VSMX: one softmax step of R47, m in lane 0 of vD and s in lane 0 of vD + 1; the other lanes keep their values. -/
def execVsmx (c : CoreId) (f : Fields) (s : State) : Out :=
  issue c Op.vsmx f [(.illegal, !(Form.ok ⟨4, 4, 0, 1, 0, 0⟩ f && vpairOk f.d))] (fun s =>
    let x := s.core c
    let d := f.d.toNat
    let r := softmaxStep ((x.vec d).headD 0) ((x.vec (d + 1)).headD 0) (x.vec f.a.toNat)
    let p := x.vecP d || x.vecP (d + 1) || x.vecP f.a.toNat
    completeWith c ((x.wrVec d (r.1 :: (x.vec d).tail) p).wrVec (d + 1) (r.2 :: (x.vec (d + 1)).tail) p) s) s

/-- VSMXN: D := exp(D − m) × recip(s) per lane, or +0 when m = −∞. -/
def execVsmxn (c : CoreId) (f : Fields) (s : State) : Out :=
  issue c Op.vsmxn f [(.illegal, !(Form.ok ⟨4, 4, 0, 1, 0, 0⟩ f && vpairOk f.a))] (fun s =>
    let x := s.core c
    let m := (x.vec f.a.toNat).headD 0
    let r := F32.recip ((x.vec (f.a.toNat + 1)).headD 0)
    let out := (x.vec f.d.toNat).map (fun v =>
      if m = F32.negInf then (0 : F32) else F32.mul (F32.exp (F32.sub v m)) r)
    completeWith c (x.wrVec f.d.toNat out (x.vecP f.d.toNat || x.vecP f.a.toNat || x.vecP (f.a.toNat + 1))) s) s

/-- Accumulator rows of one vector: one on a draught core, two on a courser core (R44). -/
def rowsPerVec (c : CoreId) : Nat := if coreCourser c then 2 else 1

/-- VACC: D := the region's vector IMM[7:0]; a vector beyond the region raises REGION. -/
def execVacc (c : CoreId) (f : Fields) (s : State) : Out :=
  let x := s.core c
  let n := rowsPerVec c
  let i := f.imm.toNat
  let ok := match x.region f.a.toNat with
    | some r => (i + 1) * n ≤ r.rows
    | none => false
  issue c Op.vacc f [(.illegal, !Form.ok ⟨4, 3, 0, 1, 0, 8⟩ f), (.region, !ok)] (fun s =>
    match x.region f.a.toNat with
    | none => s
    | some r =>
      let rows := (List.range n).map (fun j => r.first + i * n + j)
      completeWith c (x.wrVec f.d.toNat (rows.flatMap (x.accRow c)) (rows.any x.accRowP)) s) s

/-- VMOVS: D := lane IMM[5:0] of vA, zero-extended. -/
def execVmovs (c : CoreId) (f : Fields) (s : State) : Out :=
  issue c Op.vmovs f [(.illegal, !Form.ok ⟨5, 4, 0, 1, 0, 6⟩ f)] (fun s =>
    let x := s.core c
    completeWith c (x.wr f.d.toNat (((x.vec f.a.toNat).getD f.imm.toNat 0).setWidth 64) (x.vecP f.a.toNat)) s) s

/-- VBCAST: every lane of vD := the low 32 bits of scalar A. -/
def execVbcast (c : CoreId) (f : Fields) (s : State) : Out :=
  issue c Op.vbcast f [(.illegal, !Form.ok ⟨4, 5, 0, 1, 0, 0⟩ f)] (fun s =>
    let x := s.core c
    completeWith c (x.wrVec f.d.toNat (List.replicate 64 ((x.rd f.a.toNat).setWidth 32)) (x.rdP f.a.toNat)) s) s

end Sys2Proof.Machine
end

