-- ==== Sys2Proof/Machine/Dispatch.lean ====
section
/-! DEFINITION. Which meaning each command has: one arm per row of the opcode table. -/

namespace Sys2Proof.Machine

open Sys2Proof

def exec (i : Instr) (s : State) : Host.Outcome State Fault Refusal :=
  match i with
  | .nop c f => Sys2Proof.Machine.execNop c f s
  | .endTask c f => Sys2Proof.Machine.execEndTask c f s
  | .add c f => Sys2Proof.Machine.execAdd c f s
  | .sub c f => Sys2Proof.Machine.execSub c f s
  | .and_ c f => Sys2Proof.Machine.execAnd c f s
  | .or_ c f => Sys2Proof.Machine.execOr c f s
  | .xor_ c f => Sys2Proof.Machine.execXor c f s
  | .shl c f => Sys2Proof.Machine.execShl c f s
  | .shr c f => Sys2Proof.Machine.execShr c f s
  | .sar c f => Sys2Proof.Machine.execSar c f s
  | .mul c f => Sys2Proof.Machine.execMul c f s
  | .slt c f => Sys2Proof.Machine.execSlt c f s
  | .sltu c f => Sys2Proof.Machine.execSltu c f s
  | .seq c f => Sys2Proof.Machine.execSeq c f s
  | .li c f => Sys2Proof.Machine.execLi c f s
  | .br c f => Sys2Proof.Machine.execBr c f s
  | .beq c f => Sys2Proof.Machine.execBeq c f s
  | .bne c f => Sys2Proof.Machine.execBne c f s
  | .blt c f => Sys2Proof.Machine.execBlt c f s
  | .bge c f => Sys2Proof.Machine.execBge c f s
  | .loop c f => Sys2Proof.Machine.execLoop c f s
  | .jal c f => Sys2Proof.Machine.execJal c f s
  | .jr c f => Sys2Proof.Machine.execJr c f s
  | .pop c f stop => Sys2Proof.Machine.execPop c f stop s
  | .push c f stop => Sys2Proof.Machine.execPush c f stop s
  | .popv c f => Sys2Proof.Machine.execPopv c f s
  | .pushv c f => Sys2Proof.Machine.execPushv c f s
  | .mark c f => Sys2Proof.Machine.execMark c f s
  | .peek c f => Sys2Proof.Machine.execPeek c f s
  | .dropm c f => Sys2Proof.Machine.execDropm c f s
  | .bcopy c f stop => Sys2Proof.Machine.execBcopy c f stop s
  | .rdw c f => Sys2Proof.Machine.execRdw c f s
  | .ldv c f => Sys2Proof.Machine.execLdv c f s
  | .stv c f => Sys2Proof.Machine.execStv c f s
  | .rread c f => Sys2Proof.Machine.execRread c f s
  | .rwrite c f stop => Sys2Proof.Machine.execRwrite c f stop s
  | .wset c f => Sys2Proof.Machine.execWset c f s
  | .wclr c f => Sys2Proof.Machine.execWclr c f s
  | .mreg c f stop => Sys2Proof.Machine.execMreg c f stop s
  | .mpass c f conflict stop wload => Sys2Proof.Machine.execMpass c f conflict stop wload s
  | .vadd c f => Sys2Proof.Machine.execVadd c f s
  | .vsub c f => Sys2Proof.Machine.execVsub c f s
  | .vmul c f => Sys2Proof.Machine.execVmul c f s
  | .vfma c f => Sys2Proof.Machine.execVfma c f s
  | .vmin c f => Sys2Proof.Machine.execVmin c f s
  | .vmax c f => Sys2Proof.Machine.execVmax c f s
  | .vabs c f => Sys2Proof.Machine.execVabs c f s
  | .vneg c f => Sys2Proof.Machine.execVneg c f s
  | .vcsgn c f => Sys2Proof.Machine.execVcsgn c f s
  | .vcmp c f => Sys2Proof.Machine.execVcmp c f s
  | .vsel c f => Sys2Proof.Machine.execVsel c f s
  | .vrcp c f => Sys2Proof.Machine.execVrcp c f s
  | .vrsq c f => Sys2Proof.Machine.execVrsq c f s
  | .vexp c f => Sys2Proof.Machine.execVexp c f s
  | .vlog c f => Sys2Proof.Machine.execVlog c f s
  | .vhsum c f => Sys2Proof.Machine.execVhsum c f s
  | .vhmax c f => Sys2Proof.Machine.execVhmax c f s
  | .vsmx c f => Sys2Proof.Machine.execVsmx c f s
  | .vsmxn c f => Sys2Proof.Machine.execVsmxn c f s
  | .vacc c f => Sys2Proof.Machine.execVacc c f s
  | .vmovs c f => Sys2Proof.Machine.execVmovs c f s
  | .vbcast c f => Sys2Proof.Machine.execVbcast c f s
  | .qcw c f => Sys2Proof.Machine.execQcw c f s
  | .qcb c f => Sys2Proof.Machine.execQcb c f s
  | .qcvt c f stop => Sys2Proof.Machine.execQcvt c f stop s
  | .qflush c f stop => Sys2Proof.Machine.execQflush c f stop s
  | .waitu c f => Sys2Proof.Machine.execWaitu c f s
  | .fencer c f => Sys2Proof.Machine.execFencer c f s
  | .arrive c f => Sys2Proof.Machine.execArrive c f s
  | .waitb c f => Sys2Proof.Machine.execWaitb c f s
  | .rdsys c f => Sys2Proof.Machine.execRdsys c f s
  | .trap c f => Sys2Proof.Machine.execTrap c f s
  | .tmask c f => Sys2Proof.Machine.execTmask c f s
  | .topk c f stop => Sys2Proof.Machine.execTopk c f stop s
  | .taskDispatch c record => Sys2Proof.Machine.execTaskDispatch c record s
  | .taskRetire c => Sys2Proof.Machine.execTaskRetire c s
  | .halt c => Sys2Proof.Machine.execHalt c s
  | .coreHalted c => Sys2Proof.Machine.execCoreHalted c s
  | .coreDeadTimeout c => Sys2Proof.Machine.execCoreDeadTimeout c s
  | .coreReset c q => Sys2Proof.Machine.execCoreReset c q s
  | .coupeReset k q => Sys2Proof.Machine.execCoupeReset k q s
  | .benchStarvation c row kind => Sys2Proof.Machine.execBenchStarvation c row kind s
  | .scrubRow c => Sys2Proof.Machine.execScrubRow c s
  | .remoteReadRequest c => Sys2Proof.Machine.execRemoteReadRequest c s
  | .remoteReadReply c => Sys2Proof.Machine.execRemoteReadReply c s
  | .windowRowArrival c => Sys2Proof.Machine.execWindowRowArrival c s
  | .rwriteAcknowledgement c => Sys2Proof.Machine.execRwriteAcknowledgement c s
  | .streamRowArrival k h => Sys2Proof.Machine.execStreamRowArrival k h s
  | .slackRefill k h => Sys2Proof.Machine.execSlackRefill k h s
  | .creditReturn k h => Sys2Proof.Machine.execCreditReturn k h s
  | .skidRow k c => Sys2Proof.Machine.execSkidRow k c s
  | .barrierArrival a => Sys2Proof.Machine.execBarrierArrival a s
  | .moverTransfer m w n host => Sys2Proof.Machine.execMoverTransfer m w n host s
  | .moverTransferComplete m host => Sys2Proof.Machine.execMoverTransferComplete m host s
  | .transferDeadline m => Sys2Proof.Machine.execTransferDeadline m s
  | .allocationRetry p => Sys2Proof.Machine.execAllocationRetry p s
  | .allocationWaitExpiry p => Sys2Proof.Machine.execAllocationWaitExpiry p s
  | .memoryPatrol unit => Sys2Proof.Machine.execMemoryPatrol unit s
  | .doorbellWrite r count => Sys2Proof.Machine.execDoorbellWrite r count s
  | .pollRound counts => Sys2Proof.Machine.execPollRound counts s
  | .descriptorFetch ds => Sys2Proof.Machine.execDescriptorFetch ds s
  | .commit => Sys2Proof.Machine.execCommit s
  | .bark => Sys2Proof.Machine.execBark s
  | .loadImage q shards => Sys2Proof.Machine.execLoadImage q shards s
  | .unloadImage q => Sys2Proof.Machine.execUnloadImage q s
  | .bind q => Sys2Proof.Machine.execBind q s
  | .drain q => Sys2Proof.Machine.execDrain q s
  | .coupeDrained k => Sys2Proof.Machine.execCoupeDrained k s
  | .coupeCreate q => Sys2Proof.Machine.execCoupeCreate q s
  | .coupeSet q => Sys2Proof.Machine.execCoupeSet q s
  | .coupeDestroy q => Sys2Proof.Machine.execCoupeDestroy q s
  | .coupePreempt q => Sys2Proof.Machine.execCoupePreempt q s
  | .coupeQuiesced k => Sys2Proof.Machine.execCoupeQuiesced k s
  | .saveComplete k => Sys2Proof.Machine.execSaveComplete k s
  | .coupeResume q => Sys2Proof.Machine.execCoupeResume q s
  | .resumeComplete k => Sys2Proof.Machine.execResumeComplete k s
  | .jobSwitch k => Sys2Proof.Machine.execJobSwitch k s
  | .spanSet q => Sys2Proof.Machine.execSpanSet q s
  | .saltSet q => Sys2Proof.Machine.execSaltSet q s
  | .saltUnset q => Sys2Proof.Machine.execSaltUnset q s
  | .expertMap q map => Sys2Proof.Machine.execExpertMap q map s
  | .selfTest q => Sys2Proof.Machine.execSelfTest q s
  | .selfTestComplete target index finding => Sys2Proof.Machine.execSelfTestComplete target index finding s
  | .repairSoft q => Sys2Proof.Machine.execRepairSoft q s
  | .repairHard q => Sys2Proof.Machine.execRepairHard q s
  | .ringSet q entry => Sys2Proof.Machine.execRingSet q entry s
  | .power q => Sys2Proof.Machine.execPower q s
  | .clock q => Sys2Proof.Machine.execClock q s
  | .clockChangeApply g => Sys2Proof.Machine.execClockChangeApply g s
  | .ballast q => Sys2Proof.Machine.execBallast q s
  | .ballastUpdate inputPower => Sys2Proof.Machine.execBallastUpdate inputPower s
  | .seqOpen q tokens => Sys2Proof.Machine.execSeqOpen q tokens s
  | .seqClose q => Sys2Proof.Machine.execSeqClose q s
  | .cancel q => Sys2Proof.Machine.execCancel q s
  | .cancelImmediate q => Sys2Proof.Machine.execCancelImmediate q s
  | .cancelRelease slot => Sys2Proof.Machine.execCancelRelease slot s
  | .pin q => Sys2Proof.Machine.execPin q s
  | .unpin q => Sys2Proof.Machine.execUnpin q s
  | .unpinAll q => Sys2Proof.Machine.execUnpinAll q s
  | .step q => Sys2Proof.Machine.execStep q s
  | .prefill q src => Sys2Proof.Machine.execPrefill q src s
  | .verify q src => Sys2Proof.Machine.execVerify q src s
  | .fence q => Sys2Proof.Machine.execFence q s
  | .fenceExpired q => Sys2Proof.Machine.execFenceExpired q s
  | .nopDescriptor q => Sys2Proof.Machine.execNopDescriptor q s
  | .stepOpen k rearm => Sys2Proof.Machine.execStepOpen k rearm s
  | .thresholdRouteDispatch k layer => Sys2Proof.Machine.execThresholdRouteDispatch k layer s
  | .sentinelEvaluation => Sys2Proof.Machine.execSentinelEvaluation s
  | .shardDeadline k => Sys2Proof.Machine.execShardDeadline k s
  | .stepReplay k => Sys2Proof.Machine.execStepReplay k s
  | .patrol c firstOk secondOk => Sys2Proof.Machine.execPatrol c firstOk secondOk s
  | .benchMoveComplete c => Sys2Proof.Machine.execBenchMoveComplete c s
  | .scentRebuild => Sys2Proof.Machine.execScentRebuild s
  | .standLost g cause => Sys2Proof.Machine.execStandLost g cause s
  | .sramDieFailure sec die => Sys2Proof.Machine.execSramDieFailure sec die s
  | .deckStackFailure sec => Sys2Proof.Machine.execDeckStackFailure sec s
  | .yardChannelFailure ch => Sys2Proof.Machine.execYardChannelFailure ch s
  | .sensorPoll readings => Sys2Proof.Machine.execSensorPoll readings s
  | .thermalTrip g => Sys2Proof.Machine.execThermalTrip g s
  | .tripWarmResetRelease hottest => Sys2Proof.Machine.execTripWarmResetRelease hottest s
  | .auxPowerOn => Sys2Proof.Machine.execAuxPowerOn s
  | .auxPowerLoss => Sys2Proof.Machine.execAuxPowerLoss s
  | .mainPowerOn mv => Sys2Proof.Machine.execMainPowerOn mv s
  | .mainPowerLoss => Sys2Proof.Machine.execMainPowerLoss s
  | .railRampTimeout rail n reading => Sys2Proof.Machine.execRailRampTimeout rail n reading s
  | .railRetry rail n => Sys2Proof.Machine.execRailRetry rail n s
  | .railOutOfRegulation rail n reading => Sys2Proof.Machine.execRailOutOfRegulation rail n reading s
  | .bringUpComplete found => Sys2Proof.Machine.execBringUpComplete found s
  | .standCalibrated g mv => Sys2Proof.Machine.execStandCalibrated g mv s
  | .coldReset t => Sys2Proof.Machine.execColdReset t s
  | .warmReset t => Sys2Proof.Machine.execWarmReset t s
  | .perstRelease => Sys2Proof.Machine.execPerstRelease s
  | .functionLevelReset f => Sys2Proof.Machine.execFunctionLevelReset f s
  | .busMasterEnable f => Sys2Proof.Machine.execBusMasterEnable f s
  | .hostLinkRetrain => Sys2Proof.Machine.execHostLinkRetrain s
  | .hostLinkRestored rate width => Sys2Proof.Machine.execHostLinkRestored rate width s
  | .cxlCacheEnableChange on counts => Sys2Proof.Machine.execCxlCacheEnableChange on counts s
  | .wholeDeviceDrain => Sys2Proof.Machine.execWholeDeviceDrain s
  | .rangerWatchdog => Sys2Proof.Machine.execRangerWatchdog s
  | .telemetrySample => Sys2Proof.Machine.execTelemetrySample s
  | .firmwareUpdate ranger verified version => Sys2Proof.Machine.execFirmwareUpdate ranger verified version s
  | .coordinateRecord w => Sys2Proof.Machine.execCoordinateRecord w s
  | .setupLock table => Sys2Proof.Machine.execSetupLock table s
  | .warmRst alsoLock => Sys2Proof.Machine.execWarmRst alsoLock s
  | .registerWrite f offset size value => Sys2Proof.Machine.execRegisterWrite f offset size value s
  | .linkSignalDetect l lanes => Sys2Proof.Machine.execLinkSignalDetect l lanes s
  | .linkTrainComplete l lanes half => Sys2Proof.Machine.execLinkTrainComplete l lanes half s
  | .linkTrainTimeout l => Sys2Proof.Machine.execLinkTrainTimeout l s
  | .linkProbeRetry l => Sys2Proof.Machine.execLinkProbeRetry l s
  | .linkAuth l r => Sys2Proof.Machine.execLinkAuth l r s
  | .linkAuthTimeout l => Sys2Proof.Machine.execLinkAuthTimeout l s
  | .linkSignalLoss l => Sys2Proof.Machine.execLinkSignalLoss l s
  | .linkErrorFallback l errors => Sys2Proof.Machine.execLinkErrorFallback l errors s
  | .linkFence l cause => Sys2Proof.Machine.execLinkFence l cause s
  | .linkNak l ack => Sys2Proof.Machine.execLinkNak l ack s
  | .row l header data => Sys2Proof.Machine.execRow l header data s
  | .credit l header count => Sys2Proof.Machine.execCredit l header count s
  | .outcome l header xtag attempt nreq status statuses digest count => Sys2Proof.Machine.execOutcome l header xtag attempt nreq status statuses digest count s
  | .flush l header => Sys2Proof.Machine.execFlush l header s
  | .announce l header members reach => Sys2Proof.Machine.execAnnounce l header members reach s
  | .bundle l header layer sender pairs => Sys2Proof.Machine.execBundle l header layer sender pairs s
  | .spdm l message => Sys2Proof.Machine.execSpdm l message s
  | .coord l record => Sys2Proof.Machine.execCoord l record s
  | .ethWorkRequest qp func port op buf cost reply => Sys2Proof.Machine.execEthWorkRequest qp func port op buf cost reply s
  | .ethFrameReceive port frame => Sys2Proof.Machine.execEthFrameReceive port frame s
  | .seqImportComplete qp blocks => Sys2Proof.Machine.execSeqImportComplete qp blocks s
  | .ethPortLinkChange port up => Sys2Proof.Machine.execEthPortLinkChange port up s
  | .bypass => Sys2Proof.Machine.execBypass s
  | .idcode => Sys2Proof.Machine.execIdcode s
  | .samplePreload => Sys2Proof.Machine.execSamplePreload s
  | .extest => Sys2Proof.Machine.execExtest s
  | .clamp => Sys2Proof.Machine.execClamp s
  | .highz => Sys2Proof.Machine.execHighz s
  | .extestPulse => Sys2Proof.Machine.execExtestPulse s
  | .extestTrain => Sys2Proof.Machine.execExtestTrain s
  | .tapReset => Sys2Proof.Machine.execTapReset s
  | .flit l w corrected => Sys2Proof.Machine.execFlit l w corrected s
  | .fastRetrainComplete l => Sys2Proof.Machine.execFastRetrainComplete l s
  | .railInRegulation rail n => Sys2Proof.Machine.execRailInRegulation rail n s
  | .auxReady => Sys2Proof.Machine.execAuxReady s
  | .rangerRestart => Sys2Proof.Machine.execRangerRestart s
  | .releasePoint => Sys2Proof.Machine.execReleasePoint s
  | .wholeDeviceDrainTimeout => Sys2Proof.Machine.execWholeDeviceDrainTimeout s
  | .mrefLoss second => Sys2Proof.Machine.execMrefLoss second s
  | .coldRstNRelease => Sys2Proof.Machine.execColdRstNRelease s
  | .entdaa address => Sys2Proof.Machine.execEntdaa address s

end Sys2Proof.Machine
end

