-- ==== Sys2Proof/WellFormed.lean ====
section
/-! DEFINITION. Which command terms are well formed: operands within the ranges that the spec gives them. -/

namespace Sys2Proof

/-- A mover is one of a sector (agent 0–7) or of the host-link island (agent 16, R382). -/
def MoverId.wf (m : MoverId) : Bool := m.agent.toNat < 8 || m.agent.toNat = 16

/-- Bench rows are 0–30,719 (R95). -/
def rowWf (r : BitVec 15) : Bool := r.toNat ≤ 30719

/-- Sizes of register accesses (R412). -/
def sizeWf (n : BitVec 4) : Bool := n = 1 || n = 2 || n = 4 || n = 8

/-- Functions are 0–7; a link works at full or half width on lanes it names (R341). -/
def lanesWf (l : BitVec 4) : Bool := l ≠ 0

/-- A converter belongs to one of the 128 stands (R386, R406). -/
def Sensor.wf : Sensor → Bool
  | .converter i => i.toNat < 128
  | _ => true

/-- How many instances each rail has (R386). -/
def Rail.count : Rail → Nat
  | .ib => 4
  | .aon => 1
  | .hsio => 1
  | .lnk => 4
  | .fab => 8
  | .deck => 8
  | .yphy => 8
  | .sram => 8
  | .core => 128

def railWf (r : Rail) (i : BitVec 8) : Bool := i.toNat < r.count

/-- A self-test target with its index (R376). -/
def targetWf (t : BitVec 8) (i : BitVec 16) : Bool :=
  match t.toNat with
  | 1 => i.toNat < 128
  | 2 => i.toNat < 8
  | 3 => i.toNat < 16
  | 4 => i.toNat < 24
  | 5 => i.toNat < 2
  | 6 => i.toNat < 8
  | _ => false

/-- SEQ buffers name at least one block (R354). -/
def EthBuffer.wf : EthBuffer → Bool
  | .seq _ _ _ b => b ≠ 0
  | _ => true

/-- Whether every operand of a command lies in its range; a stand has 34 physical cores (R66). -/
def Instr.wf : Instr → Bool
  | .benchStarvation _ r _ => rowWf r
  | .bringUpComplete b => b.unfit.all (fun u => u.2.toNat < 34)
  | .moverTransfer m _ _ _ => m.wf
  | .moverTransferComplete m _ => m.wf
  | .transferDeadline m => m.wf
  | .registerWrite _ _ n _ => sizeWf n
  | .linkTrainComplete _ l _ => lanesWf l
  | .linkErrorFallback _ (.confined l) => lanesWf l
  | .sensorPoll rs => rs.all (fun r => r.1.wf)
  | .railRampTimeout r i _ => railWf r i
  | .railRetry r i => railWf r i
  | .railOutOfRegulation r i _ => railWf r i
  | .railInRegulation r i => railWf r i
  | .row _ h _ => bits h 127 120 = 1
  | .credit _ h _ => bits h 127 120 = 2
  | .outcome _ h _ _ _ _ _ _ _ => bits h 127 120 = 3
  | .flush _ h => bits h 127 120 = 4
  | .announce _ h _ _ => bits h 127 120 = 5
  | .bundle _ h _ _ _ => bits h 127 120 = 6
  | .selfTestComplete t i _ => targetWf t i
  | .ethWorkRequest _ _ _ _ b _ _ => b.wf
  | _ => true

end Sys2Proof
end

