-- ==== Sys2Proof/Safety.lean ====
section
/-! DEFINITION. The words in which the statements speak: when a core issues, what an instruction leaves unchanged, and
the invariants that every step keeps. -/

namespace Sys2Proof.Machine

/-- A step that gives a next state. -/
def Runs (s : State) : Prop := ∃ t, step s = .next t

/-! ## Core instructions -/

/-- The scalar unit of core `c` issues: its task is in Run, no halt is wanted, the program counter's row lies within BOUND
(R57, R60, R72), and the word there has an assigned operation (R76). -/
def Issues (c : CoreId) (s : State) : Prop :=
  (s.core c).ready = true ∧ (s.core c).codeOut = false ∧ opAssigned (Word.op (codeWord s c)) = true

/-- The core, the operation (R77) and the fields of a core instruction; none for any other command. -/
def coreInstr : Instr → Option (CoreId × Nat × Fields)
  | .nop c f => some (c, Op.nop, f)
  | .endTask c f => some (c, Op.endTask, f)
  | .add c f => some (c, Op.add, f)
  | .sub c f => some (c, Op.sub, f)
  | .and_ c f => some (c, Op.and_, f)
  | .or_ c f => some (c, Op.or_, f)
  | .xor_ c f => some (c, Op.xor_, f)
  | .shl c f => some (c, Op.shl, f)
  | .shr c f => some (c, Op.shr, f)
  | .sar c f => some (c, Op.sar, f)
  | .mul c f => some (c, Op.mul, f)
  | .slt c f => some (c, Op.slt, f)
  | .sltu c f => some (c, Op.sltu, f)
  | .seq c f => some (c, Op.seq, f)
  | .li c f => some (c, Op.li, f)
  | .br c f => some (c, Op.br, f)
  | .beq c f => some (c, Op.beq, f)
  | .bne c f => some (c, Op.bne, f)
  | .blt c f => some (c, Op.blt, f)
  | .bge c f => some (c, Op.bge, f)
  | .loop c f => some (c, Op.loop, f)
  | .jal c f => some (c, Op.jal, f)
  | .jr c f => some (c, Op.jr, f)
  | .pop c f _ => some (c, Op.pop, f)
  | .push c f _ => some (c, Op.push, f)
  | .popv c f => some (c, Op.popv, f)
  | .pushv c f => some (c, Op.pushv, f)
  | .mark c f => some (c, Op.mark, f)
  | .peek c f => some (c, Op.peek, f)
  | .dropm c f => some (c, Op.dropm, f)
  | .bcopy c f _ => some (c, Op.bcopy, f)
  | .rdw c f => some (c, Op.rdw, f)
  | .ldv c f => some (c, Op.ldv, f)
  | .stv c f => some (c, Op.stv, f)
  | .rread c f => some (c, Op.rread, f)
  | .rwrite c f _ => some (c, Op.rwrite, f)
  | .wset c f => some (c, Op.wset, f)
  | .wclr c f => some (c, Op.wclr, f)
  | .mreg c f _ => some (c, Op.mreg, f)
  | .mpass c f _ _ _ => some (c, Op.mpass, f)
  | .vadd c f => some (c, Op.vadd, f)
  | .vsub c f => some (c, Op.vsub, f)
  | .vmul c f => some (c, Op.vmul, f)
  | .vfma c f => some (c, Op.vfma, f)
  | .vmin c f => some (c, Op.vmin, f)
  | .vmax c f => some (c, Op.vmax, f)
  | .vabs c f => some (c, Op.vabs, f)
  | .vneg c f => some (c, Op.vneg, f)
  | .vcsgn c f => some (c, Op.vcsgn, f)
  | .vcmp c f => some (c, Op.vcmp, f)
  | .vsel c f => some (c, Op.vsel, f)
  | .vrcp c f => some (c, Op.vrcp, f)
  | .vrsq c f => some (c, Op.vrsq, f)
  | .vexp c f => some (c, Op.vexp, f)
  | .vlog c f => some (c, Op.vlog, f)
  | .vhsum c f => some (c, Op.vhsum, f)
  | .vhmax c f => some (c, Op.vhmax, f)
  | .vsmx c f => some (c, Op.vsmx, f)
  | .vsmxn c f => some (c, Op.vsmxn, f)
  | .vacc c f => some (c, Op.vacc, f)
  | .vmovs c f => some (c, Op.vmovs, f)
  | .vbcast c f => some (c, Op.vbcast, f)
  | .qcw c f => some (c, Op.qcw, f)
  | .qcb c f => some (c, Op.qcb, f)
  | .qcvt c f _ => some (c, Op.qcvt, f)
  | .qflush c f _ => some (c, Op.qflush, f)
  | .waitu c f => some (c, Op.waitu, f)
  | .fencer c f => some (c, Op.fencer, f)
  | .arrive c f => some (c, Op.arrive, f)
  | .waitb c f => some (c, Op.waitb, f)
  | .rdsys c f => some (c, Op.rdsys, f)
  | .trap c f => some (c, Op.trap, f)
  | .tmask c f => some (c, Op.tmask, f)
  | .topk c f _ => some (c, Op.topk, f)
  | _ => none

/-- The core that issues a core instruction; none for any other command. -/
def coreOfInstr (i : Instr) : Option CoreId := (coreInstr i).map (·.1)

/-- A core instruction is issued now, rather than going on from a queue, and depends on no earlier one that has not completed
(R83). -/
def Issued (i : Instr) (s : State) : Prop :=
  match coreInstr i with
  | none => True
  | some (c, op, f) =>
    Issues c s ∧ (s.core c).queue.find? (fun e => e.op = op && e.f = f) = none ∧ (s.core c).blocker op f = none

/-- It also starts at once: no earlier instruction of its unit is waiting (R83). -/
def Starts (i : Instr) (s : State) : Prop :=
  Issued i s ∧ (match coreInstr i with
    | none => True
    | some (c, op, _) => ∀ u, opUnit op = some u → (s.core c).inUnit u = [])

/-- No byte of memory differs. -/
def SameBytes (s t : State) : Prop := ∀ a, Memory.byte a t.mem = Memory.byte a s.mem

/-- No core but `c` differs. -/
def OtherCoresSame (c : CoreId) (s t : State) : Prop := ∀ d, d ≠ c → t.core d = s.core d

/-- What the coupes are doing differs at most in the time of their last progress (R140). -/
def RunsSame (s t : State) : Prop := ∀ k, t.run k = { s.run k with lastProgress := (t.run k).lastProgress }

/-- Nothing but core `c` and the time of its coupe's last progress differs. -/
def OnlyCore (c : CoreId) (s t : State) : Prop :=
  SameBytes s t ∧ OtherCoresSame c s t ∧ RunsSame s t ∧ t = { s with cores := t.cores, runs := t.runs }

/-- As `OnlyCore`, but reading bench rows may have poisoned a row or mended its copies of poison (R114). -/
def OnlyCoreReading (c : CoreId) (s t : State) : Prop :=
  SameBytes s t ∧ OtherCoresSame c s t ∧ RunsSame s t
    ∧ t = { s with cores := t.cores, runs := t.runs, poison := t.poison, rowErrors := t.rowErrors, leaseHits := t.leaseHits }

/-- As `OnlyCore`, but the bytes of `rows` bench rows from physical row `r` of core `c` on may differ, with their poison
and stored errors. -/
def OnlyCoreAndRows (c : CoreId) (r rows : Nat) (s t : State) : Prop :=
  (∀ a, (a < benchAddr c r ∨ benchAddr c (r + rows) ≤ a) → Memory.byte a t.mem = Memory.byte a s.mem)
    ∧ OtherCoresSame c s t ∧ RunsSame s t
    ∧ t = { s with cores := t.cores, runs := t.runs, mem := t.mem, poison := t.poison, rowErrors := t.rowErrors, leaseHits := t.leaseHits }

/-- The instruction completed as the core's busy cycle, and left nothing in its unit's queue. -/
def Advanced (x y : Core) : Prop :=
  y.pc = x.pc + 1 ∧ y.stall = .busy ∧ y.stallSince = 0 ∧ y.queue = x.queue ∧ y.issueSeq = x.issueSeq
    ∧ y.lastQueue = x.lastQueue

/-- The scalar unit stays at the instruction, waiting in category `k` (R63, R83). -/
def Waits (k : Stall) (x y : Core) : Prop := y.pc = x.pc ∧ y.stall = k ∧ y.phase = .run ∧ y.queue = x.queue

/-- The unit keeps the instruction in its queue, waiting in category `k`, and the scalar unit goes on with the next one
(R63, R83, R85). -/
def WaitsQueued (op : Nat) (f : Fields) (k : Stall) (x y : Core) : Prop :=
  y.pc = x.pc + 1 ∧ y.stall = k ∧ y.phase = .run ∧ y.issueSeq = x.issueSeq + 1
    ∧ ∃ h, y.queue = x.queue ++ [⟨x.pc, op, f, x.issueSeq, k, h⟩]

/-- The unit keeps the instruction in its queue at an interruption point, and it goes on when it is sent again (R91). -/
def PausesQueued (op : Nat) (f : Fields) (x y : Core) : Prop := WaitsQueued op f .busy x y ∧ y.stallSince = 0

/-- The instruction completed, or stopped at an interruption point before it was done (R85, R91). -/
def EndsOrPauses (op : Nat) (f : Fields) (done : Prop) (x y : Core) : Prop :=
  (done → Advanced x y) ∧ (¬done → PausesQueued op f x y)

/-- Every scalar register but `d` keeps its value and poison; `d` holds `v` with poison `p`, but g0 reads zero. -/
def ScalarIs (d : BitVec 5) (v : BitVec 64) (p : Bool) (x y : Core) : Prop :=
  (∀ r, y.rd r = if r = d.toNat ∧ r ≠ 0 then v else x.rd r) ∧ (∀ r, y.rdP r = if r = d.toNat ∧ r ≠ 0 then p else x.rdP r)

/-- Nothing of the core but its scalar registers, its program counter and its cycle bookkeeping differs. -/
def ScalarFrame (x y : Core) : Prop :=
  y = { x with g := y.g, gPoison := y.gPoison, pc := y.pc, counters := y.counters, counted := y.counted,
               stall := y.stall, stallSince := y.stallSince, lastQueue := y.lastQueue, queue := y.queue, issueSeq := y.issueSeq }

/-- As `ScalarFrame`, but the task may have become tainted (R358). -/
def TaintFrame (x y : Core) : Prop :=
  y = { x with g := y.g, gPoison := y.gPoison, pc := y.pc, counters := y.counters, counted := y.counted,
               stall := y.stall, stallSince := y.stallSince, lastQueue := y.lastQueue, queue := y.queue, issueSeq := y.issueSeq,
               tainted := y.tainted }

/-- Once it starts, command `i` of core `c` writes `v` with poison `p` to scalar register `d`, moves to the next instruction
and changes nothing else. -/
def WritesScalar (i : Instr) (c : CoreId) (d : BitVec 5) (v : BitVec 64) (p : Bool) (s : State) : Prop :=
  Starts i s → ∃ t, exec i s = .next t ∧ OnlyCore c s t ∧ Advanced (s.core c) (t.core c)
    ∧ ScalarIs d v p (s.core c) (t.core c) ∧ ScalarFrame (s.core c) (t.core c)

/-- Vector register `d` holds the lanes `ls` with poison `p`, and every other keeps its lanes and poison. -/
def VectorIs (d : Nat) (ls : List F32) (p : Bool) (x y : Core) : Prop :=
  y.vec d = ls ∧ y.vecP d = p ∧ (∀ r, r ≠ d → y.vec r = x.vec r ∧ y.vecP r = x.vecP r)

/-- Nothing of the core but its vector registers, its program counter and its cycle bookkeeping differs. -/
def VectorFrame (x y : Core) : Prop :=
  y = { x with v := y.v, vPoison := y.vPoison, pc := y.pc, counters := y.counters, counted := y.counted,
               stall := y.stall, stallSince := y.stallSince, lastQueue := y.lastQueue, queue := y.queue, issueSeq := y.issueSeq }

/-- Once it starts, command `i` of core `c` writes the lanes `ls` with poison `p` to vector register `d`, moves to the next
instruction and changes nothing else. -/
def WritesVector (i : Instr) (c : CoreId) (d : Nat) (ls : List F32) (p : Bool) (s : State) : Prop :=
  Starts i s → ∃ t, exec i s = .next t ∧ OnlyCore c s t ∧ Advanced (s.core c) (t.core c)
    ∧ VectorIs d ls p (s.core c) (t.core c) ∧ VectorFrame (s.core c) (t.core c)

/-- Lane by lane. -/
def lanes2 (op : F32 → F32 → F32) (a b : List F32) : List F32 := (List.range 64).map (fun j => op (a.getD j 0) (b.getD j 0))
def lanes1 (op : F32 → F32) (a : List F32) : List F32 := (List.range 64).map (fun j => op (a.getD j 0))
def lanes3 (op : F32 → F32 → F32 → F32) (a b d : List F32) : List F32 :=
  (List.range 64).map (fun j => op (a.getD j 0) (b.getD j 0) (d.getD j 0))

/-- Command `i` of core `c` ends the core's task with exception `k`: the program counter, every register, the instructions
still running and memory stay (R59, R88). -/
def TakesException (i : Instr) (c : CoreId) (k : ExcClass) (s : State) : Prop :=
  ∃ t, exec i s = .next t ∧ (t.core c).phase = .retire ∧ (t.core c).exc = k ∧ (t.core c).pc = (s.core c).pc
    ∧ (t.core c).g = (s.core c).g ∧ (t.core c).v = (s.core c).v ∧ (t.core c).acc = (s.core c).acc
    ∧ (t.core c).queue = (s.core c).queue ∧ OtherCoresSame c s t ∧ t = { s with cores := t.cores }

/-- Nothing of the core but its registers, its program counter, its cycle bookkeeping, its taint and its bench error log
differs. -/
def ReadFrame (x y : Core) : Prop :=
  y = { x with g := y.g, gPoison := y.gPoison, v := y.v, vPoison := y.vPoison, pc := y.pc, counters := y.counters,
               counted := y.counted, stall := y.stall, stallSince := y.stallSince, lastQueue := y.lastQueue,
               queue := y.queue, issueSeq := y.issueSeq, tainted := y.tainted, errLog := y.errLog }

/-- As `ReadFrame`, but vector registers stay and the staging of output ports may be written; every port stages what it
did. -/
def PortFrame (x y : Core) : Prop :=
  y = { x with g := y.g, gPoison := y.gPoison, pc := y.pc, counters := y.counters, counted := y.counted,
               stall := y.stall, stallSince := y.stallSince, lastQueue := y.lastQueue, queue := y.queue, issueSeq := y.issueSeq,
               tainted := y.tainted, errLog := y.errLog, outStage := y.outStage }
    ∧ ∀ p, y.outStage.get [] p = x.outStage.get [] p

/-- Queue `h` of coupe `k` is `q`, and no other queue of any coupe differs. -/
def QueueIs (k : CoupeId) (h : BitVec 16) (q : Queue) (s t : State) : Prop :=
  t.queue k h = some q ∧ ∀ j g, ¬(j = k ∧ g = h) → t.queue j g = s.queue j g

/-- What the coupes are doing differs at most in their queues, in whether the open step can be replayed and in the time of
their last progress. -/
def QueueRuns (s t : State) : Prop := ∀ k, t.run k =
  { s.run k with queues := (t.run k).queues, openStep := (t.run k).openStep, lastProgress := (t.run k).lastProgress }

/-- Nothing but core `c`, the queues of coupes and the count of packets that have entered the network differs. -/
def OnlyCoreAndQueues (c : CoreId) (s t : State) : Prop :=
  SameBytes s t ∧ OtherCoresSame c s t ∧ QueueRuns s t
    ∧ t = { s with cores := t.cores, runs := t.runs, injected := t.injected }

/-- As `OnlyCoreAndQueues`, but reading bench rows may have poisoned a row or mended its copies of poison. -/
def OnlyCoreAndQueuesReading (c : CoreId) (s t : State) : Prop :=
  SameBytes s t ∧ OtherCoresSame c s t ∧ QueueRuns s t
    ∧ t = { s with cores := t.cores, runs := t.runs, poison := t.poison, rowErrors := t.rowErrors, leaseHits := t.leaseHits,
                   injected := t.injected }

/-- The row that core `c` addresses as `r` relative to BASE (R96, R103). -/
def taskRow (s : State) (c : CoreId) (r : Nat) : Row := Memory.row (benchAddr c ((s.core c).base.toNat + r)) s.mem

/-- Whether reading that row delivers it poisoned (R114). -/
def taskRowPoison (s : State) (c : CoreId) (r : Nat) : Bool :=
  let a := benchAddr c ((s.core c).base.toNat + r)
  (s.rowErrors.get RowError.none a).ue.isSome || s.poison.contains a

/-- The descriptor has finished with this status and no detail; its completion awaits a commit (R307). -/
def EndsWith (q : Desc) (status : BitVec 8) (t : State) : Prop :=
  (entryOf t q.ring q.pos).map (·.state) = some (.done status 0 0 0)

/-! ## A matrix pass, from the state before it (R79, R80) -/

/-- Rows of a plane as they stand in the bench. -/
def passPlane (s : State) (c : CoreId) (first : Nat) (rows : List Nat) : Plane :=
  ⟨rows.map (fun r => (r, taskRow s c (first + r), false))⟩

/-- The operands of a pass that the scalar registers name. -/
def passPlaneRows (x : Core) (f : Fields) : PlaneRows := PlaneRows.ofBits (x.rd f.a.toNat)
def passExtent (x : Core) (f : Fields) : Extent := Extent.ofBits (x.rd (f.a.toNat + 1))
def passStart (x : Core) (f : Fields) : Nat := passKstart (x.rd f.b.toNat)
def passSpans (c : CoreId) (x : Core) (f : Fields) : PassPlanes :=
  passPlanes (engineCols c) (passExtent x f) (passOp c x f).info (32 * passStart x f)
    (32 * (passStart x f + passKlen f.imm))
/-- Rows of the whole activation operand. -/
def passNeeds (f : Fields) : Nat := actRows (passAfmt f.imm) (passM f.imm) (passKlen f.imm)

/-- The stationary operand. -/
def passWeights (s : State) (c : CoreId) (f : Fields) : Stationary :=
  let x := s.core c
  let p := passPlaneRows x f
  let e := passExtent x f
  let sp := passSpans c x f
  ⟨e.wfmt, engineCols c, passPlane s c p.elem sp.elem, passPlane s c p.scale sp.scale, passPlane s c p.knot sp.knot,
    passPlane s c p.side sp.side, Codebook.ofBits (codebookAt (if Fmt.isKB e.wfmt then taskRow s c e.cbRow else 0) e.cbSlot)⟩

/-- The activation operand: rows of a port, of the bench (SEL 4) or of v8–v15 (SEL 5). -/
def passActivation (s : State) (c : CoreId) (f : Fields) (port : List (Row × Bool)) : Activation :=
  let x := s.core c
  ⟨passAfmt f.imm, passM f.imm, passKlen f.imm,
    if f.sel.toNat < 4 then port
    else if f.sel.toNat = 4 then
      (List.range (passNeeds f)).map (fun j => (taskRow s c (passRow (x.rd f.b.toNat) + j), false))
    else vecRows x⟩

/-- No cause of R87 holds for a pass with work to do, whose region is `r`. -/
def PassLegal (s : State) (c : CoreId) (f : Fields) (r : Region) : Prop :=
  let x := s.core c
  let e := passExtent x f
  let p := passPlaneRows x f
  let sp := passSpans c x f
  let inB (first : Nat) (rows : List Nat) : Prop := rows.all (fun r => x.rowsIn (first + r) 1) = true
  Form.ok ⟨3, 5, 5, 6, 0, 32⟩ f = true ∧ pairOk f.a = true ∧ planeOk (x.rd f.a.toNat) = true
    ∧ extentOk (x.rd (f.a.toNat + 1)) = true ∧ passBOk (x.rd f.b.toNat) = true
    ∧ (f.sel.toNat = 5 → passNeeds f ≤ 4)
    ∧ Fmt.weightOk e.wfmt = true ∧ Fmt.actOk (passAfmt f.imm) = true ∧ e.ncs ≤ 64
    ∧ (Fmt.isKB e.wfmt = true → x.rowsIn e.cbRow 1 = true ∧ codebookOk (codebookAt (taskRow s c e.cbRow) e.cbSlot) = true)
    ∧ passStart x f + passKlen f.imm ≤ e.kext
    ∧ inB p.elem sp.elem ∧ inB p.scale sp.scale ∧ inB p.knot sp.knot ∧ inB p.side sp.side
    ∧ (f.sel.toNat = 4 → x.rowsIn (passRow (x.rd f.b.toNat)) (passNeeds f) = true)
    ∧ x.region f.d.toNat = some r ∧ passM f.imm ≤ r.rows ∧ r.cursor ≤ passStart x f
    ∧ passM f.imm ≠ 0 ∧ passKlen f.imm ≠ 0

/-- No pass is under way on the core: the cursor stands at no slice and no activation row has been taken (R85). -/
def PassFresh (x : Core) : Prop := bit x.cursor 63 = false ∧ x.passRows = []

/-! ## Descriptors, links and packets -/

/-- The descriptor's accepted entry is in this state. -/
def EntryIs (q : Desc) (st : EntryState) (t : State) : Prop := (entryOf t q.ring q.pos).map (·.state) = some st

/-- The descriptor has finished with this status and a refusal record (R153, R154). -/
def RefusedWith (q : Desc) (r : Refused) (t : State) : Prop := EntryIs q (.done r.status 2 r.record 0) t

/-- Nothing but the accepted descriptors differs. -/
def OnlyRings (s t : State) : Prop := t = { s with rings := t.rings }

/-- Every byte of memory reads as one that nothing has written. -/
def Blank (t : State) : Prop := ∀ a, Memory.byte a t.mem = Memory.empty

/-- Link `l` is in state `st` for CAUSE `cause`; every other link, memory and the cores stay (R341, R351). -/
def LinkEnters (l : LinkId) (st : LinkState) (cause : Nat) (s t : State) : Prop :=
  (t.link l).state = st ∧ (t.link l).cause = BitVec.ofNat 4 cause ∧ (∀ m, m ≠ l → t.link m = s.link m)
    ∧ t.mem = s.mem ∧ t.cores = s.cores

/-- A packet of this type for this device that R345 admits on link `l`. -/
def Admitted (s : State) (l : LinkId) (h : BitVec 128) (ptype : Nat) : Prop :=
  (s.link l).works = true ∧ (s.link l).retraining = false ∧ Pkt.ptype h = ptype ∧ Pkt.rsvdOk h = true
    ∧ partnerMaySend (s.link l) (Pkt.src h) = true ∧ Pkt.dst h = ownDev s

/-- An admitted packet that names the span of coupe `k` and comes from the device of its index (R345). -/
def AdmittedFor (s : State) (l : LinkId) (h : BitVec 128) (ptype : Nat) (k : CoupeId) : Prop :=
  Admitted s l h ptype ∧ windowOk s h = true ∧ spanCoupe s (Pkt.span h) = some k

end Sys2Proof.Machine
end

