-- ==== Sys2Proof/Certificates/Slice0/Obligations.lean ====
section
/-! DEFINITION. The statements about the model. -/

open Sys2Proof Sys2Proof.Machine

/-! ## Steps -/

/-- For every command and state, a step with the command at the front of the queue is that command's meaning on the state
with the queue's rest. -/
def Obligations.StepRunsTheFrontCommand : Prop :=
  ∀ (c : Instr) (rest : List Instr) (s : State),
    step { s with pending := c :: rest } = exec c { s with pending := rest }

/-! ## Core instructions: control -/

/-- The scalar operations of R77: D := A op B, with IMM sign-extended in place of B when MOD[0] is 1 (R75). LI writes IMM
sign-extended, or shifts D up by 32 and places IMM below it; VMOVS moves a lane zero-extended; RDSYS reads a core value; NOP
only advances, and WAITU once no earlier instruction of the units that its mask names is running. g0 discards the result. -/
def Obligations.ScalarInstructionsWriteTheirResult : Prop :=
  (∀ (c : CoreId) (f : Fields) (s : State), legalBI f = true →
      let x := s.core c
      let a := x.rd f.a.toNat
      let b := if bit f.mod 0 then f.imm.signExtend 64 else x.rd f.b.toNat
      let p := x.rdP f.a.toNat || (!bit f.mod 0 && x.rdP f.b.toNat)
      WritesScalar (.add c f) c f.d (a + b) p s
        ∧ WritesScalar (.sub c f) c f.d (a - b) p s
        ∧ WritesScalar (.and_ c f) c f.d (a &&& b) p s
        ∧ WritesScalar (.or_ c f) c f.d (a ||| b) p s
        ∧ WritesScalar (.xor_ c f) c f.d (a ^^^ b) p s
        ∧ WritesScalar (.shl c f) c f.d (a <<< (b.toNat % 64)) p s
        ∧ WritesScalar (.shr c f) c f.d (a >>> (b.toNat % 64)) p s
        ∧ WritesScalar (.sar c f) c f.d (a.sshiftRight (b.toNat % 64)) p s
        ∧ WritesScalar (.mul c f) c f.d (a * b) p s
        ∧ WritesScalar (.slt c f) c f.d (if a.toInt < b.toInt then 1 else 0) p s
        ∧ WritesScalar (.sltu c f) c f.d (if a.toNat < b.toNat then 1 else 0) p s
        ∧ WritesScalar (.seq c f) c f.d (if a = b then 1 else 0) p s)
    ∧ (∀ (c : CoreId) (f : Fields) (s : State),
        let x := s.core c
        (Form.ok ⟨5, 0, 0, 1, 2, 32⟩ f = true →
            WritesScalar (.li c f) c f.d
              (if bit f.mod 1 then x.rd f.d.toNat <<< 32 ||| f.imm.setWidth 64 else f.imm.signExtend 64)
              (bit f.mod 1 && x.rdP f.d.toNat) s)
          ∧ (Form.ok ⟨5, 4, 0, 1, 0, 6⟩ f = true →
            WritesScalar (.vmovs c f) c f.d (((x.vec f.a.toNat).getD f.imm.toNat 0).setWidth 64) (x.vecP f.a.toNat) s)
          ∧ (∀ v, Form.ok ⟨5, 0, 0, 1, 0, 32⟩ f = true → sysValue s c f.imm.toNat = some v →
            WritesScalar (.rdsys c f) c f.d v false s)
          ∧ (Form.ok ⟨0, 0, 0, 1, 0, 0⟩ f = true → WritesScalar (.nop c f) c 0 0 false s)
          ∧ (Form.ok ⟨0, 0, 0, 1, 15, 0⟩ f = true →
            (∀ u, bit f.mod u.maskBit = true → x.inUnit u = []) → WritesScalar (.waitu c f) c 0 0 false s))

/-- The branches of R77: a taken one moves the program counter by IMM instructions, any other to the next instruction;
JAL saves the linear index of the next instruction, JR goes to the index in A, LOOP counts A down and branches while it is
not zero. A poisoned condition or target taints the task (R358). -/
def Obligations.BranchesMoveTheProgramCounter : Prop :=
  ∀ (c : CoreId) (f : Fields) (s : State),
    let x := s.core c
    let a := x.rd f.a.toNat
    let b := x.rd f.b.toNat
    let inTask := x.targetOk (x.pc.toNat + f.imm.toInt) = true
    let goes (i : Instr) (taken : Prop) (d : BitVec 5) (v : BitVec 64) (p : Bool) (taint : Bool) : Prop :=
      Starts i s → ∃ t, exec i s = .next t ∧ OnlyCore c s t ∧ (t.core c).queue = x.queue ∧ (t.core c).stall = .busy
        ∧ (taken → ((t.core c).pc.toNat : Int) = x.pc.toNat + f.imm.toInt) ∧ (¬taken → (t.core c).pc = x.pc + 1)
        ∧ ScalarIs d v p x (t.core c) ∧ (t.core c).tainted = (x.tainted || taint) ∧ TaintFrame x (t.core c)
    let poisoned := x.rdP f.a.toNat || x.rdP f.b.toNat
    (Form.ok ⟨0, 0, 0, 1, 0, 32⟩ f = true → inTask → goes (.br c f) True 0 0 false false)
      ∧ (Form.ok ⟨0, 5, 5, 1, 0, 32⟩ f = true →
        ((a = b → inTask) → goes (.beq c f) (a = b) 0 0 false poisoned)
          ∧ ((a ≠ b → inTask) → goes (.bne c f) (a ≠ b) 0 0 false poisoned)
          ∧ ((a.toInt < b.toInt → inTask) → goes (.blt c f) (a.toInt < b.toInt) 0 0 false poisoned)
          ∧ ((b.toInt ≤ a.toInt → inTask) → goes (.bge c f) (b.toInt ≤ a.toInt) 0 0 false poisoned))
      ∧ (Form.ok ⟨0, 5, 0, 1, 0, 32⟩ f = true →
        let taken := f.a ≠ 0 ∧ a ≠ 1
        (taken → inTask) → goes (.loop c f) taken f.a (a - 1) (x.rdP f.a.toNat) (x.rdP f.a.toNat))
      ∧ (Form.ok ⟨5, 0, 0, 1, 0, 32⟩ f = true → inTask →
        goes (.jal c f) True f.d (BitVec.ofNat 64 (x.pc.toNat + 1)) false false)
      ∧ (Form.ok ⟨0, 5, 0, 1, 0, 0⟩ f = true → x.targetOk a.toNat = true → Starts (.jr c f) s →
        ∃ t, exec (.jr c f) s = .next t ∧ OnlyCore c s t ∧ (t.core c).queue = x.queue ∧ (t.core c).pc.toNat = a.toNat
          ∧ ScalarIs 0 0 false x (t.core c) ∧ (t.core c).tainted = (x.tainted || x.rdP f.a.toNat)
          ∧ TaintFrame x (t.core c))

/-! ## Core instructions: vector -/

/-- The vector operations of R77 with two sources, lane by lane; the result is poisoned when a source is (R357). VCMP
gives 1.0 or +0 in each lane by SEL. The vector operations of R77 with one source, those that also read D, and VBCAST. -/
def Obligations.VectorLanes : Prop :=
  (∀ (c : CoreId) (f : Fields) (s : State),
        let x := s.core c
        let a := x.vec f.a.toNat
        let b := x.vec f.b.toNat
        let p := x.vecP f.a.toNat || x.vecP f.b.toNat
        (Form.ok ⟨4, 4, 4, 1, 0, 0⟩ f = true →
          WritesVector (.vadd c f) c f.d.toNat (lanes2 F32.add a b) p s
            ∧ WritesVector (.vsub c f) c f.d.toNat (lanes2 F32.sub a b) p s
            ∧ WritesVector (.vmul c f) c f.d.toNat (lanes2 F32.mul a b) p s
            ∧ WritesVector (.vmin c f) c f.d.toNat (lanes2 F32.min a b) p s
            ∧ WritesVector (.vmax c f) c f.d.toNat (lanes2 F32.max a b) p s
            ∧ WritesVector (.vcsgn c f) c f.d.toNat (lanes2 F32.copySign a b) p s)
          ∧ (Form.ok ⟨4, 4, 4, 4, 0, 0⟩ f = true →
            WritesVector (.vcmp c f) c f.d.toNat (lanes2 (fun u v =>
              if (match f.sel.toNat with
                | 0 => F32.lt u v
                | 1 => F32.le u v
                | 2 => F32.eq u v
                | _ => !F32.eq u v) then F32.one else 0) a b) p s))
    ∧ (∀ (c : CoreId) (f : Fields) (s : State),
        let x := s.core c
        let a := x.vec f.a.toNat
        let b := x.vec f.b.toNat
        let d := x.vec f.d.toNat
        let p := x.vecP f.a.toNat
        let q := x.vecP f.a.toNat || x.vecP f.b.toNat || x.vecP f.d.toNat
        (Form.ok ⟨4, 4, 0, 1, 0, 0⟩ f = true →
          WritesVector (.vabs c f) c f.d.toNat (lanes1 F32.abs a) p s
            ∧ WritesVector (.vneg c f) c f.d.toNat (lanes1 F32.flip a) p s
            ∧ WritesVector (.vrcp c f) c f.d.toNat (lanes1 F32.recip a) p s
            ∧ WritesVector (.vrsq c f) c f.d.toNat (lanes1 F32.rsqrt a) p s
            ∧ WritesVector (.vexp c f) c f.d.toNat (lanes1 F32.exp a) p s
            ∧ WritesVector (.vlog c f) c f.d.toNat (lanes1 F32.log a) p s)
          ∧ (Form.ok ⟨4, 4, 4, 1, 0, 0⟩ f = true →
            WritesVector (.vfma c f) c f.d.toNat (lanes3 F32.fma a b d) q s
              ∧ WritesVector (.vsel c f) c f.d.toNat (lanes3 (fun u v z => if F32.isZero z then v else u) a b d) q s)
          ∧ (Form.ok ⟨4, 5, 0, 1, 0, 0⟩ f = true →
            WritesVector (.vbcast c f) c f.d.toNat (List.replicate 64 ((x.rd f.a.toNat).setWidth 32)) (x.rdP f.a.toNat) s))

/-- The reductions of R46 leave their result in lane 0 and +0 in the others; VSMX makes one softmax step of R47 on the pair
vD, vD + 1, and VSMXN scales D by the pair in vA, vA + 1; VACC reads a vector of an accumulator region (R44). -/
def Obligations.VectorReductionsAndSoftmax : Prop :=
  ∀ (c : CoreId) (f : Fields) (s : State),
    let x := s.core c
    let a := x.vec f.a.toNat
    let d := f.d.toNat
    (Form.ok ⟨4, 4, 0, 1, 0, 0⟩ f = true →
      WritesVector (.vhsum c f) c d (hreduce F32.add a :: List.replicate 63 0) (x.vecP f.a.toNat) s
        ∧ WritesVector (.vhmax c f) c d (hreduce F32.max a :: List.replicate 63 0) (x.vecP f.a.toNat) s)
      ∧ (Form.ok ⟨4, 4, 0, 1, 0, 0⟩ f = true → vpairOk f.d = true → Starts (.vsmx c f) s →
        let r := softmaxStep ((x.vec d).headD 0) ((x.vec (d + 1)).headD 0) a
        let p := x.vecP d || x.vecP (d + 1) || x.vecP f.a.toNat
        ∃ t, exec (.vsmx c f) s = .next t ∧ OnlyCore c s t ∧ Advanced x (t.core c) ∧ VectorFrame x (t.core c)
          ∧ (t.core c).vec d = r.1 :: (x.vec d).tail ∧ (t.core c).vec (d + 1) = r.2 :: (x.vec (d + 1)).tail
          ∧ (t.core c).vecP d = p ∧ (t.core c).vecP (d + 1) = p
          ∧ (∀ j, j ≠ d → j ≠ d + 1 → (t.core c).vec j = x.vec j ∧ (t.core c).vecP j = x.vecP j))
      ∧ (Form.ok ⟨4, 4, 0, 1, 0, 0⟩ f = true → vpairOk f.a = true →
        WritesVector (.vsmxn c f) c d
          (lanes1 (fun v => if a.headD 0 = F32.negInf then 0
            else F32.mul (F32.exp (F32.sub v (a.headD 0))) (F32.recip ((x.vec (f.a.toNat + 1)).headD 0))) (x.vec d))
          (x.vecP d || x.vecP f.a.toNat || x.vecP (f.a.toNat + 1)) s)
      ∧ (∀ r, Form.ok ⟨4, 3, 0, 1, 0, 8⟩ f = true → x.region f.a.toNat = some r →
        let n := if coreCourser c then 2 else 1
        (f.imm.toNat + 1) * n ≤ r.rows →
        WritesVector (.vacc c f) c d
          ((List.range 64).map (fun j => x.acc.get 0 ((r.first + f.imm.toNat * n) * engineCols c + j)))
          ((List.range n).any (fun j => x.accPoison.get false (r.first + f.imm.toNat * n + j))) s)

/-! ## Core instructions: stream -/

/-- Taking from a port: POPV loads the head row into a vector pair, PEEK tells what the head is, DROPM discards a head
marker; the row or marker leaves the staging and a credit is on its way back (R77, R88, R124, R137). Giving to a port:
PUSHV gives a vector pair as one row, MARK a marker. On a queue of this device with a credit and an empty staging the
item enters the network and takes the credit (R124); with no room the instruction stays in its unit's queue, in OUT_FULL
(R83, R85). -/
def Obligations.ItemsOfAPort : Prop :=
  (∀ (c : CoreId) (f : Fields) (s : State) (b : Bound), portQueue s c f.sel.toNat = some b →
        let x := s.core c
        let q := b.queue
        (∀ data p rest, Form.ok ⟨4, 0, 0, 4, 0, 0⟩ f = true → vpairOk f.d = true → q.staging = .row data p :: rest →
            Starts (.popv c f) s →
            ∃ t, exec (.popv c f) s = .next t ∧ OnlyCoreAndQueues c s t ∧ Advanced x (t.core c) ∧ VectorFrame x (t.core c)
              ∧ (t.core c).vec f.d.toNat = (List.range 64).map (fun j => Row.word32 data j)
              ∧ (t.core c).vec (f.d.toNat + 1) = (List.range 64).map (fun j => Row.word32 data (64 + j))
              ∧ (t.core c).vecP f.d.toNat = p ∧ (t.core c).vecP (f.d.toNat + 1) = p
              ∧ (∀ j, j ≠ f.d.toNat → j ≠ f.d.toNat + 1 → (t.core c).vec j = x.vec j ∧ (t.core c).vecP j = x.vecP j)
              ∧ QueueIs b.coupe b.handle
                { q with staging := rest, returning := q.returning + 1, rows := q.rows + 1 } s t)
          ∧ (∀ it rest, Form.ok ⟨5, 0, 0, 4, 0, 0⟩ f = true → q.staging = it :: rest →
            WritesScalar (.peek c f) c f.d
              (match it with
                | .row _ _ => 0
                | .marker .endOfStream => 1
                | .marker .emptyOutput => 2) false s)
          ∧ (∀ m rest, Form.ok ⟨0, 0, 0, 4, 0, 0⟩ f = true → q.staging = .marker m :: rest → Starts (.dropm c f) s →
            ∃ t, exec (.dropm c f) s = .next t ∧ OnlyCoreAndQueues c s t ∧ Advanced x (t.core c) ∧ ScalarFrame x (t.core c)
              ∧ ScalarIs 0 0 false x (t.core c)
              ∧ QueueIs b.coupe b.handle { q with
                  staging := rest, returning := q.returning + 1, markCredit := true
                  marks := BitVec.ofNat 16 (satAdd 16 q.marks.toNat 1) } s t)
          ∧ (∀ i op, q.staging = [] →
            ((i = .popv c f ∧ op = Op.popv ∧ Form.ok ⟨4, 0, 0, 4, 0, 0⟩ f = true ∧ vpairOk f.d = true)
              ∨ (i = .peek c f ∧ op = Op.peek ∧ Form.ok ⟨5, 0, 0, 4, 0, 0⟩ f = true)
              ∨ (i = .dropm c f ∧ op = Op.dropm ∧ Form.ok ⟨0, 0, 0, 4, 0, 0⟩ f = true)) → Starts i s →
            ∃ t, exec i s = .next t ∧ OnlyCoreAndQueues c s t ∧ WaitsQueued op f .inEmpty x (t.core c)
              ∧ ScalarFrame x (t.core c) ∧ ScalarIs 0 0 false x (t.core c)
              ∧ QueueIs b.coupe b.handle { q with consEmpty := q.consEmpty + 1 } s t))
    ∧ (∀ (c : CoreId) (f : Fields) (s : State) (b : Bound), portQueue s c (4 + f.sel.toNat) = some b →
        let x := s.core c
        let q := b.queue
        let gives (i : Instr) (op : Nat) (it : Item) : Prop :=
          Starts i s →
            (isSpanHandle b.handle = false → x.outStage.get [] (4 + f.sel.toNat) = [] → q.credits ≠ 0 →
              ∃ t, exec i s = .next t ∧ OnlyCoreAndQueues c s t ∧ Advanced x (t.core c) ∧ PortFrame x (t.core c)
                ∧ ScalarIs 0 0 false x (t.core c) ∧ (t.core c).tainted = x.tainted ∧ (t.core c).errLog = x.errLog
                ∧ QueueIs b.coupe b.handle
                  { q with credits := q.credits - 1, network := q.network ++ [it], sent := q.sent ++ [sentNow s] } s t)
              ∧ (pushItem c (4 + f.sel.toNat) b it s = none →
                ∃ t, exec i s = .next t ∧ OtherCoresSame c s t ∧ SameBytes s t ∧ WaitsQueued op f .outFull x (t.core c))
        (Form.ok ⟨4, 0, 0, 4, 0, 0⟩ f = true → vpairOk f.d = true →
            gives (.pushv c f) Op.pushv (.row (Row.ofWords32 (x.vec f.d.toNat ++ x.vec (f.d.toNat + 1)))
              (x.vecP f.d.toNat || x.vecP (f.d.toNat + 1) || x.tainted)))
          ∧ (Form.ok ⟨0, 0, 0, 4, 6, 0⟩ f = true →
            (bits f.mod 2 1 = 0 → gives (.mark c f) Op.mark (.marker .endOfStream))
              ∧ (bits f.mod 2 1 = 1 → gives (.mark c f) Op.mark (.marker .emptyOutput))))

/-- POP moves rows from the port's staging into consecutive bench rows, and its row and count registers follow (R77, R85): it
ends when the count is zero or a marker is at the head, and stays in its unit's queue when the port is empty or it has
reached an interruption point (`stop` rows, R91). Poisoned rows stay poisoned, and a tainted task poisons what it writes
(R358). PUSH gives consecutive bench rows to a port: with credits for all of them they enter the network in order, and the
row and count registers follow; with no room it waits in OUT_FULL (R77, R85). No byte of memory changes. -/
def Obligations.RowsOfAPort : Prop :=
  (∀ (c : CoreId) (f : Fields) (stop : Option Nat) (s : State) (b : Bound) (rows : List (Row × Bool)) (rest : List Item),
        portQueue s c f.sel.toNat = some b → Form.ok ⟨0, 5, 5, 4, 0, 0⟩ f = true →
        let x := s.core c
        let row := (x.rd f.a.toNat).toNat
        let n := (x.rd f.b.toNat).toNat
        let k := rows.length
        let q := b.queue
        x.rowsIn row n = true → q.staging = rows.map (fun r => .row r.1 r.2) ++ rest →
        (k = pauseAt stop n ∨ (k < pauseAt stop n ∧ (rest = [] ∨ ∃ m l, rest = .marker m :: l))) →
        let waits := decide (k < pauseAt stop n) && rest.isEmpty
        Starts (.pop c f stop) s →
        ∃ t, exec (.pop c f stop) s = .next t
          ∧ (∀ i (h : i < rows.length), taskRow t c (row + i) = rows[i].1
              ∧ t.poison.contains (benchAddr c (x.base.toNat + row + i)) = (rows[i].2 || (t.core c).tainted))
          ∧ (∀ a, (a < benchAddr c (x.base.toNat + row) ∨ benchAddr c (x.base.toNat + row + k) ≤ a) →
              Memory.byte a t.mem = Memory.byte a s.mem)
          ∧ OtherCoresSame c s t ∧ QueueRuns s t
          ∧ t = { s with cores := t.cores, runs := t.runs, mem := t.mem, poison := t.poison, rowErrors := t.rowErrors, leaseHits := t.leaseHits }
          ∧ (waits = true → WaitsQueued Op.pop f .inEmpty x (t.core c))
          ∧ (waits = false → EndsOrPauses Op.pop f (k = n ∨ k < pauseAt stop n) x (t.core c))
          ∧ TaintFrame x (t.core c)
          ∧ (t.core c).tainted = (x.tainted || x.rdP f.a.toNat || x.rdP f.b.toNat)
          ∧ (∀ r, (t.core c).rd r = if r = 0 then 0 else if r = f.b.toNat then BitVec.ofNat 64 (n - k)
              else if r = f.a.toNat then BitVec.ofNat 64 (row + k) else x.rd r)
          ∧ QueueIs b.coupe b.handle { q with
              staging := rest, returning := q.returning + k, rows := q.rows + BitVec.ofNat 48 k
              consEmpty := q.consEmpty + BitVec.ofNat 48 (b2n waits) } s t)
    ∧ (∀ (c : CoreId) (f : Fields) (stop : Option Nat) (s : State) (b : Bound),
        portQueue s c (4 + f.sel.toNat) = some b → Form.ok ⟨0, 5, 5, 4, 0, 0⟩ f = true →
        let x := s.core c
        let row := (x.rd f.a.toNat).toNat
        let n := (x.rd f.b.toNat).toNat
        let k := pauseAt stop n
        x.rowsIn row n = true → Starts (.push c f stop) s →
        (isSpanHandle b.handle = false → x.outStage.get [] (4 + f.sel.toNat) = [] → k ≤ b.queue.credits →
          ∃ t q', exec (.push c f stop) s = .next t ∧ SameBytes s t ∧ OtherCoresSame c s t ∧ QueueRuns s t
            ∧ t = { s with cores := t.cores, runs := t.runs, poison := t.poison, rowErrors := t.rowErrors, leaseHits := t.leaseHits,
                           injected := s.injected + k }
            ∧ EndsOrPauses Op.push f (k = n) x (t.core c) ∧ PortFrame x (t.core c)
            ∧ (t.core c).tainted = (x.tainted || x.rdP f.a.toNat || x.rdP f.b.toNat)
            ∧ (∀ r, (t.core c).rd r = if r = 0 then 0 else if r = f.b.toNat then BitVec.ofNat 64 (n - k)
                else if r = f.a.toNat then BitVec.ofNat 64 (row + k) else x.rd r)
            ∧ QueueIs b.coupe b.handle q' s t
            ∧ q' = { b.queue with credits := b.queue.credits - k, network := q'.network, sent := q'.sent }
            ∧ q'.network = b.queue.network ++ (List.range k).map (fun i =>
                .row (taskRow s c (row + i)) (taskRowPoison s c (row + i) || (t.core c).tainted))
            ∧ q'.sent = b.queue.sent ++ (List.range k).map (fun i => ⟨s.injected + i, injectionTime s.timebase⟩))
          ∧ ((x.outStage.get [] (4 + f.sel.toNat)).length = 4 → b.queue.credits = 0 → k ≠ 0 →
            ∃ t, exec (.push c f stop) s = .next t ∧ SameBytes s t ∧ OtherCoresSame c s t ∧ t.poison = s.poison
              ∧ WaitsQueued Op.push f .outFull x (t.core c) ∧ PortFrame x (t.core c) ∧ (∀ r, (t.core c).rd r = x.rd r)
              ∧ QueueIs b.coupe b.handle { b.queue with prodFull := b.queue.prodFull + 1 } s t))

/-! ## Core instructions: bench -/

/-- Reads of one bench row: RDW takes a 64-bit word of it, LDV 64 elements widened to FP32. No byte of memory changes; the
result is poisoned when the row is (R77, R114, R358). Writes of the bench: STV stores a vector pair as one row, BCOPY
copies rows one at a time in ascending order and its registers follow every row; at an interruption point (`stop` rows) it
stays in its unit's queue (R77, R85, R91, R115). Every other byte of memory stays. -/
def Obligations.BenchReadsAndWrites : Prop :=
  (∀ (c : CoreId) (f : Fields) (s : State),
        let x := s.core c
        let row := (x.rd f.a.toNat).toNat
        let data := taskRow s c row
        x.rowsIn row 1 = true →
        (Form.ok ⟨5, 5, 0, 1, 0, 6⟩ f = true → Starts (.rdw c f) s →
            ∃ t, exec (.rdw c f) s = .next t ∧ OnlyCoreReading c s t ∧ Advanced x (t.core c) ∧ ReadFrame x (t.core c)
              ∧ ScalarIs f.d (Row.word64 data f.imm.toNat) (taskRowPoison s c row) x (t.core c)
              ∧ (t.core c).v = x.v ∧ (t.core c).vPoison = x.vPoison
              ∧ (t.core c).tainted = (x.tainted || x.rdP f.a.toNat))
          ∧ (Form.ok ⟨4, 5, 0, 3, 0, 8⟩ f = true → f.imm.toNat < (if f.sel = 0 then 2 else 4) → Starts (.ldv c f) s →
            ∃ t, exec (.ldv c f) s = .next t ∧ OnlyCoreReading c s t ∧ Advanced x (t.core c) ∧ ReadFrame x (t.core c)
              ∧ VectorIs f.d.toNat ((List.range 64).map (fun j =>
                  if f.sel.toNat = 0 then Row.word32 data (64 * f.imm.toNat + j)
                  else widen16 f.sel.toNat (rowElem 0x01 data (64 * f.imm.toNat + j)))) (taskRowPoison s c row) x (t.core c)
              ∧ (t.core c).g = x.g ∧ (t.core c).gPoison = x.gPoison
              ∧ (t.core c).tainted = (x.tainted || x.rdP f.a.toNat)))
    ∧ (∀ (c : CoreId) (f : Fields) (s : State),
        let x := s.core c
        (Form.ok ⟨4, 5, 0, 1, 0, 0⟩ f = true → vpairOk f.d = true → Starts (.stv c f) s →
          let row := (x.rd f.a.toNat).toNat
          x.rowsIn row 1 = true →
          ∃ t, exec (.stv c f) s = .next t ∧ OnlyCoreAndRows c (x.base.toNat + row) 1 s t ∧ Advanced x (t.core c)
            ∧ TaintFrame x (t.core c) ∧ ScalarIs 0 0 false x (t.core c)
            ∧ (t.core c).tainted = (x.tainted || x.rdP f.a.toNat)
            ∧ taskRow t c row = Row.ofWords32 (x.vec f.d.toNat ++ x.vec (f.d.toNat + 1))
            ∧ t.poison.contains (benchAddr c (x.base.toNat + row))
              = (x.vecP f.d.toNat || x.vecP (f.d.toNat + 1) || (t.core c).tainted))
          ∧ (∀ stop, Form.ok ⟨5, 5, 5, 1, 0, 0⟩ f = true → Starts (.bcopy c f stop) s →
            let d := (x.rd f.d.toNat).toNat
            let a := (x.rd f.a.toNat).toNat
            let n := (x.rd f.b.toNat).toNat
            let k := pauseAt stop n
            x.rowsIn d n = true → x.rowsIn a n = true →
            ∃ t, exec (.bcopy c f stop) s = .next t ∧ OnlyCoreAndRows c (x.base.toNat + d) k s t
              ∧ EndsOrPauses Op.bcopy f (k = n) x (t.core c)
              ∧ ReadFrame x (t.core c) ∧ (t.core c).v = x.v ∧ (t.core c).vPoison = x.vPoison
              ∧ (t.core c).tainted = (x.tainted || x.rdP f.d.toNat || x.rdP f.a.toNat || x.rdP f.b.toNat)
              ∧ (∀ r, (t.core c).rd r = if r = 0 then 0 else if r = f.b.toNat then BitVec.ofNat 64 (n - k)
                  else if r = f.a.toNat then BitVec.ofNat 64 (a + k)
                  else if r = f.d.toNat then BitVec.ofNat 64 (d + k) else x.rd r)
              ∧ (d ≤ a ∨ a + n ≤ d → ∀ i, i < k → taskRow t c (d + i) = taskRow s c (a + i))))

/-- RREAD requests the next rows, at most 8 pending, and stays in its unit's queue in REMOTE until its count is zero; RWRITE
posts its rows to the window that the remote address names and counts them outstanding, up to an interruption point; WSET
writes a window record and WCLR sets its length to zero (R77, R78, R83, R91, R107, R108). No byte of memory changes. -/
def Obligations.RemoteAndWindowInstructions : Prop :=
  ∀ (c : CoreId) (f : Fields) (s : State),
    let x := s.core c
    (Form.ok ⟨5, 5, 5, 1, 0, 0⟩ f = true → remoteOk (x.rd f.a.toNat) = true → Starts (.rread c f) s →
      let d := (x.rd f.d.toNat).toNat
      let n := (x.rd f.b.toNat).toNat
      let more := List.range (min (8 - x.reads.length) (n - x.reads.length))
      let addr (j : Nat) : BitVec 64 := x.rd f.a.toNat + BitVec.ofNat 64 (x.reads.length + j)
      let target (j : Nat) : CoreId := BitVec.ofNat 12 (bits (addr j) 26 15)
      x.rowsIn d n = true →
      (n = 0 → ∃ t, exec (.rread c f) s = .next t ∧ OnlyCore c s t ∧ Advanced x (t.core c) ∧ TaintFrame x (t.core c)
          ∧ ScalarIs 0 0 false x (t.core c))
        ∧ (n ≠ 0 → ∃ t, exec (.rread c f) s = .next t ∧ SameBytes s t ∧ OtherCoresSame c s t
          ∧ WaitsQueued Op.rread f .remote x (t.core c)
          ∧ t = { s with cores := t.cores, readReqs := t.readReqs, injected := s.injected + more.length }
          ∧ ScalarIs 0 0 false x (t.core c)
          ∧ (t.core c).reads = x.reads ++ more.map (fun j =>
              ⟨target j, BitVec.ofNat 15 (bits (addr j) 14 0), BitVec.ofNat 15 (x.base.toNat + (d + (x.reads.length + j))),
                f.d, f.a, f.b⟩)
          ∧ t.readReqs = s.readReqs ++ more.map (fun j =>
              ⟨c, (s.slot c).incarn, target j, BitVec.ofNat 15 (bits (addr j) 14 0),
                ⟨s.injected + j, injectionTime s.timebase⟩⟩)))
      ∧ (∀ stop, Form.ok ⟨5, 5, 5, 1, 0, 0⟩ f = true → remoteOk (x.rd f.d.toNat) = true → Starts (.rwrite c f stop) s →
        let a := (x.rd f.a.toNat).toNat
        let n := (x.rd f.b.toNat).toNat
        let k := pauseAt stop n
        x.rowsIn a n = true →
        ∃ t, exec (.rwrite c f stop) s = .next t ∧ SameBytes s t ∧ OtherCoresSame c s t ∧ RunsSame s t
          ∧ t = { s with cores := t.cores, runs := t.runs, poison := t.poison, rowErrors := t.rowErrors, leaseHits := t.leaseHits,
                         windowRows := t.windowRows, injected := s.injected + k }
          ∧ EndsOrPauses Op.rwrite f (k = n) x (t.core c)
          ∧ ReadFrame { x with writesOut := x.writesOut + k } (t.core c)
          ∧ (t.core c).v = x.v ∧ (t.core c).vPoison = x.vPoison
          ∧ (∀ r, (t.core c).rd r = if r = 0 then 0 else if r = f.b.toNat then BitVec.ofNat 64 (n - k)
              else if r = f.a.toNat then BitVec.ofNat 64 (a + k)
              else if r = f.d.toNat then x.rd f.d.toNat + BitVec.ofNat 64 k else x.rd r)
          ∧ t.windowRows.map (fun w => (w.writer, w.incarn, w.target, w.window, w.offset, w.data))
            = s.windowRows.map (fun w => (w.writer, w.incarn, w.target, w.window, w.offset, w.data))
              ++ (List.range k).map (fun i =>
                let addr := x.rd f.d.toNat + BitVec.ofNat 64 i
                (c, (s.slot c).incarn, BitVec.ofNat 12 (bits addr 26 15), BitVec.ofNat 4 (bits addr 14 11),
                  BitVec.ofNat 11 (bits addr 10 0), taskRow s c (a + i))))
      ∧ (Form.ok ⟨0, 5, 0, 1, 0, 4⟩ f = true → pairOk f.a = true → Win.ok (windowOf x f.a.toNat) = true →
        Starts (.wset c f) s →
        ∃ t, exec (.wset c f) s = .next t ∧ OnlyCore c s t ∧ Advanced x (t.core c)
          ∧ TaintFrame { x with windows := (t.core c).windows } (t.core c)
          ∧ ScalarIs 0 0 false x (t.core c)
          ∧ (t.core c).tainted = (x.tainted || x.rdP f.a.toNat || x.rdP (f.a.toNat + 1))
          ∧ (∀ i, (t.core c).windows.get 0 i = if i = f.imm.toNat then x.rd f.a.toNat ++ x.rd (f.a.toNat + 1)
              else x.windows.get 0 i))
      ∧ (Form.ok ⟨0, 0, 0, 1, 0, 4⟩ f = true → Starts (.wclr c f) s →
        ∃ t, exec (.wclr c f) s = .next t ∧ OnlyCore c s t ∧ Advanced x (t.core c)
          ∧ ScalarFrame { x with windows := (t.core c).windows } (t.core c) ∧ ScalarIs 0 0 false x (t.core c)
          ∧ bits ((t.core c).windows.get 0 f.imm.toNat) 112 98 = 0
          ∧ bits ((t.core c).windows.get 0 f.imm.toNat) 127 113 = bits (x.windows.get 0 f.imm.toNat) 127 113
          ∧ bits ((t.core c).windows.get 0 f.imm.toNat) 97 0 = bits (x.windows.get 0 f.imm.toNat) 97 0
          ∧ (∀ i, i ≠ f.imm.toNat → (t.core c).windows.get 0 i = x.windows.get 0 i))

/-! ## Core instructions: matrix and quantise -/

/-- MREG defines an accumulator region with a clear cursor and clears its rows, or loads them from bench rows of 128 FP32
values each, up to an interruption point; every other region and accumulator stays (R81, R91). -/
def Obligations.MregDefinesARegion : Prop :=
  ∀ (c : CoreId) (f : Fields) (stop : Option Nat) (s : State), Starts (.mreg c f stop) s →
    let x := s.core c
    let load := bit f.mod 1
    let first := bits f.imm 15 8
    let rows := bits f.imm 7 0
    let k := if load then pauseAt stop rows else rows
    let cols := engineCols c
    let row := (x.rd f.a.toNat).toNat
    Form.ok ⟨3, if load then 5 else 0, 0, 1, 2, 16⟩ f = true → 1 ≤ rows →
    regionFits c x f.d.toNat ⟨first, rows, 0⟩ = true → (load = true → x.rowsIn row (ceilDiv (rows * cols) 128) = true) →
    ∃ t, exec (.mreg c f stop) s = .next t ∧ OnlyCoreReading c s t ∧ EndsOrPauses Op.mreg f (k = rows) x (t.core c)
      ∧ (∀ i, (t.core c).region i = if i = f.d.toNat then some ⟨first, rows, 0⟩ else x.region i)
      ∧ (∀ r j, r < k → j < cols → (t.core c).acc.get 0 ((first + r) * cols + j)
          = if load then Row.word32 (taskRow s c (row + (r * cols + j) / 128)) ((r * cols + j) % 128) else 0)
      ∧ (∀ a, (a < first * cols ∨ (first + k) * cols ≤ a) → (t.core c).acc.get 0 a = x.acc.get 0 a)
      ∧ (load = false → ∀ r, r < rows → (t.core c).accPoison.get false (first + r) = false)
      ∧ (t.core c).g = x.g ∧ (t.core c).v = x.v ∧ (t.core c).qout = x.qout ∧ (t.core c).qcw = x.qcw

/-- A pass adds to every accumulator of its region's rows the products of an activation row and a column of the stationary
operand: in slices of 32 positions on the narrow path, one product at a time on the wide path (R26–R28, R80). The region's
cursor moves past the pass; the other regions, accumulators, registers and memory stay. A pass whose port is empty stays in
the matrix unit's queue in IN_EMPTY, with the pass cursor at its first slice and row (R83, R85). -/
def Obligations.MpassAccumulates : Prop :=
  ∀ (c : CoreId) (f : Fields) (wload : Nat) (s : State) (r : Region) (b : Option Bound),
    Starts (.mpass c f none none wload) s → PassLegal s c f r → PassFresh (s.core c) →
    let x := s.core c
    (f.sel.toNat < 4 → b = portQueue s c f.sel.toNat ∧ b.isSome = true) → (¬f.sel.toNat < 4 → b = none) →
    let taken := match b with
      | some b => (takeRows b b.queue.staging (passNeeds f)).1
      | none => []
    let w := passWeights s c f
    let a := passActivation s c f taken
    let cols := engineCols c
    let col (n : Nat) := (List.range (32 * a.klen)).map (fun k => w.at (32 * passStart x f + k) n)
    let act (m : Nat) := (List.range (32 * a.klen)).map (a.at m)
    ((f.sel.toNat < 4 → taken.length = passNeeds f) →
      ∃ t, exec (.mpass c f none none wload) s = .next t ∧ OnlyCoreAndQueuesReading c s t ∧ Advanced x (t.core c)
        ∧ (∀ m n, m < a.m → n < cols → (t.core c).acc.get 0 ((r.first + m) * cols + n)
            = if Fmt.wide w.fmt || Fmt.wide a.fmt then wideSum (col n) (act m) (x.acc.get 0 ((r.first + m) * cols + n))
              else narrowSum a.klen (col n) (act m) (x.acc.get 0 ((r.first + m) * cols + n)))
        ∧ (∀ e, (e < r.first * cols ∨ (r.first + a.m) * cols ≤ e) → (t.core c).acc.get 0 e = x.acc.get 0 e)
        ∧ (∀ i, (t.core c).region i
            = if i = f.d.toNat then some { r with cursor := passStart x f + a.klen } else x.region i)
        ∧ (t.core c).g = x.g ∧ (t.core c).v = x.v ∧ (t.core c).passes = x.passes + 1 ∧ PassFresh (t.core c)
        ∧ (∀ q, b = some q →
            QueueIs q.coupe q.handle
              { q.queue with staging := q.queue.staging.drop taken.length, returning := q.queue.returning + taken.length
                             rows := q.queue.rows + BitVec.ofNat 48 taken.length } s t))
      ∧ (∀ q, b = some q → q.queue.staging = [] →
        ∃ t, exec (.mpass c f none none wload) s = .next t ∧ OnlyCoreAndQueues c s t
          ∧ WaitsQueued Op.mpass f .inEmpty x (t.core c) ∧ (t.core c).acc = x.acc ∧ (t.core c).regions = x.regions
          ∧ bit (t.core c).cursor 63 = true ∧ bits (t.core c).cursor 62 47 = passStart x f
          ∧ bits (t.core c).cursor 46 39 = 0)

/-- QCW replaces the control word and QFLUSH writes everything out; neither leaves anything in the quantiser. QFLUSH may stop
after any row (R91). QCB loads a codebook record (R24, R49, R77). -/
def Obligations.QuantiserControl : Prop :=
  ∀ (c : CoreId) (f : Fields) (s : State),
    let x := s.core c
    let u := (writeOut c s).2
    (Form.ok ⟨0, 5, 0, 1, 0, 0⟩ f = true → qcwOk (x.rd f.a.toNat) = true → (writeOut c s).1 = true → Starts (.qcw c f) s →
        ∃ t, exec (.qcw c f) s = .next t ∧ OnlyCore c u t ∧ Advanced (u.core c) (t.core c)
          ∧ (t.core c).qcw = x.rd f.a.toNat ∧ (t.core c).qout = none ∧ ScalarIs 0 0 false (u.core c) (t.core c)
          ∧ (x.qout = none → u = s))
      ∧ (Form.ok ⟨0, 0, 0, 1, 0, 0⟩ f = true → (writeOut c s).1 = true → Starts (.qflush c f none) s →
        ∃ t, exec (.qflush c f none) s = .next t ∧ OnlyCore c u t ∧ Advanced (u.core c) (t.core c) ∧ (t.core c).qout = none
          ∧ ScalarFrame (u.core c) (t.core c) ∧ ScalarIs 0 0 false (u.core c) (t.core c) ∧ (x.qout = none → u = s))
      ∧ (∀ k, Form.ok ⟨0, 0, 0, 1, 0, 0⟩ f = true → Starts (.qflush c f (some k)) s →
        let e := emit c true k s
        let more : Prop := ((e.2.core c).qout.bind (fun q => q.nextRow true)).isSome = true
        e.1 = true →
        ∃ t, exec (.qflush c f (some k)) s = .next t ∧ OnlyCore c e.2 t
          ∧ EndsOrPauses Op.qflush f (¬more) (e.2.core c) (t.core c)
          ∧ (t.core c).qout.isSome = ((e.2.core c).qout.bind (fun q => q.nextRow true)).isSome)
      ∧ (Form.ok ⟨0, 5, 0, 1, 0, 4⟩ f = true → Starts (.qcb c f) s →
        let row := (x.rd f.a.toNat).toNat
        let rec_ := codebookAt (taskRow s c row) f.imm.toNat
        x.rowsIn row 1 = true → codebookOk rec_ = true →
        ∃ t, exec (.qcb c f) s = .next t ∧ OnlyCoreReading c s t ∧ Advanced x (t.core c)
          ∧ (t.core c).codebook = some rec_ ∧ (t.core c).qcw = x.qcw ∧ (t.core c).qout = x.qout
          ∧ ScalarIs 0 0 false x (t.core c) ∧ (t.core c).v = x.v ∧ (t.core c).acc = x.acc)

/-- QCVT of at most 128 values of a region (SEL 4) or of vectors (SEL 5) that do not fill a row of a fresh output: the codes
of the control word's format are held, the count register reads zero, and memory does not change (R49, R82, R85). One that
stops before the group has converted nothing (R91). -/
def Obligations.QcvtConvertsAGroup : Prop :=
  ∀ (c : CoreId) (f : Fields) (stop : Option Nat) (s : State), Starts (.qcvt c f stop) s →
    let x := s.core c
    let n := (x.rd f.b.toNat).toNat
    let fmt := qcwOutFmt x.qcw
    x.qout = none → 0 < n → n ≤ 128 → n < Fmt.perRow fmt → bit f.mod 1 = false →
    (f.sel.toNat = 4 ∨ f.sel.toNat = 5) → Form.ok ⟨if f.sel.toNat = 4 then 3 else 4, 5, 5, 6, 2, 0⟩ f = true →
    pairOk f.a = true → planeOk (x.rd f.a.toNat) = true → (f.sel.toNat = 5 → f.d.toNat + ceilDiv (x.qdone + n) 64 ≤ 16) →
    (Fmt.isKB fmt = true → n % 128 = 0 ∧ x.codebook.isSome = true ∧ x.cb.fmt = fmt) → qcvtBound x f n = true →
    (f.sel.toNat = 4 → ∃ r, x.region f.d.toNat = some r ∧ ceilDiv (x.qdone + n) (engineCols c) ≤ r.rows) →
    (stop ≠ some 0 →
      ∃ t q, exec (.qcvt c f stop) s = .next t ∧ SameBytes s t ∧ OtherCoresSame c s t ∧ Advanced x (t.core c)
        ∧ (f.b ≠ f.a → (t.core c).rd f.b.toNat = 0) ∧ (t.core c).v = x.v ∧ (t.core c).acc = x.acc ∧ (t.core c).qcw = x.qcw
        ∧ (t.core c).qout = some q ∧ q.fmt = fmt ∧ q.port = none
        ∧ q.elems = (quantGroup fmt (qcwStoch x.qcw) (qcwOT x.qcw) x.cb (qcvtSource c x f n) x.lfsr).elems
        ∧ (t.core c).lfsr = (quantGroup fmt (qcwStoch x.qcw) (qcwOT x.qcw) x.cb (qcvtSource c x f n) x.lfsr).lfsr)
      ∧ (stop = some 0 →
        ∃ t q, exec (.qcvt c f stop) s = .next t ∧ SameBytes s t ∧ OtherCoresSame c s t
          ∧ PausesQueued Op.qcvt f x (t.core c) ∧ (t.core c).qout = some q ∧ q.elems = [] ∧ (t.core c).lfsr = x.lfsr
          ∧ (f.b ≠ f.a → (t.core c).rd f.b.toNat = x.rd f.b.toNat))

/-! ## Core instructions: sync and system -/

/-- WAITU waits in SYNC while an earlier instruction of a unit that its mask names is running; FENCER goes on once every RWRITE
row is acknowledged and raises WINDOW when one was refused; END then begins the drain; ARRIVE sends an arrival once no earlier
instruction that writes bench rows is running; WAITB goes on once the barrier is open; what may not go on waits in SYNC. TRAP
ends the task with exception TRAP and reports IMM[7:0] (R57, R77, R89, R169, R170). -/
def Obligations.SyncAndSystemInstructions : Prop :=
  (∀ (c : CoreId) (f : Fields) (s : State),
      let x := s.core c
      let waits (i : Instr) : Prop :=
        Starts i s → ∃ t, exec i s = .next t ∧ OnlyCore c s t ∧ Waits .sync x (t.core c) ∧ ScalarFrame x (t.core c)
          ∧ ScalarIs 0 0 false x (t.core c)
      (Form.ok ⟨0, 0, 0, 1, 15, 0⟩ f = true → (∃ u, bit f.mod u.maskBit = true ∧ x.inUnit u ≠ []) → waits (.waitu c f))
        ∧ (Form.ok ⟨0, 0, 0, 1, 0, 0⟩ f = true →
          (x.writesSettled = true → x.refused = none → WritesScalar (.fencer c f) c 0 0 false s)
            ∧ (x.writesSettled = true → x.refused ≠ none →
                (Starts (.fencer c f) s → TakesException (.fencer c f) c .window s)
                  ∧ (Starts (.endTask c f) s → TakesException (.endTask c f) c .window s))
            ∧ (x.writesSettled = false → waits (.fencer c f) ∧ waits (.endTask c f))
            ∧ (x.writesSettled = true → x.refused = none → Starts (.endTask c f) s →
                ∃ t, exec (.endTask c f) s = .next t ∧ OnlyCore c s t ∧ (t.core c).phase = .drain
                  ∧ (t.core c).pc = x.pc ∧ (t.core c).queue = x.queue ∧ (t.core c).qout = x.qout
                  ∧ ScalarFrame { x with phase := .drain } (t.core c) ∧ ScalarIs 0 0 false x (t.core c)))
        ∧ (∀ k w, barrierOf s c f.imm.toNat = some (k, w) →
          (Form.ok ⟨0, 0, 0, 1, 0, 32⟩ f = true →
              ((∀ e ∈ x.queue, writesBench e.op e.f = false) → Starts (.arrive c f) s →
                ∃ t, exec (.arrive c f) s = .next t ∧ SameBytes s t ∧ OtherCoresSame c s t ∧ RunsSame s t
                  ∧ t = { s with cores := t.cores, runs := t.runs, arrivals := t.arrivals } ∧ Advanced x (t.core c)
                  ∧ ScalarFrame x (t.core c)
                  ∧ t.arrivals = s.arrivals ++ [if Barrier.memory w then
                        .memory (barrierWord s k w).1 (barrierWord s k w).2 else .coupe k (BitVec.ofNat 8 f.imm.toNat)])
                ∧ ((∃ e ∈ x.queue, writesBench e.op e.f = true) → waits (.arrive c f)))
            ∧ (Form.ok ⟨0, 5, 0, 1, 0, 32⟩ f = true →
              (barrierOpen s k f.imm.toNat w (x.rd f.a.toNat).toNat = true → WritesScalar (.waitb c f) c 0 0 false s)
                ∧ (barrierOpen s k f.imm.toNat w (x.rd f.a.toNat).toNat = false → waits (.waitb c f)))))
    ∧ (∀ (c : CoreId) (f : Fields) (s : State), Form.ok ⟨0, 0, 0, 1, 0, 8⟩ f = true → Starts (.trap c f) s →
        ∃ t, exec (.trap c f) s = .next t ∧ TakesException (.trap c f) c .trap s ∧ OnlyCore c s t
          ∧ (t.core c).trapCode = BitVec.ofNat 8 f.imm.toNat ∧ (t.core c).phase = .retire)

/-- A tree is valid when node 0's PARENT is 0xFF, every other node's PARENT is below its own index, no node has a depth above
15 and every reserved bit is zero; TMASK builds the masks of such a tree by R247's recurrences: anc[i] := anc[PARENT[i]] or
bit i and depth[i] := depth[PARENT[i]] + 1 from anc[0] = 1 and depth[0] = 0. Row D takes the masks, row D + 1 the depths and
parents, both zero beyond n (R247, R248). -/
def Obligations.TreeMasksFollowTheRecurrence : Prop :=
  ∀ (c : CoreId) (f : Fields) (anc depth : Nat → Nat) (s : State), Starts (.tmask c f) s → coreCourser c = true →
    let x := s.core c
    let d := (x.rd f.d.toNat).toNat
    let a := (x.rd f.a.toNat).toNat
    let n := f.imm.toNat
    let entry (i : Nat) : BitVec 64 := Row.word64 (taskRow s c a) i
    let parent (i : Nat) : Nat := bits (entry i) 63 56
    Form.ok ⟨5, 5, 0, 1, 0, 7⟩ f = true → 1 ≤ n → n ≤ 64 → x.rowsIn d 2 = true → x.rowsIn a 1 = true →
    anc 0 = 1 → depth 0 = 0 →
    (∀ i, 1 ≤ i → i < n → anc i = anc (parent i) ||| 1 <<< i ∧ depth i = depth (parent i) + 1) →
    parent 0 = 0xFF → (∀ i, 1 ≤ i → i < n → parent i < i) → (∀ i, i < n → depth i ≤ 15) →
    (∀ i, i < n → bits (entry i) 55 32 = 0) →
    ∃ t, exec (.tmask c f) s = .next t
      ∧ (∀ i, i < n → Row.word64 (taskRow t c d) i = BitVec.ofNat 64 (anc i)
          ∧ Row.word64 (taskRow t c (d + 1)) i = BitVec.ofNat 64 (parent i * 256 + depth i))
      ∧ (∀ i, n ≤ i → i < 64 → Row.word64 (taskRow t c d) i = 0 ∧ Row.word64 (taskRow t c (d + 1)) i = 0)

/-- TMASK judges the entries in index order, a broken one as a child of node 0, and changes no byte outside rows D and D + 1; TOPK
writes the K best candidates in order, and with SEL 0 the softmax pair of all of them in the next row, up to an interruption
point between two of its rows (R91, R248, R249). -/
def Obligations.TreeMasksAndTopK : Prop :=
  ∀ (c : CoreId) (f : Fields) (s : State), coreCourser c = true →
    let x := s.core c
    let d := (x.rd f.d.toNat).toNat
    let a := (x.rd f.a.toNat).toNat
    (Form.ok ⟨5, 5, 0, 1, 0, 7⟩ f = true → 1 ≤ f.imm.toNat → f.imm.toNat ≤ 64 →
      x.rowsIn d 2 = true → x.rowsIn a 1 = true → Starts (.tmask c f) s →
      let ns := treeNodes (taskRow s c a) f.imm.toNat
      ∃ t, exec (.tmask c f) s = .next t ∧ OnlyCoreAndRows c (x.base.toNat + d) 2 s t ∧ Advanced x (t.core c)
        ∧ ReadFrame x (t.core c) ∧ ScalarIs 0 0 false x (t.core c)
        ∧ taskRow t c d = BitVec.ofNat 4096 (packLE 64 (ns.map (·.anc)))
        ∧ taskRow t c (d + 1) = BitVec.ofNat 4096 (packLE 64 (ns.map (fun q => q.depth ||| q.parent <<< 8))))
      ∧ (let k := f.imm.toNat
        let b := x.rd f.b.toNat
        let n := bits b 19 0
        let raw : Bool := f.sel = 0
        let src := if raw then ceilDiv n 128 else ceilDiv n 64
        let out := ceilDiv (8 * k) 512
        let all := out + b2n raw
        Form.ok ⟨5, 5, 5, 2, 0, 9⟩ f = true → 1 ≤ k → k ≤ 256 → n ≠ 0 → bits b 31 20 = 0 → bits b 63 52 = 0 →
        x.rowsIn d all = true → x.rowsIn a src = true →
        let cands : List (BitVec 32 × F32) := (List.range n).map (fun i =>
          if raw then (BitVec.ofNat 32 (bits b 51 32 + i), Row.word32 (taskRow s c (a + i / 128)) (i % 128))
          else
            let e := Row.word64 (taskRow s c (a + i / 64)) (i % 64)
            (BitVec.ofNat 32 (bits e 63 32), BitVec.ofNat 32 (bits e 31 0)))
        let best := topK k (cands.filter (fun e => !e.2.isNaN))
        let pair := topkSoftmax (n / 64 + 1) (cands.map (·.2)) (F32.negInf, 0)
        ∀ stop, Starts (.topk c f stop) s →
        let lim := pauseAt stop all
        ∃ t, exec (.topk c f stop) s = .next t ∧ (∀ e, (e < benchAddr c (x.base.toNat + d)
              ∨ benchAddr c (x.base.toNat + d + lim) ≤ e) → Memory.byte e t.mem = Memory.byte e s.mem)
          ∧ OtherCoresSame c s t ∧ (lim = all → Advanced x (t.core c))
          ∧ (lim ≠ all → Waits .busy x (t.core c) ∧ (t.core c).stallSince = 0)
          ∧ (t.core c).g = x.g ∧ (t.core c).v = x.v
          ∧ (∀ i, i < k → i / 64 < lim → Row.word64 (taskRow t c (d + i / 64)) (i % 64)
              = (best.getD i (0, 0)).1 ++ (best.getD i (0, 0)).2)
          ∧ (raw = true → lim = all → Row.word64 (taskRow t c (d + out)) 0 = pair.2 ++ pair.1))

/-! ## Core instructions: issue -/

/-- A program counter whose row lies beyond BOUND ends the task with BOUND, whichever instruction stands there (R72); a word
there with a reserved CLASS or an unassigned OP, and an operation that uses fewer fields than are set, is ILLEGAL, before any
other exception (R76, R87). An instruction that depends on an earlier one that has not completed waits, in the category in
which that one waits; one whose unit's queue is full waits, and one whose unit is busy goes into its queue (R38, R83). The oldest
of a queue goes on when its command comes again: a vector operation then writes its result and leaves the queue, and the
program counter, which is that of the next instruction to issue, stays (R83, R85). An instruction sent to a core that does
not issue changes nothing (the model's choice, log entry 9). A core that completes an instruction counts one stand cycle, as
a busy one (R63), and reads STALL_SINCE as zero (R64). -/
def Obligations.ExceptionsAndCyclesOfIssue : Prop :=
  (∀ (i : Instr) (c : CoreId) (op : Nat) (f : Fields) (s : State), coreInstr i = some (c, op, f) →
      let x := s.core c
      x.queue.find? (fun e => e.op = op && e.f = f) = none →
      (x.ready = true → x.bound.toNat < x.base.toNat + x.pc.toNat / 64 → TakesException i c .bound s)
        ∧ (x.ready = true → ¬x.bound.toNat < x.base.toNat + x.pc.toNat / 64 →
          opAssigned (Word.op (codeWord s c)) = false → TakesException i c .illegal s)
        ∧ (x.ready = false → exec i s = .next s)
        ∧ (Issues c s → ∀ e, x.blocker op f = some e →
          ∃ t, exec i s = .next t ∧ OnlyCore c s t ∧ Waits e.wait x (t.core c) ∧ (t.core c).g = x.g ∧ (t.core c).v = x.v)
        ∧ (Issued i s → ∀ u, opUnit op = some u → x.inUnit u ≠ [] →
          ∃ t, exec i s = .next t ∧ OnlyCore c s t ∧ (t.core c).g = x.g ∧ (t.core c).v = x.v ∧ (t.core c).acc = x.acc
            ∧ ((t.core c).phase = .retire ∧ (t.core c).pc = x.pc
              ∨ (u.depth ≤ (x.inUnit u).length ∧ t = s)
              ∨ ((x.inUnit u).length < u.depth ∧ (t.core c).pc = x.pc + 1 ∧ (t.core c).issueSeq = x.issueSeq + 1
                ∧ (t.core c).queue = x.queue ++ [⟨x.pc, op, f, x.issueSeq, .busy, x.lastQueue⟩]))))
    ∧ (∀ (i : Instr) (c : CoreId) (op : Nat) (f : Fields) (s : State), coreInstr i = some (c, op, f) →
        (s.core c).queue.find? (fun e => e.op = op && e.f = f) ≠ none → (s.core c).goesOn = false → exec i s = .next s)
    ∧ (∀ (c : CoreId) (f : Fields) (stop : Option Nat) (s : State),
        (∀ i ∈ [Instr.add c f, .sub c f, .and_ c f, .or_ c f, .xor_ c f, .shl c f, .shr c f, .sar c f, .mul c f, .slt c f,
            .sltu c f, .seq c f], legalBI f = false → Issued i s → TakesException i c .illegal s)
          ∧ (∀ p ∈ [(Instr.nop c f, Form.nil), (.endTask c f, Form.nil), (.br c f, ⟨0, 0, 0, 1, 0, 32⟩),
              (.beq c f, ⟨0, 5, 5, 1, 0, 32⟩), (.bne c f, ⟨0, 5, 5, 1, 0, 32⟩), (.blt c f, ⟨0, 5, 5, 1, 0, 32⟩),
              (.bge c f, ⟨0, 5, 5, 1, 0, 32⟩), (.loop c f, ⟨0, 5, 0, 1, 0, 32⟩), (.jal c f, ⟨5, 0, 0, 1, 0, 32⟩),
              (.jr c f, ⟨0, 5, 0, 1, 0, 0⟩), (.pop c f stop, ⟨0, 5, 5, 4, 0, 0⟩), (.push c f stop, ⟨0, 5, 5, 4, 0, 0⟩),
              (.bcopy c f stop, ⟨5, 5, 5, 1, 0, 0⟩), (.rdw c f, ⟨5, 5, 0, 1, 0, 6⟩), (.stv c f, ⟨4, 5, 0, 1, 0, 0⟩),
              (.vadd c f, ⟨4, 4, 4, 1, 0, 0⟩), (.vabs c f, ⟨4, 4, 0, 1, 0, 0⟩), (.vcmp c f, ⟨4, 4, 4, 4, 0, 0⟩),
              (.qflush c f stop, Form.nil), (.waitu c f, ⟨0, 0, 0, 1, 15, 0⟩), (.fencer c f, Form.nil),
              (.trap c f, ⟨0, 0, 0, 1, 0, 8⟩)], p.2.ok f = false → Issued p.1 s → TakesException p.1 c .illegal s))
    ∧ (∀ (c : CoreId) (f : Fields) (s : State), Starts (.nop c f) s → Form.ok ⟨0, 0, 0, 1, 0, 0⟩ f = true →
        ∃ t, exec (.nop c f) s = .next t
          ∧ (t.core c).counters.get 0 0 = (s.core c).counters.get 0 0 + 1
          ∧ (t.core c).counters.get 0 2 = (s.core c).counters.get 0 2 + 1
          ∧ (∀ i, i ≠ 0 → i ≠ 2 → (t.core c).counters.get 0 i = (s.core c).counters.get 0 i)
          ∧ (t.core c).stallSince = 0)
    ∧ (∀ (c : CoreId) (f : Fields) (s : State) (e : Queued) (i : Instr) (op : F32 → F32 → F32),
        (i, op) ∈ [(Instr.vadd c f, F32.add), (.vsub c f, F32.sub), (.vmul c f, F32.mul), (.vmin c f, F32.min),
          (.vmax c f, F32.max), (.vcsgn c f, F32.copySign)] →
        (∀ n, (coreInstr i).map (·.2.1) = some n →
          (s.core c).queue.find? (fun q => q.op = n && q.f = f) = some e) → Form.ok ⟨4, 4, 4, 1, 0, 0⟩ f = true →
        let x := s.core c
        x.goesOn = true → ((x.inUnit .vector).head?.map (·.seq)) = some e.seq →
        ∃ t, exec i s = .next t ∧ OnlyCore c s t ∧ (t.core c).pc = x.pc ∧ (t.core c).phase = x.phase
          ∧ (t.core c).queue = x.queue.filter (fun q => q.seq ≠ e.seq) ∧ (t.core c).counters = x.counters
          ∧ VectorIs f.d.toNat (lanes2 op (x.vec f.a.toNat) (x.vec f.b.toNat)) (x.vecP f.a.toNat || x.vecP f.b.toNat) x
              (t.core c)
          ∧ VectorFrame x (t.core c))

/-! ## Tasks and cores -/

/-- A dispatched record that suits the core and its incarnation, and that its open step sends next, starts on an idle core
with the registers that it gives and every counter of the safeguards at zero, or waits behind the running task; an unsuitable
one starts nothing, and a stale one is sent again with the current incarnation (R55–R57, R152). A task that has drained or met
an exception retires, once its issued instructions have completed and its queues have taken its output: the core is free or
goes on with the pending record, the sequencer has its report, and outside a step the coupe's totals take its counters
(R34, R57–R59). -/
def Obligations.TasksStartAndRetire : Prop :=
  (∀ (c : CoreId) (w : BitVec 512) (s : State),
        let x := s.core c
        clocksRun s = true → x.haltWanted = false → x.halted = false → (s.slot c).moving = false → x.next = none →
        coreHalting s c = false →
        (recordOk c w = true → nextRecord s c w = true → Task.incarn w = (s.slot c).incarn →
            ∃ t, exec (.taskDispatch c w) s = .next t ∧ SameBytes s t ∧ OtherCoresSame c s t
              ∧ (x.task = none → (t.core c).task = some w ∧ (t.core c).phase = .run ∧ (t.core c).exc = .done
                ∧ (t.core c).pc = BitVec.ofNat 21 (bits w 321 301) ∧ (t.core c).base = BitVec.ofNat 15 (bits w 351 337)
                ∧ (t.core c).bound = BitVec.ofNat 15 (bits w 336 322)
                ∧ (∀ r, (t.core c).rd r = if r = 1 then BitVec.ofNat 64 (bits w 172 109)
                    else if r = 2 then BitVec.ofNat 64 (bits w 108 45) else 0)
                ∧ (t.core c).qcw = BitVec.ofNat 64 (bits w 511 448) ∧ (t.core c).lfsr = BitVec.ofNat 32 (bits w 447 416)
                ∧ (t.core c).qsat = 0 ∧ (t.core c).kovf = 0 ∧ (t.core c).nanp = 0 ∧ (t.core c).maxabs = 0
                ∧ (t.core c).queue = [] ∧ (t.core c).windows = x.windows ∧ (t.core c).counters = x.counters)
              ∧ (x.task ≠ none → t.core c = { x with next := some w }))
          ∧ (recordOk c w = true → nextRecord s c w = false → exec (.taskDispatch c w) s = .next s)
          ∧ (recordOk c w = true → nextRecord s c w = true → Task.incarn w ≠ (s.slot c).incarn →
            ∃ t, exec (.taskDispatch c w) s = .next t ∧ SameBytes s t ∧ t.cores = s.cores
              ∧ (∀ k st, coupeOf s c = some k → (s.run k).openStep = some st →
                  (t.run k).openStep = some { st with toDispatch := st.toDispatch.map (fun e =>
                    if e = (c, w) then (c, withIncarn w (s.slot c).incarn) else e) }))
          ∧ (recordOk c w = false → ∃ t, exec (.taskDispatch c w) s = .next t ∧ (t.core c).next = none
              ∧ ((t.core c).task = x.task ∨ (t.core c).task = none)))
    ∧ (∀ (c : CoreId) (w : BitVec 512) (s : State),
        let x := s.core c
        x.task = some w →
        (x.queue = [] → ((x.phase = .drain ∧ x.drained = true ∧ x.qout = none) ∨ x.phase = .retire) →
            ∃ t, exec (.taskRetire c) s = .next t ∧ SameBytes s t ∧ OtherCoresSame c s t
              ∧ (x.next = none ∨ x.haltWanted = true →
                  t.core c = { x.closeSpans with task := none, phase := .idle, stall := .idle, stallSince := 0 })
              ∧ (∀ n, x.next = some n → x.haltWanted = false → (t.core c).task = some n ∧ (t.core c).next = none
                  ∧ (t.core c).phase = .run ∧ (t.core c).pc = BitVec.ofNat 21 (bits n 321 301))
              ∧ (∀ k st, coupeOf s c = some k → (s.run k).openStep = some st →
                  ∃ st', (t.run k).openStep = some st' ∧ st'.reports = st.reports ++ [retireReport c x.closeSpans w])
              ∧ (∀ k, coupeOf s c = some k → (s.run k).openStep = none →
                  (t.coupe k).totals.qsat = (s.coupe k).totals.qsat + x.qsat.setWidth 64
                    ∧ (t.coupe k).totals.kovf = (s.coupe k).totals.kovf + x.kovf.setWidth 64
                    ∧ (t.coupe k).totals.nanp = (s.coupe k).totals.nanp + x.nanp.setWidth 64))
          ∧ (x.queue ≠ [] → exec (.taskRetire c) s = .next s)
          ∧ (x.queue = [] → x.phase = .drain →
            ((writeOut c s).1 = false ∨ ((writeOut c s).2.core c).drained = false) →
            exec (.taskRetire c) s = .next (writeOut c s).2))

/-- HALT makes a core stop before its next instruction; once halted its remote reads are cancelled and kept with the
resume record (log entry 110), while a task that drains or retires is finished first (R60, R61). A core reset zeroes the
core but for its windows, error log and bench records; a coupe reset resets every core of the coupe and flushes its queues
(R69–R71, R146). A RESET descriptor completes with OK. -/
def Obligations.HaltAndResets : Prop :=
  (∀ (c : CoreId) (s : State),
      let x := s.core c
      (x.halted = false → ∃ t, exec (.halt c) s = .next t ∧ t = s.setCore c { x with haltWanted := true }
          ∧ (t.core c).ready = false)
        ∧ (x.halted = true → exec (.halt c) s = .next s)
        ∧ (x.haltWanted = true → x.halted = false → (x.phase = .run ∨ x.phase = .idle) →
          ∃ t, exec (.coreHalted c) s = .next t ∧ SameBytes s t ∧ OtherCoresSame c s t
            ∧ t.core c = { x with
                halted := true
                reads := []
                cancelledReads := x.cancelledReads ++ x.reads
                haltedAt := now48 s
                stationary := []
                resumeHeader := x.resumeRecord.1
                resumeList := x.resumeRecord.2 }
            ∧ t.readReqs = s.readReqs.filter (fun q => q.reader ≠ c)
            ∧ t.readReplies = s.readReplies.filter (fun q => q.reader ≠ c))
        ∧ (x.haltWanted = true → x.halted = false → (x.phase = .drain ∨ x.phase = .retire) →
          exec (.coreHalted c) s = .next s))
    ∧ (∀ (c : CoreId) (k : CoupeId) (s : State),
        (∃ t, exec (.coreReset c none) s = .next t ∧ SameBytes s t ∧ OtherCoresSame c s t
            ∧ t.core c = { Core.reset with
                qcw := 0
                windows := (s.core c).windows
                errLog := (s.core c).errLog
                scrub := (s.core c).scrub
                scrubCE := (s.core c).scrubCE
                spareLines := (s.core c).spareLines
                haltWanted := (s.core c).haltWanted
                halted := (s.core c).halted
                saving := (s.core c).saving }
            ∧ (∀ q ∈ t.readReqs, q.reader ≠ c) ∧ (∀ q ∈ t.readReplies, q.reader ≠ c))
          ∧ (∀ q : Desc, canStart s q = true → Hdr.opcode q.w = 0x0D → bits q.w 511 510 = 0 → bits q.w 509 498 = c.toNat →
            ∃ t, exec (.coreReset c (some q)) s = .next t ∧ EndsWith q Status.ok t ∧ t.core c = (s.core c).cleared
              ∧ SameBytes s t ∧ OtherCoresSame c s t)
          ∧ (∃ t, exec (.coupeReset k none) s = .next t ∧ SameBytes s t
            ∧ (∀ d, d ∈ coupeCores s k → t.core d = (s.core d).cleared) ∧ (∀ d, d ∉ coupeCores s k → t.core d = s.core d)
            ∧ (t.run k).epoch = (s.run k).epoch + 1
            ∧ (∀ h q, t.queue k h = some q → q.network = [] ∧ q.staging = [] ∧ q.slackCount = 0 ∧ q.marker = none
                ∧ q.returning = 0 ∧ q.credits = q.depth))
          ∧ (∀ q : Desc, canStart s q = true → Hdr.opcode q.w = 0x0D → bits q.w 511 510 = 1 → bits q.w 497 491 = k.toNat →
            ∃ t, exec (.coupeReset k (some q)) s = .next t ∧ EndsWith q Status.ok t
              ∧ ∀ d, d ∈ coupeCores s k → t.core d = (s.core d).cleared))

/-! ## The bench and the remote path -/

/-- A narrow request starved by wide accesses is a CONFLICT of the local instruction, whose wait counts NARROW, or of the
instruction that made the latest wide access to the bank, with its record; the instructions issued before it go on. The
scrubber's requests are never charged (R63, R99, R101, R102). A dead core is retired: the slot's incarnation advances,
0xFFFF to 1, and the lowest unused spare of the stand serves the slot; without a spare the slot fails and the stand leaves
service (R66, R370). The scrubber reads the rows of an awake core's bench in ascending order, from 30,719 on to 0; a row
whose errors are all correctable is stored corrected (R116). The patrol of a deck stack in service visits its granules in
turn and leaves none with a stored error (R191). -/
def Obligations.TheBenchIsKept : Prop :=
  ((∀ (c : CoreId) (row : BitVec 15) (s : State),
          let x := s.core c
          x.task.isSome = true → x.phase = .run → x.halted = false →
          let charged (kind : NarrowKind) (cause : Nat) (pc : BitVec 21) (seq : Nat) : Prop :=
            ∃ t, exec (.benchStarvation c row kind) s = .next t ∧ OtherCoresSame c s t ∧ t = { s with cores := t.cores }
              ∧ (t.core c).phase = .retire ∧ (t.core c).exc = .conflict
              ∧ (t.core c).conflictRec = conflictRecord c cause row.toNat (pc.toNat / 64) (pc.toNat % 64) 0
              ∧ (t.core c).queue = x.queue.filter (fun o => o.seq < seq)
              ∧ (t.core c).pc = x.pc ∧ (t.core c).g = x.g ∧ (t.core c).v = x.v ∧ (t.core c).acc = x.acc
              ∧ (∀ i, (t.core c).counters.get 0 i
                  = x.counters.get 0 i + if kind = .localRequest ∧ (i = 0 ∨ i = 7) then 1024 else 0)
          charged .localRequest 1 x.firstIssued.1 x.firstIssued.2
            ∧ (∀ pc seq, x.lastWide.get none (row.toNat % 32) = some (pc, seq) → charged .otherRequest 2 pc seq)
            ∧ (x.lastWide.get none (row.toNat % 32) = none → exec (.benchStarvation c row .otherRequest) s = .next s)
            ∧ exec (.benchStarvation c row .scrubber) s = .next s)
        ∧ (∀ (c : CoreId) (s : State),
            let g := coreStand c
            let old := physOf s c
            let left := spares (s.setStand g { s.stand g with retired := (s.stand g).retired ++ [old] }) g
            ∃ t, exec (.coreDeadTimeout c) s = .next t ∧ SameBytes s t
              ∧ (t.slot c).incarn = (if (s.slot c).incarn = 0xFFFF then 1 else (s.slot c).incarn + 1)
              ∧ (t.stand g).retired = (s.stand g).retired ++ [old]
              ∧ (∀ p rest, left = p :: rest → (t.slot c).phys = some p ∧ (t.slot c).moving = true ∧ (t.slot c).movingFrom = old
                  ∧ (t.slot c).state = (s.slot c).state ∧ t.core c = (s.core c).cleared)
              ∧ (left = [] → (t.slot c).state = .failed ∧ (t.stand g).inService = false)
              ∧ (∀ d, d ≠ c → t.slot d = s.slot d)))
    ∧ ((∀ (c : CoreId) (s : State), (s.stand (coreStand c)).asleep = false →
          let r := (s.core c).scrub.toNat
          let e := s.rowErrors.get RowError.none (benchAddr c r)
          ∃ t, exec (.scrubRow c) s = .next t ∧ SameBytes s t ∧ OtherCoresSame c s t
            ∧ (t.core c).scrub.toNat = (r + 1) % 30720
            ∧ (e.ue = none → (t.rowErrors.get RowError.none (benchAddr c r)).ce = [])
            ∧ (t.core c).g = (s.core c).g ∧ (t.core c).pc = (s.core c).pc ∧ (t.core c).task = (s.core c).task)
        ∧ (∀ (u : Fin 24) (h : u.val < 8) (s : State), (s.stack ⟨u.val, h⟩).state = .on →
            let p := (s.stack ⟨u.val, h⟩).patrol
            let a := stackBase u.val + 64 * p
            p < stackSize / 64 →
            ∃ t, exec (.memoryPatrol u) s = .next t ∧ t.cores = s.cores
              ∧ (t.stack ⟨u.val, h⟩).patrol = (p + 1) % (stackSize / 64)
              ∧ t.granuleErrors.get .none a = .none
              ∧ (∀ b, b ≠ a → t.granuleErrors.get .none b = s.granuleErrors.get .none b)
              ∧ (leaseSource s a = none → SameBytes s t)))

/-- A remote read is served only when its target core belongs to the reader's coupe: then the row is returned as it stands. One
whose target is outside the coupe, isolated or a FAILED slot, or that names a row beyond 30,719, returns zeros with the
poison bit set and raises an isolation event, the first of its kind in the step. No core takes an exception; a request waits
behind an older window row between the same two cores (R105, R129, R272). -/
def Obligations.RemoteReadsStayInTheCoupe : Prop :=
  ∀ (c : CoreId) (q : ReadReq) (rest : List ReadReq) (s : State), takeFirst (fun q => q.target = c) s.readReqs = some (q, rest) →
    (requestFirst s q = false → exec (.remoteReadRequest c) s = .next s)
      ∧ (requestFirst s q = true → q.incarn = (s.slot q.reader).incarn → ∀ k : CoupeId, coupeOf s q.reader = some k →
        let answers (p : Bool → Prop) (d : Row) (t : State) : Prop :=
          exec (.remoteReadRequest c) s = .next t ∧ SameBytes s t ∧ t.readReqs = rest
            ∧ (∃ b, p b ∧ t.readReplies = s.readReplies ++ [⟨q.reader, d, b, c, sentNow s⟩])
            ∧ (∀ e, (t.core e).phase = (s.core e).phase ∧ (t.core e).exc = (s.core e).exc)
        let served : Prop := coupeOf s q.target = some k ∧ (s.stand (coreStand q.target)).isolated = false
          ∧ (s.slot q.target).state ≠ .failed ∧ q.row.toNat ≤ 30719
        (¬served → ∃ t, answers (· = true) 0 t
            ∧ ((s.run k).isolation.contains 1 = false → ∃ e, t.events = s.events ++ [e] ∧ e.kind = 0x03 ∧ e.coupe = k)
            ∧ ((s.run k).isolation.contains 1 = true → t.events = s.events))
          ∧ (served → ∃ t, answers (fun _ => True) (Memory.row (benchAddr q.target q.row.toNat) s.mem) t))

/-- A reply to a remote read stores its row where RREAD asked for it and moves the instruction's registers on by one row
(R78, R85). The oldest window row for a core is stored in the window's bench rows when the window admits it, and otherwise
changes no byte; the writer is acknowledged with the cause (R109). An acknowledgement lowers the writer's count and records
the first refusal (R89). What one core sent another earlier in the same class comes first (R129). -/
def Obligations.TheRemotePath : Prop :=
  ((∀ (c : CoreId) (q : ReadReply) (rest : List ReadReply) (rr : RemoteRead) (more : List RemoteRead) (s : State),
            takeFirst (fun q => q.reader = c) s.readReplies = some (q, rest) →
            let x := s.core c
            x.reads = rr :: more →
            (replyFirst s q = false → exec (.remoteReadReply c) s = .next s)
              ∧ (replyFirst s q = true →
                ∃ t, exec (.remoteReadReply c) s = .next t ∧ t.readReplies = rest ∧ OtherCoresSame c s t
                  ∧ Memory.row (benchAddr c rr.dest.toNat) t.mem = q.data
                  ∧ (∀ a, (a < benchAddr c rr.dest.toNat ∨ benchAddr c (rr.dest.toNat + 1) ≤ a) →
                      Memory.byte a t.mem = Memory.byte a s.mem)
                  ∧ (t.core c).reads = more ∧ (t.core c).pc = x.pc ∧ (t.core c).v = x.v ∧ (t.core c).queue = x.queue
                  ∧ (rr.dReg ≠ rr.aReg → rr.dReg ≠ rr.bReg → rr.aReg ≠ rr.bReg →
                      ∀ r, (t.core c).rd r = if r = 0 then 0 else if r = rr.dReg.toNat then x.rd r + 1
                        else if r = rr.aReg.toNat then x.rd r + 1 else if r = rr.bReg.toNat then x.rd r - 1 else x.rd r))))
    ∧ ((∀ (c : CoreId) (q : WindowRow) (rest : List WindowRow) (s : State),
          takeFirst (fun q => q.target = c) s.windowRows = some (q, rest) → q.incarn = (s.slot q.writer).incarn →
          let row := Win.baseRow ((s.core c).windows.get 0 q.window.toNat) + q.offset.toNat
          (windowFirst s q = false → exec (.windowRowArrival c) s = .next s)
            ∧ (windowFirst s q = true →
              ∃ t, exec (.windowRowArrival c) s = .next t ∧ t.windowRows = rest ∧ t.cores = s.cores
                ∧ t.acks = s.acks ++ [⟨q.writer, BitVec.ofNat 4 (windowCheck s q), c, sentNow s⟩]
                ∧ (windowCheck s q = 0 → Memory.row (benchAddr c row) t.mem = q.data
                    ∧ ∀ a, (a < benchAddr c row ∨ benchAddr c (row + 1) ≤ a) → Memory.byte a t.mem = Memory.byte a s.mem)
                ∧ (windowCheck s q ≠ 0 → SameBytes s t)))
        ∧ (∀ (c : CoreId) (q : WriteAck) (rest : List WriteAck) (s : State),
          takeFirst (fun q => q.writer = c) s.acks = some (q, rest) → ackFirst s q = true →
          let x := s.core c
          ∃ t, exec (.rwriteAcknowledgement c) s = .next t ∧ t.acks = rest ∧ SameBytes s t ∧ OtherCoresSame c s t
            ∧ (t.core c).writesOut = x.writesOut - 1 ∧ (t.core c).g = x.g ∧ (t.core c).pc = x.pc
            ∧ (q.cause = 0 → (t.core c).refused = x.refused)
            ∧ (q.cause ≠ 0 → x.refused = none → (t.core c).refused = some q.cause ∧ (t.core c).windowCause = q.cause)
            ∧ (∀ v, x.refused = some v → (t.core c).refused = some v)))

/-! ## The stream network -/

/-- Items cross the network in order, and after those that the same core sent the same core earlier (R129): the oldest
reaches the consumer's staging of four, or the slack ring in the consumer's bench when the staging is full; slack rows
follow in order; credits come back one by one (R124–R127). A skid row is written to its member's bench and forwarded to
the next, and the last row of the last member arrives at the barrier (R166). An arrival at a coupe's barrier raises its
count by one; one at a word of the deck counts under its tag (R169, R170). -/
def Obligations.TheStreamNetwork : Prop :=
  (∀ (k : CoupeId) (h : BitVec 16) (q : Queue) (s : State), s.queue k h = some q → padOf s k q = none →
        (laneFirst s k q = false → exec (.streamRowArrival k h) s = .next s)
          ∧ (∀ it rest, laneFirst s k q = true → q.network = it :: rest → q.marker = none → q.slackCount = 0 →
            q.staging.length < 4 →
            ∃ t q', exec (.streamRowArrival k h) s = .next t ∧ SameBytes s t ∧ t.cores = s.cores ∧ t.queue k h = some q'
              ∧ q'.network = rest ∧ q'.sent = q.sent.drop 1 ∧ q'.staging = q.staging ++ [it] ∧ q'.slackCount = 0
              ∧ q'.credits = q.credits ∧ q'.returning = q.returning)
          ∧ (∀ data p rest, laneFirst s k q = true → q.network = .row data p :: rest → q.marker = none →
            (0 < q.slackCount ∨ 4 ≤ q.staging.length) → q.slackCount < QRec.slackLen q.record →
            let row := QRec.slackBase q.record + (q.slackHead + q.slackCount) % QRec.slackLen q.record
            ∃ t q', exec (.streamRowArrival k h) s = .next t ∧ t.cores = s.cores ∧ t.queue k h = some q'
              ∧ Memory.row (benchAddr (QRec.cons q.record) row) t.mem = data
              ∧ (∀ a, (a < benchAddr (QRec.cons q.record) row ∨ benchAddr (QRec.cons q.record) (row + 1) ≤ a) →
                  Memory.byte a t.mem = Memory.byte a s.mem)
              ∧ q'.network = rest ∧ q'.staging = q.staging ∧ q'.slackCount = q.slackCount + 1)
          ∧ (0 < q.slackCount → q.staging.length < 4 → q.marker = none →
            let row := QRec.slackBase q.record + q.slackHead % QRec.slackLen q.record
            ∃ t q' p, exec (.slackRefill k h) s = .next t ∧ SameBytes s t ∧ t.queue k h = some q'
              ∧ q'.staging = q.staging ++ [.row (Memory.row (benchAddr (QRec.cons q.record) row) s.mem) p]
              ∧ q'.slackCount = q.slackCount - 1 ∧ q'.network = q.network)
          ∧ (q.returning ≠ 0 → isReduction h = false → q.span = false →
            (coupeHalting s k = true ∨ ((s.run k).feedPlans.find? (fun f => f.handle = h) = none
              ∧ ∀ tr ∈ s.transfers, ¬(Mv.ofCoupe tr.w k = true ∧ Mv.dspace tr.w = 2 ∧ Mv.dst tr.w = h.toNat))) →
            ((s.core (QRec.prod q.record)).port (4 + QRec.prodPort q.record) ≠ h) →
            ∃ t, exec (.creditReturn k h) s = .next t ∧ SameBytes s t ∧ t.cores = s.cores
              ∧ t.queue k h = some { q with returning := q.returning - 1, credits := q.credits + 1 }))
    ∧ ((∀ (k : CoupeId) (c : CoreId) (f : SkidFwd) (x : Chain) (s : State), skidFor s k c = some (f, x) →
          coupeOf s c = some k → (s.slot c).moving = false →
          (coupeHalting s k = true → exec (.skidRow k c) s = .next s)
            ∧ (coupeHalting s k = false →
              ∃ t, exec (.skidRow k c) s = .next t ∧ t.cores = s.cores
                ∧ Memory.row (benchAddr c (x.row + f.ord)) t.mem = f.data
                ∧ (∀ a, (a < benchAddr c (x.row + f.ord) ∨ benchAddr c (x.row + f.ord + 1) ≤ a) →
                    Memory.byte a t.mem = Memory.byte a s.mem)
                ∧ t.skids = dropSkid f s.skids ++ (if f.place + 1 < x.members.length
                    then [{ f with place := f.place + 1 }] else [])
                ∧ t.arrivals = s.arrivals ++ (if f.place + 1 < x.members.length ∨ f.last = false then []
                    else [.coupe k x.barrier])))
        ∧ (∀ (k : CoupeId) (b : BitVec 8) (rest : List Arrival) (s : State),
          dropArrival (.coupe k b) s.arrivals = some rest →
          ∃ t, exec (.barrierArrival (.coupe k b)) s = .next t ∧ SameBytes s t ∧ t.cores = s.cores ∧ t.arrivals = rest
            ∧ ∀ i, (t.run k).barriers.get 0 i = (s.run k).barriers.get 0 i + if i = b.toNat then 1 else 0)
        ∧ (∀ (addr : BitVec 48) (tag : BitVec 16) (rest : List Arrival) (s : State),
          dropArrival (.memory addr tag) s.arrivals = some rest → wordStands s addr.toNat = true →
          s.granuleErrors.get .none (addr.toNat / 64 * 64) = .none →
          s.granuleErrors.get .none ((addr.toNat + 7) / 64 * 64) = .none →
          ∃ t, exec (.barrierArrival (.memory addr tag)) s = .next t ∧ t.cores = s.cores ∧ t.arrivals = rest
            ∧ (∀ a, (a < addr.toNat ∨ addr.toNat + 8 ≤ a) → Memory.byte a t.mem = Memory.byte a s.mem)
            ∧ (wordTag s addr.toNat = tag → wordCount s addr.toNat < 2 ^ 32 - 1 →
                wordTag t addr.toNat = tag ∧ wordCount t addr.toNat = wordCount s addr.toNat + 1)))


/-! ## Movers and memory -/

/-- A free mover that takes a legal descriptor writes rows in order at the destination: the pattern of a FILL, into memory or
to the host, the rows of the source of a COPY or MOVE between memories, or the host's rows; every other byte stays. A host
read that fails ends the transfer (R176–R180, R202). -/
def Obligations.MoversWriteRowsInOrder : Prop :=
  ∀ (m : MoverId) (w : BitVec 512) (n : Nat) (host : HostRows) (s : State),
    s.transfers.find? (fun t => t.mover = m) = none → transferHeld s w = false → loadOf s w = none →
    let plan := transferPlan s w
    let k := min n plan.length
    moverCause s w plan = 0 → touchesFailed s w plan = false →
    (Mv.device w = true ∨ (maskedSeq s w false = false ∧ maskedSeq s w true = false)) →
    let running (t : State) (rows : Nat) : Prop :=
      ∃ tr, t.transfers.find? (fun t => t.mover = m) = some tr ∧ tr.w = w ∧ tr.written = rows
          ∧ tr.started = s.timebase ∧ tr.limit = transferLimit w plan
    let stored (t : State) (rows : Nat) : Prop :=
      (∀ a, (a < Mv.dst w ∨ Mv.dst w + 512 * rows ≤ a) → Memory.byte a t.mem = Memory.byte a s.mem) ∧ running t rows
    (Mv.op w = 3 → Mv.dspace w = 0 → Mv.blen w = 0 →
        ∃ t, exec (.moverTransfer m w n host) s = .next t ∧ stored t k
          ∧ ∀ i, i < k → Memory.row (Mv.dst w + 512 * i) t.mem = Row.ofWords32 (List.replicate 128 (Mv.pattern w)))
      ∧ (Mv.op w = 3 → Mv.dspace w = 1 → Mv.blen w = 0 → Mv.sspace w = 0 →
        ∃ t, exec (.moverTransfer m w n host) s = .next t ∧ SameBytes s t ∧ running t k
          ∧ t.hostOut = s.hostOut ++ (List.range k).map (fun i => ⟨BitVec.ofNat 64 (Mv.dst w + 512 * i),
              bytesLE 512 (Row.ofWords32 (List.replicate 128 (Mv.pattern w))).toNat, false⟩))
      ∧ (Mv.op w ≠ 3 → Mv.sspace w = 0 → Mv.dspace w = 0 → Mv.blen w = 0 → Mv.walk w = 0xFFFF →
        s.granuleErrors = [] → (Mv.src w + 512 * k ≤ Mv.dst w ∨ Mv.dst w + 512 * k ≤ Mv.src w) →
        ∃ t, exec (.moverTransfer m w n host) s = .next t ∧ stored t k
          ∧ ∀ i, i < k → Memory.row (Mv.dst w + 512 * i) t.mem = Memory.row (Mv.src w + 512 * i) s.mem)
      ∧ (∀ rows, Mv.op w ≠ 3 → Mv.sspace w = 1 → Mv.dspace w = 0 → Mv.blen w = 0 → Mv.walk w = 0xFFFF → host = .ok rows →
        ∃ t, exec (.moverTransfer m w n host) s = .next t ∧ stored t (min k rows.length)
          ∧ ∀ i (h : i < rows.length), i < k → Memory.row (Mv.dst w + 512 * i) t.mem = rows[i].1)
      ∧ (Mv.op w ≠ 3 → Mv.sspace w = 1 → (host = .failed ∨ host = .timeout) →
        ∃ t, exec (.moverTransfer m w n host) s = .next t ∧ SameBytes s t
          ∧ t.transfers.find? (fun t => t.mover = m) = none)

/-- A transfer whose rows are all written leaves its mover and makes its arrival; a MOVE between memories gives its
allocation the new address (R180, R181). A transfer past its deadline leaves its mover and the requests that depend on
it end with LOWER_TIER_TIMEOUT; before its deadline nothing happens, and no byte of memory changes (R202, R203). The
head of a pool's wait queue is granted a free run when R186 allows and nothing granted is ahead of it, and leaves the queue;
a request that has waited
past its limit leaves it and its descriptor completes with NO_BUFFER (R186, R188). -/
def Obligations.TransfersAndAllocations : Prop :=
  ((∀ (m : MoverId) (host : HostRows) (tr : Transfer) (s : State), s.transfers.find? (fun t => t.mover = m) = some tr →
          transferHeld s tr.w = false → tr.plan.length ≤ tr.written →
          (s.run (Mv.coupe tr.w)).feedPlans.find? (fun f => f.w = some tr.w) = none →
          ((Mv.sspace tr.w = 1 ∧ Mv.op tr.w ≠ 3) → ∃ rows, host = .ok rows) →
          ∃ t, exec (.moverTransferComplete m host) s = .next t ∧ t.transfers.find? (fun t => t.mover = m) = none
            ∧ t.cores = s.cores
            ∧ t.arrivals = s.arrivals ++ (if Mv.bscope tr.w = 1 then [.coupe (Mv.coupe tr.w) (Mv.barrier tr.w)]
                else if Mv.bscope tr.w = 2 then [.memory (Mv.baddr tr.w) (Mv.btag tr.w)] else [])
            ∧ (Mv.device tr.w = false → Mv.op tr.w = 2 → Mv.sspace tr.w = 0 → Mv.dspace tr.w = 0 → tr.empty = false →
                s.moves.find? (fun v => v.desc = tr.w) = none → Mv.src tr.w ≠ Mv.dst tr.w → Mv.dst tr.w < 2 ^ 48 →
                ∀ a, s.dur.allocs.find? (fun a => a.addr.toNat = Mv.src tr.w) = some a →
                  ∃ b ∈ t.dur.allocs, b.kind = a.kind ∧ b.units = a.units ∧ b.addr = BitVec.ofNat 48 (Mv.dst tr.w)))
        ∧ (∀ (m : MoverId) (tr : Transfer) (s : State), s.transfers.find? (fun t => t.mover = m) = some tr →
            transferHeld s tr.w = false →
            (tr.started.toNat + tr.limit ≤ s.timebase.toNat →
                ∃ t, exec (.transferDeadline m) s = .next t ∧ SameBytes s t ∧ t.cores = s.cores
                  ∧ t.transfers.find? (fun t => t.mover = m) = none
                  ∧ (∀ st, Mv.device tr.w = false → (s.run (Mv.coupe tr.w)).openStep = some st → st.boundary = false →
                      ∃ st', (t.run (Mv.coupe tr.w)).openStep = some st' ∧ st'.reqs = st.reqs.map (fun r =>
                        if (Mv.seq tr.w = 0x3FFF ∨ r.slot.toNat = Mv.seq tr.w) ∧ r.status = none then
                          { r with status := some Status.lowerTimeout, detail := 0, dkind := 0 } else r)))
              ∧ (s.timebase.toNat < tr.started.toNat + tr.limit → exec (.transferDeadline m) s = .next s)))
    ∧ (∀ (p : Pool) (w : PoolWait) (s : State),
        (∀ kd n, s.poolWait.find? (fun w => w.pool = p) = some w → w.runs = [(kd, n)] → (∀ g, kd ≠ .group g) →
            (∀ g ∈ s.granted, g.pool ≠ p) → grants s p w.coupe n 0 = true → ∀ a, place s p kd w.coupe n = some a →
            ∃ t, exec (.allocationRetry p) s = .next t ∧ SameBytes s t ∧ t.poolWait.length + 1 = s.poolWait.length
              ∧ t.dur.allocs = s.dur.allocs ++ [⟨p, kd, w.coupe, BitVec.ofNat 48 a, n, none⟩])
          ∧ (s.poolWait.find? (fun w => w.pool = p && w.since.toNat + w.limit ≤ s.timebase.toNat) = some w →
            ∃ t, exec (.allocationWaitExpiry p) s = .next t
              ∧ (∀ v ∈ t.poolWait, ¬(v.ring = w.ring ∧ v.pos = w.pos))
              ∧ (∀ e, entryOf s w.ring w.pos = some e →
                  (entryOf t w.ring w.pos).map (·.state) = some (.done Status.noBuffer 0 0 0))))

/-! ## Sequences -/

/-- SEQ_OPEN of a bound coupe with no block to match takes the lowest free slot: it is OPENING with the ring, coupe and salt
of the descriptor, and the completion names the slot and its generation (R207, R210, R211). A prompt that cannot be read
ends with LOWER_TIER_FAILED, or LOWER_TIER_TIMEOUT (R214). With all 8,192 slots taken it ends with SEQ_TABLE_FULL and takes
nothing (R212). -/
def Obligations.SeqOpenTakesASlot : Prop :=
  ∀ (q : Desc) (tokens : HostRead) (cfg : Config) (i : SlotId) (s : State),
    canStart s q = true → Hdr.opcode q.w = 0x20 →
    let k : CoupeId := BitVec.ofNat 7 (bits q.w 511 505)
    mayName s q k = true → (s.coupe k).state = .bound → s.scentRebuild = false → ringBinding s q k = some cfg →
    openingSlot s q = none →
    (∀ ws, freeSlot s = some i → tokens = .ok ws → saltOf s (BitVec.ofNat 12 (bits q.w 504 493)) = none → listPages s i = [] →
        (s.seq i).pages = [] → recallLoss s q = none →
        ∃ t, exec (.seqOpen q tokens) s = .next t ∧ SameBytes s t ∧ t.cores = s.cores
          ∧ (t.seq i).state = .opening ∧ (t.seq i).ring = q.ring ∧ (t.seq i).coupe = k
          ∧ (t.seq i).salt = BitVec.ofNat 12 (bits q.w 504 493) ∧ (t.seq i).pages = [] ∧ (t.seq i).gen = (s.seq i).gen
          ∧ t.due = s.due ++ [.activate i]
          ∧ (entryOf t q.ring q.pos).map (·.state)
            = some (.done Status.ok 1 (put 51 i.toNat ||| put 35 (seqGen s i).toNat) 0)
          ∧ (∀ j, j ≠ i → t.seq j = s.seq j))
      ∧ (freeSlot s = some i → bits q.w 492 473 ≠ 0 → (tokens = .failed ∨ tokens = .timeout) →
        ∃ t, exec (.seqOpen q tokens) s = .next t ∧ (t.seq i).state = .opening ∧ (t.seq i).pages = []
          ∧ (t.seq i).released = true
          ∧ EndsWith q (if tokens = .failed then Status.lowerFailed else Status.lowerTimeout) t)
      ∧ ((∀ j, (s.seq j).state ≠ .free) →
        ∃ t, exec (.seqOpen q tokens) s = .next t ∧ EndsWith q Status.seqTableFull t ∧ OnlyRings s t)

/-- SEQ_CLOSE makes an ACTIVE sequence CLOSING, to be freed by the next commit; CANCEL does so too and its completion waits
for the commit; the immediate form also stops the rows of the sequence's transfers; a drained one is released. A lost
sequence answers SEQUENCE_LOST (R208, R234, R261–R263). -/
def Obligations.SequencesCloseAndCancel : Prop :=
  ∀ (q : Desc) (s : State),
    let i := descSlot q.w
    let k := (s.seq i).coupe
    let others (t : State) : Prop := SameBytes s t ∧ t.cores = s.cores ∧ ∀ j, j ≠ i → t.seq j = s.seq j
    (canStart s q = true → Hdr.opcode q.w = 0x21 →
        ((seqLost s q.w = true ∨ otherFunction s q = true) →
            ∃ t, exec (.seqClose q) s = .next t ∧ others t ∧ t.seq i = s.seq i ∧ EndsWith q Status.sequenceLost t)
          ∧ (seqLost s q.w = false → otherFunction s q = false → (s.seq i).state = .active →
            ∃ t, exec (.seqClose q) s = .next t ∧ others t ∧ t.seq i = { s.seq i with state := .closing }
              ∧ t.due = s.due ++ [.freeSeq i] ∧ EndsWith q Status.ok t))
      ∧ (canStartNow s q = true → Hdr.opcode q.w = 0x22 → seqLost s q.w = false → otherFunction s q = false →
        (s.seq i).state = .active →
        (¬(bit q.w 482 = true ∧ ringImm s q.ring = true) →
            ∃ t, exec (.cancel q) s = .next t ∧ others t
              ∧ t.seq i = { s.seq i with state := .closing, immediate := false }
              ∧ t.due = s.due ++ [.cancel i k q.ring q.pos]
              ∧ (entryOf t q.ring q.pos).map (·.state) = some .started)
          ∧ (bit q.w 482 = true → ringImm s q.ring = true →
            ∃ t, exec (.cancelImmediate q) s = .next t ∧ others t
              ∧ t.seq i = { s.seq i with state := .closing, immediate := true }
              ∧ t.due = s.due ++ [.cancel i k q.ring q.pos]
              ∧ (entryOf t q.ring q.pos).map (·.state) = some .started
              ∧ ∀ tr ∈ t.transfers, Mv.ofCoupe tr.w k = true → Mv.seq tr.w = i.toNat →
                  tr.plan.length ≤ tr.written))
      ∧ (∀ j : SlotId, (s.seq j).state = .closing → (s.seq j).immediate = true → (s.seq j).released = false →
        (∀ tr ∈ s.transfers, Mv.ofCoupe tr.w (s.seq j).coupe = true → Mv.seq tr.w = j.toNat →
          tr.plan.length ≤ tr.written) →
        ∃ t, exec (.cancelRelease j) s = .next t ∧ SameBytes s t ∧ t.cores = s.cores ∧ (t.seq j).pages = []
          ∧ (t.seq j).tree = none ∧ (t.seq j).released = true ∧ (t.seq j).state = .closing
          ∧ ∀ a ∈ t.dur.allocs, a.kind ≠ .listPages j ∧ a.kind ≠ .tree j)

/-- PIN of blocks whose groups are homed in the deck takes effect with the next commit: it pins the sealed, scented groups of
a sequence's first blocks for its coupe and tells how many; pins beyond the coupe's floor end with NO_BUFFER. UNPIN, UNPIN
with ALL, SALT_SET and its UNSET take effect with the next commit and complete with OK (R224, R225, R232, R233). -/
def Obligations.PinsAndSalts : Prop :=
  ∀ (q : Desc) (s : State), canStart s q = true →
    let i := descSlot q.w
    let k : CoupeId := BitVec.ofNat 7 (bits q.w 466 460)
    let held := seqLost s q.w = false ∧ otherFunction s q = false
    let gs := ((s.seq i).pages.take (bits q.w 482 467)).filterMap id
    (Hdr.opcode q.w = 0x23 → mayName s q k = true → held → recallLoss s q = none →
        (∀ g ∈ gs, (s.group g).inYard = false) →
        let fresh := gs.filter (fun g => (s.group g).state = .sealed && (s.group g).scented && !(s.group g).pinned)
        let already := (gs.filter (fun g => (s.group g).state = .sealed && (s.group g).scented && (s.group g).pinned)).length
        let asked := pinnedUnits s k + (fresh.map (fun g => (s.group g).units.toNat)).sum
        (asked ≤ (s.coupe k).floor.toNat →
            (∃ t, exec (.pin q) s = .next t ∧ EntryIs q .started t
                ∧ t = { s with rings := t.rings, due := s.due ++ [.pin i (bits q.w 482 467) k q.ring q.pos] })
              ∧ (let t := applyDue (.pin i (bits q.w 482 467) k q.ring q.pos) s
                SameBytes s t ∧ t.cores = s.cores
                  ∧ (∀ g ∈ fresh, (t.group g).pinned = true ∧ (t.group g).pinCoupe = k)
                  ∧ (∀ g, g ∉ fresh → t.group g = s.group g)
                  ∧ (entryOf t q.ring q.pos).map (·.state) = some (.done Status.ok 1
                      (put 48 fresh.length ||| put 32 (gs.length - fresh.length - already) ||| put 16 already) 0)))
          ∧ ((s.coupe k).floor.toNat < asked →
            ∃ t, exec (.pin q) s = .next t ∧ EndsWith q Status.noBuffer t ∧ OnlyRings s t))
      ∧ (Hdr.opcode q.w = 0x24 → mayName s q k = true →
        (bit q.w 459 = false → held →
            ∃ t, exec (.unpin q) s = .next t ∧ EndsWith q Status.ok t ∧ SameBytes s t
              ∧ t = { s with rings := t.rings, due := s.due ++ [.unpinGroups (gs.filter (fun g =>
                  (s.group g).pinned && (s.group g).pinCoupe = k))] })
          ∧ (bit q.w 459 = true →
            ∃ t, exec (.unpinAll q) s = .next t ∧ EndsWith q Status.ok t ∧ SameBytes s t
              ∧ t = { s with rings := t.rings, due := s.due ++ [.unpinGroups (pinnedGroups s k)] }))
      ∧ (Hdr.opcode q.w = 0x0B →
        (bit q.w 499 = false →
            ∃ t, exec (.saltSet q) s = .next t ∧ EndsWith q Status.ok t ∧ SameBytes s t
              ∧ t = { s with rings := t.rings, due := s.due ++ [.salt (BitVec.ofNat 12 (bits q.w 511 500))
                  (some (BitVec.ofNat 64 (bits q.w 447 384)))] })
          ∧ (bit q.w 499 = true →
            ∃ t, exec (.saltUnset q) s = .next t ∧ EndsWith q Status.ok t ∧ SameBytes s t
              ∧ t = { s with rings := t.rings, due := s.due ++ [.salt (BitVec.ofNat 12 (bits q.w 511 500)) none] }))

/-! ## The ring engine -/

/-- The ring engine observes a doorbell count of a submission ring in use as its TAIL, and a ring with more descriptors than
entries enters ERROR; of a completion or attention ring it is the HEAD and arms the notice (R292–R295, R323). -/
def Obligations.DoorbellsAreObserved : Prop :=
  ∀ (r : RingId) (n : BitVec 32) (rest : List (RingId × BitVec 32)) (s : State), engineRuns s = true →
    let x := s.ringOf r
    x.state = .enabled → funcStopped s (RingE.func x.entry) = false →
    let seen (i : Instr) : Prop :=
      (RingE.kind x.entry = 1 → (n - x.back).toNat ≤ RingE.size x.entry →
          ∃ t, exec i s = .next t ∧ (t.ringOf r).count = n ∧ (t.ringOf r).state = .enabled
            ∧ (t.ringOf r).accepted = x.accepted ∧ (t.ringOf r).front = x.front ∧ (t.ringOf r).back = x.back
            ∧ SameBytes s t ∧ t.cores = s.cores)
        ∧ (RingE.kind x.entry = 1 → RingE.size x.entry < (n - x.back).toNat →
          ∃ t, exec i s = .next t ∧ (t.ringOf r).state = .error ∧ (t.ringOf r).cause = 2 ∧ SameBytes s t)
        ∧ (RingE.kind x.entry ≠ 1 → n ≠ x.count →
          ∃ t, exec i s = .next t ∧ (t.ringOf r).count = n ∧ (t.ringOf r).armed = (x.armed || RingE.notify x.entry)
            ∧ (t.ringOf r).state = .enabled ∧ SameBytes s t ∧ t.cores = s.cores)
    (cxlMode s = true → seen (.doorbellWrite r n))
      ∧ (cxlMode s = false → (∀ e ∈ rest, e.1 ≠ r) → seen (.pollRound ((r, n) :: rest)))

/-- A fetch appends the burst to the ring's accepted descriptors at consecutive positions; a malformed one is complete with
BAD_DESCRIPTOR at once, the others wait; a burst that cannot be read puts the ring in ERROR (R296–R300). -/
def Obligations.FetchAcceptsInOrder : Prop :=
  ∀ (r : RingId) (l : List (BitVec 512)) (s : State), engineRuns s = true → pickRing s = some r →
    let x := s.ringOf r
    let got := l.take (burst s r)
    (∃ t, exec (.descriptorFetch (some l)) s = .next t ∧ SameBytes s t ∧ t.cores = s.cores
        ∧ (t.ringOf r).front = x.front + BitVec.ofNat 32 got.length
        ∧ (t.ringOf r).accepted.map (fun e => (e.pos, e.w, e.state)) = x.accepted.map (fun e => (e.pos, e.w, e.state))
          ++ got.zipIdx.map (fun e => (x.front + BitVec.ofNat 32 e.2, e.1,
              if malformed r e.1 then .done Status.badDescriptor 0 0 0 else .waiting))
        ∧ t.stamp = s.stamp + got.length)
      ∧ (∃ t, exec (.descriptorFetch none) s = .next t ∧ SameBytes s t ∧ t.cores = s.cores
        ∧ (t.ringOf r).state = .error ∧ (t.ringOf r).cause = 3 ∧ (t.ringOf r).accepted = x.accepted)

/-- A commit takes the next commit number, makes the live records the journal's, and publishes the completions of the
finished descriptors at the front of every submission ring, in the ring's order; those behind an unfinished one wait
(R304–R307, R312). -/
def Obligations.CommitPublishesInRingOrder : Prop :=
  ∀ (s : State), mayCommit s = true → s.power.device ≠ .draining →
    (∃ t, exec .commit s = .next t ∧ t.dur.commits = s.dur.commits + 1 ∧ t.journal = t.dur)
      ∧ (∀ r : RingId, s.due = [] → (∀ k, (s.run k).openStep = none) → RingE.kind (s.ringOf r).entry = 1 →
        funcStopped s (RingE.func (s.ringOf r).entry) = false →
        let done := (s.ringOf r).accepted.takeWhile (fun e => e.state.isDone)
        let rest := (s.ringOf r).accepted.dropWhile (fun e => e.state.isDone)
        ∃ t, exec .commit s = .next t ∧ SameBytes s t
          ∧ (t.ringOf r).accepted.map (fun e => (e.pos, e.w, e.state)) = rest.map (fun e => (e.pos, e.w, e.state))
          ∧ ∀ e ∈ done, ∀ status dkind detail stepno, e.state = .done status dkind detail stepno →
              ∃ p ∈ t.posted, p.ring = RingE.cq (s.ringOf r).entry
                ∧ p.w = completionEntry r e.pos status dkind detail stepno (Hdr.tag e.w) (s.dur.commits + 1))

/-- BARK announces published entries at least 10 µs after the previous bark and after the end of busy, and changes only
that (R325, R326). RING_SET of a ring that holds nothing completes with OK and takes effect with the commit (R299). -/
def Obligations.BarkAndRingSet : Prop :=
  (∀ s : State, s.power.barkOwed = true → s.power.rb = .released →
      (∀ t, s.power.lastBark = some t → t.toNat + 1000 ≤ s.timebase.toNat) →
      s.power.releasedAt.toNat + 1000 ≤ s.timebase.toNat →
      exec .bark s = .next { s with power := { s.power with barkOwed := false, lastBark := some s.timebase } })
    ∧ (∀ (q : Desc) (entry : BitVec 512) (s : State), canStart s q = true → Hdr.opcode q.w = 0x10 →
      let x := s.ringOf (BitVec.ofNat 15 (bits q.w 511 497))
      (RingE.kind x.entry ≠ 1 ∨ x.state = .disabled ∨ x.front = x.back →
        ∃ t, exec (.ringSet q entry) s = .next t ∧ EndsWith q Status.ok t
          ∧ t = { s with rings := t.rings, due := s.due ++ [.ringEntry (BitVec.ofNat 15 (bits q.w 511 497)) entry] })
        ∧ (RingE.kind x.entry = 1 → x.state ≠ .disabled → x.front ≠ x.back → funcStopped s (RingE.func x.entry) = false →
          ∃ t, exec (.ringSet q entry) s = .next t ∧ EndsWith q Status.doesNotFit t ∧ t = { s with rings := t.rings }))

/-! ## Images, bindings and coupes -/

/-- LOAD_IMAGE copies the shards of a list into the yard and then checks them: the image is READY when every check passes (the
two acts are log entry 133's); a bad shard, a shard that fails a check or a taken handle is refused with its record.
UNLOAD_IMAGE frees the yard copy: the image is ABSENT, or UNLOADING while it has bindings (R153, R154, R195–R197, R200). -/
def Obligations.ImagesLoadAndUnload : Prop :=
  ∀ (q : Desc) (shards : List ShardRead) (s : State), canStart s q = true →
    (Hdr.opcode q.w = 0x01 →
      let h := BitVec.ofNat 10 (bits q.w 438 429)
      let l := shards.take (bits q.w 447 439)
      let asked := s.setImage h { Image.reset with state := .loading }
      let gone (t : State) : Prop := t.image h = Image.reset ∧ findAlloc t .yard (.imageYard h) = none
      (isQueued s q = false → (s.image h).state ≠ .absent →
          ∃ t, exec (.loadImage q shards) s = .next t ∧ OnlyRings s t ∧ RefusedWith q handleTaken t)
        ∧ (isQueued s q = false → (s.image h).state = .absent → (∀ x ∈ l, x.late = false) → ∀ a g,
          allocate .yard (.imageYard h) none (ceilDiv (listRows l) 8) false asked = .granted a g →
            let placed := placeShards a l
            (∀ r, firstBadShard l = some r →
                ∃ t, exec (.loadImage q shards) s = .next t ∧ RefusedWith q r t ∧ gone t ∧ t.mem = g.mem)
              ∧ (firstBadShard l = none → l ≠ [] →
                ∃ t, exec (.loadImage q shards) s = .next t ∧ EntryIs q .queued t
                  ∧ t.mem = (placed.foldl (fun u x => storeShard x.1 x.2 u) g).mem
                  ∧ (t.image h).state = .loading ∧ (t.image h).bindings = 0 ∧ (t.image h).rows = listRows l
                  ∧ (t.image h).shards = placed.map (fun x =>
                      ⟨ListE.shard x.2.entry, BitVec.ofNat 48 x.1, ListE.rows x.2.entry⟩)))
        ∧ (isQueued s q = true → waitsInPool s q = false → (s.image h).shards ≠ [] →
            (∀ u, checkShards 0 (s.image h).shards s = (none, u) →
                ∃ t, exec (.loadImage q shards) s = .next t ∧ EndsWith q Status.ok t ∧ t.mem = u.mem
                  ∧ t.image h = { u.image h with state := .ready })
              ∧ (∀ r u, checkShards 0 (s.image h).shards s = (some r, u) →
                ∃ t, exec (.loadImage q shards) s = .next t ∧ RefusedWith q r t ∧ gone t ∧ t.mem = u.mem)))
      ∧ (Hdr.opcode q.w = 0x02 →
        let h := BitVec.ofNat 10 (bits q.w 511 502)
        ∃ t, exec (.unloadImage q) s = .next t ∧ EndsWith q Status.ok t ∧ t.mem = s.mem ∧ t.cores = s.cores
          ∧ (∀ j, j ≠ h → t.image j = s.image j)
          ∧ ((s.image h).state = .ready → (s.image h).bindings = 0 →
              t.image h = Image.reset ∧ ∀ a ∈ t.dur.allocs, a.kind ≠ .imageYard h ∧ a.kind ≠ .imageDeck h)
          ∧ ((s.image h).state = .ready → (s.image h).bindings ≠ 0 →
              t.image h = { s.image h with state := .unloading, shards := [] } ∧ ∀ a ∈ t.dur.allocs, a.kind ≠ .imageYard h)
          ∧ ((s.image h).state ≠ .ready → OnlyRings s t))

/-- BIND on an IDLE coupe attaches the configuration when every check passes: the coupe is BOUND to it with fresh queues and
barriers, once the deck units that it was granted are free; a check that fails, and a deck that cannot hold what it needs,
refuses it. A coupe with a configuration drains first: once it is idle its persistent queues get their markers, and once they
are through, DRAIN and the end of a drain unbind (R144, R154, R155, R199, R285). -/
def Obligations.BindAndDrain : Prop :=
  (∀ (q : Desc) (s : State), canStart s q = true → Hdr.opcode q.w = 0x03 →
      let k := BindD.coupe q.w
      let cfg := bindCfg q s
      BindD.job q.w ≤ (s.coupe k).jobs.toNat → (s.run k).action = .none →
      ((s.coupe k).state = .idle → ∀ r, checkBindImage s q = some r →
          ∃ t, exec (.bind q) s = .next t ∧ RefusedWith q r t ∧ t.mem = s.mem ∧ t.cores = s.cores)
        ∧ ((s.coupe k).state = .idle → checkBindImage s q = none → checkBindStands s q = none →
          copyPending q s = false →
          (deckHolds q cfg s = false →
              ∃ t, exec (.bind q) s = .next t ∧ RefusedWith q (bindRefusal q Reason.deck 0) t ∧ t.mem = s.mem
                ∧ t.cores = s.cores)
            ∧ (deckHolds q cfg s = true → checkBindRest s q cfg = none →
              let held := takeFloor q cfg s
              (∀ a u, placeRuns .deck (some k) 0 (bindParts q cfg held) held = .granted a u →
                  ∃ t, exec (.bind q) s = .next t ∧ EndsWith q Status.ok t ∧ (t.coupe k).state = .bound
                    ∧ (t.coupe k).curJob = BitVec.ofNat 3 (BindD.job q.w)
                    ∧ (t.coupe k).bindings.get none (BindD.job q.w) = some (bindCfg q u)
                    ∧ (t.run k).queues = freshQueues (bindCfg q u) ∧ (t.run k).barriers = [])
                ∧ (∀ u, placeRuns .deck (some k) 0 (bindParts q cfg held) held = .waits u →
                  ∃ t, exec (.bind q) s = .next t ∧ EntryIs q .queued t ∧ (t.run k).action = .bindUnits q
                    ∧ t.mem = u.mem)))
        ∧ ((s.coupe k).state = .bound →
          ∃ t, exec (.bind q) s = .next t ∧ EntryIs q .queued t ∧ (t.coupe k).state = .draining
            ∧ (t.run k).action = .bind q ∧ t.mem = s.mem ∧ t.cores = s.cores))
    ∧ (∀ (q : Desc) (s : State), canStart s q = true → Hdr.opcode q.w = 0x04 →
      let k := CoupeD.coupe q.w
      (s.run k).action = .none →
      ((s.coupe k).state = .idle → ∃ t, exec (.drain q) s = .next t ∧ EndsWith q Status.ok t ∧ OnlyRings s t)
        ∧ ((s.coupe k).state = .bound →
          ∃ t, exec (.drain q) s = .next t ∧ EntryIs q .started t ∧ (t.coupe k).state = .draining
            ∧ (t.run k).action = .drain q.ring q.pos ∧ t.mem = s.mem ∧ t.cores = s.cores))
    ∧ (∀ (k : CoupeId) (s : State), drainIdle s k = true → (s.run k).ended = false →
      ∃ t, exec (.coupeDrained k) s = .next t ∧ (t.run k).ended = true ∧ (t.coupe k).state = .draining ∧ t.mem = s.mem)
    ∧ (∀ (k : CoupeId) (ring : RingId) (pos : BitVec 32) (e : Entry) (s : State), coupeIsDrained s k = true →
      (s.run k).action = .drain ring pos → entryOf s ring pos = some e →
      ∃ t, exec (.coupeDrained k) s = .next t ∧ (t.coupe k).state = .idle ∧ (t.run k).action = .none
        ∧ (∀ j, j < 8 → (t.coupe k).bindings.get none j = none)
        ∧ (entryOf t ring pos).map (·.state) = some (.done Status.ok 0 0 0) ∧ t.mem = s.mem ∧ t.cores = s.cores)

/-- COUPE_CREATE gives its stands to a new IDLE coupe with the descriptor's fields; COUPE_SET changes an existing one at the
next commit; COUPE_DESTROY clears an IDLE one, and drains a BOUND one first; SPAN_SET of an IDLE coupe takes effect at the
next commit (R266–R269, R273). -/
def Obligations.CoupesAreMadeAndUnmade : Prop :=
  ∀ (q : Desc) (s : State), canStart s q = true →
    let k := CoupeD.coupe q.w
    (Hdr.opcode q.w = 0x05 → s.poolWait.any (fun w => w.ring = q.ring && w.pos = q.pos) = false →
        (s.run k).action ≠ .create q.ring q.pos →
        (createOk s q = false → isQueued s q = false →
            ∃ t, exec (.coupeCreate q) s = .next t ∧ EndsWith q Status.doesNotFit t ∧ OnlyRings s t)
          ∧ (createOk s q = true → claimed s q = none → CoupeD.preemptible q.w = false →
            holders s (CoupeD.stands q.w) = [] →
            ∃ t, exec (.coupeCreate q) s = .next t ∧ EndsWith q Status.ok t ∧ t.run k = CoupeRun.reset
              ∧ t.coupe k = { Coupe.reset with
                  stands := CoupeD.stands q.w
                  state := .idle
                  prio := CoupeD.prio q.w
                  preemptible := false
                  tshare := CoupeD.tshare q.w
                  jobs := CoupeD.jobs q.w
                  quantum := CoupeD.quantum q.w
                  func := CoupeD.func q.w
                  sentinel := CoupeD.sentinel q.w }))
      ∧ (Hdr.opcode q.w = 0x06 → s.poolWait.any (fun w => w.ring = q.ring && w.pos = q.pos) = false →
        ((s.coupe k).state = .free →
            ∃ t, exec (.coupeSet q) s = .next t ∧ EndsWith q Status.doesNotFit t ∧ OnlyRings s t)
          ∧ ((s.coupe k).state ≠ .free → CoupeD.change q.w 0 = false →
            (CoupeD.change q.w 2 = true → CoupeD.preemptible q.w = false) →
            ∃ t, exec (.coupeSet q) s = .next t ∧ EndsWith q Status.ok t
              ∧ t = { s with rings := t.rings, due := s.due ++ [.coupeSet k q.w] })
          ∧ ((s.coupe k).state ≠ .free → CoupeD.change q.w 0 = true → setStandsOk s k (CoupeD.stands q.w) = true →
            (s.coupe k).preemptible = false → CoupeD.change q.w 2 = false →
            ∃ t, exec (.coupeSet q) s = .next t ∧ EndsWith q Status.ok t ∧ (t.coupe k).stands = CoupeD.stands q.w
              ∧ t.due = s.due ++ [.coupeSet k q.w]))
      ∧ (Hdr.opcode q.w = 0x07 →
        ((s.coupe k).state = .free →
            ∃ t, exec (.coupeDestroy q) s = .next t ∧ EndsWith q Status.doesNotFit t ∧ OnlyRings s t)
          ∧ ((s.coupe k).state = .idle → (s.run k).action = .none →
            ∃ t, exec (.coupeDestroy q) s = .next t ∧ EndsWith q Status.ok t ∧ t.coupe k = Coupe.reset
              ∧ t.run k = CoupeRun.reset)
          ∧ ((s.coupe k).state = .bound → (s.run k).action = .none →
            ∃ t, exec (.coupeDestroy q) s = .next t ∧ EntryIs q .started t ∧ (t.coupe k).state = .draining
              ∧ (t.run k).action = .destroy q.ring q.pos ∧ t.mem = s.mem ∧ t.cores = s.cores))
      ∧ (Hdr.opcode q.w = 0x0A →
        ((s.coupe k).state = .idle →
            ∃ t, exec (.spanSet q) s = .next t ∧ EndsWith q Status.ok t
              ∧ t = { s with rings := t.rings, due := s.due ++ [.spanSet k (BitVec.ofNat 16 (bits q.w 504 489))
                  (BitVec.ofNat 9 (bits q.w 488 480)) (BitVec.ofNat 8 (bits q.w 479 472))] })
          ∧ ((s.coupe k).state ≠ .idle →
            ∃ t, exec (.spanSet q) s = .next t ∧ EndsWith q Status.doesNotFit t ∧ OnlyRings s t))

/-- Pre-emption: COUPE_PREEMPT starts it; once quiesced, every core of the coupe is being saved and its transfers pause; the
save leaves it PREEMPTED without its stands, whose benches are clear. COUPE_RESUME takes the same stands again, and the end of
the resume makes the coupe run with the configuration it had. A time-shared coupe switches jobs at a boundary
(R274, R276, R281–R283, R286, R287). -/
def Obligations.CoupesArePreemptedAndResumed : Prop :=
  (∀ (q : Desc) (s : State), canStart s q = true →
      let k := CoupeD.coupe q.w
      (Hdr.opcode q.w = 0x08 →
          ((s.coupe k).state = .free ∨ (s.coupe k).preemptible = false →
              ∃ t, exec (.coupePreempt q) s = .next t ∧ EndsWith q Status.doesNotFit t ∧ OnlyRings s t)
            ∧ ((s.coupe k).preemptible = true → ((s.coupe k).state = .idle ∨ (s.coupe k).state = .bound) →
              (s.run k).action = .none →
              ∃ t, exec (.coupePreempt q) s = .next t ∧ EntryIs q .started t ∧ (t.coupe k).state = .preempting
                ∧ (t.run k).action = .preempt q.ring q.pos ∧ t.mem = s.mem ∧ t.cores = s.cores))
        ∧ (Hdr.opcode q.w = 0x09 → (s.coupe k).state = .preempted → ∀ sv, (s.run k).saved = some sv →
          let m := (s.coupe k).savedStands
          (maskStands m).all (standServes s) = true → (maskStands m).any (fun g => (claimant s g).isSome) = false →
          holders s m = [] →
          ∃ t, exec (.coupeResume q) s = .next t ∧ EntryIs q .started t ∧ (t.coupe k).state = .resuming
            ∧ (t.coupe k).stands = m ∧ (t.run k).action = .resume q.ring q.pos ∧ t.mem = s.mem ∧ t.cores = s.cores))
    ∧ (∀ (k : CoupeId) (s : State),
      (coupeHalting s k = true → (s.run k).quiesced = false → (coupeCores s k).all (fun c => (s.core c).halted) = true →
          networkQuiet s k = true →
          ∃ t, exec (.coupeQuiesced k) s = .next t ∧ (t.run k).quiesced = true ∧ t.mem = s.mem
            ∧ (∀ c ∈ coupeCores s k, (t.core c).saving = true)
            ∧ t.transfers = s.transfers.filter (fun x => !Mv.ofCoupe x.w k)
            ∧ ∃ sv, (t.run k).saved = some sv ∧ sv.barriers = (s.run k).barriers
              ∧ sv.areas.map (fun a => (a.stand, a.state)) = (s.coupe k).standList.map (fun g => (g, .writing)))
        ∧ (∀ sv ring pos e, (s.run k).saved = some sv → (s.coupe k).state = .preempting → (s.run k).quiesced = true →
          (s.run k).action = .preempt ring pos → entryOf s ring pos = some e →
          ∃ t, exec (.saveComplete k) s = .next t ∧ (t.coupe k).state = .preempted ∧ (t.coupe k).stands = 0
            ∧ (t.coupe k).savedStands = (s.coupe k).stands ∧ (t.run k).action = .none
            ∧ (entryOf t ring pos).map (·.state) = some (.done Status.ok 0 0 0)
            ∧ (∀ c ∈ coupeCores s k, ∀ a, benchAddr c 0 ≤ a → a < benchAddr c 0 + 2 ^ 24 →
                Memory.byte a t.mem = Memory.empty))
        ∧ (∀ sv ring pos e, (s.run k).saved = some sv → (s.coupe k).state = .resuming →
          (s.run k).action = .resume ring pos → entryOf s ring pos = some e → sv.refused = false →
          ∃ t, exec (.resumeComplete k) s = .next t
            ∧ t.coupe k = { s.coupe k with
                state := if (s.coupe k).bindings.isEmpty then .idle else .bound, savedStands := 0 }
            ∧ (t.run k).action = .none ∧ (t.run k).saved = none ∧ (t.run k).barriers = sv.barriers
            ∧ (t.run k).queues = restoreQueues sv.queues
            ∧ (entryOf t ring pos).map (·.state) = some (.done Status.ok 0 0 0))
        ∧ (∀ j, (s.coupe k).tshare = true → (s.coupe k).state = .bound → (s.run k).openStep = none →
          (s.run k).action = .none →
          (coupeCores s k).all (fun c => (s.core c).task.isNone && (s.core c).next.isNone) = true → nextJob s k = some j →
          ∃ t, exec (.jobSwitch k) s = .next t ∧ (t.coupe k).curJob = j ∧ (t.coupe k).state = .bound
            ∧ (t.run k).turn = 0))

/-! ## Tests, repairs, power and clocks -/

/-- SELF_TEST takes a block that is ready for it out of service and runs; its end writes the result record, returns the block
and finishes the descriptor. REPAIR applies the recorded soft repairs, or burns those in effect while fuses are left
(R376–R380). While the ranger restarts these descriptors are held (R399). -/
def Obligations.TestsAndRepairs : Prop :=
  (∀ (q : Desc) (s : State), canStart s q = true →
      let n := TestD.target q.w
      let i := TestD.index q.w
      (s.ranger.running = false →
          (Hdr.opcode q.w = 0x0E → ∃ t, exec (.selfTest q) s = .next t ∧ EntryIs q .held t ∧ OnlyRings s t)
            ∧ (Hdr.opcode q.w = 0x0F → bit q.w 487 = false →
              ∃ t, exec (.repairSoft q) s = .next t ∧ EntryIs q .held t ∧ OnlyRings s t)
            ∧ (Hdr.opcode q.w = 0x0F → bit q.w 487 = true →
              ∃ t, exec (.repairHard q) s = .next t ∧ EntryIs q .held t ∧ OnlyRings s t))
      ∧ (s.ranger.running = true → underTest s n i = false →
        (Hdr.opcode q.w = 0x0E →
          (testReady s n i = false →
              ∃ t, exec (.selfTest q) s = .next t ∧ EndsWith q Status.doesNotFit t ∧ OnlyRings s t)
            ∧ (testReady s n i = true → (n = 4 → (s.link (testLink i)).works = true → linkHeld s (testLink i) = false) →
              ∃ t, exec (.selfTest q) s = .next t ∧ EntryIs q .started t
                ∧ t.tests = s.tests ++ [⟨n, i, q.ring, q.pos, s.timebase⟩]
                ∧ (n = 1 → (t.stand (testStand i)).isolated = true)
                ∧ (n = 2 → (t.stack (testStack i)).state = .testing)))
        ∧ (Hdr.opcode q.w = 0x0F → testReady s n i = true →
          let b := blockOf s n i
          (bit q.w 487 = false →
              ∃ t, exec (.repairSoft q) s = .next t ∧ EndsWith q Status.ok t
                ∧ blockOf t n i = { b with applied := b.applied ++ b.recorded, recorded := [] } ∧ t.mem = s.mem)
            ∧ (bit q.w 487 = true → fuseFits n i (b.fused ++ toFuse s n i b) = true →
              ∃ t, exec (.repairHard q) s = .next t ∧ EndsWith q Status.ok t
                ∧ blockOf t n i = { b with fused := b.fused ++ toFuse s n i b } ∧ t.mem = s.mem)
            ∧ (bit q.w 487 = true → fuseFits n i (b.fused ++ toFuse s n i b) = false →
              ∃ t, exec (.repairHard q) s = .next t ∧ EndsWith q Status.noBuffer t ∧ OnlyRings s t))))
    ∧ (∀ (n : BitVec 8) (i : BitVec 16) (f : TestFinding) (x : SelfTest) (e : Entry) (s : State),
      s.tests.find? (fun t => t.target = n && t.index = i) = some x → entryOf s x.ring x.pos = some e →
      ∃ t, exec (.selfTestComplete n i f) s = .next t ∧ underTest t n i = false
        ∧ (entryOf t x.ring x.pos).map (·.state) = some (.done Status.ok 0 0 0)
        ∧ t.testResults = s.testResults
          ++ [⟨TestD.result e.w, resultHeader x f.verdict.toNat f s.timebase, f.entries.take 252⟩]
        ∧ (n = 1 → (t.stand (testStand i)).isolated = false))

/-- EXPERT_MAP takes the map that the next step uses. POWER and CLOCK give the named stands their state or clock, a change that
waits for an open step is applied after its commit, and BALLAST sets the floor that each update draws toward
(R255, R400–R405). While the ranger restarts these descriptors are held (R399). -/
def Obligations.ClocksPowerAndBallast : Prop :=
  (∀ (q : Desc) (map : HostRead) (s : State), canStart s q = true → Hdr.opcode q.w = 0x0C →
      let k := CoupeD.coupe q.w
      let n := bits q.w 504 492
      ((s.coupe k).state = .free →
          ∃ t, exec (.expertMap q map) s = .next t ∧ EndsWith q Status.doesNotFit t ∧ OnlyRings s t)
        ∧ ((s.coupe k).state ≠ .free → (map = .failed ∨ map = .timeout) →
          ∃ t, exec (.expertMap q map) s = .next t ∧ OnlyRings s t
            ∧ EndsWith q (if map = .failed then Status.lowerFailed else Status.lowerTimeout) t)
        ∧ (∀ ws, (s.coupe k).state ≠ .free → map = .ok ws → ws.length = n →
          ∃ t, exec (.expertMap q map) s = .next t ∧ EndsWith q Status.ok t
            ∧ t.coupe k = { s.coupe k with
                nextMap := some ⟨n, bits q.w 491 487, BitVec.ofNat 64 (bits q.w 383 320), ws⟩ }
            ∧ t = { s with rings := t.rings, dur := t.dur }))
    ∧ (∀ (q : Desc) (s : State), canStart s q = true → s.ranger.running = false →
      (Hdr.opcode q.w = 0x11 → ∃ t, exec (.power q) s = .next t ∧ EntryIs q .held t ∧ OnlyRings s t)
        ∧ (Hdr.opcode q.w = 0x12 → ∃ t, exec (.clock q) s = .next t ∧ EntryIs q .held t ∧ OnlyRings s t)
        ∧ (Hdr.opcode q.w = 0x13 → ∃ t, exec (.ballast q) s = .next t ∧ EntryIs q .held t ∧ OnlyRings s t))
    ∧ (∀ (q : Desc) (s : State), canStart s q = true → s.ranger.running = true →
      let m := PowerD.stands q.w
      (∀ g ∈ maskStands m, (s.stand g).deferred = none ∧ stepOpenOn s g = false
        ∧ (s.sector (standSector g)).mode = .on) →
      (Hdr.opcode q.w = 0x11 → powerAllowed s m (PowerD.state q.w) = false →
          ∃ t, exec (.power q) s = .next t ∧ EndsWith q Status.doesNotFit t ∧ OnlyRings s t)
        ∧ (Hdr.opcode q.w = 0x11 → powerAllowed s m (PowerD.state q.w) = true → PowerD.state q.w ≤ 3 →
          ∃ t, exec (.power q) s = .next t ∧ EndsWith q Status.ok t ∧ t.mem = s.mem
            ∧ ∀ g ∈ maskStands m, (s.stand g).inService = true →
              (t.stand g).mhz = BitVec.ofNat 11 (pstateMhz (PowerD.state q.w))
                ∧ (t.stand g).pstate = BitVec.ofNat 4 (PowerD.state q.w))
        ∧ (Hdr.opcode q.w = 0x11 → powerAllowed s m 9 = true → PowerD.state q.w = 9 →
          ∃ t, exec (.power q) s = .next t ∧ EndsWith q Status.ok t ∧ t.mem = s.mem
            ∧ ∀ g ∈ maskStands m, (s.stand g).inService = true → (t.stand g).mhz = 0 ∧ (t.stand g).pstate = 9)
        ∧ (Hdr.opcode q.w = 0x12 → clockAllowed s m (PowerD.mhz q.w) = true →
          ∃ t, exec (.clock q) s = .next t ∧ EndsWith q Status.ok t ∧ t.mem = s.mem
            ∧ ∀ g ∈ maskStands m, (s.stand g).inService = true → (s.stand g).asleep = false →
              (t.stand g).mhz = BitVec.ofNat 11 (PowerD.mhz q.w))
        ∧ (Hdr.opcode q.w = 0x13 →
          ∃ t, exec (.ballast q) s = .next t ∧ EndsWith q Status.ok t
            ∧ t = { s with rings := t.rings, power := { s.power with
                floor := BitVec.ofNat 12 (bits q.w 511 500), ramp := BitVec.ofNat 16 (bits q.w 499 484) } }))
    ∧ (∀ (g : StandId) (mhz : BitVec 11) (p : BitVec 4) (s : State), (s.stand g).deferred = some (mhz, p) →
      (stepOpenOn s g = true ∨ s.ranger.running = false → exec (.clockChangeApply g) s = .next s)
        ∧ (stepOpenOn s g = false → s.ranger.running = true →
          ∃ t, exec (.clockChangeApply g) s = .next t ∧ (t.stand g).mhz = mhz ∧ (t.stand g).pstate = p
            ∧ (t.stand g).deferred = none ∧ t.mem = s.mem ∧ t.cores = s.cores))
    ∧ (∀ (w : BitVec 16) (s : State), s.power.main = true → s.ranger.running = true → s.power.resetPhase = .none →
      s.power.device ≠ .tripped →
      let ok := allStands.filter (ballastOk s)
      let bal := min (ok.map ballastMax).sum (rampFloor s.power - 10 * (w.toNat - s.power.ballast.toNat))
      ∃ t, exec (.ballastUpdate w) s = .next t ∧ t.power.floorNow = rampFloor s.power
        ∧ t.power.ballast = BitVec.ofNat 16 (bal / 10) ∧ t.mem = s.mem ∧ t.cores = s.cores
        ∧ ∀ g, (t.stand g).ballast = (ballastStands bal ok).contains g)

/-! ## Steps -/

/-- STEP becomes ready once its requests are accepted behind it, and claims them; a request joins the step that claimed it.
NOP completes with OK (R240, R301). -/
def Obligations.StepsAreAccepted : Prop :=
  ∀ (q : Desc) (src : HostRead) (e : Entry) (s : State), entryOf s q.ring q.pos = some e →
    (canStart s q = true → Hdr.opcode q.w = 0x28 →
        let k := StepD.coupe q.w
        let es := runEntries s q
        mayName s q k = true → (s.coupe k).state ≠ .free →
        (es.length = StepD.nreq q.w → es.all (fun x => isRequest x.w) = true →
            ∃ t, exec (.step q) s = .next t ∧ t.mem = s.mem ∧ t.cores = s.cores ∧ EntryIs q .started t
              ∧ (t.run k).ready = (s.run k).ready ++ [freshStep q.ring e]
              ∧ ∀ x ∈ es, (entryOf t q.ring x.pos).map (·.step) = some (some q.pos))
          ∧ (es.length < StepD.nreq q.w → es.all (fun x => isRequest x.w) = true →
            ∃ t, exec (.step q) s = .next t ∧ OnlyRings s t ∧ EntryIs q .held t))
      ∧ (canStart s q = true → (Hdr.opcode q.w = 0x29 ∨ Hdr.opcode q.w = 0x2A) →
        let verify := decide (Hdr.opcode q.w = 0x2A)
        let i : Instr := if verify then .verify q src else .prefill q src
        (e.step = none → ∃ t, exec i s = .next t ∧ OnlyRings s t ∧ EndsWith q Status.shapeExceeds t)
          ∧ (∀ p k, e.step = some p →
            (listedCoupes s).find? (fun k => (s.run k).ready.any (fun st => st.ring = q.ring && st.pos = p)) = some k →
            ∃ t, exec i s = .next t ∧ t.mem = s.mem ∧ t.cores = s.cores ∧ EntryIs q .started t
              ∧ (t.run k).ready = (s.run k).ready.map
                  (addRequest q.ring p (freshReq q.pos q.w verify e.cancelled src))))
      ∧ (canStart s q = true → Hdr.opcode q.w = 0x31 →
        ∃ t, exec (.nopDescriptor q) s = .next t ∧ OnlyRings s t ∧ EndsWith q Status.ok t)

/-- A FENCE holds every later descriptor of its ring from starting until, for each VALID condition, the COMPLETED count of the
ring that it names has reached COUNT modulo 2^32. It then finishes with OK, to be published by the next commit; one whose
wait limit passes first finishes with FENCE_EXPIRED. Finished, it holds back no descriptor. A condition that names a
disabled ring, a ring of another function or the FENCE's own ring finishes it with BAD_DESCRIPTOR (R303). -/
def Obligations.FencesHoldTheirRing : Prop :=
  ∀ (q : Desc) (e : Entry) (s : State), entryOf s q.ring q.pos = some e → e.w = q.w → Hdr.opcode q.w = 0x30 →
    let valid (j : Nat) : Bool := bit q.w (511 - 48 * j)
    let ring (j : Nat) : RingId := BitVec.ofNat 15 (bits q.w (510 - 48 * j) (496 - 48 * j))
    let count (j : Nat) : BitVec 32 := BitVec.ofNat 32 (bits q.w (495 - 48 * j) (464 - 48 * j))
    let bad := ∃ j, j < 4 ∧ valid j = true ∧ ((s.ringOf (ring j)).state = .disabled
      ∨ RingE.func (s.ringOf (ring j)).entry ≠ RingE.func (s.ringOf q.ring).entry ∨ ring j = q.ring)
    let reached := ∀ j, j < 4 → valid j = true → ((s.ringOf (ring j)).back - count j).toNat < 2 ^ 31
    let ends (i : Instr) (status : BitVec 8) : Prop :=
      ∃ t, exec i s = .next t ∧ OnlyRings s t ∧ EndsWith q status t ∧ ∀ x ∈ (t.ringOf q.ring).accepted, x.pos = q.pos →
        x.state.isDone = true
    (canStart s q = true →
        (bad → ends (.fence q) Status.badDescriptor)
          ∧ (¬bad → reached → ends (.fence q) Status.ok)
          ∧ (¬bad → ¬reached → ∃ t, exec (.fence q) s = .next t ∧ OnlyRings s t ∧ EntryIs q .held t))
      ∧ (e.state.isDone = false → ∀ l (x : Entry) r, (s.ringOf q.ring).accepted = l ++ x :: r → e ∈ l →
        (∀ y ∈ l, y.pos ≠ x.pos) → x.state ≠ .queued → canStart s ⟨q.ring, x.pos, x.w⟩ = false)
      ∧ (e.state = .held → Hdr.wait q.w = true → e.since.toNat + Hdr.waitTicks q.w ≤ s.timebase.toNat →
        ends (.fenceExpired q) Status.fenceExpired)
      ∧ (e.state = .held → (Hdr.wait q.w = false ∨ s.timebase.toNat < e.since.toNat + Hdr.waitTicks q.w) →
        exec (.fenceExpired q) s = .next s)

/-- The first ready step that may open opens under the next step number, its requests with the allocations that they were
granted; it waits, and changes nothing of the coupe, while a granted unit is not yet free; a shape that no bucket takes refuses
it. A step without requests opens. A layer of threshold routing whose routing barrier is open joins the open step's routing,
unless it names an expert that is not VALID (R157, R237, R241, R242, R257, R258). -/
def Obligations.StepsOpen : Prop :=
  (∀ (k : CoupeId) (src : HostRead) (cfg : Config) (st : Step) (s : State), bindingOf s k = some cfg →
      coupeMayOpen s k = true → firstStep ((s.run k).ready.filter (stepMayOpen s k cfg)) = some st →
      let choice := chooseBucket cfg (StepD.stage st.w) (StepD.shapes st.w)
      let m := (s.coupe k).nextMap.getD (s.coupe k).map
      let reqs := checkReqs s cfg st
      let opens (number : BitVec 48) (t : State) : Prop := (t.coupe k).stepctr = number
        ∧ ∃ st', (t.run k).openStep = some st' ∧ st'.number = number ∧ st'.ring = st.ring ∧ st'.pos = st.pos
          ∧ st'.attempt = st.attempt ∧ st'.w = st.w
      (choice = .refused → (∀ r ∈ st.reqs, r.pos ≠ st.pos) → ∀ e, entryOf s st.ring st.pos = some e →
          ∃ t, exec (.stepOpen k src) s = .next t ∧ t.mem = s.mem ∧ t.cores = s.cores ∧ t.coupe k = s.coupe k
            ∧ (entryOf t st.ring st.pos).map (·.state) = some (.done Status.shapeExceeds 0 0 ((s.coupe k).stepctr + 1)))
        ∧ (choice ≠ .refused → st.reqs = [] →
          ∃ t, exec (.stepOpen k src) s = .next t ∧ opens ((s.coupe k).stepctr + 1) t)
        ∧ (choice ≠ .refused →
          routingBad m (if cfg.experts && StepD.route st.w = 0 then hashRouting cfg m reqs else []) = false → ∀ rs u,
          (grantReqs k cfg reqs s = (rs, u, false) →
              ∃ t, exec (.stepOpen k src) s = .next t ∧ opens ((u.coupe k).stepctr + 1) t)
            ∧ (grantReqs k cfg reqs s = (rs, u, true) →
              ∃ t, exec (.stepOpen k src) s = .next t ∧ t.mem = u.mem ∧ t.coupe k = u.coupe k
                ∧ (t.run k).openStep = (u.run k).openStep)))
    ∧ (∀ (k : CoupeId) (layer : BitVec 16) (cfg : Config) (st : Step) (s : State), bindingOf s k = some cfg →
      (s.run k).openStep = some st → st.boundary = false → cfg.experts = true → st.bucket.isSome = true →
      StepD.route st.w = 1 → st.routed.contains layer.toNat = false → layer.toNat < cfg.players.toNat →
      coupeHalting s k = false → routingOpen s k cfg layer.toNat = true →
      let m := (s.coupe k).map
      let rt := (readRouting k cfg st layer.toNat s).1
      (routingBad m rt = false →
          ∃ t, exec (.thresholdRouteDispatch k layer) s = .next t ∧ t.mem = s.mem
            ∧ ∃ st', (t.run k).openStep = some st' ∧ st'.routing = st.routing ++ rt
              ∧ st'.routed = st.routed ++ [layer.toNat])
        ∧ (routingBad m rt = true →
          ∃ t, exec (.thresholdRouteDispatch k layer) s = .next t ∧ t.mem = s.mem
            ∧ ∃ st', (t.run k).openStep = some st' ∧ st'.status = some Status.doesNotFit ∧ st'.boundary = true))

/-- When hash routing sends a token of an opening step of a configuration with experts to an expert whose entry is not VALID,
the step is refused: the STEP and every request finish with DOES_NOT_FIT, and no sequence, step counter or byte of memory changes (R258). A request that was
cancelled before finishes with CANCELLED (R264) and is no part of this. -/
def Obligations.HashRoutingRefusesAMissingExpert : Prop :=
  ∀ (k : CoupeId) (src : HostRead) (cfg : Config) (st : Step) (m : ExpertMap) (s : State), bindingOf s k = some cfg →
    coupeMayOpen s k = true → firstStep ((s.run k).ready.filter (stepMayOpen s k cfg)) = some st →
    chooseBucket cfg (StepD.stage st.w) (StepD.shapes st.w) ≠ .refused → StepD.route st.w = 0 →
    cfg.experts = true → (s.coupe k).nextMap.getD (s.coupe k).map = m → (∀ r ∈ st.reqs, r.status ≠ some Status.cancelled) →
    (∃ x ∈ hashRouting cfg m (checkReqs s cfg st), ∃ n ∈ x.2.2, MapE.valid (m.entry n) = false) →
    ∃ t, exec (.stepOpen k src) s = .next t ∧ (∀ i, t.seq i = s.seq i) ∧ t.coupe k = s.coupe k ∧ t.mem = s.mem
      ∧ t.cores = s.cores ∧ (t.run k).openStep = none
      ∧ ∀ p ∈ st.pos :: st.reqs.map (·.pos), ∀ e, entryOf s st.ring p = some e →
        (entryOf t st.ring p).map (·.state) = some (.done Status.doesNotFit 0 0 ((s.coupe k).stepctr + 1))

/-- At a grid instant the sentinel ends the step of a coupe without progress with DEADLOCK and the record of R142; a wait for
another device past the threshold ends it with SHARD_TIMEOUT, and one threshold later the members that are missing are waited
for no more. A step that needs a replay runs again under the next attempt, or ends with RESTART_REQUIRED. Each of the three
completes in every state that meets the rule's own conditions: a coupe that is bound at a grid instant, whose open step has had
no progress for the threshold, with a core that waits; one whose reduction has had no contribution for the threshold; and one
whose step needs a replay while no slot of it moves
(R139–R143, R350, R361–R363). -/
def Obligations.StepsEndAndReplay : Prop :=
  (∀ (k : CoupeId) (st : Step) (s : State), (s.run k).openStep = some st →
      (gridInstant s = true → (listedCoupes s).filter (sentinelFires s) = [k] →
          ∃ t, exec .sentinelEvaluation s = .next t ∧ t.mem = s.mem
            ∧ ∃ st', (t.run k).openStep = some st' ∧ st'.status = some Status.deadlock ∧ st'.boundary = true
              ∧ st'.detail = deadlockOf s k ∧ st'.dkind = 4)
        ∧ (gridInstant s = true → coupeRuns s k = true →
          ((s.run k).shardWait = none → crossWait s k = true → waitStart s k + (s.coupe k).threshold ≤ s.timebase.toNat →
              ∃ t, exec (.shardDeadline k) s = .next t ∧ t.mem = s.mem ∧ (t.run k).shardWait = some s.timebase
                ∧ ∃ st', (t.run k).openStep = some st' ∧ st'.status = some Status.shardTimeout ∧ st'.boundary = true)
            ∧ (∀ since, (s.run k).shardWait = some since → since.toNat + (s.coupe k).threshold ≤ s.timebase.toNat →
              agreement s k st = none →
              ∃ t, exec (.shardDeadline k) s = .next t ∧ (t.run k).openStep = some (noAgreement st)
                ∧ t = { s with runs := t.runs }))
        ∧ (∀ cfg, bindingOf s k = some cfg → coupeRuns s k = true →
          (coupeCores s k).any (fun c => (s.slot c).moving) = false → st.needReplay = true →
          (st.replayable = true → st.poppedForeign = false → st.attempt < 3 →
              ∃ t, exec (.stepReplay k) s = .next t
                ∧ ∃ st', (t.run k).openStep = some st' ∧ st'.attempt = st.attempt + 1 ∧ st'.number = st.number)
            ∧ ((st.replayable = false ∨ st.poppedForeign = true ∨ 3 ≤ st.attempt) →
              ∃ t, exec (.stepReplay k) s = .next t ∧ t.mem = s.mem
                ∧ ∃ st', (t.run k).openStep = some st' ∧ st'.attempt = st.attempt + 1
                  ∧ st'.status = some Status.restartRequired ∧ st'.boundary = true)))
    ∧ (∀ s : State, (listedCoupes s).filter (sentinelFires s) = [] → exec .sentinelEvaluation s = .next s)
    ∧ (∀ (k : CoupeId) (st : Step) (s : State), (s.run k).openStep = some st → st.boundary = false →
      (s.coupe k).state = .bound → s.timebase.toNat % 1000 = 0 →
      let ends (i : Instr) (status : BitVec 8) : Prop := ∃ t, exec i s = .next t ∧ t.mem = s.mem
        ∧ ∃ st', (t.run k).openStep = some st' ∧ st'.status = some status ∧ st'.boundary = true ∧ st'.number = st.number
      (k ∈ listedCoupes s → (s.run k).lastProgress.toNat + 1000 * (s.coupe k).sentinel.toNat ≤ s.timebase.toNat →
          (∃ c ∈ coupeCores s k, (s.core c).task.isSome = true ∧ (s.core c).stall.latched = true
            ∧ (s.core c).halted = false) →
          transfersOf s k = false → crossWait s k = false → ends .sentinelEvaluation Status.deadlock)
        ∧ ((s.run k).shardWait = none → (∃ r ∈ s.reductions, r.coupe = k) →
          (s.run k).lastCross.toNat + 1000 * (s.coupe k).sentinel.toNat ≤ s.timebase.toNat →
          ends (.shardDeadline k) Status.shardTimeout))
    ∧ (∀ (k : CoupeId) (st : Step) (cfg : Config) (s : State), (s.run k).openStep = some st → bindingOf s k = some cfg →
      (s.coupe k).state = .bound → st.needReplay = true → (∀ c ∈ coupeCores s k, (s.slot c).moving = false) →
      ∃ t, exec (.stepReplay k) s = .next t
        ∧ ∃ st', (t.run k).openStep = some st' ∧ st'.attempt = st.attempt + 1 ∧ st'.w = st.w
          ∧ (st.replayable = false → st'.status = some Status.restartRequired))

/-! ## Patrol and failures -/

/-- A core patrol that passes strikes the core off its stand's list; one that fails once is a transient of the slot, and one
that fails twice retires the physical core under the next incarnation. The end of a bench move frees the slot, with no stored
error left in its bench, and the scent table after a warm reset holds entries of scented groups only
(R66, R67, R231, R365–R367, R370). -/
def Obligations.PatrolsAndRebuilds : Prop :=
  (∀ (c : CoreId) (second : Bool) (s : State), mayPatrol s c = true →
      let g := coreStand c
      exec (.patrol c true second) s = .next (s.setStand g { s.stand g with
          unpatrolled := (s.stand g).unpatrolled.filter (· ≠ coreSlot c) })
        ∧ (∃ t, exec (.patrol c false true) s = .next t ∧ (t.slot c).lastBad = (s.slot c).coreSteps
            ∧ (t.slot c).incarn = (s.slot c).incarn ∧ t.mem = s.mem)
        ∧ (∃ t, exec (.patrol c false false) s = .next t ∧ (t.slot c).incarn = nextIncarn (s.slot c).incarn
            ∧ (t.stand g).retired = (s.stand g).retired ++ [physOf s c] ∧ t.mem = s.mem))
    ∧ (∀ (c : CoreId) (s : State),
      ((s.slot c).moving = true →
          ∃ t, exec (.benchMoveComplete c) s = .next t ∧ t.slot c = { s.slot c with moving := false } ∧ t.mem = s.mem
            ∧ (t.core c).spareLines = []
            ∧ ∀ a, benchAddr c 0 ≤ a → a < benchAddr c 0 + 2 ^ 24 → t.rowErrors.get RowError.none a = RowError.none)
        ∧ ((s.slot c).moving = false → exec (.benchMoveComplete c) s = .next s))
    ∧ (∀ s : State, s.scentRebuild = true →
      ∃ t, exec .scentRebuild s = .next t ∧ t.scentRebuild = false ∧ t.dur.groups = s.dur.groups ∧ t.mem = s.mem
        ∧ ∀ n x, t.dur.scent.get none n = some x →
          ∃ e ∈ s.dur.groups, e.2.scented = true ∧ x.group = BitVec.ofNat 22 e.1
            ∧ x.tag = scentTag (s.group x.group).scent ∧ x.salt = (s.group x.group).salt)

/-- A stand, a sector, a deck stack or a yard channel that fails leaves service with what it holds: the stand's coupe is IDLE
without it and without a configuration, a stack's bytes and allocations are gone, and the yard is empty when the channel was
in use (R203–R205, R372, R374). -/
def Obligations.FailedUnitsLeaveService : Prop :=
  (∀ (g : StandId) (cause : StandCause) (s : State),
      ((s.stand g).inService = false → exec (.standLost g cause) s = .next s)
        ∧ ((s.stand g).inService = true →
          ∃ t, exec (.standLost g cause) s = .next t ∧ (t.stand g).inService = false ∧ t.mem = s.mem
            ∧ ∀ k, coupeOfStand s g = some k → inMask (t.coupe k).stands g = false
              ∧ (∀ j, j < 8 → (t.coupe k).bindings.get none j = none)
              ∧ ((s.coupe k).state ≠ .draining → (t.coupe k).state = .idle)))
    ∧ (∀ (i : SectorId) (die : BitVec 2) (s : State), (s.sector i).mode ≠ .out →
      ∃ t, exec (.sramDieFailure i die) s = .next t ∧ (t.sector i).mode = .out ∧ t.mem = s.mem
        ∧ ∀ g ∈ sectorStands i, (t.stand g).inService = false)
    ∧ (∀ (i : SectorId) (s : State), (s.stack i).state ≠ .failed →
      ∃ t, exec (.deckStackFailure i) s = .next t ∧ (t.stack i).state = .failed
        ∧ (∀ a, stackBase i.val ≤ a → a < stackBase i.val + stackSize → Memory.byte a t.mem = Memory.empty)
        ∧ (∀ a ∈ t.dur.allocs, inStack i a = false))
    ∧ (∀ (c : ChannelId) (s : State), (s.channel c).failed = false →
      ∃ t, exec (.yardChannelFailure c) s = .next t ∧ (t.channel c).failed = true
        ∧ (channelInUse s c = false → t.mem = s.mem ∧ t.dur = s.dur)
        ∧ (channelInUse s c = true → ∀ a ∈ t.dur.allocs, a.pool ≠ .yard))

/-! ## Supplies, rails and the ranger -/

/-- Auxiliary power boots the ranger, whose verified firmware starts the rails; main power between 40 V and 60 V is a cold
reset, below 39 V it stays locked out, and outside those limits the spec gives no behaviour: the model stops. Losing
main power empties every tier, and losing auxiliary power also stops the ranger and the test access port (R384, R389,
R427). A rail out of regulation is shut off and its consumers leave service; the ranger retries it, and after the
third retry without regulation it latches off with PWR_FLT. The ranger's watchdog stops the ranger and its tests, and
its return is counted (R386–R390, R399). -/
def Obligations.SuppliesAndRails : Prop :=
  (∀ s : State,
        (s.power.aux = false →
            ∃ t, exec .auxPowerOn s = .next t ∧ t.power.aux = true ∧ t.ranger.booted = true
              ∧ t = { s with power := t.power, ranger := t.ranger })
          ∧ (s.power.aux = true → s.ranger.auxReady = false →
            ∃ t, exec .auxReady s = .next t ∧ t.ranger.running = true ∧ t.ranger.auxReady = true
              ∧ t.ranger.fwVer = Config.fwVer ∧ t = { s with ranger := t.ranger, rails := t.rails })
          ∧ (s.power.aux = true →
            ∃ t, exec .auxPowerLoss s = .next t ∧ t.power.aux = false ∧ t.ranger.running = false ∧ t.tap = .idcode
              ∧ t.setup = Setup.reset ∧ Blank t ∧ t.cores = [] ∧ t.dur = Durable.reset)
          ∧ (∀ mv : BitVec 17,
            (mv.toNat < 39000 → exec (.mainPowerOn mv) s = .next s)
              ∧ ((39000 ≤ mv.toNat ∧ mv.toNat < 40000) ∨ 60000 < mv.toNat →
                  exec (.mainPowerOn mv) s = .fault .supplyOutOfLimits)
              ∧ (40000 ≤ mv.toNat → mv.toNat ≤ 60000 → s.power.main = false →
                ∃ t, exec (.mainPowerOn mv) s = .next t ∧ t.power.main = true ∧ t.power.colds = s.power.colds + 1
                  ∧ t.power.vin = mv.setWidth 32 ∧ t.power.device = .bringUp ∧ t.power.rb = .busy ∧ t.setup = Setup.reset
                  ∧ Blank t ∧ t.cores = [] ∧ t.dur = Durable.reset))
          ∧ (s.power.main = true →
            ∃ t, exec .mainPowerLoss s = .next t ∧ t.power.main = false ∧ t.power.rb = .busy ∧ t.timebase = s.timebase
              ∧ t.power.pwrFlt = s.power.pwrFlt ∧ Blank t ∧ t.cores = [] ∧ t.dur = Durable.reset))
    ∧ ((∀ (r : Rail) (n : BitVec 8) (x : RailReading) (s : State),
          let u := s.rail r n.toNat
          (u.state = .on →
              ∃ t, exec (.railOutOfRegulation r n x) s = .next t ∧ (t.rail r n.toNat).state = .shutOff
                ∧ (railWhole r = true → Blank t ∧ t.power.rb = .busy ∧ t.power.main = s.power.main)
                ∧ (r = .core → (t.stand (BitVec.ofNat 7 n.toNat)).inService = false))
            ∧ (u.state = .ramping → u.retries = 3 →
              ∃ t, exec (.railRampTimeout r n x) s = .next t ∧ (t.rail r n.toNat).state = .latched ∧ t.power.pwrFlt = true
                ∧ (railWhole r = true → t.power.device = .tripped ∧ t.power.rb = .busy))
            ∧ (u.state = .ramping → u.retries ≠ 3 →
              ∃ t, exec (.railRampTimeout r n x) s = .next t ∧ t.rail r n.toNat = { u with state := .shutOff }
                ∧ t = { s with rails := t.rails })
            ∧ (u.state = .shutOff → s.ranger.running = true → s.power.main = true → u.retries ≠ 3 →
              ∃ t, exec (.railRetry r n) s = .next t
                ∧ t.rail r n.toNat = { u with state := .ramping, retries := u.retries + 1 } ∧ t = { s with rails := t.rails })
            ∧ (u.state = .ramping →
              ∃ t, exec (.railInRegulation r n) s = .next t ∧ (t.rail r n.toNat).state = .on
                ∧ (t.rail r n.toNat).retries = 0))
        ∧ (∀ s : State,
          (s.ranger.running = true → ∃ t, exec .rangerWatchdog s = .next t ∧ t.ranger.running = false ∧ t.tests = [])
            ∧ (s.ranger.running = false → s.ranger.auxReady = true → s.power.aux = true →
              ∃ t, exec .rangerRestart s = .next t ∧ t.ranger.running = true
                ∧ t.ranger.restarts = BitVec.ofNat 8 (satAdd 8 s.ranger.restarts.toNat 1)
                ∧ t = { s with ranger := t.ranger, events := t.events, rails := t.rails })))

/-- The end of bring-up makes the part EARLY or READY with its stands at 900 MHz; calibration sets a stand's voltage; the
ranger's poll keeps its readings and warns of a junction above 100 °C. The thermal trip stops the part with its benches empty
and its links down, and a held warm reset runs once every junction is below 95 °C. A verified ranger image restarts the ranger
(R385, R391–R393, R396, R406–R408). -/
def Obligations.BringUpAndHeat : Prop :=
  (∀ (b : BringUp) (s : State), s.power.main = true → s.ranger.running = true → s.power.device = .bringUp →
      s.power.coldRst = false → (∀ r i, i < railCount r → (s.rail r i).state = .on) →
      ∃ t, exec (.bringUpComplete b) s = .next t ∧ (t.power.device = .early ∨ t.power.device = .ready)
        ∧ (∀ g, (t.stand g).mhz = 900 ∧ (t.stand g).pstate = 4
            ∧ (b.unfit = [] → (t.stand g).inService = (!b.badStands.contains g && (s.stand g).inService))
            ∧ (b.badStands.contains g = true → (t.stand g).inService = false))
        ∧ (∀ i, b.badStacks.contains i = true → (t.stack i).state = .failed)
        ∧ (t.power.rb = .released ↔ mayRelease t = true))
    ∧ (∀ (g : StandId) (mv : BitVec 10) (s : State), (s.power.device = .early ∨ s.power.device = .ready) →
      s.ranger.running = true → (s.stand g).inService = true → (s.stand g).isolated = false → (s.stand g).cal = false →
      coupeOfStand s g = none → s.power.resetPhase = .none →
      ∃ t, exec (.standCalibrated g mv) s = .next t ∧ t.stand g = { s.stand g with cal := true, mv := mv }
        ∧ t.mem = s.mem ∧ t.cores = s.cores)
    ∧ (∀ s : State, s.ranger.running = true → s.power.main = true →
      (∀ g n temp, ∃ t, exec (.sensorPoll [(.junction g n, temp)]) s = .next t ∧ (t.stand g).tj = temp
          ∧ t.power.tjmax = temp ∧ t.mem = s.mem
          ∧ (1600 < temp → mayWarn s (.junction g n) = true → (Sensor.junction g n, 100) ∈ t.power.warned))
        ∧ (∀ i temp, ∃ t, exec (.sensorPoll [(.deckStack i, temp)]) s = .next t ∧ (t.stack i).temp = temp)
        ∧ (∀ temp, ∃ t, exec (.sensorPoll [(.coolantInlet, temp)]) s = .next t ∧ t.power.tin = temp)
        ∧ (∀ w, ∃ t, exec (.sensorPoll [(.inputPower, w)]) s = .next t ∧ t.power.pin = BitVec.ofInt 32 w))
    ∧ (∀ (g : StandId) (s : State), s.power.main = true → s.power.device ≠ .tripped →
      ∃ t, exec (.thermalTrip g) s = .next t ∧ t.power.device = .tripped ∧ t.power.trip = true ∧ t.power.rb = .busy
        ∧ (∀ l, (t.link l).state = .down) ∧ (∀ h, (t.stand h).ballast = false)
        ∧ (∀ a, Memory.byte a t.mem = if isBench a then Memory.empty else Memory.byte a s.mem))
    ∧ (∀ (hottest : Int) (s : State), s.power.resetPhase = .heldWarm →
      (1520 ≤ hottest → exec (.tripWarmResetRelease hottest) s = .next s)
        ∧ (hottest < 1520 → ∃ t, exec (.tripWarmResetRelease hottest) s = .next t
          ∧ t.power.resetPhase = .warm s.power.perst ∧ t.power.trip = false ∧ t.power.warms = s.power.warms + 1))
    ∧ (∀ (version : BitVec 16) (s : State), s.ranger.running = true →
      ∃ t, exec (.firmwareUpdate true true version) s = .next t ∧ t.ranger.fwVer = version ∧ t.ranger.running = false)

/-! ## Resets, recovery and the host -/

/-- A cold reset counts itself and leaves the part in bring-up with empty memory and set-up open. A warm reset stops the part
with HST_RB busy; recovery brings back the records of the last commit and the state that the part held before. A drain of the
whole part ends in a warm reset once no step is open, or after 1 s (R311, R312, R391, R394–R397, R432). -/
def Obligations.ResetsAndRecovery : Prop :=
  (∀ (tr : ResetTrigger) (s : State), s.power.main = true → (tr = .bmc → s.ranger.running = true) →
      (∃ t, exec (.coldReset tr) s = .next t ∧ t.power.colds = s.power.colds + 1 ∧ t.power.device = .bringUp
          ∧ t.power.rb = .busy ∧ t.setup = Setup.reset ∧ t.ranger.running = false ∧ Blank t ∧ t.cores = []
          ∧ t.dur = Durable.reset ∧ (tr = .pin → t.power.coldRst = true))
        ∧ ((s.power.device = .early ∨ s.power.device = .ready) → s.power.resetPhase = .none →
          (tr = .pin → s.power.perst = false) →
          ∃ t, exec (.warmReset tr) s = .next t ∧ t.power.resetPhase = .warm (decide (tr = .pin))
            ∧ t.power.warms = s.power.warms + 1 ∧ t.power.before = s.power.device ∧ t.power.rb = .busy
            ∧ t.power.linkUp = false ∧ (∀ l, (t.link l).state = .down) ∧ t.tests = []
            ∧ (s.tests = [] → t.mem = s.mem ∧ t.dur = s.dur)))
    ∧ (∀ s : State,
      (∃ t, exec .coldRstNRelease s = .next t ∧ t.power.coldRst = false ∧ t.tapHolds = false
          ∧ (s.tapHolds = true → t.tap = .idcode)
          ∧ t = { s with tap := t.tap, tapHolds := false, power := t.power, rails := t.rails })
        ∧ (s.power.resetPhase = .warm false → s.journalOk = true →
          ∃ t, exec .releasePoint s = .next t ∧ t.power.resetPhase = .none ∧ t.dur.commits = s.journal.commits
            ∧ t.transfers = [] ∧ t.scentRebuild = true ∧ t.power.linkUp = !s.power.perst
            ∧ (t.power.device = s.power.before ∨ (s.power.before = .early ∧ t.power.device = .ready)))
        ∧ (s.power.resetPhase = .warm false → s.journalOk = false → exec .releasePoint s = .next s)
        ∧ (s.power.perst = true →
          (s.power.main = false → exec .perstRelease s = .next { s with power := { s.power with perst := false } })
            ∧ (s.power.main = true → s.power.resetPhase = .none →
              ∃ t, exec .perstRelease s = .next t ∧ t.power.perst = false ∧ t.power.linkUp = true ∧ t.mem = s.mem)
            ∧ (s.power.main = true → s.power.resetPhase = .warm true → s.journalOk = true →
              ∃ t, exec .perstRelease s = .next t ∧ t.power.perst = false ∧ t.power.resetPhase = .none
                ∧ t.dur.commits = s.journal.commits)))
    ∧ (∀ (i : Instr) (s : State), (i = .wholeDeviceDrain ∨ ∃ v, i = .firmwareUpdate false true v) →
      s.ranger.running = true → s.power.main = true → s.power.resetPhase = .none →
      (s.power.device = .early ∨ s.power.device = .ready) →
      ∃ t, exec i s = .next t ∧ t.power.rb = .busy ∧ t.power.before = s.power.device
        ∧ (noOpenStep s = false → t.power.device = .draining ∧ t.power.drainSince = some s.timebase)
        ∧ (noOpenStep s = true → t.power.resetPhase = .warm false))
    ∧ (∀ (since : BitVec 64) (s : State), s.power.drainSince = some since → s.power.device = .draining →
      (since.toNat + 100000000 ≤ s.timebase.toNat →
          ∃ t, exec .wholeDeviceDrainTimeout s = .next t ∧ t.power.resetPhase = .warm false
            ∧ t.power.warms = s.power.warms + 1)
        ∧ (s.timebase.toNat < since.toNat + 100000000 → exec .wholeDeviceDrainTimeout s = .next s))

/-- Set-up: LOCK starts an attempt, and SETUP_LOCK ends it: it closes set-up when every check of R417 passes, and otherwise
notes the code of the first that fails. From the start of an attempt on, a write to a register that the lock closes is
discarded and counted; an open one takes the value. WARM_RST is a warm reset, and abandons an attempt (R412–R419). -/
def Obligations.SetUpIsLockedOnce : Prop :=
  ∀ s : State, barOpen s = true →
    (∀ table,
        (s.setup.locked = true →
            ∃ t, exec (.setupLock table) s = .next t ∧ t = { s with setup := { s.setup with
              lockViol := BitVec.ofNat 32 (satAdd 32 s.setup.lockViol.toNat 1) } })
          ∧ (s.setup.locked = false → lockCode s table ≠ 0 →
            exec (.setupLock table) s
              = .next { s with setup := { s.setup with err := BitVec.ofNat 8 (lockCode s table), checking := false } })
          ∧ (s.setup.locked = false → lockCode s table = 0 →
            ∃ t, exec (.setupLock table) s = .next t ∧ t.setup = { s.setup with locked := true, err := 0, checking := false }
              ∧ t.lastLock = some (s.setup.ringTable, s.setup.ledgerBase, s.setup.ledgerSize) ∧ t.mem = s.mem
              ∧ t.dur = s.dur ∧ (t.power.rb = .released ↔ mayRelease t = true)))
      ∧ (∀ also, exec (.warmRst also) s = .next (warmReset false { s with setup := { s.setup with checking := false } }))
      ∧ (∀ (o : BitVec 20) (v : BitVec 64), o.toNat % 8 = 0 →
        (o.toNat = 0x1000 → bit v 2 = true → exec (.registerWrite 0 o 8 v) s
              = .next (warmReset false { s with setup := { s.setup with checking := false } }))
          ∧ (o.toNat = 0x1000 → bit v 2 = false → bit v 1 = true →
            (s.setup.locked = true → exec (.registerWrite 0 o 8 v) s = .next (countViolation s))
              ∧ (s.setup.locked = false → exec (.registerWrite 0 o 8 v) s
                = .next { s with setup := { s.setup with checking := true } }))
          ∧ (o.toNat ≠ 0x1000 → lockedReg o.toNat = true → (s.setup.locked = true ∨ s.setup.checking = true) →
            exec (.registerWrite 0 o 8 v) s = .next (countViolation s))
          ∧ (o.toNat ≠ 0x1000 → (lockedReg o.toNat = true → s.setup.locked = false ∧ s.setup.checking = false) →
            exec (.registerWrite 0 o 8 v) s = .next { s with setup := writeSetup s.setup o.toNat v }))

/-- The host's side: a function-level reset holds one function until its bus-master enable returns, host accesses stop
while the link is down, and the CXL enable selects how doorbells are seen. On the management bus the ranger sends its
provisional ID and takes its address, and a telemetry datagram is counted (R294, R314, R315, R356, R421, R431). The test access port takes an
instruction while auxiliary power is on; one that holds the lands only while COLD_RST_N is asserted, and is BYPASS
otherwise. A reset of the port selects IDCODE (R432). -/
def Obligations.FunctionsHostLinkAndTap : Prop :=
  (∀ s : State,
        (∀ f : BitVec 3, s.power.main = true → f.toNat < s.setup.nfunc.toNat →
            ∃ t, exec (.functionLevelReset f) s = .next t ∧ t = { s with funcReset := t.funcReset }
              ∧ ∀ g : BitVec 3, bit t.funcReset g.toNat = (bit s.funcReset g.toNat || decide (g = f)))
          ∧ (∀ f : BitVec 3, bit s.funcReset f.toNat = true →
            ∃ t, exec (.busMasterEnable f) s = .next t ∧ t.mem = s.mem ∧ t.cores = s.cores
              ∧ ∀ g : BitVec 3, bit t.funcReset g.toNat = (bit s.funcReset g.toNat && !decide (g = f)))
          ∧ exec .hostLinkRetrain s = .next { s with power := { s.power with linkUp := false } }
          ∧ (∀ rate width, s.power.main = true → s.power.perst = false → s.power.resetPhase = .none →
            exec (.hostLinkRestored rate width) s
              = .next { s with power := { s.power with linkUp := true, rate := rate, width := width } })
          ∧ (∀ on counts, s.power.main = true →
            ∃ t, exec (.cxlCacheEnableChange on counts) s = .next t ∧ t.power.cxl = on ∧ t.mem = s.mem ∧ t.cores = s.cores)
          ∧ (∀ address, s.power.aux = true → s.ranger.running = true →
            exec (.entdaa address) s = .next { s with i3c := some address, i3cSent := some (Config.serial.setWidth 48) })
          ∧ (s.ranger.running = true → ethOn s false = true → bit s.setup.telemPort 16 = true →
            (s.ethPort false).testing = false →
            ∃ t, exec .telemetrySample s = .next t ∧ t.telemetry = s.telemetry + 1 ∧ t.mem = s.mem ∧ t.cores = s.cores))
    ∧ (∀ s : State,
        exec .tapReset s = .next { s with tap := .idcode, tapHolds := false }
          ∧ (s.power.aux = true →
            (∀ i ∈ [(Instr.bypass, TapInstr.bypass), (.idcode, .idcode), (.samplePreload, .samplePreload)],
                exec i.1 s = .next { s with tap := i.2, tapHolds := false })
              ∧ (∀ i ∈ [(Instr.extest, TapInstr.extest), (.clamp, .clamp), (.highz, .highz),
                  (.extestPulse, .extestPulse), (.extestTrain, .extestTrain)],
                exec i.1 s = .next (if s.power.coldRst then { s with tap := i.2, tapHolds := true }
                  else { s with tap := .bypass, tapHolds := false })))
          ∧ (s.power.aux = false → ∀ i ∈ [Instr.bypass, .idcode, .samplePreload, .extest, .clamp, .highz, .extestPulse,
              .extestTrain], exec i s = .next s))
/-! ## Links -/

/-- A link goes from PROBE to TRAIN when it detects signal on two lanes, to AUTH when it has trained, and to UP, DEGRADED or
QUARANTINED when the exchanges end; a deadline, a lost signal or lost reference clock takes it back or out, too many errors to
the next lower configuration or to FENCED. A coordinate record in force sets every link's reach (R328, R341–R343, R430). -/
def Obligations.LinksChangeState : Prop :=
  (∀ (l : LinkId) (s : State),
      (∀ lanes : BitVec 4, linksOn s = true → linkPowered s l = true → (s.link l).state = .probe →
          (s.link l).retryWait = false → 2 ≤ lanes.toNat →
          ∃ t, exec (.linkSignalDetect l lanes) s = .next t ∧ LinkEnters l .train LinkCause.signal s t)
        ∧ (∀ lanes half, (s.link l).state = .train → (lanes = 8 ∨ lanes = 4 ∨ lanes = 2) →
          ∃ t, exec (.linkTrainComplete l lanes half) s = .next t ∧ LinkEnters l .auth LinkCause.training s t
            ∧ (t.link l).lanes = lanes ∧ (t.link l).half = half ∧ (t.link l).coord = none)
        ∧ ((s.link l).state = .train → trainTicks (s.link l) ≤ (now48 s - (s.link l).since).toNat →
          ∃ t, exec (.linkTrainTimeout l) s = .next t ∧ LinkEnters l .probe LinkCause.training s t
            ∧ (t.link l).retryWait = true)
        ∧ ((s.link l).state = .probe → (s.link l).retryWait = true →
          100000000 ≤ (now48 s - (s.link l).since).toNat →
          ∃ t, exec (.linkProbeRetry l) s = .next t ∧ t.link l = { s.link l with retryWait := false }
            ∧ t = { s with links := t.links })
        ∧ (∀ r : AuthResult, (s.link l).state = .auth → s.ranger.running = true →
          let genuine := r.chainOk && r.leafOk && r.challengeOk && r.measurementOk
          (genuine = false →
              ∃ t, exec (.linkAuth l r) s = .next t ∧ LinkEnters l .quarantined LinkCause.auth s t)
            ∧ (∀ w, genuine = true → (s.link l).coord = some w →
              ∃ t, exec (.linkAuth l r) s = .next t ∧ (t.link l).pLink = r.partnerLink
                ∧ (partnerOk (coordOf s) w l r.partnerLink = true →
                    LinkEnters l (if (s.link l).degradedNext then .degraded else .up) LinkCause.auth s t)
                ∧ (partnerOk (coordOf s) w l r.partnerLink = false →
                    LinkEnters l .quarantined LinkCause.coordinate s t)))
        ∧ ((s.link l).state = .auth → 5000000 ≤ (now48 s - (s.link l).since).toNat →
          ∃ t, exec (.linkAuthTimeout l) s = .next t ∧ LinkEnters l .quarantined LinkCause.auth s t)
        ∧ ((s.link l).works = true →
          (∃ t, exec (.linkSignalLoss l) s = .next t ∧ LinkEnters l .probe LinkCause.signal s t)
            ∧ (∀ cause, ∃ t, exec (.linkFence l cause) s = .next t ∧ LinkEnters l .fenced (fenceCode cause) s t)
            ∧ (∀ e, lowerConfig (s.link l) e = none →
              ∃ t, exec (.linkErrorFallback l e) s = .next t ∧ LinkEnters l .fenced LinkCause.errors s t)
            ∧ (∀ e lanes half, lowerConfig (s.link l) e = some (lanes, half) →
              ∃ t, exec (.linkErrorFallback l e) s = .next t ∧ LinkEnters l .degraded LinkCause.errors s t
                ∧ (t.link l).lanes = lanes ∧ (t.link l).half = half ∧ (t.link l).retraining = true)))
    ∧ (∀ (second : Bool) (s : State),
      ∃ t, exec (.mrefLoss second) s = .next t ∧ t.mem = s.mem ∧ t.cores = s.cores
        ∧ ∀ l : LinkId, (decide (12 ≤ l.val) = second → (s.link l).works = true → (t.link l).state = .probe)
          ∧ (decide (12 ≤ l.val) ≠ second → t.link l = s.link l))
    ∧ (∀ (w : BitVec 128) (s : State), s.ranger.running = true →
      (Coord.ok w = false → ∃ t, exec (.coordinateRecord w) s = .next t ∧ t = { s with events := t.events })
        ∧ (Coord.ok w = true → linksOn s = true →
          ∃ t, exec (.coordinateRecord w) s = .next t ∧ t.coord = some w ∧ t.mem = s.mem ∧ t.cores = s.cores
            ∧ ∀ l, (t.link l).reach = BitVec.ofNat 2 (Coord.reach w l.val)))

/-- The link level: a flit that a codeword or its CRC damages owes a NAK, a sound one gives its ACK, credits and number, one
that breaks R345's form quarantines a link in service, and a NAK replays from the flit that it acknowledges. In AUTH the link
takes the partner's SPDM messages and coordinate record; after a fast retrain it carries traffic again
(R331–R333, R342, R343, R345). -/
def Obligations.FlitsAndManagementPackets : Prop :=
  ∀ (l : LinkId) (s : State),
    let x := s.link l
    let becomes (i : Instr) (y : Link) : Prop :=
      ∃ t, exec i s = .next t ∧ t.link l = y ∧ (∀ m, m ≠ l → t.link m = s.link m) ∧ t = { s with links := t.links }
    ((x.works = true ∨ x.state = .auth) →
        (∀ a, x.ackOk a = true → becomes (.linkNak l a) (x.naked a))
          ∧ (∀ a, x.ackOk a = false → x.works = true →
            ∃ t, exec (.linkNak l a) s = .next t ∧ LinkEnters l .quarantined LinkCause.malformed s t)
          ∧ (∀ w n, x.retraining = false →
            let y := x.counted n
            let sound := n.isSome && crc32c (flitBytes w) == Flit.crc w
            (sound = false → becomes (.flit l w n) { y with nakOwed := true, awaiting := true })
              ∧ (sound = true → y.malformed w = false → becomes (.flit l w n) (y.takes w))
              ∧ (sound = true → y.malformed w = true → x.works = true →
                ∃ t, exec (.flit l w n) s = .next t ∧ LinkEnters l .quarantined LinkCause.malformed s t)))
      ∧ (x.state = .auth →
        (∀ m, becomes (.spdm l m) { x with spdm := x.spdm ++ [m] })
          ∧ (∀ w, becomes (.coord l w) { x with
              coord := some w, pPod := Coord.pod w, pDev := BitVec.ofNat 8 (Coord.devno w) }))
      ∧ (x.works = true → x.retraining = false → ∀ m,
        ∃ t, exec (.spdm l m) s = .next t ∧ LinkEnters l .quarantined LinkCause.malformed s t)
      ∧ becomes (.fastRetrainComplete l) { x with retraining := false }

/-- A packet that R345 admits does what its type says: a ROW joins its queue, one of an old epoch is discarded; CREDIT
gives the producer its credits up to the depth; OUTCOME is held for a step to come or joins the open step, unless its
member gives another S_COUNT; FLUSH notes the member's epoch; ANNOUNCE replaces what the sender announced; a BUNDLE for a
step to come is kept, and one of the open step leaves it the pairs of this coupe's experts. A malformed packet quarantines
the link (R336, R337, R345, R347–R349). -/
def Obligations.PacketsAreTaken : Prop :=
  ∀ (l : LinkId) (h : BitVec 128) (s : State),
    (∀ (k : CoupeId) (data : Row), AdmittedFor s l h 1 k → Pkt.len h = 512 → Pkt.channel h < 24 →
        let qh := spanHandle (Pkt.idx h) (Pkt.channel h)
        let it := Item.row data (Pkt.poison h)
        (s.queue k qh = none →
            ∃ t, exec (.row l h data) s = .next t ∧ (t.run k).strays = (s.run k).strays + 1 ∧ t.mem = s.mem)
          ∧ (∀ q, s.queue k qh = some q → q.epoch ≠ Pkt.epoch h →
            ∃ t, exec (.row l h data) s = .next t ∧ t.queue k qh = some { q with discarded := q.discarded + 1 }
              ∧ t.mem = s.mem)
          ∧ (∀ q, s.queue k qh = some q → q.epoch = Pkt.epoch h → (q.network.isEmpty && q.admits it) = false →
            ∃ t, exec (.row l h data) s = .next t ∧ t.queue k qh = some { q with
                  network := q.network ++ [it], sent := q.sent ++ [⟨s.injected, injectionTime s.timebase⟩] }
              ∧ (t.run k).lastCross = s.timebase ∧ t.mem = s.mem)
          ∧ (∀ q, s.queue k qh = some q → q.epoch = Pkt.epoch h → q.network = [] → q.admits it = true →
            exec (.row l h data) s
              = .next (progress (admitItem k qh q it (crossArrival k s)) (QRec.cons q.record))))
      ∧ (∀ (k : CoupeId) (n : BitVec 8) (q : Queue), AdmittedFor s l h 2 k → Pkt.len h = 4 →
        let qh := spanHandle (Pkt.idx h) (Pkt.channel h)
        s.queue k qh = some q → q.epoch = Pkt.epoch h →
        (s.core (QRec.prod q.record)).port (4 + QRec.prodPort q.record) ≠ qh → (s.run k).feedPlans = [] →
        (∀ x ∈ s.transfers, Mv.dspace x.w ≠ 2) →
        ∃ t, exec (.credit l h n) s = .next t ∧ t.mem = s.mem ∧ t.cores = s.cores
          ∧ t.queue k qh = some { q with credits := min q.depth (q.credits + n.toNat) })
      ∧ (∀ (k : CoupeId) (xtag : BitVec 32) (attempt : BitVec 2) (nreq : BitVec 7) (status : BitVec 8)
          (l2 : List (BitVec 8)), AdmittedFor s l h 3 k → Pkt.len h = 8 + l2.length →
        let count := (s.coupe k).sCount
        let o : HeldOutcome := ⟨BitVec.ofNat 8 (Pkt.idx h), xtag, attempt, nreq, status, l2, none, count⟩
        ((s.run k).openStep = none → (s.run k).xtagsDone.contains xtag = false →
            ((s.run k).heldOutcomes.filter (fun x => x.member = o.member)).length < 4 →
            ∃ t, exec (.outcome l h xtag attempt nreq status l2 none count) s = .next t
              ∧ (t.run k).heldOutcomes = (s.run k).heldOutcomes ++ [o] ∧ t.mem = s.mem ∧ t.cores = s.cores)
          ∧ (∀ st, (s.run k).openStep = some st → st.spans = true → StepD.xtag st.w = xtag → st.attempt ≤ attempt.toNat →
            st.outcomes.any (fun x => x.member = o.member && x.attempt = o.attempt) = false →
            ∃ t, exec (.outcome l h xtag attempt nreq status l2 none count) s = .next t
              ∧ (t.run k).openStep = some { st with outcomes := st.outcomes ++ [o] } ∧ t.mem = s.mem
              ∧ t.cores = s.cores)
          ∧ (∀ other, other ≠ count → ∃ t, exec (.outcome l h xtag attempt nreq status l2 none other) s = .next t
              ∧ (t.run k).heldOutcomes = (s.run k).heldOutcomes ∧ (t.run k).openStep = (s.run k).openStep))
      ∧ (∀ k : CoupeId, AdmittedFor s l h 4 k → Pkt.len h = 0 →
        ∃ t, exec (.flush l h) s = .next t ∧ Pkt.idx h * 256 + (Pkt.epoch h).toNat ∈ (t.run k).flushed)
      ∧ (∀ members reach, Admitted s l h 5 → Pkt.len h = 8 + 4 * members.length →
        let e : Announced := ⟨BitVec.ofNat 8 (Pkt.src h), members, reach⟩
        ∃ t, exec (.announce l h members reach) s = .next t ∧ t.mem = s.mem
          ∧ t.announced = s.announced.filter (fun a => a.dev ≠ e.dev) ++ [e])
      ∧ (∀ (k : CoupeId) (layer : BitVec 16) (sender : BitVec 8) (ps : List (BitVec 128)), AdmittedFor s l h 6 k →
        Pkt.len h = 4 + 16 * ps.length →
        ((s.run k).openStep = none →
            ∃ t, exec (.bundle l h layer sender ps) s = .next t ∧ t.mem = s.mem ∧ t.cores = s.cores
              ∧ (t.run k).earlyBundles = (s.run k).earlyBundles
                ++ [((Pkt.epoch h).toNat, layer.toNat, sender.toNat, ps)])
          ∧ (∀ st cfg, (s.run k).openStep = some st → bindingOf s k = some cfg → st.spans = true → st.boundary = false →
            let m := (s.coupe k).map
            Pkt.epoch h = (s.run k).spanEpoch →
            (s.run k).bundles.any (fun b => b.1 = layer.toNat && b.2.1 = sender.toNat) = false →
            ∃ t, exec (.bundle l h layer sender ps) s = .next t ∧ t.mem = s.mem ∧ t.cores = s.cores
              ∧ (t.run k).bundles = (s.run k).bundles
                ++ [(layer.toNat, sender.toNat, pairsOn m k (ownPairs (s.coupe k) m ps))]))
      ∧ (∀ data, (s.link l).works = true → (s.link l).retraining = false → (Pkt.ptype h ≠ 1 ∨ Pkt.rsvdOk h = false) →
        ∃ t, exec (.row l h data) s = .next t ∧ LinkEnters l .quarantined LinkCause.malformed s t)

/-- An Ethernet work request moves its bytes and completes: a READ into the deck writes what arrives, a source or target
that the function may not touch is a protection error, and a READ into a sequence goes on to its import, whose groups the
next commit creates; it waits for units that are granted and not yet free, and a failed import leaves its sequence as it
was. A received frame is counted, and refused when damaged or unsupported (R353–R355, R413). -/
def Obligations.EthernetMovesBytes : Prop :=
  (∀ (qp : BitVec 10) (f : BitVec 3) (p : Bool) (b : EthBuffer) (c : EthSent) (s : State), ethOn s p = true →
      (s.ethPort p).testing = false → qpReady s qp f = true →
      (∀ op, (op = .send ∨ op = .write) → sourceOk s f b = true → bufferGranules s b = [] →
          ∃ t, exec (.ethWorkRequest qp f p op b c .done) s = .next t ∧ t.workDone = s.workDone ++ [⟨qp, 0⟩]
            ∧ t.mem = s.mem ∧ t.cores = s.cores)
        ∧ (∀ op, (op = .send ∨ op = .write) → sourceOk s f b = false →
          ∃ t, exec (.ethWorkRequest qp f p op b c .done) s = .next t ∧ t.workDone = s.workDone ++ [⟨qp, 1⟩]
            ∧ t = { s with workDone := t.workDone, eth := t.eth })
        ∧ (∀ a n data, b = .deck a n → deckRangeOk s f a.toNat n true = true → data.length = n → s.granuleErrors = [] →
          ∃ t, exec (.ethWorkRequest qp f p (.read data) b c .done) s = .next t
            ∧ t.workDone = s.workDone ++ [⟨qp, 0⟩] ∧ t.cores = s.cores
            ∧ (∀ j (h : j < data.length), Memory.byte (a.toNat + j) t.mem = data[j])
            ∧ (∀ x, (x < a.toNat ∨ a.toNat + n ≤ x) → Memory.byte x t.mem = Memory.byte x s.mem))
        ∧ (∀ i gen b0 n data, b = .seq i gen b0 n → seqTargetOk s i gen b0 = true →
          ∃ t, exec (.ethWorkRequest qp f p (.read data) b c .done) s = .next t
            ∧ t.imports = s.imports ++ [⟨qp, i, gen, b0, n, []⟩] ∧ t.workDone = s.workDone ∧ t.mem = s.mem))
    ∧ (∀ (p : Bool) (x : EthFrame) (s : State), ethOn s p = true → (s.ethPort p).testing = false →
      let count (k : Nat) (s : State) := (s.ethPort p).stats.get 0 k
      (x.fcsOk = false → ∃ t, exec (.ethFrameReceive p x) s = .next t ∧ count 4 t = count 4 s + 1
          ∧ t = { s with eth := t.eth })
        ∧ (x.fcsOk = true → x.pause = false → frameUnsupported x = true →
          ∃ t, exec (.ethFrameReceive p x) s = .next t ∧ count 5 t = count 5 s + 1 ∧ count 1 t = count 1 s + 1
            ∧ t = { s with eth := t.eth })
        ∧ (x.fcsOk = true → x.pause = false → frameUnsupported x = false → x.cnp = false → x.outOfSequence = false →
          x.access = .none →
          ∃ t, exec (.ethFrameReceive p x) s = .next t ∧ count 1 t = count 1 s + 1
            ∧ count 3 t = count 3 s + BitVec.ofNat 64 x.len ∧ t = { s with eth := t.eth }))
    ∧ (∀ (qp : BitVec 10) (bs : List (List (BitVec 32) × List (Row × Bool))) (m : Import) (cfg : Config) (s : State),
      s.imports.find? (fun x => x.qp = qp) = some m → bindingOf s (s.seq m.slot).coupe = some cfg →
      let s1 := { s with imports := s.imports.erase m }
      ((blocksOk cfg m.blocks.toNat bs = false ∨ seqTargetOk s m.slot m.gen m.b0 = false) →
          ∃ t, exec (.seqImportComplete qp bs) s = .next t ∧ t.workDone = s.workDone ++ [⟨qp, 3⟩]
            ∧ t.mem = s.mem ∧ t.cores = s.cores ∧ t.imports = s1.imports ∧ ∀ i, t.seq i = s.seq i)
        ∧ (blocksOk cfg m.blocks.toNat bs = true → seqTargetOk s m.slot m.gen m.b0 = true → ∀ gs u,
          (takeImport (s.seq m.slot).coupe cfg m s1 = .granted gs u →
              ∃ t, exec (.seqImportComplete qp bs) s = .next t ∧ t.workDone = u.workDone ∧ t.dur = u.dur
                ∧ ∃ d, t.due = d ++ [.importBlocks qp m.slot m.gen m.b0 (gs.zip (bs.map (·.1)))])
            ∧ (takeImport (s.seq m.slot).coupe cfg m s1 = .waits gs u →
              exec (.seqImportComplete qp bs) s = .next { u with imports := { m with groups := gs } :: u.imports })))
    ∧ (∀ (p up : Bool) (s : State), s.power.main = true → (s.ethPort p).up ≠ up →
      ∃ t, exec (.ethPortLinkChange p up) s = .next t ∧ t.ethPort p = { s.ethPort p with up := up }
        ∧ t.ethPort (!p) = s.ethPort (!p) ∧ t = { s with eth := t.eth, events := t.events })


/-! ## The whole machine -/

/-- Every command in every state answers a next state, but MAIN_POWER_ON with a supply that R427 leaves open. -/
def Obligations.EveryOtherCommandAnswers : Prop :=
  ∀ (i : Instr) (s : State), (∀ mv, i ≠ .mainPowerOn mv) → ∃ t, exec i s = .next t

/-- Commands leave the waiting commands alone and run first in, first out. On an empty queue a step is one tick of 10 ns of the
timebase, in which a core whose clock runs counts its cycles and does nothing else, and without a running stand nothing else
changes (the model's choice, log entry 1). -/
def Obligations.CommandsLeaveTheQueue : Prop :=
  (∀ (i : Instr) (s t : State), exec i s = .next t → t.pending = s.pending)
    ∧ (∀ (s t : State), step s = .next t → t.pending = s.pending.tail)
    ∧ (∀ s : State, s.pending = [] → ∃ t, step s = .next t ∧ t = { s with timebase := s.timebase + 1, cores := t.cores }
      ∧ (∀ c, t.core c = { s.core c with counters := (t.core c).counters, counted := (t.core c).counted })
      ∧ ((∀ g, standCounts s g = false) → t.cores = s.cores))

/-- Memory keeps its canonical form in every step. -/
def Obligations.MemoryKeepsItsForm : Prop :=
  ∀ s t : State, Memory.wf s.mem = true → step s = .next t → Memory.wf t.mem = true

/-- HST_RB is released only while main power is on, the part is EARLY or READY, set-up is locked, no reset is under way and
the journal can be written, and every step keeps this (R385, R395, R397, R407, R419). -/
def Obligations.ReleasedOnlyWhenTheHostMayUseThePart : Prop :=
  ∀ s t : State, (s.power.rb = .released → mayRelease s = true) → step s = .next t →
    (t.power.rb = .released → mayRelease t = true)

/-- PWR_FLT_N is asserted when any rail latches off and held, with the latch, by every step until a cold reset or the loss of
auxiliary power; each of these clears both, and a rail that latches off again asserts PWR_FLT_N again (R389). -/
def Obligations.PowerFaultsStayUntilAColdReset : Prop :=
  (∀ s t : State, step s = .next t → t.power.colds = s.power.colds → (t.power.aux = true ∨ s.power.aux = false) →
      (s.power.pwrFlt = true → t.power.pwrFlt = true)
        ∧ ∀ (r : Rail) (n : BitVec 8), (s.rail r n.toNat).state = .latched → (t.rail r n.toNat).state = .latched)
    ∧ (∀ (r : Rail) (n : BitVec 8) (x : RailReading) (s : State), n.toNat < railCount r →
      (s.rail r n.toNat).state = .ramping → (s.rail r n.toNat).retries = 3 →
      ∃ t, exec (.railRampTimeout r n x) s = .next t ∧ (t.rail r n.toNat).state = .latched ∧ t.power.pwrFlt = true)
    ∧ (∀ (w : ResetTrigger) (s : State), s.power.main = true → s.ranger.running = true →
      ∃ t, exec (.coldReset w) s = .next t ∧ t.power.colds = s.power.colds + 1 ∧ t.power.pwrFlt = false
        ∧ ∀ (r : Rail) (n : BitVec 8), (t.rail r n.toNat).state ≠ .latched)
    ∧ (∀ s : State, s.power.aux = true →
      ∃ t, exec .auxPowerLoss s = .next t ∧ t.power.aux = false ∧ t.power.pwrFlt = false
        ∧ ∀ (r : Rail) (n : BitVec 8), (t.rail r n.toNat).state ≠ .latched)

/-- The part at power-up: no power, bring-up, HST_RB busy, set-up open with the register values of R416 to R419, no coupe,
sequence, ring or link in use, and memory that reads zero; the three invariants hold there. -/
def Obligations.ResetState : Prop :=
  let s := State.reset
  s.power.main = false ∧ s.power.device = .bringUp ∧ s.power.rb = .busy ∧ s.setup.locked = false
    ∧ s.setup.pollInterval = Setup.reset.pollInterval ∧ Blank s
    ∧ (∀ k, (s.coupe k).state = .free) ∧ (∀ i, (s.seq i).state = .free) ∧ (∀ r, (s.ringOf r).state = .disabled)
    ∧ (∀ l, (s.link l).state = .down) ∧ (∀ c, (s.core c).phase = .idle ∧ ∀ r, (s.core c).rd r = 0)
    ∧ s.pending = [] ∧ Memory.wf s.mem = true ∧ (s.power.rb = .released → mayRelease s = true)
end

