-- ==== Sys2Proof/Laws/Sparse.lean ====
section
/-! SUPPORT. Laws of the sparse tables: lookup after a change, and the canonical form. -/

namespace Sys2Proof.Sparse

variable {α : Type}

/-- Looking a key up in a filtered table whose test on the key is true. -/
theorem lookup_filter_true (k : Nat) (p : Nat → Bool) (h : p k = true) :
    ∀ m : List (Nat × α), (m.filter (fun c => p c.1)).lookup k = m.lookup k
  | [] => rfl
  | (j, v) :: rest => by
    by_cases e : k = j
    · subst e; simp [List.filter, h]
    · have e' : (k == j) = false := by simpa using e
      by_cases q : p j = true <;> simp [List.filter, q, List.lookup, e', lookup_filter_true k p h rest]

/-- Looking a key up in a filtered table whose test on the key is false. -/
theorem lookup_filter_false (k : Nat) (p : Nat → Bool) (h : p k = false) :
    ∀ m : List (Nat × α), (m.filter (fun c => p c.1)).lookup k = none
  | [] => rfl
  | (j, v) :: rest => by
    by_cases e : k = j
    · subst e; simp [List.filter, h, lookup_filter_false k p h rest]
    · have e' : (k == j) = false := by simpa using e
      by_cases q : p j = true <;> simp [List.filter, q, List.lookup, e', lookup_filter_false k p h rest]

theorem lookup_append (k : Nat) : ∀ a b : List (Nat × α), (a ++ b).lookup k = (a.lookup k).or (b.lookup k)
  | [], b => by simp
  | (j, v) :: rest, b => by
    by_cases e : k = j
    · subst e; simp
    · have e' : (k == j) = false := by simpa using e
      simp [List.lookup, e', lookup_append k rest b]

variable [DecidableEq α]

/-- A key reads as what was last put there. -/
@[simp] theorem get_set_same (d : α) (k : Nat) (v : α) (m : Sparse α) : get d k (set d k v m) = v := by
  have h1 := lookup_filter_false (α := α) k (fun j => decide (j < k)) (by simp) m
  have h2 := lookup_filter_false (α := α) k (fun j => decide (k < j)) (by simp) m
  by_cases e : v = d
  · simp [get, set, lookup_append, h1, h2, e]
  · simp [get, set, lookup_append, h1, e]

/-- Every other key reads as before. -/
theorem get_set_other (d : α) (j k : Nat) (v : α) (m : Sparse α) (h : j ≠ k) : get d j (set d k v m) = get d j m := by
  have e : (j == k) = false := by simpa using h
  have one : ((if v = d then ([] : List (Nat × α)) else [(k, v)]).lookup j) = none := by
    split <;> simp [List.lookup, e]
  by_cases lt : j < k
  · have h1 := lookup_filter_true (α := α) j (fun i => decide (i < k)) (by simpa using lt) m
    have h2 := lookup_filter_false (α := α) j (fun i => decide (k < i)) (by simp; omega) m
    simp [get, set, lookup_append, h1, h2, one]
  · have h1 := lookup_filter_false (α := α) j (fun i => decide (i < k)) (by simp; omega) m
    have h2 := lookup_filter_true (α := α) j (fun i => decide (k < i)) (by simp; omega) m
    simp [get, set, lookup_append, h1, h2, one]

/-- Lookup after a change, for any two keys. -/
theorem get_set (d : α) (j k : Nat) (v : α) (m : Sparse α) :
    get d j (set d k v m) = if j = k then v else get d j m := by
  split
  · subst_vars; simp
  · exact get_set_other d j k v m ‹_›

/-- A change keeps the canonical form. -/
theorem set_wf (d : α) (k : Nat) (v : α) (m : Sparse α) (h : wf d m = true) : wf d (set d k v m) = true := by
  simp only [wf, Bool.and_eq_true, decide_eq_true_eq, List.all_eq_true] at h ⊢
  obtain ⟨hp, ha⟩ := h
  constructor
  · simp only [set, List.append_assoc, List.pairwise_append]
    refine ⟨hp.filter _, ⟨?_, hp.filter _, ?_⟩, ?_⟩
    · split <;> simp
    · intro a ha' b hb
      simp at hb
      split at ha' <;> simp_all
    · intro a ha' b hb
      simp at ha' hb
      rcases hb with ⟨_, rfl⟩ | hb
      · exact ha'.2
      · omega
  · intro c hc
    simp [set] at hc
    rcases hc with ⟨hc, _⟩ | ⟨hv, rfl⟩ | ⟨hc, _⟩
    · exact ha c hc
    · exact hv
    · exact ha c hc

end Sys2Proof.Sparse
end

