-- ==== Sys2Proof/Laws/Core.lean ====
section
/-! SUPPORT. One law per field and update of Core, and what registers and vectors read after each update. -/

namespace Sys2Proof.Machine

/-! ## issued -/

@[simp] theorem Core.issued_g (x : Core) : x.issued.g = x.g := rfl
@[simp] theorem Core.issued_gPoison (x : Core) : x.issued.gPoison = x.gPoison := rfl
@[simp] theorem Core.issued_v (x : Core) : x.issued.v = x.v := rfl
@[simp] theorem Core.issued_vPoison (x : Core) : x.issued.vPoison = x.vPoison := rfl
@[simp] theorem Core.issued_acc (x : Core) : x.issued.acc = x.acc := rfl
@[simp] theorem Core.issued_accPoison (x : Core) : x.issued.accPoison = x.accPoison := rfl
@[simp] theorem Core.issued_regions (x : Core) : x.issued.regions = x.regions := rfl
@[simp] theorem Core.issued_pc (x : Core) : x.issued.pc = x.pc := rfl
@[simp] theorem Core.issued_base (x : Core) : x.issued.base = x.base := rfl
@[simp] theorem Core.issued_bound (x : Core) : x.issued.bound = x.bound := rfl
@[simp] theorem Core.issued_task (x : Core) : x.issued.task = x.task := rfl
@[simp] theorem Core.issued_next (x : Core) : x.issued.next = x.next := rfl
@[simp] theorem Core.issued_phase (x : Core) : x.issued.phase = x.phase := rfl
@[simp] theorem Core.issued_exc (x : Core) : x.issued.exc = x.exc := rfl
@[simp] theorem Core.issued_trapCode (x : Core) : x.issued.trapCode = x.trapCode := rfl
@[simp] theorem Core.issued_windowCause (x : Core) : x.issued.windowCause = x.windowCause := rfl
@[simp] theorem Core.issued_conflictRec (x : Core) : x.issued.conflictRec = x.conflictRec := rfl
@[simp] theorem Core.issued_qcw (x : Core) : x.issued.qcw = x.qcw := rfl
@[simp] theorem Core.issued_lfsr (x : Core) : x.issued.lfsr = x.lfsr := rfl
@[simp] theorem Core.issued_qsat (x : Core) : x.issued.qsat = x.qsat := rfl
@[simp] theorem Core.issued_kovf (x : Core) : x.issued.kovf = x.kovf := rfl
@[simp] theorem Core.issued_nanp (x : Core) : x.issued.nanp = x.nanp := rfl
@[simp] theorem Core.issued_maxabs (x : Core) : x.issued.maxabs = x.maxabs := rfl
@[simp] theorem Core.issued_rangeRaised (x : Core) : x.issued.rangeRaised = x.rangeRaised := rfl
@[simp] theorem Core.issued_flagged (x : Core) : x.issued.flagged = x.flagged := rfl
@[simp] theorem Core.issued_passes (x : Core) : x.issued.passes = x.passes := rfl
@[simp] theorem Core.issued_lanes (x : Core) : x.issued.lanes = x.lanes := rfl
@[simp] theorem Core.issued_cursor (x : Core) : x.issued.cursor = x.cursor := rfl
@[simp] theorem Core.issued_passRows (x : Core) : x.issued.passRows = x.passRows := rfl
@[simp] theorem Core.issued_qout (x : Core) : x.issued.qout = x.qout := rfl
@[simp] theorem Core.issued_nanMet (x : Core) : x.issued.nanMet = x.nanMet := rfl
@[simp] theorem Core.issued_qdone (x : Core) : x.issued.qdone = x.qdone := rfl
@[simp] theorem Core.issued_codebook (x : Core) : x.issued.codebook = x.codebook := rfl
@[simp] theorem Core.issued_statDesc (x : Core) : x.issued.statDesc = x.statDesc := rfl
@[simp] theorem Core.issued_reads (x : Core) : x.issued.reads = x.reads := rfl
@[simp] theorem Core.issued_cancelledReads (x : Core) : x.issued.cancelledReads = x.cancelledReads := rfl
@[simp] theorem Core.issued_writesOut (x : Core) : x.issued.writesOut = x.writesOut := rfl
@[simp] theorem Core.issued_refused (x : Core) : x.issued.refused = x.refused := rfl
@[simp] theorem Core.issued_resumeHeader (x : Core) : x.issued.resumeHeader = x.resumeHeader := rfl
@[simp] theorem Core.issued_resumeList (x : Core) : x.issued.resumeList = x.resumeList := rfl
@[simp] theorem Core.issued_tainted (x : Core) : x.issued.tainted = x.tainted := rfl
@[simp] theorem Core.issued_stall (x : Core) : x.issued.stall = .busy := rfl
@[simp] theorem Core.issued_stallSince (x : Core) : x.issued.stallSince = 0 := rfl
@[simp] theorem Core.issued_lastQueue (x : Core) : x.issued.lastQueue = x.lastQueue := rfl
@[simp] theorem Core.issued_ports (x : Core) : x.issued.ports = x.ports := rfl
@[simp] theorem Core.issued_outStage (x : Core) : x.issued.outStage = x.outStage := rfl
@[simp] theorem Core.issued_windows (x : Core) : x.issued.windows = x.windows := rfl
@[simp] theorem Core.issued_errLog (x : Core) : x.issued.errLog = x.errLog := rfl
@[simp] theorem Core.issued_scrub (x : Core) : x.issued.scrub = x.scrub := rfl
@[simp] theorem Core.issued_scrubCE (x : Core) : x.issued.scrubCE = x.scrubCE := rfl
@[simp] theorem Core.issued_spareLines (x : Core) : x.issued.spareLines = x.spareLines := rfl
@[simp] theorem Core.issued_haltWanted (x : Core) : x.issued.haltWanted = x.haltWanted := rfl
@[simp] theorem Core.issued_halted (x : Core) : x.issued.halted = x.halted := rfl
@[simp] theorem Core.issued_saving (x : Core) : x.issued.saving = x.saving := rfl
@[simp] theorem Core.issued_spanSums (x : Core) : x.issued.spanSums = x.spanSums := rfl
@[simp] theorem Core.issued_sides (x : Core) : x.issued.sides = x.sides := rfl
@[simp] theorem Core.issued_passNan (x : Core) : x.issued.passNan = x.passNan := rfl
@[simp] theorem Core.issued_passBad (x : Core) : x.issued.passBad = x.passBad := rfl
@[simp] theorem Core.issued_stationary (x : Core) : x.issued.stationary = x.stationary := rfl
@[simp] theorem Core.issued_planeBufs (x : Core) : x.issued.planeBufs = x.planeBufs := rfl
@[simp] theorem Core.issued_queue (x : Core) : x.issued.queue = x.queue := rfl
@[simp] theorem Core.issued_issueSeq (x : Core) : x.issued.issueSeq = x.issueSeq := rfl
@[simp] theorem Core.issued_lastWide (x : Core) : x.issued.lastWide = x.lastWide := rfl
@[simp] theorem Core.issued_haltedAt (x : Core) : x.issued.haltedAt = x.haltedAt := rfl
@[simp] theorem Core.issued_rd (x : Core) (k : Nat) : x.issued.rd k = x.rd k := by simp [Core.rd]
@[simp] theorem Core.issued_rdP (x : Core) (k : Nat) : x.issued.rdP k = x.rdP k := by simp [Core.rdP]
@[simp] theorem Core.issued_vec (x : Core) (k : Nat) : x.issued.vec k = x.vec k := by simp [Core.vec]
@[simp] theorem Core.issued_vecP (x : Core) (k : Nat) : x.issued.vecP k = x.vecP k := by simp [Core.vecP]

/-! ## advance -/

@[simp] theorem Core.advance_g (x : Core) : x.advance.g = x.g := rfl
@[simp] theorem Core.advance_gPoison (x : Core) : x.advance.gPoison = x.gPoison := rfl
@[simp] theorem Core.advance_v (x : Core) : x.advance.v = x.v := rfl
@[simp] theorem Core.advance_vPoison (x : Core) : x.advance.vPoison = x.vPoison := rfl
@[simp] theorem Core.advance_acc (x : Core) : x.advance.acc = x.acc := rfl
@[simp] theorem Core.advance_accPoison (x : Core) : x.advance.accPoison = x.accPoison := rfl
@[simp] theorem Core.advance_regions (x : Core) : x.advance.regions = x.regions := rfl
@[simp] theorem Core.advance_pc (x : Core) : x.advance.pc = x.pc + 1 := rfl
@[simp] theorem Core.advance_base (x : Core) : x.advance.base = x.base := rfl
@[simp] theorem Core.advance_bound (x : Core) : x.advance.bound = x.bound := rfl
@[simp] theorem Core.advance_task (x : Core) : x.advance.task = x.task := rfl
@[simp] theorem Core.advance_next (x : Core) : x.advance.next = x.next := rfl
@[simp] theorem Core.advance_phase (x : Core) : x.advance.phase = x.phase := rfl
@[simp] theorem Core.advance_exc (x : Core) : x.advance.exc = x.exc := rfl
@[simp] theorem Core.advance_trapCode (x : Core) : x.advance.trapCode = x.trapCode := rfl
@[simp] theorem Core.advance_windowCause (x : Core) : x.advance.windowCause = x.windowCause := rfl
@[simp] theorem Core.advance_conflictRec (x : Core) : x.advance.conflictRec = x.conflictRec := rfl
@[simp] theorem Core.advance_qcw (x : Core) : x.advance.qcw = x.qcw := rfl
@[simp] theorem Core.advance_lfsr (x : Core) : x.advance.lfsr = x.lfsr := rfl
@[simp] theorem Core.advance_qsat (x : Core) : x.advance.qsat = x.qsat := rfl
@[simp] theorem Core.advance_kovf (x : Core) : x.advance.kovf = x.kovf := rfl
@[simp] theorem Core.advance_nanp (x : Core) : x.advance.nanp = x.nanp := rfl
@[simp] theorem Core.advance_maxabs (x : Core) : x.advance.maxabs = x.maxabs := rfl
@[simp] theorem Core.advance_rangeRaised (x : Core) : x.advance.rangeRaised = x.rangeRaised := rfl
@[simp] theorem Core.advance_flagged (x : Core) : x.advance.flagged = x.flagged := rfl
@[simp] theorem Core.advance_passes (x : Core) : x.advance.passes = x.passes := rfl
@[simp] theorem Core.advance_lanes (x : Core) : x.advance.lanes = x.lanes := rfl
@[simp] theorem Core.advance_cursor (x : Core) : x.advance.cursor = x.cursor := rfl
@[simp] theorem Core.advance_passRows (x : Core) : x.advance.passRows = x.passRows := rfl
@[simp] theorem Core.advance_qout (x : Core) : x.advance.qout = x.qout := rfl
@[simp] theorem Core.advance_nanMet (x : Core) : x.advance.nanMet = x.nanMet := rfl
@[simp] theorem Core.advance_qdone (x : Core) : x.advance.qdone = x.qdone := rfl
@[simp] theorem Core.advance_codebook (x : Core) : x.advance.codebook = x.codebook := rfl
@[simp] theorem Core.advance_statDesc (x : Core) : x.advance.statDesc = x.statDesc := rfl
@[simp] theorem Core.advance_reads (x : Core) : x.advance.reads = x.reads := rfl
@[simp] theorem Core.advance_cancelledReads (x : Core) : x.advance.cancelledReads = x.cancelledReads := rfl
@[simp] theorem Core.advance_writesOut (x : Core) : x.advance.writesOut = x.writesOut := rfl
@[simp] theorem Core.advance_refused (x : Core) : x.advance.refused = x.refused := rfl
@[simp] theorem Core.advance_resumeHeader (x : Core) : x.advance.resumeHeader = x.resumeHeader := rfl
@[simp] theorem Core.advance_resumeList (x : Core) : x.advance.resumeList = x.resumeList := rfl
@[simp] theorem Core.advance_tainted (x : Core) : x.advance.tainted = x.tainted := rfl
@[simp] theorem Core.advance_stall (x : Core) : x.advance.stall = x.stall := rfl
@[simp] theorem Core.advance_stallSince (x : Core) : x.advance.stallSince = x.stallSince := rfl
@[simp] theorem Core.advance_lastQueue (x : Core) : x.advance.lastQueue = x.lastQueue := rfl
@[simp] theorem Core.advance_counters (x : Core) : x.advance.counters = x.counters := rfl
@[simp] theorem Core.advance_ports (x : Core) : x.advance.ports = x.ports := rfl
@[simp] theorem Core.advance_outStage (x : Core) : x.advance.outStage = x.outStage := rfl
@[simp] theorem Core.advance_windows (x : Core) : x.advance.windows = x.windows := rfl
@[simp] theorem Core.advance_errLog (x : Core) : x.advance.errLog = x.errLog := rfl
@[simp] theorem Core.advance_scrub (x : Core) : x.advance.scrub = x.scrub := rfl
@[simp] theorem Core.advance_scrubCE (x : Core) : x.advance.scrubCE = x.scrubCE := rfl
@[simp] theorem Core.advance_spareLines (x : Core) : x.advance.spareLines = x.spareLines := rfl
@[simp] theorem Core.advance_haltWanted (x : Core) : x.advance.haltWanted = x.haltWanted := rfl
@[simp] theorem Core.advance_halted (x : Core) : x.advance.halted = x.halted := rfl
@[simp] theorem Core.advance_saving (x : Core) : x.advance.saving = x.saving := rfl
@[simp] theorem Core.advance_spanSums (x : Core) : x.advance.spanSums = x.spanSums := rfl
@[simp] theorem Core.advance_sides (x : Core) : x.advance.sides = x.sides := rfl
@[simp] theorem Core.advance_passNan (x : Core) : x.advance.passNan = x.passNan := rfl
@[simp] theorem Core.advance_passBad (x : Core) : x.advance.passBad = x.passBad := rfl
@[simp] theorem Core.advance_stationary (x : Core) : x.advance.stationary = x.stationary := rfl
@[simp] theorem Core.advance_planeBufs (x : Core) : x.advance.planeBufs = x.planeBufs := rfl
@[simp] theorem Core.advance_queue (x : Core) : x.advance.queue = x.queue := rfl
@[simp] theorem Core.advance_issueSeq (x : Core) : x.advance.issueSeq = x.issueSeq := rfl
@[simp] theorem Core.advance_lastWide (x : Core) : x.advance.lastWide = x.lastWide := rfl
@[simp] theorem Core.advance_counted (x : Core) : x.advance.counted = x.counted := rfl
@[simp] theorem Core.advance_haltedAt (x : Core) : x.advance.haltedAt = x.haltedAt := rfl
@[simp] theorem Core.advance_rd (x : Core) (k : Nat) : x.advance.rd k = x.rd k := by simp [Core.rd]
@[simp] theorem Core.advance_rdP (x : Core) (k : Nat) : x.advance.rdP k = x.rdP k := by simp [Core.rdP]
@[simp] theorem Core.advance_vec (x : Core) (k : Nat) : x.advance.vec k = x.vec k := by simp [Core.vec]
@[simp] theorem Core.advance_vecP (x : Core) (k : Nat) : x.advance.vecP k = x.vecP k := by simp [Core.vecP]

/-! ## goTo -/

@[simp] theorem Core.goTo_g (x : Core) (n : Nat) : (x.goTo n).g = x.g := rfl
@[simp] theorem Core.goTo_gPoison (x : Core) (n : Nat) : (x.goTo n).gPoison = x.gPoison := rfl
@[simp] theorem Core.goTo_v (x : Core) (n : Nat) : (x.goTo n).v = x.v := rfl
@[simp] theorem Core.goTo_vPoison (x : Core) (n : Nat) : (x.goTo n).vPoison = x.vPoison := rfl
@[simp] theorem Core.goTo_acc (x : Core) (n : Nat) : (x.goTo n).acc = x.acc := rfl
@[simp] theorem Core.goTo_accPoison (x : Core) (n : Nat) : (x.goTo n).accPoison = x.accPoison := rfl
@[simp] theorem Core.goTo_regions (x : Core) (n : Nat) : (x.goTo n).regions = x.regions := rfl
@[simp] theorem Core.goTo_pc (x : Core) (n : Nat) : (x.goTo n).pc = BitVec.ofNat 21 n := rfl
@[simp] theorem Core.goTo_base (x : Core) (n : Nat) : (x.goTo n).base = x.base := rfl
@[simp] theorem Core.goTo_bound (x : Core) (n : Nat) : (x.goTo n).bound = x.bound := rfl
@[simp] theorem Core.goTo_task (x : Core) (n : Nat) : (x.goTo n).task = x.task := rfl
@[simp] theorem Core.goTo_next (x : Core) (n : Nat) : (x.goTo n).next = x.next := rfl
@[simp] theorem Core.goTo_phase (x : Core) (n : Nat) : (x.goTo n).phase = x.phase := rfl
@[simp] theorem Core.goTo_exc (x : Core) (n : Nat) : (x.goTo n).exc = x.exc := rfl
@[simp] theorem Core.goTo_trapCode (x : Core) (n : Nat) : (x.goTo n).trapCode = x.trapCode := rfl
@[simp] theorem Core.goTo_windowCause (x : Core) (n : Nat) : (x.goTo n).windowCause = x.windowCause := rfl
@[simp] theorem Core.goTo_conflictRec (x : Core) (n : Nat) : (x.goTo n).conflictRec = x.conflictRec := rfl
@[simp] theorem Core.goTo_qcw (x : Core) (n : Nat) : (x.goTo n).qcw = x.qcw := rfl
@[simp] theorem Core.goTo_lfsr (x : Core) (n : Nat) : (x.goTo n).lfsr = x.lfsr := rfl
@[simp] theorem Core.goTo_qsat (x : Core) (n : Nat) : (x.goTo n).qsat = x.qsat := rfl
@[simp] theorem Core.goTo_kovf (x : Core) (n : Nat) : (x.goTo n).kovf = x.kovf := rfl
@[simp] theorem Core.goTo_nanp (x : Core) (n : Nat) : (x.goTo n).nanp = x.nanp := rfl
@[simp] theorem Core.goTo_maxabs (x : Core) (n : Nat) : (x.goTo n).maxabs = x.maxabs := rfl
@[simp] theorem Core.goTo_rangeRaised (x : Core) (n : Nat) : (x.goTo n).rangeRaised = x.rangeRaised := rfl
@[simp] theorem Core.goTo_flagged (x : Core) (n : Nat) : (x.goTo n).flagged = x.flagged := rfl
@[simp] theorem Core.goTo_passes (x : Core) (n : Nat) : (x.goTo n).passes = x.passes := rfl
@[simp] theorem Core.goTo_lanes (x : Core) (n : Nat) : (x.goTo n).lanes = x.lanes := rfl
@[simp] theorem Core.goTo_cursor (x : Core) (n : Nat) : (x.goTo n).cursor = x.cursor := rfl
@[simp] theorem Core.goTo_passRows (x : Core) (n : Nat) : (x.goTo n).passRows = x.passRows := rfl
@[simp] theorem Core.goTo_qout (x : Core) (n : Nat) : (x.goTo n).qout = x.qout := rfl
@[simp] theorem Core.goTo_nanMet (x : Core) (n : Nat) : (x.goTo n).nanMet = x.nanMet := rfl
@[simp] theorem Core.goTo_qdone (x : Core) (n : Nat) : (x.goTo n).qdone = x.qdone := rfl
@[simp] theorem Core.goTo_codebook (x : Core) (n : Nat) : (x.goTo n).codebook = x.codebook := rfl
@[simp] theorem Core.goTo_statDesc (x : Core) (n : Nat) : (x.goTo n).statDesc = x.statDesc := rfl
@[simp] theorem Core.goTo_reads (x : Core) (n : Nat) : (x.goTo n).reads = x.reads := rfl
@[simp] theorem Core.goTo_cancelledReads (x : Core) (n : Nat) : (x.goTo n).cancelledReads = x.cancelledReads := rfl
@[simp] theorem Core.goTo_writesOut (x : Core) (n : Nat) : (x.goTo n).writesOut = x.writesOut := rfl
@[simp] theorem Core.goTo_refused (x : Core) (n : Nat) : (x.goTo n).refused = x.refused := rfl
@[simp] theorem Core.goTo_resumeHeader (x : Core) (n : Nat) : (x.goTo n).resumeHeader = x.resumeHeader := rfl
@[simp] theorem Core.goTo_resumeList (x : Core) (n : Nat) : (x.goTo n).resumeList = x.resumeList := rfl
@[simp] theorem Core.goTo_tainted (x : Core) (n : Nat) : (x.goTo n).tainted = x.tainted := rfl
@[simp] theorem Core.goTo_stall (x : Core) (n : Nat) : (x.goTo n).stall = x.stall := rfl
@[simp] theorem Core.goTo_stallSince (x : Core) (n : Nat) : (x.goTo n).stallSince = x.stallSince := rfl
@[simp] theorem Core.goTo_lastQueue (x : Core) (n : Nat) : (x.goTo n).lastQueue = x.lastQueue := rfl
@[simp] theorem Core.goTo_counters (x : Core) (n : Nat) : (x.goTo n).counters = x.counters := rfl
@[simp] theorem Core.goTo_ports (x : Core) (n : Nat) : (x.goTo n).ports = x.ports := rfl
@[simp] theorem Core.goTo_outStage (x : Core) (n : Nat) : (x.goTo n).outStage = x.outStage := rfl
@[simp] theorem Core.goTo_windows (x : Core) (n : Nat) : (x.goTo n).windows = x.windows := rfl
@[simp] theorem Core.goTo_errLog (x : Core) (n : Nat) : (x.goTo n).errLog = x.errLog := rfl
@[simp] theorem Core.goTo_scrub (x : Core) (n : Nat) : (x.goTo n).scrub = x.scrub := rfl
@[simp] theorem Core.goTo_scrubCE (x : Core) (n : Nat) : (x.goTo n).scrubCE = x.scrubCE := rfl
@[simp] theorem Core.goTo_spareLines (x : Core) (n : Nat) : (x.goTo n).spareLines = x.spareLines := rfl
@[simp] theorem Core.goTo_haltWanted (x : Core) (n : Nat) : (x.goTo n).haltWanted = x.haltWanted := rfl
@[simp] theorem Core.goTo_halted (x : Core) (n : Nat) : (x.goTo n).halted = x.halted := rfl
@[simp] theorem Core.goTo_saving (x : Core) (n : Nat) : (x.goTo n).saving = x.saving := rfl
@[simp] theorem Core.goTo_spanSums (x : Core) (n : Nat) : (x.goTo n).spanSums = x.spanSums := rfl
@[simp] theorem Core.goTo_sides (x : Core) (n : Nat) : (x.goTo n).sides = x.sides := rfl
@[simp] theorem Core.goTo_passNan (x : Core) (n : Nat) : (x.goTo n).passNan = x.passNan := rfl
@[simp] theorem Core.goTo_passBad (x : Core) (n : Nat) : (x.goTo n).passBad = x.passBad := rfl
@[simp] theorem Core.goTo_stationary (x : Core) (n : Nat) : (x.goTo n).stationary = x.stationary := rfl
@[simp] theorem Core.goTo_planeBufs (x : Core) (n : Nat) : (x.goTo n).planeBufs = x.planeBufs := rfl
@[simp] theorem Core.goTo_queue (x : Core) (n : Nat) : (x.goTo n).queue = x.queue := rfl
@[simp] theorem Core.goTo_issueSeq (x : Core) (n : Nat) : (x.goTo n).issueSeq = x.issueSeq := rfl
@[simp] theorem Core.goTo_lastWide (x : Core) (n : Nat) : (x.goTo n).lastWide = x.lastWide := rfl
@[simp] theorem Core.goTo_counted (x : Core) (n : Nat) : (x.goTo n).counted = x.counted := rfl
@[simp] theorem Core.goTo_haltedAt (x : Core) (n : Nat) : (x.goTo n).haltedAt = x.haltedAt := rfl
@[simp] theorem Core.goTo_rd (x : Core) (n : Nat) (k : Nat) : (x.goTo n).rd k = x.rd k := by simp [Core.rd]
@[simp] theorem Core.goTo_rdP (x : Core) (n : Nat) (k : Nat) : (x.goTo n).rdP k = x.rdP k := by simp [Core.rdP]
@[simp] theorem Core.goTo_vec (x : Core) (n : Nat) (k : Nat) : (x.goTo n).vec k = x.vec k := by simp [Core.vec]
@[simp] theorem Core.goTo_vecP (x : Core) (n : Nat) (k : Nat) : (x.goTo n).vecP k = x.vecP k := by simp [Core.vecP]

/-! ## taint -/

@[simp] theorem Core.taint_g (x : Core) (p : Bool) : (x.taint p).g = x.g := rfl
@[simp] theorem Core.taint_gPoison (x : Core) (p : Bool) : (x.taint p).gPoison = x.gPoison := rfl
@[simp] theorem Core.taint_v (x : Core) (p : Bool) : (x.taint p).v = x.v := rfl
@[simp] theorem Core.taint_vPoison (x : Core) (p : Bool) : (x.taint p).vPoison = x.vPoison := rfl
@[simp] theorem Core.taint_acc (x : Core) (p : Bool) : (x.taint p).acc = x.acc := rfl
@[simp] theorem Core.taint_accPoison (x : Core) (p : Bool) : (x.taint p).accPoison = x.accPoison := rfl
@[simp] theorem Core.taint_regions (x : Core) (p : Bool) : (x.taint p).regions = x.regions := rfl
@[simp] theorem Core.taint_pc (x : Core) (p : Bool) : (x.taint p).pc = x.pc := rfl
@[simp] theorem Core.taint_base (x : Core) (p : Bool) : (x.taint p).base = x.base := rfl
@[simp] theorem Core.taint_bound (x : Core) (p : Bool) : (x.taint p).bound = x.bound := rfl
@[simp] theorem Core.taint_task (x : Core) (p : Bool) : (x.taint p).task = x.task := rfl
@[simp] theorem Core.taint_next (x : Core) (p : Bool) : (x.taint p).next = x.next := rfl
@[simp] theorem Core.taint_phase (x : Core) (p : Bool) : (x.taint p).phase = x.phase := rfl
@[simp] theorem Core.taint_exc (x : Core) (p : Bool) : (x.taint p).exc = x.exc := rfl
@[simp] theorem Core.taint_trapCode (x : Core) (p : Bool) : (x.taint p).trapCode = x.trapCode := rfl
@[simp] theorem Core.taint_windowCause (x : Core) (p : Bool) : (x.taint p).windowCause = x.windowCause := rfl
@[simp] theorem Core.taint_conflictRec (x : Core) (p : Bool) : (x.taint p).conflictRec = x.conflictRec := rfl
@[simp] theorem Core.taint_qcw (x : Core) (p : Bool) : (x.taint p).qcw = x.qcw := rfl
@[simp] theorem Core.taint_lfsr (x : Core) (p : Bool) : (x.taint p).lfsr = x.lfsr := rfl
@[simp] theorem Core.taint_qsat (x : Core) (p : Bool) : (x.taint p).qsat = x.qsat := rfl
@[simp] theorem Core.taint_kovf (x : Core) (p : Bool) : (x.taint p).kovf = x.kovf := rfl
@[simp] theorem Core.taint_nanp (x : Core) (p : Bool) : (x.taint p).nanp = x.nanp := rfl
@[simp] theorem Core.taint_maxabs (x : Core) (p : Bool) : (x.taint p).maxabs = x.maxabs := rfl
@[simp] theorem Core.taint_rangeRaised (x : Core) (p : Bool) : (x.taint p).rangeRaised = x.rangeRaised := rfl
@[simp] theorem Core.taint_flagged (x : Core) (p : Bool) : (x.taint p).flagged = x.flagged := rfl
@[simp] theorem Core.taint_passes (x : Core) (p : Bool) : (x.taint p).passes = x.passes := rfl
@[simp] theorem Core.taint_lanes (x : Core) (p : Bool) : (x.taint p).lanes = x.lanes := rfl
@[simp] theorem Core.taint_cursor (x : Core) (p : Bool) : (x.taint p).cursor = x.cursor := rfl
@[simp] theorem Core.taint_passRows (x : Core) (p : Bool) : (x.taint p).passRows = x.passRows := rfl
@[simp] theorem Core.taint_qout (x : Core) (p : Bool) : (x.taint p).qout = x.qout := rfl
@[simp] theorem Core.taint_nanMet (x : Core) (p : Bool) : (x.taint p).nanMet = x.nanMet := rfl
@[simp] theorem Core.taint_qdone (x : Core) (p : Bool) : (x.taint p).qdone = x.qdone := rfl
@[simp] theorem Core.taint_codebook (x : Core) (p : Bool) : (x.taint p).codebook = x.codebook := rfl
@[simp] theorem Core.taint_statDesc (x : Core) (p : Bool) : (x.taint p).statDesc = x.statDesc := rfl
@[simp] theorem Core.taint_reads (x : Core) (p : Bool) : (x.taint p).reads = x.reads := rfl
@[simp] theorem Core.taint_cancelledReads (x : Core) (p : Bool) : (x.taint p).cancelledReads = x.cancelledReads := rfl
@[simp] theorem Core.taint_writesOut (x : Core) (p : Bool) : (x.taint p).writesOut = x.writesOut := rfl
@[simp] theorem Core.taint_refused (x : Core) (p : Bool) : (x.taint p).refused = x.refused := rfl
@[simp] theorem Core.taint_resumeHeader (x : Core) (p : Bool) : (x.taint p).resumeHeader = x.resumeHeader := rfl
@[simp] theorem Core.taint_resumeList (x : Core) (p : Bool) : (x.taint p).resumeList = x.resumeList := rfl
@[simp] theorem Core.taint_tainted (x : Core) (p : Bool) : (x.taint p).tainted = (x.tainted || p) := rfl
@[simp] theorem Core.taint_stall (x : Core) (p : Bool) : (x.taint p).stall = x.stall := rfl
@[simp] theorem Core.taint_stallSince (x : Core) (p : Bool) : (x.taint p).stallSince = x.stallSince := rfl
@[simp] theorem Core.taint_lastQueue (x : Core) (p : Bool) : (x.taint p).lastQueue = x.lastQueue := rfl
@[simp] theorem Core.taint_counters (x : Core) (p : Bool) : (x.taint p).counters = x.counters := rfl
@[simp] theorem Core.taint_ports (x : Core) (p : Bool) : (x.taint p).ports = x.ports := rfl
@[simp] theorem Core.taint_outStage (x : Core) (p : Bool) : (x.taint p).outStage = x.outStage := rfl
@[simp] theorem Core.taint_windows (x : Core) (p : Bool) : (x.taint p).windows = x.windows := rfl
@[simp] theorem Core.taint_errLog (x : Core) (p : Bool) : (x.taint p).errLog = x.errLog := rfl
@[simp] theorem Core.taint_scrub (x : Core) (p : Bool) : (x.taint p).scrub = x.scrub := rfl
@[simp] theorem Core.taint_scrubCE (x : Core) (p : Bool) : (x.taint p).scrubCE = x.scrubCE := rfl
@[simp] theorem Core.taint_spareLines (x : Core) (p : Bool) : (x.taint p).spareLines = x.spareLines := rfl
@[simp] theorem Core.taint_haltWanted (x : Core) (p : Bool) : (x.taint p).haltWanted = x.haltWanted := rfl
@[simp] theorem Core.taint_halted (x : Core) (p : Bool) : (x.taint p).halted = x.halted := rfl
@[simp] theorem Core.taint_saving (x : Core) (p : Bool) : (x.taint p).saving = x.saving := rfl
@[simp] theorem Core.taint_spanSums (x : Core) (p : Bool) : (x.taint p).spanSums = x.spanSums := rfl
@[simp] theorem Core.taint_sides (x : Core) (p : Bool) : (x.taint p).sides = x.sides := rfl
@[simp] theorem Core.taint_passNan (x : Core) (p : Bool) : (x.taint p).passNan = x.passNan := rfl
@[simp] theorem Core.taint_passBad (x : Core) (p : Bool) : (x.taint p).passBad = x.passBad := rfl
@[simp] theorem Core.taint_stationary (x : Core) (p : Bool) : (x.taint p).stationary = x.stationary := rfl
@[simp] theorem Core.taint_planeBufs (x : Core) (p : Bool) : (x.taint p).planeBufs = x.planeBufs := rfl
@[simp] theorem Core.taint_queue (x : Core) (p : Bool) : (x.taint p).queue = x.queue := rfl
@[simp] theorem Core.taint_issueSeq (x : Core) (p : Bool) : (x.taint p).issueSeq = x.issueSeq := rfl
@[simp] theorem Core.taint_lastWide (x : Core) (p : Bool) : (x.taint p).lastWide = x.lastWide := rfl
@[simp] theorem Core.taint_counted (x : Core) (p : Bool) : (x.taint p).counted = x.counted := rfl
@[simp] theorem Core.taint_haltedAt (x : Core) (p : Bool) : (x.taint p).haltedAt = x.haltedAt := rfl
@[simp] theorem Core.taint_rd (x : Core) (p : Bool) (k : Nat) : (x.taint p).rd k = x.rd k := by simp [Core.rd]
@[simp] theorem Core.taint_rdP (x : Core) (p : Bool) (k : Nat) : (x.taint p).rdP k = x.rdP k := by simp [Core.rdP]
@[simp] theorem Core.taint_vec (x : Core) (p : Bool) (k : Nat) : (x.taint p).vec k = x.vec k := by simp [Core.vec]
@[simp] theorem Core.taint_vecP (x : Core) (p : Bool) (k : Nat) : (x.taint p).vecP k = x.vecP k := by simp [Core.vecP]

/-! ## wr -/

@[simp] theorem Core.wr_v (x : Core) (r : Nat) (v : BitVec 64) (p : Bool) : (x.wr r v p).v = x.v :=
  by unfold Core.wr; split <;> rfl
@[simp] theorem Core.wr_vPoison (x : Core) (r : Nat) (v : BitVec 64) (p : Bool) : (x.wr r v p).vPoison = x.vPoison :=
  by unfold Core.wr; split <;> rfl
@[simp] theorem Core.wr_acc (x : Core) (r : Nat) (v : BitVec 64) (p : Bool) : (x.wr r v p).acc = x.acc :=
  by unfold Core.wr; split <;> rfl
@[simp] theorem Core.wr_accPoison (x : Core) (r : Nat) (v : BitVec 64) (p : Bool) : (x.wr r v p).accPoison = x.accPoison :=
  by unfold Core.wr; split <;> rfl
@[simp] theorem Core.wr_regions (x : Core) (r : Nat) (v : BitVec 64) (p : Bool) : (x.wr r v p).regions = x.regions :=
  by unfold Core.wr; split <;> rfl
@[simp] theorem Core.wr_pc (x : Core) (r : Nat) (v : BitVec 64) (p : Bool) : (x.wr r v p).pc = x.pc :=
  by unfold Core.wr; split <;> rfl
@[simp] theorem Core.wr_base (x : Core) (r : Nat) (v : BitVec 64) (p : Bool) : (x.wr r v p).base = x.base :=
  by unfold Core.wr; split <;> rfl
@[simp] theorem Core.wr_bound (x : Core) (r : Nat) (v : BitVec 64) (p : Bool) : (x.wr r v p).bound = x.bound :=
  by unfold Core.wr; split <;> rfl
@[simp] theorem Core.wr_task (x : Core) (r : Nat) (v : BitVec 64) (p : Bool) : (x.wr r v p).task = x.task :=
  by unfold Core.wr; split <;> rfl
@[simp] theorem Core.wr_next (x : Core) (r : Nat) (v : BitVec 64) (p : Bool) : (x.wr r v p).next = x.next :=
  by unfold Core.wr; split <;> rfl
@[simp] theorem Core.wr_phase (x : Core) (r : Nat) (v : BitVec 64) (p : Bool) : (x.wr r v p).phase = x.phase :=
  by unfold Core.wr; split <;> rfl
@[simp] theorem Core.wr_exc (x : Core) (r : Nat) (v : BitVec 64) (p : Bool) : (x.wr r v p).exc = x.exc :=
  by unfold Core.wr; split <;> rfl
@[simp] theorem Core.wr_trapCode (x : Core) (r : Nat) (v : BitVec 64) (p : Bool) : (x.wr r v p).trapCode = x.trapCode :=
  by unfold Core.wr; split <;> rfl
@[simp] theorem Core.wr_windowCause (x : Core) (r : Nat) (v : BitVec 64) (p : Bool) : (x.wr r v p).windowCause = x.windowCause :=
  by unfold Core.wr; split <;> rfl
@[simp] theorem Core.wr_conflictRec (x : Core) (r : Nat) (v : BitVec 64) (p : Bool) : (x.wr r v p).conflictRec = x.conflictRec :=
  by unfold Core.wr; split <;> rfl
@[simp] theorem Core.wr_qcw (x : Core) (r : Nat) (v : BitVec 64) (p : Bool) : (x.wr r v p).qcw = x.qcw :=
  by unfold Core.wr; split <;> rfl
@[simp] theorem Core.wr_lfsr (x : Core) (r : Nat) (v : BitVec 64) (p : Bool) : (x.wr r v p).lfsr = x.lfsr :=
  by unfold Core.wr; split <;> rfl
@[simp] theorem Core.wr_qsat (x : Core) (r : Nat) (v : BitVec 64) (p : Bool) : (x.wr r v p).qsat = x.qsat :=
  by unfold Core.wr; split <;> rfl
@[simp] theorem Core.wr_kovf (x : Core) (r : Nat) (v : BitVec 64) (p : Bool) : (x.wr r v p).kovf = x.kovf :=
  by unfold Core.wr; split <;> rfl
@[simp] theorem Core.wr_nanp (x : Core) (r : Nat) (v : BitVec 64) (p : Bool) : (x.wr r v p).nanp = x.nanp :=
  by unfold Core.wr; split <;> rfl
@[simp] theorem Core.wr_maxabs (x : Core) (r : Nat) (v : BitVec 64) (p : Bool) : (x.wr r v p).maxabs = x.maxabs :=
  by unfold Core.wr; split <;> rfl
@[simp] theorem Core.wr_rangeRaised (x : Core) (r : Nat) (v : BitVec 64) (p : Bool) : (x.wr r v p).rangeRaised = x.rangeRaised :=
  by unfold Core.wr; split <;> rfl
@[simp] theorem Core.wr_flagged (x : Core) (r : Nat) (v : BitVec 64) (p : Bool) : (x.wr r v p).flagged = x.flagged :=
  by unfold Core.wr; split <;> rfl
@[simp] theorem Core.wr_passes (x : Core) (r : Nat) (v : BitVec 64) (p : Bool) : (x.wr r v p).passes = x.passes :=
  by unfold Core.wr; split <;> rfl
@[simp] theorem Core.wr_lanes (x : Core) (r : Nat) (v : BitVec 64) (p : Bool) : (x.wr r v p).lanes = x.lanes :=
  by unfold Core.wr; split <;> rfl
@[simp] theorem Core.wr_cursor (x : Core) (r : Nat) (v : BitVec 64) (p : Bool) : (x.wr r v p).cursor = x.cursor :=
  by unfold Core.wr; split <;> rfl
@[simp] theorem Core.wr_passRows (x : Core) (r : Nat) (v : BitVec 64) (p : Bool) : (x.wr r v p).passRows = x.passRows :=
  by unfold Core.wr; split <;> rfl
@[simp] theorem Core.wr_qout (x : Core) (r : Nat) (v : BitVec 64) (p : Bool) : (x.wr r v p).qout = x.qout :=
  by unfold Core.wr; split <;> rfl
@[simp] theorem Core.wr_nanMet (x : Core) (r : Nat) (v : BitVec 64) (p : Bool) : (x.wr r v p).nanMet = x.nanMet :=
  by unfold Core.wr; split <;> rfl
@[simp] theorem Core.wr_qdone (x : Core) (r : Nat) (v : BitVec 64) (p : Bool) : (x.wr r v p).qdone = x.qdone :=
  by unfold Core.wr; split <;> rfl
@[simp] theorem Core.wr_codebook (x : Core) (r : Nat) (v : BitVec 64) (p : Bool) : (x.wr r v p).codebook = x.codebook :=
  by unfold Core.wr; split <;> rfl
@[simp] theorem Core.wr_statDesc (x : Core) (r : Nat) (v : BitVec 64) (p : Bool) : (x.wr r v p).statDesc = x.statDesc :=
  by unfold Core.wr; split <;> rfl
@[simp] theorem Core.wr_reads (x : Core) (r : Nat) (v : BitVec 64) (p : Bool) : (x.wr r v p).reads = x.reads :=
  by unfold Core.wr; split <;> rfl
@[simp] theorem Core.wr_cancelledReads (x : Core) (r : Nat) (v : BitVec 64) (p : Bool) : (x.wr r v p).cancelledReads = x.cancelledReads :=
  by unfold Core.wr; split <;> rfl
@[simp] theorem Core.wr_writesOut (x : Core) (r : Nat) (v : BitVec 64) (p : Bool) : (x.wr r v p).writesOut = x.writesOut :=
  by unfold Core.wr; split <;> rfl
@[simp] theorem Core.wr_refused (x : Core) (r : Nat) (v : BitVec 64) (p : Bool) : (x.wr r v p).refused = x.refused :=
  by unfold Core.wr; split <;> rfl
@[simp] theorem Core.wr_resumeHeader (x : Core) (r : Nat) (v : BitVec 64) (p : Bool) : (x.wr r v p).resumeHeader = x.resumeHeader :=
  by unfold Core.wr; split <;> rfl
@[simp] theorem Core.wr_resumeList (x : Core) (r : Nat) (v : BitVec 64) (p : Bool) : (x.wr r v p).resumeList = x.resumeList :=
  by unfold Core.wr; split <;> rfl
@[simp] theorem Core.wr_tainted (x : Core) (r : Nat) (v : BitVec 64) (p : Bool) : (x.wr r v p).tainted = x.tainted :=
  by unfold Core.wr; split <;> rfl
@[simp] theorem Core.wr_stall (x : Core) (r : Nat) (v : BitVec 64) (p : Bool) : (x.wr r v p).stall = x.stall :=
  by unfold Core.wr; split <;> rfl
@[simp] theorem Core.wr_stallSince (x : Core) (r : Nat) (v : BitVec 64) (p : Bool) : (x.wr r v p).stallSince = x.stallSince :=
  by unfold Core.wr; split <;> rfl
@[simp] theorem Core.wr_lastQueue (x : Core) (r : Nat) (v : BitVec 64) (p : Bool) : (x.wr r v p).lastQueue = x.lastQueue :=
  by unfold Core.wr; split <;> rfl
@[simp] theorem Core.wr_counters (x : Core) (r : Nat) (v : BitVec 64) (p : Bool) : (x.wr r v p).counters = x.counters :=
  by unfold Core.wr; split <;> rfl
@[simp] theorem Core.wr_ports (x : Core) (r : Nat) (v : BitVec 64) (p : Bool) : (x.wr r v p).ports = x.ports :=
  by unfold Core.wr; split <;> rfl
@[simp] theorem Core.wr_outStage (x : Core) (r : Nat) (v : BitVec 64) (p : Bool) : (x.wr r v p).outStage = x.outStage :=
  by unfold Core.wr; split <;> rfl
@[simp] theorem Core.wr_windows (x : Core) (r : Nat) (v : BitVec 64) (p : Bool) : (x.wr r v p).windows = x.windows :=
  by unfold Core.wr; split <;> rfl
@[simp] theorem Core.wr_errLog (x : Core) (r : Nat) (v : BitVec 64) (p : Bool) : (x.wr r v p).errLog = x.errLog :=
  by unfold Core.wr; split <;> rfl
@[simp] theorem Core.wr_scrub (x : Core) (r : Nat) (v : BitVec 64) (p : Bool) : (x.wr r v p).scrub = x.scrub :=
  by unfold Core.wr; split <;> rfl
@[simp] theorem Core.wr_scrubCE (x : Core) (r : Nat) (v : BitVec 64) (p : Bool) : (x.wr r v p).scrubCE = x.scrubCE :=
  by unfold Core.wr; split <;> rfl
@[simp] theorem Core.wr_spareLines (x : Core) (r : Nat) (v : BitVec 64) (p : Bool) : (x.wr r v p).spareLines = x.spareLines :=
  by unfold Core.wr; split <;> rfl
@[simp] theorem Core.wr_haltWanted (x : Core) (r : Nat) (v : BitVec 64) (p : Bool) : (x.wr r v p).haltWanted = x.haltWanted :=
  by unfold Core.wr; split <;> rfl
@[simp] theorem Core.wr_halted (x : Core) (r : Nat) (v : BitVec 64) (p : Bool) : (x.wr r v p).halted = x.halted :=
  by unfold Core.wr; split <;> rfl
@[simp] theorem Core.wr_saving (x : Core) (r : Nat) (v : BitVec 64) (p : Bool) : (x.wr r v p).saving = x.saving :=
  by unfold Core.wr; split <;> rfl
@[simp] theorem Core.wr_spanSums (x : Core) (r : Nat) (v : BitVec 64) (p : Bool) : (x.wr r v p).spanSums = x.spanSums :=
  by unfold Core.wr; split <;> rfl
@[simp] theorem Core.wr_sides (x : Core) (r : Nat) (v : BitVec 64) (p : Bool) : (x.wr r v p).sides = x.sides :=
  by unfold Core.wr; split <;> rfl
@[simp] theorem Core.wr_passNan (x : Core) (r : Nat) (v : BitVec 64) (p : Bool) : (x.wr r v p).passNan = x.passNan :=
  by unfold Core.wr; split <;> rfl
@[simp] theorem Core.wr_passBad (x : Core) (r : Nat) (v : BitVec 64) (p : Bool) : (x.wr r v p).passBad = x.passBad :=
  by unfold Core.wr; split <;> rfl
@[simp] theorem Core.wr_stationary (x : Core) (r : Nat) (v : BitVec 64) (p : Bool) : (x.wr r v p).stationary = x.stationary :=
  by unfold Core.wr; split <;> rfl
@[simp] theorem Core.wr_planeBufs (x : Core) (r : Nat) (v : BitVec 64) (p : Bool) : (x.wr r v p).planeBufs = x.planeBufs :=
  by unfold Core.wr; split <;> rfl
@[simp] theorem Core.wr_queue (x : Core) (r : Nat) (v : BitVec 64) (p : Bool) : (x.wr r v p).queue = x.queue :=
  by unfold Core.wr; split <;> rfl
@[simp] theorem Core.wr_issueSeq (x : Core) (r : Nat) (v : BitVec 64) (p : Bool) : (x.wr r v p).issueSeq = x.issueSeq :=
  by unfold Core.wr; split <;> rfl
@[simp] theorem Core.wr_lastWide (x : Core) (r : Nat) (v : BitVec 64) (p : Bool) : (x.wr r v p).lastWide = x.lastWide :=
  by unfold Core.wr; split <;> rfl
@[simp] theorem Core.wr_counted (x : Core) (r : Nat) (v : BitVec 64) (p : Bool) : (x.wr r v p).counted = x.counted :=
  by unfold Core.wr; split <;> rfl
@[simp] theorem Core.wr_haltedAt (x : Core) (r : Nat) (v : BitVec 64) (p : Bool) : (x.wr r v p).haltedAt = x.haltedAt :=
  by unfold Core.wr; split <;> rfl
@[simp] theorem Core.wr_vec (x : Core) (r : Nat) (v : BitVec 64) (p : Bool) (k : Nat) : (x.wr r v p).vec k = x.vec k :=
  by simp [Core.vec]
@[simp] theorem Core.wr_vecP (x : Core) (r : Nat) (v : BitVec 64) (p : Bool) (k : Nat) : (x.wr r v p).vecP k = x.vecP k :=
  by simp [Core.vecP]

/-! ## wrVec -/

@[simp] theorem Core.wrVec_g (x : Core) (r : Nat) (l : List F32) (p : Bool) : (x.wrVec r l p).g = x.g := rfl
@[simp] theorem Core.wrVec_gPoison (x : Core) (r : Nat) (l : List F32) (p : Bool) : (x.wrVec r l p).gPoison = x.gPoison :=
  rfl
@[simp] theorem Core.wrVec_acc (x : Core) (r : Nat) (l : List F32) (p : Bool) : (x.wrVec r l p).acc = x.acc := rfl
@[simp] theorem Core.wrVec_accPoison (x : Core) (r : Nat) (l : List F32) (p : Bool) : (x.wrVec r l p).accPoison = x.accPoison :=
  rfl
@[simp] theorem Core.wrVec_regions (x : Core) (r : Nat) (l : List F32) (p : Bool) : (x.wrVec r l p).regions = x.regions :=
  rfl
@[simp] theorem Core.wrVec_pc (x : Core) (r : Nat) (l : List F32) (p : Bool) : (x.wrVec r l p).pc = x.pc := rfl
@[simp] theorem Core.wrVec_base (x : Core) (r : Nat) (l : List F32) (p : Bool) : (x.wrVec r l p).base = x.base := rfl
@[simp] theorem Core.wrVec_bound (x : Core) (r : Nat) (l : List F32) (p : Bool) : (x.wrVec r l p).bound = x.bound := rfl
@[simp] theorem Core.wrVec_task (x : Core) (r : Nat) (l : List F32) (p : Bool) : (x.wrVec r l p).task = x.task := rfl
@[simp] theorem Core.wrVec_next (x : Core) (r : Nat) (l : List F32) (p : Bool) : (x.wrVec r l p).next = x.next := rfl
@[simp] theorem Core.wrVec_phase (x : Core) (r : Nat) (l : List F32) (p : Bool) : (x.wrVec r l p).phase = x.phase := rfl
@[simp] theorem Core.wrVec_exc (x : Core) (r : Nat) (l : List F32) (p : Bool) : (x.wrVec r l p).exc = x.exc := rfl
@[simp] theorem Core.wrVec_trapCode (x : Core) (r : Nat) (l : List F32) (p : Bool) : (x.wrVec r l p).trapCode = x.trapCode :=
  rfl
@[simp] theorem Core.wrVec_windowCause (x : Core) (r : Nat) (l : List F32) (p : Bool) : (x.wrVec r l p).windowCause = x.windowCause :=
  rfl
@[simp] theorem Core.wrVec_conflictRec (x : Core) (r : Nat) (l : List F32) (p : Bool) : (x.wrVec r l p).conflictRec = x.conflictRec :=
  rfl
@[simp] theorem Core.wrVec_qcw (x : Core) (r : Nat) (l : List F32) (p : Bool) : (x.wrVec r l p).qcw = x.qcw := rfl
@[simp] theorem Core.wrVec_lfsr (x : Core) (r : Nat) (l : List F32) (p : Bool) : (x.wrVec r l p).lfsr = x.lfsr := rfl
@[simp] theorem Core.wrVec_qsat (x : Core) (r : Nat) (l : List F32) (p : Bool) : (x.wrVec r l p).qsat = x.qsat := rfl
@[simp] theorem Core.wrVec_kovf (x : Core) (r : Nat) (l : List F32) (p : Bool) : (x.wrVec r l p).kovf = x.kovf := rfl
@[simp] theorem Core.wrVec_nanp (x : Core) (r : Nat) (l : List F32) (p : Bool) : (x.wrVec r l p).nanp = x.nanp := rfl
@[simp] theorem Core.wrVec_maxabs (x : Core) (r : Nat) (l : List F32) (p : Bool) : (x.wrVec r l p).maxabs = x.maxabs :=
  rfl
@[simp] theorem Core.wrVec_rangeRaised (x : Core) (r : Nat) (l : List F32) (p : Bool) : (x.wrVec r l p).rangeRaised = x.rangeRaised :=
  rfl
@[simp] theorem Core.wrVec_flagged (x : Core) (r : Nat) (l : List F32) (p : Bool) : (x.wrVec r l p).flagged = x.flagged :=
  rfl
@[simp] theorem Core.wrVec_passes (x : Core) (r : Nat) (l : List F32) (p : Bool) : (x.wrVec r l p).passes = x.passes :=
  rfl
@[simp] theorem Core.wrVec_lanes (x : Core) (r : Nat) (l : List F32) (p : Bool) : (x.wrVec r l p).lanes = x.lanes := rfl
@[simp] theorem Core.wrVec_cursor (x : Core) (r : Nat) (l : List F32) (p : Bool) : (x.wrVec r l p).cursor = x.cursor :=
  rfl
@[simp] theorem Core.wrVec_passRows (x : Core) (r : Nat) (l : List F32) (p : Bool) : (x.wrVec r l p).passRows = x.passRows :=
  rfl
@[simp] theorem Core.wrVec_qout (x : Core) (r : Nat) (l : List F32) (p : Bool) : (x.wrVec r l p).qout = x.qout := rfl
@[simp] theorem Core.wrVec_nanMet (x : Core) (r : Nat) (l : List F32) (p : Bool) : (x.wrVec r l p).nanMet = x.nanMet :=
  rfl
@[simp] theorem Core.wrVec_qdone (x : Core) (r : Nat) (l : List F32) (p : Bool) : (x.wrVec r l p).qdone = x.qdone := rfl
@[simp] theorem Core.wrVec_codebook (x : Core) (r : Nat) (l : List F32) (p : Bool) : (x.wrVec r l p).codebook = x.codebook :=
  rfl
@[simp] theorem Core.wrVec_statDesc (x : Core) (r : Nat) (l : List F32) (p : Bool) : (x.wrVec r l p).statDesc = x.statDesc :=
  rfl
@[simp] theorem Core.wrVec_reads (x : Core) (r : Nat) (l : List F32) (p : Bool) : (x.wrVec r l p).reads = x.reads := rfl
@[simp] theorem Core.wrVec_cancelledReads (x : Core) (r : Nat) (l : List F32) (p : Bool) : (x.wrVec r l p).cancelledReads = x.cancelledReads :=
  rfl
@[simp] theorem Core.wrVec_writesOut (x : Core) (r : Nat) (l : List F32) (p : Bool) : (x.wrVec r l p).writesOut = x.writesOut :=
  rfl
@[simp] theorem Core.wrVec_refused (x : Core) (r : Nat) (l : List F32) (p : Bool) : (x.wrVec r l p).refused = x.refused :=
  rfl
@[simp] theorem Core.wrVec_resumeHeader (x : Core) (r : Nat) (l : List F32) (p : Bool) : (x.wrVec r l p).resumeHeader = x.resumeHeader :=
  rfl
@[simp] theorem Core.wrVec_resumeList (x : Core) (r : Nat) (l : List F32) (p : Bool) : (x.wrVec r l p).resumeList = x.resumeList :=
  rfl
@[simp] theorem Core.wrVec_tainted (x : Core) (r : Nat) (l : List F32) (p : Bool) : (x.wrVec r l p).tainted = x.tainted :=
  rfl
@[simp] theorem Core.wrVec_stall (x : Core) (r : Nat) (l : List F32) (p : Bool) : (x.wrVec r l p).stall = x.stall := rfl
@[simp] theorem Core.wrVec_stallSince (x : Core) (r : Nat) (l : List F32) (p : Bool) : (x.wrVec r l p).stallSince = x.stallSince :=
  rfl
@[simp] theorem Core.wrVec_lastQueue (x : Core) (r : Nat) (l : List F32) (p : Bool) : (x.wrVec r l p).lastQueue = x.lastQueue :=
  rfl
@[simp] theorem Core.wrVec_counters (x : Core) (r : Nat) (l : List F32) (p : Bool) : (x.wrVec r l p).counters = x.counters :=
  rfl
@[simp] theorem Core.wrVec_ports (x : Core) (r : Nat) (l : List F32) (p : Bool) : (x.wrVec r l p).ports = x.ports := rfl
@[simp] theorem Core.wrVec_outStage (x : Core) (r : Nat) (l : List F32) (p : Bool) : (x.wrVec r l p).outStage = x.outStage :=
  rfl
@[simp] theorem Core.wrVec_windows (x : Core) (r : Nat) (l : List F32) (p : Bool) : (x.wrVec r l p).windows = x.windows :=
  rfl
@[simp] theorem Core.wrVec_errLog (x : Core) (r : Nat) (l : List F32) (p : Bool) : (x.wrVec r l p).errLog = x.errLog :=
  rfl
@[simp] theorem Core.wrVec_scrub (x : Core) (r : Nat) (l : List F32) (p : Bool) : (x.wrVec r l p).scrub = x.scrub := rfl
@[simp] theorem Core.wrVec_scrubCE (x : Core) (r : Nat) (l : List F32) (p : Bool) : (x.wrVec r l p).scrubCE = x.scrubCE :=
  rfl
@[simp] theorem Core.wrVec_spareLines (x : Core) (r : Nat) (l : List F32) (p : Bool) : (x.wrVec r l p).spareLines = x.spareLines :=
  rfl
@[simp] theorem Core.wrVec_haltWanted (x : Core) (r : Nat) (l : List F32) (p : Bool) : (x.wrVec r l p).haltWanted = x.haltWanted :=
  rfl
@[simp] theorem Core.wrVec_halted (x : Core) (r : Nat) (l : List F32) (p : Bool) : (x.wrVec r l p).halted = x.halted :=
  rfl
@[simp] theorem Core.wrVec_saving (x : Core) (r : Nat) (l : List F32) (p : Bool) : (x.wrVec r l p).saving = x.saving :=
  rfl
@[simp] theorem Core.wrVec_spanSums (x : Core) (r : Nat) (l : List F32) (p : Bool) : (x.wrVec r l p).spanSums = x.spanSums :=
  rfl
@[simp] theorem Core.wrVec_sides (x : Core) (r : Nat) (l : List F32) (p : Bool) : (x.wrVec r l p).sides = x.sides :=
  rfl
@[simp] theorem Core.wrVec_passNan (x : Core) (r : Nat) (l : List F32) (p : Bool) : (x.wrVec r l p).passNan = x.passNan :=
  rfl
@[simp] theorem Core.wrVec_passBad (x : Core) (r : Nat) (l : List F32) (p : Bool) : (x.wrVec r l p).passBad = x.passBad :=
  rfl
@[simp] theorem Core.wrVec_stationary (x : Core) (r : Nat) (l : List F32) (p : Bool) : (x.wrVec r l p).stationary = x.stationary :=
  rfl
@[simp] theorem Core.wrVec_planeBufs (x : Core) (r : Nat) (l : List F32) (p : Bool) : (x.wrVec r l p).planeBufs = x.planeBufs :=
  rfl
@[simp] theorem Core.wrVec_queue (x : Core) (r : Nat) (l : List F32) (p : Bool) : (x.wrVec r l p).queue = x.queue :=
  rfl
@[simp] theorem Core.wrVec_issueSeq (x : Core) (r : Nat) (l : List F32) (p : Bool) : (x.wrVec r l p).issueSeq = x.issueSeq :=
  rfl
@[simp] theorem Core.wrVec_lastWide (x : Core) (r : Nat) (l : List F32) (p : Bool) : (x.wrVec r l p).lastWide = x.lastWide :=
  rfl
@[simp] theorem Core.wrVec_counted (x : Core) (r : Nat) (l : List F32) (p : Bool) : (x.wrVec r l p).counted = x.counted :=
  rfl
@[simp] theorem Core.wrVec_haltedAt (x : Core) (r : Nat) (l : List F32) (p : Bool) : (x.wrVec r l p).haltedAt = x.haltedAt :=
  rfl
@[simp] theorem Core.wrVec_rd (x : Core) (r : Nat) (l : List F32) (p : Bool) (k : Nat) : (x.wrVec r l p).rd k = x.rd k :=
  by simp [Core.rd]
@[simp] theorem Core.wrVec_rdP (x : Core) (r : Nat) (l : List F32) (p : Bool) (k : Nat) : (x.wrVec r l p).rdP k = x.rdP k :=
  by simp [Core.rdP]

/-! ## addNanp -/

@[simp] theorem Core.addNanp_g (x : Core) (m : Bool) : (x.addNanp m).g = x.g := by unfold Core.addNanp; split <;> rfl
@[simp] theorem Core.addNanp_gPoison (x : Core) (m : Bool) : (x.addNanp m).gPoison = x.gPoison :=
  by unfold Core.addNanp; split <;> rfl
@[simp] theorem Core.addNanp_v (x : Core) (m : Bool) : (x.addNanp m).v = x.v := by unfold Core.addNanp; split <;> rfl
@[simp] theorem Core.addNanp_vPoison (x : Core) (m : Bool) : (x.addNanp m).vPoison = x.vPoison :=
  by unfold Core.addNanp; split <;> rfl
@[simp] theorem Core.addNanp_acc (x : Core) (m : Bool) : (x.addNanp m).acc = x.acc :=
  by unfold Core.addNanp; split <;> rfl
@[simp] theorem Core.addNanp_accPoison (x : Core) (m : Bool) : (x.addNanp m).accPoison = x.accPoison :=
  by unfold Core.addNanp; split <;> rfl
@[simp] theorem Core.addNanp_regions (x : Core) (m : Bool) : (x.addNanp m).regions = x.regions :=
  by unfold Core.addNanp; split <;> rfl
@[simp] theorem Core.addNanp_pc (x : Core) (m : Bool) : (x.addNanp m).pc = x.pc := by unfold Core.addNanp; split <;> rfl
@[simp] theorem Core.addNanp_base (x : Core) (m : Bool) : (x.addNanp m).base = x.base :=
  by unfold Core.addNanp; split <;> rfl
@[simp] theorem Core.addNanp_bound (x : Core) (m : Bool) : (x.addNanp m).bound = x.bound :=
  by unfold Core.addNanp; split <;> rfl
@[simp] theorem Core.addNanp_task (x : Core) (m : Bool) : (x.addNanp m).task = x.task :=
  by unfold Core.addNanp; split <;> rfl
@[simp] theorem Core.addNanp_next (x : Core) (m : Bool) : (x.addNanp m).next = x.next :=
  by unfold Core.addNanp; split <;> rfl
@[simp] theorem Core.addNanp_phase (x : Core) (m : Bool) : (x.addNanp m).phase = x.phase :=
  by unfold Core.addNanp; split <;> rfl
@[simp] theorem Core.addNanp_exc (x : Core) (m : Bool) : (x.addNanp m).exc = x.exc :=
  by unfold Core.addNanp; split <;> rfl
@[simp] theorem Core.addNanp_trapCode (x : Core) (m : Bool) : (x.addNanp m).trapCode = x.trapCode :=
  by unfold Core.addNanp; split <;> rfl
@[simp] theorem Core.addNanp_windowCause (x : Core) (m : Bool) : (x.addNanp m).windowCause = x.windowCause :=
  by unfold Core.addNanp; split <;> rfl
@[simp] theorem Core.addNanp_conflictRec (x : Core) (m : Bool) : (x.addNanp m).conflictRec = x.conflictRec :=
  by unfold Core.addNanp; split <;> rfl
@[simp] theorem Core.addNanp_qcw (x : Core) (m : Bool) : (x.addNanp m).qcw = x.qcw :=
  by unfold Core.addNanp; split <;> rfl
@[simp] theorem Core.addNanp_lfsr (x : Core) (m : Bool) : (x.addNanp m).lfsr = x.lfsr :=
  by unfold Core.addNanp; split <;> rfl
@[simp] theorem Core.addNanp_qsat (x : Core) (m : Bool) : (x.addNanp m).qsat = x.qsat :=
  by unfold Core.addNanp; split <;> rfl
@[simp] theorem Core.addNanp_kovf (x : Core) (m : Bool) : (x.addNanp m).kovf = x.kovf :=
  by unfold Core.addNanp; split <;> rfl
@[simp] theorem Core.addNanp_maxabs (x : Core) (m : Bool) : (x.addNanp m).maxabs = x.maxabs :=
  by unfold Core.addNanp; split <;> rfl
@[simp] theorem Core.addNanp_rangeRaised (x : Core) (m : Bool) : (x.addNanp m).rangeRaised = x.rangeRaised :=
  by unfold Core.addNanp; split <;> rfl
@[simp] theorem Core.addNanp_flagged (x : Core) (m : Bool) : (x.addNanp m).flagged = x.flagged :=
  by unfold Core.addNanp; split <;> rfl
@[simp] theorem Core.addNanp_passes (x : Core) (m : Bool) : (x.addNanp m).passes = x.passes :=
  by unfold Core.addNanp; split <;> rfl
@[simp] theorem Core.addNanp_lanes (x : Core) (m : Bool) : (x.addNanp m).lanes = x.lanes :=
  by unfold Core.addNanp; split <;> rfl
@[simp] theorem Core.addNanp_cursor (x : Core) (m : Bool) : (x.addNanp m).cursor = x.cursor :=
  by unfold Core.addNanp; split <;> rfl
@[simp] theorem Core.addNanp_passRows (x : Core) (m : Bool) : (x.addNanp m).passRows = x.passRows :=
  by unfold Core.addNanp; split <;> rfl
@[simp] theorem Core.addNanp_qout (x : Core) (m : Bool) : (x.addNanp m).qout = x.qout :=
  by unfold Core.addNanp; split <;> rfl
@[simp] theorem Core.addNanp_nanMet (x : Core) (m : Bool) : (x.addNanp m).nanMet = x.nanMet :=
  by unfold Core.addNanp; split <;> rfl
@[simp] theorem Core.addNanp_qdone (x : Core) (m : Bool) : (x.addNanp m).qdone = x.qdone :=
  by unfold Core.addNanp; split <;> rfl
@[simp] theorem Core.addNanp_codebook (x : Core) (m : Bool) : (x.addNanp m).codebook = x.codebook :=
  by unfold Core.addNanp; split <;> rfl
@[simp] theorem Core.addNanp_statDesc (x : Core) (m : Bool) : (x.addNanp m).statDesc = x.statDesc :=
  by unfold Core.addNanp; split <;> rfl
@[simp] theorem Core.addNanp_reads (x : Core) (m : Bool) : (x.addNanp m).reads = x.reads :=
  by unfold Core.addNanp; split <;> rfl
@[simp] theorem Core.addNanp_cancelledReads (x : Core) (m : Bool) : (x.addNanp m).cancelledReads = x.cancelledReads :=
  by unfold Core.addNanp; split <;> rfl
@[simp] theorem Core.addNanp_writesOut (x : Core) (m : Bool) : (x.addNanp m).writesOut = x.writesOut :=
  by unfold Core.addNanp; split <;> rfl
@[simp] theorem Core.addNanp_refused (x : Core) (m : Bool) : (x.addNanp m).refused = x.refused :=
  by unfold Core.addNanp; split <;> rfl
@[simp] theorem Core.addNanp_resumeHeader (x : Core) (m : Bool) : (x.addNanp m).resumeHeader = x.resumeHeader :=
  by unfold Core.addNanp; split <;> rfl
@[simp] theorem Core.addNanp_resumeList (x : Core) (m : Bool) : (x.addNanp m).resumeList = x.resumeList :=
  by unfold Core.addNanp; split <;> rfl
@[simp] theorem Core.addNanp_tainted (x : Core) (m : Bool) : (x.addNanp m).tainted = x.tainted :=
  by unfold Core.addNanp; split <;> rfl
@[simp] theorem Core.addNanp_stall (x : Core) (m : Bool) : (x.addNanp m).stall = x.stall :=
  by unfold Core.addNanp; split <;> rfl
@[simp] theorem Core.addNanp_stallSince (x : Core) (m : Bool) : (x.addNanp m).stallSince = x.stallSince :=
  by unfold Core.addNanp; split <;> rfl
@[simp] theorem Core.addNanp_lastQueue (x : Core) (m : Bool) : (x.addNanp m).lastQueue = x.lastQueue :=
  by unfold Core.addNanp; split <;> rfl
@[simp] theorem Core.addNanp_counters (x : Core) (m : Bool) : (x.addNanp m).counters = x.counters :=
  by unfold Core.addNanp; split <;> rfl
@[simp] theorem Core.addNanp_ports (x : Core) (m : Bool) : (x.addNanp m).ports = x.ports :=
  by unfold Core.addNanp; split <;> rfl
@[simp] theorem Core.addNanp_outStage (x : Core) (m : Bool) : (x.addNanp m).outStage = x.outStage :=
  by unfold Core.addNanp; split <;> rfl
@[simp] theorem Core.addNanp_windows (x : Core) (m : Bool) : (x.addNanp m).windows = x.windows :=
  by unfold Core.addNanp; split <;> rfl
@[simp] theorem Core.addNanp_errLog (x : Core) (m : Bool) : (x.addNanp m).errLog = x.errLog :=
  by unfold Core.addNanp; split <;> rfl
@[simp] theorem Core.addNanp_scrub (x : Core) (m : Bool) : (x.addNanp m).scrub = x.scrub :=
  by unfold Core.addNanp; split <;> rfl
@[simp] theorem Core.addNanp_scrubCE (x : Core) (m : Bool) : (x.addNanp m).scrubCE = x.scrubCE :=
  by unfold Core.addNanp; split <;> rfl
@[simp] theorem Core.addNanp_spareLines (x : Core) (m : Bool) : (x.addNanp m).spareLines = x.spareLines :=
  by unfold Core.addNanp; split <;> rfl
@[simp] theorem Core.addNanp_haltWanted (x : Core) (m : Bool) : (x.addNanp m).haltWanted = x.haltWanted :=
  by unfold Core.addNanp; split <;> rfl
@[simp] theorem Core.addNanp_halted (x : Core) (m : Bool) : (x.addNanp m).halted = x.halted :=
  by unfold Core.addNanp; split <;> rfl
@[simp] theorem Core.addNanp_saving (x : Core) (m : Bool) : (x.addNanp m).saving = x.saving :=
  by unfold Core.addNanp; split <;> rfl
@[simp] theorem Core.addNanp_spanSums (x : Core) (m : Bool) : (x.addNanp m).spanSums = x.spanSums :=
  by unfold Core.addNanp; split <;> rfl
@[simp] theorem Core.addNanp_sides (x : Core) (m : Bool) : (x.addNanp m).sides = x.sides :=
  by unfold Core.addNanp; split <;> rfl
@[simp] theorem Core.addNanp_passNan (x : Core) (m : Bool) : (x.addNanp m).passNan = x.passNan :=
  by unfold Core.addNanp; split <;> rfl
@[simp] theorem Core.addNanp_passBad (x : Core) (m : Bool) : (x.addNanp m).passBad = x.passBad :=
  by unfold Core.addNanp; split <;> rfl
@[simp] theorem Core.addNanp_stationary (x : Core) (m : Bool) : (x.addNanp m).stationary = x.stationary :=
  by unfold Core.addNanp; split <;> rfl
@[simp] theorem Core.addNanp_planeBufs (x : Core) (m : Bool) : (x.addNanp m).planeBufs = x.planeBufs :=
  by unfold Core.addNanp; split <;> rfl
@[simp] theorem Core.addNanp_queue (x : Core) (m : Bool) : (x.addNanp m).queue = x.queue :=
  by unfold Core.addNanp; split <;> rfl
@[simp] theorem Core.addNanp_issueSeq (x : Core) (m : Bool) : (x.addNanp m).issueSeq = x.issueSeq :=
  by unfold Core.addNanp; split <;> rfl
@[simp] theorem Core.addNanp_lastWide (x : Core) (m : Bool) : (x.addNanp m).lastWide = x.lastWide :=
  by unfold Core.addNanp; split <;> rfl
@[simp] theorem Core.addNanp_counted (x : Core) (m : Bool) : (x.addNanp m).counted = x.counted :=
  by unfold Core.addNanp; split <;> rfl
@[simp] theorem Core.addNanp_haltedAt (x : Core) (m : Bool) : (x.addNanp m).haltedAt = x.haltedAt :=
  by unfold Core.addNanp; split <;> rfl
@[simp] theorem Core.addNanp_rd (x : Core) (m : Bool) (k : Nat) : (x.addNanp m).rd k = x.rd k := by simp [Core.rd]
@[simp] theorem Core.addNanp_rdP (x : Core) (m : Bool) (k : Nat) : (x.addNanp m).rdP k = x.rdP k := by simp [Core.rdP]
@[simp] theorem Core.addNanp_vec (x : Core) (m : Bool) (k : Nat) : (x.addNanp m).vec k = x.vec k := by simp [Core.vec]
@[simp] theorem Core.addNanp_vecP (x : Core) (m : Bool) (k : Nat) : (x.addNanp m).vecP k = x.vecP k :=
  by simp [Core.vecP]

/-! ## Registers -/

/-- Scalar registers after one is written; g0 stays zero. -/
theorem Core.wr_rd (x : Core) (d : Nat) (v : BitVec 64) (p : Bool) (r : Nat) :
    (x.wr d v p).rd r = if r = d ∧ r ≠ 0 then v else x.rd r := by
  by_cases h0 : r = 0 <;> by_cases hd : d = 0 <;> by_cases hr : r = d <;>
    simp_all [Core.rd, Core.wr, Sparse.get_set]

theorem Core.wr_rdP (x : Core) (d : Nat) (v : BitVec 64) (p : Bool) (r : Nat) :
    (x.wr d v p).rdP r = if r = d ∧ r ≠ 0 then p else x.rdP r := by
  by_cases h0 : r = 0 <;> by_cases hd : d = 0 <;> by_cases hr : r = d <;>
    simp_all [Core.rdP, Core.wr, Sparse.get_set]

/-- Digit i of a packed number. -/
theorem packLE_digit (w : Nat) : ∀ (ls : List Nat) (i : Nat), (∀ l ∈ ls, l < 2 ^ w) →
    (packLE w ls >>> (w * i)) % 2 ^ w = ls.getD i 0
  | [], i, _ => by simp [packLE]
  | l :: ls, 0, h => by
    have : l < 2 ^ w := h l (by simp)
    simp [packLE, Nat.mod_eq_of_lt this]
  | l :: ls, i + 1, h => by
    have hl : l < 2 ^ w := h l (by simp)
    have ih := packLE_digit w ls i (fun a ha => h a (by simp [ha]))
    have e : packLE w (l :: ls) >>> (w * (i + 1)) = packLE w ls >>> (w * i) := by
      rw [Nat.mul_add, Nat.mul_one, Nat.add_comm, Nat.shiftRight_add]
      congr 1
      rw [packLE, Nat.mod_eq_of_lt hl, Nat.shiftRight_eq_div_pow, Nat.add_mul_div_left _ _ (Nat.two_pow_pos w),
        Nat.div_eq_of_lt hl, Nat.zero_add]
    rw [e, ih]; simp

/-- A packed number is below the power of its width. -/
theorem packLE_lt (w : Nat) : ∀ ls : List Nat, packLE w ls < 2 ^ (w * ls.length)
  | [] => by simp [packLE]
  | l :: ls => by
    have ih := packLE_lt w ls
    have hl : l % 2 ^ w < 2 ^ w := Nat.mod_lt _ (Nat.two_pow_pos w)
    have : packLE w ls + 1 ≤ 2 ^ (w * ls.length) := ih
    calc packLE w (l :: ls) = l % 2 ^ w + 2 ^ w * packLE w ls := rfl
      _ < 2 ^ w * (packLE w ls + 1) := by rw [Nat.mul_add]; omega
      _ ≤ 2 ^ w * 2 ^ (w * ls.length) := Nat.mul_le_mul_left _ this
      _ = 2 ^ (w * (l :: ls).length) := by rw [← Nat.pow_add]; congr 1; simp [Nat.mul_add]; omega

/-- A vector register reads the 64 lanes written to it. -/
theorem Core.wrVec_vec_same (x : Core) (d : Nat) (ls : List F32) (p : Bool) (h : ls.length = 64) :
    (x.wrVec d ls p).vec d = ls := by
  apply List.ext_getElem
  · simp [Core.vec, h]
  · intro i h1 h2
    have lt := packLE_lt 32 (ls.map BitVec.toNat)
    simp only [List.length_map, h] at lt
    have dg := packLE_digit 32 (ls.map BitVec.toNat) i (by
      intro l hl; simp at hl; obtain ⟨a, _, rfl⟩ := hl; exact a.isLt)
    simp only [Core.vec, Core.wrVec, packVec, Sparse.get_set_same, List.getElem_map, List.getElem_range]
    apply BitVec.eq_of_toNat_eq
    have e : (32 * 64 : Nat) = 2048 := rfl
    rw [e] at lt
    rw [BitVec.toNat_ofNat, BitVec.toNat_ofNat, Nat.mod_eq_of_lt lt, dg]
    simp [h2]

/-- Every other vector register keeps its lanes. -/
theorem Core.wrVec_vec_other (x : Core) (d r : Nat) (ls : List F32) (p : Bool) (h : r ≠ d) :
    (x.wrVec d ls p).vec r = x.vec r := by
  simp [Core.vec, Core.wrVec, Sparse.get_set_other _ _ _ _ _ h]

theorem Core.wrVec_vecP (x : Core) (d r : Nat) (ls : List F32) (p : Bool) :
    (x.wrVec d ls p).vecP r = if r = d then p else x.vecP r := by
  simp [Core.vecP, Core.wrVec, Sparse.get_set]

/-- A vector register has 64 lanes. -/
@[simp] theorem Core.vec_length (x : Core) (r : Nat) : (x.vec r).length = 64 := by simp [Core.vec]

end Sys2Proof.Machine
end

