-- ==== Sys2Proof/Laws/Exec.lean ====
section
/-! SUPPORT. The arms of `exec`, one equation per command. -/

namespace Sys2Proof.Machine

theorem exec_nop (c : CoreId) (f : Fields) (s : State) : exec (.nop c f) s = execNop c f s := rfl
theorem exec_endTask (c : CoreId) (f : Fields) (s : State) : exec (.endTask c f) s = execEndTask c f s := rfl
theorem exec_add (c : CoreId) (f : Fields) (s : State) : exec (.add c f) s = execAdd c f s := rfl
theorem exec_sub (c : CoreId) (f : Fields) (s : State) : exec (.sub c f) s = execSub c f s := rfl
theorem exec_and_ (c : CoreId) (f : Fields) (s : State) : exec (.and_ c f) s = execAnd c f s := rfl
theorem exec_or_ (c : CoreId) (f : Fields) (s : State) : exec (.or_ c f) s = execOr c f s := rfl
theorem exec_xor_ (c : CoreId) (f : Fields) (s : State) : exec (.xor_ c f) s = execXor c f s := rfl
theorem exec_shl (c : CoreId) (f : Fields) (s : State) : exec (.shl c f) s = execShl c f s := rfl
theorem exec_shr (c : CoreId) (f : Fields) (s : State) : exec (.shr c f) s = execShr c f s := rfl
theorem exec_sar (c : CoreId) (f : Fields) (s : State) : exec (.sar c f) s = execSar c f s := rfl
theorem exec_mul (c : CoreId) (f : Fields) (s : State) : exec (.mul c f) s = execMul c f s := rfl
theorem exec_slt (c : CoreId) (f : Fields) (s : State) : exec (.slt c f) s = execSlt c f s := rfl
theorem exec_sltu (c : CoreId) (f : Fields) (s : State) : exec (.sltu c f) s = execSltu c f s := rfl
theorem exec_seq (c : CoreId) (f : Fields) (s : State) : exec (.seq c f) s = execSeq c f s := rfl
theorem exec_li (c : CoreId) (f : Fields) (s : State) : exec (.li c f) s = execLi c f s := rfl
theorem exec_br (c : CoreId) (f : Fields) (s : State) : exec (.br c f) s = execBr c f s := rfl
theorem exec_beq (c : CoreId) (f : Fields) (s : State) : exec (.beq c f) s = execBeq c f s := rfl
theorem exec_bne (c : CoreId) (f : Fields) (s : State) : exec (.bne c f) s = execBne c f s := rfl
theorem exec_blt (c : CoreId) (f : Fields) (s : State) : exec (.blt c f) s = execBlt c f s := rfl
theorem exec_bge (c : CoreId) (f : Fields) (s : State) : exec (.bge c f) s = execBge c f s := rfl
theorem exec_loop (c : CoreId) (f : Fields) (s : State) : exec (.loop c f) s = execLoop c f s := rfl
theorem exec_jal (c : CoreId) (f : Fields) (s : State) : exec (.jal c f) s = execJal c f s := rfl
theorem exec_jr (c : CoreId) (f : Fields) (s : State) : exec (.jr c f) s = execJr c f s := rfl
theorem exec_pop (c : CoreId) (f : Fields) (stop : Option Nat) (s : State) :
    exec (.pop c f stop) s = execPop c f stop s := rfl
theorem exec_push (c : CoreId) (f : Fields) (stop : Option Nat) (s : State) :
    exec (.push c f stop) s = execPush c f stop s := rfl
theorem exec_popv (c : CoreId) (f : Fields) (s : State) : exec (.popv c f) s = execPopv c f s := rfl
theorem exec_pushv (c : CoreId) (f : Fields) (s : State) : exec (.pushv c f) s = execPushv c f s := rfl
theorem exec_mark (c : CoreId) (f : Fields) (s : State) : exec (.mark c f) s = execMark c f s := rfl
theorem exec_peek (c : CoreId) (f : Fields) (s : State) : exec (.peek c f) s = execPeek c f s := rfl
theorem exec_dropm (c : CoreId) (f : Fields) (s : State) : exec (.dropm c f) s = execDropm c f s := rfl
theorem exec_bcopy (c : CoreId) (f : Fields) (stop : Option Nat) (s : State) :
    exec (.bcopy c f stop) s = execBcopy c f stop s := rfl
theorem exec_rdw (c : CoreId) (f : Fields) (s : State) : exec (.rdw c f) s = execRdw c f s := rfl
theorem exec_ldv (c : CoreId) (f : Fields) (s : State) : exec (.ldv c f) s = execLdv c f s := rfl
theorem exec_stv (c : CoreId) (f : Fields) (s : State) : exec (.stv c f) s = execStv c f s := rfl
theorem exec_rread (c : CoreId) (f : Fields) (s : State) : exec (.rread c f) s = execRread c f s := rfl
theorem exec_rwrite (c : CoreId) (f : Fields) (stop : Option Nat) (s : State) :
    exec (.rwrite c f stop) s = execRwrite c f stop s := rfl
theorem exec_wset (c : CoreId) (f : Fields) (s : State) : exec (.wset c f) s = execWset c f s := rfl
theorem exec_wclr (c : CoreId) (f : Fields) (s : State) : exec (.wclr c f) s = execWclr c f s := rfl
theorem exec_mreg (c : CoreId) (f : Fields) (stop : Option Nat) (s : State) :
    exec (.mreg c f stop) s = execMreg c f stop s := rfl
theorem exec_mpass (c : CoreId) (f : Fields) (conflict : Option (BitVec 15 × BitVec 2)) (stop : Option Nat)
    (wload : Nat) (s : State) :
    exec (.mpass c f conflict stop wload) s = execMpass c f conflict stop wload s := rfl
theorem exec_vadd (c : CoreId) (f : Fields) (s : State) : exec (.vadd c f) s = execVadd c f s := rfl
theorem exec_vsub (c : CoreId) (f : Fields) (s : State) : exec (.vsub c f) s = execVsub c f s := rfl
theorem exec_vmul (c : CoreId) (f : Fields) (s : State) : exec (.vmul c f) s = execVmul c f s := rfl
theorem exec_vfma (c : CoreId) (f : Fields) (s : State) : exec (.vfma c f) s = execVfma c f s := rfl
theorem exec_vmin (c : CoreId) (f : Fields) (s : State) : exec (.vmin c f) s = execVmin c f s := rfl
theorem exec_vmax (c : CoreId) (f : Fields) (s : State) : exec (.vmax c f) s = execVmax c f s := rfl
theorem exec_vabs (c : CoreId) (f : Fields) (s : State) : exec (.vabs c f) s = execVabs c f s := rfl
theorem exec_vneg (c : CoreId) (f : Fields) (s : State) : exec (.vneg c f) s = execVneg c f s := rfl
theorem exec_vcsgn (c : CoreId) (f : Fields) (s : State) : exec (.vcsgn c f) s = execVcsgn c f s := rfl
theorem exec_vcmp (c : CoreId) (f : Fields) (s : State) : exec (.vcmp c f) s = execVcmp c f s := rfl
theorem exec_vsel (c : CoreId) (f : Fields) (s : State) : exec (.vsel c f) s = execVsel c f s := rfl
theorem exec_vrcp (c : CoreId) (f : Fields) (s : State) : exec (.vrcp c f) s = execVrcp c f s := rfl
theorem exec_vrsq (c : CoreId) (f : Fields) (s : State) : exec (.vrsq c f) s = execVrsq c f s := rfl
theorem exec_vexp (c : CoreId) (f : Fields) (s : State) : exec (.vexp c f) s = execVexp c f s := rfl
theorem exec_vlog (c : CoreId) (f : Fields) (s : State) : exec (.vlog c f) s = execVlog c f s := rfl
theorem exec_vhsum (c : CoreId) (f : Fields) (s : State) : exec (.vhsum c f) s = execVhsum c f s := rfl
theorem exec_vhmax (c : CoreId) (f : Fields) (s : State) : exec (.vhmax c f) s = execVhmax c f s := rfl
theorem exec_vsmx (c : CoreId) (f : Fields) (s : State) : exec (.vsmx c f) s = execVsmx c f s := rfl
theorem exec_vsmxn (c : CoreId) (f : Fields) (s : State) : exec (.vsmxn c f) s = execVsmxn c f s := rfl
theorem exec_vacc (c : CoreId) (f : Fields) (s : State) : exec (.vacc c f) s = execVacc c f s := rfl
theorem exec_vmovs (c : CoreId) (f : Fields) (s : State) : exec (.vmovs c f) s = execVmovs c f s := rfl
theorem exec_vbcast (c : CoreId) (f : Fields) (s : State) : exec (.vbcast c f) s = execVbcast c f s := rfl
theorem exec_qcw (c : CoreId) (f : Fields) (s : State) : exec (.qcw c f) s = execQcw c f s := rfl
theorem exec_qcb (c : CoreId) (f : Fields) (s : State) : exec (.qcb c f) s = execQcb c f s := rfl
theorem exec_qcvt (c : CoreId) (f : Fields) (stop : Option Nat) (s : State) :
    exec (.qcvt c f stop) s = execQcvt c f stop s := rfl
theorem exec_qflush (c : CoreId) (f : Fields) (stop : Option Nat) (s : State) :
    exec (.qflush c f stop) s = execQflush c f stop s := rfl
theorem exec_waitu (c : CoreId) (f : Fields) (s : State) : exec (.waitu c f) s = execWaitu c f s := rfl
theorem exec_fencer (c : CoreId) (f : Fields) (s : State) : exec (.fencer c f) s = execFencer c f s := rfl
theorem exec_arrive (c : CoreId) (f : Fields) (s : State) : exec (.arrive c f) s = execArrive c f s := rfl
theorem exec_waitb (c : CoreId) (f : Fields) (s : State) : exec (.waitb c f) s = execWaitb c f s := rfl
theorem exec_rdsys (c : CoreId) (f : Fields) (s : State) : exec (.rdsys c f) s = execRdsys c f s := rfl
theorem exec_trap (c : CoreId) (f : Fields) (s : State) : exec (.trap c f) s = execTrap c f s := rfl
theorem exec_tmask (c : CoreId) (f : Fields) (s : State) : exec (.tmask c f) s = execTmask c f s := rfl
theorem exec_topk (c : CoreId) (f : Fields) (stop : Option Nat) (s : State) :
    exec (.topk c f stop) s = execTopk c f stop s := rfl
theorem exec_taskDispatch (c : CoreId) (record : BitVec 512) (s : State) :
    exec (.taskDispatch c record) s = execTaskDispatch c record s := rfl
theorem exec_taskRetire (c : CoreId) (s : State) : exec (.taskRetire c) s = execTaskRetire c s := rfl
theorem exec_halt (c : CoreId) (s : State) : exec (.halt c) s = execHalt c s := rfl
theorem exec_coreHalted (c : CoreId) (s : State) : exec (.coreHalted c) s = execCoreHalted c s := rfl
theorem exec_coreDeadTimeout (c : CoreId) (s : State) : exec (.coreDeadTimeout c) s = execCoreDeadTimeout c s := rfl
theorem exec_coreReset (c : CoreId) (q : Option Desc) (s : State) :
    exec (.coreReset c q) s = execCoreReset c q s := rfl
theorem exec_coupeReset (k : CoupeId) (q : Option Desc) (s : State) :
    exec (.coupeReset k q) s = execCoupeReset k q s := rfl
theorem exec_benchStarvation (c : CoreId) (row : BitVec 15) (kind : NarrowKind) (s : State) :
    exec (.benchStarvation c row kind) s = execBenchStarvation c row kind s := rfl
theorem exec_scrubRow (c : CoreId) (s : State) : exec (.scrubRow c) s = execScrubRow c s := rfl
theorem exec_remoteReadRequest (c : CoreId) (s : State) :
    exec (.remoteReadRequest c) s = execRemoteReadRequest c s := rfl
theorem exec_remoteReadReply (c : CoreId) (s : State) : exec (.remoteReadReply c) s = execRemoteReadReply c s := rfl
theorem exec_windowRowArrival (c : CoreId) (s : State) : exec (.windowRowArrival c) s = execWindowRowArrival c s := rfl
theorem exec_rwriteAcknowledgement (c : CoreId) (s : State) :
    exec (.rwriteAcknowledgement c) s = execRwriteAcknowledgement c s := rfl
theorem exec_streamRowArrival (k : CoupeId) (h : BitVec 16) (s : State) :
    exec (.streamRowArrival k h) s = execStreamRowArrival k h s := rfl
theorem exec_slackRefill (k : CoupeId) (h : BitVec 16) (s : State) :
    exec (.slackRefill k h) s = execSlackRefill k h s := rfl
theorem exec_creditReturn (k : CoupeId) (h : BitVec 16) (s : State) :
    exec (.creditReturn k h) s = execCreditReturn k h s := rfl
theorem exec_skidRow (k : CoupeId) (c : CoreId) (s : State) : exec (.skidRow k c) s = execSkidRow k c s := rfl
theorem exec_barrierArrival (a : Arrival) (s : State) : exec (.barrierArrival a) s = execBarrierArrival a s := rfl
theorem exec_moverTransfer (m : MoverId) (w : BitVec 512) (n : Nat) (host : HostRows) (s : State) :
    exec (.moverTransfer m w n host) s = execMoverTransfer m w n host s := rfl
theorem exec_moverTransferComplete (m : MoverId) (host : HostRows) (s : State) :
    exec (.moverTransferComplete m host) s = execMoverTransferComplete m host s := rfl
theorem exec_transferDeadline (m : MoverId) (s : State) :
    exec (.transferDeadline m) s = execTransferDeadline m s := rfl
theorem exec_allocationRetry (p : Pool) (s : State) : exec (.allocationRetry p) s = execAllocationRetry p s := rfl
theorem exec_allocationWaitExpiry (p : Pool) (s : State) :
    exec (.allocationWaitExpiry p) s = execAllocationWaitExpiry p s := rfl
theorem exec_memoryPatrol (unit : Fin 24) (s : State) : exec (.memoryPatrol unit) s = execMemoryPatrol unit s := rfl
theorem exec_doorbellWrite (r : RingId) (count : BitVec 32) (s : State) :
    exec (.doorbellWrite r count) s = execDoorbellWrite r count s := rfl
theorem exec_pollRound (counts : List (RingId × BitVec 32)) (s : State) :
    exec (.pollRound counts) s = execPollRound counts s := rfl
theorem exec_descriptorFetch (ds : Option (List (BitVec 512))) (s : State) :
    exec (.descriptorFetch ds) s = execDescriptorFetch ds s := rfl
theorem exec_commit (s : State) : exec (.commit) s = execCommit s := rfl
theorem exec_bark (s : State) : exec (.bark) s = execBark s := rfl
theorem exec_loadImage (q : Desc) (shards : List ShardRead) (s : State) :
    exec (.loadImage q shards) s = execLoadImage q shards s := rfl
theorem exec_unloadImage (q : Desc) (s : State) : exec (.unloadImage q) s = execUnloadImage q s := rfl
theorem exec_bind (q : Desc) (s : State) : exec (.bind q) s = execBind q s := rfl
theorem exec_drain (q : Desc) (s : State) : exec (.drain q) s = execDrain q s := rfl
theorem exec_coupeDrained (k : CoupeId) (s : State) : exec (.coupeDrained k) s = execCoupeDrained k s := rfl
theorem exec_coupeCreate (q : Desc) (s : State) : exec (.coupeCreate q) s = execCoupeCreate q s := rfl
theorem exec_coupeSet (q : Desc) (s : State) : exec (.coupeSet q) s = execCoupeSet q s := rfl
theorem exec_coupeDestroy (q : Desc) (s : State) : exec (.coupeDestroy q) s = execCoupeDestroy q s := rfl
theorem exec_coupePreempt (q : Desc) (s : State) : exec (.coupePreempt q) s = execCoupePreempt q s := rfl
theorem exec_coupeQuiesced (k : CoupeId) (s : State) : exec (.coupeQuiesced k) s = execCoupeQuiesced k s := rfl
theorem exec_saveComplete (k : CoupeId) (s : State) : exec (.saveComplete k) s = execSaveComplete k s := rfl
theorem exec_coupeResume (q : Desc) (s : State) : exec (.coupeResume q) s = execCoupeResume q s := rfl
theorem exec_resumeComplete (k : CoupeId) (s : State) : exec (.resumeComplete k) s = execResumeComplete k s := rfl
theorem exec_jobSwitch (k : CoupeId) (s : State) : exec (.jobSwitch k) s = execJobSwitch k s := rfl
theorem exec_spanSet (q : Desc) (s : State) : exec (.spanSet q) s = execSpanSet q s := rfl
theorem exec_saltSet (q : Desc) (s : State) : exec (.saltSet q) s = execSaltSet q s := rfl
theorem exec_saltUnset (q : Desc) (s : State) : exec (.saltUnset q) s = execSaltUnset q s := rfl
theorem exec_expertMap (q : Desc) (map : HostRead) (s : State) :
    exec (.expertMap q map) s = execExpertMap q map s := rfl
theorem exec_selfTest (q : Desc) (s : State) : exec (.selfTest q) s = execSelfTest q s := rfl
theorem exec_selfTestComplete (target : BitVec 8) (index : BitVec 16) (finding : TestFinding) (s : State) :
    exec (.selfTestComplete target index finding) s = execSelfTestComplete target index finding s := rfl
theorem exec_repairSoft (q : Desc) (s : State) : exec (.repairSoft q) s = execRepairSoft q s := rfl
theorem exec_repairHard (q : Desc) (s : State) : exec (.repairHard q) s = execRepairHard q s := rfl
theorem exec_ringSet (q : Desc) (entry : BitVec 512) (s : State) :
    exec (.ringSet q entry) s = execRingSet q entry s := rfl
theorem exec_power (q : Desc) (s : State) : exec (.power q) s = execPower q s := rfl
theorem exec_clock (q : Desc) (s : State) : exec (.clock q) s = execClock q s := rfl
theorem exec_clockChangeApply (g : StandId) (s : State) :
    exec (.clockChangeApply g) s = execClockChangeApply g s := rfl
theorem exec_ballast (q : Desc) (s : State) : exec (.ballast q) s = execBallast q s := rfl
theorem exec_ballastUpdate (inputPower : BitVec 16) (s : State) :
    exec (.ballastUpdate inputPower) s = execBallastUpdate inputPower s := rfl
theorem exec_seqOpen (q : Desc) (tokens : HostRead) (s : State) :
    exec (.seqOpen q tokens) s = execSeqOpen q tokens s := rfl
theorem exec_seqClose (q : Desc) (s : State) : exec (.seqClose q) s = execSeqClose q s := rfl
theorem exec_cancel (q : Desc) (s : State) : exec (.cancel q) s = execCancel q s := rfl
theorem exec_cancelImmediate (q : Desc) (s : State) : exec (.cancelImmediate q) s = execCancelImmediate q s := rfl
theorem exec_cancelRelease (slot : SlotId) (s : State) : exec (.cancelRelease slot) s = execCancelRelease slot s := rfl
theorem exec_pin (q : Desc) (s : State) : exec (.pin q) s = execPin q s := rfl
theorem exec_unpin (q : Desc) (s : State) : exec (.unpin q) s = execUnpin q s := rfl
theorem exec_unpinAll (q : Desc) (s : State) : exec (.unpinAll q) s = execUnpinAll q s := rfl
theorem exec_step (q : Desc) (s : State) : exec (.step q) s = execStep q s := rfl
theorem exec_prefill (q : Desc) (src : HostRead) (s : State) : exec (.prefill q src) s = execPrefill q src s := rfl
theorem exec_verify (q : Desc) (src : HostRead) (s : State) : exec (.verify q src) s = execVerify q src s := rfl
theorem exec_fence (q : Desc) (s : State) : exec (.fence q) s = execFence q s := rfl
theorem exec_fenceExpired (q : Desc) (s : State) : exec (.fenceExpired q) s = execFenceExpired q s := rfl
theorem exec_nopDescriptor (q : Desc) (s : State) : exec (.nopDescriptor q) s = execNopDescriptor q s := rfl
theorem exec_stepOpen (k : CoupeId) (rearm : HostRead) (s : State) :
    exec (.stepOpen k rearm) s = execStepOpen k rearm s := rfl
theorem exec_thresholdRouteDispatch (k : CoupeId) (layer : BitVec 16) (s : State) :
    exec (.thresholdRouteDispatch k layer) s = execThresholdRouteDispatch k layer s := rfl
theorem exec_sentinelEvaluation (s : State) : exec (.sentinelEvaluation) s = execSentinelEvaluation s := rfl
theorem exec_shardDeadline (k : CoupeId) (s : State) : exec (.shardDeadline k) s = execShardDeadline k s := rfl
theorem exec_stepReplay (k : CoupeId) (s : State) : exec (.stepReplay k) s = execStepReplay k s := rfl
theorem exec_patrol (c : CoreId) (firstOk secondOk : Bool) (s : State) :
    exec (.patrol c firstOk secondOk) s = execPatrol c firstOk secondOk s := rfl
theorem exec_benchMoveComplete (c : CoreId) (s : State) :
    exec (.benchMoveComplete c) s = execBenchMoveComplete c s := rfl
theorem exec_scentRebuild (s : State) : exec (.scentRebuild) s = execScentRebuild s := rfl
theorem exec_standLost (g : StandId) (cause : StandCause) (s : State) :
    exec (.standLost g cause) s = execStandLost g cause s := rfl
theorem exec_sramDieFailure (sec : SectorId) (die : BitVec 2) (s : State) :
    exec (.sramDieFailure sec die) s = execSramDieFailure sec die s := rfl
theorem exec_deckStackFailure (sec : SectorId) (s : State) :
    exec (.deckStackFailure sec) s = execDeckStackFailure sec s := rfl
theorem exec_yardChannelFailure (ch : ChannelId) (s : State) :
    exec (.yardChannelFailure ch) s = execYardChannelFailure ch s := rfl
theorem exec_sensorPoll (readings : List (Sensor × Int)) (s : State) :
    exec (.sensorPoll readings) s = execSensorPoll readings s := rfl
theorem exec_thermalTrip (g : StandId) (s : State) : exec (.thermalTrip g) s = execThermalTrip g s := rfl
theorem exec_tripWarmResetRelease (hottest : Int) (s : State) :
    exec (.tripWarmResetRelease hottest) s = execTripWarmResetRelease hottest s := rfl
theorem exec_auxPowerOn (s : State) : exec (.auxPowerOn) s = execAuxPowerOn s := rfl
theorem exec_auxPowerLoss (s : State) : exec (.auxPowerLoss) s = execAuxPowerLoss s := rfl
theorem exec_mainPowerOn (mv : BitVec 17) (s : State) : exec (.mainPowerOn mv) s = execMainPowerOn mv s := rfl
theorem exec_mainPowerLoss (s : State) : exec (.mainPowerLoss) s = execMainPowerLoss s := rfl
theorem exec_railRampTimeout (rail : Rail) (n : BitVec 8) (reading : RailReading) (s : State) :
    exec (.railRampTimeout rail n reading) s = execRailRampTimeout rail n reading s := rfl
theorem exec_railRetry (rail : Rail) (n : BitVec 8) (s : State) :
    exec (.railRetry rail n) s = execRailRetry rail n s := rfl
theorem exec_railOutOfRegulation (rail : Rail) (n : BitVec 8) (reading : RailReading) (s : State) :
    exec (.railOutOfRegulation rail n reading) s = execRailOutOfRegulation rail n reading s := rfl
theorem exec_bringUpComplete (found : BringUp) (s : State) :
    exec (.bringUpComplete found) s = execBringUpComplete found s := rfl
theorem exec_standCalibrated (g : StandId) (mv : BitVec 10) (s : State) :
    exec (.standCalibrated g mv) s = execStandCalibrated g mv s := rfl
theorem exec_coldReset (t : ResetTrigger) (s : State) : exec (.coldReset t) s = execColdReset t s := rfl
theorem exec_warmReset (t : ResetTrigger) (s : State) : exec (.warmReset t) s = execWarmReset t s := rfl
theorem exec_perstRelease (s : State) : exec (.perstRelease) s = execPerstRelease s := rfl
theorem exec_functionLevelReset (f : BitVec 3) (s : State) :
    exec (.functionLevelReset f) s = execFunctionLevelReset f s := rfl
theorem exec_busMasterEnable (f : BitVec 3) (s : State) : exec (.busMasterEnable f) s = execBusMasterEnable f s := rfl
theorem exec_hostLinkRetrain (s : State) : exec (.hostLinkRetrain) s = execHostLinkRetrain s := rfl
theorem exec_hostLinkRestored (rate : BitVec 3) (width : BitVec 3) (s : State) :
    exec (.hostLinkRestored rate width) s = execHostLinkRestored rate width s := rfl
theorem exec_cxlCacheEnableChange (on : Bool) (counts : List (RingId × BitVec 32)) (s : State) :
    exec (.cxlCacheEnableChange on counts) s = execCxlCacheEnableChange on counts s := rfl
theorem exec_wholeDeviceDrain (s : State) : exec (.wholeDeviceDrain) s = execWholeDeviceDrain s := rfl
theorem exec_rangerWatchdog (s : State) : exec (.rangerWatchdog) s = execRangerWatchdog s := rfl
theorem exec_telemetrySample (s : State) : exec (.telemetrySample) s = execTelemetrySample s := rfl
theorem exec_firmwareUpdate (ranger verified : Bool) (version : BitVec 16) (s : State) :
    exec (.firmwareUpdate ranger verified version) s = execFirmwareUpdate ranger verified version s := rfl
theorem exec_coordinateRecord (w : BitVec 128) (s : State) :
    exec (.coordinateRecord w) s = execCoordinateRecord w s := rfl
theorem exec_setupLock (table : Option (List RingEntry)) (s : State) :
    exec (.setupLock table) s = execSetupLock table s := rfl
theorem exec_warmRst (alsoLock : Bool) (s : State) : exec (.warmRst alsoLock) s = execWarmRst alsoLock s := rfl
theorem exec_registerWrite (f : BitVec 3) (offset : BitVec 20) (size : BitVec 4) (value : BitVec 64) (s : State) :
    exec (.registerWrite f offset size value) s = execRegisterWrite f offset size value s := rfl
theorem exec_linkSignalDetect (l : LinkId) (lanes : BitVec 4) (s : State) :
    exec (.linkSignalDetect l lanes) s = execLinkSignalDetect l lanes s := rfl
theorem exec_linkTrainComplete (l : LinkId) (lanes : BitVec 4) (half : Bool) (s : State) :
    exec (.linkTrainComplete l lanes half) s = execLinkTrainComplete l lanes half s := rfl
theorem exec_linkTrainTimeout (l : LinkId) (s : State) : exec (.linkTrainTimeout l) s = execLinkTrainTimeout l s := rfl
theorem exec_linkProbeRetry (l : LinkId) (s : State) : exec (.linkProbeRetry l) s = execLinkProbeRetry l s := rfl
theorem exec_linkAuth (l : LinkId) (r : AuthResult) (s : State) : exec (.linkAuth l r) s = execLinkAuth l r s := rfl
theorem exec_linkAuthTimeout (l : LinkId) (s : State) : exec (.linkAuthTimeout l) s = execLinkAuthTimeout l s := rfl
theorem exec_linkSignalLoss (l : LinkId) (s : State) : exec (.linkSignalLoss l) s = execLinkSignalLoss l s := rfl
theorem exec_linkErrorFallback (l : LinkId) (errors : LinkErrors) (s : State) :
    exec (.linkErrorFallback l errors) s = execLinkErrorFallback l errors s := rfl
theorem exec_linkFence (l : LinkId) (cause : FenceCause) (s : State) :
    exec (.linkFence l cause) s = execLinkFence l cause s := rfl
theorem exec_linkNak (l : LinkId) (ack : BitVec 8) (s : State) : exec (.linkNak l ack) s = execLinkNak l ack s := rfl
theorem exec_row (l : LinkId) (header : BitVec 128) (data : Row) (s : State) :
    exec (.row l header data) s = execRow l header data s := rfl
theorem exec_credit (l : LinkId) (header : BitVec 128) (count : BitVec 8) (s : State) :
    exec (.credit l header count) s = execCredit l header count s := rfl
theorem exec_outcome (l : LinkId) (header : BitVec 128) (xtag : BitVec 32) (attempt : BitVec 2) (nreq : BitVec 7)
    (status : BitVec 8) (statuses : List (BitVec 8)) (digest : Option (BitVec 64)) (count : BitVec 9) (s : State) :
    exec (.outcome l header xtag attempt nreq status statuses digest count) s
      = execOutcome l header xtag attempt nreq status statuses digest count s := rfl
theorem exec_flush (l : LinkId) (header : BitVec 128) (s : State) :
    exec (.flush l header) s = execFlush l header s := rfl
theorem exec_announce (l : LinkId) (header : BitVec 128) (members : List (BitVec 16 × BitVec 8)) (reach : BitVec 32)
    (s : State) :
    exec (.announce l header members reach) s = execAnnounce l header members reach s := rfl
theorem exec_bundle (l : LinkId) (header : BitVec 128) (layer : BitVec 16) (sender : BitVec 8) (pairs : List
    (BitVec 128)) (s : State) :
    exec (.bundle l header layer sender pairs) s = execBundle l header layer sender pairs s := rfl
theorem exec_spdm (l : LinkId) (message : BitVec 8) (s : State) :
    exec (.spdm l message) s = execSpdm l message s := rfl
theorem exec_coord (l : LinkId) (record : BitVec 128) (s : State) :
    exec (.coord l record) s = execCoord l record s := rfl
theorem exec_ethWorkRequest (qp : BitVec 10) (func : BitVec 3) (port : Bool) (op : EthOp) (buf : EthBuffer)
    (cost : EthSent) (reply : EthReply) (s : State) :
    exec (.ethWorkRequest qp func port op buf cost reply) s = execEthWorkRequest qp func port op buf cost reply s := rfl
theorem exec_ethFrameReceive (port : Bool) (frame : EthFrame) (s : State) :
    exec (.ethFrameReceive port frame) s = execEthFrameReceive port frame s := rfl
theorem exec_seqImportComplete (qp : BitVec 10) (blocks : List (List (BitVec 32) × List (Row × Bool))) (s : State) :
    exec (.seqImportComplete qp blocks) s = execSeqImportComplete qp blocks s := rfl
theorem exec_ethPortLinkChange (port up : Bool) (s : State) :
    exec (.ethPortLinkChange port up) s = execEthPortLinkChange port up s := rfl
theorem exec_bypass (s : State) : exec (.bypass) s = execBypass s := rfl
theorem exec_idcode (s : State) : exec (.idcode) s = execIdcode s := rfl
theorem exec_samplePreload (s : State) : exec (.samplePreload) s = execSamplePreload s := rfl
theorem exec_extest (s : State) : exec (.extest) s = execExtest s := rfl
theorem exec_clamp (s : State) : exec (.clamp) s = execClamp s := rfl
theorem exec_highz (s : State) : exec (.highz) s = execHighz s := rfl
theorem exec_extestPulse (s : State) : exec (.extestPulse) s = execExtestPulse s := rfl
theorem exec_extestTrain (s : State) : exec (.extestTrain) s = execExtestTrain s := rfl
theorem exec_tapReset (s : State) : exec (.tapReset) s = execTapReset s := rfl
theorem exec_flit (l : LinkId) (w : BitVec 2048) (corrected : Option (BitVec 8)) (s : State) :
    exec (.flit l w corrected) s = execFlit l w corrected s := rfl
theorem exec_fastRetrainComplete (l : LinkId) (s : State) :
    exec (.fastRetrainComplete l) s = execFastRetrainComplete l s := rfl
theorem exec_railInRegulation (rail : Rail) (n : BitVec 8) (s : State) :
    exec (.railInRegulation rail n) s = execRailInRegulation rail n s := rfl
theorem exec_auxReady (s : State) : exec (.auxReady) s = execAuxReady s := rfl
theorem exec_rangerRestart (s : State) : exec (.rangerRestart) s = execRangerRestart s := rfl
theorem exec_releasePoint (s : State) : exec (.releasePoint) s = execReleasePoint s := rfl
theorem exec_wholeDeviceDrainTimeout (s : State) :
    exec (.wholeDeviceDrainTimeout) s = execWholeDeviceDrainTimeout s := rfl
theorem exec_mrefLoss (second : Bool) (s : State) : exec (.mrefLoss second) s = execMrefLoss second s := rfl
theorem exec_coldRstNRelease (s : State) : exec (.coldRstNRelease) s = execColdRstNRelease s := rfl
theorem exec_entdaa (address : BitVec 7) (s : State) : exec (.entdaa address) s = execEntdaa address s := rfl

end Sys2Proof.Machine
end

