-- ==== Sys2Proof/Laws/State.lean ====
section
/-! SUPPORT. One law per field and update of State, and what each accessor reads after each update. -/

namespace Sys2Proof.Machine

/-! ## setCore -/

@[simp] theorem State.setCore_pending (s : State) (c : CoreId) (x : Core) : (s.setCore c x).pending = s.pending := rfl
@[simp] theorem State.setCore_timebase (s : State) (c : CoreId) (x : Core) : (s.setCore c x).timebase = s.timebase := rfl
@[simp] theorem State.setCore_free (s : State) (c : CoreId) (x : Core) : (s.setCore c x).free = s.free := rfl
@[simp] theorem State.setCore_mem (s : State) (c : CoreId) (x : Core) : (s.setCore c x).mem = s.mem := rfl
@[simp] theorem State.setCore_poison (s : State) (c : CoreId) (x : Core) : (s.setCore c x).poison = s.poison := rfl
@[simp] theorem State.setCore_rowErrors (s : State) (c : CoreId) (x : Core) : (s.setCore c x).rowErrors = s.rowErrors := rfl
@[simp] theorem State.setCore_granuleErrors (s : State) (c : CoreId) (x : Core) : (s.setCore c x).granuleErrors = s.granuleErrors := rfl
@[simp] theorem State.setCore_slots (s : State) (c : CoreId) (x : Core) : (s.setCore c x).slots = s.slots := rfl
@[simp] theorem State.setCore_stands (s : State) (c : CoreId) (x : Core) : (s.setCore c x).stands = s.stands := rfl
@[simp] theorem State.setCore_sectors (s : State) (c : CoreId) (x : Core) : (s.setCore c x).sectors = s.sectors := rfl
@[simp] theorem State.setCore_readReqs (s : State) (c : CoreId) (x : Core) : (s.setCore c x).readReqs = s.readReqs := rfl
@[simp] theorem State.setCore_readReplies (s : State) (c : CoreId) (x : Core) : (s.setCore c x).readReplies = s.readReplies := rfl
@[simp] theorem State.setCore_windowRows (s : State) (c : CoreId) (x : Core) : (s.setCore c x).windowRows = s.windowRows := rfl
@[simp] theorem State.setCore_acks (s : State) (c : CoreId) (x : Core) : (s.setCore c x).acks = s.acks := rfl
@[simp] theorem State.setCore_skids (s : State) (c : CoreId) (x : Core) : (s.setCore c x).skids = s.skids := rfl
@[simp] theorem State.setCore_leaseHits (s : State) (c : CoreId) (x : Core) : (s.setCore c x).leaseHits = s.leaseHits := rfl
@[simp] theorem State.setCore_arrivals (s : State) (c : CoreId) (x : Core) : (s.setCore c x).arrivals = s.arrivals := rfl
@[simp] theorem State.setCore_deckStacks (s : State) (c : CoreId) (x : Core) : (s.setCore c x).deckStacks = s.deckStacks := rfl
@[simp] theorem State.setCore_channels (s : State) (c : CoreId) (x : Core) : (s.setCore c x).channels = s.channels := rfl
@[simp] theorem State.setCore_yardMode (s : State) (c : CoreId) (x : Core) : (s.setCore c x).yardMode = s.yardMode := rfl
@[simp] theorem State.setCore_yardGib (s : State) (c : CoreId) (x : Core) : (s.setCore c x).yardGib = s.yardGib := rfl
@[simp] theorem State.setCore_transfers (s : State) (c : CoreId) (x : Core) : (s.setCore c x).transfers = s.transfers := rfl
@[simp] theorem State.setCore_poolWait (s : State) (c : CoreId) (x : Core) : (s.setCore c x).poolWait = s.poolWait := rfl
@[simp] theorem State.setCore_freedGroups (s : State) (c : CoreId) (x : Core) : (s.setCore c x).freedGroups = s.freedGroups := rfl
@[simp] theorem State.setCore_journalA (s : State) (c : CoreId) (x : Core) : (s.setCore c x).journalA = s.journalA := rfl
@[simp] theorem State.setCore_journalB (s : State) (c : CoreId) (x : Core) : (s.setCore c x).journalB = s.journalB := rfl
@[simp] theorem State.setCore_journalOk (s : State) (c : CoreId) (x : Core) : (s.setCore c x).journalOk = s.journalOk := rfl
@[simp] theorem State.setCore_dur (s : State) (c : CoreId) (x : Core) : (s.setCore c x).dur = s.dur := rfl
@[simp] theorem State.setCore_journal (s : State) (c : CoreId) (x : Core) : (s.setCore c x).journal = s.journal := rfl
@[simp] theorem State.setCore_due (s : State) (c : CoreId) (x : Core) : (s.setCore c x).due = s.due := rfl
@[simp] theorem State.setCore_journalDue (s : State) (c : CoreId) (x : Core) : (s.setCore c x).journalDue = s.journalDue := rfl
@[simp] theorem State.setCore_journalSaved (s : State) (c : CoreId) (x : Core) : (s.setCore c x).journalSaved = s.journalSaved := rfl
@[simp] theorem State.setCore_mirror (s : State) (c : CoreId) (x : Core) : (s.setCore c x).mirror = s.mirror := rfl
@[simp] theorem State.setCore_runs (s : State) (c : CoreId) (x : Core) : (s.setCore c x).runs = s.runs := rfl
@[simp] theorem State.setCore_scentRebuild (s : State) (c : CoreId) (x : Core) : (s.setCore c x).scentRebuild = s.scentRebuild := rfl
@[simp] theorem State.setCore_rings (s : State) (c : CoreId) (x : Core) : (s.setCore c x).rings = s.rings := rfl
@[simp] theorem State.setCore_fetchLast (s : State) (c : CoreId) (x : Core) : (s.setCore c x).fetchLast = s.fetchLast := rfl
@[simp] theorem State.setCore_stamp (s : State) (c : CoreId) (x : Core) : (s.setCore c x).stamp = s.stamp := rfl
@[simp] theorem State.setCore_posted (s : State) (c : CoreId) (x : Core) : (s.setCore c x).posted = s.posted := rfl
@[simp] theorem State.setCore_events (s : State) (c : CoreId) (x : Core) : (s.setCore c x).events = s.events := rfl
@[simp] theorem State.setCore_dropped (s : State) (c : CoreId) (x : Core) : (s.setCore c x).dropped = s.dropped := rfl
@[simp] theorem State.setCore_funcReset (s : State) (c : CoreId) (x : Core) : (s.setCore c x).funcReset = s.funcReset := rfl
@[simp] theorem State.setCore_coord (s : State) (c : CoreId) (x : Core) : (s.setCore c x).coord = s.coord := rfl
@[simp] theorem State.setCore_links (s : State) (c : CoreId) (x : Core) : (s.setCore c x).links = s.links := rfl
@[simp] theorem State.setCore_announced (s : State) (c : CoreId) (x : Core) : (s.setCore c x).announced = s.announced := rfl
@[simp] theorem State.setCore_sent (s : State) (c : CoreId) (x : Core) : (s.setCore c x).sent = s.sent := rfl
@[simp] theorem State.setCore_reductions (s : State) (c : CoreId) (x : Core) : (s.setCore c x).reductions = s.reductions := rfl
@[simp] theorem State.setCore_eth (s : State) (c : CoreId) (x : Core) : (s.setCore c x).eth = s.eth := rfl
@[simp] theorem State.setCore_workDone (s : State) (c : CoreId) (x : Core) : (s.setCore c x).workDone = s.workDone := rfl
@[simp] theorem State.setCore_imports (s : State) (c : CoreId) (x : Core) : (s.setCore c x).imports = s.imports := rfl
@[simp] theorem State.setCore_telemetry (s : State) (c : CoreId) (x : Core) : (s.setCore c x).telemetry = s.telemetry := rfl
@[simp] theorem State.setCore_setup (s : State) (c : CoreId) (x : Core) : (s.setCore c x).setup = s.setup := rfl
@[simp] theorem State.setCore_lastLock (s : State) (c : CoreId) (x : Core) : (s.setCore c x).lastLock = s.lastLock := rfl
@[simp] theorem State.setCore_power (s : State) (c : CoreId) (x : Core) : (s.setCore c x).power = s.power := rfl
@[simp] theorem State.setCore_rails (s : State) (c : CoreId) (x : Core) : (s.setCore c x).rails = s.rails := rfl
@[simp] theorem State.setCore_ranger (s : State) (c : CoreId) (x : Core) : (s.setCore c x).ranger = s.ranger := rfl
@[simp] theorem State.setCore_tests (s : State) (c : CoreId) (x : Core) : (s.setCore c x).tests = s.tests := rfl
@[simp] theorem State.setCore_testResults (s : State) (c : CoreId) (x : Core) : (s.setCore c x).testResults = s.testResults := rfl
@[simp] theorem State.setCore_blocks (s : State) (c : CoreId) (x : Core) : (s.setCore c x).blocks = s.blocks := rfl
@[simp] theorem State.setCore_tap (s : State) (c : CoreId) (x : Core) : (s.setCore c x).tap = s.tap := rfl
@[simp] theorem State.setCore_tapHolds (s : State) (c : CoreId) (x : Core) : (s.setCore c x).tapHolds = s.tapHolds := rfl
@[simp] theorem State.setCore_i3c (s : State) (c : CoreId) (x : Core) : (s.setCore c x).i3c = s.i3c := rfl
@[simp] theorem State.setCore_injected (s : State) (c : CoreId) (x : Core) : (s.setCore c x).injected = s.injected := rfl
@[simp] theorem State.setCore_yardRefresh (s : State) (c : CoreId) (x : Core) : (s.setCore c x).yardRefresh = s.yardRefresh := rfl
@[simp] theorem State.setCore_hostOut (s : State) (c : CoreId) (x : Core) : (s.setCore c x).hostOut = s.hostOut := rfl
@[simp] theorem State.setCore_granted (s : State) (c : CoreId) (x : Core) : (s.setCore c x).granted = s.granted := rfl
@[simp] theorem State.setCore_moves (s : State) (c : CoreId) (x : Core) : (s.setCore c x).moves = s.moves := rfl
@[simp] theorem State.setCore_recallLost (s : State) (c : CoreId) (x : Core) : (s.setCore c x).recallLost = s.recallLost := rfl
@[simp] theorem State.setCore_i3cSent (s : State) (c : CoreId) (x : Core) : (s.setCore c x).i3cSent = s.i3cSent := rfl
@[simp] theorem State.setCore_core (s : State) (c : CoreId) (x : Core) : (s.setCore c x).core c = x := by
  simp [State.setCore, State.core]
theorem State.setCore_core_other (s : State) (c : CoreId) (x : Core) (j : CoreId) (h : j ≠ c) :
    (s.setCore c x).core j = s.core j := by
  exact Sparse.get_set_other _ _ _ _ _ (fun e => h (BitVec.toNat_inj.1 e))

/-! ## setSlot -/

@[simp] theorem State.setSlot_pending (s : State) (c : CoreId) (x : Slot) : (s.setSlot c x).pending = s.pending := rfl
@[simp] theorem State.setSlot_timebase (s : State) (c : CoreId) (x : Slot) : (s.setSlot c x).timebase = s.timebase := rfl
@[simp] theorem State.setSlot_free (s : State) (c : CoreId) (x : Slot) : (s.setSlot c x).free = s.free := rfl
@[simp] theorem State.setSlot_mem (s : State) (c : CoreId) (x : Slot) : (s.setSlot c x).mem = s.mem := rfl
@[simp] theorem State.setSlot_poison (s : State) (c : CoreId) (x : Slot) : (s.setSlot c x).poison = s.poison := rfl
@[simp] theorem State.setSlot_rowErrors (s : State) (c : CoreId) (x : Slot) : (s.setSlot c x).rowErrors = s.rowErrors := rfl
@[simp] theorem State.setSlot_granuleErrors (s : State) (c : CoreId) (x : Slot) : (s.setSlot c x).granuleErrors = s.granuleErrors := rfl
@[simp] theorem State.setSlot_cores (s : State) (c : CoreId) (x : Slot) : (s.setSlot c x).cores = s.cores := rfl
@[simp] theorem State.setSlot_stands (s : State) (c : CoreId) (x : Slot) : (s.setSlot c x).stands = s.stands := rfl
@[simp] theorem State.setSlot_sectors (s : State) (c : CoreId) (x : Slot) : (s.setSlot c x).sectors = s.sectors := rfl
@[simp] theorem State.setSlot_readReqs (s : State) (c : CoreId) (x : Slot) : (s.setSlot c x).readReqs = s.readReqs := rfl
@[simp] theorem State.setSlot_readReplies (s : State) (c : CoreId) (x : Slot) : (s.setSlot c x).readReplies = s.readReplies := rfl
@[simp] theorem State.setSlot_windowRows (s : State) (c : CoreId) (x : Slot) : (s.setSlot c x).windowRows = s.windowRows := rfl
@[simp] theorem State.setSlot_acks (s : State) (c : CoreId) (x : Slot) : (s.setSlot c x).acks = s.acks := rfl
@[simp] theorem State.setSlot_skids (s : State) (c : CoreId) (x : Slot) : (s.setSlot c x).skids = s.skids := rfl
@[simp] theorem State.setSlot_leaseHits (s : State) (c : CoreId) (x : Slot) : (s.setSlot c x).leaseHits = s.leaseHits := rfl
@[simp] theorem State.setSlot_arrivals (s : State) (c : CoreId) (x : Slot) : (s.setSlot c x).arrivals = s.arrivals := rfl
@[simp] theorem State.setSlot_deckStacks (s : State) (c : CoreId) (x : Slot) : (s.setSlot c x).deckStacks = s.deckStacks := rfl
@[simp] theorem State.setSlot_channels (s : State) (c : CoreId) (x : Slot) : (s.setSlot c x).channels = s.channels := rfl
@[simp] theorem State.setSlot_yardMode (s : State) (c : CoreId) (x : Slot) : (s.setSlot c x).yardMode = s.yardMode := rfl
@[simp] theorem State.setSlot_yardGib (s : State) (c : CoreId) (x : Slot) : (s.setSlot c x).yardGib = s.yardGib := rfl
@[simp] theorem State.setSlot_transfers (s : State) (c : CoreId) (x : Slot) : (s.setSlot c x).transfers = s.transfers := rfl
@[simp] theorem State.setSlot_poolWait (s : State) (c : CoreId) (x : Slot) : (s.setSlot c x).poolWait = s.poolWait := rfl
@[simp] theorem State.setSlot_freedGroups (s : State) (c : CoreId) (x : Slot) : (s.setSlot c x).freedGroups = s.freedGroups := rfl
@[simp] theorem State.setSlot_journalA (s : State) (c : CoreId) (x : Slot) : (s.setSlot c x).journalA = s.journalA := rfl
@[simp] theorem State.setSlot_journalB (s : State) (c : CoreId) (x : Slot) : (s.setSlot c x).journalB = s.journalB := rfl
@[simp] theorem State.setSlot_journalOk (s : State) (c : CoreId) (x : Slot) : (s.setSlot c x).journalOk = s.journalOk := rfl
@[simp] theorem State.setSlot_dur (s : State) (c : CoreId) (x : Slot) : (s.setSlot c x).dur = s.dur := rfl
@[simp] theorem State.setSlot_journal (s : State) (c : CoreId) (x : Slot) : (s.setSlot c x).journal = s.journal := rfl
@[simp] theorem State.setSlot_due (s : State) (c : CoreId) (x : Slot) : (s.setSlot c x).due = s.due := rfl
@[simp] theorem State.setSlot_journalDue (s : State) (c : CoreId) (x : Slot) : (s.setSlot c x).journalDue = s.journalDue := rfl
@[simp] theorem State.setSlot_journalSaved (s : State) (c : CoreId) (x : Slot) : (s.setSlot c x).journalSaved = s.journalSaved := rfl
@[simp] theorem State.setSlot_mirror (s : State) (c : CoreId) (x : Slot) : (s.setSlot c x).mirror = s.mirror := rfl
@[simp] theorem State.setSlot_runs (s : State) (c : CoreId) (x : Slot) : (s.setSlot c x).runs = s.runs := rfl
@[simp] theorem State.setSlot_scentRebuild (s : State) (c : CoreId) (x : Slot) : (s.setSlot c x).scentRebuild = s.scentRebuild := rfl
@[simp] theorem State.setSlot_rings (s : State) (c : CoreId) (x : Slot) : (s.setSlot c x).rings = s.rings := rfl
@[simp] theorem State.setSlot_fetchLast (s : State) (c : CoreId) (x : Slot) : (s.setSlot c x).fetchLast = s.fetchLast := rfl
@[simp] theorem State.setSlot_stamp (s : State) (c : CoreId) (x : Slot) : (s.setSlot c x).stamp = s.stamp := rfl
@[simp] theorem State.setSlot_posted (s : State) (c : CoreId) (x : Slot) : (s.setSlot c x).posted = s.posted := rfl
@[simp] theorem State.setSlot_events (s : State) (c : CoreId) (x : Slot) : (s.setSlot c x).events = s.events := rfl
@[simp] theorem State.setSlot_dropped (s : State) (c : CoreId) (x : Slot) : (s.setSlot c x).dropped = s.dropped := rfl
@[simp] theorem State.setSlot_funcReset (s : State) (c : CoreId) (x : Slot) : (s.setSlot c x).funcReset = s.funcReset := rfl
@[simp] theorem State.setSlot_coord (s : State) (c : CoreId) (x : Slot) : (s.setSlot c x).coord = s.coord := rfl
@[simp] theorem State.setSlot_links (s : State) (c : CoreId) (x : Slot) : (s.setSlot c x).links = s.links := rfl
@[simp] theorem State.setSlot_announced (s : State) (c : CoreId) (x : Slot) : (s.setSlot c x).announced = s.announced := rfl
@[simp] theorem State.setSlot_sent (s : State) (c : CoreId) (x : Slot) : (s.setSlot c x).sent = s.sent := rfl
@[simp] theorem State.setSlot_reductions (s : State) (c : CoreId) (x : Slot) : (s.setSlot c x).reductions = s.reductions := rfl
@[simp] theorem State.setSlot_eth (s : State) (c : CoreId) (x : Slot) : (s.setSlot c x).eth = s.eth := rfl
@[simp] theorem State.setSlot_workDone (s : State) (c : CoreId) (x : Slot) : (s.setSlot c x).workDone = s.workDone := rfl
@[simp] theorem State.setSlot_imports (s : State) (c : CoreId) (x : Slot) : (s.setSlot c x).imports = s.imports := rfl
@[simp] theorem State.setSlot_telemetry (s : State) (c : CoreId) (x : Slot) : (s.setSlot c x).telemetry = s.telemetry := rfl
@[simp] theorem State.setSlot_setup (s : State) (c : CoreId) (x : Slot) : (s.setSlot c x).setup = s.setup := rfl
@[simp] theorem State.setSlot_lastLock (s : State) (c : CoreId) (x : Slot) : (s.setSlot c x).lastLock = s.lastLock := rfl
@[simp] theorem State.setSlot_power (s : State) (c : CoreId) (x : Slot) : (s.setSlot c x).power = s.power := rfl
@[simp] theorem State.setSlot_rails (s : State) (c : CoreId) (x : Slot) : (s.setSlot c x).rails = s.rails := rfl
@[simp] theorem State.setSlot_ranger (s : State) (c : CoreId) (x : Slot) : (s.setSlot c x).ranger = s.ranger := rfl
@[simp] theorem State.setSlot_tests (s : State) (c : CoreId) (x : Slot) : (s.setSlot c x).tests = s.tests := rfl
@[simp] theorem State.setSlot_testResults (s : State) (c : CoreId) (x : Slot) : (s.setSlot c x).testResults = s.testResults := rfl
@[simp] theorem State.setSlot_blocks (s : State) (c : CoreId) (x : Slot) : (s.setSlot c x).blocks = s.blocks := rfl
@[simp] theorem State.setSlot_tap (s : State) (c : CoreId) (x : Slot) : (s.setSlot c x).tap = s.tap := rfl
@[simp] theorem State.setSlot_tapHolds (s : State) (c : CoreId) (x : Slot) : (s.setSlot c x).tapHolds = s.tapHolds := rfl
@[simp] theorem State.setSlot_i3c (s : State) (c : CoreId) (x : Slot) : (s.setSlot c x).i3c = s.i3c := rfl
@[simp] theorem State.setSlot_injected (s : State) (c : CoreId) (x : Slot) : (s.setSlot c x).injected = s.injected := rfl
@[simp] theorem State.setSlot_yardRefresh (s : State) (c : CoreId) (x : Slot) : (s.setSlot c x).yardRefresh = s.yardRefresh := rfl
@[simp] theorem State.setSlot_hostOut (s : State) (c : CoreId) (x : Slot) : (s.setSlot c x).hostOut = s.hostOut := rfl
@[simp] theorem State.setSlot_granted (s : State) (c : CoreId) (x : Slot) : (s.setSlot c x).granted = s.granted := rfl
@[simp] theorem State.setSlot_moves (s : State) (c : CoreId) (x : Slot) : (s.setSlot c x).moves = s.moves := rfl
@[simp] theorem State.setSlot_recallLost (s : State) (c : CoreId) (x : Slot) : (s.setSlot c x).recallLost = s.recallLost := rfl
@[simp] theorem State.setSlot_i3cSent (s : State) (c : CoreId) (x : Slot) : (s.setSlot c x).i3cSent = s.i3cSent := rfl
@[simp] theorem State.setSlot_slot (s : State) (c : CoreId) (x : Slot) : (s.setSlot c x).slot c = x := by
  simp [State.setSlot, State.slot]
theorem State.setSlot_slot_other (s : State) (c : CoreId) (x : Slot) (j : CoreId) (h : j ≠ c) :
    (s.setSlot c x).slot j = s.slot j := by
  exact Sparse.get_set_other _ _ _ _ _ (fun e => h (BitVec.toNat_inj.1 e))

/-! ## setStand -/

@[simp] theorem State.setStand_pending (s : State) (g : StandId) (x : Stand) : (s.setStand g x).pending = s.pending := rfl
@[simp] theorem State.setStand_timebase (s : State) (g : StandId) (x : Stand) : (s.setStand g x).timebase = s.timebase := rfl
@[simp] theorem State.setStand_free (s : State) (g : StandId) (x : Stand) : (s.setStand g x).free = s.free := rfl
@[simp] theorem State.setStand_mem (s : State) (g : StandId) (x : Stand) : (s.setStand g x).mem = s.mem := rfl
@[simp] theorem State.setStand_poison (s : State) (g : StandId) (x : Stand) : (s.setStand g x).poison = s.poison := rfl
@[simp] theorem State.setStand_rowErrors (s : State) (g : StandId) (x : Stand) : (s.setStand g x).rowErrors = s.rowErrors := rfl
@[simp] theorem State.setStand_granuleErrors (s : State) (g : StandId) (x : Stand) : (s.setStand g x).granuleErrors = s.granuleErrors := rfl
@[simp] theorem State.setStand_cores (s : State) (g : StandId) (x : Stand) : (s.setStand g x).cores = s.cores := rfl
@[simp] theorem State.setStand_slots (s : State) (g : StandId) (x : Stand) : (s.setStand g x).slots = s.slots := rfl
@[simp] theorem State.setStand_sectors (s : State) (g : StandId) (x : Stand) : (s.setStand g x).sectors = s.sectors := rfl
@[simp] theorem State.setStand_readReqs (s : State) (g : StandId) (x : Stand) : (s.setStand g x).readReqs = s.readReqs := rfl
@[simp] theorem State.setStand_readReplies (s : State) (g : StandId) (x : Stand) : (s.setStand g x).readReplies = s.readReplies := rfl
@[simp] theorem State.setStand_windowRows (s : State) (g : StandId) (x : Stand) : (s.setStand g x).windowRows = s.windowRows := rfl
@[simp] theorem State.setStand_acks (s : State) (g : StandId) (x : Stand) : (s.setStand g x).acks = s.acks := rfl
@[simp] theorem State.setStand_skids (s : State) (g : StandId) (x : Stand) : (s.setStand g x).skids = s.skids := rfl
@[simp] theorem State.setStand_leaseHits (s : State) (g : StandId) (x : Stand) : (s.setStand g x).leaseHits = s.leaseHits := rfl
@[simp] theorem State.setStand_arrivals (s : State) (g : StandId) (x : Stand) : (s.setStand g x).arrivals = s.arrivals := rfl
@[simp] theorem State.setStand_deckStacks (s : State) (g : StandId) (x : Stand) : (s.setStand g x).deckStacks = s.deckStacks := rfl
@[simp] theorem State.setStand_channels (s : State) (g : StandId) (x : Stand) : (s.setStand g x).channels = s.channels := rfl
@[simp] theorem State.setStand_yardMode (s : State) (g : StandId) (x : Stand) : (s.setStand g x).yardMode = s.yardMode := rfl
@[simp] theorem State.setStand_yardGib (s : State) (g : StandId) (x : Stand) : (s.setStand g x).yardGib = s.yardGib := rfl
@[simp] theorem State.setStand_transfers (s : State) (g : StandId) (x : Stand) : (s.setStand g x).transfers = s.transfers := rfl
@[simp] theorem State.setStand_poolWait (s : State) (g : StandId) (x : Stand) : (s.setStand g x).poolWait = s.poolWait := rfl
@[simp] theorem State.setStand_freedGroups (s : State) (g : StandId) (x : Stand) : (s.setStand g x).freedGroups = s.freedGroups := rfl
@[simp] theorem State.setStand_journalA (s : State) (g : StandId) (x : Stand) : (s.setStand g x).journalA = s.journalA := rfl
@[simp] theorem State.setStand_journalB (s : State) (g : StandId) (x : Stand) : (s.setStand g x).journalB = s.journalB := rfl
@[simp] theorem State.setStand_journalOk (s : State) (g : StandId) (x : Stand) : (s.setStand g x).journalOk = s.journalOk := rfl
@[simp] theorem State.setStand_dur (s : State) (g : StandId) (x : Stand) : (s.setStand g x).dur = s.dur := rfl
@[simp] theorem State.setStand_journal (s : State) (g : StandId) (x : Stand) : (s.setStand g x).journal = s.journal := rfl
@[simp] theorem State.setStand_due (s : State) (g : StandId) (x : Stand) : (s.setStand g x).due = s.due := rfl
@[simp] theorem State.setStand_journalDue (s : State) (g : StandId) (x : Stand) : (s.setStand g x).journalDue = s.journalDue := rfl
@[simp] theorem State.setStand_journalSaved (s : State) (g : StandId) (x : Stand) : (s.setStand g x).journalSaved = s.journalSaved := rfl
@[simp] theorem State.setStand_mirror (s : State) (g : StandId) (x : Stand) : (s.setStand g x).mirror = s.mirror := rfl
@[simp] theorem State.setStand_runs (s : State) (g : StandId) (x : Stand) : (s.setStand g x).runs = s.runs := rfl
@[simp] theorem State.setStand_scentRebuild (s : State) (g : StandId) (x : Stand) : (s.setStand g x).scentRebuild = s.scentRebuild := rfl
@[simp] theorem State.setStand_rings (s : State) (g : StandId) (x : Stand) : (s.setStand g x).rings = s.rings := rfl
@[simp] theorem State.setStand_fetchLast (s : State) (g : StandId) (x : Stand) : (s.setStand g x).fetchLast = s.fetchLast := rfl
@[simp] theorem State.setStand_stamp (s : State) (g : StandId) (x : Stand) : (s.setStand g x).stamp = s.stamp := rfl
@[simp] theorem State.setStand_posted (s : State) (g : StandId) (x : Stand) : (s.setStand g x).posted = s.posted := rfl
@[simp] theorem State.setStand_events (s : State) (g : StandId) (x : Stand) : (s.setStand g x).events = s.events := rfl
@[simp] theorem State.setStand_dropped (s : State) (g : StandId) (x : Stand) : (s.setStand g x).dropped = s.dropped := rfl
@[simp] theorem State.setStand_funcReset (s : State) (g : StandId) (x : Stand) : (s.setStand g x).funcReset = s.funcReset := rfl
@[simp] theorem State.setStand_coord (s : State) (g : StandId) (x : Stand) : (s.setStand g x).coord = s.coord := rfl
@[simp] theorem State.setStand_links (s : State) (g : StandId) (x : Stand) : (s.setStand g x).links = s.links := rfl
@[simp] theorem State.setStand_announced (s : State) (g : StandId) (x : Stand) : (s.setStand g x).announced = s.announced := rfl
@[simp] theorem State.setStand_sent (s : State) (g : StandId) (x : Stand) : (s.setStand g x).sent = s.sent := rfl
@[simp] theorem State.setStand_reductions (s : State) (g : StandId) (x : Stand) : (s.setStand g x).reductions = s.reductions := rfl
@[simp] theorem State.setStand_eth (s : State) (g : StandId) (x : Stand) : (s.setStand g x).eth = s.eth := rfl
@[simp] theorem State.setStand_workDone (s : State) (g : StandId) (x : Stand) : (s.setStand g x).workDone = s.workDone := rfl
@[simp] theorem State.setStand_imports (s : State) (g : StandId) (x : Stand) : (s.setStand g x).imports = s.imports := rfl
@[simp] theorem State.setStand_telemetry (s : State) (g : StandId) (x : Stand) : (s.setStand g x).telemetry = s.telemetry := rfl
@[simp] theorem State.setStand_setup (s : State) (g : StandId) (x : Stand) : (s.setStand g x).setup = s.setup := rfl
@[simp] theorem State.setStand_lastLock (s : State) (g : StandId) (x : Stand) : (s.setStand g x).lastLock = s.lastLock := rfl
@[simp] theorem State.setStand_power (s : State) (g : StandId) (x : Stand) : (s.setStand g x).power = s.power := rfl
@[simp] theorem State.setStand_rails (s : State) (g : StandId) (x : Stand) : (s.setStand g x).rails = s.rails := rfl
@[simp] theorem State.setStand_ranger (s : State) (g : StandId) (x : Stand) : (s.setStand g x).ranger = s.ranger := rfl
@[simp] theorem State.setStand_tests (s : State) (g : StandId) (x : Stand) : (s.setStand g x).tests = s.tests := rfl
@[simp] theorem State.setStand_testResults (s : State) (g : StandId) (x : Stand) : (s.setStand g x).testResults = s.testResults := rfl
@[simp] theorem State.setStand_blocks (s : State) (g : StandId) (x : Stand) : (s.setStand g x).blocks = s.blocks := rfl
@[simp] theorem State.setStand_tap (s : State) (g : StandId) (x : Stand) : (s.setStand g x).tap = s.tap := rfl
@[simp] theorem State.setStand_tapHolds (s : State) (g : StandId) (x : Stand) : (s.setStand g x).tapHolds = s.tapHolds := rfl
@[simp] theorem State.setStand_i3c (s : State) (g : StandId) (x : Stand) : (s.setStand g x).i3c = s.i3c := rfl
@[simp] theorem State.setStand_injected (s : State) (g : StandId) (x : Stand) : (s.setStand g x).injected = s.injected := rfl
@[simp] theorem State.setStand_yardRefresh (s : State) (g : StandId) (x : Stand) : (s.setStand g x).yardRefresh = s.yardRefresh := rfl
@[simp] theorem State.setStand_hostOut (s : State) (g : StandId) (x : Stand) : (s.setStand g x).hostOut = s.hostOut := rfl
@[simp] theorem State.setStand_granted (s : State) (g : StandId) (x : Stand) : (s.setStand g x).granted = s.granted := rfl
@[simp] theorem State.setStand_moves (s : State) (g : StandId) (x : Stand) : (s.setStand g x).moves = s.moves := rfl
@[simp] theorem State.setStand_recallLost (s : State) (g : StandId) (x : Stand) : (s.setStand g x).recallLost = s.recallLost := rfl
@[simp] theorem State.setStand_i3cSent (s : State) (g : StandId) (x : Stand) : (s.setStand g x).i3cSent = s.i3cSent := rfl
@[simp] theorem State.setStand_stand (s : State) (g : StandId) (x : Stand) : (s.setStand g x).stand g = x := by
  simp [State.setStand, State.stand]
theorem State.setStand_stand_other (s : State) (g : StandId) (x : Stand) (j : StandId) (h : j ≠ g) :
    (s.setStand g x).stand j = s.stand j := by
  exact Sparse.get_set_other _ _ _ _ _ (fun e => h (BitVec.toNat_inj.1 e))

/-! ## setSector -/

@[simp] theorem State.setSector_pending (s : State) (i : SectorId) (x : Sector) : (s.setSector i x).pending = s.pending := rfl
@[simp] theorem State.setSector_timebase (s : State) (i : SectorId) (x : Sector) : (s.setSector i x).timebase = s.timebase := rfl
@[simp] theorem State.setSector_free (s : State) (i : SectorId) (x : Sector) : (s.setSector i x).free = s.free := rfl
@[simp] theorem State.setSector_mem (s : State) (i : SectorId) (x : Sector) : (s.setSector i x).mem = s.mem := rfl
@[simp] theorem State.setSector_poison (s : State) (i : SectorId) (x : Sector) : (s.setSector i x).poison = s.poison := rfl
@[simp] theorem State.setSector_rowErrors (s : State) (i : SectorId) (x : Sector) : (s.setSector i x).rowErrors = s.rowErrors := rfl
@[simp] theorem State.setSector_granuleErrors (s : State) (i : SectorId) (x : Sector) : (s.setSector i x).granuleErrors = s.granuleErrors := rfl
@[simp] theorem State.setSector_cores (s : State) (i : SectorId) (x : Sector) : (s.setSector i x).cores = s.cores := rfl
@[simp] theorem State.setSector_slots (s : State) (i : SectorId) (x : Sector) : (s.setSector i x).slots = s.slots := rfl
@[simp] theorem State.setSector_stands (s : State) (i : SectorId) (x : Sector) : (s.setSector i x).stands = s.stands := rfl
@[simp] theorem State.setSector_readReqs (s : State) (i : SectorId) (x : Sector) : (s.setSector i x).readReqs = s.readReqs := rfl
@[simp] theorem State.setSector_readReplies (s : State) (i : SectorId) (x : Sector) : (s.setSector i x).readReplies = s.readReplies := rfl
@[simp] theorem State.setSector_windowRows (s : State) (i : SectorId) (x : Sector) : (s.setSector i x).windowRows = s.windowRows := rfl
@[simp] theorem State.setSector_acks (s : State) (i : SectorId) (x : Sector) : (s.setSector i x).acks = s.acks := rfl
@[simp] theorem State.setSector_skids (s : State) (i : SectorId) (x : Sector) : (s.setSector i x).skids = s.skids := rfl
@[simp] theorem State.setSector_leaseHits (s : State) (i : SectorId) (x : Sector) : (s.setSector i x).leaseHits = s.leaseHits := rfl
@[simp] theorem State.setSector_arrivals (s : State) (i : SectorId) (x : Sector) : (s.setSector i x).arrivals = s.arrivals := rfl
@[simp] theorem State.setSector_deckStacks (s : State) (i : SectorId) (x : Sector) : (s.setSector i x).deckStacks = s.deckStacks := rfl
@[simp] theorem State.setSector_channels (s : State) (i : SectorId) (x : Sector) : (s.setSector i x).channels = s.channels := rfl
@[simp] theorem State.setSector_yardMode (s : State) (i : SectorId) (x : Sector) : (s.setSector i x).yardMode = s.yardMode := rfl
@[simp] theorem State.setSector_yardGib (s : State) (i : SectorId) (x : Sector) : (s.setSector i x).yardGib = s.yardGib := rfl
@[simp] theorem State.setSector_transfers (s : State) (i : SectorId) (x : Sector) : (s.setSector i x).transfers = s.transfers := rfl
@[simp] theorem State.setSector_poolWait (s : State) (i : SectorId) (x : Sector) : (s.setSector i x).poolWait = s.poolWait := rfl
@[simp] theorem State.setSector_freedGroups (s : State) (i : SectorId) (x : Sector) : (s.setSector i x).freedGroups = s.freedGroups := rfl
@[simp] theorem State.setSector_journalA (s : State) (i : SectorId) (x : Sector) : (s.setSector i x).journalA = s.journalA := rfl
@[simp] theorem State.setSector_journalB (s : State) (i : SectorId) (x : Sector) : (s.setSector i x).journalB = s.journalB := rfl
@[simp] theorem State.setSector_journalOk (s : State) (i : SectorId) (x : Sector) : (s.setSector i x).journalOk = s.journalOk := rfl
@[simp] theorem State.setSector_dur (s : State) (i : SectorId) (x : Sector) : (s.setSector i x).dur = s.dur := rfl
@[simp] theorem State.setSector_journal (s : State) (i : SectorId) (x : Sector) : (s.setSector i x).journal = s.journal := rfl
@[simp] theorem State.setSector_due (s : State) (i : SectorId) (x : Sector) : (s.setSector i x).due = s.due := rfl
@[simp] theorem State.setSector_journalDue (s : State) (i : SectorId) (x : Sector) : (s.setSector i x).journalDue = s.journalDue := rfl
@[simp] theorem State.setSector_journalSaved (s : State) (i : SectorId) (x : Sector) : (s.setSector i x).journalSaved = s.journalSaved := rfl
@[simp] theorem State.setSector_mirror (s : State) (i : SectorId) (x : Sector) : (s.setSector i x).mirror = s.mirror := rfl
@[simp] theorem State.setSector_runs (s : State) (i : SectorId) (x : Sector) : (s.setSector i x).runs = s.runs := rfl
@[simp] theorem State.setSector_scentRebuild (s : State) (i : SectorId) (x : Sector) : (s.setSector i x).scentRebuild = s.scentRebuild := rfl
@[simp] theorem State.setSector_rings (s : State) (i : SectorId) (x : Sector) : (s.setSector i x).rings = s.rings := rfl
@[simp] theorem State.setSector_fetchLast (s : State) (i : SectorId) (x : Sector) : (s.setSector i x).fetchLast = s.fetchLast := rfl
@[simp] theorem State.setSector_stamp (s : State) (i : SectorId) (x : Sector) : (s.setSector i x).stamp = s.stamp := rfl
@[simp] theorem State.setSector_posted (s : State) (i : SectorId) (x : Sector) : (s.setSector i x).posted = s.posted := rfl
@[simp] theorem State.setSector_events (s : State) (i : SectorId) (x : Sector) : (s.setSector i x).events = s.events := rfl
@[simp] theorem State.setSector_dropped (s : State) (i : SectorId) (x : Sector) : (s.setSector i x).dropped = s.dropped := rfl
@[simp] theorem State.setSector_funcReset (s : State) (i : SectorId) (x : Sector) : (s.setSector i x).funcReset = s.funcReset := rfl
@[simp] theorem State.setSector_coord (s : State) (i : SectorId) (x : Sector) : (s.setSector i x).coord = s.coord := rfl
@[simp] theorem State.setSector_links (s : State) (i : SectorId) (x : Sector) : (s.setSector i x).links = s.links := rfl
@[simp] theorem State.setSector_announced (s : State) (i : SectorId) (x : Sector) : (s.setSector i x).announced = s.announced := rfl
@[simp] theorem State.setSector_sent (s : State) (i : SectorId) (x : Sector) : (s.setSector i x).sent = s.sent := rfl
@[simp] theorem State.setSector_reductions (s : State) (i : SectorId) (x : Sector) : (s.setSector i x).reductions = s.reductions := rfl
@[simp] theorem State.setSector_eth (s : State) (i : SectorId) (x : Sector) : (s.setSector i x).eth = s.eth := rfl
@[simp] theorem State.setSector_workDone (s : State) (i : SectorId) (x : Sector) : (s.setSector i x).workDone = s.workDone := rfl
@[simp] theorem State.setSector_imports (s : State) (i : SectorId) (x : Sector) : (s.setSector i x).imports = s.imports := rfl
@[simp] theorem State.setSector_telemetry (s : State) (i : SectorId) (x : Sector) : (s.setSector i x).telemetry = s.telemetry := rfl
@[simp] theorem State.setSector_setup (s : State) (i : SectorId) (x : Sector) : (s.setSector i x).setup = s.setup := rfl
@[simp] theorem State.setSector_lastLock (s : State) (i : SectorId) (x : Sector) : (s.setSector i x).lastLock = s.lastLock := rfl
@[simp] theorem State.setSector_power (s : State) (i : SectorId) (x : Sector) : (s.setSector i x).power = s.power := rfl
@[simp] theorem State.setSector_rails (s : State) (i : SectorId) (x : Sector) : (s.setSector i x).rails = s.rails := rfl
@[simp] theorem State.setSector_ranger (s : State) (i : SectorId) (x : Sector) : (s.setSector i x).ranger = s.ranger := rfl
@[simp] theorem State.setSector_tests (s : State) (i : SectorId) (x : Sector) : (s.setSector i x).tests = s.tests := rfl
@[simp] theorem State.setSector_testResults (s : State) (i : SectorId) (x : Sector) : (s.setSector i x).testResults = s.testResults := rfl
@[simp] theorem State.setSector_blocks (s : State) (i : SectorId) (x : Sector) : (s.setSector i x).blocks = s.blocks := rfl
@[simp] theorem State.setSector_tap (s : State) (i : SectorId) (x : Sector) : (s.setSector i x).tap = s.tap := rfl
@[simp] theorem State.setSector_tapHolds (s : State) (i : SectorId) (x : Sector) : (s.setSector i x).tapHolds = s.tapHolds := rfl
@[simp] theorem State.setSector_i3c (s : State) (i : SectorId) (x : Sector) : (s.setSector i x).i3c = s.i3c := rfl
@[simp] theorem State.setSector_injected (s : State) (i : SectorId) (x : Sector) : (s.setSector i x).injected = s.injected := rfl
@[simp] theorem State.setSector_yardRefresh (s : State) (i : SectorId) (x : Sector) : (s.setSector i x).yardRefresh = s.yardRefresh := rfl
@[simp] theorem State.setSector_hostOut (s : State) (i : SectorId) (x : Sector) : (s.setSector i x).hostOut = s.hostOut := rfl
@[simp] theorem State.setSector_granted (s : State) (i : SectorId) (x : Sector) : (s.setSector i x).granted = s.granted := rfl
@[simp] theorem State.setSector_moves (s : State) (i : SectorId) (x : Sector) : (s.setSector i x).moves = s.moves := rfl
@[simp] theorem State.setSector_recallLost (s : State) (i : SectorId) (x : Sector) : (s.setSector i x).recallLost = s.recallLost := rfl
@[simp] theorem State.setSector_i3cSent (s : State) (i : SectorId) (x : Sector) : (s.setSector i x).i3cSent = s.i3cSent := rfl
@[simp] theorem State.setSector_sector (s : State) (i : SectorId) (x : Sector) : (s.setSector i x).sector i = x := by
  simp [State.setSector, State.sector]
theorem State.setSector_sector_other (s : State) (i : SectorId) (x : Sector) (j : SectorId) (h : j ≠ i) :
    (s.setSector i x).sector j = s.sector j := by
  exact Sparse.get_set_other _ _ _ _ _ (fun e => h (Fin.val_inj.1 e))

/-! ## setStack -/

@[simp] theorem State.setStack_pending (s : State) (i : SectorId) (x : Stack) : (s.setStack i x).pending = s.pending := rfl
@[simp] theorem State.setStack_timebase (s : State) (i : SectorId) (x : Stack) : (s.setStack i x).timebase = s.timebase := rfl
@[simp] theorem State.setStack_free (s : State) (i : SectorId) (x : Stack) : (s.setStack i x).free = s.free := rfl
@[simp] theorem State.setStack_mem (s : State) (i : SectorId) (x : Stack) : (s.setStack i x).mem = s.mem := rfl
@[simp] theorem State.setStack_poison (s : State) (i : SectorId) (x : Stack) : (s.setStack i x).poison = s.poison := rfl
@[simp] theorem State.setStack_rowErrors (s : State) (i : SectorId) (x : Stack) : (s.setStack i x).rowErrors = s.rowErrors := rfl
@[simp] theorem State.setStack_granuleErrors (s : State) (i : SectorId) (x : Stack) : (s.setStack i x).granuleErrors = s.granuleErrors := rfl
@[simp] theorem State.setStack_cores (s : State) (i : SectorId) (x : Stack) : (s.setStack i x).cores = s.cores := rfl
@[simp] theorem State.setStack_slots (s : State) (i : SectorId) (x : Stack) : (s.setStack i x).slots = s.slots := rfl
@[simp] theorem State.setStack_stands (s : State) (i : SectorId) (x : Stack) : (s.setStack i x).stands = s.stands := rfl
@[simp] theorem State.setStack_sectors (s : State) (i : SectorId) (x : Stack) : (s.setStack i x).sectors = s.sectors := rfl
@[simp] theorem State.setStack_readReqs (s : State) (i : SectorId) (x : Stack) : (s.setStack i x).readReqs = s.readReqs := rfl
@[simp] theorem State.setStack_readReplies (s : State) (i : SectorId) (x : Stack) : (s.setStack i x).readReplies = s.readReplies := rfl
@[simp] theorem State.setStack_windowRows (s : State) (i : SectorId) (x : Stack) : (s.setStack i x).windowRows = s.windowRows := rfl
@[simp] theorem State.setStack_acks (s : State) (i : SectorId) (x : Stack) : (s.setStack i x).acks = s.acks := rfl
@[simp] theorem State.setStack_skids (s : State) (i : SectorId) (x : Stack) : (s.setStack i x).skids = s.skids := rfl
@[simp] theorem State.setStack_leaseHits (s : State) (i : SectorId) (x : Stack) : (s.setStack i x).leaseHits = s.leaseHits := rfl
@[simp] theorem State.setStack_arrivals (s : State) (i : SectorId) (x : Stack) : (s.setStack i x).arrivals = s.arrivals := rfl
@[simp] theorem State.setStack_channels (s : State) (i : SectorId) (x : Stack) : (s.setStack i x).channels = s.channels := rfl
@[simp] theorem State.setStack_yardMode (s : State) (i : SectorId) (x : Stack) : (s.setStack i x).yardMode = s.yardMode := rfl
@[simp] theorem State.setStack_yardGib (s : State) (i : SectorId) (x : Stack) : (s.setStack i x).yardGib = s.yardGib := rfl
@[simp] theorem State.setStack_transfers (s : State) (i : SectorId) (x : Stack) : (s.setStack i x).transfers = s.transfers := rfl
@[simp] theorem State.setStack_poolWait (s : State) (i : SectorId) (x : Stack) : (s.setStack i x).poolWait = s.poolWait := rfl
@[simp] theorem State.setStack_freedGroups (s : State) (i : SectorId) (x : Stack) : (s.setStack i x).freedGroups = s.freedGroups := rfl
@[simp] theorem State.setStack_journalA (s : State) (i : SectorId) (x : Stack) : (s.setStack i x).journalA = s.journalA := rfl
@[simp] theorem State.setStack_journalB (s : State) (i : SectorId) (x : Stack) : (s.setStack i x).journalB = s.journalB := rfl
@[simp] theorem State.setStack_journalOk (s : State) (i : SectorId) (x : Stack) : (s.setStack i x).journalOk = s.journalOk := rfl
@[simp] theorem State.setStack_dur (s : State) (i : SectorId) (x : Stack) : (s.setStack i x).dur = s.dur := rfl
@[simp] theorem State.setStack_journal (s : State) (i : SectorId) (x : Stack) : (s.setStack i x).journal = s.journal := rfl
@[simp] theorem State.setStack_due (s : State) (i : SectorId) (x : Stack) : (s.setStack i x).due = s.due := rfl
@[simp] theorem State.setStack_journalDue (s : State) (i : SectorId) (x : Stack) : (s.setStack i x).journalDue = s.journalDue := rfl
@[simp] theorem State.setStack_journalSaved (s : State) (i : SectorId) (x : Stack) : (s.setStack i x).journalSaved = s.journalSaved := rfl
@[simp] theorem State.setStack_mirror (s : State) (i : SectorId) (x : Stack) : (s.setStack i x).mirror = s.mirror := rfl
@[simp] theorem State.setStack_runs (s : State) (i : SectorId) (x : Stack) : (s.setStack i x).runs = s.runs := rfl
@[simp] theorem State.setStack_scentRebuild (s : State) (i : SectorId) (x : Stack) : (s.setStack i x).scentRebuild = s.scentRebuild := rfl
@[simp] theorem State.setStack_rings (s : State) (i : SectorId) (x : Stack) : (s.setStack i x).rings = s.rings := rfl
@[simp] theorem State.setStack_fetchLast (s : State) (i : SectorId) (x : Stack) : (s.setStack i x).fetchLast = s.fetchLast := rfl
@[simp] theorem State.setStack_stamp (s : State) (i : SectorId) (x : Stack) : (s.setStack i x).stamp = s.stamp := rfl
@[simp] theorem State.setStack_posted (s : State) (i : SectorId) (x : Stack) : (s.setStack i x).posted = s.posted := rfl
@[simp] theorem State.setStack_events (s : State) (i : SectorId) (x : Stack) : (s.setStack i x).events = s.events := rfl
@[simp] theorem State.setStack_dropped (s : State) (i : SectorId) (x : Stack) : (s.setStack i x).dropped = s.dropped := rfl
@[simp] theorem State.setStack_funcReset (s : State) (i : SectorId) (x : Stack) : (s.setStack i x).funcReset = s.funcReset := rfl
@[simp] theorem State.setStack_coord (s : State) (i : SectorId) (x : Stack) : (s.setStack i x).coord = s.coord := rfl
@[simp] theorem State.setStack_links (s : State) (i : SectorId) (x : Stack) : (s.setStack i x).links = s.links := rfl
@[simp] theorem State.setStack_announced (s : State) (i : SectorId) (x : Stack) : (s.setStack i x).announced = s.announced := rfl
@[simp] theorem State.setStack_sent (s : State) (i : SectorId) (x : Stack) : (s.setStack i x).sent = s.sent := rfl
@[simp] theorem State.setStack_reductions (s : State) (i : SectorId) (x : Stack) : (s.setStack i x).reductions = s.reductions := rfl
@[simp] theorem State.setStack_eth (s : State) (i : SectorId) (x : Stack) : (s.setStack i x).eth = s.eth := rfl
@[simp] theorem State.setStack_workDone (s : State) (i : SectorId) (x : Stack) : (s.setStack i x).workDone = s.workDone := rfl
@[simp] theorem State.setStack_imports (s : State) (i : SectorId) (x : Stack) : (s.setStack i x).imports = s.imports := rfl
@[simp] theorem State.setStack_telemetry (s : State) (i : SectorId) (x : Stack) : (s.setStack i x).telemetry = s.telemetry := rfl
@[simp] theorem State.setStack_setup (s : State) (i : SectorId) (x : Stack) : (s.setStack i x).setup = s.setup := rfl
@[simp] theorem State.setStack_lastLock (s : State) (i : SectorId) (x : Stack) : (s.setStack i x).lastLock = s.lastLock := rfl
@[simp] theorem State.setStack_power (s : State) (i : SectorId) (x : Stack) : (s.setStack i x).power = s.power := rfl
@[simp] theorem State.setStack_rails (s : State) (i : SectorId) (x : Stack) : (s.setStack i x).rails = s.rails := rfl
@[simp] theorem State.setStack_ranger (s : State) (i : SectorId) (x : Stack) : (s.setStack i x).ranger = s.ranger := rfl
@[simp] theorem State.setStack_tests (s : State) (i : SectorId) (x : Stack) : (s.setStack i x).tests = s.tests := rfl
@[simp] theorem State.setStack_testResults (s : State) (i : SectorId) (x : Stack) : (s.setStack i x).testResults = s.testResults := rfl
@[simp] theorem State.setStack_blocks (s : State) (i : SectorId) (x : Stack) : (s.setStack i x).blocks = s.blocks := rfl
@[simp] theorem State.setStack_tap (s : State) (i : SectorId) (x : Stack) : (s.setStack i x).tap = s.tap := rfl
@[simp] theorem State.setStack_tapHolds (s : State) (i : SectorId) (x : Stack) : (s.setStack i x).tapHolds = s.tapHolds := rfl
@[simp] theorem State.setStack_i3c (s : State) (i : SectorId) (x : Stack) : (s.setStack i x).i3c = s.i3c := rfl
@[simp] theorem State.setStack_injected (s : State) (i : SectorId) (x : Stack) : (s.setStack i x).injected = s.injected := rfl
@[simp] theorem State.setStack_yardRefresh (s : State) (i : SectorId) (x : Stack) : (s.setStack i x).yardRefresh = s.yardRefresh := rfl
@[simp] theorem State.setStack_hostOut (s : State) (i : SectorId) (x : Stack) : (s.setStack i x).hostOut = s.hostOut := rfl
@[simp] theorem State.setStack_granted (s : State) (i : SectorId) (x : Stack) : (s.setStack i x).granted = s.granted := rfl
@[simp] theorem State.setStack_moves (s : State) (i : SectorId) (x : Stack) : (s.setStack i x).moves = s.moves := rfl
@[simp] theorem State.setStack_recallLost (s : State) (i : SectorId) (x : Stack) : (s.setStack i x).recallLost = s.recallLost := rfl
@[simp] theorem State.setStack_i3cSent (s : State) (i : SectorId) (x : Stack) : (s.setStack i x).i3cSent = s.i3cSent := rfl
@[simp] theorem State.setStack_stack (s : State) (i : SectorId) (x : Stack) : (s.setStack i x).stack i = x := by
  simp [State.setStack, State.stack]
theorem State.setStack_stack_other (s : State) (i : SectorId) (x : Stack) (j : SectorId) (h : j ≠ i) :
    (s.setStack i x).stack j = s.stack j := by
  exact Sparse.get_set_other _ _ _ _ _ (fun e => h (Fin.val_inj.1 e))

/-! ## setChannel -/

@[simp] theorem State.setChannel_pending (s : State) (i : ChannelId) (x : Channel) : (s.setChannel i x).pending = s.pending := rfl
@[simp] theorem State.setChannel_timebase (s : State) (i : ChannelId) (x : Channel) : (s.setChannel i x).timebase = s.timebase := rfl
@[simp] theorem State.setChannel_free (s : State) (i : ChannelId) (x : Channel) : (s.setChannel i x).free = s.free := rfl
@[simp] theorem State.setChannel_mem (s : State) (i : ChannelId) (x : Channel) : (s.setChannel i x).mem = s.mem := rfl
@[simp] theorem State.setChannel_poison (s : State) (i : ChannelId) (x : Channel) : (s.setChannel i x).poison = s.poison := rfl
@[simp] theorem State.setChannel_rowErrors (s : State) (i : ChannelId) (x : Channel) : (s.setChannel i x).rowErrors = s.rowErrors := rfl
@[simp] theorem State.setChannel_granuleErrors (s : State) (i : ChannelId) (x : Channel) : (s.setChannel i x).granuleErrors = s.granuleErrors := rfl
@[simp] theorem State.setChannel_cores (s : State) (i : ChannelId) (x : Channel) : (s.setChannel i x).cores = s.cores := rfl
@[simp] theorem State.setChannel_slots (s : State) (i : ChannelId) (x : Channel) : (s.setChannel i x).slots = s.slots := rfl
@[simp] theorem State.setChannel_stands (s : State) (i : ChannelId) (x : Channel) : (s.setChannel i x).stands = s.stands := rfl
@[simp] theorem State.setChannel_sectors (s : State) (i : ChannelId) (x : Channel) : (s.setChannel i x).sectors = s.sectors := rfl
@[simp] theorem State.setChannel_readReqs (s : State) (i : ChannelId) (x : Channel) : (s.setChannel i x).readReqs = s.readReqs := rfl
@[simp] theorem State.setChannel_readReplies (s : State) (i : ChannelId) (x : Channel) : (s.setChannel i x).readReplies = s.readReplies := rfl
@[simp] theorem State.setChannel_windowRows (s : State) (i : ChannelId) (x : Channel) : (s.setChannel i x).windowRows = s.windowRows := rfl
@[simp] theorem State.setChannel_acks (s : State) (i : ChannelId) (x : Channel) : (s.setChannel i x).acks = s.acks := rfl
@[simp] theorem State.setChannel_skids (s : State) (i : ChannelId) (x : Channel) : (s.setChannel i x).skids = s.skids := rfl
@[simp] theorem State.setChannel_leaseHits (s : State) (i : ChannelId) (x : Channel) : (s.setChannel i x).leaseHits = s.leaseHits := rfl
@[simp] theorem State.setChannel_arrivals (s : State) (i : ChannelId) (x : Channel) : (s.setChannel i x).arrivals = s.arrivals := rfl
@[simp] theorem State.setChannel_deckStacks (s : State) (i : ChannelId) (x : Channel) : (s.setChannel i x).deckStacks = s.deckStacks := rfl
@[simp] theorem State.setChannel_yardMode (s : State) (i : ChannelId) (x : Channel) : (s.setChannel i x).yardMode = s.yardMode := rfl
@[simp] theorem State.setChannel_yardGib (s : State) (i : ChannelId) (x : Channel) : (s.setChannel i x).yardGib = s.yardGib := rfl
@[simp] theorem State.setChannel_transfers (s : State) (i : ChannelId) (x : Channel) : (s.setChannel i x).transfers = s.transfers := rfl
@[simp] theorem State.setChannel_poolWait (s : State) (i : ChannelId) (x : Channel) : (s.setChannel i x).poolWait = s.poolWait := rfl
@[simp] theorem State.setChannel_freedGroups (s : State) (i : ChannelId) (x : Channel) : (s.setChannel i x).freedGroups = s.freedGroups := rfl
@[simp] theorem State.setChannel_journalA (s : State) (i : ChannelId) (x : Channel) : (s.setChannel i x).journalA = s.journalA := rfl
@[simp] theorem State.setChannel_journalB (s : State) (i : ChannelId) (x : Channel) : (s.setChannel i x).journalB = s.journalB := rfl
@[simp] theorem State.setChannel_journalOk (s : State) (i : ChannelId) (x : Channel) : (s.setChannel i x).journalOk = s.journalOk := rfl
@[simp] theorem State.setChannel_dur (s : State) (i : ChannelId) (x : Channel) : (s.setChannel i x).dur = s.dur := rfl
@[simp] theorem State.setChannel_journal (s : State) (i : ChannelId) (x : Channel) : (s.setChannel i x).journal = s.journal := rfl
@[simp] theorem State.setChannel_due (s : State) (i : ChannelId) (x : Channel) : (s.setChannel i x).due = s.due := rfl
@[simp] theorem State.setChannel_journalDue (s : State) (i : ChannelId) (x : Channel) : (s.setChannel i x).journalDue = s.journalDue := rfl
@[simp] theorem State.setChannel_journalSaved (s : State) (i : ChannelId) (x : Channel) : (s.setChannel i x).journalSaved = s.journalSaved := rfl
@[simp] theorem State.setChannel_mirror (s : State) (i : ChannelId) (x : Channel) : (s.setChannel i x).mirror = s.mirror := rfl
@[simp] theorem State.setChannel_runs (s : State) (i : ChannelId) (x : Channel) : (s.setChannel i x).runs = s.runs := rfl
@[simp] theorem State.setChannel_scentRebuild (s : State) (i : ChannelId) (x : Channel) : (s.setChannel i x).scentRebuild = s.scentRebuild := rfl
@[simp] theorem State.setChannel_rings (s : State) (i : ChannelId) (x : Channel) : (s.setChannel i x).rings = s.rings := rfl
@[simp] theorem State.setChannel_fetchLast (s : State) (i : ChannelId) (x : Channel) : (s.setChannel i x).fetchLast = s.fetchLast := rfl
@[simp] theorem State.setChannel_stamp (s : State) (i : ChannelId) (x : Channel) : (s.setChannel i x).stamp = s.stamp := rfl
@[simp] theorem State.setChannel_posted (s : State) (i : ChannelId) (x : Channel) : (s.setChannel i x).posted = s.posted := rfl
@[simp] theorem State.setChannel_events (s : State) (i : ChannelId) (x : Channel) : (s.setChannel i x).events = s.events := rfl
@[simp] theorem State.setChannel_dropped (s : State) (i : ChannelId) (x : Channel) : (s.setChannel i x).dropped = s.dropped := rfl
@[simp] theorem State.setChannel_funcReset (s : State) (i : ChannelId) (x : Channel) : (s.setChannel i x).funcReset = s.funcReset := rfl
@[simp] theorem State.setChannel_coord (s : State) (i : ChannelId) (x : Channel) : (s.setChannel i x).coord = s.coord := rfl
@[simp] theorem State.setChannel_links (s : State) (i : ChannelId) (x : Channel) : (s.setChannel i x).links = s.links := rfl
@[simp] theorem State.setChannel_announced (s : State) (i : ChannelId) (x : Channel) : (s.setChannel i x).announced = s.announced := rfl
@[simp] theorem State.setChannel_sent (s : State) (i : ChannelId) (x : Channel) : (s.setChannel i x).sent = s.sent := rfl
@[simp] theorem State.setChannel_reductions (s : State) (i : ChannelId) (x : Channel) : (s.setChannel i x).reductions = s.reductions := rfl
@[simp] theorem State.setChannel_eth (s : State) (i : ChannelId) (x : Channel) : (s.setChannel i x).eth = s.eth := rfl
@[simp] theorem State.setChannel_workDone (s : State) (i : ChannelId) (x : Channel) : (s.setChannel i x).workDone = s.workDone := rfl
@[simp] theorem State.setChannel_imports (s : State) (i : ChannelId) (x : Channel) : (s.setChannel i x).imports = s.imports := rfl
@[simp] theorem State.setChannel_telemetry (s : State) (i : ChannelId) (x : Channel) : (s.setChannel i x).telemetry = s.telemetry := rfl
@[simp] theorem State.setChannel_setup (s : State) (i : ChannelId) (x : Channel) : (s.setChannel i x).setup = s.setup := rfl
@[simp] theorem State.setChannel_lastLock (s : State) (i : ChannelId) (x : Channel) : (s.setChannel i x).lastLock = s.lastLock := rfl
@[simp] theorem State.setChannel_power (s : State) (i : ChannelId) (x : Channel) : (s.setChannel i x).power = s.power := rfl
@[simp] theorem State.setChannel_rails (s : State) (i : ChannelId) (x : Channel) : (s.setChannel i x).rails = s.rails := rfl
@[simp] theorem State.setChannel_ranger (s : State) (i : ChannelId) (x : Channel) : (s.setChannel i x).ranger = s.ranger := rfl
@[simp] theorem State.setChannel_tests (s : State) (i : ChannelId) (x : Channel) : (s.setChannel i x).tests = s.tests := rfl
@[simp] theorem State.setChannel_testResults (s : State) (i : ChannelId) (x : Channel) : (s.setChannel i x).testResults = s.testResults := rfl
@[simp] theorem State.setChannel_blocks (s : State) (i : ChannelId) (x : Channel) : (s.setChannel i x).blocks = s.blocks := rfl
@[simp] theorem State.setChannel_tap (s : State) (i : ChannelId) (x : Channel) : (s.setChannel i x).tap = s.tap := rfl
@[simp] theorem State.setChannel_tapHolds (s : State) (i : ChannelId) (x : Channel) : (s.setChannel i x).tapHolds = s.tapHolds := rfl
@[simp] theorem State.setChannel_i3c (s : State) (i : ChannelId) (x : Channel) : (s.setChannel i x).i3c = s.i3c := rfl
@[simp] theorem State.setChannel_injected (s : State) (i : ChannelId) (x : Channel) : (s.setChannel i x).injected = s.injected := rfl
@[simp] theorem State.setChannel_yardRefresh (s : State) (i : ChannelId) (x : Channel) : (s.setChannel i x).yardRefresh = s.yardRefresh := rfl
@[simp] theorem State.setChannel_hostOut (s : State) (i : ChannelId) (x : Channel) : (s.setChannel i x).hostOut = s.hostOut := rfl
@[simp] theorem State.setChannel_granted (s : State) (i : ChannelId) (x : Channel) : (s.setChannel i x).granted = s.granted := rfl
@[simp] theorem State.setChannel_moves (s : State) (i : ChannelId) (x : Channel) : (s.setChannel i x).moves = s.moves := rfl
@[simp] theorem State.setChannel_recallLost (s : State) (i : ChannelId) (x : Channel) : (s.setChannel i x).recallLost = s.recallLost := rfl
@[simp] theorem State.setChannel_i3cSent (s : State) (i : ChannelId) (x : Channel) : (s.setChannel i x).i3cSent = s.i3cSent := rfl
@[simp] theorem State.setChannel_channel (s : State) (i : ChannelId) (x : Channel) : (s.setChannel i x).channel i = x := by
  simp [State.setChannel, State.channel]
theorem State.setChannel_channel_other (s : State) (i : ChannelId) (x : Channel) (j : ChannelId) (h : j ≠ i) :
    (s.setChannel i x).channel j = s.channel j := by
  exact Sparse.get_set_other _ _ _ _ _ (fun e => h (Fin.val_inj.1 e))

/-! ## setCoupe -/

@[simp] theorem State.setCoupe_pending (s : State) (k : CoupeId) (x : Coupe) : (s.setCoupe k x).pending = s.pending := rfl
@[simp] theorem State.setCoupe_timebase (s : State) (k : CoupeId) (x : Coupe) : (s.setCoupe k x).timebase = s.timebase := rfl
@[simp] theorem State.setCoupe_free (s : State) (k : CoupeId) (x : Coupe) : (s.setCoupe k x).free = s.free := rfl
@[simp] theorem State.setCoupe_mem (s : State) (k : CoupeId) (x : Coupe) : (s.setCoupe k x).mem = s.mem := rfl
@[simp] theorem State.setCoupe_poison (s : State) (k : CoupeId) (x : Coupe) : (s.setCoupe k x).poison = s.poison := rfl
@[simp] theorem State.setCoupe_rowErrors (s : State) (k : CoupeId) (x : Coupe) : (s.setCoupe k x).rowErrors = s.rowErrors := rfl
@[simp] theorem State.setCoupe_granuleErrors (s : State) (k : CoupeId) (x : Coupe) : (s.setCoupe k x).granuleErrors = s.granuleErrors := rfl
@[simp] theorem State.setCoupe_cores (s : State) (k : CoupeId) (x : Coupe) : (s.setCoupe k x).cores = s.cores := rfl
@[simp] theorem State.setCoupe_slots (s : State) (k : CoupeId) (x : Coupe) : (s.setCoupe k x).slots = s.slots := rfl
@[simp] theorem State.setCoupe_stands (s : State) (k : CoupeId) (x : Coupe) : (s.setCoupe k x).stands = s.stands := rfl
@[simp] theorem State.setCoupe_sectors (s : State) (k : CoupeId) (x : Coupe) : (s.setCoupe k x).sectors = s.sectors := rfl
@[simp] theorem State.setCoupe_readReqs (s : State) (k : CoupeId) (x : Coupe) : (s.setCoupe k x).readReqs = s.readReqs := rfl
@[simp] theorem State.setCoupe_readReplies (s : State) (k : CoupeId) (x : Coupe) : (s.setCoupe k x).readReplies = s.readReplies := rfl
@[simp] theorem State.setCoupe_windowRows (s : State) (k : CoupeId) (x : Coupe) : (s.setCoupe k x).windowRows = s.windowRows := rfl
@[simp] theorem State.setCoupe_acks (s : State) (k : CoupeId) (x : Coupe) : (s.setCoupe k x).acks = s.acks := rfl
@[simp] theorem State.setCoupe_skids (s : State) (k : CoupeId) (x : Coupe) : (s.setCoupe k x).skids = s.skids := rfl
@[simp] theorem State.setCoupe_leaseHits (s : State) (k : CoupeId) (x : Coupe) : (s.setCoupe k x).leaseHits = s.leaseHits := rfl
@[simp] theorem State.setCoupe_arrivals (s : State) (k : CoupeId) (x : Coupe) : (s.setCoupe k x).arrivals = s.arrivals := rfl
@[simp] theorem State.setCoupe_deckStacks (s : State) (k : CoupeId) (x : Coupe) : (s.setCoupe k x).deckStacks = s.deckStacks := rfl
@[simp] theorem State.setCoupe_channels (s : State) (k : CoupeId) (x : Coupe) : (s.setCoupe k x).channels = s.channels := rfl
@[simp] theorem State.setCoupe_yardMode (s : State) (k : CoupeId) (x : Coupe) : (s.setCoupe k x).yardMode = s.yardMode := rfl
@[simp] theorem State.setCoupe_yardGib (s : State) (k : CoupeId) (x : Coupe) : (s.setCoupe k x).yardGib = s.yardGib := rfl
@[simp] theorem State.setCoupe_transfers (s : State) (k : CoupeId) (x : Coupe) : (s.setCoupe k x).transfers = s.transfers := rfl
@[simp] theorem State.setCoupe_poolWait (s : State) (k : CoupeId) (x : Coupe) : (s.setCoupe k x).poolWait = s.poolWait := rfl
@[simp] theorem State.setCoupe_freedGroups (s : State) (k : CoupeId) (x : Coupe) : (s.setCoupe k x).freedGroups = s.freedGroups := rfl
@[simp] theorem State.setCoupe_journalA (s : State) (k : CoupeId) (x : Coupe) : (s.setCoupe k x).journalA = s.journalA := rfl
@[simp] theorem State.setCoupe_journalB (s : State) (k : CoupeId) (x : Coupe) : (s.setCoupe k x).journalB = s.journalB := rfl
@[simp] theorem State.setCoupe_journalOk (s : State) (k : CoupeId) (x : Coupe) : (s.setCoupe k x).journalOk = s.journalOk := rfl
@[simp] theorem State.setCoupe_journal (s : State) (k : CoupeId) (x : Coupe) : (s.setCoupe k x).journal = s.journal := rfl
@[simp] theorem State.setCoupe_due (s : State) (k : CoupeId) (x : Coupe) : (s.setCoupe k x).due = s.due := rfl
@[simp] theorem State.setCoupe_journalDue (s : State) (k : CoupeId) (x : Coupe) : (s.setCoupe k x).journalDue = s.journalDue := rfl
@[simp] theorem State.setCoupe_journalSaved (s : State) (k : CoupeId) (x : Coupe) : (s.setCoupe k x).journalSaved = s.journalSaved := rfl
@[simp] theorem State.setCoupe_mirror (s : State) (k : CoupeId) (x : Coupe) : (s.setCoupe k x).mirror = s.mirror := rfl
@[simp] theorem State.setCoupe_runs (s : State) (k : CoupeId) (x : Coupe) : (s.setCoupe k x).runs = s.runs := rfl
@[simp] theorem State.setCoupe_scentRebuild (s : State) (k : CoupeId) (x : Coupe) : (s.setCoupe k x).scentRebuild = s.scentRebuild := rfl
@[simp] theorem State.setCoupe_rings (s : State) (k : CoupeId) (x : Coupe) : (s.setCoupe k x).rings = s.rings := rfl
@[simp] theorem State.setCoupe_fetchLast (s : State) (k : CoupeId) (x : Coupe) : (s.setCoupe k x).fetchLast = s.fetchLast := rfl
@[simp] theorem State.setCoupe_stamp (s : State) (k : CoupeId) (x : Coupe) : (s.setCoupe k x).stamp = s.stamp := rfl
@[simp] theorem State.setCoupe_posted (s : State) (k : CoupeId) (x : Coupe) : (s.setCoupe k x).posted = s.posted := rfl
@[simp] theorem State.setCoupe_events (s : State) (k : CoupeId) (x : Coupe) : (s.setCoupe k x).events = s.events := rfl
@[simp] theorem State.setCoupe_dropped (s : State) (k : CoupeId) (x : Coupe) : (s.setCoupe k x).dropped = s.dropped := rfl
@[simp] theorem State.setCoupe_funcReset (s : State) (k : CoupeId) (x : Coupe) : (s.setCoupe k x).funcReset = s.funcReset := rfl
@[simp] theorem State.setCoupe_coord (s : State) (k : CoupeId) (x : Coupe) : (s.setCoupe k x).coord = s.coord := rfl
@[simp] theorem State.setCoupe_links (s : State) (k : CoupeId) (x : Coupe) : (s.setCoupe k x).links = s.links := rfl
@[simp] theorem State.setCoupe_announced (s : State) (k : CoupeId) (x : Coupe) : (s.setCoupe k x).announced = s.announced := rfl
@[simp] theorem State.setCoupe_sent (s : State) (k : CoupeId) (x : Coupe) : (s.setCoupe k x).sent = s.sent := rfl
@[simp] theorem State.setCoupe_reductions (s : State) (k : CoupeId) (x : Coupe) : (s.setCoupe k x).reductions = s.reductions := rfl
@[simp] theorem State.setCoupe_eth (s : State) (k : CoupeId) (x : Coupe) : (s.setCoupe k x).eth = s.eth := rfl
@[simp] theorem State.setCoupe_workDone (s : State) (k : CoupeId) (x : Coupe) : (s.setCoupe k x).workDone = s.workDone := rfl
@[simp] theorem State.setCoupe_imports (s : State) (k : CoupeId) (x : Coupe) : (s.setCoupe k x).imports = s.imports := rfl
@[simp] theorem State.setCoupe_telemetry (s : State) (k : CoupeId) (x : Coupe) : (s.setCoupe k x).telemetry = s.telemetry := rfl
@[simp] theorem State.setCoupe_setup (s : State) (k : CoupeId) (x : Coupe) : (s.setCoupe k x).setup = s.setup := rfl
@[simp] theorem State.setCoupe_lastLock (s : State) (k : CoupeId) (x : Coupe) : (s.setCoupe k x).lastLock = s.lastLock := rfl
@[simp] theorem State.setCoupe_power (s : State) (k : CoupeId) (x : Coupe) : (s.setCoupe k x).power = s.power := rfl
@[simp] theorem State.setCoupe_rails (s : State) (k : CoupeId) (x : Coupe) : (s.setCoupe k x).rails = s.rails := rfl
@[simp] theorem State.setCoupe_ranger (s : State) (k : CoupeId) (x : Coupe) : (s.setCoupe k x).ranger = s.ranger := rfl
@[simp] theorem State.setCoupe_tests (s : State) (k : CoupeId) (x : Coupe) : (s.setCoupe k x).tests = s.tests := rfl
@[simp] theorem State.setCoupe_testResults (s : State) (k : CoupeId) (x : Coupe) : (s.setCoupe k x).testResults = s.testResults := rfl
@[simp] theorem State.setCoupe_blocks (s : State) (k : CoupeId) (x : Coupe) : (s.setCoupe k x).blocks = s.blocks := rfl
@[simp] theorem State.setCoupe_tap (s : State) (k : CoupeId) (x : Coupe) : (s.setCoupe k x).tap = s.tap := rfl
@[simp] theorem State.setCoupe_tapHolds (s : State) (k : CoupeId) (x : Coupe) : (s.setCoupe k x).tapHolds = s.tapHolds := rfl
@[simp] theorem State.setCoupe_i3c (s : State) (k : CoupeId) (x : Coupe) : (s.setCoupe k x).i3c = s.i3c := rfl
@[simp] theorem State.setCoupe_injected (s : State) (k : CoupeId) (x : Coupe) : (s.setCoupe k x).injected = s.injected := rfl
@[simp] theorem State.setCoupe_yardRefresh (s : State) (k : CoupeId) (x : Coupe) : (s.setCoupe k x).yardRefresh = s.yardRefresh := rfl
@[simp] theorem State.setCoupe_hostOut (s : State) (k : CoupeId) (x : Coupe) : (s.setCoupe k x).hostOut = s.hostOut := rfl
@[simp] theorem State.setCoupe_granted (s : State) (k : CoupeId) (x : Coupe) : (s.setCoupe k x).granted = s.granted := rfl
@[simp] theorem State.setCoupe_moves (s : State) (k : CoupeId) (x : Coupe) : (s.setCoupe k x).moves = s.moves := rfl
@[simp] theorem State.setCoupe_recallLost (s : State) (k : CoupeId) (x : Coupe) : (s.setCoupe k x).recallLost = s.recallLost := rfl
@[simp] theorem State.setCoupe_i3cSent (s : State) (k : CoupeId) (x : Coupe) : (s.setCoupe k x).i3cSent = s.i3cSent := rfl
@[simp] theorem State.setCoupe_dur_seqs (s : State) (k : CoupeId) (x : Coupe) : (s.setCoupe k x).dur.seqs = s.dur.seqs := rfl
@[simp] theorem State.setCoupe_dur_groups (s : State) (k : CoupeId) (x : Coupe) : (s.setCoupe k x).dur.groups = s.dur.groups := rfl
@[simp] theorem State.setCoupe_dur_salts (s : State) (k : CoupeId) (x : Coupe) : (s.setCoupe k x).dur.salts = s.dur.salts := rfl
@[simp] theorem State.setCoupe_dur_scent (s : State) (k : CoupeId) (x : Coupe) : (s.setCoupe k x).dur.scent = s.dur.scent := rfl
@[simp] theorem State.setCoupe_dur_images (s : State) (k : CoupeId) (x : Coupe) : (s.setCoupe k x).dur.images = s.dur.images := rfl
@[simp] theorem State.setCoupe_dur_allocs (s : State) (k : CoupeId) (x : Coupe) : (s.setCoupe k x).dur.allocs = s.dur.allocs := rfl
@[simp] theorem State.setCoupe_dur_commits (s : State) (k : CoupeId) (x : Coupe) : (s.setCoupe k x).dur.commits = s.dur.commits := rfl
@[simp] theorem State.setCoupe_coupe (s : State) (k : CoupeId) (x : Coupe) : (s.setCoupe k x).coupe k = x := by
  simp [State.setCoupe, State.coupe]
theorem State.setCoupe_coupe_other (s : State) (k : CoupeId) (x : Coupe) (j : CoupeId) (h : j ≠ k) :
    (s.setCoupe k x).coupe j = s.coupe j := by
  exact Sparse.get_set_other _ _ _ _ _ (fun e => h (BitVec.toNat_inj.1 e))

/-! ## setRun -/

@[simp] theorem State.setRun_pending (s : State) (k : CoupeId) (x : CoupeRun) : (s.setRun k x).pending = s.pending := rfl
@[simp] theorem State.setRun_timebase (s : State) (k : CoupeId) (x : CoupeRun) : (s.setRun k x).timebase = s.timebase := rfl
@[simp] theorem State.setRun_free (s : State) (k : CoupeId) (x : CoupeRun) : (s.setRun k x).free = s.free := rfl
@[simp] theorem State.setRun_mem (s : State) (k : CoupeId) (x : CoupeRun) : (s.setRun k x).mem = s.mem := rfl
@[simp] theorem State.setRun_poison (s : State) (k : CoupeId) (x : CoupeRun) : (s.setRun k x).poison = s.poison := rfl
@[simp] theorem State.setRun_rowErrors (s : State) (k : CoupeId) (x : CoupeRun) : (s.setRun k x).rowErrors = s.rowErrors := rfl
@[simp] theorem State.setRun_granuleErrors (s : State) (k : CoupeId) (x : CoupeRun) : (s.setRun k x).granuleErrors = s.granuleErrors := rfl
@[simp] theorem State.setRun_cores (s : State) (k : CoupeId) (x : CoupeRun) : (s.setRun k x).cores = s.cores := rfl
@[simp] theorem State.setRun_slots (s : State) (k : CoupeId) (x : CoupeRun) : (s.setRun k x).slots = s.slots := rfl
@[simp] theorem State.setRun_stands (s : State) (k : CoupeId) (x : CoupeRun) : (s.setRun k x).stands = s.stands := rfl
@[simp] theorem State.setRun_sectors (s : State) (k : CoupeId) (x : CoupeRun) : (s.setRun k x).sectors = s.sectors := rfl
@[simp] theorem State.setRun_readReqs (s : State) (k : CoupeId) (x : CoupeRun) : (s.setRun k x).readReqs = s.readReqs := rfl
@[simp] theorem State.setRun_readReplies (s : State) (k : CoupeId) (x : CoupeRun) : (s.setRun k x).readReplies = s.readReplies := rfl
@[simp] theorem State.setRun_windowRows (s : State) (k : CoupeId) (x : CoupeRun) : (s.setRun k x).windowRows = s.windowRows := rfl
@[simp] theorem State.setRun_acks (s : State) (k : CoupeId) (x : CoupeRun) : (s.setRun k x).acks = s.acks := rfl
@[simp] theorem State.setRun_skids (s : State) (k : CoupeId) (x : CoupeRun) : (s.setRun k x).skids = s.skids := rfl
@[simp] theorem State.setRun_leaseHits (s : State) (k : CoupeId) (x : CoupeRun) : (s.setRun k x).leaseHits = s.leaseHits := rfl
@[simp] theorem State.setRun_arrivals (s : State) (k : CoupeId) (x : CoupeRun) : (s.setRun k x).arrivals = s.arrivals := rfl
@[simp] theorem State.setRun_deckStacks (s : State) (k : CoupeId) (x : CoupeRun) : (s.setRun k x).deckStacks = s.deckStacks := rfl
@[simp] theorem State.setRun_channels (s : State) (k : CoupeId) (x : CoupeRun) : (s.setRun k x).channels = s.channels := rfl
@[simp] theorem State.setRun_yardMode (s : State) (k : CoupeId) (x : CoupeRun) : (s.setRun k x).yardMode = s.yardMode := rfl
@[simp] theorem State.setRun_yardGib (s : State) (k : CoupeId) (x : CoupeRun) : (s.setRun k x).yardGib = s.yardGib := rfl
@[simp] theorem State.setRun_transfers (s : State) (k : CoupeId) (x : CoupeRun) : (s.setRun k x).transfers = s.transfers := rfl
@[simp] theorem State.setRun_poolWait (s : State) (k : CoupeId) (x : CoupeRun) : (s.setRun k x).poolWait = s.poolWait := rfl
@[simp] theorem State.setRun_freedGroups (s : State) (k : CoupeId) (x : CoupeRun) : (s.setRun k x).freedGroups = s.freedGroups := rfl
@[simp] theorem State.setRun_journalA (s : State) (k : CoupeId) (x : CoupeRun) : (s.setRun k x).journalA = s.journalA := rfl
@[simp] theorem State.setRun_journalB (s : State) (k : CoupeId) (x : CoupeRun) : (s.setRun k x).journalB = s.journalB := rfl
@[simp] theorem State.setRun_journalOk (s : State) (k : CoupeId) (x : CoupeRun) : (s.setRun k x).journalOk = s.journalOk := rfl
@[simp] theorem State.setRun_dur (s : State) (k : CoupeId) (x : CoupeRun) : (s.setRun k x).dur = s.dur := rfl
@[simp] theorem State.setRun_journal (s : State) (k : CoupeId) (x : CoupeRun) : (s.setRun k x).journal = s.journal := rfl
@[simp] theorem State.setRun_due (s : State) (k : CoupeId) (x : CoupeRun) : (s.setRun k x).due = s.due := rfl
@[simp] theorem State.setRun_journalDue (s : State) (k : CoupeId) (x : CoupeRun) : (s.setRun k x).journalDue = s.journalDue := rfl
@[simp] theorem State.setRun_journalSaved (s : State) (k : CoupeId) (x : CoupeRun) : (s.setRun k x).journalSaved = s.journalSaved := rfl
@[simp] theorem State.setRun_mirror (s : State) (k : CoupeId) (x : CoupeRun) : (s.setRun k x).mirror = s.mirror := rfl
@[simp] theorem State.setRun_scentRebuild (s : State) (k : CoupeId) (x : CoupeRun) : (s.setRun k x).scentRebuild = s.scentRebuild := rfl
@[simp] theorem State.setRun_rings (s : State) (k : CoupeId) (x : CoupeRun) : (s.setRun k x).rings = s.rings := rfl
@[simp] theorem State.setRun_fetchLast (s : State) (k : CoupeId) (x : CoupeRun) : (s.setRun k x).fetchLast = s.fetchLast := rfl
@[simp] theorem State.setRun_stamp (s : State) (k : CoupeId) (x : CoupeRun) : (s.setRun k x).stamp = s.stamp := rfl
@[simp] theorem State.setRun_posted (s : State) (k : CoupeId) (x : CoupeRun) : (s.setRun k x).posted = s.posted := rfl
@[simp] theorem State.setRun_events (s : State) (k : CoupeId) (x : CoupeRun) : (s.setRun k x).events = s.events := rfl
@[simp] theorem State.setRun_dropped (s : State) (k : CoupeId) (x : CoupeRun) : (s.setRun k x).dropped = s.dropped := rfl
@[simp] theorem State.setRun_funcReset (s : State) (k : CoupeId) (x : CoupeRun) : (s.setRun k x).funcReset = s.funcReset := rfl
@[simp] theorem State.setRun_coord (s : State) (k : CoupeId) (x : CoupeRun) : (s.setRun k x).coord = s.coord := rfl
@[simp] theorem State.setRun_links (s : State) (k : CoupeId) (x : CoupeRun) : (s.setRun k x).links = s.links := rfl
@[simp] theorem State.setRun_announced (s : State) (k : CoupeId) (x : CoupeRun) : (s.setRun k x).announced = s.announced := rfl
@[simp] theorem State.setRun_sent (s : State) (k : CoupeId) (x : CoupeRun) : (s.setRun k x).sent = s.sent := rfl
@[simp] theorem State.setRun_reductions (s : State) (k : CoupeId) (x : CoupeRun) : (s.setRun k x).reductions = s.reductions := rfl
@[simp] theorem State.setRun_eth (s : State) (k : CoupeId) (x : CoupeRun) : (s.setRun k x).eth = s.eth := rfl
@[simp] theorem State.setRun_workDone (s : State) (k : CoupeId) (x : CoupeRun) : (s.setRun k x).workDone = s.workDone := rfl
@[simp] theorem State.setRun_imports (s : State) (k : CoupeId) (x : CoupeRun) : (s.setRun k x).imports = s.imports := rfl
@[simp] theorem State.setRun_telemetry (s : State) (k : CoupeId) (x : CoupeRun) : (s.setRun k x).telemetry = s.telemetry := rfl
@[simp] theorem State.setRun_setup (s : State) (k : CoupeId) (x : CoupeRun) : (s.setRun k x).setup = s.setup := rfl
@[simp] theorem State.setRun_lastLock (s : State) (k : CoupeId) (x : CoupeRun) : (s.setRun k x).lastLock = s.lastLock := rfl
@[simp] theorem State.setRun_power (s : State) (k : CoupeId) (x : CoupeRun) : (s.setRun k x).power = s.power := rfl
@[simp] theorem State.setRun_rails (s : State) (k : CoupeId) (x : CoupeRun) : (s.setRun k x).rails = s.rails := rfl
@[simp] theorem State.setRun_ranger (s : State) (k : CoupeId) (x : CoupeRun) : (s.setRun k x).ranger = s.ranger := rfl
@[simp] theorem State.setRun_tests (s : State) (k : CoupeId) (x : CoupeRun) : (s.setRun k x).tests = s.tests := rfl
@[simp] theorem State.setRun_testResults (s : State) (k : CoupeId) (x : CoupeRun) : (s.setRun k x).testResults = s.testResults := rfl
@[simp] theorem State.setRun_blocks (s : State) (k : CoupeId) (x : CoupeRun) : (s.setRun k x).blocks = s.blocks := rfl
@[simp] theorem State.setRun_tap (s : State) (k : CoupeId) (x : CoupeRun) : (s.setRun k x).tap = s.tap := rfl
@[simp] theorem State.setRun_tapHolds (s : State) (k : CoupeId) (x : CoupeRun) : (s.setRun k x).tapHolds = s.tapHolds := rfl
@[simp] theorem State.setRun_i3c (s : State) (k : CoupeId) (x : CoupeRun) : (s.setRun k x).i3c = s.i3c := rfl
@[simp] theorem State.setRun_injected (s : State) (k : CoupeId) (x : CoupeRun) : (s.setRun k x).injected = s.injected := rfl
@[simp] theorem State.setRun_yardRefresh (s : State) (k : CoupeId) (x : CoupeRun) : (s.setRun k x).yardRefresh = s.yardRefresh := rfl
@[simp] theorem State.setRun_hostOut (s : State) (k : CoupeId) (x : CoupeRun) : (s.setRun k x).hostOut = s.hostOut := rfl
@[simp] theorem State.setRun_granted (s : State) (k : CoupeId) (x : CoupeRun) : (s.setRun k x).granted = s.granted := rfl
@[simp] theorem State.setRun_moves (s : State) (k : CoupeId) (x : CoupeRun) : (s.setRun k x).moves = s.moves := rfl
@[simp] theorem State.setRun_recallLost (s : State) (k : CoupeId) (x : CoupeRun) : (s.setRun k x).recallLost = s.recallLost := rfl
@[simp] theorem State.setRun_i3cSent (s : State) (k : CoupeId) (x : CoupeRun) : (s.setRun k x).i3cSent = s.i3cSent := rfl
@[simp] theorem State.setRun_run (s : State) (k : CoupeId) (x : CoupeRun) : (s.setRun k x).run k = x := by
  simp [State.setRun, State.run]
theorem State.setRun_run_other (s : State) (k : CoupeId) (x : CoupeRun) (j : CoupeId) (h : j ≠ k) :
    (s.setRun k x).run j = s.run j := by
  exact Sparse.get_set_other _ _ _ _ _ (fun e => h (BitVec.toNat_inj.1 e))

/-! ## setSeq -/

@[simp] theorem State.setSeq_pending (s : State) (i : SlotId) (x : Seq) : (s.setSeq i x).pending = s.pending := rfl
@[simp] theorem State.setSeq_timebase (s : State) (i : SlotId) (x : Seq) : (s.setSeq i x).timebase = s.timebase := rfl
@[simp] theorem State.setSeq_free (s : State) (i : SlotId) (x : Seq) : (s.setSeq i x).free = s.free := rfl
@[simp] theorem State.setSeq_mem (s : State) (i : SlotId) (x : Seq) : (s.setSeq i x).mem = s.mem := rfl
@[simp] theorem State.setSeq_poison (s : State) (i : SlotId) (x : Seq) : (s.setSeq i x).poison = s.poison := rfl
@[simp] theorem State.setSeq_rowErrors (s : State) (i : SlotId) (x : Seq) : (s.setSeq i x).rowErrors = s.rowErrors := rfl
@[simp] theorem State.setSeq_granuleErrors (s : State) (i : SlotId) (x : Seq) : (s.setSeq i x).granuleErrors = s.granuleErrors := rfl
@[simp] theorem State.setSeq_cores (s : State) (i : SlotId) (x : Seq) : (s.setSeq i x).cores = s.cores := rfl
@[simp] theorem State.setSeq_slots (s : State) (i : SlotId) (x : Seq) : (s.setSeq i x).slots = s.slots := rfl
@[simp] theorem State.setSeq_stands (s : State) (i : SlotId) (x : Seq) : (s.setSeq i x).stands = s.stands := rfl
@[simp] theorem State.setSeq_sectors (s : State) (i : SlotId) (x : Seq) : (s.setSeq i x).sectors = s.sectors := rfl
@[simp] theorem State.setSeq_readReqs (s : State) (i : SlotId) (x : Seq) : (s.setSeq i x).readReqs = s.readReqs := rfl
@[simp] theorem State.setSeq_readReplies (s : State) (i : SlotId) (x : Seq) : (s.setSeq i x).readReplies = s.readReplies := rfl
@[simp] theorem State.setSeq_windowRows (s : State) (i : SlotId) (x : Seq) : (s.setSeq i x).windowRows = s.windowRows := rfl
@[simp] theorem State.setSeq_acks (s : State) (i : SlotId) (x : Seq) : (s.setSeq i x).acks = s.acks := rfl
@[simp] theorem State.setSeq_skids (s : State) (i : SlotId) (x : Seq) : (s.setSeq i x).skids = s.skids := rfl
@[simp] theorem State.setSeq_leaseHits (s : State) (i : SlotId) (x : Seq) : (s.setSeq i x).leaseHits = s.leaseHits := rfl
@[simp] theorem State.setSeq_arrivals (s : State) (i : SlotId) (x : Seq) : (s.setSeq i x).arrivals = s.arrivals := rfl
@[simp] theorem State.setSeq_deckStacks (s : State) (i : SlotId) (x : Seq) : (s.setSeq i x).deckStacks = s.deckStacks := rfl
@[simp] theorem State.setSeq_channels (s : State) (i : SlotId) (x : Seq) : (s.setSeq i x).channels = s.channels := rfl
@[simp] theorem State.setSeq_yardMode (s : State) (i : SlotId) (x : Seq) : (s.setSeq i x).yardMode = s.yardMode := rfl
@[simp] theorem State.setSeq_yardGib (s : State) (i : SlotId) (x : Seq) : (s.setSeq i x).yardGib = s.yardGib := rfl
@[simp] theorem State.setSeq_transfers (s : State) (i : SlotId) (x : Seq) : (s.setSeq i x).transfers = s.transfers := rfl
@[simp] theorem State.setSeq_poolWait (s : State) (i : SlotId) (x : Seq) : (s.setSeq i x).poolWait = s.poolWait := rfl
@[simp] theorem State.setSeq_freedGroups (s : State) (i : SlotId) (x : Seq) : (s.setSeq i x).freedGroups = s.freedGroups := rfl
@[simp] theorem State.setSeq_journalA (s : State) (i : SlotId) (x : Seq) : (s.setSeq i x).journalA = s.journalA := rfl
@[simp] theorem State.setSeq_journalB (s : State) (i : SlotId) (x : Seq) : (s.setSeq i x).journalB = s.journalB := rfl
@[simp] theorem State.setSeq_journalOk (s : State) (i : SlotId) (x : Seq) : (s.setSeq i x).journalOk = s.journalOk := rfl
@[simp] theorem State.setSeq_journal (s : State) (i : SlotId) (x : Seq) : (s.setSeq i x).journal = s.journal := rfl
@[simp] theorem State.setSeq_due (s : State) (i : SlotId) (x : Seq) : (s.setSeq i x).due = s.due := rfl
@[simp] theorem State.setSeq_journalDue (s : State) (i : SlotId) (x : Seq) : (s.setSeq i x).journalDue = s.journalDue := rfl
@[simp] theorem State.setSeq_journalSaved (s : State) (i : SlotId) (x : Seq) : (s.setSeq i x).journalSaved = s.journalSaved := rfl
@[simp] theorem State.setSeq_mirror (s : State) (i : SlotId) (x : Seq) : (s.setSeq i x).mirror = s.mirror := rfl
@[simp] theorem State.setSeq_runs (s : State) (i : SlotId) (x : Seq) : (s.setSeq i x).runs = s.runs := rfl
@[simp] theorem State.setSeq_scentRebuild (s : State) (i : SlotId) (x : Seq) : (s.setSeq i x).scentRebuild = s.scentRebuild := rfl
@[simp] theorem State.setSeq_rings (s : State) (i : SlotId) (x : Seq) : (s.setSeq i x).rings = s.rings := rfl
@[simp] theorem State.setSeq_fetchLast (s : State) (i : SlotId) (x : Seq) : (s.setSeq i x).fetchLast = s.fetchLast := rfl
@[simp] theorem State.setSeq_stamp (s : State) (i : SlotId) (x : Seq) : (s.setSeq i x).stamp = s.stamp := rfl
@[simp] theorem State.setSeq_posted (s : State) (i : SlotId) (x : Seq) : (s.setSeq i x).posted = s.posted := rfl
@[simp] theorem State.setSeq_events (s : State) (i : SlotId) (x : Seq) : (s.setSeq i x).events = s.events := rfl
@[simp] theorem State.setSeq_dropped (s : State) (i : SlotId) (x : Seq) : (s.setSeq i x).dropped = s.dropped := rfl
@[simp] theorem State.setSeq_funcReset (s : State) (i : SlotId) (x : Seq) : (s.setSeq i x).funcReset = s.funcReset := rfl
@[simp] theorem State.setSeq_coord (s : State) (i : SlotId) (x : Seq) : (s.setSeq i x).coord = s.coord := rfl
@[simp] theorem State.setSeq_links (s : State) (i : SlotId) (x : Seq) : (s.setSeq i x).links = s.links := rfl
@[simp] theorem State.setSeq_announced (s : State) (i : SlotId) (x : Seq) : (s.setSeq i x).announced = s.announced := rfl
@[simp] theorem State.setSeq_sent (s : State) (i : SlotId) (x : Seq) : (s.setSeq i x).sent = s.sent := rfl
@[simp] theorem State.setSeq_reductions (s : State) (i : SlotId) (x : Seq) : (s.setSeq i x).reductions = s.reductions := rfl
@[simp] theorem State.setSeq_eth (s : State) (i : SlotId) (x : Seq) : (s.setSeq i x).eth = s.eth := rfl
@[simp] theorem State.setSeq_workDone (s : State) (i : SlotId) (x : Seq) : (s.setSeq i x).workDone = s.workDone := rfl
@[simp] theorem State.setSeq_imports (s : State) (i : SlotId) (x : Seq) : (s.setSeq i x).imports = s.imports := rfl
@[simp] theorem State.setSeq_telemetry (s : State) (i : SlotId) (x : Seq) : (s.setSeq i x).telemetry = s.telemetry := rfl
@[simp] theorem State.setSeq_setup (s : State) (i : SlotId) (x : Seq) : (s.setSeq i x).setup = s.setup := rfl
@[simp] theorem State.setSeq_lastLock (s : State) (i : SlotId) (x : Seq) : (s.setSeq i x).lastLock = s.lastLock := rfl
@[simp] theorem State.setSeq_power (s : State) (i : SlotId) (x : Seq) : (s.setSeq i x).power = s.power := rfl
@[simp] theorem State.setSeq_rails (s : State) (i : SlotId) (x : Seq) : (s.setSeq i x).rails = s.rails := rfl
@[simp] theorem State.setSeq_ranger (s : State) (i : SlotId) (x : Seq) : (s.setSeq i x).ranger = s.ranger := rfl
@[simp] theorem State.setSeq_tests (s : State) (i : SlotId) (x : Seq) : (s.setSeq i x).tests = s.tests := rfl
@[simp] theorem State.setSeq_testResults (s : State) (i : SlotId) (x : Seq) : (s.setSeq i x).testResults = s.testResults := rfl
@[simp] theorem State.setSeq_blocks (s : State) (i : SlotId) (x : Seq) : (s.setSeq i x).blocks = s.blocks := rfl
@[simp] theorem State.setSeq_tap (s : State) (i : SlotId) (x : Seq) : (s.setSeq i x).tap = s.tap := rfl
@[simp] theorem State.setSeq_tapHolds (s : State) (i : SlotId) (x : Seq) : (s.setSeq i x).tapHolds = s.tapHolds := rfl
@[simp] theorem State.setSeq_i3c (s : State) (i : SlotId) (x : Seq) : (s.setSeq i x).i3c = s.i3c := rfl
@[simp] theorem State.setSeq_injected (s : State) (i : SlotId) (x : Seq) : (s.setSeq i x).injected = s.injected := rfl
@[simp] theorem State.setSeq_yardRefresh (s : State) (i : SlotId) (x : Seq) : (s.setSeq i x).yardRefresh = s.yardRefresh := rfl
@[simp] theorem State.setSeq_hostOut (s : State) (i : SlotId) (x : Seq) : (s.setSeq i x).hostOut = s.hostOut := rfl
@[simp] theorem State.setSeq_granted (s : State) (i : SlotId) (x : Seq) : (s.setSeq i x).granted = s.granted := rfl
@[simp] theorem State.setSeq_moves (s : State) (i : SlotId) (x : Seq) : (s.setSeq i x).moves = s.moves := rfl
@[simp] theorem State.setSeq_recallLost (s : State) (i : SlotId) (x : Seq) : (s.setSeq i x).recallLost = s.recallLost := rfl
@[simp] theorem State.setSeq_i3cSent (s : State) (i : SlotId) (x : Seq) : (s.setSeq i x).i3cSent = s.i3cSent := rfl
@[simp] theorem State.setSeq_dur_coupes (s : State) (i : SlotId) (x : Seq) : (s.setSeq i x).dur.coupes = s.dur.coupes := rfl
@[simp] theorem State.setSeq_dur_groups (s : State) (i : SlotId) (x : Seq) : (s.setSeq i x).dur.groups = s.dur.groups := rfl
@[simp] theorem State.setSeq_dur_salts (s : State) (i : SlotId) (x : Seq) : (s.setSeq i x).dur.salts = s.dur.salts := rfl
@[simp] theorem State.setSeq_dur_scent (s : State) (i : SlotId) (x : Seq) : (s.setSeq i x).dur.scent = s.dur.scent := rfl
@[simp] theorem State.setSeq_dur_images (s : State) (i : SlotId) (x : Seq) : (s.setSeq i x).dur.images = s.dur.images := rfl
@[simp] theorem State.setSeq_dur_allocs (s : State) (i : SlotId) (x : Seq) : (s.setSeq i x).dur.allocs = s.dur.allocs := rfl
@[simp] theorem State.setSeq_dur_commits (s : State) (i : SlotId) (x : Seq) : (s.setSeq i x).dur.commits = s.dur.commits := rfl
@[simp] theorem State.setSeq_seq (s : State) (i : SlotId) (x : Seq) : (s.setSeq i x).seq i = x := by
  simp [State.setSeq, State.seq]
theorem State.setSeq_seq_other (s : State) (i : SlotId) (x : Seq) (j : SlotId) (h : j ≠ i) :
    (s.setSeq i x).seq j = s.seq j := by
  exact Sparse.get_set_other _ _ _ _ _ (fun e => h (BitVec.toNat_inj.1 e))

/-! ## setGroup -/

@[simp] theorem State.setGroup_pending (s : State) (i : GroupId) (x : Group) : (s.setGroup i x).pending = s.pending := rfl
@[simp] theorem State.setGroup_timebase (s : State) (i : GroupId) (x : Group) : (s.setGroup i x).timebase = s.timebase := rfl
@[simp] theorem State.setGroup_free (s : State) (i : GroupId) (x : Group) : (s.setGroup i x).free = s.free := rfl
@[simp] theorem State.setGroup_mem (s : State) (i : GroupId) (x : Group) : (s.setGroup i x).mem = s.mem := rfl
@[simp] theorem State.setGroup_poison (s : State) (i : GroupId) (x : Group) : (s.setGroup i x).poison = s.poison := rfl
@[simp] theorem State.setGroup_rowErrors (s : State) (i : GroupId) (x : Group) : (s.setGroup i x).rowErrors = s.rowErrors := rfl
@[simp] theorem State.setGroup_granuleErrors (s : State) (i : GroupId) (x : Group) : (s.setGroup i x).granuleErrors = s.granuleErrors := rfl
@[simp] theorem State.setGroup_cores (s : State) (i : GroupId) (x : Group) : (s.setGroup i x).cores = s.cores := rfl
@[simp] theorem State.setGroup_slots (s : State) (i : GroupId) (x : Group) : (s.setGroup i x).slots = s.slots := rfl
@[simp] theorem State.setGroup_stands (s : State) (i : GroupId) (x : Group) : (s.setGroup i x).stands = s.stands := rfl
@[simp] theorem State.setGroup_sectors (s : State) (i : GroupId) (x : Group) : (s.setGroup i x).sectors = s.sectors := rfl
@[simp] theorem State.setGroup_readReqs (s : State) (i : GroupId) (x : Group) : (s.setGroup i x).readReqs = s.readReqs := rfl
@[simp] theorem State.setGroup_readReplies (s : State) (i : GroupId) (x : Group) : (s.setGroup i x).readReplies = s.readReplies := rfl
@[simp] theorem State.setGroup_windowRows (s : State) (i : GroupId) (x : Group) : (s.setGroup i x).windowRows = s.windowRows := rfl
@[simp] theorem State.setGroup_acks (s : State) (i : GroupId) (x : Group) : (s.setGroup i x).acks = s.acks := rfl
@[simp] theorem State.setGroup_skids (s : State) (i : GroupId) (x : Group) : (s.setGroup i x).skids = s.skids := rfl
@[simp] theorem State.setGroup_leaseHits (s : State) (i : GroupId) (x : Group) : (s.setGroup i x).leaseHits = s.leaseHits := rfl
@[simp] theorem State.setGroup_arrivals (s : State) (i : GroupId) (x : Group) : (s.setGroup i x).arrivals = s.arrivals := rfl
@[simp] theorem State.setGroup_deckStacks (s : State) (i : GroupId) (x : Group) : (s.setGroup i x).deckStacks = s.deckStacks := rfl
@[simp] theorem State.setGroup_channels (s : State) (i : GroupId) (x : Group) : (s.setGroup i x).channels = s.channels := rfl
@[simp] theorem State.setGroup_yardMode (s : State) (i : GroupId) (x : Group) : (s.setGroup i x).yardMode = s.yardMode := rfl
@[simp] theorem State.setGroup_yardGib (s : State) (i : GroupId) (x : Group) : (s.setGroup i x).yardGib = s.yardGib := rfl
@[simp] theorem State.setGroup_transfers (s : State) (i : GroupId) (x : Group) : (s.setGroup i x).transfers = s.transfers := rfl
@[simp] theorem State.setGroup_poolWait (s : State) (i : GroupId) (x : Group) : (s.setGroup i x).poolWait = s.poolWait := rfl
@[simp] theorem State.setGroup_freedGroups (s : State) (i : GroupId) (x : Group) : (s.setGroup i x).freedGroups = s.freedGroups := rfl
@[simp] theorem State.setGroup_journalA (s : State) (i : GroupId) (x : Group) : (s.setGroup i x).journalA = s.journalA := rfl
@[simp] theorem State.setGroup_journalB (s : State) (i : GroupId) (x : Group) : (s.setGroup i x).journalB = s.journalB := rfl
@[simp] theorem State.setGroup_journalOk (s : State) (i : GroupId) (x : Group) : (s.setGroup i x).journalOk = s.journalOk := rfl
@[simp] theorem State.setGroup_journal (s : State) (i : GroupId) (x : Group) : (s.setGroup i x).journal = s.journal := rfl
@[simp] theorem State.setGroup_due (s : State) (i : GroupId) (x : Group) : (s.setGroup i x).due = s.due := rfl
@[simp] theorem State.setGroup_journalDue (s : State) (i : GroupId) (x : Group) : (s.setGroup i x).journalDue = s.journalDue := rfl
@[simp] theorem State.setGroup_journalSaved (s : State) (i : GroupId) (x : Group) : (s.setGroup i x).journalSaved = s.journalSaved := rfl
@[simp] theorem State.setGroup_mirror (s : State) (i : GroupId) (x : Group) : (s.setGroup i x).mirror = s.mirror := rfl
@[simp] theorem State.setGroup_runs (s : State) (i : GroupId) (x : Group) : (s.setGroup i x).runs = s.runs := rfl
@[simp] theorem State.setGroup_scentRebuild (s : State) (i : GroupId) (x : Group) : (s.setGroup i x).scentRebuild = s.scentRebuild := rfl
@[simp] theorem State.setGroup_rings (s : State) (i : GroupId) (x : Group) : (s.setGroup i x).rings = s.rings := rfl
@[simp] theorem State.setGroup_fetchLast (s : State) (i : GroupId) (x : Group) : (s.setGroup i x).fetchLast = s.fetchLast := rfl
@[simp] theorem State.setGroup_stamp (s : State) (i : GroupId) (x : Group) : (s.setGroup i x).stamp = s.stamp := rfl
@[simp] theorem State.setGroup_posted (s : State) (i : GroupId) (x : Group) : (s.setGroup i x).posted = s.posted := rfl
@[simp] theorem State.setGroup_events (s : State) (i : GroupId) (x : Group) : (s.setGroup i x).events = s.events := rfl
@[simp] theorem State.setGroup_dropped (s : State) (i : GroupId) (x : Group) : (s.setGroup i x).dropped = s.dropped := rfl
@[simp] theorem State.setGroup_funcReset (s : State) (i : GroupId) (x : Group) : (s.setGroup i x).funcReset = s.funcReset := rfl
@[simp] theorem State.setGroup_coord (s : State) (i : GroupId) (x : Group) : (s.setGroup i x).coord = s.coord := rfl
@[simp] theorem State.setGroup_links (s : State) (i : GroupId) (x : Group) : (s.setGroup i x).links = s.links := rfl
@[simp] theorem State.setGroup_announced (s : State) (i : GroupId) (x : Group) : (s.setGroup i x).announced = s.announced := rfl
@[simp] theorem State.setGroup_sent (s : State) (i : GroupId) (x : Group) : (s.setGroup i x).sent = s.sent := rfl
@[simp] theorem State.setGroup_reductions (s : State) (i : GroupId) (x : Group) : (s.setGroup i x).reductions = s.reductions := rfl
@[simp] theorem State.setGroup_eth (s : State) (i : GroupId) (x : Group) : (s.setGroup i x).eth = s.eth := rfl
@[simp] theorem State.setGroup_workDone (s : State) (i : GroupId) (x : Group) : (s.setGroup i x).workDone = s.workDone := rfl
@[simp] theorem State.setGroup_imports (s : State) (i : GroupId) (x : Group) : (s.setGroup i x).imports = s.imports := rfl
@[simp] theorem State.setGroup_telemetry (s : State) (i : GroupId) (x : Group) : (s.setGroup i x).telemetry = s.telemetry := rfl
@[simp] theorem State.setGroup_setup (s : State) (i : GroupId) (x : Group) : (s.setGroup i x).setup = s.setup := rfl
@[simp] theorem State.setGroup_lastLock (s : State) (i : GroupId) (x : Group) : (s.setGroup i x).lastLock = s.lastLock := rfl
@[simp] theorem State.setGroup_power (s : State) (i : GroupId) (x : Group) : (s.setGroup i x).power = s.power := rfl
@[simp] theorem State.setGroup_rails (s : State) (i : GroupId) (x : Group) : (s.setGroup i x).rails = s.rails := rfl
@[simp] theorem State.setGroup_ranger (s : State) (i : GroupId) (x : Group) : (s.setGroup i x).ranger = s.ranger := rfl
@[simp] theorem State.setGroup_tests (s : State) (i : GroupId) (x : Group) : (s.setGroup i x).tests = s.tests := rfl
@[simp] theorem State.setGroup_testResults (s : State) (i : GroupId) (x : Group) : (s.setGroup i x).testResults = s.testResults := rfl
@[simp] theorem State.setGroup_blocks (s : State) (i : GroupId) (x : Group) : (s.setGroup i x).blocks = s.blocks := rfl
@[simp] theorem State.setGroup_tap (s : State) (i : GroupId) (x : Group) : (s.setGroup i x).tap = s.tap := rfl
@[simp] theorem State.setGroup_tapHolds (s : State) (i : GroupId) (x : Group) : (s.setGroup i x).tapHolds = s.tapHolds := rfl
@[simp] theorem State.setGroup_i3c (s : State) (i : GroupId) (x : Group) : (s.setGroup i x).i3c = s.i3c := rfl
@[simp] theorem State.setGroup_injected (s : State) (i : GroupId) (x : Group) : (s.setGroup i x).injected = s.injected := rfl
@[simp] theorem State.setGroup_yardRefresh (s : State) (i : GroupId) (x : Group) : (s.setGroup i x).yardRefresh = s.yardRefresh := rfl
@[simp] theorem State.setGroup_hostOut (s : State) (i : GroupId) (x : Group) : (s.setGroup i x).hostOut = s.hostOut := rfl
@[simp] theorem State.setGroup_granted (s : State) (i : GroupId) (x : Group) : (s.setGroup i x).granted = s.granted := rfl
@[simp] theorem State.setGroup_moves (s : State) (i : GroupId) (x : Group) : (s.setGroup i x).moves = s.moves := rfl
@[simp] theorem State.setGroup_recallLost (s : State) (i : GroupId) (x : Group) : (s.setGroup i x).recallLost = s.recallLost := rfl
@[simp] theorem State.setGroup_i3cSent (s : State) (i : GroupId) (x : Group) : (s.setGroup i x).i3cSent = s.i3cSent := rfl
@[simp] theorem State.setGroup_dur_coupes (s : State) (i : GroupId) (x : Group) : (s.setGroup i x).dur.coupes = s.dur.coupes := rfl
@[simp] theorem State.setGroup_dur_seqs (s : State) (i : GroupId) (x : Group) : (s.setGroup i x).dur.seqs = s.dur.seqs := rfl
@[simp] theorem State.setGroup_dur_salts (s : State) (i : GroupId) (x : Group) : (s.setGroup i x).dur.salts = s.dur.salts := rfl
@[simp] theorem State.setGroup_dur_scent (s : State) (i : GroupId) (x : Group) : (s.setGroup i x).dur.scent = s.dur.scent := rfl
@[simp] theorem State.setGroup_dur_images (s : State) (i : GroupId) (x : Group) : (s.setGroup i x).dur.images = s.dur.images := rfl
@[simp] theorem State.setGroup_dur_allocs (s : State) (i : GroupId) (x : Group) : (s.setGroup i x).dur.allocs = s.dur.allocs := rfl
@[simp] theorem State.setGroup_dur_commits (s : State) (i : GroupId) (x : Group) : (s.setGroup i x).dur.commits = s.dur.commits := rfl
@[simp] theorem State.setGroup_group (s : State) (i : GroupId) (x : Group) : (s.setGroup i x).group i = x := by
  simp [State.setGroup, State.group]
theorem State.setGroup_group_other (s : State) (i : GroupId) (x : Group) (j : GroupId) (h : j ≠ i) :
    (s.setGroup i x).group j = s.group j := by
  exact Sparse.get_set_other _ _ _ _ _ (fun e => h (BitVec.toNat_inj.1 e))

/-! ## setImage -/

@[simp] theorem State.setImage_pending (s : State) (n : BitVec 10) (x : Image) : (s.setImage n x).pending = s.pending := rfl
@[simp] theorem State.setImage_timebase (s : State) (n : BitVec 10) (x : Image) : (s.setImage n x).timebase = s.timebase := rfl
@[simp] theorem State.setImage_free (s : State) (n : BitVec 10) (x : Image) : (s.setImage n x).free = s.free := rfl
@[simp] theorem State.setImage_mem (s : State) (n : BitVec 10) (x : Image) : (s.setImage n x).mem = s.mem := rfl
@[simp] theorem State.setImage_poison (s : State) (n : BitVec 10) (x : Image) : (s.setImage n x).poison = s.poison := rfl
@[simp] theorem State.setImage_rowErrors (s : State) (n : BitVec 10) (x : Image) : (s.setImage n x).rowErrors = s.rowErrors := rfl
@[simp] theorem State.setImage_granuleErrors (s : State) (n : BitVec 10) (x : Image) : (s.setImage n x).granuleErrors = s.granuleErrors := rfl
@[simp] theorem State.setImage_cores (s : State) (n : BitVec 10) (x : Image) : (s.setImage n x).cores = s.cores := rfl
@[simp] theorem State.setImage_slots (s : State) (n : BitVec 10) (x : Image) : (s.setImage n x).slots = s.slots := rfl
@[simp] theorem State.setImage_stands (s : State) (n : BitVec 10) (x : Image) : (s.setImage n x).stands = s.stands := rfl
@[simp] theorem State.setImage_sectors (s : State) (n : BitVec 10) (x : Image) : (s.setImage n x).sectors = s.sectors := rfl
@[simp] theorem State.setImage_readReqs (s : State) (n : BitVec 10) (x : Image) : (s.setImage n x).readReqs = s.readReqs := rfl
@[simp] theorem State.setImage_readReplies (s : State) (n : BitVec 10) (x : Image) : (s.setImage n x).readReplies = s.readReplies := rfl
@[simp] theorem State.setImage_windowRows (s : State) (n : BitVec 10) (x : Image) : (s.setImage n x).windowRows = s.windowRows := rfl
@[simp] theorem State.setImage_acks (s : State) (n : BitVec 10) (x : Image) : (s.setImage n x).acks = s.acks := rfl
@[simp] theorem State.setImage_skids (s : State) (n : BitVec 10) (x : Image) : (s.setImage n x).skids = s.skids := rfl
@[simp] theorem State.setImage_leaseHits (s : State) (n : BitVec 10) (x : Image) : (s.setImage n x).leaseHits = s.leaseHits := rfl
@[simp] theorem State.setImage_arrivals (s : State) (n : BitVec 10) (x : Image) : (s.setImage n x).arrivals = s.arrivals := rfl
@[simp] theorem State.setImage_deckStacks (s : State) (n : BitVec 10) (x : Image) : (s.setImage n x).deckStacks = s.deckStacks := rfl
@[simp] theorem State.setImage_channels (s : State) (n : BitVec 10) (x : Image) : (s.setImage n x).channels = s.channels := rfl
@[simp] theorem State.setImage_yardMode (s : State) (n : BitVec 10) (x : Image) : (s.setImage n x).yardMode = s.yardMode := rfl
@[simp] theorem State.setImage_yardGib (s : State) (n : BitVec 10) (x : Image) : (s.setImage n x).yardGib = s.yardGib := rfl
@[simp] theorem State.setImage_transfers (s : State) (n : BitVec 10) (x : Image) : (s.setImage n x).transfers = s.transfers := rfl
@[simp] theorem State.setImage_poolWait (s : State) (n : BitVec 10) (x : Image) : (s.setImage n x).poolWait = s.poolWait := rfl
@[simp] theorem State.setImage_freedGroups (s : State) (n : BitVec 10) (x : Image) : (s.setImage n x).freedGroups = s.freedGroups := rfl
@[simp] theorem State.setImage_journalA (s : State) (n : BitVec 10) (x : Image) : (s.setImage n x).journalA = s.journalA := rfl
@[simp] theorem State.setImage_journalB (s : State) (n : BitVec 10) (x : Image) : (s.setImage n x).journalB = s.journalB := rfl
@[simp] theorem State.setImage_journalOk (s : State) (n : BitVec 10) (x : Image) : (s.setImage n x).journalOk = s.journalOk := rfl
@[simp] theorem State.setImage_journal (s : State) (n : BitVec 10) (x : Image) : (s.setImage n x).journal = s.journal := rfl
@[simp] theorem State.setImage_due (s : State) (n : BitVec 10) (x : Image) : (s.setImage n x).due = s.due := rfl
@[simp] theorem State.setImage_journalDue (s : State) (n : BitVec 10) (x : Image) : (s.setImage n x).journalDue = s.journalDue := rfl
@[simp] theorem State.setImage_journalSaved (s : State) (n : BitVec 10) (x : Image) : (s.setImage n x).journalSaved = s.journalSaved := rfl
@[simp] theorem State.setImage_mirror (s : State) (n : BitVec 10) (x : Image) : (s.setImage n x).mirror = s.mirror := rfl
@[simp] theorem State.setImage_runs (s : State) (n : BitVec 10) (x : Image) : (s.setImage n x).runs = s.runs := rfl
@[simp] theorem State.setImage_scentRebuild (s : State) (n : BitVec 10) (x : Image) : (s.setImage n x).scentRebuild = s.scentRebuild := rfl
@[simp] theorem State.setImage_rings (s : State) (n : BitVec 10) (x : Image) : (s.setImage n x).rings = s.rings := rfl
@[simp] theorem State.setImage_fetchLast (s : State) (n : BitVec 10) (x : Image) : (s.setImage n x).fetchLast = s.fetchLast := rfl
@[simp] theorem State.setImage_stamp (s : State) (n : BitVec 10) (x : Image) : (s.setImage n x).stamp = s.stamp := rfl
@[simp] theorem State.setImage_posted (s : State) (n : BitVec 10) (x : Image) : (s.setImage n x).posted = s.posted := rfl
@[simp] theorem State.setImage_events (s : State) (n : BitVec 10) (x : Image) : (s.setImage n x).events = s.events := rfl
@[simp] theorem State.setImage_dropped (s : State) (n : BitVec 10) (x : Image) : (s.setImage n x).dropped = s.dropped := rfl
@[simp] theorem State.setImage_funcReset (s : State) (n : BitVec 10) (x : Image) : (s.setImage n x).funcReset = s.funcReset := rfl
@[simp] theorem State.setImage_coord (s : State) (n : BitVec 10) (x : Image) : (s.setImage n x).coord = s.coord := rfl
@[simp] theorem State.setImage_links (s : State) (n : BitVec 10) (x : Image) : (s.setImage n x).links = s.links := rfl
@[simp] theorem State.setImage_announced (s : State) (n : BitVec 10) (x : Image) : (s.setImage n x).announced = s.announced := rfl
@[simp] theorem State.setImage_sent (s : State) (n : BitVec 10) (x : Image) : (s.setImage n x).sent = s.sent := rfl
@[simp] theorem State.setImage_reductions (s : State) (n : BitVec 10) (x : Image) : (s.setImage n x).reductions = s.reductions := rfl
@[simp] theorem State.setImage_eth (s : State) (n : BitVec 10) (x : Image) : (s.setImage n x).eth = s.eth := rfl
@[simp] theorem State.setImage_workDone (s : State) (n : BitVec 10) (x : Image) : (s.setImage n x).workDone = s.workDone := rfl
@[simp] theorem State.setImage_imports (s : State) (n : BitVec 10) (x : Image) : (s.setImage n x).imports = s.imports := rfl
@[simp] theorem State.setImage_telemetry (s : State) (n : BitVec 10) (x : Image) : (s.setImage n x).telemetry = s.telemetry := rfl
@[simp] theorem State.setImage_setup (s : State) (n : BitVec 10) (x : Image) : (s.setImage n x).setup = s.setup := rfl
@[simp] theorem State.setImage_lastLock (s : State) (n : BitVec 10) (x : Image) : (s.setImage n x).lastLock = s.lastLock := rfl
@[simp] theorem State.setImage_power (s : State) (n : BitVec 10) (x : Image) : (s.setImage n x).power = s.power := rfl
@[simp] theorem State.setImage_rails (s : State) (n : BitVec 10) (x : Image) : (s.setImage n x).rails = s.rails := rfl
@[simp] theorem State.setImage_ranger (s : State) (n : BitVec 10) (x : Image) : (s.setImage n x).ranger = s.ranger := rfl
@[simp] theorem State.setImage_tests (s : State) (n : BitVec 10) (x : Image) : (s.setImage n x).tests = s.tests := rfl
@[simp] theorem State.setImage_testResults (s : State) (n : BitVec 10) (x : Image) : (s.setImage n x).testResults = s.testResults := rfl
@[simp] theorem State.setImage_blocks (s : State) (n : BitVec 10) (x : Image) : (s.setImage n x).blocks = s.blocks := rfl
@[simp] theorem State.setImage_tap (s : State) (n : BitVec 10) (x : Image) : (s.setImage n x).tap = s.tap := rfl
@[simp] theorem State.setImage_tapHolds (s : State) (n : BitVec 10) (x : Image) : (s.setImage n x).tapHolds = s.tapHolds := rfl
@[simp] theorem State.setImage_i3c (s : State) (n : BitVec 10) (x : Image) : (s.setImage n x).i3c = s.i3c := rfl
@[simp] theorem State.setImage_injected (s : State) (n : BitVec 10) (x : Image) : (s.setImage n x).injected = s.injected := rfl
@[simp] theorem State.setImage_yardRefresh (s : State) (n : BitVec 10) (x : Image) : (s.setImage n x).yardRefresh = s.yardRefresh := rfl
@[simp] theorem State.setImage_hostOut (s : State) (n : BitVec 10) (x : Image) : (s.setImage n x).hostOut = s.hostOut := rfl
@[simp] theorem State.setImage_granted (s : State) (n : BitVec 10) (x : Image) : (s.setImage n x).granted = s.granted := rfl
@[simp] theorem State.setImage_moves (s : State) (n : BitVec 10) (x : Image) : (s.setImage n x).moves = s.moves := rfl
@[simp] theorem State.setImage_recallLost (s : State) (n : BitVec 10) (x : Image) : (s.setImage n x).recallLost = s.recallLost := rfl
@[simp] theorem State.setImage_i3cSent (s : State) (n : BitVec 10) (x : Image) : (s.setImage n x).i3cSent = s.i3cSent := rfl
@[simp] theorem State.setImage_dur_coupes (s : State) (n : BitVec 10) (x : Image) : (s.setImage n x).dur.coupes = s.dur.coupes := rfl
@[simp] theorem State.setImage_dur_seqs (s : State) (n : BitVec 10) (x : Image) : (s.setImage n x).dur.seqs = s.dur.seqs := rfl
@[simp] theorem State.setImage_dur_groups (s : State) (n : BitVec 10) (x : Image) : (s.setImage n x).dur.groups = s.dur.groups := rfl
@[simp] theorem State.setImage_dur_salts (s : State) (n : BitVec 10) (x : Image) : (s.setImage n x).dur.salts = s.dur.salts := rfl
@[simp] theorem State.setImage_dur_scent (s : State) (n : BitVec 10) (x : Image) : (s.setImage n x).dur.scent = s.dur.scent := rfl
@[simp] theorem State.setImage_dur_allocs (s : State) (n : BitVec 10) (x : Image) : (s.setImage n x).dur.allocs = s.dur.allocs := rfl
@[simp] theorem State.setImage_dur_commits (s : State) (n : BitVec 10) (x : Image) : (s.setImage n x).dur.commits = s.dur.commits := rfl
@[simp] theorem State.setImage_image (s : State) (n : BitVec 10) (x : Image) : (s.setImage n x).image n = x := by
  simp [State.setImage, State.image]
theorem State.setImage_image_other (s : State) (n : BitVec 10) (x : Image) (j : BitVec 10) (h : j ≠ n) :
    (s.setImage n x).image j = s.image j := by
  exact Sparse.get_set_other _ _ _ _ _ (fun e => h (BitVec.toNat_inj.1 e))

/-! ## setRing -/

@[simp] theorem State.setRing_pending (s : State) (r : RingId) (x : Ring) : (s.setRing r x).pending = s.pending := rfl
@[simp] theorem State.setRing_timebase (s : State) (r : RingId) (x : Ring) : (s.setRing r x).timebase = s.timebase := rfl
@[simp] theorem State.setRing_free (s : State) (r : RingId) (x : Ring) : (s.setRing r x).free = s.free := rfl
@[simp] theorem State.setRing_mem (s : State) (r : RingId) (x : Ring) : (s.setRing r x).mem = s.mem := rfl
@[simp] theorem State.setRing_poison (s : State) (r : RingId) (x : Ring) : (s.setRing r x).poison = s.poison := rfl
@[simp] theorem State.setRing_rowErrors (s : State) (r : RingId) (x : Ring) : (s.setRing r x).rowErrors = s.rowErrors := rfl
@[simp] theorem State.setRing_granuleErrors (s : State) (r : RingId) (x : Ring) : (s.setRing r x).granuleErrors = s.granuleErrors := rfl
@[simp] theorem State.setRing_cores (s : State) (r : RingId) (x : Ring) : (s.setRing r x).cores = s.cores := rfl
@[simp] theorem State.setRing_slots (s : State) (r : RingId) (x : Ring) : (s.setRing r x).slots = s.slots := rfl
@[simp] theorem State.setRing_stands (s : State) (r : RingId) (x : Ring) : (s.setRing r x).stands = s.stands := rfl
@[simp] theorem State.setRing_sectors (s : State) (r : RingId) (x : Ring) : (s.setRing r x).sectors = s.sectors := rfl
@[simp] theorem State.setRing_readReqs (s : State) (r : RingId) (x : Ring) : (s.setRing r x).readReqs = s.readReqs := rfl
@[simp] theorem State.setRing_readReplies (s : State) (r : RingId) (x : Ring) : (s.setRing r x).readReplies = s.readReplies := rfl
@[simp] theorem State.setRing_windowRows (s : State) (r : RingId) (x : Ring) : (s.setRing r x).windowRows = s.windowRows := rfl
@[simp] theorem State.setRing_acks (s : State) (r : RingId) (x : Ring) : (s.setRing r x).acks = s.acks := rfl
@[simp] theorem State.setRing_skids (s : State) (r : RingId) (x : Ring) : (s.setRing r x).skids = s.skids := rfl
@[simp] theorem State.setRing_leaseHits (s : State) (r : RingId) (x : Ring) : (s.setRing r x).leaseHits = s.leaseHits := rfl
@[simp] theorem State.setRing_arrivals (s : State) (r : RingId) (x : Ring) : (s.setRing r x).arrivals = s.arrivals := rfl
@[simp] theorem State.setRing_deckStacks (s : State) (r : RingId) (x : Ring) : (s.setRing r x).deckStacks = s.deckStacks := rfl
@[simp] theorem State.setRing_channels (s : State) (r : RingId) (x : Ring) : (s.setRing r x).channels = s.channels := rfl
@[simp] theorem State.setRing_yardMode (s : State) (r : RingId) (x : Ring) : (s.setRing r x).yardMode = s.yardMode := rfl
@[simp] theorem State.setRing_yardGib (s : State) (r : RingId) (x : Ring) : (s.setRing r x).yardGib = s.yardGib := rfl
@[simp] theorem State.setRing_transfers (s : State) (r : RingId) (x : Ring) : (s.setRing r x).transfers = s.transfers := rfl
@[simp] theorem State.setRing_poolWait (s : State) (r : RingId) (x : Ring) : (s.setRing r x).poolWait = s.poolWait := rfl
@[simp] theorem State.setRing_freedGroups (s : State) (r : RingId) (x : Ring) : (s.setRing r x).freedGroups = s.freedGroups := rfl
@[simp] theorem State.setRing_journalA (s : State) (r : RingId) (x : Ring) : (s.setRing r x).journalA = s.journalA := rfl
@[simp] theorem State.setRing_journalB (s : State) (r : RingId) (x : Ring) : (s.setRing r x).journalB = s.journalB := rfl
@[simp] theorem State.setRing_journalOk (s : State) (r : RingId) (x : Ring) : (s.setRing r x).journalOk = s.journalOk := rfl
@[simp] theorem State.setRing_dur (s : State) (r : RingId) (x : Ring) : (s.setRing r x).dur = s.dur := rfl
@[simp] theorem State.setRing_journal (s : State) (r : RingId) (x : Ring) : (s.setRing r x).journal = s.journal := rfl
@[simp] theorem State.setRing_due (s : State) (r : RingId) (x : Ring) : (s.setRing r x).due = s.due := rfl
@[simp] theorem State.setRing_journalDue (s : State) (r : RingId) (x : Ring) : (s.setRing r x).journalDue = s.journalDue := rfl
@[simp] theorem State.setRing_journalSaved (s : State) (r : RingId) (x : Ring) : (s.setRing r x).journalSaved = s.journalSaved := rfl
@[simp] theorem State.setRing_mirror (s : State) (r : RingId) (x : Ring) : (s.setRing r x).mirror = s.mirror := rfl
@[simp] theorem State.setRing_runs (s : State) (r : RingId) (x : Ring) : (s.setRing r x).runs = s.runs := rfl
@[simp] theorem State.setRing_scentRebuild (s : State) (r : RingId) (x : Ring) : (s.setRing r x).scentRebuild = s.scentRebuild := rfl
@[simp] theorem State.setRing_fetchLast (s : State) (r : RingId) (x : Ring) : (s.setRing r x).fetchLast = s.fetchLast := rfl
@[simp] theorem State.setRing_stamp (s : State) (r : RingId) (x : Ring) : (s.setRing r x).stamp = s.stamp := rfl
@[simp] theorem State.setRing_posted (s : State) (r : RingId) (x : Ring) : (s.setRing r x).posted = s.posted := rfl
@[simp] theorem State.setRing_events (s : State) (r : RingId) (x : Ring) : (s.setRing r x).events = s.events := rfl
@[simp] theorem State.setRing_dropped (s : State) (r : RingId) (x : Ring) : (s.setRing r x).dropped = s.dropped := rfl
@[simp] theorem State.setRing_funcReset (s : State) (r : RingId) (x : Ring) : (s.setRing r x).funcReset = s.funcReset := rfl
@[simp] theorem State.setRing_coord (s : State) (r : RingId) (x : Ring) : (s.setRing r x).coord = s.coord := rfl
@[simp] theorem State.setRing_links (s : State) (r : RingId) (x : Ring) : (s.setRing r x).links = s.links := rfl
@[simp] theorem State.setRing_announced (s : State) (r : RingId) (x : Ring) : (s.setRing r x).announced = s.announced := rfl
@[simp] theorem State.setRing_sent (s : State) (r : RingId) (x : Ring) : (s.setRing r x).sent = s.sent := rfl
@[simp] theorem State.setRing_reductions (s : State) (r : RingId) (x : Ring) : (s.setRing r x).reductions = s.reductions := rfl
@[simp] theorem State.setRing_eth (s : State) (r : RingId) (x : Ring) : (s.setRing r x).eth = s.eth := rfl
@[simp] theorem State.setRing_workDone (s : State) (r : RingId) (x : Ring) : (s.setRing r x).workDone = s.workDone := rfl
@[simp] theorem State.setRing_imports (s : State) (r : RingId) (x : Ring) : (s.setRing r x).imports = s.imports := rfl
@[simp] theorem State.setRing_telemetry (s : State) (r : RingId) (x : Ring) : (s.setRing r x).telemetry = s.telemetry := rfl
@[simp] theorem State.setRing_setup (s : State) (r : RingId) (x : Ring) : (s.setRing r x).setup = s.setup := rfl
@[simp] theorem State.setRing_lastLock (s : State) (r : RingId) (x : Ring) : (s.setRing r x).lastLock = s.lastLock := rfl
@[simp] theorem State.setRing_power (s : State) (r : RingId) (x : Ring) : (s.setRing r x).power = s.power := rfl
@[simp] theorem State.setRing_rails (s : State) (r : RingId) (x : Ring) : (s.setRing r x).rails = s.rails := rfl
@[simp] theorem State.setRing_ranger (s : State) (r : RingId) (x : Ring) : (s.setRing r x).ranger = s.ranger := rfl
@[simp] theorem State.setRing_tests (s : State) (r : RingId) (x : Ring) : (s.setRing r x).tests = s.tests := rfl
@[simp] theorem State.setRing_testResults (s : State) (r : RingId) (x : Ring) : (s.setRing r x).testResults = s.testResults := rfl
@[simp] theorem State.setRing_blocks (s : State) (r : RingId) (x : Ring) : (s.setRing r x).blocks = s.blocks := rfl
@[simp] theorem State.setRing_tap (s : State) (r : RingId) (x : Ring) : (s.setRing r x).tap = s.tap := rfl
@[simp] theorem State.setRing_tapHolds (s : State) (r : RingId) (x : Ring) : (s.setRing r x).tapHolds = s.tapHolds := rfl
@[simp] theorem State.setRing_i3c (s : State) (r : RingId) (x : Ring) : (s.setRing r x).i3c = s.i3c := rfl
@[simp] theorem State.setRing_injected (s : State) (r : RingId) (x : Ring) : (s.setRing r x).injected = s.injected := rfl
@[simp] theorem State.setRing_yardRefresh (s : State) (r : RingId) (x : Ring) : (s.setRing r x).yardRefresh = s.yardRefresh := rfl
@[simp] theorem State.setRing_hostOut (s : State) (r : RingId) (x : Ring) : (s.setRing r x).hostOut = s.hostOut := rfl
@[simp] theorem State.setRing_granted (s : State) (r : RingId) (x : Ring) : (s.setRing r x).granted = s.granted := rfl
@[simp] theorem State.setRing_moves (s : State) (r : RingId) (x : Ring) : (s.setRing r x).moves = s.moves := rfl
@[simp] theorem State.setRing_recallLost (s : State) (r : RingId) (x : Ring) : (s.setRing r x).recallLost = s.recallLost := rfl
@[simp] theorem State.setRing_i3cSent (s : State) (r : RingId) (x : Ring) : (s.setRing r x).i3cSent = s.i3cSent := rfl
@[simp] theorem State.setRing_ringOf (s : State) (r : RingId) (x : Ring) : (s.setRing r x).ringOf r = x := by
  simp [State.setRing, State.ringOf]
theorem State.setRing_ringOf_other (s : State) (r : RingId) (x : Ring) (j : RingId) (h : j ≠ r) :
    (s.setRing r x).ringOf j = s.ringOf j := by
  exact Sparse.get_set_other _ _ _ _ _ (fun e => h (BitVec.toNat_inj.1 e))

/-! ## setLink -/

@[simp] theorem State.setLink_pending (s : State) (l : LinkId) (x : Link) : (s.setLink l x).pending = s.pending := rfl
@[simp] theorem State.setLink_timebase (s : State) (l : LinkId) (x : Link) : (s.setLink l x).timebase = s.timebase := rfl
@[simp] theorem State.setLink_free (s : State) (l : LinkId) (x : Link) : (s.setLink l x).free = s.free := rfl
@[simp] theorem State.setLink_mem (s : State) (l : LinkId) (x : Link) : (s.setLink l x).mem = s.mem := rfl
@[simp] theorem State.setLink_poison (s : State) (l : LinkId) (x : Link) : (s.setLink l x).poison = s.poison := rfl
@[simp] theorem State.setLink_rowErrors (s : State) (l : LinkId) (x : Link) : (s.setLink l x).rowErrors = s.rowErrors := rfl
@[simp] theorem State.setLink_granuleErrors (s : State) (l : LinkId) (x : Link) : (s.setLink l x).granuleErrors = s.granuleErrors := rfl
@[simp] theorem State.setLink_cores (s : State) (l : LinkId) (x : Link) : (s.setLink l x).cores = s.cores := rfl
@[simp] theorem State.setLink_slots (s : State) (l : LinkId) (x : Link) : (s.setLink l x).slots = s.slots := rfl
@[simp] theorem State.setLink_stands (s : State) (l : LinkId) (x : Link) : (s.setLink l x).stands = s.stands := rfl
@[simp] theorem State.setLink_sectors (s : State) (l : LinkId) (x : Link) : (s.setLink l x).sectors = s.sectors := rfl
@[simp] theorem State.setLink_readReqs (s : State) (l : LinkId) (x : Link) : (s.setLink l x).readReqs = s.readReqs := rfl
@[simp] theorem State.setLink_readReplies (s : State) (l : LinkId) (x : Link) : (s.setLink l x).readReplies = s.readReplies := rfl
@[simp] theorem State.setLink_windowRows (s : State) (l : LinkId) (x : Link) : (s.setLink l x).windowRows = s.windowRows := rfl
@[simp] theorem State.setLink_acks (s : State) (l : LinkId) (x : Link) : (s.setLink l x).acks = s.acks := rfl
@[simp] theorem State.setLink_skids (s : State) (l : LinkId) (x : Link) : (s.setLink l x).skids = s.skids := rfl
@[simp] theorem State.setLink_leaseHits (s : State) (l : LinkId) (x : Link) : (s.setLink l x).leaseHits = s.leaseHits := rfl
@[simp] theorem State.setLink_arrivals (s : State) (l : LinkId) (x : Link) : (s.setLink l x).arrivals = s.arrivals := rfl
@[simp] theorem State.setLink_deckStacks (s : State) (l : LinkId) (x : Link) : (s.setLink l x).deckStacks = s.deckStacks := rfl
@[simp] theorem State.setLink_channels (s : State) (l : LinkId) (x : Link) : (s.setLink l x).channels = s.channels := rfl
@[simp] theorem State.setLink_yardMode (s : State) (l : LinkId) (x : Link) : (s.setLink l x).yardMode = s.yardMode := rfl
@[simp] theorem State.setLink_yardGib (s : State) (l : LinkId) (x : Link) : (s.setLink l x).yardGib = s.yardGib := rfl
@[simp] theorem State.setLink_transfers (s : State) (l : LinkId) (x : Link) : (s.setLink l x).transfers = s.transfers := rfl
@[simp] theorem State.setLink_poolWait (s : State) (l : LinkId) (x : Link) : (s.setLink l x).poolWait = s.poolWait := rfl
@[simp] theorem State.setLink_freedGroups (s : State) (l : LinkId) (x : Link) : (s.setLink l x).freedGroups = s.freedGroups := rfl
@[simp] theorem State.setLink_journalA (s : State) (l : LinkId) (x : Link) : (s.setLink l x).journalA = s.journalA := rfl
@[simp] theorem State.setLink_journalB (s : State) (l : LinkId) (x : Link) : (s.setLink l x).journalB = s.journalB := rfl
@[simp] theorem State.setLink_journalOk (s : State) (l : LinkId) (x : Link) : (s.setLink l x).journalOk = s.journalOk := rfl
@[simp] theorem State.setLink_dur (s : State) (l : LinkId) (x : Link) : (s.setLink l x).dur = s.dur := rfl
@[simp] theorem State.setLink_journal (s : State) (l : LinkId) (x : Link) : (s.setLink l x).journal = s.journal := rfl
@[simp] theorem State.setLink_due (s : State) (l : LinkId) (x : Link) : (s.setLink l x).due = s.due := rfl
@[simp] theorem State.setLink_journalDue (s : State) (l : LinkId) (x : Link) : (s.setLink l x).journalDue = s.journalDue := rfl
@[simp] theorem State.setLink_journalSaved (s : State) (l : LinkId) (x : Link) : (s.setLink l x).journalSaved = s.journalSaved := rfl
@[simp] theorem State.setLink_mirror (s : State) (l : LinkId) (x : Link) : (s.setLink l x).mirror = s.mirror := rfl
@[simp] theorem State.setLink_runs (s : State) (l : LinkId) (x : Link) : (s.setLink l x).runs = s.runs := rfl
@[simp] theorem State.setLink_scentRebuild (s : State) (l : LinkId) (x : Link) : (s.setLink l x).scentRebuild = s.scentRebuild := rfl
@[simp] theorem State.setLink_rings (s : State) (l : LinkId) (x : Link) : (s.setLink l x).rings = s.rings := rfl
@[simp] theorem State.setLink_fetchLast (s : State) (l : LinkId) (x : Link) : (s.setLink l x).fetchLast = s.fetchLast := rfl
@[simp] theorem State.setLink_stamp (s : State) (l : LinkId) (x : Link) : (s.setLink l x).stamp = s.stamp := rfl
@[simp] theorem State.setLink_posted (s : State) (l : LinkId) (x : Link) : (s.setLink l x).posted = s.posted := rfl
@[simp] theorem State.setLink_events (s : State) (l : LinkId) (x : Link) : (s.setLink l x).events = s.events := rfl
@[simp] theorem State.setLink_dropped (s : State) (l : LinkId) (x : Link) : (s.setLink l x).dropped = s.dropped := rfl
@[simp] theorem State.setLink_funcReset (s : State) (l : LinkId) (x : Link) : (s.setLink l x).funcReset = s.funcReset := rfl
@[simp] theorem State.setLink_coord (s : State) (l : LinkId) (x : Link) : (s.setLink l x).coord = s.coord := rfl
@[simp] theorem State.setLink_announced (s : State) (l : LinkId) (x : Link) : (s.setLink l x).announced = s.announced := rfl
@[simp] theorem State.setLink_sent (s : State) (l : LinkId) (x : Link) : (s.setLink l x).sent = s.sent := rfl
@[simp] theorem State.setLink_reductions (s : State) (l : LinkId) (x : Link) : (s.setLink l x).reductions = s.reductions := rfl
@[simp] theorem State.setLink_eth (s : State) (l : LinkId) (x : Link) : (s.setLink l x).eth = s.eth := rfl
@[simp] theorem State.setLink_workDone (s : State) (l : LinkId) (x : Link) : (s.setLink l x).workDone = s.workDone := rfl
@[simp] theorem State.setLink_imports (s : State) (l : LinkId) (x : Link) : (s.setLink l x).imports = s.imports := rfl
@[simp] theorem State.setLink_telemetry (s : State) (l : LinkId) (x : Link) : (s.setLink l x).telemetry = s.telemetry := rfl
@[simp] theorem State.setLink_setup (s : State) (l : LinkId) (x : Link) : (s.setLink l x).setup = s.setup := rfl
@[simp] theorem State.setLink_lastLock (s : State) (l : LinkId) (x : Link) : (s.setLink l x).lastLock = s.lastLock := rfl
@[simp] theorem State.setLink_power (s : State) (l : LinkId) (x : Link) : (s.setLink l x).power = s.power := rfl
@[simp] theorem State.setLink_rails (s : State) (l : LinkId) (x : Link) : (s.setLink l x).rails = s.rails := rfl
@[simp] theorem State.setLink_ranger (s : State) (l : LinkId) (x : Link) : (s.setLink l x).ranger = s.ranger := rfl
@[simp] theorem State.setLink_tests (s : State) (l : LinkId) (x : Link) : (s.setLink l x).tests = s.tests := rfl
@[simp] theorem State.setLink_testResults (s : State) (l : LinkId) (x : Link) : (s.setLink l x).testResults = s.testResults := rfl
@[simp] theorem State.setLink_blocks (s : State) (l : LinkId) (x : Link) : (s.setLink l x).blocks = s.blocks := rfl
@[simp] theorem State.setLink_tap (s : State) (l : LinkId) (x : Link) : (s.setLink l x).tap = s.tap := rfl
@[simp] theorem State.setLink_tapHolds (s : State) (l : LinkId) (x : Link) : (s.setLink l x).tapHolds = s.tapHolds := rfl
@[simp] theorem State.setLink_i3c (s : State) (l : LinkId) (x : Link) : (s.setLink l x).i3c = s.i3c := rfl
@[simp] theorem State.setLink_injected (s : State) (l : LinkId) (x : Link) : (s.setLink l x).injected = s.injected := rfl
@[simp] theorem State.setLink_yardRefresh (s : State) (l : LinkId) (x : Link) : (s.setLink l x).yardRefresh = s.yardRefresh := rfl
@[simp] theorem State.setLink_hostOut (s : State) (l : LinkId) (x : Link) : (s.setLink l x).hostOut = s.hostOut := rfl
@[simp] theorem State.setLink_granted (s : State) (l : LinkId) (x : Link) : (s.setLink l x).granted = s.granted := rfl
@[simp] theorem State.setLink_moves (s : State) (l : LinkId) (x : Link) : (s.setLink l x).moves = s.moves := rfl
@[simp] theorem State.setLink_recallLost (s : State) (l : LinkId) (x : Link) : (s.setLink l x).recallLost = s.recallLost := rfl
@[simp] theorem State.setLink_i3cSent (s : State) (l : LinkId) (x : Link) : (s.setLink l x).i3cSent = s.i3cSent := rfl
@[simp] theorem State.setLink_link (s : State) (l : LinkId) (x : Link) : (s.setLink l x).link l = x := by
  simp [State.setLink, State.link]
theorem State.setLink_link_other (s : State) (l : LinkId) (x : Link) (j : LinkId) (h : j ≠ l) :
    (s.setLink l x).link j = s.link j := by
  exact Sparse.get_set_other _ _ _ _ _ (fun e => h (Fin.val_inj.1 e))

/-! ## setRail -/

@[simp] theorem State.setRail_pending (s : State) (i : Nat) (x : RailUnit) : (s.setRail i x).pending = s.pending := rfl
@[simp] theorem State.setRail_timebase (s : State) (i : Nat) (x : RailUnit) : (s.setRail i x).timebase = s.timebase := rfl
@[simp] theorem State.setRail_free (s : State) (i : Nat) (x : RailUnit) : (s.setRail i x).free = s.free := rfl
@[simp] theorem State.setRail_mem (s : State) (i : Nat) (x : RailUnit) : (s.setRail i x).mem = s.mem := rfl
@[simp] theorem State.setRail_poison (s : State) (i : Nat) (x : RailUnit) : (s.setRail i x).poison = s.poison := rfl
@[simp] theorem State.setRail_rowErrors (s : State) (i : Nat) (x : RailUnit) : (s.setRail i x).rowErrors = s.rowErrors := rfl
@[simp] theorem State.setRail_granuleErrors (s : State) (i : Nat) (x : RailUnit) : (s.setRail i x).granuleErrors = s.granuleErrors := rfl
@[simp] theorem State.setRail_cores (s : State) (i : Nat) (x : RailUnit) : (s.setRail i x).cores = s.cores := rfl
@[simp] theorem State.setRail_slots (s : State) (i : Nat) (x : RailUnit) : (s.setRail i x).slots = s.slots := rfl
@[simp] theorem State.setRail_stands (s : State) (i : Nat) (x : RailUnit) : (s.setRail i x).stands = s.stands := rfl
@[simp] theorem State.setRail_sectors (s : State) (i : Nat) (x : RailUnit) : (s.setRail i x).sectors = s.sectors := rfl
@[simp] theorem State.setRail_readReqs (s : State) (i : Nat) (x : RailUnit) : (s.setRail i x).readReqs = s.readReqs := rfl
@[simp] theorem State.setRail_readReplies (s : State) (i : Nat) (x : RailUnit) : (s.setRail i x).readReplies = s.readReplies := rfl
@[simp] theorem State.setRail_windowRows (s : State) (i : Nat) (x : RailUnit) : (s.setRail i x).windowRows = s.windowRows := rfl
@[simp] theorem State.setRail_acks (s : State) (i : Nat) (x : RailUnit) : (s.setRail i x).acks = s.acks := rfl
@[simp] theorem State.setRail_skids (s : State) (i : Nat) (x : RailUnit) : (s.setRail i x).skids = s.skids := rfl
@[simp] theorem State.setRail_leaseHits (s : State) (i : Nat) (x : RailUnit) : (s.setRail i x).leaseHits = s.leaseHits := rfl
@[simp] theorem State.setRail_arrivals (s : State) (i : Nat) (x : RailUnit) : (s.setRail i x).arrivals = s.arrivals := rfl
@[simp] theorem State.setRail_deckStacks (s : State) (i : Nat) (x : RailUnit) : (s.setRail i x).deckStacks = s.deckStacks := rfl
@[simp] theorem State.setRail_channels (s : State) (i : Nat) (x : RailUnit) : (s.setRail i x).channels = s.channels := rfl
@[simp] theorem State.setRail_yardMode (s : State) (i : Nat) (x : RailUnit) : (s.setRail i x).yardMode = s.yardMode := rfl
@[simp] theorem State.setRail_yardGib (s : State) (i : Nat) (x : RailUnit) : (s.setRail i x).yardGib = s.yardGib := rfl
@[simp] theorem State.setRail_transfers (s : State) (i : Nat) (x : RailUnit) : (s.setRail i x).transfers = s.transfers := rfl
@[simp] theorem State.setRail_poolWait (s : State) (i : Nat) (x : RailUnit) : (s.setRail i x).poolWait = s.poolWait := rfl
@[simp] theorem State.setRail_freedGroups (s : State) (i : Nat) (x : RailUnit) : (s.setRail i x).freedGroups = s.freedGroups := rfl
@[simp] theorem State.setRail_journalA (s : State) (i : Nat) (x : RailUnit) : (s.setRail i x).journalA = s.journalA := rfl
@[simp] theorem State.setRail_journalB (s : State) (i : Nat) (x : RailUnit) : (s.setRail i x).journalB = s.journalB := rfl
@[simp] theorem State.setRail_journalOk (s : State) (i : Nat) (x : RailUnit) : (s.setRail i x).journalOk = s.journalOk := rfl
@[simp] theorem State.setRail_dur (s : State) (i : Nat) (x : RailUnit) : (s.setRail i x).dur = s.dur := rfl
@[simp] theorem State.setRail_journal (s : State) (i : Nat) (x : RailUnit) : (s.setRail i x).journal = s.journal := rfl
@[simp] theorem State.setRail_due (s : State) (i : Nat) (x : RailUnit) : (s.setRail i x).due = s.due := rfl
@[simp] theorem State.setRail_journalDue (s : State) (i : Nat) (x : RailUnit) : (s.setRail i x).journalDue = s.journalDue := rfl
@[simp] theorem State.setRail_journalSaved (s : State) (i : Nat) (x : RailUnit) : (s.setRail i x).journalSaved = s.journalSaved := rfl
@[simp] theorem State.setRail_mirror (s : State) (i : Nat) (x : RailUnit) : (s.setRail i x).mirror = s.mirror := rfl
@[simp] theorem State.setRail_runs (s : State) (i : Nat) (x : RailUnit) : (s.setRail i x).runs = s.runs := rfl
@[simp] theorem State.setRail_scentRebuild (s : State) (i : Nat) (x : RailUnit) : (s.setRail i x).scentRebuild = s.scentRebuild := rfl
@[simp] theorem State.setRail_rings (s : State) (i : Nat) (x : RailUnit) : (s.setRail i x).rings = s.rings := rfl
@[simp] theorem State.setRail_fetchLast (s : State) (i : Nat) (x : RailUnit) : (s.setRail i x).fetchLast = s.fetchLast := rfl
@[simp] theorem State.setRail_stamp (s : State) (i : Nat) (x : RailUnit) : (s.setRail i x).stamp = s.stamp := rfl
@[simp] theorem State.setRail_posted (s : State) (i : Nat) (x : RailUnit) : (s.setRail i x).posted = s.posted := rfl
@[simp] theorem State.setRail_events (s : State) (i : Nat) (x : RailUnit) : (s.setRail i x).events = s.events := rfl
@[simp] theorem State.setRail_dropped (s : State) (i : Nat) (x : RailUnit) : (s.setRail i x).dropped = s.dropped := rfl
@[simp] theorem State.setRail_funcReset (s : State) (i : Nat) (x : RailUnit) : (s.setRail i x).funcReset = s.funcReset := rfl
@[simp] theorem State.setRail_coord (s : State) (i : Nat) (x : RailUnit) : (s.setRail i x).coord = s.coord := rfl
@[simp] theorem State.setRail_links (s : State) (i : Nat) (x : RailUnit) : (s.setRail i x).links = s.links := rfl
@[simp] theorem State.setRail_announced (s : State) (i : Nat) (x : RailUnit) : (s.setRail i x).announced = s.announced := rfl
@[simp] theorem State.setRail_sent (s : State) (i : Nat) (x : RailUnit) : (s.setRail i x).sent = s.sent := rfl
@[simp] theorem State.setRail_reductions (s : State) (i : Nat) (x : RailUnit) : (s.setRail i x).reductions = s.reductions := rfl
@[simp] theorem State.setRail_eth (s : State) (i : Nat) (x : RailUnit) : (s.setRail i x).eth = s.eth := rfl
@[simp] theorem State.setRail_workDone (s : State) (i : Nat) (x : RailUnit) : (s.setRail i x).workDone = s.workDone := rfl
@[simp] theorem State.setRail_imports (s : State) (i : Nat) (x : RailUnit) : (s.setRail i x).imports = s.imports := rfl
@[simp] theorem State.setRail_telemetry (s : State) (i : Nat) (x : RailUnit) : (s.setRail i x).telemetry = s.telemetry := rfl
@[simp] theorem State.setRail_setup (s : State) (i : Nat) (x : RailUnit) : (s.setRail i x).setup = s.setup := rfl
@[simp] theorem State.setRail_lastLock (s : State) (i : Nat) (x : RailUnit) : (s.setRail i x).lastLock = s.lastLock := rfl
@[simp] theorem State.setRail_power (s : State) (i : Nat) (x : RailUnit) : (s.setRail i x).power = s.power := rfl
@[simp] theorem State.setRail_ranger (s : State) (i : Nat) (x : RailUnit) : (s.setRail i x).ranger = s.ranger := rfl
@[simp] theorem State.setRail_tests (s : State) (i : Nat) (x : RailUnit) : (s.setRail i x).tests = s.tests := rfl
@[simp] theorem State.setRail_testResults (s : State) (i : Nat) (x : RailUnit) : (s.setRail i x).testResults = s.testResults := rfl
@[simp] theorem State.setRail_blocks (s : State) (i : Nat) (x : RailUnit) : (s.setRail i x).blocks = s.blocks := rfl
@[simp] theorem State.setRail_tap (s : State) (i : Nat) (x : RailUnit) : (s.setRail i x).tap = s.tap := rfl
@[simp] theorem State.setRail_tapHolds (s : State) (i : Nat) (x : RailUnit) : (s.setRail i x).tapHolds = s.tapHolds := rfl
@[simp] theorem State.setRail_i3c (s : State) (i : Nat) (x : RailUnit) : (s.setRail i x).i3c = s.i3c := rfl
@[simp] theorem State.setRail_injected (s : State) (i : Nat) (x : RailUnit) : (s.setRail i x).injected = s.injected := rfl
@[simp] theorem State.setRail_yardRefresh (s : State) (i : Nat) (x : RailUnit) : (s.setRail i x).yardRefresh = s.yardRefresh := rfl
@[simp] theorem State.setRail_hostOut (s : State) (i : Nat) (x : RailUnit) : (s.setRail i x).hostOut = s.hostOut := rfl
@[simp] theorem State.setRail_granted (s : State) (i : Nat) (x : RailUnit) : (s.setRail i x).granted = s.granted := rfl
@[simp] theorem State.setRail_moves (s : State) (i : Nat) (x : RailUnit) : (s.setRail i x).moves = s.moves := rfl
@[simp] theorem State.setRail_recallLost (s : State) (i : Nat) (x : RailUnit) : (s.setRail i x).recallLost = s.recallLost := rfl
@[simp] theorem State.setRail_i3cSent (s : State) (i : Nat) (x : RailUnit) : (s.setRail i x).i3cSent = s.i3cSent := rfl
@[simp] theorem State.setRail_railUnit (s : State) (i : Nat) (x : RailUnit) : (s.setRail i x).railUnit i = x := by
  simp [State.setRail, State.railUnit]
theorem State.setRail_railUnit_other (s : State) (i : Nat) (x : RailUnit) (j : Nat) (h : j ≠ i) :
    (s.setRail i x).railUnit j = s.railUnit j := by
  exact Sparse.get_set_other _ _ _ _ _ h

/-! ## setEth -/

@[simp] theorem State.setEth_pending (s : State) (p : Bool) (x : EthPort) : (s.setEth p x).pending = s.pending := rfl
@[simp] theorem State.setEth_timebase (s : State) (p : Bool) (x : EthPort) : (s.setEth p x).timebase = s.timebase := rfl
@[simp] theorem State.setEth_free (s : State) (p : Bool) (x : EthPort) : (s.setEth p x).free = s.free := rfl
@[simp] theorem State.setEth_mem (s : State) (p : Bool) (x : EthPort) : (s.setEth p x).mem = s.mem := rfl
@[simp] theorem State.setEth_poison (s : State) (p : Bool) (x : EthPort) : (s.setEth p x).poison = s.poison := rfl
@[simp] theorem State.setEth_rowErrors (s : State) (p : Bool) (x : EthPort) : (s.setEth p x).rowErrors = s.rowErrors := rfl
@[simp] theorem State.setEth_granuleErrors (s : State) (p : Bool) (x : EthPort) : (s.setEth p x).granuleErrors = s.granuleErrors := rfl
@[simp] theorem State.setEth_cores (s : State) (p : Bool) (x : EthPort) : (s.setEth p x).cores = s.cores := rfl
@[simp] theorem State.setEth_slots (s : State) (p : Bool) (x : EthPort) : (s.setEth p x).slots = s.slots := rfl
@[simp] theorem State.setEth_stands (s : State) (p : Bool) (x : EthPort) : (s.setEth p x).stands = s.stands := rfl
@[simp] theorem State.setEth_sectors (s : State) (p : Bool) (x : EthPort) : (s.setEth p x).sectors = s.sectors := rfl
@[simp] theorem State.setEth_readReqs (s : State) (p : Bool) (x : EthPort) : (s.setEth p x).readReqs = s.readReqs := rfl
@[simp] theorem State.setEth_readReplies (s : State) (p : Bool) (x : EthPort) : (s.setEth p x).readReplies = s.readReplies := rfl
@[simp] theorem State.setEth_windowRows (s : State) (p : Bool) (x : EthPort) : (s.setEth p x).windowRows = s.windowRows := rfl
@[simp] theorem State.setEth_acks (s : State) (p : Bool) (x : EthPort) : (s.setEth p x).acks = s.acks := rfl
@[simp] theorem State.setEth_skids (s : State) (p : Bool) (x : EthPort) : (s.setEth p x).skids = s.skids := rfl
@[simp] theorem State.setEth_leaseHits (s : State) (p : Bool) (x : EthPort) : (s.setEth p x).leaseHits = s.leaseHits := rfl
@[simp] theorem State.setEth_arrivals (s : State) (p : Bool) (x : EthPort) : (s.setEth p x).arrivals = s.arrivals := rfl
@[simp] theorem State.setEth_deckStacks (s : State) (p : Bool) (x : EthPort) : (s.setEth p x).deckStacks = s.deckStacks := rfl
@[simp] theorem State.setEth_channels (s : State) (p : Bool) (x : EthPort) : (s.setEth p x).channels = s.channels := rfl
@[simp] theorem State.setEth_yardMode (s : State) (p : Bool) (x : EthPort) : (s.setEth p x).yardMode = s.yardMode := rfl
@[simp] theorem State.setEth_yardGib (s : State) (p : Bool) (x : EthPort) : (s.setEth p x).yardGib = s.yardGib := rfl
@[simp] theorem State.setEth_transfers (s : State) (p : Bool) (x : EthPort) : (s.setEth p x).transfers = s.transfers := rfl
@[simp] theorem State.setEth_poolWait (s : State) (p : Bool) (x : EthPort) : (s.setEth p x).poolWait = s.poolWait := rfl
@[simp] theorem State.setEth_freedGroups (s : State) (p : Bool) (x : EthPort) : (s.setEth p x).freedGroups = s.freedGroups := rfl
@[simp] theorem State.setEth_journalA (s : State) (p : Bool) (x : EthPort) : (s.setEth p x).journalA = s.journalA := rfl
@[simp] theorem State.setEth_journalB (s : State) (p : Bool) (x : EthPort) : (s.setEth p x).journalB = s.journalB := rfl
@[simp] theorem State.setEth_journalOk (s : State) (p : Bool) (x : EthPort) : (s.setEth p x).journalOk = s.journalOk := rfl
@[simp] theorem State.setEth_dur (s : State) (p : Bool) (x : EthPort) : (s.setEth p x).dur = s.dur := rfl
@[simp] theorem State.setEth_journal (s : State) (p : Bool) (x : EthPort) : (s.setEth p x).journal = s.journal := rfl
@[simp] theorem State.setEth_due (s : State) (p : Bool) (x : EthPort) : (s.setEth p x).due = s.due := rfl
@[simp] theorem State.setEth_journalDue (s : State) (p : Bool) (x : EthPort) : (s.setEth p x).journalDue = s.journalDue := rfl
@[simp] theorem State.setEth_journalSaved (s : State) (p : Bool) (x : EthPort) : (s.setEth p x).journalSaved = s.journalSaved := rfl
@[simp] theorem State.setEth_mirror (s : State) (p : Bool) (x : EthPort) : (s.setEth p x).mirror = s.mirror := rfl
@[simp] theorem State.setEth_runs (s : State) (p : Bool) (x : EthPort) : (s.setEth p x).runs = s.runs := rfl
@[simp] theorem State.setEth_scentRebuild (s : State) (p : Bool) (x : EthPort) : (s.setEth p x).scentRebuild = s.scentRebuild := rfl
@[simp] theorem State.setEth_rings (s : State) (p : Bool) (x : EthPort) : (s.setEth p x).rings = s.rings := rfl
@[simp] theorem State.setEth_fetchLast (s : State) (p : Bool) (x : EthPort) : (s.setEth p x).fetchLast = s.fetchLast := rfl
@[simp] theorem State.setEth_stamp (s : State) (p : Bool) (x : EthPort) : (s.setEth p x).stamp = s.stamp := rfl
@[simp] theorem State.setEth_posted (s : State) (p : Bool) (x : EthPort) : (s.setEth p x).posted = s.posted := rfl
@[simp] theorem State.setEth_events (s : State) (p : Bool) (x : EthPort) : (s.setEth p x).events = s.events := rfl
@[simp] theorem State.setEth_dropped (s : State) (p : Bool) (x : EthPort) : (s.setEth p x).dropped = s.dropped := rfl
@[simp] theorem State.setEth_funcReset (s : State) (p : Bool) (x : EthPort) : (s.setEth p x).funcReset = s.funcReset := rfl
@[simp] theorem State.setEth_coord (s : State) (p : Bool) (x : EthPort) : (s.setEth p x).coord = s.coord := rfl
@[simp] theorem State.setEth_links (s : State) (p : Bool) (x : EthPort) : (s.setEth p x).links = s.links := rfl
@[simp] theorem State.setEth_announced (s : State) (p : Bool) (x : EthPort) : (s.setEth p x).announced = s.announced := rfl
@[simp] theorem State.setEth_sent (s : State) (p : Bool) (x : EthPort) : (s.setEth p x).sent = s.sent := rfl
@[simp] theorem State.setEth_reductions (s : State) (p : Bool) (x : EthPort) : (s.setEth p x).reductions = s.reductions := rfl
@[simp] theorem State.setEth_workDone (s : State) (p : Bool) (x : EthPort) : (s.setEth p x).workDone = s.workDone := rfl
@[simp] theorem State.setEth_imports (s : State) (p : Bool) (x : EthPort) : (s.setEth p x).imports = s.imports := rfl
@[simp] theorem State.setEth_telemetry (s : State) (p : Bool) (x : EthPort) : (s.setEth p x).telemetry = s.telemetry := rfl
@[simp] theorem State.setEth_setup (s : State) (p : Bool) (x : EthPort) : (s.setEth p x).setup = s.setup := rfl
@[simp] theorem State.setEth_lastLock (s : State) (p : Bool) (x : EthPort) : (s.setEth p x).lastLock = s.lastLock := rfl
@[simp] theorem State.setEth_power (s : State) (p : Bool) (x : EthPort) : (s.setEth p x).power = s.power := rfl
@[simp] theorem State.setEth_rails (s : State) (p : Bool) (x : EthPort) : (s.setEth p x).rails = s.rails := rfl
@[simp] theorem State.setEth_ranger (s : State) (p : Bool) (x : EthPort) : (s.setEth p x).ranger = s.ranger := rfl
@[simp] theorem State.setEth_tests (s : State) (p : Bool) (x : EthPort) : (s.setEth p x).tests = s.tests := rfl
@[simp] theorem State.setEth_testResults (s : State) (p : Bool) (x : EthPort) : (s.setEth p x).testResults = s.testResults := rfl
@[simp] theorem State.setEth_blocks (s : State) (p : Bool) (x : EthPort) : (s.setEth p x).blocks = s.blocks := rfl
@[simp] theorem State.setEth_tap (s : State) (p : Bool) (x : EthPort) : (s.setEth p x).tap = s.tap := rfl
@[simp] theorem State.setEth_tapHolds (s : State) (p : Bool) (x : EthPort) : (s.setEth p x).tapHolds = s.tapHolds := rfl
@[simp] theorem State.setEth_i3c (s : State) (p : Bool) (x : EthPort) : (s.setEth p x).i3c = s.i3c := rfl
@[simp] theorem State.setEth_injected (s : State) (p : Bool) (x : EthPort) : (s.setEth p x).injected = s.injected := rfl
@[simp] theorem State.setEth_yardRefresh (s : State) (p : Bool) (x : EthPort) : (s.setEth p x).yardRefresh = s.yardRefresh := rfl
@[simp] theorem State.setEth_hostOut (s : State) (p : Bool) (x : EthPort) : (s.setEth p x).hostOut = s.hostOut := rfl
@[simp] theorem State.setEth_granted (s : State) (p : Bool) (x : EthPort) : (s.setEth p x).granted = s.granted := rfl
@[simp] theorem State.setEth_moves (s : State) (p : Bool) (x : EthPort) : (s.setEth p x).moves = s.moves := rfl
@[simp] theorem State.setEth_recallLost (s : State) (p : Bool) (x : EthPort) : (s.setEth p x).recallLost = s.recallLost := rfl
@[simp] theorem State.setEth_i3cSent (s : State) (p : Bool) (x : EthPort) : (s.setEth p x).i3cSent = s.i3cSent := rfl
@[simp] theorem State.setEth_ethPort (s : State) (p : Bool) (x : EthPort) : (s.setEth p x).ethPort p = x := by
  simp [State.setEth, State.ethPort]
theorem State.setEth_ethPort_other (s : State) (p : Bool) (x : EthPort) (j : Bool) (h : j ≠ p) :
    (s.setEth p x).ethPort j = s.ethPort j := by
  exact Sparse.get_set_other _ _ _ _ _ (by cases j <;> cases p <;> simp_all [b2n])

/-! ## Accessors that an update leaves alone -/

@[simp] theorem State.setCore_slot (s : State) (c : CoreId) (x : Core) (j : CoreId) : (s.setCore c x).slot j = s.slot j := rfl
@[simp] theorem State.setCore_stand (s : State) (c : CoreId) (x : Core) (j : StandId) : (s.setCore c x).stand j = s.stand j := rfl
@[simp] theorem State.setCore_sector (s : State) (c : CoreId) (x : Core) (j : SectorId) : (s.setCore c x).sector j = s.sector j := rfl
@[simp] theorem State.setCore_stack (s : State) (c : CoreId) (x : Core) (j : SectorId) : (s.setCore c x).stack j = s.stack j := rfl
@[simp] theorem State.setCore_channel (s : State) (c : CoreId) (x : Core) (j : ChannelId) : (s.setCore c x).channel j = s.channel j := rfl
@[simp] theorem State.setCore_coupe (s : State) (c : CoreId) (x : Core) (j : CoupeId) : (s.setCore c x).coupe j = s.coupe j := rfl
@[simp] theorem State.setCore_run (s : State) (c : CoreId) (x : Core) (j : CoupeId) : (s.setCore c x).run j = s.run j := rfl
@[simp] theorem State.setCore_seq (s : State) (c : CoreId) (x : Core) (j : SlotId) : (s.setCore c x).seq j = s.seq j := rfl
@[simp] theorem State.setCore_group (s : State) (c : CoreId) (x : Core) (j : GroupId) : (s.setCore c x).group j = s.group j := rfl
@[simp] theorem State.setCore_image (s : State) (c : CoreId) (x : Core) (j : BitVec 10) : (s.setCore c x).image j = s.image j := rfl
@[simp] theorem State.setCore_ringOf (s : State) (c : CoreId) (x : Core) (j : RingId) : (s.setCore c x).ringOf j = s.ringOf j := rfl
@[simp] theorem State.setCore_link (s : State) (c : CoreId) (x : Core) (j : LinkId) : (s.setCore c x).link j = s.link j := rfl
@[simp] theorem State.setCore_railUnit (s : State) (c : CoreId) (x : Core) (j : Nat) : (s.setCore c x).railUnit j = s.railUnit j := rfl
@[simp] theorem State.setCore_ethPort (s : State) (c : CoreId) (x : Core) (j : Bool) : (s.setCore c x).ethPort j = s.ethPort j := rfl
@[simp] theorem State.setSlot_core (s : State) (c : CoreId) (x : Slot) (j : CoreId) : (s.setSlot c x).core j = s.core j := rfl
@[simp] theorem State.setSlot_stand (s : State) (c : CoreId) (x : Slot) (j : StandId) : (s.setSlot c x).stand j = s.stand j := rfl
@[simp] theorem State.setSlot_sector (s : State) (c : CoreId) (x : Slot) (j : SectorId) : (s.setSlot c x).sector j = s.sector j := rfl
@[simp] theorem State.setSlot_stack (s : State) (c : CoreId) (x : Slot) (j : SectorId) : (s.setSlot c x).stack j = s.stack j := rfl
@[simp] theorem State.setSlot_channel (s : State) (c : CoreId) (x : Slot) (j : ChannelId) : (s.setSlot c x).channel j = s.channel j := rfl
@[simp] theorem State.setSlot_coupe (s : State) (c : CoreId) (x : Slot) (j : CoupeId) : (s.setSlot c x).coupe j = s.coupe j := rfl
@[simp] theorem State.setSlot_run (s : State) (c : CoreId) (x : Slot) (j : CoupeId) : (s.setSlot c x).run j = s.run j := rfl
@[simp] theorem State.setSlot_seq (s : State) (c : CoreId) (x : Slot) (j : SlotId) : (s.setSlot c x).seq j = s.seq j := rfl
@[simp] theorem State.setSlot_group (s : State) (c : CoreId) (x : Slot) (j : GroupId) : (s.setSlot c x).group j = s.group j := rfl
@[simp] theorem State.setSlot_image (s : State) (c : CoreId) (x : Slot) (j : BitVec 10) : (s.setSlot c x).image j = s.image j := rfl
@[simp] theorem State.setSlot_ringOf (s : State) (c : CoreId) (x : Slot) (j : RingId) : (s.setSlot c x).ringOf j = s.ringOf j := rfl
@[simp] theorem State.setSlot_link (s : State) (c : CoreId) (x : Slot) (j : LinkId) : (s.setSlot c x).link j = s.link j := rfl
@[simp] theorem State.setSlot_railUnit (s : State) (c : CoreId) (x : Slot) (j : Nat) : (s.setSlot c x).railUnit j = s.railUnit j := rfl
@[simp] theorem State.setSlot_ethPort (s : State) (c : CoreId) (x : Slot) (j : Bool) : (s.setSlot c x).ethPort j = s.ethPort j := rfl
@[simp] theorem State.setStand_core (s : State) (g : StandId) (x : Stand) (j : CoreId) : (s.setStand g x).core j = s.core j := rfl
@[simp] theorem State.setStand_slot (s : State) (g : StandId) (x : Stand) (j : CoreId) : (s.setStand g x).slot j = s.slot j := rfl
@[simp] theorem State.setStand_sector (s : State) (g : StandId) (x : Stand) (j : SectorId) : (s.setStand g x).sector j = s.sector j := rfl
@[simp] theorem State.setStand_stack (s : State) (g : StandId) (x : Stand) (j : SectorId) : (s.setStand g x).stack j = s.stack j := rfl
@[simp] theorem State.setStand_channel (s : State) (g : StandId) (x : Stand) (j : ChannelId) : (s.setStand g x).channel j = s.channel j := rfl
@[simp] theorem State.setStand_coupe (s : State) (g : StandId) (x : Stand) (j : CoupeId) : (s.setStand g x).coupe j = s.coupe j := rfl
@[simp] theorem State.setStand_run (s : State) (g : StandId) (x : Stand) (j : CoupeId) : (s.setStand g x).run j = s.run j := rfl
@[simp] theorem State.setStand_seq (s : State) (g : StandId) (x : Stand) (j : SlotId) : (s.setStand g x).seq j = s.seq j := rfl
@[simp] theorem State.setStand_group (s : State) (g : StandId) (x : Stand) (j : GroupId) : (s.setStand g x).group j = s.group j := rfl
@[simp] theorem State.setStand_image (s : State) (g : StandId) (x : Stand) (j : BitVec 10) : (s.setStand g x).image j = s.image j := rfl
@[simp] theorem State.setStand_ringOf (s : State) (g : StandId) (x : Stand) (j : RingId) : (s.setStand g x).ringOf j = s.ringOf j := rfl
@[simp] theorem State.setStand_link (s : State) (g : StandId) (x : Stand) (j : LinkId) : (s.setStand g x).link j = s.link j := rfl
@[simp] theorem State.setStand_railUnit (s : State) (g : StandId) (x : Stand) (j : Nat) : (s.setStand g x).railUnit j = s.railUnit j := rfl
@[simp] theorem State.setStand_ethPort (s : State) (g : StandId) (x : Stand) (j : Bool) : (s.setStand g x).ethPort j = s.ethPort j := rfl
@[simp] theorem State.setSector_core (s : State) (i : SectorId) (x : Sector) (j : CoreId) : (s.setSector i x).core j = s.core j := rfl
@[simp] theorem State.setSector_slot (s : State) (i : SectorId) (x : Sector) (j : CoreId) : (s.setSector i x).slot j = s.slot j := rfl
@[simp] theorem State.setSector_stand (s : State) (i : SectorId) (x : Sector) (j : StandId) : (s.setSector i x).stand j = s.stand j := rfl
@[simp] theorem State.setSector_stack (s : State) (i : SectorId) (x : Sector) (j : SectorId) : (s.setSector i x).stack j = s.stack j := rfl
@[simp] theorem State.setSector_channel (s : State) (i : SectorId) (x : Sector) (j : ChannelId) : (s.setSector i x).channel j = s.channel j := rfl
@[simp] theorem State.setSector_coupe (s : State) (i : SectorId) (x : Sector) (j : CoupeId) : (s.setSector i x).coupe j = s.coupe j := rfl
@[simp] theorem State.setSector_run (s : State) (i : SectorId) (x : Sector) (j : CoupeId) : (s.setSector i x).run j = s.run j := rfl
@[simp] theorem State.setSector_seq (s : State) (i : SectorId) (x : Sector) (j : SlotId) : (s.setSector i x).seq j = s.seq j := rfl
@[simp] theorem State.setSector_group (s : State) (i : SectorId) (x : Sector) (j : GroupId) : (s.setSector i x).group j = s.group j := rfl
@[simp] theorem State.setSector_image (s : State) (i : SectorId) (x : Sector) (j : BitVec 10) : (s.setSector i x).image j = s.image j := rfl
@[simp] theorem State.setSector_ringOf (s : State) (i : SectorId) (x : Sector) (j : RingId) : (s.setSector i x).ringOf j = s.ringOf j := rfl
@[simp] theorem State.setSector_link (s : State) (i : SectorId) (x : Sector) (j : LinkId) : (s.setSector i x).link j = s.link j := rfl
@[simp] theorem State.setSector_railUnit (s : State) (i : SectorId) (x : Sector) (j : Nat) : (s.setSector i x).railUnit j = s.railUnit j := rfl
@[simp] theorem State.setSector_ethPort (s : State) (i : SectorId) (x : Sector) (j : Bool) : (s.setSector i x).ethPort j = s.ethPort j := rfl
@[simp] theorem State.setStack_core (s : State) (i : SectorId) (x : Stack) (j : CoreId) : (s.setStack i x).core j = s.core j := rfl
@[simp] theorem State.setStack_slot (s : State) (i : SectorId) (x : Stack) (j : CoreId) : (s.setStack i x).slot j = s.slot j := rfl
@[simp] theorem State.setStack_stand (s : State) (i : SectorId) (x : Stack) (j : StandId) : (s.setStack i x).stand j = s.stand j := rfl
@[simp] theorem State.setStack_sector (s : State) (i : SectorId) (x : Stack) (j : SectorId) : (s.setStack i x).sector j = s.sector j := rfl
@[simp] theorem State.setStack_channel (s : State) (i : SectorId) (x : Stack) (j : ChannelId) : (s.setStack i x).channel j = s.channel j := rfl
@[simp] theorem State.setStack_coupe (s : State) (i : SectorId) (x : Stack) (j : CoupeId) : (s.setStack i x).coupe j = s.coupe j := rfl
@[simp] theorem State.setStack_run (s : State) (i : SectorId) (x : Stack) (j : CoupeId) : (s.setStack i x).run j = s.run j := rfl
@[simp] theorem State.setStack_seq (s : State) (i : SectorId) (x : Stack) (j : SlotId) : (s.setStack i x).seq j = s.seq j := rfl
@[simp] theorem State.setStack_group (s : State) (i : SectorId) (x : Stack) (j : GroupId) : (s.setStack i x).group j = s.group j := rfl
@[simp] theorem State.setStack_image (s : State) (i : SectorId) (x : Stack) (j : BitVec 10) : (s.setStack i x).image j = s.image j := rfl
@[simp] theorem State.setStack_ringOf (s : State) (i : SectorId) (x : Stack) (j : RingId) : (s.setStack i x).ringOf j = s.ringOf j := rfl
@[simp] theorem State.setStack_link (s : State) (i : SectorId) (x : Stack) (j : LinkId) : (s.setStack i x).link j = s.link j := rfl
@[simp] theorem State.setStack_railUnit (s : State) (i : SectorId) (x : Stack) (j : Nat) : (s.setStack i x).railUnit j = s.railUnit j := rfl
@[simp] theorem State.setStack_ethPort (s : State) (i : SectorId) (x : Stack) (j : Bool) : (s.setStack i x).ethPort j = s.ethPort j := rfl
@[simp] theorem State.setChannel_core (s : State) (i : ChannelId) (x : Channel) (j : CoreId) : (s.setChannel i x).core j = s.core j := rfl
@[simp] theorem State.setChannel_slot (s : State) (i : ChannelId) (x : Channel) (j : CoreId) : (s.setChannel i x).slot j = s.slot j := rfl
@[simp] theorem State.setChannel_stand (s : State) (i : ChannelId) (x : Channel) (j : StandId) : (s.setChannel i x).stand j = s.stand j := rfl
@[simp] theorem State.setChannel_sector (s : State) (i : ChannelId) (x : Channel) (j : SectorId) : (s.setChannel i x).sector j = s.sector j := rfl
@[simp] theorem State.setChannel_stack (s : State) (i : ChannelId) (x : Channel) (j : SectorId) : (s.setChannel i x).stack j = s.stack j := rfl
@[simp] theorem State.setChannel_coupe (s : State) (i : ChannelId) (x : Channel) (j : CoupeId) : (s.setChannel i x).coupe j = s.coupe j := rfl
@[simp] theorem State.setChannel_run (s : State) (i : ChannelId) (x : Channel) (j : CoupeId) : (s.setChannel i x).run j = s.run j := rfl
@[simp] theorem State.setChannel_seq (s : State) (i : ChannelId) (x : Channel) (j : SlotId) : (s.setChannel i x).seq j = s.seq j := rfl
@[simp] theorem State.setChannel_group (s : State) (i : ChannelId) (x : Channel) (j : GroupId) : (s.setChannel i x).group j = s.group j := rfl
@[simp] theorem State.setChannel_image (s : State) (i : ChannelId) (x : Channel) (j : BitVec 10) : (s.setChannel i x).image j = s.image j := rfl
@[simp] theorem State.setChannel_ringOf (s : State) (i : ChannelId) (x : Channel) (j : RingId) : (s.setChannel i x).ringOf j = s.ringOf j := rfl
@[simp] theorem State.setChannel_link (s : State) (i : ChannelId) (x : Channel) (j : LinkId) : (s.setChannel i x).link j = s.link j := rfl
@[simp] theorem State.setChannel_railUnit (s : State) (i : ChannelId) (x : Channel) (j : Nat) : (s.setChannel i x).railUnit j = s.railUnit j := rfl
@[simp] theorem State.setChannel_ethPort (s : State) (i : ChannelId) (x : Channel) (j : Bool) : (s.setChannel i x).ethPort j = s.ethPort j := rfl
@[simp] theorem State.setCoupe_core (s : State) (k : CoupeId) (x : Coupe) (j : CoreId) : (s.setCoupe k x).core j = s.core j := rfl
@[simp] theorem State.setCoupe_slot (s : State) (k : CoupeId) (x : Coupe) (j : CoreId) : (s.setCoupe k x).slot j = s.slot j := rfl
@[simp] theorem State.setCoupe_stand (s : State) (k : CoupeId) (x : Coupe) (j : StandId) : (s.setCoupe k x).stand j = s.stand j := rfl
@[simp] theorem State.setCoupe_sector (s : State) (k : CoupeId) (x : Coupe) (j : SectorId) : (s.setCoupe k x).sector j = s.sector j := rfl
@[simp] theorem State.setCoupe_stack (s : State) (k : CoupeId) (x : Coupe) (j : SectorId) : (s.setCoupe k x).stack j = s.stack j := rfl
@[simp] theorem State.setCoupe_channel (s : State) (k : CoupeId) (x : Coupe) (j : ChannelId) : (s.setCoupe k x).channel j = s.channel j := rfl
@[simp] theorem State.setCoupe_run (s : State) (k : CoupeId) (x : Coupe) (j : CoupeId) : (s.setCoupe k x).run j = s.run j := rfl
@[simp] theorem State.setCoupe_seq (s : State) (k : CoupeId) (x : Coupe) (j : SlotId) : (s.setCoupe k x).seq j = s.seq j := rfl
@[simp] theorem State.setCoupe_group (s : State) (k : CoupeId) (x : Coupe) (j : GroupId) : (s.setCoupe k x).group j = s.group j := rfl
@[simp] theorem State.setCoupe_image (s : State) (k : CoupeId) (x : Coupe) (j : BitVec 10) : (s.setCoupe k x).image j = s.image j := rfl
@[simp] theorem State.setCoupe_ringOf (s : State) (k : CoupeId) (x : Coupe) (j : RingId) : (s.setCoupe k x).ringOf j = s.ringOf j := rfl
@[simp] theorem State.setCoupe_link (s : State) (k : CoupeId) (x : Coupe) (j : LinkId) : (s.setCoupe k x).link j = s.link j := rfl
@[simp] theorem State.setCoupe_railUnit (s : State) (k : CoupeId) (x : Coupe) (j : Nat) : (s.setCoupe k x).railUnit j = s.railUnit j := rfl
@[simp] theorem State.setCoupe_ethPort (s : State) (k : CoupeId) (x : Coupe) (j : Bool) : (s.setCoupe k x).ethPort j = s.ethPort j := rfl
@[simp] theorem State.setRun_core (s : State) (k : CoupeId) (x : CoupeRun) (j : CoreId) : (s.setRun k x).core j = s.core j := rfl
@[simp] theorem State.setRun_slot (s : State) (k : CoupeId) (x : CoupeRun) (j : CoreId) : (s.setRun k x).slot j = s.slot j := rfl
@[simp] theorem State.setRun_stand (s : State) (k : CoupeId) (x : CoupeRun) (j : StandId) : (s.setRun k x).stand j = s.stand j := rfl
@[simp] theorem State.setRun_sector (s : State) (k : CoupeId) (x : CoupeRun) (j : SectorId) : (s.setRun k x).sector j = s.sector j := rfl
@[simp] theorem State.setRun_stack (s : State) (k : CoupeId) (x : CoupeRun) (j : SectorId) : (s.setRun k x).stack j = s.stack j := rfl
@[simp] theorem State.setRun_channel (s : State) (k : CoupeId) (x : CoupeRun) (j : ChannelId) : (s.setRun k x).channel j = s.channel j := rfl
@[simp] theorem State.setRun_coupe (s : State) (k : CoupeId) (x : CoupeRun) (j : CoupeId) : (s.setRun k x).coupe j = s.coupe j := rfl
@[simp] theorem State.setRun_seq (s : State) (k : CoupeId) (x : CoupeRun) (j : SlotId) : (s.setRun k x).seq j = s.seq j := rfl
@[simp] theorem State.setRun_group (s : State) (k : CoupeId) (x : CoupeRun) (j : GroupId) : (s.setRun k x).group j = s.group j := rfl
@[simp] theorem State.setRun_image (s : State) (k : CoupeId) (x : CoupeRun) (j : BitVec 10) : (s.setRun k x).image j = s.image j := rfl
@[simp] theorem State.setRun_ringOf (s : State) (k : CoupeId) (x : CoupeRun) (j : RingId) : (s.setRun k x).ringOf j = s.ringOf j := rfl
@[simp] theorem State.setRun_link (s : State) (k : CoupeId) (x : CoupeRun) (j : LinkId) : (s.setRun k x).link j = s.link j := rfl
@[simp] theorem State.setRun_railUnit (s : State) (k : CoupeId) (x : CoupeRun) (j : Nat) : (s.setRun k x).railUnit j = s.railUnit j := rfl
@[simp] theorem State.setRun_ethPort (s : State) (k : CoupeId) (x : CoupeRun) (j : Bool) : (s.setRun k x).ethPort j = s.ethPort j := rfl
@[simp] theorem State.setSeq_core (s : State) (i : SlotId) (x : Seq) (j : CoreId) : (s.setSeq i x).core j = s.core j := rfl
@[simp] theorem State.setSeq_slot (s : State) (i : SlotId) (x : Seq) (j : CoreId) : (s.setSeq i x).slot j = s.slot j := rfl
@[simp] theorem State.setSeq_stand (s : State) (i : SlotId) (x : Seq) (j : StandId) : (s.setSeq i x).stand j = s.stand j := rfl
@[simp] theorem State.setSeq_sector (s : State) (i : SlotId) (x : Seq) (j : SectorId) : (s.setSeq i x).sector j = s.sector j := rfl
@[simp] theorem State.setSeq_stack (s : State) (i : SlotId) (x : Seq) (j : SectorId) : (s.setSeq i x).stack j = s.stack j := rfl
@[simp] theorem State.setSeq_channel (s : State) (i : SlotId) (x : Seq) (j : ChannelId) : (s.setSeq i x).channel j = s.channel j := rfl
@[simp] theorem State.setSeq_coupe (s : State) (i : SlotId) (x : Seq) (j : CoupeId) : (s.setSeq i x).coupe j = s.coupe j := rfl
@[simp] theorem State.setSeq_run (s : State) (i : SlotId) (x : Seq) (j : CoupeId) : (s.setSeq i x).run j = s.run j := rfl
@[simp] theorem State.setSeq_group (s : State) (i : SlotId) (x : Seq) (j : GroupId) : (s.setSeq i x).group j = s.group j := rfl
@[simp] theorem State.setSeq_image (s : State) (i : SlotId) (x : Seq) (j : BitVec 10) : (s.setSeq i x).image j = s.image j := rfl
@[simp] theorem State.setSeq_ringOf (s : State) (i : SlotId) (x : Seq) (j : RingId) : (s.setSeq i x).ringOf j = s.ringOf j := rfl
@[simp] theorem State.setSeq_link (s : State) (i : SlotId) (x : Seq) (j : LinkId) : (s.setSeq i x).link j = s.link j := rfl
@[simp] theorem State.setSeq_railUnit (s : State) (i : SlotId) (x : Seq) (j : Nat) : (s.setSeq i x).railUnit j = s.railUnit j := rfl
@[simp] theorem State.setSeq_ethPort (s : State) (i : SlotId) (x : Seq) (j : Bool) : (s.setSeq i x).ethPort j = s.ethPort j := rfl
@[simp] theorem State.setGroup_core (s : State) (i : GroupId) (x : Group) (j : CoreId) : (s.setGroup i x).core j = s.core j := rfl
@[simp] theorem State.setGroup_slot (s : State) (i : GroupId) (x : Group) (j : CoreId) : (s.setGroup i x).slot j = s.slot j := rfl
@[simp] theorem State.setGroup_stand (s : State) (i : GroupId) (x : Group) (j : StandId) : (s.setGroup i x).stand j = s.stand j := rfl
@[simp] theorem State.setGroup_sector (s : State) (i : GroupId) (x : Group) (j : SectorId) : (s.setGroup i x).sector j = s.sector j := rfl
@[simp] theorem State.setGroup_stack (s : State) (i : GroupId) (x : Group) (j : SectorId) : (s.setGroup i x).stack j = s.stack j := rfl
@[simp] theorem State.setGroup_channel (s : State) (i : GroupId) (x : Group) (j : ChannelId) : (s.setGroup i x).channel j = s.channel j := rfl
@[simp] theorem State.setGroup_coupe (s : State) (i : GroupId) (x : Group) (j : CoupeId) : (s.setGroup i x).coupe j = s.coupe j := rfl
@[simp] theorem State.setGroup_run (s : State) (i : GroupId) (x : Group) (j : CoupeId) : (s.setGroup i x).run j = s.run j := rfl
@[simp] theorem State.setGroup_seq (s : State) (i : GroupId) (x : Group) (j : SlotId) : (s.setGroup i x).seq j = s.seq j := rfl
@[simp] theorem State.setGroup_image (s : State) (i : GroupId) (x : Group) (j : BitVec 10) : (s.setGroup i x).image j = s.image j := rfl
@[simp] theorem State.setGroup_ringOf (s : State) (i : GroupId) (x : Group) (j : RingId) : (s.setGroup i x).ringOf j = s.ringOf j := rfl
@[simp] theorem State.setGroup_link (s : State) (i : GroupId) (x : Group) (j : LinkId) : (s.setGroup i x).link j = s.link j := rfl
@[simp] theorem State.setGroup_railUnit (s : State) (i : GroupId) (x : Group) (j : Nat) : (s.setGroup i x).railUnit j = s.railUnit j := rfl
@[simp] theorem State.setGroup_ethPort (s : State) (i : GroupId) (x : Group) (j : Bool) : (s.setGroup i x).ethPort j = s.ethPort j := rfl
@[simp] theorem State.setImage_core (s : State) (n : BitVec 10) (x : Image) (j : CoreId) : (s.setImage n x).core j = s.core j := rfl
@[simp] theorem State.setImage_slot (s : State) (n : BitVec 10) (x : Image) (j : CoreId) : (s.setImage n x).slot j = s.slot j := rfl
@[simp] theorem State.setImage_stand (s : State) (n : BitVec 10) (x : Image) (j : StandId) : (s.setImage n x).stand j = s.stand j := rfl
@[simp] theorem State.setImage_sector (s : State) (n : BitVec 10) (x : Image) (j : SectorId) : (s.setImage n x).sector j = s.sector j := rfl
@[simp] theorem State.setImage_stack (s : State) (n : BitVec 10) (x : Image) (j : SectorId) : (s.setImage n x).stack j = s.stack j := rfl
@[simp] theorem State.setImage_channel (s : State) (n : BitVec 10) (x : Image) (j : ChannelId) : (s.setImage n x).channel j = s.channel j := rfl
@[simp] theorem State.setImage_coupe (s : State) (n : BitVec 10) (x : Image) (j : CoupeId) : (s.setImage n x).coupe j = s.coupe j := rfl
@[simp] theorem State.setImage_run (s : State) (n : BitVec 10) (x : Image) (j : CoupeId) : (s.setImage n x).run j = s.run j := rfl
@[simp] theorem State.setImage_seq (s : State) (n : BitVec 10) (x : Image) (j : SlotId) : (s.setImage n x).seq j = s.seq j := rfl
@[simp] theorem State.setImage_group (s : State) (n : BitVec 10) (x : Image) (j : GroupId) : (s.setImage n x).group j = s.group j := rfl
@[simp] theorem State.setImage_ringOf (s : State) (n : BitVec 10) (x : Image) (j : RingId) : (s.setImage n x).ringOf j = s.ringOf j := rfl
@[simp] theorem State.setImage_link (s : State) (n : BitVec 10) (x : Image) (j : LinkId) : (s.setImage n x).link j = s.link j := rfl
@[simp] theorem State.setImage_railUnit (s : State) (n : BitVec 10) (x : Image) (j : Nat) : (s.setImage n x).railUnit j = s.railUnit j := rfl
@[simp] theorem State.setImage_ethPort (s : State) (n : BitVec 10) (x : Image) (j : Bool) : (s.setImage n x).ethPort j = s.ethPort j := rfl
@[simp] theorem State.setRing_core (s : State) (r : RingId) (x : Ring) (j : CoreId) : (s.setRing r x).core j = s.core j := rfl
@[simp] theorem State.setRing_slot (s : State) (r : RingId) (x : Ring) (j : CoreId) : (s.setRing r x).slot j = s.slot j := rfl
@[simp] theorem State.setRing_stand (s : State) (r : RingId) (x : Ring) (j : StandId) : (s.setRing r x).stand j = s.stand j := rfl
@[simp] theorem State.setRing_sector (s : State) (r : RingId) (x : Ring) (j : SectorId) : (s.setRing r x).sector j = s.sector j := rfl
@[simp] theorem State.setRing_stack (s : State) (r : RingId) (x : Ring) (j : SectorId) : (s.setRing r x).stack j = s.stack j := rfl
@[simp] theorem State.setRing_channel (s : State) (r : RingId) (x : Ring) (j : ChannelId) : (s.setRing r x).channel j = s.channel j := rfl
@[simp] theorem State.setRing_coupe (s : State) (r : RingId) (x : Ring) (j : CoupeId) : (s.setRing r x).coupe j = s.coupe j := rfl
@[simp] theorem State.setRing_run (s : State) (r : RingId) (x : Ring) (j : CoupeId) : (s.setRing r x).run j = s.run j := rfl
@[simp] theorem State.setRing_seq (s : State) (r : RingId) (x : Ring) (j : SlotId) : (s.setRing r x).seq j = s.seq j := rfl
@[simp] theorem State.setRing_group (s : State) (r : RingId) (x : Ring) (j : GroupId) : (s.setRing r x).group j = s.group j := rfl
@[simp] theorem State.setRing_image (s : State) (r : RingId) (x : Ring) (j : BitVec 10) : (s.setRing r x).image j = s.image j := rfl
@[simp] theorem State.setRing_link (s : State) (r : RingId) (x : Ring) (j : LinkId) : (s.setRing r x).link j = s.link j := rfl
@[simp] theorem State.setRing_railUnit (s : State) (r : RingId) (x : Ring) (j : Nat) : (s.setRing r x).railUnit j = s.railUnit j := rfl
@[simp] theorem State.setRing_ethPort (s : State) (r : RingId) (x : Ring) (j : Bool) : (s.setRing r x).ethPort j = s.ethPort j := rfl
@[simp] theorem State.setLink_core (s : State) (l : LinkId) (x : Link) (j : CoreId) : (s.setLink l x).core j = s.core j := rfl
@[simp] theorem State.setLink_slot (s : State) (l : LinkId) (x : Link) (j : CoreId) : (s.setLink l x).slot j = s.slot j := rfl
@[simp] theorem State.setLink_stand (s : State) (l : LinkId) (x : Link) (j : StandId) : (s.setLink l x).stand j = s.stand j := rfl
@[simp] theorem State.setLink_sector (s : State) (l : LinkId) (x : Link) (j : SectorId) : (s.setLink l x).sector j = s.sector j := rfl
@[simp] theorem State.setLink_stack (s : State) (l : LinkId) (x : Link) (j : SectorId) : (s.setLink l x).stack j = s.stack j := rfl
@[simp] theorem State.setLink_channel (s : State) (l : LinkId) (x : Link) (j : ChannelId) : (s.setLink l x).channel j = s.channel j := rfl
@[simp] theorem State.setLink_coupe (s : State) (l : LinkId) (x : Link) (j : CoupeId) : (s.setLink l x).coupe j = s.coupe j := rfl
@[simp] theorem State.setLink_run (s : State) (l : LinkId) (x : Link) (j : CoupeId) : (s.setLink l x).run j = s.run j := rfl
@[simp] theorem State.setLink_seq (s : State) (l : LinkId) (x : Link) (j : SlotId) : (s.setLink l x).seq j = s.seq j := rfl
@[simp] theorem State.setLink_group (s : State) (l : LinkId) (x : Link) (j : GroupId) : (s.setLink l x).group j = s.group j := rfl
@[simp] theorem State.setLink_image (s : State) (l : LinkId) (x : Link) (j : BitVec 10) : (s.setLink l x).image j = s.image j := rfl
@[simp] theorem State.setLink_ringOf (s : State) (l : LinkId) (x : Link) (j : RingId) : (s.setLink l x).ringOf j = s.ringOf j := rfl
@[simp] theorem State.setLink_railUnit (s : State) (l : LinkId) (x : Link) (j : Nat) : (s.setLink l x).railUnit j = s.railUnit j := rfl
@[simp] theorem State.setLink_ethPort (s : State) (l : LinkId) (x : Link) (j : Bool) : (s.setLink l x).ethPort j = s.ethPort j := rfl
@[simp] theorem State.setRail_core (s : State) (i : Nat) (x : RailUnit) (j : CoreId) : (s.setRail i x).core j = s.core j := rfl
@[simp] theorem State.setRail_slot (s : State) (i : Nat) (x : RailUnit) (j : CoreId) : (s.setRail i x).slot j = s.slot j := rfl
@[simp] theorem State.setRail_stand (s : State) (i : Nat) (x : RailUnit) (j : StandId) : (s.setRail i x).stand j = s.stand j := rfl
@[simp] theorem State.setRail_sector (s : State) (i : Nat) (x : RailUnit) (j : SectorId) : (s.setRail i x).sector j = s.sector j := rfl
@[simp] theorem State.setRail_stack (s : State) (i : Nat) (x : RailUnit) (j : SectorId) : (s.setRail i x).stack j = s.stack j := rfl
@[simp] theorem State.setRail_channel (s : State) (i : Nat) (x : RailUnit) (j : ChannelId) : (s.setRail i x).channel j = s.channel j := rfl
@[simp] theorem State.setRail_coupe (s : State) (i : Nat) (x : RailUnit) (j : CoupeId) : (s.setRail i x).coupe j = s.coupe j := rfl
@[simp] theorem State.setRail_run (s : State) (i : Nat) (x : RailUnit) (j : CoupeId) : (s.setRail i x).run j = s.run j := rfl
@[simp] theorem State.setRail_seq (s : State) (i : Nat) (x : RailUnit) (j : SlotId) : (s.setRail i x).seq j = s.seq j := rfl
@[simp] theorem State.setRail_group (s : State) (i : Nat) (x : RailUnit) (j : GroupId) : (s.setRail i x).group j = s.group j := rfl
@[simp] theorem State.setRail_image (s : State) (i : Nat) (x : RailUnit) (j : BitVec 10) : (s.setRail i x).image j = s.image j := rfl
@[simp] theorem State.setRail_ringOf (s : State) (i : Nat) (x : RailUnit) (j : RingId) : (s.setRail i x).ringOf j = s.ringOf j := rfl
@[simp] theorem State.setRail_link (s : State) (i : Nat) (x : RailUnit) (j : LinkId) : (s.setRail i x).link j = s.link j := rfl
@[simp] theorem State.setRail_ethPort (s : State) (i : Nat) (x : RailUnit) (j : Bool) : (s.setRail i x).ethPort j = s.ethPort j := rfl
@[simp] theorem State.setEth_core (s : State) (p : Bool) (x : EthPort) (j : CoreId) : (s.setEth p x).core j = s.core j := rfl
@[simp] theorem State.setEth_slot (s : State) (p : Bool) (x : EthPort) (j : CoreId) : (s.setEth p x).slot j = s.slot j := rfl
@[simp] theorem State.setEth_stand (s : State) (p : Bool) (x : EthPort) (j : StandId) : (s.setEth p x).stand j = s.stand j := rfl
@[simp] theorem State.setEth_sector (s : State) (p : Bool) (x : EthPort) (j : SectorId) : (s.setEth p x).sector j = s.sector j := rfl
@[simp] theorem State.setEth_stack (s : State) (p : Bool) (x : EthPort) (j : SectorId) : (s.setEth p x).stack j = s.stack j := rfl
@[simp] theorem State.setEth_channel (s : State) (p : Bool) (x : EthPort) (j : ChannelId) : (s.setEth p x).channel j = s.channel j := rfl
@[simp] theorem State.setEth_coupe (s : State) (p : Bool) (x : EthPort) (j : CoupeId) : (s.setEth p x).coupe j = s.coupe j := rfl
@[simp] theorem State.setEth_run (s : State) (p : Bool) (x : EthPort) (j : CoupeId) : (s.setEth p x).run j = s.run j := rfl
@[simp] theorem State.setEth_seq (s : State) (p : Bool) (x : EthPort) (j : SlotId) : (s.setEth p x).seq j = s.seq j := rfl
@[simp] theorem State.setEth_group (s : State) (p : Bool) (x : EthPort) (j : GroupId) : (s.setEth p x).group j = s.group j := rfl
@[simp] theorem State.setEth_image (s : State) (p : Bool) (x : EthPort) (j : BitVec 10) : (s.setEth p x).image j = s.image j := rfl
@[simp] theorem State.setEth_ringOf (s : State) (p : Bool) (x : EthPort) (j : RingId) : (s.setEth p x).ringOf j = s.ringOf j := rfl
@[simp] theorem State.setEth_link (s : State) (p : Bool) (x : EthPort) (j : LinkId) : (s.setEth p x).link j = s.link j := rfl
@[simp] theorem State.setEth_railUnit (s : State) (p : Bool) (x : EthPort) (j : Nat) : (s.setEth p x).railUnit j = s.railUnit j := rfl

/-! ## tick and drawFree -/

/-- Counting the cycles of cores writes nothing but cores. -/
theorem foldl_setCore_eq (f : Core → Core) (l : List CoreId) (s : State) :
    l.foldl (fun t c => t.setCore c (f (t.core c))) s
      = { s with cores := (l.foldl (fun t c => t.setCore c (f (t.core c))) s).cores } := by
  induction l generalizing s with
  | nil => rfl
  | cons c l ih => rw [List.foldl_cons, ih]; rfl

theorem elapseStand_eq (s : State) (g : StandId) : elapseStand s g = { s with cores := (elapseStand s g).cores } := by
  unfold elapseStand
  split
  · exact foldl_setCore_eq _ _ _
  · rfl

theorem elapseStands_eq (l : List StandId) (s : State) :
    l.foldl elapseStand s = { s with cores := (l.foldl elapseStand s).cores } := by
  induction l generalizing s with
  | nil => rfl
  | cons g l ih => rw [List.foldl_cons, ih, elapseStand_eq]

/-- A tick writes the timebase and what the cores count (R63, R64), nothing else. -/
theorem tick_eq (s : State) : tick s = { s with timebase := s.timebase + 1, cores := (tick s).cores } := by
  unfold tick
  rw [elapseStands_eq]

@[simp] theorem tick_pending (s : State) : (tick s).pending = s.pending := by rw [tick_eq]
@[simp] theorem drawFree_pending (s : State) : (drawFree s).2.pending = s.pending := rfl
@[simp] theorem drawFree_timebase (s : State) : (drawFree s).2.timebase = s.timebase := rfl
@[simp] theorem tick_free (s : State) : (tick s).free = s.free := by rw [tick_eq]
@[simp] theorem tick_mem (s : State) : (tick s).mem = s.mem := by rw [tick_eq]
@[simp] theorem drawFree_mem (s : State) : (drawFree s).2.mem = s.mem := rfl
@[simp] theorem tick_poison (s : State) : (tick s).poison = s.poison := by rw [tick_eq]
@[simp] theorem drawFree_poison (s : State) : (drawFree s).2.poison = s.poison := rfl
@[simp] theorem tick_rowErrors (s : State) : (tick s).rowErrors = s.rowErrors := by rw [tick_eq]
@[simp] theorem drawFree_rowErrors (s : State) : (drawFree s).2.rowErrors = s.rowErrors := rfl
@[simp] theorem tick_granuleErrors (s : State) : (tick s).granuleErrors = s.granuleErrors := by rw [tick_eq]
@[simp] theorem drawFree_granuleErrors (s : State) : (drawFree s).2.granuleErrors = s.granuleErrors := rfl
@[simp] theorem tick_timebase (s : State) : (tick s).timebase = s.timebase + 1 := by rw [tick_eq]
@[simp] theorem drawFree_cores (s : State) : (drawFree s).2.cores = s.cores := rfl
@[simp] theorem tick_slots (s : State) : (tick s).slots = s.slots := by rw [tick_eq]
@[simp] theorem drawFree_slots (s : State) : (drawFree s).2.slots = s.slots := rfl
@[simp] theorem tick_stands (s : State) : (tick s).stands = s.stands := by rw [tick_eq]
@[simp] theorem drawFree_stands (s : State) : (drawFree s).2.stands = s.stands := rfl
@[simp] theorem tick_sectors (s : State) : (tick s).sectors = s.sectors := by rw [tick_eq]
@[simp] theorem drawFree_sectors (s : State) : (drawFree s).2.sectors = s.sectors := rfl
@[simp] theorem tick_readReqs (s : State) : (tick s).readReqs = s.readReqs := by rw [tick_eq]
@[simp] theorem drawFree_readReqs (s : State) : (drawFree s).2.readReqs = s.readReqs := rfl
@[simp] theorem tick_readReplies (s : State) : (tick s).readReplies = s.readReplies := by rw [tick_eq]
@[simp] theorem drawFree_readReplies (s : State) : (drawFree s).2.readReplies = s.readReplies := rfl
@[simp] theorem tick_windowRows (s : State) : (tick s).windowRows = s.windowRows := by rw [tick_eq]
@[simp] theorem drawFree_windowRows (s : State) : (drawFree s).2.windowRows = s.windowRows := rfl
@[simp] theorem tick_acks (s : State) : (tick s).acks = s.acks := by rw [tick_eq]
@[simp] theorem drawFree_acks (s : State) : (drawFree s).2.acks = s.acks := rfl
@[simp] theorem tick_skids (s : State) : (tick s).skids = s.skids := by rw [tick_eq]
@[simp] theorem drawFree_skids (s : State) : (drawFree s).2.skids = s.skids := rfl
@[simp] theorem tick_leaseHits (s : State) : (tick s).leaseHits = s.leaseHits := by rw [tick_eq]
@[simp] theorem drawFree_leaseHits (s : State) : (drawFree s).2.leaseHits = s.leaseHits := rfl
@[simp] theorem tick_arrivals (s : State) : (tick s).arrivals = s.arrivals := by rw [tick_eq]
@[simp] theorem drawFree_arrivals (s : State) : (drawFree s).2.arrivals = s.arrivals := rfl
@[simp] theorem tick_deckStacks (s : State) : (tick s).deckStacks = s.deckStacks := by rw [tick_eq]
@[simp] theorem drawFree_deckStacks (s : State) : (drawFree s).2.deckStacks = s.deckStacks := rfl
@[simp] theorem tick_channels (s : State) : (tick s).channels = s.channels := by rw [tick_eq]
@[simp] theorem drawFree_channels (s : State) : (drawFree s).2.channels = s.channels := rfl
@[simp] theorem tick_yardMode (s : State) : (tick s).yardMode = s.yardMode := by rw [tick_eq]
@[simp] theorem drawFree_yardMode (s : State) : (drawFree s).2.yardMode = s.yardMode := rfl
@[simp] theorem tick_yardGib (s : State) : (tick s).yardGib = s.yardGib := by rw [tick_eq]
@[simp] theorem drawFree_yardGib (s : State) : (drawFree s).2.yardGib = s.yardGib := rfl
@[simp] theorem tick_transfers (s : State) : (tick s).transfers = s.transfers := by rw [tick_eq]
@[simp] theorem drawFree_transfers (s : State) : (drawFree s).2.transfers = s.transfers := rfl
@[simp] theorem tick_poolWait (s : State) : (tick s).poolWait = s.poolWait := by rw [tick_eq]
@[simp] theorem drawFree_poolWait (s : State) : (drawFree s).2.poolWait = s.poolWait := rfl
@[simp] theorem tick_freedGroups (s : State) : (tick s).freedGroups = s.freedGroups := by rw [tick_eq]
@[simp] theorem drawFree_freedGroups (s : State) : (drawFree s).2.freedGroups = s.freedGroups := rfl
@[simp] theorem tick_journalA (s : State) : (tick s).journalA = s.journalA := by rw [tick_eq]
@[simp] theorem drawFree_journalA (s : State) : (drawFree s).2.journalA = s.journalA := rfl
@[simp] theorem tick_journalB (s : State) : (tick s).journalB = s.journalB := by rw [tick_eq]
@[simp] theorem drawFree_journalB (s : State) : (drawFree s).2.journalB = s.journalB := rfl
@[simp] theorem tick_journalOk (s : State) : (tick s).journalOk = s.journalOk := by rw [tick_eq]
@[simp] theorem drawFree_journalOk (s : State) : (drawFree s).2.journalOk = s.journalOk := rfl
@[simp] theorem tick_dur (s : State) : (tick s).dur = s.dur := by rw [tick_eq]
@[simp] theorem drawFree_dur (s : State) : (drawFree s).2.dur = s.dur := rfl
@[simp] theorem tick_journal (s : State) : (tick s).journal = s.journal := by rw [tick_eq]
@[simp] theorem drawFree_journal (s : State) : (drawFree s).2.journal = s.journal := rfl
@[simp] theorem tick_due (s : State) : (tick s).due = s.due := by rw [tick_eq]
@[simp] theorem drawFree_due (s : State) : (drawFree s).2.due = s.due := rfl
@[simp] theorem tick_journalDue (s : State) : (tick s).journalDue = s.journalDue := by rw [tick_eq]
@[simp] theorem drawFree_journalDue (s : State) : (drawFree s).2.journalDue = s.journalDue := rfl
@[simp] theorem tick_journalSaved (s : State) : (tick s).journalSaved = s.journalSaved := by rw [tick_eq]
@[simp] theorem drawFree_journalSaved (s : State) : (drawFree s).2.journalSaved = s.journalSaved := rfl
@[simp] theorem tick_mirror (s : State) : (tick s).mirror = s.mirror := by rw [tick_eq]
@[simp] theorem drawFree_mirror (s : State) : (drawFree s).2.mirror = s.mirror := rfl
@[simp] theorem tick_runs (s : State) : (tick s).runs = s.runs := by rw [tick_eq]
@[simp] theorem drawFree_runs (s : State) : (drawFree s).2.runs = s.runs := rfl
@[simp] theorem tick_scentRebuild (s : State) : (tick s).scentRebuild = s.scentRebuild := by rw [tick_eq]
@[simp] theorem drawFree_scentRebuild (s : State) : (drawFree s).2.scentRebuild = s.scentRebuild := rfl
@[simp] theorem tick_rings (s : State) : (tick s).rings = s.rings := by rw [tick_eq]
@[simp] theorem drawFree_rings (s : State) : (drawFree s).2.rings = s.rings := rfl
@[simp] theorem tick_fetchLast (s : State) : (tick s).fetchLast = s.fetchLast := by rw [tick_eq]
@[simp] theorem drawFree_fetchLast (s : State) : (drawFree s).2.fetchLast = s.fetchLast := rfl
@[simp] theorem tick_stamp (s : State) : (tick s).stamp = s.stamp := by rw [tick_eq]
@[simp] theorem drawFree_stamp (s : State) : (drawFree s).2.stamp = s.stamp := rfl
@[simp] theorem tick_posted (s : State) : (tick s).posted = s.posted := by rw [tick_eq]
@[simp] theorem drawFree_posted (s : State) : (drawFree s).2.posted = s.posted := rfl
@[simp] theorem tick_events (s : State) : (tick s).events = s.events := by rw [tick_eq]
@[simp] theorem drawFree_events (s : State) : (drawFree s).2.events = s.events := rfl
@[simp] theorem tick_dropped (s : State) : (tick s).dropped = s.dropped := by rw [tick_eq]
@[simp] theorem drawFree_dropped (s : State) : (drawFree s).2.dropped = s.dropped := rfl
@[simp] theorem tick_funcReset (s : State) : (tick s).funcReset = s.funcReset := by rw [tick_eq]
@[simp] theorem drawFree_funcReset (s : State) : (drawFree s).2.funcReset = s.funcReset := rfl
@[simp] theorem tick_coord (s : State) : (tick s).coord = s.coord := by rw [tick_eq]
@[simp] theorem drawFree_coord (s : State) : (drawFree s).2.coord = s.coord := rfl
@[simp] theorem tick_links (s : State) : (tick s).links = s.links := by rw [tick_eq]
@[simp] theorem drawFree_links (s : State) : (drawFree s).2.links = s.links := rfl
@[simp] theorem tick_announced (s : State) : (tick s).announced = s.announced := by rw [tick_eq]
@[simp] theorem drawFree_announced (s : State) : (drawFree s).2.announced = s.announced := rfl
@[simp] theorem tick_sent (s : State) : (tick s).sent = s.sent := by rw [tick_eq]
@[simp] theorem drawFree_sent (s : State) : (drawFree s).2.sent = s.sent := rfl
@[simp] theorem tick_reductions (s : State) : (tick s).reductions = s.reductions := by rw [tick_eq]
@[simp] theorem drawFree_reductions (s : State) : (drawFree s).2.reductions = s.reductions := rfl
@[simp] theorem tick_eth (s : State) : (tick s).eth = s.eth := by rw [tick_eq]
@[simp] theorem drawFree_eth (s : State) : (drawFree s).2.eth = s.eth := rfl
@[simp] theorem tick_workDone (s : State) : (tick s).workDone = s.workDone := by rw [tick_eq]
@[simp] theorem drawFree_workDone (s : State) : (drawFree s).2.workDone = s.workDone := rfl
@[simp] theorem tick_imports (s : State) : (tick s).imports = s.imports := by rw [tick_eq]
@[simp] theorem drawFree_imports (s : State) : (drawFree s).2.imports = s.imports := rfl
@[simp] theorem tick_telemetry (s : State) : (tick s).telemetry = s.telemetry := by rw [tick_eq]
@[simp] theorem drawFree_telemetry (s : State) : (drawFree s).2.telemetry = s.telemetry := rfl
@[simp] theorem tick_setup (s : State) : (tick s).setup = s.setup := by rw [tick_eq]
@[simp] theorem drawFree_setup (s : State) : (drawFree s).2.setup = s.setup := rfl
@[simp] theorem tick_lastLock (s : State) : (tick s).lastLock = s.lastLock := by rw [tick_eq]
@[simp] theorem drawFree_lastLock (s : State) : (drawFree s).2.lastLock = s.lastLock := rfl
@[simp] theorem tick_power (s : State) : (tick s).power = s.power := by rw [tick_eq]
@[simp] theorem drawFree_power (s : State) : (drawFree s).2.power = s.power := rfl
@[simp] theorem tick_rails (s : State) : (tick s).rails = s.rails := by rw [tick_eq]
@[simp] theorem drawFree_rails (s : State) : (drawFree s).2.rails = s.rails := rfl
@[simp] theorem tick_ranger (s : State) : (tick s).ranger = s.ranger := by rw [tick_eq]
@[simp] theorem drawFree_ranger (s : State) : (drawFree s).2.ranger = s.ranger := rfl
@[simp] theorem tick_tests (s : State) : (tick s).tests = s.tests := by rw [tick_eq]
@[simp] theorem drawFree_tests (s : State) : (drawFree s).2.tests = s.tests := rfl
@[simp] theorem tick_testResults (s : State) : (tick s).testResults = s.testResults := by rw [tick_eq]
@[simp] theorem drawFree_testResults (s : State) : (drawFree s).2.testResults = s.testResults := rfl
@[simp] theorem tick_blocks (s : State) : (tick s).blocks = s.blocks := by rw [tick_eq]
@[simp] theorem drawFree_blocks (s : State) : (drawFree s).2.blocks = s.blocks := rfl
@[simp] theorem tick_tap (s : State) : (tick s).tap = s.tap := by rw [tick_eq]
@[simp] theorem drawFree_tap (s : State) : (drawFree s).2.tap = s.tap := rfl
@[simp] theorem tick_tapHolds (s : State) : (tick s).tapHolds = s.tapHolds := by rw [tick_eq]
@[simp] theorem drawFree_tapHolds (s : State) : (drawFree s).2.tapHolds = s.tapHolds := rfl
@[simp] theorem tick_i3c (s : State) : (tick s).i3c = s.i3c := by rw [tick_eq]
@[simp] theorem drawFree_i3c (s : State) : (drawFree s).2.i3c = s.i3c := rfl
@[simp] theorem tick_injected (s : State) : (tick s).injected = s.injected := by rw [tick_eq]
@[simp] theorem drawFree_injected (s : State) : (drawFree s).2.injected = s.injected := rfl
@[simp] theorem tick_yardRefresh (s : State) : (tick s).yardRefresh = s.yardRefresh := by rw [tick_eq]
@[simp] theorem drawFree_yardRefresh (s : State) : (drawFree s).2.yardRefresh = s.yardRefresh := rfl
@[simp] theorem tick_hostOut (s : State) : (tick s).hostOut = s.hostOut := by rw [tick_eq]
@[simp] theorem drawFree_hostOut (s : State) : (drawFree s).2.hostOut = s.hostOut := rfl
@[simp] theorem tick_granted (s : State) : (tick s).granted = s.granted := by rw [tick_eq]
@[simp] theorem drawFree_granted (s : State) : (drawFree s).2.granted = s.granted := rfl
@[simp] theorem tick_moves (s : State) : (tick s).moves = s.moves := by rw [tick_eq]
@[simp] theorem drawFree_moves (s : State) : (drawFree s).2.moves = s.moves := rfl
@[simp] theorem tick_recallLost (s : State) : (tick s).recallLost = s.recallLost := by rw [tick_eq]
@[simp] theorem drawFree_recallLost (s : State) : (drawFree s).2.recallLost = s.recallLost := rfl
@[simp] theorem tick_i3cSent (s : State) : (tick s).i3cSent = s.i3cSent := by rw [tick_eq]
@[simp] theorem drawFree_i3cSent (s : State) : (drawFree s).2.i3cSent = s.i3cSent := rfl

/-! ## raise -/

@[simp] theorem raise_pending (f : BitVec 3) (kind : Nat) (rec64 : BitVec 64) (value : Nat) (n : BitVec 48) (r : RingId)
    (k : CoupeId) (c : CoreId) (s : State) : (raise f kind rec64 value n r k c s).pending = s.pending := rfl
@[simp] theorem raise_timebase (f : BitVec 3) (kind : Nat) (rec64 : BitVec 64) (value : Nat) (n : BitVec 48) (r : RingId)
    (k : CoupeId) (c : CoreId) (s : State) : (raise f kind rec64 value n r k c s).timebase = s.timebase := rfl
@[simp] theorem raise_free (f : BitVec 3) (kind : Nat) (rec64 : BitVec 64) (value : Nat) (n : BitVec 48) (r : RingId)
    (k : CoupeId) (c : CoreId) (s : State) : (raise f kind rec64 value n r k c s).free = s.free := rfl
@[simp] theorem raise_mem (f : BitVec 3) (kind : Nat) (rec64 : BitVec 64) (value : Nat) (n : BitVec 48) (r : RingId)
    (k : CoupeId) (c : CoreId) (s : State) : (raise f kind rec64 value n r k c s).mem = s.mem := rfl
@[simp] theorem raise_poison (f : BitVec 3) (kind : Nat) (rec64 : BitVec 64) (value : Nat) (n : BitVec 48) (r : RingId)
    (k : CoupeId) (c : CoreId) (s : State) : (raise f kind rec64 value n r k c s).poison = s.poison := rfl
@[simp] theorem raise_rowErrors (f : BitVec 3) (kind : Nat) (rec64 : BitVec 64) (value : Nat) (n : BitVec 48) (r : RingId)
    (k : CoupeId) (c : CoreId) (s : State) : (raise f kind rec64 value n r k c s).rowErrors = s.rowErrors := rfl
@[simp] theorem raise_granuleErrors (f : BitVec 3) (kind : Nat) (rec64 : BitVec 64) (value : Nat) (n : BitVec 48) (r : RingId)
    (k : CoupeId) (c : CoreId) (s : State) : (raise f kind rec64 value n r k c s).granuleErrors = s.granuleErrors := rfl
@[simp] theorem raise_cores (f : BitVec 3) (kind : Nat) (rec64 : BitVec 64) (value : Nat) (n : BitVec 48) (r : RingId)
    (k : CoupeId) (c : CoreId) (s : State) : (raise f kind rec64 value n r k c s).cores = s.cores := rfl
@[simp] theorem raise_slots (f : BitVec 3) (kind : Nat) (rec64 : BitVec 64) (value : Nat) (n : BitVec 48) (r : RingId)
    (k : CoupeId) (c : CoreId) (s : State) : (raise f kind rec64 value n r k c s).slots = s.slots := rfl
@[simp] theorem raise_stands (f : BitVec 3) (kind : Nat) (rec64 : BitVec 64) (value : Nat) (n : BitVec 48) (r : RingId)
    (k : CoupeId) (c : CoreId) (s : State) : (raise f kind rec64 value n r k c s).stands = s.stands := rfl
@[simp] theorem raise_sectors (f : BitVec 3) (kind : Nat) (rec64 : BitVec 64) (value : Nat) (n : BitVec 48) (r : RingId)
    (k : CoupeId) (c : CoreId) (s : State) : (raise f kind rec64 value n r k c s).sectors = s.sectors := rfl
@[simp] theorem raise_readReqs (f : BitVec 3) (kind : Nat) (rec64 : BitVec 64) (value : Nat) (n : BitVec 48) (r : RingId)
    (k : CoupeId) (c : CoreId) (s : State) : (raise f kind rec64 value n r k c s).readReqs = s.readReqs := rfl
@[simp] theorem raise_readReplies (f : BitVec 3) (kind : Nat) (rec64 : BitVec 64) (value : Nat) (n : BitVec 48) (r : RingId)
    (k : CoupeId) (c : CoreId) (s : State) : (raise f kind rec64 value n r k c s).readReplies = s.readReplies := rfl
@[simp] theorem raise_windowRows (f : BitVec 3) (kind : Nat) (rec64 : BitVec 64) (value : Nat) (n : BitVec 48) (r : RingId)
    (k : CoupeId) (c : CoreId) (s : State) : (raise f kind rec64 value n r k c s).windowRows = s.windowRows := rfl
@[simp] theorem raise_acks (f : BitVec 3) (kind : Nat) (rec64 : BitVec 64) (value : Nat) (n : BitVec 48) (r : RingId)
    (k : CoupeId) (c : CoreId) (s : State) : (raise f kind rec64 value n r k c s).acks = s.acks := rfl
@[simp] theorem raise_skids (f : BitVec 3) (kind : Nat) (rec64 : BitVec 64) (value : Nat) (n : BitVec 48) (r : RingId)
    (k : CoupeId) (c : CoreId) (s : State) : (raise f kind rec64 value n r k c s).skids = s.skids := rfl
@[simp] theorem raise_leaseHits (f : BitVec 3) (kind : Nat) (rec64 : BitVec 64) (value : Nat) (n : BitVec 48) (r : RingId)
    (k : CoupeId) (c : CoreId) (s : State) : (raise f kind rec64 value n r k c s).leaseHits = s.leaseHits := rfl
@[simp] theorem raise_arrivals (f : BitVec 3) (kind : Nat) (rec64 : BitVec 64) (value : Nat) (n : BitVec 48) (r : RingId)
    (k : CoupeId) (c : CoreId) (s : State) : (raise f kind rec64 value n r k c s).arrivals = s.arrivals := rfl
@[simp] theorem raise_deckStacks (f : BitVec 3) (kind : Nat) (rec64 : BitVec 64) (value : Nat) (n : BitVec 48) (r : RingId)
    (k : CoupeId) (c : CoreId) (s : State) : (raise f kind rec64 value n r k c s).deckStacks = s.deckStacks := rfl
@[simp] theorem raise_channels (f : BitVec 3) (kind : Nat) (rec64 : BitVec 64) (value : Nat) (n : BitVec 48) (r : RingId)
    (k : CoupeId) (c : CoreId) (s : State) : (raise f kind rec64 value n r k c s).channels = s.channels := rfl
@[simp] theorem raise_yardMode (f : BitVec 3) (kind : Nat) (rec64 : BitVec 64) (value : Nat) (n : BitVec 48) (r : RingId)
    (k : CoupeId) (c : CoreId) (s : State) : (raise f kind rec64 value n r k c s).yardMode = s.yardMode := rfl
@[simp] theorem raise_yardGib (f : BitVec 3) (kind : Nat) (rec64 : BitVec 64) (value : Nat) (n : BitVec 48) (r : RingId)
    (k : CoupeId) (c : CoreId) (s : State) : (raise f kind rec64 value n r k c s).yardGib = s.yardGib := rfl
@[simp] theorem raise_transfers (f : BitVec 3) (kind : Nat) (rec64 : BitVec 64) (value : Nat) (n : BitVec 48) (r : RingId)
    (k : CoupeId) (c : CoreId) (s : State) : (raise f kind rec64 value n r k c s).transfers = s.transfers := rfl
@[simp] theorem raise_poolWait (f : BitVec 3) (kind : Nat) (rec64 : BitVec 64) (value : Nat) (n : BitVec 48) (r : RingId)
    (k : CoupeId) (c : CoreId) (s : State) : (raise f kind rec64 value n r k c s).poolWait = s.poolWait := rfl
@[simp] theorem raise_freedGroups (f : BitVec 3) (kind : Nat) (rec64 : BitVec 64) (value : Nat) (n : BitVec 48) (r : RingId)
    (k : CoupeId) (c : CoreId) (s : State) : (raise f kind rec64 value n r k c s).freedGroups = s.freedGroups := rfl
@[simp] theorem raise_journalA (f : BitVec 3) (kind : Nat) (rec64 : BitVec 64) (value : Nat) (n : BitVec 48) (r : RingId)
    (k : CoupeId) (c : CoreId) (s : State) : (raise f kind rec64 value n r k c s).journalA = s.journalA := rfl
@[simp] theorem raise_journalB (f : BitVec 3) (kind : Nat) (rec64 : BitVec 64) (value : Nat) (n : BitVec 48) (r : RingId)
    (k : CoupeId) (c : CoreId) (s : State) : (raise f kind rec64 value n r k c s).journalB = s.journalB := rfl
@[simp] theorem raise_journalOk (f : BitVec 3) (kind : Nat) (rec64 : BitVec 64) (value : Nat) (n : BitVec 48) (r : RingId)
    (k : CoupeId) (c : CoreId) (s : State) : (raise f kind rec64 value n r k c s).journalOk = s.journalOk := rfl
@[simp] theorem raise_dur (f : BitVec 3) (kind : Nat) (rec64 : BitVec 64) (value : Nat) (n : BitVec 48) (r : RingId)
    (k : CoupeId) (c : CoreId) (s : State) : (raise f kind rec64 value n r k c s).dur = s.dur := rfl
@[simp] theorem raise_journal (f : BitVec 3) (kind : Nat) (rec64 : BitVec 64) (value : Nat) (n : BitVec 48) (r : RingId)
    (k : CoupeId) (c : CoreId) (s : State) : (raise f kind rec64 value n r k c s).journal = s.journal := rfl
@[simp] theorem raise_due (f : BitVec 3) (kind : Nat) (rec64 : BitVec 64) (value : Nat) (n : BitVec 48) (r : RingId)
    (k : CoupeId) (c : CoreId) (s : State) : (raise f kind rec64 value n r k c s).due = s.due := rfl
@[simp] theorem raise_journalDue (f : BitVec 3) (kind : Nat) (rec64 : BitVec 64) (value : Nat) (n : BitVec 48) (r : RingId)
    (k : CoupeId) (c : CoreId) (s : State) : (raise f kind rec64 value n r k c s).journalDue = s.journalDue := rfl
@[simp] theorem raise_journalSaved (f : BitVec 3) (kind : Nat) (rec64 : BitVec 64) (value : Nat) (n : BitVec 48) (r : RingId)
    (k : CoupeId) (c : CoreId) (s : State) : (raise f kind rec64 value n r k c s).journalSaved = s.journalSaved := rfl
@[simp] theorem raise_mirror (f : BitVec 3) (kind : Nat) (rec64 : BitVec 64) (value : Nat) (n : BitVec 48) (r : RingId)
    (k : CoupeId) (c : CoreId) (s : State) : (raise f kind rec64 value n r k c s).mirror = s.mirror := rfl
@[simp] theorem raise_runs (f : BitVec 3) (kind : Nat) (rec64 : BitVec 64) (value : Nat) (n : BitVec 48) (r : RingId)
    (k : CoupeId) (c : CoreId) (s : State) : (raise f kind rec64 value n r k c s).runs = s.runs := rfl
@[simp] theorem raise_scentRebuild (f : BitVec 3) (kind : Nat) (rec64 : BitVec 64) (value : Nat) (n : BitVec 48) (r : RingId)
    (k : CoupeId) (c : CoreId) (s : State) : (raise f kind rec64 value n r k c s).scentRebuild = s.scentRebuild := rfl
@[simp] theorem raise_rings (f : BitVec 3) (kind : Nat) (rec64 : BitVec 64) (value : Nat) (n : BitVec 48) (r : RingId)
    (k : CoupeId) (c : CoreId) (s : State) : (raise f kind rec64 value n r k c s).rings = s.rings := rfl
@[simp] theorem raise_fetchLast (f : BitVec 3) (kind : Nat) (rec64 : BitVec 64) (value : Nat) (n : BitVec 48) (r : RingId)
    (k : CoupeId) (c : CoreId) (s : State) : (raise f kind rec64 value n r k c s).fetchLast = s.fetchLast := rfl
@[simp] theorem raise_stamp (f : BitVec 3) (kind : Nat) (rec64 : BitVec 64) (value : Nat) (n : BitVec 48) (r : RingId)
    (k : CoupeId) (c : CoreId) (s : State) : (raise f kind rec64 value n r k c s).stamp = s.stamp := rfl
@[simp] theorem raise_posted (f : BitVec 3) (kind : Nat) (rec64 : BitVec 64) (value : Nat) (n : BitVec 48) (r : RingId)
    (k : CoupeId) (c : CoreId) (s : State) : (raise f kind rec64 value n r k c s).posted = s.posted := rfl
@[simp] theorem raise_dropped (f : BitVec 3) (kind : Nat) (rec64 : BitVec 64) (value : Nat) (n : BitVec 48) (r : RingId)
    (k : CoupeId) (c : CoreId) (s : State) : (raise f kind rec64 value n r k c s).dropped = s.dropped := rfl
@[simp] theorem raise_funcReset (f : BitVec 3) (kind : Nat) (rec64 : BitVec 64) (value : Nat) (n : BitVec 48) (r : RingId)
    (k : CoupeId) (c : CoreId) (s : State) : (raise f kind rec64 value n r k c s).funcReset = s.funcReset := rfl
@[simp] theorem raise_coord (f : BitVec 3) (kind : Nat) (rec64 : BitVec 64) (value : Nat) (n : BitVec 48) (r : RingId)
    (k : CoupeId) (c : CoreId) (s : State) : (raise f kind rec64 value n r k c s).coord = s.coord := rfl
@[simp] theorem raise_links (f : BitVec 3) (kind : Nat) (rec64 : BitVec 64) (value : Nat) (n : BitVec 48) (r : RingId)
    (k : CoupeId) (c : CoreId) (s : State) : (raise f kind rec64 value n r k c s).links = s.links := rfl
@[simp] theorem raise_announced (f : BitVec 3) (kind : Nat) (rec64 : BitVec 64) (value : Nat) (n : BitVec 48) (r : RingId)
    (k : CoupeId) (c : CoreId) (s : State) : (raise f kind rec64 value n r k c s).announced = s.announced := rfl
@[simp] theorem raise_sent (f : BitVec 3) (kind : Nat) (rec64 : BitVec 64) (value : Nat) (n : BitVec 48) (r : RingId)
    (k : CoupeId) (c : CoreId) (s : State) : (raise f kind rec64 value n r k c s).sent = s.sent := rfl
@[simp] theorem raise_reductions (f : BitVec 3) (kind : Nat) (rec64 : BitVec 64) (value : Nat) (n : BitVec 48) (r : RingId)
    (k : CoupeId) (c : CoreId) (s : State) : (raise f kind rec64 value n r k c s).reductions = s.reductions := rfl
@[simp] theorem raise_eth (f : BitVec 3) (kind : Nat) (rec64 : BitVec 64) (value : Nat) (n : BitVec 48) (r : RingId)
    (k : CoupeId) (c : CoreId) (s : State) : (raise f kind rec64 value n r k c s).eth = s.eth := rfl
@[simp] theorem raise_workDone (f : BitVec 3) (kind : Nat) (rec64 : BitVec 64) (value : Nat) (n : BitVec 48) (r : RingId)
    (k : CoupeId) (c : CoreId) (s : State) : (raise f kind rec64 value n r k c s).workDone = s.workDone := rfl
@[simp] theorem raise_imports (f : BitVec 3) (kind : Nat) (rec64 : BitVec 64) (value : Nat) (n : BitVec 48) (r : RingId)
    (k : CoupeId) (c : CoreId) (s : State) : (raise f kind rec64 value n r k c s).imports = s.imports := rfl
@[simp] theorem raise_telemetry (f : BitVec 3) (kind : Nat) (rec64 : BitVec 64) (value : Nat) (n : BitVec 48) (r : RingId)
    (k : CoupeId) (c : CoreId) (s : State) : (raise f kind rec64 value n r k c s).telemetry = s.telemetry := rfl
@[simp] theorem raise_setup (f : BitVec 3) (kind : Nat) (rec64 : BitVec 64) (value : Nat) (n : BitVec 48) (r : RingId)
    (k : CoupeId) (c : CoreId) (s : State) : (raise f kind rec64 value n r k c s).setup = s.setup := rfl
@[simp] theorem raise_lastLock (f : BitVec 3) (kind : Nat) (rec64 : BitVec 64) (value : Nat) (n : BitVec 48) (r : RingId)
    (k : CoupeId) (c : CoreId) (s : State) : (raise f kind rec64 value n r k c s).lastLock = s.lastLock := rfl
@[simp] theorem raise_power (f : BitVec 3) (kind : Nat) (rec64 : BitVec 64) (value : Nat) (n : BitVec 48) (r : RingId)
    (k : CoupeId) (c : CoreId) (s : State) : (raise f kind rec64 value n r k c s).power = s.power := rfl
@[simp] theorem raise_rails (f : BitVec 3) (kind : Nat) (rec64 : BitVec 64) (value : Nat) (n : BitVec 48) (r : RingId)
    (k : CoupeId) (c : CoreId) (s : State) : (raise f kind rec64 value n r k c s).rails = s.rails := rfl
@[simp] theorem raise_ranger (f : BitVec 3) (kind : Nat) (rec64 : BitVec 64) (value : Nat) (n : BitVec 48) (r : RingId)
    (k : CoupeId) (c : CoreId) (s : State) : (raise f kind rec64 value n r k c s).ranger = s.ranger := rfl
@[simp] theorem raise_tests (f : BitVec 3) (kind : Nat) (rec64 : BitVec 64) (value : Nat) (n : BitVec 48) (r : RingId)
    (k : CoupeId) (c : CoreId) (s : State) : (raise f kind rec64 value n r k c s).tests = s.tests := rfl
@[simp] theorem raise_testResults (f : BitVec 3) (kind : Nat) (rec64 : BitVec 64) (value : Nat) (n : BitVec 48) (r : RingId)
    (k : CoupeId) (c : CoreId) (s : State) : (raise f kind rec64 value n r k c s).testResults = s.testResults := rfl
@[simp] theorem raise_blocks (f : BitVec 3) (kind : Nat) (rec64 : BitVec 64) (value : Nat) (n : BitVec 48) (r : RingId)
    (k : CoupeId) (c : CoreId) (s : State) : (raise f kind rec64 value n r k c s).blocks = s.blocks := rfl
@[simp] theorem raise_tap (f : BitVec 3) (kind : Nat) (rec64 : BitVec 64) (value : Nat) (n : BitVec 48) (r : RingId)
    (k : CoupeId) (c : CoreId) (s : State) : (raise f kind rec64 value n r k c s).tap = s.tap := rfl
@[simp] theorem raise_tapHolds (f : BitVec 3) (kind : Nat) (rec64 : BitVec 64) (value : Nat) (n : BitVec 48) (r : RingId)
    (k : CoupeId) (c : CoreId) (s : State) : (raise f kind rec64 value n r k c s).tapHolds = s.tapHolds := rfl
@[simp] theorem raise_i3c (f : BitVec 3) (kind : Nat) (rec64 : BitVec 64) (value : Nat) (n : BitVec 48) (r : RingId)
    (k : CoupeId) (c : CoreId) (s : State) : (raise f kind rec64 value n r k c s).i3c = s.i3c := rfl
@[simp] theorem raise_injected (f : BitVec 3) (kind : Nat) (rec64 : BitVec 64) (value : Nat) (n : BitVec 48) (r : RingId)
    (k : CoupeId) (c : CoreId) (s : State) : (raise f kind rec64 value n r k c s).injected = s.injected := rfl
@[simp] theorem raise_yardRefresh (f : BitVec 3) (kind : Nat) (rec64 : BitVec 64) (value : Nat) (n : BitVec 48) (r : RingId)
    (k : CoupeId) (c : CoreId) (s : State) : (raise f kind rec64 value n r k c s).yardRefresh = s.yardRefresh := rfl
@[simp] theorem raise_hostOut (f : BitVec 3) (kind : Nat) (rec64 : BitVec 64) (value : Nat) (n : BitVec 48) (r : RingId)
    (k : CoupeId) (c : CoreId) (s : State) : (raise f kind rec64 value n r k c s).hostOut = s.hostOut := rfl
@[simp] theorem raise_granted (f : BitVec 3) (kind : Nat) (rec64 : BitVec 64) (value : Nat) (n : BitVec 48) (r : RingId)
    (k : CoupeId) (c : CoreId) (s : State) : (raise f kind rec64 value n r k c s).granted = s.granted := rfl
@[simp] theorem raise_moves (f : BitVec 3) (kind : Nat) (rec64 : BitVec 64) (value : Nat) (n : BitVec 48) (r : RingId)
    (k : CoupeId) (c : CoreId) (s : State) : (raise f kind rec64 value n r k c s).moves = s.moves := rfl
@[simp] theorem raise_recallLost (f : BitVec 3) (kind : Nat) (rec64 : BitVec 64) (value : Nat) (n : BitVec 48) (r : RingId)
    (k : CoupeId) (c : CoreId) (s : State) : (raise f kind rec64 value n r k c s).recallLost = s.recallLost := rfl
@[simp] theorem raise_i3cSent (f : BitVec 3) (kind : Nat) (rec64 : BitVec 64) (value : Nat) (n : BitVec 48) (r : RingId)
    (k : CoupeId) (c : CoreId) (s : State) : (raise f kind rec64 value n r k c s).i3cSent = s.i3cSent := rfl

end Sys2Proof.Machine
end

