-- ==== Sys2Proof/Laws/Issue.lean ====
section
/-! SUPPORT. What issuing, completing, jumping, waiting and taking an exception can do, said once each. -/

namespace Sys2Proof.Machine

/-- No cause holds. -/
theorem firstCause_none (l : List (ExcClass × Bool)) (h : ∀ e ∈ l, e.2 = false) : firstCause l = none := by
  have e : l.filter (·.2) = [] := List.filter_eq_nil_iff.2 (by simpa using fun a b hm => h (a, b) hm)
  simp [firstCause, e]

/-- An instruction that is issued now: the first cause of R87, or its effect, or its place in its unit's queue. -/
theorem issue_now (c : CoreId) (op : Nat) (f : Fields) (causes : List (ExcClass × Bool)) (body : State → State) (s : State)
    (hi : Issues c s) (hq : (s.core c).queue.find? (fun e => e.op = op && e.f = f) = none)
    (hb : (s.core c).blocker op f = none) :
    issue c op f causes body s = .next (match firstCause causes, opUnit op with
      | some k, _ => takeExc c k s
      | none, none => body s
      | none, some u =>
        if u.depth ≤ ((s.core c).inUnit u).length then s
        else if ((s.core c).inUnit u).isEmpty then runNew c op f body s
        else queueUp c op f (s.setCore c (s.core c).issued)) := by
  obtain ⟨h1, h2, h3⟩ := hi
  simp only [issue, hq, h1, h2, h3, hb]
  cases firstCause causes with
  | some k => simp
  | none =>
    cases opUnit op with
    | none => simp
    | some u =>
      by_cases h4 : u.depth ≤ ((s.core c).inUnit u).length
      · simp [h4]
      · by_cases h5 : ((s.core c).inUnit u).isEmpty = true <;> simp [h4, h5]

/-- An instruction of the scalar unit that is issued now has its effect when no cause holds. -/
theorem issue_scalar (c : CoreId) (op : Nat) (f : Fields) (causes : List (ExcClass × Bool)) (body : State → State) (s : State)
    (hi : Issues c s) (hq : (s.core c).queue.find? (fun e => e.op = op && e.f = f) = none)
    (hb : (s.core c).blocker op f = none) (hu : opUnit op = none) (hc : ∀ e ∈ causes, e.2 = false) :
    issue c op f causes body s = .next (body s) := by
  rw [issue_now c op f causes body s hi hq hb, firstCause_none causes hc, hu]

/-- One of a unit whose queue is empty runs at once. -/
theorem issue_unit (c : CoreId) (op : Nat) (f : Fields) (u : UnitQ) (causes : List (ExcClass × Bool)) (body : State → State)
    (s : State) (hi : Issues c s) (hq : (s.core c).queue.find? (fun e => e.op = op && e.f = f) = none)
    (hb : (s.core c).blocker op f = none) (hu : opUnit op = some u) (he : (s.core c).inUnit u = [])
    (hc : ∀ e ∈ causes, e.2 = false) : issue c op f causes body s = .next (runNew c op f body s) := by
  rw [issue_now c op f causes body s hi hq hb, firstCause_none causes hc, hu]
  simp only [he]
  cases u <;> simp [UnitQ.depth]

/-- What runs at once and moves on leaves nothing in a queue. -/
theorem runNew_done (c : CoreId) (op : Nat) (f : Fields) (body : State → State) (s : State)
    (h : ((body s).core c).pc ≠ (s.core c).pc) : runNew c op f body s = body s := by
  simp [runNew, h]

/-- Issuing always answers a next state. -/
theorem issue_next (c : CoreId) (op : Nat) (f : Fields) (causes : List (ExcClass × Bool)) (body : State → State) (s : State) :
    ∃ t, issue c op f causes body s = .next t := by
  dsimp only [issue]
  split
  · split <;> exact ⟨_, rfl⟩
  · split
    · split
      · exact ⟨_, rfl⟩
      · split
        · exact ⟨_, rfl⟩
        · split
          · exact ⟨_, rfl⟩
          · split
            · exact ⟨_, rfl⟩
            · split
              · exact ⟨_, rfl⟩
              · split
                · exact ⟨_, rfl⟩
                · split <;> exact ⟨_, rfl⟩
    · exact ⟨_, rfl⟩

/-! ## Progress and completion -/

theorem progress_cases (s : State) (c : CoreId) :
    progress s c = s ∨ ∃ k, progress s c = s.setRun k { s.run k with lastProgress := s.timebase } := by
  unfold progress
  split
  · exact .inl rfl
  · exact .inr ⟨_, rfl⟩

@[simp] theorem progress_cores (s : State) (c : CoreId) : (progress s c).cores = s.cores := by
  rcases progress_cases s c with h | ⟨k, h⟩ <;> rw [h] <;> rfl

@[simp] theorem progress_core (s : State) (c d : CoreId) : (progress s c).core d = s.core d := by
  simp [State.core]

@[simp] theorem progress_mem (s : State) (c : CoreId) : (progress s c).mem = s.mem := by
  rcases progress_cases s c with h | ⟨k, h⟩ <;> rw [h] <;> rfl

theorem progress_rest (s : State) (c : CoreId) : progress s c = { s with runs := (progress s c).runs } := by
  rcases progress_cases s c with h | ⟨k, h⟩ <;> rw [h] <;> rfl

theorem progress_runs (s : State) (c : CoreId) : RunsSame s (progress s c) := by
  intro j
  rcases progress_cases s c with h | ⟨k, h⟩ <;> rw [h]
  by_cases e : j.toNat = k.toNat
  · have : j = k := BitVec.eq_of_toNat_eq e
    subst this; simp [State.run, State.setRun]
  · simp [State.run, State.setRun, Sparse.get_set, e]

/-- What completing an instruction changes. -/
theorem completeWith_spec (c : CoreId) (x : Core) (s : State) :
    (completeWith c x s).core c = x.issued.advance ∧ OnlyCore c s (completeWith c x s) := by
  refine ⟨by simp [completeWith], by simp [SameBytes, completeWith], ?_, ?_, ?_⟩
  · intro d hd; simp [completeWith, State.setCore_core_other, hd]
  · intro k; simpa [completeWith, State.run] using progress_runs (s.setCore c x.issued.advance) c k
  · unfold completeWith; rw [progress_rest]; rfl

/-- What a control transfer changes. -/
theorem jumpWith_spec (c : CoreId) (x : Core) (n : Nat) (s : State) :
    (jumpWith c x n s).core c = x.issued.goTo n ∧ OnlyCore c s (jumpWith c x n s) := by
  refine ⟨by simp [jumpWith], by simp [SameBytes, jumpWith], ?_, ?_, ?_⟩
  · intro d hd; simp [jumpWith, State.setCore_core_other, hd]
  · intro k; simpa [jumpWith, State.run] using progress_runs (s.setCore c (x.issued.goTo n)) c k
  · unfold jumpWith; rw [progress_rest]; rfl

/-- What waiting changes: the core alone. -/
theorem stallWith_spec (c : CoreId) (x : Core) (k : Stall) (h : BitVec 16) (s : State) :
    (stallWith c x k h s).core c = x.stalled k h (now48 s) ∧ OnlyCore c s (stallWith c x k h s) := by
  refine ⟨by simp [stallWith], by simp [SameBytes, stallWith], ?_, ?_, rfl⟩
  · intro d hd; simp [stallWith, State.setCore_core_other, hd]
  · intro k; rfl

/-- What an exception changes: the core alone, and of it the phase, the class and the stall bookkeeping. -/
theorem takeExc_spec (c : CoreId) (k : ExcClass) (s : State) :
    (takeExc c k s).core c = { s.core c with phase := .retire, exc := k, stall := .other, stallSince := 0 }
      ∧ OnlyCore c s (takeExc c k s) := by
  refine ⟨by simp [takeExc], by simp [SameBytes, takeExc], ?_, ?_, rfl⟩
  · intro d hd; simp [takeExc, State.setCore_core_other, hd]
  · intro k; rfl

/-! ## Registers -/

/-- Writing a scalar register. -/
theorem Core.wr_scalar (x : Core) (d : BitVec 5) (v : BitVec 64) (p : Bool) : ScalarIs d v p x (x.wr d.toNat v p) :=
  ⟨x.wr_rd d.toNat v p, x.wr_rdP d.toNat v p⟩

end Sys2Proof.Machine
end

