-- ==== Sys2Proof/Laws/Memory.lean ====
section
/-! SUPPORT. Laws of memory: reads after writes, and the canonical form that every memory operation keeps. -/

namespace Sys2Proof.Machine

/-- The canonical form, spelled out. -/
theorem Memory.wf_iff (m : List Host.Cell) :
    Memory.wf m = true ↔ m.Pairwise (fun a b => a.1 < b.1) ∧ ∀ c ∈ m, c.2 ≠ Memory.empty := by
  simp [Memory.wf]

/-- Dropping cells keeps the form. -/
theorem Memory.wf_filter (p : Host.Cell → Bool) (m : List Host.Cell) (h : Memory.wf m = true) :
    Memory.wf (m.filter p) = true := by
  rw [Memory.wf_iff] at h ⊢
  exact ⟨h.1.filter p, fun c hc => h.2 c (List.mem_filter.1 hc).1⟩

/-- Three runs of cells, each before the next, are in the form when each is. -/
theorem Memory.wf_three (a b c : List Host.Cell) (lo hi : Nat) (ha : Memory.wf a = true) (hb : Memory.wf b = true)
    (hc : Memory.wf c = true) (ra : ∀ x ∈ a, x.1 < lo) (rb : ∀ x ∈ b, lo ≤ x.1 ∧ x.1 < hi) (rc : ∀ x ∈ c, hi ≤ x.1)
    (le : lo ≤ hi) : Memory.wf (a ++ b ++ c) = true := by
  rw [Memory.wf_iff] at *
  refine ⟨?_, ?_⟩
  · simp only [List.append_assoc, List.pairwise_append]
    refine ⟨ha.1, ⟨hb.1, hc.1, ?_⟩, ?_⟩
    · intro x hx y hy
      have := rb x hx; have := rc y hy; omega
    · intro x hx y hy
      have := ra x hx
      rcases List.mem_append.1 hy with hy | hy
      · have := rb y hy; omega
      · have := rc y hy; omega
  · intro x hx
    simp at hx
    rcases hx with hx | hx | hx
    · exact ha.2 x hx
    · exact hb.2 x hx
    · exact hc.2 x hx

/-- The cells of a run of bytes. -/
theorem Memory.cells_spec : ∀ (bs : List (BitVec 8)) (a : Nat),
    Memory.wf (Memory.cells a bs) = true ∧ ∀ x ∈ Memory.cells a bs, a ≤ x.1 ∧ x.1 < a + bs.length
  | [], a => by simp [Memory.cells, Memory.wf]
  | b :: bs, a => by
    obtain ⟨hw, hr⟩ := Memory.cells_spec bs (a + 1)
    have hr' : ∀ x ∈ Memory.cells (a + 1) bs, a + 1 ≤ x.1 ∧ x.1 < a + (b :: bs).length := by
      intro x hx; have := hr x hx; simp; omega
    by_cases e : b = Memory.empty
    · simp only [Memory.cells, e, if_true, List.nil_append]
      exact ⟨hw, fun x hx => by have := hr' x hx; simp at this ⊢; omega⟩
    · simp only [Memory.cells, e, if_false]
      constructor
      · have := Memory.wf_three [] [(a, b)] (Memory.cells (a + 1) bs) a (a + 1) (by decide)
          (by simp [Memory.wf, e]) hw (by simp) (by simp) (fun x hx => (hr' x hx).1) (by omega)
        simpa using this
      · intro x hx
        simp at hx
        rcases hx with hx | hx
        · subst hx; simp
        · have := hr' x hx; simp at this ⊢; omega

/-- A write keeps the form. -/
theorem Memory.write_wf (a : Nat) (bs : List (BitVec 8)) (m : List Host.Cell) (h : Memory.wf m = true) :
    Memory.wf (Memory.write a bs m) = true := by
  obtain ⟨hw, hr⟩ := Memory.cells_spec bs a
  exact Memory.wf_three _ _ _ a (a + bs.length) (Memory.wf_filter _ m h) hw (Memory.wf_filter _ m h)
    (by simp) hr (by simp) (by omega)

/-- A write of a row keeps the form. -/
theorem Memory.writeRow_wf (a : Nat) (r : Row) (m : List Host.Cell) (h : Memory.wf m = true) :
    Memory.wf (Memory.writeRow a r m) = true := Memory.write_wf a _ m h

/-- A copy keeps the form. -/
theorem Memory.copy_wf (src dst n : Nat) (m : List Host.Cell) (h : Memory.wf m = true) :
    Memory.wf (Memory.copy src dst n m) = true := by
  have mid := Memory.wf_filter (fun c => src ≤ c.1 && c.1 < src + n) m h
  refine Memory.wf_three _ _ _ dst (dst + n) (Memory.wf_filter _ m h) ?_ (Memory.wf_filter _ m h)
    (by simp) ?_ (by simp) (by omega)
  · rw [Memory.wf_iff] at mid ⊢
    refine ⟨?_, ?_⟩
    · rw [List.pairwise_map]
      refine mid.1.imp_of_mem ?_
      intro x y hx hy hlt
      have h1 := (List.mem_filter.1 hx).2; have h2 := (List.mem_filter.1 hy).2
      simp at h1 h2 ⊢; omega
    · intro c hc
      obtain ⟨x, hx, rfl⟩ := List.mem_map.1 hc
      exact mid.2 x hx
  · intro c hc
    obtain ⟨x, hx, rfl⟩ := List.mem_map.1 hc
    have h1 := (List.mem_filter.1 hx).2
    simp at h1 ⊢; omega

/-- Cells of a run hold nothing below their first address. -/
theorem Memory.cells_lookup_outside (k : Nat) : ∀ (bs : List (BitVec 8)) (a : Nat), (k < a ∨ a + bs.length ≤ k) →
    (Memory.cells a bs).lookup k = none
  | [], _, _ => rfl
  | b :: bs, a, h => by
    have ih := Memory.cells_lookup_outside k bs (a + 1) (by simp at h; omega)
    have e : (k == a) = false := by simp at h ⊢; omega
    by_cases hb : b = Memory.empty <;> simp [Memory.cells, hb, ih, List.lookup, e]

/-- A write leaves every byte outside it alone. -/
theorem Memory.byte_write_outside (k a : Nat) (bs : List (BitVec 8)) (m : List Host.Cell)
    (h : k < a ∨ a + bs.length ≤ k) : Memory.byte k (Memory.write a bs m) = Memory.byte k m := by
  have hc := Memory.cells_lookup_outside k bs a h
  rcases h with h | h
  · have h1 := Sparse.lookup_filter_true (α := BitVec 8) k (fun j => decide (j < a)) (by simpa using h) m
    have h2 := Sparse.lookup_filter_false (α := BitVec 8) k (fun j => decide (a + bs.length ≤ j)) (by simp; omega) m
    simp [Memory.byte, Memory.write, Sparse.lookup_append, h1, h2, hc]
  · have h1 := Sparse.lookup_filter_false (α := BitVec 8) k (fun j => decide (j < a)) (by simp; omega) m
    have h2 := Sparse.lookup_filter_true (α := BitVec 8) k (fun j => decide (a + bs.length ≤ j)) (by simpa using h) m
    simp [Memory.byte, Memory.write, Sparse.lookup_append, h1, h2, hc]

/-- Byte i of a run of cells. -/
theorem Memory.cells_byte : ∀ (bs : List (BitVec 8)) (a i : Nat) (h : i < bs.length),
    ((Memory.cells a bs).lookup (a + i)).getD Memory.empty = bs[i]
  | b :: bs, a, 0, _ => by
    have hl := Memory.cells_lookup_outside a bs (a + 1) (by omega)
    by_cases hb : b = Memory.empty <;> simp [Memory.cells, hb, hl]
  | b :: bs, a, i + 1, h => by
    have ih := Memory.cells_byte bs (a + 1) i (by simpa using h)
    have e : ((a + (i + 1)) == a) = false := by simp
    have s : a + 1 + i = a + (i + 1) := by omega
    rw [s] at ih
    by_cases hb : b = Memory.empty <;> simp [Memory.cells, hb, List.lookup, e, ih]

/-- A byte of a write reads as written. -/
theorem Memory.byte_write_inside (a i : Nat) (bs : List (BitVec 8)) (m : List Host.Cell) (h : i < bs.length) :
    Memory.byte (a + i) (Memory.write a bs m) = bs[i] := by
  have h1 := Sparse.lookup_filter_false (α := BitVec 8) (a + i) (fun j => decide (j < a)) (by simp) m
  have h2 := Sparse.lookup_filter_false (α := BitVec 8) (a + i) (fun j => decide (a + bs.length ≤ j)) (by simp; omega) m
  have := Memory.cells_byte bs a i h
  simp [Memory.byte, Memory.write, Sparse.lookup_append, h1, h2, this]

/-- Memory at reset is in the canonical form. -/
theorem State.reset_mem_wf : Memory.wf State.reset.mem = true := by decide

end Sys2Proof.Machine
end

