-- ==== Sys2Proof/Machine/Fec.lean ====
section
/-! DEFINITION. Forward error correction of Mirovik links: the code, the codeword group and the order in which a group's
symbols go to the lanes (R330). A FLIT command says what the decoder found; these definitions say what it judges by. -/

namespace Sys2Proof.Machine

/-! ## GF(2^10) with the field polynomial x^10 + x^3 + 1 -/

/-- A field element times α, the root x. -/
def gfTimesAlpha (a : Nat) : Nat := if 512 ≤ a % 1024 then ((2 * a) % 1024) ^^^ 9 else 2 * a % 1024

/-- α^i. -/
def gfAlpha : Nat → Nat
  | 0 => 1
  | i + 1 => gfTimesAlpha (gfAlpha i)

/-- The bits of b from bit n − 1 downwards multiply a (Horner). -/
def gfMulFrom (a b : Nat) : Nat → Nat
  | 0 => 0
  | n + 1 =>
    let high := gfMulFrom a (b / 2) n
    gfTimesAlpha high ^^^ (if b % 2 = 1 then a % 1024 else 0)

/-- The product of two field elements. -/
def gfMul (a b : Nat) : Nat := gfMulFrom a b 10

/-! ## RS(272,256): polynomials are lists of coefficients, the highest power first -/

/-- A polynomial times (x − c). -/
def polyTimesRoot (p : List Nat) (c : Nat) : List Nat :=
  List.zipWith (fun a b => a ^^^ b) (p ++ [0]) (0 :: p.map (gfMul c))

/-- The generator Π (x − α^i), i = 0 to 15: 17 coefficients. -/
def rsGenerator : List Nat := (List.range 16).foldl (fun p i => polyTimesRoot p (gfAlpha i)) [1]

/-- One data symbol through the encoder's 16 check registers. -/
def rsShift (reg : List Nat) (d : Nat) : List Nat :=
  let f := reg.headD 0 ^^^ d
  List.zipWith (fun a g => a ^^^ gfMul f g) (reg.drop 1 ++ [0]) (rsGenerator.drop 1)

/-- The 16 check symbols of a codeword's data. -/
def rsChecks (data : List Nat) : List Nat := data.foldl rsShift (List.replicate 16 0)

/-- A systematic codeword: its 256 data symbols, then its check symbols. -/
def rsEncode (data : List Nat) : List Nat := data ++ rsChecks data

/-- A word's value at a point. -/
def polyAt (p : List Nat) (x : Nat) : Nat := p.foldl (fun acc c => gfMul acc x ^^^ c) 0

/-- A word is a codeword when every root of the generator is one of its own. -/
def rsValid (w : List Nat) : Bool := (List.range 16).all (fun i => polyAt w (gfAlpha i) = 0)

/-- In how many symbols two words differ. -/
def symbolErrors (a b : List Nat) : Nat := ((List.zip a b).filter (fun p => p.1 ≠ p.2)).length

/-- The decoder turns a received word into this codeword: at most 8 symbols are corrected. A word with no such codeword
is uncorrectable. -/
def rsDecodes (received w : List Nat) : Bool := rsValid w && symbolErrors received w ≤ 8

/-! ## A codeword group: five flits, four codewords -/

/-- Data symbol i of a group: 10 bits of the flits' bytes, little-endian in bit order. -/
def groupSymbol (flits : List (BitVec 2048)) (i : Nat) : Nat :=
  (List.range 10).foldl (fun acc b =>
    let n := 10 * i + b
    acc + b2n (bit (flits.getD (n / 2048) 0) (n % 2048)) * 2 ^ b) 0

/-- Codeword j of a group: data symbols 256·j to 256·j + 255, and their checks. -/
def groupCodeword (flits : List (BitVec 2048)) (j : Nat) : List Nat :=
  rsEncode ((List.range 256).map (fun i => groupSymbol flits (256 * j + i)))

/-- The 1,088 symbols in the order in which they are sent: c0s0, c1s0, c2s0, c3s0, c0s1, … -/
def groupOrder (flits : List (BitVec 2048)) : List Nat :=
  let cs := (List.range 4).map (groupCodeword flits)
  (List.range 1088).map (fun k => (cs.getD (k % 4) []).getD (k / 4) 0)

/-- The active lane that takes symbol k of the order. -/
def symbolLane (x : Link) (k : Nat) : Nat := k % x.lanes.toNat

end Sys2Proof.Machine
end

