-- ==== Sys2Proof/Machine/Lands.lean ====
section
/-! DEFINITION. The module's lands: names, groups and the land of each signal (R422–R426). They connect the part to its
board; no command reads them. -/

namespace Sys2Proof.Machine

/-- A land by its row (1–64, north to south) and column (1–140, west to east). -/
structure Land where
  row : Nat
  col : Nat
  deriving DecidableEq, Repr

/-- The 19 letters of a run of rows (R422). -/
def rowLetters : List String :=
  ["A", "B", "C", "D", "E", "F", "G", "H", "J", "K", "L", "M", "N", "P", "T", "U", "V", "W", "Y"]

/-- A row's name: A to Y, AA to AY, BA to BY, CA to CG. -/
def rowName (r : Nat) : String := ["", "A", "B", "C"].getD ((r - 1) / 19) "" ++ rowLetters.getD ((r - 1) % 19) ""

/-- A land's name, such as D84. -/
def Land.name (x : Land) : String := rowName x.row ++ toString x.col

/-! ## Groups (R423) -/

inductive LandGroup where
  | host
  | ml (link : Nat)
  | yard (channel : Nat)
  | eth | mgmt | mref | p3v3Aux | p48v | p48vRtn | rsvd | gnd
  deriving DecidableEq, Repr

/-- Whether a land lies in rows r0–r1 and columns c0–c1. -/
def Land.within (x : Land) (r0 r1 c0 c1 : Nat) : Bool := r0 ≤ x.row && x.row ≤ r1 && c0 ≤ x.col && x.col ≤ c1

/-- The group of a land; every land that no group names is GND. -/
def Land.group (x : Land) : LandGroup :=
  if x.within 11 36 1 8 then .host
  else if x.within 1 10 11 130 then .ml ((x.col - 11) / 10)
  else if x.within 55 64 11 130 then .ml (12 + (x.col - 11) / 10)
  else if x.within 11 42 9 136 then .yard ((x.col - 9) / 8)
  else if x.within 11 32 137 140 then .eth
  else if x.within 37 42 1 4 then .mgmt
  else if x.within 37 39 5 8 then .mref
  else if x.within 40 45 5 8 then .p3v3Aux
  else if x.within 43 54 41 55 then .p48v
  else if x.within 43 54 56 70 then .p48vRtn
  else if x.within 37 54 137 140 then .rsvd
  else .gnd

/-! ## Lanes (R424): `n` picks the complement half of a pair -/

/-- HTX of host lane l. -/
def hostTx (l : Nat) (n : Bool) : Land := ⟨12 + l, 2 + b2n n⟩
/-- HRX of host lane l. -/
def hostRx (l : Nat) (n : Bool) : Land := ⟨12 + l, 6 + b2n n⟩

/-- The land at an offset of Mirovik link k's block. -/
def mlLand (k rowOff colOff : Nat) : Land := ⟨(if k < 12 then 1 else 55) + rowOff, 11 + 10 * (k % 12) + colOff⟩
/-- MLk_TX of lane l. -/
def mlTx (k l : Nat) (n : Bool) : Land := mlLand k (if l < 4 then 1 else 3) (1 + 2 * (l % 4) + b2n n)
/-- MLk_RX of lane l. -/
def mlRx (k l : Nat) (n : Bool) : Land := mlLand k (if l < 4 then 6 else 8) (1 + 2 * (l % 4) + b2n n)

/-- ETX of lane l of Ethernet port p. -/
def ethTx (p l : Nat) (n : Bool) : Land := ⟨12 + 4 * p + l, 137 + b2n n⟩
/-- ERX of lane l of Ethernet port p. -/
def ethRx (p l : Nat) (n : Bool) : Land := ⟨12 + 4 * p + l, 139 + b2n n⟩

/-! ## Yard channels (R425) -/

/-- Signals of one subchannel in their order. -/
def subchannelSignals : List String :=
  (List.range 40).map (fun i => "DQ" ++ toString i)
    ++ (List.range 10).flatMap (fun i => ["DQS" ++ toString i ++ "_t", "DQS" ++ toString i ++ "_c"])
    ++ (List.range 14).map (fun i => "CA" ++ toString i) ++ ["CS0_N", "CS1_N", "CK_t", "CK_c"]

/-- The 160 signals of a channel. -/
def yardSignals : List String :=
  subchannelSignals.map (fun n => "A_" ++ n) ++ subchannelSignals.map (fun n => "B_" ++ n)
    ++ ["RESET_N", "ALERT_N", "HSCL", "HSDA"]

/-- The land of signal i (0–159) of yard channel c. -/
def yardLand (c i : Nat) : Land := ⟨11 + i / 5, 9 + 8 * c + 1 + i % 5⟩

/-! ## Single-ended lands and clocks (R424, R426) -/

def singleLands : List (String × Land) :=
  [("I3C_SCL", ⟨37, 1⟩), ("I3C_SDA", ⟨37, 3⟩), ("AUXCLK", ⟨38, 1⟩), ("COLD_RST_N", ⟨38, 3⟩), ("THERM_TRIP_N", ⟨39, 1⟩),
    ("PWR_FLT_N", ⟨39, 3⟩), ("TCK", ⟨40, 1⟩), ("TMS", ⟨40, 3⟩), ("TDI", ⟨41, 1⟩), ("TDO", ⟨41, 3⟩), ("TRST_N", ⟨42, 1⟩),
    ("MREF0_P", ⟨37, 5⟩), ("MREF0_N", ⟨37, 6⟩), ("MREF1_P", ⟨39, 5⟩), ("MREF1_N", ⟨39, 6⟩),
    ("HOST_REFCLK_P", ⟨11, 2⟩), ("HOST_REFCLK_N", ⟨11, 3⟩), ("PERST_N", ⟨11, 6⟩), ("HST_RB", ⟨11, 7⟩),
    ("EREF_P", ⟨11, 137⟩), ("EREF_N", ⟨11, 138⟩)]

end Sys2Proof.Machine
end

