-- ==== Sys2Proof/Tests/Slice0.lean ====
section
/-! SUPPORT. Tests: an ill-formed term for each check of WellFormed, a few results that the spec's own tables and examples
give, and for each statement with hypotheses a state and operands that meet them. -/

namespace Sys2Proof.Machine

set_option Elab.async false

/-! ## Well-formed commands -/

theorem test_wf_rows_stop_at_30719 : (Instr.benchStarvation 0 30719 .scrubber).wf = true
    ∧ (Instr.benchStarvation 0 30720 .scrubber).wf = false := by decide

theorem test_wf_physical_cores : (Instr.bringUpComplete ⟨[], [], [], [], [(5, 33)]⟩).wf = true
    ∧ (Instr.bringUpComplete ⟨[], [], [], [], [(5, 34)]⟩).wf = false := by decide

theorem test_wf_movers_of_known_agents : (Instr.transferDeadline ⟨16, 0⟩).wf = true
    ∧ (Instr.transferDeadline ⟨8, 0⟩).wf = false ∧ (Instr.moverTransfer ⟨17, 0⟩ 0 0 (.ok [])).wf = false
    ∧ (Instr.moverTransferComplete ⟨8, 0⟩ (.ok [])).wf = false := by decide

theorem test_wf_register_sizes : (Instr.registerWrite 0 0 8 0).wf = true ∧ (Instr.registerWrite 0 0 3 0).wf = false := by
  decide

theorem test_wf_links_keep_a_lane : (Instr.linkTrainComplete 0 1 false).wf = true
    ∧ (Instr.linkTrainComplete 0 0 false).wf = false ∧ (Instr.linkErrorFallback 0 (.confined 0)).wf = false := by decide

theorem test_wf_converters_and_rails : (Instr.sensorPoll [(.converter 127, 0)]).wf = true
    ∧ (Instr.sensorPoll [(.converter 128, 0)]).wf = false ∧ (Instr.railRetry .core 127).wf = true
    ∧ (Instr.railRetry .aon 1).wf = false ∧ (Instr.railInRegulation .ib 4).wf = false
    ∧ (Instr.railOutOfRegulation .deck 8 ⟨0, 0, 0⟩).wf = false ∧ (Instr.railRampTimeout .hsio 1 ⟨0, 0, 0⟩).wf = false := by
  decide

theorem test_wf_self_test_targets : (Instr.selfTestComplete 4 23 ⟨0, [], 0, 0⟩).wf = true
    ∧ (Instr.selfTestComplete 4 24 ⟨0, [], 0, 0⟩).wf = false ∧ (Instr.selfTestComplete 7 0 ⟨0, [], 0, 0⟩).wf = false := by
  decide

theorem test_wf_packets_have_their_type : (Instr.flush 0 (4 <<< 120)).wf = true ∧ (Instr.flush 0 0).wf = false
    ∧ (Instr.row 0 0 0).wf = false ∧ (Instr.credit 0 0 0).wf = false ∧ (Instr.outcome 0 0 0 0 0 0 [] none 0).wf = false
    ∧ (Instr.announce 0 0 [] 0).wf = false ∧ (Instr.bundle 0 0 0 0 []).wf = false := by decide

theorem test_wf_seq_buffers_name_a_block :
    (Instr.ethWorkRequest 0 0 false .send (.seq 0 0 0 1) ⟨[], 0⟩ .done).wf = true
    ∧ (Instr.ethWorkRequest 0 0 false .send (.seq 0 0 0 0) ⟨[], 0⟩ .done).wf = false := by decide

/-! ## States for the tests -/

/-- Fields from numbers. -/
def fields (d a b sel mod imm : Nat) : Fields :=
  ⟨BitVec.ofNat 5 d, BitVec.ofNat 5 a, BitVec.ofNat 5 b, BitVec.ofNat 3 sel, BitVec.ofNat 4 mod, BitVec.ofNat 32 imm⟩

/-- The outcome is a next state of which `p` holds. -/
def answers (o : Host.Outcome State Fault Refusal) (p : State → Bool) : Bool :=
  match o with
  | .next t => p t
  | _ => false

/-- A core that runs a task at instruction 10, with rows 3 to 1000 of its bench. -/
def runningCore : Core :=
  { Core.reset with
    task := some 0
    phase := .run
    base := 3
    bound := 1000
    pc := 10
    g := [(1, 20), (2, 2), (3, 100), (4, 7), (5, 7)] }

/-- A bound coupe 5 of stands 0 and 1. -/
def boundCoupe : Coupe := { Coupe.reset with state := .bound, stands := 3, tshare := false }

/-- Core 0 of coupe 5 is `x`. -/
def coreState (x : Core) : State :=
  { State.reset.setCore 0 x with
    dur := { Durable.reset with coupes := [(5, boundCoupe)] }
    runs := [(5, CoupeRun.reset)]
    timebase := 100
    power := { State.reset.power with main := true } }

theorem test_reset_idle : step State.reset = .next (tick State.reset) := rfl

theorem test_front_command_is_taken :
    step { State.reset with pending := [.tapReset, .tapReset] } = .next { State.reset with pending := [.tapReset] } := rfl

/-! ## Core instructions: control and vector -/

/-- An instruction starts on a core that issues and has none under way. -/
theorem test_starts (i : Instr) (c : CoreId) (op : Nat) (f : Fields) (s : State) (h : coreInstr i = some (c, op, f))
    (hi : Issues c s) (hq : (s.core c).queue = []) : Starts i s := by
  simp [Starts, Issued, h, hi, hq, Core.blocker, Core.inUnit]

theorem test_running_core_issues : Issues 0 (coreState runningCore) := by unfold Issues; decide +kernel

theorem test_scalar_operands : Issues 0 (coreState runningCore)
    ∧ legalBI (fields 6 4 5 0 0 0) = true ∧ legalBI (fields 6 4 0 0 1 0x80000000) = true ∧ legalBI (fields 0 31 31 0 0 0) = true
    ∧ Form.ok ⟨5, 0, 0, 1, 2, 32⟩ (fields 6 0 0 0 2 5) = true ∧ Form.ok ⟨5, 4, 0, 1, 0, 6⟩ (fields 6 15 0 0 0 63) = true
    ∧ (Form.ok ⟨5, 0, 0, 1, 0, 32⟩ (fields 6 0 0 0 0 0) = true ∧ (sysValue (coreState runningCore) 0 0).isSome = true)
    ∧ Form.ok ⟨0, 0, 0, 1, 0, 0⟩ (fields 0 0 0 0 0 0) = true ∧ Form.ok ⟨0, 0, 0, 1, 15, 0⟩ (fields 0 0 0 0 15 0) = true
    ∧ runningCore.queue = [] := by
  unfold Issues; decide +kernel

/-- A vector addition that waits in its queue since instruction 9: v3 := v1 + v2. -/
def queuedAdd : Queued := ⟨9, Op.vadd, fields 3 1 2 0 0 0, 0, .inEmpty, 0x10⟩

/-- A core with it under way. -/
def busyCore : Core := { runningCore with queue := [queuedAdd], issueSeq := 1 }

theorem test_issue_operands : let s := coreState busyCore
    let x := s.core 0
    Issued (.vmul 0 (fields 4 1 2 0 0 0)) s ∧ Issued (.add 0 (fields 6 4 5 0 0 0)) s
    ∧ (Issues 0 s ∧ x.queue.find? (fun e => e.op = Op.vmul && e.f = fields 4 3 2 0 0 0) = none
      ∧ x.blocker Op.vmul (fields 4 3 2 0 0 0) = some queuedAdd ∧ opUnit Op.vmul = some .vector ∧ x.inUnit .vector ≠ [])
    ∧ (x.queue.find? (fun e => e.op = Op.vadd && e.f = queuedAdd.f) = some queuedAdd ∧ x.goesOn = true
      ∧ (x.inUnit .vector).head?.map (·.seq) = some queuedAdd.seq)
    ∧ { busyCore with haltWanted := true }.goesOn = false
    ∧ (Form.ok ⟨0, 0, 0, 1, 15, 0⟩ (fields 0 0 0 0 15 0) = true
      ∧ ∃ u, bit (fields 0 0 0 0 15 0).mod u.maskBit = true ∧ x.inUnit u ≠ [])
    ∧ (∀ e ∈ x.queue, writesBench e.op e.f = false)
    ∧ (∃ e ∈ [(⟨9, Op.stv, fields 2 1 0 0 0 0, 0, .busy, 0⟩ : Queued)], writesBench e.op e.f = true)
    ∧ opAssigned (Word.op (codeWord s 0)) = true
    ∧ opAssigned (Word.op (codeWord { s with mem := [(benchAddr 0 3 + 87, 0xFF)] } 0)) = false := by
  have h : Issues 0 (coreState busyCore) := by unfold Issues; decide +kernel
  refine ⟨⟨h, by decide +kernel⟩, ⟨h, by decide +kernel⟩, ⟨h, by decide +kernel⟩, by decide +kernel, by decide +kernel,
    ⟨by decide +kernel, .vector, by decide +kernel⟩, by decide +kernel⟩

theorem test_branch_operands : let x := (coreState runningCore).core 0
    Issues 0 (coreState runningCore) ∧ x.targetOk (x.pc.toNat + (fields 0 0 0 0 0 0xFFFFFFF6).imm.toInt) = true
    ∧ Form.ok ⟨0, 0, 0, 1, 0, 32⟩ (fields 0 0 0 0 0 0xFFFFFFF6) = true
    ∧ (Form.ok ⟨0, 5, 5, 1, 0, 32⟩ (fields 0 4 5 0 0 3) = true ∧ x.rd 4 = x.rd 5 ∧ (x.rd 2).toInt < (x.rd 4).toInt
      ∧ x.targetOk (x.pc.toNat + (fields 0 4 5 0 0 3).imm.toInt) = true)
    ∧ (Form.ok ⟨0, 5, 0, 1, 0, 32⟩ (fields 0 2 0 0 0 3) = true ∧ x.rd 2 ≠ 1)
    ∧ Form.ok ⟨5, 0, 0, 1, 0, 32⟩ (fields 31 0 0 0 0 3) = true
    ∧ (Form.ok ⟨0, 5, 0, 1, 0, 0⟩ (fields 0 3 0 0 0 0) = true ∧ x.targetOk (x.rd 3).toNat = true) := by
  unfold Issues; decide +kernel

theorem test_vector_operands : Issues 0 (coreState runningCore) ∧ Form.ok ⟨4, 4, 4, 1, 0, 0⟩ (fields 15 1 2 0 0 0) = true
    ∧ Form.ok ⟨4, 4, 4, 4, 0, 0⟩ (fields 3 3 3 3 0 0) = true ∧ Form.ok ⟨4, 4, 0, 1, 0, 0⟩ (fields 15 15 0 0 0 0) = true
    ∧ Form.ok ⟨4, 5, 0, 1, 0, 0⟩ (fields 15 31 0 0 0 0) = true := by unfold Issues; decide +kernel

theorem test_reduction_operands : let s := coreState { runningCore with regions := [(1, some ⟨4, 2, 0⟩)] }
    Issues 0 s ∧ (Form.ok ⟨4, 4, 0, 1, 0, 0⟩ (fields 14 1 0 0 0 0) = true ∧ vpairOk (fields 14 1 0 0 0 0).d = true)
    ∧ vpairOk (fields 1 14 0 0 0 0).a = true
    ∧ (Form.ok ⟨4, 3, 0, 1, 0, 8⟩ (fields 2 1 0 0 0 1) = true ∧ (s.core 0).region 1 = some ⟨4, 2, 0⟩) := by
  unfold Issues; decide +kernel

theorem test_exception_operands : (runningCore.ready = true ∧ legalBI (fields 1 1 1 1 0 0) = false
      ∧ Form.nil.ok (fields 1 0 0 0 0 0) = false ∧ Form.ok ⟨0, 0, 0, 1, 0, 8⟩ (fields 0 0 0 0 0 256) = false)
    ∧ (let x := { runningCore with pc := 63872 }
      x.ready = true ∧ x.bound.toNat < x.base.toNat + x.pc.toNat / 64)
    ∧ (Core.reset.ready = false ∧ coreOfInstr (.nop 0 (fields 0 0 0 0 0 0)) = some 0) := by decide +kernel

/-! ## Core instructions: stream and bench -/

/-- Queue record: producer and port, consumer and port, slack rows and first slack row. -/
def wireRecord (prod pp cons cp len base : Nat) : BitVec 128 :=
  BitVec.ofNat 128 (prod <<< 116 ||| pp <<< 114 ||| cons <<< 102 ||| cp <<< 100 ||| len <<< 88 ||| base <<< 73)

/-- A queue from core 7 to port 1 of core 0, with three credits. -/
def inQueue : Queue :=
  { record := wireRecord 7 0 0 1 6 2000
    span := false
    epoch := 3
    credits := 3
    returning := 2
    markCredit := false
    network := [.row 99 true]
    sent := [⟨0, 0⟩]
    staging := [.row 5 false, .row 6 true, .marker .emptyOutput]
    slackCount := 0
    slackHead := 0
    marker := none
    padRow := 0
    rows := 17
    marks := 65535
    prodFull := 1
    consEmpty := 2
    spilled := 0
    high := 0
    left := 0
    discarded := 0
    ord := 0 }

/-- A queue from port 4 of core 0 to core 7. -/
def outQueue : Queue := { inQueue with record := wireRecord 0 0 7 1 6 2000, staging := [], credits := 5 }

/-- Core 0 with port 1 bound to queue 0x10 and port 4 to queue 0x11. -/
def portState (x : Core) (a b : Queue) : State :=
  { coreState { x with ports := [(1, 0x10), (4, 0x11)] } with
    runs := [(5, { CoupeRun.reset with queues := [(0x10, some a), (0x11, some b)], lastProgress := 7 })] }

theorem test_ports_are_bound : let s := portState runningCore inQueue outQueue
    Issues 0 s ∧ portQueue s 0 1 = some ⟨5, 0x10, inQueue⟩ ∧ portQueue s 0 4 = some ⟨5, 0x11, outQueue⟩
    ∧ isSpanHandle 0x11 = false ∧ (s.core 0).outStage.get [] 4 = [] ∧ outQueue.credits ≠ 0 := by unfold Issues; decide +kernel

theorem test_port_item_operands :
    (Form.ok ⟨4, 0, 0, 4, 0, 0⟩ (fields 14 0 0 1 0 0) = true ∧ vpairOk (fields 14 0 0 1 0 0).d = true
      ∧ inQueue.staging = .row 5 false :: inQueue.staging.tail)
    ∧ Form.ok ⟨5, 0, 0, 4, 0, 0⟩ (fields 9 0 0 1 0 0) = true
    ∧ (Form.ok ⟨0, 0, 0, 4, 0, 0⟩ (fields 0 0 0 1 0 0) = true ∧ (let q := { inQueue with staging := [.marker .endOfStream] }
      portQueue (portState runningCore q outQueue) 0 1 = some ⟨5, 0x10, q⟩))
    ∧ (Form.ok ⟨4, 0, 0, 4, 0, 0⟩ (fields 14 0 0 0 0 0) = true ∧ Form.ok ⟨0, 0, 0, 4, 6, 0⟩ (fields 0 0 0 0 2 0) = true
      ∧ bits (fields 0 0 0 0 0 0).mod 2 1 = 0 ∧ bits (fields 0 0 0 0 2 0).mod 2 1 = 1) := by decide +kernel

theorem test_full_port : let x := { runningCore with outStage := [(4, [.row 1 false, .row 2 false, .row 3 false, .row 4 false])] }
    let q := { outQueue with credits := 0 }
    let s := portState x inQueue q
    Issues 0 s ∧ portQueue s 0 4 = some ⟨5, 0x11, q⟩ ∧ pushItem 0 4 ⟨5, 0x11, q⟩ (.row 0 false) s = none
    ∧ pushItem 0 4 ⟨5, 0x11, q⟩ (.marker .endOfStream) s = none ∧ ((s.core 0).outStage.get [] 4).length = 4
    ∧ (s.core 0).queue = [] ∧ pauseAt (some 1) 2 ≠ 0 := by unfold Issues; decide +kernel

theorem test_port_row_operands : let s := portState runningCore inQueue outQueue
    Form.ok ⟨0, 5, 5, 4, 0, 0⟩ (fields 0 1 2 1 0 0) = true ∧ ((s.core 0).rd 2).toNat = 2
    ∧ (s.core 0).rowsIn ((s.core 0).rd 1).toNat 2 = true
    ∧ inQueue.staging = ([((5 : Row), false), (6, true)]).map (fun r => .row r.1 r.2) ++ [.marker .emptyOutput]
    ∧ 2 ≤ outQueue.credits ∧ pauseAt none 2 = 2 ∧ pauseAt (some 1) 2 = 1 ∧ pauseAt (some 0) 2 = 0 ∧ 2 < pauseAt none 3 := by
  decide +kernel

theorem test_bench_operands : let x := (coreState runningCore).core 0
    Issues 0 (coreState runningCore) ∧ x.rowsIn (x.rd 1).toNat 1 = true
    ∧ Form.ok ⟨5, 5, 0, 1, 0, 6⟩ (fields 6 1 0 0 0 63) = true
    ∧ (Form.ok ⟨4, 5, 0, 3, 0, 8⟩ (fields 15 1 0 0 0 1) = true ∧ Form.ok ⟨4, 5, 0, 3, 0, 8⟩ (fields 15 1 0 2 0 3) = true)
    ∧ (Form.ok ⟨4, 5, 0, 1, 0, 0⟩ (fields 14 1 0 0 0 0) = true ∧ vpairOk (fields 14 1 0 0 0 0).d = true)
    ∧ (Form.ok ⟨5, 5, 5, 1, 0, 0⟩ (fields 3 1 2 0 0 0) = true ∧ x.rowsIn (x.rd 3).toNat (x.rd 2).toNat = true
      ∧ x.rowsIn (x.rd 1).toNat (x.rd 2).toNat = true) := by unfold Issues; decide +kernel

/-- A remote address: core, row or window and offset (R78). -/
def remoteAddress (core low : Nat) : BitVec 64 := BitVec.ofNat 64 (core <<< 15 ||| low)

theorem test_remote_operands :
    let s := coreState { runningCore with
      g := [(1, remoteAddress 17 20), (2, 3), (3, 50), (4, remoteAddress 17 (2 <<< 11 ||| 5)), (6, 0x0028000600000000), (7, 0)] }
    let x := s.core 0
    Issues 0 s ∧ (Form.ok ⟨5, 5, 5, 1, 0, 0⟩ (fields 3 1 2 0 0 0) = true ∧ remoteOk (x.rd 1) = true
      ∧ x.rowsIn (x.rd 3).toNat (x.rd 2).toNat = true ∧ (x.rd 2).toNat ≠ 0 ∧ (x.rd 0).toNat = 0)
    ∧ (remoteOk (x.rd 4) = true)
    ∧ (Form.ok ⟨0, 5, 0, 1, 0, 4⟩ (fields 0 6 0 0 0 15) = true ∧ pairOk (fields 0 6 0 0 0 15).a = true
      ∧ Win.ok (windowOf x 6) = true)
    ∧ Form.ok ⟨0, 0, 0, 1, 0, 4⟩ (fields 0 0 0 0 0 15) = true := by unfold Issues; decide +kernel

/-! ## Core instructions: matrix, quantise, sync -/

/-- A core with the operands of a pass of INT8 weights and INT8 activations: two slices, two rows, region 1. -/
def passCore : Core :=
  { runningCore with
    g := [(2, PlaneRows.toBits ⟨20, 100, 120, 140⟩), (3, BitVec.ofNat 64 (0x10 <<< 56 ||| 2 <<< 21)), (5, 300)]
    regions := [(1, some ⟨4, 2, 0⟩)] }

theorem test_region_operands : let s := coreState runningCore
    Form.ok ⟨3, 0, 0, 1, 2, 16⟩ (fields 7 0 0 0 0 0x0402) = true ∧ regionFits 0 (s.core 0) 7 ⟨4, 2, 0⟩ = true
    ∧ (Form.ok ⟨3, 5, 0, 1, 2, 16⟩ (fields 7 1 0 0 2 0x0402) = true ∧ bit (fields 7 1 0 0 2 0x0402).mod 1 = true
      ∧ (s.core 0).rowsIn ((s.core 0).rd 1).toNat (ceilDiv (2 * engineCols 0) 128) = true) := by decide +kernel

theorem test_pass_operands : PassLegal (coreState passCore) 0 (fields 1 2 5 4 0 (0x10 <<< 24 ||| 2 <<< 16 ||| 2)) ⟨4, 2, 0⟩
    ∧ PassLegal (coreState passCore) 0 (fields 1 2 5 5 0 (0x10 <<< 24 ||| 2 <<< 16 ||| 2)) ⟨4, 2, 0⟩ := by
  unfold PassLegal; decide +kernel

theorem test_pass_from_a_port : let f := fields 1 2 5 1 0 (0x10 <<< 24 ||| 2 <<< 16 ||| 2)
    let s := portState passCore inQueue outQueue
    PassLegal s 0 f ⟨4, 2, 0⟩ ∧ portQueue s 0 1 = some ⟨5, 0x10, inQueue⟩ ∧ PassFresh (s.core 0) ∧ (s.core 0).queue = []
    ∧ { inQueue with staging := [] }.staging = []
    ∧ (takeRows ⟨5, 0x10, inQueue⟩ inQueue.staging (passNeeds f)).1.length = passNeeds f := by
  unfold PassLegal PassFresh; decide +kernel

/-- INT8 codes, saturating. -/
def int8Control : BitVec 64 := BitVec.ofNat 64 (0x7F800000 <<< 32 ||| 0x83 <<< 24 ||| 0x10 <<< 8)

/-- A core that converts: 100 values of region 1 or of vectors, to planes at row 70 on. -/
def convertCore : Core :=
  { runningCore with
    g := [(1, int8Control), (2, 60), (4, PlaneRows.toBits ⟨70, 71, 72, 0⟩), (6, 100)]
    qcw := int8Control
    regions := [(1, some ⟨4, 10, 2⟩)] }

theorem test_quantiser_control_operands : let s := coreState convertCore
    Issues 0 s ∧ (Form.ok ⟨0, 5, 0, 1, 0, 0⟩ (fields 0 1 0 0 0 0) = true ∧ qcwOk ((s.core 0).rd 1) = true
      ∧ (writeOut 0 s).1 = true ∧ (emit 0 true 0 s).1 = true)
    ∧ (Form.ok ⟨0, 5, 0, 1, 0, 4⟩ (fields 0 2 0 0 0 15) = true ∧ (s.core 0).rowsIn ((s.core 0).rd 2).toNat 1 = true) := by
  unfold Issues; decide +kernel

theorem test_codebook_operand :
    let s := { coreState convertCore with mem := [(benchAddr 0 63 + 16, 0x22), (benchAddr 0 63 + 17, 4),
      (benchAddr 0 63 + 496, 0x22), (benchAddr 0 63 + 497, 4)] }
    codebookOk (codebookAt (taskRow s 0 60) 0) = true ∧ codebookOk (codebookAt (taskRow s 0 60) 15) = true := by decide +kernel

theorem test_convert_operands : let s := coreState convertCore
    let x := s.core 0
    Issues 0 s ∧ x.qout = none ∧ (x.rd 6).toNat = 100 ∧ 100 < Fmt.perRow (qcwOutFmt x.qcw)
    ∧ (Form.ok ⟨3, 5, 5, 6, 2, 0⟩ (fields 1 4 6 4 0 0) = true ∧ pairOk (fields 1 4 6 4 0 0).a = true
      ∧ planeOk (x.rd 4) = true ∧ x.region 1 = some ⟨4, 10, 2⟩ ∧ ceilDiv (x.qdone + 100) (engineCols 0) ≤ 10
      ∧ qcvtBound x (fields 1 4 6 4 0 0) 100 = true)
    ∧ (Form.ok ⟨4, 5, 5, 6, 2, 0⟩ (fields 14 4 6 5 0 0) = true ∧ 14 + ceilDiv (x.qdone + 100) 64 ≤ 16
      ∧ qcvtBound x (fields 14 4 6 5 0 0) 100 = true)
    ∧ Fmt.isKB (qcwOutFmt x.qcw) = false := by unfold Issues; decide +kernel

/-- A configuration of a coupe of two stands, with a barrier in the coupe and one in the deck. -/
def wireConfig : Config :=
  { image := 0
    config := 0
    shard := 0
    model := 0
    adapter := 0
    seed := 0
    prows := 8
    players := 2
    vocab := 1000
    stands := [0, 1]
    dims := 0
    stages := 1
    templates := []
    buckets := []
    queues := []
    padding := []
    barriers := [0, BitVec.ofNat 64 (2 ^ 63 + 3 <<< 37)]
    feeds := []
    walks := []
    floor := 0
    tops := []
    code := []
    tiles := []
    prefetch := 0
    layers := []
    streams := []
    chains := []
    experts := false
    expertStage := 0
    gates := [] }

/-- An open step of one coupe, of the STEP at position 3 of ring 9. -/
def wireStep : Step :=
  { ring := 9
    pos := 3
    w := BitVec.ofNat 512 (0x28 <<< 56 ||| 5 <<< 505 ||| 0x400000000 <<< 352 ||| 7 <<< 336)
    stamp := 3
    reqs := []
    number := 5
    attempt := 1
    bucket := none
    toDispatch := []
    running := []
    status := none
    detail := 0
    dkind := 0
    boundary := false
    needReplay := false
    replayable := true
    agreed := false
    outcomes := []
    outcomeSent := false
    routes := []
    expertRuns := []
    routing := []
    routed := []
    built := 0
    flagged := none
    reports := []
    totals := Totals.zero
    events := []
    memArrivalsStopped := false
    poppedForeign := false
    loads := []
    layerTasks := [] }

/-- Coupe 5 with a configuration in job 0. -/
def configuredCoupe : Coupe := { boundCoupe with bindings := [(0, some wireConfig)], floor := 100 }

/-- Core 0 of coupe 5 with a configuration, an open step and four arrivals at barrier 0. -/
def stepState (x : Core) : State :=
  { coreState x with
    dur := { Durable.reset with coupes := [(5, configuredCoupe)] }
    runs := [(5, { CoupeRun.reset with openStep := some wireStep, barriers := [(0, 4)] })] }

theorem test_end_and_fence_operands : Form.ok ⟨0, 0, 0, 1, 0, 0⟩ (fields 0 0 0 0 0 0) = true
    ∧ (runningCore.writesSettled = true ∧ runningCore.refused = none)
    ∧ (let x := { runningCore with refused := some 3 }
      Issues 0 (coreState x) ∧ x.writesSettled = true)
    ∧ (let x := { runningCore with writesOut := 2 }
      Issues 0 (coreState x) ∧ x.writesSettled = false) := by unfold Issues; decide +kernel

theorem test_barrier_operands : let s := stepState { runningCore with g := [(1, 4), (2, 5)] }
    Issues 0 s ∧ (∃ w, barrierOf s 0 0 = some (5, w) ∧ barrierOpen s 5 0 w ((s.core 0).rd 1).toNat = true
      ∧ barrierOpen s 5 0 w ((s.core 0).rd 2).toNat = false)
    ∧ (∃ w, barrierOf s 0 1 = some (5, w) ∧ Barrier.memory w = true)
    ∧ Form.ok ⟨0, 0, 0, 1, 0, 32⟩ (fields 0 0 0 0 0 1) = true ∧ Form.ok ⟨0, 5, 0, 1, 0, 32⟩ (fields 0 1 0 0 0 1) = true :=
  ⟨by unfold Issues; decide +kernel, ⟨0, by decide +kernel⟩, ⟨BitVec.ofNat 64 (2 ^ 63 + 3 <<< 37), by decide +kernel⟩,
    by decide +kernel⟩

theorem test_trap_operands : Issues 0 (coreState runningCore) ∧ Form.ok ⟨0, 0, 0, 1, 0, 8⟩ (fields 0 0 0 0 0 255) = true := by
  unfold Issues; decide +kernel

/-- Core 256, a courser, with a tree of three nodes in row 20: 0, then 1 below 0, then 2 below 1; g3 counts 40 entries. -/
def courserState : State :=
  { State.reset.setCore 256 { runningCore with base := 0, g := [(1, 20), (2, 30), (3, 40)] } with
    mem := [(benchAddr 256 20 + 7, 0xFF), (benchAddr 256 20 + 23, 1)]
    dur := { Durable.reset with coupes := [(5, { boundCoupe with stands := 256 })] }
    runs := [(5, CoupeRun.reset)] }

theorem test_tree_operands : let s := courserState
    let x := s.core 256
    let entry (i : Nat) : BitVec 64 := Row.word64 (taskRow s 256 20) i
    let parent (i : Nat) : Nat := bits (entry i) 63 56
    let anc (i : Nat) : Nat := [1, 3, 7].getD i 0
    Issues 256 s ∧ coreCourser 256 = true ∧ Form.ok ⟨5, 5, 0, 1, 0, 7⟩ (fields 2 1 0 0 0 3) = true
    ∧ x.rowsIn (x.rd 2).toNat 2 = true ∧ x.rowsIn (x.rd 1).toNat 1 = true ∧ (x.rd 1).toNat = 20 ∧ anc 0 = 1 ∧ parent 0 = 0xFF
    ∧ (∀ i, i < 3 → 1 ≤ i → anc i = anc (parent i) ||| 1 <<< i ∧ i = parent i + 1 ∧ parent i < i)
    ∧ (∀ i, i < 3 → i ≤ 15 ∧ bits (entry i) 55 32 = 0) := by unfold Issues; decide +kernel

/-- R247's recurrence on that tree: node 2's mask holds nodes 0, 1 and 2; its depth is 2 and its parent 1. -/
theorem test_tmask_of_a_chain : answers (exec (.tmask 256 (fields 2 1 0 0 0 3)) courserState) (fun t =>
    Row.word64 (taskRow t 256 30) 2 = 7 ∧ Row.word64 (taskRow t 256 31) 2 = 0x102 ∧ Row.word64 (taskRow t 256 30) 3 = 0) := by decide +kernel

theorem test_topk_operands : let x := courserState.core 256
    let b := x.rd 3
    Form.ok ⟨5, 5, 5, 2, 0, 9⟩ (fields 2 1 3 0 0 256) = true ∧ bits b 19 0 = 40 ∧ bits b 31 20 = 0 ∧ bits b 63 52 = 0
    ∧ x.rowsIn (x.rd 2).toNat (ceilDiv (8 * 256) 512 + 1) = true ∧ x.rowsIn (x.rd 1).toNat (ceilDiv 40 128) = true
    ∧ Form.ok ⟨5, 5, 5, 2, 0, 9⟩ (fields 2 1 3 1 0 1) = true ∧ x.rowsIn (x.rd 1).toNat (ceilDiv 40 64) = true := by
  decide +kernel

/-! ## Tasks, the bench, the remote path and the stream network -/

/-- A task record that suits core 0: BASE 4, BOUND 900, first instruction 130 and ports 0x10 and 0x11. -/
def taskRecord : BitVec 512 :=
  BitVec.ofNat 512 (0xABCDEF <<< 448 ||| 0x77 <<< 416 ||| 5 <<< 384 ||| 9 <<< 352 ||| 4 <<< 337 ||| 900 <<< 322
    ||| 130 <<< 301 ||| 0x10 <<< 285 ||| 0x11 <<< 221 ||| 12345 <<< 109 ||| 678 <<< 45)

theorem test_dispatch_operands : let s := portState { runningCore with task := none, phase := .idle } inQueue outQueue
    clocksRun s = true ∧ (s.core 0).task = none ∧ (s.core 0).haltWanted = false ∧ (s.core 0).halted = false
    ∧ (s.slot 0).moving = false ∧ (s.core 0).next = none ∧ coreHalting s 0 = false ∧ recordOk 0 taskRecord = true
    ∧ Task.incarn taskRecord = (s.slot 0).incarn ∧ recordOk 0 (taskRecord ||| 0x100) = false
    ∧ nextRecord s 0 taskRecord = true
    ∧ (let st := { wireStep with toDispatch := [(1, 7), (0, 8), (0, taskRecord)] };
      nextRecord { s with runs := [(5, { CoupeRun.reset with openStep := some st })] } 0 taskRecord = false)
    ∧ Task.incarn taskRecord ≠ (s.setSlot 0 { s.slot 0 with incarn := 9 } |>.slot 0).incarn
    ∧ (coreState runningCore).core 0 ≠ Core.reset ∧ runningCore.task ≠ none ∧ runningCore.next = none := by decide +kernel

/-- R55 to R57: a dispatched task starts at its record's instruction with its record's row bounds. -/
theorem test_dispatch_starts_the_task :
    answers (exec (.taskDispatch 0 taskRecord) (portState { runningCore with task := none, phase := .idle } inQueue outQueue))
      (fun t => (t.core 0).pc = 130 ∧ (t.core 0).base = 4 ∧ (t.core 0).bound = 900 ∧ (t.core 0).phase = .run) := by
  decide +kernel

theorem test_retire_operands :
    (let x := { runningCore with phase := .drain };
      x.task = some 0 ∧ x.drained = true ∧ x.qout = none ∧ x.next = none ∧ x.queue = [])
    ∧ busyCore.queue ≠ []
    ∧ (let s := portState { runningCore with phase := .drain, outStage := [(4, [.row 1 false])] } inQueue outQueue;
      (s.core 0).queue = [] ∧ (s.core 0).phase = .drain ∧ ((writeOut 0 s).2.core 0).drained = false)
    ∧ (let x := { runningCore with phase := .retire, next := some taskRecord }
      x.task = some 0 ∧ x.haltWanted = false)
    ∧ (coupeOf (coreState runningCore) 0 = some 5 ∧ ((coreState runningCore).run 5).openStep = none) := by decide +kernel

theorem test_halt_operands : runningCore.halted = false ∧ (let x := { runningCore with haltWanted := true }
      x.haltWanted = true ∧ x.halted = false ∧ x.phase = .run)
    ∧ { runningCore with haltWanted := true, phase := .drain }.phase = .drain := by decide +kernel

/-- An accepted descriptor. -/
def entryAt (pos : Nat) (w : BitVec 512) : Entry := ⟨BitVec.ofNat 32 pos, w, 7, .waiting, none, false, 50, false⟩

/-- A ring-table entry: kind, log2 of the size, function, completion queue, coupe, job, immediate cancellation, notice. -/
def ringEntryOf (kind log2n func cq coupe job imm notify : Nat) : BitVec 512 :=
  BitVec.ofNat 512 (kind <<< 294 ||| log2n <<< 289 ||| func <<< 286 ||| cq <<< 271 ||| coupe <<< 264 ||| job <<< 261
    ||| imm <<< 257 ||| notify <<< 256 ||| 1 <<< 255)

/-- Ring 9 submits to completion queue 10 and holds the accepted descriptors of `l` from position 3 on. -/
def onRing (l : List Entry) (s : State) : State :=
  (s.setRing 9 { Ring.reset with
    entry := ringEntryOf 1 6 0 10 5 0 1 0
    state := .enabled
    accepted := l
    back := 3
    front := 5
    count := 5 }).setRing 10 { Ring.reset with entry := ringEntryOf 2 6 0 0 0 0 0 1, state := .enabled }

/-- The descriptor at position 3 of ring 9. -/
def descriptor (w : Nat) : Desc := ⟨9, 3, BitVec.ofNat 512 w⟩

/-- `s` with that descriptor accepted and waiting. -/
def awaiting (w : Nat) (s : State) : State := onRing [entryAt 3 (BitVec.ofNat 512 w)] s

theorem test_reset_descriptors :
    (let w := 0x0D <<< 56;
      canStart (awaiting w (coreState runningCore)) (descriptor w) = true ∧ Hdr.opcode (descriptor w).w = 0x0D
        ∧ bits (descriptor w).w 511 510 = 0 ∧ bits (descriptor w).w 509 498 = 0)
    ∧ (let w := 0x0D <<< 56 ||| 1 <<< 510 ||| 5 <<< 491
      canStart (awaiting w (coreState runningCore)) (descriptor w) = true ∧ bits (descriptor w).w 511 510 = 1
        ∧ bits (descriptor w).w 497 491 = 5) := by decide +kernel

theorem test_starvation_and_scrub : let s := coreState runningCore
    (runningCore.lastWide.get none (77 % 32) = none
      ∧ { runningCore with lastWide := [(13, some (9, 0))] }.lastWide.get none (77 % 32) = some (9, 0)
      ∧ busyCore.firstIssued = (10, 1))
    ∧ (s.core 0).task.isSome = true ∧ (s.core 0).phase = .run ∧ (s.core 0).halted = false
    ∧ (s.stand (coreStand 0)).asleep = false ∧ (s.rowErrors.get RowError.none (benchAddr 0 0)).ue = none
    ∧ (let u := s.setStack 7 { s.stack 7 with state := .on, patrol := stackSize / 64 - 1 }
      (u.stack 7).state = .on ∧ (u.stack 7).patrol < stackSize / 64
        ∧ leaseSource u (stackBase 7 + 64 * (u.stack 7).patrol) = none) := by decide +kernel

/-- R116: the scrubber goes from row 30,719 on to row 0. -/
theorem test_scrub_wraps : answers (exec (.scrubRow 0) (coreState { runningCore with scrub := 30719 }))
    (fun t => (t.core 0).scrub = 0) := by decide +kernel

theorem test_dead_core_operands : let s := coreState runningCore
    let gone (l : List (BitVec 6)) := s.setStand 0 { s.stand 0 with retired := l }
    spares (gone [physOf s 0]) 0 ≠ []
    ∧ spares (gone [32, 33, physOf s 0]) 0 = [] := by decide +kernel

/-- A read request of core 0 to core 40 of the next stand, the 4th packet of its lane; a window row that core 0 sent before it. -/
def farRead : ReadReq := ⟨0, 0, 40, 30719, ⟨4, 30⟩⟩

def farRow : WindowRow := ⟨0, 0, 40, 2, 49, 0, 55, true, ⟨3, 30⟩⟩

theorem test_remote_reads : let reading (target : CoreId) (row : BitVec 15) : State :=
      { coreState runningCore with readReqs := [⟨0, 0, target, row, ⟨4, 30⟩⟩] }
    (takeFirst (fun q => q.target = 17) (reading 17 30719).readReqs = some (⟨0, 0, 17, 30719, ⟨4, 30⟩⟩, [])
      ∧ ((reading 17 30719).slot 0).incarn = 0 ∧ coupeOf (reading 17 30719) 0 = some 5
      ∧ coupeOf (reading 17 30719) 17 = some 5 ∧ ((reading 17 30719).stand (coreStand 17)).isolated = false
      ∧ ((reading 17 30719).slot 17).state ≠ .failed)
    ∧ (coupeOf (reading 300 4) 300 ≠ some 5 ∧ ((reading 300 4).run 5).isolation.contains 1 = false)
    ∧ (30719 < (30720 : BitVec 15).toNat) ∧ requestFirst (reading 40 30719) farRead = true
    ∧ requestFirst { reading 40 30719 with windowRows := [farRow] } farRead = false := by decide +kernel

theorem test_remote_read_in_the_slot_that_failed :
    let s := { coreState runningCore with readReqs := [⟨0, 0, 17, 4, ⟨4, 30⟩⟩], slots := [(17, { (coreState runningCore).slot 17 with state := .failed })] }
    (s.slot 17).state = .failed ∧ takeFirst (fun q => q.target = 17) s.readReqs = some (⟨0, 0, 17, 4, ⟨4, 30⟩⟩, [])
    ∧ (s.slot 0).incarn = 0 ∧ coupeOf s 17 = some 5 := by decide +kernel

theorem test_remote_replies :
    let s := { coreState { runningCore with reads := [⟨17, 4, 60, 1, 2, 3⟩] } with readReplies := [⟨3, 8, false, 17, ⟨4, 30⟩⟩, ⟨0, 77, true, 17, ⟨4, 30⟩⟩] }
    takeFirst (fun q => q.reader = 0) s.readReplies = some (⟨0, 77, true, 17, ⟨4, 30⟩⟩, [⟨3, 8, false, 17, ⟨4, 30⟩⟩])
    ∧ (s.core 0).reads = [⟨17, 4, 60, 1, 2, 3⟩] ∧ replyFirst s ⟨0, 77, true, 17, ⟨4, 30⟩⟩ = true
    ∧ replyFirst { s with acks := [⟨0, 3, 40, ⟨2, 30⟩⟩] } ⟨0, 77, true, 40, ⟨4, 30⟩⟩ = false := by decide +kernel

/-- A window record: first row, rows, and stands of the coupe that may write. -/
def windowRecord (base len : Nat) : BitVec 128 := BitVec.ofNat 128 (base <<< 113 ||| len <<< 98 ||| 1 <<< 81)

theorem test_window_rows :
    let s := { (coreState runningCore).setCore 40 { Core.reset with windows := [(2, windowRecord 100 50)] } with
      windowRows := [farRow] }
    takeFirst (fun q => q.target = 40) s.windowRows = some (farRow, []) ∧ (s.slot 0).incarn = 0
    ∧ windowCheck s farRow = 0 ∧ windowCheck s { farRow with offset := 50 } ≠ 0 ∧ windowFirst s farRow = true
    ∧ windowFirst { s with readReqs := [{ farRead with sent := ⟨1, 30⟩ }] } farRow = false := by decide +kernel

theorem test_write_acknowledgements :
    let s := { coreState { runningCore with writesOut := 3 } with acks := [⟨1, 4, 17, ⟨4, 30⟩⟩, ⟨0, 3, 17, ⟨4, 30⟩⟩] }
    takeFirst (fun q => q.writer = 0) s.acks = some (⟨0, 3, 17, ⟨4, 30⟩⟩, [⟨1, 4, 17, ⟨4, 30⟩⟩]) ∧ (s.core 0).refused = none
    ∧ ackFirst { s with readReplies := [⟨0, 8, false, 40, ⟨3, 30⟩⟩] } ⟨0, 3, 40, ⟨4, 30⟩⟩ = false
    ∧ ackFirst s ⟨0, 3, 17, ⟨4, 30⟩⟩ = true
    ∧ takeFirst (fun q => q.writer = 0) [(⟨1, 4, 17, ⟨4, 30⟩⟩ : WriteAck), ⟨0, 0, 17, ⟨5, 30⟩⟩]
      = some (⟨0, 0, 17, ⟨5, 30⟩⟩, [⟨1, 4, 17, ⟨4, 30⟩⟩]) := by decide +kernel

theorem test_stream_operands : let s := portState runningCore inQueue outQueue
    let full := { inQueue with staging := [.row 1 false, .row 2 false, .row 3 false, .row 4 false] }
    let late := { inQueue with staging := [.row 1 false], slackCount := 5, slackHead := 3 }
    laneFirst s 5 inQueue = true ∧ coupeHalting s 5 = false ∧ s.transfers = []
    ∧ (let a := { inQueue with record := wireRecord 40 0 0 1 6 2000, sent := [⟨9, 0⟩] };
      laneFirst (portState runningCore a { a with sent := [⟨3, 0⟩] }) 5 a = false)
    ∧ s.queue 5 0x10 = some inQueue ∧ padOf s 5 inQueue = none ∧ inQueue.network = [.row 99 true] ∧ inQueue.marker = none
    ∧ inQueue.slackCount = 0 ∧ inQueue.staging.length = 3
    ∧ (4 ≤ full.staging.length ∧ full.slackCount < QRec.slackLen full.record ∧ padOf s 5 full = none)
    ∧ (0 < late.slackCount ∧ late.slackCount < QRec.slackLen late.record ∧ late.staging.length < 4 ∧ padOf s 5 late = none)
    ∧ (inQueue.returning ≠ 0 ∧ isReduction 0x10 = false ∧ inQueue.span = false
      ∧ (s.run 5).feedPlans.find? (fun p => p.handle = (0x10 : BitVec 16)) = none
      ∧ (s.core (QRec.prod inQueue.record)).port (4 + QRec.prodPort inQueue.record) ≠ 0x10) := by decide +kernel

/-- A chain of one walk from row 9 of the image to row 40 of cores 1 and 17, with barrier 3. -/
def wireChain : Chain := ⟨0, 9, 40, [1, 17], 3⟩

theorem test_skids_and_arrivals : let s := { coreState runningCore with
      dur := { Durable.reset with coupes := [(5, { configuredCoupe with bindings := [(0, some { wireConfig with chains := [wireChain] })] })] }
      skids := [⟨5, 0, 0, 6, true, 87, false⟩, ⟨5, 0, 1, 5, false, 88, true⟩]
      arrivals := [.coupe 5 8, .memory (BitVec.ofNat 48 (deckBase + 4092)) 0] }
    skidFor s 5 17 = some (⟨5, 0, 1, 5, false, 88, true⟩, wireChain) ∧ skidFor s 5 1 = some (⟨5, 0, 0, 6, true, 87, false⟩, wireChain)
    ∧ coupeOf s 17 = some 5 ∧ (s.slot 17).moving = false ∧ coupeHalting s 5 = false
    ∧ coupeHalting (s.setCoupe 5 { s.coupe 5 with state := .preempting }) 5 = true
    ∧ wordStands s (deckBase + 4092) = true ∧ s.granuleErrors.get .none ((deckBase + 4092) / 64 * 64) = .none
    ∧ (dropArrival (.coupe 5 8) s.arrivals).isSome = true
    ∧ (dropArrival (.memory (BitVec.ofNat 48 (deckBase + 4092)) 0) s.arrivals).isSome = true
    ∧ isDeck (deckBase + 4092) = true ∧ wordTag s (deckBase + 4092) = 0 ∧ wordCount s (deckBase + 4092) = 0 := by
  decide +kernel

/-! ## Movers, sequences and rings -/

/-- A transfer record: operation, spaces, addresses, rows and barrier scope, of coupe 5 and no sequence. -/
def moveRecord (op ss ds src dst rows bs : Nat) : BitVec 512 :=
  BitVec.ofNat 512 (op <<< 504 ||| ss <<< 502 ||| ds <<< 500 ||| src <<< 432 ||| dst <<< 368 ||| rows <<< 344
    ||| 0xFFFF <<< 328 ||| 5 <<< 301 ||| 0x3FFF <<< 287 ||| bs <<< 269 ||| 9 <<< 261
    ||| (if bs = 2 then deckBase + 4096 * 1200 else 0) <<< 197 ||| 0xF <<< 193 ||| (if op = 3 then 0xA1B2C3D4 else 0) <<< 161)

/-- Row `i` of a run of ten pages of the deck that belongs to tree 3 of coupe 5. -/
def deckRow (i : Nat) : Nat := deckBase + 4096 * 1000 + 512 * i

/-- A coupe with that run. -/
def moverState : State :=
  { coreState runningCore with
    dur := { Durable.reset with
      coupes := [(5, boundCoupe)]
      allocs := [⟨.deck, .tree 3, some 5, BitVec.ofNat 48 (deckRow 0), 10, none⟩] } }

/-- A free mover may run the record. -/
def transferOk (s : State) (w : BitVec 512) : Bool :=
  transferHeld s w = false && moverCause s w (transferPlan s w) = 0 && touchesFailed s w (transferPlan s w) = false
    && maskedSeq s w false = false && maskedSeq s w true = false && (loadOf s w).isNone && s.transfers.isEmpty && Mv.blen w = 0 && Mv.walk w = 0xFFFF

theorem test_transfers_that_run : transferOk moverState (moveRecord 3 0 0 0 (deckRow 0) 4 0) = true
    ∧ transferOk moverState (moveRecord 1 0 0 (benchAddr 0 100) (deckRow 0) 4 0) = true
    ∧ transferOk moverState (moveRecord 2 0 0 (deckRow 0) (deckRow 4) 2 0) = true
    ∧ transferOk moverState (moveRecord 3 0 1 0 0x1000 4 0) = true ∧ Mv.dspace (moveRecord 3 0 1 0 0x1000 4 0) = 1
    ∧ transferOk moverState (moveRecord 1 1 0 0x1000 (deckRow 0) 4 0) = true
    ∧ Mv.sspace (moveRecord 1 1 0 0x1000 (deckRow 0) 4 0) = 1 ∧ moverState.granuleErrors = [] := by decide +kernel

/-- A FILL writes its pattern to whole rows. -/
theorem test_fill_writes_its_pattern :
    answers (exec (.moverTransfer ⟨0, 1⟩ (moveRecord 3 0 0 0 (deckRow 0) 4 0) 1 .failed) moverState)
      (fun t => Row.word32 (Memory.row (deckRow 0) t.mem) 127 = 0xA1B2C3D4 ∧ Memory.row (deckRow 1) t.mem = 0) := by
  decide +kernel

/-- Mover 1 of sector 0 runs the record, which has two rows, since time 80 and within 20 ticks. -/
def transferring (w : BitVec 512) (written : Nat) : State :=
  { moverState with transfers := [⟨⟨0, 1⟩, w, [some 1, some 2], written, 80, 20, false, false⟩] }

theorem test_transfers_that_end : let w := moveRecord 2 0 0 (deckRow 0) (deckRow 40) 2 2
    ((transferring w 2).transfers.find? (fun t => t.mover = ⟨0, 1⟩)).isSome = true
    ∧ transferHeld (transferring w 2) w = false ∧ (Mv.op w = 2 ∧ Mv.sspace w = 0 ∧ Mv.dspace w = 0)
    ∧ (transferring w 2).moves = [] ∧ ((transferring w 2).run 5).feedPlans = [] ∧ Mv.src w ≠ Mv.dst w ∧ Mv.dst w < 2 ^ 48
    ∧ (∃ a ∈ moverState.dur.allocs, a.addr.toNat = Mv.src w)
    ∧ (80 : BitVec 64).toNat + 20 ≤ (transferring w 1).timebase.toNat ∧ Mv.device w = false
    ∧ { transferring w 1 with timebase := 99 }.timebase.toNat < 80 + 20 := by decide +kernel

/-- Every unit of the deck in use by eight page groups, evictable when `ev`, beside an empty yard of 512 GiB. -/
def fullDeck (ev : Bool) (s : State) : State :=
  { s with
    yardMode := .full
    yardGib := 512
    dur := { s.dur with allocs := s.dur.allocs ++ (List.range 8).map (fun i =>
      ⟨.deck, .group (BitVec.ofNat 22 (100 + i)), none, BitVec.ofNat 48 (stackBase i), stackUnits,
        if ev then some (BitVec.ofNat 48 i) else none⟩) } }

/-- A tree of coupe 5 waits for three pages of the deck, for the descriptor at position 3 of ring 9. -/
def treeWait : PoolWait := ⟨.deck, [(.tree 7, 3)], some 5, 9, 3, 50, 20⟩

theorem test_waiting_allocations : let s := { awaiting 5 moverState with poolWait := [{ treeWait with pool := .yard, pos := 9 }, treeWait] }
    s.poolWait.find? (fun w => w.pool = .deck) = some treeWait ∧ grants s .deck (some 5) 3 0 = true
    ∧ (place s .deck (.tree 7) (some 5) 3).isSome = true ∧ treeWait.runs = [(.tree 7, 3)] ∧ s.granted = []
    ∧ s.poolWait.find? (fun w => w.pool = .deck && w.since.toNat + w.limit ≤ s.timebase.toNat) = some treeWait
    ∧ (entryOf s 9 3).isSome = true := by decide +kernel

/-- As a coupe's sequences 0 and 2 are active, 2 with pages in groups 4, 6 and 7; the cold-reset count makes generation 0. -/
def seqState : State :=
  { coreState runningCore with
    power := { State.reset.power with colds := -Config.firstColdCount }
    dur := { Durable.reset with
      coupes := [(5, configuredCoupe)]
      seqs := [(0, { Seq.reset with state := .active, coupe := 5, ring := 9 }),
        (2, { Seq.reset with state := .active, coupe := 5, ring := 9, pages := [some 4, none, some 6, some 7] })]
      groups := [(4, { Group.reset with state := .sealed, scented := true, units := 3 }),
        (6, { Group.reset with state := .sealed, scented := true, units := 3, pinned := true, pinCoupe := 5 }),
        (7, { Group.reset with state := .open_, units := 3 })] } }

/-- Sequence 2 of that state has generation 0, whatever the first cold reset counted. -/
theorem test_generation_zero (l : List Entry) : seqGen (onRing l seqState) 2 = 0 := by
  have h : BitVec.ofNat 16 (Config.firstColdCount.toNat + (-Config.firstColdCount).toNat) = 0 := by
    apply BitVec.eq_of_toNat_eq
    simp only [BitVec.toNat_neg, BitVec.toNat_ofNat]
    change _ = 0
    rcases Nat.eq_zero_or_pos Config.firstColdCount.toNat with h | h
    · simp [h]
    · have := Config.firstColdCount.isLt
      rw [Nat.mod_eq_of_lt (by omega : 2 ^ 32 - Config.firstColdCount.toNat < 2 ^ 32)]
      omega
  have h2 : (onRing l seqState).power.colds = -Config.firstColdCount := rfl
  have h3 : ((onRing l seqState).seq 2).gen = 0 := rfl
  rw [seqGen, h2, h3, h]
  rfl

theorem test_sequence_held (l : List Entry) (w : BitVec 512) (h : descSlot w = 2) (hg : descGen w = 0) :
    seqLost (onRing l seqState) w = false := by
  have h1 : ((onRing l seqState).seq 2).state = .active := rfl
  rw [seqLost, h, hg, h1, test_generation_zero]
  decide

theorem test_open_operands : let w := 0x20 <<< 56 ||| 5 <<< 505 ||| 77 <<< 493 ||| 5 <<< 473
    let q := descriptor w
    let s := awaiting w seqState
    canStart s q = true ∧ Hdr.opcode q.w = 0x20 ∧ mayName s q 5 = true ∧ (s.coupe 5).state = .bound ∧ s.scentRebuild = false
    ∧ (ringBinding s q 5).isSome = true ∧ openingSlot s q = none ∧ freeSlot s = some 1
    ∧ saltOf s (BitVec.ofNat 12 (bits q.w 504 493)) = none ∧ listPages s 1 = [] ∧ bits q.w 492 473 ≠ 0
    ∧ (s.seq 1).pages = [] ∧ recallLoss s q = none := by decide +kernel

/-- Every slot of a table may be taken. -/
theorem test_full_table (i : SlotId) (s : State)
    (h : s.dur.seqs = (List.range 8192).map (fun j => (j, { Seq.reset with state := .active }))) : (s.seq i).state ≠ .free := by
  have lookup (l : List Nat) : i.toNat ∈ l →
      (l.map (fun j => (j, { Seq.reset with state := SeqState.active }))).lookup i.toNat
        = some { Seq.reset with state := .active } := by
    induction l with
    | nil => simp
    | cons a l ih =>
      intro hm
      by_cases e : i.toNat = a
      · subst e; simp
      · have hb : (i.toNat == a) = false := by simpa using e
        rw [List.map_cons, List.lookup_cons, hb]
        exact ih (by simpa [e] using hm)
  have hi : i.toNat ∈ List.range 8192 := List.mem_range.mpr i.isLt
  have hs : (s.seq i) = { Seq.reset with state := .active } := by
    show Sparse.get _ _ _ = _
    rw [h, Sparse.get, lookup _ hi]
    rfl
  rw [hs]
  decide

theorem test_close_and_cancel_operands :
    (let w := 0x21 <<< 56 ||| 2 <<< 499;
      canStart (awaiting w seqState) (descriptor w) = true ∧ Hdr.opcode (descriptor w).w = 0x21
        ∧ otherFunction (awaiting w seqState) (descriptor w) = false ∧ ((awaiting w seqState).seq 2).state = .active
        ∧ descSlot (descriptor w).w = 2 ∧ descGen (descriptor w).w = 0)
    ∧ (let w := 0x21 <<< 56 ||| 3 <<< 499
      canStart (awaiting w seqState) (descriptor w) = true ∧ seqLost (awaiting w seqState) (descriptor w).w = true)
    ∧ (let w := 0x22 <<< 56 ||| 2 <<< 499
      canStartNow (awaiting w seqState) (descriptor w) = true ∧ Hdr.opcode (descriptor w).w = 0x22
        ∧ descSlot (descriptor w).w = 2 ∧ descGen (descriptor w).w = 0 ∧ bit (descriptor w).w 482 = false)
    ∧ (let w := 0x22 <<< 56 ||| 2 <<< 499 ||| 1 <<< 482
      canStartNow (awaiting w seqState) (descriptor w) = true ∧ bit (descriptor w).w 482 = true
        ∧ descSlot (descriptor w).w = 2 ∧ descGen (descriptor w).w = 0 ∧ ringImm (awaiting w seqState) 9 = true)
    ∧ (let s := seqState.setSeq 2 { seqState.seq 2 with state := .closing, immediate := true }
      (s.seq 2).state = .closing ∧ (s.seq 2).immediate = true ∧ (s.seq 2).released = false ∧ s.transfers = []) := by
  decide +kernel

theorem test_pin_operands :
    (let w := 0x23 <<< 56 ||| 2 <<< 499 ||| 4 <<< 467 ||| 5 <<< 460;
      let s := awaiting w seqState
      canStart s (descriptor w) = true ∧ Hdr.opcode (descriptor w).w = 0x23 ∧ mayName s (descriptor w) 5 = true
        ∧ descSlot (descriptor w).w = 2 ∧ descGen (descriptor w).w = 0 ∧ otherFunction s (descriptor w) = false
        ∧ BitVec.ofNat 7 (bits (descriptor w).w 466 460) = 5
        ∧ (((s.seq 2).pages.take (bits (descriptor w).w 482 467)).filterMap id) = [4, 6, 7]
        ∧ ([4, 6, 7] : List GroupId).all (fun g => !(s.group g).inYard) = true
        ∧ recallLoss s (descriptor w) = none ∧ pinnedUnits s 5 + 3 ≤ (s.coupe 5).floor.toNat)
    ∧ (let w := 0x24 <<< 56 ||| 2 <<< 499 ||| 4 <<< 467 ||| 5 <<< 460
      canStart (awaiting w seqState) (descriptor w) = true ∧ bit (descriptor w).w 459 = false
        ∧ descSlot (descriptor w).w = 2 ∧ descGen (descriptor w).w = 0)
    ∧ (let w := 0x24 <<< 56 ||| 1 <<< 459 ||| 5 <<< 460
      canStart (awaiting w seqState) (descriptor w) = true ∧ bit (descriptor w).w 459 = true
        ∧ mayName (awaiting w seqState) (descriptor w) 5 = true)
    ∧ (let w := 0x0B <<< 56 ||| 44 <<< 500 ||| 99 <<< 384
      canStart (awaiting w seqState) (descriptor w) = true ∧ bit (descriptor w).w 499 = false)
    ∧ (let w := 0x0B <<< 56 ||| 44 <<< 500 ||| 1 <<< 499
      canStart (awaiting w seqState) (descriptor w) = true ∧ bit (descriptor w).w 499 = true) := by decide +kernel

/-- The part with power, READY, set-up locked, its host link up and HST_RB released; doorbells are polled. -/
def powered (s : State) : State :=
  { s with
    power := { s.power with
      aux := true
      main := true
      perst := false
      linkUp := true
      device := .ready
      rb := .released
      releasedAt := 10 }
    setup := { s.setup with locked := true, doorbellMode := 1 }
    ranger := { s.ranger with booted := true, running := true, auxReady := true }
    timebase := 5000 }

theorem test_doorbell_operands : let s := powered (onRing [] (coreState runningCore))
    let x := s.ringOf 9
    engineRuns s = true ∧ cxlMode s = false ∧ cxlMode { s with power := { s.power with cxl := true } } = true
    ∧ engineRuns { s with power := { s.power with cxl := true } } = true
    ∧ x.state = .enabled ∧ funcStopped s (RingE.func x.entry) = false ∧ RingE.kind x.entry = 1
    ∧ ((67 : BitVec 32) - x.back).toNat ≤ RingE.size x.entry ∧ RingE.size x.entry < ((68 : BitVec 32) - x.back).toNat
    ∧ (s.ringOf 10).state = .enabled ∧ RingE.kind (s.ringOf 10).entry ≠ 1 ∧ (1 : BitVec 32) ≠ (s.ringOf 10).count := by
  decide +kernel

theorem test_fetch_operands : let u := powered (onRing [] (coreState runningCore))
    let s := u.setRing 9 { u.ringOf 9 with count := 9 }
    engineRuns s = true ∧ pickRing s = some 9 ∧ burst s 9 = 4 ∧ malformed 9 (BitVec.ofNat 512 (0x31 <<< 56)) = false
    ∧ malformed 9 0 = true := by decide +kernel

theorem test_commit_operands :
    let s := powered (onRing [{ entryAt 3 7 with state := .done 0 0 0 0 }, entryAt 4 8] { coreState runningCore with runs := [] })
    mayCommit s = true ∧ s.power.device ≠ .draining ∧ s.due = [] ∧ RingE.kind (s.ringOf 9).entry = 1
    ∧ funcStopped s (RingE.func (s.ringOf 9).entry) = false := by decide +kernel

theorem test_bark_and_ring_operands :
    (let u := powered (coreState runningCore);
      let s := { u with power := { u.power with barkOwed := true, lastBark := some 4000 } }
      s.power.barkOwed = true ∧ s.power.rb = .released ∧ 4000 + 1000 ≤ s.timebase.toNat
        ∧ s.power.releasedAt.toNat + 1000 ≤ s.timebase.toNat)
    ∧ (let w := 0x10 <<< 56 ||| 10 <<< 497
      canStart (awaiting w seqState) (descriptor w) = true ∧ RingE.kind ((awaiting w seqState).ringOf 10).entry ≠ 1)
    ∧ (let w := 0x10 <<< 56 ||| 9 <<< 497
      canStart (awaiting w seqState) (descriptor w) = true ∧ RingE.kind ((awaiting w seqState).ringOf 9).entry = 1
        ∧ ((awaiting w seqState).ringOf 9).state ≠ .disabled
        ∧ ((awaiting w seqState).ringOf 9).front ≠ ((awaiting w seqState).ringOf 9).back
        ∧ funcStopped (awaiting w seqState) (RingE.func ((awaiting w seqState).ringOf 9).entry) = false) := by decide +kernel

/-! ## Images, bindings and coupes -/

/-- The next state of an outcome. -/
def after (o : Host.Outcome State Fault Refusal) : State :=
  match o with
  | .next t => t
  | _ => State.reset

/-- A row of numbers at bit positions. -/
def rowOf (l : List (Nat × Nat)) : Row := BitVec.ofNat 4096 (l.foldl (fun a e => a ||| e.2 <<< e.1) 0)

/-- A section of one row: type, row, entries. -/
def sectionEntry (i type row count : Nat) : Nat × Nat := (128 * i, type <<< 120 ||| row <<< 64 ||| 1 <<< 16 ||| count)

/-- An image of one shard and one configuration with a stand of each of two lead cores, no code, template or bucket. -/
def imageRows : List Row :=
  [rowOf [(0, ImgHdr.magicValue), (64, 1), (80, 0xA1), (96, 7), (160, 1), (176, 1), (192, 7), (256, 1), (320, 5)],
    rowOf [sectionEntry 0 0x01 2 1, sectionEntry 1 0x02 3 2, sectionEntry 2 0x03 4 0, sectionEntry 3 0x04 5 0,
      sectionEntry 4 0x07 6 0],
    rowOf [(32, 2), (48, 1), (64, 1), (72, 1)], 0, 0, 0, 0]

/-- What the host reads of it: shard 0 of seven rows. -/
def imageRead : ShardRead := ⟨BitVec.ofNat 128 (0x10000 <<< 64 ||| 7 <<< 16), .ok (imageRows.map (fun r => (r, false))), false⟩

/-- LOAD_IMAGE of handle 3 with one shard. -/
def loadWord : Nat := 0x01 <<< 56 ||| 1 <<< 439 ||| 3 <<< 429

/-- That load awaits in a part with coupe 5 and a yard of 16 GiB. -/
def loadState : State := awaiting loadWord { coreState runningCore with yardMode := .full, yardGib := 16 }

/-- The image's rows are in the yard and its descriptor waits for the checks. -/
def copiedState : State := after (exec (.loadImage (descriptor loadWord) [imageRead]) loadState)

/-- R148 to R151: an image that every check passes is READY with its rows. -/
theorem test_load_image : answers (exec (.loadImage (descriptor loadWord) [imageRead]) copiedState)
    (fun t => (t.image 3).state = .ready ∧ (t.image 3).rows = 7 ∧ EntryState.isDone ((entryOf t 9 3).getD (entryAt 0 0)).state) := by
  decide +kernel

theorem test_load_operands : let s := loadState
    let q := descriptor loadWord
    canStart s q = true ∧ Hdr.opcode q.w = 0x01 ∧ isQueued s q = false ∧ BitVec.ofNat 10 (bits q.w 438 429) = 3
    ∧ bits q.w 447 439 = 1 ∧ (s.image 3).state = .absent ∧ firstBadShard [imageRead] = none
    ∧ (firstBadShard [{ imageRead with data := .failed }]).isSome = true
    ∧ imageRead.late = false
    ∧ (match allocate .yard (.imageYard 3) none (ceilDiv (listRows [imageRead]) 8) false
        (s.setImage 3 { Image.reset with state := .loading }) with
      | .granted _ _ => true
      | _ => false) = true := by decide +kernel

theorem test_check_operands : let s := copiedState
    let q := descriptor loadWord
    canStart s q = true ∧ isQueued s q = true ∧ waitsInPool s q = false ∧ (s.image 3).shards.length = 1
    ∧ (checkShards 0 (s.image 3).shards s).1 = none
    ∧ (let x := (s.image 3).shards.headD ⟨0, 0, 0⟩;
      (checkShards 0 [x] { s with mem := [] }).1.isSome = true) := by decide +kernel

theorem test_taken_and_unloaded_handles :
    (let s := loadState.setImage 3 { Image.reset with state := .ready };
      (s.image 3).state ≠ .absent ∧ canStart s (descriptor loadWord) = true)
    ∧ (let w := 0x02 <<< 56 ||| 3 <<< 502
      let s := awaiting w ((coreState runningCore).setImage 3 { Image.reset with state := .ready, bindings := 1 })
      canStart s (descriptor w) = true ∧ Hdr.opcode (descriptor w).w = 0x02 ∧ BitVec.ofNat 10 (bits (descriptor w).w 511 502) = 3
        ∧ (s.image 3).state = .ready ∧ (s.image 3).bindings ≠ 0) := by decide +kernel

/-- The part with that image, and coupe 5 in a state. -/
def imageState (x : CoupeState) : State :=
  let t := after (exec (.loadImage (descriptor loadWord) [imageRead]) copiedState)
  t.setCoupe 5 { t.coupe 5 with state := x }

/-- BIND of coupe 5 to configuration 0 of that image. -/
def bindWord : Nat := 0x03 <<< 56 ||| 5 <<< 505 ||| 3 <<< 495 ||| 8 <<< 448 ||| 2 <<< 440 ||| 1000 <<< 420

theorem test_bind_operands : let q := descriptor bindWord
    let s := powered (awaiting bindWord (imageState .idle))
    let cfg := bindCfg q s
    canStart s q = true ∧ Hdr.opcode q.w = 0x03 ∧ BindD.job q.w ≤ (s.coupe 5).jobs.toNat ∧ (s.run 5).action = .none
    ∧ (s.coupe 5).state = .idle ∧ checkBindImage s q = none ∧ checkBindStands s q = none ∧ deckHolds q cfg s = true
    ∧ copyPending q s = false
    ∧ (match placeRuns .deck (some 5) 0 (bindParts q cfg (takeFloor q cfg s)) (takeFloor q cfg s) with
      | .granted _ _ => true
      | _ => false) = true
    ∧ checkBindRest s q cfg = none ∧ bindStands s q = [0, 1]
    ∧ (checkBindImage (s.setImage 3 Image.reset) q).isSome = true
    ∧ ((imageState .bound).coupe 5).state = .bound ∧ ((imageState .bound).run 5).action = .none := by decide +kernel

theorem test_bind_without_room : let q := descriptor bindWord
    let full (ev : Bool) := fullDeck ev (powered (awaiting bindWord (imageState .idle)))
    deckHolds q (bindCfg q (full false)) (full false) = false
    ∧ (let s := full true
      canStart s q = true ∧ checkBindImage s q = none ∧ checkBindStands s q = none ∧ checkBindRest s q (bindCfg q s) = none
        ∧ deckHolds q (bindCfg q s) s = true
        ∧ (match placeRuns .deck (some 5) 0 (bindParts q (bindCfg q s) (takeFloor q (bindCfg q s) s)) (takeFloor q (bindCfg q s) s) with
          | .waits _ => true
          | _ => false) = true) := by decide +kernel

theorem test_drain_operands : let w := 0x04 <<< 56 ||| 5 <<< 505
    let s := awaiting w (coreState runningCore)
    canStart s (descriptor w) = true ∧ Hdr.opcode (descriptor w).w = 0x04 ∧ (s.coupe 5).state = .bound
    ∧ (s.run 5).action = .none ∧ (let u := s.setCoupe 5 { s.coupe 5 with state := .idle }; (u.coupe 5).state = .idle)
    ∧ (let u := { awaiting w (coreState Core.reset) with runs := [(5, { CoupeRun.reset with action := .drain 9 3 })] }
      let v := u.setCoupe 5 { u.coupe 5 with state := .draining }
      drainIdle v 5 = true ∧ (v.run 5).ended = false)
    ∧ (let u := { awaiting w (coreState Core.reset) with runs := [(5, { CoupeRun.reset with action := .drain 9 3, ended := true })] }
      let v := u.setCoupe 5 { u.coupe 5 with state := .draining }
      coupeIsDrained v 5 = true ∧ (v.run 5).action = .drain 9 3 ∧ (entryOf v 9 3).isSome = true) := by decide +kernel

/-- COUPE_CREATE or another descriptor of coupe 6: stands, priority, quantum and sentinel. -/
def coupeWord (op k stands more : Nat) : Nat := op <<< 56 ||| k <<< 505 ||| stands <<< 377 ||| 1000 <<< 341 ||| more

theorem test_create_operands :
    (let w := coupeWord 0x05 6 0xC 0;
      let s := awaiting w { coreState runningCore with setup := { Setup.reset with nfunc := 1 } }
      canStart s (descriptor w) = true ∧ Hdr.opcode (descriptor w).w = 0x05 ∧ s.poolWait = [] ∧ (s.run 6).action = .none
        ∧ createOk s (descriptor w) = true ∧ claimed s (descriptor w) = none ∧ CoupeD.preemptible (descriptor w).w = false
        ∧ holders s (CoupeD.stands (descriptor w).w) = [])
    ∧ (let w := coupeWord 0x05 6 3 0
      createOk (awaiting w (coreState runningCore)) (descriptor w) = false ∧ isQueued (awaiting w (coreState runningCore)) (descriptor w) = false) := by
  decide +kernel

theorem test_coupe_set_operands :
    (let w := coupeWord 0x06 5 0 (1 <<< 336);
      let s := awaiting w (coreState runningCore)
      canStart s (descriptor w) = true ∧ Hdr.opcode (descriptor w).w = 0x06 ∧ (s.coupe 5).state ≠ .free
        ∧ CoupeD.change (descriptor w).w 0 = false ∧ CoupeD.change (descriptor w).w 2 = false ∧ (s.coupe 6).state = .free)
    ∧ (let w := coupeWord 0x06 5 7 (1 <<< 335)
      let s0 := awaiting w (coreState runningCore)
      let s := s0.setCoupe 5 { s0.coupe 5 with state := .idle }
      canStart s (descriptor w) = true ∧ CoupeD.change (descriptor w).w 0 = true
        ∧ setStandsOk s 5 (CoupeD.stands (descriptor w).w) = true ∧ (s.coupe 5).preemptible = false
        ∧ CoupeD.change (descriptor w).w 2 = false) := by decide +kernel

theorem test_destroy_and_span_operands :
    (let w := 0x07 <<< 56 ||| 5 <<< 505;
      let s := awaiting w (coreState runningCore)
      let u := s.setCoupe 5 { s.coupe 5 with state := .idle }
      canStart s (descriptor w) = true ∧ Hdr.opcode (descriptor w).w = 0x07 ∧ (s.coupe 5).state = .bound
        ∧ (s.run 5).action = .none ∧ canStart u (descriptor w) = true ∧ (u.coupe 5).state = .idle)
    ∧ (let w := 0x0A <<< 56 ||| 5 <<< 505 ||| 4 <<< 489 ||| 2 <<< 480 ||| 1 <<< 472
      let s := awaiting w (coreState runningCore)
      canStart s (descriptor w) = true ∧ Hdr.opcode (descriptor w).w = 0x0A ∧ (s.coupe 5).state ≠ .idle) := by decide +kernel

/-- A pre-emptible coupe of stand 0 in a state, for the descriptor `w` of ring 9. -/
def preemptState (x : CoupeState) (w : Nat) : State :=
  { awaiting w (coreState Core.reset) with
    dur := { Durable.reset with
      coupes := [(5, { boundCoupe with stands := 1, state := x, preemptible := true, bindings := [(0, some wireConfig)] })] } }

theorem test_preempt_operands : let w := 0x08 <<< 56 ||| 5 <<< 505
    canStart (preemptState .bound w) (descriptor w) = true ∧ Hdr.opcode (descriptor w).w = 0x08
    ∧ ((preemptState .bound w).coupe 5).preemptible = true ∧ ((preemptState .bound w).run 5).action = .none
    ∧ ((preemptState .idle w).coupe 5).state = .idle ∧ ((coreState runningCore).coupe 5).preemptible = false := by
  decide +kernel

/-- Pre-empting, with every core halted. -/
def haltedState : State :=
  let s := { preemptState .preempting 0 with runs := [(5, { CoupeRun.reset with action := .preempt 9 3 })] }
  (List.range 32).foldl (fun t c => t.setCore (BitVec.ofNat 12 c) { Core.reset with halted := true, haltWanted := true }) s

theorem test_quiesce_operands : coupeHalting haltedState 5 = true ∧ (haltedState.run 5).quiesced = false
    ∧ (coupeCores haltedState 5).all (fun c => (haltedState.core c).halted) = true ∧ networkQuiet haltedState 5 = true := by
  decide +kernel

theorem test_save_operands : let s := after (exec (.coupeQuiesced 5) haltedState)
    (s.run 5).saved.isSome = true ∧ (s.coupe 5).state = .preempting ∧ (s.run 5).quiesced = true
    ∧ (s.run 5).action = .preempt 9 3 ∧ (entryOf s 9 3).isSome = true := by decide +kernel

/-- The saved coupe, for RESUME. -/
def savedState : State :=
  let t := after (exec (.saveComplete 5) (after (exec (.coupeQuiesced 5) haltedState)))
  let w := 0x09 <<< 56 ||| 5 <<< 505
  awaiting w t

theorem test_resume_operands : let w := 0x09 <<< 56 ||| 5 <<< 505
    canStart savedState (descriptor w) = true ∧ Hdr.opcode (descriptor w).w = 0x09
    ∧ (savedState.coupe 5).state = .preempted ∧ (savedState.run 5).saved.isSome = true
    ∧ (maskStands (savedState.coupe 5).savedStands).all (standServes savedState) = true
    ∧ (maskStands (savedState.coupe 5).savedStands).any (fun g => (claimant savedState g).isSome) = false
    ∧ holders savedState (savedState.coupe 5).savedStands = []
    ∧ (let s := after (exec (.coupeResume (descriptor w)) savedState)
      (s.coupe 5).state = .resuming ∧ (s.run 5).action = .resume 9 3 ∧ (entryOf s 9 3).isSome = true
        ∧ ((s.run 5).saved.map (·.refused)) = some false) := by decide +kernel

theorem test_job_switch_operands : let st := { wireStep with ring := 11 }
    let x := { configuredCoupe with tshare := true, jobs := 1, quantum := 2 }
    let s := { (onRing [] (coreState Core.reset)).setRing 11 { Ring.reset with entry := ringEntryOf 1 6 0 10 5 1 0 0, state := .enabled } with
      dur := { Durable.reset with coupes := [(5, x)] }
      runs := [(5, { CoupeRun.reset with ready := [st] })] }
    (s.coupe 5).tshare = true ∧ (s.coupe 5).state = .bound ∧ (s.run 5).openStep = none ∧ (s.run 5).action = .none
    ∧ (coupeCores s 5).all (fun c => (s.core c).task.isNone && (s.core c).next.isNone) = true ∧ nextJob s 5 = some 1 := by
  decide +kernel

/-! ## Tests, repairs, power and clocks -/

/-- SELF_TEST or REPAIR of a block. -/
def testWord (op target index more : Nat) : Nat := op <<< 56 ||| target <<< 504 ||| index <<< 488 ||| more

theorem test_self_test_operands :
    (let w := testWord 0x0E 1 9 0;
      let s := awaiting w (powered (coreState runningCore))
      canStart s (descriptor w) = true ∧ s.ranger.running = true ∧ TestD.target (descriptor w).w = 1 ∧ TestD.index (descriptor w).w = 9
        ∧ underTest s 1 9 = false ∧ Hdr.opcode (descriptor w).w = 0x0E ∧ testReady s 1 9 = true ∧ testReady s 1 0 = false)
    ∧ (let w := testWord 0x0E 4 9 0
      let s := awaiting w (powered (coreState runningCore))
      canStart s (descriptor w) = true ∧ s.ranger.running = true ∧ underTest s 4 9 = false ∧ testReady s 4 9 = true ∧ linkHeld s (testLink 9) = false) := by decide +kernel

theorem test_repair_operands :
    (let w := testWord 0x0F 1 9 0;
      canStart (awaiting w (powered (coreState runningCore))) (descriptor w) = true
        ∧ (awaiting w (powered (coreState runningCore))).ranger.running = true
        ∧ underTest (awaiting w (powered (coreState runningCore))) 1 9 = false ∧ Hdr.opcode (descriptor w).w = 0x0F
        ∧ testReady (awaiting w (powered (coreState runningCore))) 1 9 = true ∧ bit (descriptor w).w 487 = false)
    ∧ (let w := testWord 0x0F 1 9 (1 <<< 487)
      let s := awaiting w (powered (coreState runningCore))
      let b := blockOf s 1 9
      let used := { s with blocks := [{ b with applied := (List.range 5).map (fun i => BitVec.ofNat 128 (1 <<< 120 ||| i)) }] }
      bit (descriptor w).w 487 = true ∧ s.ranger.running = true ∧ used.ranger.running = true
        ∧ underTest used 1 9 = false ∧ testReady used 1 9 = true ∧ fuseFits 1 9 (b.fused ++ toFuse s 1 9 b) = true
        ∧ canStart s (descriptor w) = true ∧ fuseFits 1 9 ((blockOf used 1 9).fused ++ toFuse used 1 9 (blockOf used 1 9)) = false
        ∧ canStart used (descriptor w) = true) := by decide +kernel

theorem test_test_end_operands : let s := { awaiting (testWord 0x0E 1 9 0) (coreState runningCore) with tests := [⟨1, 9, 9, 3, 50⟩] }
    s.tests.find? (fun t => t.target = 1 && t.index = 9) = some ⟨1, 9, 9, 3, 50⟩ ∧ (entryOf s 9 3).isSome = true := by decide +kernel

theorem test_map_operands : let w := 0x0C <<< 56 ||| 5 <<< 505 ||| 2 <<< 492
    canStart (awaiting w (coreState runningCore)) (descriptor w) = true ∧ Hdr.opcode (descriptor w).w = 0x0C
    ∧ ((awaiting w (coreState runningCore)).coupe 5).state ≠ .free ∧ bits (descriptor w).w 504 492 = 2
    ∧ ((awaiting w (coreState runningCore)).coupe 6).state = .free
    ∧ CoupeD.coupe (BitVec.ofNat 512 (0x0C <<< 56 ||| 6 <<< 505)) = 6 := by decide +kernel

/-- POWER or CLOCK of stand 9, calibrated. -/
def clockState (w : Nat) : State :=
  awaiting w ((powered (coreState runningCore)).setStand 9 { (coreState runningCore).stand 9 with cal := true })

/-- The stands of a mask may change now. -/
def mayChange (s : State) (m : BitVec 128) : Bool :=
  (maskStands m).all (fun g => (s.stand g).deferred = none && !stepOpenOn s g && (s.sector (standSector g)).mode = .on)

theorem test_power_and_clock_operands :
    (let w := 0x11 <<< 56 ||| (1 <<< 9) <<< 377 ||| 0 <<< 373;
      canStart (clockState w) (descriptor w) = true ∧ Hdr.opcode (descriptor w).w = 0x11
        ∧ mayChange (clockState w) (PowerD.stands (descriptor w).w) = true
        ∧ powerAllowed (clockState w) (PowerD.stands (descriptor w).w) (PowerD.state (descriptor w).w) = true
        ∧ powerAllowed (awaiting w (coreState runningCore)) (PowerD.stands (descriptor w).w) 0 = false)
    ∧ (let w := 0x11 <<< 56 ||| (1 <<< 9) <<< 377 ||| 9 <<< 373
      mayChange (clockState w) (PowerD.stands (descriptor w).w) = true
        ∧ powerAllowed (clockState w) (PowerD.stands (descriptor w).w) 9 = true ∧ PowerD.state (descriptor w).w = 9)
    ∧ (let w := 0x12 <<< 56 ||| (1 <<< 9) <<< 377 ||| 1234 <<< 366
      canStart (clockState w) (descriptor w) = true ∧ Hdr.opcode (descriptor w).w = 0x12
        ∧ clockAllowed (clockState w) (PowerD.stands (descriptor w).w) (PowerD.mhz (descriptor w).w) = true
        ∧ ((clockState w).stand 9).inService = true ∧ ((clockState w).stand 9).asleep = false)
    ∧ (let w := 0x13 <<< 56 ||| 200 <<< 500
      canStart (clockState w) (descriptor w) = true ∧ Hdr.opcode (descriptor w).w = 0x13) := by decide +kernel

theorem test_clock_change_operands :
    (let s := (coreState runningCore).setStand 0 { (coreState runningCore).stand 0 with deferred := some (700, 3) };
      (s.stand 0).deferred = some (700, 3) ∧ stepOpenOn s 0 = false)
    ∧ (let s := (stepState runningCore).setStand 0 { (coreState runningCore).stand 0 with deferred := some (700, 3) }
      (s.stand 0).deferred = some (700, 3) ∧ stepOpenOn s 0 = true)
    ∧ (let s := powered (coreState runningCore)
      s.power.main = true ∧ s.ranger.running = true ∧ s.power.resetPhase = .none ∧ s.power.device ≠ .tripped) := by
  decide +kernel

theorem test_ranger_operands :
    (awaiting (testWord 0x0E 1 9 0) (coreState runningCore)).ranger.running = false
    ∧ (clockState (0x11 <<< 56)).ranger.running = true
    ∧ [testWord 0x0E 1 9 0, testWord 0x0F 1 9 0, testWord 0x0F 1 9 (1 <<< 487)].all (fun w =>
      let s := clockState w
      canStart s (descriptor w) && s.ranger.running && !underTest s 1 9 && testReady s 1 9
        && fuseFits 1 9 ((blockOf s 1 9).fused ++ toFuse s 1 9 (blockOf s 1 9))) = true
    ∧ (let s := (clockState 0).setStand 0 { (clockState 0).stand 0 with deferred := some (700, 3) };
      (s.stand 0).deferred = some (700, 3) ∧ stepOpenOn s 0 = false ∧ s.ranger.running = true) := by decide +kernel

/-! ## Steps -/

/-- STEP of coupe 5 with `n` requests and one lane. -/
def stepWord (n more : Nat) : Nat := 0x28 <<< 56 ||| 5 <<< 505 ||| n <<< 495 ||| 1 <<< 460 ||| more

/-- PREFILL of sequence 2 with one token. -/
def prefillWord : Nat := 0x29 <<< 56 ||| 2 <<< 499 ||| 1 <<< 423 ||| 0x7F <<< 416

/-- STEP of one request at position 3, and its request at position 4. -/
def stepRing (n : Nat) (s : State) : State :=
  onRing [entryAt 3 (BitVec.ofNat 512 (stepWord n 0)), entryAt 4 (BitVec.ofNat 512 prefillWord)] s

theorem test_step_operands : let s := stepRing 1 seqState
    let q := descriptor (stepWord 1 0)
    (entryOf s 9 3).isSome = true ∧ canStart s q = true ∧ Hdr.opcode q.w = 0x28 ∧ StepD.coupe q.w = 5 ∧ mayName s q 5 = true
    ∧ (s.coupe 5).state ≠ .free ∧ (runEntries s q).length = StepD.nreq q.w
    ∧ (runEntries s q).all (fun x => isRequest x.w) = true
    ∧ (runEntries (stepRing 2 seqState) (descriptor (stepWord 2 0))).length < StepD.nreq (descriptor (stepWord 2 0)).w
    ∧ canStart (stepRing 2 seqState) (descriptor (stepWord 2 0)) = true := by decide +kernel

theorem test_request_operands : let s := after (exec (.step (descriptor (stepWord 1 0))) (stepRing 1 seqState))
    let q : Desc := ⟨9, 4, BitVec.ofNat 512 prefillWord⟩
    canStart s q = true ∧ Hdr.opcode q.w = 0x29 ∧ ((entryOf s 9 4).map (·.step)) = some (some 3)
    ∧ (listedCoupes s).find? (fun k => (s.run k).ready.any (fun st => st.ring = 9 && st.pos = 3)) = some 5
    ∧ (let u := awaiting prefillWord seqState
      canStart u (descriptor prefillWord) = true ∧ ((entryOf u 9 3).map (·.step)) = some none)
    ∧ canStart (awaiting (0x31 <<< 56) seqState) (descriptor (0x31 <<< 56)) = true := by decide +kernel

/-- FENCE until ring 11 has completed 7 descriptors. -/
def fenceWord : Nat := 0x30 <<< 56 ||| 1 <<< 511 ||| 11 <<< 496 ||| 7 <<< 464

/-- Ring 11 has completed `n`; the FENCE and a NOP after it wait in ring 9. -/
def fenceState (n : BitVec 32) : State :=
  (onRing [entryAt 3 (BitVec.ofNat 512 fenceWord), entryAt 4 (BitVec.ofNat 512 (0x31 <<< 56))] (coreState runningCore)).setRing 11
    { Ring.reset with entry := ringEntryOf 1 6 0 10 0 0 0 0, state := .enabled, back := n }

theorem test_fence_operands : let w := BitVec.ofNat 512 fenceWord
    (entryOf (fenceState 7) 9 3 = some (entryAt 3 w)) ∧ Hdr.opcode w = 0x30 ∧ canStart (fenceState 7) (descriptor fenceWord) = true
    ∧ (bit w 511 = true ∧ bit w 463 = false ∧ bit w 415 = false ∧ bit w 367 = false)
    ∧ ((fenceState 7).ringOf 11).state ≠ .disabled ∧ (11 : RingId) ≠ 9
    ∧ (((fenceState 7).ringOf 11).back - 7).toNat < 2 ^ 31 ∧ ¬(((fenceState 6).ringOf 11).back - 7).toNat < 2 ^ 31
    ∧ (let v := BitVec.ofNat 512 (0x30 <<< 56 ||| 1 <<< 511 ||| 9 <<< 496)
      BitVec.ofNat 15 (bits v 510 496) = (9 : RingId) ∧ canStart (awaiting v.toNat (coreState runningCore)) (descriptor v.toNat) = true)
    ∧ ((fenceState 6).ringOf 9).accepted = [entryAt 3 w] ++ entryAt 4 (BitVec.ofNat 512 (0x31 <<< 56)) :: [] := by decide +kernel

/-- A FENCE that waits: held since tick 50 with a wait limit. -/
def waitingFence : Entry := { entryAt 3 (BitVec.ofNat 512 (fenceWord ||| 1 <<< 55)) with state := .held }

theorem test_waiting_fences : let e := waitingFence
    let s := onRing [e] (coreState runningCore)
    entryOf s 9 3 = some e ∧ e.state = .held ∧ Hdr.wait e.w = true
    ∧ s.timebase.toNat < e.since.toNat + Hdr.waitTicks e.w
    ∧ e.since.toNat + Hdr.waitTicks e.w ≤ ({ s with timebase := 10000000000000 } : State).timebase.toNat := by decide +kernel

/-- A configuration with experts, one dimension and a bucket for one lane; its layers' routing barriers are 1 and 0. -/
def bucketConfig : Config :=
  { wireConfig with dims := 1, buckets := [BitVec.ofNat 256 (1 <<< 236)], experts := true, gates := [(0, 1), (0, 0)] }

/-- A map of eight experts, none of them VALID. -/
def emptyMap : ExpertMap := ⟨8, 1, 0, List.replicate 8 0⟩

/-- A map of eight VALID experts. -/
def fullMap : ExpertMap := { emptyMap with entries := List.replicate 8 0x80000000 }

/-- A ready step with the requests `rs` and the shape `n`. -/
def readyStep (rs : List Req) (n : Nat) : Step :=
  { wireStep with w := BitVec.ofNat 512 (0x28 <<< 56 ||| 5 <<< 505 ||| rs.length <<< 495 ||| n <<< 460), reqs := rs }

/-- A powered part whose coupe 5 has that configuration and ready step. -/
def openingState (cfg : Config) (st : Step) : State :=
  let u := powered (onRing [entryAt 3 st.w] seqState)
  { u with
    dur := { u.dur with coupes := [(5, { configuredCoupe with bindings := [(0, some cfg)] })] }
    runs := [(5, { CoupeRun.reset with ready := [st] })] }

/-- The step may open. -/
def opens (s : State) (cfg : Config) (st : Step) : Bool :=
  bindingOf s 5 = some cfg && coupeMayOpen s 5 && firstStep ((s.run 5).ready.filter (stepMayOpen s 5 cfg)) = some st

theorem test_step_open_operands :
    (let st := readyStep [] 0;
      let s := openingState bucketConfig st
      opens s bucketConfig st = true ∧ chooseBucket bucketConfig (StepD.stage st.w) (StepD.shapes st.w) = .zero
        ∧ (s.coupe 5).nextMap = none ∧ st.reqs = [] ∧ StepD.route st.w = 0
        ∧ routingBad (s.coupe 5).map (hashRouting bucketConfig (s.coupe 5).map (checkReqs s bucketConfig st)) = false
        ∧ (grantReqs 5 bucketConfig (checkReqs s bucketConfig st) s).2.2 = false)
    ∧ (let st := readyStep [] 1
      opens (openingState bucketConfig st) bucketConfig st = true
        ∧ chooseBucket bucketConfig (StepD.stage st.w) (StepD.shapes st.w) = .bucket 0)
    ∧ (let st := readyStep [] 2
      opens (openingState bucketConfig st) bucketConfig st = true
        ∧ chooseBucket bucketConfig (StepD.stage st.w) (StepD.shapes st.w) = .refused
        ∧ (entryOf (openingState bucketConfig st) 9 3).isSome = true) := by decide +kernel

/-- A gate template of core 0 whose ARG1 names rows 40 on. -/
def gateTemplate : BitVec 1024 := BitVec.ofNat 1024 (40 <<< 45)

/-- A configuration whose layers 0 and 1 have that gate and the barriers `b` and 0. -/
def gateConfig (b : BitVec 8) : Config := { bucketConfig with templates := [gateTemplate], gates := [(0, b), (0, 0)] }

/-- Coupe 5 runs a step with threshold routing, one lane and one token. -/
def gateStep : Step :=
  { wireStep with
    w := BitVec.ofNat 512 (0x28 <<< 56 ||| 5 <<< 505 ||| 1 <<< 493 ||| 1 <<< 460)
    reqs := [freshReq 4 (BitVec.ofNat 512 prefillWord) false false (.ok [7])]
    bucket := some 0 }

/-- Its step under map `m`. -/
def gateState (m : ExpertMap) : State :=
  { coreState runningCore with
    mem := [(benchAddr 0 40, 3), (benchAddr 0 40 + 3, 0x80)]
    dur := { Durable.reset with coupes := [(5, { configuredCoupe with bindings := [(0, some (gateConfig 1))], map := m })] }
    runs := [(5, { CoupeRun.reset with openStep := some gateStep })] }

theorem test_threshold_routing_operands :
    let s := gateState emptyMap
    let cfg := gateConfig 1
    let st := gateStep
    bindingOf s 5 = some cfg ∧ (s.run 5).openStep = some st ∧ st.boundary = false ∧ cfg.experts = true ∧ st.bucket.isSome = true
    ∧ StepD.route st.w = 1 ∧ st.routed.contains 1 = false ∧ 1 < cfg.players.toNat ∧ coupeHalting s 5 = false
    ∧ routingOpen s 5 cfg 1 = true ∧ (readRouting 5 cfg st 1 s).1 = [(1, 0, [3])]
    ∧ routingBad (s.coupe 5).map (readRouting 5 cfg st 1 s).1 = true
    ∧ routingBad ((gateState fullMap).coupe 5).map (readRouting 5 cfg st 1 (gateState fullMap)).1 = false := by decide +kernel

/-- The request of sequence 2 with token 7. -/
def tokenReq : Req := freshReq 4 (BitVec.ofNat 512 prefillWord) false false (.ok [7])

/-- Coupe 5 routes by hash with that map, and sequence 2 has the key of its configuration. -/
def routingState : State :=
  let u := openingState bucketConfig (readyStep [tokenReq] 1)
  { u with dur := { u.dur with
      coupes := [(5, { configuredCoupe with bindings := [(0, some bucketConfig)], map := emptyMap })]
      seqs := [(2, { Seq.reset with state := .active, coupe := 5, ring := 9, key := bucketConfig.key })] } }

theorem test_routed_request_passes : checkReqs routingState bucketConfig (readyStep [tokenReq] 1) = [tokenReq] := by
  have hg : seqGen routingState 2 = 0 := by
    have h := test_generation_zero []
    have h2 : seqGen routingState 2 = seqGen (onRing [] seqState) 2 := rfl
    rw [h2, h]
  have hd : descSlot tokenReq.w = 2 := by decide +kernel
  have hl : seqLost routingState tokenReq.w = false := by
    have h1 : (routingState.seq 2).state = .active := rfl
    have h3 : descGen tokenReq.w = 0 := by decide +kernel
    rw [seqLost, hd, hg, h1, h3]
    decide
  have hc : checkReq routingState bucketConfig (readyStep [tokenReq] 1) 0 tokenReq = none := by
    simp only [checkReq, hl]
    decide +kernel
  show [{ tokenReq with status := checkReq routingState bucketConfig (readyStep [tokenReq] 1) 0 tokenReq }] = _
  rw [hc]
  rfl

theorem test_hash_routing_operands : let st := readyStep [tokenReq] 1
    opens routingState bucketConfig st = true ∧ chooseBucket bucketConfig (StepD.stage st.w) (StepD.shapes st.w) ≠ .refused
    ∧ StepD.route st.w = 0 ∧ (routingState.coupe 5).nextMap.getD (routingState.coupe 5).map = emptyMap
    ∧ bucketConfig.experts = true
    ∧ tokenReq.status ≠ some Status.cancelled
    ∧ (∃ x ∈ hashRouting bucketConfig emptyMap [tokenReq], ∃ n ∈ x.2.2, MapE.valid (emptyMap.entry n) = false) := by
  decide +kernel

theorem test_step_open_waits : let s := fullDeck true routingState
    let st := readyStep [tokenReq] 1
    opens s bucketConfig st = true ∧ (grantReqs 5 bucketConfig [tokenReq] s).2.2 = true
    ∧ routingBad fullMap (hashRouting bucketConfig fullMap [tokenReq]) = false := by decide +kernel

/-- Coupe 5 runs the step `st` at a grid instant, 3,000 ticks after its last progress, with a sentinel of 2,000;
core 0 waits on queue `q`. -/
def stalledState (q : BitVec 16) (st : Step) : State :=
  { coreState { runningCore with stall := .inEmpty, stallSince := 10, lastQueue := q } with
    timebase := 3000
    dur := { Durable.reset with coupes := [(5, { configuredCoupe with sentinel := 2, bindings := [(0, some bucketConfig)] })] }
    runs := [(5, { CoupeRun.reset with openStep := some st, lastProgress := 0, lastCross := 0 })] }

theorem test_sentinel_operands : let s := stalledState 0x10 wireStep
    (s.run 5).openStep = some wireStep ∧ gridInstant s = true ∧ (listedCoupes s).filter (sentinelFires s) = [5]
    ∧ coupeRuns s 5 = true ∧ (listedCoupes State.reset).filter (sentinelFires State.reset) = []
    ∧ (wireStep.boundary = false ∧ (s.coupe 5).state = .bound ∧ s.timebase.toNat % 1000 = 0 ∧ 5 ∈ listedCoupes s
      ∧ (s.run 5).lastProgress.toNat + 1000 * (s.coupe 5).sentinel.toNat ≤ s.timebase.toNat
      ∧ ((coupeCores s 5).contains 0 = true ∧ (s.core 0).task.isSome = true ∧ (s.core 0).stall.latched = true
        ∧ (s.core 0).halted = false)
      ∧ transfersOf s 5 = false ∧ crossWait s 5 = false) := by decide +kernel

theorem test_shard_wait_operands : let s := { stalledState 0x10 wireStep with reductions := [⟨5, 0x4010, 3, []⟩] }
    (s.run 5).openStep = some wireStep ∧ (s.coupe 5).state = .bound ∧ s.timebase.toNat % 1000 = 0 ∧ (s.run 5).shardWait = none
    ∧ s.reductions.any (fun r => r.coupe = 5) = true
    ∧ (s.run 5).lastCross.toNat + 1000 * (s.coupe 5).sentinel.toNat ≤ s.timebase.toNat := by decide +kernel

theorem test_deadline_operands :
    (let s := stalledState 0x2010 wireStep;
      isSpanHandle 0x2010 = true ∧ (s.run 5).shardWait = none ∧ crossWait s 5 = true ∧ waitStart s 5 + (s.coupe 5).threshold ≤ s.timebase.toNat)
    ∧ (let s0 := stalledState 0x10 { wireStep with w := BitVec.ofNat 512 (stepWord 0 (1 <<< 304)), outcomeSent := true }
      let x := { s0.coupe 5 with sCount := 2, spanId := 4 }
      let s := (s0.setCoupe 5 x).setRun 5 { s0.run 5 with shardWait := some 1000 }
      (s.run 5).shardWait = some 1000 ∧ 1000 + (s.coupe 5).threshold ≤ s.timebase.toNat
        ∧ ((s.run 5).openStep.map (fun st => (agreement s 5 st).isNone)) = some true) := by decide +kernel

theorem test_replay_operands : let st := { wireStep with needReplay := true }
    let s := stalledState 0x10 st
    (s.run 5).openStep = some st ∧ bindingOf s 5 = some bucketConfig ∧ coupeRuns s 5 = true
    ∧ (coupeCores s 5).any (fun c => (s.slot c).moving) = false ∧ st.needReplay = true
    ∧ st.replayable = true ∧ st.poppedForeign = false
    ∧ st.attempt < 3 ∧ 3 ≤ { st with attempt := 3 }.attempt := by decide +kernel

/-! ## Patrol and failures -/

theorem test_patrol_and_move_operands : let s := coreState Core.reset
    mayPatrol s 0 = true ∧ (let u := s.setSlot 0 { s.slot 0 with moving := true }; (u.slot 0).moving = true)
    ∧ (s.slot 0).moving = false ∧ ({ s with scentRebuild := true } : State).scentRebuild = true
    ∧ (s.stand 0).inService = true ∧ coupeOfStand s 0 = some 5 ∧ (s.coupe 5).state ≠ .draining
    ∧ (s.sector 7).mode ≠ .out ∧ (s.stack 7).state ≠ .failed ∧ (s.channel 15).failed = false
    ∧ channelInUse s 15 = false ∧ channelInUse { s with yardMode := .full } 15 = true := by decide +kernel

/-! ## Supplies, rails, resets and the host -/

/-- Every rail is on. -/
def railsOn : Sparse RailUnit :=
  railKinds.flatMap (fun r => (List.range (railCount r)).map (fun i => (railKey r i, ⟨.on, 0, true⟩)))

theorem test_supply_operands : State.reset.power.aux = false ∧ State.reset.ranger.auxReady = false
    ∧ (let s := after (exec .auxPowerOn State.reset); s.power.aux = true ∧ s.ranger.auxReady = false ∧ s.power.main = false)
    ∧ (39999 : BitVec 17).toNat < 40000 ∧ 60000 < (60001 : BitVec 17).toNat ∧ (powered State.reset).power.main = true := by
  decide +kernel

/-- R427: main power at 40 V is a cold reset; the spec says nothing of 39.999 V. -/
theorem test_supply_at_40_volts : answers (exec (.mainPowerOn 40000) (after (exec .auxPowerOn State.reset)))
      (fun t => t.power.main = true ∧ t.power.device = .bringUp) = true := by decide +kernel

theorem test_supply_below_40_volts : exec (.mainPowerOn 39999) State.reset = .fault .supplyOutOfLimits := by rfl

/-- A part whose rail is in a state. -/
def railState (r : Rail) (i : Nat) (x : RailUnit) : State :=
  { powered (coreState runningCore) with rails := Sparse.set RailUnit.reset (railKey r i) x railsOn }

theorem test_rail_operands : ((railState .core 127 ⟨.on, 0, true⟩).rail .core 127).state = .on ∧ (127 : BitVec 8).toNat < railCount .core
    ∧ (let u := (railState .lnk 3 ⟨.ramping, 3, true⟩).rail .lnk 3; u.state = .ramping ∧ u.retries = 3)
    ∧ (let u := (railState .fab 7 ⟨.ramping, 2, true⟩).rail .fab 7; u.state = .ramping ∧ u.retries ≠ 3)
    ∧ (let s := railState .fab 7 ⟨.shutOff, 2, true⟩;
      (s.rail .fab 7).state = .shutOff ∧ s.ranger.running = true ∧ s.power.main = true ∧ (s.rail .fab 7).retries ≠ 3)
    ∧ (let s := { State.reset with ranger := { State.reset.ranger with auxReady := true }, power := { State.reset.power with aux := true } }
      s.ranger.running = false ∧ s.ranger.auxReady = true ∧ s.power.aux = true) := by decide +kernel

/-- R389: the third retry without regulation latches the rail off and asserts PWR_FLT_N. -/
theorem test_rail_latches : answers (exec (.railRampTimeout .lnk 3 ⟨2, 700, 10⟩) (railState .lnk 3 ⟨.ramping, 3, true⟩))
    (fun t => (t.rail .lnk 3).state = .latched ∧ t.power.pwrFlt = true) := by decide +kernel

/-- A part in bring-up with every rail on. -/
def bringUpState : State :=
  { State.reset with
    power := { State.reset.power with aux := true, main := true, device := .bringUp }
    ranger := { State.reset.ranger with booted := true, running := true, auxReady := true }
    rails := railsOn }

theorem test_bring_up_operands : let s := bringUpState
    s.power.main = true ∧ s.ranger.running = true ∧ s.power.device = .bringUp ∧ s.power.coldRst = false
    ∧ railKinds.all (fun r => (List.range (railCount r)).all (fun i => (s.rail r i).state = .on)) = true
    ∧ (let t := powered (coreState runningCore)
      (t.power.device = .ready ∧ t.ranger.running = true ∧ (t.stand 9).inService = true ∧ (t.stand 9).isolated = false
        ∧ (t.stand 9).cal = false ∧ coupeOfStand t 9 = none ∧ t.power.resetPhase = .none)
        ∧ t.power.main = true ∧ (1600 : Int) < 1601 ∧ mayWarn t (.junction 9 0) = true ∧ t.power.device ≠ .tripped)
    ∧ (let b : BringUp := ⟨[], [3], [2], [], []⟩; b.unfit = [] ∧ b.badStands.contains 3 = true ∧ b.badStacks.contains 2 = true) := by
  decide +kernel

theorem test_trip_reset_operands : let s := powered (coreState runningCore)
    let t := { s with power := { s.power with resetPhase := .heldWarm } }
    t.power.resetPhase = .heldWarm ∧ (1519 : Int) < 1520 := by decide +kernel

theorem test_reset_and_recovery_operands : let s := powered (coreState runningCore)
    (s.power.main = true ∧ s.ranger.running = true ∧ s.power.device = .ready ∧ s.power.resetPhase = .none ∧ s.power.perst = false
      ∧ s.tests = [])
    ∧ (let t := { s with power := { s.power with resetPhase := .warm false } }
      t.power.resetPhase = .warm false ∧ t.journalOk = true ∧ { t with journalOk := false }.journalOk = false)
    ∧ (let t := { s with power := { s.power with perst := true, resetPhase := .warm true } }
      t.power.perst = true ∧ t.power.main = true ∧ t.power.resetPhase = .warm true ∧ t.journalOk = true)
    ∧ ({ s with power := { s.power with perst := true } }.power.perst = true)
    ∧ ({ s with power := { s.power with perst := true, main := false } }.power.main = false)
    ∧ noOpenStep s = true ∧ noOpenStep (powered (stepState runningCore)) = false
    ∧ (let t := { s with power := { s.power with drainSince := some 7, device := .draining } }
      t.power.drainSince = some 7 ∧ t.power.device = .draining ∧ t.timebase.toNat < 7 + 100000000
        ∧ 7 + 100000000 ≤ ({ t with timebase := 100000007 } : State).timebase.toNat) := by decide +kernel

/-- Set-up with every register that a lock checks. -/
def openSetup : State :=
  let s := powered (coreState runningCore)
  { s with setup := { Setup.reset with
      ringTable := 0x10000000
      ledgerBase := 0x20000000
      ledgerSize := 0x100000
      devMirror := 0x30000000
      coupeMirror := 0x40000000 } }

/-- Ring 0 submits to completion ring 1. -/
def ringTable : List RingEntry :=
  [(0, ringEntryOf 1 6 0 1 0 0 0 0 ||| 0x1000 <<< 448), (1, ringEntryOf 2 6 0 0 0 0 0 0 ||| 0x2000 <<< 448)]

theorem test_set_up_operands : barOpen openSetup = true ∧ openSetup.setup.locked = false ∧ lockCode openSetup none ≠ 0
    ∧ (powered (coreState runningCore)).setup.locked = true ∧ barOpen (powered (coreState runningCore)) = true
    ∧ (let s := { openSetup with setup := { openSetup.setup with checking := true } };
      barOpen s = true ∧ s.setup.checking = true) ∧ bit (2 : BitVec 64) 2 = false ∧ bit (2 : BitVec 64) 1 = true
    ∧ (0x1000 : BitVec 20).toNat % 8 = 0 ∧ bit (4 : BitVec 64) 2 = true ∧ lockedReg 0x1010 = true ∧ lockedReg 0x1008 = false := by
  decide +kernel

theorem test_a_set_up_that_locks : lockCode openSetup (some ringTable) = 0 := by decide +kernel

theorem test_host_and_tap_operands : let s := powered (coreState runningCore)
    s.power.main = true ∧ (0 : BitVec 3).toNat < s.setup.nfunc.toNat ∧ bit { s with funcReset := 1 }.funcReset 0 = true
    ∧ (s.power.perst = false ∧ s.power.resetPhase = .none ∧ s.power.aux = true ∧ s.ranger.running = true)
    ∧ (let t := { s.setEth false { s.ethPort false with up := true } with setup := { s.setup with telemPort := 0x10000 } }
      ethOn t false = true ∧ bit t.setup.telemPort 16 = true ∧ (t.ethPort false).testing = false)
    ∧ State.reset.power.aux = false := by decide +kernel


/-! ## Links, packets and Ethernet -/

/-- The device of pod 1, board 0 and slot 0; its links ML14 to ML23 are not fitted. -/
def ownRecord : BitVec 128 :=
  BitVec.ofNat 128 (1 <<< 112 ||| ((List.range 10).map (fun i => 3 <<< (76 + 2 * i))).sum)

/-- The device of slot 1 of that board, the partner of ML0 and ML1. -/
def partnerRecord : BitVec 128 := BitVec.ofNat 128 (1 <<< 112 ||| 1 <<< 104)

/-- ML0 is `x` on a part with power, every rail on and that coordinate record, and the span of coupe 5, whose second
member is the partner device. -/
def linkState (x : Link) : State :=
  let s := powered (stepState runningCore)
  { s.setLink 0 { x with pPod := 1, pDev := 1, pLink := 0 } with
    coord := some ownRecord
    rails := railsOn
    announced := [⟨1, [(7, 1)], 0⟩]
    dur := { s.dur with coupes := [(5, { configuredCoupe with spanId := 7, sCount := 2, sIndex := 0, map := emptyMap })] }
    runs := [(5, { CoupeRun.reset with spanEpoch := 3, queues := [(0x2024, some { inQueue with span := true, staging := [], network := [] }),
      (0x2025, some { outQueue with span := true })] })]
    timebase := 200000000 }

/-- A link in some state, trained to 8 lanes. -/
def linkIn (st : LinkState) : Link := { Link.reset with state := st, lanes := 8 }

/-- A genuine exchange with ML0 of the partner. -/
def genuineExchange : AuthResult := ⟨true, true, true, true, 0⟩

theorem test_link_operands :
    (let s := linkState (linkIn .probe);
      linksOn s = true ∧ linkPowered s 0 = true ∧ (s.link 0).state = .probe ∧ (s.link 0).retryWait = false ∧ 2 ≤ (2 : BitVec 4).toNat)
    ∧ (let s := linkState (linkIn .train)
      (s.link 0).state = .train ∧ trainTicks (s.link 0) ≤ (now48 s - (s.link 0).since).toNat)
    ∧ (let s := linkState { linkIn .probe with retryWait := true }
      (s.link 0).state = .probe ∧ (s.link 0).retryWait = true ∧ 100000000 ≤ (now48 s - (s.link 0).since).toNat)
    ∧ (let s := linkState { linkIn .auth with coord := some partnerRecord }
      (s.link 0).state = .auth ∧ s.ranger.running = true ∧ (s.link 0).coord = some partnerRecord
        ∧ partnerOk (coordOf s) partnerRecord 0 0 = true ∧ partnerOk (coordOf s) partnerRecord 0 1 = false
        ∧ (genuineExchange.chainOk && genuineExchange.leafOk && genuineExchange.challengeOk && genuineExchange.measurementOk) = true
        ∧ 5000000 ≤ (now48 s - (s.link 0).since).toNat)
    ∧ (let s := linkState (linkIn .up)
      (s.link 0).works = true ∧ lowerConfig (s.link 0) .spread = some (8, true)
        ∧ lowerConfig (s.link 0) (.confined 2) = some (2, false) ∧ decide (12 ≤ (0 : LinkId).val) = false)
    ∧ lowerConfig { linkIn .up with half := true, lanes := 2 } .spread = none
    ∧ Coord.ok ownRecord = true ∧ Coord.ok 1 = false ∧ linksOn (linkState (linkIn .up)) = true := by decide +kernel

/-- R342: a genuine exchange takes ML0 into service; one that names another link of the partner quarantines it. -/
theorem test_authentication : answers (exec (.linkAuth 0 genuineExchange) (linkState { linkIn .auth with coord := some partnerRecord }))
      (fun t => (t.link 0).state = .up) = true
    ∧ answers (exec (.linkAuth 0 { genuineExchange with partnerLink := 1 }) (linkState { linkIn .auth with coord := some partnerRecord }))
      (fun t => (t.link 0).state = .quarantined ∧ (t.link 0).cause = 8) = true := by decide +kernel

/-- The check value of CRC-32C over the digits 1 to 9. -/
theorem test_crc32c : crc32c [0x31, 0x32, 0x33, 0x34, 0x35, 0x36, 0x37, 0x38, 0x39] = 0xE3069283 := by decide +kernel

/-- A STREAM flit with its CRC; it acknowledges flit 255, has number 0 and an empty payload. -/
def soundFlit : BitVec 2048 := BitVec.ofNat 2048 (1 <<< 124 ||| 255 <<< 105 ||| 1590399668)

/-- 48 bytes of an empty payload. -/
def emptyBytes : List Nat := List.replicate 48 0

theorem test_flit_bytes : flitBytes soundFlit = [0, 0, 0, 0, 0, 0, 0, 0, 0, 254, 1, 16] ++ emptyBytes ++ emptyBytes
    ++ emptyBytes ++ emptyBytes ++ emptyBytes := by decide +kernel

/-- A long CRC in parts. -/
theorem test_flit_crc : crc32c (flitBytes soundFlit) = Flit.crc soundFlit := by
  have h0 : [0, 0, 0, 0, 0, 0, 0, 0, 0, 254, 1, 16].foldl crcByte 0xFFFFFFFF = 3811028076 := by decide +kernel
  have h1 : emptyBytes.foldl crcByte 3811028076 = 1976958504 := by decide +kernel
  have h2 : emptyBytes.foldl crcByte 1976958504 = 2361442390 := by decide +kernel
  have h3 : emptyBytes.foldl crcByte 2361442390 = 3054843123 := by decide +kernel
  have h4 : emptyBytes.foldl crcByte 3054843123 = 3492607795 := by decide +kernel
  have h5 : emptyBytes.foldl crcByte 3492607795 = 2704567627 := by decide +kernel
  rw [test_flit_bytes, crc32c]
  simp only [List.foldl_append, h0, h1, h2, h3, h4, h5]
  decide +kernel

theorem test_flit_operands : let x := (linkState { linkIn .up with fseq := 0, replay := [], lastGood := 255 }).link 0
    let y := { x with fseq := 9 }
    x.works = true ∧ x.retraining = false ∧ x.ackOk 255 = true ∧ x.ackOk 7 = false ∧ (none : Option (BitVec 8)).isSome = false
    ∧ (x.counted (some 2)).malformed soundFlit = false ∧ (y.counted (some 0)).malformed soundFlit = true
    ∧ ((linkState (linkIn .auth)).link 0).state = .auth := by decide +kernel

/-- A packet of the partner for this device and the span. -/
def pktHeader (ptype channel len : Nat) : BitVec 128 := Pkt.make ptype 0 1 7 1 channel 3 false len 0

theorem test_packets_are_admitted : let s := linkState (linkIn .up)
    (∀ p ∈ [1, 2, 3, 4, 6], (s.link 0).works = true ∧ (s.link 0).retraining = false ∧ Pkt.ptype (pktHeader p 4 0) = p
      ∧ Pkt.rsvdOk (pktHeader p 4 0) = true ∧ partnerMaySend (s.link 0) (Pkt.src (pktHeader p 4 0)) = true
      ∧ Pkt.dst (pktHeader p 4 0) = ownDev s ∧ windowOk s (pktHeader p 4 0) = true
      ∧ spanCoupe s (Pkt.span (pktHeader p 4 0)) = some 5)
    ∧ Pkt.len (pktHeader 1 4 512) = 512 ∧ Pkt.ptype (pktHeader 5 4 12) = 5 ∧ Pkt.len (pktHeader 5 4 12) = 8 + 4 * 1
    ∧ Pkt.rsvdOk (pktHeader 5 4 12 ||| 1) = false := by decide +kernel

theorem test_packet_operands : let s := linkState (linkIn .up);
    (let h := pktHeader 1 4 512;
      spanHandle (Pkt.idx h) (Pkt.channel h) = 0x2024 ∧ Pkt.channel h < 24 ∧ s.queue 5 (spanHandle 1 9) = none
        ∧ (∃ q, s.queue 5 0x2024 = some q ∧ q.epoch = Pkt.epoch h ∧ q.epoch ≠ Pkt.epoch (h + 1 <<< 67) ∧ q.network = []
          ∧ q.admits (.row 7 false) = true ∧ ({ q with network := [.row 9 false] } : Queue).network.isEmpty = false))
    ∧ (let h := pktHeader 2 5 4
      Pkt.len h = 4 ∧ ∃ q, s.queue 5 0x2025 = some q ∧ spanHandle (Pkt.idx h) (Pkt.channel h) = 0x2025 ∧ q.epoch = Pkt.epoch h
        ∧ (s.core (QRec.prod q.record)).port (4 + QRec.prodPort q.record) ≠ 0x2025 ∧ (s.run 5).feedPlans = [] ∧ s.transfers = [])
    ∧ ((s.run 5).openStep = none ∧ (s.run 5).xtagsDone.contains 9 = false
      ∧ ((s.run 5).heldOutcomes.filter (fun x => x.member = 1)).length < 4)
    ∧ (let st := { wireStep with w := BitVec.ofNat 512 (stepWord 0 (1 <<< 304)) }
      st.spans = true ∧ st.boundary = false ∧ StepD.xtag st.w = 1 ∧ st.attempt ≤ (1 : BitVec 2).toNat
        ∧ st.outcomes.any (fun x => x.member = 1 && x.attempt = 1) = false)
    ∧ (bindingOf s 5).isSome = true ∧ (s.coupe 5).sCount ≠ 3
    ∧ (s.coupe 5).map = emptyMap ∧ Pkt.epoch (pktHeader 6 0 20) = (s.run 5).spanEpoch ∧ Pkt.len (pktHeader 6 0 20) = 4 + 16 * 1
    ∧ (s.run 5).bundles.any (fun b => b.1 = 2 && b.2.1 = 1) = false := by
  refine ⟨⟨by decide +kernel, by decide +kernel, by decide +kernel, _, rfl, by decide +kernel⟩,
    ⟨by decide +kernel, _, rfl, by decide +kernel⟩, ?_⟩
  decide +kernel

/-- Port 0 is up and its queue pairs are in use; coupe 5 has ten pages of the deck and sequence 2 may take an import. -/
def ethState : State :=
  let s := powered seqState
  { s.setEth false { s.ethPort false with up := true } with
    power := { s.power with colds := -Config.firstColdCount }
    setup := { s.setup with qpBase := 0x5000000, qpCount := 8 }
    dur := { s.dur with
      coupes := [(5, configuredCoupe)]
      allocs := [⟨.deck, .tree 3, some 5, BitVec.ofNat 48 (deckRow 0), 10, none⟩]
      seqs := [(2, { Seq.reset with state := .active, coupe := 5, ring := 9 })] } }

/-- A frame of 100 bytes with every feature supported. -/
def goodFrame : EthFrame := ⟨100, true, false, 4791, true, true, true, false, false, false, 0, false, false, 0, 0, .none⟩

theorem test_ethernet_operands :
    ethOn ethState false = true ∧ (ethState.ethPort false).testing = false ∧ qpReady ethState 3 (ethState.coupe 5).func = true
    ∧ sourceOk ethState (ethState.coupe 5).func (.host 0x1000 16) = true ∧ bufferGranules ethState (.host 0x1000 16) = []
    ∧ sourceOk ethState (ethState.coupe 5).func (.deck (BitVec.ofNat 48 (deckRow 100)) 16) = false
    ∧ deckRangeOk ethState (ethState.coupe 5).func (BitVec.ofNat 48 (deckRow 1)).toNat 600 true = true
    ∧ ethState.granuleErrors = []
    ∧ goodFrame.fcsOk = true ∧ { goodFrame with fcsOk := false }.fcsOk = false ∧ goodFrame.pause = false
    ∧ frameUnsupported { goodFrame with len := 9217 } = true ∧ frameUnsupported goodFrame = false ∧ goodFrame.cnp = false
    ∧ goodFrame.outOfSequence = false ∧ goodFrame.access = .none ∧ ethState.power.main = true
    ∧ (ethState.ethPort false).up ≠ false := by decide +kernel

/-- Sequence 2 may take blocks from its start, whatever the first cold reset counted. -/
theorem test_import_target (l : List Import) : seqTargetOk { ethState with imports := l } 2 0 0 = true := by
  have h : seqGen { ethState with imports := l } 2 = 0 :=
    (rfl : seqGen { ethState with imports := l } 2 = seqGen (onRing [] seqState) 2).trans (test_generation_zero [])
  have hs : ({ ethState with imports := l } : State).seq 2 = ethState.seq 2 := rfl
  simp only [seqTargetOk, h, hs]
  decide +kernel

/-- An import of one block into sequence 2. -/
def blockImport : Import := ⟨3, 2, 0, 0, 1, []⟩

theorem test_import_operands : let s := { ethState with imports := [blockImport] }
    let bs := [(List.replicate 16 (7 : BitVec 32), List.replicate 16 ((0 : Row), false))]
    s.imports.find? (fun x => x.qp = 3) = some blockImport ∧ bindingOf s (s.seq 2).coupe = some wireConfig
    ∧ blocksOk wireConfig blockImport.blocks.toNat bs = true ∧ blocksOk wireConfig blockImport.blocks.toNat [] = false
    ∧ (match takeImport (s.seq 2).coupe wireConfig blockImport { s with imports := s.imports.erase blockImport } with
      | OpenGrant.granted gs _ => decide (gs.length = 1)
      | _ => false) = true
    ∧ (let u := fullDeck true s;
      match takeImport (u.seq 2).coupe wireConfig blockImport { u with imports := u.imports.erase blockImport } with
      | OpenGrant.waits _ _ => true
      | _ => false) = true := by decide +kernel

/-! ## The mesh, lands and codewords -/

theorem test_tick_operands : (∀ g : StandId, standCounts State.reset g = false)
    ∧ (let s := powered (coreState runningCore)
      standCounts (s.setStand 0 { s.stand 0 with inService := true, mhz := 900, pstate := 4 }) 0 = true) := by decide +kernel

/-- R133: a packet goes in X first, then in Y; between sectors it crosses a bridge. -/
theorem test_mesh_path : meshPath (1, 1) (3, 0) = [(1, 1), (2, 1), (3, 1), (3, 0)]
    ∧ bridgesOf (meshPath (3, 0) (4, 0)) = 1 ∧ crossingLane 5 6 = 3 := by decide +kernel

/-- The worked example of 15_setup_registers_and_lands.md: lane 5 of ML7, lane 9 of the host link, DQ0 of subchannel B of
yard channel 5. -/
theorem test_worked_lands : (mlTx 7 5 false).name = "D84" ∧ (mlTx 7 5 true).name = "D85" ∧ (hostRx 9 false).name = "AB6"
    ∧ (hostRx 9 true).name = "AB7" ∧ (yardLand 5 78).name = "AG53" := by decide +kernel

/-- R330: the generator's roots are α^0 to α^15, and a codeword of one data symbol 1 is valid. -/
theorem test_codeword : rsGenerator.length = 17 ∧ rsGenerator.headD 0 = 1
    ∧ rsValid (List.replicate 3 0 ++ rsEncode [1]) = true ∧ rsValid [1] = false := by decide +kernel

end Sys2Proof.Machine
end

section
/-! PROOFS. The service port of a bench: what a remote read leaves unchanged, and when it is served (R105, R129, R272). -/

namespace Sys2Proof.Machine

/-! ## What reading a bench row and raising an isolation event change -/

/-- What a read at a service port leaves alone: memory, the packets of reads in the network and the stamp of the next
packet; and no core takes an exception. -/
structure ReadsQuietly (s t : State) : Prop where
  mem : t.mem = s.mem
  readReqs : t.readReqs = s.readReqs
  readReplies : t.readReplies = s.readReplies
  sentNow : sentNow t = sentNow s
  cores : ∀ e, (t.core e).phase = (s.core e).phase ∧ (t.core e).exc = (s.core e).exc

theorem ReadsQuietly.refl (s : State) : ReadsQuietly s s := ⟨rfl, rfl, rfl, rfl, fun _ => ⟨rfl, rfl⟩⟩

theorem readBench_data (c : CoreId) (r src : Nat) (s : State) :
    (readBench c r src s).1.1 = Memory.row (benchAddr c r) s.mem := by
  dsimp only [readBench]
  split
  · split <;> rfl
  · rfl
  · rfl
  · rfl

/-- A change of core `c`'s error log leaves every core as it was but for an error log. -/
theorem setCore_errLog_core (s : State) (c e : CoreId) (log : BitVec 64) :
    ∃ l, (s.setCore c { s.core c with errLog := log }).core e = { s.core e with errLog := l } := by
  by_cases h : e = c
  · subst h; exact ⟨log, by simp⟩
  · exact ⟨(s.core e).errLog, by simp [State.setCore_core_other, h]⟩

/-- Of a core, a read of a bench row changes at most the error log (R117). -/
theorem readBench_core (c : CoreId) (r src : Nat) (s : State) (e : CoreId) :
    ∃ l, (readBench c r src s).2.core e = { s.core e with errLog := l } := by
  dsimp only [readBench]
  split
  · split <;> exact setCore_errLog_core s c e _
  · exact setCore_errLog_core s c e _
  · exact setCore_errLog_core s c e _
  · exact ⟨(s.core e).errLog, rfl⟩

theorem readBench_rest (c : CoreId) (r src : Nat) (s : State) :
    (readBench c r src s).2 = { s with
      cores := (readBench c r src s).2.cores
      poison := (readBench c r src s).2.poison
      rowErrors := (readBench c r src s).2.rowErrors
      leaseHits := (readBench c r src s).2.leaseHits } := by
  dsimp only [readBench]
  split
  · split <;> rfl
  · rfl
  · rfl
  · rfl

theorem readBench_quiet (c : CoreId) (r src : Nat) (s : State) : ReadsQuietly s (readBench c r src s).2 where
  mem := by rw [readBench_rest]
  readReqs := by rw [readBench_rest]
  readReplies := by rw [readBench_rest]
  sentNow := by rw [readBench_rest]; rfl
  cores e := by
    obtain ⟨l, h⟩ := readBench_core c r src s e
    rw [h]; exact ⟨rfl, rfl⟩

/-- The second isolation event of a kind in a step is not raised (R272). -/
theorem raiseIsolation_again (kind : BitVec 4) (k : CoupeId) (dst : Option CoupeId) (c : CoreId) (s : State)
    (h : (s.run k).isolation.contains kind = true) : raiseIsolation kind k dst c s = s := by
  simp only [raiseIsolation, h, if_true]

/-- The first one of its kind is raised for the coupe. -/
theorem raiseIsolation_first (kind : BitVec 4) (k : CoupeId) (dst : Option CoupeId) (c : CoreId) (s : State)
    (h : (s.run k).isolation.contains kind = false) :
    ∃ e : Event, (raiseIsolation kind k dst c s).events = s.events ++ [e] ∧ e.kind = 0x03 ∧ e.coupe = k := by
  simp only [raiseIsolation, h]
  exact ⟨_, rfl, rfl, rfl⟩

theorem raiseIsolation_quiet (kind : BitVec 4) (k : CoupeId) (dst : Option CoupeId) (c : CoreId) (s : State) :
    ReadsQuietly s (raiseIsolation kind k dst c s) := by
  cases h : (s.run k).isolation.contains kind with
  | true => rw [raiseIsolation_again kind k dst c s h]; exact .refl s
  | false => simp only [raiseIsolation, h]; exact ⟨rfl, rfl, rfl, rfl, fun _ => ⟨rfl, rfl⟩⟩

/-! ## Which reads are served -/

/-- The read stays in the reader's coupe `k`, its target is neither isolated nor failed, and its row is one of a bench
(R105). -/
def ReadServed (s : State) (q : ReadReq) (k : CoupeId) : Prop :=
  coupeOf s q.target = some k ∧ (s.stand (coreStand q.target)).isolated = false
    ∧ (s.slot q.target).state ≠ .failed ∧ q.row.toNat ≤ 30719

theorem serveRead_served (s : State) (q : ReadReq) (k : CoupeId) (hk : coupeOf s q.reader = some k)
    (h : ReadServed s q k) : serveRead q s = readBench q.target q.row.toNat 2 s := by
  obtain ⟨hc, hi, hf, hr⟩ := h
  have hrow : ¬30719 < q.row.toNat := Nat.not_lt.2 hr
  simp [serveRead, lastRow, hk, hc, hi, hf, hrow]

/-- Each way of not being served is one disjunct of the model's refusal. -/
theorem serveRead_refused (s : State) (q : ReadReq) (k : CoupeId) (hk : coupeOf s q.reader = some k)
    (h : ¬ReadServed s q k) : serveRead q s = ((0, true), raiseIsolation 1 k (coupeOf s q.target) q.reader s) := by
  simp only [ReadServed, Classical.not_and_iff_not_or_not, Nat.not_le] at h
  simp only [serveRead, hk]
  rw [if_pos]
  rcases h with hc | hi | hf | hr
  · simp [hc]
  · simp [hi]
  · simp [Classical.not_not.1 hf]
  · simp [lastRow, hr]

/-! ## The command -/

/-- A request behind an older window row between the same two cores waits (R129). -/
theorem exec_remoteReadRequest_held (c : CoreId) (q : ReadReq) (rest : List ReadReq) (s : State)
    (ht : takeFirst (fun q => q.target = c) s.readReqs = some (q, rest)) (hf : requestFirst s q = false) :
    exec (.remoteReadRequest c) s = .next s := by
  simp [exec_remoteReadRequest, execRemoteReadRequest, ht, hf]

/-- The command takes the request from the network and sends reply `d` with poison `b`, changes no byte and gives no core
an exception. -/
def ReadAnswered (c : CoreId) (q : ReadReq) (rest : List ReadReq) (d : Row) (b : Bool) (s t : State) : Prop :=
  exec (.remoteReadRequest c) s = .next t ∧ SameBytes s t ∧ t.readReqs = rest
    ∧ t.readReplies = s.readReplies ++ [⟨q.reader, d, b, c, sentNow s⟩]
    ∧ ∀ e, (t.core e).phase = (s.core e).phase ∧ (t.core e).exc = (s.core e).exc

/-- A request that does not wait, of the reader's present incarnation, is answered with what `serveRead` gives. -/
theorem remoteReadRequest_answers (c : CoreId) (q : ReadReq) (rest : List ReadReq) (s : State) (r : (Row × Bool) × State)
    (ht : takeFirst (fun q => q.target = c) s.readReqs = some (q, rest)) (hf : requestFirst s q = true)
    (hi : q.incarn = (s.slot q.reader).incarn) (hs : serveRead q { s with readReqs := rest } = r)
    (hq : ReadsQuietly { s with readReqs := rest } r.2) :
    ∃ t, ReadAnswered c q rest r.1.1 r.1.2 s t ∧ t.events = r.2.events := by
  refine ⟨{ r.2 with
    readReplies := r.2.readReplies ++ [⟨q.reader, r.1.1, r.1.2, c, sentNow r.2⟩]
    injected := r.2.injected + 1 }, ⟨?_, ?_, hq.readReqs, ?_, hq.cores⟩, rfl⟩
  · simp [exec_remoteReadRequest, execRemoteReadRequest, ht, hf, hi, hs]
  · simp [SameBytes, hq.mem]
  · rw [hq.readReplies, hq.sentNow]; rfl

section
variable (c : CoreId) (q : ReadReq) (rest : List ReadReq) (s : State) (k : CoupeId)
  (ht : takeFirst (fun q => q.target = c) s.readReqs = some (q, rest)) (hf : requestFirst s q = true)
  (hi : q.incarn = (s.slot q.reader).incarn) (hk : coupeOf s q.reader = some k)
include ht hf hi hk

/-- A read that is not served returns zeros poisoned and raises the step's first isolation event of its kind (R272). -/
theorem remoteReadRequest_refused (hn : ¬ReadServed s q k) :
    ∃ t, ReadAnswered c q rest 0 true s t
      ∧ ((s.run k).isolation.contains 1 = false → ∃ e, t.events = s.events ++ [e] ∧ e.kind = 0x03 ∧ e.coupe = k)
      ∧ ((s.run k).isolation.contains 1 = true → t.events = s.events) := by
  have hs := serveRead_refused { s with readReqs := rest } q k hk hn
  obtain ⟨t, ha, he⟩ := remoteReadRequest_answers c q rest s _ ht hf hi hs (raiseIsolation_quiet ..)
  refine ⟨t, ha, fun h => ?_, fun h => ?_⟩
  · rw [he]; exact raiseIsolation_first 1 k _ _ { s with readReqs := rest } h
  · rw [he, raiseIsolation_again 1 k _ _ { s with readReqs := rest } h]

/-- A served read returns the row as it stands (R105). -/
theorem remoteReadRequest_served (hy : ReadServed s q k) :
    ∃ t b, ReadAnswered c q rest (Memory.row (benchAddr q.target q.row.toNat) s.mem) b s t := by
  have hs := serveRead_served { s with readReqs := rest } q k hk hy
  obtain ⟨t, ha, -⟩ := remoteReadRequest_answers c q rest s _ ht hf hi hs (readBench_quiet ..)
  rw [readBench_data] at ha
  exact ⟨t, _, ha⟩

end

/-- Settles O21: a request is held, answered with zeros poisoned, or served with the row, as `ReadServed` tells the last
two apart. -/
theorem remoteReadsStayInTheCoupe : Obligations.RemoteReadsStayInTheCoupe := by
  intro c q rest s ht
  refine ⟨exec_remoteReadRequest_held c q rest s ht, fun hf hi k hk => ⟨fun hn => ?_, fun hy => ?_⟩⟩
  · obtain ⟨t, ⟨hx, hb, hr, hp, hc⟩, he⟩ := remoteReadRequest_refused c q rest s k ht hf hi hk hn
    exact ⟨t, ⟨hx, hb, hr, ⟨true, rfl, hp⟩, hc⟩, he⟩
  · obtain ⟨t, b, hx, hb, hr, hp, hc⟩ := remoteReadRequest_served c q rest s k ht hf hi hk hy
    exact ⟨t, hx, hb, hr, ⟨b, trivial, hp⟩, hc⟩

end Sys2Proof.Machine
end

section
/-! PROOFS. Rows of memory and of benches: what a row reads after it or another one is written, and the words of a row that
is built from words. -/

namespace Sys2Proof.Machine

/-! ## Rows of memory -/

theorem bytesLE_length : ∀ n v : Nat, (bytesLE n v).length = n
  | 0, _ => rfl
  | n + 1, v => by rw [bytesLE, List.length_cons, bytesLE_length n]

/-- Reading the bytes of a number gives the number, up to its length. -/
theorem Memory.cells_sum (a : Nat) : ∀ n v i acc : Nat,
    (Memory.cells (a + i) (bytesLE n v)).foldl (fun acc c => acc + c.2.toNat * 2 ^ (8 * (c.1 - a))) acc
      = acc + v % 2 ^ (8 * n) * 2 ^ (8 * i)
  | 0, v, i, acc => by simp [bytesLE, Memory.cells, Nat.mod_one]
  | n + 1, v, i, acc => by
    have low : ((if BitVec.ofNat 8 v = Memory.empty then [] else [(a + i, BitVec.ofNat 8 v)] : List Host.Cell).foldl
        (fun acc c => acc + c.2.toNat * 2 ^ (8 * (c.1 - a))) acc) = acc + v % 256 * 2 ^ (8 * i) := by
      split
      next h =>
        have hz : v % 256 = 0 := by simpa [Memory.empty] using congrArg BitVec.toNat h
        simp [hz]
      next => simp
    have split256 : v % 2 ^ (8 * (n + 1)) = v % 256 + 256 * (v / 256 % 2 ^ (8 * n)) := by
      rw [show 2 ^ (8 * (n + 1)) = 256 * 2 ^ (8 * n) by rw [Nat.mul_add, Nat.pow_add, Nat.mul_comm], Nat.mod_mul]
    rw [bytesLE, Memory.cells, List.foldl_append, low, Nat.add_assoc a, Memory.cells_sum a n, split256,
      Nat.mul_add 8 i, Nat.pow_add, Nat.add_mul, Nat.add_assoc acc]
    have high : v / 256 % 2 ^ (8 * n) * (2 ^ (8 * i) * 2 ^ (8 * 1)) = 256 * (v / 256 % 2 ^ (8 * n)) * 2 ^ (8 * i) := by
      have byte : 2 ^ (8 * 1) = 256 := by decide
      rw [byte, Nat.mul_comm (2 ^ (8 * i)), ← Nat.mul_assoc, Nat.mul_comm _ 256]
    rw [high]

/-- Two tests that exclude each other leave no cell. -/
theorem Memory.filter_filter_nil (p q : Host.Cell → Bool) (m : List Host.Cell) (h : ∀ c, p c = true → q c = false) :
    (m.filter p).filter q = [] :=
  List.filter_eq_nil_iff.2 fun c hc => by simp [h c (List.mem_filter.1 hc).2]

theorem Memory.read_write_same (a n v : Nat) (m : List Host.Cell) :
    Memory.read a n (Memory.write a (bytesLE n v) m) = v % 2 ^ (8 * n) := by
  have hlen := bytesLE_length n v
  obtain ⟨-, hin⟩ := Memory.cells_spec (bytesLE n v) a
  rw [hlen] at hin
  have cells : (Memory.write a (bytesLE n v) m).filter (fun c => a ≤ c.1 && c.1 < a + n) = Memory.cells a (bytesLE n v) := by
    rw [Memory.write, List.filter_append, List.filter_append, hlen,
      Memory.filter_filter_nil (fun c => c.1 < a) _ m (fun c h => by simp at h ⊢; omega),
      Memory.filter_filter_nil (fun c => a + n ≤ c.1) _ m (fun c h => by simp at h ⊢; omega),
      List.filter_eq_self.2 (fun c hc => by simpa using hin c hc), List.nil_append, List.append_nil]
  rw [Memory.read, cells]
  simpa using Memory.cells_sum a n v 0 0

/-- A write changes nothing of what is read elsewhere. -/
theorem Memory.read_write_other (a n b : Nat) (bs : List (BitVec 8)) (m : List Host.Cell)
    (h : a + n ≤ b ∨ b + bs.length ≤ a) : Memory.read a n (Memory.write b bs m) = Memory.read a n m := by
  obtain ⟨-, hin⟩ := Memory.cells_spec bs b
  have written : (Memory.cells b bs).filter (fun c => a ≤ c.1 && c.1 < a + n) = [] :=
    List.filter_eq_nil_iff.2 fun c hc => by have := hin c hc; simp; omega
  rw [Memory.read, Memory.read, Memory.write, List.filter_append, List.filter_append, written, List.append_nil]
  congr 1
  rcases h with h | h
  · rw [Memory.filter_filter_nil (fun c => b + bs.length ≤ c.1) _ m (fun c h => by simp at h ⊢; omega), List.append_nil,
      List.filter_filter]
    exact List.filter_congr fun c _ => by simp; omega
  · rw [Memory.filter_filter_nil (fun c => c.1 < b) _ m (fun c h => by simp at h ⊢; omega), List.nil_append,
      List.filter_filter]
    exact List.filter_congr fun c _ => by simp; omega

theorem Memory.row_writeRow_same (a : Nat) (r : Row) (m : List Host.Cell) :
    Memory.row a (Memory.writeRow a r m) = r := by
  rw [Memory.row, Memory.writeRow, Memory.read_write_same, Nat.mod_eq_of_lt r.isLt, BitVec.ofNat_toNat,
    BitVec.setWidth_eq]

theorem Memory.row_writeRow_other (a b : Nat) (r : Row) (m : List Host.Cell) (h : a + 512 ≤ b ∨ b + 512 ≤ a) :
    Memory.row a (Memory.writeRow b r m) = Memory.row a m := by
  rw [Memory.row, Memory.writeRow, Memory.read_write_other a 512 b _ m (by rwa [bytesLE_length])]
  rfl

/-! ## Rows of a bench -/

/-- The rows of a bench do not overlap. -/
theorem benchAddr_apart (c : CoreId) {i j : Nat} (h : i < j) : benchAddr c i + 512 ≤ benchAddr c j := by
  unfold benchAddr; omega

theorem taskWrite_row_same (c : CoreId) (r : Nat) (d : Row) (p : Bool) (s : State) :
    Memory.row (benchAddr c r) (taskWrite c r d p s).mem = d := Memory.row_writeRow_same _ d s.mem

theorem taskWrite_row_other (c : CoreId) (i j : Nat) (d : Row) (p : Bool) (s : State) (h : i ≠ j) :
    Memory.row (benchAddr c i) (taskWrite c j d p s).mem = Memory.row (benchAddr c i) s.mem := by
  refine Memory.row_writeRow_other _ _ d s.mem ?_
  rcases Nat.lt_or_gt_of_ne h with h | h
  · exact .inl (benchAddr_apart c h)
  · exact .inr (benchAddr_apart c h)

@[simp] theorem taskWrite_core (c : CoreId) (r : Nat) (d : Row) (p : Bool) (s : State) (e : CoreId) :
    (taskWrite c r d p s).core e = s.core e := rfl

/-! ## Rows of 64-bit words -/

/-- Only the low bits of a digit count. -/
theorem packLE_mod (w : Nat) : ∀ ls : List Nat, packLE w (ls.map (· % 2 ^ w)) = packLE w ls
  | [] => rfl
  | l :: ls => by rw [List.map_cons, packLE, packLE, Nat.mod_mod, packLE_mod w ls]

/-- Word i of a row built from at most 64 words; those beyond the last are zero. -/
theorem word64_rowOfWords64 (ws : List Nat) (hw : ws.length ≤ 64) (i : Nat) :
    Row.word64 (rowOfWords64 ws) i = BitVec.ofNat 64 (ws.getD i 0) := by
  have hlt : packLE 64 ws < 2 ^ 4096 :=
    Nat.lt_of_lt_of_le (packLE_lt 64 ws) (Nat.pow_le_pow_right Nat.two_pos (by omega))
  have digit := packLE_digit 64 (ws.map (· % 2 ^ 64)) i (by
    intro l hl
    obtain ⟨x, -, rfl⟩ := List.mem_map.1 hl
    exact Nat.mod_lt _ (by decide))
  have getD_mod : (ws.map (· % 2 ^ 64)).getD i 0 = ws.getD i 0 % 2 ^ 64 := by
    simp only [List.getD_eq_getElem?_getD, List.getElem?_map]
    cases ws[i]? <;> rfl
  rw [packLE_mod, getD_mod] at digit
  apply BitVec.eq_of_toNat_eq
  rw [Row.word64, rowOfWords64, BitVec.toNat_ofNat, BitVec.toNat_ofNat, BitVec.toNat_ofNat, Nat.mod_eq_of_lt hlt, digit]

end Sys2Proof.Machine
end

section
/-! PROOFS. TMASK on a valid tree: its nodes are those of R247's recurrences, and rows D and D + 1 take them. -/

namespace Sys2Proof.Machine

/-! ## Nodes -/

/-- PARENT of entry i of a row of tree entries (R246). -/
def treeParent (r : Row) (i : Nat) : Nat := bits (Row.word64 r i) 63 56

/-- The first n entries of a row are a valid tree whose masks and depths are `anc` and `depth` (R247). -/
structure ValidTree (r : Row) (n : Nat) (anc depth : Nat → Nat) : Prop where
  ancRoot : anc 0 = 1
  depthRoot : depth 0 = 0
  parentRoot : treeParent r 0 = 0xFF
  anc_eq : ∀ i, 1 ≤ i → i < n → anc i = anc (treeParent r i) ||| 1 <<< i
  depth_eq : ∀ i, 1 ≤ i → i < n → depth i = depth (treeParent r i) + 1
  parent_lt : ∀ i, 1 ≤ i → i < n → treeParent r i < i
  depth_le : ∀ i, i < n → depth i ≤ 15
  reserved : ∀ i, i < n → bits (Row.word64 r i) 55 32 = 0

/-- Node i as the recurrences give it. -/
def recurrenceNode (r : Row) (anc depth : Nat → Nat) (i : Nat) : Node := ⟨anc i, depth i, treeParent r i⟩

theorem treeNodes_succ (r : Row) (n : Nat) :
    treeNodes r (n + 1) = treeNodes r n ++ [nodeStep (treeNodes r n) n (Row.word64 r n)] := by
  simp [treeNodes, List.range_succ]

/-- An entry below node p that is not broken takes p's mask with its own bit, and the next depth. -/
theorem nodeStep_child (ns : List Node) (i : Nat) (e : BitVec 64) (x : Node) (hi : i ≠ 0) (hp : bits e 63 56 < i)
    (hr : bits e 55 32 = 0) (hx : ns[bits e 63 56]? = some x) (hd : x.depth < 15) :
    nodeStep ns i e = ⟨x.anc ||| 2 ^ i, x.depth + 1, bits e 63 56⟩ := by
  simp [nodeStep, hi, hr, hx, Nat.not_le.2 hp, Nat.not_le.2 hd]

section
variable {r : Row} {n : Nat} {anc depth : Nat → Nat}

/-- After the nodes before it, entry i of a valid tree is the node of the recurrences. -/
theorem ValidTree.nodeStep_eq (h : ValidTree r n anc depth) (i : Nat) (hi : i < n) :
    nodeStep ((List.range i).map (recurrenceNode r anc depth)) i (Row.word64 r i) = recurrenceNode r anc depth i := by
  cases i with
  | zero => simp [nodeStep, recurrenceNode, h.ancRoot, h.depthRoot, h.parentRoot]
  | succ j =>
    have hpos : 1 ≤ j + 1 := Nat.le_add_left ..
    have hlt := h.parent_lt _ hpos hi
    have hdepth := h.depth_eq _ hpos hi
    have hle := h.depth_le _ hi
    have hparent : ((List.range (j + 1)).map (recurrenceNode r anc depth))[treeParent r (j + 1)]?
        = some (recurrenceNode r anc depth (treeParent r (j + 1))) := by
      simp [List.getElem?_map, List.getElem?_range hlt]
    rw [nodeStep_child _ _ _ _ (Nat.succ_ne_zero j) hlt (h.reserved _ hi) hparent (by simp only [recurrenceNode]; omega),
      ← Nat.one_shiftLeft]
    simp only [recurrenceNode, h.anc_eq _ hpos hi, hdepth]
    rfl

theorem ValidTree.treeNodes_eq (h : ValidTree r n anc depth) : ∀ m, m ≤ n →
    treeNodes r m = (List.range m).map (recurrenceNode r anc depth)
  | 0, _ => rfl
  | m + 1, hm => by
    rw [treeNodes_succ, h.treeNodes_eq m (Nat.le_of_succ_le hm), h.nodeStep_eq m hm, List.range_succ, List.map_append]
    rfl

end

/-! ## The rows that TMASK writes -/

/-- The row of masks of some nodes. -/
def maskRow (ns : List Node) : Row := rowOfWords64 (ns.map (·.anc))
/-- The row of their depths and parents. -/
def depthRow (ns : List Node) : Row := rowOfWords64 (ns.map (fun q => q.depth ||| q.parent <<< 8))

/-- Word i of a row built from a word per number below n; zero from n on. -/
theorem word64_rowOfWords64_range (g : Nat → Nat) (n : Nat) (hn : n ≤ 64) (i : Nat) :
    Row.word64 (rowOfWords64 ((List.range n).map g)) i = if i < n then BitVec.ofNat 64 (g i) else 0 := by
  rw [word64_rowOfWords64 _ (by simpa using hn)]
  by_cases hi : i < n <;> simp [List.getD_eq_getElem?_getD, hi]

section
variable {r : Row} {n : Nat} {anc depth : Nat → Nat} (h : ValidTree r n anc depth) (hn : n ≤ 64) (i : Nat)
include h hn

theorem ValidTree.word_maskRow :
    Row.word64 (maskRow (treeNodes r n)) i = if i < n then BitVec.ofNat 64 (anc i) else 0 := by
  rw [maskRow, h.treeNodes_eq n (Nat.le_refl n), List.map_map, word64_rowOfWords64_range _ n hn]
  rfl

theorem ValidTree.word_depthRow :
    Row.word64 (depthRow (treeNodes r n)) i
      = if i < n then BitVec.ofNat 64 (treeParent r i * 256 + depth i) else 0 := by
  rw [depthRow, h.treeNodes_eq n (Nat.le_refl n), List.map_map, word64_rowOfWords64_range _ n hn]
  refine ite_congr rfl (fun hi => ?_) (fun _ => rfl)
  have hd : depth i < 2 ^ 8 := Nat.lt_of_le_of_lt (h.depth_le i hi) (by decide)
  simp only [Function.comp_apply, recurrenceNode]
  rw [Nat.or_comm, ← Nat.shiftLeft_add_eq_or_of_lt hd, Nat.shiftLeft_eq]

end

/-! ## The command -/

@[simp] theorem readBench_base (c : CoreId) (r src : Nat) (s : State) (e : CoreId) :
    ((readBench c r src s).2.core e).base = (s.core e).base := by
  obtain ⟨l, h⟩ := readBench_core c r src s e
  rw [h]

theorem taskRow_completeWith (c : CoreId) (s : State) (r : Nat) :
    taskRow (completeWith c (s.core c) s) c r = taskRow s c r := by
  simp [taskRow, completeWith]

/-- The rows of masks and of depths stored one after the other. -/
def storeTree (c : CoreId) (row : Nat) (ns : List Node) (p : Bool) (s : State) : State :=
  taskWrite c (row + 1) (depthRow ns) p (taskWrite c row (maskRow ns) p s)

theorem storeTree_masks (c : CoreId) (row : Nat) (ns : List Node) (p : Bool) (s : State) :
    Memory.row (benchAddr c row) (storeTree c row ns p s).mem = maskRow ns := by
  rw [storeTree, taskWrite_row_other _ _ _ _ _ _ (Nat.ne_of_lt (Nat.lt_succ_self row)), taskWrite_row_same]

theorem storeTree_depths (c : CoreId) (row : Nat) (ns : List Node) (p : Bool) (s : State) :
    Memory.row (benchAddr c (row + 1)) (storeTree c row ns p s).mem = depthRow ns := taskWrite_row_same ..

/-- What a TMASK does before it completes: it reads row A and stores the rows of its nodes from row D on. -/
def tmaskEffect (c : CoreId) (f : Fields) (s : State) : State :=
  let x := s.core c
  let v := readBench c (x.phys (x.rd f.a.toNat).toNat) 1 (s.setCore c (x.taint (x.rdP f.d.toNat || x.rdP f.a.toNat)))
  storeTree c (x.phys (x.rd f.d.toNat).toNat) (treeNodes v.1.1 f.imm.toNat) v.1.2 v.2

theorem tmaskEffect_base (c : CoreId) (f : Fields) (s : State) :
    ((tmaskEffect c f s).core c).base = (s.core c).base := by
  simp [tmaskEffect, storeTree]

section
variable (c : CoreId) (f : Fields) (s : State)

theorem tmaskEffect_masks : taskRow (tmaskEffect c f s) c ((s.core c).rd f.d.toNat).toNat
    = maskRow (treeNodes (taskRow s c ((s.core c).rd f.a.toNat).toNat) f.imm.toNat) := by
  rw [taskRow, tmaskEffect_base]
  refine (storeTree_masks ..).trans ?_
  rw [readBench_data]
  rfl

theorem tmaskEffect_depths : taskRow (tmaskEffect c f s) c (((s.core c).rd f.d.toNat).toNat + 1)
    = depthRow (treeNodes (taskRow s c ((s.core c).rd f.a.toNat).toNat) f.imm.toNat) := by
  rw [taskRow, tmaskEffect_base]
  refine (storeTree_depths ..).trans ?_
  rw [readBench_data]
  rfl

/-- A TMASK that starts on a courser, with operands in range, has its effect and completes. -/
theorem exec_tmask_completes (hs : Starts (.tmask c f) s) (hc : coreCourser c = true)
    (hf : Form.ok ⟨5, 5, 0, 1, 0, 7⟩ f = true) (h1 : 1 ≤ f.imm.toNat) (h64 : f.imm.toNat ≤ 64)
    (hd : (s.core c).rowsIn ((s.core c).rd f.d.toNat).toNat 2 = true)
    (ha : (s.core c).rowsIn ((s.core c).rd f.a.toNat).toNat 1 = true) :
    exec (.tmask c f) s = .next (completeWith c ((tmaskEffect c f s).core c) (tmaskEffect c f s)) := by
  obtain ⟨⟨hi, hq, hb⟩, -⟩ := hs
  exact issue_scalar c Op.tmask f _ _ s hi hq hb rfl (by simp [hf, h1, h64, hc, hd, ha])

end

/-- Settles O15: the nodes of a valid tree are those of the recurrences. -/
theorem treeMasksFollowTheRecurrence : Obligations.TreeMasksFollowTheRecurrence := by
  intro c f anc depth s hs hc
  dsimp only
  intro hf h1 h64 hd ha hanc hdepth hrec hroot hlt hle hres
  have tree : ValidTree (taskRow s c ((s.core c).rd f.a.toNat).toNat) f.imm.toNat anc depth :=
    ⟨hanc, hdepth, hroot, fun i hi hn => (hrec i hi hn).1, fun i hi hn => (hrec i hi hn).2, hlt, hle, hres⟩
  refine ⟨_, exec_tmask_completes c f s hs hc hf h1 h64 hd ha, fun i hi => ?_, fun i hi _ => ?_⟩ <;>
    rw [taskRow_completeWith, taskRow_completeWith, tmaskEffect_masks, tmaskEffect_depths, tree.word_maskRow h64,
      tree.word_depthRow h64]
  · simp [hi, treeParent]
  · simp [Nat.not_lt.2 hi]

end Sys2Proof.Machine
end

section
/-! PROOFS. A step refused at open: what giving back its requests' allocations and finishing its descriptors change, and when
hash routing refuses it (R235, R242, R258). -/

namespace Sys2Proof.Machine

/-- What holds between a state and itself, carries on and holds over each step holds over a fold. -/
theorem foldl_related {σ α : Type} {R : σ → σ → Prop} (refl : ∀ s, R s s) (trans : ∀ {s t u}, R s t → R t u → R s u)
    (f : σ → α → σ) (step : ∀ s x, R s (f s x)) : ∀ (l : List α) (s : σ), R s (l.foldl f s)
  | [], s => refl s
  | x :: l, s => trans (step s x) (foldl_related refl trans f step l (f s x))

/-! ## What giving back allocations changes -/

/-- Nothing but the allocations, the grants and the moves of the device, with their transfers, differs. -/
def OnlyPools (s t : State) : Prop :=
  t = { s with moves := t.moves, transfers := t.transfers, granted := t.granted, dur := { s.dur with allocs := t.dur.allocs } }

theorem OnlyPools.refl (s : State) : OnlyPools s s := rfl

theorem OnlyPools.trans {s t u : State} (h : OnlyPools s t) (g : OnlyPools t u) : OnlyPools s u := by
  unfold OnlyPools at *
  rw [g, h]

theorem dropAlloc_onlyPools (kd : AllocKind) (s : State) : OnlyPools s (dropAlloc kd s) := by
  have moves : OnlyPools s (dropMoves (fun m => m.kind = kd) s) :=
    foldl_related .refl .trans (fun t m => dropMove m t) (fun _ _ => rfl) _ s
  exact moves.trans rfl

theorem trimList_onlyPools (i : SlotId) (s : State) : OnlyPools s (trimList i s) := rfl

theorem giveBack_onlyPools (r : Req) (s : State) : OnlyPools s (giveBack r s) := by
  have groups := foldl_related .refl .trans (fun t g => dropAlloc (.group g) t)
    (fun t g => dropAlloc_onlyPools (.group g) t) r.groups s
  rw [giveBack]
  split
  · exact (groups.trans (dropAlloc_onlyPools ..)).trans (trimList_onlyPools ..)
  · exact groups.trans (trimList_onlyPools ..)

/-! ## What finishing descriptors changes -/

theorem OnlyRings.refl (s : State) : OnlyRings s s := rfl

theorem OnlyRings.trans {s t u : State} (h : OnlyRings s t) (g : OnlyRings t u) : OnlyRings s u := by
  unfold OnlyRings at *
  rw [g, h]

theorem entryOf_setEntry (r : RingId) (p q : BitVec 32) (x : EntryState) (s : State) :
    entryOf (setEntry r p x s) r q = (entryOf s r q).map (fun e => if q = p then { e with state := x } else e) := by
  have same : (fun e : Entry => decide (e.pos = q)) ∘ (fun e => if e.pos = p then { e with state := x } else e)
      = fun e => decide (e.pos = q) := by
    funext e
    by_cases h : e.pos = p <;> simp [h]
  rw [entryOf, setEntry, State.setRing_ringOf, List.find?_map, same, entryOf]
  refine Option.map_congr fun e he => ?_
  have hq : e.pos = q := by simpa using List.find?_some he
  rw [hq]

/-- The descriptors at some positions of a ring finish with one status and no detail. -/
def finishEach (r : RingId) (ps : List (BitVec 32)) (status : BitVec 8) (n : BitVec 48) (s : State) : State :=
  ps.foldl (fun t p => finishAt r p status 0 0 n t) s

theorem finishEach_onlyRings (r : RingId) (ps : List (BitVec 32)) (status : BitVec 8) (n : BitVec 48) (s : State) :
    OnlyRings s (finishEach r ps status n s) :=
  foldl_related OnlyRings.refl OnlyRings.trans (fun t p => finishAt r p status 0 0 n t) (fun _ _ => rfl) ps s

theorem entryOf_finishEach (r : RingId) (q : BitVec 32) (status : BitVec 8) (n : BitVec 48) :
    ∀ (ps : List (BitVec 32)) (s : State), entryOf (finishEach r ps status n s) r q
      = (entryOf s r q).map (fun e => if q ∈ ps then { e with state := .done status 0 0 n } else e)
  | [], s => by simp [finishEach]
  | p :: ps, s => by
    have step : finishEach r (p :: ps) status n s = finishEach r ps status n (finishAt r p status 0 0 n s) := rfl
    rw [step, entryOf_finishEach r q status n ps, finishAt, entryOf_setEntry, Option.map_map]
    congr 1
    funext e
    by_cases hp : q = p <;> by_cases hm : q ∈ ps <;> simp [hp, hm]

/-! ## A refusal -/

/-- The step has left the ready list and its requests' allocations are back in their pools. -/
def withdrawStep (k : CoupeId) (st : Step) (s : State) : State :=
  st.reqs.foldl (fun t r => giveBack r t) (dropReady k st s)

theorem withdrawStep_onlyPools (k : CoupeId) (st : Step) (s : State) :
    OnlyPools (dropReady k st s) (withdrawStep k st s) :=
  foldl_related .refl .trans _ (fun t r => giveBack_onlyPools r t) st.reqs _

/-- Without a cancelled request, the STEP and every request finish with the refusal's status. -/
theorem refuseStep_eq (k : CoupeId) (st : Step) (status : BitVec 8) (s : State)
    (h : ∀ r ∈ st.reqs, r.status ≠ some Status.cancelled) :
    refuseStep k st status s
      = finishEach st.ring (st.pos :: st.reqs.map (·.pos)) status ((s.coupe k).stepctr + 1) (withdrawStep k st s) := by
  rw [finishEach, List.foldl_cons, List.foldl_map]
  exact List.foldl_rel rfl fun r hr t u htu => by rw [if_neg (h r hr), htu]

/-- A refusal changes no sequence, coupe, byte of memory or core, and opens no step. -/
theorem refuseStep_frame (k : CoupeId) (st : Step) (status : BitVec 8) (s : State)
    (h : ∀ r ∈ st.reqs, r.status ≠ some Status.cancelled) :
    let t := refuseStep k st status s
    (∀ i, t.seq i = s.seq i) ∧ t.coupe k = s.coupe k ∧ t.mem = s.mem ∧ t.cores = s.cores
      ∧ (t.run k).openStep = (s.run k).openStep := by
  intro t
  have rings : OnlyRings (withdrawStep k st s) t := by
    simp only [t, refuseStep_eq k st status s h]
    exact finishEach_onlyRings ..
  have waiting : ((dropReady k st s).run k).openStep = (s.run k).openStep := by simp [dropReady]
  rw [rings, withdrawStep_onlyPools k st s]
  exact ⟨fun _ => rfl, rfl, rfl, rfl, waiting⟩

/-- A refusal finishes the STEP and every request with its status. -/
theorem refuseStep_entry (k : CoupeId) (st : Step) (status : BitVec 8) (s : State)
    (h : ∀ r ∈ st.reqs, r.status ≠ some Status.cancelled) (p : BitVec 32) (hp : p ∈ st.pos :: st.reqs.map (·.pos))
    (e : Entry) (he : entryOf s st.ring p = some e) :
    (entryOf (refuseStep k st status s) st.ring p).map (·.state)
      = some (.done status 0 0 ((s.coupe k).stepctr + 1)) := by
  have accepted : entryOf (withdrawStep k st s) st.ring p = some e := by
    rw [← he, withdrawStep_onlyPools k st s]; rfl
  rw [refuseStep_eq k st status s h, entryOf_finishEach, accepted]
  simp [hp]

/-! ## Hash routing that names an expert that is not VALID -/

theorem openStep_hashRouting_refuses (k : CoupeId) (cfg : Config) (st : Step) (src : HostRead) (s : State)
    (hb : chooseBucket cfg (StepD.stage st.w) (StepD.shapes st.w) ≠ .refused) (hr : StepD.route st.w = 0)
    (he : cfg.experts = true)
    (hbad : routingBad ((s.coupe k).nextMap.getD (s.coupe k).map)
      (hashRouting cfg ((s.coupe k).nextMap.getD (s.coupe k).map) (checkReqs s cfg st)) = true) :
    openStep k cfg st src s = refuseStep k st Status.doesNotFit s := by
  unfold openStep
  split
  next h => exact absurd h hb
  next => simp [he, hr, hbad]

theorem exec_stepOpen_opens (k : CoupeId) (src : HostRead) (cfg : Config) (st : Step) (s : State)
    (hb : bindingOf s k = some cfg) (ho : coupeMayOpen s k = true)
    (hf : firstStep ((s.run k).ready.filter (stepMayOpen s k cfg)) = some st) :
    exec (.stepOpen k src) s = .next (openStep k cfg st src s) := by
  simp [exec_stepOpen, execStepOpen, hb, ho, hf]

theorem coupeMayOpen_openStep (s : State) (k : CoupeId) (h : coupeMayOpen s k = true) : (s.run k).openStep = none := by
  cases hs : (s.run k).openStep with
  | none => rfl
  | some st => simp [coupeMayOpen, hs] at h

/-- Settles O42: such a step is refused, and the frame of a refusal says the rest. -/
theorem hashRoutingRefusesAMissingExpert : Obligations.HashRoutingRefusesAMissingExpert := by
  rintro k src cfg st m s hb ho hf hc hr he rfl hn ⟨x, hx, n, hn', hv⟩
  have bad : routingBad ((s.coupe k).nextMap.getD (s.coupe k).map)
      (hashRouting cfg ((s.coupe k).nextMap.getD (s.coupe k).map) (checkReqs s cfg st)) = true :=
    List.any_eq_true.2 ⟨x, hx, List.any_eq_true.2 ⟨n, hn', by simp [hv]⟩⟩
  obtain ⟨seqs, coupe, mem, cores, opened⟩ := refuseStep_frame k st Status.doesNotFit s hn
  refine ⟨refuseStep k st Status.doesNotFit s, ?_, seqs, coupe, mem, cores, ?_, ?_⟩
  · rw [exec_stepOpen_opens k src cfg st s hb ho hf, openStep_hashRouting_refuses k cfg st src s hc hr he bad]
  · rw [opened, coupeMayOpen_openStep s k ho]
  · exact refuseStep_entry k st Status.doesNotFit s hn

end Sys2Proof.Machine
end

section
/-! PROOFS. A FENCE on its ring: what its conditions name, what finishing and holding it change, and which descriptors it
holds back (R301, R303). -/

namespace Sys2Proof.Machine

/-! ## The conditions of a FENCE -/

/-- RING of condition `j` of a FENCE. -/
def condRing (w : BitVec 512) (j : Nat) : RingId := BitVec.ofNat 15 (bits w (510 - 48 * j) (496 - 48 * j))

/-- COUNT of condition `j` of a FENCE. -/
def condCount (w : BitVec 512) (j : Nat) : BitVec 32 := BitVec.ofNat 32 (bits w (495 - 48 * j) (464 - 48 * j))

/-- The conditions of a FENCE are those of its four that are VALID. -/
theorem mem_fenceConds (w : BitVec 512) (c : RingId × BitVec 32) :
    c ∈ fenceConds w ↔ ∃ j, j < 4 ∧ bit w (511 - 48 * j) = true ∧ c = (condRing w j, condCount w j) := by
  rw [fenceConds, List.mem_filterMap]
  refine exists_congr fun j => ?_
  rw [List.mem_range]
  refine and_congr_right fun hj => ?_
  have valid : 464 - 48 * j + 47 = 511 - 48 * j := by omega
  have ringHi : 464 - 48 * j + 46 = 510 - 48 * j := by omega
  have ringLo : 464 - 48 * j + 32 = 496 - 48 * j := by omega
  have countHi : 464 - 48 * j + 31 = 495 - 48 * j := by omega
  simp only [valid, ringHi, ringLo, countHi, condRing, condCount]
  by_cases h : bit w (511 - 48 * j) = true
  · rw [if_pos h, Option.some_inj, and_iff_right h, eq_comm]
  · rw [if_neg h, iff_false_left nofun]
    exact fun valid => h valid.1

theorem ringFunc_eq_iff (s : State) (a b : RingId) :
    ringFunc s a = ringFunc s b ↔ RingE.func (s.ringOf a).entry = RingE.func (s.ringOf b).entry := by
  have small (r : RingId) : bits (s.ringOf r).entry 288 286 % 2 ^ 3 = bits (s.ringOf r).entry 288 286 :=
    Nat.mod_eq_of_lt (Nat.mod_lt _ (by decide))
  simp only [ringFunc, RingE.func, ← BitVec.toNat_inj, BitVec.toNat_ofNat, small]

theorem fenceBad_iff (s : State) (q : Desc) (c : RingId × BitVec 32) :
    fenceBad s q c = true ↔ (s.ringOf c.1).state = .disabled
      ∨ RingE.func (s.ringOf c.1).entry ≠ RingE.func (s.ringOf q.ring).entry ∨ c.1 = q.ring := by
  simp [fenceBad, ringFunc_eq_iff, or_assoc]

/-- Some VALID condition names a disabled ring, a ring of another function or the FENCE's own ring. -/
def FenceRefused (s : State) (q : Desc) : Prop :=
  ∃ j, j < 4 ∧ bit q.w (511 - 48 * j) = true ∧ ((s.ringOf (condRing q.w j)).state = .disabled
    ∨ RingE.func (s.ringOf (condRing q.w j)).entry ≠ RingE.func (s.ringOf q.ring).entry ∨ condRing q.w j = q.ring)

/-- Every VALID condition's ring has reached its COUNT modulo 2^32. -/
def FenceReached (s : State) (q : Desc) : Prop :=
  ∀ j, j < 4 → bit q.w (511 - 48 * j) = true →
    ((s.ringOf (condRing q.w j)).back - condCount q.w j).toNat < 2 ^ 31

theorem any_fenceBad_iff (s : State) (q : Desc) : (fenceConds q.w).any (fenceBad s q) = true ↔ FenceRefused s q := by
  simp only [List.any_eq_true, mem_fenceConds, fenceBad_iff, FenceRefused]
  constructor
  · rintro ⟨_, ⟨j, hj, valid, rfl⟩, bad⟩
    exact ⟨j, hj, valid, bad⟩
  · rintro ⟨j, hj, valid, bad⟩
    exact ⟨_, ⟨j, hj, valid, rfl⟩, bad⟩

theorem all_fenceReached_iff (s : State) (q : Desc) : (fenceConds q.w).all (fenceReached s) = true ↔ FenceReached s q := by
  simp only [List.all_eq_true, mem_fenceConds, fenceReached, decide_eq_true_eq, FenceReached]
  constructor
  · exact fun reached j hj valid => reached _ ⟨j, hj, valid, rfl⟩
  · rintro reached _ ⟨j, hj, valid, rfl⟩
    exact reached j hj valid

/-! ## What a FENCE does when it starts -/

theorem starts_of_canStart {op : Nat} {q : Desc} {s : State} (body : State → State) (hc : canStart s q = true)
    (ho : Hdr.opcode q.w = op) : starts op q body s = .next (body s) := by
  simp [starts, hc, ho]

section
variable {q : Desc} {s : State} (hc : canStart s q = true) (ho : Hdr.opcode q.w = opFence)
include hc ho

theorem exec_fence_refused (bad : FenceRefused s q) : exec (.fence q) s = .next (finish q Status.badDescriptor s) := by
  rw [exec_fence, execFence, starts_of_canStart _ hc ho]
  rw [if_pos ((any_fenceBad_iff s q).2 bad)]

theorem exec_fence_reached (bad : ¬FenceRefused s q) (reached : FenceReached s q) :
    exec (.fence q) s = .next (finish q Status.ok s) := by
  rw [exec_fence, execFence, starts_of_canStart _ hc ho]
  rw [if_neg (mt (any_fenceBad_iff s q).1 bad), if_pos ((all_fenceReached_iff s q).2 reached)]

theorem exec_fence_held (bad : ¬FenceRefused s q) (reached : ¬FenceReached s q) :
    exec (.fence q) s = .next (holdSince q s) := by
  rw [exec_fence, execFence, starts_of_canStart _ hc ho]
  rw [if_neg (mt (any_fenceBad_iff s q).1 bad), if_neg (mt (all_fenceReached_iff s q).1 reached)]

end

/-! ## What a held FENCE does when its limit is looked at -/

section
variable {q : Desc} {s : State} {e : Entry} (he : entryOf s q.ring q.pos = some e)
include he

theorem exec_fenceExpired_passed (hw : e.w = q.w) (ho : Hdr.opcode q.w = opFence) (held : e.state = .held)
    (wait : Hdr.wait q.w = true) (passed : e.since.toNat + Hdr.waitTicks q.w ≤ s.timebase.toNat) :
    exec (.fenceExpired q) s = .next (finish q Status.fenceExpired s) := by
  simp [exec_fenceExpired, execFenceExpired, he, hw, ho, held, wait, passed]

theorem exec_fenceExpired_waits
    (waits : Hdr.wait q.w = false ∨ s.timebase.toNat < e.since.toNat + Hdr.waitTicks q.w) :
    exec (.fenceExpired q) s = .next s := by
  rw [exec_fenceExpired, execFenceExpired, he]
  rcases waits with wait | early
  · simp [wait]
  · simp [Nat.not_le.2 early]

end

/-! ## What finishing and holding a descriptor change -/

theorem find?_pos_map {f : Entry → Entry} (hf : ∀ e, (f e).pos = e.pos) (l : List Entry) (p : BitVec 32) :
    (l.map f).find? (fun e => e.pos = p) = (l.find? (fun e => e.pos = p)).map f := by
  have same : (fun e : Entry => decide (e.pos = p)) ∘ f = fun e => decide (e.pos = p) := by
    funext e
    rw [Function.comp_apply, hf]
  rw [List.find?_map, same]

theorem finish_endsWith {q : Desc} {s : State} {e : Entry} (he : entryOf s q.ring q.pos = some e) (status : BitVec 8) :
    EndsWith q status (finish q status s) := by
  simp [EndsWith, finish, finishAt, entryOf_setEntry, he]

/-- Every accepted descriptor at the position has finished. -/
theorem finish_isDone (q : Desc) (status : BitVec 8) (s : State) :
    ∀ x ∈ ((finish q status s).ringOf q.ring).accepted, x.pos = q.pos → x.state.isDone = true := by
  rw [finish, finishAt, setEntry, State.setRing_ringOf]
  intro x hx hpos
  obtain ⟨e, -, rfl⟩ := List.mem_map.1 hx
  split at hpos
  next h => rw [if_pos h]; rfl
  next h => exact absurd hpos h

/-- A command that finishes the descriptor ends it with that status, and changes nothing else. -/
theorem ends_of_finish {i : Instr} {q : Desc} {s : State} {e : Entry} {status : BitVec 8}
    (he : entryOf s q.ring q.pos = some e) (hx : exec i s = .next (finish q status s)) :
    ∃ t, exec i s = .next t ∧ OnlyRings s t ∧ EndsWith q status t
      ∧ ∀ x ∈ (t.ringOf q.ring).accepted, x.pos = q.pos → x.state.isDone = true :=
  ⟨_, hx, rfl, finish_endsWith he status, finish_isDone q status s⟩

theorem holdSince_entryIs {q : Desc} {s : State} {e : Entry} (he : entryOf s q.ring q.pos = some e) :
    EntryIs q .held (holdSince q s) := by
  have hpos : e.pos = q.pos := by simpa using List.find?_some he
  rw [entryOf] at he
  rw [EntryIs, entryOf, holdSince, State.setRing_ringOf, find?_pos_map (fun e => by split <;> rfl), he]
  simp [hpos]

/-! ## Which descriptors a FENCE holds back -/

/-- A descriptor that has not started and stands behind a FENCE that is not done may not start (R301, R303). -/
theorem canStart_behind_fence {s : State} {r : RingId} {e x : Entry} {before after : List Entry}
    (hs : (s.ringOf r).accepted = before ++ x :: after) (he : e ∈ before) (first : ∀ y ∈ before, y.pos ≠ x.pos)
    (ho : Hdr.opcode e.w = opFence) (hd : e.state.isDone = false) (hq : x.state ≠ .queued) :
    canStart s ⟨r, x.pos, x.w⟩ = false := by
  have found : (before ++ x :: after).find? (fun y => decide (y.pos = x.pos)) = some x :=
    List.find?_eq_some_iff_append.2 ⟨by simp, before, after, rfl, by simpa using first⟩
  have ahead : (before ++ x :: after).takeWhile (fun y => decide (y.pos ≠ x.pos)) = before := by
    rw [List.takeWhile_append_of_pos (by simpa using first)]
    simp
  have closed : before.all (fun y => !y.state.unstarted && !(Hdr.opcode y.w = opFence && !y.state.isDone)) = false :=
    List.all_eq_false.2 ⟨e, he, by simp [ho, hd]⟩
  simp only [canStart, hs, found, ahead, closed, hq]
  simp

/-- Settles O40: a FENCE that starts is refused, finished or held as its conditions stand, a held one expires by its limit,
and one that is not done keeps those behind it from starting. -/
theorem fencesHoldTheirRing : Obligations.FencesHoldTheirRing := by
  intro q e s he hw ho
  refine ⟨fun hc => ⟨fun bad => ?_, fun bad reached => ?_, fun bad reached => ?_⟩, fun hd l x r hs hl first hq => ?_,
    fun held wait passed => ?_, fun _ waits => ?_⟩
  · exact ends_of_finish he (exec_fence_refused hc ho bad)
  · exact ends_of_finish he (exec_fence_reached hc ho bad reached)
  · exact ⟨_, exec_fence_held hc ho bad reached, rfl, holdSince_entryIs he⟩
  · exact canStart_behind_fence hs hl first (hw ▸ ho) hd hq
  · exact ends_of_finish he (exec_fenceExpired_passed he hw ho held wait passed)
  · exact exec_fenceExpired_waits he waits

end Sys2Proof.Machine
end

section
/-! PROOFS. What every operation outside supply, rails and cold reset leaves alone: the commands that wait, the rails,
PWR_FLT_N and the count of cold resets. -/

namespace Sys2Proof.Machine

/-- The fields that only the commands of supply, rails and cold reset write (R384–R389, R394), and the queue, which no
command writes. It takes a state apart, so that its equation reads a state that is written out and does not unfold on a
variable. -/
def still : State → List Instr × Sparse RailUnit × Bool × BitVec 32
  | { pending, rails, power, .. } => (pending, rails, power.pwrFlt, power.colds)

@[simp] theorem still_mk : type_of% @still.eq_1 := @still.eq_1

@[simp] theorem still_fields (s : State) : (s.pending, s.rails, s.power.pwrFlt, s.power.colds) = still s := rfl

theorem still_iff {s t : State} : still t = still s ↔
    t.pending = s.pending ∧ t.rails = s.rails ∧ t.power.pwrFlt = s.power.pwrFlt ∧ t.power.colds = s.power.colds := by
  rw [← still_fields, ← still_fields]
  simp only [Prod.mk.injEq]

theorem still_withPower {s t : State} {p : Power} (h : still t = still s) (flt : p.pwrFlt = s.power.pwrFlt)
    (colds : p.colds = s.power.colds) : still { t with power := p } = still s := by
  obtain ⟨pending, rails, -, -⟩ := still_iff.1 h
  exact still_iff.2 ⟨pending, rails, flt, colds⟩

/-- The command leaves those fields as they are. -/
def Still (o : Out) (s : State) : Prop := ∀ t, o = .next t → still t = still s

@[simp] theorem still_next (s t : State) : Still (.next t) s ↔ still t = still s := by simp [Still]
@[simp] theorem still_fault (e : Fault) (s : State) : Still (.fault e) s := by simp [Still]
@[simp] theorem still_refused (e : Refusal) (s : State) : Still (.refused e) s := by simp [Still]

/-! ## Branches, folds and pairs -/

@[simp] theorem still_ite (c : Prop) [Decidable c] (a b : State) :
    still (if c then a else b) = if c then still a else still b := apply_ite still c a b

@[simp] theorem Still_ite (c : Prop) [Decidable c] (a b : Out) (s : State) :
    Still (if c then a else b) s ↔ if c then Still a s else Still b s := by split <;> rfl

@[simp] theorem snd_ite {α β : Type} (c : Prop) [Decidable c] (a b : α × β) :
    (if c then a else b).2 = if c then a.2 else b.2 := apply_ite Prod.snd c a b

@[simp] theorem foldl_still {α : Type} {f : State → α → State} (h : ∀ t x, still (f t x) = still t) (l : List α)
    (s : State) : still (l.foldl f s) = still s := by
  induction l generalizing s with
  | nil => rfl
  | cons x l ih => rw [List.foldl_cons, ih, h]

theorem still_of_pair {α : Type} {p : α × State} {a s t} (h : still p.2 = still s) (e : p = (a, t)) :
    still t = still s := by
  rw [e] at h; exact h

/-! ## Operations of Machine/Ops -/

@[simp] theorem State.setCore_still (s c x) : still (State.setCore s c x) = still s := by simp [State.setCore]
@[simp] theorem State.setSlot_still (s c x) : still (State.setSlot s c x) = still s := by simp [State.setSlot]
@[simp] theorem State.setStand_still (s g x) : still (State.setStand s g x) = still s := by simp [State.setStand]
@[simp] theorem State.setSector_still (s i x) : still (State.setSector s i x) = still s := by simp [State.setSector]
@[simp] theorem State.setStack_still (s i x) : still (State.setStack s i x) = still s := by simp [State.setStack]
@[simp] theorem State.setChannel_still (s i x) : still (State.setChannel s i x) = still s := by simp [State.setChannel]
@[simp] theorem State.setCoupe_still (s k x) : still (State.setCoupe s k x) = still s := by simp [State.setCoupe]
@[simp] theorem State.setRun_still (s k x) : still (State.setRun s k x) = still s := by simp [State.setRun]
@[simp] theorem State.setSeq_still (s i x) : still (State.setSeq s i x) = still s := by simp [State.setSeq]
@[simp] theorem State.setGroup_still (s i x) : still (State.setGroup s i x) = still s := by simp [State.setGroup]
@[simp] theorem State.setImage_still (s h x) : still (State.setImage s h x) = still s := by simp [State.setImage]
@[simp] theorem State.setRing_still (s r x) : still (State.setRing s r x) = still s := by simp [State.setRing]
@[simp] theorem State.setLink_still (s l x) : still (State.setLink s l x) = still s := by simp [State.setLink]
@[simp] theorem State.setEth_still (s p x) : still (State.setEth s p x) = still s := by simp [State.setEth]
@[simp] theorem State.setQueue_still (s k h q) : still (State.setQueue s k h q) = still s := by simp [State.setQueue]
@[simp] theorem drawFree_still (s) : still (drawFree s).2 = still s := by simp [drawFree]
@[simp] theorem progress_still (s c) : still (progress s c) = still s := by
  fun_cases progress s c <;> simp [*]

@[simp] theorem raise_still (f kind record value stepno ring k c s) :
    still (raise f kind record value stepno ring k c s) = still s := by simp [raise]

@[simp] theorem raise0_still (kind value s) : still (raise0 kind value s) = still s := by simp [raise0]
@[simp] theorem raiseCore_still (kind record value c s) : still (raiseCore kind record value c s) = still s := by
  fun_cases raiseCore kind record value c s <;> simp [*]

@[simp] theorem raiseTask_still (kind record c s) : still (raiseTask kind record c s) = still s := by
  fun_cases raiseTask kind record c s <;> simp [*]

@[simp] theorem setDevice_still (d s) : still (setDevice d s) = still s := by simp [setDevice]
@[simp] theorem maybeReady_still (s) : still (maybeReady s) = still s := by simp [maybeReady]
@[simp] theorem settleRb_still (s) : still (settleRb s) = still s := by simp [settleRb]
@[simp] theorem raiseIsolation_still (kind src dst c s) :
    still (raiseIsolation kind src dst c s) = still s := by simp [raiseIsolation]

@[simp] theorem readBench_still (c r src s) : still (readBench c r src s).2 = still s := by
  fun_cases readBench c r src s <;> simp [*]

@[simp] theorem writeBench_still (c r data poison s) :
    still (writeBench c r data poison s) = still s := by simp [writeBench]

@[simp] theorem taskWrite_still (c r data poison s) :
    still (taskWrite c r data poison s) = still s := by simp [taskWrite]

@[simp] theorem readBenchRows_still (c src) : ∀ l s, still (readBenchRows c src l s).2 = still s
  | [], _ => rfl
  | r :: rs, s => by simp [readBenchRows, readBenchRows_still c src rs]

@[simp] theorem logTier_still (a kind symbol s) : still (logTier a kind symbol s) = still s := by simp [logTier]
@[simp] theorem foundBad_still (a s) : still (foundBad a s) = still s := by
  simp only [foundBad]
  split
  · simp
  · split <;> simp

@[simp] theorem readGranule_still (a s) : still (readGranule a s).2 = still s := by
  fun_cases readGranule a s <;> simp [*]

@[simp] theorem readGranules_still : ∀ l s, still (readGranules l s).2 = still s
  | [], _ => rfl
  | a :: as, s => by simp [readGranules, readGranules_still as]

@[simp] theorem readRowAt_still (a s) : still (readRowAt a s).2 = still s := by
  simp only [readRowAt]
  repeat' split
  all_goals simp [*]

@[simp] theorem setGranules_still (p) : ∀ l s, still (setGranules p l s) = still s
  | [], _ => rfl
  | a :: as, s => by simp [setGranules, setGranules_still p as]

@[simp] theorem writeRowAt_still (a data poison s) : still (writeRowAt a data poison s) = still s := by
  fun_cases writeRowAt a data poison s <;> simp [*]

@[simp] theorem mergeGranule_still (p m s) : still (mergeGranule p m s) = still s := by
  fun_cases mergeGranule p m s <;> simp [*]

@[simp] theorem writeBytesAt_still (a bs p s) : still (writeBytesAt a bs p s) = still s := by
  refine (foldl_still (fun t g => ?_) _ _).trans (by simp)
  split <;> simp

@[simp] theorem clearRange_still (lo n s) : still (clearRange lo n s) = still s := by simp [clearRange]
@[simp] theorem takeExc_still (c k s) : still (takeExc c k s) = still s := by simp [takeExc]
@[simp] theorem setEntry_still (r p st s) : still (setEntry r p st s) = still s := by simp [setEntry]
@[simp] theorem finishAt_still (r p status dkind detail stepno s) :
    still (finishAt r p status dkind detail stepno s) = still s := by simp [finishAt]

@[simp] theorem finish_still (q status s) : still (finish q status s) = still s := by simp [finish]
@[simp] theorem hold_still (q s) : still (hold q s) = still s := by simp [hold]
@[simp] theorem awaits_still (q s) : still (awaits q s) = still s := by simp [awaits]

/-! ## Operations of Machine/Operands -/

@[simp] theorem queueUp_still (c op f s) : still (queueUp c op f s) = still s := by simp [queueUp]
@[simp] theorem runNew_still (c op f body s) (h : ∀ t, still (body t) = still t) :
    still (runNew c op f body s) = still s := by
  simp [runNew, h]

@[simp] theorem runQueued_still (c e causes body s) (h : ∀ t, still (body t) = still t) :
    still (runQueued c e causes body s) = still s := by
  simp only [runQueued]
  split <;> simp [h]

@[simp] theorem waitFor_still (c e s) : still (waitFor c e s) = still s := by simp [waitFor]
@[simp] theorem issue_still (c op f causes body s) (h : ∀ t, still (body t) = still t) :
    Still (issue c op f causes body s) s := by
  fun_cases issue c op f causes body s <;> simp [h]

@[simp] theorem completeWith_still (c x s) : still (completeWith c x s) = still s := by simp [completeWith]
@[simp] theorem jumpWith_still (c x t s) : still (jumpWith c x t s) = still s := by simp [jumpWith]
@[simp] theorem stallWith_still (c x k h s) : still (stallWith c x k h s) = still s := by simp [stallWith]
@[simp] theorem pauseWith_still (c x s) : still (pauseWith c x s) = still s := by simp [pauseWith]

/-! ## Operations of Machine/Flags -/

@[simp] theorem rangeGuard_still (c tag vals s) : still (rangeGuard c tag vals s) = still s := by
  fun_cases rangeGuard c tag vals s <;> simp [*]

@[simp] theorem chargeConflict_still (owner bench cause row gap pc seq s) :
    still (chargeConflict owner bench cause row gap pc seq s) = still s := by simp [chargeConflict]

/-! ## Operations of Machine/Mesh -/

@[simp] theorem inject_still (s) : still (inject s) = still s := by simp [inject]
@[simp] theorem enterQueue_still (k h q it s) : still (enterQueue k h q it s) = still s := by simp [enterQueue]

/-! ## Operations of Machine/Net -/

@[simp] theorem transmit_still (l vc header p s) : still (transmit l vc header p s) = still s := by simp [transmit]
@[simp] theorem sendTo_still (dst odd header p s) : still (sendTo dst odd header p s) = still s := by
  fun_cases sendTo dst odd header p s <;> simp [*]

@[simp] theorem sendRouted_still (k dst odd header p s) : still (sendRouted k dst odd header p s) = still s := by
  fun_cases sendRouted k dst odd header p s <;> simp [*]

@[simp] theorem sendMember_still (k m ptype channel poison len ord p s) :
    still (sendMember k m ptype channel poison len ord p s) = still s := by
  fun_cases sendMember k m ptype channel poison len ord p s <;> simp [*]

@[simp] theorem sendAllMembers_still (k ptype len p s) :
    still (sendAllMembers k ptype len p s) = still s := by simp [sendAllMembers]

@[simp] theorem announceAll_still (s) : still (announceAll s) = still s := by simp [announceAll]
@[simp] theorem dueAnnounce_still (s) : still (dueAnnounce s) = still s := by simp [dueAnnounce]
@[simp] theorem creditPart_still (k h m s) : still (creditPart k h m s) = still s := by
  fun_cases creditPart k h m s <;> simp [*]

@[simp] theorem contribute_still (k h m ord data poison s) : still (contribute k h m ord data poison s) = still s := by
  simp only [contribute]
  repeat' split
  all_goals simp [*]

theorem sendItem_still {k h q it s t} (e : sendItem k h q it s = some t) : still t = still s := by
  simp only [sendItem] at e
  repeat' split at e
  all_goals cases e <;> simp

@[simp] theorem releaseItems_still (k h l s) : still (releaseItems k h l s).2 = still s := by
  fun_induction releaseItems k h l s with
  | case4 _ _ _ _ _ _ e ih => simp [ih, sendItem_still e]
  | _ => simp

@[simp] theorem releasePort_still (c p k h s) : still (releasePort c p k h s) = still s := by
  simp only [releasePort]
  repeat' split
  all_goals simp [*]

/-! ## Operations of Machine/Units -/

@[simp] theorem notePop_still (b s) : still (notePop b s) = still s := by
  fun_cases notePop b s <;> simp [*]

@[simp] theorem stallIn_still (c x b s) : still (stallIn c x b s) = still s := by
  simp only [stallIn]
  repeat' split
  all_goals simp [*]

@[simp] theorem stallOut_still (c x b s) : still (stallOut c x b s) = still s := by
  simp only [stallOut]
  repeat' split
  all_goals simp [*]

theorem portRoom_still {c p b s t} (e : portRoom c p b s = some t) : still t = still s := by
  simp only [portRoom] at e
  split at e <;> cases e
  simp

theorem pushItem_still {c p b it s t} (e : pushItem c p b it s = some t) : still t = still s := by
  simp only [pushItem] at e
  split at e
  · cases e
  · next h => cases e; simp [portRoom_still h]

@[simp] theorem quantise_still (c vals s) : still (quantise c vals s) = still s := by
  fun_cases quantise c vals s <;> simp [*]

@[simp] theorem emit_still (c final n s) : still (emit c final n s).2 = still s := by
  fun_induction emit c final n s with
  | case7 _ _ _ _ _ _ _ _ _ _ _ _ _ _ _ h ih => simp [ih, pushItem_still h]
  | _ => simp [*]

@[simp] theorem writeOut_still (c s) : still (writeOut c s).2 = still s := by
  simp only [writeOut]
  repeat' split
  all_goals simp [*]

@[simp] theorem stallWriteOut_still (c s) : still (stallWriteOut c s) = still s := by
  fun_cases stallWriteOut c s <;> simp [*]

/-! ## Operations of Machine/Sync -/

@[simp] theorem sendArrival_still (k i w s) : still (sendArrival k i w s) = still s := by simp [sendArrival]
@[simp] theorem execWaitu_still (c f s) : Still (execWaitu c f s) s := by simp [execWaitu]
@[simp] theorem execFencer_still (c f s) : Still (execFencer c f s) s := by simp [execFencer]
@[simp] theorem execArrive_still (c f s) : Still (execArrive c f s) s := by
  simp only [execArrive]
  repeat' split
  all_goals simp [*]

@[simp] theorem execWaitb_still (c f s) : Still (execWaitb c f s) s := by
  simp only [execWaitb]
  repeat' split
  all_goals simp [*]

@[simp] theorem execRdsys_still (c f s) : Still (execRdsys c f s) s := by simp [execRdsys]
@[simp] theorem execTrap_still (c f s) : Still (execTrap c f s) s := by simp [execTrap]
@[simp] theorem execTmask_still (c f s) : Still (execTmask c f s) s := by simp [execTmask]
@[simp] theorem storeRows_still (c row p rs s) : still (storeRows c row p rs s) = still s := by simp [storeRows]
@[simp] theorem execTopk_still (c f stop s) : Still (execTopk c f stop s) s := by
  refine issue_still _ _ _ _ _ _ fun t => ?_
  repeat' split
  all_goals simp [*]

/-! ## Operations of Machine/Pool -/

@[simp] theorem addAlloc_still (a s) : still (addAlloc a s) = still s := by simp [addAlloc]
@[simp] theorem dropMove_still (m s) : still (dropMove m s) = still s := by simp [dropMove]
@[simp] theorem dropMoves_still (f s) : still (dropMoves f s) = still s := by simp [dropMoves]
@[simp] theorem dropGrant_still (p kd s) : still (dropGrant p kd s) = still s := by simp [dropGrant]
@[simp] theorem dropKinds_still (f s) : still (dropKinds f s) = still s := by simp [dropKinds]
@[simp] theorem dropAlloc_still (kd s) : still (dropAlloc kd s) = still s := by simp [dropAlloc]
@[simp] theorem dropSaves_still (k s) : still (dropSaves k s) = still s := by simp [dropSaves]
@[simp] theorem dropScent_still (f s) : still (dropScent f s) = still s := by simp [dropScent]
@[simp] theorem freeGroup_still (g s) : still (freeGroup g s) = still s := by simp [freeGroup]
@[simp] theorem copyRange_still (src dst n s) : still (copyRange src dst n s) = still s := by simp [copyRange]
@[simp] theorem storeList_still : ∀ l pages s, still (storeList l pages s) = still s
  | [], _, _ => rfl
  | a :: rest, pages, s => by simp [storeList, storeList_still rest]

@[simp] theorem writeList_still (i s) : still (writeList i s) = still s := by simp [writeList]
@[simp] theorem trimList_still (i s) : still (trimList i s) = still s := by simp [trimList]
@[simp] theorem issueMove_still (purpose p c kd src dst units s) :
    still (issueMove purpose p c kd src dst units s) = still s := by simp [issueMove]

@[simp] theorem moveDone_still (m s) : still (moveDone m s) = still s := by
  simp only [moveDone]
  repeat' split
  all_goals simp [*]

theorem clearWindow_still {p w n l s t} (e : clearWindow p w n l s = some t) : still t = still s := by
  induction l generalizing s with
  | nil => cases e; rfl
  | cons a as ih =>
    rw [clearWindow] at e
    split at e
    · cases e
    · simp [ih e]

theorem openWindow_still {p n part s t} (e : openWindow p n part s = some t) : still t = still s := by
  obtain ⟨w, -, hw⟩ := List.exists_of_findSome?_eq_some e
  split at hw
  · cases hw
  · dsimp only at hw
    split at hw
    · exact clearWindow_still hw
    · cases hw

theorem slideDown_still {p part s t} (e : slideDown p part s = some t) : still t = still s := by
  obtain ⟨a, -, ha⟩ := List.exists_of_findSome?_eq_some e
  repeat' split at ha
  all_goals cases ha
  simp

@[simp] theorem startRelocation_still (p kd c n s) : still (startRelocation p kd c n s) = still s := by
  simp only [startRelocation]
  split
  · rfl
  · split
    · next e =>
      obtain ⟨x, -, hx⟩ := List.exists_of_findSome?_eq_some e
      exact openWindow_still hx
    · cases e : (poolParts s p kd c).findSome? (fun x => slideDown p x s) with
      | none => rfl
      | some t =>
        obtain ⟨x, -, hx⟩ := List.exists_of_findSome?_eq_some e
        exact slideDown_still hx

@[simp] theorem evictYard_still (a s) : still (evictYard a s) = still s := by
  fun_cases evictYard a s <;> simp [*]

@[simp] theorem yardRoom_still (kd c n fuel s) : still (yardRoom kd c n fuel s).2 = still s := by
  fun_induction yardRoom kd c n fuel s <;> simp [*]

@[simp] theorem evictGroup_still (g a s) : still (evictGroup g a s) = still s := by
  simp only [evictGroup]
  split
  · simp
  · split
    all_goals next e => simp [still_of_pair (yardRoom_still ..) e]

@[simp] theorem deckRoom_still (kd c n fuel s) : still (deckRoom kd c n fuel s).2 = still s := by
  induction fuel generalizing s with
  | zero => rfl
  | succ fuel ih =>
    simp only [deckRoom]
    repeat' split
    all_goals simp [ih]

@[simp] theorem makeRoom_still (p kd c n s) : still (makeRoom p kd c n s).2 = still s := by
  cases p <;> simp [makeRoom]

@[simp] theorem enterRun_still (p kd c a n s) : still (enterRun p kd c a n s) = still s := by
  fun_cases enterRun p kd c a n s <;> simp [*]

/-- Where an allocation is granted or waits, the state it leaves is still. -/
structure Grant.Still (g : Grant) (s : State) : Prop where
  granted : ∀ {a t}, g = .granted a t → still t = still s
  waits : ∀ {t}, g = .waits t → still t = still s

@[simp] theorem Grant.still_granted {a s t} : (Grant.granted a t).Still s ↔ still t = still s :=
  ⟨fun h => h.granted rfl, fun h => ⟨by rintro _ _ ⟨⟩; exact h, nofun⟩⟩

@[simp] theorem Grant.still_waits {s t} : (Grant.waits t).Still s ↔ still t = still s :=
  ⟨fun h => h.waits rfl, fun h => ⟨nofun, by rintro _ ⟨⟩; exact h⟩⟩

@[simp] theorem Grant.still_refused {s} : Grant.refused.Still s := ⟨nofun, nofun⟩

theorem Grant.Still.trans {g : Grant} {s t} (h : g.Still t) (e : still t = still s) : g.Still s :=
  ⟨fun hg => (h.granted hg).trans e, fun hg => (h.waits hg).trans e⟩

theorem placeRuns_still (p c last l s) : (placeRuns p c last l s).Still s := by
  induction l generalizing c last s with
  | nil => simp [placeRuns]
  | cons x rest ih =>
    obtain ⟨kd, n⟩ := x
    simp only [placeRuns]
    split
    · next e => exact (ih _ _ _).trans (by simp [still_of_pair (makeRoom_still ..) e])
    · next e => simp [still_of_pair (makeRoom_still ..) e]

theorem allocateRuns_still (p c head runs s) : (allocateRuns p c head runs s).Still s := by
  fun_cases allocateRuns p c head runs s with
  | case1 => simp
  | case2 => exact (placeRuns_still ..).trans (by simp)
  | case3 _ _ _ _ h => rw [if_pos h]; exact placeRuns_still ..
  | case4 _ _ _ _ h => rw [if_neg h]; simp

theorem allocate_still (p kd c n head s) : (allocate p kd c n head s).Still s := allocateRuns_still ..
theorem recallGroup_still (g k s) : (recallGroup g k s).Still s := by
  simp only [recallGroup]
  split
  · simp
  · exact allocate_still ..

@[simp] theorem pumpGrants_still (p s) : still (pumpGrants p s) = still s := by
  refine foldl_still (fun t g => ?_) _ _
  split
  · rfl
  · split
    · next e => simp [(placeRuns_still ..).granted e]
    · next e => simp [(placeRuns_still ..).waits e]
    · rfl

@[simp] theorem enqueue_still (p runs c q s) : still (enqueue p runs c q s) = still s := by simp [enqueue]
@[simp] theorem dequeue_still (q s) : still (dequeue q s) = still s := by simp [dequeue]
@[simp] theorem abandonEvict_still (g s) : still (abandonEvict g s) = still s := by simp [abandonEvict]
@[simp] theorem abandonRecall_still (g s) : still (abandonRecall g s) = still s := by simp [abandonRecall]
@[simp] theorem dropImage_still (h s) : still (dropImage h s) = still s := by simp [dropImage]
@[simp] theorem unbindImage_still (h s) : still (unbindImage h s) = still s := by simp [unbindImage]
@[simp] theorem unbindJob_still (k j s) : still (unbindJob k j s) = still s := by
  simp only [unbindJob]
  repeat' split
  all_goals simp [*]

@[simp] theorem unbindAll_still (k s) : still (unbindAll k s) = still s := by simp [unbindAll]

/-! ## Operations of Machine/Jobs -/

@[simp] theorem dropStaging_still (c s) : still (dropStaging c s) = still s :=
  foldl_still (fun t p => by split <;> simp) _ _

@[simp] theorem resetCore_still (c s) : still (resetCore c s) = still s := by simp [resetCore]
@[simp] theorem markInvalid_still (k c s) : still (markInvalid k c s) = still s := by
  fun_cases markInvalid k c s <;> simp [*]

@[simp] theorem flushCoupe_still (k s) : still (flushCoupe k s) = still s := by simp [flushCoupe]
@[simp] theorem spanAdvance_still (k s) : still (spanAdvance k s) = still s := by simp [spanAdvance]
@[simp] theorem setStep_still (k st s) : still (setStep k st s) = still s := by simp [setStep]
@[simp] theorem sendOutcome_still (k status s) : still (sendOutcome k status s) = still s := by
  simp only [sendOutcome]
  repeat' split
  all_goals simp [*]

@[simp] theorem endStep_still (k status detail dkind s) : still (endStep k status detail dkind s) = still s := by
  simp only [endStep]
  repeat' split
  all_goals simp [*]

@[simp] theorem noteStatus_still (k status detail dkind s) : still (noteStatus k status detail dkind s) = still s := by
  fun_cases noteStatus k status detail dkind s <;> simp [*]

@[simp] theorem suspect_still (c cause s) : still (suspect c cause s) = still s := by simp [suspect]
@[simp] theorem transient_still (c s) : still (transient c s) = still s := by simp [transient]
@[simp] theorem repairRow_still (c r s) : still (repairRow c r s) = still s := by simp [repairRow]
@[simp] theorem settleHits_still (k s) : still (settleHits k s) = still s := by simp [settleHits]
@[simp] theorem replayLeases_still (k s) : still (replayLeases k s) = still s := by
  simp only [replayLeases]
  split
  · split <;> simp
  · rfl

@[simp] theorem reportLease_still (s h) : still (reportLease s h) = still s := by simp [reportLease]
@[simp] theorem reportLeases_still (s) : still (reportLeases s) = still s := by simp [reportLeases]
@[simp] theorem checkBoundary_still (k s) : still (checkBoundary k s) = still s := by
  simp only [checkBoundary]
  repeat' split
  all_goals simp [*]

@[simp] theorem triggerReplay_still (k status detail dkind s) :
    still (triggerReplay k status detail dkind s) = still s := by
  simp only [triggerReplay]
  repeat' split
  all_goals simp [*]

@[simp] theorem unbindCoupe_still (k s) : still (unbindCoupe k s) = still s := by simp [unbindCoupe]
@[simp] theorem failSave_still (act status s) : still (failSave act status s) = still s := by
  fun_cases failSave act status s <;> simp [*]

@[simp] theorem loseStand_still (k g s) : still (loseStand k g s) = still s := by
  simp only [loseStand]
  split
  · simp
  · split
    · simp
    · simp
    · split <;> simp

@[simp] theorem raiseStand_still (kind value g s) : still (raiseStand kind value g s) = still s := by
  fun_cases raiseStand kind value g s <;> simp [*]

@[simp] theorem standOut_still (g s) : still (standOut g s) = still s := by
  simp only [standOut]
  repeat' split
  all_goals simp [*]

@[simp] theorem sectorOut_still (i s) : still (sectorOut i s) = still s := by simp [sectorOut]
@[simp] theorem deviceFault_still (i record s) : still (deviceFault i record s) = still s := by
  simp only [deviceFault]
  repeat' split
  all_goals simp [*]

@[simp] theorem showSlot_still (c s) : still (showSlot c s) = still s := by simp [showSlot]
@[simp] theorem retireCore_still (c s) : still (retireCore c s) = still s := by
  simp only [retireCore]
  repeat' split
  all_goals simp [*]

@[simp] theorem clearBench_still (c s) : still (clearBench c s) = still s := by simp [clearBench]
@[simp] theorem freshCore_still (c s) : still (freshCore c s) = still s := by simp [freshCore]
@[simp] theorem freshStand_still (g s) : still (freshStand g s) = still s := by simp [freshStand]
@[simp] theorem foreignDescriptor_still (s q k) :
    still (foreignDescriptor s q k) = still s := by simp [foreignDescriptor]

@[simp] theorem starts_still (op q body s) (h : ∀ t, still (body t) = still t) : Still (starts op q body s) s := by
  simp [starts, h]

/-! ## Operations of Machine/StreamEvents -/

@[simp] theorem admitItem_still (k h q it s) : still (admitItem k h q it s) = still s := by
  fun_cases admitItem k h q it s <;> simp [*]

@[simp] theorem execStreamRowArrival_still (k h s) : Still (execStreamRowArrival k h s) s := by
  fun_cases execStreamRowArrival k h s <;> simp [*]

@[simp] theorem execSlackRefill_still (k h s) : Still (execSlackRefill k h s) s := by
  simp only [execSlackRefill]
  repeat' split
  all_goals simp [*]

@[simp] theorem chainDone_still (k n x s) : still (chainDone k n x s) = still s := by
  simp only [chainDone]
  repeat' split
  all_goals simp [*]

@[simp] theorem execSkidRow_still (k c s) : Still (execSkidRow k c s) s := by
  simp only [execSkidRow]
  repeat' split
  all_goals simp [*]

@[simp] theorem restartChains_still (c s) : still (restartChains c s) = still s := by
  simp only [restartChains]
  repeat' split
  all_goals simp [*]

@[simp] theorem setWord_still (addr tag count s) : still (setWord addr tag count s) = still s := by simp [setWord]
@[simp] theorem arriveMemory_still (addr tag s) : still (arriveMemory addr tag s) = still s := by simp [arriveMemory]
@[simp] theorem execBarrierArrival_still (a s) : Still (execBarrierArrival a s) s := by
  simp only [execBarrierArrival]
  split
  · simp
  · split <;> simp

/-! ## Operations of Machine/Movers -/

@[simp] theorem onLoad_still (w f s) : still (onLoad w f s) = still s := by
  fun_cases onLoad w f s <;> simp [*]

@[simp] theorem stopTransfers_still (k i s) : still (stopTransfers k i s) = still s := by simp [stopTransfers]
@[simp] theorem endRequests_still (k seq status detail dkind s) :
    still (endRequests k seq status detail dkind s) = still s := by
  simp only [endRequests]
  repeat' split
  all_goals simp [*]

@[simp] theorem dropTransfer_still (m s) : still (dropTransfer m s) = still s := by simp [dropTransfer]
@[simp] theorem dropFeed_still (w s) : still (dropFeed w s) = still s := by simp [dropFeed]
@[simp] theorem deviceEnds_still (w status detail dkind s) : still (deviceEnds w status detail dkind s) = still s := by
  simp only [deviceEnds]
  split
  · rfl
  · split <;> simp

@[simp] theorem abortTransfer_still (m w status s) :
    still (abortTransfer m w status s) = still s := by simp [abortTransfer]

@[simp] theorem refuseTransfer_still (m w cause s) : still (refuseTransfer m w cause s) = still s := by
  simp only [refuseTransfer]
  repeat' split
  all_goals simp [*]

@[simp] theorem consumePoison_still (w origin core tag s) : still (consumePoison w origin core tag s) = still s := by
  fun_cases consumePoison w origin core tag s <;> simp [*]

theorem sourceRow_still {t e host s r} (h : sourceRow t e host s = some r) : still r.2.2 = still s := by
  simp only [sourceRow] at h
  repeat' split at h
  all_goals cases h <;> simp

@[simp] theorem sendHost_still (w a data p s) : still (sendHost w a data p s) = still s := by simp [sendHost]
theorem destRow_still {t d p s u} (e : destRow t d p s = some u) : still u = still s := by
  simp only [destRow] at e
  repeat' split at e
  case h_2 => exact sendItem_still e
  all_goals cases e <;> simp

@[simp] theorem replayIfAble_still (k s) : still (replayIfAble k s) = still s := by
  fun_cases replayIfAble k s <;> simp [*]

theorem moveRow_still {t e host s r} (h : moveRow t e host s = some r) : still r.2 = still s := by
  simp only [moveRow] at h
  split at h
  · cases h
  · next hs =>
    split at h
    · cases h
    · next hd =>
      have moved := (destRow_still hd).trans (sourceRow_still hs)
      repeat' split at h
      all_goals cases h; simp [moved]

@[simp] theorem moveRows_still (n t host s) : still (moveRows n t host s).2 = still s := by
  fun_induction moveRows n t host s with
  | case4 _ _ _ _ _ _ _ _ h ih => rw [ih, moveRow_still h]
  | _ => rfl

theorem hostBad_still {m w host s t} (e : hostBad m w host s = some t) : still t = still s := by
  simp only [hostBad] at e
  split at e <;> cases e <;> simp

@[simp] theorem continueTransfer_still (t n host s) : still (continueTransfer t n host s) = still s := by
  simp only [continueTransfer]
  split
  · next e =>
    split at e
    · exact hostBad_still e
    · cases e
  · simp

@[simp] theorem execMoverTransfer_still (m w n host s) : Still (execMoverTransfer m w n host s) s := by
  fun_cases execMoverTransfer m w n host s <;> simp [*]

@[simp] theorem moveHome_still (src dst s) : still (moveHome src dst s) = still s := by
  simp only [moveHome]
  repeat' split
  all_goals simp [*]

@[simp] theorem homeMoves_still (t s) : still (homeMoves t s) = still s := by
  fun_cases homeMoves t s <;> simp [*]

@[simp] theorem transferArrival_still (w s) : still (transferArrival w s) = still s := by simp [transferArrival]
theorem sendMark_still {k h m s t} (e : sendMark k h m s = some t) : still t = still s := by
  simp only [sendMark] at e
  split at e
  · cases e; rfl
  · exact sendItem_still e

theorem feedMark_still {w s t} (e : feedMark w s = some t) : still t = still s := by
  simp only [feedMark] at e
  split at e
  · cases e; rfl
  · split at e
    · cases e; simp
    · obtain ⟨u, hu, rfl⟩ := Option.map_eq_some_iff.1 e
      simp [sendMark_still hu]

@[simp] theorem execMoverTransferComplete_still (m host s) : Still (execMoverTransferComplete m host s) s := by
  simp only [execMoverTransferComplete]
  split
  · simp
  · split
    · simp
    · split
      · simp
      · split
        · simp
        · split
          · simp
          · next e => simp [feedMark_still e]

@[simp] theorem countTimeout_still (t s) : still (countTimeout t s) = still s := by simp [countTimeout]
@[simp] theorem execTransferDeadline_still (m s) : Still (execTransferDeadline m s) s := by
  fun_cases execTransferDeadline m s <;> simp [*]

@[simp] theorem feedMarks_still (k h s) : still (feedMarks k h s) = still s := by
  refine foldl_still (fun t f => ?_) _ _
  split
  · rfl
  · split
    · rfl
    · next e => simp [sendMark_still e]

@[simp] theorem runFeed_still (k h s) : still (runFeed k h s) = still s := by simp [runFeed]
@[simp] theorem execCreditReturn_still (k h s) : Still (execCreditReturn k h s) s := by
  simp only [execCreditReturn]
  repeat' split
  all_goals simp [*]

@[simp] theorem patrolGranule_still (a s) : still (patrolGranule a s) = still s := by
  fun_cases patrolGranule a s <;> simp [*]

@[simp] theorem execMemoryPatrol_still (u s) : Still (execMemoryPatrol u s) s := by
  simp only [execMemoryPatrol]
  repeat' split
  all_goals simp [*]

/-! ## Operations of Machine/Sequences -/

@[simp] theorem addRef_still (g s) : still (addRef g s) = still s := by simp [addRef]
@[simp] theorem dropRef_still (g s) : still (dropRef g s) = still s := by simp [dropRef]
@[simp] theorem settleGroup_still (g s) : still (settleGroup g s) = still s := by simp [settleGroup]
@[simp] theorem dropHeld_still (i s) : still (dropHeld i s) = still s := by simp [dropHeld]
@[simp] theorem releaseSeq_still (i s) : still (releaseSeq i s) = still s := by simp [releaseSeq]
@[simp] theorem freeSeq_still (i s) : still (freeSeq i s) = still s := by simp [freeSeq]
@[simp] theorem matchBlocks_still (cfg k i saltIdx salt n b parent prev toks s) :
    still (matchBlocks cfg k i saltIdx salt n b parent prev toks s).2.2 = still s := by
  induction n generalizing b parent prev toks s with
  | zero => rfl
  | succ n ih =>
    have recalled (g s) : (if (State.group s g).inYard then recallGroup g k s else .granted 0 s).Still s := by
      split
      · exact recallGroup_still ..
      · simp
    simp only [matchBlocks]
    split
    · rfl
    · split
      · split
        · simp
        · next e => simp [ih, (recalled ..).granted e]
        · next e => simp [ih, (recalled ..).waits e]
      · rfl

@[simp] theorem dropRecalls_still (gs s) : still (dropRecalls gs s) = still s := by simp [dropRecalls]
@[simp] theorem failOpen_still (q i status detail dkind s) :
    still (failOpen q i status detail dkind s) = still s := by simp [failOpen]

@[simp] theorem openedSeq_still (q i s) : still (openedSeq q i s) = still s := by simp [openedSeq]
@[simp] theorem retryRecalls_still (k gs s) : still (retryRecalls k gs s) = still s := by
  refine foldl_still (fun t g => ?_) _ _
  split
  · split
    · next e => exact (recallGroup_still ..).granted e
    · next e => exact (recallGroup_still ..).waits e
    · rfl
  · rfl

@[simp] theorem openRecalls_still (q k i s) : still (openRecalls q k i s) = still s := by simp [openRecalls]
@[simp] theorem openPages_still (q k i s) : still (openPages q k i s) = still s := by
  simp only [openPages]
  split
  · simp
  · split
    · simp
    · split
      · simp
      · split
        · next e => simp [(allocateRuns_still ..).granted e]
        · next e => simp [(allocateRuns_still ..).waits e]
        · split <;> simp

@[simp] theorem openMatch_still (q k cfg i toks s) : still (openMatch q k cfg i toks s) = still s := by
  simp only [openMatch]
  repeat' split
  all_goals simp [*]

@[simp] theorem execSeqOpen_still (q tokens s) : Still (execSeqOpen q tokens s) s := by
  unfold execSeqOpen
  refine starts_still _ _ _ _ fun t => ?_
  dsimp only
  repeat' split
  all_goals simp

@[simp] theorem execSeqClose_still (q s) : Still (execSeqClose q s) s := by
  refine starts_still _ _ _ _ fun t => ?_
  dsimp only
  repeat' split
  all_goals simp

@[simp] theorem cancelRequests_still (k v s) : still (cancelRequests k v s) = still s := by simp [cancelRequests]
@[simp] theorem cancelOpen_still (i s) : still (cancelOpen i s) = still s := by
  fun_cases cancelOpen i s <;> simp [*]

@[simp] theorem endOpening_still (k status s) : still (endOpening k status s) = still s := by
  refine foldl_still (fun t e => ?_) _ _
  split
  · rfl
  · split <;> simp

@[simp] theorem acceptCancel_still (q immediate s) :
    still (acceptCancel q immediate s) = still s := by simp [acceptCancel]

@[simp] theorem execCancel_still (q s) : Still (execCancel q s) s := by simp [execCancel]
@[simp] theorem execCancelImmediate_still (q s) : Still (execCancelImmediate q s) s := by simp [execCancelImmediate]
@[simp] theorem execCancelRelease_still (i s) : Still (execCancelRelease i s) s := by simp [execCancelRelease]
@[simp] theorem recallAll_still (k l s) : still (recallAll k l s).2 = still s := by
  induction l generalizing s with
  | nil => rfl
  | cons g gs ih =>
    simp only [recallAll]
    split
    · split
      · rfl
      · next e => rw [ih, (recallGroup_still ..).granted e]
      · next e => rw [ih, (recallGroup_still ..).waits e]
    · exact ih s

@[simp] theorem applyPin_still (i n k ring pos s) : still (applyPin i n k ring pos s) = still s := by simp [applyPin]
@[simp] theorem pinBlocks_still (q i n k s) : still (pinBlocks q i n k s) = still s := by
  simp only [pinBlocks]
  repeat' split
  all_goals simp [*]

@[simp] theorem execPin_still (q s) : Still (execPin q s) s := by simp [execPin]
@[simp] theorem execUnpin_still (q s) : Still (execUnpin q s) s := by simp [execUnpin]
@[simp] theorem execUnpinAll_still (q s) : Still (execUnpinAll q s) s := by simp [execUnpinAll]
@[simp] theorem execSaltSet_still (q s) : Still (execSaltSet q s) s := by simp [execSaltSet]
@[simp] theorem execSaltUnset_still (q s) : Still (execSaltUnset q s) s := by simp [execSaltUnset]
@[simp] theorem execAllocationRetry_still (p s) : Still (execAllocationRetry p s) s := by
  simp only [execAllocationRetry]
  split
  · simp
  · split
    · simp
    · split
      · next e => simp [(allocateRuns_still ..).granted e]
      · next e => simp [(allocateRuns_still ..).waits e]
      · simp

@[simp] theorem expireWait_still (w s) : still (expireWait w s) = still s := by
  simp only [expireWait]
  repeat' split
  all_goals simp [*]

@[simp] theorem execAllocationWaitExpiry_still (p s) : Still (execAllocationWaitExpiry p s) s := by
  fun_cases execAllocationWaitExpiry p s <;> simp [*]

/-! ## Operations of Machine/Steps -/

@[simp] theorem claim_still (ring pos ps s) : still (claim ring pos ps s) = still s := by simp [claim]
@[simp] theorem startStep_still (q s) : still (startStep q s) = still s := by
  simp only [startStep]
  repeat' split
  all_goals simp [*]

@[simp] theorem execStep_still (q s) : Still (execStep q s) s := by simp [execStep]
@[simp] theorem startRequest_still (q verify src s) : still (startRequest q verify src s) = still s := by
  simp only [startRequest]
  repeat' split
  all_goals simp

@[simp] theorem execPrefill_still (q src s) : Still (execPrefill q src s) s := by simp [execPrefill]
@[simp] theorem execVerify_still (q src s) : Still (execVerify q src s) s := by simp [execVerify]
@[simp] theorem holdSince_still (q s) : still (holdSince q s) = still s := by simp [holdSince]
@[simp] theorem execFence_still (q s) : Still (execFence q s) s := by simp [execFence]
@[simp] theorem execFenceExpired_still (q s) : Still (execFenceExpired q s) s := by
  fun_cases execFenceExpired q s <;> simp [*]

@[simp] theorem execNopDescriptor_still (q s) : Still (execNopDescriptor q s) s := by simp [execNopDescriptor]
theorem freeNumbers_still {s t} (e : freeNumbers s = some t) : still t = still s := by
  obtain ⟨a, -, rfl⟩ := Option.map_eq_some_iff.1 e
  simp

@[simp] theorem placeGroups_still (k units gs s) : still (placeGroups k units gs s) = still s := by
  refine foldl_still (fun t g => ?_) _ _
  split
  · rfl
  · split
    · next e => exact (allocate_still ..).granted e
    · next e => exact (allocate_still ..).waits e
    · rfl

@[simp] theorem giveBack_still (r s) : still (giveBack r s) = still s := by simp [giveBack]

/-- Where an opening is granted or waits, the state it leaves is still. -/
structure OpenGrant.Still (g : OpenGrant) (s : State) : Prop where
  granted : ∀ {gs t}, g = .granted gs t → still t = still s
  waits : ∀ {gs t}, g = .waits gs t → still t = still s

theorem OpenGrant.Still.trans {g : OpenGrant} {s t} (h : g.Still t) (e : still t = still s) : g.Still s :=
  ⟨fun hg => (h.granted hg).trans e, fun hg => (h.waits hg).trans e⟩

@[simp] theorem OpenGrant.still_granted {gs s t} : (OpenGrant.granted gs t).Still s ↔ still t = still s :=
  ⟨fun h => h.granted rfl, fun h => ⟨by rintro _ _ ⟨⟩; exact h, nofun⟩⟩

@[simp] theorem OpenGrant.still_waits {gs s t} : (OpenGrant.waits gs t).Still s ↔ still t = still s :=
  ⟨fun h => h.waits rfl, fun h => ⟨nofun, by rintro _ _ ⟨⟩; exact h⟩⟩

@[simp] theorem OpenGrant.still_refused {s} : OpenGrant.refused.Still s := ⟨nofun, nofun⟩

theorem takeGroups_still (k units n gs s) : (takeGroups k units n gs s).Still s := by
  induction n generalizing gs s with
  | zero =>
    simp only [takeGroups]
    split <;> simp
  | succ n ih =>
    simp only [takeGroups]
    split
    · split
      · next e => simp [freeNumbers_still e]
      · split <;> simp
    · split
      · simp
      · next e => exact (ih _ _).trans ((allocate_still ..).waits e)
      · next e => exact (ih _ _).trans ((allocate_still ..).granted e)

theorem takeRuns_still (k kd units n s) : (takeRuns k kd units n s).Still s := by
  simp only [takeRuns]
  split
  · next e => simp [(allocateRuns_still ..).granted e]
  · simp
  · next e => simp [(allocateRuns_still ..).waits e]

theorem OpenGrant.bind_still {o : OpenGrant} {gs f s} (h : o.Still s) (hf : ∀ t, (f t).Still t) :
    (o.bind gs f).Still s := by
  cases o with
  | refused => simp [OpenGrant.bind]
  | granted gs t => exact (hf t).trans (h.granted rfl)
  | waits gs t =>
    have ht := h.waits rfl
    simp only [OpenGrant.bind]
    split
    · next e => simp [(hf t).granted e, ht]
    · next e => simp [(hf t).waits e, ht]
    · simp [ht]

theorem grantReq_still (k cfg r s) : (grantReq k cfg r s).Still s := by
  refine OpenGrant.bind_still (takeRuns_still ..) fun t => ?_
  split
  · simp
  · next e => exact (OpenGrant.bind_still (takeRuns_still ..) (by simp)).trans ((takeGroups_still ..).granted e)
  · next e => simp [(takeGroups_still ..).waits e]

theorem takeImport_still (k cfg m s) : (takeImport k cfg m s).Still s := by
  simp only [takeImport]
  split
  · next e => exact (OpenGrant.bind_still (takeRuns_still ..) (by simp)).trans ((takeGroups_still ..).granted e)
  · exact takeGroups_still ..

@[simp] theorem grantReqs_still (k cfg l s) : still (grantReqs k cfg l s).2.1 = still s := by
  induction l generalizing s with
  | nil => rfl
  | cons r rs ih =>
    simp only [grantReqs]
    split
    · simp [ih]
    · split
      · next e => simp [ih, (grantReq_still ..).granted e]
      · simp [ih]
      · next e => simp [ih, (grantReq_still ..).waits e]

@[simp] theorem sendBundle_still (k m layer sender ps s) :
    still (sendBundle k m layer sender ps s) = still s := by simp [sendBundle]

@[simp] theorem sendLayer_still (k m layer ps s) : still (sendLayer k m layer ps s) = still s := by simp [sendLayer]
@[simp] theorem givePairs_still (k d layer ps s) : still (givePairs k d layer ps s) = still s := by simp [givePairs]
@[simp] theorem keepPairs_still (k m layer sender ps s) :
    still (keepPairs k m layer sender ps s) = still s := by simp [keepPairs]

@[simp] theorem addRun_still (k cfg run s) : still (addRun k cfg run s) = still s := by
  fun_cases addRun k cfg run s <;> simp [*]

@[simp] theorem buildLayers_still (k cfg m layers s) : still (buildLayers k cfg m layers s) = still s := by
  fun_induction buildLayers k cfg m layers s <;> simp [*]

@[simp] theorem dispatchLayers_still (k cfg m rt layers s) : still (dispatchLayers k cfg m rt layers s) = still s := by
  simp only [dispatchLayers, buildLayers_still]
  refine foldl_still (fun t l => ?_) _ _
  split <;> simp

@[simp] theorem joinBundle_still (k cfg m layer sender ps s) :
    still (joinBundle k cfg m layer sender ps s) = still s := by
  simp only [joinBundle]
  repeat' split
  all_goals simp [*]

@[simp] theorem joinEarly_still (k cfg m s) : still (joinEarly k cfg m s) = still s := by simp [joinEarly]
@[simp] theorem writeRouting_still (k cfg st rt s) : still (writeRouting k cfg st rt s) = still s := by
  refine foldl_still (fun t l => ?_) _ _
  split <;> simp

@[simp] theorem startFeeds_still (k plans s) : still (startFeeds k plans s) = still s := by simp [startFeeds]
@[simp] theorem raiseBarriers_still (k cfg stage s) :
    still (raiseBarriers k cfg stage s) = still s := by simp [raiseBarriers]

@[simp] theorem copyEntry_still (src dst n s) : still (copyEntry src dst n s).2 = still s := by simp [copyEntry]
@[simp] theorem compactPath_still (cfg r s) : still (compactPath cfg r s).2 = still s := by
  simp only [compactPath]
  split
  · refine List.foldlRecOn (motive := fun acc : Bool × State => still acc.2 = still s) _ _ rfl fun acc h n _ => ?_
    refine List.foldlRecOn (motive := fun a : Bool × State => still a.2 = still s) _ _ h fun a h l _ => ?_
    split <;> simp [h]
  · rfl

@[simp] theorem compactAll_still (cfg) : ∀ l s, still (compactAll cfg l s).2 = still s
  | [], _ => rfl
  | r :: rs, s => by simp [compactAll, compactAll_still cfg rs, apply_ite Prod.snd]

@[simp] theorem takeHandoff_still (k w s) : still (takeHandoff k w s) = still s := by simp [takeHandoff]
@[simp] theorem dropReady_still (k st s) : still (dropReady k st s) = still s := by simp [dropReady]
@[simp] theorem refuseStep_still (k st status s) : still (refuseStep k st status s) = still s := by simp [refuseStep]
@[simp] theorem launch_still (k cfg choice s) : still (launch k cfg choice s) = still s := by
  fun_cases launch k cfg choice s <;> simp [*]

@[simp] theorem openExperts_still (k cfg s) : still (openExperts k cfg s) = still s := by
  simp only [openExperts]
  repeat' split
  all_goals simp [*]

@[simp] theorem openWith_still (k cfg st choice rt src reqs s) :
    still (openWith k cfg st choice rt src reqs s) = still s := by
  simp only [openWith]
  repeat' split
  all_goals simp [*]

@[simp] theorem holdReady_still (k st rs s) : still (holdReady k st rs s) = still s := by simp [holdReady]
@[simp] theorem openStep_still (k cfg st src s) : still (openStep k cfg st src s) = still s := by
  simp only [openStep]
  split <;> simp

@[simp] theorem execStepOpen_still (k src s) : Still (execStepOpen k src s) s := by
  fun_cases execStepOpen k src s <;> simp [*]

@[simp] theorem readRouting_still (k cfg st layer s) : still (readRouting k cfg st layer s).2 = still s := by
  simp only [readRouting]
  repeat' split
  all_goals simp [*]

@[simp] theorem execThresholdRouteDispatch_still (k layer s) : Still (execThresholdRouteDispatch k layer s) s := by
  simp only [execThresholdRouteDispatch]
  repeat' split
  all_goals simp [*]

/-! ## Operations of Machine/StepRun -/

@[simp] theorem fire_still (k s) : still (fire k s) = still s := by simp [fire]
@[simp] theorem execSentinelEvaluation_still (s) :
    Still (execSentinelEvaluation s) s := by simp [execSentinelEvaluation]

@[simp] theorem shardTimeout_still (k s) : still (shardTimeout k s) = still s := by
  simp only [shardTimeout]
  repeat' split
  all_goals simp [*]

@[simp] theorem execShardDeadline_still (k s) : Still (execShardDeadline k s) s := by
  fun_cases execShardDeadline k s <;> simp [*]

@[simp] theorem clearWords_still (k cfg stage s) : still (clearWords k cfg stage s) = still s := by simp [clearWords]
@[simp] theorem reopen_still (k cfg st s) : still (reopen k cfg st s) = still s := by
  simp only [reopen]
  repeat' split
  all_goals simp [*]

@[simp] theorem cannotReplay_still (k st s) : still (cannotReplay k st s) = still s := by simp [cannotReplay]
@[simp] theorem execStepReplay_still (k s) : Still (execStepReplay k s) s := by
  fun_cases execStepReplay k s <;> simp [*]

@[simp] theorem execPatrol_still (c firstOk secondOk s) :
    Still (execPatrol c firstOk secondOk s) s := by simp [execPatrol]

@[simp] theorem moveRowError_still (c r s) : still (moveRowError c r s) = still s := by simp [moveRowError]
@[simp] theorem execBenchMoveComplete_still (c s) :
    Still (execBenchMoveComplete c s) s := by simp [execBenchMoveComplete]

@[simp] theorem setWay_still (set w e s) : still (setWay set w e s) = still s := by simp [setWay]
@[simp] theorem reinsert_still (g s) : still (reinsert g s) = still s := by
  fun_cases reinsert g s <;> simp [*]

@[simp] theorem execScentRebuild_still (s) : Still (execScentRebuild s) s := by simp [execScentRebuild]

/-! ## Operations of Machine/StepCommit -/

@[simp] theorem takeWay_still (g set w s) : still (takeWay g set w s) = still s := by simp [takeWay]
@[simp] theorem offerGroup_still (g s) : still (offerGroup g s) = still s := by
  fun_cases offerGroup g s <;> simp [*]

@[simp] theorem sealGroup_still (g s) : still (sealGroup g s) = still s := by
  simp only [sealGroup]
  repeat' split
  all_goals simp [*]

@[simp] theorem createGroup_still (cfg i g s) : still (createGroup cfg i g s) = still s := by simp [createGroup]
@[simp] theorem fillGroup_still (g toks s) : still (fillGroup g toks s) = still s := by simp [fillGroup]
@[simp] theorem commitTokens_still (cfg i fuel p toks gs s) :
    still (commitTokens cfg i fuel p toks gs s) = still s := by
  induction fuel generalizing p toks gs s with
  | zero => rfl
  | succ fuel ih =>
    simp only [commitTokens]
    repeat' split
    all_goals simp [ih]

@[simp] theorem cutSeq_still (i kept s) : still (cutSeq i kept s) = still s := by simp [cutSeq]
@[simp] theorem commitTree_still (r s) : still (commitTree r s) = still s := by simp [commitTree]
@[simp] theorem commitOk_still (cfg r s) : still (commitOk cfg r s) = still s := by
  simp only [commitOk]
  repeat' split
  all_goals simp [*]

@[simp] theorem commitLost_still (st r s) : still (commitLost st r s) = still s := by simp [commitLost]
@[simp] theorem commitReq_still (cfg st status r s) :
    still (commitReq cfg st status r s) = still s := by simp [commitReq]

@[simp] theorem commitReqs_still (cfg st) : ∀ l s, still (commitReqs cfg st l s) = still s
  | [], _ => rfl
  | (r, x) :: rest, s => by simp [commitReqs, commitReqs_still cfg st rest]

@[simp] theorem countCoreSteps_still (cfg st s) : still (countCoreSteps cfg st s) = still s := by
  fun_cases countCoreSteps cfg st s <;> simp [*]

@[simp] theorem transientVerdict_still (st ok s) : still (transientVerdict st ok s) = still s := by
  fun_cases transientVerdict st ok s <;> simp [*]

@[simp] theorem rearmZombies_still (k s) : still (rearmZombies k s) = still s := by simp [rearmZombies]
@[simp] theorem commitStep_still (k cfg st s0) : still (commitStep k cfg st s0) = still s0 := by
  simp only [commitStep]
  repeat' split
  all_goals simp [*]

@[simp] theorem commitSteps_still (s) : still (commitSteps s) = still s := by
  refine foldl_still (fun t k => ?_) _ _
  split <;> simp

@[simp] theorem activateSeq_still (i s) : still (activateSeq i s) = still s := by simp [activateSeq]
@[simp] theorem freeTaken_still (i s) : still (freeTaken i s) = still s := by simp [freeTaken]
@[simp] theorem unscent_still (g s) : still (unscent g s) = still s := by simp [unscent]
@[simp] theorem unevict_still (g s) : still (unevict g s) = still s := by simp [unevict]
@[simp] theorem applySalt_still (i v s) : still (applySalt i v s) = still s := by simp [applySalt]
@[simp] theorem poisonGroup_still (g s) : still (poisonGroup g s) = still s := by simp [poisonGroup]

/-! ## Operations of Machine/Ethernet -/

@[simp] theorem countEth_still (p k n s) : still (countEth p k n s) = still s := by simp [countEth]
@[simp] theorem countEths_still (p l s) : still (countEths p l s) = still s := by simp [countEths]
@[simp] theorem execEthPortLinkChange_still (p up s) :
    Still (execEthPortLinkChange p up s) s := by simp [execEthPortLinkChange]

@[simp] theorem fillBuffer_still (b data s) : still (fillBuffer b data s) = still s := by
  fun_cases fillBuffer b data s <;> simp [*]

@[simp] theorem workDone_still (qp status s) : still (workDone qp status s) = still s := by simp [workDone]
@[simp] theorem localError_still (p qp s) : still (localError p qp s) = still s := by simp [localError]
@[simp] theorem countSent_still (p c s) : still (countSent p c s) = still s := by simp [countSent]
@[simp] theorem sendFrom_still (p qp b c reply s) : still (sendFrom p qp b c reply s) = still s := by
  simp only [sendFrom]
  repeat' split
  all_goals simp [*]

@[simp] theorem readInto_still (p qp b data c reply s) : still (readInto p qp b data c reply s) = still s := by
  simp only [readInto]
  split
  · simp
  · simp
  · split <;> simp

@[simp] theorem execEthWorkRequest_still (qp f p op b c reply s) :
    Still (execEthWorkRequest qp f p op b c reply s) s := by
  fun_cases execEthWorkRequest qp f p op b c reply s <;> simp [*]

@[simp] theorem remoteAccess_still (p x s) : still (remoteAccess p x s) = still s := by
  fun_cases remoteAccess p x s <;> simp [*]

@[simp] theorem execEthFrameReceive_still (p x s) : Still (execEthFrameReceive p x s) s := by simp [execEthFrameReceive]
@[simp] theorem writeBlock_still (a l s) : still (writeBlock a l s) = still s := by
  induction l generalizing a s with
  | nil => rfl
  | cons r rest ih => simp [writeBlock, ih]

@[simp] theorem failImport_still (qp i gs s) : still (failImport qp i gs s) = still s := by simp [failImport]
@[simp] theorem execSeqImportComplete_still (qp bs s) : Still (execSeqImportComplete qp bs s) s := by
  simp only [execSeqImportComplete]
  split
  · simp
  · split
    · simp
    · split
      · simp
      · split
        · next e => simp [(takeImport_still ..).granted e]
        · next e => simp [(takeImport_still ..).waits e]
        · simp

@[simp] theorem applyImport_still (qp i gen b0 gs s) : still (applyImport qp i gen b0 gs s) = still s := by
  simp only [applyImport]
  repeat' split
  all_goals simp [*]

@[simp] theorem execTelemetrySample_still (s) : Still (execTelemetrySample s) s := by simp [execTelemetrySample]

/-! ## Operations of Machine/Links -/

@[simp] theorem linkEvents_still (l x y claimed s) :
    still (linkEvents l x y claimed s) = still s := by simp [linkEvents]

@[simp] theorem enterLink_still (l st cause claimed s) :
    still (enterLink l st cause claimed s) = still s := by simp [enterLink]

@[simp] theorem signalLost_still (l s) : still (signalLost l s) = still s := by simp [signalLost]
@[simp] theorem placeLink_still (w l s) : still (placeLink w l s) = still s := by simp [placeLink]
@[simp] theorem placeLinks_still (w s) : still (placeLinks w s) = still s := by simp [placeLinks]
@[simp] theorem execCoordinateRecord_still (w s) : Still (execCoordinateRecord w s) s := by simp [execCoordinateRecord]
@[simp] theorem execLinkSignalDetect_still (l lanes s) :
    Still (execLinkSignalDetect l lanes s) s := by simp [execLinkSignalDetect]

@[simp] theorem sendCoord_still (l s) : still (sendCoord l s) = still s := by simp [sendCoord]
@[simp] theorem execLinkTrainComplete_still (l lanes half s) :
    Still (execLinkTrainComplete l lanes half s) s := by simp [execLinkTrainComplete]

@[simp] theorem execLinkTrainTimeout_still (l s) : Still (execLinkTrainTimeout l s) s := by simp [execLinkTrainTimeout]
@[simp] theorem execLinkProbeRetry_still (l s) : Still (execLinkProbeRetry l s) s := by simp [execLinkProbeRetry]
@[simp] theorem execLinkAuth_still (l r s) : Still (execLinkAuth l r s) s := by simp [execLinkAuth]
@[simp] theorem execLinkAuthTimeout_still (l s) : Still (execLinkAuthTimeout l s) s := by simp [execLinkAuthTimeout]
@[simp] theorem execLinkSignalLoss_still (l s) : Still (execLinkSignalLoss l s) s := by simp [execLinkSignalLoss]
@[simp] theorem execMrefLoss_still (second s) : Still (execMrefLoss second s) s := by simp [execMrefLoss]
@[simp] theorem execLinkErrorFallback_still (l e s) : Still (execLinkErrorFallback l e s) s := by
  fun_cases execLinkErrorFallback l e s <;> simp [*]

@[simp] theorem execFastRetrainComplete_still (l s) :
    Still (execFastRetrainComplete l s) s := by simp [execFastRetrainComplete]

@[simp] theorem execLinkFence_still (l c s) : Still (execLinkFence l c s) s := by simp [execLinkFence]
@[simp] theorem quarantine_still (l cause claimed s) :
    still (quarantine l cause claimed s) = still s := by simp [quarantine]

@[simp] theorem execLinkNak_still (l n s) : Still (execLinkNak l n s) s := by simp [execLinkNak]
@[simp] theorem execFlit_still (l w corrected s) : Still (execFlit l w corrected s) s := by simp [execFlit]

/-! ## Operations of Machine/Packets -/

@[simp] theorem forwardPkt_still (l h p s) : still (forwardPkt l h p s) = still s := by
  fun_cases forwardPkt l h p s <;> simp [*]

@[simp] theorem takePkt_still (l h ptype lenOk windowed p act s) (ha : ∀ t, still (act t) = still t) :
    Still (takePkt l h ptype lenOk windowed p act s) s := by
  simp [takePkt, ha]

@[simp] theorem crossArrival_still (k s) : still (crossArrival k s) = still s := by simp [crossArrival]
@[simp] theorem rowToQueue_still (k h q it s) : still (rowToQueue k h q it s) = still s := by simp [rowToQueue]
@[simp] theorem rowItem_still (h data s) : still (rowItem h data s).2 = still s := by simp [rowItem]
@[simp] theorem takeRow_still (k h data s) : still (takeRow k h data s) = still s := by
  simp only [takeRow]
  repeat' split
  all_goals simp [*]

@[simp] theorem execRow_still (l h data s) : Still (execRow l h data s) s :=
  takePkt_still _ _ _ _ _ _ _ _ fun t => by split <;> simp

@[simp] theorem takeCredit_still (k h n s) : still (takeCredit k h n s) = still s := by
  simp only [takeCredit]
  repeat' split
  all_goals simp [*]

@[simp] theorem execCredit_still (l h count s) : Still (execCredit l h count s) s :=
  takePkt_still _ _ _ _ _ _ _ _ fun t => by split <;> simp

@[simp] theorem takeOutcome_still (k o s) : still (takeOutcome k o s) = still s := by
  simp only [takeOutcome]
  repeat' split
  all_goals simp [*]

@[simp] theorem execOutcome_still (l h xtag attempt nreq status statuses digest count s) :
    Still (execOutcome l h xtag attempt nreq status statuses digest count s) s := by
  unfold execOutcome
  refine takePkt_still _ _ _ _ _ _ _ _ fun t => ?_
  split <;> simp

@[simp] theorem releaseTo_still (k m s) : still (releaseTo k m s) = still s :=
  foldl_still (fun t h => by split <;> simp) _ _

@[simp] theorem execFlush_still (l h s) : Still (execFlush l h s) s :=
  takePkt_still _ _ _ _ _ _ _ _ fun t => by split <;> simp

@[simp] theorem raiseConflicts_still (old s) : still (raiseConflicts old s) = still s := by simp [raiseConflicts]
@[simp] theorem markConflict_still (k s) : still (markConflict k s) = still s := by
  simp only [markConflict]
  repeat' split
  all_goals simp [*]

@[simp] theorem judgeClaims_still (old s) : still (judgeClaims old s) = still s := by simp [judgeClaims]
@[simp] theorem relayAnnounce_still (l h p s) : still (relayAnnounce l h p s) = still s := by simp [relayAnnounce]
@[simp] theorem execAnnounce_still (l h members reach s) : Still (execAnnounce l h members reach s) s :=
  takePkt_still _ _ _ _ _ _ _ _ fun t => by simp

@[simp] theorem takeBundle_still (k h layer sender ps s) : still (takeBundle k h layer sender ps s) = still s := by
  simp only [takeBundle]
  repeat' split
  all_goals simp [*]

@[simp] theorem execBundle_still (l h layer sender pairs s) : Still (execBundle l h layer sender pairs s) s :=
  takePkt_still _ _ _ _ _ _ _ _ fun t => by split <;> simp

@[simp] theorem takeAuth_still (l f s) : Still (takeAuth l f s) s := by simp [takeAuth]
@[simp] theorem execSpdm_still (l message s) : Still (execSpdm l message s) s := by simp [execSpdm]
@[simp] theorem execCoord_still (l w s) : Still (execCoord l w s) s := by simp [execCoord]

/-! ## Operations of Machine/Images -/

@[simp] theorem refuse_still (q r s) : still (refuse q r s) = still s := by simp [refuse]
@[simp] theorem storeShard_still (addr x s) : still (storeShard addr x s) = still s := by simp [storeShard]
@[simp] theorem failLoad_still (h s) : still (failLoad h s) = still s := by simp [failLoad]
@[simp] theorem copyShards_still (q h l addr s) : still (copyShards q h l addr s) = still s := by
  simp only [copyShards]
  split
  · simp
  · split
    · simp
    · split <;> simp

@[simp] theorem readShard_still (x rows s) : still (readShard x rows s).2 = still s := by
  refine List.foldlRecOn (motive := fun acc : Bool × State => still acc.2 = still s) rows _ rfl fun acc h i _ => ?_
  split <;> simp [h]

/-- The equation of one more shard, by the definition's recursion alone: a default unfolding would evaluate the
checks. -/
theorem checkShards_cons (n x rest s) : checkShards n (x :: rest) s =
    let f := fun i => Memory.row (x.addr.toNat + 512 * i) s.mem
    let r := readShard x (if (checkHeader f).isSome then [0] else checkedRows f) s
    if r.1 then (some ⟨Reason.shard, 0, Sect.all, n, 0⟩, r.2)
    else
      match checkShard f with
      | some bad => (some bad, r.2)
      | none => checkShards (n + 1) rest r.2 := by
  delta checkShards
  with_reducible_and_instances rfl

@[simp] theorem checkShards_still (n l s) : still (checkShards n l s).2 = still s := by
  induction l generalizing n s with
  | nil => rfl
  | cons x rest ih =>
    rw [checkShards_cons]
    dsimp only
    generalize checkShard _ = found
    cases found <;> simp [ih]

@[simp] theorem finishLoad_still (q h s) : still (finishLoad q h s) = still s := by
  have checked := checkShards_still 0 (s.image h).shards s
  simp only [finishLoad]
  split
  all_goals next e => rw [e] at checked; simpa using checked

@[simp] theorem askYard_still (q h l s) : still (askYard q h l s) = still s := by
  simp only [askYard]
  split
  · next e => simp [(allocate_still ..).granted e]
  · next e => simp [(allocate_still ..).waits e]
  · split <;> simp

@[simp] theorem execLoadImage_still (q shards s) : Still (execLoadImage q shards s) s := by
  unfold execLoadImage
  refine starts_still _ _ _ _ fun t => ?_
  dsimp only
  repeat' split
  all_goals simp

@[simp] theorem execUnloadImage_still (q s) : Still (execUnloadImage q s) s := by
  unfold execUnloadImage
  refine starts_still _ _ _ _ fun t => ?_
  dsimp only
  repeat' split
  all_goals simp

/-! ## Operations of Machine/Matrix -/

@[simp] theorem execMreg_still (c f stop s) : Still (execMreg c f stop s) s := by
  refine issue_still _ _ _ _ _ _ fun t => ?_
  repeat' split
  all_goals simp [*]

@[simp] theorem readPlane_still (c x first rows s) : still (readPlane c x first rows s).2 = still s :=
  readBenchRows_still ..

@[simp] theorem readStationary_still (c x p e sp cb s) :
    still (readStationary c x p e sp cb s).2 = still s := by simp [readStationary]

@[simp] theorem runUnits_still (c f o us s) : still (runUnits c f o us s) = still s := by
  simp only [runUnits]
  repeat' split
  all_goals simp

@[simp] theorem passTake_still (c o b s) : still (passTake c o b s).2 = still s := by
  simp only [passTake]
  repeat' split
  all_goals simp [*]

@[simp] theorem passStop_still (c f o b conflict paused marker q s) :
    still (passStop c f o b conflict paused marker q s) = still s := by
  fun_cases passStop c f o b conflict paused marker q s <;> simp [*]

@[simp] theorem execMpass_still (c f conflict stop wload s) : Still (execMpass c f conflict stop wload s) s := by
  refine issue_still _ _ _ _ _ _ fun t => ?_
  dsimp only
  repeat' split
  all_goals simp

/-! ## Operations of Machine/Tasks -/

@[simp] theorem startTask_still (c w s) : still (startTask c w s) = still s := by simp [startTask]
@[simp] theorem onStep_still (c f s) : still (onStep c f s) = still s := by
  fun_cases onStep c f s <;> simp [*]

@[simp] theorem noteDispatch_still (c w s) : still (noteDispatch c w s) = still s := by simp [noteDispatch]
@[simp] theorem execTaskDispatch_still (c w s) : Still (execTaskDispatch c w s) s := by simp [execTaskDispatch]
@[simp] theorem addTotals_still (c x s) : still (addTotals c x s) = still s := by
  fun_cases addTotals c x s <;> simp [*]

@[simp] theorem verdict_still (k c tag kind attempts row fail s) :
    still (verdict k c tag kind attempts row fail s) = still s := by simp [verdict]

@[simp] theorem checksumFlagged_still (k c x w pass row s) : still (checksumFlagged k c x w pass row s) = still s := by
  simp only [checksumFlagged]
  repeat' split
  all_goals simp [*]

@[simp] theorem startNext_still (c s) : still (startNext c s) = still s := by
  fun_cases startNext c s <;> simp [*]

@[simp] theorem retireTask_still (c w s) : still (retireTask c w s) = still s := by
  simp only [retireTask]
  repeat' split
  all_goals simp

@[simp] theorem execTaskRetire_still (c s) : Still (execTaskRetire c s) s := by
  simp only [execTaskRetire]
  repeat' split
  all_goals simp [*]

@[simp] theorem execHalt_still (c s) : Still (execHalt c s) s := by simp [execHalt]
@[simp] theorem execCoreHalted_still (c s) : Still (execCoreHalted c s) s := by simp [execCoreHalted]
@[simp] theorem execCoreDeadTimeout_still (c s) : Still (execCoreDeadTimeout c s) s := by simp [execCoreDeadTimeout]
@[simp] theorem resetAndReplay_still (c s) : still (resetAndReplay c s) = still s := by
  simp only [resetAndReplay]
  repeat' split
  all_goals simp [*]

@[simp] theorem execCoreReset_still (c q s) : Still (execCoreReset c q s) s := by
  fun_cases execCoreReset c q s <;> simp [*]

@[simp] theorem resetCoupe_still (k s) : still (resetCoupe k s) = still s := by simp [resetCoupe]
@[simp] theorem execCoupeReset_still (k q s) : Still (execCoupeReset k q s) s := by
  fun_cases execCoupeReset k q s <;> simp [*]

/-! ## Operations of Machine/Save -/

@[simp] theorem writeFile_still {w} (a size) (l : Sparse (BitVec w)) (s) : still (writeFile a size l s) = still s := by
  simp [writeFile]

@[simp] theorem writeItems_still (a l s) : still (writeItems a l s) = still s :=
  foldl_still (fun t e => by split <;> simp) _ _

@[simp] theorem writeImage_still (a c s) : still (writeImage a c s) = still s := by
  refine (foldl_still (fun t p => ?_) _ _).trans ?_ <;> simp

@[simp] theorem saveBench_still (c dst s) : still (saveBench c dst s) = still s := by simp [saveBench]
@[simp] theorem writePaused_still (a l s) : still (writePaused a l s) = still s := by simp [writePaused]
@[simp] theorem writeArea_still (a g paused s) : still (writeArea a g paused s) = still s := by
  refine (foldl_still (fun t c => ?_) _ _).trans ?_ <;> simp

@[simp] theorem saveStands_still (k) : ∀ paused l s, still (saveStands k paused l s).2 = still s
  | _, [], _ => rfl
  | paused, a :: rest, s => by
    simp only [saveStands, saveStands_still k [] rest]
    split <;> simp

@[simp] theorem saveRows_still (c rows s) : still (saveRows c rows s).2 = still s := by simp [saveRows]
@[simp] theorem saveJobCores_still (cfg) : ∀ l s, still (saveJobCores cfg l s).2 = still s
  | [], _ => rfl
  | c :: cs, s => by simp [saveJobCores, saveJobCores_still cfg cs]

@[simp] theorem saveJobStands_still (k cfg) : ∀ l s, still (saveJobStands k cfg l s).2 = still s
  | [], _ => rfl
  | g :: gs, s => by simp [saveJobStands, saveJobStands_still k cfg gs]

@[simp] theorem restoreBench_still (c src s) : still (restoreBench c src s) = still s := by simp [restoreBench]
@[simp] theorem restoreCore_still (x s) : still (restoreCore x s) = still s := by simp [restoreCore]
@[simp] theorem restoreArea_still (k a s) : still (restoreArea k a s) = still s :=
  foldl_still (fun t x => by dsimp only; split <;> simp) _ _

@[simp] theorem restoreRows_still (x s) : still (restoreRows x s) = still s := by simp [restoreRows]
@[simp] theorem sendAgain_still (c l s) : still (sendAgain c l s) = still s := by simp [sendAgain]
@[simp] theorem reissueReads_still (c s) : still (reissueReads c s) = still s := by simp [reissueReads]
@[simp] theorem unhaltCore.startNextIdle_still (c s) :
    still (unhaltCore.startNextIdle c s) = still s := by simp [unhaltCore.startNextIdle]

@[simp] theorem unhaltCore_still (c s) : still (unhaltCore c s) = still s := by simp [unhaltCore]

/-! ## Operations of Machine/Coupes -/

@[simp] theorem startPreempt_still (k act s) : still (startPreempt k act s) = still s := by simp [startPreempt]
@[simp] theorem execCoupeQuiesced_still (k s) : Still (execCoupeQuiesced k s) s := by simp [execCoupeQuiesced]
@[simp] theorem stopBallast_still (g s) : still (stopBallast g s) = still s := by simp [stopBallast]
@[simp] theorem createDone_still (ring pos w s) : still (createDone ring pos w s) = still s := by simp [createDone]
@[simp] theorem takeHolders_still (k ring pos m s) :
    still (takeHolders k ring pos m s) = still s := by simp [takeHolders]

@[simp] theorem createTake_still (q s) : still (createTake q s) = still s := by simp [createTake]
@[simp] theorem reserveSaves_still (q k gs ok s) (h : ∀ t, still (ok t) = still t) :
    still (reserveSaves q k gs ok s) = still s := by
  simp only [reserveSaves]
  split
  · simp
  · split
    · next e => simp [h, (allocateRuns_still ..).granted e]
    · next e => simp [(allocateRuns_still ..).waits e]
    · split <;> simp

@[simp] theorem execCoupeCreate_still (q s) : Still (execCoupeCreate q s) s := by
  refine starts_still _ _ _ _ fun t => ?_
  repeat' split
  all_goals simp

@[simp] theorem resumeStart_still (k ring pos s) : still (resumeStart k ring pos s) = still s := by
  fun_cases resumeStart k ring pos s <;> simp [*]

@[simp] theorem afterSave_still (act s) : still (afterSave act s) = still s := by
  fun_cases afterSave act s <;> simp [*]

@[simp] theorem execSaveComplete_still (k s) : Still (execSaveComplete k s) s := by
  simp only [execSaveComplete]
  repeat' split
  all_goals simp [*]

@[simp] theorem setStands_still (k m s) : still (setStands k m s) = still s := by simp [setStands]
@[simp] theorem applyCoupeSet_still (k w s) : still (applyCoupeSet k w s) = still s := by simp [applyCoupeSet]
@[simp] theorem execCoupeSet_still (q s) : Still (execCoupeSet q s) s := by
  refine starts_still _ _ _ _ fun t => ?_
  simp

@[simp] theorem endAllHeld_still (k s) : still (endAllHeld k s) = still s := by simp [endAllHeld]
@[simp] theorem endOpenStep_still (k status s) : still (endOpenStep k status s) = still s := by
  simp only [endOpenStep]
  repeat' split
  all_goals simp [*]

@[simp] theorem endReady_still (k s) : still (endReady k s) = still s := by simp [endReady]
@[simp] theorem clearReady_still (k s) : still (clearReady k s) = still s := by simp [clearReady]
@[simp] theorem disown_still (k s) : still (disown k s) = still s := by simp [disown]
@[simp] theorem destroyCoupe_still (k s) : still (destroyCoupe k s) = still s := by simp [destroyCoupe]
@[simp] theorem startDrain_still (k act s) : still (startDrain k act s) = still s := by simp [startDrain]
@[simp] theorem execCoupeDestroy_still (q s) : Still (execCoupeDestroy q s) s := by
  refine starts_still _ _ _ _ fun t => ?_
  dsimp only
  repeat' split
  all_goals simp

@[simp] theorem execCoupePreempt_still (q s) : Still (execCoupePreempt q s) s := by simp [execCoupePreempt]
@[simp] theorem execCoupeResume_still (q s) : Still (execCoupeResume q s) s := by simp [execCoupeResume]
@[simp] theorem execResumeComplete_still (k s) : Still (execResumeComplete k s) s := by
  simp only [execResumeComplete]
  repeat' split
  all_goals simp [*]

@[simp] theorem saveJob_still (k s) : still (saveJob k s) = still s := by
  simp only [saveJob]
  repeat' split
  all_goals simp [*]

@[simp] theorem clearRows_still (cfg c s) : still (clearRows cfg c s) = still s := by simp [clearRows]
@[simp] theorem restoreJob_still (k j s) : still (restoreJob k j s) = still s := by
  simp only [restoreJob]
  repeat' split
  all_goals simp [*]

@[simp] theorem switchJob_still (k j s) : still (switchJob k j s) = still s := by
  fun_cases switchJob k j s <;> simp [*]

@[simp] theorem execJobSwitch_still (k s) : Still (execJobSwitch k s) s := by
  fun_cases execJobSwitch k s <;> simp [*]

@[simp] theorem execSpanSet_still (q s) : Still (execSpanSet q s) s := by simp [execSpanSet]

/-! ## Operations of Machine/BindCmd -/

@[simp] theorem execDrain_still (q s) : Still (execDrain q s) s := by
  refine starts_still _ _ _ _ fun t => ?_
  dsimp only
  repeat' split
  all_goals simp

@[simp] theorem pushEnds_still (k s) : still (pushEnds k s) = still s := by simp [pushEnds]
@[simp] theorem drained_still (k s) : still (drained k s) = still s := by simp [drained]
@[simp] theorem execCoupeDrained_still (k s) : Still (execCoupeDrained k s) s := by
  simp only [execCoupeDrained]
  repeat' split
  all_goals simp [*]

@[simp] theorem fillCopy_still (h n s) : still (fillCopy h n s) = still s := by
  fun_cases fillCopy h n s <;> simp [*]

@[simp] theorem takeFloor_still (q cfg s) : still (takeFloor q cfg s) = still s := by simp [takeFloor]
@[simp] theorem dropParts_still (q s) : still (dropParts q s) = still s := by simp [dropParts]
@[simp] theorem deckReady_still (h s) : still (deckReady h s) = still s := by simp [deckReady]
@[simp] theorem readLease_still (a s) : still (readLease a s).2 = still s := by simp [readLease]
@[simp] theorem stageRun_still (runs r s) : still (stageRun runs r s) = still s := by simp [stageRun]
@[simp] theorem stageTile_still (cfg runs l s) : still (stageTile cfg runs l s) = still s :=
  foldl_still (fun t e => by dsimp only; split <;> simp) _ _

@[simp] theorem stageFrom_still (runs cfg s) : still (stageFrom runs cfg s) = still s := by simp [stageFrom]
@[simp] theorem stageConfig_still (cfg s) : still (stageConfig cfg s) = still s := by simp [stageConfig]
@[simp] theorem closeWindows_still (c s) : still (closeWindows c s) = still s := by simp [closeWindows]
@[simp] theorem attach_still (q cfg s) : still (attach q cfg s) = still s := by simp [attach]
@[simp] theorem bindFails_still (q r s) : still (bindFails q r s) = still s := by simp [bindFails]
@[simp] theorem bindWaits_still (q act s) : still (bindWaits q act s) = still s := by simp [bindWaits]
@[simp] theorem bindGoes_still (q runs s) : still (bindGoes q runs s) = still s := by
  simp only [bindGoes]
  split
  · next e => simp [(placeRuns_still ..).granted e]
  · next e => simp [(placeRuns_still ..).waits e]
  · rfl

@[simp] theorem bindChecks_still (q s) : still (bindChecks q s) = still s := by
  simp only [bindChecks]
  repeat' split
  all_goals simp [*]

@[simp] theorem bindNow_still (q s) : still (bindNow q s) = still s := by
  fun_cases bindNow q s <;> simp [*]

@[simp] theorem execBind_still (q s) : Still (execBind q s) s := by
  refine starts_still _ _ _ _ fun t => ?_
  dsimp only
  repeat' split
  all_goals simp

/-! ## Operations of Machine/RingEngine -/

@[simp] theorem raiseRing_still (kind value r s) : still (raiseRing kind value r s) = still s := by simp [raiseRing]
@[simp] theorem ringError_still (r cause s) : still (ringError r cause s) = still s := by simp [ringError]
@[simp] theorem placeRing_still (valid r w s) : still (placeRing valid r w s) = still s := by simp [placeRing]
@[simp] theorem observe_still (r n s) : still (observe r n s) = still s := by simp [observe]
@[simp] theorem execDoorbellWrite_still (r count s) :
    Still (execDoorbellWrite r count s) s := by simp [execDoorbellWrite]

@[simp] theorem execPollRound_still (counts s) : Still (execPollRound counts s) s := by simp [execPollRound]
@[simp] theorem acceptOne_still (r w s) : still (acceptOne r w s) = still s := by simp [acceptOne]
@[simp] theorem endTurn_still (r s) : still (endTurn r s) = still s := by simp [endTurn]
@[simp] theorem execDescriptorFetch_still (ds s) : Still (execDescriptorFetch ds s) s := by
  fun_cases execDescriptorFetch ds s <;> simp [*]

@[simp] theorem execRingSet_still (q entry s) : Still (execRingSet q entry s) s := by simp [execRingSet]
@[simp] theorem applyRingEntry_still (r w s) : still (applyRingEntry r w s) = still s := by simp [applyRingEntry]
@[simp] theorem execBark_still (s) : Still (execBark s) s := by simp [execBark]

/-! ## Operations of Machine/Publish -/

@[simp] theorem applySpanSet_still (k id count index s) :
    still (applySpanSet k id count index s) = still s := by simp [applySpanSet]

@[simp] theorem remapFailed_still (g s) : still (remapFailed g s) = still s := by
  simp only [remapFailed, still_ite, State.setStand_still, ite_self]
  refine foldl_still (fun t c => ?_) _ _
  split
  · split <;> simp
  · rfl

@[simp] theorem applyDue_still (d s) : still (applyDue d s) = still s := by
  simp only [applyDue]
  repeat' split
  all_goals simp [*]

@[simp] theorem applyDues_still (l s) : still (applyDues l s) = still s := by simp [applyDues]
@[simp] theorem releaseNumbers_still (s) : still (releaseNumbers s) = still s := by simp [releaseNumbers]
@[simp] theorem applyCommit_still (s) : still (applyCommit s) = still s := by simp [applyCommit]
@[simp] theorem clearSuspects_still (s) : still (clearSuspects s) = still s := by simp [clearSuspects]
@[simp] theorem freeFailed_still (r pos s) : still (freeFailed r pos s) = still s := by
  fun_cases freeFailed r pos s <;> simp [*]

@[simp] theorem publishOne_still (n r e s) : still (publishOne n r e s) = still s := by
  simp only [publishOne]
  repeat' split
  all_goals simp [*]

@[simp] theorem publishRing_still (n r s) : still (publishRing n r s) = still s := by simp [publishRing]
@[simp] theorem publishRings_still (n s) : still (publishRings n s) = still s := by simp [publishRings]
@[simp] theorem putAttention_still (n r e s) : still (putAttention n r e s) = still s := by simp [putAttention]
@[simp] theorem putOverflow_still (n r s) : still (putOverflow n r s) = still s := by simp [putOverflow]
@[simp] theorem loseAttention_still (r s) : still (loseAttention r s) = still s := by simp [loseAttention]
@[simp] theorem dropAttention_still (s) : still (dropAttention s) = still s := by simp [dropAttention]
@[simp] theorem publishEvent_still (n e s) : still (publishEvent n e s) = still s := by
  simp only [publishEvent]
  repeat' split
  all_goals simp [*]

@[simp] theorem notifyRing_still (n r s) : still (notifyRing n r s) = still s := by
  simp only [notifyRing]
  repeat' split
  all_goals simp [*]

@[simp] theorem publishEvents_still (n s) : still (publishEvents n s) = still s := by simp [publishEvents]
@[simp] theorem publish_still (s) : still (publish s) = still s := by simp [publish]

/-! ## Operations of Machine/Admin -/

@[simp] theorem execExpertMap_still (q map s) : Still (execExpertMap q map s) s := by
  simp only [execExpertMap]
  repeat' split
  all_goals simp [*]

@[simp] theorem yardByHalf_still (s) : still (yardByHalf s) = still s := by simp [yardByHalf]
@[simp] theorem yardAtBringUp_still (s) : still (yardAtBringUp s) = still s := by simp [yardAtBringUp]
@[simp] theorem moveJournal_still (i s) : still (moveJournal i s) = still s := by
  simp only [moveJournal]
  repeat' split
  all_goals simp [*]

@[simp] theorem byRanger_still (q body s) (h : ∀ t, still (body t) = still t) :
    still (byRanger q body s) = still s := by
  simp [byRanger, h]

@[simp] theorem isolate_still (target index s) : still (isolate target index s) = still s := by
  simp only [isolate]
  repeat' split
  all_goals simp [*]

@[simp] theorem beginTest_still (q s) : still (beginTest q s) = still s := by simp [beginTest]
@[simp] theorem execSelfTest_still (q s) : Still (execSelfTest q s) s := by simp [execSelfTest]
@[simp] theorem setBlock_still (b s) : still (setBlock b s) = still s := by simp [setBlock]
@[simp] theorem reinit_still (target index verdict s) : still (reinit target index verdict s) = still s := by
  simp only [reinit]
  repeat' split
  all_goals simp [*]

@[simp] theorem endTest_still (t verdict f s) : still (endTest t verdict f s) = still s := by simp [endTest]
@[simp] theorem execSelfTestComplete_still (target index finding s) :
    Still (execSelfTestComplete target index finding s) s := by
  fun_cases execSelfTestComplete target index finding s <;> simp [*]

@[simp] theorem applyLine_still (g e s) : still (applyLine g e s) = still s := by
  simp only [applyLine]
  repeat' split
  all_goals simp [*]

@[simp] theorem execRepairSoft_still (q s) : Still (execRepairSoft q s) s := by
  simp only [execRepairSoft]
  split
  · simp
  · refine starts_still _ _ _ _ fun t => byRanger_still _ _ _ fun u => ?_
    simp

@[simp] theorem execRepairHard_still (q s) : Still (execRepairHard q s) s := by simp [execRepairHard]
@[simp] theorem setClock_still (g mhz p s) : still (setClock g mhz p s) = still s := by simp [setClock]
@[simp] theorem wakePatrol_still (g s) : still (wakePatrol g s) = still s := by simp [wakePatrol]
@[simp] theorem coresOff_still (g s) : still (coresOff g s) = still s := by simp [coresOff]
@[simp] theorem leaveS3_still (i mhz p s) : still (leaveS3 i mhz p s) = still s := by
  simp only [leaveS3]
  repeat' split
  all_goals simp [*]

@[simp] theorem enterS3_still (i s) : still (enterS3 i s) = still s := by
  simp only [enterS3]
  repeat' split
  all_goals simp [*]

@[simp] theorem clockStand_still (mhz p g s) : still (clockStand mhz p g s) = still s := by
  simp only [clockStand]
  repeat' split
  all_goals simp [*]

@[simp] theorem powerStand_still (p g s) : still (powerStand p g s) = still s := by simp [powerStand]
@[simp] theorem endClock_still (q s) : still (endClock q s) = still s := by simp [endClock]
@[simp] theorem execPower_still (q s) : Still (execPower q s) s :=
  starts_still _ _ _ _ fun t => byRanger_still _ _ _ fun u => by simp

@[simp] theorem execClock_still (q s) : Still (execClock q s) s :=
  starts_still _ _ _ _ fun t => byRanger_still _ _ _ fun u => by simp

@[simp] theorem endClocks_still (s) : still (endClocks s) = still s := by simp [endClocks]
@[simp] theorem execClockChangeApply_still (g s) : Still (execClockChangeApply g s) s := by
  simp only [execClockChangeApply]
  repeat' split
  all_goals simp [*]

@[simp] theorem execBallast_still (q s) : Still (execBallast q s) s := by simp [execBallast]
@[simp] theorem execBallastUpdate_still (w s) : Still (execBallastUpdate w s) s := by
  simp only [execBallastUpdate, Still_ite, still_next, still_ite, raise0_still, ite_self]
  split
  · trivial
  · exact still_withPower (by simp) rfl rfl

/-! ## Operations of Machine/BenchOps -/

@[simp] theorem copyRows_still (c) : ∀ n d a s, still (copyRows c n d a s) = still s
  | 0, _, _, _ => rfl
  | n + 1, d, a, s => by simp [copyRows, copyRows_still c n]

@[simp] theorem execBcopy_still (c f stop s) : Still (execBcopy c f stop s) s := by
  fun_cases execBcopy c f stop s
  simp [*]

@[simp] theorem execRdw_still (c f s) : Still (execRdw c f s) s := by simp [execRdw]
@[simp] theorem execLdv_still (c f s) : Still (execLdv c f s) s := by simp [execLdv]
@[simp] theorem execStv_still (c f s) : Still (execStv c f s) s := by simp [execStv]
@[simp] theorem sendReads_still (c f) : ∀ n out s, still (sendReads c f n out s) = still s
  | 0, _, _ => rfl
  | n + 1, out, s => by simp [sendReads, sendReads_still c f n]

@[simp] theorem execRread_still (c f s) : Still (execRread c f s) s := by
  refine issue_still _ _ _ _ _ _ fun t => ?_
  repeat' split
  all_goals simp [*]

@[simp] theorem postRows_still (c) : ∀ n a r s, still (postRows c n a r s) = still s
  | 0, _, _, _ => rfl
  | n + 1, a, r, s => by simp [postRows, postRows_still c n]

@[simp] theorem execRwrite_still (c f stop s) : Still (execRwrite c f stop s) s := by
  fun_cases execRwrite c f stop s
  simp [*]

@[simp] theorem execWset_still (c f s) : Still (execWset c f s) s := by simp [execWset]
@[simp] theorem execWclr_still (c f s) : Still (execWclr c f s) s := by simp [execWclr]

/-! ## Operations of Machine/Control -/

@[simp] theorem aluBI_still (n op c f s) : Still (aluBI n op c f s) s := by simp [aluBI]
@[simp] theorem execNop_still (c f s) : Still (execNop c f s) s := by simp [execNop]
@[simp] theorem execAdd_still (c f s) : Still (execAdd c f s) s := by simp [execAdd]
@[simp] theorem execSub_still (c f s) : Still (execSub c f s) s := by simp [execSub]
@[simp] theorem execAnd_still (c f s) : Still (execAnd c f s) s := by simp [execAnd]
@[simp] theorem execOr_still (c f s) : Still (execOr c f s) s := by simp [execOr]
@[simp] theorem execXor_still (c f s) : Still (execXor c f s) s := by simp [execXor]
@[simp] theorem execShl_still (c f s) : Still (execShl c f s) s := by simp [execShl]
@[simp] theorem execShr_still (c f s) : Still (execShr c f s) s := by simp [execShr]
@[simp] theorem execSar_still (c f s) : Still (execSar c f s) s := by simp [execSar]
@[simp] theorem execMul_still (c f s) : Still (execMul c f s) s := by simp [execMul]
@[simp] theorem execSlt_still (c f s) : Still (execSlt c f s) s := by simp [execSlt]
@[simp] theorem execSltu_still (c f s) : Still (execSltu c f s) s := by simp [execSltu]
@[simp] theorem execSeq_still (c f s) : Still (execSeq c f s) s := by simp [execSeq]
@[simp] theorem execLi_still (c f s) : Still (execLi c f s) s := by simp [execLi]
@[simp] theorem execBr_still (c f s) : Still (execBr c f s) s := by simp [execBr]
@[simp] theorem branchIf_still (n cond c f s) : Still (branchIf n cond c f s) s := by simp [branchIf]
@[simp] theorem execBeq_still (c f s) : Still (execBeq c f s) s := by simp [execBeq]
@[simp] theorem execBne_still (c f s) : Still (execBne c f s) s := by simp [execBne]
@[simp] theorem execBlt_still (c f s) : Still (execBlt c f s) s := by simp [execBlt]
@[simp] theorem execBge_still (c f s) : Still (execBge c f s) s := by simp [execBge]
@[simp] theorem execLoop_still (c f s) : Still (execLoop c f s) s := by simp [execLoop]
@[simp] theorem execJal_still (c f s) : Still (execJal c f s) s := by simp [execJal]
@[simp] theorem execJr_still (c f s) : Still (execJr c f s) s := by simp [execJr]
@[simp] theorem execEndTask_still (c f s) : Still (execEndTask c f s) s := by simp [execEndTask]

/-! ## Operations of Machine/Failures -/

@[simp] theorem execStandLost_still (g cause s) : Still (execStandLost g cause s) s := by simp [execStandLost]
@[simp] theorem execSramDieFailure_still (i die s) :
    Still (execSramDieFailure i die s) s := by simp [execSramDieFailure]

@[simp] theorem loseGroup_still (g s) : still (loseGroup g s) = still s := by simp [loseGroup]
@[simp] theorem loseSeqPart_still (i s t) : still (loseSeqPart i s t) = still s := by
  fun_cases loseSeqPart i s t <;> simp [*]

@[simp] theorem dropStack_still (i s) : still (dropStack i s) = still s := by simp [dropStack]
@[simp] theorem markStep_still (i lost before k s) : still (markStep i lost before k s) = still s := by
  fun_cases markStep i lost before k s <;> simp [*]

@[simp] theorem unhalt_still (k s) : still (unhalt k s) = still s := by simp [unhalt]
@[simp] theorem loseSaved_still (k s) : still (loseSaved k s) = still s := by simp [loseSaved]
@[simp] theorem loseArea_still (k s) : still (loseArea k s) = still s := by
  simp only [loseArea]
  repeat' split
  all_goals simp [*]

@[simp] theorem loseJobs_still (i s) : still (loseJobs i s) = still s :=
  foldl_still (fun t a => by split <;> [(split <;> simp); rfl]) _ _

@[simp] theorem floorsAgain_still (s) : still (floorsAgain s) = still s := by simp [floorsAgain]
@[simp] theorem abortPaused_still (f s) : still (abortPaused f s) = still s :=
  foldl_still (fun t k => by split <;> simp) _ _

@[simp] theorem abortFailed_still (f lo hi s) : still (abortFailed f lo hi s) = still s := by simp [abortFailed]
@[simp] theorem dropAsked_still (i s) : still (dropAsked i s) = still s := by simp [dropAsked]
@[simp] theorem execDeckStackFailure_still (i s) : Still (execDeckStackFailure i s) s := by simp [execDeckStackFailure]
@[simp] theorem failLoads_still (h s) : still (failLoads h s) = still s := by simp [failLoads]
@[simp] theorem loseImage_still (h s) : still (loseImage h s) = still s := by simp [loseImage]
@[simp] theorem loseRecall_still (g s) : still (loseRecall g s) = still s := by simp [loseRecall]
@[simp] theorem emptyYard_still (s) : still (emptyYard s) = still s := by simp [emptyYard]
@[simp] theorem execYardChannelFailure_still (c s) :
    Still (execYardChannelFailure c s) s := by simp [execYardChannelFailure]

/-! ## Operations of Machine/Power -/

@[simp] theorem coldSlots_still (g s) : still (coldSlots g s) = still s :=
  foldl_still (fun t c => by split <;> [(split <;> simp); rfl]) _ _

@[simp] theorem logPower_still (w s) : still (logPower w s) = still s := by simp [logPower]
theorem nextOr_still {o s} (h : Still o s) : still (nextOr o s) = still s := by
  simp only [nextOr]
  split
  · exact h _ rfl
  · rfl

@[simp] theorem loseConsumers_still (r i s) : still (loseConsumers r i s) = still s := by
  simp only [loseConsumers]
  split <;> simp [nextOr_still]

@[simp] theorem returnConsumers_still (r i s) : still (returnConsumers r i s) = still s := by
  simp only [returnConsumers]
  repeat' split
  all_goals simp [*]

@[simp] theorem bringUpUnits_still (b s) : still (bringUpUnits b s) = still s := by simp [bringUpUnits]
@[simp] theorem bringUpJournal_still (s) : still (bringUpJournal s) = still s := by simp [bringUpJournal]
@[simp] theorem bringUpRepairs_still (b s) : still (bringUpRepairs b s) = still s := by simp [bringUpRepairs]
@[simp] theorem execBringUpComplete_still (b s) : Still (execBringUpComplete b s) s := by simp [execBringUpComplete]
@[simp] theorem execStandCalibrated_still (g mv s) :
    Still (execStandCalibrated g mv s) s := by simp [execStandCalibrated]

@[simp] theorem judge_still (x t limit s) : still (judge x t limit s) = still s := by simp [judge]
@[simp] theorem keepReading_still (l x t s) : still (keepReading l x t s) = still s := by
  fun_cases keepReading l x t s <;> simp [*]

@[simp] theorem execSensorPoll_still (readings s) : Still (execSensorPoll readings s) s := by
  simp only [execSensorPoll]
  repeat' split
  all_goals simp [*]

@[simp] theorem benchesLost_still (s) : still (benchesLost s) = still s := by simp [benchesLost]
@[simp] theorem tiersRest_still (s) : still (tiersRest s) = still s := by simp [tiersRest]
@[simp] theorem tiersWake_still (s) : still (tiersWake s) = still s := by simp [tiersWake]
@[simp] theorem stopClocks_still (s) : still (stopClocks s) = still s := by simp [stopClocks]
@[simp] theorem ballastOff_still (s) : still (ballastOff s) = still s := by simp [ballastOff]
@[simp] theorem linksDown_still (eth s) : still (linksDown eth s) = still s := by simp [linksDown]
@[simp] theorem abortTests_still (s) : still (abortTests s) = still s := by simp [abortTests]
@[simp] theorem execRangerWatchdog_still (s) : Still (execRangerWatchdog s) s := by simp [execRangerWatchdog]

/-! ## Operations of Machine/Quantise -/

@[simp] theorem execQcw_still (c f s) : Still (execQcw c f s) s := by simp [execQcw]
@[simp] theorem execQcb_still (c f s) : Still (execQcb c f s) s := by simp [execQcb]
@[simp] theorem emitFull_still (c s) : still (emitFull c s).2 = still s := by
  fun_cases emitFull c s <;> simp [*]

@[simp] theorem qcvtGroups_still (c f) : ∀ fuel n s, still (qcvtGroups c f fuel n s).2.2 = still s
  | 0, n, s => by simp [qcvtGroups]
  | fuel + 1, n, s => by simp [qcvtGroups, apply_ite Prod.snd, qcvtGroups_still c f fuel]

@[simp] theorem qcvtPortGroups_still (c b l n s) : still (qcvtPortGroups c b l n s).2.2.2 = still s := by
  fun_induction qcvtPortGroups c b l n s with
  | case5 n s ok t e _ _ d p rest vals t1 ih =>
    have taken : still t1 = still t := by
      simp only [t1]
      split <;> simp
    rw [ih, quantise_still, taken, still_of_pair (emitFull_still c s) e]
  | case1 _ _ _ _ _ e => exact still_of_pair (emitFull_still c _) e
  | case2 _ _ _ _ e => exact still_of_pair (emitFull_still c _) e
  | case3 _ _ _ _ e => exact still_of_pair (emitFull_still c _) e
  | case4 _ _ _ _ e => exact still_of_pair (emitFull_still c _) e

@[simp] theorem qcvtDone_still (c f n s) : still (qcvtDone c f n s) = still s := by simp [qcvtDone]
@[simp] theorem qcvtWaitOut_still (c f n s) : still (qcvtWaitOut c f n s) = still s := by simp [qcvtWaitOut]
@[simp] theorem qcvtOpen_still (c f s) : still (qcvtOpen c f s).2 = still s := by
  simp only [qcvtOpen]
  repeat' split
  all_goals simp [*]

@[simp] theorem execQcvt_still (c f stop s) : Still (execQcvt c f stop s) s := by
  refine issue_still _ _ _ _ _ _ fun t => ?_
  repeat' split
  all_goals simp [*]

@[simp] theorem execQflush_still (c f stop s) : Still (execQflush c f stop s) s := by
  refine issue_still _ _ _ _ _ _ fun t => ?_
  split <;> simp

/-! ## Operations of Machine/Remote -/

@[simp] theorem execBenchStarvation_still (c row kind s) : Still (execBenchStarvation c row kind s) s := by
  fun_cases execBenchStarvation c row kind s <;> simp [*]

@[simp] theorem scrubCorrected_still (c r s) : still (scrubCorrected c r s) = still s := by simp [scrubCorrected]
@[simp] theorem execScrubRow_still (c s) : Still (execScrubRow c s) s := by simp [execScrubRow]
@[simp] theorem zombie_still (g s) : still (zombie g s) = still s := by simp [zombie]
@[simp] theorem serveRead_still (q s) : still (serveRead q s).2 = still s := by
  simp only [serveRead]
  repeat' split
  all_goals simp [*]

@[simp] theorem execRemoteReadRequest_still (c s) : Still (execRemoteReadRequest c s) s := by
  simp only [execRemoteReadRequest]
  repeat' split
  all_goals simp [*]

@[simp] theorem execRemoteReadReply_still (c s) : Still (execRemoteReadReply c s) s := by
  simp only [execRemoteReadReply]
  repeat' split
  all_goals simp [*]

@[simp] theorem execWindowRowArrival_still (c s) : Still (execWindowRowArrival c s) s := by
  simp only [execWindowRowArrival]
  repeat' split
  all_goals simp [*]

@[simp] theorem execRwriteAcknowledgement_still (c s) : Still (execRwriteAcknowledgement c s) s := by
  simp only [execRwriteAcknowledgement]
  repeat' split
  all_goals simp [*]

/-! ## Operations of Machine/Resets -/

@[simp] theorem restartRanger_still (s) : still (restartRanger s) = still s := by simp [restartRanger]
@[simp] theorem stopTests_still (s) : still (stopTests s) = still s := by simp [stopTests]
@[simp] theorem warmStop_still (pin s) : still (warmStop pin s) = still s := by simp [warmStop]
@[simp] theorem execTripWarmResetRelease_still (hottest s) :
    Still (execTripWarmResetRelease hottest s) s := by simp [execTripWarmResetRelease]

@[simp] theorem rollback_still (s) : still (rollback s) = still s := by simp [rollback]
@[simp] theorem undoLoads_still (s) : still (undoLoads s) = still s := by simp [undoLoads]
@[simp] theorem undoOpens_still (s) : still (undoOpens s) = still s := by simp [undoOpens]
@[simp] theorem restage_still (k s) : still (restage k s).2 = still s := by
  simp only [restage]
  repeat' split
  all_goals simp [*]

@[simp] theorem restageAll_still : ∀ l s, still (restageAll l s).2 = still s
  | [], _ => rfl
  | k :: ks, s => by simp [restageAll, restageAll_still ks]

@[simp] theorem recoverRing_still (lost s r) : still (recoverRing lost s r) = still s := by simp [recoverRing]
@[simp] theorem recoverRings_still (lost s) : still (recoverRings lost s) = still s := by simp [recoverRings]
@[simp] theorem trainHost_still (s) : still (trainHost s) = still s := by simp [trainHost]
@[simp] theorem drainEnd_still (s) : still (drainEnd s) = still s := by simp [drainEnd]
@[simp] theorem execCommit_still (s) : Still (execCommit s) s := by simp [execCommit]
@[simp] theorem beginDrain_still (s) : still (beginDrain s) = still s := by simp [beginDrain]
@[simp] theorem execWholeDeviceDrain_still (s) : Still (execWholeDeviceDrain s) s := by simp [execWholeDeviceDrain]
@[simp] theorem execWholeDeviceDrainTimeout_still (s) : Still (execWholeDeviceDrainTimeout s) s := by
  fun_cases execWholeDeviceDrainTimeout s <;> simp [*]

@[simp] theorem execFirmwareUpdate_still (ranger verified version s) :
    Still (execFirmwareUpdate ranger verified version s) s := by
  have watchdog := execRangerWatchdog_still s
  simp only [execFirmwareUpdate]
  split
  · simp
  · split
    · simp
    · split
      · next e => simpa [e] using watchdog
      · exact watchdog

@[simp] theorem execFunctionLevelReset_still (f s) :
    Still (execFunctionLevelReset f s) s := by simp [execFunctionLevelReset]

@[simp] theorem againRing_still (f s r) : still (againRing f s r) = still s := by simp [againRing]
@[simp] theorem execBusMasterEnable_still (f s) : Still (execBusMasterEnable f s) s := by simp [execBusMasterEnable]
@[simp] theorem execHostLinkRetrain_still (s) : Still (execHostLinkRetrain s) s := by simp [execHostLinkRetrain]
@[simp] theorem execHostLinkRestored_still (rate width s) :
    Still (execHostLinkRestored rate width s) s := by simp [execHostLinkRestored]

@[simp] theorem execCxlCacheEnableChange_still (on counts s) :
    Still (execCxlCacheEnableChange on counts s) s := by simp [execCxlCacheEnableChange]

/-! ## Operations of Machine/Setup -/

@[simp] theorem countViolation_still (s) : still (countViolation s) = still s := by simp [countViolation]
@[simp] theorem abandonLock_still (s) : still (abandonLock s) = still s := by simp [abandonLock]

@[simp] theorem resumeRing_still (valid old e s) : still (resumeRing valid old e s) = still s := by simp [resumeRing]
@[simp] theorem placeTable_still (resume l s) : still (placeTable resume l s) = still s := by simp [placeTable]
@[simp] theorem execSetupLock_still (table s) : Still (execSetupLock table s) s := by simp [execSetupLock]

/-! ## Operations of Machine/Stream -/

@[simp] theorem popRows_still (c b l n r s) : still (popRows c b l n r s).2.2.2 = still s := by
  fun_induction popRows c b l n r s with
  | case1 d p rest n r s s1 s2 ih =>
    rw [ih]; simp only [s2]
    split <;> simp [s1]
  | _ => rfl

@[simp] theorem execPop_still (c f stop s) : Still (execPop c f stop s) s := by
  simp only [execPop]
  repeat' split
  all_goals simp [*]

@[simp] theorem pushRows_still (c p b n r s) : still (pushRows c p b n r s).2.2 = still s := by
  fun_induction pushRows c p b n r s with
  | case1 => rfl
  | case2 => rfl
  | case3 n r s s0 h d s1 hr e => simp [show s1 = _ from (congrArg Prod.snd hr).symm, portRoom_still h]
  | case4 n r s s0 h d s1 hr s2 e ih =>
    simp [ih, pushItem_still e, show s1 = _ from (congrArg Prod.snd hr).symm, portRoom_still h]

@[simp] theorem execPush_still (c f stop s) : Still (execPush c f stop s) s := by
  refine issue_still _ _ _ _ _ _ fun t => ?_
  repeat' split
  all_goals simp [*]

@[simp] theorem execPopv_still (c f s) : Still (execPopv c f s) s := by
  refine issue_still _ _ _ _ _ _ fun t => ?_
  repeat' split
  all_goals simp [*]

@[simp] theorem execPushv_still (c f s) : Still (execPushv c f s) s := by
  refine issue_still _ _ _ _ _ _ fun t => ?_
  split
  · rfl
  · dsimp only
    split
    · simp
    · next h => simp [pushItem_still h]

@[simp] theorem execMark_still (c f s) : Still (execMark c f s) s := by
  refine issue_still _ _ _ _ _ _ fun t => ?_
  split
  · rfl
  · split
    · simp
    · next h => simp [pushItem_still h]

@[simp] theorem execPeek_still (c f s) : Still (execPeek c f s) s := by
  simp only [execPeek]
  repeat' split
  all_goals simp [*]

@[simp] theorem execDropm_still (c f s) : Still (execDropm c f s) s := by
  refine issue_still _ _ _ _ _ _ fun t => ?_
  split
  · rfl
  · split <;> simp

/-! ## Operations of Machine/Tap -/

@[simp] theorem tapFree_still (i s) : Still (tapFree i s) s := by simp [tapFree]
@[simp] theorem tapHold_still (i s) : Still (tapHold i s) s := by simp [tapHold]
@[simp] theorem execBypass_still (s) : Still (execBypass s) s := by simp [execBypass]
@[simp] theorem execIdcode_still (s) : Still (execIdcode s) s := by simp [execIdcode]
@[simp] theorem execSamplePreload_still (s) : Still (execSamplePreload s) s := by simp [execSamplePreload]
@[simp] theorem execExtest_still (s) : Still (execExtest s) s := by simp [execExtest]
@[simp] theorem execClamp_still (s) : Still (execClamp s) s := by simp [execClamp]
@[simp] theorem execHighz_still (s) : Still (execHighz s) s := by simp [execHighz]
@[simp] theorem execExtestPulse_still (s) : Still (execExtestPulse s) s := by simp [execExtestPulse]
@[simp] theorem execExtestTrain_still (s) : Still (execExtestTrain s) s := by simp [execExtestTrain]
@[simp] theorem execTapReset_still (s) : Still (execTapReset s) s := by simp [execTapReset]
@[simp] theorem execEntdaa_still (address s) : Still (execEntdaa address s) s := by simp [execEntdaa]

/-! ## Operations of Machine/Vector -/

@[simp] theorem vec2_still (n op c f s) : Still (vec2 n op c f s) s := by simp [vec2]
@[simp] theorem vec1_still (n op c f s) : Still (vec1 n op c f s) s := by simp [vec1]
@[simp] theorem vec3_still (n op c f s) : Still (vec3 n op c f s) s := by simp [vec3]
@[simp] theorem vecReduce_still (n op c f s) : Still (vecReduce n op c f s) s := by simp [vecReduce]
@[simp] theorem execVadd_still (c f s) : Still (execVadd c f s) s := by simp [execVadd]
@[simp] theorem execVsub_still (c f s) : Still (execVsub c f s) s := by simp [execVsub]
@[simp] theorem execVmul_still (c f s) : Still (execVmul c f s) s := by simp [execVmul]
@[simp] theorem execVfma_still (c f s) : Still (execVfma c f s) s := by simp [execVfma]
@[simp] theorem execVmin_still (c f s) : Still (execVmin c f s) s := by simp [execVmin]
@[simp] theorem execVmax_still (c f s) : Still (execVmax c f s) s := by simp [execVmax]
@[simp] theorem execVabs_still (c f s) : Still (execVabs c f s) s := by simp [execVabs]
@[simp] theorem execVneg_still (c f s) : Still (execVneg c f s) s := by simp [execVneg]
@[simp] theorem execVcsgn_still (c f s) : Still (execVcsgn c f s) s := by simp [execVcsgn]
@[simp] theorem execVcmp_still (c f s) : Still (execVcmp c f s) s := by simp [execVcmp]
@[simp] theorem execVsel_still (c f s) : Still (execVsel c f s) s := by simp [execVsel]
@[simp] theorem execVrcp_still (c f s) : Still (execVrcp c f s) s := by simp [execVrcp]
@[simp] theorem execVrsq_still (c f s) : Still (execVrsq c f s) s := by simp [execVrsq]
@[simp] theorem execVexp_still (c f s) : Still (execVexp c f s) s := by simp [execVexp]
@[simp] theorem execVlog_still (c f s) : Still (execVlog c f s) s := by simp [execVlog]
@[simp] theorem execVhsum_still (c f s) : Still (execVhsum c f s) s := by simp [execVhsum]
@[simp] theorem execVhmax_still (c f s) : Still (execVhmax c f s) s := by simp [execVhmax]
@[simp] theorem execVsmx_still (c f s) : Still (execVsmx c f s) s := by simp [execVsmx]
@[simp] theorem execVsmxn_still (c f s) : Still (execVsmxn c f s) s := by simp [execVsmxn]
@[simp] theorem execVacc_still (c f s) : Still (execVacc c f s) s := by
  simp only [execVacc]
  repeat' split
  all_goals simp [*]

@[simp] theorem execVmovs_still (c f s) : Still (execVmovs c f s) s := by simp [execVmovs]
@[simp] theorem execVbcast_still (c f s) : Still (execVbcast c f s) s := by simp [execVbcast]

end Sys2Proof.Machine
end

section
/-! PROOFS. R389: PWR_FLT_N and the rails that have latched off stay through every step that neither counts a cold reset
nor loses auxiliary power, and both are cleared by either. -/

namespace Sys2Proof.Machine

/-! ## Tables with entries dropped or changed in place -/

theorem lookup_filter_of_lookup {α : Type} {p : Nat × α → Bool} {k : Nat} {v : α} (keeps : p (k, v) = true) :
    ∀ {m : List (Nat × α)}, m.lookup k = some v → (m.filter p).lookup k = some v
  | (j, w) :: m, h => by
    by_cases e : k = j
    · subst e
      have : w = v := by simpa using h
      subst this
      simp [keeps]
    · have other : (k == j) = false := by simpa using e
      have rest := lookup_filter_of_lookup keeps (m := m) (by simpa [List.lookup, other] using h)
      by_cases q : p (j, w) = true <;> simp [q, List.lookup, other, rest]

theorem lookup_map_same_keys {α : Type} {f : Nat × α → Nat × α} (keys : ∀ e, (f e).1 = e.1) (k : Nat) :
    ∀ m : List (Nat × α), (m.map f).lookup k = (m.lookup k).map fun v => (f (k, v)).2
  | [] => rfl
  | (j, w) :: m => by
    have ih := lookup_map_same_keys keys k m
    have head : f (j, w) = (j, (f (j, w)).2) := Prod.ext (keys _) rfl
    rw [List.map_cons, head]
    by_cases e : k = j
    · subst e; simp
    · have other : (k == j) = false := by simpa using e
      simp [List.lookup, other, ih]

/-! ## What holds a power fault -/

/-- PWR_FLT_N, if asserted in `s`, is asserted in `t`, and a rail that is latched off in `s` is latched off in `t`. -/
structure FaultsHeld (s t : State) : Prop where
  asserted : s.power.pwrFlt = true → t.power.pwrFlt = true
  latched : ∀ j, (s.railUnit j).state = .latched → (t.railUnit j).state = .latched

theorem FaultsHeld.refl (s : State) : FaultsHeld s s := ⟨id, fun _ => id⟩

theorem FaultsHeld.trans {s t u : State} (h : FaultsHeld s t) (g : FaultsHeld t u) : FaultsHeld s u :=
  ⟨g.asserted ∘ h.asserted, fun j => g.latched j ∘ h.latched j⟩

theorem FaultsHeld.of_still {s t : State} (h : still t = still s) : FaultsHeld s t := by
  obtain ⟨-, rails, flt, -⟩ := still_iff.1 h
  exact ⟨by rw [flt]; exact id, fun j => by rw [State.railUnit, State.railUnit, rails]; exact id⟩

/-- A rail that is latched off is listed in the table of rails. -/
theorem railUnit_latched_iff {s : State} {j : Nat} :
    (s.railUnit j).state = .latched ↔ ∃ u, s.rails.lookup j = some u ∧ u.state = .latched := by
  rw [State.railUnit, Sparse.get]
  cases s.rails.lookup j with
  | none => simp [RailUnit.reset]
  | some u => simp

/-! ## Changes of the table of rails -/

theorem setRail_held {s : State} {i : Nat} {x : RailUnit} (h : (s.railUnit i).state = .latched → x.state = .latched) :
    FaultsHeld s (s.setRail i x) := by
  refine ⟨id, fun j hj => ?_⟩
  by_cases e : j = i
  · subst e; rw [State.setRail_railUnit]; exact h hj
  · rw [State.setRail_railUnit_other _ _ _ _ e]; exact hj

/-- Rails dropped from the table, but no latched one. -/
theorem filterRails_held {s t : State} {p : Nat × RailUnit → Bool} (rails : t.rails = s.rails.filter p)
    (flt : t.power.pwrFlt = s.power.pwrFlt) (keeps : ∀ e, e.2.state = .latched → p e = true) : FaultsHeld s t := by
  refine ⟨by rw [flt]; exact id, fun j hj => ?_⟩
  obtain ⟨u, hu, latched⟩ := railUnit_latched_iff.1 hj
  exact railUnit_latched_iff.2 ⟨u, by rw [rails]; exact lookup_filter_of_lookup (keeps (j, u) latched) hu, latched⟩

/-- CORE and SRAM rails going off or coming back: a latched one does neither (R407). -/
theorem coreRails_held (off : Bool) (s : State) : FaultsHeld s (coreRails off s) := by
  refine ⟨id, fun j hj => ?_⟩
  obtain ⟨u, hu, latched⟩ := railUnit_latched_iff.1 hj
  refine railUnit_latched_iff.2 ⟨_, (lookup_map_same_keys (fun e => ?_) j s.rails).trans (by rw [hu]; rfl), ?_⟩
  · split <;> rfl
  · dsimp only
    split <;> simp [latched]

@[simp] theorem startRail_power (r : Rail) (i : Nat) (s : State) : (startRail r i s).power = s.power := by
  simp only [startRail]
  split <;> rfl

theorem startRail_held (r : Rail) (i : Nat) (s : State) : FaultsHeld s (startRail r i s) := by
  simp only [startRail]
  split
  next due =>
    have off : (s.rail r i).state = .off := by simp_all
    exact setRail_held fun h => absurd (off.symm.trans h) (by decide)
  next => exact .refl s

/-- What every step of ramping the rails keeps, ramping them all keeps. -/
theorem startRails_related {R : State → State → Prop} (refl : ∀ s, R s s)
    (trans : ∀ {s t u}, R s t → R t u → R s u) (one : ∀ r i s, R s (startRail r i s)) (s : State) : R s (startRails s) := by
  simp only [startRails]
  split
  · exact foldl_related refl trans _ (fun t r => foldl_related refl trans _ (fun u i => one r i u) _ t) _ s
  · exact refl s

theorem startRails_held (s : State) : FaultsHeld s (startRails s) :=
  startRails_related .refl .trans startRail_held s

@[simp] theorem startRails_power (s : State) : (startRails s).power = s.power :=
  startRails_related (R := fun s t => t.power = s.power) (fun _ => rfl) (fun h g => g.trans h) startRail_power s

/-- A rail that ramps has not latched off, and nothing else latches off. -/
theorem startRails_latches_none (s : State) (h : ∀ j, (s.railUnit j).state ≠ .latched) (j : Nat) :
    ((startRails s).railUnit j).state ≠ .latched := by
  refine startRails_related
    (R := fun s t => (∀ j, (s.railUnit j).state ≠ .latched) → ∀ j, (t.railUnit j).state ≠ .latched)
    (fun _ => id) (fun h g => g ∘ h) (fun r i s h j => ?_) s h j
  simp only [startRail]
  split
  · by_cases e : j = railKey r i
    · subst e; rw [State.setRail_railUnit]; simp
    · rw [State.setRail_railUnit_other _ _ _ _ e]; exact h j
  · exact h j

theorem dropFed_held (r : Rail) (i : Nat) (s : State) : FaultsHeld s (dropFed r i s) := by
  simp only [dropFed]
  split
  · exact .refl s
  · refine foldl_related .refl .trans _ (fun t j => ?_) _ s
    split
    next live =>
      refine setRail_held fun h => ?_
      have h : (t.rail .core (16 * i + j)).state = .latched := h
      simp [h] at live
    next => exact .refl t

/-! ## A rail that latches off, and power that is lost -/

/-- A change of a rail that is not latched off. -/
theorem setRail_held_of_ne {s : State} {r : Rail} {i : Nat} {x : RailUnit} (h : (s.rail r i).state ≠ .latched) :
    FaultsHeld s (s.setRail (railKey r i) x) := setRail_held fun latched => absurd latched h

/-- The rail latched off and PWR_FLT_N asserted, before the rail's consumers leave (R389). -/
def faulted (r : Rail) (i : Nat) (s : State) : State :=
  let t := s.setRail (railKey r i) { s.rail r i with state := .latched }
  { t with power := { t.power with pwrFlt := true } }

theorem faulted_held (r : Rail) (i : Nat) (s : State) : FaultsHeld s (faulted r i s) :=
  ⟨fun _ => rfl, (setRail_held fun _ => rfl).latched⟩

@[simp] theorem faulted_rail (r : Rail) (i : Nat) (s : State) : ((faulted r i s).rail r i).state = .latched := by
  simp [faulted, State.rail, State.railUnit, State.setRail]

/-- What follows the latch holds it. -/
theorem latchRail_held (r : Rail) (i : Nat) (x : RailReading) (s : State) :
    FaultsHeld (faulted r i s) (latchRail r i x s) := by
  simp only [latchRail]
  split
  · exact .of_still (by simp [faulted])
  · refine FaultsHeld.trans (t := dropFed r i (loseConsumers r i (logPower (powerRecord s r i 3 true x) (faulted r i s))))
      ((FaultsHeld.of_still (by simp)).trans (dropFed_held ..)) ?_
    exact (FaultsHeld.of_still (by simp [faulted])).trans (startRails_held _)

theorem loseDevice_held (r : Rail) (s : State) : FaultsHeld s (loseDevice r s) :=
  filterRails_held rfl rfl fun e latched => by simp [latched]

@[simp] theorem coldState_still (s : State) : still (coldState s) = (s.pending, [], false, s.power.colds) := by
  simp only [coldState]
  refine (foldl_still (fun t g => coldSlots_still g t) _ _).trans ?_
  simp [State.reset, Power.reset]

theorem coldState_rails (s : State) : (coldState s).rails = [] := congrArg (·.2.1) (coldState_still s)
theorem coldState_pwrFlt (s : State) : (coldState s).power.pwrFlt = false := congrArg (·.2.2.1) (coldState_still s)
theorem coldState_colds (s : State) : (coldState s).power.colds = s.power.colds := congrArg (·.2.2.2) (coldState_still s)

/-! ## Cold resets are counted -/

theorem coldStart_colds (s : State) : (coldStart s).power.colds = s.power.colds + 1 := by simp [coldStart]

/-- Power faults are held, or a cold reset is counted. -/
def HeldOrCold (s t : State) : Prop := FaultsHeld s t ∨ t.power.colds = s.power.colds + 1

theorem HeldOrCold.of_still {s t : State} (h : still t = still s) : HeldOrCold s t := .inl (.of_still h)

theorem HeldOrCold.after {s t u : State} (h : HeldOrCold t u) (e : still t = still s) : HeldOrCold s u := by
  obtain ⟨-, -, -, colds⟩ := still_iff.1 e
  exact h.imp (FaultsHeld.of_still e).trans (by rw [colds]; exact id)

theorem HeldOrCold.before {s t u : State} (h : HeldOrCold s t) (e : still u = still t) : HeldOrCold s u := by
  obtain ⟨-, -, -, colds⟩ := still_iff.1 e
  exact h.imp (·.trans (.of_still e)) (by rw [colds]; exact id)

theorem coldReset_heldOrCold (s : State) : HeldOrCold s (coldReset s) := by
  simp only [coldReset]
  split
  · exact .inr (coldStart_colds _)
  · exact .inl (.refl s)

theorem warmReset_heldOrCold (pin : Bool) (s : State) : HeldOrCold s (warmReset pin s) := by
  simp only [warmReset]
  repeat' split
  case isFalse.isTrue => exact coldReset_heldOrCold s
  all_goals exact .of_still (by simp)

/-! ## What each command does to power faults -/

/-- A command that neither counts a cold reset nor loses auxiliary power holds every power fault. -/
def KeepsFaults (o : Out) (s : State) : Prop :=
  ∀ t, o = .next t → t.power.colds = s.power.colds → (t.power.aux = true ∨ s.power.aux = false) → FaultsHeld s t

theorem KeepsFaults.of_still {o : Out} {s : State} (h : Still o s) : KeepsFaults o s :=
  fun t e _ _ => .of_still (h t e)

theorem keepsFaults_next {s t : State} (h : HeldOrCold s t) : KeepsFaults (.next t) s := by
  rintro _ ⟨⟩ colds -
  exact h.resolve_right (by simp [colds])

theorem keepsFaults_held {s t : State} (h : FaultsHeld s t) : KeepsFaults (.next t) s := keepsFaults_next (.inl h)

section
variable (s : State)

theorem execRailOutOfRegulation_keepsFaults (r i x) : KeepsFaults (execRailOutOfRegulation r i x s) s := by
  unfold execRailOutOfRegulation
  extract_lets u s1 s2
  split
  · exact keepsFaults_held (.refl s)
  next on =>
    have shut : FaultsHeld s s1 := setRail_held_of_ne (by simp_all [u])
    have lost : FaultsHeld s1 s2 := by
      simp only [s2]
      split
      · exact loseDevice_held r s1
      · exact (FaultsHeld.of_still (by simp)).trans (dropFed_held ..)
    exact keepsFaults_held (shut.trans (lost.trans (.of_still (by simp))))

theorem execRailRampTimeout_keepsFaults (r i x) : KeepsFaults (execRailRampTimeout r i x s) s := by
  unfold execRailRampTimeout
  extract_lets u
  split
  · exact keepsFaults_held (.refl s)
  next ramping =>
    split
    · exact keepsFaults_held ((faulted_held ..).trans (latchRail_held ..))
    · exact keepsFaults_held ((setRail_held_of_ne (by simp_all [u])).trans (startRails_held _))

theorem execRailRetry_keepsFaults (r i) : KeepsFaults (execRailRetry r i s) s := by
  unfold execRailRetry
  extract_lets u
  split
  next off => exact keepsFaults_held (setRail_held_of_ne (by simp_all [u]))
  next => exact keepsFaults_held (.refl s)

theorem execRailInRegulation_keepsFaults (r i) : KeepsFaults (execRailInRegulation r i s) s := by
  unfold execRailInRegulation
  extract_lets u s1
  split
  · exact keepsFaults_held (.refl s)
  next ramping =>
    have on : FaultsHeld s s1 := setRail_held_of_ne (by simp_all [u])
    exact keepsFaults_held (on.trans ((FaultsHeld.of_still (by simp)).trans (startRails_held _)))

theorem execThermalTrip_keepsFaults (g) : KeepsFaults (execThermalTrip g s) s := by
  simp only [execThermalTrip]
  split
  · exact keepsFaults_held (.refl s)
  · have stopped := coreRails_held true (tiersRest (benchesLost (stopClocks (linksDown true (ballastOff s)))))
    exact keepsFaults_held ((FaultsHeld.of_still (by simp)).trans (stopped.trans (.of_still (by simp))))

theorem execAuxPowerOn_keepsFaults : KeepsFaults (execAuxPowerOn s) s := by
  simp only [execAuxPowerOn]
  split
  · exact keepsFaults_held (.refl s)
  · exact keepsFaults_held ⟨id, fun _ => id⟩

/-- The loss of auxiliary power is shut out, and nothing is lost where there is none. -/
theorem execAuxPowerLoss_keepsFaults : KeepsFaults (execAuxPowerLoss s) s := by
  simp only [execAuxPowerLoss]
  split
  · exact keepsFaults_held (.refl s)
  next on =>
    rintro _ ⟨⟩ - (h | h)
    · cases h
    · simp [h] at on

theorem execAuxReady_keepsFaults : KeepsFaults (execAuxReady s) s := by
  simp only [execAuxReady]
  split
  · exact keepsFaults_held ((FaultsHeld.of_still (by simp)).trans (startRails_held _))
  · exact keepsFaults_held (.refl s)

theorem execMainPowerOn_keepsFaults (mv) : KeepsFaults (execMainPowerOn mv s) s := by
  simp only [execMainPowerOn]
  have counted := coldStart_colds { s with power := { s.power with main := true } }
  repeat' split
  case isFalse.isFalse.isFalse => exact keepsFaults_next (.inr counted)
  case isFalse.isTrue => exact .of_still (by simp)
  all_goals exact keepsFaults_held (.refl s)

/-- The loss of main power leaves the latched rails and PWR_FLT_N (R389). -/
theorem execMainPowerLoss_keepsFaults : KeepsFaults (execMainPowerLoss s) s := by
  simp only [execMainPowerLoss]
  split
  · exact keepsFaults_held (.refl s)
  · exact keepsFaults_held (filterRails_held (p := fun e => e.2.state = .latched) rfl rfl (by simp))

theorem execRangerRestart_keepsFaults : KeepsFaults (execRangerRestart s) s := by
  simp only [execRangerRestart]
  split
  · exact keepsFaults_held (.refl s)
  · exact keepsFaults_held ((FaultsHeld.of_still (by simp)).trans (startRails_held _))

theorem execColdReset_keepsFaults (w) : KeepsFaults (execColdReset w s) s := by
  simp only [execColdReset]
  repeat' split
  case h_1 => exact keepsFaults_next ((coldReset_heldOrCold _).after (by simp))
  case h_2.isFalse => exact keepsFaults_held (.refl s)
  all_goals exact keepsFaults_next (coldReset_heldOrCold s)

theorem execColdRstNRelease_keepsFaults : KeepsFaults (execColdRstNRelease s) s :=
  keepsFaults_held ((FaultsHeld.of_still (by simp)).trans (startRails_held _))

theorem execWarmReset_keepsFaults (w) : KeepsFaults (execWarmReset w s) s := by
  simp only [execWarmReset]
  repeat' split
  case h_1.isFalse => exact keepsFaults_next ((warmReset_heldOrCold true s).before (by simp))
  case h_1.isTrue => exact keepsFaults_held (.refl s)
  case h_2.isFalse => exact keepsFaults_held (.refl s)
  all_goals exact keepsFaults_next (warmReset_heldOrCold false s)

theorem recover_held : FaultsHeld s (recover s) := by
  have woken : FaultsHeld s (coreRails false (tiersWake s)) := (FaultsHeld.of_still (by simp)).trans (coreRails_held ..)
  refine woken.trans (.of_still ?_)
  simp only [recover]
  split <;> simp

theorem execReleasePoint_keepsFaults : KeepsFaults (execReleasePoint s) s := by
  simp only [execReleasePoint]
  repeat' split
  case h_1.isTrue => exact keepsFaults_held (recover_held s)
  all_goals exact keepsFaults_held (.refl s)

theorem execPerstRelease_keepsFaults : KeepsFaults (execPerstRelease s) s := by
  simp only [execPerstRelease]
  repeat' split
  case h_1.isTrue => exact keepsFaults_held ((FaultsHeld.of_still (by simp)).trans (recover_held _))
  all_goals exact keepsFaults_held (.of_still (by simp))

theorem execWarmRst_keepsFaults (lock) : KeepsFaults (execWarmRst lock s) s := by
  simp only [execWarmRst]
  split
  · exact keepsFaults_next ((warmReset_heldOrCold ..).after (by simp))
  · exact keepsFaults_held (.refl s)

theorem writeCtrl_heldOrCold (v) : HeldOrCold s (writeCtrl v s) := by
  simp only [writeCtrl]
  repeat' split
  case isTrue => exact (warmReset_heldOrCold ..).after (by simp)
  all_goals exact .of_still (by simp)

theorem execRegisterWrite_keepsFaults (f o n v) : KeepsFaults (execRegisterWrite f o n v s) s := by
  simp only [execRegisterWrite]
  repeat' split
  case isFalse.isTrue => exact keepsFaults_next (writeCtrl_heldOrCold ..)
  all_goals exact keepsFaults_held (.of_still (by simp))

end

/-- Most commands are still; those of supply, rails, resets and the trip each have their own lemma above. -/
theorem exec_keepsFaults (i : Instr) (s : State) : KeepsFaults (exec i s) s := by
  cases i with
  | railOutOfRegulation => exact execRailOutOfRegulation_keepsFaults s _ _ _
  | railRampTimeout => exact execRailRampTimeout_keepsFaults s _ _ _
  | railRetry => exact execRailRetry_keepsFaults s _ _
  | railInRegulation => exact execRailInRegulation_keepsFaults s _ _
  | thermalTrip g => exact execThermalTrip_keepsFaults s g
  | auxPowerOn => exact execAuxPowerOn_keepsFaults s
  | auxPowerLoss => exact execAuxPowerLoss_keepsFaults s
  | auxReady => exact execAuxReady_keepsFaults s
  | mainPowerOn => exact execMainPowerOn_keepsFaults s _
  | mainPowerLoss => exact execMainPowerLoss_keepsFaults s
  | rangerRestart => exact execRangerRestart_keepsFaults s
  | coldReset => exact execColdReset_keepsFaults s _
  | coldRstNRelease => exact execColdRstNRelease_keepsFaults s
  | warmReset => exact execWarmReset_keepsFaults s _
  | releasePoint => exact execReleasePoint_keepsFaults s
  | perstRelease => exact execPerstRelease_keepsFaults s
  | warmRst lock => exact execWarmRst_keepsFaults s lock
  | registerWrite => exact execRegisterWrite_keepsFaults s _ _ _ _
  | _ => exact .of_still (by simp [exec])

/-! ## Steps hold power faults, a rail latching off makes one, cold reset and auxiliary loss clear them -/

/-- A tick touches neither power nor rails; a command runs on the state with the rest of the queue. -/
theorem step_held {s t : State} (h : step s = .next t) (colds : t.power.colds = s.power.colds)
    (aux : t.power.aux = true ∨ s.power.aux = false) : FaultsHeld s t := by
  unfold step at h
  split at h
  next =>
    obtain rfl : tick s = t := Host.Outcome.next.inj h
    exact ⟨by rw [tick_power]; exact id, fun j => by simp only [State.railUnit, tick_rails]; exact id⟩
  next c rest _ =>
    have run := exec_keepsFaults c { s with pending := rest } t h colds aux
    exact ⟨run.asserted, run.latched⟩

/-- The third ramp that fails latches the rail off and asserts PWR_FLT_N (R389). -/
theorem exec_railRampTimeout_latches {r : Rail} {n : BitVec 8} (x : RailReading) {s : State}
    (ramping : (s.rail r n.toNat).state = .ramping) (last : (s.rail r n.toNat).retries = 3) :
    exec (.railRampTimeout r n x) s = .next (latchRail r n.toNat x s) := by
  simp [exec, execRailRampTimeout, ramping, last]

/-- No rail has latched off, and PWR_FLT_N is not asserted. -/
structure NoFault (t : State) : Prop where
  asserted : t.power.pwrFlt = false
  latched : ∀ j, (t.railUnit j).state ≠ .latched

theorem noFault_of_empty {t : State} (rails : t.rails = []) (flt : t.power.pwrFlt = false) : NoFault t :=
  ⟨flt, fun j => by simp [State.railUnit, rails, Sparse.get, RailUnit.reset]⟩

theorem coldStart_noFault (s : State) : NoFault (coldStart s) :=
  have empty := noFault_of_empty (coldState_rails s) (coldState_pwrFlt s)
  ⟨by simpa [coldStart] using empty.asserted, startRails_latches_none _ empty.latched⟩

/-- With main power on and the ranger running, every trigger of a cold reset makes one. -/
theorem exec_coldReset_starts (w : ResetTrigger) {s : State} (main : s.power.main = true)
    (running : s.ranger.running = true) :
    ∃ u, u.power.colds = s.power.colds ∧ exec (.coldReset w) s = .next (coldStart u) := by
  have count (u : State) : (restartRanger u).power.colds = u.power.colds := by simp [restartRanger]
  cases w with
  | pin =>
    exact ⟨_, count { s with power := { s.power with coldRst := true } },
      by simp [exec_coldReset, execColdReset, coldReset, main]⟩
  | _ => exact ⟨_, count s, by simp [exec_coldReset, execColdReset, coldReset, main, running]⟩

theorem exec_auxPowerLoss_clears {s : State} (on : s.power.aux = true) :
    ∃ t, exec .auxPowerLoss s = .next t ∧ t.power.aux = false ∧ NoFault t := by
  rw [exec_auxPowerLoss, execAuxPowerLoss, if_neg (by simp [on])]
  exact ⟨_, rfl, rfl, noFault_of_empty (coldState_rails s) (coldState_pwrFlt s)⟩

/-- Settles O59: every command holds power faults by a lemma of its own, the third failed ramp makes one, and a cold reset
and the loss of auxiliary power start from an empty table of rails. -/
theorem powerFaultsStayUntilAColdReset : Obligations.PowerFaultsStayUntilAColdReset := by
  unfold Obligations.PowerFaultsStayUntilAColdReset
  refine ⟨fun s t h colds aux => ?held, fun r n x s _ ramping last => ?latches, fun w s main running => ?cold,
    fun s on => ?aux⟩
  case held =>
    have held := step_held h colds aux
    exact ⟨held.asserted, fun r n => held.latched (railKey r n.toNat)⟩
  case latches =>
    have held := latchRail_held r n.toNat x s
    exact ⟨_, exec_railRampTimeout_latches x ramping last, held.latched _ (faulted_rail ..), held.asserted rfl⟩
  case cold =>
    obtain ⟨u, colds, run⟩ := exec_coldReset_starts w main running
    have clear := coldStart_noFault u
    exact ⟨_, run, by rw [coldStart_colds, colds], clear.asserted, fun r n => clear.latched _⟩
  case aux =>
    obtain ⟨t, run, off, clear⟩ := exec_auxPowerLoss_clears on
    exact ⟨t, run, off, clear.asserted, fun r n => clear.latched _⟩

end Sys2Proof.Machine
end

section
/-! PROOFS. What every operation keeps: the commands that wait, the canonical form of memory, and HST_RB released only
while the host may use the part. -/

namespace Sys2Proof.Machine

/-- The states of a device in which its host may use it (R391). -/
def DeviceState.serves (d : DeviceState) : Bool := d = .early || d = .ready

/-- The commands that wait, memory, HST_RB, and what lets HST_RB be released: main power, a device that serves, locked
set-up, no reset under way and a journal (R385, R419). -/
abbrev View := List Instr × List Host.Cell × RbLevel × Bool × Bool × Bool × Bool × Bool

def view (s : State) : View :=
  (s.pending, s.mem, s.power.rb, s.power.main, s.power.device.serves, s.setup.locked, decide (s.power.resetPhase = .none),
    s.journalOk)

/-- HST_RB is released only while the rest of the view allows it. -/
def View.Sound : View → Prop
  | (_, _, rb, main, serves, locked, noReset, journal) => rb = .released → main && serves && locked && noReset && journal

/-- From view `v` to view `w`, the same commands wait, memory keeps its form and HST_RB stays sound. -/
structure View.Keeps (v w : View) : Prop where
  queue : w.1 = v.1
  form : Memory.wf v.2.1 = true → Memory.wf w.2.1 = true
  sound : v.Sound → w.Sound

/-- From state `s0` to another, the same commands wait, memory keeps its form and HST_RB stays sound. It takes the other
state apart, so that its equation reads a state that is written out and does not unfold on a variable. -/
@[irreducible] def Kept (s0 : State) : State → Prop
  | { pending, mem, power, setup, journalOk, .. } => (view s0).Keeps
    (pending, mem, power.rb, power.main, power.device.serves, setup.locked, decide (power.resetPhase = .none), journalOk)

@[simp] theorem kept_mk : type_of% @Kept.eq_1 := @Kept.eq_1

theorem kept_iff {s0 s : State} : Kept s0 s ↔ (view s0).Keeps (view s) := by
  cases s; exact Iff.of_eq (kept_mk ..)

@[simp] theorem keeps_fields (s0 s : State) : (view s0).Keeps
    (s.pending, s.mem, s.power.rb, s.power.main, s.power.device.serves, s.setup.locked,
      decide (s.power.resetPhase = .none), s.journalOk) ↔ Kept s0 s := kept_iff.symm

@[simp, refl] theorem Kept.refl (s : State) : Kept s s := kept_iff.2 ⟨rfl, id, id⟩

theorem Kept.trans {s t u : State} (h : Kept s t) (g : Kept t u) : Kept s u := by
  rw [kept_iff] at *
  exact ⟨g.queue.trans h.queue, g.form ∘ h.form, g.sound ∘ h.sound⟩

/-- From one state to another, the same commands wait and memory keeps its form. -/
structure Carries (s t : State) : Prop where
  queue : t.pending = s.pending
  form : Memory.wf s.mem = true → Memory.wf t.mem = true

theorem Carries.trans {s t u : State} (h : Carries s t) (g : Carries t u) : Carries s u :=
  ⟨g.queue.trans h.queue, g.form ∘ h.form⟩

theorem Carries.of_eq {s t : State} (queue : t.pending = s.pending) (mem : t.mem = s.mem) : Carries s t :=
  ⟨queue, by rw [mem]; exact id⟩

theorem Kept.carries {s t : State} (h : Kept s t) : Carries s t := ⟨(kept_iff.1 h).queue, (kept_iff.1 h).form⟩

theorem sound_iff (s : State) : (view s).Sound ↔ (s.power.rb = .released → mayRelease s = true) := by
  simp [view, View.Sound, mayRelease, DeviceState.serves]

/-- `Kept`, at a state where `simp` has gone on to an earlier one. -/
def Seen (s0 s : State) : Prop := Kept s0 s

/-- `simp` does not look into it again. -/
@[congr] theorem Seen.congr (s0 s : State) : Seen s0 s = Seen s0 s := rfl

/-- What is kept up to `s` is kept up to `t`. As an equivalence, which `simp` follows from state to state. -/
abbrev Onward (s t : State) : Prop := ∀ s0, Kept s0 t ↔ Seen s0 t ∨ Kept s0 s

theorem Onward.of {s t : State} (h : Kept s t) : Onward s t := fun _ => ⟨.inl, Or.rec id fun g => g.trans h⟩

theorem Onward.refl (s : State) : Onward s s := .of (.refl _)

theorem Onward.kept {s t : State} (h : Onward s t) : Kept s t := (h s).2 (.inr (.refl _))

theorem keeps_mem {s : State} {m : List Host.Cell} (hm : Memory.wf s.mem = true → Memory.wf m = true) (s0 : State) :
    (view s0).Keeps (s.pending, m, s.power.rb, s.power.main, s.power.device.serves, s.setup.locked,
      decide (s.power.resetPhase = .none), s.journalOk) ↔ Seen s0 { s with mem := m } ∨ Kept s0 s :=
  have kept : Kept s { s with mem := m } := kept_iff.2 ⟨rfl, hm, id⟩
  (Iff.of_eq (kept_mk ..)).symm.trans (Onward.of kept s0)

@[simp] theorem keeps_write (a bs s) : type_of% (keeps_mem (Memory.write_wf a bs (State.mem s))) :=
  keeps_mem (Memory.write_wf a bs s.mem)
@[simp] theorem keeps_writeRow (a d s) : type_of% (keeps_mem (Memory.writeRow_wf a d (State.mem s))) :=
  keeps_mem (Memory.writeRow_wf a d s.mem)
@[simp] theorem keeps_copy (a b n s) : type_of% (keeps_mem (Memory.copy_wf a b n (State.mem s))) :=
  keeps_mem (Memory.copy_wf a b n s.mem)
@[simp] theorem keeps_filter (p s) : type_of% (keeps_mem (Memory.wf_filter p (State.mem s))) :=
  keeps_mem (Memory.wf_filter p s.mem)

/-- The command keeps both. -/
def KeepsForm (o : Out) (s : State) : Prop := ∀ t, o = .next t → Kept s t

@[simp] theorem keepsForm_next (s t : State) : KeepsForm (.next t) s ↔ Kept s t := by simp [KeepsForm]
@[simp] theorem keepsForm_fault (e : Fault) (s : State) : KeepsForm (.fault e) s := by simp [KeepsForm]
@[simp] theorem keepsForm_refused (e : Refusal) (s : State) : KeepsForm (.refused e) s := by simp [KeepsForm]

/-! ## Branches, folds and pairs -/

@[simp] theorem kept_ite {s0} (c : Prop) [Decidable c] (a b : State) :
    Kept s0 (if c then a else b) ↔ if c then Kept s0 a else Kept s0 b := by split <;> rfl

@[simp] theorem keepsForm_ite (c : Prop) [Decidable c] (a b : Out) (s : State) :
    KeepsForm (if c then a else b) s ↔ if c then KeepsForm a s else KeepsForm b s := by split <;> rfl

@[simp] theorem foldl_kept {α : Type} {f : State → α → State} (hf : ∀ t x, Kept t (f t x)) (l : List α) (s : State) :
    Onward s (l.foldl f s) := .of <| by
  induction l generalizing s with
  | nil => exact .refl _
  | cons x l ih => exact (hf s x).trans (ih _)

theorem onward_of_pair {α : Type} {p : α × State} {a s t} (h : Onward s p.2) (e : p = (a, t)) : Onward s t := by
  rw [e] at h; exact h

/-! ## Operations of Machine/Ops -/

@[simp] theorem State.setCore_kept (s c x) : Onward s (State.setCore s c x) := .of (by simp [State.setCore])

@[simp] theorem State.setSlot_kept (s c x) : Onward s (State.setSlot s c x) := .of (by simp [State.setSlot])

@[simp] theorem State.setStand_kept (s g x) : Onward s (State.setStand s g x) := .of (by simp [State.setStand])

@[simp] theorem State.setSector_kept (s i x) : Onward s (State.setSector s i x) := .of (by simp [State.setSector])

@[simp] theorem State.setStack_kept (s i x) : Onward s (State.setStack s i x) := .of (by simp [State.setStack])

@[simp] theorem State.setChannel_kept (s i x) : Onward s (State.setChannel s i x) :=
    .of (by simp [State.setChannel])

@[simp] theorem State.setCoupe_kept (s k x) : Onward s (State.setCoupe s k x) := .of (by simp [State.setCoupe])

@[simp] theorem State.setRun_kept (s k x) : Onward s (State.setRun s k x) := .of (by simp [State.setRun])

@[simp] theorem State.setSeq_kept (s i x) : Onward s (State.setSeq s i x) := .of (by simp [State.setSeq])

@[simp] theorem State.setGroup_kept (s i x) : Onward s (State.setGroup s i x) := .of (by simp [State.setGroup])

@[simp] theorem State.setImage_kept (s h x) : Onward s (State.setImage s h x) := .of (by simp [State.setImage])

@[simp] theorem State.setRing_kept (s r x) : Onward s (State.setRing s r x) := .of (by simp [State.setRing])

@[simp] theorem State.setLink_kept (s l x) : Onward s (State.setLink s l x) := .of (by simp [State.setLink])

@[simp] theorem State.setEth_kept (s p x) : Onward s (State.setEth s p x) := .of (by simp [State.setEth])

@[simp] theorem State.setQueue_kept (s k h q) : Onward s (State.setQueue s k h q) := .of (by simp [State.setQueue])

@[simp] theorem drawFree_kept (s) : Onward s (drawFree s).2 := .of (by simp [drawFree])

@[simp] theorem progress_kept (s c) : Onward s (progress s c) := .of <| by
  fun_cases progress s c <;> simp [*]

@[simp] theorem raise_kept (f kind record value stepno ring k c s) :
    Onward s (raise f kind record value stepno ring k c s) :=

    .of (by simp [raise])

@[simp] theorem raise0_kept (kind value s) : Onward s (raise0 kind value s) := .of (by simp [raise0])

@[simp] theorem raiseCore_kept (kind record value c s) : Onward s (raiseCore kind record value c s) := .of <| by
  fun_cases raiseCore kind record value c s <;> simp [*]

@[simp] theorem raiseTask_kept (kind record c s) : Onward s (raiseTask kind record c s) := .of <| by
  fun_cases raiseTask kind record c s <;> simp [*]

@[simp] theorem setDevice_mem (d s) : (setDevice d s).mem = s.mem := by
  simp only [setDevice]
  split <;> simp [raise0]

/-- From one state in which the host may use the device to another, or between two in which it may not. -/
theorem setDevice_kept {d : DeviceState} {s : State} (h : d.serves = s.power.device.serves) : Onward s (setDevice d s) :=
  .of (by simp [setDevice, h])

@[simp] theorem maybeReady_kept (s) : Onward s (maybeReady s) := .of <| by
  simp only [maybeReady]
  split
  next due =>
    have early : s.power.device = .early := by simp_all
    exact (setDevice_kept (by rw [early]; rfl)).kept
  next => rfl

theorem settleRb_sound (s : State) : (view (settleRb s)).Sound := by
  rw [sound_iff, settleRb]
  repeat' split
  all_goals simp_all [mayRelease]

@[simp] theorem settleRb_mem (s) : (settleRb s).mem = s.mem := by
  simp only [settleRb]
  repeat' split
  all_goals rfl

@[simp] theorem settleRb_pending (s) : (settleRb s).pending = s.pending := by
  simp only [settleRb]
  repeat' split
  all_goals rfl

@[simp] theorem setDevice_pending (d s) : (setDevice d s).pending = s.pending := by
  simp only [setDevice]
  split <;> simp [raise0]

theorem setDevice_carries (d : DeviceState) (s : State) : Carries s (setDevice d s) :=
  .of_eq (setDevice_pending d s) (setDevice_mem d s)

/-- Whatever has changed what lets HST_RB be released, settling it is sound. -/
theorem settleRb_keeps {s t : State} (h : Carries s t) : Kept s (settleRb t) :=
  have settled := h.trans (.of_eq (settleRb_pending t) (settleRb_mem t))
  kept_iff.2 ⟨settled.queue, settled.form, fun _ => settleRb_sound t⟩

@[simp] theorem settleRb_kept (s) : Onward s (settleRb s) := .of (settleRb_keeps (.of_eq rfl rfl))

@[simp] theorem raiseIsolation_kept (kind src dst c s) : Onward s (raiseIsolation kind src dst c s) :=
    .of (by simp [raiseIsolation])

@[simp] theorem readBench_kept (c r src s) : Onward s (readBench c r src s).2 := .of <| by
  fun_cases readBench c r src s <;> simp [*]

@[simp] theorem writeBench_kept (c r data poison s) : Onward s (writeBench c r data poison s) :=
    .of (by simp [writeBench])

@[simp] theorem taskWrite_kept (c r data poison s) : Onward s (taskWrite c r data poison s) :=
    .of (by simp [taskWrite])

@[simp] theorem readBenchRows_kept (c src) : ∀ l s, Onward s (readBenchRows c src l s).2
  | [], _ => .refl _
  | r :: rs, s => .of <| by simp [readBenchRows, readBenchRows_kept c src rs]

@[simp] theorem logTier_kept (a kind symbol s) : Onward s (logTier a kind symbol s) := .of (by simp [logTier])

@[simp] theorem foundBad_kept (a s) : Onward s (foundBad a s) := .of <| by
  simp only [foundBad]
  split
  · simp
  · split <;> simp

@[simp] theorem readGranule_kept (a s) : Onward s (readGranule a s).2 := .of <| by
  fun_cases readGranule a s <;> simp [*]

@[simp] theorem readGranules_kept : ∀ l s, Onward s (readGranules l s).2
  | [], _ => .refl _
  | a :: as, s => .of <| by simp [readGranules, readGranules_kept as]

@[simp] theorem readRowAt_kept (a s) : Onward s (readRowAt a s).2 := .of <| by
  simp only [readRowAt]
  repeat' split
  all_goals simp [*]

@[simp] theorem setGranules_kept (p) : ∀ l s, Onward s (setGranules p l s)
  | [], _ => .refl _
  | a :: as, s => .of <| by simp [setGranules, setGranules_kept p as]

@[simp] theorem writeRowAt_kept (a data poison s) : Onward s (writeRowAt a data poison s) := .of <| by
  fun_cases writeRowAt a data poison s <;> simp [*]

@[simp] theorem mergeGranule_kept (p m s) : Onward s (mergeGranule p m s) := .of <| by
  fun_cases mergeGranule p m s <;> simp [*]

@[simp] theorem writeBytesAt_kept (a bs p s) : Onward s (writeBytesAt a bs p s) := .of <| by
  refine Kept.trans (t := { s with mem := Memory.write a bs s.mem }) (by simp) ?_
  exact (foldl_kept (fun t g => by split <;> simp) _ _).kept

@[simp] theorem clearRange_kept (lo n s) : Onward s (clearRange lo n s) := .of (by simp [clearRange])

@[simp] theorem takeExc_kept (c k s) : Onward s (takeExc c k s) := .of (by simp [takeExc])

@[simp] theorem setEntry_kept (r p st s) : Onward s (setEntry r p st s) := .of (by simp [setEntry])

@[simp] theorem finishAt_kept (r p status dkind detail stepno s) : Onward s (finishAt r p status dkind detail stepno s) :=
    .of (by simp [finishAt])

@[simp] theorem finish_kept (q status s) : Onward s (finish q status s) := .of (by simp [finish])

@[simp] theorem hold_kept (q s) : Onward s (hold q s) := .of (by simp [hold])

@[simp] theorem awaits_kept (q s) : Onward s (awaits q s) := .of (by simp [awaits])

/-! ## Operations of Machine/Operands -/

@[simp] theorem queueUp_kept (c op f s) : Onward s (queueUp c op f s) := .of (by simp [queueUp])

@[simp] theorem runNew_kept (c op f body s) (hb : ∀ t, Kept t (body t)) : Onward s (runNew c op f body s) :=
    .of <| by
  simp [runNew, hb]

@[simp] theorem runQueued_kept (c e causes body s) (hb : ∀ t, Kept t (body t)) : Onward s (runQueued c e causes body s) :=
    .of <| by
  simp only [runQueued]
  split <;> simp [hb]

@[simp] theorem waitFor_kept (c e s) : Onward s (waitFor c e s) := .of (by simp [waitFor])

@[simp] theorem issue_kept (c op f causes body s) (hb : ∀ t, Kept t (body t)) :
    KeepsForm (issue c op f causes body s) s := by
  fun_cases issue c op f causes body s <;> simp [hb]

@[simp] theorem completeWith_kept (c x s) : Onward s (completeWith c x s) := .of (by simp [completeWith])

@[simp] theorem jumpWith_kept (c x t s) : Onward s (jumpWith c x t s) := .of (by simp [jumpWith])

@[simp] theorem stallWith_kept (c x k h s) : Onward s (stallWith c x k h s) := .of (by simp [stallWith])

@[simp] theorem pauseWith_kept (c x s) : Onward s (pauseWith c x s) := .of (by simp [pauseWith])

/-! ## Operations of Machine/Flags -/

@[simp] theorem rangeGuard_kept (c tag vals s) : Onward s (rangeGuard c tag vals s) := .of <| by
  fun_cases rangeGuard c tag vals s <;> simp [*]

@[simp] theorem chargeConflict_kept (owner bench cause row gap pc seq s) :
    Onward s (chargeConflict owner bench cause row gap pc seq s) :=

    .of (by simp [chargeConflict])

/-! ## Operations of Machine/Mesh -/

@[simp] theorem inject_kept (s) : Onward s (inject s) := .of (by simp [inject])

@[simp] theorem enterQueue_kept (k h q it s) : Onward s (enterQueue k h q it s) := .of (by simp [enterQueue])

/-! ## Operations of Machine/Net -/

@[simp] theorem transmit_kept (l vc header p s) : Onward s (transmit l vc header p s) := .of (by simp [transmit])

@[simp] theorem sendTo_kept (dst odd header p s) : Onward s (sendTo dst odd header p s) := .of <| by
  fun_cases sendTo dst odd header p s <;> simp [*]

@[simp] theorem sendRouted_kept (k dst odd header p s) : Onward s (sendRouted k dst odd header p s) := .of <| by
  fun_cases sendRouted k dst odd header p s <;> simp [*]

@[simp] theorem sendMember_kept (k m ptype channel poison len ord p s) :
    Onward s (sendMember k m ptype channel poison len ord p s) :=

    .of <| by
  fun_cases sendMember k m ptype channel poison len ord p s <;> simp [*]

@[simp] theorem sendAllMembers_kept (k ptype len p s) : Onward s (sendAllMembers k ptype len p s) :=
    .of (by simp [sendAllMembers])

@[simp] theorem announceAll_kept (s) : Onward s (announceAll s) := .of (by simp [announceAll])

@[simp] theorem dueAnnounce_kept (s) : Onward s (dueAnnounce s) := .of (by simp [dueAnnounce])

@[simp] theorem creditPart_kept (k h m s) : Onward s (creditPart k h m s) := .of <| by
  fun_cases creditPart k h m s <;> simp [*]

@[simp] theorem contribute_kept (k h m ord data poison s) : Onward s (contribute k h m ord data poison s) :=
    .of <| by
  simp only [contribute]
  repeat' split
  all_goals simp [*]

theorem sendItem_kept {k h q it s t} (e : sendItem k h q it s = some t) : Onward s t := .of <| by
  simp only [sendItem] at e
  repeat' split at e
  all_goals cases e <;> simp

@[simp] theorem releaseItems_kept (k h l s) : Onward s (releaseItems k h l s).2 := by
  fun_induction releaseItems k h l s with
  | case4 _ _ _ _ _ _ e ih => exact .of (by simp [ih, sendItem_kept e])
  | _ => exact .refl _

@[simp] theorem releasePort_kept (c p k h s) : Onward s (releasePort c p k h s) := .of <| by
  simp only [releasePort]
  repeat' split
  all_goals simp [*]

/-! ## Operations of Machine/Units -/

@[simp] theorem notePop_kept (b s) : Onward s (notePop b s) := .of <| by
  fun_cases notePop b s <;> simp [*]

@[simp] theorem stallIn_kept (c x b s) : Onward s (stallIn c x b s) := .of <| by
  simp only [stallIn]
  repeat' split
  all_goals simp [*]

@[simp] theorem stallOut_kept (c x b s) : Onward s (stallOut c x b s) := .of <| by
  simp only [stallOut]
  repeat' split
  all_goals simp [*]

theorem portRoom_kept {c p b s t} (e : portRoom c p b s = some t) : Onward s t := .of <| by
  simp only [portRoom] at e
  split at e <;> cases e
  simp

theorem pushItem_kept {c p b it s t} (e : pushItem c p b it s = some t) : Onward s t := .of <| by
  simp only [pushItem] at e
  split at e
  · cases e
  · next h => cases e; simp [portRoom_kept h]

@[simp] theorem quantise_kept (c vals s) : Onward s (quantise c vals s) := .of <| by
  fun_cases quantise c vals s <;> simp [*]

@[simp] theorem emit_kept (c final n s) : Onward s (emit c final n s).2 := by
  fun_induction emit c final n s with
  | case4 _ _ _ _ _ _ _ _ _ _ _ ih => exact .of (by simp [ih])
  | case7 _ _ _ _ _ _ _ _ _ _ _ _ _ _ _ h ih => exact .of (by simp [ih, pushItem_kept h])
  | _ => exact .refl _

@[simp] theorem writeOut_kept (c s) : Onward s (writeOut c s).2 := .of <| by
  simp only [writeOut]
  repeat' split
  all_goals simp [*]

@[simp] theorem stallWriteOut_kept (c s) : Onward s (stallWriteOut c s) := .of <| by
  fun_cases stallWriteOut c s <;> simp [*]

/-! ## Operations of Machine/Sync -/

@[simp] theorem sendArrival_kept (k i w s) : Onward s (sendArrival k i w s) := .of (by simp [sendArrival])

@[simp] theorem execWaitu_kept (c f s) : KeepsForm (execWaitu c f s) s := by simp [execWaitu]

@[simp] theorem execFencer_kept (c f s) : KeepsForm (execFencer c f s) s := by simp [execFencer]

@[simp] theorem execArrive_kept (c f s) : KeepsForm (execArrive c f s) s := by
  simp only [execArrive]
  repeat' split
  all_goals simp [*]

@[simp] theorem execWaitb_kept (c f s) : KeepsForm (execWaitb c f s) s := by
  simp only [execWaitb]
  repeat' split
  all_goals simp [*]

@[simp] theorem execRdsys_kept (c f s) : KeepsForm (execRdsys c f s) s := by simp [execRdsys]

@[simp] theorem execTrap_kept (c f s) : KeepsForm (execTrap c f s) s := by simp [execTrap]

@[simp] theorem execTmask_kept (c f s) : KeepsForm (execTmask c f s) s := by simp [execTmask]

@[simp] theorem storeRows_kept (c row p rs s) : Onward s (storeRows c row p rs s) := .of (by simp [storeRows])

@[simp] theorem execTopk_kept (c f stop s) : KeepsForm (execTopk c f stop s) s := by
  refine issue_kept _ _ _ _ _ _ fun t => ?_
  repeat' split
  all_goals simp [*]

/-! ## Operations of Machine/Pool -/

@[simp] theorem addAlloc_kept (a s) : Onward s (addAlloc a s) := .of (by simp [addAlloc])

@[simp] theorem dropMove_kept (m s) : Onward s (dropMove m s) := .of (by simp [dropMove])

@[simp] theorem dropMoves_kept (f s) : Onward s (dropMoves f s) := .of (by simp [dropMoves])

@[simp] theorem dropGrant_kept (p kd s) : Onward s (dropGrant p kd s) := .of (by simp [dropGrant])

@[simp] theorem dropKinds_kept (f s) : Onward s (dropKinds f s) := .of (by simp [dropKinds])

@[simp] theorem dropAlloc_kept (kd s) : Onward s (dropAlloc kd s) := .of (by simp [dropAlloc])

@[simp] theorem dropSaves_kept (k s) : Onward s (dropSaves k s) := .of (by simp [dropSaves])

@[simp] theorem dropScent_kept (f s) : Onward s (dropScent f s) := .of (by simp [dropScent])

@[simp] theorem freeGroup_kept (g s) : Onward s (freeGroup g s) := .of (by simp [freeGroup])

@[simp] theorem copyRange_kept (src dst n s) : Onward s (copyRange src dst n s) := .of (by simp [copyRange])

@[simp] theorem storeList_kept : ∀ l pages s, Onward s (storeList l pages s)
  | [], _, _ => .refl _
  | a :: rest, pages, s => .of <| by simp [storeList, storeList_kept rest]

@[simp] theorem writeList_kept (i s) : Onward s (writeList i s) := .of (by simp [writeList])

@[simp] theorem trimList_kept (i s) : Onward s (trimList i s) := .of (by simp [trimList])

@[simp] theorem issueMove_kept (purpose p c kd src dst units s) : Onward s (issueMove purpose p c kd src dst units s) :=
    .of (by simp [issueMove])

@[simp] theorem moveDone_kept (m s) : Onward s (moveDone m s) := .of <| by
  simp only [moveDone]
  repeat' split
  all_goals simp [*]

theorem clearWindow_kept {p w n l s t} (e : clearWindow p w n l s = some t) : Onward s t := by
  induction l generalizing s with
  | nil => cases e; exact .refl _
  | cons a as ih =>
    rw [clearWindow] at e
    split at e
    · cases e
    · exact .of (by simp [ih e])

theorem openWindow_kept {p n part s t} (e : openWindow p n part s = some t) : Onward s t := by
  obtain ⟨w, -, hw⟩ := List.exists_of_findSome?_eq_some e
  split at hw
  · cases hw
  · dsimp only at hw
    split at hw
    · exact clearWindow_kept hw
    · cases hw

theorem slideDown_kept {p part s t} (e : slideDown p part s = some t) : Onward s t := .of <| by
  obtain ⟨a, -, ha⟩ := List.exists_of_findSome?_eq_some e
  repeat' split at ha
  all_goals cases ha
  simp

@[simp] theorem startRelocation_kept (p kd c n s) : Onward s (startRelocation p kd c n s) := by
  simp only [startRelocation]
  split
  · exact .refl _
  · split
    · next e =>
      obtain ⟨x, -, hx⟩ := List.exists_of_findSome?_eq_some e
      exact openWindow_kept hx
    · cases e : (poolParts s p kd c).findSome? (fun x => slideDown p x s) with
      | none => exact .refl _
      | some t =>
        obtain ⟨x, -, hx⟩ := List.exists_of_findSome?_eq_some e
        exact slideDown_kept hx

@[simp] theorem evictYard_kept (a s) : Onward s (evictYard a s) := .of <| by
  fun_cases evictYard a s <;> simp [*]

@[simp] theorem yardRoom_kept (kd c n fuel s) : Onward s (yardRoom kd c n fuel s).2 := by
  fun_induction yardRoom kd c n fuel s with
  | case3 _ _ _ _ _ ih => exact .of (by simp [ih])
  | case4 => exact .of (by simp)
  | _ => exact .refl _

@[simp] theorem evictGroup_kept (g a s) : Onward s (evictGroup g a s) := .of <| by
  simp only [evictGroup]
  split
  · simp
  · split
    all_goals next e => simp [onward_of_pair (yardRoom_kept _ _ _ _ _) e]

@[simp] theorem deckRoom_kept (kd c n fuel s) : Onward s (deckRoom kd c n fuel s).2 := by
  induction fuel generalizing s with
  | zero => exact .refl _
  | succ fuel ih =>
    simp only [deckRoom]
    repeat' split
    all_goals exact .of (by simp [ih])

@[simp] theorem makeRoom_kept (p kd c n s) : Onward s (makeRoom p kd c n s).2 := .of <| by
  cases p <;> simp [makeRoom]

@[simp] theorem enterRun_kept (p kd c a n s) : Onward s (enterRun p kd c a n s) := .of <| by
  fun_cases enterRun p kd c a n s <;> simp [*]

/-- Where an allocation is granted or waits, the state it leaves is kept. -/
structure Grant.Kept (g : Grant) (s : State) : Prop where
  granted : ∀ {a t}, g = .granted a t → Onward s t
  waits : ∀ {t}, g = .waits t → Onward s t

@[simp] theorem Grant.kept_granted {a s t} : (Grant.granted a t).Kept s ↔ Machine.Kept s t :=
  ⟨fun h => (h.granted rfl).kept, fun h => ⟨by rintro _ _ ⟨⟩; exact .of h, nofun⟩⟩

@[simp] theorem Grant.kept_waits {s t} : (Grant.waits t).Kept s ↔ Machine.Kept s t :=
  ⟨fun h => (h.waits rfl).kept, fun h => ⟨nofun, by rintro _ ⟨⟩; exact .of h⟩⟩

@[simp] theorem Grant.kept_refused {s} : Grant.refused.Kept s := ⟨nofun, nofun⟩

theorem Grant.Kept.after {g : Grant} {s t} (h : g.Kept t) (e : Machine.Kept s t) : g.Kept s :=
  ⟨fun hg => .of (e.trans (h.granted hg).kept), fun hg => .of (e.trans (h.waits hg).kept)⟩

theorem placeRuns_kept (p c last l s) : (placeRuns p c last l s).Kept s := by
  induction l generalizing c last s with
  | nil => simp [placeRuns]
  | cons x rest ih =>
    obtain ⟨kd, n⟩ := x
    simp only [placeRuns]
    split
    · next e => exact (ih _ _ _).after (by simp [onward_of_pair (makeRoom_kept _ _ _ _ _) e])
    · next e => simp [onward_of_pair (makeRoom_kept _ _ _ _ _) e]

theorem allocateRuns_kept (p c head runs s) : (allocateRuns p c head runs s).Kept s := by
  fun_cases allocateRuns p c head runs s with
  | case1 => simp
  | case2 => exact (placeRuns_kept ..).after (by simp)
  | case3 _ _ _ _ h => rw [if_pos h]; exact placeRuns_kept ..
  | case4 _ _ _ _ h => rw [if_neg h]; simp

theorem allocate_kept (p kd c n head s) : (allocate p kd c n head s).Kept s := allocateRuns_kept ..

theorem recallGroup_kept (g k s) : (recallGroup g k s).Kept s := by
  simp only [recallGroup]
  split
  · simp
  · exact allocate_kept ..

@[simp] theorem pumpGrants_kept (p s) : Onward s (pumpGrants p s) := by
  refine foldl_kept (fun t g => ?_) _ _
  split
  · rfl
  · split
    · next e => simp [(placeRuns_kept ..).granted e]
    · next e => simp [(placeRuns_kept ..).waits e]
    · rfl

@[simp] theorem enqueue_kept (p runs c q s) : Onward s (enqueue p runs c q s) := .of (by simp [enqueue])

@[simp] theorem dequeue_kept (q s) : Onward s (dequeue q s) := .of (by simp [dequeue])

@[simp] theorem abandonEvict_kept (g s) : Onward s (abandonEvict g s) := .of (by simp [abandonEvict])

@[simp] theorem abandonRecall_kept (g s) : Onward s (abandonRecall g s) := .of (by simp [abandonRecall])

@[simp] theorem dropImage_kept (h s) : Onward s (dropImage h s) := .of (by simp [dropImage])

@[simp] theorem unbindImage_kept (h s) : Onward s (unbindImage h s) := .of (by simp [unbindImage])

@[simp] theorem unbindJob_kept (k j s) : Onward s (unbindJob k j s) := .of <| by
  simp only [unbindJob]
  repeat' split
  all_goals simp [*]

@[simp] theorem unbindAll_kept (k s) : Onward s (unbindAll k s) := .of (by simp [unbindAll])

/-! ## Operations of Machine/Jobs -/

@[simp] theorem dropStaging_kept (c s) : Onward s (dropStaging c s) :=
  foldl_kept (fun t p => by split <;> simp) _ _

@[simp] theorem resetCore_kept (c s) : Onward s (resetCore c s) := .of (by simp [resetCore])

@[simp] theorem markInvalid_kept (k c s) : Onward s (markInvalid k c s) := .of <| by
  fun_cases markInvalid k c s <;> simp [*]

@[simp] theorem flushCoupe_kept (k s) : Onward s (flushCoupe k s) := .of (by simp [flushCoupe])

@[simp] theorem spanAdvance_kept (k s) : Onward s (spanAdvance k s) := .of (by simp [spanAdvance])

@[simp] theorem setStep_kept (k st s) : Onward s (setStep k st s) := .of (by simp [setStep])

@[simp] theorem sendOutcome_kept (k status s) : Onward s (sendOutcome k status s) := .of <| by
  simp only [sendOutcome]
  repeat' split
  all_goals simp [*]

@[simp] theorem endStep_kept (k status detail dkind s) : Onward s (endStep k status detail dkind s) := .of <| by
  simp only [endStep]
  repeat' split
  all_goals simp [*]

@[simp] theorem noteStatus_kept (k status detail dkind s) : Onward s (noteStatus k status detail dkind s) :=
    .of <| by
  fun_cases noteStatus k status detail dkind s <;> simp [*]

@[simp] theorem suspect_kept (c cause s) : Onward s (suspect c cause s) := .of (by simp [suspect])

@[simp] theorem transient_kept (c s) : Onward s (transient c s) := .of (by simp [transient])

@[simp] theorem repairRow_kept (c r s) : Onward s (repairRow c r s) := .of (by simp [repairRow])

@[simp] theorem settleHits_kept (k s) : Onward s (settleHits k s) := .of (by simp [settleHits])

@[simp] theorem replayLeases_kept (k s) : Onward s (replayLeases k s) := .of <| by
  simp only [replayLeases]
  split
  · split <;> simp
  · rfl

@[simp] theorem reportLease_kept (s h) : Onward s (reportLease s h) := .of (by simp [reportLease])

@[simp] theorem reportLeases_kept (s) : Onward s (reportLeases s) := .of (by simp [reportLeases])

@[simp] theorem checkBoundary_kept (k s) : Onward s (checkBoundary k s) := .of <| by
  simp only [checkBoundary]
  repeat' split
  all_goals simp [*]

@[simp] theorem triggerReplay_kept (k status detail dkind s) : Onward s (triggerReplay k status detail dkind s) :=
    .of <| by
  simp only [triggerReplay]
  repeat' split
  all_goals simp [*]

@[simp] theorem unbindCoupe_kept (k s) : Onward s (unbindCoupe k s) := .of (by simp [unbindCoupe])

@[simp] theorem failSave_kept (act status s) : Onward s (failSave act status s) := .of <| by
  fun_cases failSave act status s <;> simp [*]

@[simp] theorem loseStand_kept (k g s) : Onward s (loseStand k g s) := .of <| by
  simp only [loseStand]
  split
  · simp
  · split
    · simp
    · simp
    · split <;> simp

@[simp] theorem raiseStand_kept (kind value g s) : Onward s (raiseStand kind value g s) := .of <| by
  fun_cases raiseStand kind value g s <;> simp [*]

@[simp] theorem standOut_kept (g s) : Onward s (standOut g s) := .of <| by
  simp only [standOut]
  repeat' split
  all_goals simp [*]

@[simp] theorem sectorOut_kept (i s) : Onward s (sectorOut i s) := .of (by simp [sectorOut])

@[simp] theorem deviceFault_kept (i record s) : Onward s (deviceFault i record s) := .of <| by
  simp only [deviceFault]
  repeat' split
  all_goals simp [*]

@[simp] theorem showSlot_kept (c s) : Onward s (showSlot c s) := .of (by simp [showSlot])

@[simp] theorem retireCore_kept (c s) : Onward s (retireCore c s) := .of <| by
  simp only [retireCore]
  repeat' split
  all_goals simp [*]

@[simp] theorem clearBench_kept (c s) : Onward s (clearBench c s) := .of (by simp [clearBench])

@[simp] theorem freshCore_kept (c s) : Onward s (freshCore c s) := .of (by simp [freshCore])

@[simp] theorem freshStand_kept (g s) : Onward s (freshStand g s) := .of (by simp [freshStand])

@[simp] theorem foreignDescriptor_kept (s q k) : Onward s (foreignDescriptor s q k) :=
    .of (by simp [foreignDescriptor])

@[simp] theorem starts_kept (op q body s) (hb : ∀ t, Kept t (body t)) : KeepsForm (starts op q body s) s := by
  simp [starts, hb]

/-! ## Operations of Machine/StreamEvents -/

@[simp] theorem admitItem_kept (k h q it s) : Onward s (admitItem k h q it s) := .of <| by
  fun_cases admitItem k h q it s <;> simp [*]

@[simp] theorem execStreamRowArrival_kept (k h s) : KeepsForm (execStreamRowArrival k h s) s := by
  fun_cases execStreamRowArrival k h s <;> simp [*]

@[simp] theorem execSlackRefill_kept (k h s) : KeepsForm (execSlackRefill k h s) s := by
  simp only [execSlackRefill]
  repeat' split
  all_goals simp [*]

@[simp] theorem chainDone_kept (k n x s) : Onward s (chainDone k n x s) := .of <| by
  simp only [chainDone]
  repeat' split
  all_goals simp [*]

@[simp] theorem execSkidRow_kept (k c s) : KeepsForm (execSkidRow k c s) s := by
  simp only [execSkidRow]
  repeat' split
  all_goals simp [*]

@[simp] theorem restartChains_kept (c s) : Onward s (restartChains c s) := .of <| by
  simp only [restartChains]
  repeat' split
  all_goals simp [*]

@[simp] theorem setWord_kept (addr tag count s) : Onward s (setWord addr tag count s) := .of (by simp [setWord])

@[simp] theorem arriveMemory_kept (addr tag s) : Onward s (arriveMemory addr tag s) := .of (by simp [arriveMemory])

@[simp] theorem execBarrierArrival_kept (a s) : KeepsForm (execBarrierArrival a s) s := by
  simp only [execBarrierArrival]
  split
  · simp
  · split <;> simp

/-! ## Operations of Machine/Movers -/

@[simp] theorem onLoad_kept (w f s) : Onward s (onLoad w f s) := .of <| by
  fun_cases onLoad w f s <;> simp [*]

@[simp] theorem stopTransfers_kept (k i s) : Onward s (stopTransfers k i s) := .of (by simp [stopTransfers])

@[simp] theorem endRequests_kept (k seq status detail dkind s) : Onward s (endRequests k seq status detail dkind s) :=
    .of <| by
  simp only [endRequests]
  repeat' split
  all_goals simp [*]

@[simp] theorem dropTransfer_kept (m s) : Onward s (dropTransfer m s) := .of (by simp [dropTransfer])

@[simp] theorem dropFeed_kept (w s) : Onward s (dropFeed w s) := .of (by simp [dropFeed])

@[simp] theorem deviceEnds_kept (w status detail dkind s) : Onward s (deviceEnds w status detail dkind s) :=
    .of <| by
  simp only [deviceEnds]
  split
  · rfl
  · split <;> simp

@[simp] theorem abortTransfer_kept (m w status s) : Onward s (abortTransfer m w status s) :=
    .of (by simp [abortTransfer])

@[simp] theorem refuseTransfer_kept (m w cause s) : Onward s (refuseTransfer m w cause s) := .of <| by
  simp only [refuseTransfer]
  repeat' split
  all_goals simp [*]

@[simp] theorem consumePoison_kept (w origin core tag s) : Onward s (consumePoison w origin core tag s) := .of <| by
  fun_cases consumePoison w origin core tag s <;> simp [*]

theorem sourceRow_kept {t e host s r} (h : sourceRow t e host s = some r) : Onward s r.2.2 := .of <| by
  simp only [sourceRow] at h
  repeat' split at h
  all_goals cases h <;> simp

@[simp] theorem sendHost_kept (w a data p s) : Onward s (sendHost w a data p s) := .of (by simp [sendHost])

theorem destRow_kept {t d p s u} (e : destRow t d p s = some u) : Onward s u := by
  simp only [destRow] at e
  repeat' split at e
  case h_2 => exact sendItem_kept e
  all_goals cases e <;> exact .of (by simp)

@[simp] theorem replayIfAble_kept (k s) : Onward s (replayIfAble k s) := .of <| by
  fun_cases replayIfAble k s <;> simp [*]

theorem moveRow_kept {t e host s r} (h : moveRow t e host s = some r) : Onward s r.2 := .of <| by
  simp only [moveRow] at h
  split at h
  · cases h
  · next hs =>
    split at h
    · cases h
    · next hd =>
      repeat' split at h
      all_goals cases h; simp [destRow_kept hd, sourceRow_kept hs]

@[simp] theorem moveRows_kept (n t host s) : Onward s (moveRows n t host s).2 := by
  fun_induction moveRows n t host s with
  | case4 _ _ _ _ _ _ _ _ h ih => exact .of (by simp [ih, moveRow_kept h])
  | _ => exact .refl _

theorem hostBad_kept {m w host s t} (e : hostBad m w host s = some t) : Onward s t := .of <| by
  simp only [hostBad] at e
  split at e <;> cases e <;> simp

@[simp] theorem continueTransfer_kept (t n host s) : Onward s (continueTransfer t n host s) := by
  simp only [continueTransfer]
  split
  · next e =>
    split at e
    · exact hostBad_kept e
    · cases e
  · exact .of (by simp)

@[simp] theorem execMoverTransfer_kept (m w n host s) : KeepsForm (execMoverTransfer m w n host s) s := by
  fun_cases execMoverTransfer m w n host s <;> simp [*]

@[simp] theorem moveHome_kept (src dst s) : Onward s (moveHome src dst s) := .of <| by
  simp only [moveHome]
  repeat' split
  all_goals simp [*]

@[simp] theorem homeMoves_kept (t s) : Onward s (homeMoves t s) := .of <| by
  fun_cases homeMoves t s <;> simp [*]

@[simp] theorem transferArrival_kept (w s) : Onward s (transferArrival w s) := .of (by simp [transferArrival])

theorem sendMark_kept {k h m s t} (e : sendMark k h m s = some t) : Onward s t := by
  simp only [sendMark] at e
  split at e
  · cases e; exact .refl _
  · exact sendItem_kept e

theorem feedMark_kept {w s t} (e : feedMark w s = some t) : Onward s t := .of <| by
  simp only [feedMark] at e
  split at e
  · cases e; rfl
  · split at e
    · cases e; simp
    · obtain ⟨u, hu, rfl⟩ := Option.map_eq_some_iff.1 e
      simp [sendMark_kept hu]

@[simp] theorem execMoverTransferComplete_kept (m host s) : KeepsForm (execMoverTransferComplete m host s) s := by
  simp only [execMoverTransferComplete]
  split
  · simp
  · split
    · simp
    · split
      · simp
      · split
        · simp
        · split
          · simp
          · next e => simp [feedMark_kept e]

@[simp] theorem countTimeout_kept (t s) : Onward s (countTimeout t s) := .of (by simp [countTimeout])

@[simp] theorem execTransferDeadline_kept (m s) : KeepsForm (execTransferDeadline m s) s := by
  fun_cases execTransferDeadline m s <;> simp [*]

@[simp] theorem feedMarks_kept (k h s) : Onward s (feedMarks k h s) := by
  refine foldl_kept (fun t f => ?_) _ _
  split
  · rfl
  · split
    · rfl
    · next e => simp [sendMark_kept e]

@[simp] theorem runFeed_kept (k h s) : Onward s (runFeed k h s) := .of (by simp [runFeed])

@[simp] theorem execCreditReturn_kept (k h s) : KeepsForm (execCreditReturn k h s) s := by
  simp only [execCreditReturn]
  repeat' split
  all_goals simp [*]

@[simp] theorem patrolGranule_kept (a s) : Onward s (patrolGranule a s) := .of <| by
  fun_cases patrolGranule a s <;> simp [*]

@[simp] theorem execMemoryPatrol_kept (u s) : KeepsForm (execMemoryPatrol u s) s := by
  simp only [execMemoryPatrol]
  repeat' split
  all_goals simp [*]

/-! ## Operations of Machine/Sequences -/

@[simp] theorem addRef_kept (g s) : Onward s (addRef g s) := .of (by simp [addRef])

@[simp] theorem dropRef_kept (g s) : Onward s (dropRef g s) := .of (by simp [dropRef])

@[simp] theorem settleGroup_kept (g s) : Onward s (settleGroup g s) := .of (by simp [settleGroup])

@[simp] theorem dropHeld_kept (i s) : Onward s (dropHeld i s) := .of (by simp [dropHeld])

@[simp] theorem releaseSeq_kept (i s) : Onward s (releaseSeq i s) := .of (by simp [releaseSeq])

@[simp] theorem freeSeq_kept (i s) : Onward s (freeSeq i s) := .of (by simp [freeSeq])

@[simp] theorem matchBlocks_kept (cfg k i saltIdx salt n b parent prev toks s) :
    Onward s (matchBlocks cfg k i saltIdx salt n b parent prev toks s).2.2 := by
  induction n generalizing b parent prev toks s with
  | zero => exact .refl _
  | succ n ih =>
    have recalled (g s) : (if (State.group s g).inYard then recallGroup g k s else .granted 0 s).Kept s := by
      split
      · exact recallGroup_kept ..
      · simp
    simp only [matchBlocks]
    split
    · exact .refl _
    · split
      · split
        · exact .of (by simp)
        · next e => exact .of (by simp [ih, (recalled ..).granted e])
        · next e => exact .of (by simp [ih, (recalled ..).waits e])
      · exact .refl _

@[simp] theorem dropRecalls_kept (gs s) : Onward s (dropRecalls gs s) := .of (by simp [dropRecalls])

@[simp] theorem failOpen_kept (q i status detail dkind s) : Onward s (failOpen q i status detail dkind s) :=
    .of (by simp [failOpen])

@[simp] theorem openedSeq_kept (q i s) : Onward s (openedSeq q i s) := .of (by simp [openedSeq])

@[simp] theorem retryRecalls_kept (k gs s) : Onward s (retryRecalls k gs s) := by
  refine foldl_kept (fun t g => ?_) _ _
  split
  · split
    · next e => exact ((recallGroup_kept ..).granted e).kept
    · next e => exact ((recallGroup_kept ..).waits e).kept
    · rfl
  · rfl

@[simp] theorem openRecalls_kept (q k i s) : Onward s (openRecalls q k i s) := .of (by simp [openRecalls])

@[simp] theorem openPages_kept (q k i s) : Onward s (openPages q k i s) := .of <| by
  simp only [openPages]
  split
  · simp
  · split
    · simp
    · split
      · simp
      · split
        · next e => simp [(allocateRuns_kept ..).granted e]
        · next e => simp [(allocateRuns_kept ..).waits e]
        · split <;> simp

@[simp] theorem openMatch_kept (q k cfg i toks s) : Onward s (openMatch q k cfg i toks s) := .of <| by
  simp only [openMatch]
  repeat' split
  all_goals simp [*]

@[simp] theorem execSeqOpen_kept (q tokens s) : KeepsForm (execSeqOpen q tokens s) s := by
  unfold execSeqOpen
  refine starts_kept _ _ _ _ fun t => ?_
  dsimp only
  repeat' split
  all_goals simp

@[simp] theorem execSeqClose_kept (q s) : KeepsForm (execSeqClose q s) s := by
  refine starts_kept _ _ _ _ fun t => ?_
  dsimp only
  repeat' split
  all_goals simp

@[simp] theorem cancelRequests_kept (k v s) : Onward s (cancelRequests k v s) := .of (by simp [cancelRequests])

@[simp] theorem cancelOpen_kept (i s) : Onward s (cancelOpen i s) := .of <| by
  fun_cases cancelOpen i s <;> simp [*]

@[simp] theorem endOpening_kept (k status s) : Onward s (endOpening k status s) := by
  refine foldl_kept (fun t e => ?_) _ _
  split
  · rfl
  · split <;> simp

@[simp] theorem acceptCancel_kept (q immediate s) : Onward s (acceptCancel q immediate s) :=
    .of (by simp [acceptCancel])

@[simp] theorem execCancel_kept (q s) : KeepsForm (execCancel q s) s := by simp [execCancel]

@[simp] theorem execCancelImmediate_kept (q s) : KeepsForm (execCancelImmediate q s) s := by simp [execCancelImmediate]

@[simp] theorem execCancelRelease_kept (i s) : KeepsForm (execCancelRelease i s) s := by simp [execCancelRelease]

@[simp] theorem recallAll_kept (k l s) : Onward s (recallAll k l s).2 := by
  induction l generalizing s with
  | nil => exact .refl _
  | cons g gs ih =>
    simp only [recallAll]
    split
    · split
      · exact .refl _
      · next e => exact .of (by simp [ih, (recallGroup_kept ..).granted e])
      · next e => exact .of (by simp [ih, (recallGroup_kept ..).waits e])
    · exact ih s

@[simp] theorem applyPin_kept (i n k ring pos s) : Onward s (applyPin i n k ring pos s) := .of (by simp [applyPin])

@[simp] theorem pinBlocks_kept (q i n k s) : Onward s (pinBlocks q i n k s) := .of <| by
  simp only [pinBlocks]
  repeat' split
  all_goals simp [*]

@[simp] theorem execPin_kept (q s) : KeepsForm (execPin q s) s := by simp [execPin]

@[simp] theorem execUnpin_kept (q s) : KeepsForm (execUnpin q s) s := by simp [execUnpin]

@[simp] theorem execUnpinAll_kept (q s) : KeepsForm (execUnpinAll q s) s := by simp [execUnpinAll]

@[simp] theorem execSaltSet_kept (q s) : KeepsForm (execSaltSet q s) s := by simp [execSaltSet]

@[simp] theorem execSaltUnset_kept (q s) : KeepsForm (execSaltUnset q s) s := by simp [execSaltUnset]

@[simp] theorem execAllocationRetry_kept (p s) : KeepsForm (execAllocationRetry p s) s := by
  simp only [execAllocationRetry]
  split
  · simp
  · split
    · simp
    · split
      · next e => simp [(allocateRuns_kept ..).granted e]
      · next e => simp [(allocateRuns_kept ..).waits e]
      · simp

@[simp] theorem expireWait_kept (w s) : Onward s (expireWait w s) := .of <| by
  simp only [expireWait]
  repeat' split
  all_goals simp [*]

@[simp] theorem execAllocationWaitExpiry_kept (p s) : KeepsForm (execAllocationWaitExpiry p s) s := by
  fun_cases execAllocationWaitExpiry p s <;> simp [*]

/-! ## Operations of Machine/Steps -/

@[simp] theorem claim_kept (ring pos ps s) : Onward s (claim ring pos ps s) := .of (by simp [claim])

@[simp] theorem startStep_kept (q s) : Onward s (startStep q s) := .of <| by
  simp only [startStep]
  repeat' split
  all_goals simp [*]

@[simp] theorem execStep_kept (q s) : KeepsForm (execStep q s) s := by simp [execStep]

@[simp] theorem startRequest_kept (q verify src s) : Onward s (startRequest q verify src s) := .of <| by
  simp only [startRequest]
  repeat' split
  all_goals simp

@[simp] theorem execPrefill_kept (q src s) : KeepsForm (execPrefill q src s) s := by simp [execPrefill]

@[simp] theorem execVerify_kept (q src s) : KeepsForm (execVerify q src s) s := by simp [execVerify]

@[simp] theorem holdSince_kept (q s) : Onward s (holdSince q s) := .of (by simp [holdSince])

@[simp] theorem execFence_kept (q s) : KeepsForm (execFence q s) s := by simp [execFence]

@[simp] theorem execFenceExpired_kept (q s) : KeepsForm (execFenceExpired q s) s := by
  fun_cases execFenceExpired q s <;> simp [*]

@[simp] theorem execNopDescriptor_kept (q s) : KeepsForm (execNopDescriptor q s) s := by simp [execNopDescriptor]

theorem freeNumbers_kept {s t} (e : freeNumbers s = some t) : Onward s t := .of <| by
  obtain ⟨a, -, rfl⟩ := Option.map_eq_some_iff.1 e
  simp

@[simp] theorem placeGroups_kept (k units gs s) : Onward s (placeGroups k units gs s) := by
  refine foldl_kept (fun t g => ?_) _ _
  split
  · rfl
  · split
    · next e => exact ((allocate_kept ..).granted e).kept
    · next e => exact ((allocate_kept ..).waits e).kept
    · rfl

@[simp] theorem giveBack_kept (r s) : Onward s (giveBack r s) := .of (by simp [giveBack])

/-- Where an opening is granted or waits, the state it leaves is kept. -/
structure OpenGrant.Kept (g : OpenGrant) (s : State) : Prop where
  granted : ∀ {gs t}, g = .granted gs t → Onward s t
  waits : ∀ {gs t}, g = .waits gs t → Onward s t

theorem OpenGrant.Kept.after {g : OpenGrant} {s t} (h : g.Kept t) (e : Machine.Kept s t) : g.Kept s :=
  ⟨fun hg => .of (e.trans (h.granted hg).kept), fun hg => .of (e.trans (h.waits hg).kept)⟩

@[simp] theorem OpenGrant.kept_granted {gs s t} : (OpenGrant.granted gs t).Kept s ↔ Machine.Kept s t :=
  ⟨fun h => (h.granted rfl).kept, fun h => ⟨by rintro _ _ ⟨⟩; exact .of h, nofun⟩⟩

@[simp] theorem OpenGrant.kept_waits {gs s t} : (OpenGrant.waits gs t).Kept s ↔ Machine.Kept s t :=
  ⟨fun h => (h.waits rfl).kept, fun h => ⟨nofun, by rintro _ _ ⟨⟩; exact .of h⟩⟩

@[simp] theorem OpenGrant.kept_refused {s} : OpenGrant.refused.Kept s := ⟨nofun, nofun⟩

theorem takeGroups_kept (k units n gs s) : (takeGroups k units n gs s).Kept s := by
  induction n generalizing gs s with
  | zero =>
    simp only [takeGroups]
    split <;> simp
  | succ n ih =>
    simp only [takeGroups]
    split
    · split
      · next e => simp [freeNumbers_kept e]
      · split <;> simp
    · split
      · simp
      · next e => exact (ih _ _).after ((allocate_kept ..).waits e).kept
      · next e => exact (ih _ _).after ((allocate_kept ..).granted e).kept

theorem takeRuns_kept (k kd units n s) : (takeRuns k kd units n s).Kept s := by
  simp only [takeRuns]
  split
  · next e => simp [(allocateRuns_kept ..).granted e]
  · simp
  · next e => simp [(allocateRuns_kept ..).waits e]

theorem OpenGrant.bind_kept {o : OpenGrant} {gs f s} (h : o.Kept s) (hf : ∀ t, (f t).Kept t) : (o.bind gs f).Kept s := by
  cases o with
  | refused => simp [OpenGrant.bind]
  | granted gs t => exact (hf t).after (h.granted rfl).kept
  | waits gs t =>
    have ht := h.waits rfl
    simp only [OpenGrant.bind]
    split
    · next e => simp [(hf t).granted e, ht]
    · next e => simp [(hf t).waits e, ht]
    · simp [ht]

theorem grantReq_kept (k cfg r s) : (grantReq k cfg r s).Kept s := by
  refine OpenGrant.bind_kept (takeRuns_kept ..) fun t => ?_
  split
  · simp
  · next e => exact (OpenGrant.bind_kept (takeRuns_kept ..) (by simp)).after ((takeGroups_kept ..).granted e).kept
  · next e => simp [(takeGroups_kept ..).waits e]

theorem takeImport_kept (k cfg m s) : (takeImport k cfg m s).Kept s := by
  simp only [takeImport]
  split
  · next e => exact (OpenGrant.bind_kept (takeRuns_kept ..) (by simp)).after ((takeGroups_kept ..).granted e).kept
  · exact takeGroups_kept ..

@[simp] theorem grantReqs_kept (k cfg l s) : Onward s (grantReqs k cfg l s).2.1 := by
  induction l generalizing s with
  | nil => exact .refl _
  | cons r rs ih =>
    simp only [grantReqs]
    split
    · exact .of (by simp [ih])
    · split
      · next e => exact .of (by simp [ih, (grantReq_kept ..).granted e])
      · exact .of (by simp [ih])
      · next e => exact .of (by simp [ih, (grantReq_kept ..).waits e])

@[simp] theorem sendBundle_kept (k m layer sender ps s) : Onward s (sendBundle k m layer sender ps s) :=
    .of (by simp [sendBundle])

@[simp] theorem sendLayer_kept (k m layer ps s) : Onward s (sendLayer k m layer ps s) := .of (by simp [sendLayer])

@[simp] theorem givePairs_kept (k d layer ps s) : Onward s (givePairs k d layer ps s) := .of (by simp [givePairs])

@[simp] theorem keepPairs_kept (k m layer sender ps s) : Onward s (keepPairs k m layer sender ps s) :=
    .of (by simp [keepPairs])

@[simp] theorem addRun_kept (k cfg run s) : Onward s (addRun k cfg run s) := .of <| by
  fun_cases addRun k cfg run s <;> simp [*]

@[simp] theorem buildLayers_kept (k cfg m layers s) : Onward s (buildLayers k cfg m layers s) := by
  fun_induction buildLayers k cfg m layers s with
  | case4 => exact .of (by simp)
  | case5 _ _ _ _ _ _ _ _ ih => exact .of (by simp [ih])
  | _ => exact .refl _

@[simp] theorem dispatchLayers_kept (k cfg m rt layers s) : Onward s (dispatchLayers k cfg m rt layers s) := .of <| by
  simp only [dispatchLayers, buildLayers_kept]
  exact .inr (foldl_kept (fun t l => by split <;> simp) _ _).kept

@[simp] theorem joinBundle_kept (k cfg m layer sender ps s) : Onward s (joinBundle k cfg m layer sender ps s) :=
    .of <| by
  simp only [joinBundle]
  repeat' split
  all_goals simp [*]

@[simp] theorem joinEarly_kept (k cfg m s) : Onward s (joinEarly k cfg m s) := .of (by simp [joinEarly])

@[simp] theorem writeRouting_kept (k cfg st rt s) : Onward s (writeRouting k cfg st rt s) := by
  refine foldl_kept (fun t l => ?_) _ _
  split <;> simp

@[simp] theorem startFeeds_kept (k plans s) : Onward s (startFeeds k plans s) := .of (by simp [startFeeds])

@[simp] theorem raiseBarriers_kept (k cfg stage s) : Onward s (raiseBarriers k cfg stage s) :=
    .of (by simp [raiseBarriers])

@[simp] theorem copyEntry_kept (src dst n s) : Onward s (copyEntry src dst n s).2 := .of (by simp [copyEntry])

@[simp] theorem compactPath_kept (cfg r s) : Onward s (compactPath cfg r s).2 := .of <| by
  simp only [compactPath]
  split
  · refine List.foldlRecOn (motive := fun acc : Bool × State => Kept s acc.2) _ _ (.refl s) fun acc h n _ => ?_
    refine List.foldlRecOn (motive := fun a : Bool × State => Kept s a.2) _ _ h fun a h l _ => ?_
    split <;> simp [h]
  · rfl

@[simp] theorem compactAll_kept (cfg) : ∀ l s, Onward s (compactAll cfg l s).2
  | [], _ => .refl _
  | r :: rs, s => .of <| by simp [compactAll, compactAll_kept cfg rs, apply_ite Prod.snd]

@[simp] theorem takeHandoff_kept (k w s) : Onward s (takeHandoff k w s) := .of (by simp [takeHandoff])

@[simp] theorem dropReady_kept (k st s) : Onward s (dropReady k st s) := .of (by simp [dropReady])

@[simp] theorem refuseStep_kept (k st status s) : Onward s (refuseStep k st status s) := .of (by simp [refuseStep])

@[simp] theorem launch_kept (k cfg choice s) : Onward s (launch k cfg choice s) := .of <| by
  fun_cases launch k cfg choice s <;> simp [*]

@[simp] theorem openExperts_kept (k cfg s) : Onward s (openExperts k cfg s) := .of <| by
  simp only [openExperts]
  repeat' split
  all_goals simp [*]

@[simp] theorem openWith_kept (k cfg st choice rt src reqs s) : Onward s (openWith k cfg st choice rt src reqs s) :=
    .of <| by
  simp only [openWith]
  repeat' split
  all_goals simp [*]

@[simp] theorem holdReady_kept (k st rs s) : Onward s (holdReady k st rs s) := .of (by simp [holdReady])

@[simp] theorem openStep_kept (k cfg st src s) : Onward s (openStep k cfg st src s) := .of <| by
  simp only [openStep]
  split <;> simp

@[simp] theorem execStepOpen_kept (k src s) : KeepsForm (execStepOpen k src s) s := by
  fun_cases execStepOpen k src s <;> simp [*]

@[simp] theorem readRouting_kept (k cfg st layer s) : Onward s (readRouting k cfg st layer s).2 := .of <| by
  simp only [readRouting]
  repeat' split
  all_goals simp [*]

@[simp] theorem execThresholdRouteDispatch_kept (k layer s) : KeepsForm (execThresholdRouteDispatch k layer s) s := by
  simp only [execThresholdRouteDispatch]
  repeat' split
  all_goals simp [*]

/-! ## Operations of Machine/StepRun -/

@[simp] theorem fire_kept (k s) : Onward s (fire k s) := .of (by simp [fire])

@[simp] theorem execSentinelEvaluation_kept (s) : KeepsForm (execSentinelEvaluation s) s := by
  simp [execSentinelEvaluation]

@[simp] theorem shardTimeout_kept (k s) : Onward s (shardTimeout k s) := .of <| by
  simp only [shardTimeout]
  repeat' split
  all_goals simp [*]

@[simp] theorem execShardDeadline_kept (k s) : KeepsForm (execShardDeadline k s) s := by
  fun_cases execShardDeadline k s <;> simp [*]

@[simp] theorem clearWords_kept (k cfg stage s) : Onward s (clearWords k cfg stage s) := .of (by simp [clearWords])

@[simp] theorem reopen_kept (k cfg st s) : Onward s (reopen k cfg st s) := .of <| by
  simp only [reopen]
  repeat' split
  all_goals simp [*]

@[simp] theorem cannotReplay_kept (k st s) : Onward s (cannotReplay k st s) := .of (by simp [cannotReplay])

@[simp] theorem execStepReplay_kept (k s) : KeepsForm (execStepReplay k s) s := by
  fun_cases execStepReplay k s <;> simp [*]

@[simp] theorem execPatrol_kept (c firstOk secondOk s) : KeepsForm (execPatrol c firstOk secondOk s) s := by
  simp [execPatrol]

@[simp] theorem moveRowError_kept (c r s) : Onward s (moveRowError c r s) := .of (by simp [moveRowError])

@[simp] theorem execBenchMoveComplete_kept (c s) : KeepsForm (execBenchMoveComplete c s) s := by
  simp [execBenchMoveComplete]

@[simp] theorem setWay_kept (set w e s) : Onward s (setWay set w e s) := .of (by simp [setWay])

@[simp] theorem reinsert_kept (g s) : Onward s (reinsert g s) := .of <| by
  fun_cases reinsert g s <;> simp [*]

@[simp] theorem execScentRebuild_kept (s) : KeepsForm (execScentRebuild s) s := by simp [execScentRebuild]

/-! ## Operations of Machine/StepCommit -/

@[simp] theorem takeWay_kept (g set w s) : Onward s (takeWay g set w s) := .of (by simp [takeWay])

@[simp] theorem offerGroup_kept (g s) : Onward s (offerGroup g s) := .of <| by
  fun_cases offerGroup g s <;> simp [*]

@[simp] theorem sealGroup_kept (g s) : Onward s (sealGroup g s) := .of <| by
  simp only [sealGroup]
  repeat' split
  all_goals simp [*]

@[simp] theorem createGroup_kept (cfg i g s) : Onward s (createGroup cfg i g s) := .of (by simp [createGroup])

@[simp] theorem fillGroup_kept (g toks s) : Onward s (fillGroup g toks s) := .of (by simp [fillGroup])

@[simp] theorem commitTokens_kept (cfg i fuel p toks gs s) : Onward s (commitTokens cfg i fuel p toks gs s) := by
  induction fuel generalizing p toks gs s with
  | zero => exact .refl _
  | succ fuel ih =>
    simp only [commitTokens]
    repeat' split
    all_goals exact .of (by simp [ih])

@[simp] theorem cutSeq_kept (i kept s) : Onward s (cutSeq i kept s) := .of (by simp [cutSeq])

@[simp] theorem commitTree_kept (r s) : Onward s (commitTree r s) := .of (by simp [commitTree])

@[simp] theorem commitOk_kept (cfg r s) : Onward s (commitOk cfg r s) := .of <| by
  simp only [commitOk]
  repeat' split
  all_goals simp [*]

@[simp] theorem commitLost_kept (st r s) : Onward s (commitLost st r s) := .of (by simp [commitLost])

@[simp] theorem commitReq_kept (cfg st status r s) : Onward s (commitReq cfg st status r s) :=
    .of (by simp [commitReq])

@[simp] theorem commitReqs_kept (cfg st) : ∀ l s, Onward s (commitReqs cfg st l s)
  | [], _ => .refl _
  | (r, x) :: rest, s => .of <| by simp [commitReqs, commitReqs_kept cfg st rest]

@[simp] theorem countCoreSteps_kept (cfg st s) : Onward s (countCoreSteps cfg st s) := .of <| by
  fun_cases countCoreSteps cfg st s <;> simp [*]

@[simp] theorem transientVerdict_kept (st ok s) : Onward s (transientVerdict st ok s) := .of <| by
  fun_cases transientVerdict st ok s <;> simp [*]

@[simp] theorem rearmZombies_kept (k s) : Onward s (rearmZombies k s) := .of (by simp [rearmZombies])

@[simp] theorem commitStep_kept (k cfg st s0) : Onward s0 (commitStep k cfg st s0) := .of <| by
  simp only [commitStep]
  repeat' split
  all_goals simp [*]

@[simp] theorem commitSteps_kept (s) : Onward s (commitSteps s) := by
  refine foldl_kept (fun t k => ?_) _ _
  split <;> simp

@[simp] theorem activateSeq_kept (i s) : Onward s (activateSeq i s) := .of (by simp [activateSeq])

@[simp] theorem freeTaken_kept (i s) : Onward s (freeTaken i s) := .of (by simp [freeTaken])

@[simp] theorem unscent_kept (g s) : Onward s (unscent g s) := .of (by simp [unscent])

@[simp] theorem unevict_kept (g s) : Onward s (unevict g s) := .of (by simp [unevict])

@[simp] theorem applySalt_kept (i v s) : Onward s (applySalt i v s) := .of (by simp [applySalt])

@[simp] theorem poisonGroup_kept (g s) : Onward s (poisonGroup g s) := .of (by simp [poisonGroup])

/-! ## Operations of Machine/Ethernet -/

@[simp] theorem countEth_kept (p k n s) : Onward s (countEth p k n s) := .of (by simp [countEth])

@[simp] theorem countEths_kept (p l s) : Onward s (countEths p l s) := .of (by simp [countEths])

@[simp] theorem execEthPortLinkChange_kept (p up s) : KeepsForm (execEthPortLinkChange p up s) s := by
  simp [execEthPortLinkChange]

@[simp] theorem fillBuffer_kept (b data s) : Onward s (fillBuffer b data s) := .of <| by
  fun_cases fillBuffer b data s <;> simp [*]

@[simp] theorem workDone_kept (qp status s) : Onward s (workDone qp status s) := .of (by simp [workDone])

@[simp] theorem localError_kept (p qp s) : Onward s (localError p qp s) := .of (by simp [localError])

@[simp] theorem countSent_kept (p c s) : Onward s (countSent p c s) := .of (by simp [countSent])

@[simp] theorem sendFrom_kept (p qp b c reply s) : Onward s (sendFrom p qp b c reply s) := .of <| by
  simp only [sendFrom]
  repeat' split
  all_goals simp [*]

@[simp] theorem readInto_kept (p qp b data c reply s) : Onward s (readInto p qp b data c reply s) := .of <| by
  simp only [readInto]
  split
  · simp
  · simp
  · split <;> simp

@[simp] theorem execEthWorkRequest_kept (qp f p op b c reply s) :
    KeepsForm (execEthWorkRequest qp f p op b c reply s) s := by
  fun_cases execEthWorkRequest qp f p op b c reply s <;> simp [*]

@[simp] theorem remoteAccess_kept (p x s) : Onward s (remoteAccess p x s) := .of <| by
  fun_cases remoteAccess p x s <;> simp [*]

@[simp] theorem execEthFrameReceive_kept (p x s) : KeepsForm (execEthFrameReceive p x s) s := by
  simp [execEthFrameReceive]

@[simp] theorem writeBlock_kept (a l s) : Onward s (writeBlock a l s) := by
  induction l generalizing a s with
  | nil => exact .refl _
  | cons r rest ih => exact .of (by simp [writeBlock, ih])

@[simp] theorem failImport_kept (qp i gs s) : Onward s (failImport qp i gs s) := .of (by simp [failImport])

@[simp] theorem execSeqImportComplete_kept (qp bs s) : KeepsForm (execSeqImportComplete qp bs s) s := by
  simp only [execSeqImportComplete]
  split
  · simp
  · split
    · simp
    · split
      · simp
      · split
        · next e => simp [(takeImport_kept ..).granted e]
        · next e => simp [(takeImport_kept ..).waits e]
        · simp

@[simp] theorem applyImport_kept (qp i gen b0 gs s) : Onward s (applyImport qp i gen b0 gs s) := .of <| by
  simp only [applyImport]
  repeat' split
  all_goals simp [*]

@[simp] theorem execTelemetrySample_kept (s) : KeepsForm (execTelemetrySample s) s := by simp [execTelemetrySample]

/-! ## Operations of Machine/Links -/

@[simp] theorem linkEvents_kept (l x y claimed s) : Onward s (linkEvents l x y claimed s) :=
    .of (by simp [linkEvents])

@[simp] theorem enterLink_kept (l st cause claimed s) : Onward s (enterLink l st cause claimed s) :=
    .of (by simp [enterLink])

@[simp] theorem signalLost_kept (l s) : Onward s (signalLost l s) := .of (by simp [signalLost])

@[simp] theorem placeLink_kept (w l s) : Onward s (placeLink w l s) := .of (by simp [placeLink])

@[simp] theorem placeLinks_kept (w s) : Onward s (placeLinks w s) := .of (by simp [placeLinks])

@[simp] theorem execCoordinateRecord_kept (w s) : KeepsForm (execCoordinateRecord w s) s := by simp [execCoordinateRecord]

@[simp] theorem execLinkSignalDetect_kept (l lanes s) : KeepsForm (execLinkSignalDetect l lanes s) s := by
  simp [execLinkSignalDetect]

@[simp] theorem sendCoord_kept (l s) : Onward s (sendCoord l s) := .of (by simp [sendCoord])

@[simp] theorem execLinkTrainComplete_kept (l lanes half s) : KeepsForm (execLinkTrainComplete l lanes half s) s := by
  simp [execLinkTrainComplete]

@[simp] theorem execLinkTrainTimeout_kept (l s) : KeepsForm (execLinkTrainTimeout l s) s := by simp [execLinkTrainTimeout]

@[simp] theorem execLinkProbeRetry_kept (l s) : KeepsForm (execLinkProbeRetry l s) s := by simp [execLinkProbeRetry]

@[simp] theorem execLinkAuth_kept (l r s) : KeepsForm (execLinkAuth l r s) s := by simp [execLinkAuth]

@[simp] theorem execLinkAuthTimeout_kept (l s) : KeepsForm (execLinkAuthTimeout l s) s := by simp [execLinkAuthTimeout]

@[simp] theorem execLinkSignalLoss_kept (l s) : KeepsForm (execLinkSignalLoss l s) s := by simp [execLinkSignalLoss]

@[simp] theorem execMrefLoss_kept (second s) : KeepsForm (execMrefLoss second s) s := by simp [execMrefLoss]

@[simp] theorem execLinkErrorFallback_kept (l e s) : KeepsForm (execLinkErrorFallback l e s) s := by
  fun_cases execLinkErrorFallback l e s <;> simp [*]

@[simp] theorem execFastRetrainComplete_kept (l s) : KeepsForm (execFastRetrainComplete l s) s := by
  simp [execFastRetrainComplete]

@[simp] theorem execLinkFence_kept (l c s) : KeepsForm (execLinkFence l c s) s := by simp [execLinkFence]

@[simp] theorem quarantine_kept (l cause claimed s) : Onward s (quarantine l cause claimed s) :=
    .of (by simp [quarantine])

@[simp] theorem execLinkNak_kept (l n s) : KeepsForm (execLinkNak l n s) s := by simp [execLinkNak]

@[simp] theorem execFlit_kept (l w corrected s) : KeepsForm (execFlit l w corrected s) s := by simp [execFlit]

/-! ## Operations of Machine/Packets -/

@[simp] theorem forwardPkt_kept (l h p s) : Onward s (forwardPkt l h p s) := .of <| by
  fun_cases forwardPkt l h p s <;> simp [*]

@[simp] theorem takePkt_kept (l h ptype lenOk windowed p act s) (ha : ∀ t, Kept t (act t)) :
    KeepsForm (takePkt l h ptype lenOk windowed p act s) s := by
  simp [takePkt, ha]

@[simp] theorem crossArrival_kept (k s) : Onward s (crossArrival k s) := .of (by simp [crossArrival])

@[simp] theorem rowToQueue_kept (k h q it s) : Onward s (rowToQueue k h q it s) := .of (by simp [rowToQueue])

@[simp] theorem rowItem_kept (h data s) : Onward s (rowItem h data s).2 := .of (by simp [rowItem])

@[simp] theorem takeRow_kept (k h data s) : Onward s (takeRow k h data s) := .of <| by
  simp only [takeRow]
  repeat' split
  all_goals simp [*]

@[simp] theorem execRow_kept (l h data s) : KeepsForm (execRow l h data s) s :=
  takePkt_kept _ _ _ _ _ _ _ _ fun t => by split <;> simp

@[simp] theorem takeCredit_kept (k h n s) : Onward s (takeCredit k h n s) := .of <| by
  simp only [takeCredit]
  repeat' split
  all_goals simp [*]

@[simp] theorem execCredit_kept (l h count s) : KeepsForm (execCredit l h count s) s :=
  takePkt_kept _ _ _ _ _ _ _ _ fun t => by split <;> simp

@[simp] theorem takeOutcome_kept (k o s) : Onward s (takeOutcome k o s) := .of <| by
  simp only [takeOutcome]
  repeat' split
  all_goals simp [*]

@[simp] theorem execOutcome_kept (l h xtag attempt nreq status statuses digest count s) :
    KeepsForm (execOutcome l h xtag attempt nreq status statuses digest count s) s := by
  unfold execOutcome
  refine takePkt_kept _ _ _ _ _ _ _ _ fun t => ?_
  split <;> simp

@[simp] theorem releaseTo_kept (k m s) : Onward s (releaseTo k m s) :=
  foldl_kept (fun t h => by split <;> simp) _ _

@[simp] theorem execFlush_kept (l h s) : KeepsForm (execFlush l h s) s :=
  takePkt_kept _ _ _ _ _ _ _ _ fun t => by split <;> simp

@[simp] theorem raiseConflicts_kept (old s) : Onward s (raiseConflicts old s) := .of (by simp [raiseConflicts])

@[simp] theorem markConflict_kept (k s) : Onward s (markConflict k s) := .of <| by
  simp only [markConflict]
  repeat' split
  all_goals simp [*]

@[simp] theorem judgeClaims_kept (old s) : Onward s (judgeClaims old s) := .of (by simp [judgeClaims])

@[simp] theorem relayAnnounce_kept (l h p s) : Onward s (relayAnnounce l h p s) := .of (by simp [relayAnnounce])

@[simp] theorem execAnnounce_kept (l h members reach s) : KeepsForm (execAnnounce l h members reach s) s :=
  takePkt_kept _ _ _ _ _ _ _ _ fun t => by simp

@[simp] theorem takeBundle_kept (k h layer sender ps s) : Onward s (takeBundle k h layer sender ps s) := .of <| by
  simp only [takeBundle]
  repeat' split
  all_goals simp [*]

@[simp] theorem execBundle_kept (l h layer sender pairs s) : KeepsForm (execBundle l h layer sender pairs s) s :=
  takePkt_kept _ _ _ _ _ _ _ _ fun t => by split <;> simp

@[simp] theorem takeAuth_kept (l f s) : KeepsForm (takeAuth l f s) s := by simp [takeAuth]

@[simp] theorem execSpdm_kept (l message s) : KeepsForm (execSpdm l message s) s := by simp [execSpdm]

@[simp] theorem execCoord_kept (l w s) : KeepsForm (execCoord l w s) s := by simp [execCoord]

/-! ## Operations of Machine/Images -/

@[simp] theorem refuse_kept (q r s) : Onward s (refuse q r s) := .of (by simp [refuse])

@[simp] theorem storeShard_kept (addr x s) : Onward s (storeShard addr x s) := .of (by simp [storeShard])

@[simp] theorem failLoad_kept (h s) : Onward s (failLoad h s) := .of (by simp [failLoad])

@[simp] theorem copyShards_kept (q h l addr s) : Onward s (copyShards q h l addr s) := .of <| by
  simp only [copyShards]
  split
  · simp
  · split
    · simp
    · split <;> simp

@[simp] theorem readShard_kept (x rows s) : Onward s (readShard x rows s).2 := .of <| by
  refine List.foldlRecOn (motive := fun acc : Bool × State => Kept s acc.2) rows _ (.refl s) fun acc h i _ => ?_
  split <;> simp [h]

@[simp] theorem checkShards_kept (n l s) : Onward s (checkShards n l s).2 := by
  induction l generalizing n s with
  | nil => exact .refl _
  | cons x rest ih =>
    rw [checkShards_cons]
    dsimp only
    generalize checkShard _ = found
    cases found <;> exact .of (by simp [ih])

@[simp] theorem finishLoad_kept (q h s) : Onward s (finishLoad q h s) := .of <| by
  have checked := checkShards_kept 0 (s.image h).shards s
  simp only [finishLoad]
  split
  all_goals next e => simp [onward_of_pair checked e]

@[simp] theorem askYard_kept (q h l s) : Onward s (askYard q h l s) := .of <| by
  simp only [askYard]
  split
  · next e => simp [(allocate_kept ..).granted e]
  · next e => simp [(allocate_kept ..).waits e]
  · split <;> simp

@[simp] theorem execLoadImage_kept (q shards s) : KeepsForm (execLoadImage q shards s) s := by
  unfold execLoadImage
  refine starts_kept _ _ _ _ fun t => ?_
  dsimp only
  repeat' split
  all_goals simp

@[simp] theorem execUnloadImage_kept (q s) : KeepsForm (execUnloadImage q s) s := by
  unfold execUnloadImage
  refine starts_kept _ _ _ _ fun t => ?_
  dsimp only
  repeat' split
  all_goals simp

/-! ## Operations of Machine/Matrix -/

@[simp] theorem execMreg_kept (c f stop s) : KeepsForm (execMreg c f stop s) s := by
  refine issue_kept _ _ _ _ _ _ fun t => ?_
  repeat' split
  all_goals simp [*]

@[simp] theorem readPlane_kept (c x first rows s) : Onward s (readPlane c x first rows s).2 :=
  readBenchRows_kept _ _ _ _

@[simp] theorem readStationary_kept (c x p e sp cb s) : Onward s (readStationary c x p e sp cb s).2 :=
    .of (by simp [readStationary])

@[simp] theorem runUnits_kept (c f o us s) : Onward s (runUnits c f o us s) := .of <| by
  simp only [runUnits]
  repeat' split
  all_goals simp

@[simp] theorem passTake_kept (c o b s) : Onward s (passTake c o b s).2 := .of <| by
  simp only [passTake]
  repeat' split
  all_goals simp [*]

@[simp] theorem passStop_kept (c f o b conflict paused marker q s) :
    Onward s (passStop c f o b conflict paused marker q s) :=

    .of <| by
  fun_cases passStop c f o b conflict paused marker q s <;> simp [*]

@[simp] theorem execMpass_kept (c f conflict stop wload s) : KeepsForm (execMpass c f conflict stop wload s) s := by
  refine issue_kept _ _ _ _ _ _ fun t => ?_
  dsimp only
  repeat' split
  all_goals simp

/-! ## Operations of Machine/Tasks -/

@[simp] theorem startTask_kept (c w s) : Onward s (startTask c w s) := .of (by simp [startTask])

@[simp] theorem onStep_kept (c f s) : Onward s (onStep c f s) := .of <| by
  fun_cases onStep c f s <;> simp [*]

@[simp] theorem noteDispatch_kept (c w s) : Onward s (noteDispatch c w s) := .of (by simp [noteDispatch])

@[simp] theorem execTaskDispatch_kept (c w s) : KeepsForm (execTaskDispatch c w s) s := by simp [execTaskDispatch]

@[simp] theorem addTotals_kept (c x s) : Onward s (addTotals c x s) := .of <| by
  fun_cases addTotals c x s <;> simp [*]

@[simp] theorem verdict_kept (k c tag kind attempts row fail s) : Onward s (verdict k c tag kind attempts row fail s) :=
    .of (by simp [verdict])

@[simp] theorem checksumFlagged_kept (k c x w pass row s) : Onward s (checksumFlagged k c x w pass row s) :=
    .of <| by
  simp only [checksumFlagged]
  repeat' split
  all_goals simp [*]

@[simp] theorem startNext_kept (c s) : Onward s (startNext c s) := .of <| by
  fun_cases startNext c s <;> simp [*]

@[simp] theorem retireTask_kept (c w s) : Onward s (retireTask c w s) := .of <| by
  simp only [retireTask]
  repeat' split
  all_goals simp

@[simp] theorem execTaskRetire_kept (c s) : KeepsForm (execTaskRetire c s) s := by
  simp only [execTaskRetire]
  repeat' split
  all_goals simp [*]

@[simp] theorem execHalt_kept (c s) : KeepsForm (execHalt c s) s := by simp [execHalt]

@[simp] theorem execCoreHalted_kept (c s) : KeepsForm (execCoreHalted c s) s := by simp [execCoreHalted]

@[simp] theorem execCoreDeadTimeout_kept (c s) : KeepsForm (execCoreDeadTimeout c s) s := by simp [execCoreDeadTimeout]

@[simp] theorem resetAndReplay_kept (c s) : Onward s (resetAndReplay c s) := .of <| by
  simp only [resetAndReplay]
  repeat' split
  all_goals simp [*]

@[simp] theorem execCoreReset_kept (c q s) : KeepsForm (execCoreReset c q s) s := by
  fun_cases execCoreReset c q s <;> simp [*]

@[simp] theorem resetCoupe_kept (k s) : Onward s (resetCoupe k s) := .of (by simp [resetCoupe])

@[simp] theorem execCoupeReset_kept (k q s) : KeepsForm (execCoupeReset k q s) s := by
  fun_cases execCoupeReset k q s <;> simp [*]

/-! ## Operations of Machine/Save -/

@[simp] theorem writeFile_kept {w} (a size) (l : Sparse (BitVec w)) (s) : Onward s (writeFile a size l s) :=
    .of <| by
  simp [writeFile]

@[simp] theorem writeItems_kept (a l s) : Onward s (writeItems a l s) :=
  foldl_kept (fun t e => by split <;> simp) _ _

@[simp] theorem writeImage_kept (a c s) : Onward s (writeImage a c s) := .of (by simp [writeImage])

@[simp] theorem saveBench_kept (c dst s) : Onward s (saveBench c dst s) := .of (by simp [saveBench])

@[simp] theorem writePaused_kept (a l s) : Onward s (writePaused a l s) := .of (by simp [writePaused])

@[simp] theorem writeArea_kept (a g paused s) : Onward s (writeArea a g paused s) := .of (by simp [writeArea])

@[simp] theorem saveStands_kept (k) : ∀ paused l s, Onward s (saveStands k paused l s).2
  | _, [], _ => .refl _
  | paused, a :: rest, s => .of <| by
    simp only [saveStands, saveStands_kept k [] rest]
    split <;> simp

@[simp] theorem saveRows_kept (c rows s) : Onward s (saveRows c rows s).2 := .of (by simp [saveRows])

@[simp] theorem saveJobCores_kept (cfg) : ∀ l s, Onward s (saveJobCores cfg l s).2
  | [], _ => .refl _
  | c :: cs, s => .of <| by simp [saveJobCores, saveJobCores_kept cfg cs]

@[simp] theorem saveJobStands_kept (k cfg) : ∀ l s, Onward s (saveJobStands k cfg l s).2
  | [], _ => .refl _
  | g :: gs, s => .of <| by simp [saveJobStands, saveJobStands_kept k cfg gs]

@[simp] theorem restoreBench_kept (c src s) : Onward s (restoreBench c src s) := .of (by simp [restoreBench])

@[simp] theorem restoreCore_kept (x s) : Onward s (restoreCore x s) := .of (by simp [restoreCore])

@[simp] theorem restoreArea_kept (k a s) : Onward s (restoreArea k a s) :=
  foldl_kept (fun t x => by dsimp only; split <;> simp) _ _

theorem Memory.writes_wf {α : Type} (a : α → Nat) (bs : α → List (BitVec 8)) (l : List α) {m : List Host.Cell}
    (h : Memory.wf m = true) : Memory.wf (l.foldl (fun m e => Memory.write (a e) (bs e) m) m) = true :=
  List.foldlRecOn (motive := fun m => Memory.wf m = true) l _ h fun m h e _ => Memory.write_wf (a e) (bs e) m h

@[simp] theorem restoreRows_kept (x s) : Onward s (restoreRows x s) := .of <| by
  simp only [restoreRows]
  refine .trans ?_ (Onward.kept (State.setCore_kept _ _ _))
  exact kept_iff.2 ⟨rfl, Memory.writes_wf _ _ x.bench, id⟩

@[simp] theorem sendAgain_kept (c l s) : Onward s (sendAgain c l s) := .of (by simp [sendAgain])

@[simp] theorem reissueReads_kept (c s) : Onward s (reissueReads c s) := .of (by simp [reissueReads])

@[simp] theorem unhaltCore.startNextIdle_kept (c s) : Onward s (unhaltCore.startNextIdle c s) :=
    .of (by simp [unhaltCore.startNextIdle])

@[simp] theorem unhaltCore_kept (c s) : Onward s (unhaltCore c s) := .of (by simp [unhaltCore])

/-! ## Operations of Machine/Coupes -/

@[simp] theorem startPreempt_kept (k act s) : Onward s (startPreempt k act s) := .of (by simp [startPreempt])

@[simp] theorem execCoupeQuiesced_kept (k s) : KeepsForm (execCoupeQuiesced k s) s := by simp [execCoupeQuiesced]

@[simp] theorem stopBallast_kept (g s) : Onward s (stopBallast g s) := .of (by simp [stopBallast])

@[simp] theorem createDone_kept (ring pos w s) : Onward s (createDone ring pos w s) := .of (by simp [createDone])

@[simp] theorem takeHolders_kept (k ring pos m s) : Onward s (takeHolders k ring pos m s) :=
    .of (by simp [takeHolders])

@[simp] theorem createTake_kept (q s) : Onward s (createTake q s) := .of (by simp [createTake])

@[simp] theorem reserveSaves_kept (q k gs ok s) (h : ∀ t, Kept t (ok t)) : Onward s (reserveSaves q k gs ok s) :=
  .of <| by
  simp only [reserveSaves]
  split
  · simp
  · split
    · next e => exact ((allocateRuns_kept ..).granted e).kept.trans (h _)
    · next e => simp [(allocateRuns_kept ..).waits e]
    · split <;> simp

@[simp] theorem execCoupeCreate_kept (q s) : KeepsForm (execCoupeCreate q s) s := by
  refine starts_kept _ _ _ _ fun t => ?_
  repeat' split
  all_goals simp

@[simp] theorem resumeStart_kept (k ring pos s) : Onward s (resumeStart k ring pos s) := .of <| by
  fun_cases resumeStart k ring pos s <;> simp [*]

@[simp] theorem afterSave_kept (act s) : Onward s (afterSave act s) := .of <| by
  fun_cases afterSave act s <;> simp [*]

@[simp] theorem execSaveComplete_kept (k s) : KeepsForm (execSaveComplete k s) s := by
  simp only [execSaveComplete]
  repeat' split
  all_goals simp [*]

@[simp] theorem setStands_kept (k m s) : Onward s (setStands k m s) := .of (by simp [setStands])

@[simp] theorem applyCoupeSet_kept (k w s) : Onward s (applyCoupeSet k w s) := .of (by simp [applyCoupeSet])

@[simp] theorem execCoupeSet_kept (q s) : KeepsForm (execCoupeSet q s) s := by
  refine starts_kept _ _ _ _ fun t => ?_
  simp

@[simp] theorem endAllHeld_kept (k s) : Onward s (endAllHeld k s) := .of (by simp [endAllHeld])

@[simp] theorem endOpenStep_kept (k status s) : Onward s (endOpenStep k status s) := .of <| by
  simp only [endOpenStep]
  repeat' split
  all_goals simp [*]

@[simp] theorem endReady_kept (k s) : Onward s (endReady k s) := .of (by simp [endReady])

@[simp] theorem clearReady_kept (k s) : Onward s (clearReady k s) := .of (by simp [clearReady])

@[simp] theorem disown_kept (k s) : Onward s (disown k s) := .of (by simp [disown])

@[simp] theorem destroyCoupe_kept (k s) : Onward s (destroyCoupe k s) := .of (by simp [destroyCoupe])

@[simp] theorem startDrain_kept (k act s) : Onward s (startDrain k act s) := .of (by simp [startDrain])

@[simp] theorem execCoupeDestroy_kept (q s) : KeepsForm (execCoupeDestroy q s) s := by
  refine starts_kept _ _ _ _ fun t => ?_
  dsimp only
  repeat' split
  all_goals simp

@[simp] theorem execCoupePreempt_kept (q s) : KeepsForm (execCoupePreempt q s) s := by simp [execCoupePreempt]

@[simp] theorem execCoupeResume_kept (q s) : KeepsForm (execCoupeResume q s) s := by simp [execCoupeResume]

@[simp] theorem execResumeComplete_kept (k s) : KeepsForm (execResumeComplete k s) s := by
  simp only [execResumeComplete]
  repeat' split
  all_goals simp [*]

@[simp] theorem saveJob_kept (k s) : Onward s (saveJob k s) := .of <| by
  simp only [saveJob]
  repeat' split
  all_goals simp [*]

@[simp] theorem clearRows_kept (cfg c s) : Onward s (clearRows cfg c s) := .of (by simp [clearRows])

@[simp] theorem restoreJob_kept (k j s) : Onward s (restoreJob k j s) := .of <| by
  simp only [restoreJob]
  repeat' split
  all_goals simp [*]

@[simp] theorem switchJob_kept (k j s) : Onward s (switchJob k j s) := .of <| by
  fun_cases switchJob k j s <;> simp [*]

@[simp] theorem execJobSwitch_kept (k s) : KeepsForm (execJobSwitch k s) s := by
  fun_cases execJobSwitch k s <;> simp [*]

@[simp] theorem execSpanSet_kept (q s) : KeepsForm (execSpanSet q s) s := by simp [execSpanSet]

/-! ## Operations of Machine/BindCmd -/

@[simp] theorem execDrain_kept (q s) : KeepsForm (execDrain q s) s := by
  refine starts_kept _ _ _ _ fun t => ?_
  dsimp only
  repeat' split
  all_goals simp

@[simp] theorem pushEnds_kept (k s) : Onward s (pushEnds k s) := .of (by simp [pushEnds])

@[simp] theorem drained_kept (k s) : Onward s (drained k s) := .of (by simp [drained])

@[simp] theorem execCoupeDrained_kept (k s) : KeepsForm (execCoupeDrained k s) s := by
  simp only [execCoupeDrained]
  repeat' split
  all_goals simp [*]

@[simp] theorem fillCopy_kept (h n s) : Onward s (fillCopy h n s) := .of <| by
  fun_cases fillCopy h n s <;> simp [*]

@[simp] theorem takeFloor_kept (q cfg s) : Onward s (takeFloor q cfg s) := .of (by simp [takeFloor])

@[simp] theorem dropParts_kept (q s) : Onward s (dropParts q s) := .of (by simp [dropParts])

@[simp] theorem deckReady_kept (h s) : Onward s (deckReady h s) := .of (by simp [deckReady])

@[simp] theorem readLease_kept (a s) : Onward s (readLease a s).2 := .of (by simp [readLease])

@[simp] theorem stageRun_kept (runs r s) : Onward s (stageRun runs r s) := .of (by simp [stageRun])

@[simp] theorem stageTile_kept (cfg runs l s) : Onward s (stageTile cfg runs l s) :=
  foldl_kept (fun t e => by dsimp only; split <;> simp) _ _

@[simp] theorem stageFrom_kept (runs cfg s) : Onward s (stageFrom runs cfg s) := .of (by simp [stageFrom])

@[simp] theorem stageConfig_kept (cfg s) : Onward s (stageConfig cfg s) := .of (by simp [stageConfig])

@[simp] theorem closeWindows_kept (c s) : Onward s (closeWindows c s) := .of (by simp [closeWindows])

@[simp] theorem attach_kept (q cfg s) : Onward s (attach q cfg s) := .of (by simp [attach])

@[simp] theorem bindFails_kept (q r s) : Onward s (bindFails q r s) := .of (by simp [bindFails])

@[simp] theorem bindWaits_kept (q act s) : Onward s (bindWaits q act s) := .of (by simp [bindWaits])

@[simp] theorem bindGoes_kept (q runs s) : Onward s (bindGoes q runs s) := .of <| by
  simp only [bindGoes]
  split
  · next e => simp [(placeRuns_kept ..).granted e]
  · next e => simp [(placeRuns_kept ..).waits e]
  · rfl

@[simp] theorem bindChecks_kept (q s) : Onward s (bindChecks q s) := .of <| by
  simp only [bindChecks]
  repeat' split
  all_goals simp [*]

@[simp] theorem bindNow_kept (q s) : Onward s (bindNow q s) := .of <| by
  fun_cases bindNow q s <;> simp [*]

@[simp] theorem execBind_kept (q s) : KeepsForm (execBind q s) s := by
  refine starts_kept _ _ _ _ fun t => ?_
  dsimp only
  repeat' split
  all_goals simp

/-! ## Operations of Machine/RingEngine -/

@[simp] theorem raiseRing_kept (kind value r s) : Onward s (raiseRing kind value r s) := .of (by simp [raiseRing])

@[simp] theorem ringError_kept (r cause s) : Onward s (ringError r cause s) := .of (by simp [ringError])

@[simp] theorem placeRing_kept (valid r w s) : Onward s (placeRing valid r w s) := .of (by simp [placeRing])

@[simp] theorem observe_kept (r n s) : Onward s (observe r n s) := .of (by simp [observe])

@[simp] theorem execDoorbellWrite_kept (r count s) : KeepsForm (execDoorbellWrite r count s) s := by
  simp [execDoorbellWrite]

@[simp] theorem execPollRound_kept (counts s) : KeepsForm (execPollRound counts s) s := by simp [execPollRound]

@[simp] theorem acceptOne_kept (r w s) : Onward s (acceptOne r w s) := .of (by simp [acceptOne])

@[simp] theorem endTurn_kept (r s) : Onward s (endTurn r s) := .of (by simp [endTurn])

@[simp] theorem execDescriptorFetch_kept (ds s) : KeepsForm (execDescriptorFetch ds s) s := by
  fun_cases execDescriptorFetch ds s <;> simp [*]

@[simp] theorem execRingSet_kept (q entry s) : KeepsForm (execRingSet q entry s) s := by simp [execRingSet]

@[simp] theorem applyRingEntry_kept (r w s) : Onward s (applyRingEntry r w s) := .of (by simp [applyRingEntry])

@[simp] theorem execBark_kept (s) : KeepsForm (execBark s) s := by simp [execBark]

/-! ## Operations of Machine/Publish -/

@[simp] theorem applySpanSet_kept (k id count index s) : Onward s (applySpanSet k id count index s) :=
    .of (by simp [applySpanSet])

@[simp] theorem remapFailed_kept (g s) : Onward s (remapFailed g s) := .of <| by
  unfold remapFailed
  extract_lets s1
  have moved : Onward s s1 := by
    refine foldl_kept (fun t c => ?_) _ _
    dsimp only
    split
    · split <;> simp
    · rfl
  split <;> simp [moved]

@[simp] theorem applyDue_kept (d s) : Onward s (applyDue d s) := .of <| by
  simp only [applyDue]
  repeat' split
  all_goals simp [*]

@[simp] theorem applyDues_kept (l s) : Onward s (applyDues l s) := .of (by simp [applyDues])

@[simp] theorem releaseNumbers_kept (s) : Onward s (releaseNumbers s) := .of (by simp [releaseNumbers])

@[simp] theorem applyCommit_kept (s) : Onward s (applyCommit s) := .of (by simp [applyCommit])

@[simp] theorem clearSuspects_kept (s) : Onward s (clearSuspects s) := .of (by simp [clearSuspects])

@[simp] theorem freeFailed_kept (r pos s) : Onward s (freeFailed r pos s) := .of <| by
  fun_cases freeFailed r pos s <;> simp [*]

@[simp] theorem publishOne_kept (n r e s) : Onward s (publishOne n r e s) := .of <| by
  simp only [publishOne]
  repeat' split
  all_goals simp [*]

@[simp] theorem publishRing_kept (n r s) : Onward s (publishRing n r s) := .of (by simp [publishRing])

@[simp] theorem publishRings_kept (n s) : Onward s (publishRings n s) := .of (by simp [publishRings])

@[simp] theorem putAttention_kept (n r e s) : Onward s (putAttention n r e s) := .of (by simp [putAttention])

@[simp] theorem putOverflow_kept (n r s) : Onward s (putOverflow n r s) := .of (by simp [putOverflow])

@[simp] theorem loseAttention_kept (r s) : Onward s (loseAttention r s) := .of (by simp [loseAttention])

@[simp] theorem dropAttention_kept (s) : Onward s (dropAttention s) := .of (by simp [dropAttention])

@[simp] theorem publishEvent_kept (n e s) : Onward s (publishEvent n e s) := .of <| by
  simp only [publishEvent]
  repeat' split
  all_goals simp [*]

@[simp] theorem notifyRing_kept (n r s) : Onward s (notifyRing n r s) := .of <| by
  simp only [notifyRing]
  repeat' split
  all_goals simp [*]

@[simp] theorem publishEvents_kept (n s) : Onward s (publishEvents n s) := .of (by simp [publishEvents])

@[simp] theorem publish_kept (s) : Onward s (publish s) := .of (by simp [publish])

/-! ## Operations of Machine/Admin -/

@[simp] theorem execExpertMap_kept (q map s) : KeepsForm (execExpertMap q map s) s := by
  simp only [execExpertMap]
  repeat' split
  all_goals simp [*]

@[simp] theorem yardByHalf_kept (s) : Onward s (yardByHalf s) := .of (by simp [yardByHalf])

@[simp] theorem yardAtBringUp_kept (s) : Onward s (yardAtBringUp s) := .of (by simp [yardAtBringUp])

@[simp] theorem moveJournal_kept (i s) : Onward s (moveJournal i s) := .of <| by
  have lost : Kept s (settleRb { s with journalOk := false }) := settleRb_keeps (.of_eq rfl rfl)
  simp only [moveJournal]
  repeat' split
  all_goals simp [lost]

@[simp] theorem byRanger_kept (q body s) (hb : ∀ t, Kept t (body t)) : Onward s (byRanger q body s) := .of <| by
  simp [byRanger, hb]

@[simp] theorem isolate_kept (target index s) : Onward s (isolate target index s) := .of <| by
  simp only [isolate]
  repeat' split
  all_goals simp [*]

@[simp] theorem beginTest_kept (q s) : Onward s (beginTest q s) := .of (by simp [beginTest])

@[simp] theorem execSelfTest_kept (q s) : KeepsForm (execSelfTest q s) s := by simp [execSelfTest]

@[simp] theorem setBlock_kept (b s) : Onward s (setBlock b s) := .of (by simp [setBlock])

@[simp] theorem reinit_kept (target index verdict s) : Onward s (reinit target index verdict s) := .of <| by
  simp only [reinit]
  repeat' split
  all_goals simp [*]

@[simp] theorem endTest_kept (t verdict f s) : Onward s (endTest t verdict f s) := .of (by simp [endTest])

@[simp] theorem execSelfTestComplete_kept (target index finding s) :
    KeepsForm (execSelfTestComplete target index finding s) s := by
  fun_cases execSelfTestComplete target index finding s <;> simp [*]

@[simp] theorem applyLine_kept (g e s) : Onward s (applyLine g e s) := .of <| by
  simp only [applyLine]
  repeat' split
  all_goals simp [*]

@[simp] theorem execRepairSoft_kept (q s) : KeepsForm (execRepairSoft q s) s := by
  simp only [execRepairSoft]
  split
  · simp
  · exact starts_kept _ _ _ _ fun t => (byRanger_kept _ _ _ fun u => by simp).kept

@[simp] theorem execRepairHard_kept (q s) : KeepsForm (execRepairHard q s) s := by simp [execRepairHard]

@[simp] theorem setClock_kept (g mhz p s) : Onward s (setClock g mhz p s) := .of (by simp [setClock])

@[simp] theorem wakePatrol_kept (g s) : Onward s (wakePatrol g s) := .of (by simp [wakePatrol])

@[simp] theorem coresOff_kept (g s) : Onward s (coresOff g s) := .of (by simp [coresOff])

@[simp] theorem leaveS3_kept (i mhz p s) : Onward s (leaveS3 i mhz p s) := .of <| by
  simp only [leaveS3]
  repeat' split
  all_goals simp [*]

@[simp] theorem enterS3_kept (i s) : Onward s (enterS3 i s) := .of <| by
  simp only [enterS3]
  repeat' split
  all_goals simp [*]

@[simp] theorem clockStand_kept (mhz p g s) : Onward s (clockStand mhz p g s) := .of <| by
  simp only [clockStand]
  repeat' split
  all_goals simp [*]

@[simp] theorem powerStand_kept (p g s) : Onward s (powerStand p g s) := .of (by simp [powerStand])

@[simp] theorem endClock_kept (q s) : Onward s (endClock q s) := .of (by simp [endClock])

@[simp] theorem execPower_kept (q s) : KeepsForm (execPower q s) s :=
  starts_kept _ _ _ _ fun t => (byRanger_kept _ _ _ fun u => by simp).kept

@[simp] theorem execClock_kept (q s) : KeepsForm (execClock q s) s :=
  starts_kept _ _ _ _ fun t => (byRanger_kept _ _ _ fun u => by simp).kept

@[simp] theorem endClocks_kept (s) : Onward s (endClocks s) := .of (by simp [endClocks])

@[simp] theorem execClockChangeApply_kept (g s) : KeepsForm (execClockChangeApply g s) s := by
  simp only [execClockChangeApply]
  repeat' split
  all_goals simp [*]

@[simp] theorem execBallast_kept (q s) : KeepsForm (execBallast q s) s := by simp [execBallast]

@[simp] theorem execBallastUpdate_kept (w s) : KeepsForm (execBallastUpdate w s) s := by
  unfold execBallastUpdate
  extract_lets p base floor ok cap bal on s1 short due s2
  obtain ⟨stands, drawn⟩ : ∃ x, s1 = { s with stands := x } := by
    refine foldl_related (R := fun t u => ∃ x, u = { t with stands := x }) (fun t => ⟨_, rfl⟩) ?_ _ (fun t g => ?_) _ s
    · rintro _ _ _ ⟨x, rfl⟩ ⟨y, rfl⟩; exact ⟨y, rfl⟩
    · split
      · exact ⟨_, rfl⟩
      · exact ⟨_, rfl⟩
  have reset : Kept s s2 := by
    simp only [s2, drawn]
    exact kept_iff.2 ⟨rfl, id, id⟩
  split
  · simp
  · rw [keepsForm_next]
    split <;> simp [reset]

/-! ## Operations of Machine/BenchOps -/

@[simp] theorem copyRows_kept (c) : ∀ n d a s, Onward s (copyRows c n d a s)
  | 0, _, _, _ => .refl _
  | n + 1, d, a, s => .of <| by simp [copyRows, copyRows_kept c n]

@[simp] theorem execBcopy_kept (c f stop s) : KeepsForm (execBcopy c f stop s) s := by
  fun_cases execBcopy c f stop s
  simp [*]

@[simp] theorem execRdw_kept (c f s) : KeepsForm (execRdw c f s) s := by simp [execRdw]

@[simp] theorem execLdv_kept (c f s) : KeepsForm (execLdv c f s) s := by simp [execLdv]

@[simp] theorem execStv_kept (c f s) : KeepsForm (execStv c f s) s := by simp [execStv]

@[simp] theorem sendReads_kept (c f) : ∀ n out s, Onward s (sendReads c f n out s)
  | 0, _, _ => .refl _
  | n + 1, out, s => .of <| by simp [sendReads, sendReads_kept c f n]

@[simp] theorem execRread_kept (c f s) : KeepsForm (execRread c f s) s := by
  refine issue_kept _ _ _ _ _ _ fun t => ?_
  repeat' split
  all_goals simp [*]

@[simp] theorem postRows_kept (c) : ∀ n a r s, Onward s (postRows c n a r s)
  | 0, _, _, _ => .refl _
  | n + 1, a, r, s => .of <| by simp [postRows, postRows_kept c n]

@[simp] theorem execRwrite_kept (c f stop s) : KeepsForm (execRwrite c f stop s) s := by
  fun_cases execRwrite c f stop s
  simp [*]

@[simp] theorem execWset_kept (c f s) : KeepsForm (execWset c f s) s := by simp [execWset]

@[simp] theorem execWclr_kept (c f s) : KeepsForm (execWclr c f s) s := by simp [execWclr]

/-! ## Operations of Machine/Control -/

@[simp] theorem aluBI_kept (n op c f s) : KeepsForm (aluBI n op c f s) s := by simp [aluBI]

@[simp] theorem execNop_kept (c f s) : KeepsForm (execNop c f s) s := by simp [execNop]

@[simp] theorem execAdd_kept (c f s) : KeepsForm (execAdd c f s) s := by simp [execAdd]

@[simp] theorem execSub_kept (c f s) : KeepsForm (execSub c f s) s := by simp [execSub]

@[simp] theorem execAnd_kept (c f s) : KeepsForm (execAnd c f s) s := by simp [execAnd]

@[simp] theorem execOr_kept (c f s) : KeepsForm (execOr c f s) s := by simp [execOr]

@[simp] theorem execXor_kept (c f s) : KeepsForm (execXor c f s) s := by simp [execXor]

@[simp] theorem execShl_kept (c f s) : KeepsForm (execShl c f s) s := by simp [execShl]

@[simp] theorem execShr_kept (c f s) : KeepsForm (execShr c f s) s := by simp [execShr]

@[simp] theorem execSar_kept (c f s) : KeepsForm (execSar c f s) s := by simp [execSar]

@[simp] theorem execMul_kept (c f s) : KeepsForm (execMul c f s) s := by simp [execMul]

@[simp] theorem execSlt_kept (c f s) : KeepsForm (execSlt c f s) s := by simp [execSlt]

@[simp] theorem execSltu_kept (c f s) : KeepsForm (execSltu c f s) s := by simp [execSltu]

@[simp] theorem execSeq_kept (c f s) : KeepsForm (execSeq c f s) s := by simp [execSeq]

@[simp] theorem execLi_kept (c f s) : KeepsForm (execLi c f s) s := by simp [execLi]

@[simp] theorem execBr_kept (c f s) : KeepsForm (execBr c f s) s := by simp [execBr]

@[simp] theorem branchIf_kept (n cond c f s) : KeepsForm (branchIf n cond c f s) s := by simp [branchIf]

@[simp] theorem execBeq_kept (c f s) : KeepsForm (execBeq c f s) s := by simp [execBeq]

@[simp] theorem execBne_kept (c f s) : KeepsForm (execBne c f s) s := by simp [execBne]

@[simp] theorem execBlt_kept (c f s) : KeepsForm (execBlt c f s) s := by simp [execBlt]

@[simp] theorem execBge_kept (c f s) : KeepsForm (execBge c f s) s := by simp [execBge]

@[simp] theorem execLoop_kept (c f s) : KeepsForm (execLoop c f s) s := by simp [execLoop]

@[simp] theorem execJal_kept (c f s) : KeepsForm (execJal c f s) s := by simp [execJal]

@[simp] theorem execJr_kept (c f s) : KeepsForm (execJr c f s) s := by simp [execJr]

@[simp] theorem execEndTask_kept (c f s) : KeepsForm (execEndTask c f s) s := by simp [execEndTask]

/-! ## Operations of Machine/Failures -/

@[simp] theorem execStandLost_kept (g cause s) : KeepsForm (execStandLost g cause s) s := by simp [execStandLost]

@[simp] theorem execSramDieFailure_kept (i die s) : KeepsForm (execSramDieFailure i die s) s := by
  simp [execSramDieFailure]

@[simp] theorem loseGroup_kept (g s) : Onward s (loseGroup g s) := .of (by simp [loseGroup])

@[simp] theorem loseSeqPart_kept (i s t) : Onward s (loseSeqPart i s t) := .of <| by
  fun_cases loseSeqPart i s t <;> simp [*]

@[simp] theorem dropStack_kept (i s) : Onward s (dropStack i s) := .of (by simp [dropStack])

@[simp] theorem markStep_kept (i lost before k s) : Onward s (markStep i lost before k s) := .of <| by
  fun_cases markStep i lost before k s <;> simp [*]

@[simp] theorem unhalt_kept (k s) : Onward s (unhalt k s) := .of (by simp [unhalt])

@[simp] theorem loseSaved_kept (k s) : Onward s (loseSaved k s) := .of (by simp [loseSaved])

@[simp] theorem loseArea_kept (k s) : Onward s (loseArea k s) := .of <| by
  simp only [loseArea]
  repeat' split
  all_goals simp [*]

@[simp] theorem loseJobs_kept (i s) : Onward s (loseJobs i s) :=
  foldl_kept (fun t a => by split <;> [(split <;> simp); rfl]) _ _

@[simp] theorem floorsAgain_kept (s) : Onward s (floorsAgain s) := .of (by simp [floorsAgain])

@[simp] theorem abortPaused_kept (f s) : Onward s (abortPaused f s) :=
  foldl_kept (fun t k => by split <;> simp) _ _

@[simp] theorem abortFailed_kept (f lo hi s) : Onward s (abortFailed f lo hi s) := .of (by simp [abortFailed])

@[simp] theorem dropAsked_kept (i s) : Onward s (dropAsked i s) := .of (by simp [dropAsked])

@[simp] theorem execDeckStackFailure_kept (i s) : KeepsForm (execDeckStackFailure i s) s := by simp [execDeckStackFailure]

@[simp] theorem failLoads_kept (h s) : Onward s (failLoads h s) := .of (by simp [failLoads])

@[simp] theorem loseImage_kept (h s) : Onward s (loseImage h s) := .of (by simp [loseImage])

@[simp] theorem loseRecall_kept (g s) : Onward s (loseRecall g s) := .of (by simp [loseRecall])

@[simp] theorem emptyYard_kept (s) : Onward s (emptyYard s) := .of (by simp [emptyYard])

@[simp] theorem execYardChannelFailure_kept (c s) : KeepsForm (execYardChannelFailure c s) s := by
  simp [execYardChannelFailure]

/-! ## Operations of Machine/Power -/

@[simp] theorem coldSlots_kept (g s) : Onward s (coldSlots g s) :=
  foldl_kept (fun t c => by split <;> [(split <;> simp); rfl]) _ _

@[simp] theorem logPower_kept (w s) : Onward s (logPower w s) := .of (by simp [logPower])

theorem nextOr_kept {o s} (h : KeepsForm o s) : Onward s (nextOr o s) := .of <| by
  simp only [nextOr]
  split
  · exact h _ rfl
  · rfl

@[simp] theorem loseConsumers_kept (r i s) : Onward s (loseConsumers r i s) := .of <| by
  simp only [loseConsumers]
  split <;> simp [nextOr_kept]

@[simp] theorem returnConsumers_kept (r i s) : Onward s (returnConsumers r i s) := .of <| by
  simp only [returnConsumers]
  repeat' split
  all_goals simp [*]

@[simp] theorem bringUpUnits_kept (b s) : Onward s (bringUpUnits b s) := .of (by simp [bringUpUnits])

@[simp] theorem bringUpJournal_kept (s) : Onward s (bringUpJournal s) := .of (by simp [bringUpJournal])

@[simp] theorem bringUpRepairs_kept (b s) : Onward s (bringUpRepairs b s) := .of (by simp [bringUpRepairs])

@[simp] theorem execBringUpComplete_kept (b s) : KeepsForm (execBringUpComplete b s) s := by
  simp only [execBringUpComplete]
  split
  · have ready : Kept s (bringUpJournal (yardAtBringUp (bringUpRepairs b (bringUpUnits b s)))) := by simp
    exact (keepsForm_next ..).2 (settleRb_keeps
      ((ready.carries.trans (setDevice_carries ..)).trans (maybeReady_kept _).kept.carries))
  · simp

@[simp] theorem execStandCalibrated_kept (g mv s) : KeepsForm (execStandCalibrated g mv s) s := by
  simp [execStandCalibrated]

@[simp] theorem judge_kept (x t limit s) : Onward s (judge x t limit s) := .of (by simp [judge])

@[simp] theorem keepReading_kept (l x t s) : Onward s (keepReading l x t s) := .of <| by
  fun_cases keepReading l x t s <;> simp [*]

@[simp] theorem execSensorPoll_kept (readings s) : KeepsForm (execSensorPoll readings s) s := by
  simp only [execSensorPoll]
  repeat' split
  all_goals simp [*]

@[simp] theorem benchesLost_kept (s) : Onward s (benchesLost s) := .of (by simp [benchesLost])

@[simp] theorem tiersRest_kept (s) : Onward s (tiersRest s) := .of (by simp [tiersRest])

@[simp] theorem tiersWake_kept (s) : Onward s (tiersWake s) := .of (by simp [tiersWake])

@[simp] theorem stopClocks_kept (s) : Onward s (stopClocks s) := .of (by simp [stopClocks])

@[simp] theorem ballastOff_kept (s) : Onward s (ballastOff s) := .of (by simp [ballastOff])

@[simp] theorem linksDown_kept (eth s) : Onward s (linksDown eth s) := .of (by simp [linksDown])

@[simp] theorem abortTests_kept (s) : Onward s (abortTests s) := .of (by simp [abortTests])

@[simp] theorem execRangerWatchdog_kept (s) : KeepsForm (execRangerWatchdog s) s := by simp [execRangerWatchdog]

/-! ## Operations of Machine/Quantise -/

@[simp] theorem execQcw_kept (c f s) : KeepsForm (execQcw c f s) s := by simp [execQcw]

@[simp] theorem execQcb_kept (c f s) : KeepsForm (execQcb c f s) s := by simp [execQcb]

@[simp] theorem emitFull_kept (c s) : Onward s (emitFull c s).2 := .of <| by
  fun_cases emitFull c s <;> simp [*]

@[simp] theorem qcvtGroups_kept (c f) : ∀ fuel n s, Onward s (qcvtGroups c f fuel n s).2.2
  | 0, n, s => .of <| by simp [qcvtGroups]
  | fuel + 1, n, s => .of <| by simp [qcvtGroups, apply_ite Prod.snd, qcvtGroups_kept c f fuel]

@[simp] theorem qcvtPortGroups_kept (c b l n s) : Onward s (qcvtPortGroups c b l n s).2.2.2 := by
  fun_induction qcvtPortGroups c b l n s with
  | case5 n s ok t e _ _ d p rest vals t1 ih =>
    have filled := onward_of_pair (emitFull_kept c s) e
    have taken : Onward t t1 := .of <| by
      simp only [t1]
      split <;> simp
    exact .of (by simp [ih, taken, filled])
  | case1 _ _ _ _ _ e => exact onward_of_pair (emitFull_kept c _) e
  | case2 _ _ _ _ e => exact onward_of_pair (emitFull_kept c _) e
  | case3 _ _ _ _ e => exact onward_of_pair (emitFull_kept c _) e
  | case4 _ _ _ _ e => exact onward_of_pair (emitFull_kept c _) e

@[simp] theorem qcvtDone_kept (c f n s) : Onward s (qcvtDone c f n s) := .of (by simp [qcvtDone])

@[simp] theorem qcvtWaitOut_kept (c f n s) : Onward s (qcvtWaitOut c f n s) := .of (by simp [qcvtWaitOut])

@[simp] theorem qcvtOpen_kept (c f s) : Onward s (qcvtOpen c f s).2 := .of <| by
  simp only [qcvtOpen]
  repeat' split
  all_goals simp [*]

@[simp] theorem execQcvt_kept (c f stop s) : KeepsForm (execQcvt c f stop s) s := by
  refine issue_kept _ _ _ _ _ _ fun t => ?_
  repeat' split
  all_goals simp [*]

@[simp] theorem execQflush_kept (c f stop s) : KeepsForm (execQflush c f stop s) s := by
  refine issue_kept _ _ _ _ _ _ fun t => ?_
  split <;> simp

/-! ## Operations of Machine/Remote -/

@[simp] theorem execBenchStarvation_kept (c row kind s) : KeepsForm (execBenchStarvation c row kind s) s := by
  fun_cases execBenchStarvation c row kind s <;> simp [*]

@[simp] theorem scrubCorrected_kept (c r s) : Onward s (scrubCorrected c r s) := .of (by simp [scrubCorrected])

@[simp] theorem execScrubRow_kept (c s) : KeepsForm (execScrubRow c s) s := by simp [execScrubRow]

@[simp] theorem zombie_kept (g s) : Onward s (zombie g s) := .of (by simp [zombie])

@[simp] theorem serveRead_kept (q s) : Onward s (serveRead q s).2 := .of <| by
  simp only [serveRead]
  repeat' split
  all_goals simp [*]

@[simp] theorem execRemoteReadRequest_kept (c s) : KeepsForm (execRemoteReadRequest c s) s := by
  simp only [execRemoteReadRequest]
  repeat' split
  all_goals simp [*]

@[simp] theorem execRemoteReadReply_kept (c s) : KeepsForm (execRemoteReadReply c s) s := by
  simp only [execRemoteReadReply]
  repeat' split
  all_goals simp [*]

@[simp] theorem execWindowRowArrival_kept (c s) : KeepsForm (execWindowRowArrival c s) s := by
  simp only [execWindowRowArrival]
  repeat' split
  all_goals simp [*]

@[simp] theorem execRwriteAcknowledgement_kept (c s) : KeepsForm (execRwriteAcknowledgement c s) s := by
  simp only [execRwriteAcknowledgement]
  repeat' split
  all_goals simp [*]

/-! ## Operations of Machine/Resets -/

@[simp] theorem restartRanger_kept (s) : Onward s (restartRanger s) := .of (by simp [restartRanger])

@[simp] theorem stopTests_kept (s) : Onward s (stopTests s) := .of (by simp [stopTests])

@[simp] theorem warmStop_kept (pin s) : Onward s (warmStop pin s) := .of <| by
  have stopped : Kept s (tiersRest (stopClocks (linksDown false (ballastOff (stopTests s))))) := by simp
  simp only [warmStop]
  generalize tiersRest _ = t at stopped ⊢
  exact settleRb_keeps ⟨stopped.carries.queue, stopped.carries.form⟩

@[simp] theorem execTripWarmResetRelease_kept (hottest s) : KeepsForm (execTripWarmResetRelease hottest s) s := by
  simp [execTripWarmResetRelease]

@[simp] theorem rollback_kept (s) : Onward s (rollback s) := .of (by simp [rollback])

@[simp] theorem undoLoads_kept (s) : Onward s (undoLoads s) := .of (by simp [undoLoads])

@[simp] theorem undoOpens_kept (s) : Onward s (undoOpens s) := .of (by simp [undoOpens])

@[simp] theorem restage_kept (k s) : Onward s (restage k s).2 := .of <| by
  simp only [restage]
  repeat' split
  all_goals simp [*]

@[simp] theorem restageAll_kept : ∀ l s, Onward s (restageAll l s).2
  | [], _ => .refl _
  | k :: ks, s => .of <| by simp [restageAll, restageAll_kept ks]

@[simp] theorem recoverRing_kept (lost s r) : Onward s (recoverRing lost s r) := .of (by simp [recoverRing])

@[simp] theorem recoverRings_kept (lost s) : Onward s (recoverRings lost s) := .of (by simp [recoverRings])

@[simp] theorem trainHost_kept (s) : Onward s (trainHost s) := .of (by simp [trainHost])

@[simp] theorem drainEnd_kept (s) : Onward s (drainEnd s) := .of (by simp [drainEnd])

@[simp] theorem execCommit_kept (s) : KeepsForm (execCommit s) s := by simp [execCommit]

@[simp] theorem beginDrain_kept (s) : Onward s (beginDrain s) := .of <| by
  simp only [beginDrain]
  split
  · refine Kept.trans (settleRb_keeps (Carries.trans ?_ (setDevice_carries _ _))) (drainEnd_kept _).kept
    exact ⟨rfl, id⟩
  · rfl

@[simp] theorem execWholeDeviceDrain_kept (s) : KeepsForm (execWholeDeviceDrain s) s := by simp [execWholeDeviceDrain]

@[simp] theorem execWholeDeviceDrainTimeout_kept (s) : KeepsForm (execWholeDeviceDrainTimeout s) s := by
  fun_cases execWholeDeviceDrainTimeout s <;> simp [*]

@[simp] theorem execFirmwareUpdate_kept (ranger verified version s) :
    KeepsForm (execFirmwareUpdate ranger verified version s) s := by
  have watchdog := execRangerWatchdog_kept s
  simp only [execFirmwareUpdate]
  split
  · simp
  · split
    · simp
    · split
      · next e => simpa [e] using watchdog
      · exact watchdog

@[simp] theorem execFunctionLevelReset_kept (f s) : KeepsForm (execFunctionLevelReset f s) s := by
  simp [execFunctionLevelReset]

@[simp] theorem againRing_kept (f s r) : Onward s (againRing f s r) := .of (by simp [againRing])

@[simp] theorem execBusMasterEnable_kept (f s) : KeepsForm (execBusMasterEnable f s) s := by simp [execBusMasterEnable]

@[simp] theorem execHostLinkRetrain_kept (s) : KeepsForm (execHostLinkRetrain s) s := by simp [execHostLinkRetrain]

@[simp] theorem execHostLinkRestored_kept (rate width s) : KeepsForm (execHostLinkRestored rate width s) s := by
  simp [execHostLinkRestored]

@[simp] theorem execCxlCacheEnableChange_kept (on counts s) : KeepsForm (execCxlCacheEnableChange on counts s) s := by
  simp [execCxlCacheEnableChange]

/-! ## Operations of Machine/Setup -/

@[simp] theorem countViolation_kept (s) : Onward s (countViolation s) := .of (by simp [countViolation])

@[simp] theorem abandonLock_kept (s) : Onward s (abandonLock s) := .of (by simp [abandonLock])

@[simp] theorem resumeRing_kept (valid old e s) : Onward s (resumeRing valid old e s) := .of (by simp [resumeRing])

@[simp] theorem placeTable_kept (resume l s) : Onward s (placeTable resume l s) := .of (by simp [placeTable])

@[simp] theorem execSetupLock_kept (table s) : KeepsForm (execSetupLock table s) s := by
  simp only [execSetupLock]
  repeat' split
  case isFalse.isFalse.isFalse =>
    have placed := (placeTable_kept (s.lastLock = some (s.setup.ringTable, s.setup.ledgerBase, s.setup.ledgerSize))
      (table.getD []) { s with setup := { s.setup with
        err := BitVec.ofNat 8 (lockCode s table), checking := false, locked := true } }).kept
    exact (keepsForm_next ..).2 (settleRb_keeps ⟨placed.carries.queue, placed.carries.form⟩)
  all_goals simp

/-! ## Operations of Machine/Stream -/

@[simp] theorem popRows_kept (c b l n r s) : Onward s (popRows c b l n r s).2.2.2 := by
  fun_induction popRows c b l n r s with
  | case1 d p rest n r s s1 s2 ih =>
    refine .of (Kept.trans ?_ ih.kept)
    simp only [s2]
    split <;> simp [s1]
  | _ => exact .refl _

@[simp] theorem execPop_kept (c f stop s) : KeepsForm (execPop c f stop s) s := by
  simp only [execPop]
  repeat' split
  all_goals simp [*]

@[simp] theorem pushRows_kept (c p b n r s) : Onward s (pushRows c p b n r s).2.2 := by
  fun_induction pushRows c p b n r s with
  | case1 => exact .refl _
  | case2 => exact .refl _
  | case3 n r s s0 h d s1 hr e =>
    exact .of (by simp [show s1 = _ from (congrArg Prod.snd hr).symm, portRoom_kept h])
  | case4 n r s s0 h d s1 hr s2 e ih =>
    exact .of (by simp [ih, pushItem_kept e, show s1 = _ from (congrArg Prod.snd hr).symm, portRoom_kept h])

@[simp] theorem execPush_kept (c f stop s) : KeepsForm (execPush c f stop s) s := by
  refine issue_kept _ _ _ _ _ _ fun t => ?_
  repeat' split
  all_goals simp [*]

@[simp] theorem execPopv_kept (c f s) : KeepsForm (execPopv c f s) s := by
  refine issue_kept _ _ _ _ _ _ fun t => ?_
  repeat' split
  all_goals simp [*]

@[simp] theorem execPushv_kept (c f s) : KeepsForm (execPushv c f s) s := by
  refine issue_kept _ _ _ _ _ _ fun t => ?_
  split
  · rfl
  · dsimp only
    split
    · simp
    · next h => simp [pushItem_kept h]

@[simp] theorem execMark_kept (c f s) : KeepsForm (execMark c f s) s := by
  refine issue_kept _ _ _ _ _ _ fun t => ?_
  split
  · rfl
  · split
    · simp
    · next h => simp [pushItem_kept h]

@[simp] theorem execPeek_kept (c f s) : KeepsForm (execPeek c f s) s := by
  simp only [execPeek]
  repeat' split
  all_goals simp [*]

@[simp] theorem execDropm_kept (c f s) : KeepsForm (execDropm c f s) s := by
  refine issue_kept _ _ _ _ _ _ fun t => ?_
  split
  · rfl
  · split <;> simp

/-! ## Operations of Machine/Tap -/

@[simp] theorem tapFree_kept (i s) : KeepsForm (tapFree i s) s := by simp [tapFree]

@[simp] theorem tapHold_kept (i s) : KeepsForm (tapHold i s) s := by simp [tapHold]

@[simp] theorem execBypass_kept (s) : KeepsForm (execBypass s) s := by simp [execBypass]

@[simp] theorem execIdcode_kept (s) : KeepsForm (execIdcode s) s := by simp [execIdcode]

@[simp] theorem execSamplePreload_kept (s) : KeepsForm (execSamplePreload s) s := by simp [execSamplePreload]

@[simp] theorem execExtest_kept (s) : KeepsForm (execExtest s) s := by simp [execExtest]

@[simp] theorem execClamp_kept (s) : KeepsForm (execClamp s) s := by simp [execClamp]

@[simp] theorem execHighz_kept (s) : KeepsForm (execHighz s) s := by simp [execHighz]

@[simp] theorem execExtestPulse_kept (s) : KeepsForm (execExtestPulse s) s := by simp [execExtestPulse]

@[simp] theorem execExtestTrain_kept (s) : KeepsForm (execExtestTrain s) s := by simp [execExtestTrain]

@[simp] theorem execTapReset_kept (s) : KeepsForm (execTapReset s) s := by simp [execTapReset]

@[simp] theorem execEntdaa_kept (address s) : KeepsForm (execEntdaa address s) s := by simp [execEntdaa]

/-! ## Operations of Machine/Vector -/

@[simp] theorem vec2_kept (n op c f s) : KeepsForm (vec2 n op c f s) s := by simp [vec2]

@[simp] theorem vec1_kept (n op c f s) : KeepsForm (vec1 n op c f s) s := by simp [vec1]

@[simp] theorem vec3_kept (n op c f s) : KeepsForm (vec3 n op c f s) s := by simp [vec3]

@[simp] theorem vecReduce_kept (n op c f s) : KeepsForm (vecReduce n op c f s) s := by simp [vecReduce]

@[simp] theorem execVadd_kept (c f s) : KeepsForm (execVadd c f s) s := by simp [execVadd]

@[simp] theorem execVsub_kept (c f s) : KeepsForm (execVsub c f s) s := by simp [execVsub]

@[simp] theorem execVmul_kept (c f s) : KeepsForm (execVmul c f s) s := by simp [execVmul]

@[simp] theorem execVfma_kept (c f s) : KeepsForm (execVfma c f s) s := by simp [execVfma]

@[simp] theorem execVmin_kept (c f s) : KeepsForm (execVmin c f s) s := by simp [execVmin]

@[simp] theorem execVmax_kept (c f s) : KeepsForm (execVmax c f s) s := by simp [execVmax]

@[simp] theorem execVabs_kept (c f s) : KeepsForm (execVabs c f s) s := by simp [execVabs]

@[simp] theorem execVneg_kept (c f s) : KeepsForm (execVneg c f s) s := by simp [execVneg]

@[simp] theorem execVcsgn_kept (c f s) : KeepsForm (execVcsgn c f s) s := by simp [execVcsgn]

@[simp] theorem execVcmp_kept (c f s) : KeepsForm (execVcmp c f s) s := by simp [execVcmp]

@[simp] theorem execVsel_kept (c f s) : KeepsForm (execVsel c f s) s := by simp [execVsel]

@[simp] theorem execVrcp_kept (c f s) : KeepsForm (execVrcp c f s) s := by simp [execVrcp]

@[simp] theorem execVrsq_kept (c f s) : KeepsForm (execVrsq c f s) s := by simp [execVrsq]

@[simp] theorem execVexp_kept (c f s) : KeepsForm (execVexp c f s) s := by simp [execVexp]

@[simp] theorem execVlog_kept (c f s) : KeepsForm (execVlog c f s) s := by simp [execVlog]

@[simp] theorem execVhsum_kept (c f s) : KeepsForm (execVhsum c f s) s := by simp [execVhsum]

@[simp] theorem execVhmax_kept (c f s) : KeepsForm (execVhmax c f s) s := by simp [execVhmax]

@[simp] theorem execVsmx_kept (c f s) : KeepsForm (execVsmx c f s) s := by simp [execVsmx]

@[simp] theorem execVsmxn_kept (c f s) : KeepsForm (execVsmxn c f s) s := by simp [execVsmxn]

@[simp] theorem execVacc_kept (c f s) : KeepsForm (execVacc c f s) s := by
  simp only [execVacc]
  repeat' split
  all_goals simp [*]

@[simp] theorem execVmovs_kept (c f s) : KeepsForm (execVmovs c f s) s := by simp [execVmovs]

@[simp] theorem execVbcast_kept (c f s) : KeepsForm (execVbcast c f s) s := by simp [execVbcast]

end Sys2Proof.Machine
end

section
/-! PROOFS. The commands of supply, rails and reset keep the same, and so does every step. -/

namespace Sys2Proof.Machine

/-! ## Rails -/

@[simp] theorem setRail_kept (s i x) : Onward s (State.setRail s i x) := .of (by simp [State.setRail])

/-- Starting rails changes rails alone. -/
theorem startRails_rest (s : State) : startRails s = { s with rails := (startRails s).rails } :=
  startRails_related (R := fun s t => t = { s with rails := t.rails }) (fun _ => rfl)
    (fun h g => by rw [g, h]) (fun r i s => by
      simp only [startRail]
      split <;> rfl) s

@[simp] theorem startRails_kept (s) : Onward s (startRails s) := .of (by rw [startRails_rest]; simp)

@[simp] theorem coreRails_kept (off s) : Onward s (coreRails off s) := .of (by simp [coreRails])

@[simp] theorem dropFed_kept (r i s) : Onward s (dropFed r i s) := .of <| by
  simp only [dropFed]
  split
  · rfl
  · exact (foldl_kept (fun t j => by split <;> simp) _ _).kept

/-! ## What a cold reset starts from -/

theorem coldSlots_rest (g : StandId) (s : State) :
    coldSlots g s = { s with slots := (coldSlots g s).slots, stands := (coldSlots g s).stands } := by
  unfold coldSlots
  refine foldl_related (R := fun s t : State => t = { s with slots := t.slots, stands := t.stands }) (fun _ => rfl)
    (fun h g => by rw [g, h]) _ (fun t c => ?_) _ s
  dsimp only
  split
  · split <;> rfl
  · rfl

/-- The slots of the stands change nothing of a cold state but slots and stands. -/
theorem foldl_coldSlots {β : Type} (field : State → β)
    (h : ∀ (t : State) slots stands, field { t with slots := slots, stands := stands } = field t) (l : List StandId)
    (s : State) : field (l.foldl (fun t g => coldSlots g t) s) = field s :=
  foldl_related (R := fun s t => field t = field s) (fun _ => rfl) (fun h g => g.trans h) _
    (fun t g => by rw [coldSlots_rest]; exact h ..) l s

theorem coldState_mem (s : State) : (coldState s).mem = [] := foldl_coldSlots State.mem (fun _ _ _ => rfl) ..
theorem coldState_cores (s : State) : (coldState s).cores = [] := foldl_coldSlots State.cores (fun _ _ _ => rfl) ..
theorem coldState_dur (s : State) : (coldState s).dur = Durable.reset := foldl_coldSlots State.dur (fun _ _ _ => rfl) ..
theorem coldState_setup (s : State) : (coldState s).setup = Setup.reset :=
  foldl_coldSlots State.setup (fun _ _ _ => rfl) ..
theorem coldState_pending (s : State) : (coldState s).pending = s.pending :=
  foldl_coldSlots State.pending (fun _ _ _ => rfl) ..
theorem coldState_ranger (s : State) : (coldState s).ranger = { s.ranger with restarts := 0 } :=
  foldl_coldSlots State.ranger (fun _ _ _ => rfl) ..
theorem coldState_power (s : State) : (coldState s).power = { Power.reset with
    aux := s.power.aux, main := s.power.main, perst := s.power.perst, coldRst := s.power.coldRst, colds := s.power.colds
    warms := s.power.warms } := foldl_coldSlots State.power (fun _ _ _ => rfl) ..

theorem coldStart_pending (s : State) : (coldStart s).pending = s.pending := by
  rw [coldStart, startRails_rest]; exact coldState_pending s
theorem coldStart_mem (s : State) : (coldStart s).mem = [] := by
  rw [coldStart, startRails_rest]; exact coldState_mem s
theorem coldStart_rb (s : State) : (coldStart s).power.rb = .busy := by
  simp [coldStart, coldState_power, Power.reset]

/-- Memory is empty and HST_RB is busy. -/
theorem kept_of_blank {s t : State} (queue : t.pending = s.pending) (mem : t.mem = []) (rb : t.power.rb = .busy) :
    Kept s t :=
  kept_iff.2 ⟨queue, fun _ => by rw [view, mem]; rfl, fun _ => by rw [sound_iff, rb]; exact nofun⟩

theorem coldStart_kept (s) : Onward s (coldStart s) := .of <| by
  simp only [coldStart, startRails_kept]
  refine .inr (kept_of_blank (coldState_pending s) (coldState_mem s) ?_)
  simp [coldState_power, Power.reset]

@[simp] theorem coldReset_kept (s) : Onward s (coldReset s) := .of <| by
  simp only [coldReset]
  split
  · exact Kept.trans (t := restartRanger s) (by simp [restartRanger]) (coldStart_kept _).kept
  · rfl

@[simp] theorem loseDevice_kept (r s) : Onward s (loseDevice r s) :=
  .of (kept_of_blank (coldState_pending s) (coldState_mem s) (by simp [loseDevice, coldState_power, Power.reset]))

@[simp] theorem latchRail_kept (r i x s) : Onward s (latchRail r i x s) := .of <| by
  simp only [latchRail]
  split
  · refine settleRb_keeps (Carries.trans ?_ (setDevice_carries _ _))
    exact .of_eq (by simp [logPower]) (by simp [logPower])
  · split <;> simp

/-- The same commands wait, memory keeps its form, and HST_RB is busy. -/
theorem kept_of_busy {s t : State} (h : Carries s t) (rb : t.power.rb = .busy) : Kept s t :=
  kept_iff.2 ⟨h.queue, h.form, fun _ => by rw [sound_iff, rb]; exact nofun⟩

/-! ## Rails and supplies -/

section
variable (s : State)

theorem execRailOutOfRegulation_kept (r i x) : KeepsForm (execRailOutOfRegulation r i x s) s := by
  simp only [execRailOutOfRegulation]
  split
  · simp
  · split <;> simp

theorem execRailRampTimeout_kept (r i x) : KeepsForm (execRailRampTimeout r i x s) s := by
  simp [execRailRampTimeout]

theorem execRailRetry_kept (r i) : KeepsForm (execRailRetry r i s) s := by simp [execRailRetry]

theorem execRailInRegulation_kept (r i) : KeepsForm (execRailInRegulation r i s) s := by
  simp only [execRailInRegulation]
  split
  · simp
  · split <;> simp

theorem execThermalTrip_kept (g) : KeepsForm (execThermalTrip g s) s := by
  have stopped : Kept s (coreRails true (tiersRest (benchesLost (stopClocks (linksDown true (ballastOff s)))))) := by simp
  simp only [execThermalTrip]
  generalize coreRails _ _ = t at stopped ⊢
  split
  · simp
  · refine (keepsForm_next ..).2 (settleRb_keeps (Carries.trans ?_ (setDevice_carries ..)))
    exact ⟨stopped.carries.queue, stopped.carries.form⟩

theorem execAuxPowerOn_kept : KeepsForm (execAuxPowerOn s) s := by
  simp only [execAuxPowerOn]
  split
  · simp
  · exact (keepsForm_next ..).2 (kept_of_busy (.of_eq rfl rfl) rfl)

theorem execAuxPowerLoss_kept : KeepsForm (execAuxPowerLoss s) s := by
  simp only [execAuxPowerLoss]
  split
  · simp
  · exact (keepsForm_next ..).2 (kept_of_blank (coldState_pending s) (coldState_mem s) (by rw [coldState_power]; rfl))

theorem execAuxReady_kept : KeepsForm (execAuxReady s) s := by simp [execAuxReady]

theorem execMainPowerOn_kept (mv) : KeepsForm (execMainPowerOn mv s) s := by
  simp only [execMainPowerOn]
  repeat' split
  case isFalse.isFalse.isFalse =>
    exact (keepsForm_next ..).2 (kept_of_blank (coldStart_pending _) (coldStart_mem _) (coldStart_rb _))
  all_goals simp

theorem execMainPowerLoss_kept : KeepsForm (execMainPowerLoss s) s := by
  simp only [execMainPowerLoss]
  split
  · simp
  · exact (keepsForm_next ..).2 (kept_of_blank (coldState_pending s) (coldState_mem s) (by rw [coldState_power]; rfl))

/-! ## Resets -/

theorem execRangerRestart_kept : KeepsForm (execRangerRestart s) s := by simp [execRangerRestart]

theorem execColdReset_kept (w) : KeepsForm (execColdReset w s) s := by
  cases w <;> simp [execColdReset]

theorem execColdRstNRelease_kept : KeepsForm (execColdRstNRelease s) s := by simp [execColdRstNRelease]

/-- Where HST_RB may not be released it is busy, and any phase of a reset may begin. -/
theorem kept_of_shut (h : mayRelease s = false) (x : ResetPhase) :
    Kept s { s with power := { s.power with resetPhase := x } } :=
  kept_iff.2 ⟨rfl, id, fun g => (sound_iff _).2 fun released =>
    absurd ((sound_iff s).1 g released) (by simp [h])⟩

/-- A tripped part does not serve, and neither does one in which a reset is under way; any other is stopped. -/
@[simp] theorem warmReset_kept (pin) : Onward s (warmReset pin s) := .of <| by
  have tripped (h : s.power.device = .tripped) : mayRelease s = false := by simp [mayRelease, h]
  have under (h : s.power.resetPhase ≠ .none) : mayRelease s = false := by simp [mayRelease, h]
  simp only [warmReset]
  repeat' split
  case isFalse.isTrue => simp
  case isTrue.isTrue => exact kept_of_shut s (tripped (by simp_all)) _
  case h_2 => exact kept_of_shut s (under (by simp_all)) _
  all_goals simp

theorem execWarmReset_kept (w) : KeepsForm (execWarmReset w s) s := by
  cases w <;> simp [execWarmReset]

/-- What ends a recovery: the placing of the links, and HST_RB. -/
theorem placed_kept {v : State} (h : Carries s v) : Kept s (settleRb (maybeReady
    (match v.coord with | some w => placeLinks w v | none => v))) := by
  refine settleRb_keeps (Carries.trans ?_ (maybeReady_kept _).kept.carries)
  split
  · exact h.trans (placeLinks_kept _ v).kept.carries
  · exact h

@[simp] theorem recover_kept : Onward s (recover s) := .of <| by
  have undone : Kept s (undoOpens (undoLoads (rollback (coreRails false (tiersWake s))))) := by simp
  simp only [recover]
  generalize undoOpens _ = t at undone ⊢
  have rings (l) : Kept s (recoverRings l (restageAll (listedCoupes t) t).2) := undone.trans (by simp)
  specialize rings (restageAll (listedCoupes t) t).1
  generalize recoverRings _ _ = u at rings ⊢
  refine Kept.trans (t := u) rings ?_
  have placed := setDevice_carries u.power.before { u with power := { u.power with
    resetPhase := .none, linkUp := !u.power.perst, trip := false, lastBark := none } }
  generalize setDevice _ _ = v at placed ⊢
  exact placed_kept u ⟨placed.queue, placed.form⟩

theorem execReleasePoint_kept : KeepsForm (execReleasePoint s) s := by
  simp only [execReleasePoint]
  repeat' split
  all_goals simp

theorem execPerstRelease_kept : KeepsForm (execPerstRelease s) s := by
  simp only [execPerstRelease]
  repeat' split
  all_goals simp

/-! ## Set-up registers -/

theorem execWarmRst_kept (lock) : KeepsForm (execWarmRst lock s) s := by simp [execWarmRst]

@[simp] theorem writeCtrl_kept (v) : Onward s (writeCtrl v s) := .of (by simp [writeCtrl])

theorem writeSetup_locked (u : Setup) (off v) : (writeSetup u off v).locked = u.locked := by
  unfold writeSetup
  split <;> rfl

theorem execRegisterWrite_kept (f o n v) : KeepsForm (execRegisterWrite f o n v s) s := by
  simp [execRegisterWrite, writeSetup_locked]

end

/-! ## Every command, and every step -/

theorem exec_kept (i : Instr) (s : State) : KeepsForm (exec i s) s := by
  cases i with
  | railOutOfRegulation => exact execRailOutOfRegulation_kept s _ _ _
  | railRampTimeout => exact execRailRampTimeout_kept s _ _ _
  | railRetry => exact execRailRetry_kept s _ _
  | railInRegulation => exact execRailInRegulation_kept s _ _
  | thermalTrip g => exact execThermalTrip_kept s g
  | auxPowerOn => exact execAuxPowerOn_kept s
  | auxPowerLoss => exact execAuxPowerLoss_kept s
  | auxReady => exact execAuxReady_kept s
  | mainPowerOn => exact execMainPowerOn_kept s _
  | mainPowerLoss => exact execMainPowerLoss_kept s
  | rangerRestart => exact execRangerRestart_kept s
  | coldReset => exact execColdReset_kept s _
  | coldRstNRelease => exact execColdRstNRelease_kept s
  | warmReset => exact execWarmReset_kept s _
  | releasePoint => exact execReleasePoint_kept s
  | perstRelease => exact execPerstRelease_kept s
  | warmRst lock => exact execWarmRst_kept s lock
  | registerWrite => exact execRegisterWrite_kept s _ _ _ _
  | _ => simp [exec]

/-- The state on which a step runs its command: the front of the queue is taken off. -/
def popped (s : State) : State := { s with pending := s.pending.tail }

theorem mayRelease_tick (s : State) : mayRelease (tick s) = mayRelease s := by simp [mayRelease]

/-- An empty queue's step is a tick, and any other runs its front command on the state with the queue's rest. -/
theorem step_kept {s t : State} (h : step s = .next t) : Kept (popped s) t := by
  unfold step at h
  split at h
  next empty =>
    obtain rfl : tick s = t := Host.Outcome.next.inj h
    exact kept_iff.2 ⟨by simp [view, popped, empty], by simp [view, popped],
      fun g => (sound_iff _).2 (by
        rw [tick_power, mayRelease_tick]; exact (sound_iff (popped s)).1 g)⟩
  next c rest queue =>
    have : popped s = { s with pending := rest } := by simp [popped, queue]
    rw [this]
    exact exec_kept c _ t h

/-- Settles O57: every command and every tick keeps the canonical form (`exec_kept`). -/
theorem memoryKeepsItsForm : Obligations.MemoryKeepsItsForm := by
  unfold Obligations.MemoryKeepsItsForm
  intro s t form h
  exact (step_kept h).carries.form form

/-- Settles O58: a step leaves what HST_RB rests on, or settles HST_RB anew, or makes it busy (`exec_kept`). -/
theorem releasedOnlyWhenTheHostMayUseThePart : Obligations.ReleasedOnlyWhenTheHostMayUseThePart := by
  unfold Obligations.ReleasedOnlyWhenTheHostMayUseThePart
  intro s t sound h
  exact (sound_iff t).1 ((kept_iff.1 (step_kept h)).sound ((sound_iff (popped s)).2 sound))

/-! ## Ticks -/

/-- From `s` to `t` a core counts cycles and does nothing else. -/
def OnlyCounts (s t : State) : Prop :=
  ∀ c, t.core c = { s.core c with counters := (t.core c).counters, counted := (t.core c).counted }

theorem OnlyCounts.trans {s t u : State} (h : OnlyCounts s t) (g : OnlyCounts t u) : OnlyCounts s u :=
  fun c => by rw [g c, h c]

theorem elapse_only_counts (x : Core) (n : Nat) :
    x.elapse n = { x with counters := (x.elapse n).counters, counted := (x.elapse n).counted } := by
  simp only [Core.elapse]
  split
  · rfl
  · split <;> rfl

theorem elapseStand_only_counts (s : State) (g : StandId) : OnlyCounts s (elapseStand s g) := by
  unfold elapseStand
  split
  · refine foldl_related (R := OnlyCounts) (fun _ _ => rfl) .trans _ (fun t c d => ?_) _ s
    by_cases e : d = c
    · subst e; rw [State.setCore_core]; exact elapse_only_counts ..
    · rw [State.setCore_core_other _ _ _ _ e]
  · exact fun _ => rfl

theorem tick_only_counts (s : State) : OnlyCounts s (tick s) := by
  have stands := foldl_related (R := OnlyCounts) (fun _ _ => rfl) .trans _ elapseStand_only_counts allStands s
  unfold tick
  generalize allStands.foldl elapseStand s = t at stands ⊢
  exact stands

/-- A stand whose clock does not run counts nothing. -/
theorem tick_cores_of_idle {s : State} (h : ∀ g, standCounts s g = false) : (tick s).cores = s.cores := by
  have idle : ∀ l : List StandId, l.foldl elapseStand s = s := fun l => by
    induction l with
    | nil => rfl
    | cons g l ih => rw [List.foldl_cons, elapseStand, if_neg (by simp [h g]), ih]
  simp [tick, idle]

/-- Settles O56: every command and every step leaves the other commands waiting (`exec_kept`), and a tick counts. -/
theorem commandsLeaveTheQueue : Obligations.CommandsLeaveTheQueue := by
  unfold Obligations.CommandsLeaveTheQueue
  refine ⟨fun i s t h => (exec_kept i s t h).carries.queue, fun s t h => (step_kept h).carries.queue, fun s empty => ?_⟩
  refine ⟨tick s, by simp [step, empty], tick_eq s, tick_only_counts s, tick_cores_of_idle⟩

end Sys2Proof.Machine
end

section
/-! PROOFS. A core instruction that starts has its effect: what completes it, and what it writes. -/

namespace Sys2Proof.Machine

/-- An instruction that starts, and for which no cause of R87 holds, runs at once. -/
theorem issue_of_starts {i : Instr} {c : CoreId} {op : Nat} {f : Fields} {s : State} (e : coreInstr i = some (c, op, f))
    (hs : Starts i s) {causes : List (ExcClass × Bool)} (hc : ∀ k ∈ causes, k.2 = false) (body : State → State) :
    issue c op f causes body s = .next (runNew c op f body s) := by
  simp only [Starts, Issued, e] at hs
  obtain ⟨⟨hi, hq, hb⟩, unit⟩ := hs
  cases hu : opUnit op with
  | none =>
    have scalar : runNew c op f body s = body s := by simp [runNew, hu]
    rw [issue_scalar c op f causes body s hi hq hb hu hc, scalar]
  | some u => exact issue_unit c op f u causes body s hi hq hb hu (unit u hu) hc

/-- One whose effect moves the program counter leaves nothing in its unit's queue. -/
theorem issue_moves {i : Instr} {c : CoreId} {op : Nat} {f : Fields} {s t : State} (e : coreInstr i = some (c, op, f))
    (hs : Starts i s) {causes : List (ExcClass × Bool)} (hc : ∀ k ∈ causes, k.2 = false) {body : State → State}
    (hb : body s = t) (hpc : (t.core c).pc ≠ (s.core c).pc) : issue c op f causes body s = .next t := by
  rw [issue_of_starts e hs hc, runNew_done c op f body s (by rw [hb]; exact hpc), hb]

theorem pc_succ_ne (n : BitVec 21) : n + 1 ≠ n := by bv_omega

theorem completeWith_core (c : CoreId) (y : Core) (s : State) : (completeWith c y s).core c = y.issued.advance :=
  (completeWith_spec c y s).1

theorem completeWith_only (c : CoreId) (y : Core) (s : State) : OnlyCore c s (completeWith c y s) :=
  (completeWith_spec c y s).2

/-- One whose effect is to complete, with the core as `y`, completes. -/
theorem issue_completes {i : Instr} {c : CoreId} {op : Nat} {f : Fields} {s : State} (e : coreInstr i = some (c, op, f))
    (hs : Starts i s) {causes : List (ExcClass × Bool)} (hc : ∀ k ∈ causes, k.2 = false) {body : State → State} {y : Core}
    (hb : body s = completeWith c y s) (hpc : y.pc = (s.core c).pc) :
    issue c op f causes body s = .next (completeWith c y s) :=
  issue_moves e hs hc hb (by rw [completeWith_core, Core.advance_pc, Core.issued_pc, hpc]; exact pc_succ_ne _)

theorem advanced_of {x y : Core} (hpc : y.pc = x.pc) (hq : y.queue = x.queue) (hn : y.issueSeq = x.issueSeq)
    (hl : y.lastQueue = x.lastQueue) : Advanced x y.issued.advance := by
  simp [Advanced, hpc, hq, hn, hl]

/-! ## Scalar results -/

section
variable (x : Core) (r : Nat) (v : BitVec 64) (p : Bool)

/-- Writing a scalar register changes scalar registers alone. -/
theorem Core.wr_rest : x.wr r v p = { x with g := (x.wr r v p).g, gPoison := (x.wr r v p).gPoison } := by
  unfold Core.wr
  split <;> rfl

@[simp] theorem Core.wr_zero : x.wr 0 v p = x := rfl

end

theorem scalarIs_of {d : BitVec 5} {v : BitVec 64} {p : Bool} {x y z : Core} (h : ScalarIs d v p x y) (hg : z.g = y.g)
    (hp : z.gPoison = y.gPoison) : ScalarIs d v p x z :=
  ⟨fun r => by rw [Core.rd, hg]; exact h.1 r, fun r => by rw [Core.rdP, hp]; exact h.2 r⟩

/-- Nothing written: g0 is named. -/
theorem scalarIs_same (x : Core) : ScalarIs 0 0 false x x :=
  ⟨fun r => by simp, fun r => by simp⟩

theorem scalarFrame_wr (x : Core) (d : Nat) (v : BitVec 64) (p : Bool) : ScalarFrame x (x.wr d v p).issued.advance := by
  unfold ScalarFrame
  rw [Core.wr_rest]
  rfl

/-- An instruction whose effect is to complete with a scalar register written. -/
theorem writesScalar_of {i : Instr} {c : CoreId} {op : Nat} {f : Fields} {s : State} {d : BitVec 5} {v : BitVec 64}
    {p : Bool} {causes : List (ExcClass × Bool)} {body : State → State} (e : coreInstr i = some (c, op, f))
    (run : exec i s = issue c op f causes body s) (hc : ∀ k ∈ causes, k.2 = false)
    (hb : body s = completeWith c ((s.core c).wr d.toNat v p) s) : WritesScalar i c d v p s := by
  intro hs
  have written := Core.wr_scalar (s.core c) d v p
  refine ⟨_, run.trans (issue_completes e hs hc hb (by simp)), completeWith_only .., ?_⟩
  rw [completeWith_core]
  exact ⟨advanced_of (by simp) (by simp) (by simp) (by simp), scalarIs_of written (by simp) (by simp),
    scalarFrame_wr _ _ _ _⟩

/-! ## Vector results -/

theorem vectorIs_wrVec (x : Core) (d : Nat) (ls : List F32) (p : Bool) (h : ls.length = 64) :
    VectorIs d ls p x (x.wrVec d ls p).issued.advance := by
  refine ⟨by simp [Core.wrVec_vec_same x d ls p h], by simp [Core.wrVec_vecP], fun r hr => ⟨?_, ?_⟩⟩
  · simp [Core.wrVec_vec_other x d r ls p hr]
  · simp [Core.wrVec_vecP, hr]

/-- An instruction whose effect is to complete with the lanes of a vector register written. -/
theorem writesVector_of {i : Instr} {c : CoreId} {op : Nat} {f : Fields} {s : State} {d : Nat} {ls : List F32}
    {p : Bool} {causes : List (ExcClass × Bool)} {body : State → State} (e : coreInstr i = some (c, op, f))
    (run : exec i s = issue c op f causes body s) (hc : ∀ k ∈ causes, k.2 = false) (hl : ls.length = 64)
    (hb : body s = completeWith c ((s.core c).wrVec d ls p) s) : WritesVector i c d ls p s := by
  intro hs
  refine ⟨_, run.trans (issue_completes e hs hc hb rfl), completeWith_only .., ?_⟩
  rw [completeWith_core]
  exact ⟨advanced_of rfl rfl rfl rfl, vectorIs_wrVec _ _ _ _ hl, rfl⟩

end Sys2Proof.Machine
end

section
/-! PROOFS. Scalar instructions and branches. -/

namespace Sys2Proof.Machine

/-! ## Scalar instructions -/

theorem opB_eq (x : Core) (f : Fields) : opB x f = if bit f.mod 0 then f.imm.signExtend 64 else x.rd f.b.toNat := rfl

theorem opBP_eq (x : Core) (f : Fields) : opBP x f = (!bit f.mod 0 && x.rdP f.b.toNat) := by
  simp only [opBP]
  cases bit f.mod 0 <;> rfl

/-- An operation of form "D, A, B or IMM" (R75, R77). -/
theorem aluBI_writes {i : Instr} {c : CoreId} {f : Fields} {n : Nat} {s : State} {v : BitVec 64}
    (op : BitVec 64 → BitVec 64 → BitVec 64) (e : coreInstr i = some (c, n, f)) (run : exec i s = aluBI n op c f s)
    (legal : legalBI f = true)
    (hv : v = op ((s.core c).rd f.a.toNat) (if bit f.mod 0 then f.imm.signExtend 64 else (s.core c).rd f.b.toNat)) :
    WritesScalar i c f.d v ((s.core c).rdP f.a.toNat || (!bit f.mod 0 && (s.core c).rdP f.b.toNat)) s :=
  writesScalar_of e run (by simp [legal]) (by rw [hv, ← opBP_eq, ← opB_eq])

theorem setIf_eq (p : Prop) [Decidable p] : setIf (decide p) = if p then 1 else 0 := by
  by_cases h : p <;> simp [setIf, h]

theorem waitu_free {x : Core} {m : BitVec 4} (h : ∀ u : UnitQ, bit m u.maskBit = true → x.inUnit u = []) :
    x.queue.any (maskNames m) = false := by
  rw [List.any_eq_false]
  intro e he
  cases hu : opUnit e.op with
  | none => simp [maskNames, hu]
  | some u =>
    by_cases hm : bit m u.maskBit = true
    · have : e ∈ x.inUnit u := by simp [Core.inUnit, he, hu]
      rw [h u hm] at this
      exact absurd this (by simp)
    · simp [maskNames, hu, hm]

/-- Settles O2: each operation's effect is to complete with its result in D (`writesScalar_of`). -/
theorem scalarInstructionsWriteTheirResult : Obligations.ScalarInstructionsWriteTheirResult := by
  unfold Obligations.ScalarInstructionsWriteTheirResult
  refine ⟨fun c f s legal => ?alu, fun c f s => ⟨fun ok => ?li, fun ok => ?vmovs, fun v ok hv => ?rdsys, fun ok => ?nop,
    fun ok free => ?waitu⟩⟩
  case alu =>
    refine ⟨aluBI_writes _ rfl (exec_add c f s) legal rfl, aluBI_writes _ rfl (exec_sub c f s) legal rfl,
      aluBI_writes _ rfl (exec_and_ c f s) legal rfl, aluBI_writes _ rfl (exec_or_ c f s) legal rfl,
      aluBI_writes _ rfl (exec_xor_ c f s) legal rfl, aluBI_writes _ rfl (exec_shl c f s) legal rfl,
      aluBI_writes _ rfl (exec_shr c f s) legal rfl, aluBI_writes _ rfl (exec_sar c f s) legal rfl,
      aluBI_writes _ rfl (exec_mul c f s) legal rfl, aluBI_writes _ rfl (exec_slt c f s) legal ?_,
      aluBI_writes _ rfl (exec_sltu c f s) legal ?_, aluBI_writes _ rfl (exec_seq c f s) legal ?_⟩
    · exact (setIf_eq _).symm
    · exact (setIf_eq _).symm
    · rw [← setIf_eq]; rfl
  case li =>
    refine writesScalar_of rfl (exec_li c f s) (by simp [ok]) ?_
    cases h : bit f.mod 1 <;> simp [immSext]
  case vmovs => exact writesScalar_of rfl (exec_vmovs c f s) (by simp [ok]) rfl
  case rdsys => exact writesScalar_of rfl (exec_rdsys c f s) (by simp [ok, hv]) (by simp [hv])
  case nop => exact writesScalar_of rfl (exec_nop c f s) (by simpa [Form.nil] using ok) rfl
  case waitu => exact writesScalar_of rfl (exec_waitu c f s) (by simp [ok]) (by simp [waitu_free free])


/-! ## Branches -/

/-- A scalar instruction that starts has its effect. -/
theorem issue_scalar_of_starts {i : Instr} {c : CoreId} {op : Nat} {f : Fields} {s : State}
    (e : coreInstr i = some (c, op, f)) (hu : opUnit op = none) (hs : Starts i s) {causes : List (ExcClass × Bool)}
    (hc : ∀ k ∈ causes, k.2 = false) (body : State → State) : issue c op f causes body s = .next (body s) := by
  rw [issue_of_starts e hs hc, runNew, hu]
  rfl

/-- The program counter at a target within BOUND (R77). -/
theorem target_toNat {x : Core} {n : Int} (h : x.targetOk n = true) : ((BitVec.ofNat 21 n.toNat).toNat : Int) = n := by
  simp only [Core.targetOk, Bool.and_eq_true, decide_eq_true_eq] at h
  obtain ⟨low, high⟩ := h
  have bound := x.bound.isLt
  rw [BitVec.toNat_ofNat, Nat.mod_eq_of_lt (by omega)]
  omega

/-- What a branch that starts does: a taken one moves the program counter by IMM, any other to the next instruction; D
takes `v` with poison `p`, and `taint` taints the task. -/
def Branches (i : Instr) (c : CoreId) (f : Fields) (taken : Prop) (d : BitVec 5) (v : BitVec 64) (p taint : Bool)
    (s : State) : Prop :=
  let x := s.core c
  Starts i s → ∃ t, exec i s = .next t ∧ OnlyCore c s t ∧ (t.core c).queue = x.queue ∧ (t.core c).stall = .busy
    ∧ (taken → ((t.core c).pc.toNat : Int) = x.pc.toNat + f.imm.toInt) ∧ (¬taken → (t.core c).pc = x.pc + 1)
    ∧ ScalarIs d v p x (t.core c) ∧ (t.core c).tainted = (x.tainted || taint) ∧ TaintFrame x (t.core c)

section
variable (x : Core) (d : BitVec 5) (v : BitVec 64) (p taint : Bool)

/-- The core as a branch leaves it, before the program counter moves. -/
def Core.branched : Core := (x.wr d.toNat v p).taint taint

theorem taintFrame_branched_goTo (n : Nat) : TaintFrame x ((x.branched d v p taint).issued.goTo n) := by
  rw [TaintFrame, Core.branched, Core.wr_rest]
  rfl

theorem taintFrame_branched_advance : TaintFrame x (x.branched d v p taint).issued.advance := by
  rw [TaintFrame, Core.branched, Core.wr_rest]
  rfl

theorem Core.branched_scalar : ScalarIs d v p x (x.branched d v p taint) :=
  scalarIs_of (Core.wr_scalar x d v p) (by simp [branched]) (by simp [branched])

end

theorem Core.taint_false (x : Core) : x.taint false = x := by simp [Core.taint]

theorem taintFrame_jump (x : Core) (p : Bool) (n : Nat) : TaintFrame x ((x.taint p).issued.goTo n) := rfl

/-- Nothing is written to g0, and a condition that is not poisoned taints nothing. -/
theorem Core.branched_plain (x : Core) : x.branched 0 0 false false = x := by simp [Core.branched, Core.taint_false]

section
variable {i : Instr} {c : CoreId} {f : Fields} {s : State} {taken : Prop} [Decidable taken] {d : BitVec 5}
  {v : BitVec 64} {p taint : Bool} {op : Nat} {causes : List (ExcClass × Bool)} {body : State → State}

/-- An instruction whose effect is to jump by IMM when `taken`, and otherwise to complete. -/
theorem branches_of (e : coreInstr i = some (c, op, f)) (hu : opUnit op = none) (run : exec i s = issue c op f causes body s)
    (hc : ∀ k ∈ causes, k.2 = false) (target : taken → (s.core c).targetOk ((s.core c).relTarget f) = true)
    (hb : body s = if taken then jumpWith c ((s.core c).branched d v p taint) ((s.core c).relTarget f).toNat s
      else completeWith c ((s.core c).branched d v p taint) s) : Branches i c f taken d v p taint s := by
  intro hs
  refine ⟨_, run.trans (issue_scalar_of_starts e hu hs hc body), ?_⟩
  rw [hb]
  have written := (s.core c).branched_scalar d v p taint
  split
  next h =>
    obtain ⟨core, only⟩ := jumpWith_spec c ((s.core c).branched d v p taint) ((s.core c).relTarget f).toNat s
    rw [core]
    exact ⟨only, by simp [Core.branched], by simp, fun _ => target_toNat (target h), absurd h,
      scalarIs_of written (by simp) (by simp), by simp [Core.branched], taintFrame_branched_goTo ..⟩
  next h =>
    rw [completeWith_core]
    exact ⟨completeWith_only .., by simp [Core.branched], by simp, (absurd · h), fun _ => by simp [Core.branched],
      scalarIs_of written (by simp) (by simp), by simp [Core.branched], taintFrame_branched_advance ..⟩

/-- A conditional branch (R77). -/
theorem branchIf_branches {cond : BitVec 64 → BitVec 64 → Bool} (e : coreInstr i = some (c, op, f)) (hu : opUnit op = none)
    (run : exec i s = branchIf op cond c f s) (form : Form.ok ⟨0, 5, 5, 1, 0, 32⟩ f = true)
    (hcond : cond ((s.core c).rd f.a.toNat) ((s.core c).rd f.b.toNat) = decide taken)
    (target : taken → (s.core c).targetOk ((s.core c).relTarget f) = true) :
    Branches i c f taken 0 0 false ((s.core c).rdP f.a.toNat || (s.core c).rdP f.b.toNat) s := by
  refine branches_of e hu run ?_ target ?_
  · simpa [form, hcond] using target
  · simp only [hcond, decide_eq_true_eq]
    rfl

end

/-- LOOP branches where A, counted down, is not zero; g0 stays zero. -/
theorem loop_taken_iff (x : Core) (r : BitVec 5) : (x.branched r (x.rd r.toNat - 1) (x.rdP r.toNat) (x.rdP r.toNat)).rd
    r.toNat ≠ 0 ↔ r ≠ 0 ∧ x.rd r.toNat ≠ 1 := by
  have zero : r.toNat = 0 ↔ r = 0 := by bv_omega
  have one : x.rd r.toNat - 1 = 0 ↔ x.rd r.toNat = 1 := by bv_omega
  rw [Core.branched, Core.taint_rd, Core.wr_rd]
  by_cases h : r = 0
  · simp [h, Core.rd]
  · rw [if_pos ⟨rfl, mt zero.1 h⟩, ne_eq, one]
    exact (and_iff_right h).symm

/-- Settles O3: each branch's effect is to jump or to complete (`branches_of`). -/
theorem branchesMoveTheProgramCounter : Obligations.BranchesMoveTheProgramCounter := by
  unfold Obligations.BranchesMoveTheProgramCounter
  intro c f s
  refine ⟨fun ok inTask => ?br, fun ok => ⟨fun ht => ?beq, fun ht => ?bne, fun ht => ?blt, fun ht => ?bge⟩,
    fun ok ht => ?loop, fun ok ht => ?jal, fun ok ht hs => ?jr⟩
  case br =>
    refine branches_of (taken := True) rfl rfl (exec_br c f s) ?_ (fun _ => inTask) ?_
    · simp [ok, Core.relTarget, inTask]
    · rw [if_pos trivial, Core.branched_plain]
  case beq => exact branchIf_branches rfl rfl (exec_beq c f s) ok (beq_eq_decide ..) ht
  case bne => exact branchIf_branches rfl rfl (exec_bne c f s) ok (by simp [bne, beq_eq_decide]) ht
  case blt => exact branchIf_branches rfl rfl (exec_blt c f s) ok rfl ht
  case bge => exact branchIf_branches rfl rfl (exec_bge c f s) ok rfl ht
  case loop =>
    have taken := loop_taken_iff (s.core c) f.a
    refine branches_of rfl rfl (exec_loop c f s) ?_ ht (if_congr taken rfl rfl)
    have target := fun h => ht (taken.1 h)
    simpa [ok, Core.branched, Core.relTarget] using target
  case jal =>
    refine branches_of (taken := True) rfl rfl (exec_jal c f s) ?_ (fun _ => ht) ?_
    · simp [ok, Core.relTarget, ht]
    · rw [if_pos trivial, Core.branched, Core.taint_false]
      rfl
  case jr =>
    refine ⟨_, issue_scalar_of_starts (i := .jr c f) rfl rfl hs (by simp [ok, ht]) _, ?_⟩
    obtain ⟨core, only⟩ := jumpWith_spec c ((s.core c).taint ((s.core c).rdP f.a.toNat)) ((s.core c).rd f.a.toNat).toNat s
    rw [core]
    have target := target_toNat ht
    refine ⟨only, by simp, by exact_mod_cast target, scalarIs_of (scalarIs_same _) (by simp) (by simp), by simp,
      taintFrame_jump ..⟩

end Sys2Proof.Machine
end

section
/-! PROOFS. Vector instructions, lane by lane; reductions, softmax steps and reads of accumulators. -/

namespace Sys2Proof.Machine

/-! ## Lane by lane -/

theorem zipWith_lanes (op : F32 → F32 → F32) (x : Core) (m n : Nat) :
    List.zipWith op (x.vec m) (x.vec n) = lanes2 op (x.vec m) (x.vec n) := by
  refine List.ext_getElem (by simp [lanes2]) fun k h _ => ?_
  have lt : k < 64 := by simpa using h
  simp [lanes2, List.getD_eq_getElem?_getD, lt]

theorem map_lanes (op : F32 → F32) (x : Core) (m : Nat) : (x.vec m).map op = lanes1 op (x.vec m) := by
  refine List.ext_getElem (by simp [lanes1]) fun k h _ => ?_
  have lt : k < 64 := by simpa using h
  simp [lanes1, List.getD_eq_getElem?_getD, lt]

theorem zip_lanes (op : F32 → F32 → F32 → F32) (x : Core) (m n d : Nat) :
    List.zipWith (fun p z => op p.1 p.2 z) (List.zip (x.vec m) (x.vec n)) (x.vec d)
      = lanes3 op (x.vec m) (x.vec n) (x.vec d) := by
  refine List.ext_getElem (by simp [lanes3]) fun k h _ => ?_
  have lt : k < 64 := by simpa using h
  simp [lanes3, List.getD_eq_getElem?_getD, lt]

section
variable {i : Instr} {c : CoreId} {f : Fields} {s : State} {n : Nat}

theorem vec2_writes (op : F32 → F32 → F32) (e : coreInstr i = some (c, n, f)) (run : exec i s = vec2 n op c f s)
    (ok : Form.ok ⟨4, 4, 4, 1, 0, 0⟩ f = true) :
    WritesVector i c f.d.toNat (lanes2 op ((s.core c).vec f.a.toNat) ((s.core c).vec f.b.toNat))
      ((s.core c).vecP f.a.toNat || (s.core c).vecP f.b.toNat) s :=
  writesVector_of e run (by simp [ok]) (by simp [lanes2]) (by rw [← zipWith_lanes])

theorem vec1_writes (op : F32 → F32) (e : coreInstr i = some (c, n, f)) (run : exec i s = vec1 n op c f s)
    (ok : Form.ok ⟨4, 4, 0, 1, 0, 0⟩ f = true) :
    WritesVector i c f.d.toNat (lanes1 op ((s.core c).vec f.a.toNat)) ((s.core c).vecP f.a.toNat) s :=
  writesVector_of e run (by simp [ok]) (by simp [lanes1]) (by rw [← map_lanes])

theorem vec3_writes (op : F32 → F32 → F32 → F32) (e : coreInstr i = some (c, n, f)) (run : exec i s = vec3 n op c f s)
    (ok : Form.ok ⟨4, 4, 4, 1, 0, 0⟩ f = true) :
    WritesVector i c f.d.toNat
      (lanes3 op ((s.core c).vec f.a.toNat) ((s.core c).vec f.b.toNat) ((s.core c).vec f.d.toNat))
      ((s.core c).vecP f.a.toNat || (s.core c).vecP f.b.toNat || (s.core c).vecP f.d.toNat) s :=
  writesVector_of e run (by simp [ok]) (by simp [lanes3]) (by rw [← zip_lanes])

theorem vecReduce_writes (op : F32 → F32 → F32) (e : coreInstr i = some (c, n, f)) (run : exec i s = vecReduce n op c f s)
    (ok : Form.ok ⟨4, 4, 0, 1, 0, 0⟩ f = true) :
    WritesVector i c f.d.toNat (hreduce op ((s.core c).vec f.a.toNat) :: List.replicate 63 0)
      ((s.core c).vecP f.a.toNat) s :=
  writesVector_of e run (by simp [ok]) (by simp) rfl

end

/-- Settles O4: each operation's effect is to complete with D's lanes written (`writesVector_of`). -/
theorem vectorLanes : Obligations.VectorLanes := by
  unfold Obligations.VectorLanes
  refine ⟨fun c f s => ⟨fun ok => ?two, fun ok => ?vcmp⟩,
    fun c f s => ⟨fun ok => ?one, fun ok => ?three, fun ok => ?vbcast⟩⟩
  case two =>
    exact ⟨vec2_writes _ rfl (exec_vadd c f s) ok, vec2_writes _ rfl (exec_vsub c f s) ok,
      vec2_writes _ rfl (exec_vmul c f s) ok, vec2_writes _ rfl (exec_vmin c f s) ok,
      vec2_writes _ rfl (exec_vmax c f s) ok, vec2_writes _ rfl (exec_vcsgn c f s) ok⟩
  case vcmp =>
    refine writesVector_of rfl (exec_vcmp c f s) (by simp [ok]) (by simp [lanes2]) ?_
    rw [← zipWith_lanes]
    rfl
  case one =>
    exact ⟨vec1_writes _ rfl (exec_vabs c f s) ok, vec1_writes _ rfl (exec_vneg c f s) ok,
      vec1_writes _ rfl (exec_vrcp c f s) ok, vec1_writes _ rfl (exec_vrsq c f s) ok,
      vec1_writes _ rfl (exec_vexp c f s) ok, vec1_writes _ rfl (exec_vlog c f s) ok⟩
  case three => exact ⟨vec3_writes _ rfl (exec_vfma c f s) ok, vec3_writes _ rfl (exec_vsel c f s) ok⟩
  case vbcast => exact writesVector_of rfl (exec_vbcast c f s) (by simp [ok]) (by simp) rfl

/-! ## Reductions, softmax steps and accumulators -/

/-- The core after a pair of vector registers is written. -/
def Core.wrPair (x : Core) (d : Nat) (lo hi : List F32) (p : Bool) : Core := (x.wrVec d lo p).wrVec (d + 1) hi p

/-- A pair of vector registers holds what was written to it, and every other keeps its lanes and poison. -/
theorem wrPair_is (x : Core) (d : Nat) (lo hi : List F32) (p : Bool) (hlo : lo.length = 64) (hhi : hi.length = 64) :
    (x.wrPair d lo hi p).vec d = lo ∧ (x.wrPair d lo hi p).vec (d + 1) = hi
      ∧ (x.wrPair d lo hi p).vecP d = p ∧ (x.wrPair d lo hi p).vecP (d + 1) = p
      ∧ ∀ j, j ≠ d → j ≠ d + 1 → (x.wrPair d lo hi p).vec j = x.vec j ∧ (x.wrPair d lo hi p).vecP j = x.vecP j := by
  unfold Core.wrPair
  refine ⟨?_, Core.wrVec_vec_same _ _ _ _ hhi, by simp [Core.wrVec_vecP], by simp [Core.wrVec_vecP], fun j h g => ⟨?_, ?_⟩⟩
  · rw [Core.wrVec_vec_other _ _ _ _ _ (by omega), Core.wrVec_vec_same _ _ _ _ hlo]
  · rw [Core.wrVec_vec_other _ _ _ _ _ g, Core.wrVec_vec_other _ _ _ _ _ h]
  · simp [Core.wrVec_vecP, h, g]

theorem vectorFrame_wrPair (x : Core) (d : Nat) (lo hi : List F32) (p : Bool) :
    VectorFrame x (x.wrPair d lo hi p).issued.advance := rfl

/-- The lanes of a vector of an accumulator region are those of its accumulator rows in order (R44). -/
theorem accRows_lanes (c : CoreId) (x : Core) (first : Nat) :
    ((List.range (rowsPerVec c)).map (first + ·)).flatMap (x.accRow c)
      = (List.range 64).map (fun j => x.acc.get 0 (first * engineCols c + j)) := by
  cases h : coreCourser c with
  | false => simp [rowsPerVec, Core.accRow, engineCols, h]
  | true =>
    have lanes : List.range 64 = List.range 32 ++ (List.range 32).map (32 + ·) :=
      (List.range_add : List.range (32 + 32) = _)
    have rows : List.range 2 = [0, 1] := rfl
    simp [rowsPerVec, Core.accRow, engineCols, h, lanes, rows, Nat.add_mul, Nat.add_assoc]

/-- Settles O5: each operation's effect is to complete with D's lanes written, VSMX with a pair's. -/
theorem vectorReductionsAndSoftmax : Obligations.VectorReductionsAndSoftmax := by
  unfold Obligations.VectorReductionsAndSoftmax
  intro c f s
  refine ⟨fun ok => ?reduce, fun ok pair hs => ?vsmx, fun ok pair => ?vsmxn, fun r ok hr fits => ?vacc⟩
  case reduce =>
    exact ⟨vecReduce_writes _ rfl (exec_vhsum c f s) ok, vecReduce_writes _ rfl (exec_vhmax c f s) ok⟩
  case vsmx =>
    refine ⟨_, issue_completes (y := (s.core c).wrPair ..) rfl hs (by simp [ok, pair]) rfl rfl, completeWith_only .., ?_⟩
    rw [completeWith_core]
    obtain ⟨lo, hi, plo, phi, rest⟩ := wrPair_is (s.core c) f.d.toNat
      ((softmaxStep (((s.core c).vec f.d.toNat).headD 0) (((s.core c).vec (f.d.toNat + 1)).headD 0)
        ((s.core c).vec f.a.toNat)).1 :: ((s.core c).vec f.d.toNat).tail)
      ((softmaxStep (((s.core c).vec f.d.toNat).headD 0) (((s.core c).vec (f.d.toNat + 1)).headD 0)
        ((s.core c).vec f.a.toNat)).2 :: ((s.core c).vec (f.d.toNat + 1)).tail)
      ((s.core c).vecP f.d.toNat || (s.core c).vecP (f.d.toNat + 1) || (s.core c).vecP f.a.toNat) (by simp) (by simp)
    exact ⟨advanced_of rfl rfl rfl rfl, vectorFrame_wrPair .., by simpa using lo, by simpa using hi, by simpa using plo,
      by simpa using phi, by simpa using rest⟩
  case vsmxn =>
    refine writesVector_of rfl (exec_vsmxn c f s) (by simp [ok, pair]) (by simp [lanes1]) ?_
    rw [← map_lanes]
  case vacc =>
    have rows := accRows_lanes c (s.core c) (r.first + f.imm.toNat * rowsPerVec c)
    refine writesVector_of rfl (exec_vacc c f s) ?_ (by simp) ?_
    · simp only [hr]
      simpa [ok, rowsPerVec] using fits
    · simp only [hr]
      rw [show (if coreCourser c then 2 else 1) = rowsPerVec c from rfl, ← rows, List.any_map]
      rfl

end Sys2Proof.Machine
end

section
/-! PROOFS. Every command answers a next state, but a supply that R427 leaves open. -/

namespace Sys2Proof.Machine

/-- The command answers a next state. -/
def Answers (o : Out) : Prop := ∃ t, o = .next t

theorem answers_next (t : State) : Answers (.next t) := ⟨t, rfl⟩

/-- A core instruction is issued, with its own causes and its own effect. -/
theorem exec_issues {i : Instr} {c : CoreId} {op : Nat} {f : Fields} (h : coreInstr i = some (c, op, f)) (s : State) :
    ∃ causes body, exec i s = issue c op f causes body s := by
  cases i <;> simp only [coreInstr, Option.some.injEq, Prod.mk.injEq, reduceCtorEq] at h
  all_goals
    obtain ⟨rfl, rfl, rfl⟩ := h
    exact ⟨_, _, rfl⟩

theorem exec_core_answers {i : Instr} {c : CoreId} {op : Nat} {f : Fields} (h : coreInstr i = some (c, op, f)) (s : State) :
    Answers (exec i s) := by
  obtain ⟨causes, body, run⟩ := exec_issues h s
  rw [run]
  exact issue_next ..

/-! ## What several commands share -/

theorem starts_answers (n q body s) : Answers (starts n q body s) := by
  simp only [starts]
  split <;> exact answers_next _

theorem takePkt_answers (l h n okLen named arrival act s) : Answers (takePkt l h n okLen named arrival act s) := by
  simp only [takePkt]
  repeat' split
  all_goals exact answers_next _

theorem takeAuth_answers (l f s) : Answers (takeAuth l f s) := by
  simp only [takeAuth]
  repeat' split
  all_goals exact answers_next _

theorem tapFree_answers (i s) : Answers (tapFree i s) := by
  simp only [tapFree]
  split <;> exact answers_next _

theorem tapHold_answers (i s) : Answers (tapHold i s) := by
  simp only [tapHold]
  repeat' split
  all_goals exact answers_next _

/-- A reset that a descriptor asks for is answered as that descriptor is, and any other at once. -/
theorem execCoreReset_answers (c q s) : Answers (execCoreReset c q s) := by
  simp only [execCoreReset]
  repeat' split
  case h_2.isTrue => exact starts_answers ..
  all_goals exact answers_next _

theorem execCoupeReset_answers (k q s) : Answers (execCoupeReset k q s) := by
  simp only [execCoupeReset]
  repeat' split
  case h_2.isTrue => exact starts_answers ..
  all_goals exact answers_next _

theorem execRangerWatchdog_answers (s) : Answers (execRangerWatchdog s) := by
  simp only [execRangerWatchdog]
  split <;> exact answers_next _

theorem execFirmwareUpdate_answers (ranger verified version s) : Answers (execFirmwareUpdate ranger verified version s) := by
  obtain ⟨t, stopped⟩ := execRangerWatchdog_answers s
  simp only [execFirmwareUpdate, stopped]
  repeat' split
  all_goals exact answers_next _

/-! ## Every command -/

/-- Core instructions are issued, descriptors start, packets and messages are taken, the test port takes an instruction,
and every branch of any other command gives a next state. -/
theorem exec_answers (i : Instr) (s : State) (h : ∀ mv, i ≠ .mainPowerOn mv) : Answers (exec i s) := by
  cases i with
  | mainPowerOn mv => exact absurd rfl (h mv)
  | nop | endTask | add | sub | and_ | or_ | xor_ | shl | shr | sar | mul | slt | sltu | seq | li | br
  | beq | bne | blt | bge | loop | jal | jr | pop | push | popv | pushv | mark | peek | dropm | bcopy | rdw
  | ldv | stv | rread | rwrite | wset | wclr | mreg | mpass | vadd | vsub | vmul | vfma | vmin | vmax
  | vabs | vneg | vcsgn | vcmp | vsel | vrcp | vrsq | vexp | vlog | vhsum | vhmax | vsmx | vsmxn | vacc
  | vmovs | vbcast | qcw | qcb | qcvt | qflush | waitu | fencer | arrive | waitb | rdsys | trap | tmask
  | topk => exact exec_core_answers rfl s
  | coreReset => exact execCoreReset_answers ..
  | coupeReset => exact execCoupeReset_answers ..
  | firmwareUpdate => exact execFirmwareUpdate_answers ..
  | loadImage | unloadImage | bind | drain | coupeCreate | coupeSet | coupeDestroy | coupePreempt
  | coupeResume | spanSet | expertMap | selfTest | ringSet | power | clock | ballast | seqOpen | seqClose
  | pin | step | prefill | verify | fence | nopDescriptor =>
    simp only [exec, execLoadImage, execUnloadImage, execBind, execDrain, execCoupeCreate, execCoupeSet,
      execCoupeDestroy, execCoupePreempt, execCoupeResume, execSpanSet, execExpertMap, execSelfTest,
      execRingSet, execPower, execClock, execBallast, execSeqOpen, execSeqClose, execPin, execStep, execPrefill,
      execVerify, execFence, execNopDescriptor]
    exact starts_answers ..
  | saltSet | saltUnset | repairSoft | repairHard | unpin | unpinAll =>
    simp only [exec, execSaltSet, execSaltUnset, execRepairSoft, execRepairHard, execUnpin, execUnpinAll]
    split
    · exact answers_next _
    · exact starts_answers ..
  | row | credit | outcome | flush | announce | bundle =>
    simp only [exec, execRow, execCredit, execOutcome, execFlush, execAnnounce, execBundle]
    exact takePkt_answers ..
  | spdm | coord =>
    simp only [exec, execSpdm, execCoord]
    exact takeAuth_answers ..
  | bypass | idcode | samplePreload =>
    simp only [exec, execBypass, execIdcode, execSamplePreload]
    exact tapFree_answers ..
  | extest | clamp | highz | extestPulse | extestTrain =>
    simp only [exec, execExtest, execClamp, execHighz, execExtestPulse, execExtestTrain]
    exact tapHold_answers ..
  | _ =>
    simp only [exec, execTaskDispatch, execTaskRetire, execHalt, execCoreHalted, execCoreDeadTimeout,
      execBenchStarvation, execScrubRow, execRemoteReadRequest, execRemoteReadReply, execWindowRowArrival,
      execRwriteAcknowledgement, execStreamRowArrival, execSlackRefill, execCreditReturn, execSkidRow,
      execBarrierArrival, execMoverTransfer, execMoverTransferComplete, execTransferDeadline,
      execAllocationRetry, execAllocationWaitExpiry, execMemoryPatrol, execDoorbellWrite, execPollRound,
      execDescriptorFetch, execCommit, execBark, execCoupeDrained, execCoupeQuiesced, execSaveComplete,
      execResumeComplete, execJobSwitch, execSelfTestComplete, execClockChangeApply, execBallastUpdate,
      execCancel, execCancelImmediate, execCancelRelease, execFenceExpired, execStepOpen,
      execThresholdRouteDispatch, execSentinelEvaluation, execShardDeadline, execStepReplay, execPatrol,
      execBenchMoveComplete, execScentRebuild, execStandLost, execSramDieFailure, execDeckStackFailure,
      execYardChannelFailure, execSensorPoll, execThermalTrip, execTripWarmResetRelease, execAuxPowerOn,
      execAuxPowerLoss, execMainPowerLoss, execRailRampTimeout, execRailRetry, execRailOutOfRegulation,
      execBringUpComplete, execStandCalibrated, execColdReset, execWarmReset, execPerstRelease,
      execFunctionLevelReset, execBusMasterEnable, execHostLinkRetrain, execHostLinkRestored,
      execCxlCacheEnableChange, execWholeDeviceDrain, execRangerWatchdog, execTelemetrySample,
      execCoordinateRecord, execSetupLock, execWarmRst, execRegisterWrite, execLinkSignalDetect,
      execLinkTrainComplete, execLinkTrainTimeout, execLinkProbeRetry, execLinkAuth, execLinkAuthTimeout,
      execLinkSignalLoss, execLinkErrorFallback, execLinkFence, execLinkNak, execEthWorkRequest,
      execEthFrameReceive, execSeqImportComplete, execEthPortLinkChange, execTapReset, execFlit,
      execFastRetrainComplete, execRailInRegulation, execAuxReady, execRangerRestart, execReleasePoint,
      execWholeDeviceDrainTimeout, execMrefLoss, execColdRstNRelease, execEntdaa]
    repeat' split
    all_goals exact answers_next _

/-- Settles O55: see `exec_answers`. -/
theorem everyOtherCommandAnswers : Obligations.EveryOtherCommandAnswers := by
  unfold Obligations.EveryOtherCommandAnswers
  exact exec_answers

/-- Settles O1: what a step does with a queue that is not empty is the second case of its definition. -/
theorem stepRunsTheFrontCommand : Obligations.StepRunsTheFrontCommand := by
  unfold Obligations.StepRunsTheFrontCommand
  intro c rest s
  rfl

end Sys2Proof.Machine
end

section
/-! PROOFS. Core instructions that wait or pause in their unit's queue, and what an instruction with effects beyond its
core's registers leaves unchanged. -/

namespace Sys2Proof.Machine

/-! ## Staying in a unit's queue -/

/-- The core's task still runs at the same instruction, with the same instructions issued. -/
structure Stays (x y : Core) : Prop where
  pc : y.pc = x.pc
  task : y.task = x.task
  phase : y.phase = x.phase
  queue : y.queue = x.queue
  issueSeq : y.issueSeq = x.issueSeq

/-- The core whose scalar unit leaves the instruction in its unit's queue. -/
def Core.queuedUp (y : Core) (op : Nat) (f : Fields) : Core :=
  { y with queue := y.queue ++ [⟨y.pc, op, f, y.issueSeq, y.stall, y.lastQueue⟩], issueSeq := y.issueSeq + 1, pc := y.pc + 1 }

theorem queueUp_eq (c : CoreId) (op : Nat) (f : Fields) (t : State) :
    queueUp c op f t = t.setCore c ((t.core c).queuedUp op f) := rfl

theorem queueUp_core (c : CoreId) (op : Nat) (f : Fields) (t : State) :
    (queueUp c op f t).core c = (t.core c).queuedUp op f := by rw [queueUp_eq, State.setCore_core]

theorem starts_ready {i : Instr} {c : CoreId} {op : Nat} {f : Fields} {s : State} (e : coreInstr i = some (c, op, f))
    (hs : Starts i s) : (s.core c).task.isSome = true ∧ (s.core c).phase = .run := by
  simp only [Starts, Issued, Issues, e] at hs
  obtain ⟨⟨⟨ready, -, -⟩, -, -⟩, -⟩ := hs
  simp only [Core.ready, Bool.and_eq_true, decide_eq_true_eq] at ready
  obtain ⟨⟨⟨task, run⟩, -⟩, -⟩ := ready
  exact ⟨task, run⟩

/-- An instruction of a unit whose effect leaves the program counter stays in the unit's queue. -/
theorem issue_stays {i : Instr} {c : CoreId} {op : Nat} {f : Fields} {s t : State} {u : UnitQ}
    (e : coreInstr i = some (c, op, f)) (hs : Starts i s) (hu : opUnit op = some u) {causes : List (ExcClass × Bool)}
    (hc : ∀ k ∈ causes, k.2 = false) {body : State → State} (hb : body s = t) (stays : Stays (s.core c) (t.core c)) :
    issue c op f causes body s = .next (queueUp c op f t) := by
  obtain ⟨task, run⟩ := starts_ready e hs
  rw [issue_of_starts e hs hc]
  simp [runNew, hb, hu, stays.pc, stays.task, stays.phase, task, run]

/-- An instruction whose effect is to complete on a state that it has changed. -/
theorem issue_completes_on {i : Instr} {c : CoreId} {op : Nat} {f : Fields} {s u : State} {y : Core}
    (e : coreInstr i = some (c, op, f)) (hs : Starts i s) {causes : List (ExcClass × Bool)} (hc : ∀ k ∈ causes, k.2 = false)
    {body : State → State} (hb : body s = completeWith c y u) (hpc : y.pc = (s.core c).pc) :
    issue c op f causes body s = .next (completeWith c y u) :=
  issue_moves e hs hc hb (by rw [completeWith_core, Core.advance_pc, Core.issued_pc, hpc]; exact pc_succ_ne _)

theorem waitsQueued_of {op : Nat} {f : Fields} {k : Stall} {x y : Core} (stays : Stays x y) (run : x.phase = .run)
    (hk : y.stall = k) : WaitsQueued op f k x (y.queuedUp op f) := by
  refine ⟨?_, hk, stays.phase.trans run, ?_, y.lastQueue, ?_⟩
  · simp [Core.queuedUp, stays.pc]
  · simp [Core.queuedUp, stays.issueSeq]
  · simp [Core.queuedUp, stays.pc, stays.issueSeq, stays.queue, hk]

theorem pausesQueued_of {op : Nat} {f : Fields} {x y : Core} (stays : Stays x y) (run : x.phase = .run)
    (hk : y.stall = .busy) (hz : y.stallSince = 0) : PausesQueued op f x (y.queuedUp op f) :=
  ⟨waitsQueued_of stays run hk, hz⟩

/-! ## Frames of a core -/

theorem ReadFrame.trans {x y z : Core} (h : ReadFrame x y) (g : ReadFrame y z) : ReadFrame x z := by
  unfold ReadFrame at *
  rw [g, h]

theorem ReadFrame.taintFrame {x y : Core} (h : ReadFrame x y) (hv : y.v = x.v) (hp : y.vPoison = x.vPoison)
    (he : y.errLog = x.errLog) : TaintFrame x y := by
  unfold ReadFrame at h
  rw [hv, hp, he] at h
  exact h

theorem TaintFrame.scalarFrame {x y : Core} (h : TaintFrame x y) (ht : y.tainted = x.tainted) : ScalarFrame x y := by
  unfold TaintFrame at h
  rw [ht] at h
  exact h

theorem ReadFrame.vectorFrame {x y : Core} (h : ReadFrame x y) (hg : y.g = x.g) (hp : y.gPoison = x.gPoison)
    (he : y.errLog = x.errLog) (ht : y.tainted = x.tainted) : VectorFrame x y := by
  unfold ReadFrame at h
  rw [hg, hp, he, ht] at h
  exact h

section
variable (x : Core)

theorem readFrame_refl : ReadFrame x x := rfl
theorem readFrame_issued : ReadFrame x x.issued := rfl
theorem readFrame_advance : ReadFrame x x.advance := rfl
theorem readFrame_completed : ReadFrame x x.issued.advance := rfl
theorem readFrame_taint (p : Bool) : ReadFrame x (x.taint p) := rfl
theorem readFrame_wrVec (d : Nat) (ls : List F32) (p : Bool) : ReadFrame x (x.wrVec d ls p) := rfl
theorem readFrame_errLog (l : BitVec 64) : ReadFrame x { x with errLog := l } := rfl
theorem readFrame_queuedUp (op : Nat) (f : Fields) : ReadFrame x (x.queuedUp op f) := rfl

theorem readFrame_wr (d : Nat) (v : BitVec 64) (p : Bool) : ReadFrame x (x.wr d v p) := by
  unfold Core.wr
  split <;> rfl

end

section
variable (x : Core) (k : Stall) (h : BitVec 16) (t : BitVec 48)

/-- A core that waits changes its cycle bookkeeping alone. -/
theorem Core.stalled_rest : x.stalled k h t = { x with
    counters := (x.stalled k h t).counters, counted := (x.stalled k h t).counted, stall := k
    stallSince := (x.stalled k h t).stallSince, lastQueue := (x.stalled k h t).lastQueue } := by
  unfold Core.stalled
  repeat' split
  all_goals rfl

@[simp] theorem Core.stalled_stall : (x.stalled k h t).stall = k := by rw [Core.stalled_rest]
@[simp] theorem Core.stalled_pc : (x.stalled k h t).pc = x.pc := by rw [Core.stalled_rest]
@[simp] theorem Core.stalled_task : (x.stalled k h t).task = x.task := by rw [Core.stalled_rest]
@[simp] theorem Core.stalled_phase : (x.stalled k h t).phase = x.phase := by rw [Core.stalled_rest]
@[simp] theorem Core.stalled_queue : (x.stalled k h t).queue = x.queue := by rw [Core.stalled_rest]
@[simp] theorem Core.stalled_issueSeq : (x.stalled k h t).issueSeq = x.issueSeq := by rw [Core.stalled_rest]
@[simp] theorem Core.stalled_g : (x.stalled k h t).g = x.g := by rw [Core.stalled_rest]
@[simp] theorem Core.stalled_gPoison : (x.stalled k h t).gPoison = x.gPoison := by rw [Core.stalled_rest]
@[simp] theorem Core.stalled_v : (x.stalled k h t).v = x.v := by rw [Core.stalled_rest]
@[simp] theorem Core.stalled_vPoison : (x.stalled k h t).vPoison = x.vPoison := by rw [Core.stalled_rest]
@[simp] theorem Core.stalled_errLog : (x.stalled k h t).errLog = x.errLog := by rw [Core.stalled_rest]
@[simp] theorem Core.stalled_tainted : (x.stalled k h t).tainted = x.tainted := by rw [Core.stalled_rest]
@[simp] theorem Core.stalled_outStage : (x.stalled k h t).outStage = x.outStage := by rw [Core.stalled_rest]

theorem readFrame_stalled : ReadFrame x (x.stalled k h t) := by
  rw [ReadFrame, Core.stalled_rest]

theorem stays_stalled : Stays x (x.stalled k h t) := ⟨by simp, by simp, by simp, by simp, by simp⟩

end

/-! ## What else differs -/

theorem RunsSame.refl (s : State) : RunsSame s s := fun _ => rfl

theorem RunsSame.trans {s t u : State} (h : RunsSame s t) (g : RunsSame t u) : RunsSame s u :=
  fun k => by rw [g k, h k]

theorem OtherCoresSame.trans {c : CoreId} {s t u : State} (h : OtherCoresSame c s t) (g : OtherCoresSame c t u) :
    OtherCoresSame c s u := fun d hd => (g d hd).trans (h d hd)

theorem SameBytes.trans {s t u : State} (h : SameBytes s t) (g : SameBytes t u) : SameBytes s u :=
  fun a => (g a).trans (h a)

theorem QueueRuns.trans {s t u : State} (h : QueueRuns s t) (g : QueueRuns t u) : QueueRuns s u :=
  fun k => by rw [g k, h k]

theorem RunsSame.queueRuns {s t : State} (h : RunsSame s t) : QueueRuns s t := fun k => by rw [h k]

theorem otherCoresSame_setCore (c : CoreId) (x : Core) (s : State) : OtherCoresSame c s (s.setCore c x) :=
  fun d hd => State.setCore_core_other s c x d hd

theorem onlyCore_setCore (c : CoreId) (x : Core) (s : State) : OnlyCore c s (s.setCore c x) :=
  ⟨fun _ => rfl, otherCoresSame_setCore c x s, fun _ => rfl, rfl⟩

theorem onlyCore_queueUp (c : CoreId) (op : Nat) (f : Fields) (s : State) : OnlyCore c s (queueUp c op f s) :=
  onlyCore_setCore ..

theorem onlyCore_progress (c : CoreId) (s : State) : OnlyCore c s (progress s c) :=
  ⟨fun _ => by rw [progress_mem], fun d _ => progress_core s c d, progress_runs s c, by rw [progress_rest]⟩

theorem OnlyCore.trans {c : CoreId} {s t u : State} (h : OnlyCore c s t) (g : OnlyCore c t u) : OnlyCore c s u := by
  obtain ⟨hb, hc, hr, he⟩ := h
  obtain ⟨gb, gc, gr, ge⟩ := g
  exact ⟨hb.trans gb, hc.trans gc, hr.trans gr, by rw [ge, he]⟩

/-! ## Queues -/

/-- The queues of every coupe are the same. -/
def SameQueues (s t : State) : Prop := ∀ k h, t.queue k h = s.queue k h

theorem SameQueues.trans {s t u : State} (h : SameQueues s t) (g : SameQueues t u) : SameQueues s u :=
  fun k j => (g k j).trans (h k j)

theorem RunsSame.sameQueues {s t : State} (h : RunsSame s t) : SameQueues s t := fun k j => by
  simp only [State.queue]
  rw [h k]

theorem QueueIs.after {k : CoupeId} {h : BitVec 16} {q : Queue} {s t u : State} (i : QueueIs k h q s t)
    (g : SameQueues t u) : QueueIs k h q s u :=
  ⟨(g k h).trans i.1, fun j l n => (g j l).trans (i.2 j l n)⟩

theorem QueueIs.before {k : CoupeId} {h : BitVec 16} {q : Queue} {s t u : State} (g : SameQueues s t)
    (i : QueueIs k h q t u) : QueueIs k h q s u :=
  ⟨i.1, fun j l n => (i.2 j l n).trans (g j l)⟩

theorem QueueIs.trans {k : CoupeId} {h : BitVec 16} {p q : Queue} {s t u : State} (i : QueueIs k h p s t)
    (j : QueueIs k h q t u) : QueueIs k h q s u :=
  ⟨j.1, fun a b n => (j.2 a b n).trans (i.2 a b n)⟩

theorem setQueue_is (s : State) (k : CoupeId) (h : BitVec 16) (q : Queue) : QueueIs k h q s (s.setQueue k h (some q)) := by
  simp only [State.setQueue]
  refine ⟨by simp [State.queue], fun j g other => ?_⟩
  by_cases e : j = k
  · subst e
    have name : g.toNat ≠ h.toNat := fun eq => other ⟨rfl, BitVec.eq_of_toNat_eq eq⟩
    simp [State.queue, Sparse.get_set_other _ _ _ _ _ name]
  · simp [State.queue, State.setRun_run_other _ _ _ _ e]

theorem setQueue_runs (s : State) (k : CoupeId) (h : BitVec 16) (q : Option Queue) : QueueRuns s (s.setQueue k h q) := by
  intro j
  simp only [State.setQueue]
  by_cases e : j = k
  · subst e; simp
  · simp [State.setRun_run_other _ _ _ _ e]

theorem portQueue_queue {s : State} {c : CoreId} {p : Nat} {b : Bound} (h : portQueue s c p = some b) :
    s.queue b.coupe b.handle = some b.queue := by
  simp only [portQueue] at h
  split at h
  · cases h
  · split at h
    · cases h
    next q hq =>
      split at h
      · cases h
      · cases h; exact hq

/-- A popped row is noted in the open step, and nowhere else (R362). -/
theorem notePop_cases (b : Bound) (s : State) : notePop b s = s
    ∨ ∃ st, notePop b s = s.setRun b.coupe { s.run b.coupe with openStep := st } := by
  simp only [notePop]
  repeat' split
  case h_1.isTrue => exact .inr ⟨_, rfl⟩
  all_goals exact .inl rfl

/-! ## The core, the queues and the packets of a state -/

/-- Nothing but the queues of coupes, their open steps and the time of their last progress differs. -/
def OnlyQueues (s t : State) : Prop := QueueRuns s t ∧ t = { s with runs := t.runs }

theorem OnlyQueues.trans {s t u : State} (h : OnlyQueues s t) (g : OnlyQueues t u) : OnlyQueues s u :=
  ⟨h.1.trans g.1, by rw [g.2, h.2]⟩

theorem OnlyQueues.core {s t : State} (h : OnlyQueues s t) (c : CoreId) : t.core c = s.core c := by rw [h.2]; rfl

theorem onlyQueues_setQueue (s : State) (k : CoupeId) (h : BitVec 16) (q : Option Queue) :
    OnlyQueues s (s.setQueue k h q) := ⟨setQueue_runs s k h q, rfl⟩

theorem onlyQueues_notePop (b : Bound) (s : State) : OnlyQueues s (notePop b s) := by
  obtain h | ⟨st, h⟩ := notePop_cases b s <;> rw [h]
  · exact ⟨fun _ => rfl, rfl⟩
  · refine ⟨fun j => ?_, rfl⟩
    by_cases e : j = b.coupe
    · subst e; simp
    · simp [State.setRun_run_other _ _ _ _ e]

theorem sameQueues_notePop (b : Bound) (s : State) : SameQueues s (notePop b s) := by
  obtain h | ⟨st, h⟩ := notePop_cases b s <;> rw [h]
  · exact fun _ _ => rfl
  · intro j g
    by_cases e : j = b.coupe
    · subst e; simp [State.queue]
    · simp [State.queue, State.setRun_run_other _ _ _ _ e]

theorem OnlyQueues.onlyCoreAndQueues {c : CoreId} {s t : State} (h : OnlyQueues s t) : OnlyCoreAndQueues c s t :=
  ⟨fun a => by rw [h.2], fun d _ => h.core d, h.1, by rw [h.2]⟩

theorem OnlyCore.onlyCoreAndQueues {c : CoreId} {s t : State} (h : OnlyCore c s t) : OnlyCoreAndQueues c s t := by
  obtain ⟨hb, hc, hr, he⟩ := h
  exact ⟨hb, hc, hr.queueRuns, by rw [he]⟩

theorem OnlyCoreAndQueues.trans {c : CoreId} {s t u : State} (h : OnlyCoreAndQueues c s t) (g : OnlyCoreAndQueues c t u) :
    OnlyCoreAndQueues c s u := by
  obtain ⟨hb, hc, hr, he⟩ := h
  obtain ⟨gb, gc, gr, ge⟩ := g
  exact ⟨hb.trans gb, hc.trans gc, hr.trans gr, by rw [ge, he]⟩

end Sys2Proof.Machine
end

section
/-! PROOFS. Items taken from a port and items given to one (R77, R88, R124). -/

namespace Sys2Proof.Machine

/-! ## Items that enter the network -/

/-- The core with other staging of its output ports. -/
def Core.withStages (x : Core) (o : Sparse (List Item)) : Core := { x with outStage := o }

/-- Item `it` has entered the network on queue `k`, `h`, which was `q`: it took a credit and the next stamp. Core `c`'s port
stages what it did. -/
structure Entered (c : CoreId) (k : CoupeId) (h : BitVec 16) (q : Queue) (it : Item) (s t : State) : Prop where
  only : OnlyCoreAndQueues c s t
  core : ∃ o : Sparse (List Item), t.core c = (s.core c).withStages o
    ∧ ∀ p, o.get [] p = (s.core c).outStage.get [] p
  queue : QueueIs k h
    { q with credits := q.credits - 1, network := q.network ++ [it], sent := q.sent ++ [sentNow s] } s t
  injected : t.injected = s.injected + 1

/-- An item as a core's task gives it: a tainted one poisons its rows (R358). -/
def Item.taintedBy (x : Core) : Item → Item
  | .row d p => .row d (p || x.tainted)
  | m => m

/-- The core with list `l` in the staging of port `p`. -/
def Core.staging (x : Core) (p : Nat) (l : List Item) : Core := { x with outStage := x.outStage.set [] p l }

@[simp] theorem Core.staging_get (x : Core) (p : Nat) (l : List Item) : (x.staging p l).outStage.get [] p = l := by
  simp [Core.staging]

@[simp] theorem Core.staging_tainted (x : Core) (p : Nat) (l : List Item) : (x.staging p l).tainted = x.tainted := rfl

/-- The staging of an empty output port is written with what it holds. -/
theorem portRoom_of_empty {c : CoreId} {p : Nat} {b : Bound} {s : State} (empty : (s.core c).outStage.get [] p = []) :
    portRoom c p b s = some (s.setCore c ((s.core c).staging p [])) := by
  simp [portRoom, releasePort, releaseItems, empty, Core.staging]

theorem onlyCoreAndQueues_enterQueue (c : CoreId) (k : CoupeId) (h : BitVec 16) (q : Queue) (it : Item) (s : State) :
    OnlyCoreAndQueues c s (enterQueue k h q it s) :=
  ⟨fun _ => rfl, fun _ _ => rfl, fun j => setQueue_runs (inject s) k h _ j, rfl⟩

/-- One staged item leaves for the network. -/
theorem releasePort_single {c : CoreId} {p : Nat} {k : CoupeId} {h : BitVec 16} {it : Item} {q : Queue} {s : State}
    (held : (s.core c).outStage.get [] p = [it]) (hq : s.queue k h = some q) (own : isSpanHandle h = false)
    (credit : q.credits ≠ 0) : releasePort c p k h s
      = progress ((enterQueue k h { q with credits := q.credits - 1 } it s).setCore c ((s.core c).staging p [])) c := by
  simp [releasePort, releaseItems, held, hq, sendItem, own, credit]
  rfl

/-- What a core whose staging was emptied, filled and emptied again stages. -/
theorem Core.staging_restored (x : Core) (p : Nat) (l : List Item) (empty : x.outStage.get [] p = []) :
    ∃ o : Sparse (List Item), ((x.staging p []).staging p l).staging p [] = x.withStages o
      ∧ ∀ j, o.get [] j = x.outStage.get [] j := by
  refine ⟨_, rfl, fun j => ?_⟩
  by_cases e : j = p
  · subst e; simp [Core.staging, empty]
  · simp [Core.staging, Sparse.get_set_other _ _ _ _ _ e]

theorem pushItem_eq (c : CoreId) (p : Nat) (b : Bound) (it : Item) (s : State) : pushItem c p b it s
    = (portRoom c p b s).map fun s0 => releasePort c p b.coupe b.handle (s0.setCore c
      ((s0.core c).staging p ((s0.core c).outStage.get [] p ++ [it.taintedBy (s0.core c)]))) := by
  cases h : portRoom c p b s with
  | none => simp [pushItem, h]
  | some s0 => cases it <;> simp [pushItem, h, Item.taintedBy, Core.staging]

theorem pushItem_none_iff (c : CoreId) (p : Nat) (b : Bound) (it : Item) (s : State) :
    pushItem c p b it s = none ↔ portRoom c p b s = none := by rw [pushItem_eq, Option.map_eq_none_iff]

/-- On a queue of this device with a credit, an item given to a port that stages nothing enters the network. -/
theorem pushItem_enters {c : CoreId} {p : Nat} {b : Bound} {it : Item} {q : Queue} {s : State}
    (hq : s.queue b.coupe b.handle = some q) (own : isSpanHandle b.handle = false) (credit : q.credits ≠ 0)
    (empty : (s.core c).outStage.get [] p = []) :
    ∃ t, pushItem c p b it s = some t ∧ Entered c b.coupe b.handle q (it.taintedBy (s.core c)) s t := by
  have staged : it.taintedBy ((s.core c).staging p []) = it.taintedBy (s.core c) := by cases it <;> rfl
  rw [pushItem_eq, portRoom_of_empty empty, Option.map_some]
  simp only [State.setCore_core, Core.staging_get, List.nil_append, staged]
  have toStage := (onlyCore_setCore c ((s.core c).staging p []) s).trans
    (onlyCore_setCore c (((s.core c).staging p []).staging p [it.taintedBy (s.core c)]) _)
  generalize hs : State.setCore _ c _ = s1 at toStage ⊢
  have core1 : s1.core c = ((s.core c).staging p []).staging p [it.taintedBy (s.core c)] := by rw [← hs]; simp
  have same := toStage.2.2.1.sameQueues
  have now : sentNow s1 = sentNow s := by rw [sentNow, toStage.2.2.2]; rfl
  have staged1 : (s1.core c).outStage.get [] p = [it.taintedBy (s.core c)] := by simp [core1]
  refine ⟨_, congrArg some (releasePort_single staged1 ((same ..).trans hq) own credit), ?_, ?_, ?_, ?_⟩
  · exact (toStage.onlyCoreAndQueues.trans (onlyCoreAndQueues_enterQueue ..)).trans
      ((onlyCore_setCore ..).trans (onlyCore_progress ..)).onlyCoreAndQueues
  · rw [progress_core, State.setCore_core, core1]
    exact Core.staging_restored _ _ _ empty
  · rw [← now]
    exact ((setQueue_is (inject s1) ..).before same).after (progress_runs _ c).sameQueues
  · rw [progress_rest, toStage.2.2.2]
    rfl

end Sys2Proof.Machine
end

section
/-! PROOFS. POPV, PEEK, DROPM, PUSHV and MARK (R77, R83, R85, R88, R124). -/

namespace Sys2Proof.Machine

/-! ## Taking an item -/

/-- What waiting on an empty port changes: the core, and the queue's count of such waits. -/
theorem stallIn_spec {c : CoreId} {x : Core} {b : Bound} {q : Queue} {s : State} (hq : s.queue b.coupe b.handle = some q) :
    (stallIn c x b s).core c = x.stalled .inEmpty b.handle (now48 s) ∧ OnlyCoreAndQueues c s (stallIn c x b s)
      ∧ QueueIs b.coupe b.handle { q with consEmpty := q.consEmpty + 1 } s (stallIn c x b s) := by
  simp only [stallIn, hq]
  obtain ⟨core, only⟩ := stallWith_spec c x .inEmpty b.handle
    (s.setQueue b.coupe b.handle (some { q with consEmpty := q.consEmpty + 1 }))
  exact ⟨core, (onlyQueues_setQueue ..).onlyCoreAndQueues.trans only.onlyCoreAndQueues,
    (setQueue_is ..).after only.2.2.1.sameQueues⟩

/-- The core that waits for an instruction in a unit's queue has the registers it had. -/
theorem scalarIs_queuedUp_stalled (x : Core) (k : Stall) (h : BitVec 16) (t : BitVec 48) (op : Nat) (f : Fields) :
    ScalarIs 0 0 false x ((x.stalled k h t).queuedUp op f) :=
  scalarIs_of (scalarIs_same x) (by simp [Core.queuedUp]) (by simp [Core.queuedUp])

theorem scalarFrame_queuedUp_stalled (x : Core) (k : Stall) (h : BitVec 16) (t : BitVec 48) (op : Nat) (f : Fields) :
    ScalarFrame x ((x.stalled k h t).queuedUp op f) := by
  have frame := (readFrame_stalled x k h t).trans (readFrame_queuedUp _ op f)
  exact (frame.taintFrame (by simp [Core.queuedUp]) (by simp [Core.queuedUp]) (by simp [Core.queuedUp])).scalarFrame
    (by simp [Core.queuedUp])

/-- An instruction that finds its port empty waits in IN_EMPTY. -/
theorem issue_waits_in {i : Instr} {c : CoreId} {op : Nat} {f : Fields} {s : State} {b : Bound} {u : UnitQ}
    (e : coreInstr i = some (c, op, f)) (hs : Starts i s) (hu : opUnit op = some u) {causes : List (ExcClass × Bool)}
    {body : State → State} (run : exec i s = issue c op f causes body s) (hc : ∀ k ∈ causes, k.2 = false)
    (hq : s.queue b.coupe b.handle = some b.queue) (hb : body s = stallIn c (s.core c) b s) :
    ∃ t, exec i s = .next t ∧ OnlyCoreAndQueues c s t ∧ WaitsQueued op f .inEmpty (s.core c) (t.core c)
      ∧ ScalarFrame (s.core c) (t.core c) ∧ ScalarIs 0 0 false (s.core c) (t.core c)
      ∧ QueueIs b.coupe b.handle { b.queue with consEmpty := b.queue.consEmpty + 1 } s t := by
  obtain ⟨core, only, queue⟩ := stallIn_spec (c := c) (x := s.core c) hq
  have stays := stays_stalled (s.core c) .inEmpty b.handle (now48 s)
  refine ⟨_, run.trans (issue_stays e hs hu hc hb (by rw [core]; exact stays)), ?_⟩
  have queued := onlyCore_queueUp c op f (stallIn c (s.core c) b s)
  rw [queueUp_core, core]
  exact ⟨only.trans queued.onlyCoreAndQueues, waitsQueued_of stays (starts_ready e hs).2 (by simp),
    scalarFrame_queuedUp_stalled .., scalarIs_queuedUp_stalled .., queue.after queued.2.2.1.sameQueues⟩

/-- What completes after a change of queues: the queues changed, and the core has completed. -/
theorem completed_spec {c : CoreId} {y : Core} {k : CoupeId} {h : BitVec 16} {q : Queue} {s u : State}
    (only : OnlyCoreAndQueues c s u) (queue : QueueIs k h q s u) : OnlyCoreAndQueues c s (completeWith c y u)
      ∧ QueueIs k h q s (completeWith c y u) :=
  have completed := completeWith_only c y u
  ⟨only.trans completed.onlyCoreAndQueues, queue.after completed.2.2.1.sameQueues⟩

/-- The head row taken: the queue changes as `takeRow` says. -/
theorem notePop_popped (b : Bound) (s : State) :
    OnlyQueues s (notePop b (s.setQueue b.coupe b.handle (some b.queue.takeRow)))
      ∧ QueueIs b.coupe b.handle b.queue.takeRow s (notePop b (s.setQueue b.coupe b.handle (some b.queue.takeRow))) :=
  ⟨(onlyQueues_setQueue ..).trans (onlyQueues_notePop ..), (setQueue_is ..).after (sameQueues_notePop b _)⟩

/-! ## Giving an item -/

/-- What waiting on a full port changes. -/
theorem stallOut_spec (c : CoreId) (x : Core) (b : Bound) (s : State) :
    (stallOut c x b s).core c = x.stalled .outFull b.handle (now48 s) ∧ OnlyCoreAndQueues c s (stallOut c x b s) := by
  have stalled (u : State) (h : OnlyQueues s u) : (stallWith c x .outFull b.handle u).core c
      = x.stalled .outFull b.handle (now48 s) ∧ OnlyCoreAndQueues c s (stallWith c x .outFull b.handle u) := by
    obtain ⟨core, only⟩ := stallWith_spec c x .outFull b.handle u
    have time : now48 u = now48 s := by rw [h.2]; rfl
    exact ⟨time ▸ core, h.onlyCoreAndQueues.trans only.onlyCoreAndQueues⟩
  simp only [stallOut]
  split
  · exact stalled s ⟨fun _ => rfl, rfl⟩
  · exact stalled _ (onlyQueues_setQueue ..)

theorem PortFrame.trans {x y z : Core} (h : PortFrame x y) (g : PortFrame y z) : PortFrame x z := by
  obtain ⟨hf, hs⟩ := h
  obtain ⟨gf, gs⟩ := g
  exact ⟨by rw [gf, hf], fun j => (gs j).trans (hs j)⟩

theorem portFrame_completed (x : Core) : PortFrame x x.issued.advance := ⟨rfl, fun _ => rfl⟩

theorem portFrame_withStages (x : Core) {o : Sparse (List Item)} (h : ∀ j, o.get [] j = x.outStage.get [] j) :
    PortFrame x (x.withStages o) := ⟨rfl, h⟩

theorem advanced_withStages (x : Core) (o : Sparse (List Item)) : Advanced x (x.withStages o).issued.advance :=
  advanced_of rfl rfl rfl rfl

theorem scalarIs_withStages (x : Core) (o : Sparse (List Item)) : ScalarIs 0 0 false x (x.withStages o).issued.advance :=
  scalarIs_of (scalarIs_same x) (by simp [Core.withStages]) (by simp [Core.withStages])

/-- What an instruction of the transfer unit that gives `it` to output port `p` does: the item enters the network, or the
instruction waits in OUT_FULL. -/
theorem issue_gives {i : Instr} {c : CoreId} {op : Nat} {f : Fields} {s : State} {b : Bound} {p : Nat} {it : Item}
    (e : coreInstr i = some (c, op, f)) (hu : opUnit op = some .transfer) {causes : List (ExcClass × Bool)}
    {body : State → State} (run : exec i s = issue c op f causes body s) (hc : ∀ k ∈ causes, k.2 = false)
    (hq : s.queue b.coupe b.handle = some b.queue)
    (hb : body s = match pushItem c p b it s with
      | none => stallOut c (s.core c) b s
      | some t => completeWith c (t.core c) t) (hs : Starts i s) :
    (isSpanHandle b.handle = false → (s.core c).outStage.get [] p = [] → b.queue.credits ≠ 0 →
        ∃ t, exec i s = .next t ∧ OnlyCoreAndQueues c s t ∧ Advanced (s.core c) (t.core c) ∧ PortFrame (s.core c) (t.core c)
          ∧ ScalarIs 0 0 false (s.core c) (t.core c) ∧ (t.core c).tainted = (s.core c).tainted
          ∧ (t.core c).errLog = (s.core c).errLog
          ∧ QueueIs b.coupe b.handle { b.queue with
              credits := b.queue.credits - 1, network := b.queue.network ++ [it.taintedBy (s.core c)]
              sent := b.queue.sent ++ [sentNow s] } s t)
      ∧ (portRoom c p b s = none →
        ∃ t, exec i s = .next t ∧ OtherCoresSame c s t ∧ SameBytes s t ∧ WaitsQueued op f .outFull (s.core c) (t.core c)) := by
  refine ⟨fun own empty credit => ?_, fun full => ?_⟩
  · obtain ⟨u, given, only, ⟨o, core, stages⟩, queue, -⟩ := pushItem_enters (it := it) hq own credit empty
    rw [given] at hb
    obtain ⟨onlyT, queueT⟩ := completed_spec (y := u.core c) only queue
    have pc : (u.core c).pc = (s.core c).pc := by rw [core]; rfl
    refine ⟨_, run.trans (issue_completes_on e hs hc hb pc), onlyT, ?_, ?_, ?_, ?_, ?_, queueT⟩ <;>
      rw [completeWith_core, core]
    · exact advanced_withStages ..
    · exact (portFrame_withStages _ stages).trans (portFrame_completed _)
    · exact scalarIs_withStages ..
    · simp [Core.withStages]
    · simp [Core.withStages]
  · rw [(pushItem_none_iff c p b it s).2 full] at hb
    obtain ⟨core, bytes, others, -⟩ := stallOut_spec c (s.core c) b s
    have stays := stays_stalled (s.core c) .outFull b.handle (now48 s)
    have queued := onlyCore_queueUp c op f (stallOut c (s.core c) b s)
    refine ⟨_, run.trans (issue_stays e hs hu hc hb (by rw [core]; exact stays)), others.trans queued.2.1,
      bytes.trans queued.1, ?_⟩
    rw [queueUp_core, core]
    exact waitsQueued_of stays (starts_ready e hs).2 (by simp)

theorem completed_same (x : Core) : Advanced x x.issued.advance ∧ ScalarFrame x x.issued.advance
    ∧ ScalarIs 0 0 false x x.issued.advance :=
  ⟨advanced_of rfl rfl rfl rfl, rfl, scalarIs_of (scalarIs_same x) rfl rfl⟩

/-- Settles O6: each instruction's effect on the head of its port, or on the item that it gives, decides whether it
completes or waits in its unit's queue. -/
theorem itemsOfAPort : Obligations.ItemsOfAPort := by
  unfold Obligations.ItemsOfAPort
  refine ⟨fun c f s b hb => ⟨fun data p rest ok pair staged hs => ?popv, fun it rest ok staged => ?peek,
    fun m rest ok staged hs => ?dropm, fun i op empty forms hs => ?waits⟩, fun c f s b hb => ⟨fun ok pair => ?pushv,
    fun ok => ⟨fun kind => ?eos, fun kind => ?empty⟩⟩⟩
  case popv =>
    have popped := notePop_popped b s
    obtain ⟨only, queue⟩ := completed_spec (c := c) (y := (s.core c).wrPair f.d.toNat (rowVec data 0) (rowVec data 1) p)
      popped.1.onlyCoreAndQueues popped.2
    obtain ⟨lo, hi, plo, phi, rest'⟩ := wrPair_is (s.core c) f.d.toNat (rowVec data 0) (rowVec data 1) p (by simp [rowVec])
      (by simp [rowVec])
    refine ⟨_, issue_completes_on (i := .popv c f) (y := (s.core c).wrPair f.d.toNat (rowVec data 0) (rowVec data 1) p)
      rfl hs (by simp [ok, pair, hb, staged]) (by simp only [hb, staged]; rfl) rfl, only, ?_⟩
    rw [completeWith_core]
    refine ⟨advanced_of rfl rfl rfl rfl, vectorFrame_wrPair .., by simpa [rowVec] using lo, by simpa [rowVec] using hi,
      by simpa using plo, by simpa using phi, by simpa using rest', ?_⟩
    simpa [Queue.takeRow, staged] using queue
  case peek =>
    refine writesScalar_of rfl (exec_peek c f s) (by simp [ok, hb]) ?_
    simp only [hb, staged]
    cases it with
    | row => rfl
    | marker m => cases m <;> rfl
  case dropm =>
    obtain ⟨only, queue⟩ := completed_spec (c := c) (y := s.core c)
      (onlyQueues_setQueue s b.coupe b.handle (some b.queue.dropMarker)).onlyCoreAndQueues (setQueue_is ..)
    refine ⟨_, issue_completes_on (i := .dropm c f) rfl hs (by simp [ok, hb, staged]) (by simp only [hb, staged]) rfl,
      only, ?_⟩
    rw [completeWith_core]
    obtain ⟨done, frame, scalars⟩ := completed_same (s.core c)
    refine ⟨done, frame, scalars, ?_⟩
    simpa [Queue.dropMarker, staged] using queue
  case waits =>
    have hq := portQueue_queue hb
    obtain ⟨rfl, rfl, ok, pair⟩ | ⟨rfl, rfl, ok⟩ | ⟨rfl, rfl, ok⟩ := forms
    · exact issue_waits_in rfl hs rfl (exec_popv c f s) (by simp [ok, pair, hb, empty]) hq (by simp [hb, empty])
    · exact issue_waits_in rfl hs rfl (exec_peek c f s) (by simp [ok, hb]) hq (by simp [hb, empty])
    · exact issue_waits_in rfl hs rfl (exec_dropm c f s) (by simp [ok, hb, empty]) hq (by simp [hb, empty])
  case pushv =>
    intro hs
    obtain ⟨enters, waits⟩ := issue_gives (p := 4 + f.sel.toNat) rfl rfl (exec_pushv c f s) (by simp [ok, pair, hb])
      (portQueue_queue hb) (by simp only [hb]; rfl) hs
    exact ⟨enters, fun full => waits ((pushItem_none_iff ..).1 full)⟩
  case eos =>
    intro hs
    obtain ⟨enters, waits⟩ := issue_gives (p := 4 + f.sel.toNat) rfl rfl (exec_mark c f s) (by simp [ok, kind, hb])
      (portQueue_queue hb) (by simp only [hb, kind]; rfl) hs
    exact ⟨enters, fun full => waits ((pushItem_none_iff ..).1 full)⟩
  case empty =>
    intro hs
    obtain ⟨enters, waits⟩ := issue_gives (p := 4 + f.sel.toNat) rfl rfl (exec_mark c f s) (by simp [ok, kind, hb])
      (portQueue_queue hb) (by simp only [hb, kind]; rfl) hs
    exact ⟨enters, fun full => waits ((pushItem_none_iff ..).1 full)⟩

end Sys2Proof.Machine
end

section
/-! PROOFS. Rows stored one after another in a bench: what each reads then, and what every other byte and row reads. -/

namespace Sys2Proof.Machine

theorem Poison.contains_put (a b : Nat) (v : Bool) (p : List Nat) :
    (Poison.put b v p).contains a = if a = b then v else p.contains a := by
  cases v <;> by_cases e : a = b
  · simp [Poison.put, Poison.del, e]
  · simp [Poison.put, Poison.del, e]
  · simp [Poison.put, Poison.add, e]
  · have apart : a < b ∨ b < a := Nat.lt_or_gt_of_ne e
    rw [Bool.eq_iff_iff]
    simp only [Poison.put, Poison.add, List.contains_iff_mem, if_true, List.mem_append, List.mem_filter,
      List.mem_singleton, decide_eq_true_eq]
    rw [if_neg e, List.contains_iff_mem]
    constructor
    · rintro ((h | h) | h)
      exacts [h.1, absurd h e, h.1]
    · intro h
      rcases apart with g | g
      exacts [.inl (.inl ⟨h, g⟩), .inr ⟨h, g⟩]

/-- `a` is not the address of a byte of `n` rows of core `c`'s bench from row `r` on. -/
def Outside (c : CoreId) (r n a : Nat) : Prop := a < benchAddr c r ∨ benchAddr c (r + n) ≤ a

/-- From `s` to `t` the rows `rows`, each with its poison, have been stored in core `c`'s bench from physical row `r` on, and
nothing else of memory and its poison has changed. -/
structure Stored (c : CoreId) (r : Nat) (rows : List (Row × Bool)) (s t : State) : Prop where
  row : ∀ i (h : i < rows.length), Memory.row (benchAddr c (r + i)) t.mem = rows[i].1
  poison : ∀ i (h : i < rows.length), t.poison.contains (benchAddr c (r + i)) = rows[i].2
  byte : ∀ a, Outside c r rows.length a → Memory.byte a t.mem = Memory.byte a s.mem
  otherRow : ∀ a, (a + 512 ≤ benchAddr c r ∨ benchAddr c (r + rows.length) ≤ a) → Memory.row a t.mem = Memory.row a s.mem
  otherPoison : ∀ a, Outside c r rows.length a → t.poison.contains a = s.poison.contains a

theorem Stored.nil {c : CoreId} {r : Nat} {s t : State} (mem : t.mem = s.mem) (poison : t.poison = s.poison) :
    Stored c r [] s t :=
  ⟨by simp, by simp, by simp [mem], by simp [mem], by simp [poison]⟩

theorem benchAddr_succ (c : CoreId) (r n : Nat) : benchAddr c (r + n) = benchAddr c r + 512 * n := by
  unfold benchAddr; omega

theorem Stored.cons {c : CoreId} {r : Nat} {e : Row × Bool} {rows : List (Row × Bool)} {s t u : State}
    (h : Stored c r [e] s t) (g : Stored c (r + 1) rows t u) : Stored c r (e :: rows) s u := by
  have one : benchAddr c (r + 1) = benchAddr c r + 512 := benchAddr_succ c r 1
  have all : benchAddr c (r + (rows.length + 1)) = benchAddr c r + 512 * (rows.length + 1) := benchAddr_succ ..
  have rest : benchAddr c (r + 1 + rows.length) = benchAddr c (r + 1) + 512 * rows.length := benchAddr_succ ..
  have first : benchAddr c (r + 0) + 512 = benchAddr c (r + 1) := one.symm
  refine ⟨fun i hi => ?_, fun i hi => ?_, fun a ha => ?_, fun a ha => ?_, fun a ha => ?_⟩
  · cases i with
    | zero => exact (g.otherRow _ (.inl (by omega))).trans (h.row 0 (by simp))
    | succ i =>
      have := g.row i (by simpa using hi)
      rwa [show r + 1 + i = r + (i + 1) by omega] at this
  · cases i with
    | zero => exact (g.otherPoison _ (.inl (by omega))).trans (h.poison 0 (by simp))
    | succ i =>
      have := g.poison i (by simpa using hi)
      rwa [show r + 1 + i = r + (i + 1) by omega] at this
  · simp only [Outside, List.length_cons] at ha
    exact (g.byte a (by unfold Outside; omega)).trans (h.byte a (by rw [List.length_singleton, Outside]; omega))
  · simp only [List.length_cons] at ha
    exact (g.otherRow a (by omega)).trans (h.otherRow a (by rw [List.length_singleton]; omega))
  · simp only [Outside, List.length_cons] at ha
    exact (g.otherPoison a (by unfold Outside; omega)).trans
      (h.otherPoison a (by rw [List.length_singleton, Outside]; omega))

/-- What changes neither memory nor its poison before and after. -/
theorem Stored.around {c : CoreId} {r : Nat} {rows : List (Row × Bool)} {s s' t t' : State} (h : Stored c r rows s t)
    (mem : s.mem = s'.mem) (poison : s.poison = s'.poison) (mem' : t'.mem = t.mem) (poison' : t'.poison = t.poison) :
    Stored c r rows s' t' := by
  obtain ⟨row, pz, byte, otherRow, otherPoison⟩ := h
  refine ⟨?_, ?_, ?_, ?_, ?_⟩ <;> simp only [mem', poison', ← mem, ← poison] <;> assumption

theorem writeBench_stored (c : CoreId) (r : Nat) (d : Row) (p : Bool) (s : State) :
    Stored c r [(d, p)] s (writeBench c r d p s) := by
  have one : benchAddr c (r + 1) = benchAddr c r + 512 := benchAddr_succ c r 1
  refine ⟨fun i hi => ?_, fun i hi => ?_, fun a ha => ?_, fun a ha => ?_, fun a ha => ?_⟩
  · obtain rfl : i = 0 := by simpa using hi
    exact Memory.row_writeRow_same ..
  · obtain rfl : i = 0 := by simpa using hi
    exact (Poison.contains_put ..).trans (if_pos rfl)
  · simp only [Outside, List.length_singleton] at ha
    exact Memory.byte_write_outside _ _ _ _ (by rw [bytesLE_length]; omega)
  · simp only [List.length_singleton] at ha
    exact Memory.row_writeRow_other _ _ _ _ (by omega)
  · simp only [Outside, List.length_singleton] at ha
    exact (Poison.contains_put ..).trans (if_neg (by omega))

theorem taskWrite_stored (c : CoreId) (r : Nat) (d : Row) (p : Bool) (s : State) :
    Stored c r [(d, p || (s.core c).tainted)] s (taskWrite c r d p s) := writeBench_stored ..

/-- Nothing but cores, what coupes do, memory and its poison and stored errors differs. -/
def OnlyBench (s t : State) : Prop := t = { s with
  cores := t.cores, runs := t.runs, mem := t.mem, poison := t.poison, rowErrors := t.rowErrors, leaseHits := t.leaseHits }

theorem OnlyBench.trans {s t u : State} (h : OnlyBench s t) (g : OnlyBench t u) : OnlyBench s u := by
  unfold OnlyBench at *
  rw [g, h]

theorem onlyBench_taskWrite (c : CoreId) (r : Nat) (d : Row) (p : Bool) (s : State) : OnlyBench s (taskWrite c r d p s) := rfl

theorem OnlyQueues.onlyBench {s t : State} (h : OnlyQueues s t) : OnlyBench s t := by rw [OnlyBench, h.2]

theorem OnlyCore.onlyBench {c : CoreId} {s t : State} (h : OnlyCore c s t) : OnlyBench s t := by rw [OnlyBench, h.2.2.2]

end Sys2Proof.Machine
end

section
/-! PROOFS. POP and PUSH (R77, R83, R85, R91). -/

namespace Sys2Proof.Machine

/-! ## Completing and pausing with the core as it was left -/

/-- Nothing of the core but its program counter, its cycle bookkeeping and its queue of instructions differs. -/
def Bookkept (y z : Core) : Prop :=
  z = { y with pc := z.pc, counters := z.counters, counted := z.counted, stall := z.stall, stallSince := z.stallSince
               lastQueue := z.lastQueue, queue := z.queue, issueSeq := z.issueSeq }

theorem Bookkept.trans {x y z : Core} (h : Bookkept x y) (g : Bookkept y z) : Bookkept x z := by
  unfold Bookkept at *
  rw [g, h]

theorem bookkept_completed (y : Core) : Bookkept y y.issued.advance := rfl
theorem bookkept_issued (y : Core) : Bookkept y y.issued := rfl
theorem bookkept_queuedUp (y : Core) (op : Nat) (f : Fields) : Bookkept y (y.queuedUp op f) := rfl
theorem bookkept_stalled (y : Core) (k : Stall) (h : BitVec 16) (t : BitVec 48) : Bookkept y (y.stalled k h t) := by
  rw [Bookkept, Core.stalled_rest]

section
variable {y z : Core} (h : Bookkept y z)
include h

theorem Bookkept.rd (r : Nat) : z.rd r = y.rd r := by rw [h]; rfl
theorem Bookkept.tainted : z.tainted = y.tainted := by rw [h]
theorem Bookkept.v : z.v = y.v := by rw [h]
theorem Bookkept.vPoison : z.vPoison = y.vPoison := by rw [h]
theorem Bookkept.errLog : z.errLog = y.errLog := by rw [h]
theorem Bookkept.readFrame : ReadFrame y z := by rw [ReadFrame, h]
theorem Bookkept.taintFrame : TaintFrame y z := by rw [TaintFrame, h]
theorem Bookkept.portFrame : PortFrame y z := ⟨by rw [h], fun _ => by rw [h]⟩

end

theorem TaintFrame.trans {x y z : Core} (h : TaintFrame x y) (g : TaintFrame y z) : TaintFrame x z := by
  unfold TaintFrame at *
  rw [g, h]

/-- The core is left at the same instruction, with the same ones issued. -/
theorem Stays.trans {x y z : Core} (h : Stays x y) (g : Stays y z) : Stays x z :=
  ⟨g.pc.trans h.pc, g.task.trans h.task, g.phase.trans h.phase, g.queue.trans h.queue, g.issueSeq.trans h.issueSeq⟩

theorem stays_issued (x : Core) : Stays x x.issued := ⟨by simp, by simp, by simp, by simp, by simp⟩
theorem stays_taint (x : Core) (p : Bool) : Stays x (x.taint p) := ⟨by simp, by simp, by simp, by simp, by simp⟩
theorem stays_wr (x : Core) (r : Nat) (v : BitVec 64) (p : Bool) : Stays x (x.wr r v p) :=
  ⟨by simp, by simp, by simp, by simp, by simp⟩

section
variable {i : Instr} {c : CoreId} {op : Nat} {f : Fields} {s t u : State} {unit : UnitQ} {y : Core}
  {causes : List (ExcClass × Bool)} {body : State → State} (e : coreInstr i = some (c, op, f)) (hs : Starts i s)
  (hc : ∀ k ∈ causes, k.2 = false) (run : exec i s = issue c op f causes body s) (stays : Stays (s.core c) y)
include e hs hc run stays

/-- The instruction completes, with the core as `y`. -/
theorem exec_ends (last : y.lastQueue = (s.core c).lastQueue) (hb : body s = completeWith c y t) :
    ∃ t', exec i s = .next t' ∧ OnlyCore c t t' ∧ Advanced (s.core c) (t'.core c) ∧ Bookkept y (t'.core c) := by
  refine ⟨_, run.trans (issue_completes_on e hs hc hb stays.pc), completeWith_only .., ?_⟩
  rw [completeWith_core]
  exact ⟨advanced_of stays.pc stays.queue stays.issueSeq last, bookkept_completed y⟩

/-- The instruction stays in its unit's queue at an interruption point, with the core as `y`. -/
theorem exec_pauses (hu : opUnit op = some unit) (hb : body s = u) (core : u.core c = y.issued) (only : OnlyCore c t u) :
    ∃ t', exec i s = .next t' ∧ OnlyCore c t t' ∧ PausesQueued op f (s.core c) (t'.core c) ∧ Bookkept y (t'.core c) := by
  have left := stays.trans (stays_issued y)
  refine ⟨_, run.trans (issue_stays e hs hu hc hb (by rw [core]; exact left)), only.trans (onlyCore_queueUp ..), ?_⟩
  rw [queueUp_core, core]
  exact ⟨pausesQueued_of left (starts_ready e hs).2 (by simp) (by simp), (bookkept_issued y).trans (bookkept_queuedUp ..)⟩

/-- The instruction stays in its unit's queue in category `k`, with the core as `y`. -/
theorem exec_waits (hu : opUnit op = some unit) {k : Stall} {h : BitVec 16} {now : BitVec 48} (hb : body s = u)
    (core : u.core c = y.stalled k h now) : ∃ t', exec i s = .next t' ∧ OnlyCore c u t'
      ∧ WaitsQueued op f k (s.core c) (t'.core c) ∧ Bookkept y (t'.core c) := by
  have left := stays.trans (stays_stalled y k h now)
  refine ⟨_, run.trans (issue_stays e hs hu hc hb (by rw [core]; exact left)), onlyCore_queueUp .., ?_⟩
  rw [queueUp_core, core]
  exact ⟨waitsQueued_of left (starts_ready e hs).2 (by simp), (bookkept_stalled y ..).trans (bookkept_queuedUp ..)⟩

/-- The instruction, with the core as `y`, completes when it is done and pauses otherwise. -/
theorem exec_ends_or_pauses (hu : opUnit op = some unit) (last : y.lastQueue = (s.core c).lastQueue) {done : Prop} [Decidable done]
    (hb : body s = if done then completeWith c y t else progress (pauseWith c y t) c) :
    ∃ t', exec i s = .next t' ∧ OnlyCore c t t' ∧ EndsOrPauses op f done (s.core c) (t'.core c)
      ∧ Bookkept y (t'.core c) := by
  by_cases h : done
  · rw [if_pos h] at hb
    obtain ⟨t', ex, only, ends, kept⟩ := exec_ends e hs hc run stays last hb
    exact ⟨t', ex, only, ⟨fun _ => ends, absurd h⟩, kept⟩
  · rw [if_neg h] at hb
    obtain ⟨t', ex, only, pauses, kept⟩ := exec_pauses e hs hc run stays hu hb (by simp [pauseWith])
      ((onlyCore_setCore ..).trans (onlyCore_progress ..))
    exact ⟨t', ex, only, ⟨(absurd · h), fun _ => pauses⟩, kept⟩

end

/-- Two scalar registers written, the second after the first. -/
theorem Core.wr_wr_rd (x : Core) (a b : Nat) (u v : BitVec 64) (p q : Bool) (r : Nat) :
    ((x.wr a u p).wr b v q).rd r = if r = 0 then 0 else if r = b then v else if r = a then u else x.rd r := by
  by_cases zero : r = 0
  · simp [zero, Core.rd]
  · simp [Core.wr_rd, zero]

/-! ## POP -/

/-- A queue from whose staging `n` rows have been taken, so that `rest` is left. -/
def Queue.taken (q : Queue) (n : Nat) (rest : List Item) : Queue :=
  { q with staging := rest, returning := q.returning + n, rows := q.rows + BitVec.ofNat 48 n }

/-- What taking rows from a port into the bench leaves: the rows are stored, poisoned when they were or when the task is
tainted; the queue's staging is `rest`. No core differs. -/
structure Popped (c : CoreId) (b : Bound) (q : Queue) (rows : List (Row × Bool)) (rest : List Item) (r : Nat) (s t : State) :
    Prop where
  stored : Stored c ((s.core c).base.toNat + r) (rows.map fun e => (e.1, e.2 || (s.core c).tainted)) s t
  cores : ∀ d, t.core d = s.core d
  runs : QueueRuns s t
  only : OnlyBench s t
  queue : QueueIs b.coupe b.handle (q.taken rows.length rest) s t

/-- The staging begins with rows that POP takes: up to the limit, or to a marker, or to the end. -/
def StopsAt (k n : Nat) (rest : List Item) : Prop := k = n ∨ k < n ∧ (rest = [] ∨ ∃ m l, rest = .marker m :: l)

/-- One row taken: stored in the bench, and gone from the queue. -/
def popRow (c : CoreId) (b : Bound) (r : Nat) (d : Row) (p : Bool) (s : State) : State :=
  match (taskWrite c ((s.core c).phys r) d p s).queue b.coupe b.handle with
  | none => taskWrite c ((s.core c).phys r) d p s
  | some q => notePop b ((taskWrite c ((s.core c).phys r) d p s).setQueue b.coupe b.handle (some q.takeRow))

theorem popRows_row (c : CoreId) (b : Bound) (d : Row) (p : Bool) (rest : List Item) (n r : Nat) (s : State) :
    popRows c b (.row d p :: rest) (n + 1) r s = popRows c b rest n (r + 1) (popRow c b r d p s) := rfl

theorem popRow_popped {c : CoreId} {b : Bound} {q : Queue} {d : Row} {p : Bool} {r : Nat} {s : State} {rest : List Item}
    (hq : s.queue b.coupe b.handle = some q) (staged : q.staging = .row d p :: rest) :
    Popped c b q [(d, p)] rest r s (popRow c b r d p s) := by
  have stored := taskWrite_stored c ((s.core c).phys r) d p s
  have row : popRow c b r d p s = notePop b ((taskWrite c ((s.core c).phys r) d p s).setQueue b.coupe b.handle
      (some (q.taken 1 rest))) := by
    have taken : q.takeRow = q.taken 1 rest := by simp [Queue.takeRow, Queue.taken, staged]
    have hq' : (taskWrite c ((s.core c).phys r) d p s).queue b.coupe b.handle = some q := hq
    rw [popRow, hq', ← taken]
  rw [row]
  have moved := (onlyQueues_setQueue (taskWrite c ((s.core c).phys r) d p s) b.coupe b.handle (some (q.taken 1 rest))).trans
    (onlyQueues_notePop b _)
  have queue := (setQueue_is (taskWrite c ((s.core c).phys r) d p s) b.coupe b.handle (q.taken 1 rest)).after
    (sameQueues_notePop b _)
  generalize notePop b _ = t at moved queue ⊢
  exact ⟨stored.around rfl rfl (by rw [moved.2]) (by rw [moved.2]), fun e => moved.core e, moved.1,
    (onlyBench_taskWrite ..).trans moved.onlyBench, queue⟩

theorem Popped.cons {c : CoreId} {b : Bound} {q : Queue} {e : Row × Bool} {rows : List (Row × Bool)} {mid rest : List Item}
    {r : Nat} {s t u : State} (h : Popped c b q [e] mid r s t) (g : Popped c b (q.taken 1 mid) rows rest (r + 1) t u) :
    Popped c b q (e :: rows) rest r s u := by
  have stored := g.stored
  have queue := g.queue
  rw [h.cores c] at stored
  have all : (q.taken 1 mid).taken rows.length rest = q.taken (rows.length + 1) rest := by
    simp [Queue.taken, BitVec.ofNat_add, BitVec.add_assoc, Nat.add_assoc, Nat.add_comm]
  rw [all] at queue
  exact ⟨h.stored.cons stored, fun d => (g.cores d).trans (h.cores d), h.runs.trans g.runs, h.only.trans g.only,
    h.queue.trans queue⟩

theorem Popped.nil {c : CoreId} {b : Bound} {q : Queue} {rest : List Item} {r : Nat} {s : State}
    (hq : s.queue b.coupe b.handle = some q) (staged : q.staging = rest) : Popped c b q [] rest r s s :=
  ⟨.nil rfl rfl, fun _ => rfl, fun _ => rfl, rfl, by
    have all : q.taken 0 rest = q := by simp [Queue.taken, ← staged]
    exact ⟨by simpa [all] using hq, fun _ _ _ => rfl⟩⟩

theorem popRows_popped {c : CoreId} {b : Bound} : ∀ (rows : List (Row × Bool)) (rest : List Item) (q : Queue) (n r : Nat)
    (s : State), s.queue b.coupe b.handle = some q → q.staging = rows.map (fun e => .row e.1 e.2) ++ rest →
    StopsAt rows.length n rest →
    ∃ t, popRows c b q.staging n r s = (n - rows.length, r + rows.length, decide (rows.length < n) && !rest.isEmpty, t)
      ∧ Popped c b q rows rest r s t
  | [], rest, q, n, r, s, hq, staged, stops => by
    refine ⟨s, ?_, .nil hq (by simpa using staged)⟩
    have staged : q.staging = rest := by simpa using staged
    rw [staged]
    obtain rfl | ⟨pos, rfl | ⟨m, l, rfl⟩⟩ := stops
    · cases rest <;> simp [popRows]
    · simp [popRows]
    · obtain ⟨n, rfl⟩ := Nat.exists_eq_add_of_lt pos
      simp [popRows]
  | e :: rows, rest, q, n, r, s, hq, staged, stops => by
    obtain ⟨n, rfl⟩ : ∃ m, n = m + 1 := by
      refine ⟨n - 1, ?_⟩
      have : (e :: rows).length ≤ n := by rcases stops with h | h <;> omega
      simp at this
      omega
    have one := popRow_popped (c := c) (r := r) hq staged
    obtain ⟨t, run, popped⟩ := popRows_popped rows rest (q.taken 1 _) n (r + 1) (popRow c b r e.1 e.2 s) one.queue.1 rfl
      (by simpa [StopsAt] using stops)
    refine ⟨t, ?_, one.cons popped⟩
    rw [staged, List.map_cons, List.cons_append, popRows_row]
    refine run.trans ?_
    simp only [List.length_cons, Nat.add_lt_add_iff_right, Nat.add_sub_add_right, Nat.add_assoc, Nat.add_comm 1]

theorem pauseAt_le (stop : Option Nat) (n : Nat) : pauseAt stop n ≤ n := by
  cases stop <;> simp [pauseAt]

/-- The core of a task that moved `k` of `n` rows, from row `row` on, between a port and the bench: its registers follow. -/
def Core.moved (x : Core) (f : Fields) (row n k : Nat) : Core :=
  ((x.taint (x.rdP f.a.toNat || x.rdP f.b.toNat)).wr f.a.toNat (BitVec.ofNat 64 (row + k)) (x.rdP f.a.toNat)).wr f.b.toNat
    (BitVec.ofNat 64 (n - k)) (x.rdP f.b.toNat)

section
variable (x : Core) (f : Fields) (row n k : Nat)

theorem stays_moved : Stays x (x.moved f row n k) := ((stays_taint ..).trans (stays_wr ..)).trans (stays_wr ..)

theorem taintFrame_moved : TaintFrame x (x.moved f row n k) := by
  have frame : ReadFrame x (x.moved f row n k) :=
    ((readFrame_taint ..).trans (readFrame_wr ..)).trans (readFrame_wr ..)
  exact frame.taintFrame (by simp [Core.moved]) (by simp [Core.moved]) (by simp [Core.moved])

theorem Core.moved_rd (r : Nat) : (x.moved f row n k).rd r = if r = 0 then 0 else if r = f.b.toNat then BitVec.ofNat 64 (n - k)
    else if r = f.a.toNat then BitVec.ofNat 64 (row + k) else x.rd r := by
  simp [Core.moved, Core.wr_wr_rd]

theorem Core.moved_tainted : (x.moved f row n k).tainted = (x.tainted || x.rdP f.a.toNat || x.rdP f.b.toNat) := by
  simp [Core.moved, Bool.or_assoc]

theorem Core.moved_lastQueue : (x.moved f row n k).lastQueue = x.lastQueue := by simp [Core.moved]

end

/-- Nothing but core `c` and what coupes do differs, and of that at most queues, open steps and the last progress. -/
def OnlyCoreAndRuns (c : CoreId) (s t : State) : Prop :=
  OtherCoresSame c s t ∧ QueueRuns s t ∧ t = { s with cores := t.cores, runs := t.runs }

theorem OnlyCoreAndRuns.trans {c : CoreId} {s t u : State} (h : OnlyCoreAndRuns c s t) (g : OnlyCoreAndRuns c t u) :
    OnlyCoreAndRuns c s u := by
  obtain ⟨hc, hr, he⟩ := h
  obtain ⟨gc, gr, ge⟩ := g
  exact ⟨hc.trans gc, hr.trans gr, by rw [ge, he]⟩

theorem OnlyCore.andRuns {c : CoreId} {s t : State} (h : OnlyCore c s t) : OnlyCoreAndRuns c s t :=
  ⟨h.2.1, h.2.2.1.queueRuns, h.2.2.2⟩

theorem OnlyQueues.andRuns {c : CoreId} {s t : State} (h : OnlyQueues s t) : OnlyCoreAndRuns c s t :=
  ⟨fun d _ => h.core d, h.1, by rw [h.2]⟩

/-- Waiting on an empty or full port changes the core and its queue alone. -/
theorem stallIn_only (c : CoreId) (x : Core) (b : Bound) (s : State) : OnlyCoreAndRuns c s (stallIn c x b s) := by
  simp only [stallIn]
  split
  · exact (stallWith_spec ..).2.andRuns
  · exact (onlyQueues_setQueue ..).andRuns.trans (stallWith_spec ..).2.andRuns

/-- What POP leaves: the rows stored, the other bytes and the other cores as they were, its registers moved on. -/
structure PopLeft (c : CoreId) (f : Fields) (rows : List (Row × Bool)) (s t : State) : Prop where
  stored : ∀ i (h : i < rows.length), taskRow t c (((s.core c).rd f.a.toNat).toNat + i) = rows[i].1
    ∧ t.poison.contains (benchAddr c ((s.core c).base.toNat + ((s.core c).rd f.a.toNat).toNat + i))
      = (rows[i].2 || (t.core c).tainted)
  bytes : ∀ a, (a < benchAddr c ((s.core c).base.toNat + ((s.core c).rd f.a.toNat).toNat)
      ∨ benchAddr c ((s.core c).base.toNat + ((s.core c).rd f.a.toNat).toNat + rows.length) ≤ a) →
    Memory.byte a t.mem = Memory.byte a s.mem
  cores : OtherCoresSame c s t
  runs : QueueRuns s t
  only : OnlyBench s t
  frame : TaintFrame (s.core c) (t.core c)
  tainted : (t.core c).tainted = ((s.core c).tainted || (s.core c).rdP f.a.toNat || (s.core c).rdP f.b.toNat)
  registers : ∀ r, (t.core c).rd r = if r = 0 then 0
    else if r = f.b.toNat then BitVec.ofNat 64 (((s.core c).rd f.b.toNat).toNat - rows.length)
    else if r = f.a.toNat then BitVec.ofNat 64 (((s.core c).rd f.a.toNat).toNat + rows.length) else (s.core c).rd r

/-- The state in which POP and PUSH move rows: the task is tainted by a poisoned row or count (R358). -/
def taintedBy (c : CoreId) (f : Fields) (s : State) : State :=
  s.setCore c ((s.core c).taint ((s.core c).rdP f.a.toNat || (s.core c).rdP f.b.toNat))

theorem Popped.left {c : CoreId} {f : Fields} {b : Bound} {q : Queue} {rows : List (Row × Bool)} {rest : List Item}
    {s t t' : State} (h : Popped c b q rows rest ((s.core c).rd f.a.toNat).toNat (taintedBy c f s) t)
    (after : OnlyCoreAndRuns c t t')
    (kept : Bookkept ((s.core c).moved f ((s.core c).rd f.a.toNat).toNat ((s.core c).rd f.b.toNat).toNat rows.length)
      (t'.core c)) : PopLeft c f rows s t' := by
  obtain ⟨stored, cores, runs, only, -⟩ := h
  obtain ⟨others, runs', rest'⟩ := after
  have begun := onlyCore_setCore c ((s.core c).taint ((s.core c).rdP f.a.toNat || (s.core c).rdP f.b.toNat)) s
  have core : (taintedBy c f s).core c = (s.core c).taint ((s.core c).rdP f.a.toNat || (s.core c).rdP f.b.toNat) := by
    simp [taintedBy]
  have frame := (taintFrame_moved (s.core c) f ((s.core c).rd f.a.toNat).toNat ((s.core c).rd f.b.toNat).toNat
    rows.length).trans kept.taintFrame
  have base : (t'.core c).base = (s.core c).base := by rw [frame]
  have taint := kept.tainted.trans (Core.moved_tainted ..)
  have stored := stored.around (s' := s) (t' := t') rfl rfl (by rw [rest']) (by rw [rest'])
  simp only [core, Core.taint_base, Core.taint_tainted, ← Bool.or_assoc] at stored
  refine ⟨fun i hi => ⟨?_, ?_⟩, fun a ha => stored.byte a ?_, ?_, ?_, ?_, frame, taint, fun r => ?_⟩
  · rw [taskRow, base, ← Nat.add_assoc]
    exact (stored.row i (by simpa using hi)).trans (by rw [List.getElem_map])
  · rw [taint]
    exact (stored.poison i (by simpa using hi)).trans (by rw [List.getElem_map]; simp [Bool.or_assoc])
  · simpa [Outside] using ha
  · exact begun.2.1.trans (OtherCoresSame.trans (fun d _ => cores d) others)
  · exact begun.2.2.1.queueRuns.trans (runs.trans runs')
  · exact begun.onlyBench.trans (only.trans (by rw [OnlyBench, rest']))
  · rw [kept.rd, Core.moved_rd]

/-- Progress that is noted or not leaves every core as it was. -/
theorem onlyCore_progress_if (c : CoreId) (p : Prop) [Decidable p] (u : State) :
    OnlyCore c u (if p then progress u c else u) ∧ (if p then progress u c else u).core c = u.core c := by
  split
  · exact ⟨onlyCore_progress .., progress_core ..⟩
  · exact ⟨⟨fun _ => rfl, fun _ _ => rfl, fun _ => rfl, rfl⟩, rfl⟩

section
variable {c : CoreId} {f : Fields} {stop : Option Nat} {s t : State} {b : Bound} {rows : List (Row × Bool)} {rest : List Item}

/-- The row and the count that POP and PUSH start with. -/
abbrev rowArg (c : CoreId) (f : Fields) (s : State) : Nat := ((s.core c).rd f.a.toNat).toNat
abbrev countArg (c : CoreId) (f : Fields) (s : State) : Nat := ((s.core c).rd f.b.toNat).toNat

/-- The core after `k` rows. -/
abbrev movedCore (c : CoreId) (f : Fields) (k : Nat) (s : State) : Core := (s.core c).moved f (rowArg c f s) (countArg c f s) k

/-- The effect of POP, once it has taken its rows. -/
theorem pop_body (hb : portQueue s c f.sel.toNat = some b) (core : t.core c = (taintedBy c f s).core c)
    (le : rows.length ≤ pauseAt stop (countArg c f s)) {marker : Bool}
    (run : popRows c b b.queue.staging (pauseAt stop (countArg c f s)) (rowArg c f s) (taintedBy c f s)
      = (pauseAt stop (countArg c f s) - rows.length, rowArg c f s + rows.length, marker, t)) :
    ∃ body, exec (.pop c f stop) s = issue c Op.pop f [(.illegal, !Form.ok ⟨0, 5, 5, 4, 0, 0⟩ f),
        (.bound, !(s.core c).rowsIn (rowArg c f s) (countArg c f s)), (.stream, (some b).isNone)] body s
      ∧ body s = if countArg c f s - rows.length = 0 || marker then completeWith c (movedCore c f rows.length s) t
        else if countArg c f s - rows.length < countArg c f s then
          progress (if pauseAt stop (countArg c f s) - rows.length = 0 then pauseWith c (movedCore c f rows.length s) t
            else stallIn c (movedCore c f rows.length s) b t) c
        else if pauseAt stop (countArg c f s) - rows.length = 0 then pauseWith c (movedCore c f rows.length s) t
          else stallIn c (movedCore c f rows.length s) b t := by
  have limit := pauseAt_le stop (countArg c f s)
  have count : countArg c f s - (pauseAt stop (countArg c f s) - (pauseAt stop (countArg c f s) - rows.length))
      = countArg c f s - rows.length := by omega
  have run' : popRows c b b.queue.staging (pauseAt stop (countArg c f s)) (rowArg c f s)
      (s.setCore c ((s.core c).taint ((s.core c).rdP f.a.toNat || (s.core c).rdP f.b.toNat)))
      = (pauseAt stop (countArg c f s) - rows.length, rowArg c f s + rows.length, marker, t) := run
  refine ⟨_, by rw [← hb]; exact exec_pop c f stop s, ?_⟩
  simp only [hb, run', count, core, taintedBy, State.setCore_core]
  rfl

/-- Once POP has taken its rows, it waits when its port is empty before its limit, and otherwise ends or pauses. -/
theorem pop_finishes {s0 : State} (hb : portQueue s c f.sel.toNat = some b) (ok : Form.ok ⟨0, 5, 5, 4, 0, 0⟩ f = true)
    (inside : (s.core c).rowsIn (rowArg c f s) (countArg c f s) = true) (hs : Starts (.pop c f stop) s)
    (stops : StopsAt rows.length (pauseAt stop (countArg c f s)) rest)
    (popped : Popped c b b.queue rows rest (rowArg c f s) s0 t) (core : t.core c = (taintedBy c f s).core c)
    (run : popRows c b b.queue.staging (pauseAt stop (countArg c f s)) (rowArg c f s) (taintedBy c f s)
      = (pauseAt stop (countArg c f s) - rows.length, rowArg c f s + rows.length,
        decide (rows.length < pauseAt stop (countArg c f s)) && !rest.isEmpty, t)) :
    ∃ t', exec (.pop c f stop) s = .next t' ∧ OnlyCoreAndRuns c t t' ∧ Bookkept (movedCore c f rows.length s) (t'.core c)
      ∧ ((decide (rows.length < pauseAt stop (countArg c f s)) && rest.isEmpty) = true →
        WaitsQueued Op.pop f .inEmpty (s.core c) (t'.core c))
      ∧ ((decide (rows.length < pauseAt stop (countArg c f s)) && rest.isEmpty) = false →
        EndsOrPauses Op.pop f (rows.length = countArg c f s ∨ rows.length < pauseAt stop (countArg c f s)) (s.core c)
          (t'.core c))
      ∧ QueueIs b.coupe b.handle { b.queue.taken rows.length rest with
          consEmpty := b.queue.consEmpty + BitVec.ofNat 48 (b2n (decide (rows.length < pauseAt stop (countArg c f s))
            && rest.isEmpty)) } s0 t' := by
  have limit := pauseAt_le stop (countArg c f s)
  have le : rows.length ≤ pauseAt stop (countArg c f s) := by rcases stops with h | ⟨h, -⟩ <;> omega
  obtain ⟨body, ex, effect⟩ := pop_body hb core le run
  have legal : ∀ k ∈ [(ExcClass.illegal, !Form.ok ⟨0, 5, 5, 4, 0, 0⟩ f),
      (.bound, !(s.core c).rowsIn (rowArg c f s) (countArg c f s)), (.stream, (some b).isNone)], k.2 = false := by
    simp [ok, inside]
  have stays := stays_moved (s.core c) f (rowArg c f s) (countArg c f s) rows.length
  have last := Core.moved_lastQueue (s.core c) f (rowArg c f s) (countArg c f s) rows.length
  have unchanged : { b.queue.taken rows.length rest with consEmpty := b.queue.consEmpty + BitVec.ofNat 48 (b2n false) }
      = b.queue.taken rows.length rest := by simp [b2n, Queue.taken]
  by_cases short : rows.length < pauseAt stop (countArg c f s)
  · have more : countArg c f s - rows.length ≠ 0 := by omega
    have pausing : pauseAt stop (countArg c f s) - rows.length ≠ 0 := by omega
    obtain rfl | ⟨m, l, rfl⟩ := (stops.resolve_left (by omega)).2
    · simp only [List.isEmpty_nil, Bool.not_true, Bool.and_false, Bool.or_false, decide_eq_true_eq, more, if_false,
        pausing] at effect
      obtain ⟨stalled, -, queue⟩ := 
        stallIn_spec (c := c) (x := movedCore c f rows.length s) popped.queue.1
      obtain ⟨noted, same⟩ := onlyCore_progress_if c (countArg c f s - rows.length < countArg c f s)
        (stallIn c (movedCore c f rows.length s) b t)
      obtain ⟨t', run', only, waits, kept⟩ := exec_waits rfl hs legal ex stays rfl effect (same.trans stalled)
      have after := noted.trans only
      refine ⟨t', run', (stallIn_only ..).trans after.andRuns, kept, fun _ => waits, by simp [short], ?_⟩
      have queue := (popped.queue.trans queue).after after.2.2.1.sameQueues
      simp only [short, decide_true, List.isEmpty_nil, Bool.and_true, b2n, if_true]
      exact queue
    · simp [short] at effect
      obtain ⟨t', run', only, ends, kept⟩ := exec_ends rfl hs legal ex stays last effect
      refine ⟨t', run', only.andRuns, kept, by simp, fun _ => ⟨fun _ => ends, fun h => absurd (.inr short) h⟩, ?_⟩
      rw [List.isEmpty_cons, Bool.and_false, unchanged]
      exact popped.queue.after only.2.2.1.sameQueues
  · have all : pauseAt stop (countArg c f s) = rows.length := by omega
    simp only [all, Nat.lt_irrefl, decide_false, Bool.false_and, Bool.or_false, decide_eq_true_eq, Nat.sub_self,
      if_true] at effect
    have none : (decide (rows.length < pauseAt stop (countArg c f s)) && rest.isEmpty) = false := by simp [short]
    simp only [none, unchanged, Bool.false_eq_true, false_implies, true_implies, true_and]
    have stopped : (rows.length = countArg c f s ∨ rows.length < pauseAt stop (countArg c f s))
        ↔ countArg c f s - rows.length = 0 := by omega
    simp only [EndsOrPauses, stopped]
    by_cases done : countArg c f s - rows.length = 0
    · rw [if_pos done] at effect
      obtain ⟨t', run', only, ends, kept⟩ := exec_ends rfl hs legal ex stays last effect
      exact ⟨t', run', only.andRuns, kept, ⟨fun _ => ends, absurd done⟩, popped.queue.after only.2.2.1.sameQueues⟩
    · rw [if_neg done] at effect
      obtain ⟨noted, same⟩ := onlyCore_progress_if c (countArg c f s - rows.length < countArg c f s)
        (pauseWith c (movedCore c f rows.length s) t)
      obtain ⟨t', run', only, pauses, kept⟩ := exec_pauses rfl hs legal ex stays rfl effect
        (same.trans (by simp [pauseWith])) ((onlyCore_setCore ..).trans noted)
      exact ⟨t', run', only.andRuns, kept, ⟨(absurd · done), fun _ => pauses⟩, popped.queue.after only.2.2.1.sameQueues⟩

end


/-! ## PUSH -/

/-- A core with another error log. -/
def Core.withLog (x : Core) (l : BitVec 64) : Core := { x with errLog := l }

section
variable (x : Core) (l m : BitVec 64) (p : Nat) (i : List Item) (o o' : Sparse (List Item))

theorem Core.pushed_staging : ((x.staging p i).withLog l).withStages o = (x.withLog l).withStages o := rfl
theorem Core.pushed_pushed : ((((x.withLog l).withStages o).withLog m).withStages o') = (x.withLog m).withStages o' := rfl
@[simp] theorem Core.withLog_base : (x.withLog l).base = x.base := rfl
@[simp] theorem Core.withLog_tainted : (x.withLog l).tainted = x.tainted := rfl
@[simp] theorem Core.withLog_outStage : (x.withLog l).outStage = x.outStage := rfl
@[simp] theorem Core.withStages_base : (x.withStages o).base = x.base := rfl
@[simp] theorem Core.withStages_tainted : (x.withStages o).tainted = x.tainted := rfl
@[simp] theorem Core.withStages_outStage : (x.withStages o).outStage = o := rfl
@[simp] theorem Core.staging_base : (x.staging p i).base = x.base := rfl

end

/-- Core `c` has read its physical row `r`: of the core at most the error log has changed, and of the poison and the stored
errors at most those of that row (R114, R117). -/
structure RowRead (c : CoreId) (r : Nat) (s t : State) : Prop where
  core : ∃ l, t.core c = (s.core c).withLog l
  others : OtherCoresSame c s t
  rest : t = { s with cores := t.cores, poison := t.poison, rowErrors := t.rowErrors, leaseHits := t.leaseHits }
  poison : ∀ a, a ≠ benchAddr c r → t.poison.contains a = s.poison.contains a
  errors : ∀ a, a ≠ benchAddr c r → t.rowErrors.get RowError.none a = s.rowErrors.get RowError.none a

theorem readBench_read (c : CoreId) (r src : Nat) (s : State) : RowRead c r s (readBench c r src s).2 := by
  have added (a : Nat) (h : a ≠ benchAddr c r) : (Poison.add (benchAddr c r) s.poison).contains a = s.poison.contains a :=
    (Poison.contains_put a (benchAddr c r) true _).trans (if_neg h)
  have deleted (a : Nat) (h : a ≠ benchAddr c r) : (Poison.del (benchAddr c r) s.poison).contains a = s.poison.contains a :=
    (Poison.contains_put a (benchAddr c r) false _).trans (if_neg h)
  have others (u : State) (y : Core) (h : ∀ d, u.core d = s.core d) : OtherCoresSame c s (u.setCore c y) :=
    fun d ne => (State.setCore_core_other _ _ _ _ ne).trans (h d)
  dsimp only [readBench]
  split
  · split
    · exact ⟨⟨_, State.setCore_core ..⟩, others _ _ fun _ => rfl, rfl, deleted, fun a h => Sparse.get_set_other _ _ _ _ _ h⟩
    · exact ⟨⟨_, State.setCore_core ..⟩, others _ _ fun _ => rfl, rfl, added, fun _ _ => rfl⟩
  · exact ⟨⟨_, State.setCore_core ..⟩, others _ _ fun _ => rfl, rfl, fun _ _ => rfl,
      fun a h => Sparse.get_set_other _ _ _ _ _ h⟩
  · exact ⟨⟨_, State.setCore_core ..⟩, others _ _ fun _ => rfl, rfl, fun _ _ => rfl, fun _ _ => rfl⟩
  · exact ⟨⟨(s.core c).errLog, rfl⟩, fun _ _ => rfl, rfl, fun _ _ => rfl, fun _ _ => rfl⟩

/-- What a read of row `rel` of the task delivers. -/
theorem readBench_delivers (c : CoreId) (rel src : Nat) (s : State) :
    (readBench c ((s.core c).phys rel) src s).1 = (taskRow s c rel, taskRowPoison s c rel) := by
  refine Prod.ext (readBench_data ..) ?_
  dsimp only [readBench, taskRowPoison, Core.phys]
  split
  next w h => rw [h]; split <;> rfl
  all_goals simp [*]

theorem RowRead.onlyReading {c : CoreId} {r : Nat} {s t : State} (h : RowRead c r s t) : OnlyCoreReading c s t := by
  obtain ⟨-, others, rest, -, -⟩ := h
  exact ⟨fun _ => by rw [rest], others, fun _ => by rw [rest]; rfl, by rw [rest]⟩

/-- The items that `n` rows of the task from row `row` on are when PUSH gives them. -/
def rowItems (s : State) (c : CoreId) (row n : Nat) : List Item :=
  (List.range n).map fun i => .row (taskRow s c (row + i)) (taskRowPoison s c (row + i) || (s.core c).tainted)

/-- The stamps of `n` items that enter the network now. -/
def stampsFrom (s : State) (n : Nat) : List Stamp := (List.range n).map fun i => ⟨s.injected + i, injectionTime s.timebase⟩

/-- Nothing but cores, what coupes do, and poison and stored errors differs, and `n` packets more have entered the network. -/
def OnlyGiving (n : Nat) (s t : State) : Prop :=
  t = { s with cores := t.cores, runs := t.runs, poison := t.poison, rowErrors := t.rowErrors, leaseHits := t.leaseHits
               injected := t.injected } ∧ t.injected = s.injected + n

theorem OnlyGiving.trans {m n : Nat} {s t u : State} (h : OnlyGiving m s t) (g : OnlyGiving n t u) :
    OnlyGiving (m + n) s u := by
  obtain ⟨he, hi⟩ := h
  obtain ⟨ge, gi⟩ := g
  exact ⟨by rw [ge, he], by omega⟩

theorem OnlyCore.onlyGiving {c : CoreId} {s t : State} (h : OnlyCore c s t) : OnlyGiving 0 s t := by
  rw [OnlyGiving, h.2.2.2]; exact ⟨rfl, rfl⟩

theorem RowRead.onlyGiving {c : CoreId} {r : Nat} {s t : State} (h : RowRead c r s t) : OnlyGiving 0 s t := by
  obtain ⟨-, -, rest, -, -⟩ := h
  rw [OnlyGiving, rest]; exact ⟨rfl, rfl⟩

theorem Entered.onlyGiving {c : CoreId} {k : CoupeId} {h : BitVec 16} {q : Queue} {it : Item} {s t : State}
    (e : Entered c k h q it s t) : OnlyGiving 1 s t := by
  obtain ⟨⟨-, -, -, rest⟩, -, -, injected⟩ := e
  exact ⟨by rw [rest], injected⟩

theorem OnlyGiving.timebase {n : Nat} {s t : State} (h : OnlyGiving n s t) : t.timebase = s.timebase := by rw [h.1]

/-- What giving `n` rows of the task from `row` on to queue `k`, `h`, which was `q`, leaves. -/
structure Pushed (c : CoreId) (k : CoupeId) (h : BitVec 16) (q : Queue) (row n : Nat) (s t : State) : Prop where
  core : ∃ l o, t.core c = ((s.core c).withLog l).withStages o ∧ ∀ p, o.get [] p = (s.core c).outStage.get [] p
  others : OtherCoresSame c s t
  runs : QueueRuns s t
  only : OnlyGiving n s t
  queue : QueueIs k h { q with credits := q.credits - n, network := q.network ++ rowItems s c row n
                               sent := q.sent ++ stampsFrom s n } s t

theorem Pushed.nil {c : CoreId} {k : CoupeId} {h : BitVec 16} {q : Queue} {row : Nat} {s : State}
    (hq : s.queue k h = some q) : Pushed c k h q row 0 s s where
  core := ⟨(s.core c).errLog, (s.core c).outStage, rfl, fun _ => rfl⟩
  others _ _ := rfl
  runs _ := rfl
  only := ⟨rfl, rfl⟩
  queue := ⟨by simpa [rowItems, stampsFrom] using hq, fun _ _ _ => rfl⟩

/-- Reading one row leaves the other rows, and what reading them delivers, as they were. -/
theorem RowRead.others_same {c : CoreId} {rel : Nat} {s t : State} (h : RowRead c ((s.core c).phys rel) s t) (j : Nat)
    (ne : j ≠ rel) : taskRow t c j = taskRow s c j ∧ taskRowPoison t c j = taskRowPoison s c j := by
  obtain ⟨⟨l, core⟩, -, rest, poison, errors⟩ := h
  have base : (t.core c).base = (s.core c).base := by rw [core]; rfl
  have apart : benchAddr c ((s.core c).base.toNat + j) ≠ benchAddr c ((s.core c).phys rel) := by
    unfold benchAddr Core.phys; omega
  exact ⟨by rw [taskRow, taskRow, base, rest], by rw [taskRowPoison, taskRowPoison, base, poison _ apart, errors _ apart]⟩

theorem OnlyCore.rows_same {c : CoreId} {s t : State} (h : OnlyCore c s t) (base : (t.core c).base = (s.core c).base)
    (j : Nat) : taskRow t c j = taskRow s c j ∧ taskRowPoison t c j = taskRowPoison s c j := by
  rw [taskRow, taskRow, taskRowPoison, taskRowPoison, base, h.2.2.2]; exact ⟨rfl, rfl⟩

/-- One row given: it is read, and enters the network. -/
theorem pushRow_pushed {c : CoreId} {p : Nat} {b : Bound} {q : Queue} {row src : Nat} {s : State}
    (hq : s.queue b.coupe b.handle = some q) (own : isSpanHandle b.handle = false) (credit : q.credits ≠ 0)
    (empty : (s.core c).outStage.get [] p = []) :
    ∃ s0 t, portRoom c p b s = some s0
      ∧ pushItem c p b (.row (readBench c ((s0.core c).phys row) src s0).1.1 (readBench c ((s0.core c).phys row) src s0).1.2)
          (readBench c ((s0.core c).phys row) src s0).2 = some t
      ∧ Pushed c b.coupe b.handle q row 1 s t
      ∧ (∀ j, j ≠ row → taskRow t c j = taskRow s c j ∧ taskRowPoison t c j = taskRowPoison s c j) := by
  have room := portRoom_of_empty (b := b) empty
  generalize hs : s.setCore c ((s.core c).staging p []) = s0 at room
  have core0 : s0.core c = (s.core c).staging p [] := by rw [← hs, State.setCore_core]
  have read := readBench_read c ((s0.core c).phys row) src s0
  have delivers := readBench_delivers c row src s0
  have begun : OnlyCore c s s0 := hs ▸ onlyCore_setCore ..
  have same0 := begun.rows_same (by rw [core0, Core.staging_base])
  refine ⟨s0, ?_⟩
  generalize readBench c ((s0.core c).phys row) src s0 = d at read delivers ⊢
  obtain ⟨⟨l, core1⟩, others1, rest1, -, -⟩ := id read
  have runs1 (k : CoupeId) : d.2.run k = s0.run k := by rw [rest1]; rfl
  have queue1 (k : CoupeId) (h : BitVec 16) : d.2.queue k h = s.queue k h := by
    rw [State.queue, runs1]; exact begun.2.2.1.sameQueues k h
  have stages1 : (d.2.core c).outStage = (s.core c).outStage.set [] p [] := by rw [core1, core0]; rfl
  have taint1 : (d.2.core c).tainted = (s.core c).tainted := by rw [core1, core0]; simp
  obtain ⟨t, given, entered⟩ := pushItem_enters (it := .row d.1.1 d.1.2) ((queue1 ..).trans hq) own credit
    (by rw [stages1, Sparse.get_set_same])
  obtain ⟨⟨-, others, runs, rest⟩, ⟨o, core, stages⟩, queue, -⟩ := id entered
  have only := (begun.onlyGiving.trans read.onlyGiving).trans entered.onlyGiving
  refine ⟨t, room, given, ⟨⟨l, o, ?_, fun j => ?_⟩, ?_, ?_, only, ?_⟩, fun j ne => ?_⟩
  · rw [core, core1, core0, Core.pushed_staging]
  · rw [stages, stages1]
    by_cases e : j = p
    · subst e; rw [Sparse.get_set_same, empty]
    · exact Sparse.get_set_other _ _ _ _ _ e
  · exact (begun.2.1.trans others1).trans others
  · exact (begun.2.2.1.queueRuns.trans fun k => by rw [runs1]).trans runs
  · have queue := queue.before (s := s) queue1
    have stamp : sentNow d.2 = ⟨s.injected, injectionTime s.timebase⟩ := by
      have only := begun.onlyGiving.trans read.onlyGiving
      rw [sentNow, only.2, only.timebase]; rfl
    rw [delivers, (same0 row).1, (same0 row).2, Item.taintedBy, taint1, stamp] at queue
    exact queue
  · obtain ⟨row1, poison1⟩ := read.others_same j ne
    have kept : taskRow t c j = taskRow d.2 c j ∧ taskRowPoison t c j = taskRowPoison d.2 c j := by
      rw [taskRow, taskRow, taskRowPoison, taskRowPoison, core, Core.withStages_base, rest]; exact ⟨rfl, rfl⟩
    exact ⟨(kept.1.trans row1).trans (same0 j).1, (kept.2.trans poison1).trans (same0 j).2⟩

theorem Pushed.cons {c : CoreId} {k : CoupeId} {h : BitVec 16} {q q' : Queue} {row n : Nat} {s t u : State}
    (one : Pushed c k h q row 1 s t) (hq : t.queue k h = some q') (rows : Pushed c k h q' (row + 1) n t u)
    (same : ∀ j, j ≠ row → taskRow t c j = taskRow s c j ∧ taskRowPoison t c j = taskRowPoison s c j) :
    Pushed c k h q row (n + 1) s u := by
  obtain ⟨⟨l, o, core, stages⟩, others, runs, only, queue⟩ := one
  obtain ⟨⟨l', o', core', stages'⟩, others', runs', only', queue'⟩ := rows
  have taint : (t.core c).tainted = (s.core c).tainted := by rw [core]; simp
  have items : rowItems s c row 1 ++ rowItems t c (row + 1) n = rowItems s c row (n + 1) := by
    simp only [rowItems, taint, List.range_succ_eq_map (n := n), List.map_cons, List.map_map]
    refine congrArg _ (List.map_congr_left fun i _ => ?_)
    obtain ⟨data, poison⟩ := same (row + 1 + i) (by omega)
    rw [data, poison, Nat.add_assoc, Nat.add_comm 1 i]; rfl
  have stamps : stampsFrom s 1 ++ stampsFrom t n = stampsFrom s (n + 1) := by
    simp only [stampsFrom, only.2, only.timebase, List.range_succ_eq_map (n := n), List.map_cons, List.map_map]
    refine congrArg _ (List.map_congr_left fun i _ => ?_)
    rw [Nat.add_assoc, Nat.add_comm 1 i]; rfl
  obtain rfl : q' = _ := Option.some.inj (hq.symm.trans queue.1)
  refine ⟨⟨l', o', ?_, fun p => ?_⟩, others.trans others', runs.trans runs', ?_, ?_⟩
  · rw [core', core, Core.pushed_pushed]
  · rw [stages', core, Core.withStages_outStage]; exact stages p
  · rw [Nat.add_comm]; exact only.trans only'
  · have queue := queue.trans queue'
    simp only [List.append_assoc, items, stamps, Nat.sub_sub, Nat.add_comm 1 n] at queue
    exact queue

theorem pushRows_pushed {c : CoreId} {p : Nat} {b : Bound} (own : isSpanHandle b.handle = false) :
    ∀ (n row : Nat) (q : Queue) (s : State), s.queue b.coupe b.handle = some q → n ≤ q.credits →
      (s.core c).outStage.get [] p = [] →
      ∃ t, pushRows c p b n row s = (0, row + n, t) ∧ Pushed c b.coupe b.handle q row n s t
  | 0, row, q, s, hq, _, _ => ⟨s, rfl, .nil hq⟩
  | n + 1, row, q, s, hq, credits, empty => by
    obtain ⟨s0, t, room, given, one, same⟩ := pushRow_pushed (src := 1) (row := row) hq own (by omega) empty
    obtain ⟨⟨l, o, core, stages⟩, -, -, -, queue, -⟩ := id one
    obtain ⟨u, run, pushed⟩ := pushRows_pushed (c := c) (p := p) own n (row + 1) _ t queue
      (by simp only; omega) (by rw [core]; exact (stages p).trans empty)
    refine ⟨u, ?_, one.cons queue pushed same⟩
    simp only [pushRows, room, given, run]
    rw [Nat.add_assoc, Nat.add_comm 1 n]

theorem stays_withLog (x : Core) (l : BitVec 64) : Stays x (x.withLog l) := ⟨rfl, rfl, rfl, rfl, rfl⟩
theorem stays_withStages (x : Core) (o : Sparse (List Item)) : Stays x (x.withStages o) := ⟨rfl, rfl, rfl, rfl, rfl⟩

/-- The core of a task that gave `k` of `n` rows: its registers follow, and its error log and staging are `l` and `o`. -/
def Core.gave (x : Core) (f : Fields) (row n k : Nat) (l : BitVec 64) (o : Sparse (List Item)) : Core :=
  ((x.moved f row n k).withLog l).withStages o

theorem Core.wr_given (x : Core) (l : BitVec 64) (o : Sparse (List Item)) (r : Nat) (v : BitVec 64) (p : Bool) :
    ((x.withLog l).withStages o).wr r v p = ((x.wr r v p).withLog l).withStages o := by
  unfold Core.wr
  split <;> rfl

section
variable (x : Core) (f : Fields) (row n k : Nat) (l : BitVec 64) (o : Sparse (List Item))

theorem Core.gave_eq : x.gave f row n k l o
    = ((((x.taint (x.rdP f.a.toNat || x.rdP f.b.toNat)).withLog l).withStages o).wr f.a.toNat (BitVec.ofNat 64 (row + k))
        (x.rdP f.a.toNat)).wr f.b.toNat (BitVec.ofNat 64 (n - k)) (x.rdP f.b.toNat) := by
  rw [Core.wr_given, Core.wr_given]; rfl

theorem Core.gave_tainted : (x.gave f row n k l o).tainted = (x.moved f row n k).tainted := rfl
theorem Core.gave_rd (r : Nat) : (x.gave f row n k l o).rd r = (x.moved f row n k).rd r := rfl
theorem Core.gave_lastQueue : (x.gave f row n k l o).lastQueue = x.lastQueue :=
  (show _ = (x.moved f row n k).lastQueue from rfl).trans (Core.moved_lastQueue ..)

theorem stays_gave : Stays x (x.gave f row n k l o) :=
  ((stays_moved x f row n k).trans (stays_withLog ..)).trans (stays_withStages ..)

theorem portFrame_gave (same : ∀ p, o.get [] p = x.outStage.get [] p) : PortFrame x (x.gave f row n k l o) := by
  have frame := taintFrame_moved x f row n k
  generalize hy : x.moved f row n k = y at frame
  rw [Core.gave, hy]
  exact ⟨by rw [Core.withLog, Core.withStages, frame], same⟩

end

section
variable {c : CoreId} {f : Fields} {stop : Option Nat} {s t : State} {b : Bound}

/-- The effect of PUSH, once it has given `k` rows and `left` are to go before its limit. -/
theorem push_body (hb : portQueue s c (4 + f.sel.toNat) = some b) {k left : Nat} {l : BitVec 64} {o : Sparse (List Item)}
    (core : t.core c = (((taintedBy c f s).core c).withLog l).withStages o)
    (limit : pauseAt stop (countArg c f s) - left = k)
    (run : pushRows c (4 + f.sel.toNat) b (pauseAt stop (countArg c f s)) (rowArg c f s) (taintedBy c f s)
      = (left, rowArg c f s + k, t)) :
    ∃ body, exec (.push c f stop) s = issue c Op.push f [(.illegal, !Form.ok ⟨0, 5, 5, 4, 0, 0⟩ f),
        (.bound, !(s.core c).rowsIn (rowArg c f s) (countArg c f s)), (.stream, (some b).isNone)] body s
      ∧ body s = if countArg c f s - k = 0 then
          completeWith c ((s.core c).gave f (rowArg c f s) (countArg c f s) k l o) t
        else if countArg c f s - k < countArg c f s then
          progress (if left = 0 then pauseWith c ((s.core c).gave f (rowArg c f s) (countArg c f s) k l o) t
            else stallOut c ((s.core c).gave f (rowArg c f s) (countArg c f s) k l o) b t) c
        else if left = 0 then pauseWith c ((s.core c).gave f (rowArg c f s) (countArg c f s) k l o) t
          else stallOut c ((s.core c).gave f (rowArg c f s) (countArg c f s) k l o) b t := by
  have run' : pushRows c (4 + f.sel.toNat) b (pauseAt stop (countArg c f s)) (rowArg c f s)
      (s.setCore c ((s.core c).taint ((s.core c).rdP f.a.toNat || (s.core c).rdP f.b.toNat)))
      = (left, rowArg c f s + k, t) := run
  refine ⟨_, by rw [← hb]; exact exec_push c f stop s, ?_⟩
  simp only [hb, run', limit, core, taintedBy, State.setCore_core, Core.gave_eq]

/-- Once PUSH has given all rows up to its limit, it completes when none is left and pauses otherwise. -/
theorem push_finishes (hb : portQueue s c (4 + f.sel.toNat) = some b) (ok : Form.ok ⟨0, 5, 5, 4, 0, 0⟩ f = true)
    (inside : (s.core c).rowsIn (rowArg c f s) (countArg c f s) = true) (hs : Starts (.push c f stop) s)
    {l : BitVec 64} {o : Sparse (List Item)} (core : t.core c = (((taintedBy c f s).core c).withLog l).withStages o)
    (run : pushRows c (4 + f.sel.toNat) b (pauseAt stop (countArg c f s)) (rowArg c f s) (taintedBy c f s)
      = (0, rowArg c f s + pauseAt stop (countArg c f s), t)) :
    ∃ t', exec (.push c f stop) s = .next t' ∧ OnlyCore c t t'
      ∧ EndsOrPauses Op.push f (pauseAt stop (countArg c f s) = countArg c f s) (s.core c) (t'.core c)
      ∧ Bookkept ((s.core c).gave f (rowArg c f s) (countArg c f s) (pauseAt stop (countArg c f s)) l o) (t'.core c) := by
  have limit := pauseAt_le stop (countArg c f s)
  obtain ⟨body, ex, effect⟩ := push_body hb core (Nat.sub_zero _) run
  have legal : ∀ k ∈ [(ExcClass.illegal, !Form.ok ⟨0, 5, 5, 4, 0, 0⟩ f),
      (.bound, !(s.core c).rowsIn (rowArg c f s) (countArg c f s)), (.stream, (some b).isNone)], k.2 = false := by
    simp [ok, inside]
  have stays := stays_gave (s.core c) f (rowArg c f s) (countArg c f s) (pauseAt stop (countArg c f s)) l o
  have last := Core.gave_lastQueue (s.core c) f (rowArg c f s) (countArg c f s) (pauseAt stop (countArg c f s)) l o
  have finished : pauseAt stop (countArg c f s) = countArg c f s ↔ countArg c f s - pauseAt stop (countArg c f s) = 0 := by
    omega
  simp only [EndsOrPauses, finished]
  by_cases done : countArg c f s - pauseAt stop (countArg c f s) = 0
  · rw [if_pos done] at effect
    obtain ⟨t', run', only, ends, kept⟩ := exec_ends rfl hs legal ex stays last effect
    exact ⟨t', run', only, ⟨fun _ => ends, absurd done⟩, kept⟩
  · simp only [if_neg done, if_true] at effect
    obtain ⟨noted, same⟩ := onlyCore_progress_if c
      (countArg c f s - pauseAt stop (countArg c f s) < countArg c f s)
      (pauseWith c ((s.core c).gave f (rowArg c f s) (countArg c f s) (pauseAt stop (countArg c f s)) l o) t)
    obtain ⟨t', run', only, pauses, kept⟩ := exec_pauses rfl hs legal ex stays rfl effect
      (same.trans (by simp [pauseWith])) ((onlyCore_setCore ..).trans noted)
    exact ⟨t', run', only, ⟨(absurd · done), fun _ => pauses⟩, kept⟩

/-- A full port without a credit has no room. -/
theorem portRoom_full {p : Nat} (full : ((s.core c).outStage.get [] p).length = 4)
    (hq : s.queue b.coupe b.handle = some b.queue) (credits : b.queue.credits = 0) : portRoom c p b s = none := by
  have stuck (it : Item) : sendItem b.coupe b.handle b.queue it s = none := by simp [sendItem, credits]
  obtain ⟨it, rest, held⟩ : ∃ it rest, (s.core c).outStage.get [] p = it :: rest :=
    List.exists_cons_of_length_eq_add_one full
  rw [held] at full
  simp [portRoom, releasePort, releaseItems, held, hq, stuck, full]

theorem stallOut_queue {x : Core} {q : Queue} (hq : s.queue b.coupe b.handle = some q) :
    QueueIs b.coupe b.handle { q with prodFull := q.prodFull + 1 } s (stallOut c x b s) := by
  simp only [stallOut, hq]
  exact (setQueue_is ..).after (stallWith_spec ..).2.2.2.1.sameQueues

/-- PUSH into a full port without a credit waits in OUT_FULL and gives nothing. -/
theorem push_waits (hb : portQueue s c (4 + f.sel.toNat) = some b) (ok : Form.ok ⟨0, 5, 5, 4, 0, 0⟩ f = true)
    (inside : (s.core c).rowsIn (rowArg c f s) (countArg c f s) = true) (hs : Starts (.push c f stop) s)
    (full : ((s.core c).outStage.get [] (4 + f.sel.toNat)).length = 4) (credits : b.queue.credits = 0)
    (some : pauseAt stop (countArg c f s) ≠ 0) :
    ∃ t', exec (.push c f stop) s = .next t' ∧ OnlyCoreAndQueues c s t'
      ∧ WaitsQueued Op.push f .outFull (s.core c) (t'.core c)
      ∧ Bookkept ((s.core c).gave f (rowArg c f s) (countArg c f s) 0 (s.core c).errLog (s.core c).outStage) (t'.core c)
      ∧ QueueIs b.coupe b.handle { b.queue with prodFull := b.queue.prodFull + 1 } s t' := by
  have limit := pauseAt_le stop (countArg c f s)
  have begun : OnlyCore c s (taintedBy c f s) := onlyCore_setCore ..
  have hq : (taintedBy c f s).queue b.coupe b.handle = .some b.queue := portQueue_queue (s := s) hb
  have core : (taintedBy c f s).core c = (s.core c).taint ((s.core c).rdP f.a.toNat || (s.core c).rdP f.b.toNat) := by
    simp [taintedBy]
  have room : portRoom c (4 + f.sel.toNat) b (taintedBy c f s) = none :=
    portRoom_full (by rw [core]; exact full) hq credits
  have run : pushRows c (4 + f.sel.toNat) b (pauseAt stop (countArg c f s)) (rowArg c f s) (taintedBy c f s)
      = (pauseAt stop (countArg c f s), rowArg c f s + 0, taintedBy c f s) := by
    obtain ⟨m, hm⟩ := Nat.exists_eq_succ_of_ne_zero some
    rw [hm]; simp [pushRows, room]
  obtain ⟨body, ex, effect⟩ := push_body (l := (s.core c).errLog) (o := (s.core c).outStage) hb (by rw [core]; rfl)
    (Nat.sub_self _) run
  have pending : countArg c f s ≠ 0 := by omega
  simp only [Nat.sub_zero, pending, some, if_false, Nat.lt_irrefl] at effect
  obtain ⟨stalled, only⟩ := stallOut_spec c ((s.core c).gave f (rowArg c f s) (countArg c f s) 0 (s.core c).errLog
    (s.core c).outStage) b (taintedBy c f s)
  obtain ⟨t', run', after, waits, kept⟩ := exec_waits rfl hs (by simp [ok, inside]) ex (stays_gave ..) rfl effect stalled
  refine ⟨t', run', (begun.onlyCoreAndQueues.trans only).trans after.onlyCoreAndQueues, waits, kept, ?_⟩
  exact ((stallOut_queue hq).before begun.2.2.1.sameQueues).after after.2.2.1.sameQueues

end

/-- Settles O7: the loops over the rows of the staging and over the rows of the bench, each followed row by row. -/
theorem rowsOfAPort : Obligations.RowsOfAPort := by
  unfold Obligations.RowsOfAPort
  refine ⟨fun c f stop s b rows rest hb ok inside staged stops hs => ?pop, fun c f stop s b hb ok inside hs => ?push⟩
  case pop =>
    have hq : (taintedBy c f s).queue b.coupe b.handle = some b.queue := (portQueue_queue hb : s.queue _ _ = _)
    obtain ⟨t, run, popped⟩ := popRows_popped (c := c) rows rest b.queue (pauseAt stop (countArg c f s)) (rowArg c f s) _
      hq staged stops
    obtain ⟨t', ex, after, kept, waits, ends, queue⟩ :=
      pop_finishes hb ok inside hs stops popped (popped.cores c) run
    have left := popped.left after kept
    exact ⟨t', ex, left.stored, left.bytes, left.cores, left.runs, left.only, waits, ends, left.frame, left.tainted,
      left.registers, queue⟩
  case push =>
    refine ⟨fun own empty credits => ?gave, fun full none some => ?waits⟩
    case gave =>
      have begun : OnlyCore c s (taintedBy c f s) := onlyCore_setCore ..
      have core : (taintedBy c f s).core c = (s.core c).taint ((s.core c).rdP f.a.toNat || (s.core c).rdP f.b.toNat) := by
        simp [taintedBy]
      obtain ⟨t, run, ⟨⟨l, o, log, stages⟩, others, runs, only, queue⟩⟩ := pushRows_pushed (c := c) (p := 4 + f.sel.toNat)
        own (pauseAt stop (countArg c f s)) (rowArg c f s) b.queue (taintedBy c f s) (portQueue_queue (s := s) hb) credits
        (by rw [core]; exact empty)
      obtain ⟨t', ex, after, ends, kept⟩ := push_finishes hb ok inside hs log run
      have taint := kept.tainted.trans ((Core.gave_tainted ..).trans (Core.moved_tainted ..))
      have all := (begun.onlyGiving.trans only).trans after.onlyGiving
      rw [Nat.zero_add, Nat.add_zero] at all
      have items : rowItems (taintedBy c f s) c (rowArg c f s) (pauseAt stop (countArg c f s))
          = (List.range (pauseAt stop (countArg c f s))).map fun i => .row (taskRow s c (rowArg c f s + i))
              (taskRowPoison s c (rowArg c f s + i) || (t'.core c).tainted) := by
        simp only [rowItems, (begun.rows_same (by rw [core]; rfl) _).1, (begun.rows_same (by rw [core]; rfl) _).2, core, taint,
          Core.taint_tainted, Bool.or_assoc]
      refine ⟨t', _, ex, fun a => by rw [all.1], (begun.2.1.trans others).trans after.2.1,
        (begun.2.2.1.queueRuns.trans runs).trans after.2.2.1.queueRuns, ?_, ends, ?_, taint, fun r => ?_,
        (queue.before begun.2.2.1.sameQueues).after after.2.2.1.sameQueues, rfl, ?_, rfl⟩
      · rw [← all.2]; exact all.1
      · exact (portFrame_gave _ _ _ _ _ _ _ (by rw [core] at stages; exact stages)).trans kept.portFrame
      · rw [kept.rd, Core.gave_rd, Core.moved_rd]
      · rw [items]
    case waits =>
      obtain ⟨t', ex, ⟨bytes, others, -, rest⟩, waits, kept, queue⟩ := push_waits hb ok inside hs full none some
      refine ⟨t', ex, bytes, others, by rw [rest], waits, (portFrame_gave _ _ _ _ _ _ _ fun _ => rfl).trans kept.portFrame,
        fun r => ?_, queue⟩
      rw [kept.rd, Core.gave_rd, Core.moved_rd]
      split
      next zero => rw [zero]; rfl
      split
      next b => rw [b]; simp [countArg]
      split
      next a => rw [a]; simp [rowArg]
      rfl

end Sys2Proof.Machine
end

section
/-! PROOFS. RDW, LDV, STV and BCOPY (R77, R85, R91, R114, R115). -/

namespace Sys2Proof.Machine

theorem OnlyCoreReading.trans {c : CoreId} {s t u : State} (h : OnlyCoreReading c s t) (g : OnlyCoreReading c t u) :
    OnlyCoreReading c s u := by
  obtain ⟨hb, hc, hr, he⟩ := h
  obtain ⟨gb, gc, gr, ge⟩ := g
  exact ⟨hb.trans gb, hc.trans gc, hr.trans gr, by rw [ge, he]⟩

theorem OnlyCore.reading {c : CoreId} {s t : State} (h : OnlyCore c s t) : OnlyCoreReading c s t := by
  obtain ⟨hb, hc, hr, he⟩ := h
  exact ⟨hb, hc, hr, by rw [he]⟩

theorem Bookkept.rdP {y z : Core} (h : Bookkept y z) (r : Nat) : z.rdP r = y.rdP r := by rw [h]; rfl
theorem Bookkept.g {y z : Core} (h : Bookkept y z) : z.g = y.g ∧ z.gPoison = y.gPoison := by rw [h]; exact ⟨rfl, rfl⟩

theorem Bookkept.scalarIs {d : BitVec 5} {v : BitVec 64} {p : Bool} {x y z : Core} (k : Bookkept y z)
    (h : ScalarIs d v p x y) : ScalarIs d v p x z :=
  scalarIs_of h k.g.1 k.g.2

theorem Bookkept.vectorIs {d : Nat} {ls : List F32} {p : Bool} {x y z : Core} (k : Bookkept y z)
    (h : VectorIs d ls p x y) : VectorIs d ls p x z := by
  simp only [VectorIs, Core.vec, Core.vecP] at h ⊢
  rw [k.v, k.vPoison]
  exact h

section
variable (x : Core) (l : BitVec 64)

theorem stays_wrVec (d : Nat) (ls : List F32) (p : Bool) : Stays x (x.wrVec d ls p) := ⟨rfl, rfl, rfl, rfl, rfl⟩
theorem readFrame_withLog : ReadFrame x (x.withLog l) := rfl
@[simp] theorem Core.withLog_v : (x.withLog l).v = x.v := rfl
@[simp] theorem Core.withLog_vPoison : (x.withLog l).vPoison = x.vPoison := rfl
@[simp] theorem Core.withLog_g : (x.withLog l).g = x.g := rfl
@[simp] theorem Core.withLog_gPoison : (x.withLog l).gPoison = x.gPoison := rfl
@[simp] theorem Core.withLog_lastQueue : (x.withLog l).lastQueue = x.lastQueue := rfl

end

/-- An immediate within its form (R76). -/
theorem Form.imm_lt {m : Form} {f : Fields} (h : Form.ok m f = true) : f.imm.toNat < 2 ^ m.imm := by
  simp only [Form.ok, Bool.and_eq_true, decide_eq_true_eq] at h
  exact h.2

theorem scalarIs_wr {x y : Core} (h : ScalarIs 0 0 false x y) (d : BitVec 5) (v : BitVec 64) (p : Bool) :
    ScalarIs d v p x (y.wr d.toNat v p) := by
  refine ⟨fun r => ?_, fun r => ?_⟩
  · rw [(Core.wr_scalar y d v p).1, h.1]; simp
  · rw [(Core.wr_scalar y d v p).2, h.2]; simp

theorem vectorIs_wrVec_of {x y : Core} {d : Nat} {ls : List F32} {p : Bool} (hv : y.v = x.v) (hp : y.vPoison = x.vPoison)
    (h : ls.length = 64) : VectorIs d ls p x (y.wrVec d ls p) := by
  obtain ⟨same, poison, others⟩ := vectorIs_wrVec y d ls p h
  refine ⟨same, poison, fun r ne => ?_⟩
  simp only [Core.vec, Core.vecP, ← hv, ← hp]
  exact others r ne

theorem taintFrame_taint (x : Core) (p : Bool) : TaintFrame x (x.taint p) := rfl

/-! ## Reads of one row -/

/-- The core that has read a row: its task is tainted by a poisoned row number, and its error log is `l`. -/
def Core.readOne (x : Core) (p : Bool) (l : BitVec 64) : Core := (x.taint p).withLog l

section
variable (x : Core) (p : Bool) (l : BitVec 64)

theorem stays_readOne : Stays x (x.readOne p l) := (stays_taint x p).trans (stays_withLog ..)
theorem readFrame_readOne : ReadFrame x (x.readOne p l) := (readFrame_taint x p).trans (readFrame_withLog ..)
theorem Core.readOne_same : (x.readOne p l).g = x.g ∧ (x.readOne p l).gPoison = x.gPoison ∧ (x.readOne p l).v = x.v
    ∧ (x.readOne p l).vPoison = x.vPoison ∧ (x.readOne p l).tainted = (x.tainted || p)
    ∧ (x.readOne p l).lastQueue = x.lastQueue := ⟨rfl, rfl, rfl, rfl, rfl, rfl⟩

end

/-- One row read by the task, whose row number has poison `p`. -/
theorem reads_row (c : CoreId) (p : Bool) (rel : Nat) (s : State) :
    ∃ l t, readBench c ((s.core c).phys rel) 1 (s.setCore c ((s.core c).taint p)) = ((taskRow s c rel, taskRowPoison s c rel), t)
      ∧ t.core c = (s.core c).readOne p l ∧ OnlyCoreReading c s t := by
  have begun := onlyCore_setCore c ((s.core c).taint p) s
  have core : (s.setCore c ((s.core c).taint p)).core c = (s.core c).taint p := State.setCore_core ..
  have delivers := readBench_delivers c rel 1 (s.setCore c ((s.core c).taint p))
  have same := begun.rows_same (by rw [core]; rfl) rel
  have phys : ((s.setCore c ((s.core c).taint p)).core c).phys rel = (s.core c).phys rel := by rw [core]; rfl
  rw [phys, same.1, same.2] at delivers
  have read := readBench_read c ((s.core c).phys rel) 1 (s.setCore c ((s.core c).taint p))
  obtain ⟨l, log⟩ := read.core
  exact ⟨l, _, Prod.ext delivers rfl, by rw [log, core]; rfl, begun.reading.trans read.onlyReading⟩

/-! ## BCOPY -/

/-- From `s` to `t` core `c` has copied `n` rows of its task from row `a` on to row `d` on. -/
structure Copied (c : CoreId) (d a n : Nat) (s t : State) : Prop where
  core : ∃ l, t.core c = (s.core c).withLog l
  only : OnlyCoreAndRows c ((s.core c).base.toNat + d) n s t
  otherRow : ∀ j, (j < d ∨ d + n ≤ j) → taskRow t c j = taskRow s c j
  rows : d ≤ a ∨ a + n ≤ d → ∀ i, i < n → taskRow t c (d + i) = taskRow s c (a + i)

theorem Copied.nil (c : CoreId) (d a : Nat) (s : State) : Copied c d a 0 s s where
  core := ⟨(s.core c).errLog, rfl⟩
  only := ⟨fun _ _ => rfl, fun _ _ => rfl, fun _ => rfl, rfl⟩
  otherRow _ _ := rfl
  rows _ i h := absurd h (Nat.not_lt_zero i)

/-- Rows changed one after another. -/
theorem OnlyCoreAndRows.trans {c : CoreId} {r m n : Nat} {s t u : State} (h : OnlyCoreAndRows c r m s t)
    (g : OnlyCoreAndRows c (r + m) n t u) : OnlyCoreAndRows c r (m + n) s u := by
  obtain ⟨hb, hc, hr, he⟩ := h
  obtain ⟨gb, gc, gr, ge⟩ := g
  have le : benchAddr c r ≤ benchAddr c (r + m) := by unfold benchAddr; omega
  have le' : benchAddr c (r + m) ≤ benchAddr c (r + m + n) := by unfold benchAddr; omega
  rw [OnlyCoreAndRows, ← Nat.add_assoc]
  exact ⟨fun a ha => (gb a (ha.imp (by omega) id)).trans (hb a (ha.imp id (by omega))), hc.trans gc, hr.trans gr,
    by rw [ge, he]⟩

theorem OnlyCoreReading.andRows {c : CoreId} {r n : Nat} {s t u : State} (h : OnlyCoreReading c s t)
    (g : OnlyCoreAndRows c r n t u) : OnlyCoreAndRows c r n s u := by
  obtain ⟨hb, hc, hr, he⟩ := h
  obtain ⟨gb, gc, gr, ge⟩ := g
  exact ⟨fun a ha => (gb a ha).trans (hb a), hc.trans gc, hr.trans gr, by rw [ge, he]⟩

theorem OnlyCoreAndRows.reading {c : CoreId} {r n : Nat} {s t u : State} (h : OnlyCoreAndRows c r n s t)
    (g : OnlyCoreReading c t u) : OnlyCoreAndRows c r n s u := by
  obtain ⟨hb, hc, hr, he⟩ := h
  obtain ⟨gb, gc, gr, ge⟩ := g
  exact ⟨fun a ha => (gb a).trans (hb a ha), hc.trans gc, hr.trans gr, by rw [ge, he]⟩

theorem onlyCoreAndRows_taskWrite (c : CoreId) (r : Nat) (d : Row) (p : Bool) (s : State) :
    OnlyCoreAndRows c r 1 s (taskWrite c r d p s) :=
  ⟨(taskWrite_stored c r d p s).byte, fun _ _ => rfl, fun _ => rfl, rfl⟩

/-- One row copied. -/
theorem copied_one (c : CoreId) (d a src : Nat) (s : State) :
    Copied c d a 1 s (taskWrite c ((s.core c).phys d) (readBench c ((s.core c).phys a) src s).1.1
      (readBench c ((s.core c).phys a) src s).1.2 (readBench c ((s.core c).phys a) src s).2) := by
  have read := readBench_read c ((s.core c).phys a) src s
  have delivers := readBench_delivers c a src s
  generalize readBench c ((s.core c).phys a) src s = v at read delivers ⊢
  rw [delivers]
  have stored := taskWrite_stored c ((s.core c).phys d) (taskRow s c a) (taskRowPoison s c a) v.2
  have only := onlyCoreAndRows_taskWrite c ((s.core c).phys d) (taskRow s c a) (taskRowPoison s c a) v.2
  obtain ⟨l, log⟩ := read.core
  have mem : v.2.mem = s.mem := by rw [read.rest]
  have core : (taskWrite c ((s.core c).phys d) (taskRow s c a) (taskRowPoison s c a) v.2).core c = (s.core c).withLog l := log
  generalize taskWrite c ((s.core c).phys d) (taskRow s c a) (taskRowPoison s c a) v.2 = t at stored only core ⊢
  refine ⟨⟨l, core⟩, read.onlyReading.andRows only, fun j hj => ?_, fun _ i hi => ?_⟩
  · rw [taskRow, taskRow, core, Core.withLog_base, ← mem]
    exact stored.otherRow (benchAddr c ((s.core c).base.toNat + j)) (by
      simp only [benchAddr, Core.phys, List.length_singleton]; omega)
  · obtain rfl : i = 0 := by omega
    rw [taskRow, core, Core.withLog_base, Nat.add_zero, Nat.add_zero]
    exact stored.row 0 (by simp)

theorem Copied.cons {c : CoreId} {d a n : Nat} {s t u : State} (h : Copied c d a 1 s t) (g : Copied c (d + 1) (a + 1) n t u) :
    Copied c d a (n + 1) s u := by
  obtain ⟨⟨l, core⟩, only, otherRow, rows⟩ := h
  obtain ⟨⟨l', core'⟩, only', otherRow', rows'⟩ := g
  rw [core, Core.withLog_base, ← Nat.add_assoc] at only'
  refine ⟨⟨l', by rw [core', core]; rfl⟩, ?_, fun j hj => ?_, fun apart i hi => ?_⟩
  · rw [Nat.add_comm n]; exact only.trans only'
  · exact (otherRow' j (by omega)).trans (otherRow j (by omega))
  · cases i with
    | zero => exact (otherRow' _ (by omega)).trans (rows (by omega) 0 (by omega))
    | succ i =>
      have moved := (rows' (by omega) i (by omega)).trans (otherRow _ (by omega))
      rwa [Nat.add_assoc, Nat.add_comm 1 i, Nat.add_assoc, Nat.add_comm 1 i] at moved

theorem copyRows_copied (c : CoreId) : ∀ (n d a : Nat) (s : State), Copied c d a n s (copyRows c n d a s)
  | 0, d, a, s => .nil c d a s
  | n + 1, d, a, s => (copied_one c d a 1 s).cons (copyRows_copied c n (d + 1) (a + 1) _)

/-- Three scalar registers written, one after the other. -/
theorem Core.wr_wr_wr_rd (x : Core) (a b d : Nat) (u v w : BitVec 64) (p q z : Bool) (r : Nat) :
    (((x.wr a u p).wr b v q).wr d w z).rd r
      = if r = 0 then 0 else if r = d then w else if r = b then v else if r = a then u else x.rd r := by
  by_cases zero : r = 0
  · simp [zero, Core.rd]
  · simp [Core.wr_rd, zero]

/-- Whether BCOPY's rows or count are poisoned. -/
abbrev copyTaint (x : Core) (f : Fields) : Bool := x.rdP f.d.toNat || x.rdP f.a.toNat || x.rdP f.b.toNat

/-- The core of a task that copied `k` of `n` rows: its registers follow. -/
def Core.copied (x : Core) (f : Fields) (n k : Nat) (l : BitVec 64) : Core :=
  (((x.readOne (copyTaint x f) l).wr f.d.toNat (BitVec.ofNat 64 ((x.rd f.d.toNat).toNat + k)) (x.rdP f.d.toNat)).wr f.a.toNat
    (BitVec.ofNat 64 ((x.rd f.a.toNat).toNat + k)) (x.rdP f.a.toNat)).wr f.b.toNat (BitVec.ofNat 64 (n - k)) (x.rdP f.b.toNat)

section
variable (x : Core) (f : Fields) (n k : Nat) (l : BitVec 64)

theorem stays_copied : Stays x (x.copied f n k l) :=
  (((stays_readOne ..).trans (stays_wr ..)).trans (stays_wr ..)).trans (stays_wr ..)

theorem readFrame_copied : ReadFrame x (x.copied f n k l) :=
  (((readFrame_readOne ..).trans (readFrame_wr ..)).trans (readFrame_wr ..)).trans (readFrame_wr ..)

theorem Core.copied_lastQueue : (x.copied f n k l).lastQueue = x.lastQueue := by simp [Core.copied, Core.readOne]
theorem Core.copied_v : (x.copied f n k l).v = x.v := by simp [Core.copied, Core.readOne]
theorem Core.copied_vPoison : (x.copied f n k l).vPoison = x.vPoison := by simp [Core.copied, Core.readOne]
theorem Core.copied_tainted : (x.copied f n k l).tainted
    = (x.tainted || x.rdP f.d.toNat || x.rdP f.a.toNat || x.rdP f.b.toNat) := by
  simp [Core.copied, Core.readOne, Bool.or_assoc]

theorem Core.copied_rd (r : Nat) : (x.copied f n k l).rd r = if r = 0 then 0
    else if r = f.b.toNat then BitVec.ofNat 64 (n - k)
    else if r = f.a.toNat then BitVec.ofNat 64 ((x.rd f.a.toNat).toNat + k)
    else if r = f.d.toNat then BitVec.ofNat 64 ((x.rd f.d.toNat).toNat + k) else x.rd r := Core.wr_wr_wr_rd ..

end

/-- Settles O8: each instruction reads or writes its rows and completes, and BCOPY does so row by row. -/
theorem benchReadsAndWrites : Obligations.BenchReadsAndWrites := by
  unfold Obligations.BenchReadsAndWrites
  refine ⟨fun c f s inside => ⟨fun ok hs => ?rdw, fun ok part hs => ?ldv⟩, fun c f s => ⟨fun ok pair hs inside => ?stv,
    fun stop ok hs target source => ?bcopy⟩⟩
  case rdw =>
    obtain ⟨l, t, read, core, only⟩ := reads_row c ((s.core c).rdP f.a.toNat) ((s.core c).rd f.a.toNat).toNat s
    obtain ⟨g, gPoison, v, vPoison, tainted, last⟩ := (s.core c).readOne_same ((s.core c).rdP f.a.toNat) l
    have frame := readFrame_readOne (s.core c) ((s.core c).rdP f.a.toNat) l
    have stays := stays_readOne (s.core c) ((s.core c).rdP f.a.toNat) l
    obtain ⟨t', ex, after, ends, kept⟩ := exec_ends (i := .rdw c f) (t := t) rfl hs (by simp [ok, inside]) (exec_rdw c f s)
      (stays.trans (stays_wr _ f.d.toNat (Row.word64 (taskRow s c ((s.core c).rd f.a.toNat).toNat) (f.imm.toNat % 64))
        (taskRowPoison s c ((s.core c).rd f.a.toNat).toNat))) (by simp [last]) (by simp only [read, core])
    have word : f.imm.toNat % 64 = f.imm.toNat := Nat.mod_eq_of_lt (Form.imm_lt ok)
    rw [word] at kept
    refine ⟨t', ex, only.trans after.reading, ends, (frame.trans (readFrame_wr ..)).trans kept.readFrame,
      kept.scalarIs ?_, by rw [kept.v, Core.wr_v, v], by rw [kept.vPoison, Core.wr_vPoison, vPoison],
      by rw [kept.tainted, Core.wr_tainted, tainted]⟩
    exact scalarIs_wr (scalarIs_of (scalarIs_same _) g gPoison) ..
  case ldv =>
    obtain ⟨l, t, read, core, only⟩ := reads_row c ((s.core c).rdP f.a.toNat) ((s.core c).rd f.a.toNat).toNat s
    obtain ⟨g, gPoison, v, vPoison, tainted, last⟩ := (s.core c).readOne_same ((s.core c).rdP f.a.toNat) l
    have frame := readFrame_readOne (s.core c) ((s.core c).rdP f.a.toNat) l
    have stays := stays_readOne (s.core c) ((s.core c).rdP f.a.toNat) l
    obtain ⟨t', ex, after, ends, kept⟩ := exec_ends (i := .ldv c f) (t := t) rfl hs
      (by simpa [ok, inside] using part)
      (exec_ldv c f s) (stays.trans (stays_wrVec _ f.d.toNat (loadVec f.sel.toNat f.imm.toNat
        (taskRow s c ((s.core c).rd f.a.toNat).toNat)) (taskRowPoison s c ((s.core c).rd f.a.toNat).toNat)))
      (by simp [last]) (by simp only [read, core])
    refine ⟨t', ex, only.trans after.reading, ends, (frame.trans (readFrame_wrVec ..)).trans kept.readFrame,
      kept.vectorIs ?_, kept.g.1.trans g, kept.g.2.trans gPoison, kept.tainted.trans tainted⟩
    exact vectorIs_wrVec_of v vPoison (by simp)
  case stv =>
    have begun := onlyCore_setCore c ((s.core c).taint ((s.core c).rdP f.a.toNat)) s
    have core : (s.setCore c ((s.core c).taint ((s.core c).rdP f.a.toNat))).core c
      = (s.core c).taint ((s.core c).rdP f.a.toNat) := State.setCore_core ..
    obtain ⟨t', ex, after, ends, kept⟩ := exec_ends (i := .stv c f) rfl hs (by simp [ok, pair, inside]) (exec_stv c f s)
      (stays_taint _ ((s.core c).rdP f.a.toNat)) (by simp) (congrArg (completeWith c · _) core)
    have stored := taskWrite_stored c ((s.core c).phys ((s.core c).rd f.a.toNat).toNat)
      (rowOfVecs ((s.core c).vec f.d.toNat) ((s.core c).vec (f.d.toNat + 1)))
      ((s.core c).vecP f.d.toNat || (s.core c).vecP (f.d.toNat + 1))
      (s.setCore c ((s.core c).taint ((s.core c).rdP f.a.toNat)))
    have frame := (taintFrame_taint (s.core c) ((s.core c).rdP f.a.toNat)).trans kept.taintFrame
    have base : (t'.core c).base = (s.core c).base := by rw [frame]
    have taint : (t'.core c).tainted = ((s.core c).tainted || (s.core c).rdP f.a.toNat) := kept.tainted
    have stored := stored.around (s' := s) (t' := t') rfl rfl (by rw [after.2.2.2]) (by rw [after.2.2.2])
    simp only [core, Core.taint_tainted] at stored
    refine ⟨t', ex, begun.reading.andRows (onlyCoreAndRows_taskWrite ..) |>.reading after.reading, ends, frame,
      kept.scalarIs (scalarIs_of (scalarIs_same _) rfl rfl), taint, ?_, ?_⟩
    · rw [taskRow, base]; exact stored.row 0 (by simp)
    · rw [taint]; exact stored.poison 0 (by simp)
  case bcopy =>
    have begun := onlyCore_setCore c ((s.core c).taint (copyTaint (s.core c) f)) s
    have core : (s.setCore c ((s.core c).taint (copyTaint (s.core c) f))).core c = (s.core c).taint (copyTaint (s.core c) f) :=
      State.setCore_core ..
    obtain ⟨⟨l, log⟩, only, -, rows⟩ := copyRows_copied c (pauseAt stop ((s.core c).rd f.b.toNat).toNat)
      ((s.core c).rd f.d.toNat).toNat ((s.core c).rd f.a.toNat).toNat (s.setCore c ((s.core c).taint (copyTaint (s.core c) f)))
    have limit := pauseAt_le stop ((s.core c).rd f.b.toNat).toNat
    obtain ⟨t', ex, after, ends, kept⟩ := exec_ends_or_pauses (i := .bcopy c f stop) rfl hs (by simp [ok, target, source])
      (exec_bcopy c f stop s) (stays_copied ..) rfl (Core.copied_lastQueue ..) (by simp only [log, core]; rfl)
    have frame := (readFrame_copied (s.core c) f _ _ l).trans kept.readFrame
    have base : (t'.core c).base = (s.core c).base := by rw [frame]
    rw [core, Core.taint_base] at only
    refine ⟨t', ex, (begun.reading.andRows only).reading after.reading, ends, frame, kept.v.trans (Core.copied_v ..),
      kept.vPoison.trans (Core.copied_vPoison ..), kept.tainted.trans (Core.copied_tainted ..), fun r => ?_,
      fun apart i hi => ?_⟩
    · rw [kept.rd, Core.copied_rd]
    · have last := after.rows_same (by rw [log, Core.withLog_base, core, Core.taint_base]; exact base)
        (((s.core c).rd f.d.toNat).toNat + i)
      have first := begun.rows_same (by rw [core, Core.taint_base]) (((s.core c).rd f.a.toNat).toNat + i)
      exact (last.1.trans (rows (by omega) i hi)).trans first.1

end Sys2Proof.Machine
end

section
/-! PROOFS. RREAD, RWRITE, WSET and WCLR (R77, R78, R83, R91, R107, R108). -/

namespace Sys2Proof.Machine

/-! ## RREAD -/

/-- A core with other pending remote reads. -/
def Core.withReads (x : Core) (l : List RemoteRead) : Core := { x with reads := l }

/-- The pending read of the `m`-th row of an RREAD. -/
def readAt (x : Core) (f : Fields) (m : Nat) : RemoteRead :=
  ⟨remoteCore (x.rd f.a.toNat + BitVec.ofNat 64 m), BitVec.ofNat 15 (remoteRow (x.rd f.a.toNat + BitVec.ofNat 64 m)),
    BitVec.ofNat 15 (x.phys ((x.rd f.d.toNat).toNat + m)), f.d, f.a, f.b⟩

/-- The packet that requests it, as the `i`-th to enter the network. -/
def requestAt (s : State) (c : CoreId) (f : Fields) (m i : Nat) : ReadReq :=
  ⟨c, (s.slot c).incarn, (readAt (s.core c) f m).target, (readAt (s.core c) f m).row, ⟨i, injectionTime s.timebase⟩⟩

/-- From `s` to `t` core `c` has requested `n` rows of an RREAD of which `out` were pending. -/
structure Requested (c : CoreId) (f : Fields) (n out : Nat) (s t : State) : Prop where
  core : t.core c = (s.core c).withReads
    ((s.core c).reads ++ (List.range n).map fun j => readAt (s.core c) f (out + j))
  others : OtherCoresSame c s t
  rest : t = { s with cores := t.cores, injected := t.injected, readReqs := t.readReqs }
  injected : t.injected = s.injected + n
  requests : t.readReqs = s.readReqs ++ (List.range n).map fun j => requestAt s c f (out + j) (s.injected + j)

/-- The list of a function's values, its first apart. -/
theorem map_range_succ {α : Type} (g : Nat → α) (n : Nat) :
    (List.range (n + 1)).map g = g 0 :: (List.range n).map fun j => g (j + 1) := by
  rw [List.range_succ_eq_map, List.map_cons, List.map_map]; rfl

/-- One row requested. -/
def sendRead (c : CoreId) (f : Fields) (out : Nat) (s : State) : State :=
  { s.setCore c ((s.core c).withReads ((s.core c).reads ++ [readAt (s.core c) f out])) with
    readReqs := s.readReqs ++ [requestAt s c f out s.injected]
    injected := s.injected + 1 }

theorem sendReads_succ (c : CoreId) (f : Fields) (n out : Nat) (s : State) :
    sendReads c f (n + 1) out s = sendReads c f n (out + 1) (sendRead c f out s) := rfl

theorem sendRead_core (c : CoreId) (f : Fields) (out : Nat) (s : State) :
    (sendRead c f out s).core c = (s.core c).withReads ((s.core c).reads ++ [readAt (s.core c) f out]) :=
  State.setCore_core ..

theorem sendReads_requested (c : CoreId) (f : Fields) : ∀ (n out : Nat) (s : State),
    Requested c f n out s (sendReads c f n out s)
  | 0, out, s => ⟨by simp [sendReads, Core.withReads], fun _ _ => rfl, rfl, rfl, by simp [sendReads]⟩
  | n + 1, out, s => by
    obtain ⟨core, others, rest, injected, requests⟩ := sendReads_requested c f n (out + 1) (sendRead c f out s)
    have first := sendRead_core c f out s
    rw [sendReads_succ]
    generalize sendReads c f n (out + 1) (sendRead c f out s) = t at core others rest injected requests ⊢
    have same (l : List RemoteRead) (m : Nat) : readAt ((s.core c).withReads l) f m = readAt (s.core c) f m := rfl
    have request (m i : Nat) : requestAt (sendRead c f out s) c f m i = requestAt s c f m i := by
      simp only [requestAt, first, same]; rfl
    have sent : (sendRead c f out s).readReqs = s.readReqs ++ [requestAt s c f out s.injected] := rfl
    have count : (sendRead c f out s).injected = s.injected + 1 := rfl
    have next (m j : Nat) : m + 1 + j = m + (j + 1) := by omega
    refine ⟨?_, fun d ne => (others d ne).trans (State.setCore_core_other _ _ _ _ ne), ?_, ?_, ?_⟩
    · rw [core, first, map_range_succ]
      simp only [same, next]
      simp [Core.withReads]
    · rw [rest]; rfl
    · rw [injected]; exact next ..
    · rw [requests, map_range_succ]
      simp only [request, sent, count, next, List.append_assoc, List.singleton_append, Nat.add_zero]

/-! ## RWRITE -/

/-- A core that has posted `n` rows more. -/
def Core.posted (x : Core) (n : Nat) : Core := { x with writesOut := x.writesOut + n }

/-- What a posted row is addressed to, and its data. -/
def postOf (w : WindowRow) : CoreId × BitVec 16 × CoreId × BitVec 4 × BitVec 11 × Row :=
  (w.writer, w.incarn, w.target, w.window, w.offset, w.data)

/-- The post of the task's row `rel` to remote address `addr`. -/
def postAt (s : State) (c : CoreId) (addr : BitVec 64) (rel : Nat) :
    CoreId × BitVec 16 × CoreId × BitVec 4 × BitVec 11 × Row :=
  (c, (s.slot c).incarn, remoteCore addr, BitVec.ofNat 4 (remoteWindow addr), BitVec.ofNat 11 (remoteOffset addr),
    taskRow s c rel)

/-- From `s` to `t` core `c` has posted `n` rows of its task from row `a` on to remote address `addr` on. -/
structure WindowPosted (c : CoreId) (addr : BitVec 64) (a n : Nat) (s t : State) : Prop where
  core : ∃ l, t.core c = ((s.core c).withLog l).posted n
  others : OtherCoresSame c s t
  rest : t = { s with cores := t.cores, poison := t.poison, rowErrors := t.rowErrors, leaseHits := t.leaseHits
                      windowRows := t.windowRows, injected := t.injected }
  injected : t.injected = s.injected + n
  posts : t.windowRows.map postOf = s.windowRows.map postOf
    ++ (List.range n).map fun i => postAt s c (addr + BitVec.ofNat 64 i) (a + i)

/-- The row that has been read is posted. -/
def postRow (c : CoreId) (addr : BitVec 64) (d : Row) (p : Bool) (s : State) : State :=
  { s.setCore c ((s.core c).posted 1) with
    windowRows := s.windowRows ++ [⟨c, (s.slot c).incarn, remoteCore addr, BitVec.ofNat 4 (remoteWindow addr),
      BitVec.ofNat 11 (remoteOffset addr), (match (s.core c).task with
        | some w => Task.step w
        | none => 0), d, p || (s.core c).tainted, sentNow s⟩]
    injected := s.injected + 1 }

theorem postRows_succ (c : CoreId) (n : Nat) (addr : BitVec 64) (a : Nat) (s : State) :
    postRows c (n + 1) addr a s = postRows c n (addr + 1) (a + 1)
      (postRow c addr (readBench c ((s.core c).phys a) 1 s).1.1 (readBench c ((s.core c).phys a) 1 s).1.2
        (readBench c ((s.core c).phys a) 1 s).2) := rfl

theorem postRow_posted (c : CoreId) (addr : BitVec 64) (a : Nat) (s : State) :
    WindowPosted c addr a 1 s (postRow c addr (readBench c ((s.core c).phys a) 1 s).1.1 (readBench c ((s.core c).phys a) 1 s).1.2
      (readBench c ((s.core c).phys a) 1 s).2) := by
  have read := readBench_read c ((s.core c).phys a) 1 s
  have delivers := readBench_delivers c a 1 s
  generalize readBench c ((s.core c).phys a) 1 s = v at read delivers ⊢
  rw [delivers]
  obtain ⟨⟨l, log⟩, others, rest, -, -⟩ := read
  refine ⟨⟨l, ?_⟩, fun d ne => (State.setCore_core_other _ _ _ _ ne).trans (others d ne), ?_, ?_, ?_⟩
  · exact (State.setCore_core ..).trans (by rw [log])
  · rw [postRow, rest]; rfl
  · rw [postRow, rest]
  · rw [postRow, rest]
    simp [postOf, postAt]
    rfl

theorem WindowPosted.cons {c : CoreId} {addr : BitVec 64} {a n : Nat} {s t u : State} (h : WindowPosted c addr a 1 s t)
    (g : WindowPosted c (addr + 1) (a + 1) n t u) : WindowPosted c addr a (n + 1) s u := by
  obtain ⟨⟨l, core⟩, others, rest, injected, posts⟩ := h
  obtain ⟨⟨l', core'⟩, others', rest', injected', posts'⟩ := g
  have base : (t.core c).base = (s.core c).base := by rw [core]; rfl
  have same (b : BitVec 64) (rel : Nat) : postAt t c b rel = postAt s c b rel := by
    rw [postAt, postAt, taskRow, taskRow, base, rest]; rfl
  have address (i : Nat) : addr + 1 + BitVec.ofNat 64 i = addr + BitVec.ofNat 64 (i + 1) := by
    rw [BitVec.ofNat_add, BitVec.add_comm (BitVec.ofNat 64 i), BitVec.add_assoc]; rfl
  have next (i : Nat) : a + 1 + i = a + (i + 1) := by omega
  refine ⟨⟨l', ?_⟩, others.trans others', by rw [rest', rest], ?_, ?_⟩
  · rw [core', core, Nat.add_comm n]
    simp [Core.posted, Core.withLog, Nat.add_assoc]
  · rw [injected', injected, Nat.add_assoc, Nat.add_comm 1]
  · rw [posts', posts, map_range_succ _ n]
    simp only [same, address, next]
    simp

theorem postRows_posted (c : CoreId) : ∀ (n : Nat) (addr : BitVec 64) (a : Nat) (s : State),
    WindowPosted c addr a n s (postRows c n addr a s)
  | 0, _, _, s => ⟨⟨(s.core c).errLog, rfl⟩, fun _ _ => rfl, rfl, rfl, by simp [postRows]⟩
  | n + 1, addr, a, s => (postRow_posted c addr a s).cons (postRows_posted c n (addr + 1) (a + 1) _)

section
variable {i : Instr} {c : CoreId} {op : Nat} {f : Fields} {s u : State} {unit : UnitQ} {y : Core}
  {causes : List (ExcClass × Bool)} {body : State → State}

/-- The state in which the instruction stays in its unit's queue in category `k`, with the core as `y`. -/
theorem exec_waits_as (e : coreInstr i = some (c, op, f)) (hs : Starts i s) (hc : ∀ k ∈ causes, k.2 = false)
    (run : exec i s = issue c op f causes body s) (stays : Stays (s.core c) y) (hu : opUnit op = some unit) {k : Stall}
    {h : BitVec 16} {now : BitVec 48} (hb : body s = u) (core : u.core c = y.stalled k h now) :
    exec i s = .next (queueUp c op f u) ∧ WaitsQueued op f k (s.core c) ((queueUp c op f u).core c)
      ∧ Bookkept y ((queueUp c op f u).core c) := by
  obtain ⟨t', ex, -, waits, kept⟩ := exec_waits e hs hc run stays hu hb core
  have same : t' = queueUp c op f u := by
    have left := stays.trans (stays_stalled y k h now)
    have stayed := run.trans (issue_stays e hs hu hc hb (by rw [core]; exact left))
    injection ex.symm.trans stayed
  rw [same] at ex waits kept
  exact ⟨ex, waits, kept⟩

end

theorem Bookkept.reads {y z : Core} (h : Bookkept y z) : z.reads = y.reads := by rw [h]

theorem requests_only {s t u : State} (ht : t = { s with cores := t.cores, readReqs := t.readReqs, injected := t.injected })
    (hu : u = { t with cores := u.cores }) :
    u = { s with cores := u.cores, readReqs := u.readReqs, injected := t.injected } := by rw [hu, ht]

section
variable (x : Core) (p : Bool) (l : List RemoteRead)

theorem stays_withReads : Stays x ((x.taint p).withReads l) := (stays_taint x p).trans ⟨rfl, rfl, rfl, rfl, rfl⟩
theorem scalarIs_withReads : ScalarIs 0 0 false x ((x.taint p).withReads l) := scalarIs_of (scalarIs_same x) rfl rfl

end

/-- The core of a task that posted `k` of `n` rows: its registers follow. -/
def Core.wrote (x : Core) (f : Fields) (n k : Nat) (l : BitVec 64) : Core :=
  ((((x.posted k).readOne (copyTaint x f) l).wr f.d.toNat (x.rd f.d.toNat + BitVec.ofNat 64 k) (x.rdP f.d.toNat)).wr f.a.toNat
    (BitVec.ofNat 64 ((x.rd f.a.toNat).toNat + k)) (x.rdP f.a.toNat)).wr f.b.toNat (BitVec.ofNat 64 (n - k)) (x.rdP f.b.toNat)

section
variable (x : Core) (f : Fields) (n k : Nat) (l : BitVec 64)

theorem stays_posted : Stays x (x.posted k) := ⟨rfl, rfl, rfl, rfl, rfl⟩

theorem stays_wrote : Stays x (x.wrote f n k l) :=
  ((((stays_posted ..).trans (stays_readOne ..)).trans (stays_wr ..)).trans (stays_wr ..)).trans (stays_wr ..)

theorem readFrame_wrote : ReadFrame (x.posted k) (x.wrote f n k l) :=
  (((readFrame_readOne ..).trans (readFrame_wr ..)).trans (readFrame_wr ..)).trans (readFrame_wr ..)

theorem Core.wrote_lastQueue : (x.wrote f n k l).lastQueue = x.lastQueue := by simp [Core.wrote, Core.readOne, Core.posted]
theorem Core.wrote_v : (x.wrote f n k l).v = x.v := by simp [Core.wrote, Core.readOne, Core.posted]
theorem Core.wrote_vPoison : (x.wrote f n k l).vPoison = x.vPoison := by simp [Core.wrote, Core.readOne, Core.posted]

theorem Core.wrote_rd (r : Nat) : (x.wrote f n k l).rd r = if r = 0 then 0
    else if r = f.b.toNat then BitVec.ofNat 64 (n - k)
    else if r = f.a.toNat then BitVec.ofNat 64 ((x.rd f.a.toNat).toNat + k)
    else if r = f.d.toNat then x.rd f.d.toNat + BitVec.ofNat 64 k else x.rd r := Core.wr_wr_wr_rd ..

end

theorem posts_only {n : Nat} {s t u : State} (ht : t = { s with cores := t.cores, poison := t.poison, rowErrors := t.rowErrors
                                                                leaseHits := t.leaseHits, windowRows := t.windowRows
                                                                injected := t.injected })
    (hn : t.injected = s.injected + n) (hu : u = { t with cores := u.cores, runs := u.runs }) :
    u = { s with cores := u.cores, runs := u.runs, poison := u.poison, rowErrors := u.rowErrors, leaseHits := u.leaseHits
                 windowRows := u.windowRows, injected := s.injected + n } := by rw [← hn, hu, ht]

/-! ## Windows -/

/-- A core with another record of window `i`. -/
def Core.withWindow (x : Core) (i : Nat) (w : BitVec 128) : Core := { x with windows := x.windows.set 0 i w }

theorem Core.withWindow_get (x : Core) (i j : Nat) (w : BitVec 128) :
    (x.withWindow i w).windows.get 0 j = if j = i then w else x.windows.get 0 j := by
  by_cases e : j = i
  · subst e; simp [Core.withWindow]
  · simp [Core.withWindow, Sparse.get_set_other _ _ _ _ _ e, e]

@[simp] theorem Core.withWindow_tainted (x : Core) (i : Nat) (w : BitVec 128) : (x.withWindow i w).tainted = x.tainted := rfl

theorem scalarIs_withWindow (x : Core) (i : Nat) (w : BitVec 128) : ScalarIs 0 0 false x (x.withWindow i w) :=
  scalarIs_of (scalarIs_same x) rfl rfl

theorem scalarIs_withWindow_taint (x : Core) (i : Nat) (w : BitVec 128) (p : Bool) :
    ScalarIs 0 0 false x ((x.withWindow i w).taint p) := scalarIs_of (scalarIs_withWindow x i w) rfl rfl

theorem Bookkept.windows {y z : Core} (h : Bookkept y z) : z.windows = y.windows := by rw [h]

/-- The mask of LEN in a window record (R107). -/
theorem lenMask_bit : ∀ i : Fin 128, (put (w := 128) 98 (2 ^ 15 - 1)).getLsbD i = decide (98 ≤ i.val ∧ i.val ≤ 112) := by
  decide

/-- A record whose LEN has been cleared: its length is zero and its other fields stay. -/
theorem window_cleared (w : BitVec 128) : bits (w &&& ~~~(put 98 (2 ^ 15 - 1))) 112 98 = 0
    ∧ bits (w &&& ~~~(put 98 (2 ^ 15 - 1))) 127 113 = bits w 127 113
    ∧ bits (w &&& ~~~(put 98 (2 ^ 15 - 1))) 97 0 = bits w 97 0 := by
  have kept (i : Nat) : (w &&& ~~~(put 98 (2 ^ 15 - 1))).toNat.testBit i
      = (w.toNat.testBit i && !decide (98 ≤ i ∧ i ≤ 112)) := by
    by_cases h : i < 128
    · have mask := lenMask_bit ⟨i, h⟩
      simp only [BitVec.testBit_toNat, BitVec.getLsbD_and, BitVec.getLsbD_not, h, decide_true, Bool.true_and] at mask ⊢
      rw [mask]
    · rw [Nat.testBit_lt_two_pow (lt_of_lt_of_le (BitVec.isLt _) (Nat.pow_le_pow_right (by omega) (by omega))),
        Nat.testBit_lt_two_pow (lt_of_lt_of_le w.isLt (Nat.pow_le_pow_right (by omega) (by omega))), Bool.false_and]
  refine ⟨Nat.eq_of_testBit_eq fun i => ?_, Nat.eq_of_testBit_eq fun i => ?_, Nat.eq_of_testBit_eq fun i => ?_⟩ <;>
    simp only [bits, Nat.testBit_mod_two_pow, Nat.testBit_shiftRight, kept, Nat.zero_testBit]
  · by_cases h : i < 15 <;> simp [h]; omega
  · by_cases h : i < 15 <;> simp [h]; omega
  · by_cases h : i < 98 <;> simp [h]

/-- Settles O9: the requests and the posts are followed row by row; a window's record is written as a whole. -/
theorem remoteAndWindowInstructions : Obligations.RemoteAndWindowInstructions := by
  unfold Obligations.RemoteAndWindowInstructions
  refine fun c f s => ⟨fun ok address hs inside => ⟨fun none => ?nothing, fun some => ?requests⟩,
    fun stop ok address hs inside => ?rwrite, fun ok pair legal hs => ?wset, fun ok hs => ?wclr⟩
  case nothing =>
    have zero : (s.core c).rd f.b.toNat = 0 := BitVec.eq_of_toNat_eq none
    obtain ⟨t', ex, only, ends, kept⟩ := exec_ends (i := .rread c f) (t := s) rfl hs (by simp [ok, address, inside]) (exec_rread c f s)
      (stays_taint _ (copyTaint (s.core c) f)) rfl (by simp only [none, if_true])
    exact ⟨t', ex, only, ends, (taintFrame_taint ..).trans kept.taintFrame,
      kept.scalarIs (scalarIs_of (scalarIs_same _) rfl rfl)⟩
  case requests =>
    have begun := onlyCore_setCore c ((s.core c).taint (copyTaint (s.core c) f)) s
    have core : (s.setCore c ((s.core c).taint (copyTaint (s.core c) f))).core c = (s.core c).taint (copyTaint (s.core c) f) :=
      State.setCore_core ..
    have sent := sendReads_requested c f (min (8 - (s.core c).reads.length)
      (((s.core c).rd f.b.toNat).toNat - (s.core c).reads.length)) (s.core c).reads.length
      (s.setCore c ((s.core c).taint (copyTaint (s.core c) f)))
    generalize ht : sendReads c f _ _ _ = t at sent
    obtain ⟨requested, others, rest, injected, requests⟩ := sent
    rw [core] at requested
    obtain ⟨ex, waits, kept⟩ := exec_waits_as (i := .rread c f) (u := stallWith c (t.core c) .remote 0xFFFF t) rfl hs
      (by simp [ok, address, inside]) (exec_rread c f s) (by rw [requested]; exact stays_withReads ..) rfl
      (by simp only [maxReads, some, if_false, ht]) (State.setCore_core ..)
    have after := ((stallWith_spec c (t.core c) .remote 0xFFFF t).2).trans (onlyCore_queueUp c Op.rread f _)
    have listed : (queueUp c Op.rread f (stallWith c (t.core c) .remote 0xFFFF t)).readReqs = t.readReqs := rfl
    have rest : t = { s with cores := t.cores, readReqs := t.readReqs, injected := t.injected } := rest
    have all := requests_only rest (rfl : queueUp c Op.rread f (stallWith c (t.core c) .remote 0xFFFF t) = _)
    refine ⟨_, ex, fun a => (after.1 a).trans (by rw [rest]), begun.2.1.trans (others.trans after.2.1), waits, ?_,
      kept.scalarIs (by rw [requested]; exact scalarIs_withReads ..), ?_, ?_⟩
    · rw [List.length_range]; exact all.trans (by rw [injected]; rfl)
    · rw [kept.reads, requested]; rfl
    · rw [listed, requests]
      simp only [requestAt, core]
      rfl
  case rwrite =>
    have begun := onlyCore_setCore c ((s.core c).taint (copyTaint (s.core c) f)) s
    have core : (s.setCore c ((s.core c).taint (copyTaint (s.core c) f))).core c = (s.core c).taint (copyTaint (s.core c) f) :=
      State.setCore_core ..
    have posted := postRows_posted c (pauseAt stop ((s.core c).rd f.b.toNat).toNat)
      ((s.core c).rd f.d.toNat) ((s.core c).rd f.a.toNat).toNat (s.setCore c ((s.core c).taint (copyTaint (s.core c) f)))
    generalize ht : postRows c _ _ _ _ = t at posted
    obtain ⟨⟨l, log⟩, others, rest, injected, posts⟩ := posted
    obtain ⟨t', ex, after, ends, kept⟩ := exec_ends_or_pauses (i := .rwrite c f stop) (t := t)
      (y := (s.core c).wrote f ((s.core c).rd f.b.toNat).toNat (pauseAt stop ((s.core c).rd f.b.toNat).toNat) l) rfl hs
      (by simp [ok, address, inside]) (exec_rwrite c f stop s) (stays_wrote ..) rfl (Core.wrote_lastQueue ..)
      (by simp only [ht, log, core]; rfl)
    have listed : t'.windowRows = t.windowRows := by rw [after.2.2.2]
    have post (b : BitVec 64) (rel : Nat) : postAt (s.setCore c ((s.core c).taint (copyTaint (s.core c) f))) c b rel
        = postAt s c b rel := by
      rw [postAt, postAt, (begun.rows_same (by rw [core]; rfl) rel).1]; rfl
    refine ⟨t', ex, ?_, (begun.2.1.trans others).trans after.2.1, ?_, ?_, ends,
      (readFrame_wrote (s.core c) f _ _ l).trans kept.readFrame, kept.v.trans (Core.wrote_v ..),
      kept.vPoison.trans (Core.wrote_vPoison ..), fun r => ?_, ?_⟩
    · exact fun a => (after.1 a).trans (by rw [rest]; rfl)
    · exact begun.2.2.1.trans (RunsSame.trans (fun j => by rw [rest]; rfl) after.2.2.1)
    · have rest : t = { s with cores := t.cores, poison := t.poison, rowErrors := t.rowErrors, leaseHits := t.leaseHits
                               windowRows := t.windowRows, injected := t.injected } := rest
      have injected : t.injected = s.injected + pauseAt stop ((s.core c).rd f.b.toNat).toNat := injected
      exact posts_only rest injected after.2.2.2
    · rw [kept.rd, Core.wrote_rd]
    · rw [listed]
      simp only [post] at posts
      exact posts
  case wset =>
    obtain ⟨t', ex, only, ends, kept⟩ := exec_ends (i := .wset c f) (t := s)
      (y := ((s.core c).withWindow f.imm.toNat (windowOf (s.core c) f.a.toNat)).taint
        ((s.core c).rdP f.a.toNat || (s.core c).rdP (f.a.toNat + 1))) rfl hs (by simp [ok, pair, legal]) (exec_wset c f s)
      ⟨rfl, rfl, rfl, rfl, rfl⟩ rfl rfl
    refine ⟨t', ex, only, ends, ?_, kept.scalarIs (scalarIs_withWindow_taint ..), ?_, fun i => ?_⟩
    · rw [kept.windows]; exact (taintFrame_taint ..).trans kept.taintFrame
    · rw [kept.tainted, Core.taint_tainted, Core.withWindow_tainted, Bool.or_assoc]
    · rw [kept.windows]; exact Core.withWindow_get ..
  case wclr =>
    obtain ⟨t', ex, only, ends, kept⟩ := exec_ends (i := .wclr c f) (t := s)
      (y := (s.core c).withWindow f.imm.toNat ((s.core c).windows.get 0 f.imm.toNat &&& ~~~(put 98 (2 ^ 15 - 1))))
      rfl hs (by simp [ok]) (exec_wclr c f s) ⟨rfl, rfl, rfl, rfl, rfl⟩ rfl rfl
    obtain ⟨len, base, low⟩ := window_cleared ((s.core c).windows.get 0 f.imm.toNat)
    refine ⟨t', ex, only, ends, ?_, kept.scalarIs (scalarIs_withWindow ..), ?_, ?_, ?_, fun i ne => ?_⟩ <;>
      rw [kept.windows]
    · exact kept.taintFrame.scalarFrame kept.tainted
    · rw [Core.withWindow_get, if_pos rfl]; exact len
    · rw [Core.withWindow_get, if_pos rfl]; exact base
    · rw [Core.withWindow_get, if_pos rfl]; exact low
    · rw [Core.withWindow_get, if_neg ne]

end Sys2Proof.Machine
end

section
/-! PROOFS. Exceptions; WAITU, FENCER, END, ARRIVE, WAITB and TRAP (R57, R77, R87, R89, R169, R170). -/

namespace Sys2Proof.Machine

/-! ## Exceptions -/

/-- Taking an exception ends the core's task with it and changes nothing else. -/
theorem takesException_of {i : Instr} {c : CoreId} {k : ExcClass} {s : State} (h : exec i s = .next (takeExc c k s)) :
    TakesException i c k s := by
  obtain ⟨core, only⟩ := takeExc_spec c k s
  refine ⟨_, h, ?_, ?_, ?_, ?_, ?_, ?_, ?_, only.2.1, rfl⟩ <;> rw [core]

/-- An instruction that is issued while a cause of R87 holds takes the first one's exception. -/
theorem issue_raises {i : Instr} {c : CoreId} {op : Nat} {f : Fields} {s : State} (e : coreInstr i = some (c, op, f))
    (hs : Issued i s) {causes : List (ExcClass × Bool)} {k : ExcClass} (hk : firstCause causes = some k)
    (body : State → State) : issue c op f causes body s = .next (takeExc c k s) := by
  simp only [Issued, e] at hs
  obtain ⟨ready, new, free⟩ := hs
  rw [issue_now c op f causes body s ready new free, hk]

section
variable {i : Instr} {c : CoreId} {op : Nat} {f : Fields} {s : State} {causes : List (ExcClass × Bool)}
  {body : State → State} (e : coreInstr i = some (c, op, f)) (hu : opUnit op = none)
  (run : exec i s = issue c op f causes body s) (hc : ∀ k ∈ causes, k.2 = false)
include e hu run hc

/-! ## Waiting in the scalar unit -/

/-- A scalar instruction that waits leaves everything but the core's cycle bookkeeping. -/
theorem scalar_waits (hb : body s = stallWith c (s.core c) .sync 0xFFFF s) (hs : Starts i s) :
    ∃ t, exec i s = .next t ∧ OnlyCore c s t ∧ Waits .sync (s.core c) (t.core c) ∧ ScalarFrame (s.core c) (t.core c)
      ∧ ScalarIs 0 0 false (s.core c) (t.core c) := by
  obtain ⟨core, only⟩ := stallWith_spec c (s.core c) .sync 0xFFFF s
  have kept := bookkept_stalled (s.core c) .sync 0xFFFF (now48 s)
  refine ⟨_, run.trans (issue_scalar_of_starts e hu hs hc body), ?_⟩
  rw [hb, core]
  exact ⟨only, ⟨by simp, by simp, by rw [Core.stalled_phase]; exact (starts_ready e hs).2, by simp⟩,
    kept.taintFrame.scalarFrame kept.tainted, kept.scalarIs (scalarIs_same _)⟩

/-- A scalar instruction whose effect is to complete, with the core as it is. -/
theorem scalar_completes (hb : body s = completeWith c (s.core c) s) : WritesScalar i c 0 0 false s :=
  writesScalar_of e run hc hb

end

/-- A refused row of RWRITE raises WINDOW where the acknowledgements are waited for (R89). -/
theorem refused_raises {x : Core} {illegal : Bool} (ok : illegal = false) (settled : x.writesSettled = true)
    (refused : x.refused ≠ none) :
    firstCause [(.illegal, illegal), (.window, x.writesSettled && x.refused.isSome)] = some .window := by
  obtain ⟨cause, h⟩ := Option.ne_none_iff_exists'.1 refused
  rw [ok, settled, h]
  rfl

/-- A core whose task drains. -/
def Core.draining (x : Core) : Core := { x with phase := .drain }

theorem scalarIs_draining (x : Core) : ScalarIs 0 0 false x x.draining := scalarIs_of (scalarIs_same x) rfl rfl

theorem draining_spec (c : CoreId) (s : State) :
    (progress (s.setCore c (s.core c).draining.issued) c).core c = (s.core c).draining.issued
      ∧ OnlyCore c s (progress (s.setCore c (s.core c).draining.issued) c) :=
  ⟨(progress_core ..).trans (State.setCore_core ..), (onlyCore_setCore ..).trans (onlyCore_progress ..)⟩

/-- A core whose task traps with a code. -/
def Core.trapped (x : Core) (k : BitVec 8) : Core := { x with trapCode := k }

/-- Settles O14: each instruction completes, waits or takes its exception as its condition says. -/
theorem syncAndSystemInstructions : Obligations.SyncAndSystemInstructions := by
  unfold Obligations.SyncAndSystemInstructions
  refine ⟨fun c f s => ⟨fun ok running => ?waitu, fun ok => ⟨fun settled none => ?fence, fun settled refused => ⟨?fenceWindow,
    ?endWindow⟩, fun open_ => ⟨?fenceWaits, ?endWaits⟩, fun settled none hs => ?ends⟩, fun k w hb => ⟨fun ok => ⟨fun free hs =>
    ?arrive, fun busy => ?arriveWaits⟩, fun ok => ⟨fun open_ => ?waitb, fun closed => ?waitbWaits⟩⟩⟩, fun c f s ok hs => ?trap⟩
  case' fence => have ok : Form.nil.ok f = true := ok
  case' fenceWindow => have ok : Form.nil.ok f = true := ok
  case' endWindow => have ok : Form.nil.ok f = true := ok
  case' fenceWaits => have ok : Form.nil.ok f = true := ok
  case' endWaits => have ok : Form.nil.ok f = true := ok
  case' ends => have ok : Form.nil.ok f = true := ok
  case waitu =>
    obtain ⟨u, named, busy⟩ := running
    refine scalar_waits rfl rfl (exec_waitu c f s) (by simp [ok]) ?_
    have waits : (s.core c).queue.any (maskNames f.mod) = true := by
      obtain ⟨e, he⟩ := List.exists_mem_of_ne_nil _ busy
      obtain ⟨queued, unit⟩ := List.mem_filter.1 he
      exact List.any_eq_true.2 ⟨e, queued, by simp [maskNames, of_decide_eq_true unit, named]⟩
    simp only [waits, if_true]
  case fence => exact scalar_completes rfl rfl (exec_fencer c f s) (by simp [ok, none]) (by simp only [settled, if_true])
  case fenceWindow =>
    exact fun hs => takesException_of ((exec_fencer c f s).trans (issue_raises rfl hs.1
      (refused_raises (by simp [ok]) settled refused) _))
  case endWindow =>
    exact fun hs => takesException_of ((exec_endTask c f s).trans (issue_raises rfl hs.1
      (refused_raises (by simp [ok]) settled refused) _))
  case fenceWaits => 
    exact scalar_waits rfl rfl (exec_fencer c f s) (by simp [ok, open_]) (by simp only [open_]; rfl)
  case endWaits => 
    exact scalar_waits rfl rfl (exec_endTask c f s) (by simp [ok, open_]) (by simp only [open_]; rfl)
  case ends =>
    obtain ⟨core, only⟩ := draining_spec c s
    have run : exec (.endTask c f) s = .next (progress (s.setCore c (s.core c).draining.issued) c) :=
      (exec_endTask c f s).trans ((issue_scalar_of_starts (i := .endTask c f) rfl rfl hs (by simp [ok, none]) _).trans
        (by simp only [settled, if_true]; rfl))
    have kept := bookkept_issued (s.core c).draining
    refine ⟨_, run, only, ?_, ?_, ?_, ?_, ?_, ?_⟩ <;> rw [core]
    · rfl
    · rfl
    · rfl
    · rfl
    · exact kept.taintFrame.scalarFrame kept.tainted
    · exact kept.scalarIs (scalarIs_draining _)
  case arrive =>
    have none : (s.core c).queue.any (fun e => writesBench e.op e.f) = false := by
      rw [List.any_eq_false]; simpa using free
    obtain ⟨sent, others, runs, rest⟩ := completeWith_only c (s.core c) (sendArrival k f.imm.toNat w s)
    refine ⟨_, (exec_arrive c f s).trans (issue_completes_on (i := .arrive c f) (u := sendArrival k f.imm.toNat w s)
      (y := s.core c) rfl hs (by simp [ok, hb]) (by simp [hb, none]) rfl), sent, others, runs, ?_, ?_⟩
    · rw [rest]; rfl
    · rw [completeWith_core]
      obtain ⟨done, frame, -⟩ := completed_same (s.core c)
      exact ⟨done, frame, by rw [rest]; rfl⟩
  case arriveWaits =>
    exact scalar_waits rfl rfl (exec_arrive c f s) (by simp [ok, hb]) (by simp only [hb, List.any_eq_true.2 busy, if_true])
  case waitb => exact scalar_completes rfl rfl (exec_waitb c f s) (by simp [ok, hb]) (by simp only [hb, open_, if_true])
  case waitbWaits =>
    exact scalar_waits rfl rfl (exec_waitb c f s) (by simp [ok, hb]) (by simp only [hb, closed]; rfl)
  case trap =>
    obtain ⟨core, only⟩ := takeExc_spec c .trap (s.setCore c ((s.core c).trapped (BitVec.ofNat 8 f.imm.toNat)))
    have run : exec (.trap c f) s = .next (takeExc c .trap (s.setCore c ((s.core c).trapped (BitVec.ofNat 8 f.imm.toNat)))) :=
      (exec_trap c f s).trans (issue_scalar_of_starts (i := .trap c f) rfl rfl hs (by simp [ok]) _)
    rw [State.setCore_core] at core
    have all := (onlyCore_setCore c ((s.core c).trapped (BitVec.ofNat 8 f.imm.toNat)) s).trans only
    refine ⟨_, run, ⟨_, run, ?_, ?_, ?_, ?_, ?_, ?_, ?_, all.2.1, rfl⟩, all, ?_, ?_⟩ <;> rw [core] <;> rfl

end Sys2Proof.Machine
end

section
/-! PROOFS. What a core does with an instruction that is sent to it (R38, R63, R64, R72, R76, R83, R85, R87). -/

namespace Sys2Proof.Machine

/-! ## Causes -/

/-- The better of a cause found and the next one. -/
def betterCause (best : Option ExcClass) (k : ExcClass) : Option ExcClass :=
  match best with
  | none => some k
  | some b => if k.rank < b.rank then some k else some b

theorem illegal_best (l : List ExcClass) : l.foldl betterCause (some .illegal) = some .illegal := by
  induction l with
  | nil => rfl
  | cons k l ih => exact ih

/-- ILLEGAL comes before every other cause. -/
theorem firstCause_illegal (l : List (ExcClass × Bool)) : firstCause ((.illegal, true) :: l) = some .illegal :=
  illegal_best _

section
variable {i : Instr} {c : CoreId} {op : Nat} {f : Fields} {s : State} {causes : List (ExcClass × Bool)}
  {body : State → State}

theorem illegal_taken (e : coreInstr i = some (c, op, f)) {b : Bool} (run : exec i s = issue c op f ((.illegal, b) :: causes) body s)
    (illegal : b = true) (hs : Issued i s) : TakesException i c .illegal s := by
  subst illegal
  exact takesException_of (run.trans (issue_raises e hs (firstCause_illegal _) body))

/-! ## What a core does with an instruction -/

theorem issue_bound (new : (s.core c).queue.find? (fun e => e.op = op && e.f = f) = none) (ready : (s.core c).ready = true)
    (out : (s.core c).codeOut = true) : issue c op f causes body s = .next (takeExc c .bound s) := by
  simp only [issue, new, ready, out, if_true]

theorem issue_unassigned (new : (s.core c).queue.find? (fun e => e.op = op && e.f = f) = none)
    (ready : (s.core c).ready = true) (out : (s.core c).codeOut = false)
    (unassigned : opAssigned (Word.op (codeWord s c)) = false) :
    issue c op f causes body s = .next (takeExc c .illegal s) := by
  simp [issue, new, ready, out, unassigned]

theorem issue_idle (new : (s.core c).queue.find? (fun e => e.op = op && e.f = f) = none) (idle : (s.core c).ready = false) :
    issue c op f causes body s = .next s := by
  simp [issue, new, idle]

theorem issue_blocked (new : (s.core c).queue.find? (fun e => e.op = op && e.f = f) = none) (hs : Issues c s) {e : Queued}
    (blocked : (s.core c).blocker op f = some e) : issue c op f causes body s = .next (waitFor c e s) := by
  obtain ⟨ready, inside, assigned⟩ := hs
  simp [issue, new, ready, inside, assigned, blocked]

theorem issue_held {e : Queued} (queued : (s.core c).queue.find? (fun e => e.op = op && e.f = f) = some e)
    (held : (s.core c).goesOn = false) : issue c op f causes body s = .next s := by
  simp [issue, queued, held]

/-- The oldest of a unit's queue goes on. -/
theorem issue_goesOn {e : Queued} (queued : (s.core c).queue.find? (fun e => e.op = op && e.f = f) = some e)
    (on : (s.core c).goesOn = true)
    (oldest : ((s.core c).queue.filter (fun o => opUnit o.op = opUnit op)).head?.map (·.seq) = some e.seq) :
    issue c op f causes body s = .next (runQueued c e causes body s) := by
  simp only [issue, queued, on, oldest, Bool.true_and, decide_true, if_true]

end

/-- What an instruction that goes into its unit's queue behind another leaves of the core. -/
theorem queued_behind (x : Core) (op : Nat) (f : Fields) : (x.issued.queuedUp op f).g = x.g
    ∧ (x.issued.queuedUp op f).v = x.v ∧ (x.issued.queuedUp op f).acc = x.acc ∧ (x.issued.queuedUp op f).pc = x.pc + 1
    ∧ (x.issued.queuedUp op f).issueSeq = x.issueSeq + 1
    ∧ (x.issued.queuedUp op f).queue = x.queue ++ [⟨x.pc, op, f, x.issueSeq, .busy, x.lastQueue⟩] :=
  ⟨rfl, rfl, rfl, rfl, rfl, rfl⟩

/-- An instruction that is issued while its unit is busy takes an exception, waits for room, or goes into the queue. -/
theorem issue_busy {i : Instr} {c : CoreId} {op : Nat} {f : Fields} {s : State} (e : coreInstr i = some (c, op, f))
    (hs : Issued i s) {u : UnitQ} (hu : opUnit op = some u) (busy : (s.core c).inUnit u ≠ [])
    (causes : List (ExcClass × Bool)) (body : State → State) :
    (∃ k, issue c op f causes body s = .next (takeExc c k s))
      ∨ (u.depth ≤ ((s.core c).inUnit u).length ∧ issue c op f causes body s = .next s)
      ∨ (((s.core c).inUnit u).length < u.depth
        ∧ issue c op f causes body s = .next (queueUp c op f (s.setCore c (s.core c).issued))) := by
  simp only [Issued, e] at hs
  obtain ⟨ready, new, free⟩ := hs
  rw [issue_now c op f causes body s ready new free, hu]
  cases firstCause causes with
  | some k => exact .inl ⟨k, rfl⟩
  | none =>
    by_cases full : u.depth ≤ ((s.core c).inUnit u).length
    · exact .inr (.inl ⟨full, by simp [full]⟩)
    · exact .inr (.inr ⟨by omega, by simp [full, busy]⟩)

/-- A completed instruction counts one stand cycle, as a busy one (R63, R64). -/
theorem issued_counters (x : Core) : x.issued.advance.counters.get 0 0 = x.counters.get 0 0 + 1
    ∧ x.issued.advance.counters.get 0 2 = x.counters.get 0 2 + 1
    ∧ (∀ i, i ≠ 0 → i ≠ 2 → x.issued.advance.counters.get 0 i = x.counters.get 0 i) ∧ x.issued.advance.stallSince = 0 := by
  have counted : x.issued.advance.counters
      = (x.counters.set 0 0 (x.counters.get 0 0 + 1)).set 0 2
          ((x.counters.set 0 0 (x.counters.get 0 0 + 1)).get 0 2 + 1) := rfl
  rw [counted]
  refine ⟨?_, ?_, fun i zero two => ?_, rfl⟩
  · rw [Sparse.get_set_other _ _ _ _ _ (by decide), Sparse.get_set_same]
  · rw [Sparse.get_set_same, Sparse.get_set_other _ _ _ _ _ (by decide)]
  · rw [Sparse.get_set_other _ _ _ _ _ two, Sparse.get_set_other _ _ _ _ _ zero]

/-- The core that leaves its queue: the instruction `e` is gone, and the program counter and the counts of core `x` stay. -/
def Core.leftQueue (y : Core) (e : Queued) (x : Core) : Core :=
  { y.issued.advance with queue := y.queue.filter (fun o => o.seq ≠ e.seq), pc := x.pc, counters := x.counters
                          counted := x.counted }

/-- A queued instruction whose effect is to complete leaves its queue. -/
theorem runQueued_ends {c : CoreId} {e : Queued} {causes : List (ExcClass × Bool)} {body : State → State} {s : State} {y : Core}
    (hc : firstCause (causes.filter (fun k => k.1 = .stream)) = none) (hb : body s = completeWith c y s)
    (pc : y.pc = (s.core c).pc) :
    runQueued c e causes body s = (completeWith c y s).setCore c (y.leftQueue e (s.core c)) := by
  have moved : (y.issued.advance).pc ≠ (s.core c).pc := by
    rw [Core.advance_pc, Core.issued_pc, pc]; exact pc_succ_ne _
  simp only [runQueued, hc, hb, completeWith_core]
  rw [if_pos moved]
  rfl

/-- The core with the result of a vector operation with two sources. -/
def vecWritten (op : F32 → F32 → F32) (f : Fields) (x : Core) : Core :=
  x.wrVec f.d.toNat (List.zipWith op (x.vec f.a.toNat) (x.vec f.b.toNat)) (x.vecP f.a.toNat || x.vecP f.b.toNat)

theorem vecWritten_is (op : F32 → F32 → F32) (f : Fields) (x : Core) :
    VectorIs f.d.toNat (List.zipWith op (x.vec f.a.toNat) (x.vec f.b.toNat)) (x.vecP f.a.toNat || x.vecP f.b.toNat) x
      (vecWritten op f x) := vectorIs_wrVec_of rfl rfl (by simp)

theorem vecWritten_left (op : F32 → F32 → F32) (f : Fields) (e : Queued) (x : Core) :
    ((vecWritten op f x).leftQueue e x).pc = x.pc ∧ ((vecWritten op f x).leftQueue e x).phase = x.phase
      ∧ ((vecWritten op f x).leftQueue e x).queue = x.queue.filter (fun q => q.seq ≠ e.seq)
      ∧ ((vecWritten op f x).leftQueue e x).counters = x.counters ∧ VectorFrame x ((vecWritten op f x).leftQueue e x)
      ∧ ((vecWritten op f x).leftQueue e x).v = (vecWritten op f x).v
      ∧ ((vecWritten op f x).leftQueue e x).vPoison = (vecWritten op f x).vPoison :=
  ⟨rfl, rfl, rfl, rfl, rfl, rfl, rfl⟩

/-- A vector operation with two sources that goes on writes its result and leaves the queue. -/
theorem vec2_goesOn {i : Instr} {c : CoreId} {n : Nat} {f : Fields} {s : State} {op : F32 → F32 → F32} {e : Queued}
    (run : exec i s = vec2 n op c f s) (unit : opUnit n = some .vector)
    (queued : (s.core c).queue.find? (fun q => q.op = n && q.f = f) = some e)
    (on : (s.core c).goesOn = true) (oldest : ((s.core c).inUnit .vector).head?.map (·.seq) = some e.seq) :
    ∃ t, exec i s = .next t ∧ OnlyCore c s t ∧ (t.core c).pc = (s.core c).pc ∧ (t.core c).phase = (s.core c).phase
      ∧ (t.core c).queue = (s.core c).queue.filter (fun q => q.seq ≠ e.seq) ∧ (t.core c).counters = (s.core c).counters
      ∧ VectorIs f.d.toNat (lanes2 op ((s.core c).vec f.a.toNat) ((s.core c).vec f.b.toNat))
          ((s.core c).vecP f.a.toNat || (s.core c).vecP f.b.toNat) (s.core c) (t.core c)
      ∧ VectorFrame (s.core c) (t.core c) := by
  have went := issue_goesOn (causes := [(.illegal, !Form.ok ⟨4, 4, 4, 1, 0, 0⟩ f)])
    (body := fun s => completeWith c (vecWritten op f (s.core c)) s) queued on (by rw [unit]; exact oldest)
  have ended := runQueued_ends (e := e) (causes := [(.illegal, !Form.ok ⟨4, 4, 4, 1, 0, 0⟩ f)])
    (body := fun s => completeWith c (vecWritten op f (s.core c)) s) rfl rfl (y := vecWritten op f (s.core c)) rfl
  have only := (completeWith_only c (vecWritten op f (s.core c)) s).trans (onlyCore_setCore c
    ((vecWritten op f (s.core c)).leftQueue e (s.core c)) _)
  refine ⟨_, run.trans went, ?_⟩
  rw [ended, State.setCore_core]
  obtain ⟨pc, phase, queue, counters, frame, v, vPoison⟩ := vecWritten_left op f e (s.core c)
  refine ⟨only, pc, phase, queue, counters, ?_, frame⟩
  rw [← zipWith_lanes]
  have written := vecWritten_is op f (s.core c)
  simp only [VectorIs, Core.vec, Core.vecP, v, vPoison] at written ⊢
  exact written

/-- Settles O17, by what a core does with an instruction in each case: a cause of R72 or R76, a dependence, a busy unit, its
turn in its queue. -/
theorem exceptionsAndCyclesOfIssue : Obligations.ExceptionsAndCyclesOfIssue := by
  unfold Obligations.ExceptionsAndCyclesOfIssue
  refine ⟨fun i c op f s e new => ⟨fun ready out => ?bound, fun ready inside unassigned => ?unassigned, fun idle => ?idle,
    fun hs q blocked => ?blocked, fun hs u hu busy => ?busy⟩, fun i c op f s e queued held => ?held,
    fun c f stop s => ⟨fun i hi illegal hs => ?scalar, fun p hp illegal hs => ?forms⟩, fun c f s hs ok => ?counts,
    fun c f s e i op hi queued ok on oldest => ?goesOn⟩
  case bound =>
    obtain ⟨causes, body, run⟩ := exec_issues e s
    exact takesException_of (run.trans (issue_bound new ready (by simpa [Core.codeOut] using out)))
  case unassigned =>
    obtain ⟨causes, body, run⟩ := exec_issues e s
    exact takesException_of (run.trans (issue_unassigned new ready (by simpa [Core.codeOut] using inside) unassigned))
  case idle =>
    obtain ⟨causes, body, run⟩ := exec_issues e s
    exact run.trans (issue_idle new idle)
  case blocked =>
    obtain ⟨causes, body, run⟩ := exec_issues e s
    have waits : (waitFor c q s).core c = (s.core c).stalled q.wait q.handle (now48 s) := State.setCore_core ..
    refine ⟨_, run.trans (issue_blocked new hs blocked), onlyCore_setCore .., ?_⟩
    have phase : (s.core c).phase = .run := by
      have ready := hs.1
      simp only [Core.ready, Bool.and_eq_true, decide_eq_true_eq] at ready
      exact ready.1.1.2
    rw [waits]
    exact ⟨⟨by simp, by simp, by simp [phase], by simp⟩, by simp, by simp⟩
  case busy =>
    obtain ⟨causes, body, run⟩ := exec_issues e s
    obtain ⟨k, h⟩ | ⟨full, h⟩ | ⟨room, h⟩ := issue_busy e hs hu busy causes body
    · obtain ⟨core, only⟩ := takeExc_spec c k s
      refine ⟨_, run.trans h, only, ?_⟩
      rw [core]
      exact ⟨rfl, rfl, rfl, .inl ⟨rfl, rfl⟩⟩
    · exact ⟨s, run.trans h, ⟨fun _ => rfl, fun _ _ => rfl, fun _ => rfl, rfl⟩, rfl, rfl, rfl, .inr (.inl ⟨full, rfl⟩)⟩
    · refine ⟨_, run.trans h, (onlyCore_setCore ..).trans (onlyCore_queueUp ..), ?_⟩
      rw [queueUp_core, State.setCore_core]
      obtain ⟨g, v, acc, next⟩ := queued_behind (s.core c) op f
      exact ⟨g, v, acc, .inr (.inr ⟨room, next⟩)⟩
  case held =>
    obtain ⟨causes, body, run⟩ := exec_issues e s
    obtain ⟨q, hq⟩ := Option.ne_none_iff_exists'.1 queued
    exact run.trans (issue_held hq held)
  case scalar =>
    fin_cases hi
    all_goals exact illegal_taken rfl rfl (by simp [illegal]) hs
  case forms =>
    fin_cases hp
    all_goals
      dsimp only at illegal hs ⊢
      exact illegal_taken rfl rfl (by simp [illegal]) hs
  case counts =>
    have ok : Form.nil.ok f = true := ok
    have run := issue_completes (i := .nop c f) (y := s.core c) (body := fun s => completeWith c (s.core c) s) rfl hs
      (causes := [(.illegal, !Form.nil.ok f)]) (by simp [ok]) rfl rfl
    refine ⟨_, (exec_nop c f s).trans run, ?_⟩
    rw [completeWith_core]
    exact issued_counters (s.core c)
  case goesOn =>
    fin_cases hi
    all_goals exact vec2_goesOn rfl rfl (queued _ rfl) on oldest

end Sys2Proof.Machine
end

section
/-! PROOFS. MREG (R81): accumulator rows written one after another. -/

namespace Sys2Proof.Machine

/-! ## The accumulator file -/

theorem fold_set_get (base : Nat) : ∀ (vs : List F32) (k : Nat) (m : Sparse (BitVec 32)) (a : Nat),
    ((vs.zipIdx k).foldl (fun acc v => acc.set 0 (base + v.2) v.1) m).get 0 a
      = if base + k ≤ a ∧ a < base + k + vs.length then vs.getD (a - (base + k)) 0 else m.get 0 a
  | [], k, m, a => by simp
  | v :: vs, k, m, a => by
    rw [List.zipIdx_cons, List.foldl_cons, fold_set_get base vs (k + 1)]
    by_cases here : a = base + k
    · subst here
      simp
    · rw [Sparse.get_set_other _ _ _ _ _ here]
      by_cases later : base + (k + 1) ≤ a ∧ a < base + (k + 1) + vs.length
      · have inside : base + k ≤ a ∧ a < base + k + (v :: vs).length := by
          simp only [List.length_cons]; omega
        have next : a - (base + k) = (a - (base + (k + 1))) + 1 := by omega
        rw [if_pos later, if_pos inside, next, List.getD_cons_succ]
      · have outside : ¬(base + k ≤ a ∧ a < base + k + (v :: vs).length) := by
          simp only [List.length_cons]; omega
        rw [if_neg later, if_neg outside]

/-- One row of the accumulator file written. -/
theorem setAccRow_get (c : CoreId) (r : Nat) (vs : List F32) (m : Sparse (BitVec 32)) (a : Nat) :
    (setAccRow c r vs m).get 0 a = if r * engineCols c ≤ a ∧ a < r * engineCols c + vs.length
      then vs.getD (a - r * engineCols c) 0 else m.get 0 a :=
  fold_set_get (r * engineCols c) vs 0 m a

/-- Rows `first` on of the accumulator file, the `r`-th written with `g r` and poison `p r`. -/
def Core.accFilled (c : CoreId) (first : Nat) (g : Nat → List F32) (p : Nat → Bool) (n : Nat) (x : Core) : Core :=
  (List.range n).foldl (fun y r => y.setAcc c (first + r) (g r) (p r)) x

/-- What writing `n` rows of the accumulator file changes. -/
structure AccFilled (c : CoreId) (first : Nat) (g : Nat → List F32) (p : Nat → Bool) (n : Nat) (x y : Core) : Prop where
  rest : y = { x with acc := y.acc, accPoison := y.accPoison }
  row : ∀ r j, r < n → j < engineCols c → y.acc.get 0 ((first + r) * engineCols c + j) = (g r).getD j 0
  outside : ∀ a, (a < first * engineCols c ∨ (first + n) * engineCols c ≤ a) → y.acc.get 0 a = x.acc.get 0 a
  poison : ∀ r, r < n → y.accPoison.get false (first + r) = p r

theorem accFilled_spec (c : CoreId) (first : Nat) (g : Nat → List F32) (p : Nat → Bool)
    (hg : ∀ r, (g r).length = engineCols c) (x : Core) : ∀ n, AccFilled c first g p n x (x.accFilled c first g p n)
  | 0 => ⟨rfl, fun _ _ h => absurd h (Nat.not_lt_zero _), fun _ _ => rfl, fun _ h => absurd h (Nat.not_lt_zero _)⟩
  | n + 1 => by
    obtain ⟨rest, row, outside, poison⟩ := accFilled_spec c first g p hg x n
    have step : x.accFilled c first g p (n + 1) = (x.accFilled c first g p n).setAcc c (first + n) (g n) (p n) := by
      rw [Core.accFilled, List.range_succ, List.foldl_append]; rfl
    rw [step]
    generalize x.accFilled c first g p n = y at rest row outside poison
    have get (a : Nat) : (y.setAcc c (first + n) (g n) (p n)).acc.get 0 a
        = if (first + n) * engineCols c ≤ a ∧ a < (first + n) * engineCols c + engineCols c
          then (g n).getD (a - (first + n) * engineCols c) 0 else y.acc.get 0 a := by
      rw [Core.setAcc, setAccRow_get, hg]
    refine ⟨by rw [Core.setAcc, rest], fun r j hr hj => ?_, fun a ha => ?_, fun r hr => ?_⟩
    · rw [get]
      by_cases last : r = n
      · subst last
        rw [if_pos (by omega), Nat.add_sub_cancel_left]
      · have before : (first + r) * engineCols c + engineCols c ≤ (first + n) * engineCols c := by
          rw [← Nat.succ_mul]; exact Nat.mul_le_mul_right _ (by omega)
        rw [if_neg (by omega)]
        exact row r j (by omega) hj
    · have last : (first + (n + 1)) * engineCols c = (first + n) * engineCols c + engineCols c := by
        rw [← Nat.succ_mul]; rfl
      have begins : first * engineCols c ≤ (first + n) * engineCols c := Nat.mul_le_mul_right _ (by omega)
      rw [get, if_neg (by omega)]
      exact outside a (by omega)
    · by_cases last : r = n
      · subst last; exact Sparse.get_set_same ..
      · exact (Sparse.get_set_other _ _ _ _ _ (by omega)).trans (poison r (by omega))

/-! ## Several rows read -/

/-- Rows read in ascending order: what they deliver, and what reading them changes. -/
theorem readBenchRows_read (c : CoreId) (src : Nat) : ∀ (l : List Nat) (s : State),
    (readBenchRows c src l s).1.map Prod.fst = l.map (fun r => Memory.row (benchAddr c r) s.mem)
      ∧ (∃ g, (readBenchRows c src l s).2.core c = (s.core c).withLog g) ∧ OnlyCoreReading c s (readBenchRows c src l s).2
  | [], s => ⟨rfl, ⟨(s.core c).errLog, rfl⟩, fun _ => rfl, fun _ _ => rfl, fun _ => rfl, rfl⟩
  | r :: rs, s => by
    have read := readBench_read c r src s
    obtain ⟨⟨g, log⟩, -, rest, -, -⟩ := id read
    obtain ⟨data, ⟨g', log'⟩, only⟩ := readBenchRows_read c src rs (readBench c r src s).2
    refine ⟨?_, ⟨g', log'.trans (by rw [log]; rfl)⟩, read.onlyReading.trans only⟩
    have mem : (readBench c r src s).2.mem = s.mem := by rw [rest]
    rw [mem] at data
    exact congrArg₂ List.cons (readBench_data c r src s) data

/-! ## MREG -/

/-- The instruction, with the core as `y`, completes when it is done and otherwise pauses without progress. -/
theorem exec_ends_or_pauses_quietly {i : Instr} {c : CoreId} {op : Nat} {f : Fields} {s t : State} {unit : UnitQ} {y : Core}
    {causes : List (ExcClass × Bool)} {body : State → State} (e : coreInstr i = some (c, op, f)) (hs : Starts i s)
    (hc : ∀ k ∈ causes, k.2 = false) (run : exec i s = issue c op f causes body s) (stays : Stays (s.core c) y)
    (hu : opUnit op = some unit) (last : y.lastQueue = (s.core c).lastQueue) {done : Prop} [Decidable done]
    (hb : body s = if done then completeWith c y t else pauseWith c y t) :
    ∃ t', exec i s = .next t' ∧ OnlyCore c t t' ∧ EndsOrPauses op f done (s.core c) (t'.core c)
      ∧ Bookkept y (t'.core c) := by
  by_cases h : done
  · rw [if_pos h] at hb
    obtain ⟨t', ex, only, ends, kept⟩ := exec_ends e hs hc run stays last hb
    exact ⟨t', ex, only, ⟨fun _ => ends, absurd h⟩, kept⟩
  · rw [if_neg h] at hb
    obtain ⟨t', ex, only, pauses, kept⟩ := exec_pauses e hs hc run stays hu hb (State.setCore_core ..) (onlyCore_setCore ..)
    exact ⟨t', ex, only, ⟨(absurd · h), fun _ => pauses⟩, kept⟩

theorem Bookkept.accPoison {y z : Core} (h : Bookkept y z) : z.accPoison = y.accPoison := by rw [h]

theorem Core.readOne_plain (x : Core) : x = x.readOne false x.errLog := by
  simp [Core.readOne, Core.taint, Core.withLog]

/-- A core with region `i` defined as `r`, and no lane of it kept. -/
def Core.withRegion (x : Core) (i : Nat) (r : Region) : Core :=
  { x with regions := x.regions.set none i (some r), lanes := x.lanes.filter (fun l => l.region ≠ i) }

section
variable {x y z : Core} {i : Nat} {r : Region}

theorem Core.withRegion_region (j : Nat) : (x.withRegion i r).region j = if j = i then some r else x.region j := by
  by_cases e : j = i
  · subst e; simp [Core.withRegion, Core.region]
  · simp [Core.withRegion, Core.region, Sparse.get_set_other _ _ _ _ _ e, e]

theorem stays_withRegion : Stays x (x.withRegion i r) := ⟨rfl, rfl, rfl, rfl, rfl⟩

end

theorem AccFilled.stays {c : CoreId} {first : Nat} {g : Nat → List F32} {p : Nat → Bool} {n : Nat} {x y : Core}
    (h : AccFilled c first g p n x y) : Stays x y := by
  rw [h.rest]; exact ⟨rfl, rfl, rfl, rfl, rfl⟩

/-- What MREG leaves of the core: its region is defined, `k` of its rows are written, and nothing else of what a task reads
differs. -/
structure RegionDefined (c : CoreId) (i : Nat) (r : Region) (g : Nat → List F32) (k : Nat) (x z : Core) : Prop where
  region : ∀ j, z.region j = if j = i then some r else x.region j
  row : ∀ m j, m < k → j < engineCols c → z.acc.get 0 ((r.first + m) * engineCols c + j) = (g m).getD j 0
  outside : ∀ a, (a < r.first * engineCols c ∨ (r.first + k) * engineCols c ≤ a) → z.acc.get 0 a = x.acc.get 0 a
  same : z.g = x.g ∧ z.v = x.v ∧ z.qout = x.qout ∧ z.qcw = x.qcw

theorem AccFilled.defined {c : CoreId} {i : Nat} {r : Region} {g : Nat → List F32} {p : Nat → Bool} {k : Nat}
    {x x' y z : Core} (h : AccFilled c r.first g p k x' y) (before : ∃ q l, x' = (x.withRegion i r).readOne q l)
    (kept : Bookkept y z) : RegionDefined c i r g k x z := by
  obtain ⟨rest, row, outside, -⟩ := h
  obtain ⟨q, l, rfl⟩ := before
  have acc : z.acc = y.acc := by rw [kept]
  refine ⟨fun j => ?_, fun m j hm hj => ?_, fun a ha => ?_, ?_⟩
  · have regions : z.regions = (x.withRegion i r).regions := by rw [kept, rest]; rfl
    rw [Core.region, regions]
    exact Core.withRegion_region j
  · rw [acc]; exact row m j hm hj
  · rw [acc]; exact outside a ha
  · rw [kept, rest]; exact ⟨rfl, rfl, rfl, rfl⟩

theorem RegionDefined.congr {c : CoreId} {i : Nat} {r : Region} {g h : Nat → List F32} {k : Nat} {x z : Core}
    (d : RegionDefined c i r g k x z) (same : ∀ m j, m < k → j < engineCols c → (g m).getD j 0 = (h m).getD j 0) :
    RegionDefined c i r h k x z :=
  ⟨d.region, fun m j hm hj => (d.row m j hm hj).trans (same m j hm hj), d.outside, d.same⟩

/-- Both kinds of core have a power of two columns that divides the 128 values of a bench row. -/
theorem engineCols_cases (c : CoreId) : engineCols c = 32 ∨ engineCols c = 64 := by
  unfold engineCols
  split
  · exact .inl rfl
  · exact .inr rfl

/-- The values of one accumulator row lie in one bench row, which a load of `k` rows reads. -/
theorem loadRows_index {c : CoreId} {r j k : Nat} (hr : r < k) (hj : j < engineCols c) :
    (r * engineCols c + j) / 128 = r * engineCols c / 128 ∧ r * engineCols c / 128 < loadRows c k := by
  have rows : loadRows c k = (k * engineCols c + 128 - 1) / 128 := rfl
  rw [rows]
  obtain cols | cols := engineCols_cases c <;> rw [cols] at hj ⊢ <;> omega

/-- The row of values that a load writes. -/
def loadedRow (c : CoreId) (data : List (Row × Bool)) (r : Nat) : List F32 :=
  (List.range (engineCols c)).map fun j =>
    Row.word32 (data.getD (r * engineCols c / 128) (0, false)).1 ((r * engineCols c + j) % 128)

theorem loadRegion_filled (c : CoreId) (first rows : Nat) (data : List (Row × Bool)) (x : Core) :
    loadRegion c first rows data x
      = x.accFilled c first (loadedRow c data) (fun r => (data.getD (r * engineCols c / 128) (0, false)).2) rows := rfl

/-- What the rows that a load has read give its values. -/
theorem loadedRow_getD {c : CoreId} {data : List (Row × Bool)} {g : Nat → Row} {k r j : Nat}
    (h : data.map Prod.fst = (List.range (loadRows c k)).map g) (hr : r < k) (hj : j < engineCols c) :
    (loadedRow c data r).getD j 0
      = Row.word32 (g ((r * engineCols c + j) / 128)) ((r * engineCols c + j) % 128) := by
  obtain ⟨row, inside⟩ := loadRows_index hr hj
  have read : (data.getD (r * engineCols c / 128) (0, false)).1 = g (r * engineCols c / 128) := by
    refine (List.getD_map data (0, false) Prod.fst).symm.trans ?_
    rw [h]
    simp [inside]
  rw [row, ← read]
  simp [loadedRow, hj]

section
variable {c : CoreId} {f : Fields} {stop : Option Nat} {s : State}

/-- MREG that clears. -/
theorem mreg_clears (hs : Starts (.mreg c f stop) s) (load : bit f.mod 1 = false)
    (ok : Form.ok ⟨3, 0, 0, 1, 2, 16⟩ f = true) (some : 1 ≤ mregRows f.imm)
    (fits : regionFits c (s.core c) f.d.toNat ⟨mregFirst f.imm, mregRows f.imm, 0⟩ = true) :
    ∃ t, exec (.mreg c f stop) s = .next t ∧ OnlyCore c s t ∧ Advanced (s.core c) (t.core c)
      ∧ RegionDefined c f.d.toNat ⟨mregFirst f.imm, mregRows f.imm, 0⟩ (fun _ => List.replicate (engineCols c) 0)
          (mregRows f.imm) (s.core c) (t.core c)
      ∧ ∀ r, r < mregRows f.imm → (t.core c).accPoison.get false (mregFirst f.imm + r) = false := by
  have cleared := accFilled_spec c (mregFirst f.imm) (fun _ => List.replicate (engineCols c) 0) (fun _ => false) (by simp)
    ((s.core c).withRegion f.d.toNat ⟨mregFirst f.imm, mregRows f.imm, 0⟩) (mregRows f.imm)
  have begun := onlyCore_setCore c ((s.core c).withRegion f.d.toNat ⟨mregFirst f.imm, mregRows f.imm, 0⟩) s
  have core : (s.setCore c ((s.core c).withRegion f.d.toNat ⟨mregFirst f.imm, mregRows f.imm, 0⟩)).core c
    = (s.core c).withRegion f.d.toNat ⟨mregFirst f.imm, mregRows f.imm, 0⟩ := State.setCore_core ..
  have plain := Core.readOne_plain ((s.core c).withRegion f.d.toNat ⟨mregFirst f.imm, mregRows f.imm, 0⟩)
  have last : ((s.core c).withRegion f.d.toNat ⟨mregFirst f.imm, mregRows f.imm, 0⟩).lastQueue = (s.core c).lastQueue := rfl
  generalize hy : Core.accFilled _ _ _ _ _ _ = y at cleared
  obtain ⟨t', ex, after, ends, kept⟩ := exec_ends (i := .mreg c f stop) (y := y)
    (t := s.setCore c ((s.core c).withRegion f.d.toNat ⟨mregFirst f.imm, mregRows f.imm, 0⟩)) rfl hs (by simp [load, ok, some, fits])
    (exec_mreg c f stop s) (stays_withRegion.trans cleared.stays) (by rw [cleared.rest]; exact last)
    (by simp only [load, ← hy]; exact congrArg (completeWith c · _) (congrArg (clearRegion c _ _) core))
  exact ⟨t', ex, begun.trans after, ends, cleared.defined ⟨false, _, plain⟩ kept, fun r hr => by
    rw [kept.accPoison]; exact cleared.poison r hr⟩

/-- MREG that loads. -/
theorem mreg_loads (hs : Starts (.mreg c f stop) s) (load : bit f.mod 1 = true)
    (ok : Form.ok ⟨3, 5, 0, 1, 2, 16⟩ f = true) (some : 1 ≤ mregRows f.imm)
    (fits : regionFits c (s.core c) f.d.toNat ⟨mregFirst f.imm, mregRows f.imm, 0⟩ = true)
    (inside : (s.core c).rowsIn ((s.core c).rd f.a.toNat).toNat (loadRows c (mregRows f.imm)) = true) :
    ∃ t, exec (.mreg c f stop) s = .next t ∧ OnlyCoreReading c s t
      ∧ EndsOrPauses Op.mreg f (pauseAt stop (mregRows f.imm) = mregRows f.imm) (s.core c) (t.core c)
      ∧ RegionDefined c f.d.toNat ⟨mregFirst f.imm, mregRows f.imm, 0⟩ (fun r => (List.range (engineCols c)).map fun j =>
          Row.word32 (taskRow s c (((s.core c).rd f.a.toNat).toNat + (r * engineCols c + j) / 128))
            ((r * engineCols c + j) % 128))
          (pauseAt stop (mregRows f.imm)) (s.core c) (t.core c) := by
  have begun := (onlyCore_setCore c ((s.core c).withRegion f.d.toNat ⟨mregFirst f.imm, mregRows f.imm, 0⟩) s).trans
    (onlyCore_setCore c (((s.core c).withRegion f.d.toNat ⟨mregFirst f.imm, mregRows f.imm, 0⟩).taint
      ((s.core c).rdP f.a.toNat)) _)
  have core := State.setCore_core (s.setCore c ((s.core c).withRegion f.d.toNat ⟨mregFirst f.imm, mregRows f.imm, 0⟩)) c
    (((s.core c).withRegion f.d.toNat ⟨mregFirst f.imm, mregRows f.imm, 0⟩).taint ((s.core c).rdP f.a.toNat))
  generalize hs1 : State.setCore (State.setCore s c _) c _ = s1 at begun core
  obtain ⟨data, ⟨l, log⟩, read⟩ := readBenchRows_read c 1 ((List.range (loadRows c (pauseAt stop (mregRows f.imm)))).map
    fun j => (s.core c).phys (((s.core c).rd f.a.toNat).toNat + j)) s1
  generalize hv : readBenchRows c 1 _ s1 = v at data log read
  have mem : s1.mem = s.mem := by rw [begun.2.2.2]
  have begunCore : v.2.core c
    = ((s.core c).withRegion f.d.toNat ⟨mregFirst f.imm, mregRows f.imm, 0⟩).readOne ((s.core c).rdP f.a.toNat) l := by
    rw [log, core]; rfl
  have filled := accFilled_spec c (mregFirst f.imm) (loadedRow c v.1)
    (fun r => (v.1.getD (r * engineCols c / 128) (0, false)).2) (by simp [loadedRow]) (v.2.core c)
    (pauseAt stop (mregRows f.imm))
  rw [← loadRegion_filled] at filled
  generalize hy : loadRegion _ _ _ _ _ = y at filled
  have started : Stays (s.core c) (v.2.core c) := by
    rw [begunCore]; exact stays_withRegion.trans (stays_readOne ..)
  have last : y.lastQueue = (s.core c).lastQueue := by rw [filled.rest, begunCore]; rfl
  obtain ⟨t', ex, after, ends, kept⟩ := exec_ends_or_pauses_quietly (i := .mreg c f stop) (t := v.2) (y := y) rfl hs
    (by simp [load, ok, some, fits, inside]) (exec_mreg c f stop s) (started.trans filled.stays) rfl last
    (by rw [← hy, ← hv, ← hs1]; simp only [load, if_true, State.setCore_core]; rfl)
  refine ⟨t', ex, begun.reading.trans (read.trans after.reading), ends, (filled.defined ⟨_, l, begunCore⟩ kept).congr
    fun m j hm hj => ?_⟩
  rw [List.map_map, mem] at data
  rw [loadedRow_getD data hm hj]
  simp [hj]
  rfl

end

/-- Settles O10: MREG that clears and MREG that loads. -/
theorem mregDefinesARegion : Obligations.MregDefinesARegion := by
  unfold Obligations.MregDefinesARegion
  intro c f stop s hs
  dsimp only
  intro ok some fits inside
  cases load : bit f.mod 1 with
  | false =>
    rw [load] at ok
    obtain ⟨t, ex, only, ends, ⟨region, row, outside, g, v, qout, qcw⟩, poison⟩ := mreg_clears hs load ok some fits
    refine ⟨t, ex, only.reading, ⟨fun _ => ends, fun h => absurd rfl h⟩, region, fun r j hr hj => ?_, outside,
      fun _ => poison, g, v, qout, qcw⟩
    refine (row r j hr hj).trans ?_
    simp [hj]
  | true =>
    rw [load] at ok
    obtain ⟨t, ex, only, ends, region, row, outside, g, v, qout, qcw⟩ := mreg_loads hs load ok some fits (inside load)
    refine ⟨t, ex, only, ends, region, fun r j hr hj => ?_, outside, fun h => absurd h (by decide), g, v, qout, qcw⟩
    refine (row r j hr hj).trans ?_
    simp [hj]

end Sys2Proof.Machine
end

section
/-! PROOFS. Items that leave a core: no core but the producer's staging changes, whatever queue takes them. -/

namespace Sys2Proof.Machine

/-! ## Packets leave the cores alone -/

@[simp] theorem transmit_cores (l : LinkId) (vc : Nat) (header : BitVec 128) (p : Payload) (s : State) :
    (transmit l vc header p s).cores = s.cores := rfl

@[simp] theorem raise0_cores (kind value : Nat) (s : State) : (raise0 kind value s).cores = s.cores := rfl

@[simp] theorem sendTo_cores (dst : Nat) (odd : Bool) (header : BitVec 128) (p : Payload) (s : State) :
    (sendTo dst odd header p s).cores = s.cores := by
  fun_cases sendTo dst odd header p s <;> simp

@[simp] theorem sendRouted_cores (k : CoupeId) (dst : Nat) (odd : Bool) (header : BitVec 128) (p : Payload) (s : State) :
    (sendRouted k dst odd header p s).cores = s.cores := by
  fun_cases sendRouted k dst odd header p s <;> simp

@[simp] theorem sendMember_cores (k : CoupeId) (m ptype channel : Nat) (poison : Bool) (len ord : Nat) (p : Payload)
    (s : State) : (sendMember k m ptype channel poison len ord p s).cores = s.cores := by
  fun_cases sendMember k m ptype channel poison len ord p s <;> simp

@[simp] theorem setQueue_cores (s : State) (k : CoupeId) (h : BitVec 16) (q : Option Queue) :
    (s.setQueue k h q).cores = s.cores := rfl

@[simp] theorem enterQueue_cores (k : CoupeId) (h : BitVec 16) (q : Queue) (it : Item) (s : State) :
    (enterQueue k h q it s).cores = s.cores := rfl

@[simp] theorem creditPart_cores (k : CoupeId) (h : BitVec 16) (m : Nat) (s : State) :
    (creditPart k h m s).cores = s.cores := by
  fun_cases creditPart k h m s <;> simp

theorem foldl_cores {α : Type} {f : State → α → State} (h : ∀ t x, (f t x).cores = t.cores) (l : List α) (s : State) :
    (l.foldl f s).cores = s.cores := by
  induction l generalizing s with
  | nil => rfl
  | cons x l ih => rw [List.foldl_cons, ih, h]

@[simp] theorem contribute_cores (k : CoupeId) (h : BitVec 16) (m : Nat) (ord : BitVec 16) (data : Row) (poison : Bool)
    (s : State) : (contribute k h m ord data poison s).cores = s.cores := by
  dsimp only [contribute]
  split
  · rfl
  · refine (foldl_cores (fun t (p : Nat × Row × Bool) => creditPart_cores k h p.1 t) _ _).trans ?_
    split <;> simp

theorem sendItem_cores {k : CoupeId} {h : BitVec 16} {q : Queue} {it : Item} {s t : State}
    (e : sendItem k h q it s = some t) : t.cores = s.cores := by
  simp only [sendItem] at e
  repeat' split at e
  all_goals cases e <;> simp

theorem releaseItems_cores (k : CoupeId) (h : BitVec 16) (l : List Item) (s : State) :
    (releaseItems k h l s).2.cores = s.cores := by
  fun_induction releaseItems k h l s with
  | case4 _ _ _ _ _ _ e ih => exact ih.trans (sendItem_cores e)
  | _ => rfl

/-! ## What giving an item changes of the cores -/

/-- No core but `c` differs, and of that at most the staging of its output ports. -/
def OnlyStages (c : CoreId) (s t : State) : Prop :=
  OtherCoresSame c s t ∧ ∃ o, t.core c = (s.core c).withStages o

theorem OnlyStages.trans {c : CoreId} {s t u : State} (h : OnlyStages c s t) (g : OnlyStages c t u) : OnlyStages c s u := by
  obtain ⟨hc, o, ho⟩ := h
  obtain ⟨gc, o', go⟩ := g
  exact ⟨hc.trans gc, o', by rw [go, ho]; rfl⟩

theorem onlyStages_setCore (c : CoreId) (o : Sparse (List Item)) (s : State) :
    OnlyStages c s (s.setCore c ((s.core c).withStages o)) :=
  ⟨otherCoresSame_setCore _ _ _, o, State.setCore_core ..⟩

theorem onlyStages_of_cores {c : CoreId} {s t : State} (h : t.cores = s.cores) : OnlyStages c s t := by
  have core (d : CoreId) : t.core d = s.core d := by rw [State.core, State.core, h]
  exact ⟨fun d _ => core d, (s.core c).outStage, core c⟩

theorem releasePort_stages (c : CoreId) (p : Nat) (k : CoupeId) (h : BitVec 16) (s : State) :
    OnlyStages c s (releasePort c p k h s) := by
  have left := onlyStages_of_cores (c := c) (releaseItems_cores k h ((s.core c).outStage.get [] p) s)
  dsimp only [releasePort]
  generalize releaseItems k h ((s.core c).outStage.get [] p) s = v at left
  have put := left.trans (onlyStages_setCore c ((v.2.core c).outStage.set [] p v.1) v.2)
  split
  · exact put.trans (onlyStages_of_cores (progress_cores ..))
  · exact put

theorem pushItem_stages {c : CoreId} {p : Nat} {b : Bound} {it : Item} {s t : State} (e : pushItem c p b it s = some t) :
    OnlyStages c s t := by
  rw [pushItem_eq, Option.map_eq_some_iff] at e
  obtain ⟨s0, room, rfl⟩ := e
  have released : OnlyStages c s s0 := by
    simp only [portRoom] at room
    split at room
    · cases room; exact releasePort_stages ..
    · cases room
  exact (released.trans (onlyStages_setCore c _ s0)).trans (releasePort_stages ..)

end Sys2Proof.Machine
end

section
/-! PROOFS. QCW, QFLUSH and QCB (R24, R49, R77, R91). -/

namespace Sys2Proof.Machine

/-! ## What writing out leaves of the core -/

/-- The task stands at the same instruction, with the same ones issued and the same last queue. -/
def Stands (x y : Core) : Prop := Stays x y ∧ y.lastQueue = x.lastQueue

theorem Stands.refl (x : Core) : Stands x x := ⟨⟨rfl, rfl, rfl, rfl, rfl⟩, rfl⟩

theorem Stands.trans {x y z : Core} (h : Stands x y) (g : Stands y z) : Stands x z := ⟨h.1.trans g.1, g.2.trans h.2⟩

/-- A core that holds other output of the quantiser. -/
def Core.withQout (x : Core) (q : Option QOut) : Core := { x with qout := q }

theorem stands_withQout (x : Core) (q : Option QOut) : Stands x (x.withQout q) := ⟨⟨rfl, rfl, rfl, rfl, rfl⟩, rfl⟩
theorem stands_withStages (x : Core) (o : Sparse (List Item)) : Stands x (x.withStages o) := ⟨stays_withStages x o, rfl⟩

theorem stands_setCore (c : CoreId) (x : Core) (s : State) : Stands x ((s.setCore c x).core c) := by
  rw [State.setCore_core]; exact .refl x

/-- What has moved on from where the task stands. -/
theorem Stands.advanced {x y z : Core} (h : Stands x y) (g : Advanced x z) : Advanced y z := by
  obtain ⟨⟨pc, -, -, queue, seq⟩, last⟩ := h
  unfold Advanced at *
  rwa [pc, queue, seq, last]

theorem Stands.pausesQueued {op : Nat} {f : Fields} {x y z : Core} (h : Stands x y) (g : PausesQueued op f x z) :
    PausesQueued op f y z := by
  obtain ⟨⟨pc, -, -, queue, seq⟩, last⟩ := h
  unfold PausesQueued WaitsQueued at *
  rwa [pc, queue, seq]

theorem emit_stands (c : CoreId) (final : Bool) (n : Nat) (s : State) : Stands (s.core c) ((emit c final n s).2.core c) := by
  fun_induction emit c final n s with
  | case1 | case2 | case3 | case5 | case6 => exact .refl _
  | case4 fuel s x q held plane r p q' next bench ih =>
    refine Stands.trans ?_ ih
    have core : (progress (taskWrite c (x.phys (q.planeRow plane)) r p (s.setCore c (x.withQout (some q')))) c).core c
        = x.withQout (some q') := by
      rw [progress_core]; exact State.setCore_core ..
    exact (congrArg (Stands x) core).mpr (stands_withQout ..)
  | case7 fuel s x q held plane r p q' next i port b hb t given ih =>
    refine Stands.trans ?_ ih
    obtain ⟨-, o, core⟩ := pushItem_stages given
    have written : (progress (t.setCore c ((t.core c).withQout (some q'))) c).core c = (t.core c).withQout (some q') := by
      rw [progress_core]; exact State.setCore_core ..
    refine (congrArg (Stands x) written).mpr ?_
    rw [core]
    exact (stands_withStages ..).trans (stands_withQout ..)

/-- Writing out what is held: the task stands where it stood. -/
theorem writeOut_stands (c : CoreId) (s : State) : Stands (s.core c) ((writeOut c s).2.core c) := by
  fun_cases writeOut c s with
  | case1 none => exact .refl _
  | case2 q held t run =>
    have stands := emit_stands c true q.fuel s
    rw [run] at stands
    exact (stands.trans (stands_withQout _ none)).trans (stands_setCore c _ t)
  | case3 q held ok t run failed =>
    have stands := emit_stands c true q.fuel s
    rwa [run] at stands

theorem writeOut_empty {c : CoreId} {s : State} (h : (s.core c).qout = none) : writeOut c s = (true, s) := by
  rw [writeOut, h]

/-- Once everything is written out nothing is held. -/
theorem writeOut_none {c : CoreId} {s : State} (ok : (writeOut c s).1 = true) : ((writeOut c s).2.core c).qout = none := by
  fun_cases writeOut c s with
  | case1 none => exact none
  | case2 q held t run => exact congrArg Core.qout (State.setCore_core ..)
  | case3 q held ok' t run failed =>
    have ended : writeOut c s = (false, t) := by simp [writeOut, held, run, failed]
    rw [ended] at ok
    cases ok

/-- A core with another control word. -/
def Core.withQcw (x : Core) (w : BitVec 64) : Core := { x with qcw := w }

theorem stays_withQcw (x : Core) (w : BitVec 64) : Stays x (x.withQcw w) := ⟨rfl, rfl, rfl, rfl, rfl⟩

theorem scalarIs_withQcw (x : Core) (w : BitVec 64) (p : Bool) : ScalarIs 0 0 false x ((x.withQcw w).taint p) :=
  scalarIs_of (scalarIs_same x) rfl rfl

/-- A core with another codebook. -/
def Core.withCodebook (x : Core) (k : BitVec 256) : Core := { x with codebook := some k }

theorem stays_withCodebook (x : Core) (k : BitVec 256) : Stays x (x.withCodebook k) := ⟨rfl, rfl, rfl, rfl, rfl⟩

theorem scalarIs_withCodebook (x : Core) (p : Bool) (l : BitVec 64) (k : BitVec 256) :
    ScalarIs 0 0 false x ((x.readOne p l).withCodebook k) := scalarIs_of (scalarIs_same x) rfl rfl

theorem withCodebook_is (x : Core) (p : Bool) (l : BitVec 64) (k : BitVec 256) :
    ((x.readOne p l).withCodebook k).codebook = some k ∧ ((x.readOne p l).withCodebook k).qcw = x.qcw
      ∧ ((x.readOne p l).withCodebook k).qout = x.qout ∧ ((x.readOne p l).withCodebook k).acc = x.acc
      ∧ ((x.readOne p l).withCodebook k).v = x.v ∧ ((x.readOne p l).withCodebook k).lastQueue = x.lastQueue :=
  ⟨rfl, rfl, rfl, rfl, rfl, rfl⟩

theorem Bookkept.quantiser {y z : Core} (h : Bookkept y z) :
    z.codebook = y.codebook ∧ z.qcw = y.qcw ∧ z.qout = y.qout ∧ z.acc = y.acc := by
  rw [h]; exact ⟨rfl, rfl, rfl, rfl⟩

/-- Settles O12: what is written out leaves the task where it stands, and each instruction then completes or pauses. -/
theorem quantiserControl : Obligations.QuantiserControl := by
  unfold Obligations.QuantiserControl
  refine fun c f s => ⟨fun ok word written hs => ?qcw, fun ok written hs => ?qflush, fun k ok => fun hs written => ?part,
    fun ok hs inside legal => ?qcb⟩
  case qcw =>
    obtain ⟨stays, last⟩ := writeOut_stands c s
    have stands := writeOut_stands c s
    obtain ⟨t', ex, only, ends, kept⟩ := exec_ends (i := .qcw c f) (t := (writeOut c s).2)
      (y := (((writeOut c s).2.core c).withQcw ((s.core c).rd f.a.toNat)).taint ((s.core c).rdP f.a.toNat)) rfl hs
      (by simp [ok, word]) (exec_qcw c f s) (stays.trans ((stays_withQcw ..).trans (stays_taint ..))) last
      (by simp only [written, if_true]; rfl)
    refine ⟨t', ex, only, stands.advanced ends, ?_, ?_, kept.scalarIs (scalarIs_withQcw ..), fun none => ?_⟩
    · rw [kept]; rfl
    · rw [kept]; exact writeOut_none written
    · rw [writeOut_empty none]
  case qflush =>
    have ok : Form.nil.ok f = true := ok
    obtain ⟨stays, last⟩ := writeOut_stands c s
    have stands := writeOut_stands c s
    obtain ⟨t', ex, only, ends, kept⟩ := exec_ends (i := .qflush c f none) (t := (writeOut c s).2)
      (y := (writeOut c s).2.core c) rfl hs (by simp [ok]) (exec_qflush c f none s) stays last
      (by simp only [written, if_true])
    refine ⟨t', ex, only, stands.advanced ends, ?_, kept.taintFrame.scalarFrame kept.tainted,
      kept.scalarIs (scalarIs_same _), fun none => ?_⟩
    · rw [kept]; exact writeOut_none written
    · rw [writeOut_empty none]
  case part =>
    have ok : Form.nil.ok f = true := ok
    obtain ⟨stays, last⟩ := emit_stands c true k s
    have stands := emit_stands c true k s
    cases more : (((emit c true k s).2.core c).qout.bind (fun q => q.nextRow true)).isSome with
    | false =>
      obtain ⟨t', ex, only, ends, kept⟩ := exec_ends (i := .qflush c f (some k)) (t := (emit c true k s).2)
        (y := ((emit c true k s).2.core c).withQout none) rfl hs (by simp [ok]) (exec_qflush c f (some k) s)
        (stays.trans (stands_withQout ..).1) last
        (by simp [written, Option.isSome_eq_false_iff.1 more]; rfl)
      exact ⟨t', ex, only, ⟨fun _ => stands.advanced ends, fun h => absurd (by simp) h⟩, by rw [kept]; rfl⟩
    | true =>
      obtain ⟨t', ex, only, pauses, kept⟩ := exec_pauses (i := .qflush c f (some k)) (t := (emit c true k s).2)
        (y := ((emit c true k s).2.core c)) rfl hs (by simp [ok]) (exec_qflush c f (some k) s)
        stays rfl (u := pauseWith c ((emit c true k s).2.core c) (emit c true k s).2) 
        (by simp [written, Option.isNone_iff_eq_none, Option.isSome_iff_ne_none.1 more]) (State.setCore_core ..)
        (onlyCore_setCore ..)
      refine ⟨t', ex, only, ⟨fun h => absurd rfl h, fun _ => stands.pausesQueued pauses⟩, ?_⟩
      have held : (t'.core c).qout = ((emit c true k s).2.core c).qout := by rw [kept]
      rw [held]
      cases out : ((emit c true k s).2.core c).qout with
      | none => rw [out] at more; exact absurd more (by simp)
      | some q => rfl
  case qcb =>
    obtain ⟨l, t, read, core, only⟩ := reads_row c ((s.core c).rdP f.a.toNat) ((s.core c).rd f.a.toNat).toNat s
    have same := scalarIs_withCodebook ((s.core c)) ((s.core c).rdP f.a.toNat) l
      (codebookAt (taskRow s c ((s.core c).rd f.a.toNat).toNat) f.imm.toNat)
    obtain ⟨book', qcw', qout', acc', v, last'⟩ := withCodebook_is (s.core c) ((s.core c).rdP f.a.toNat) l
      (codebookAt (taskRow s c ((s.core c).rd f.a.toNat).toNat) f.imm.toNat)
    have legal : codebookOk (codebookAt (Memory.row (benchAddr c ((s.core c).phys ((s.core c).rd f.a.toNat).toNat)) s.mem)
      f.imm.toNat) = true := legal
    obtain ⟨t', ex, after, ends, kept⟩ := exec_ends (i := .qcb c f) (t := t) (y := ((s.core c).readOne ((s.core c).rdP f.a.toNat)
      l).withCodebook (codebookAt (taskRow s c ((s.core c).rd f.a.toNat).toNat) f.imm.toNat)) rfl hs
      (by simp [ok, inside, legal]) (exec_qcb c f s) ((stays_readOne ..).trans (stays_withCodebook ..)) last'
      (by simp only [read, core]; rfl)
    obtain ⟨book, qcw, qout, acc⟩ := kept.quantiser
    exact ⟨t', ex, only.trans after.reading, ends, book.trans book', qcw.trans qcw', qout.trans qout', kept.scalarIs same,
      kept.v.trans v, acc.trans acc'⟩

end Sys2Proof.Machine
end

section
/-! PROOFS. TMASK's frame and TOPK (R91, R248, R249). -/

namespace Sys2Proof.Machine

/-! ## TMASK -/

theorem tmaskEffect_only (c : CoreId) (f : Fields) (s : State) :
    OnlyCoreAndRows c ((s.core c).base.toNat + ((s.core c).rd f.d.toNat).toNat) 2 s (tmaskEffect c f s)
      ∧ ∃ l, (tmaskEffect c f s).core c = (s.core c).readOne ((s.core c).rdP f.d.toNat || (s.core c).rdP f.a.toNat) l := by
  obtain ⟨l, t, read, core, only⟩ := reads_row c ((s.core c).rdP f.d.toNat || (s.core c).rdP f.a.toNat)
    ((s.core c).rd f.a.toNat).toNat s
  simp only [tmaskEffect, read, storeTree]
  refine ⟨only.andRows ?_, l, core⟩
  change OnlyCoreAndRows c ((s.core c).phys _) (1 + 1) _ _
  exact (onlyCoreAndRows_taskWrite c _ _ _ t).trans (onlyCoreAndRows_taskWrite c _ _ _ _)

theorem scalarIs_readOne (x : Core) (p : Bool) (l : BitVec 64) : ScalarIs 0 0 false x (x.readOne p l) :=
  scalarIs_of (scalarIs_same x) rfl rfl

theorem readOne_advanced (x : Core) (p : Bool) (l : BitVec 64) : Advanced x (x.readOne p l).issued.advance :=
  advanced_of rfl rfl rfl rfl

/-! ## The rows that TOPK writes -/

theorem insertCand_length (x : BitVec 32 × F32) : ∀ l, (insertCand x l).length = l.length + 1
  | [] => rfl
  | y :: ys => by
    simp only [insertCand]
    split
    · rfl
    · rw [List.length_cons, insertCand_length x ys, List.length_cons]

/-- The K best, with those that are missing. -/
theorem topK_length (k : Nat) (cs : List (BitVec 32 × F32)) : (topK k cs).length = k := by
  have le (acc : List (BitVec 32 × F32)) (h : acc.length ≤ k) :
      (cs.foldl (fun acc x => (insertCand x acc).take k) acc).length ≤ k := by
    induction cs generalizing acc with
    | nil => exact h
    | cons x cs ih => exact ih _ (by simp)
  have := le [] (Nat.zero_le k)
  simp only [topK, List.length_append, List.length_replicate]
  omega

theorem wordRows_length (ws : List Nat) (rows : Nat) (u : Nat → BitVec 64) : (wordRows ws rows u).length = rows := by
  simp [wordRows]

/-- Word `j` of row `i` of a list of words. -/
theorem wordRows_word (ws : List Nat) (rows : Nat) (u : Nat → BitVec 64) {i j : Nat} (hi : i < rows) (hj : j < 64) :
    Row.word64 ((wordRows ws rows u).getD i 0) j
      = BitVec.ofNat 64 ((ws[64 * i + j]?).getD (u (64 * i + j)).toNat) := by
  have row : (wordRows ws rows u).getD i 0
      = rowOfWords64 ((List.range 64).map (fun j => (ws[64 * i + j]?).getD (u (64 * i + j)).toNat)) := by
    simp [wordRows, hi]
  rw [row, word64_rowOfWords64_range _ 64 (Nat.le_refl _), if_pos hj]

/-- The word of a candidate. -/
def candWord (e : BitVec 32 × F32) : Nat := e.1.toNat <<< 32 ||| e.2.toNat

theorem candWord_eq (e : BitVec 32 × F32) : BitVec.ofNat 64 (candWord e) = e.1 ++ e.2 := by
  rw [candWord, ← BitVec.toNat_append, BitVec.ofNat_toNat, BitVec.setWidth_eq]

/-- The candidates of TOPK, from the rows `row`. -/
def topkCands (f : Fields) (b : BitVec 64) (row : Nat → Row) : List (BitVec 32 × F32) :=
  (List.range (bits b 19 0)).map fun i =>
    if f.sel = 0 then (BitVec.ofNat 32 (bits b 51 32 + i), Row.word32 (row (i / 128)) (i % 128))
    else
      let e := Row.word64 (row (i / 64)) (i % 64)
      (BitVec.ofNat 32 (bits e 63 32), BitVec.ofNat 32 (bits e 31 0))

/-- The rows that TOPK writes for its candidates. -/
def topkRows (f : Fields) (b : BitVec 64) (cands : List (BitVec 32 × F32)) (unused : Nat → BitVec 64) : List Row :=
  wordRows ((topK f.imm.toNat (cands.filter (fun e => !e.2.isNaN))).map candWord) (ceilDiv (8 * f.imm.toNat) 512) unused
    ++ (if f.sel = 0 then
          wordRows [candWord (topkSoftmax (bits b 19 0 / 64 + 1) (cands.map (·.2)) (F32.negInf, 0)).swap] 1
            (fun j => unused (64 * ceilDiv (8 * f.imm.toNat) 512 + j))
        else [])

/-- The rows of TOPK's input. -/
def topkSrc (f : Fields) (b : BitVec 64) : Nat := if f.sel = 0 then ceilDiv (bits b 19 0) 128 else ceilDiv (bits b 19 0) 64

/-- What TOPK does, once it starts. -/
def topkEffect (c : CoreId) (f : Fields) (stop : Option Nat) (s : State) : State :=
  let x := s.core c
  let b := x.rd f.b.toNat
  let v := readBenchRows c 1 ((List.range (topkSrc f b)).map (fun i => x.phys ((x.rd f.a.toNat).toNat + i)))
    (s.setCore c (x.taint (copyTaint x f)))
  let cands := topkCands f b (fun i => (v.1.getD i (0, false)).1)
  let nan := cands.any (fun e => e.2.isNaN)
  let all := topkRows f b cands (Config.topkUnused (v.1.map (·.1)) b f.imm.toNat)
  let lim := pauseAt stop all.length
  let t := storeRows c (x.rd f.d.toNat).toNat (nan || v.1.any (·.2)) (all.take lim) v.2
  if lim = all.length then completeWith c ((t.core c).addNanp nan) t else pauseWith c (t.core c) t

theorem exec_topk_effect (c : CoreId) (f : Fields) (stop : Option Nat) (s : State) (hs : Starts (.topk c f stop) s)
    (hc : coreCourser c = true) (ok : Form.ok ⟨5, 5, 5, 2, 0, 9⟩ f = true) (one : 1 ≤ f.imm.toNat) (most : f.imm.toNat ≤ 256)
    (some : bits ((s.core c).rd f.b.toNat) 19 0 ≠ 0) (low : bits ((s.core c).rd f.b.toNat) 31 20 = 0)
    (high : bits ((s.core c).rd f.b.toNat) 63 52 = 0)
    (target : (s.core c).rowsIn ((s.core c).rd f.d.toNat).toNat
      (ceilDiv (8 * f.imm.toNat) 512 + b2n (decide (f.sel = 0))) = true)
    (source : (s.core c).rowsIn ((s.core c).rd f.a.toNat).toNat (topkSrc f ((s.core c).rd f.b.toNat)) = true) :
    exec (.topk c f stop) s = .next (topkEffect c f stop s) := by
  refine (exec_topk c f stop s).trans ((issue_scalar_of_starts (i := .topk c f stop) rfl rfl hs ?_ _).trans ?_)
  · have source := source
    unfold topkSrc at source
    simp [ok, one, most, some, low, high, hc]
    exact ⟨target, source⟩
  · by_cases raw : f.sel = 0
    · simp only [topkEffect, topkRows, topkCands, topkSrc, raw, if_true]
      rfl
    · simp only [topkEffect, topkRows, topkCands, topkSrc, raw, if_false]
      rfl

/-- Rows stored one after another leave every core. -/
theorem storeFold_stored (c : CoreId) (row : Nat) (p : Bool) : ∀ (rs : List Row) (k : Nat) (s : State),
    let t := (rs.zipIdx k).foldl (fun t r => taskWrite c ((t.core c).phys (row + r.2)) r.1 p t) s
    Stored c ((s.core c).phys (row + k)) (rs.map fun r => (r, p || (s.core c).tainted)) s t ∧ t.cores = s.cores
  | [], k, s => ⟨.nil rfl rfl, rfl⟩
  | r :: rs, k, s => by
    obtain ⟨stored, cores⟩ := storeFold_stored c row p rs (k + 1) (taskWrite c ((s.core c).phys (row + k)) r p s)
    exact ⟨(taskWrite_stored c ((s.core c).phys (row + k)) r p s).cons stored, cores⟩

theorem storeRows_stored (c : CoreId) (row : Nat) (p : Bool) (rs : List Row) (s : State) :
    Stored c ((s.core c).phys row) (rs.map fun r => (r, p || (s.core c).tainted)) s (storeRows c row p rs s)
      ∧ (storeRows c row p rs s).cores = s.cores := storeFold_stored c row p rs 0 s

/-- The candidates depend on the rows of the input alone. -/
theorem topkCands_congr {f : Fields} {b : BitVec 64} {g h : Nat → Row} (same : ∀ i, i < topkSrc f b → g i = h i) :
    topkCands f b g = topkCands f b h := by
  refine List.map_congr_left fun i hi => ?_
  have lt : i < bits b 19 0 := List.mem_range.1 hi
  by_cases raw : f.sel = 0
  · have row : i / 128 < topkSrc f b := by
      simp only [topkSrc, raw, if_true, ceilDiv]
      rw [if_neg (by decide)]
      omega
    simp only [raw, if_true, same _ row]
  · have row : i / 64 < topkSrc f b := by
      simp only [topkSrc, raw, if_false, ceilDiv]
      rw [if_neg (by decide)]
      omega
    simp only [raw, if_false, same _ row]

theorem topkRows_length (f : Fields) (b : BitVec 64) (cands : List (BitVec 32 × F32)) (u : Nat → BitVec 64) :
    (topkRows f b cands u).length = ceilDiv (8 * f.imm.toNat) 512 + b2n (decide (f.sel = 0)) := by
  by_cases raw : f.sel = 0
  · rw [topkRows, if_pos raw, decide_eq_true raw, List.length_append, wordRows_length, wordRows_length]; rfl
  · rw [topkRows, if_neg raw, decide_eq_false raw, List.length_append, wordRows_length]; rfl

/-- The best candidates, in order. -/
theorem topkRows_best (f : Fields) (b : BitVec 64) (cands : List (BitVec 32 × F32)) (u : Nat → BitVec 64) {i : Nat}
    (hi : i < f.imm.toNat) : Row.word64 ((topkRows f b cands u).getD (i / 64) 0) (i % 64)
      = ((topK f.imm.toNat (cands.filter (fun e => !e.2.isNaN))).getD i (0, 0)).1
        ++ ((topK f.imm.toNat (cands.filter (fun e => !e.2.isNaN))).getD i (0, 0)).2 := by
  have row : i / 64 < ceilDiv (8 * f.imm.toNat) 512 := by
    rw [ceilDiv, if_neg (by decide)]; omega
  have first : (topkRows f b cands u).getD (i / 64) 0
      = (wordRows ((topK f.imm.toNat (cands.filter (fun e => !e.2.isNaN))).map candWord)
          (ceilDiv (8 * f.imm.toNat) 512) u).getD (i / 64) 0 := by
    rw [topkRows, List.getD_append _ _ _ _ (by rw [wordRows_length]; exact row)]
  rw [first, wordRows_word _ _ _ row (Nat.mod_lt _ (by decide)), Nat.div_add_mod, List.getElem?_map,
    ← candWord_eq]
  have len := topK_length f.imm.toNat (cands.filter (fun e => !e.2.isNaN))
  simp [hi, len]

/-- The softmax pair, in the row after them. -/
theorem topkRows_pair (f : Fields) (b : BitVec 64) (cands : List (BitVec 32 × F32)) (u : Nat → BitVec 64) (raw : f.sel = 0) :
    Row.word64 ((topkRows f b cands u).getD (ceilDiv (8 * f.imm.toNat) 512) 0) 0
      = (topkSoftmax (bits b 19 0 / 64 + 1) (cands.map (·.2)) (F32.negInf, 0)).2
        ++ (topkSoftmax (bits b 19 0 / 64 + 1) (cands.map (·.2)) (F32.negInf, 0)).1 := by
  rw [topkRows, if_pos raw, List.getD_append_right _ _ _ _ (by rw [wordRows_length]), wordRows_length, Nat.sub_self,
    wordRows_word _ _ _ Nat.one_pos (by decide)]
  simp [candWord_eq]

theorem Core.addNanp_same (y : Core) (met : Bool) : Stays y (y.addNanp met) ∧ (y.addNanp met).lastQueue = y.lastQueue
    ∧ (y.addNanp met).base = y.base ∧ (y.addNanp met).g = y.g ∧ (y.addNanp met).v = y.v := by
  unfold Core.addNanp
  split <;> exact ⟨⟨rfl, rfl, rfl, rfl, rfl⟩, rfl, rfl, rfl, rfl⟩

/-- The core of a TOPK that completes. -/
theorem topk_completed (x : Core) (q : Bool) (l : BitVec 64) (nan : Bool) :
    Advanced x ((x.readOne q l).addNanp nan).issued.advance ∧ (((x.readOne q l).addNanp nan).issued.advance).base = x.base
      ∧ (((x.readOne q l).addNanp nan).issued.advance).g = x.g
      ∧ (((x.readOne q l).addNanp nan).issued.advance).v = x.v := by
  obtain ⟨⟨pc, -, -, queue, seq⟩, last, base, g, v⟩ := (x.readOne q l).addNanp_same nan
  generalize (x.readOne q l).addNanp nan = y at pc queue seq last base g v ⊢
  refine ⟨advanced_of pc queue seq last, ?_, ?_, ?_⟩
  · rw [Core.advance_base, Core.issued_base, base]; rfl
  · rw [Core.advance_g, Core.issued_g, g]; rfl
  · rw [Core.advance_v, Core.issued_v, v]; rfl

/-- The core of a TOPK that pauses. -/
theorem topk_held (x : Core) (q : Bool) (l : BitVec 64) (run : x.phase = .run) :
    (Waits .busy x (x.readOne q l).issued ∧ (x.readOne q l).issued.stallSince = 0) ∧ (x.readOne q l).issued.base = x.base
      ∧ (x.readOne q l).issued.g = x.g ∧ (x.readOne q l).issued.v = x.v := by
  obtain ⟨pc, -, phase, queue, -⟩ := stays_readOne x q l
  refine ⟨⟨⟨pc, rfl, phase.trans run, queue⟩, rfl⟩, ?_, ?_, ?_⟩
  · rw [Core.issued_base]; rfl
  · rw [Core.issued_g]; rfl
  · rw [Core.issued_v]; rfl

/-- What TOPK leaves of the core and of memory, once its rows are stored. -/
theorem ends_or_holds {i : Instr} {c : CoreId} {s t : State} {x : Core} {done : Prop} [Decidable done] {nan : Bool} {y : Core}
    (run : exec i s = .next (if done then completeWith c (y.addNanp nan) t else pauseWith c y t)) {q : Bool} {l : BitVec 64}
    (hy : y = x.readOne q l) (run' : x.phase = .run) :
    ∃ t', exec i s = .next t' ∧ (done → Advanced x (t'.core c)) ∧ (¬done → Waits .busy x (t'.core c) ∧ (t'.core c).stallSince = 0)
      ∧ OnlyCore c t t' ∧ (t'.core c).base = x.base ∧ (t'.core c).g = x.g ∧ (t'.core c).v = x.v := by
  subst hy
  obtain ⟨ends, kept⟩ := topk_completed x q l nan
  obtain ⟨holds, held⟩ := topk_held x q l run'
  by_cases h : done
  · rw [if_pos h] at run
    refine ⟨_, run, fun _ => ?_, fun n => absurd h n, completeWith_only .., ?_⟩ <;> rw [completeWith_core]
    exacts [ends, kept]
  · rw [if_neg h] at run
    have core : (pauseWith c (x.readOne q l) t).core c = (x.readOne q l).issued := State.setCore_core ..
    refine ⟨_, run, fun d => absurd d h, fun _ => ?_, onlyCore_setCore .., ?_⟩ <;> rw [core]
    exacts [holds, held]

theorem getD_take {l : List Row} {n i : Nat} (hi : i < n) : (l.take n).getD i 0 = l.getD i 0 := by
  simp [List.getD_eq_getElem?_getD, hi]

/-- A row that has been stored, as the task reads it. -/
theorem Stored.taskRow {c : CoreId} {s t : State} {row i : Nat} {rs : List Row} {p : Bool}
    (h : Stored c ((t.core c).base.toNat + row) (rs.map fun r => (r, p)) s t) (hi : i < rs.length) :
    taskRow t c (row + i) = rs.getD i 0 := by
  have stored := h.row i (by simpa using hi)
  rw [Machine.taskRow, ← Nat.add_assoc, stored]
  simp [hi]

/-- Settles O16. -/
theorem treeMasksAndTopK : Obligations.TreeMasksAndTopK := by
  unfold Obligations.TreeMasksAndTopK
  intro c f s hc
  refine ⟨fun ok one most target source hs => ?tmask, fun ok one most some low high target source => ?topk⟩
  case tmask =>
    obtain ⟨only, l, core⟩ := tmaskEffect_only c f s
    have left := completeWith_core c ((tmaskEffect c f s).core c) (tmaskEffect c f s)
    refine ⟨_, exec_tmask_completes c f s hs hc ok one most target source, only.reading (completeWith_only ..).reading, ?_, ?_,
      ?_, ?_, ?_⟩
    · rw [left, core]; exact readOne_advanced ..
    · rw [left, core]; exact (readFrame_readOne ..).trans (readFrame_completed _)
    · rw [left, core]; exact (bookkept_completed _).scalarIs (scalarIs_readOne ..)
    · rw [taskRow_completeWith, tmaskEffect_masks]; rfl
    · rw [taskRow_completeWith, tmaskEffect_depths]; rfl
  case topk =>
    intro cands best pair stop hs lim
    have source : (s.core c).rowsIn ((s.core c).rd f.a.toNat).toNat (topkSrc f ((s.core c).rd f.b.toNat)) = true := by
      simpa only [decide_eq_true_eq, topkSrc] using source
    have input : cands = topkCands f ((s.core c).rd f.b.toNat) fun i => taskRow s c (((s.core c).rd f.a.toNat).toNat + i) := by
      simp only [cands, topkCands, decide_eq_true_eq]
    have run := exec_topk_effect c f stop s hs hc ok one most some low high target source
    have begun := onlyCore_setCore c ((s.core c).taint (copyTaint (s.core c) f)) s
    have core : (s.setCore c ((s.core c).taint (copyTaint (s.core c) f))).core c = (s.core c).taint (copyTaint (s.core c) f) :=
      State.setCore_core ..
    obtain ⟨data, ⟨l, log⟩, read⟩ := readBenchRows_read c 1 ((List.range (topkSrc f ((s.core c).rd f.b.toNat))).map
      fun i => (s.core c).phys (((s.core c).rd f.a.toNat).toNat + i)) (s.setCore c ((s.core c).taint (copyTaint (s.core c) f)))
    rw [topkEffect] at run
    generalize readBenchRows c 1 _ _ = v at data log read run
    have log : v.2.core c = (s.core c).readOne (copyTaint (s.core c) f) l := by rw [log, core]; rfl
    have given : topkCands f ((s.core c).rd f.b.toNat) (fun i => (v.1.getD i (0, false)).1) = cands := by
      rw [input]
      refine topkCands_congr fun i hi => ?_
      refine (List.getD_map v.1 (0, false) Prod.fst).symm.trans ?_
      rw [data, begun.2.2.2]
      simp [hi]
      rfl
    rw [given] at run
    have rows := topkRows_length f ((s.core c).rd f.b.toNat) cands
      (Config.topkUnused (v.1.map (·.1)) ((s.core c).rd f.b.toNat) f.imm.toNat)
    have words := fun i hi => topkRows_best f ((s.core c).rd f.b.toNat) cands (i := i) (hi := hi)
      (Config.topkUnused (v.1.map (·.1)) ((s.core c).rd f.b.toNat) f.imm.toNat)
    have softmax := topkRows_pair f ((s.core c).rd f.b.toNat) cands
      (Config.topkUnused (v.1.map (·.1)) ((s.core c).rd f.b.toNat) f.imm.toNat)
    generalize topkRows f ((s.core c).rd f.b.toNat) cands _ = all at run rows words softmax
    generalize (cands.any fun e => e.2.isNaN) = nan at run
    obtain ⟨stored, cores⟩ := storeRows_stored c ((s.core c).rd f.d.toNat).toNat (nan || v.1.any (·.2))
      (all.take (pauseAt stop all.length)) v.2
    generalize storeRows c _ _ _ v.2 = t at run stored cores
    have same (e : CoreId) : t.core e = v.2.core e := by rw [State.core, State.core, cores]
    have limit := pauseAt_le stop all.length
    rw [same c] at run
    obtain ⟨t', ex, ends, holds, only, base, g, v'⟩ :=
      ends_or_holds (nan := nan) (x := s.core c) run log (starts_ready (i := .topk c f stop) rfl hs).2
    have stored : Stored c ((t'.core c).base.toNat + ((s.core c).rd f.d.toNat).toNat)
        ((all.take (pauseAt stop all.length)).map fun r => (r, (nan || v.1.any (·.2)) || (v.2.core c).tainted)) v.2 t' := by
      rw [base]
      rw [log] at stored
      rw [log]
      exact stored.around rfl rfl (by rw [only.2.2.2]) (by rw [only.2.2.2])
    have taken : (all.take (pauseAt stop all.length)).length = pauseAt stop all.length := by simp [limit]
    have written : lim = pauseAt stop all.length := congrArg (pauseAt stop) rows.symm
    have row (i : Nat) (hi : i < lim) : taskRow t' c (((s.core c).rd f.d.toNat).toNat + i) = all.getD i 0 :=
      (stored.taskRow (by rw [taken]; omega)).trans (getD_take (by omega))
    refine ⟨t', ex, fun e he => ?_, fun e ne => ?_, ?_, ?_, g, v', ?_, ?_⟩
    · refine (stored.byte e ?_).trans ((read.1 e).trans (begun.1 e))
      rw [base, List.length_map, taken, ← written]
      exact he
    · exact (only.2.1 e ne).trans ((same e).trans ((read.2.1 e ne).trans (begun.2.1 e ne)))
    · rw [← rows, written]; exact ends
    · rw [← rows, written]; exact holds
    · intro i hi lt
      rw [row _ lt]
      exact words i hi
    · intro raw whole
      have sel : f.sel = 0 := of_decide_eq_true raw
      rw [row _ (by rw [whole, raw]; simp [b2n])]
      exact softmax sel

end Sys2Proof.Machine
end

section
/-! PROOFS. The descriptors of a ring: how a started one ends and which of the state its end leaves alone; NOP, STEP and its
requests, RING_SET and the interrupt (R240, R299–R307, R325, R326). -/

namespace Sys2Proof.Machine

/-! ## A descriptor that starts -/

/-- A descriptor that may start is accepted with exactly its bits. -/
theorem canStart_entry {s : State} {q : Desc} (h : canStart s q = true) :
    ∃ e, entryOf s q.ring q.pos = some e ∧ e.w = q.w := by
  rw [entryOf]
  cases he : (s.ringOf q.ring).accepted.find? (fun e => e.pos = q.pos) with
  | none => simp [canStart, he] at h
  | some e =>
    simp only [canStart, he, Bool.and_eq_true, decide_eq_true_eq] at h
    exact ⟨e, rfl, h.1⟩

theorem finish_onlyRings (q : Desc) (status : BitVec 8) (s : State) : OnlyRings s (finish q status s) := rfl

theorem hold_onlyRings (q : Desc) (s : State) : OnlyRings s (hold q s) := rfl

theorem setEntry_entryIs {q : Desc} {s : State} {e : Entry} (he : entryOf s q.ring q.pos = some e) (st : EntryState) :
    EntryIs q st (setEntry q.ring q.pos st s) := by
  simp [EntryIs, entryOf_setEntry, he]

theorem entryOf_of_rings {s t : State} (h : t.rings = s.rings) (r : RingId) (p : BitVec 32) :
    entryOf t r p = entryOf s r p := by
  simp [entryOf, State.ringOf, h]

theorem entryIs_of_rings {q : Desc} {st : EntryState} {s t : State} (h : t.rings = s.rings) :
    EntryIs q st t ↔ EntryIs q st s := by
  rw [EntryIs, EntryIs, entryOf_of_rings h]

/-- The body of a descriptor's command that finishes it in a state with the same rings ends it with that status. -/
theorem finish_ends {s u : State} {q : Desc} (hc : canStart s q = true) (hr : u.rings = s.rings) (status : BitVec 8) :
    EndsWith q status (finish q status u) := by
  obtain ⟨e, he, -⟩ := canStart_entry hc
  exact finish_endsWith ((entryOf_of_rings hr _ _).trans he) status

/-! ## BARK and RING_SET -/

theorem execRingSet_starts {q : Desc} {entry : BitVec 512} {s : State} (hc : canStart s q = true)
    (ho : Hdr.opcode q.w = 0x10) :
    let r : RingId := BitVec.ofNat 15 (bits q.w 511 497)
    let x := s.ringOf r
    exec (.ringSet q entry) s = .next
      (if RingE.kind x.entry = 1 && x.state ≠ .disabled && x.front ≠ x.back && !funcStopped s (RingE.func x.entry) then
        finish q Status.doesNotFit s
      else finish q Status.ok { s with due := s.due ++ [.ringEntry r entry] }) := by
  rw [exec_ringSet, execRingSet, starts_of_canStart _ hc ho]

/-- Settles O32: the interrupt's conditions and the check of RING_SET, each by its branch. -/
theorem barkAndRingSet : Obligations.BarkAndRingSet := by
  refine ⟨fun s owed released quiet busy => ?_, fun q entry s hc ho => ⟨fun empty => ?_, fun sub inUse used running => ?_⟩⟩
  · rw [exec_bark, execBark]
    cases hl : s.power.lastBark with
    | none => simp [owed, released, busy]
    | some t => simp [owed, released, busy, quiet t hl]
  · refine ⟨_, (execRingSet_starts hc ho).trans (congrArg Host.Outcome.next (if_neg ?_)),
      finish_ends (u := { s with due := s.due ++ [.ringEntry _ entry] }) hc rfl _, rfl⟩
    simp only [Bool.and_eq_true, decide_eq_true_eq]
    rintro ⟨⟨⟨sub, inUse⟩, used⟩, -⟩
    rcases empty with h | h | h
    · exact h sub
    · exact inUse h
    · exact used h
  · refine ⟨_, (execRingSet_starts hc ho).trans (congrArg Host.Outcome.next (if_pos ?_)), finish_ends hc rfl _, rfl⟩
    simp [sub, inUse, used, running]

/-! ## A cancelled request that no step claims -/

/-- A PREFILL at position 0 of ring 0. -/
def lonePrefill : Desc := ⟨0, 0, 0x29 <<< 56⟩

/-- Ring 0 has accepted it, no STEP stands before it, and a CANCEL has named its sequence. -/
def cancelledAlone : Entry := ⟨0, lonePrefill.w, 0, .waiting, none, true, 0, false⟩

def cancelledAloneState : State := State.reset.setRing 0 { Ring.reset with accepted := [cancelledAlone] }

/-- It completes with CANCELLED, not with SHAPE_EXCEEDS_BUCKET. -/
theorem cancelledAlone_ends : ∃ t, exec (.prefill lonePrefill .failed) cancelledAloneState = .next t
    ∧ EndsWith lonePrefill Status.cancelled t := by
  refine ⟨startRequest lonePrefill false .failed cancelledAloneState, ?_, ?_⟩
  · rw [exec_prefill, execPrefill, starts_of_canStart _ (by decide +kernel) (by decide +kernel)]
  · unfold EndsWith
    decide +kernel

theorem endsWith_inj {q : Desc} {a b : BitVec 8} {t : State} (ha : EndsWith q a t) (hb : EndsWith q b t) : a = b := by
  rw [EndsWith] at ha hb
  simpa using ha.symm.trans hb

/-- Refutes O39: a request that belongs to no step completes with CANCELLED when a CANCEL has named its sequence. -/
theorem not_stepsAreAccepted : ¬ Obligations.StepsAreAccepted := by
  intro h
  obtain ⟨-, request, -⟩ := h lonePrefill .failed cancelledAlone cancelledAloneState (by decide +kernel)
  have prefill : Hdr.opcode lonePrefill.w = 0x29 := by decide +kernel
  have verify : decide (Hdr.opcode lonePrefill.w = 0x2A) = false := by simp [prefill]
  obtain ⟨t, ht, -, shape⟩ := (request (by decide +kernel) (.inl prefill)).1 rfl
  rw [if_neg (by simp [verify])] at ht
  obtain ⟨u, hu, cancelled⟩ := cancelledAlone_ends
  obtain rfl : u = t := Host.Outcome.next.inj (hu.symm.trans ht)
  exact absurd (endsWith_inj cancelled shape) (by decide)

end Sys2Proof.Machine
end

section
/-! PROOFS. Doorbells (R292–R295, R323) and the lock of set-up (R412–R419). -/

namespace Sys2Proof.Machine

/-! ## What ring operations leave alone -/

/-- Nothing but the rings and the events that await publication differs. -/
def OnlyRingsAndEvents (s t : State) : Prop := t = { s with rings := t.rings, events := t.events }

theorem OnlyRingsAndEvents.refl (s : State) : OnlyRingsAndEvents s s := rfl

theorem OnlyRingsAndEvents.trans {s t u : State} (h : OnlyRingsAndEvents s t) (g : OnlyRingsAndEvents t u) :
    OnlyRingsAndEvents s u := by
  unfold OnlyRingsAndEvents at *
  rw [g, h]

theorem setRing_onlyRingsAndEvents (r : RingId) (x : Ring) (s : State) : OnlyRingsAndEvents s (s.setRing r x) := rfl

theorem ringError_onlyRingsAndEvents (r : RingId) (cause : Nat) (s : State) :
    OnlyRingsAndEvents s (ringError r cause s) := rfl

theorem ringError_ringOf (r : RingId) (cause : Nat) (s : State) :
    (ringError r cause s).ringOf r = { s.ringOf r with state := .error, cause := BitVec.ofNat 8 cause } :=
  State.setRing_ringOf ..

theorem ringError_ringOf_other (r j : RingId) (cause : Nat) (s : State) (h : j ≠ r) :
    (ringError r cause s).ringOf j = s.ringOf j :=
  State.setRing_ringOf_other _ _ _ _ h

/-! ## A doorbell count is observed -/

theorem observe_onlyRingsAndEvents (r : RingId) (n : BitVec 32) (s : State) : OnlyRingsAndEvents s (observe r n s) := by
  unfold observe
  dsimp only
  split_ifs <;> rfl

theorem observe_ringOf_other (r j : RingId) (n : BitVec 32) (s : State) (h : j ≠ r) :
    (observe r n s).ringOf j = s.ringOf j := by
  unfold observe
  dsimp only
  split_ifs <;> simp [ringError_ringOf_other, State.setRing_ringOf_other, h]

section
variable {r : RingId} {n : BitVec 32} {s : State} (on : (s.ringOf r).state = .enabled)
  (runs : funcStopped s (RingE.func (s.ringOf r).entry) = false)
include on runs

/-- The ring after its TAIL has been observed. -/
def tailSeen (x : Ring) (n : BitVec 32) (now : BitVec 64) : Ring :=
  { x with count := n, waitingSince := if n = x.front then none else x.waitingSince.orElse (fun _ => some now) }

theorem observe_tail (sub : RingE.kind (s.ringOf r).entry = 1)
    (fits : (n - (s.ringOf r).back).toNat ≤ RingE.size (s.ringOf r).entry) :
    (observe r n s).ringOf r = tailSeen (s.ringOf r) n s.timebase := by
  simp only [observe, on, runs, sub, Nat.not_lt.2 fits, ne_eq, not_true_eq_false, decide_false, Bool.or_self,
    Bool.false_eq_true, if_true, if_false]
  rw [State.setRing_ringOf, tailSeen, on]

theorem observe_overrun (sub : RingE.kind (s.ringOf r).entry = 1)
    (more : RingE.size (s.ringOf r).entry < (n - (s.ringOf r).back).toNat) :
    (observe r n s).ringOf r = { tailSeen (s.ringOf r) n s.timebase with state := .error, cause := 2 } := by
  simp only [observe, on, runs, sub, more, ne_eq, not_true_eq_false, decide_false, Bool.or_self,
    Bool.false_eq_true, if_true, if_false]
  exact (ringError_ringOf ..).trans (by rw [State.setRing_ringOf]; rfl)

theorem observe_head (other : RingE.kind (s.ringOf r).entry ≠ 1) (moved : n ≠ (s.ringOf r).count) :
    (observe r n s).ringOf r
      = { s.ringOf r with count := n, armed := (s.ringOf r).armed || RingE.notify (s.ringOf r).entry } := by
  simp [observe, on, runs, other, moved]

end

/-! ## The two ways in which doorbells are seen -/

theorem exec_doorbellWrite_observes {r : RingId} {n : BitVec 32} {s : State} (runs : engineRuns s = true)
    (cxl : cxlMode s = true) : exec (.doorbellWrite r n) s = .next (observe r n s) := by
  simp [exec_doorbellWrite, execDoorbellWrite, runs, cxl]

theorem exec_pollRound_observes {l : List (RingId × BitVec 32)} {s : State} (runs : engineRuns s = true)
    (poll : cxlMode s = false) : exec (.pollRound l) s = .next (l.foldl (fun t c => observe c.1 c.2 t) s) := by
  simp [exec_pollRound, execPollRound, runs, poll]

theorem observeAll_onlyRingsAndEvents (l : List (RingId × BitVec 32)) (s : State) :
    OnlyRingsAndEvents s (l.foldl (fun t c => observe c.1 c.2 t) s) :=
  foldl_related .refl .trans _ (fun t c => observe_onlyRingsAndEvents c.1 c.2 t) l s

theorem observeAll_ringOf (r : RingId) : ∀ (l : List (RingId × BitVec 32)) (s : State), (∀ e ∈ l, e.1 ≠ r) →
    (l.foldl (fun t c => observe c.1 c.2 t) s).ringOf r = s.ringOf r
  | [], _, _ => rfl
  | e :: l, s, h => by
    rw [List.foldl_cons, observeAll_ringOf r l _ fun x hx => h x (List.mem_cons_of_mem e hx),
      observe_ringOf_other _ _ _ _ (h e List.mem_cons_self).symm]

/-- Settles O29: both commands observe the count, and a poll round's other doorbells are of other rings. -/
theorem doorbellsAreObserved : Obligations.DoorbellsAreObserved := by
  intro r n rest s runs x on func seen
  have shown (i : Instr) (t : State) (run : exec i s = .next t) (frame : OnlyRingsAndEvents s t)
      (ring : t.ringOf r = (observe r n s).ringOf r) : seen i := by
    have mem : t.mem = s.mem := by rw [frame]
    have cores : t.cores = s.cores := by rw [frame]
    have bytes : SameBytes s t := fun a => by rw [mem]
    refine ⟨fun sub fits => ?_, fun sub more => ?_, fun other moved => ?_⟩
    · rw [observe_tail on func sub fits] at ring
      exact ⟨t, run, by simp [ring, tailSeen], by simpa [ring, tailSeen] using on, by simp [ring, tailSeen, x],
        by simp [ring, tailSeen, x], by simp [ring, tailSeen, x], bytes, cores⟩
    · rw [observe_overrun on func sub more] at ring
      exact ⟨t, run, by simp [ring], by simp [ring], bytes⟩
    · rw [observe_head on func other moved] at ring
      exact ⟨t, run, by simp [ring], by simp [ring, x], by simpa [ring] using on, bytes, cores⟩
  refine ⟨fun cxl => ?_, fun poll others => ?_⟩
  · exact shown _ _ (exec_doorbellWrite_observes runs cxl) (observe_onlyRingsAndEvents r n s) rfl
  · exact shown _ _ (exec_pollRound_observes runs poll) (observeAll_onlyRingsAndEvents _ s)
      (observeAll_ringOf r rest _ others)

/-! ## The ring table is placed when set-up locks -/

theorem placeRing_onlyRingsAndEvents (valid : Bool) (r : RingId) (w : BitVec 512) (s : State) :
    OnlyRingsAndEvents s (placeRing valid r w s) := by
  unfold placeRing
  dsimp only
  split_ifs <;> rfl

theorem resumeRing_onlyRingsAndEvents (valid : Bool) (old : Ring) (e : RingEntry) (s : State) :
    OnlyRingsAndEvents s (resumeRing valid old e s) := by
  have placed := placeRing_onlyRingsAndEvents valid e.1 e.2 s
  unfold resumeRing
  generalize placeRing valid e.1 e.2 s = p at *
  extract_lets s1 x isSub y s2
  have counted : OnlyRingsAndEvents s s2 := placed.trans (setRing_onlyRingsAndEvents ..)
  by_cases hx : (valid && isSub && old.accepted.any fun d => !ledgerKnows { old with entry := e.2 } d.pos) = true
  · rw [if_pos hx]
    exact counted.trans (ringError_onlyRingsAndEvents ..)
  · rw [if_neg hx]
    exact counted

theorem placeTable_onlyRingsAndEvents (resume : Bool) (l : List RingEntry) (s : State) :
    OnlyRingsAndEvents s (placeTable resume l s) := by
  have placed := foldl_related .refl .trans (fun t e => resumeRing ((validEntries s.setup.ledgerSize.toNat l).contains e)
    (if resume then s.rings.get Ring.reset e.1.toNat else Ring.reset) e t)
    (fun t e => resumeRing_onlyRingsAndEvents _ _ e t) (tableOrder l) { s with rings := [] }
  have cleared : OnlyRingsAndEvents s { s with rings := [] } := rfl
  refine (cleared.trans placed).trans ?_
  unfold placeTable
  rfl

/-! ## HST_RB settles -/

/-- HST_RB follows the part's condition; nothing but the times that go with it changes beside. -/
theorem settleRb_spec (s : State) : let t := settleRb s
    t = { s with power := t.power } ∧ (t.power.rb = .released ↔ mayRelease s = true) ∧ mayRelease t = mayRelease s := by
  unfold settleRb
  split_ifs with may released busy
  · exact ⟨rfl, by simp [may, released], rfl⟩
  · exact ⟨rfl, by simp [may], rfl⟩
  · exact ⟨rfl, by simp [may, busy], rfl⟩
  · exact ⟨rfl, by simp [may], rfl⟩

/-! ## Set-up -/

section
variable {s : State} (op : barOpen s = true)
include op

theorem exec_setupLock_passes {table : Option (List RingEntry)} (unlocked : s.setup.locked = false)
    (code : lockCode s table = 0) :
    ∃ t, exec (.setupLock table) s = .next t ∧ t.setup = { s.setup with locked := true, err := 0, checking := false }
      ∧ t.lastLock = some (s.setup.ringTable, s.setup.ledgerBase, s.setup.ledgerSize) ∧ t.mem = s.mem
      ∧ t.dur = s.dur ∧ (t.power.rb = .released ↔ mayRelease t = true) := by
  generalize hu : ({ s.setup with err := 0, checking := false, locked := true } : Setup) = u
  generalize hp : placeTable (s.lastLock = some (s.setup.ringTable, s.setup.ledgerBase, s.setup.ledgerSize))
    (table.getD []) { s with setup := u } = p
  have frame : OnlyRingsAndEvents { s with setup := u } p := hp ▸ placeTable_onlyRingsAndEvents ..
  generalize hl : ({ p with lastLock := some (s.setup.ringTable, s.setup.ledgerBase, s.setup.ledgerSize) } : State) = l
  obtain ⟨settled, rb, may⟩ := settleRb_spec l
  refine ⟨settleRb l, ?_, ?_, ?_, ?_, ?_, by rw [rb, may]⟩
  · simp [exec_setupLock, execSetupLock, op, unlocked, code, ← hl, ← hp, ← hu]
  all_goals rw [settled, ← hl]
  · rw [frame]
  · rw [frame]
  · rw [frame]

theorem exec_registerWrite_word (o : BitVec 20) (v : BitVec 64) (aligned : o.toNat % 8 = 0) :
    exec (.registerWrite 0 o 8 v) s =
      if o.toNat = 0x1000 then .next (writeCtrl v s)
      else if lockedReg o.toNat && s.setup.closed then .next (countViolation s)
      else .next { s with setup := writeSetup s.setup o.toNat v } := by
  simp [exec_registerWrite, execRegisterWrite, op, aligned, mergeReg]

end

/-- Settles O49: the three ends of SETUP_LOCK, and the branches of a register write. -/
theorem setUpIsLockedOnce : Obligations.SetUpIsLockedOnce := by
  intro s op
  refine ⟨fun table => ⟨fun locked => ?_, fun unlocked code => ?_, exec_setupLock_passes op⟩, fun also => ?_,
    fun o v aligned => ?_⟩
  · refine ⟨countViolation s, ?_, rfl⟩
    simp [exec_setupLock, execSetupLock, op, locked]
  · simp [exec_setupLock, execSetupLock, op, unlocked, code]
  · simp [exec_warmRst, execWarmRst, op, abandonLock]
  · rw [exec_registerWrite_word op o v aligned]
    refine ⟨fun ctrl reset => ?_, fun ctrl reset lock => ⟨fun locked => ?_, fun unlocked => ?_⟩, fun other reg shut => ?_,
      fun other may => ?_⟩
    · simp [ctrl, writeCtrl, reset, abandonLock]
    · simp [ctrl, writeCtrl, reset, lock, locked]
    · simp [ctrl, writeCtrl, reset, lock, unlocked]
    · have closed : s.setup.closed = true := by simpa [Setup.closed, or_comm] using shut
      simp [other, reg, closed]
    · have opened : (lockedReg o.toNat && s.setup.closed) = false := by
        cases reg : lockedReg o.toNat with
        | false => rfl
        | true =>
          obtain ⟨unlocked, idle⟩ := may reg
          simp [Setup.closed, unlocked, idle]
      simp [other, opened]

end Sys2Proof.Machine
end

section
/-! PROOFS. Descriptor fetch (R296–R300), pins and salts (R224, R225, R232, R233), and the host's side: function-level
reset, host link, telemetry, management bus and test access port (R294, R314, R315, R356, R421, R431, R432). -/

namespace Sys2Proof.Machine

/-! ## One descriptor is accepted -/

/-- What a descriptor's owner sees of an accepted descriptor. -/
def Entry.shown (e : Entry) : BitVec 32 × BitVec 512 × EntryState := (e.pos, e.w, e.state)

/-- What acceptance makes of the descriptor at a position. -/
def acceptedAs (r : RingId) (p : BitVec 32) (w : BitVec 512) : BitVec 32 × BitVec 512 × EntryState :=
  (p, w, if malformed r w then .done Status.badDescriptor 0 0 0 else .waiting)

theorem setReserved_ringOf (r q : RingId) (n : Nat) (s : State) :
    ((s.setRing q { s.ringOf q with reserved := n }).ringOf r).front = (s.ringOf r).front
      ∧ ((s.setRing q { s.ringOf q with reserved := n }).ringOf r).accepted = (s.ringOf r).accepted := by
  by_cases h : r = q
  · subst h; simp
  · simp [State.setRing_ringOf_other _ _ _ _ h]

/-- The entry of a descriptor at the ring's next position. -/
def newEntry (r : RingId) (w : BitVec 512) (s : State) : Entry where
  pos := (s.ringOf r).front
  w := w
  stamp := s.stamp
  state := if malformed r w then .done Status.badDescriptor 0 0 0 else .waiting
  step := none
  cancelled := false
  since := s.timebase
  kept := false

/-- The ring as it stands when the descriptor has been appended, before its completion has a reservation. -/
def appended (r : RingId) (w : BitVec 512) (s : State) : State :=
  s.setRing r { s.ringOf r with
    front := (s.ringOf r).front + 1
    accepted := (s.ringOf r).accepted ++ [newEntry r w s]
    ledger := (s.ringOf r).ledger.set none ((s.ringOf r).front.toNat % RingE.size (s.ringOf r).entry)
      (some ⟨(s.ringOf r).front, 1, 0, BitVec.ofNat 8 (Hdr.opcode w), s.dur.commits⟩) }

theorem acceptOne_eq (r : RingId) (w : BitVec 512) (s : State) : acceptOne r w s =
    let a := appended r w s
    let q := RingE.cq (s.ringOf r).entry
    { a.setRing q { a.ringOf q with reserved := (a.ringOf q).reserved + 1 } with stamp := s.stamp + 1 } := rfl

theorem acceptOne_ringOf (r : RingId) (w : BitVec 512) (s : State) :
    ((acceptOne r w s).ringOf r).front = (s.ringOf r).front + 1
      ∧ ((acceptOne r w s).ringOf r).accepted.map Entry.shown
        = (s.ringOf r).accepted.map Entry.shown ++ [acceptedAs r (s.ringOf r).front w] := by
  have placed : (appended r w s).ringOf r = _ := State.setRing_ringOf ..
  rw [acceptOne_eq]
  generalize appended r w s = a at *
  obtain ⟨front, accepted⟩ := setReserved_ringOf r (RingE.cq (s.ringOf r).entry)
    ((a.ringOf (RingE.cq (s.ringOf r).entry)).reserved + 1) a
  refine ⟨front.trans ?_, (congrArg (List.map Entry.shown) accepted).trans ?_⟩ <;> rw [placed]
  exact List.map_append

theorem acceptOne_frame (r : RingId) (w : BitVec 512) (s : State) :
    (acceptOne r w s).mem = s.mem ∧ (acceptOne r w s).cores = s.cores ∧ (acceptOne r w s).stamp = s.stamp + 1 :=
  ⟨rfl, rfl, rfl⟩

/-- Acceptance of a burst, from the ring's next position on. -/
theorem acceptAll_spec (r : RingId) : ∀ (l : List (BitVec 512)) (s : State),
    let t := l.foldl (fun t w => acceptOne r w t) s
    t.mem = s.mem ∧ t.cores = s.cores ∧ t.stamp = s.stamp + l.length
      ∧ (t.ringOf r).front = (s.ringOf r).front + BitVec.ofNat 32 l.length
      ∧ (t.ringOf r).accepted.map Entry.shown = (s.ringOf r).accepted.map Entry.shown
        ++ l.zipIdx.map (fun e => acceptedAs r ((s.ringOf r).front + BitVec.ofNat 32 e.2) e.1)
  | [], s => by simp
  | w :: l, s => by
    intro t
    obtain ⟨mem, cores, stamp, front, accepted⟩ := acceptAll_spec r l (acceptOne r w s)
    obtain ⟨front1, accepted1⟩ := acceptOne_ringOf r w s
    have shift (n : Nat) : (s.ringOf r).front + 1 + BitVec.ofNat 32 n = (s.ringOf r).front + BitVec.ofNat 32 (n + 1) := by
      rw [BitVec.add_assoc, BitVec.add_comm 1, BitVec.ofNat_add n 1]; rfl
    refine ⟨mem, cores, ?_, ?_, ?_⟩
    · rw [List.length_cons, Nat.add_comm l.length, ← Nat.add_assoc]; exact stamp
    · rw [List.length_cons, ← shift, ← front1]; exact front
    · refine accepted.trans ?_
      rw [accepted1, front1, List.append_assoc, List.zipIdx_cons, List.map_cons, List.zipIdx_succ, List.map_map]
      refine congrArg _ (congrArg₂ List.cons ?_ (List.map_congr_left fun e _ => ?_))
      · simp
      · exact congrArg (acceptedAs r · e.1) (shift e.2)

theorem endTurn_ringOf (r : RingId) (s : State) :
    ((endTurn r s).ringOf r).front = (s.ringOf r).front ∧ ((endTurn r s).ringOf r).accepted = (s.ringOf r).accepted := by
  have h : (endTurn r s).ringOf r = _ := State.setRing_ringOf ..
  rw [h]
  exact ⟨rfl, rfl⟩

/-- Settles O30: the burst is accepted position by position, and a burst that cannot be read is a ring error. -/
theorem fetchAcceptsInOrder : Obligations.FetchAcceptsInOrder := by
  intro r l s runs pick x got
  refine ⟨⟨endTurn r (got.foldl (fun t w => acceptOne r w t) s), ?_, ?_⟩, ⟨ringError r 3 s, ?_, fun _ => rfl, rfl, ?_⟩⟩
  · simp [exec_descriptorFetch, execDescriptorFetch, runs, pick, got]
  · obtain ⟨mem, cores, stamp, front, accepted⟩ := acceptAll_spec r got s
    generalize got.foldl (fun t w => acceptOne r w t) s = t at *
    obtain ⟨front2, accepted2⟩ := endTurn_ringOf r t
    rw [front2, accepted2]
    exact ⟨fun a => congrArg (Memory.byte a) mem, cores, front, accepted, stamp⟩
  · simp [exec_descriptorFetch, execDescriptorFetch, runs, pick]
  · rw [ringError_ringOf]
    exact ⟨rfl, rfl, rfl⟩

/-! ## Pins -/

theorem recallAll_homed (k : CoupeId) (s : State) : ∀ gs : List GroupId, (∀ g ∈ gs, (s.group g).inYard = false) →
    recallAll k gs s = (true, s)
  | [], _ => rfl
  | g :: gs, h => by
    rw [recallAll, if_neg (by simp [h g List.mem_cons_self])]
    exact recallAll_homed k s gs fun x hx => h x (List.mem_cons_of_mem g hx)

/-- A PIN of groups that are homed in the deck awaits the commit, or ends with NO_BUFFER beyond the floor. -/
theorem pinBlocks_homed (q : Desc) (i : SlotId) (n : Nat) (k : CoupeId) (s : State) (sound : recallLoss s q = none)
    (homed : ∀ g ∈ pinNames s i n, (s.group g).inYard = false) :
    pinBlocks q i n k s = if pinsExceed s i n k then finish q Status.noBuffer s
      else setEntry q.ring q.pos .started { s with due := s.due ++ [.pin i n k q.ring q.pos] } := by
  have fresh : ∀ g ∈ freshPins s i n, (s.group g).inYard = false := fun g hg => homed g (List.mem_of_mem_filter hg)
  have here : (freshPins s i n).any (fun g => (s.group g).inYard) = false :=
    List.any_eq_false.2 fun g hg => by simp [fresh g hg]
  simp [pinBlocks, sound, recallAll_homed _ s _ fresh, here]

/-- Groups pinned for a coupe. -/
def pinAll (k : CoupeId) (gs : List GroupId) (s : State) : State :=
  gs.foldl (fun t g => t.setGroup g { t.group g with pinned := true, pinCoupe := k }) s

theorem pinAll_frame (k : CoupeId) (gs : List GroupId) (s : State) :
    (pinAll k gs s).mem = s.mem ∧ (pinAll k gs s).cores = s.cores ∧ (pinAll k gs s).rings = s.rings :=
  foldl_related (R := fun s t : State => t.mem = s.mem ∧ t.cores = s.cores ∧ t.rings = s.rings) (fun _ => ⟨rfl, rfl, rfl⟩)
    (fun h g => ⟨g.1.trans h.1, g.2.1.trans h.2.1, g.2.2.trans h.2.2⟩)
    (fun t g => t.setGroup g { t.group g with pinned := true, pinCoupe := k }) (fun _ _ => ⟨rfl, rfl, rfl⟩) gs s

theorem pinAll_other (k : CoupeId) (g : GroupId) : ∀ (gs : List GroupId) (s : State), g ∉ gs →
    (pinAll k gs s).group g = s.group g
  | [], _, _ => rfl
  | x :: gs, s, h => by
    obtain ⟨ne, out⟩ := not_or.1 (mt List.mem_cons.2 h)
    exact (pinAll_other k g gs _ out).trans (State.setGroup_group_other _ _ _ _ ne)

theorem pinAll_pinned (k : CoupeId) (g : GroupId) : ∀ (gs : List GroupId) (s : State), g ∈ gs →
    ((pinAll k gs s).group g).pinned = true ∧ ((pinAll k gs s).group g).pinCoupe = k
  | [], _, h => absurd h List.not_mem_nil
  | x :: gs, s, h => by
    have step : pinAll k (x :: gs) s = pinAll k gs (s.setGroup x { s.group x with pinned := true, pinCoupe := k }) := rfl
    by_cases later : g ∈ gs
    · rw [step]
      exact pinAll_pinned k g gs _ later
    · obtain rfl : g = x := (List.mem_cons.1 h).resolve_right later
      have kept := pinAll_other k g gs (s.setGroup g { s.group g with pinned := true, pinCoupe := k }) later
      rw [State.setGroup_group] at kept
      rw [step]
      exact ⟨congrArg Group.pinned kept, congrArg Group.pinCoupe kept⟩

theorem finishAt_frame (r : RingId) (p : BitVec 32) (st : BitVec 8) (dk : BitVec 4) (d : BitVec 64) (n : BitVec 48)
    (s : State) : OnlyRings s (finishAt r p st dk d n s) := rfl

theorem applyPin_within {i : SlotId} {n : Nat} {k : CoupeId} {q : Desc} {s : State} (ok : pinsExceed s i n k = false) :
    applyPin i n k q.ring q.pos s = finishAt q.ring q.pos Status.ok 1
      (put 48 (freshPins s i n).length ||| put 32 ((pinNames s i n).length - (freshPins s i n).length
          - ((pinNames s i n).filter (fun g => pinnable s g && (s.group g).pinned)).length)
        ||| put 16 ((pinNames s i n).filter (fun g => pinnable s g && (s.group g).pinned)).length) 0
      (pinAll k (freshPins s i n) s) := by
  simp only [applyPin, ok]
  rfl

/-- A PIN within the floor, in its commit. -/
theorem applyPin_spec {i : SlotId} {n : Nat} {k : CoupeId} {q : Desc} {s : State} {e : Entry}
    (he : entryOf s q.ring q.pos = some e) (ok : pinsExceed s i n k = false) :
    let t := applyPin i n k q.ring q.pos s
    let already := ((pinNames s i n).filter (fun g => pinnable s g && (s.group g).pinned)).length
    SameBytes s t ∧ t.cores = s.cores
      ∧ (∀ g ∈ freshPins s i n, (t.group g).pinned = true ∧ (t.group g).pinCoupe = k)
      ∧ (∀ g, g ∉ freshPins s i n → t.group g = s.group g)
      ∧ EntryIs q (.done Status.ok 1 (put 48 (freshPins s i n).length
          ||| put 32 ((pinNames s i n).length - (freshPins s i n).length - already) ||| put 16 already) 0) t := by
  intro t already
  obtain ⟨mem, cores, rings⟩ := pinAll_frame k (freshPins s i n) s
  have body : t = _ := applyPin_within ok
  have groups (g : GroupId) : t.group g = (pinAll k (freshPins s i n) s).group g := by rw [body]; rfl
  refine ⟨fun a => ?_, ?_, fun g hg => ?_, fun g hg => ?_, ?_⟩
  · rw [body]; exact congrArg (Memory.byte a) mem
  · rw [body]; exact cores
  · rw [groups]; exact pinAll_pinned k g _ s hg
  · rw [groups]; exact pinAll_other k g _ s hg
  · rw [body]
    exact setEntry_entryIs ((entryOf_of_rings rings _ _).trans he) _

section
variable {q : Desc} {s : State} (hc : canStart s q = true)
include hc

theorem exec_pin_names (ho : Hdr.opcode q.w = 0x23) (may : mayName s q (BitVec.ofNat 7 (bits q.w 466 460)) = true)
    (known : seqLost s q.w = false ∧ otherFunction s q = false) :
    exec (.pin q) s = .next (pinBlocks q (descSlot q.w) (bits q.w 482 467) (BitVec.ofNat 7 (bits q.w 466 460)) s) := by
  rw [exec_pin, execPin, starts_of_canStart _ hc ho]
  simp [may, known]

/-- A command that finishes its descriptor with OK and leaves one change for the next commit. -/
theorem ends_with_due {i : Instr} {d : Due}
    (run : exec i s = .next (finish q Status.ok { s with due := s.due ++ [d] })) :
    ∃ t, exec i s = .next t ∧ EndsWith q Status.ok t ∧ SameBytes s t
      ∧ t = { s with rings := t.rings, due := s.due ++ [d] } :=
  ⟨_, run, finish_ends (u := { s with due := s.due ++ [d] }) hc rfl _, fun _ => rfl, rfl⟩

end

/-- Settles O28: PIN by `pinBlocks_homed` and `applyPin_spec`; the others finish and leave one change to the commit. -/
theorem pinsAndSalts : Obligations.PinsAndSalts := by
  intro q s hc i k held gs
  refine ⟨fun ho may known sound homed => ?_, fun ho may => ⟨fun one known => ?_, fun all => ?_⟩, fun ho => ⟨fun set => ?_,
    fun unset => ?_⟩⟩
  · intro fresh already asked
    have run := exec_pin_names hc ho may known
    rw [pinBlocks_homed q _ _ _ s sound homed] at run
    have freshIs : freshPins s i (bits q.w 482 467) = fresh := rfl
    have exceed : pinsExceed s i (bits q.w 482 467) k = decide ((s.coupe k).floor.toNat < asked) := rfl
    refine ⟨fun within => ?_, fun beyond => ?_⟩
    · have ok : pinsExceed s i (bits q.w 482 467) k = false := by rw [exceed]; simpa using within
      rw [if_neg (by rw [ok]; decide)] at run
      obtain ⟨e, he, -⟩ := canStart_entry hc
      exact ⟨⟨_, run, setEntry_entryIs (s := { s with due := _ }) he _, rfl⟩, applyPin_spec he ok⟩
    · have tooMany : pinsExceed s i (bits q.w 482 467) k = true := by rw [exceed]; simpa using beyond
      rw [if_pos tooMany] at run
      exact ⟨_, run, finish_ends hc rfl _, rfl⟩
  · refine ends_with_due hc ?_
    rw [exec_unpin, execUnpin, if_neg (by simp [one]), starts_of_canStart _ hc ho]
    simp [may, known.1, known.2, gs, i, k]
  · refine ends_with_due hc ?_
    rw [exec_unpinAll, execUnpinAll, if_neg (by simp [all]), starts_of_canStart _ hc ho]
    simp [may, k]
  · refine ends_with_due hc ?_
    rw [exec_saltSet, execSaltSet, if_neg (by simp [set]), starts_of_canStart _ hc ho]
  · refine ends_with_due hc ?_
    rw [exec_saltUnset, execSaltUnset, if_neg (by simp [unset]), starts_of_canStart _ hc ho]

/-! ## The functions under reset -/

theorem bit_or {w : Nat} (a b : BitVec w) (i : Nat) : bit (a ||| b) i = (bit a i || bit b i) := BitVec.getLsbD_or

theorem bit_put_one : ∀ f g : BitVec 3, bit (put f.toNat 1 : BitVec 8) g.toNat = decide (g = f) := by decide

theorem bit_and_not (a b : BitVec 8) (g : BitVec 3) :
    bit (a &&& ~~~b) g.toNat = (bit a g.toNat && !bit b g.toNat) := by
  have small : g.toNat < 8 := g.isLt
  have both : bit (a &&& ~~~b) g.toNat = (bit a g.toNat && (~~~b).getLsbD g.toNat) := BitVec.getLsbD_and
  rw [both, BitVec.getLsbD_not]
  simp only [small, decide_true, Bool.true_and]
  rfl

/-- Memory, the cores and the functions under reset are those of the state before. -/
def KeepsCores (s t : State) : Prop := t.mem = s.mem ∧ t.cores = s.cores ∧ t.funcReset = s.funcReset

theorem KeepsCores.refl (s : State) : KeepsCores s s := ⟨rfl, rfl, rfl⟩

theorem KeepsCores.trans {s t u : State} (h : KeepsCores s t) (g : KeepsCores t u) : KeepsCores s u :=
  ⟨g.1.trans h.1, g.2.1.trans h.2.1, g.2.2.trans h.2.2⟩

theorem OnlyPools.keepsCores {s t : State} (h : OnlyPools s t) : KeepsCores s t := by
  rw [h]
  exact .refl _

theorem againRing_keepsCores (f : BitVec 3) (s : State) (r : RingId) : KeepsCores s (againRing f s r) := by
  unfold againRing
  extract_lets x k s1 s2
  have given : KeepsCores s1 s2 :=
    foldl_related .refl .trans (fun t (st : Step) => st.reqs.foldl (fun u q => giveBack q u) t)
      (fun t st => foldl_related .refl .trans _ (fun u q => (giveBack_onlyPools q u).keepsCores) st.reqs t) _ s1
  split_ifs
  · exact .refl s
  · exact (given : KeepsCores s s2)

/-! ## Observations at a CXL switch, counters and the TAP -/

theorem observeAll_frame (l : List (RingId × BitVec 32)) (s : State) :
    let t := l.foldl (fun t c => observe c.1 c.2 t) s
    t.power = s.power ∧ t.mem = s.mem ∧ t.cores = s.cores := by
  intro t
  have frame : OnlyRingsAndEvents s t := observeAll_onlyRingsAndEvents l s
  rw [frame]
  exact ⟨rfl, rfl, rfl⟩

/-- Telemetry datagrams, memory and the cores are those of the state before. -/
def KeepsTelemetry (s t : State) : Prop := t.telemetry = s.telemetry ∧ t.mem = s.mem ∧ t.cores = s.cores

theorem countEths_frame (p : Bool) (l : List (Nat × Nat)) (s : State) : KeepsTelemetry s (countEths p l s) :=
  foldl_related (fun _ => ⟨rfl, rfl, rfl⟩) (fun h g => ⟨g.1.trans h.1, g.2.1.trans h.2.1, g.2.2.trans h.2.2⟩)
    (fun (t : State) (c : Nat × Nat) => countEth p c.1 c.2 t) (fun _ _ => ⟨rfl, rfl, rfl⟩) l s

theorem exec_telemetrySample_sends {s : State} (running : s.ranger.running = true) (up : ethOn s false = true)
    (telem : bit s.setup.telemPort 16 = true) (idle : (s.ethPort false).testing = false) :
    ∃ t, exec .telemetrySample s = .next t ∧ t.telemetry = s.telemetry + 1 ∧ t.mem = s.mem ∧ t.cores = s.cores := by
  have run : execTelemetrySample s = .next (countEths false [(0, 1), (2, (Config.freeValue s.free).toNat % 9217)]
      { s with telemetry := s.telemetry + 1, free := s.free + 1 }) := by
    rw [execTelemetrySample, if_pos (by simp [running, up, telem, idle])]
    rfl
  obtain ⟨telemetry, mem, cores⟩ := countEths_frame false [(0, 1), (2, (Config.freeValue s.free).toNat % 9217)]
    { s with telemetry := s.telemetry + 1, free := s.free + 1 }
  exact ⟨_, run, telemetry, mem, cores⟩

theorem exec_busMasterEnable_resumes {f : BitVec 3} {s : State} (reset : bit s.funcReset f.toNat = true) :
    ∃ t, exec (.busMasterEnable f) s = .next t ∧ t.mem = s.mem ∧ t.cores = s.cores
      ∧ ∀ g : BitVec 3, bit t.funcReset g.toNat = (bit s.funcReset g.toNat && !decide (g = f)) := by
  obtain ⟨mem, cores, funcs⟩ : KeepsCores s ((s.rings.map (fun e => BitVec.ofNat 15 e.1)).foldl (againRing f) s) :=
    foldl_related .refl .trans _ (againRing_keepsCores f) _ s
  rw [exec_busMasterEnable, execBusMasterEnable, if_pos reset]
  generalize (s.rings.map (fun e => BitVec.ofNat 15 e.1)).foldl (againRing f) s = u at *
  refine ⟨_, rfl, mem, cores, fun g => ?_⟩
  rw [← bit_put_one, ← funcs]
  exact bit_and_not ..

theorem tapFree_on {s : State} (aux : s.power.aux = true) (i : TapInstr) :
    tapFree i s = .next { s with tap := i, tapHolds := false } := by
  simp [tapFree, aux]

theorem tapHold_on {s : State} (aux : s.power.aux = true) (i : TapInstr) :
    tapHold i s = .next (if s.power.coldRst then { s with tap := i, tapHolds := true }
      else { s with tap := .bypass, tapHolds := false }) := by
  cases hr : s.power.coldRst <;> simp [tapHold, aux, hr]

theorem tap_off {s : State} (aux : s.power.aux = false) (i : TapInstr) :
    tapFree i s = .next s ∧ tapHold i s = .next s := by
  simp [tapFree, tapHold, aux]

/-- Settles O50: each command of the host's side and of the TAP by its own branch. -/
theorem functionsHostLinkAndTap : Obligations.FunctionsHostLinkAndTap := by
  refine ⟨fun s => ⟨fun f main inRange => ?_, fun f reset => ?_, rfl, fun rate width main perst phase => ?_,
    fun on counts main => ?_, fun address aux running => ?_, fun running up telem idle => ?_⟩, fun s => ⟨rfl,
    fun aux => ⟨fun i hi => ?_, fun i hi => ?_⟩, fun aux i hi => ?_⟩⟩
  · refine ⟨{ s with funcReset := s.funcReset ||| put f.toNat 1 }, ?_, rfl, fun g => ?_⟩
    · simp [exec_functionLevelReset, execFunctionLevelReset, main, inRange]
    · exact (bit_or ..).trans (by rw [bit_put_one])
  · exact exec_busMasterEnable_resumes reset
  · simp [exec_hostLinkRestored, execHostLinkRestored, main, perst, phase]
  · rw [exec_cxlCacheEnableChange, execCxlCacheEnableChange, if_neg (by simp [main])]
    split_ifs
    · obtain ⟨power, mem, cores⟩ := observeAll_frame counts { s with power := { s.power with cxl := on } }
      exact ⟨_, rfl, by rw [power], mem, cores⟩
    · exact ⟨_, rfl, rfl, rfl, rfl⟩
  · simp [exec_entdaa, execEntdaa, aux, running, provisionalId]
  · exact exec_telemetrySample_sends running up telem idle
  · simp only [List.mem_cons, List.not_mem_nil, or_false] at hi
    rcases hi with rfl | rfl | rfl <;> exact tapFree_on aux _
  · simp only [List.mem_cons, List.not_mem_nil, or_false] at hi
    rcases hi with rfl | rfl | rfl | rfl | rfl <;> exact tapHold_on aux _
  · simp only [List.mem_cons, List.not_mem_nil, or_false] at hi
    rcases hi with rfl | rfl | rfl | rfl | rfl | rfl | rfl | rfl
    · exact (tap_off aux _).1
    · exact (tap_off aux _).1
    · exact (tap_off aux _).1
    all_goals exact (tap_off aux _).2

end Sys2Proof.Machine
end

section
/-! PROOFS. What the traffic of steps, streams, links and bindings leaves alone: memory, the slots, stands, sectors and
memory units, the sequences and groups, and the commit number. -/

namespace Sys2Proof.Machine

/-- The parts of the device and the records that no end of a step, flush, unbinding or packet changes. It takes a state
apart, so that its equation reads a state that is written out. -/
def ground : State → (List Host.Cell × List Nat × Sparse RowError × Sparse GranuleError)
    × (Sparse Slot × Sparse Stand × Sparse Sector × Sparse Stack × Sparse Channel)
    × (Sparse Seq × Sparse Group × BitVec 64) × BitVec 64 × List Due × Setup
  | { mem, poison, rowErrors, granuleErrors, slots, stands, sectors, deckStacks, channels, dur, timebase, due, setup, .. } =>
    ((mem, poison, rowErrors, granuleErrors), (slots, stands, sectors, deckStacks, channels),
      (dur.seqs, dur.groups, dur.commits), timebase, due, setup)

@[simp] theorem ground_mk : type_of% @ground.eq_1 := @ground.eq_1

@[simp] theorem ground_fields (s : State) : ((s.mem, s.poison, s.rowErrors, s.granuleErrors),
    (s.slots, s.stands, s.sectors, s.deckStacks, s.channels), (s.dur.seqs, s.dur.groups, s.dur.commits), s.timebase, s.due,
    s.setup) = ground s := rfl

section
variable {s t : State} (h : ground t = ground s)
include h

theorem ground_mem : t.mem = s.mem := congrArg (·.1.1) h
theorem ground_sameBytes : SameBytes s t := fun a => congrArg (Memory.byte a) (ground_mem h)
theorem ground_rowErrors : t.rowErrors = s.rowErrors := congrArg (·.1.2.2.1) h
theorem ground_slot (c : CoreId) : t.slot c = s.slot c := congrArg (fun x => x.2.1.1.get Slot.reset c.toNat) h
theorem ground_stands : t.stands = s.stands := congrArg (·.2.1.2.1) h
theorem ground_stand (g : StandId) : t.stand g = s.stand g := by rw [State.stand, State.stand, ground_stands h]
theorem ground_sectors : t.sectors = s.sectors := congrArg (·.2.1.2.2.1) h
theorem ground_seqs : t.dur.seqs = s.dur.seqs := congrArg (·.2.2.1.1) h
theorem ground_seq (i : SlotId) : t.seq i = s.seq i := by rw [State.seq, State.seq, ground_seqs h]

end

@[simp] theorem ground_ite (c : Prop) [Decidable c] (a b : State) :
    ground (if c then a else b) = if c then ground a else ground b := apply_ite ground c a b

@[simp] theorem foldl_ground {α : Type} {f : State → α → State} (h : ∀ t x, ground (f t x) = ground t) (l : List α)
    (s : State) : ground (l.foldl f s) = ground s := by
  induction l generalizing s with
  | nil => rfl
  | cons x l ih => rw [List.foldl_cons, ih, h]

/-! ## Single records -/

@[simp] theorem State.setCore_ground (s c x) : ground (State.setCore s c x) = ground s := by simp [State.setCore]
@[simp] theorem State.setCoupe_ground (s k x) : ground (State.setCoupe s k x) = ground s := by simp [State.setCoupe]
@[simp] theorem State.setRun_ground (s k x) : ground (State.setRun s k x) = ground s := by simp [State.setRun]
@[simp] theorem State.setImage_ground (s h x) : ground (State.setImage s h x) = ground s := by simp [State.setImage]
@[simp] theorem State.setRing_ground (s r x) : ground (State.setRing s r x) = ground s := by simp [State.setRing]
@[simp] theorem State.setLink_ground (s l x) : ground (State.setLink s l x) = ground s := by simp [State.setLink]
@[simp] theorem State.setQueue_ground (s k h q) : ground (State.setQueue s k h q) = ground s := by simp [State.setQueue]

/-! ## Events and packets -/

@[simp] theorem raise_ground (f kind record value stepno ring k c s) :
    ground (raise f kind record value stepno ring k c s) = ground s := by simp [raise]

@[simp] theorem raise0_ground (kind value s) : ground (raise0 kind value s) = ground s := by simp [raise0]
@[simp] theorem raiseCore_ground (kind record value c s) : ground (raiseCore kind record value c s) = ground s := by
  fun_cases raiseCore kind record value c s <;> simp [*]

@[simp] theorem raiseStand_ground (kind value g s) : ground (raiseStand kind value g s) = ground s := by
  fun_cases raiseStand kind value g s <;> simp [*]

@[simp] theorem setDevice_ground (d s) : ground (setDevice d s) = ground s := by simp [setDevice]
@[simp] theorem maybeReady_ground (s) : ground (maybeReady s) = ground s := by simp [maybeReady]
@[simp] theorem showSlot_ground (c s) : ground (showSlot c s) = ground s := by simp [showSlot]
@[simp] theorem transmit_ground (l vc header p s) : ground (transmit l vc header p s) = ground s := by simp [transmit]
@[simp] theorem sendTo_ground (dst odd header p s) : ground (sendTo dst odd header p s) = ground s := by
  fun_cases sendTo dst odd header p s <;> simp [*]

@[simp] theorem sendRouted_ground (k dst odd header p s) : ground (sendRouted k dst odd header p s) = ground s := by
  fun_cases sendRouted k dst odd header p s <;> simp [*]

@[simp] theorem sendMember_ground (k m ptype channel poison len ord p s) :
    ground (sendMember k m ptype channel poison len ord p s) = ground s := by
  fun_cases sendMember k m ptype channel poison len ord p s <;> simp [*]

@[simp] theorem sendAllMembers_ground (k ptype len p s) :
    ground (sendAllMembers k ptype len p s) = ground s := by simp [sendAllMembers]

/-! ## Descriptors -/

@[simp] theorem setEntry_ground (r p st s) : ground (setEntry r p st s) = ground s := by simp [setEntry]
@[simp] theorem finishAt_ground (r p status dkind detail stepno s) :
    ground (finishAt r p status dkind detail stepno s) = ground s := by simp [finishAt]

@[simp] theorem finish_ground (q status s) : ground (finish q status s) = ground s := by simp [finish]

/-! ## Allocations, images and bindings -/

@[simp] theorem dropMove_ground (m s) : ground (dropMove m s) = ground s := by simp [dropMove]
@[simp] theorem dropMoves_ground (f s) : ground (dropMoves f s) = ground s := by simp [dropMoves]
@[simp] theorem dropKinds_ground (f s) : ground (dropKinds f s) = ground s := by simp [dropKinds]
@[simp] theorem dropAlloc_ground (kd s) : ground (dropAlloc kd s) = ground s := by simp [dropAlloc]
@[simp] theorem dropSaves_ground (k s) : ground (dropSaves k s) = ground s := by simp [dropSaves]
@[simp] theorem dropImage_ground (h s) : ground (dropImage h s) = ground s := by simp [dropImage]
@[simp] theorem unbindImage_ground (h s) : ground (unbindImage h s) = ground s := by simp [unbindImage]
@[simp] theorem unbindJob_ground (k j s) : ground (unbindJob k j s) = ground s := by
  simp only [unbindJob]
  split <;> simp

@[simp] theorem unbindAll_ground (k s) : ground (unbindAll k s) = ground s := by simp [unbindAll]
@[simp] theorem unbindCoupe_ground (k s) : ground (unbindCoupe k s) = ground s := by simp [unbindCoupe]

/-! ## Cores, flushes and the ends of steps -/

@[simp] theorem dropStaging_ground (c s) : ground (dropStaging c s) = ground s :=
  foldl_ground (fun t p => by split <;> simp) _ _

@[simp] theorem resetCore_ground (c s) : ground (resetCore c s) = ground s := by simp [resetCore]
@[simp] theorem flushCoupe_ground (k s) : ground (flushCoupe k s) = ground s := by simp [flushCoupe]
@[simp] theorem setStep_ground (k st s) : ground (setStep k st s) = ground s := by simp [setStep]
@[simp] theorem sendOutcome_ground (k status s) : ground (sendOutcome k status s) = ground s := by
  simp only [sendOutcome]
  split <;> simp

@[simp] theorem endStep_ground (k status detail dkind s) : ground (endStep k status detail dkind s) = ground s := by
  simp only [endStep]
  repeat' split
  all_goals simp [*]

@[simp] theorem triggerReplay_ground (k status detail dkind s) :
    ground (triggerReplay k status detail dkind s) = ground s := by
  simp only [triggerReplay]
  repeat' split
  all_goals simp [*]

@[simp] theorem failSave_ground (act status s) : ground (failSave act status s) = ground s := by
  fun_cases failSave act status s <;> simp [*]

@[simp] theorem loseStand_ground (k g s) : ground (loseStand k g s) = ground s := by
  simp only [loseStand]
  repeat' split
  all_goals simp [*]

/-- A stand that fails leaves service; nothing else of the plant changes. -/
theorem standOut_ground (g s) : ground (standOut g s)
    = if (s.stand g).inService then ground (s.setStand g { s.stand g with inService := false }) else ground s := by
  have stand : (raiseStand 0x15 (1 + g.toNat * 256) g s).stand g = s.stand g := ground_stand (by simp) g
  have set (t : State) (h : ground t = ground s) (x : Stand) :
      ground (t.setStand g x) = ground (s.setStand g x) := by
    rw [← ground_fields, ← ground_fields] at h ⊢
    simp only [Prod.mk.injEq, State.setStand] at h ⊢
    simp [h]
  simp only [standOut]
  split
  next on =>
    rw [maybeReady_ground]
    split
    · exact stand ▸ set _ (by simp) _
    · rw [loseStand_ground]; exact stand ▸ set _ (by simp) _
  next => rfl

end Sys2Proof.Machine
end

section
/-! PROOFS. The retirement of a core (R66, R370), patrols, the end of a bench move and the rebuilt scent table (R67, R231,
R365–R367). -/

namespace Sys2Proof.Machine

/-! ## Cores that packets and the ends of steps leave alone -/

@[simp] theorem sendAllMembers_cores (k ptype len p s) : (sendAllMembers k ptype len p s).cores = s.cores :=
  foldl_cores (fun t m => sendMember_cores ..) _ s

@[simp] theorem setStep_cores (k st s) : (setStep k st s).cores = s.cores := rfl

@[simp] theorem sendOutcome_cores (k status s) : (sendOutcome k status s).cores = s.cores := by
  simp only [sendOutcome]
  split
  · rfl
  · exact sendAllMembers_cores ..

@[simp] theorem endStep_cores (k status detail dkind s) : (endStep k status detail dkind s).cores = s.cores := by
  simp only [endStep]
  repeat' split
  all_goals simp

@[simp] theorem triggerReplay_cores (k status detail dkind s) :
    (triggerReplay k status detail dkind s).cores = s.cores := by
  simp only [triggerReplay]
  repeat' split
  all_goals simp

/-! ## Resetting a core -/

theorem dropStaging_cores (c : CoreId) (s : State) : (dropStaging c s).cores = s.cores :=
  foldl_cores (fun t p => by split <;> rfl) _ s

theorem core_of_cores {s t : State} (h : t.cores = s.cores) (c : CoreId) : t.core c = s.core c := by
  rw [State.core, State.core, h]

theorem resetCore_cores (c : CoreId) (s : State) :
    (resetCore c s).cores = (s.setCore c (s.core c).cleared).cores := by
  have same : (dropStaging c s).core c = s.core c := core_of_cores (dropStaging_cores c s) c
  simp only [resetCore, same, State.setCore, dropStaging_cores]

theorem resetCore_core (c : CoreId) (s : State) : (resetCore c s).core c = (s.core c).cleared :=
  (core_of_cores (resetCore_cores c s) c).trans (State.setCore_core ..)

theorem resetCore_core_other {c d : CoreId} (s : State) (h : d ≠ c) : (resetCore c s).core d = s.core d :=
  (core_of_cores (resetCore_cores c s) d).trans (State.setCore_core_other _ _ _ _ h)

/-! ## Retirement -/

theorem spares_congr {s t : State} {g : StandId} (slots : t.slots = s.slots) (stand : t.stand g = s.stand g) :
    spares t g = spares s g := by
  have slot (c : CoreId) : t.slot c = s.slot c := by rw [State.slot, State.slot, slots]
  simp only [spares, stand, physOf, slot]
  congr

/-- The slot of a core that a spare replaces. -/
def replaced (s : State) (c : CoreId) (p : BitVec 6) : Slot :=
  { s.slot c with incarn := nextIncarn (s.slot c).incarn, phys := some p, moving := true, movingFrom := physOf s c }

/-- The slot of a core that no spare replaces. -/
def lostSlot (s : State) (c : CoreId) : Slot :=
  { s.slot c with incarn := nextIncarn (s.slot c).incarn, state := .failed }

/-- The core's stand with the physical core among the retired ones. -/
def standRetired (s : State) (c : CoreId) : Stand :=
  { s.stand (coreStand c) with retired := (s.stand (coreStand c)).retired ++ [physOf s c] }

/-- The state in which the core has been reset, its physical core retired and its slot changed. -/
def retiredWith (c : CoreId) (y : Slot) (s : State) : State :=
  ((resetCore c s).setStand (coreStand c) (standRetired s c)).setSlot c y

theorem retiredWith_core (c : CoreId) (y : Slot) (s : State) : (retiredWith c y s).core c = (s.core c).cleared := by
  rw [retiredWith, State.setSlot_core, State.setStand_core, resetCore_core]

theorem retiredWith_mem (c : CoreId) (y : Slot) (s : State) : (retiredWith c y s).mem = s.mem :=
  calc (retiredWith c y s).mem = ((resetCore c s).setStand (coreStand c) (standRetired s c)).mem := State.setSlot_mem ..
    _ = (resetCore c s).mem := State.setStand_mem ..
    _ = s.mem := ground_mem (resetCore_ground c s)

theorem retiredWith_slot_other (c : CoreId) (y : Slot) (s : State) {d : CoreId} (hd : d ≠ c) :
    (retiredWith c y s).slot d = s.slot d :=
  calc (retiredWith c y s).slot d = ((resetCore c s).setStand (coreStand c) (standRetired s c)).slot d :=
        State.setSlot_slot_other _ _ _ _ hd
    _ = (resetCore c s).slot d := State.setStand_slot ..
    _ = s.slot d := ground_slot (resetCore_ground c s) d

theorem retiredWith_stand (c : CoreId) (y : Slot) (s : State) :
    (retiredWith c y s).stand (coreStand c) = standRetired s c :=
  calc (retiredWith c y s).stand (coreStand c)
      = ((resetCore c s).setStand (coreStand c) (standRetired s c)).stand (coreStand c) := State.setSlot_stand ..
    _ = standRetired s c := State.setStand_stand ..

theorem retiredWith_frame (c : CoreId) (y : Slot) (s : State) : (retiredWith c y s).mem = s.mem
    ∧ (retiredWith c y s).slot c = y ∧ (∀ d, d ≠ c → (retiredWith c y s).slot d = s.slot d)
    ∧ (retiredWith c y s).stand (coreStand c) = standRetired s c :=
  ⟨retiredWith_mem c y s, State.setSlot_slot .., fun _ hd => retiredWith_slot_other c y s hd, retiredWith_stand c y s⟩

theorem raiseCore_cores (kind record value c s) : (raiseCore kind record value c s).cores = s.cores := by
  fun_cases raiseCore kind record value c s <;> rfl

/-- The retired slot as the mirror shows it, with its event. -/
def retiredShown (c : CoreId) (value : Nat) (y : Slot) (s : State) : State :=
  raiseCore 0x13 0 value c (showSlot c (retiredWith c y s))

theorem retiredShown_ground (c : CoreId) (value : Nat) (y : Slot) (s : State) :
    ground (retiredShown c value y s) = ground (retiredWith c y s) := by
  simp [retiredShown]

theorem retiredShown_cores (c : CoreId) (value : Nat) (y : Slot) (s : State) :
    (retiredShown c value y s).cores = (retiredWith c y s).cores := by
  rw [retiredShown, raiseCore_cores, showSlot]

/-- The spares of the core's stand, once its physical core is retired. -/
def sparesLeft (s : State) (c : CoreId) : List (BitVec 6) :=
  spares (s.setStand (coreStand c) (standRetired s c)) (coreStand c)

section
variable {c : CoreId} {s : State}

theorem sparesLeft_eq : spares ((resetCore c s).setStand (coreStand c) (standRetired s c)) (coreStand c) = sparesLeft s c := by
  refine spares_congr (congrArg (·.2.1.1) (resetCore_ground c s)) ?_
  rw [State.setStand_stand, State.setStand_stand]

theorem standRetired_eq : { (resetCore c s).stand (coreStand c) with
    retired := ((resetCore c s).stand (coreStand c)).retired ++ [physOf s c] } = standRetired s c := by
  rw [ground_stand (resetCore_ground c s)]
  rfl

theorem retireCore_replaces {p : BitVec 6} {rest : List (BitVec 6)} (h : sparesLeft s c = p :: rest) :
    let t := retireCore c s
    ground t = ground (retiredWith c (replaced s c p) s) ∧ t.cores = (retiredWith c (replaced s c p) s).cores := by
  intro t
  generalize hu : retiredShown c ((nextIncarn (s.slot c).incarn).toNat + p.toNat * 2 ^ 16) (replaced s c p) s = u
  have body : t = match coupeOf u c with
      | none => u
      | some k => triggerReplay k Status.restartRequired 0 0 u := by
    simp only [t, retireCore, standRetired_eq, sparesLeft_eq, h, ← hu]
    rfl
  have shown : ground u = _ := hu ▸ retiredShown_ground ..
  have cores : u.cores = _ := hu ▸ retiredShown_cores ..
  rw [body, ← shown, ← cores]
  split
  · exact ⟨rfl, rfl⟩
  · exact ⟨triggerReplay_ground .., triggerReplay_cores ..⟩

theorem retireCore_fails (h : sparesLeft s c = []) :
    ∃ t, ground t = ground (retiredWith c (lostSlot s c) s) ∧ retireCore c s = standOut (coreStand c) t := by
  refine ⟨retiredShown c ((nextIncarn (s.slot c).incarn).toNat + (physOf s c).toNat * 2 ^ 16 + 2 ^ 22) (lostSlot s c) s,
    retiredShown_ground .., ?_⟩
  simp only [retireCore, standRetired_eq, sparesLeft_eq, h]
  rfl

/-- Once the stand is out, nothing but its service state differs. -/
theorem standOut_frame (g : StandId) (t : State) : (standOut g t).mem = t.mem
    ∧ (∀ d, (standOut g t).slot d = t.slot d) ∧ (standOut g t).stand g = { t.stand g with inService := false } := by
  have out := standOut_ground g t
  split at out
  next on =>
    refine ⟨by rw [ground_mem out, State.setStand_mem], fun d => ?_, (ground_stand out g).trans (State.setStand_stand ..)⟩
    rw [ground_slot out d, State.setStand_slot]
  next off =>
    refine ⟨ground_mem out, ground_slot out, (ground_stand out g).trans ?_⟩
    simp only [Bool.not_eq_true] at off
    rw [← off]

end

/-- What the retirement of a core's physical core does (R370). -/
theorem retireCore_spec (c : CoreId) (s : State) : let t := retireCore c s
    t.mem = s.mem ∧ (t.slot c).incarn = nextIncarn (s.slot c).incarn
      ∧ (t.stand (coreStand c)).retired = (s.stand (coreStand c)).retired ++ [physOf s c]
      ∧ (∀ p rest, sparesLeft s c = p :: rest → t.slot c = replaced s c p ∧ t.core c = (s.core c).cleared)
      ∧ (sparesLeft s c = [] → t.slot c = lostSlot s c ∧ (t.stand (coreStand c)).inService = false)
      ∧ ∀ d, d ≠ c → t.slot d = s.slot d := by
  intro t
  cases left : sparesLeft s c with
  | cons p rest =>
    obtain ⟨same, cores⟩ := retireCore_replaces left
    obtain ⟨mem, slot, others, stand⟩ := retiredWith_frame c (replaced s c p) s
    have slotIs : t.slot c = replaced s c p := (ground_slot same c).trans slot
    refine ⟨(ground_mem same).trans mem, by rw [slotIs]; rfl, ?_, fun p' rest' h => ?_, nofun, fun d hd => ?_⟩
    · rw [ground_stand same, stand]; rfl
    · cases h
      exact ⟨slotIs, (core_of_cores cores c).trans (retiredWith_core ..)⟩
    · exact (ground_slot same d).trans (others d hd)
  | nil =>
    obtain ⟨u, same, run⟩ := retireCore_fails left
    obtain ⟨mem, slot, others, stand⟩ := retiredWith_frame c (lostSlot s c) s
    obtain ⟨outMem, outSlot, outStand⟩ := standOut_frame (coreStand c) u
    have slotIs : t.slot c = lostSlot s c := by rw [show t = _ from run, outSlot, ground_slot same, slot]
    have standIs : t.stand (coreStand c) = { standRetired s c with inService := false } := by
      rw [show t = _ from run, outStand, ground_stand same, stand]
    refine ⟨?_, by rw [slotIs]; rfl, by rw [standIs]; rfl, nofun, fun _ => ⟨slotIs, by rw [standIs]⟩, fun d hd => ?_⟩
    · rw [show t = _ from run, outMem, ground_mem same, mem]
    · rw [show t = _ from run, outSlot, ground_slot same, others d hd]

/-! ## Patrols -/

/-- A patrol strikes the core off its stand's list. -/
def patrolled (c : CoreId) (s : State) : State :=
  s.setStand (coreStand c) { s.stand (coreStand c) with
    unpatrolled := (s.stand (coreStand c)).unpatrolled.filter (· ≠ coreSlot c) }

theorem execPatrol_eq {s : State} {c : CoreId} (may : mayPatrol s c = true) (first second : Bool) :
    exec (.patrol c first second) s = .next (if first then patrolled c s
      else if second then transient c (raiseCore 0x11 0 (b2n !second) c (patrolled c s))
      else retireCore c (raiseCore 0x11 0 (b2n !second) c (patrolled c s))) := by
  rw [exec_patrol, execPatrol, if_pos may]
  split <;> rfl

theorem suspect_slot (c : CoreId) (cause : Nat) (s : State) : let t := suspect c cause s
    t.mem = s.mem ∧ (t.slot c).lastBad = (s.slot c).coreSteps ∧ (t.slot c).incarn = (s.slot c).incarn := by
  unfold suspect
  extract_lets x t
  simp only [t]
  split
  · refine ⟨(ground_mem (raiseCore_ground ..)).trans (State.setSlot_mem ..), ?_⟩
    rw [ground_slot (raiseCore_ground ..), State.setSlot_slot]
    exact ⟨rfl, rfl⟩
  · rw [State.setSlot_slot]
    exact ⟨rfl, rfl, rfl⟩

theorem transient_slot (c : CoreId) (s : State) : let t := transient c s
    t.mem = s.mem ∧ (t.slot c).lastBad = (s.slot c).coreSteps ∧ (t.slot c).incarn = (s.slot c).incarn := by
  unfold transient
  extract_lets x l s1 t
  have slot : s1.slot c = { x with transients := l, lastBad := x.coreSteps } := State.setSlot_slot ..
  simp only [t]
  split
  · obtain ⟨mem, bad, inc⟩ := suspect_slot c 1 s1
    exact ⟨mem, by rw [bad, slot], by rw [inc, slot]⟩
  · rw [slot]
    exact ⟨rfl, rfl, rfl⟩

theorem patrolled_spec (c : CoreId) (value : Nat) (s : State) : let t := raiseCore 0x11 0 value c (patrolled c s)
    t.mem = s.mem ∧ (∀ d, t.slot d = s.slot d)
      ∧ (t.stand (coreStand c)).retired = (s.stand (coreStand c)).retired := by
  intro t
  have shown : ground t = ground (patrolled c s) := raiseCore_ground ..
  refine ⟨(ground_mem shown).trans rfl, fun d => (ground_slot shown d).trans rfl, ?_⟩
  rw [ground_stand shown, patrolled, State.setStand_stand]

/-! ## The rows of a moved bench -/

theorem mem_keys_of_get {α : Type} {d : α} {k : Nat} {m : Sparse α} (h : m.get d k ≠ d) : ∃ v, (k, v) ∈ m := by
  rw [Sparse.get] at h
  cases hl : m.lookup k with
  | none => exact absurd (by rw [hl]; rfl) h
  | some v =>
    obtain ⟨l₁, l₂, rfl, -⟩ := List.lookup_eq_some_iff.1 hl
    exact ⟨v, by simp⟩

/-- A read of a row without a stored error changes nothing. -/
theorem readBench_clean {c : CoreId} {r : Nat} {s : State} (src : Nat)
    (h : s.rowErrors.get RowError.none (benchAddr c r) = RowError.none) : (readBench c r src s).2 = s := by
  simp only [readBench, h]
  rfl

theorem moveRowError_clears {c : CoreId} {a b : Nat} {s : State}
    (h : b = a ∨ s.rowErrors.get RowError.none b = RowError.none) :
    (moveRowError c a s).rowErrors.get RowError.none b = RowError.none := by
  unfold moveRowError
  generalize (a - benchAddr c 0) / 512 = r
  by_cases hab : b = a
  · subst hab
    exact Sparse.get_set_same ..
  · have clean := h.resolve_left hab
    refine (Sparse.get_set_other _ _ _ _ _ hab).trans ?_
    by_cases hr : b = benchAddr c r
    · subst hr
      rw [readBench_clean 2 clean, clean]
    · rw [(readBench_read c r 2 s).errors b hr, clean]

theorem moveRowErrors_clear (c : CoreId) (b : Nat) : ∀ (rows : List Nat) (s : State),
    (b ∈ rows ∨ s.rowErrors.get RowError.none b = RowError.none) →
    (rows.foldl (fun t a => moveRowError c a t) s).rowErrors.get RowError.none b = RowError.none
  | [], s, h => h.resolve_left List.not_mem_nil
  | a :: rows, s, h => by
    refine moveRowErrors_clear c b rows _ ?_
    rcases h with h | h
    · rcases List.mem_cons.1 h with rfl | h
      · exact .inr (moveRowError_clears (.inl rfl))
      · exact .inl h
    · exact .inr (moveRowError_clears (.inr h))

theorem moveRowErrors_frame (c : CoreId) (rows : List Nat) (s : State) :
    let t := rows.foldl (fun t a => moveRowError c a t) s
    t.mem = s.mem ∧ t.slots = s.slots :=
  foldl_related (R := fun s t : State => t.mem = s.mem ∧ t.slots = s.slots) (fun _ => ⟨rfl, rfl⟩)
    (fun h g => ⟨g.1.trans h.1, g.2.trans h.2⟩) (fun t a => moveRowError c a t)
    (fun t a => by
      have read := (readBench_read c ((a - benchAddr c 0) / 512) 2 t).rest
      unfold moveRowError
      rw [read]
      exact ⟨rfl, rfl⟩) rows s

@[simp] theorem restartChains_ground (c s) : ground (restartChains c s) = ground s := by
  simp only [restartChains]
  repeat' split
  all_goals simp

theorem restartChains_cores (c s) : (restartChains c s).cores = s.cores := by
  simp only [restartChains]
  repeat' split
  all_goals rfl

/-- The end of a bench move. -/
theorem exec_benchMoveComplete_ends {c : CoreId} {s : State} (moving : (s.slot c).moving = true) :
    ∃ t, exec (.benchMoveComplete c) s = .next t ∧ t.slot c = { s.slot c with moving := false } ∧ t.mem = s.mem
      ∧ (t.core c).spareLines = []
      ∧ ∀ a, benchAddr c 0 ≤ a → a < benchAddr c 0 + 2 ^ 24 → t.rowErrors.get RowError.none a = RowError.none := by
  generalize hrows : (s.rowErrors.filter (fun e => benchAddr c 0 ≤ e.1 && e.1 < benchAddr c 0 + 2 ^ 24)).map (·.1) = rows
  obtain ⟨mem, slots⟩ := moveRowErrors_frame c rows s
  generalize hu : rows.foldl (fun t a => moveRowError c a t) s = u at mem slots
  generalize hv : (({ u.setCore c { u.core c with spareLines := [], scrubCE := [], scrub := 0 } with
    leaseHits := u.leaseHits.map (fun h => if h.core = c then { h with read := false } else h) } : State)) = v
  have slot : v.slot c = s.slot c := by
    rw [← hv, State.slot, State.slot]
    exact congrArg (fun m => m.get Slot.reset c.toNat) slots
  have run : exec (.benchMoveComplete c) s = .next (restartChains c (v.setSlot c { v.slot c with moving := false })) := by
    rw [exec_benchMoveComplete, execBenchMoveComplete, if_pos moving, ← hv, ← hu, ← hrows]
  have kept : ground (restartChains c (v.setSlot c { v.slot c with moving := false })) = _ := restartChains_ground ..
  refine ⟨_, run, ?_, ?_, ?_, fun a lo hi => ?_⟩
  · rw [ground_slot kept, State.setSlot_slot, slot]
  · rw [ground_mem kept, State.setSlot_mem, ← hv]
    exact mem
  · rw [core_of_cores (restartChains_cores ..), State.setSlot_core, ← hv]
    exact congrArg Core.spareLines (State.setCore_core ..)
  · rw [ground_rowErrors kept, State.setSlot_rowErrors, ← hv, State.setCore_rowErrors, ← hu]
    refine moveRowErrors_clear c a rows s ?_
    by_cases stored : s.rowErrors.get RowError.none a = RowError.none
    · exact .inr stored
    · obtain ⟨e, he⟩ := mem_keys_of_get stored
      rw [← hrows]
      refine .inl (List.mem_map.2 ⟨(a, e), List.mem_filter.2 ⟨he, ?_⟩, rfl⟩)
      rw [Bool.and_eq_true, decide_eq_true_iff, decide_eq_true_iff]
      exact ⟨lo, hi⟩

/-! ## The scent table after a warm reset -/

/-- Entries of a scent table that name scented groups of a list, with their tags and salts. -/
def NamesScented (s : State) (gs : List GroupId) (t : State) : Prop :=
  t.dur.groups = s.dur.groups ∧ t.mem = s.mem ∧ t.scentRebuild = false
    ∧ ∀ n x, t.dur.scent.get none n = some x →
      x.group ∈ gs ∧ x.tag = scentTag (s.group x.group).scent ∧ x.salt = (s.group x.group).salt

theorem reinsert_namesScented {s t : State} {gs : List GroupId} (g : GroupId) (h : NamesScented s gs t) :
    NamesScented s (g :: gs) (reinsert g t) := by
  obtain ⟨groups, mem, done, entries⟩ := h
  have group : t.group g = s.group g := by rw [State.group, State.group, groups]
  unfold reinsert
  extract_lets x
  split
  · exact ⟨groups, mem, done, fun n x hx => by
      obtain ⟨named, rest⟩ := entries n x hx
      exact ⟨List.mem_cons_of_mem _ named, rest⟩⟩
  next w _ =>
    refine ⟨groups, mem, done, fun n y hy => ?_⟩
    rw [setWay, Sparse.get_set] at hy
    split at hy
    · cases hy
      exact ⟨List.mem_cons_self, congrArg (scentTag ·.scent) group, congrArg Group.salt group⟩
    · obtain ⟨named, rest⟩ := entries n y hy
      exact ⟨List.mem_cons_of_mem _ named, rest⟩

theorem reinsertAll_namesScented (s : State) : ∀ (l gs : List GroupId) (t : State), NamesScented s gs t →
    NamesScented s (l.reverse ++ gs) (l.foldl (fun t g => reinsert g t) t)
  | [], _, _, h => h
  | g :: l, gs, t, h => by
    rw [List.reverse_cons, List.append_assoc]
    exact reinsertAll_namesScented s l (g :: gs) _ (reinsert_namesScented g h)

theorem exec_scentRebuild_rebuilds {s : State} (owed : s.scentRebuild = true) :
    ∃ t, exec .scentRebuild s = .next t ∧ t.scentRebuild = false ∧ t.dur.groups = s.dur.groups ∧ t.mem = s.mem
      ∧ ∀ n x, t.dur.scent.get none n = some x → ∃ e ∈ s.dur.groups, e.2.scented = true ∧ x.group = BitVec.ofNat 22 e.1
        ∧ x.tag = scentTag (s.group x.group).scent ∧ x.salt = (s.group x.group).salt := by
  have start : NamesScented s [] { s with scentRebuild := false, dur := { s.dur with scent := [] } } :=
    ⟨rfl, rfl, rfl, fun n x hx => by cases hx⟩
  have all := reinsertAll_namesScented s ((s.dur.groups.filter (fun e => e.2.scented)).map (fun e => BitVec.ofNat 22 e.1))
    [] _ start
  obtain ⟨groups, mem, done, entries⟩ := all
  refine ⟨_, ?_, done, groups, mem, fun n x hx => ?_⟩
  · rw [exec_scentRebuild, execScentRebuild, if_pos owed]
  · obtain ⟨named, tag, salt⟩ := entries n x hx
    rw [List.append_nil, List.mem_reverse, List.mem_map] at named
    obtain ⟨e, he, hg⟩ := named
    obtain ⟨listed, scented⟩ := List.mem_filter.1 he
    exact ⟨e, listed, scented, hg.symm, tag, salt⟩

/-- Settles O44: the three outcomes of a patrol, the end of a bench move, and the rebuilt scent table. -/
theorem patrolsAndRebuilds : Obligations.PatrolsAndRebuilds := by
  refine ⟨?_, fun c s => ⟨exec_benchMoveComplete_ends, fun still => ?_⟩, fun s => exec_scentRebuild_rebuilds⟩
  intro c second s may g
  refine ⟨?_, ?_, ?_⟩
  · rw [execPatrol_eq may, if_pos rfl]
    rfl
  · obtain ⟨mem, slot, -⟩ := patrolled_spec c (b2n !true) s
    obtain ⟨mem', bad, inc⟩ := transient_slot c (raiseCore 0x11 0 (b2n !true) c (patrolled c s))
    have run := execPatrol_eq may false true
    rw [if_neg Bool.false_ne_true, if_pos rfl] at run
    generalize raiseCore 0x11 0 (b2n !true) c (patrolled c s) = u at *
    exact ⟨_, run, bad.trans (by rw [slot]), inc.trans (by rw [slot]), mem'.trans mem⟩
  · obtain ⟨mem, slot, retired⟩ := patrolled_spec c (b2n !false) s
    obtain ⟨mem', inc, retired', -⟩ := retireCore_spec c (raiseCore 0x11 0 (b2n !false) c (patrolled c s))
    have run := execPatrol_eq may false false
    rw [if_neg Bool.false_ne_true, if_neg Bool.false_ne_true] at run
    generalize raiseCore 0x11 0 (b2n !false) c (patrolled c s) = u at *
    refine ⟨_, run, inc.trans (by rw [slot]), retired'.trans ?_, mem'.trans mem⟩
    rw [retired, physOf, physOf, slot]
  · rw [exec_benchMoveComplete, execBenchMoveComplete]
    simp [still]

end Sys2Proof.Machine
end

section
/-! PROOFS. Supplies, rails and the ranger's watchdog (R384–R390, R399, R427). -/

namespace Sys2Proof.Machine

/-! ## A blank memory -/

theorem blank_of_mem {t : State} (h : t.mem = []) : Blank t := by
  intro a
  rw [h]
  rfl

/-! ## Rails that are not off -/

theorem startRail_keeps {r : Rail} {i j : Nat} {s : State} (h : (s.railUnit j).state ≠ .off) :
    (startRail r i s).railUnit j = s.railUnit j := by
  simp only [startRail]
  split
  next due =>
    refine State.setRail_railUnit_other _ _ _ _ fun e => h ?_
    simp only [Bool.and_eq_true, decide_eq_true_eq] at due
    rw [e]
    exact due.1.1
  next => rfl

/-- Rails that start were off; every other rail stays as it is. -/
theorem startRails_keeps {j : Nat} {s : State} (h : (s.railUnit j).state ≠ .off) :
    (startRails s).railUnit j = s.railUnit j :=
  startRails_related (R := fun s t => (s.railUnit j).state ≠ .off → t.railUnit j = s.railUnit j) (fun _ _ => rfl)
    (fun hst htu off => (htu (by rw [hst off]; exact off)).trans (hst off)) (fun _ _ _ => startRail_keeps) s h

theorem startRails_field {β : Type} (field : State → β) (h : ∀ (t : State) rails, field { t with rails := rails } = field t)
    (s : State) : field (startRails s) = field s := by
  rw [startRails_rest]
  exact h ..

/-- What is on or ramping neither stays shut off nor latched: rails that are fed by a lost one leave such rails alone. -/
theorem dropFed_keeps {r : Rail} {i j : Nat} {s : State} (on : (s.railUnit j).state ≠ .on)
    (ramping : (s.railUnit j).state ≠ .ramping) : (dropFed r i s).railUnit j = s.railUnit j := by
  unfold dropFed
  split
  · rfl
  · refine foldl_related (R := fun s t : State => (s.railUnit j).state ≠ .on → (s.railUnit j).state ≠ .ramping →
      t.railUnit j = s.railUnit j) (fun _ _ _ => rfl) (fun hst htu on ramping => ?_) _ (fun t i' on ramping => ?_) _ s on ramping
    · have same := hst on ramping
      exact (htu (by rw [same]; exact on) (by rw [same]; exact ramping)).trans same
    · dsimp only
      split
      next live =>
        refine State.setRail_railUnit_other _ _ _ _ fun e => ?_
        simp only [Bool.or_eq_true, decide_eq_true_eq, State.rail, ← e] at live
        exact live.elim on ramping
      next => rfl

theorem dropFed_rest (r : Rail) (i : Nat) (s : State) : dropFed r i s = { s with rails := (dropFed r i s).rails } := by
  unfold dropFed
  split
  · rfl
  · exact foldl_related (R := fun s t : State => t = { s with rails := t.rails }) (fun _ => rfl) (fun h g => by rw [g, h]) _
      (fun t j => by dsimp only; split <;> rfl) _ s

theorem railUnit_of_still {s t : State} (h : still t = still s) (j : Nat) : t.railUnit j = s.railUnit j := by
  rw [State.railUnit, State.railUnit, (still_iff.1 h).2.1]

/-- The loss of the whole device leaves the lost rail as it was. -/
theorem loseDevice_railUnit {r : Rail} {i : Nat} (hi : i < 256) {s : State}
    (live : (s.railUnit (railKey r i)).state ≠ .off) :
    (loseDevice r s).railUnit (railKey r i) = s.railUnit (railKey r i) := by
  have code : railKey r i / 256 = railCode r := by unfold railKey; omega
  have listed : r ∈ railKinds := by cases r <;> decide
  have rails : (loseDevice r s).rails = s.rails.filter (fun e =>
      railKinds.any (fun x => railCode x = e.1 / 256 && railOrder x ≤ railOrder r) || e.2.state = .latched) := rfl
  simp only [State.railUnit, Sparse.get, rails] at live ⊢
  cases hl : s.rails.lookup (railKey r i) with
  | none => exact absurd (by rw [hl]; rfl) live
  | some u =>
    rw [lookup_filter_of_lookup (k := railKey r i) (v := u) ?_ hl]
    rw [Bool.or_eq_true]
    exact .inl (List.any_eq_true.2 ⟨r, listed, by simp [code]⟩)

theorem loseDevice_fields (r : Rail) (s : State) :
    (loseDevice r s).mem = [] ∧ (loseDevice r s).power.rb = .busy ∧ (loseDevice r s).power.main = s.power.main := by
  refine ⟨coldState_mem s, ?_, ?_⟩
  · simp [loseDevice, coldState_power, Power.reset]
  · simp [loseDevice, coldState_power]

theorem logPower_railUnit (w : BitVec 128) (s : State) (j : Nat) : (logPower w s).railUnit j = s.railUnit j := rfl

/-- A rail that leaves regulation. -/
theorem exec_railOutOfRegulation_shuts {r : Rail} {n : BitVec 8} {x : RailReading} {s : State}
    (on : (s.rail r n.toNat).state = .on) :
    ∃ t, exec (.railOutOfRegulation r n x) s = .next t ∧ (t.rail r n.toNat).state = .shutOff
      ∧ (railWhole r = true → Blank t ∧ t.power.rb = .busy ∧ t.power.main = s.power.main)
      ∧ (r = .core → (t.stand (BitVec.ofNat 7 n.toNat)).inService = false) := by
  generalize hs1 : s.setRail (railKey r n.toNat) { s.rail r n.toNat with state := .shutOff, retries := 0 } = s1
  have unit : s1.railUnit (railKey r n.toNat) = { s.rail r n.toNat with state := .shutOff, retries := 0 } :=
    hs1 ▸ State.setRail_railUnit ..
  have run : exec (.railOutOfRegulation r n x) s = .next (logPower (powerRecord s r n.toNat 0 false x)
      (if railWhole r then loseDevice r s1 else dropFed r n.toNat (loseConsumers r n.toNat s1))) := by
    rw [exec_railOutOfRegulation, execRailOutOfRegulation]
    simp only [on, ne_eq, not_true_eq_false, if_false, ← hs1]
  refine ⟨_, run, ?_, fun whole => ?_, fun core => ?_⟩
  · rw [State.rail, logPower_railUnit]
    split
    · rw [loseDevice_railUnit n.isLt (by rw [unit]; simp), unit]
    · have same := railUnit_of_still (loseConsumers_still r n.toNat s1) (railKey r n.toNat)
      rw [dropFed_keeps (by rw [same, unit]; simp) (by rw [same, unit]; simp), same, unit]
  · rw [if_pos whole]
    obtain ⟨mem, rb, main⟩ := loseDevice_fields r s1
    exact ⟨blank_of_mem mem, rb, main.trans (by rw [← hs1]; rfl)⟩
  · subst core
    rw [if_neg (by decide)]
    have out : (standOut (BitVec.ofNat 7 n.toNat) s1).stand _ = _ := (standOut_frame (BitVec.ofNat 7 n.toNat) s1).2.2
    have stand : (logPower (powerRecord s .core n.toNat 0 false x) (dropFed .core n.toNat
        (loseConsumers .core n.toNat s1))).stand (BitVec.ofNat 7 n.toNat)
        = (standOut (BitVec.ofNat 7 n.toNat) s1).stand (BitVec.ofNat 7 n.toNat) := rfl
    rw [stand, out]

/-! ## Rails that do not come up, or do -/

theorem mayRelease_tripped {s : State} (h : s.power.device = .tripped) : mayRelease s = false := by simp [mayRelease, h]

theorem settleRb_busy {s : State} (h : mayRelease s = false) : (settleRb s).power.rb = .busy := by
  rw [settleRb, if_neg (by simp [h])]
  split
  next busy => exact busy
  next => rfl

theorem settleRb_device (s : State) : (settleRb s).power.device = s.power.device := by
  unfold settleRb
  split_ifs <;> rfl

theorem setDevice_device (d : DeviceState) (s : State) : (setDevice d s).power.device = d := by
  unfold setDevice
  split
  next h => exact h
  next => rfl

theorem latchRail_spec (r : Rail) (n : Nat) (x : RailReading) (s : State) : let t := latchRail r n x s
    (t.rail r n).state = .latched ∧ t.power.pwrFlt = true
      ∧ (railWhole r = true → t.power.device = .tripped ∧ t.power.rb = .busy) := by
  intro t
  generalize hs3 : logPower (powerRecord s r n 3 true x) { s.setRail (railKey r n) { s.rail r n with state := .latched } with
    power := { s.power with pwrFlt := true } } = s3
  have unit : s3.railUnit (railKey r n) = { s.rail r n with state := .latched } := hs3 ▸ State.setRail_railUnit ..
  have flt : s3.power.pwrFlt = true := by rw [← hs3]; rfl
  by_cases whole : railWhole r = true
  · generalize hs4 : ({ s3 with power := { s3.power with before := s3.power.device, linkUp := false } } : State) = s4
    have body : t = settleRb (setDevice .tripped s4) := by
      simp only [t, latchRail, whole, if_true, ← hs4, ← hs3]
      rfl
    have stays : still t = still s4 := by rw [body]; simp
    have tripped := setDevice_device .tripped s4
    refine ⟨?_, ?_, fun _ => ⟨by rw [body, settleRb_device, tripped], by rw [body, settleRb_busy (mayRelease_tripped tripped)]⟩⟩
    · rw [State.rail, railUnit_of_still stays, ← hs4]
      exact congrArg RailUnit.state unit
    · rw [(still_iff.1 stays).2.2.1, ← hs4]
      exact flt
  · generalize hs4 : dropFed r n (loseConsumers r n s3) = s4
    have fed : s4.railUnit (railKey r n) = s3.railUnit (railKey r n) := by
      have same := railUnit_of_still (loseConsumers_still r n s3) (railKey r n)
      rw [← hs4, dropFed_keeps (by rw [same, unit]; simp) (by rw [same, unit]; simp), same]
    generalize hs5 : (if r = .core then s4.setStand (BitVec.ofNat 7 n) { s4.stand (BitVec.ofNat 7 n) with latch := true }
      else s4) = s5
    have body : t = startRails s5 := by
      simp only [t, latchRail, whole, ← hs5, ← hs4, ← hs3]
      rfl
    have same : still s5 = still s4 := by rw [← hs5]; simp
    have latched : (s5.railUnit (railKey r n)).state = .latched := by rw [railUnit_of_still same, fed, unit]
    refine ⟨?_, ?_, fun w => absurd w whole⟩
    · rw [body, State.rail, startRails_keeps (by rw [latched]; simp), latched]
    · rw [body, startRails_power, (still_iff.1 same).2.2.1, ← hs4, dropFed_rest]
      exact ((still_iff.1 (loseConsumers_still r n s3)).2.2.1).trans flt

theorem returnConsumers_railUnit (r : Rail) (i : Nat) (s : State) (j : Nat) :
    (returnConsumers r i s).railUnit j = s.railUnit j :=
  railUnit_of_still (returnConsumers_still r i s) j

theorem exec_railInRegulation_on {r : Rail} {n : BitVec 8} {s : State} (ramping : (s.rail r n.toNat).state = .ramping) :
    ∃ t, exec (.railInRegulation r n) s = .next t ∧ (t.rail r n.toNat).state = .on ∧ (t.rail r n.toNat).retries = 0 := by
  generalize hs1 : s.setRail (railKey r n.toNat) { s.rail r n.toNat with state := .on, retries := 0, inService := true } = s1
  have unit : s1.railUnit (railKey r n.toNat) = { s.rail r n.toNat with state := .on, retries := 0, inService := true } :=
    hs1 ▸ State.setRail_railUnit ..
  generalize hs2 : (if (s.rail r n.toNat).inService then returnConsumers r n.toNat s1 else s1) = s2
  have same : s2.railUnit (railKey r n.toNat) = s1.railUnit (railKey r n.toNat) := by
    rw [← hs2]
    split
    · exact returnConsumers_railUnit ..
    · rfl
  have run : exec (.railInRegulation r n) s = .next (startRails s2) := by
    rw [exec_railInRegulation, execRailInRegulation]
    simp only [ramping, ne_eq, not_true_eq_false, if_false, ← hs2, ← hs1]
  have rail : (startRails s2).rail r n.toNat = _ :=
    (startRails_keeps (by rw [same, unit]; simp)).trans (same.trans unit)
  exact ⟨_, run, by rw [rail], by rw [rail]⟩

/-- A rail whose ramp times out before its third retry is shut off. -/
theorem exec_railRampTimeout_shuts {r : Rail} {n : BitVec 8} {x : RailReading} {s : State}
    (ramping : (s.rail r n.toNat).state = .ramping) (more : (s.rail r n.toNat).retries ≠ 3) :
    ∃ t, exec (.railRampTimeout r n x) s = .next t ∧ t.rail r n.toNat = { s.rail r n.toNat with state := .shutOff }
      ∧ t = { s with rails := t.rails } := by
  generalize hs1 : s.setRail (railKey r n.toNat) { s.rail r n.toNat with state := .shutOff } = s1
  have unit : s1.railUnit (railKey r n.toNat) = { s.rail r n.toNat with state := .shutOff } := hs1 ▸ State.setRail_railUnit ..
  have run : exec (.railRampTimeout r n x) s = .next (startRails s1) := by
    rw [exec_railRampTimeout, execRailRampTimeout]
    simp only [ramping, more, ne_eq, not_true_eq_false, if_false, ← hs1]
  refine ⟨_, run, (startRails_keeps (by rw [unit]; simp)).trans unit, ?_⟩
  rw [startRails_rest, ← hs1]
  rfl

/-! ## What links, self-tests and fresh units leave alone -/

/-- The records of the ranger, of power, set-up and recovery. -/
def desk : State → List SelfTest × Ranger × Power × (Durable × Durable × Bool) × Setup × BitVec 64
  | { tests, ranger, power, dur, journal, journalOk, setup, timebase, .. } =>
    (tests, ranger, power, (dur, journal, journalOk), setup, timebase)

@[simp] theorem desk_mk : type_of% @desk.eq_1 := @desk.eq_1

@[simp] theorem desk_fields (s : State) :
    (s.tests, s.ranger, s.power, (s.dur, s.journal, s.journalOk), s.setup, s.timebase) = desk s := rfl

section
variable {s t : State} (h : desk t = desk s)
include h

theorem desk_tests : t.tests = s.tests := congrArg (·.1) h
theorem desk_ranger : t.ranger = s.ranger := congrArg (·.2.1) h
theorem desk_power : t.power = s.power := congrArg (·.2.2.1) h
theorem desk_dur : t.dur = s.dur := congrArg (·.2.2.2.1.1) h
theorem desk_setup : t.setup = s.setup := congrArg (·.2.2.2.2.1) h
theorem desk_timebase : t.timebase = s.timebase := congrArg (·.2.2.2.2.2) h

end

@[simp] theorem desk_ite (c : Prop) [Decidable c] (a b : State) :
    desk (if c then a else b) = if c then desk a else desk b := apply_ite desk c a b

@[simp] theorem foldl_desk {α : Type} {f : State → α → State} (h : ∀ t x, desk (f t x) = desk t) (l : List α)
    (s : State) : desk (l.foldl f s) = desk s := by
  induction l generalizing s with
  | nil => rfl
  | cons x l ih => rw [List.foldl_cons, ih, h]

@[simp] theorem State.setCore_desk (s c x) : desk (State.setCore s c x) = desk s := by simp [State.setCore]
@[simp] theorem State.setSlot_desk (s c x) : desk (State.setSlot s c x) = desk s := by simp [State.setSlot]
@[simp] theorem State.setStand_desk (s g x) : desk (State.setStand s g x) = desk s := by simp [State.setStand]
@[simp] theorem State.setStack_desk (s i x) : desk (State.setStack s i x) = desk s := by simp [State.setStack]
@[simp] theorem State.setChannel_desk (s i x) : desk (State.setChannel s i x) = desk s := by simp [State.setChannel]
@[simp] theorem State.setLink_desk (s l x) : desk (State.setLink s l x) = desk s := by simp [State.setLink]
@[simp] theorem State.setRing_desk (s r x) : desk (State.setRing s r x) = desk s := by simp [State.setRing]
@[simp] theorem State.setEth_desk (s p x) : desk (State.setEth s p x) = desk s := by simp [State.setEth]
@[simp] theorem raise_desk (f kind record value stepno ring k c s) :
    desk (raise f kind record value stepno ring k c s) = desk s := by simp [raise]

@[simp] theorem raise0_desk (kind value s) : desk (raise0 kind value s) = desk s := by simp [raise0]
@[simp] theorem setEntry_desk (r p st s) : desk (setEntry r p st s) = desk s := by simp [setEntry]
@[simp] theorem finishAt_desk (r p status dkind detail stepno s) :
    desk (finishAt r p status dkind detail stepno s) = desk s := by simp [finishAt]

@[simp] theorem setBlock_desk (b s) : desk (setBlock b s) = desk s := by simp [setBlock]
@[simp] theorem linkEvents_desk (l x y n s) : desk (linkEvents l x y n s) = desk s := by
  simp only [linkEvents]
  repeat' split
  all_goals simp

@[simp] theorem dueAnnounce_desk (s) : desk (dueAnnounce s) = desk s := by simp [dueAnnounce]
@[simp] theorem enterLink_desk (l st cause n s) : desk (enterLink l st cause n s) = desk s := by simp [enterLink]
@[simp] theorem clearRange_desk (lo n s) : desk (clearRange lo n s) = desk s := by simp [clearRange]
@[simp] theorem clearBench_desk (c s) : desk (clearBench c s) = desk s := by simp [clearBench]
@[simp] theorem freshCore_desk (c s) : desk (freshCore c s) = desk s := by simp [freshCore]
@[simp] theorem freshStand_desk (g s) : desk (freshStand g s) = desk s := by simp [freshStand]
@[simp] theorem yardByHalf_desk (s) : desk (yardByHalf s) = desk s := by simp [yardByHalf]
@[simp] theorem reinit_desk (n i verdict s) : desk (reinit n i verdict s) = desk s := by
  simp only [reinit]
  split <;> simp

/-! ## Tests that end -/

/-- The end of a test takes it, and whatever else tests the same block, off the list. -/
theorem endTest_desk (x : SelfTest) (verdict : Nat) (f : TestFinding) (s : State) : desk (endTest x verdict f s)
    = desk { s with tests := s.tests.filter (fun y => !(y.target = x.target && y.index = x.index)) } := by
  simp [endTest]

theorem endTest_tests (x : SelfTest) (verdict : Nat) (f : TestFinding) (s : State) :
    (endTest x verdict f s).tests = s.tests.filter (fun y => !(y.target = x.target && y.index = x.index)) :=
  desk_tests (endTest_desk x verdict f s)

/-- Ending the tests of a list leaves none of those on it. -/
theorem endTests_tests (verdict : Nat) (f : TestFinding) : ∀ (l : List SelfTest) (s : State), (∀ y ∈ s.tests, y ∈ l) →
    (l.foldl (fun t x => endTest x verdict f t) s).tests = []
  | [], s, h => List.eq_nil_iff_forall_not_mem.2 fun y hy => absurd (h y hy) List.not_mem_nil
  | x :: l, s, h => by
    refine endTests_tests verdict f l _ fun y hy => ?_
    rw [endTest_tests, List.mem_filter] at hy
    refine (List.mem_cons.1 (h y hy.1)).resolve_left fun e => ?_
    subst e
    simp at hy

theorem endTests_ranger (verdict : Nat) (f : TestFinding) (l : List SelfTest) (s : State) :
    (l.foldl (fun t x => endTest x verdict f t) s).ranger = s.ranger :=
  foldl_related (R := fun s t : State => t.ranger = s.ranger) (fun _ => rfl) (fun h g => g.trans h) _
    (fun t x => by rw [desk_ranger (endTest_desk x verdict f t)]) l s

theorem execRangerWatchdog_stops {s : State} (running : s.ranger.running = true) :
    ∃ t, execRangerWatchdog s = .next t ∧ t.ranger.running = false ∧ t.tests = [] := by
  generalize hu : (allLinks.filter (fun l => (({ s with ranger := { s.ranger with running := false } } : State).link l).state
    = .auth)).foldl (fun t l => enterLink l .probe LinkCause.auth 0 t)
    { s with ranger := { s.ranger with running := false } } = u
  have kept : desk u = desk { s with ranger := { s.ranger with running := false } } := by
    rw [← hu]
    exact foldl_desk (fun t l => enterLink_desk ..) _ _
  refine ⟨abortTests u, ?_, ?_, endTests_tests 3 _ _ u fun _ => id⟩
  · rw [execRangerWatchdog, if_neg (by simp [running]), ← hu]
  · rw [abortTests, endTests_ranger, desk_ranger kept]

/-! ## Supplies -/

theorem coldState_device (s : State) : (coldState s).power.device = .bringUp := by rw [coldState_power]; rfl

/-- What a cold reset leaves: blank memory, no cores or records, set-up open, and the part in bring-up (R394). -/
theorem coldState_spec (s : State) : Blank (coldState s) ∧ (coldState s).cores = [] ∧ (coldState s).dur = Durable.reset
    ∧ (coldState s).setup = Setup.reset ∧ (coldState s).power.device = .bringUp ∧ (coldState s).power.rb = .busy :=
  ⟨blank_of_mem (coldState_mem s), coldState_cores s, coldState_dur s, coldState_setup s, coldState_device s,
    by rw [coldState_power]; rfl⟩

/-- A cold reset counts itself. -/
theorem coldStart_spec (s : State) : let t := coldStart s
    Blank t ∧ t.cores = [] ∧ t.dur = Durable.reset ∧ t.setup = Setup.reset ∧ t.power.device = .bringUp
      ∧ t.power.rb = .busy ∧ t.power.colds = s.power.colds + 1 ∧ t.power.main = s.power.main
      ∧ t.power.coldRst = s.power.coldRst ∧ t.ranger.running = s.ranger.running := by
  intro t
  obtain ⟨blank, cores, dur, setup, device, rb⟩ := coldState_spec s
  have power : t.power = { (coldState s).power with colds := s.power.colds + 1 } := startRails_power _
  refine ⟨?_, ?_, ?_, ?_, by rw [power]; exact device, by rw [power]; exact rb, by rw [power], ?_, ?_, ?_⟩
  · exact blank_of_mem (coldStart_mem s)
  · exact (startRails_field State.cores (fun _ _ => rfl) _).trans cores
  · exact (startRails_field State.dur (fun _ _ => rfl) _).trans dur
  · exact (startRails_field State.setup (fun _ _ => rfl) _).trans setup
  · rw [power, coldState_power]
  · rw [power, coldState_power]
  · exact (startRails_field (fun s => s.ranger.running) (fun _ _ => rfl) _).trans (by rw [coldState_ranger])

theorem exec_mainPowerOn_resets {mv : BitVec 17} {s : State} (low : 40000 ≤ mv.toNat) (high : mv.toNat ≤ 60000)
    (off : s.power.main = false) :
    ∃ t, exec (.mainPowerOn mv) s = .next t ∧ t.power.main = true ∧ t.power.colds = s.power.colds + 1
      ∧ t.power.vin = mv.setWidth 32 ∧ t.power.device = .bringUp ∧ t.power.rb = .busy ∧ t.setup = Setup.reset
      ∧ Blank t ∧ t.cores = [] ∧ t.dur = Durable.reset := by
  obtain ⟨blank, cores, dur, setup, device, rb, colds, main, -, -⟩ :=
    coldStart_spec { s with power := { s.power with main := true } }
  generalize hu : coldStart { s with power := { s.power with main := true } } = u at *
  refine ⟨{ u with power := { u.power with vin := mv.setWidth 32 } }, ?_, main, colds, rfl, device, rb, setup, blank, cores,
    dur⟩
  have notLow : ¬ mv.toNat < 39000 := by omega
  have inRange : (decide (mv.toNat < 40000) || decide (60000 < mv.toNat)) = false := by
    simp only [Bool.or_eq_false_iff, decide_eq_false_iff_not]
    omega
  rw [exec_mainPowerOn, execMainPowerOn, if_neg notLow, if_neg (by rw [inRange]; decide), if_neg (by simp [off]), hu]

theorem exec_auxPowerLoss_stops {s : State} (aux : s.power.aux = true) :
    ∃ t, exec .auxPowerLoss s = .next t ∧ t.power.aux = false ∧ t.ranger.running = false ∧ t.tap = .idcode
      ∧ t.setup = Setup.reset ∧ Blank t ∧ t.cores = [] ∧ t.dur = Durable.reset := by
  obtain ⟨blank, cores, dur, setup, -, -⟩ := coldState_spec s
  rw [exec_auxPowerLoss, execAuxPowerLoss, if_neg (by simp [aux])]
  generalize coldState s = u at *
  exact ⟨_, rfl, rfl, rfl, rfl, setup, blank, cores, dur⟩

theorem exec_mainPowerLoss_empties {s : State} (main : s.power.main = true) :
    ∃ t, exec .mainPowerLoss s = .next t ∧ t.power.main = false ∧ t.power.rb = .busy ∧ t.timebase = s.timebase
      ∧ t.power.pwrFlt = s.power.pwrFlt ∧ Blank t ∧ t.cores = [] ∧ t.dur = Durable.reset := by
  obtain ⟨blank, cores, dur, -, -, rb⟩ := coldState_spec s
  rw [exec_mainPowerLoss, execMainPowerLoss, if_neg (by simp [main])]
  generalize coldState s = u at *
  exact ⟨_, rfl, rfl, rb, rfl, rfl, blank, cores, dur⟩

theorem exec_auxReady_boots {s : State} (aux : s.power.aux = true) (fresh : s.ranger.auxReady = false) :
    ∃ t, exec .auxReady s = .next t ∧ t.ranger.running = true ∧ t.ranger.auxReady = true
      ∧ t.ranger.fwVer = Config.fwVer ∧ t = { s with ranger := t.ranger, rails := t.rails } := by
  rw [exec_auxReady, execAuxReady, if_pos (by simp [aux, fresh]), startRails_rest]
  exact ⟨_, rfl, rfl, rfl, rfl, rfl⟩

theorem exec_rangerRestart_counts {s : State} (stopped : s.ranger.running = false) (ready : s.ranger.auxReady = true)
    (aux : s.power.aux = true) :
    ∃ t, exec .rangerRestart s = .next t ∧ t.ranger.running = true
      ∧ t.ranger.restarts = BitVec.ofNat 8 (satAdd 8 s.ranger.restarts.toNat 1)
      ∧ t = { s with ranger := t.ranger, events := t.events, rails := t.rails } := by
  rw [exec_rangerRestart, execRangerRestart, if_neg (by simp [stopped, ready, aux])]
  dsimp only
  rw [startRails_rest]
  exact ⟨_, rfl, rfl, rfl, rfl⟩

/-- Settles O46: the supplies by their conditions, a rail by its state, and the ranger's watchdog. -/
theorem suppliesAndRails : Obligations.SuppliesAndRails := by
  refine ⟨fun s => ⟨fun off => ?_, exec_auxReady_boots, exec_auxPowerLoss_stops, fun mv => ⟨fun low => ?_, fun outside => ?_,
    exec_mainPowerOn_resets⟩, exec_mainPowerLoss_empties⟩, ⟨?_, fun s => ⟨execRangerWatchdog_stops,
    exec_rangerRestart_counts⟩⟩⟩
  · rw [exec_auxPowerOn, execAuxPowerOn, if_neg (by simp [off])]
    exact ⟨_, rfl, rfl, rfl, rfl⟩
  · rw [exec_mainPowerOn, execMainPowerOn, if_pos low]
  · have notLow : ¬ mv.toNat < 39000 := by omega
    have out : (decide (mv.toNat < 40000) || decide (60000 < mv.toNat)) = true := by
      rw [Bool.or_eq_true, decide_eq_true_iff, decide_eq_true_iff]
      omega
    rw [exec_mainPowerOn, execMainPowerOn, if_neg notLow, if_pos out]
  · intro r n x s u
    refine ⟨exec_railOutOfRegulation_shuts, fun ramping third => ?_, exec_railRampTimeout_shuts,
      fun shut running main more => ?_, exec_railInRegulation_on⟩
    · refine ⟨latchRail r n.toNat x s, ?_, latchRail_spec r n.toNat x s⟩
      rw [exec_railRampTimeout, execRailRampTimeout]
      have ramps : (s.rail r n.toNat).state = .ramping := ramping
      have last : (s.rail r n.toNat).retries = 3 := third
      simp only [ramps, last, ne_eq, not_true_eq_false, if_false, if_true]
    · have may : (decide ((s.rail r n.toNat).state = .shutOff) && s.ranger.running && s.power.main
          && decide ((s.rail r n.toNat).retries ≠ 3)) = true := by
        simp only [Bool.and_eq_true, decide_eq_true_eq]
        exact ⟨⟨⟨shut, running⟩, main⟩, more⟩
      rw [exec_railRetry, execRailRetry, if_pos may]
      exact ⟨_, rfl, State.setRail_railUnit .., rfl⟩

end Sys2Proof.Machine
end

section
/-! PROOFS. A link's change of state, and the stop of the part: links down, ballast off, tests ended (R341, R395, R407). -/

namespace Sys2Proof.Machine

/-! ## Every member of a list of all blocks -/

/-- What the step for `x` makes of every `x`, and no step undoes, holds of each `x` of the list at the end. -/
theorem foldl_reaches {σ α : Type} {P : α → σ → Prop} (f : σ → α → σ) (makes : ∀ s x, P x (f s x))
    (keeps : ∀ s x y, P y s → P y (f s x)) : ∀ (l : List α) (s : σ) (y : α), y ∈ l ∨ P y s → P y (l.foldl f s)
  | [], s, y, h => h.resolve_left List.not_mem_nil
  | x :: l, s, y, h => by
    refine foldl_reaches f makes keeps l (f s x) y ?_
    rcases h with h | h
    · rcases List.mem_cons.1 h with rfl | h
      · exact .inr (makes s y)
      · exact .inl h
    · exact .inr (keeps s x y h)

theorem mem_allStands (g : StandId) : g ∈ allStands :=
  List.mem_map.2 ⟨g.toNat, List.mem_range.2 g.isLt, by simp⟩

theorem mem_allLinks (l : LinkId) : l ∈ allLinks := List.mem_finRange l

/-! ## A link enters a state -/

theorem linkEvents_rest (l : LinkId) (x y : Link) (n : Nat) (s : State) :
    linkEvents l x y n s = { s with events := (linkEvents l x y n s).events } := by
  unfold linkEvents
  repeat' split
  all_goals rfl

theorem dueAnnounce_rest (s : State) : dueAnnounce s = { s with due := (dueAnnounce s).due } := by
  unfold dueAnnounce
  split <;> rfl

/-- Nothing but links, events and what awaits the commit differs. -/
def OnlyLinks (s t : State) : Prop := t = { s with links := t.links, events := t.events, due := t.due }

theorem OnlyLinks.refl (s : State) : OnlyLinks s s := rfl

theorem OnlyLinks.trans {s t u : State} (h : OnlyLinks s t) (g : OnlyLinks t u) : OnlyLinks s u := by
  unfold OnlyLinks at *
  rw [g, h]

section
variable (l : LinkId) (st : LinkState) (cause n : Nat) (s : State)

/-- The events of a link's change, with the change in force. -/
def linkChanged : State :=
  linkEvents l (s.link l) ((s.link l).enters st cause (now48 s)) n (s.setLink l ((s.link l).enters st cause (now48 s)))

theorem enterLink_eq : enterLink l st cause n s =
    if (s.link l).state.works ≠ st.works then dueAnnounce (linkChanged l st cause n s) else linkChanged l st cause n s := rfl

theorem linkChanged_links :
    (linkChanged l st cause n s).links = (s.setLink l ((s.link l).enters st cause (now48 s))).links := by
  rw [linkChanged, linkEvents_rest]

theorem enterLink_links :
    (enterLink l st cause n s).links = (s.setLink l ((s.link l).enters st cause (now48 s))).links := by
  rw [enterLink_eq, ← linkChanged_links]
  split
  · rw [dueAnnounce_rest]
  · rfl

theorem enterLink_onlyLinks : OnlyLinks s (enterLink l st cause n s) := by
  have changed : OnlyLinks s (linkChanged l st cause n s) := by
    rw [OnlyLinks, linkChanged, linkEvents_rest]
    rfl
  rw [enterLink_eq]
  split
  · refine changed.trans ?_
    rw [OnlyLinks, dueAnnounce_rest]
  · exact changed

theorem enterLink_link : (enterLink l st cause n s).link l = (s.link l).enters st cause (now48 s) := by
  rw [State.link, enterLink_links]
  exact State.setLink_link ..

theorem enterLink_link_other {m : LinkId} (h : m ≠ l) : (enterLink l st cause n s).link m = s.link m := by
  rw [State.link, enterLink_links]
  exact State.setLink_link_other _ _ _ _ h

end

/-! ## All links down -/

/-- One link taken down, as `linksDown` does. -/
def linkDown (t : State) (l : LinkId) : State :=
  if (t.link l).state = .down then t else enterLink l .down LinkCause.record 0 t

theorem linkDown_link (t : State) (l : LinkId) : ((linkDown t l).link l).state = .down := by
  unfold linkDown
  split
  next h => exact h
  next => rw [enterLink_link]; rfl

theorem linkDown_other (t : State) (l m : LinkId) (h : (t.link m).state = .down) : ((linkDown t l).link m).state = .down := by
  by_cases e : m = l
  · subst e; exact linkDown_link t m
  · unfold linkDown
    split
    · exact h
    · rw [enterLink_link_other _ _ _ _ _ e, h]

/-- Nothing but links, Ethernet ports, events and what awaits the commit differs. -/
def OnlyLinksAndEth (s t : State) : Prop :=
  t = { s with links := t.links, events := t.events, due := t.due, eth := t.eth }

theorem OnlyLinksAndEth.refl (s : State) : OnlyLinksAndEth s s := rfl

theorem OnlyLinksAndEth.trans {s t u : State} (h : OnlyLinksAndEth s t) (g : OnlyLinksAndEth t u) :
    OnlyLinksAndEth s u := by
  unfold OnlyLinksAndEth at *
  rw [g, h]

theorem OnlyLinks.withEth {s t : State} (h : OnlyLinks s t) : OnlyLinksAndEth s t := by
  unfold OnlyLinks OnlyLinksAndEth at *
  rw [h]

/-- One Ethernet port taken down, as `linksDown` does. -/
def portDown (t : State) (p : Bool) : State :=
  if (t.ethPort p).up then raise0 0x26 (b2n p) (t.setEth p { t.ethPort p with up := false }) else t

theorem linksDown_eq (eth : Bool) (s : State) : linksDown eth s =
    if !eth then allLinks.foldl linkDown s else [false, true].foldl portDown (allLinks.foldl linkDown s) := rfl

theorem linksDown_spec (eth : Bool) (s : State) :
    OnlyLinksAndEth s (linksDown eth s) ∧ ∀ l, ((linksDown eth s).link l).state = .down := by
  have down (l : LinkId) : ((allLinks.foldl linkDown s).link l).state = .down :=
    foldl_reaches (P := fun l t => (State.link t l).state = .down) linkDown linkDown_link linkDown_other allLinks s l
      (.inl (mem_allLinks l))
  have rest : OnlyLinksAndEth s (allLinks.foldl linkDown s) :=
    foldl_related .refl .trans linkDown (fun t l => by
      unfold linkDown
      split
      · exact .refl t
      · exact (enterLink_onlyLinks ..).withEth) _ s
  have ports (t : State) : t.links = ([false, true].foldl portDown t).links ∧
      OnlyLinksAndEth t ([false, true].foldl portDown t) :=
    foldl_related (R := fun s t : State => s.links = t.links ∧ OnlyLinksAndEth s t) (fun _ => ⟨rfl, .refl _⟩)
      (fun h g => ⟨h.1.trans g.1, h.2.trans g.2⟩) portDown
      (fun t p => by unfold portDown; split <;> exact ⟨rfl, rfl⟩) _ t
  rw [linksDown_eq]
  split
  · exact ⟨rest, down⟩
  · obtain ⟨links, frame⟩ := ports (allLinks.foldl linkDown s)
    refine ⟨rest.trans frame, fun l => ?_⟩
    rw [State.link, ← links]
    exact down l

/-! ## Ballast off -/

/-- One stand's ballast off, as `ballastOff` does. -/
def standBallastOff (t : State) (g : StandId) : State :=
  if (t.stand g).ballast then t.setStand g { t.stand g with ballast := false } else t

theorem standBallastOff_stand (t : State) (g : StandId) : ((standBallastOff t g).stand g).ballast = false := by
  unfold standBallastOff
  split
  next => rw [State.setStand_stand]
  next h => simpa using h

theorem standBallastOff_other (t : State) (g h : StandId) (off : (t.stand h).ballast = false) :
    ((standBallastOff t g).stand h).ballast = false := by
  by_cases e : h = g
  · subst e; exact standBallastOff_stand t h
  · unfold standBallastOff
    split
    · rw [State.setStand_stand_other _ _ _ _ e, off]
    · exact off

/-- No ballast is drawn. -/
def noBallast (t : State) : State := { t with power := { t.power with ballast := 0, floorNow := 0 } }

theorem ballastOff_spec (s : State) : ballastOff s = { s with
      stands := (ballastOff s).stands, power := { s.power with ballast := 0, floorNow := 0 } }
    ∧ ∀ g, ((ballastOff s).stand g).ballast = false := by
  have rest : allStands.foldl standBallastOff s = { s with stands := (allStands.foldl standBallastOff s).stands } :=
    foldl_related (R := fun s t : State => t = { s with stands := t.stands }) (fun _ => rfl) (fun h g => by rw [g, h])
      standBallastOff (fun t g => by unfold standBallastOff; split <;> rfl) _ s
  have off (g : StandId) : ((allStands.foldl standBallastOff s).stand g).ballast = false :=
    foldl_reaches (P := fun g t => (State.stand t g).ballast = false) standBallastOff standBallastOff_stand
      standBallastOff_other allStands s g (.inl (mem_allStands g))
  have body : ballastOff s = noBallast (allStands.foldl standBallastOff s) :=
    congrArg noBallast (rfl : allStands.foldl (fun t g => if (t.stand g).ballast then
      t.setStand g { t.stand g with ballast := false } else t) s = allStands.foldl standBallastOff s)
  generalize allStands.foldl standBallastOff s = u at *
  rw [body]
  refine ⟨?_, off⟩
  rw [noBallast, rest]

/-! ## The warm stop (R395) -/

theorem tiersRest_rest (s : State) :
    tiersRest s = { s with deckStacks := (tiersRest s).deckStacks, yardRefresh := true } := by
  unfold tiersRest
  exact foldl_related (R := fun s t : State => t = { s with deckStacks := t.deckStacks }) (fun _ => rfl)
    (fun h g => by rw [g, h]) (fun t i => if (t.stack i).state = .on then
      t.setStack i { t.stack i with state := .selfRefresh } else t) (fun t i => by dsimp only; split <;> rfl) allSectors
    { s with yardRefresh := true }

theorem stopTests_desk (s : State) : desk (stopTests s) = desk { s with tests := [] } := by
  simp only [stopTests]
  exact foldl_desk (fun t x => reinit_desk ..) _ _

theorem stopTests_none {s : State} (h : s.tests = []) : stopTests s = s := by
  have same : { s with tests := [] } = s := by rw [← h]
  rw [stopTests, h, List.foldl_nil, same]

/-- The part as it stands once its tests, ballast, links and clocks are stopped. -/
def stopped (s : State) : State := tiersRest (stopClocks (linksDown false (ballastOff (stopTests s))))

theorem stopped_of {s e b d : State} (ended : desk e = desk { s with tests := [] }) (mem : s.tests = [] → e.mem = s.mem)
    (dark : b = { e with stands := b.stands, power := { e.power with ballast := 0, floorNow := 0 } })
    (quiet : OnlyLinksAndEth b d) : let t := tiersRest (stopClocks d)
    t.tests = [] ∧ t.power = { s.power with ballast := 0, floorNow := 0 } ∧ t.dur = s.dur ∧ t.setup = s.setup
      ∧ t.links = d.links ∧ (s.tests = [] → t.mem = s.mem) := by
  intro t
  have body : t = _ := tiersRest_rest (stopClocks d)
  have fields : desk t = desk b ∧ t.mem = b.mem ∧ t.links = d.links := by
    rw [body, quiet]
    exact ⟨rfl, rfl, rfl⟩
  obtain ⟨desks, mems, links⟩ := fields
  refine ⟨?_, ?_, ?_, ?_, links, fun h => ?_⟩
  · rw [desk_tests desks, dark]
    exact desk_tests ended
  · rw [desk_power desks, dark]
    exact congrArg (fun p : Power => { p with ballast := 0, floorNow := 0 }) (desk_power ended)
  · rw [desk_dur desks, dark]
    exact (desk_dur ended).trans rfl
  · rw [desk_setup desks, dark]
    exact (desk_setup ended).trans rfl
  · rw [mems, dark]
    exact mem h

theorem stopped_spec (s : State) : let t := stopped s
    t.tests = [] ∧ t.power = { s.power with ballast := 0, floorNow := 0 } ∧ t.dur = s.dur ∧ t.setup = s.setup
      ∧ (∀ l, (t.link l).state = .down) ∧ (s.tests = [] → t.mem = s.mem) := by
  obtain ⟨dark, -⟩ := ballastOff_spec (stopTests s)
  obtain ⟨quiet, down⟩ := linksDown_spec false (ballastOff (stopTests s))
  obtain ⟨tests, power, dur, setup, links, mem⟩ :=
    stopped_of (stopTests_desk s) (fun h => by rw [stopTests_none h]) dark quiet
  refine ⟨tests, power, dur, setup, fun l => ?_, mem⟩
  rw [State.link, stopped, links]
  exact down l

/-- The record of power with a reset under way. -/
def resetting (pin : Bool) (p : Power) : Power :=
  { p with
    resetPhase := .warm pin
    warms := p.warms + 1
    linkUp := false
    cxl := false
    before := if p.device = .draining || p.device = .tripped then p.before else p.device
    drainSince := none }

theorem warmStop_eq (pin : Bool) (s : State) :
    warmStop pin s = settleRb { stopped s with power := resetting pin (stopped s).power } := by
  rw [stopped]
  rfl

/-- HST_RB settles busy; nothing else that is read of the power record changes. -/
theorem settleRb_power {s : State} (h : mayRelease s = false) :
    ∃ since, settleRb s = { s with power := { s.power with rb := .busy, busySince := since } } := by
  rw [settleRb, if_neg (by simp [h])]
  split
  next busy => exact ⟨s.power.busySince, by rw [← busy]⟩
  next => exact ⟨_, rfl⟩

/-- A warm stop: the phase of the reset, its count, and what it takes down (R395). -/
theorem warmStop_spec (pin : Bool) (s : State) : let t := warmStop pin s
    (t.power.resetPhase = .warm pin ∧ t.power.warms = s.power.warms + 1 ∧ t.power.rb = .busy ∧ t.power.linkUp = false)
      ∧ (t.power.before = (if s.power.device = .draining || s.power.device = .tripped then s.power.before
          else s.power.device)
        ∧ t.power.trip = s.power.trip ∧ t.power.device = s.power.device ∧ t.power.perst = s.power.perst)
      ∧ (∀ l, (t.link l).state = .down) ∧ t.tests = [] ∧ t.dur = s.dur ∧ t.setup = s.setup
      ∧ (s.tests = [] → t.mem = s.mem) := by
  obtain ⟨tests, power, dur, setup, down, mem⟩ := stopped_spec s
  rw [warmStop_eq]
  generalize stopped s = u at *
  obtain ⟨since, rb⟩ := settleRb_power (s := { u with power := resetting pin u.power }) (by simp [mayRelease, resetting])
  rw [rb, power]
  exact ⟨⟨rfl, rfl, rfl, rfl⟩, ⟨rfl, rfl, rfl, rfl⟩, down, tests, dur, setup, mem⟩

end Sys2Proof.Machine
end

section
/-! PROOFS. Recovery after a warm reset (R312): what it makes of the journal, and which of its parts change neither the
commit number nor power. -/

namespace Sys2Proof.Machine

/-! ## What the parts of recovery leave alone -/

/-- The commit number, whether the scent table is to be rebuilt, and the record of power. -/
def phase : State → BitVec 64 × Bool × Power
  | { dur, scentRebuild, power, .. } => (dur.commits, scentRebuild, power)

@[simp] theorem phase_mk : type_of% @phase.eq_1 := @phase.eq_1

@[simp] theorem phase_fields (s : State) : (s.dur.commits, s.scentRebuild, s.power) = phase s := rfl

theorem phase_commits (s : State) : (phase s).1 = s.dur.commits := rfl
theorem phase_scent (s : State) : (phase s).2.1 = s.scentRebuild := rfl
theorem phase_power (s : State) : (phase s).2.2 = s.power := rfl

@[simp] theorem phase_ite (c : Prop) [Decidable c] (a b : State) :
    phase (if c then a else b) = if c then phase a else phase b := apply_ite phase c a b

@[simp] theorem foldl_phase {α : Type} {f : State → α → State} (h : ∀ t x, phase (f t x) = phase t) (l : List α)
    (s : State) : phase (l.foldl f s) = phase s := by
  induction l generalizing s with
  | nil => rfl
  | cons x l ih => rw [List.foldl_cons, ih, h]

@[simp] theorem State.setCore_phase (s c x) : phase (State.setCore s c x) = phase s := by simp [State.setCore]
@[simp] theorem State.setCoupe_phase (s k x) : phase (State.setCoupe s k x) = phase s := by simp [State.setCoupe]
@[simp] theorem State.setRun_phase (s k x) : phase (State.setRun s k x) = phase s := by simp [State.setRun]
@[simp] theorem State.setSeq_phase (s i x) : phase (State.setSeq s i x) = phase s := by simp [State.setSeq]
@[simp] theorem State.setGroup_phase (s g x) : phase (State.setGroup s g x) = phase s := by simp [State.setGroup]
@[simp] theorem State.setImage_phase (s h x) : phase (State.setImage s h x) = phase s := by simp [State.setImage]
@[simp] theorem State.setRing_phase (s r x) : phase (State.setRing s r x) = phase s := by simp [State.setRing]
@[simp] theorem State.setLink_phase (s l x) : phase (State.setLink s l x) = phase s := by simp [State.setLink]
@[simp] theorem State.setStack_phase (s i x) : phase (State.setStack s i x) = phase s := by simp [State.setStack]
@[simp] theorem State.setChannel_phase (s i x) : phase (State.setChannel s i x) = phase s := by simp [State.setChannel]

/-! ### Allocations, groups and sequences -/

@[simp] theorem dropMove_phase (m s) : phase (dropMove m s) = phase s := by simp [dropMove]
@[simp] theorem dropMoves_phase (f s) : phase (dropMoves f s) = phase s := by simp [dropMoves]
@[simp] theorem dropGrant_phase (p kd s) : phase (dropGrant p kd s) = phase s := by simp [dropGrant]
@[simp] theorem dropKinds_phase (f s) : phase (dropKinds f s) = phase s := by simp [dropKinds]
@[simp] theorem dropAlloc_phase (kd s) : phase (dropAlloc kd s) = phase s := by simp [dropAlloc]
@[simp] theorem trimList_phase (i s) : phase (trimList i s) = phase s := by simp [trimList]
@[simp] theorem dropImage_phase (h s) : phase (dropImage h s) = phase s := by simp [dropImage]
@[simp] theorem freeGroup_phase (g s) : phase (freeGroup g s) = phase s := by simp [freeGroup]
@[simp] theorem settleGroup_phase (g s) : phase (settleGroup g s) = phase s := by simp [settleGroup]
@[simp] theorem dropRef_phase (g s) : phase (dropRef g s) = phase s := by simp [dropRef]
@[simp] theorem dropHeld_phase (i s) : phase (dropHeld i s) = phase s := by simp [dropHeld]
@[simp] theorem releaseSeq_phase (i s) : phase (releaseSeq i s) = phase s := by simp [releaseSeq]
@[simp] theorem freeSeq_phase (i s) : phase (freeSeq i s) = phase s := by simp [freeSeq]
@[simp] theorem unbindImage_phase (h s) : phase (unbindImage h s) = phase s := by simp [unbindImage]
@[simp] theorem unbindJob_phase (k j s) : phase (unbindJob k j s) = phase s := by
  simp only [unbindJob]
  split <;> simp

@[simp] theorem unbindAll_phase (k s) : phase (unbindAll k s) = phase s := by simp [unbindAll]
@[simp] theorem unbindCoupe_phase (k s) : phase (unbindCoupe k s) = phase s := by simp [unbindCoupe]
@[simp] theorem undoLoads_phase (s) : phase (undoLoads s) = phase s := by simp [undoLoads]
@[simp] theorem undoOpens_phase (s) : phase (undoOpens s) = phase s := by simp [undoOpens]

/-! ### Reads, writes and rings, which leave the transfers alone too -/

/-- These and the transfers under way. -/
def haul (s : State) : (BitVec 64 × Bool × Power) × List Transfer := (phase s, s.transfers)

@[simp] theorem haul_ite (c : Prop) [Decidable c] (a b : State) :
    haul (if c then a else b) = if c then haul a else haul b := apply_ite haul c a b

@[simp] theorem State.setLink_haul (s l x) : haul (State.setLink s l x) = haul s := rfl

theorem foldl_haul {α : Type} {f : State → α → State} (h : ∀ t x, haul (f t x) = haul t) (l : List α) (s : State) :
    haul (l.foldl f s) = haul s :=
  foldl_related (R := fun s t => haul t = haul s) (fun _ => rfl) (fun h g => g.trans h) f h l s

theorem readBench_haul (c r src s) : haul (readBench c r src s).2 = haul s := by
  rw [(readBench_read c r src s).rest]
  rfl

theorem writeBench_haul (c r data poison s) : haul (writeBench c r data poison s) = haul s := rfl

theorem logTier_haul (a kind symbol s) : haul (logTier a kind symbol s) = haul s := by
  unfold logTier
  split <;> rfl

theorem foundBad_haul (a s) : haul (foundBad a s) = haul s := by
  have logged := logTier_haul a 1 0x3F { s with granuleErrors := s.granuleErrors.set .none a .none }
  simp only [foundBad]
  generalize logTier a 1 0x3F { s with granuleErrors := s.granuleErrors.set .none a .none } = u at *
  split
  · exact logged
  · split <;> exact logged

theorem readGranule_haul (a s) : haul (readGranule a s).2 = haul s := by
  unfold readGranule
  split
  · rfl
  · exact logTier_haul ..
  · exact foundBad_haul ..

theorem readGranules_haul : ∀ l s, haul (readGranules l s).2 = haul s
  | [], _ => rfl
  | a :: as, s => (readGranules_haul as _).trans (readGranule_haul a s)

theorem readRowAt_haul (a s) : haul (readRowAt a s).2 = haul s := by
  unfold readRowAt
  split
  · exact readBench_haul ..
  · exact readGranules_haul ..

theorem readLease_haul (a s) : haul (readLease a s).2 = haul s := by
  unfold readLease
  split
  · exact (readRowAt_haul ..).trans (readRowAt_haul ..)
  · exact readRowAt_haul ..

theorem stageRun_haul (runs r s) : haul (stageRun runs r s) = haul s :=
  foldl_haul (fun t i => (writeBench_haul ..).trans (readLease_haul ..)) _ s

theorem stageTile_haul (cfg runs l s) : haul (stageTile cfg runs l s) = haul s := by
  refine foldl_haul (fun t e => ?_) _ s
  dsimp only
  split
  · exact (writeBench_haul ..).trans (readLease_haul ..)
  · exact writeBench_haul ..

theorem stageFrom_haul (runs cfg s) : haul (stageFrom runs cfg s) = haul s :=
  (foldl_haul (fun t l => stageTile_haul cfg runs l t) _ _).trans (foldl_haul (fun t r => stageRun_haul runs r t) _ s)

theorem recoverRing_haul (lost s r) : haul (recoverRing lost s r) = haul s := by
  simp only [recoverRing]
  split
  · rfl
  · split <;> rfl

theorem recoverRings_haul (lost s) : haul (recoverRings lost s) = haul s :=
  foldl_haul (fun t r => recoverRing_haul lost t r) _ s

@[simp] theorem enterLink_haul (l st cause n s) : haul (enterLink l st cause n s) = haul s := by
  rw [enterLink_onlyLinks l st cause n s]
  rfl

theorem placeLink_haul (w l s) : haul (placeLink w l s) = haul s := by
  simp [placeLink]

theorem placeLinks_haul (w s) : haul (placeLinks w s) = haul s :=
  foldl_haul (fun t l => placeLink_haul w l t) _ s

/-! ### No transfer starts -/

section
variable {s : State} (h : s.transfers = [])
include h

theorem foldl_idle {α : Type} {f : State → α → State} (one : ∀ t x, t.transfers = [] → (f t x).transfers = [])
    (l : List α) : (l.foldl f s).transfers = [] :=
  foldl_related (R := fun s t : State => s.transfers = [] → t.transfers = []) (fun _ => id) (fun h g => g ∘ h) f
    (fun t x => one t x) l s h

theorem dropMove_idle (m) : (dropMove m s).transfers = [] := by simp [dropMove, h]
theorem dropMoves_idle (f) : (dropMoves f s).transfers = [] := foldl_idle h (fun t m ht => dropMove_idle ht m) _
theorem dropKinds_idle (f) : (dropKinds f s).transfers = [] := dropMoves_idle h _
theorem dropAlloc_idle (kd) : (dropAlloc kd s).transfers = [] := dropKinds_idle h _
theorem dropImage_idle (i) : (dropImage i s).transfers = [] := dropAlloc_idle (dropAlloc_idle h _) _
theorem freeGroup_idle (g) : (freeGroup g s).transfers = [] := dropAlloc_idle h _

theorem settleGroup_idle (g) : (settleGroup g s).transfers = [] := by
  simp only [settleGroup]
  split_ifs
  · exact h
  · exact h
  · exact h
  · exact h
  · exact freeGroup_idle h g

theorem dropHeld_idle (i) : (dropHeld i s).transfers = [] :=
  dropAlloc_idle (dropAlloc_idle (foldl_idle (f := fun t g => dropRef g t) h (fun _ _ ht => ht) _) _) _

theorem releaseSeq_idle (i) : (releaseSeq i s).transfers = [] :=
  foldl_idle (f := fun t g => settleGroup g t) (dropHeld_idle h i) (fun _ g ht => settleGroup_idle ht g) _

theorem freeSeq_idle (i) : (freeSeq i s).transfers = [] := by
  simp only [freeSeq]
  split
  · exact h
  · exact releaseSeq_idle h i

theorem undoLoads_idle : (undoLoads s).transfers = [] :=
  foldl_idle (f := fun t (e : Nat × Image) => dropImage (BitVec.ofNat 10 e.1) t) h (fun _ _ ht => dropImage_idle ht _) _

theorem undoOpens_idle : (undoOpens s).transfers = [] :=
  foldl_idle (f := fun t (e : Nat × Seq) => freeSeq (BitVec.ofNat 13 e.1) t) h (fun _ _ ht => freeSeq_idle ht _) _

theorem unbindImage_idle (i) : (unbindImage i s).transfers = [] := by
  simp only [unbindImage]
  split
  · exact dropImage_idle h i
  · split <;> exact h

theorem unbindJob_idle (k j) : (unbindJob k j s).transfers = [] := by
  simp only [unbindJob]
  split
  · exact h
  · exact unbindImage_idle h _

theorem unbindAll_idle (k) : (unbindAll k s).transfers = [] := by
  have jobs := foldl_idle (f := fun t j => unbindJob k j t) h (fun _ j ht => unbindJob_idle ht k j) (List.range 8)
  simp only [unbindAll]
  exact jobs

theorem unbindCoupe_idle (k) : (unbindCoupe k s).transfers = [] := by
  have jobs := unbindAll_idle h k
  simp only [unbindCoupe, State.setRun]
  exact jobs

end

/-! ## Recovery -/

theorem phase_of_haul {s t : State} (h : haul t = haul s) : phase t = phase s := congrArg (·.1) h
theorem transfers_of_haul {s t : State} (h : haul t = haul s) : t.transfers = s.transfers := congrArg (·.2) h

/-- Each part of the recovery keeps the commit number and power, and starts no transfer. -/
def Recovers (s t : State) : Prop := phase t = phase s ∧ (s.transfers = [] → t.transfers = [])

theorem Recovers.refl (s : State) : Recovers s s := ⟨rfl, id⟩
theorem Recovers.trans {s t u : State} (h : Recovers s t) (g : Recovers t u) : Recovers s u :=
  ⟨g.1.trans h.1, g.2 ∘ h.2⟩
theorem Recovers.of_haul {s t : State} (h : haul t = haul s) : Recovers s t :=
  ⟨phase_of_haul h, fun idle => (transfers_of_haul h).trans idle⟩

theorem restage_recovers (k : CoupeId) (s : State) : Recovers s (restage k s).2 := by
  unfold restage
  split
  · exact .refl s
  next cfg _ =>
    split
    · exact .refl s
    · extract_lets runs
      clear_value runs
      split
      · refine ⟨(State.setCoupe_phase ..).trans (unbindCoupe_phase ..), fun idle => ?_⟩
        simp only [State.setCoupe]
        exact unbindCoupe_idle idle k
      · exact .of_haul (stageFrom_haul ..)

theorem restageAll_recovers : ∀ (l : List CoupeId) (s : State), Recovers s (restageAll l s).2
  | [], s => .refl s
  | k :: ks, s => (restage_recovers k s).trans (restageAll_recovers ks _)

/-- The state of the last commit, as `rollback` takes it up. -/
theorem rollback_spec (s : State) : (rollback s).dur.commits = s.journal.commits ∧ (rollback s).transfers = []
    ∧ (rollback s).scentRebuild = true ∧ (rollback s).power = s.power := by
  have back : haul (rollback s) = ((s.journal.commits, true, s.power), []) := by
    simp only [rollback]
    exact (foldl_haul (f := fun t i => trimList i t) (fun _ _ => rfl) _ _).trans rfl
  simp only [haul, ← phase_fields, Prod.mk.injEq] at back
  obtain ⟨⟨commits, scent, power⟩, transfers⟩ := back
  exact ⟨commits, transfers, scent, power⟩

/-- The state in which the rings have recovered. -/
def recovered (s : State) : State :=
  let s1 := undoOpens (undoLoads (rollback (coreRails false (tiersWake s))))
  recoverRings (restageAll (listedCoupes s1) s1).1 (restageAll (listedCoupes s1) s1).2

theorem tiersWake_rest (s : State) : tiersWake s = { s with deckStacks := (tiersWake s).deckStacks, yardRefresh := false } := by
  unfold tiersWake
  exact foldl_related (R := fun s t : State => t = { s with deckStacks := t.deckStacks }) (fun _ => rfl)
    (fun h g => by rw [g, h]) (fun t i => if (t.stack i).state = .selfRefresh && (t.sector i).mode ≠ .s3 then
      t.setStack i { t.stack i with state := .on } else t) (fun t i => by dsimp only; split <;> rfl) allSectors
    { s with yardRefresh := false }

theorem recovered_spec (s : State) : (recovered s).dur.commits = s.journal.commits ∧ (recovered s).transfers = []
    ∧ (recovered s).scentRebuild = true ∧ (recovered s).power = s.power := by
  obtain ⟨commits, transfers, scent, power⟩ := rollback_spec (coreRails false (tiersWake s))
  have woken : (coreRails false (tiersWake s)).journal = s.journal ∧ (coreRails false (tiersWake s)).power = s.power := by
    have awake := tiersWake_rest s
    generalize tiersWake s = t at awake
    rw [awake]
    exact ⟨rfl, rfl⟩
  rw [woken.1] at commits
  rw [woken.2] at power
  unfold recovered
  generalize rollback (coreRails false (tiersWake s)) = u at *
  have undone : Recovers u (undoOpens (undoLoads u)) := ⟨by simp, fun h => undoOpens_idle (undoLoads_idle h)⟩
  dsimp only
  generalize undoOpens (undoLoads u) = v at *
  obtain ⟨same, idle⟩ := (undone.trans (restageAll_recovers (listedCoupes v) v)).trans
    (.of_haul (recoverRings_haul (restageAll (listedCoupes v) v).1 _))
  rw [← phase_fields, ← phase_fields] at same
  simp only [Prod.mk.injEq] at same
  exact ⟨same.1.trans commits, idle transfers, same.2.1.trans scent, same.2.2.trans power⟩

/-! ## The device's state and HST_RB at the end -/

theorem raise_haul (f kind record value stepno ring k c s) :
    haul (raise f kind record value stepno ring k c s) = haul s := by
  fun_cases raise f kind record value stepno ring k c s <;> rfl

theorem setDevice_haul (d : DeviceState) (s : State) :
    haul (setDevice d s) = haul { s with power := { s.power with device := d } } := by
  unfold setDevice
  split
  next h => rw [← h]
  next => exact raise_haul ..

theorem setDevice_power (d : DeviceState) (s : State) : (setDevice d s).power = { s.power with device := d } :=
  congrArg (fun v => v.1.2.2) (setDevice_haul d s)

/-- What a reader of the state after recovery sees of it: the commit number, the scent table, the transfers, and of power
the reset, the link and PERST. -/
def settled (s : State) : BitVec 64 × Bool × List Transfer × ResetPhase × Bool × Bool :=
  (s.dur.commits, s.scentRebuild, s.transfers, s.power.resetPhase, s.power.linkUp, s.power.perst)

theorem settled_of_haul {s t : State} (h : haul t = haul s) : settled t = settled s := by
  obtain ⟨same, transfers⟩ := Prod.mk.inj h
  simp only [← phase_fields, Prod.mk.injEq] at same
  obtain ⟨commits, scent, power⟩ := same
  simp only [settled, commits, scent, power, transfers]

theorem device_of_haul {s t : State} (h : haul t = haul s) : t.power.device = s.power.device :=
  congrArg (fun v => v.1.2.2.device) h

theorem setDevice_settled (d : DeviceState) (s : State) : settled (setDevice d s) = settled s :=
  (settled_of_haul (setDevice_haul d s)).trans rfl

theorem maybeReady_settled (s : State) : settled (maybeReady s) = settled s := by
  unfold maybeReady
  split
  · exact setDevice_settled ..
  · rfl

theorem maybeReady_device (s : State) : (maybeReady s).power.device = s.power.device
    ∨ (s.power.device = .early ∧ (maybeReady s).power.device = .ready) := by
  unfold maybeReady
  split
  next h => exact .inr ⟨of_decide_eq_true (Bool.and_eq_true_iff.mp h).1, setDevice_device ..⟩
  next => exact .inl rfl

theorem settleRb_settled (s : State) : settled (settleRb s) = settled s := by
  unfold settleRb
  split_ifs <;> rfl

/-- The record of power once the release point is reached. -/
def released (p : Power) : Power :=
  { p with resetPhase := .none, linkUp := !p.perst, trip := false, lastBark := none }

/-- The links where the coordinate record in force puts them. -/
def placedLinks (s : State) : State :=
  match s.coord with
  | some w => placeLinks w s
  | none => s

theorem placedLinks_haul (s : State) : haul (placedLinks s) = haul s := by
  unfold placedLinks
  split
  · exact placeLinks_haul ..
  · rfl

/-- Where the state before the reset is taken up again. -/
def resumed (s : State) : State :=
  placedLinks (setDevice s.power.before { s with power := released s.power })

theorem resumed_eq (s : State) : (match (setDevice s.power.before { s with power := released s.power }).coord with
    | some w => placeLinks w (setDevice s.power.before { s with power := released s.power })
    | none => setDevice s.power.before { s with power := released s.power }) = resumed s := rfl

theorem recover_eq (s : State) : recover s = settleRb (maybeReady (resumed (recovered s))) := by
  rw [← resumed_eq]
  simp only [recover, recovered, released] <;>
    · generalize recoverRings _ _ = u
      rfl

theorem resumed_spec (s : State) :
    settled (resumed s) = settled { s with power := released s.power } ∧ (resumed s).power.device = s.power.before := by
  have taken := setDevice_haul s.power.before { s with power := released s.power }
  have placed := (placedLinks_haul (setDevice s.power.before { s with power := released s.power })).trans taken
  exact ⟨(settled_of_haul placed).trans rfl, device_of_haul placed⟩

/-- What recovery leaves (R312). -/
theorem recover_spec (s : State) : let t := recover s
    t.power.resetPhase = .none ∧ t.dur.commits = s.journal.commits ∧ t.transfers = [] ∧ t.scentRebuild = true
      ∧ t.power.linkUp = !s.power.perst ∧ t.power.perst = s.power.perst
      ∧ (t.power.device = s.power.before ∨ (s.power.before = .early ∧ t.power.device = .ready)) := by
  obtain ⟨commits, transfers, scent, power⟩ := recovered_spec s
  obtain ⟨same, device⟩ := resumed_spec (recovered s)
  have ready := maybeReady_device (resumed (recovered s))
  rw [recover_eq]
  have all : settled (settleRb (maybeReady (resumed (recovered s)))) = _ :=
    (settleRb_settled _).trans ((maybeReady_settled _).trans same)
  rw [← settleRb_device, device, power] at ready
  simp only [settled, Prod.mk.injEq, commits, transfers, scent, power] at all
  obtain ⟨commits, scent, transfers, phase, link, perst⟩ := all
  exact ⟨phase, commits, transfers, scent, link, perst, ready⟩

/-! ## The host link, drains and firmware -/

theorem trainHost_spec (s : State) : let t := trainHost s
    t.journal = s.journal ∧ t.mem = s.mem ∧ t.power.linkUp = true ∧ t.power.perst = s.power.perst
      ∧ t.power.resetPhase = s.power.resetPhase := by
  exact ⟨rfl, rfl, rfl, rfl, rfl⟩

/-- A drain notes the state that the part held and its own begin. -/
def marked (s : State) : State :=
  { s with power := { s.power with before := s.power.device, drainSince := some s.timebase } }

/-- The state in which the whole part drains, before the drain's end is looked for. -/
def drains (s : State) : State := settleRb (setDevice .draining (marked s))

theorem drains_spec (s : State) : ∃ since, (drains s).power = { s.power with
      before := s.power.device
      drainSince := some s.timebase
      device := .draining
      rb := .busy
      busySince := since }
    ∧ noOpenStep (drains s) = noOpenStep s := by
  have steady : drains s = settleRb (setDevice .draining (marked s)) := rfl
  obtain ⟨since, busy⟩ := settleRb_power (s := setDevice .draining (marked s))
    (by simp [mayRelease, setDevice_device])
  rw [steady, busy, setDevice_power]
  refine ⟨since, rfl, ?_⟩
  unfold setDevice
  split <;> rfl

theorem execWholeDeviceDrain_drains {s : State} (running : s.ranger.running = true) (main : s.power.main = true)
    (calm : s.power.resetPhase = .none) (serves : s.power.device = .early ∨ s.power.device = .ready) :
    execWholeDeviceDrain s = .next (drainEnd (drains s)) := by
  have begins : beginDrain s = drainEnd (drains s) := by
    rw [beginDrain]
    exact if_pos (by simp [main, calm, serves.symm])
  rw [execWholeDeviceDrain, if_pos running, begins]

/-- A firmware image of the part other than the ranger's is taken by a drain (R396). -/
theorem exec_firmwareUpdate_drains {s : State} (v : BitVec 16) (running : s.ranger.running = true) :
    exec (.firmwareUpdate false true v) s = execWholeDeviceDrain s := by
  change execFirmwareUpdate false true v s = _
  rw [execFirmwareUpdate, execWholeDeviceDrain, if_neg (by simp [running]), if_pos running]
  rfl

/-- The drain ends at once when no step is open. -/
theorem drainEnd_spec (s : State) (calm : s.power.resetPhase = .none) : let t := drainEnd (drains s)
    t.power.rb = .busy ∧ t.power.before = s.power.device
      ∧ (noOpenStep s = false → t.power.device = .draining ∧ t.power.drainSince = some s.timebase)
      ∧ (noOpenStep s = true → t.power.resetPhase = .warm false) := by
  obtain ⟨since, power, still⟩ := drains_spec s
  generalize drains s = u at *
  dsimp only
  cases hopen : noOpenStep s with
  | false =>
    rw [drainEnd, if_neg (by simp [still, hopen]), power]
    exact ⟨rfl, rfl, fun _ => ⟨rfl, rfl⟩, fun h => nomatch h⟩
  | true =>
    obtain ⟨⟨phase, -, rb, -⟩, ⟨before, -⟩, -⟩ := warmStop_spec false u
    rw [drainEnd, if_pos (by simp [still, hopen, power, calm])]
    rw [power] at before
    exact ⟨rb, before, fun h => (nomatch h), fun _ => phase⟩

/-! ## Resets -/

theorem coldReset_spec {s : State} (main : s.power.main = true) : let t := coldReset s
    t.power.colds = s.power.colds + 1 ∧ t.power.device = .bringUp ∧ t.power.rb = .busy ∧ t.setup = Setup.reset
      ∧ t.ranger.running = false ∧ Blank t ∧ t.cores = [] ∧ t.dur = Durable.reset ∧ t.power.coldRst = s.power.coldRst := by
  obtain ⟨blank, cores, dur, setup, device, rb, colds, -, pin, running⟩ := coldStart_spec (restartRanger s)
  rw [coldReset, if_pos main]
  exact ⟨colds, device, rb, setup, running, blank, cores, dur, pin⟩

/-- A cold reset runs when its trigger may give it (R394). -/
theorem exec_coldReset_of {tr : ResetTrigger} {s : State} (bmc : tr = .bmc → s.ranger.running = true) :
    ∃ u : State, exec (.coldReset tr) s = .next (coldReset u) ∧ u.power.main = s.power.main
      ∧ u.power.colds = s.power.colds ∧ (tr = .pin → u.power.coldRst = true) := by
  rw [exec_coldReset]
  cases tr with
  | pin => exact ⟨_, rfl, rfl, rfl, fun _ => rfl⟩
  | bmc => exact ⟨s, by rw [execColdReset, if_pos (bmc rfl)], rfl, rfl, fun h => nomatch h⟩
  | _ => exact ⟨s, rfl, rfl, rfl, fun h => nomatch h⟩

theorem exec_coldReset_spec {tr : ResetTrigger} {s : State} (main : s.power.main = true)
    (bmc : tr = .bmc → s.ranger.running = true) :
    ∃ t, exec (.coldReset tr) s = .next t ∧ t.power.colds = s.power.colds + 1 ∧ t.power.device = .bringUp
      ∧ t.power.rb = .busy ∧ t.setup = Setup.reset ∧ t.ranger.running = false ∧ Blank t ∧ t.cores = []
      ∧ t.dur = Durable.reset ∧ (tr = .pin → t.power.coldRst = true) := by
  obtain ⟨u, run, on, count, pin⟩ := exec_coldReset_of bmc
  obtain ⟨colds, device, rb, setup, running, blank, cores, dur, coldRst⟩ := coldReset_spec (on.trans main)
  exact ⟨_, run, by rw [colds, count], device, rb, setup, running, blank, cores, dur, fun h => coldRst.trans (pin h)⟩

theorem warmReset_stops (pin : Bool) {s : State} (main : s.power.main = true)
    (serves : s.power.device = .early ∨ s.power.device = .ready) (calm : s.power.resetPhase = .none) :
    warmReset pin s = warmStop pin s := by
  rcases serves with device | device <;> simp [warmReset, main, device, calm]

/-- What a warm reset shows: it is under way from the state that the part held (R395). -/
structure WarmStopped (pin : Bool) (s t : State) : Prop where
  phase : t.power.resetPhase = .warm pin
  warms : t.power.warms = s.power.warms + 1
  before : t.power.before = s.power.device
  rb : t.power.rb = .busy
  link : t.power.linkUp = false
  down : ∀ l, (t.link l).state = .down
  tests : t.tests = []
  kept : s.tests = [] → t.mem = s.mem ∧ t.dur = s.dur

theorem warmStop_stopped (pin : Bool) {s : State} (serves : s.power.device = .early ∨ s.power.device = .ready) :
    WarmStopped pin s (warmStop pin s) := by
  obtain ⟨⟨phase, warms, rb, link⟩, ⟨before, -⟩, down, tests, dur, -, mem⟩ := warmStop_spec pin s
  refine ⟨phase, warms, ?_, rb, link, down, tests, fun h => ⟨mem h, dur⟩⟩
  rw [before]
  exact if_neg (by rcases serves with device | device <;> simp [device])

theorem exec_warmReset_stops {tr : ResetTrigger} {s : State} (main : s.power.main = true)
    (bmc : tr = .bmc → s.ranger.running = true) (serves : s.power.device = .early ∨ s.power.device = .ready)
    (calm : s.power.resetPhase = .none) (pin : tr = .pin → s.power.perst = false) :
    ∃ t, exec (.warmReset tr) s = .next t ∧ WarmStopped (decide (tr = .pin)) s t := by
  rw [exec_warmReset]
  have soft := warmReset_stops false main serves calm
  have stopped := warmStop_stopped false serves
  cases tr with
  | pin =>
    have held := warmStop_stopped true serves
    rw [execWarmReset, if_neg (by simp [pin rfl]), warmReset_stops true main serves calm]
    generalize warmStop true s = u at held ⊢
    exact ⟨_, rfl, ⟨held.phase, held.warms, held.before, held.rb, rfl, held.down, held.tests, held.kept⟩⟩
  | bmc => exact ⟨_, by rw [execWarmReset, if_pos (bmc rfl), soft], stopped⟩
  | register => exact ⟨_, congrArg Host.Outcome.next soft, stopped⟩
  | power => exact ⟨_, congrArg Host.Outcome.next soft, stopped⟩

theorem exec_coldRstNRelease_frees (s : State) :
    ∃ t, exec .coldRstNRelease s = .next t ∧ t.power.coldRst = false ∧ t.tapHolds = false
      ∧ (s.tapHolds = true → t.tap = .idcode)
      ∧ t = { s with tap := t.tap, tapHolds := false, power := t.power, rails := t.rails } := by
  refine ⟨_, rfl, ?_⟩
  rw [startRails_rest]
  exact ⟨rfl, rfl, fun h => if_pos h, rfl⟩

theorem recover_trainHost_spec (u : State) : let t := recover (trainHost u)
    t.power.perst = u.power.perst ∧ t.power.resetPhase = .none ∧ t.dur.commits = u.journal.commits := by
  obtain ⟨journal, -, -, pin, -⟩ := trainHost_spec u
  obtain ⟨phase, commits, -, -, -, kept, -⟩ := recover_spec (trainHost u)
  exact ⟨kept.trans pin, phase, commits.trans (congrArg Durable.commits journal)⟩

/-- PERST's release trains the host link, and ends the reset that the pin began (R395). -/
theorem exec_perstRelease_spec {s : State} (perst : s.power.perst = true) :
    (s.power.main = false → exec .perstRelease s = .next { s with power := { s.power with perst := false } })
      ∧ (s.power.main = true → s.power.resetPhase = .none →
        ∃ t, exec .perstRelease s = .next t ∧ t.power.perst = false ∧ t.power.linkUp = true ∧ t.mem = s.mem)
      ∧ (s.power.main = true → s.power.resetPhase = .warm true → s.journalOk = true →
        ∃ t, exec .perstRelease s = .next t ∧ t.power.perst = false ∧ t.power.resetPhase = .none
          ∧ t.dur.commits = s.journal.commits) := by
  rw [exec_perstRelease]
  refine ⟨fun main => by simp [execPerstRelease, perst, main], fun main calm => ?_, fun main warm ok => ?_⟩
  · obtain ⟨-, mem, link, pin, -⟩ := trainHost_spec { s with power := { s.power with perst := false } }
    exact ⟨_, by simp only [execPerstRelease, perst, main, calm, Bool.not_true, Bool.false_eq_true, if_false], pin, link, mem⟩
  · exact ⟨_, by simp only [execPerstRelease, perst, main, warm, ok, Bool.not_true, Bool.false_eq_true, if_false, if_true],
      recover_trainHost_spec { s with power := { s.power with perst := false } }⟩

/-- Settles O48. -/
theorem resetsAndRecovery : Obligations.ResetsAndRecovery := by
  unfold Obligations.ResetsAndRecovery
  refine ⟨fun tr s main bmc => ⟨exec_coldReset_spec main bmc, fun serves calm pin => ?_⟩, fun s => ⟨?_, ?_, ?_, ?_⟩,
    fun i s hi running main calm serves => ?_, fun since s hsince device => ⟨fun late => ?_, fun early => ?_⟩⟩
  · obtain ⟨t, run, h⟩ := exec_warmReset_stops main bmc serves calm pin
    exact ⟨t, run, h.phase, h.warms, h.before, h.rb, h.link, h.down, h.tests, h.kept⟩
  · exact exec_coldRstNRelease_frees s
  · intro warm ok
    obtain ⟨phase, commits, transfers, scent, link, -, device⟩ := recover_spec s
    exact ⟨recover s, by rw [exec_releasePoint, execReleasePoint, warm]; exact if_pos ok, phase, commits, transfers, scent,
      link, device⟩
  · intro warm blocked
    rw [exec_releasePoint, execReleasePoint, warm]
    exact if_neg (by simp [blocked])
  · exact exec_perstRelease_spec
  · have run : exec i s = execWholeDeviceDrain s := by
      rcases hi with rfl | ⟨v, rfl⟩
      · exact exec_wholeDeviceDrain s
      · exact exec_firmwareUpdate_drains v running
    exact ⟨_, run.trans (execWholeDeviceDrain_drains running main calm serves), drainEnd_spec s calm⟩
  · obtain ⟨⟨phase, warms, -⟩, -⟩ := warmStop_spec false s
    refine ⟨_, ?_, phase, warms⟩
    rw [exec_wholeDeviceDrainTimeout, execWholeDeviceDrainTimeout, hsince]
    exact if_pos (by simp [device, late])
  · rw [exec_wholeDeviceDrainTimeout, execWholeDeviceDrainTimeout, hsince]
    exact if_neg (by simp [early])

end Sys2Proof.Machine
end

section
/-! PROOFS. The end of bring-up, calibration, the ranger's readings, the thermal trip and the ranger's firmware (R385, R391–R393,
R396, R406–R408). -/

namespace Sys2Proof.Machine

/-! ## Stands at bring-up -/

/-- `foldl_reaches` along an invariant. -/
theorem foldl_reaches_with {σ α : Type} {I : σ → Prop} {P : α → σ → Prop} (f : σ → α → σ) (stays : ∀ s x, I s → I (f s x))
    (makes : ∀ s x, I s → P x (f s x)) (keeps : ∀ s x y, x ≠ y → P y s → P y (f s x)) :
    ∀ (l : List α) (s : σ) (y : α), I s → y ∈ l ∨ P y s → P y (l.foldl f s)
  | [], s, y, _, h => h.resolve_left List.not_mem_nil
  | x :: l, s, y, hs, h => by
    refine foldl_reaches_with f stays makes keeps l (f s x) y (stays s x hs) ?_
    by_cases same : x = y
    · subst same
      exact .inr (makes s x hs)
    · refine h.imp (fun h => (List.mem_cons.1 h).resolve_left (Ne.symm same)) (keeps s x y same)

/-- Stand `g` as the end of bring-up finds it: in service when its core rail is on and its cores are sound. -/
def standFound (b : BringUp) (t : State) (g : StandId) : State :=
  let i := g.toNat
  let ok := !b.badStands.contains g && (t.rail .core i).state = .on && (t.stand g).inService
  t.setStand g { t.stand g with
    inService := ok, mhz := 900, pstate := 4, mv := BitVec.ofNat 10 (Config.measured (256 + i) t.timebase).toNat }

/-- Sector `i` and its deck stack. -/
def sectorFound (b : BringUp) (t : State) (i : SectorId) : State :=
  let t1 := if (t.rail .sram i.val).state = .on then t else t.setSector i { t.sector i with mode := .out }
  if b.badStacks.contains i || (t1.rail .deck i.val).state ≠ .on then t1.setStack i { t1.stack i with state := .failed }
  else t1

/-- Channel `c`. -/
def channelFound (b : BringUp) (t : State) (c : ChannelId) : State :=
  let n := b.dimms.getD c.val 0
  t.setChannel c { t.channel c with
    dimm := n, trained := n ≠ 0, failed := (t.rail .yphy (c.val / 2)).state ≠ .on }

theorem bringUpUnits_eq (b : BringUp) (s : State) : bringUpUnits b s =
    allChannels.foldl (channelFound b) (allSectors.foldl (sectorFound b) (allStands.foldl (standFound b) s)) := rfl

/-- A stand is up with the clock of bring-up, in service or not. -/
def UpAs (ok : Bool) (g : StandId) (t : State) : Prop :=
  (t.stand g).mhz = 900 ∧ (t.stand g).pstate = 4 ∧ (t.stand g).inService = ok

/-- While the stands are found: the rails are on, and each stand serves as before or as it will. -/
def Finding (b : BringUp) (s t : State) : Prop :=
  (∀ i, i < 128 → (t.rail .core i).state = .on)
    ∧ ∀ g, (t.stand g).inService = (s.stand g).inService
      ∨ (t.stand g).inService = (!b.badStands.contains g && (s.stand g).inService)

theorem standFound_up (b : BringUp) {s t : State} (h : Finding b s t) (g : StandId) :
    UpAs (!b.badStands.contains g && (s.stand g).inService) g (standFound b t g) := by
  obtain ⟨rails, serves⟩ := h
  have on := rails g.toNat g.isLt
  refine ⟨by simp [standFound], by simp [standFound], ?_⟩
  rcases serves g with same | same <;> simp [standFound, on, same]

theorem standFound_stand_other (b : BringUp) (t : State) {g h : StandId} (ne : g ≠ h) :
    (standFound b t g).stand h = t.stand h := State.setStand_stand_other _ _ _ _ (Ne.symm ne)

theorem standFound_finding (b : BringUp) {s t : State} (h : Finding b s t) (g : StandId) : Finding b s (standFound b t g) := by
  refine ⟨h.1, fun k => ?_⟩
  by_cases same : g = k
  · subst same
    exact .inr (standFound_up b h g).2.2
  · rw [standFound_stand_other b t same]
    exact h.2 k

theorem stands_found (b : BringUp) {s : State} (rails : ∀ i, i < 128 → (s.rail .core i).state = .on) (g : StandId) :
    UpAs (!b.badStands.contains g && (s.stand g).inService) g (allStands.foldl (standFound b) s) :=
  foldl_reaches_with (I := Finding b s) (P := fun g t => UpAs (!b.badStands.contains g && (s.stand g).inService) g t) (standFound b)
    (fun _ g h => standFound_finding b h g) (fun _ g h => standFound_up b h g)
    (fun t g k ne h => by rw [UpAs, standFound_stand_other b t ne]; exact h) _ s g ⟨rails, fun _ => .inl rfl⟩
    (.inl (mem_allStands g))

theorem sectorFound_stands (b : BringUp) (t : State) (i : SectorId) : (sectorFound b t i).stands = t.stands := by
  unfold sectorFound
  dsimp only
  split_ifs <;> rfl

theorem sectorFound_stack_other (b : BringUp) (t : State) {i j : SectorId} (ne : i ≠ j) :
    (sectorFound b t i).stack j = t.stack j := by
  unfold sectorFound
  dsimp only
  split <;> split
  · exact State.setStack_stack_other _ _ _ _ (Ne.symm ne)
  · rfl
  · exact State.setStack_stack_other _ _ _ _ (Ne.symm ne)
  · rfl

theorem sectorFound_failed (b : BringUp) (t : State) {i : SectorId} (bad : b.badStacks.contains i = true) :
    ((sectorFound b t i).stack i).state = .failed := by
  unfold sectorFound
  dsimp only
  rw [if_pos (by rw [bad]; rfl), State.setStack_stack]

theorem stacks_found (b : BringUp) (s : State) (i : SectorId) (bad : b.badStacks.contains i = true) :
    ((allSectors.foldl (sectorFound b) s).stack i).state = .failed :=
  foldl_reaches_with (I := fun _ => True) (P := fun i t => b.badStacks.contains i = true → (State.stack t i).state = .failed)
    (sectorFound b) (fun _ _ _ => trivial) (fun t _ _ => sectorFound_failed b t)
    (fun t i j ne h => by rw [sectorFound_stack_other b t ne]; exact h) _ s i trivial (.inl (List.mem_finRange i)) bad

/-- The units of the part as the end of bring-up finds them. -/
theorem bringUpUnits_spec (b : BringUp) {s : State} (rails : ∀ i, i < 128 → (s.rail .core i).state = .on) :
    (∀ g, UpAs (!b.badStands.contains g && (s.stand g).inService) g (bringUpUnits b s))
      ∧ ∀ i, b.badStacks.contains i = true → ((bringUpUnits b s).stack i).state = .failed := by
  have channels := foldl_related (R := fun s t : State => t = { s with channels := t.channels }) (fun _ => rfl)
    (fun h g => by rw [g, h]) (channelFound b) (fun _ _ => rfl) allChannels
    (allSectors.foldl (sectorFound b) (allStands.foldl (standFound b) s))
  have sectors := foldl_related (R := fun s t : State => t.stands = s.stands) (fun _ => rfl) (fun h g => g.trans h)
    (sectorFound b) (sectorFound_stands b) allSectors (allStands.foldl (standFound b) s)
  rw [← bringUpUnits_eq] at channels
  generalize bringUpUnits b s = u at channels ⊢
  rw [channels]
  refine ⟨fun g => ?_, fun i bad => stacks_found b _ i bad⟩
  have up := stands_found b rails g
  rw [UpAs, State.stand] at up ⊢
  rw [← sectors] at up
  exact up

/-! ## Repairs, the yard and the journal at bring-up -/

/-- What later parts of bring-up keep: clocks, deck stacks, and that no stand enters service. -/
structure Serves (all : Prop) (s t : State) : Prop where
  clock : ∀ g, (t.stand g).mhz = (s.stand g).mhz ∧ (t.stand g).pstate = (s.stand g).pstate
  out : ∀ g, (s.stand g).inService = false → (t.stand g).inService = false
  same : all → ∀ g, (t.stand g).inService = (s.stand g).inService
  deck : t.deckStacks = s.deckStacks

theorem Serves.trans {p : Prop} {s t u : State} (h : Serves p s t) (g : Serves p t u) : Serves p s u :=
  ⟨fun k => ⟨(g.clock k).1.trans (h.clock k).1, (g.clock k).2.trans (h.clock k).2⟩, fun k => g.out k ∘ h.out k,
    fun e k => (g.same e k).trans (h.same e k), g.deck.trans h.deck⟩

theorem Serves.of_same {p : Prop} {s t : State} (stands : t.stands = s.stands) (deck : t.deckStacks = s.deckStacks) :
    Serves p s t := by
  have stand (g : StandId) : t.stand g = s.stand g := by rw [State.stand, State.stand, stands]
  exact ⟨fun g => by rw [stand g]; exact ⟨rfl, rfl⟩, fun g => by rw [stand g]; exact id, fun _ g => by rw [stand g], deck⟩

theorem Serves.weaken {p : Prop} {s t : State} (h : Serves False s t) (out : ¬ p) : Serves p s t :=
  ⟨h.clock, h.out, fun e => absurd e out, h.deck⟩

theorem Serves.refl {p : Prop} (s : State) : Serves p s s := .of_same rfl rfl

theorem Serves.of_ground {p : Prop} {s t : State} (h : ground t = ground s) : Serves p s t :=
  .of_same (ground_stands h) (congrArg (·.2.1.2.2.2.1) h)

/-- A stand set anew with its clock, and in service only when it was. -/
theorem Serves.setStand {p : Prop} {s : State} {g : StandId} {x : Stand} (mhz : x.mhz = (s.stand g).mhz)
    (pstate : x.pstate = (s.stand g).pstate) (out : (s.stand g).inService = false → x.inService = false)
    (same : p → x.inService = (s.stand g).inService) : Serves p s (s.setStand g x) := by
  have stand (k : StandId) : (s.setStand g x).stand k = if k = g then x else s.stand k := by
    split
    next h => rw [h, State.setStand_stand]
    next h => exact State.setStand_stand_other _ _ _ _ h
  refine ⟨fun k => ?_, fun k => ?_, fun e k => ?_, rfl⟩ <;> rw [stand k] <;> split
  next h => exact h ▸ ⟨mhz, pstate⟩
  next => exact ⟨rfl, rfl⟩
  next h => exact h ▸ out
  next => exact id
  next h => exact h ▸ same e
  next => rfl

theorem coldSlots_serves (g : StandId) (s : State) : Serves False s (coldSlots g s) := by
  refine foldl_related (R := Serves False) .refl .trans _ (fun t c => ?_) (standCores g) s
  dsimp only
  split
  · split
    · exact .of_same rfl rfl
    · exact .trans (.of_same (t := t.setSlot c { t.slot c with state := .failed }) rfl rfl)
        (.setStand rfl rfl (fun _ => rfl) False.elim)
  · exact .refl t

theorem applyLine_serves {p : Prop} (g : StandId) (e : BitVec 128) (s : State) : Serves p s (applyLine g e s) := by
  unfold applyLine
  split
  · exact .refl s
  · split <;> exact .of_same rfl rfl

theorem applyLines_serves {p : Prop} (l : List (StandId × BitVec 128)) (s : State) :
    Serves p s (l.foldl (fun t l => applyLine l.1 l.2 t) s) := by
  induction l generalizing s with
  | nil => exact .refl s
  | cons e l ih => exact (applyLine_serves e.1 e.2 s).trans (ih _)

theorem noteUnfit_serves {p : Prop} (l : List (StandId × BitVec 6)) (s : State) : Serves p s
    (l.foldl (fun t u => t.setStand u.1 { t.stand u.1 with unfit := (t.stand u.1).unfit ++ [u.2] }) s) :=
  foldl_related .refl .trans (fun t u => t.setStand u.1 { t.stand u.1 with unfit := (t.stand u.1).unfit ++ [u.2] })
    (fun _ _ => .setStand rfl rfl id (fun _ => rfl)) l s

/-- Repair line `l` noted as applied. -/
def noteLine (t : State) (l : StandId × BitVec 128) : State :=
  let x := blockOf t 1 (l.1.setWidth 16)
  setBlock { x with applied := x.applied ++ [l.2] } t

theorem noteLine_serves {p : Prop} (t : State) (l : StandId × BitVec 128) : Serves p t (noteLine t l) := .of_same rfl rfl

theorem bringUpRepairs_serves (b : BringUp) (s : State) : Serves (b.unfit = []) s (bringUpRepairs b s) := by
  have cold : Serves (b.unfit = []) s (((b.unfit.map (·.1)).eraseDups).foldl (fun t g => coldSlots g t)
      (b.unfit.foldl (fun t u => t.setStand u.1 { t.stand u.1 with unfit := (t.stand u.1).unfit ++ [u.2] }) s)) := by
    by_cases fit : b.unfit = []
    · rw [fit]
      exact .refl s
    · exact ((noteUnfit_serves b.unfit s).trans (foldl_related .refl .trans (fun t g => coldSlots g t)
        (fun t g => coldSlots_serves g t) _ _)).weaken fit
  have blocks (t : State) : Serves (b.unfit = []) t (b.lines.foldl noteLine t) :=
    foldl_related .refl .trans noteLine noteLine_serves _ t
  exact (cold.trans (applyLines_serves _ _)).trans (blocks _)

theorem yardAtBringUp_ground (s : State) : ground (yardAtBringUp s) = ground s := by
  simp [yardAtBringUp, yardByHalf]

theorem settleRb_ground (s : State) : ground (settleRb s) = ground s := by
  unfold settleRb
  split_ifs <;> rfl

theorem moveJournal_ground (i : SectorId) (s : State) : ground (moveJournal i s) = ground s := by
  simp only [moveJournal]
  split
  · split
    · simp
    · exact settleRb_ground _
  · split
    · split
      · simp
      · exact settleRb_ground _
    · rfl

theorem bringUpJournal_ground (s : State) : ground (bringUpJournal s) = ground s := by
  refine foldl_ground (fun t i => ?_) _ s
  split
  · rfl
  · exact moveJournal_ground i t

/-! ## The end of bring-up -/

/-- Everything that is found at the end of bring-up, before the part's state is set. -/
def found (b : BringUp) (s : State) : State := bringUpJournal (yardAtBringUp (bringUpRepairs b (bringUpUnits b s)))

theorem found_serves (b : BringUp) (s : State) : Serves (b.unfit = []) (bringUpUnits b s) (found b s) :=
  (bringUpRepairs_serves b _).trans (.of_ground ((bringUpJournal_ground _).trans (yardAtBringUp_ground _)))

theorem execBringUpComplete_of {b : BringUp} {s : State} (main : s.power.main = true) (running : s.ranger.running = true)
    (device : s.power.device = .bringUp) (free : s.power.coldRst = false)
    (rails : ∀ r i, i < railCount r → (s.rail r i).state = .on) :
    exec (.bringUpComplete b) s = .next (settleRb (maybeReady (setDevice .early (found b s)))) := by
  have all (r : Rail) (p : RailUnit → Bool) (h : ∀ u, u.state = .on → p u = true) : railAll s r p = true :=
    List.all_eq_true.2 fun i hi => h _ (rails r i (List.mem_range.1 hi))
  rw [exec_bringUpComplete]
  refine if_pos ?_
  simp only [main, running, device, free, decide_true, Bool.not_false, Bool.true_and, List.all_eq_true, Bool.and_eq_true,
    Bool.or_eq_true]
  exact fun r _ => ⟨all r _ fun u h => by simp [h], .inr (all r _ fun u h => by simp [h])⟩

/-- The state that the end of bring-up leaves. -/
theorem bringUp_spec (b : BringUp) {s : State} (rails : ∀ i, i < 128 → (s.rail .core i).state = .on) :
    let t := settleRb (maybeReady (setDevice .early (found b s)))
    (t.power.device = .early ∨ t.power.device = .ready)
      ∧ (∀ g, (t.stand g).mhz = 900 ∧ (t.stand g).pstate = 4
        ∧ (b.unfit = [] → (t.stand g).inService = (!b.badStands.contains g && (s.stand g).inService))
        ∧ (b.badStands.contains g = true → (t.stand g).inService = false))
      ∧ (∀ i, b.badStacks.contains i = true → (t.stack i).state = .failed)
      ∧ (t.power.rb = .released ↔ mayRelease t = true) := by
  obtain ⟨up, failed⟩ := bringUpUnits_spec b rails
  have kept : Serves (b.unfit = []) (bringUpUnits b s) (settleRb (maybeReady (setDevice .early (found b s)))) :=
    (found_serves b s).trans (.of_ground ((settleRb_ground _).trans ((maybeReady_ground _).trans (setDevice_ground ..))))
  have device := maybeReady_device (setDevice .early (found b s))
  rw [setDevice_device, ← settleRb_device] at device
  obtain ⟨-, released, may⟩ := settleRb_spec (maybeReady (setDevice .early (found b s)))
  generalize settleRb (maybeReady (setDevice .early (found b s))) = t at *
  refine ⟨device.imp id (·.2), fun g => ?_, fun i bad => ?_, released.trans (by rw [may])⟩
  · obtain ⟨mhz, pstate, serves⟩ := up g
    refine ⟨(kept.clock g).1.trans mhz, (kept.clock g).2.trans pstate, fun fit => (kept.same fit g).trans serves,
      fun bad => kept.out g (serves.trans (by rw [bad]; rfl))⟩
  · rw [State.stack, kept.deck]
    exact failed i bad

/-! ## Calibration and readings -/

theorem setDevice_cores (d : DeviceState) (s : State) : (setDevice d s).cores = s.cores := by
  unfold setDevice
  split <;> rfl

theorem setDevice_links (d : DeviceState) (s : State) : (setDevice d s).links = s.links := by
  unfold setDevice
  split <;> rfl

theorem maybeReady_cores (s : State) : (maybeReady s).cores = s.cores := by
  unfold maybeReady
  split
  · exact setDevice_cores ..
  · rfl

theorem raiseStand_cores (kind value g s) : (raiseStand kind value g s).cores = s.cores := by
  fun_cases raiseStand kind value g s <;> rfl

theorem exec_standCalibrated_sets {g : StandId} {mv : BitVec 10} {s : State}
    (device : s.power.device = .early ∨ s.power.device = .ready) (running : s.ranger.running = true)
    (serves : (s.stand g).inService = true) (joined : (s.stand g).isolated = false) (fresh : (s.stand g).cal = false)
    (free : coupeOfStand s g = none) (calm : s.power.resetPhase = .none) :
    ∃ t, exec (.standCalibrated g mv) s = .next t ∧ t.stand g = { s.stand g with cal := true, mv := mv } ∧ t.mem = s.mem
      ∧ t.cores = s.cores := by
  have may : ((s.power.device = .early || s.power.device = .ready) && s.ranger.running && (s.stand g).inService
      && !(s.stand g).isolated && !(s.stand g).cal && (coupeOfStand s g).isNone && s.power.resetPhase = .none) = true := by
    simp [device, running, serves, joined, fresh, free, calm]
  rw [exec_standCalibrated, execStandCalibrated, if_pos may]
  have same : ground (maybeReady (raiseStand 0x37 0 g (s.setStand g { s.stand g with cal := true, mv := mv }))) =
    ground (s.setStand g { s.stand g with cal := true, mv := mv }) := (maybeReady_ground _).trans (raiseStand_ground ..)
  exact ⟨_, rfl, (ground_stand same g).trans (State.setStand_stand ..), (ground_mem same).trans rfl,
    (maybeReady_cores _).trans (raiseStand_cores ..)⟩

/-- A judged reading changes the warnings and the events only. -/
theorem judge_rest (x : Sensor) (temp : Int) (limit : Nat) (s : State) : let t := judge x temp limit s
    t = { s with power := { s.power with warned := t.power.warned, warnedAt := t.power.warnedAt }, events := t.events } := by
  unfold judge
  dsimp only
  split_ifs <;> rfl

/-- The readings of one sensor, judged against its limits. -/
def judged (x : Sensor) (temp : Int) (s : State) : State := (limitsOf x).foldl (fun u n => judge x temp n u) s

theorem judged_rest (x : Sensor) (temp : Int) (s : State) : let t := judged x temp s
    t = { s with power := { s.power with warned := t.power.warned, warnedAt := t.power.warnedAt }, events := t.events } :=
  foldl_related (R := fun s t : State => t = { s with
      power := { s.power with warned := t.power.warned, warnedAt := t.power.warnedAt }, events := t.events })
    (fun _ => rfl) (fun h g => by rw [g, h]) (fun u n => judge x temp n u) (fun u n => judge_rest x temp n u) (limitsOf x) s

/-- A junction above 100 °C is among the warned ones once it was judged. -/
theorem judged_warns {g : StandId} {n : BitVec 2} {temp : Int} {s : State} (hot : 1600 < temp)
    (may : mayWarn s (.junction g n) = true) : (Sensor.junction g n, 100) ∈ (judged (.junction g n) temp s).power.warned := by
  have first : (Sensor.junction g n, 100) ∈ (judge (.junction g n) temp 100 s).power.warned := by
    unfold judge
    dsimp only
    split
    · exact List.mem_append_right _ (List.mem_singleton_self _)
    next cool =>
      have on : s.power.warned.contains (Sensor.junction g n, 100) = true := by
        simpa [unitOf, hot, may] using cool
      rw [if_neg]
      · exact List.contains_iff_mem.1 on
      · simp only [unitOf, Bool.and_eq_true, not_and]
        intro _ low
        have bound : temp ≤ 16 * 100 - 48 := of_decide_eq_true low
        omega
  have later (u : State) (h : (Sensor.junction g n, 100) ∈ u.power.warned) :
      (Sensor.junction g n, 100) ∈ (judge (.junction g n) temp 108 u).power.warned := by
    unfold judge
    dsimp only
    split_ifs
    · exact List.mem_append_left _ h
    · exact List.mem_filter.2 ⟨h, by simp⟩
    · exact h
  exact later _ first

/-- A poll of one sensor that is not a junction. -/
theorem exec_sensorPoll_one {x : Sensor} {temp : Int} {s : State} (running : s.ranger.running = true)
    (main : s.power.main = true) (cool : ∀ g n, x ≠ .junction g n) :
    exec (.sensorPoll [(x, temp)]) s = .next (judged x temp (keepReading [(x, temp)] x temp s)) := by
  rw [exec_sensorPoll, execSensorPoll, if_neg (by simp [running, main])]
  cases x with
  | junction g n => exact absurd rfl (cool g n)
  | _ => rfl

theorem exec_sensorPoll_junction {g : StandId} {n : BitVec 2} {temp : Int} {s : State} (running : s.ranger.running = true)
    (main : s.power.main = true) :
    ∃ t, exec (.sensorPoll [(.junction g n, temp)]) s = .next t ∧ (t.stand g).tj = temp ∧ t.power.tjmax = temp
      ∧ t.mem = s.mem ∧ (1600 < temp → mayWarn s (.junction g n) = true → (Sensor.junction g n, 100) ∈ t.power.warned) := by
  have keep : keepReading [(.junction g n, temp)] (.junction g n) temp s = s.setStand g { s.stand g with tj := temp } := by
    simp [keepReading, hottest, Sensor.junctionOf]
  have rest := judged_rest (.junction g n) temp (s.setStand g { s.stand g with tj := temp })
  refine ⟨{ judged (.junction g n) temp (s.setStand g { s.stand g with tj := temp }) with
    power := { (judged (.junction g n) temp (s.setStand g { s.stand g with tj := temp })).power with tjmax := temp } },
    ?_, ?_, rfl, (congrArg State.mem rest).trans rfl, fun hot may => judged_warns hot may⟩
  · rw [exec_sensorPoll, execSensorPoll, if_neg (by simp [running, main]), ← keep]
    rfl
  · have stand := congrArg (fun u => (State.stand u g).tj) rest
    exact stand.trans (congrArg Stand.tj (State.setStand_stand ..))

/-! ## The thermal trip -/

theorem byte_benchesLost (a : Nat) (s : State) :
    Memory.byte a (benchesLost s).mem = if isBench a then Memory.empty else Memory.byte a s.mem := by
  unfold Memory.byte benchesLost
  dsimp only
  split
  next bench => rw [Sparse.lookup_filter_false a (fun k => !isBench k) (by simp [bench])]; rfl
  next tier => rw [Sparse.lookup_filter_true a (fun k => !isBench k) (by simp [tier])]

/-- The part stopped by a trip, before its state is noted. -/
def trippedStill (s : State) : State :=
  coreRails true (tiersRest (benchesLost (stopClocks (linksDown true (ballastOff s)))))

theorem trippedStill_spec (s : State) : let t := trippedStill s
    (∀ l, (t.link l).state = .down) ∧ (∀ h, (t.stand h).ballast = false)
      ∧ ∀ a, Memory.byte a t.mem = if isBench a then Memory.empty else Memory.byte a s.mem := by
  obtain ⟨dark, off⟩ := ballastOff_spec s
  obtain ⟨quiet, down⟩ := linksDown_spec true (ballastOff s)
  have rest := tiersRest_rest (benchesLost (stopClocks (linksDown true (ballastOff s))))
  rw [trippedStill]
  generalize tiersRest (benchesLost (stopClocks (linksDown true (ballastOff s)))) = u at *
  generalize linksDown true (ballastOff s) = v at *
  generalize ballastOff s = b at *
  rw [rest]
  have stands : v.stands = b.stands := by rw [quiet]
  have mem : v.mem = s.mem := by rw [quiet, dark]
  refine ⟨down, fun h => ?_, fun a => ?_⟩
  · have ballast := off h
    rw [State.stand, ← stands] at ballast
    exact ballast
  · rw [← mem]
    exact byte_benchesLost a (stopClocks v)

theorem exec_thermalTrip_stops {g : StandId} {s : State} (main : s.power.main = true) (cold : s.power.device ≠ .tripped) :
    ∃ t, exec (.thermalTrip g) s = .next t ∧ t.power.device = .tripped ∧ t.power.trip = true ∧ t.power.rb = .busy
      ∧ (∀ l, (t.link l).state = .down) ∧ (∀ h, (t.stand h).ballast = false)
      ∧ (∀ a, Memory.byte a t.mem = if isBench a then Memory.empty else Memory.byte a s.mem) := by
  obtain ⟨down, off, mem⟩ := trippedStill_spec s
  refine ⟨settleRb (setDevice .tripped { trippedStill s with power := { (trippedStill s).power with
    trip := true, before := if s.power.device = .draining then s.power.before else s.power.device, drainSince := none } }),
    ?_, ?_⟩
  · rw [exec_thermalTrip, execThermalTrip, if_neg (by simp [main, cold])]
    rfl
  · generalize trippedStill s = u at *
    generalize hv : ({ u with power := { u.power with
      trip := true, before := if s.power.device = .draining then s.power.before else s.power.device, drainSince := none } } : State) = v
    have trip : v.power.trip = true := hv ▸ rfl
    obtain ⟨since, rb⟩ := settleRb_power (s := setDevice .tripped v) (mayRelease_tripped (setDevice_device ..))
    rw [rb]
    have links : (setDevice .tripped v).links = u.links := by
      rw [setDevice_links, ← hv]
    have same := setDevice_ground .tripped v
    refine ⟨setDevice_device .tripped v, ?_, rfl, fun l => ?_, fun h => ?_, fun a => ?_⟩
    · rw [setDevice_power]
      exact trip
    · have link : (setDevice .tripped v).link l = u.link l := by rw [State.link, State.link, links]
      exact (congrArg Link.state link).trans (down l)
    · exact (congrArg Stand.ballast ((ground_stand same h).trans (by rw [← hv]; rfl))).trans (off h)
    · exact ((ground_sameBytes same a).trans (by rw [← hv])).trans (mem a)

theorem exec_tripWarmResetRelease_spec {hottest : Int} {s : State} (held : s.power.resetPhase = .heldWarm) :
    (1520 ≤ hottest → exec (.tripWarmResetRelease hottest) s = .next s)
      ∧ (hottest < 1520 → ∃ t, exec (.tripWarmResetRelease hottest) s = .next t
        ∧ t.power.resetPhase = .warm s.power.perst ∧ t.power.trip = false ∧ t.power.warms = s.power.warms + 1) := by
  rw [exec_tripWarmResetRelease]
  constructor
  · intro hot
    exact if_neg (by simp [hot])
  · intro cool
    obtain ⟨⟨phase, warms, -⟩, ⟨-, trip, -⟩, -⟩ := warmStop_spec s.power.perst { s with power := { s.power with trip := false } }
    have run : execTripWarmResetRelease hottest s
        = .next (warmStop s.power.perst { s with power := { s.power with trip := false } }) :=
      if_pos (by simp [held, cool])
    generalize warmStop s.power.perst { s with power := { s.power with trip := false } } = u at *
    exact ⟨u, run, phase, trip, warms⟩

theorem exec_firmwareUpdate_restarts {version : BitVec 16} {s : State} (running : s.ranger.running = true) :
    ∃ t, exec (.firmwareUpdate true true version) s = .next t ∧ t.ranger.fwVer = version ∧ t.ranger.running = false := by
  obtain ⟨t, run, stopped, -⟩ := execRangerWatchdog_stops running
  rw [exec_firmwareUpdate, execFirmwareUpdate, if_neg (by simp [running]), if_neg (by simp), run]
  exact ⟨_, rfl, rfl, stopped⟩

/-- Settles O47. -/
theorem bringUpAndHeat : Obligations.BringUpAndHeat := by
  unfold Obligations.BringUpAndHeat
  refine ⟨fun b s main running device free rails => ?_, fun g mv s device running serves joined fresh free calm =>
    exec_standCalibrated_sets device running serves joined fresh free calm, fun s running main => ⟨fun g n temp =>
    exec_sensorPoll_junction running main, ?_, ?_, ?_⟩, fun g s main cold => exec_thermalTrip_stops main cold,
    fun hottest s held => exec_tripWarmResetRelease_spec held, fun version s running =>
    exec_firmwareUpdate_restarts running⟩
  · obtain ⟨ready, stands, stacks', released⟩ := bringUp_spec b (rails .core)
    exact ⟨_, execBringUpComplete_of main running device free rails, ready, stands, stacks', released⟩
  · intro i temp
    refine ⟨_, exec_sensorPoll_one running main (fun _ _ h => nomatch h), ?_⟩
    exact (congrArg (fun u => (State.stack u i).temp) (judged_rest (.deckStack i) temp _)).trans
      (congrArg Stack.temp (State.setStack_stack ..))
  · exact fun temp => ⟨_, exec_sensorPoll_one running main (fun _ _ h => nomatch h),
      congrArg (fun u => u.power.tin) (judged_rest .coolantInlet temp _)⟩
  · exact fun w => ⟨_, exec_sensorPoll_one running main (fun _ _ h => nomatch h),
      congrArg (fun u => u.power.pin) (judged_rest .inputPower w _)⟩

end Sys2Proof.Machine
end

section
/-! PROOFS. What a release of allocations, groups, sequences and bindings may change (R186, R199, R217, R234). -/

namespace Sys2Proof.Machine

/-! ## Allocations, groups and sequences -/

/-- Nothing but records of sequences, groups, images and allocations, their grants and their moves differs. -/
def OnlyStores (s t : State) : Prop :=
  t = { s with
    dur := { s.dur with seqs := t.dur.seqs, groups := t.dur.groups, images := t.dur.images, allocs := t.dur.allocs }
    transfers := t.transfers
    granted := t.granted
    moves := t.moves
    freedGroups := t.freedGroups }

theorem OnlyStores.refl (s : State) : OnlyStores s s := rfl

theorem OnlyStores.trans {s t u : State} (h : OnlyStores s t) (g : OnlyStores t u) : OnlyStores s u := by
  rw [OnlyStores] at *
  rw [g, h]

theorem OnlyStores.foldl {α : Type} {f : State → α → State} (one : ∀ t x, OnlyStores t (f t x)) (l : List α) (s : State) :
    OnlyStores s (l.foldl f s) :=
  foldl_related .refl .trans f one l s

section
variable {s t : State} (h : OnlyStores s t)
include h

theorem OnlyStores.rings : t.rings = s.rings := by rw [h]
theorem OnlyStores.due : t.due = s.due := by rw [h]
theorem OnlyStores.coupe (k : CoupeId) : t.coupe k = s.coupe k := by rw [h]; rfl
theorem OnlyStores.run (k : CoupeId) : t.run k = s.run k := by rw [h]; rfl

end

theorem dropMove_stores (m s) : OnlyStores s (dropMove m s) := rfl
theorem dropMoves_stores (f s) : OnlyStores s (dropMoves f s) := .foldl (fun t m => dropMove_stores m t) _ s
theorem dropGrant_stores (p kd s) : OnlyStores s (dropGrant p kd s) := rfl

theorem dropKinds_stores (f s) : OnlyStores s (dropKinds f s) := by
  unfold dropKinds
  exact (dropMoves_stores _ s).trans rfl

theorem dropAlloc_stores (kd s) : OnlyStores s (dropAlloc kd s) := dropKinds_stores _ s
theorem trimList_stores (i s) : OnlyStores s (trimList i s) := rfl
theorem State.setSeq_stores (s i x) : OnlyStores s (State.setSeq s i x) := rfl
theorem State.setGroup_stores (s g x) : OnlyStores s (State.setGroup s g x) := rfl
theorem State.setImage_stores (s h x) : OnlyStores s (State.setImage s h x) := rfl

theorem dropImage_stores (h s) : OnlyStores s (dropImage h s) :=
  ((dropAlloc_stores _ s).trans (dropAlloc_stores ..)).trans (State.setImage_stores ..)

theorem freeGroup_stores (g s) : OnlyStores s (freeGroup g s) := by
  unfold freeGroup
  exact (dropAlloc_stores _ s).trans rfl

theorem settleGroup_stores (g s) : OnlyStores s (settleGroup g s) := by
  simp only [settleGroup]
  split_ifs
  · exact .refl s
  · exact .refl s
  · exact .refl s
  · rfl
  · exact freeGroup_stores g s

theorem dropRef_stores (g s) : OnlyStores s (dropRef g s) := rfl

theorem dropHeld_stores (i s) : OnlyStores s (dropHeld i s) :=
  (((OnlyStores.foldl (fun t g => dropRef_stores g t) _ s).trans (dropAlloc_stores ..)).trans (dropAlloc_stores ..)).trans
    (State.setSeq_stores ..)

theorem releaseSeq_stores (i s) : OnlyStores s (releaseSeq i s) :=
  (dropHeld_stores i s).trans (.foldl (fun t g => settleGroup_stores g t) _ _)

theorem freeSeq_stores (i s) : OnlyStores s (freeSeq i s) := by
  simp only [freeSeq]
  split
  · exact State.setSeq_stores ..
  · exact (releaseSeq_stores i s).trans (State.setSeq_stores ..)

theorem unbindImage_stores (h s) : OnlyStores s (unbindImage h s) := by
  simp only [unbindImage]
  split
  · exact dropImage_stores h s
  · split <;> rfl

theorem giveBack_stores (r s) : OnlyStores s (giveBack r s) := by
  have groups := OnlyStores.foldl (f := fun t g => dropAlloc (.group g) t) (fun t g => dropAlloc_stores _ t) r.groups s
  simp only [giveBack]
  generalize r.groups.foldl (fun t g => dropAlloc (.group g) t) s = u at groups ⊢
  refine groups.trans ?_
  split
  · exact (dropAlloc_stores _ u).trans (trimList_stores ..)
  · exact trimList_stores ..

theorem abandonRecall_stores (g s) : OnlyStores s (abandonRecall g s) := by
  unfold abandonRecall
  split
  · exact (dropGrant_stores _ _ s).trans (dropMoves_stores ..)
  · exact .refl s

theorem dropRecalls_stores (gs s) : OnlyStores s (dropRecalls gs s) :=
  .foldl (fun t g => by
    split
    · exact abandonRecall_stores g t
    · exact .refl t) gs s

theorem disown_stores (k s) : OnlyStores s (disown k s) := by
  unfold disown
  exact (dropKinds_stores _ s).trans rfl

/-! ## The allocator -/

/-- A relation that each thing the allocator does to a state keeps: grants, moves, allocations, groups and image copies
come and go. -/
structure AllocatorKeeps (R : State → State → Prop) : Prop where
  refl : ∀ s, R s s
  trans : ∀ {s t u}, R s t → R t u → R s u
  dropMove : ∀ m s, R s (dropMove m s)
  grants : ∀ l s, R s { s with granted := l }
  allocs : ∀ l s, R s { s with dur := { s.dur with allocs := l } }
  moves : ∀ l s, R s { s with moves := l }
  freed : ∀ l s, R s { s with freedGroups := l }
  group : ∀ g x s, R s (State.setGroup s g x)
  image : ∀ h x s, R s (State.setImage s h x)

/-- The state of an answer of the allocator keeps `R` with `s`. -/
def Grant.Keeps (R : State → State → Prop) (s : State) : Grant → Prop
  | .granted _ t => R s t
  | .waits t => R s t
  | .refused => True

section
variable {R : State → State → Prop} (K : AllocatorKeeps R)
include K

theorem dropKinds_keeps (f s) : R s (dropKinds f s) := by
  have moves : R s (dropMoves (fun m => f m.kind) s) :=
    foldl_related K.refl K.trans (fun t m => dropMove m t) (fun t m => K.dropMove m t) _ s
  simp only [dropKinds]
  generalize dropMoves (fun m => f m.kind) s = u at moves ⊢
  exact K.trans moves (K.trans (K.grants (u.granted.filter fun g => !g.runs.any fun r => f r.1) u)
    (K.allocs (u.dur.allocs.filter fun a => !f a.kind) { u with granted := u.granted.filter fun g => !g.runs.any fun r => f r.1 }))

theorem dropAlloc_keeps (kd s) : R s (dropAlloc kd s) := dropKinds_keeps K _ s
theorem dropGrant_keeps (p kd s) : R s (dropGrant p kd s) := K.grants _ s
theorem addAlloc_keeps (a s) : R s (addAlloc a s) := K.allocs _ s
theorem issueMove_keeps (pu p c kd src dst n s) : R s (issueMove pu p c kd src dst n s) := K.trans (K.allocs _ s) (K.moves _ _)

theorem freeGroup_keeps (g s) : R s (freeGroup g s) := by
  unfold freeGroup
  exact K.trans (dropAlloc_keeps K _ s) (K.trans (K.group g Group.reset _) (K.freed _ _))

theorem clearWindow_keeps (p w n) : ∀ (l : List Alloc) (s t : State), clearWindow p w n l s = some t → R s t
  | [], s, t, h => Option.some.inj h ▸ K.refl s
  | a :: l, s, t, h => by
    rw [clearWindow] at h
    split at h
    · exact nomatch h
    · exact K.trans (issueMove_keeps K ..) (clearWindow_keeps p w n l _ t h)

theorem openWindow_keeps {p n part} {s t : State} (h : openWindow p n part s = some t) : R s t := by
  rw [openWindow] at h
  obtain ⟨w, -, h⟩ := List.exists_of_findSome?_eq_some h
  split at h
  · exact nomatch h
  · dsimp only at h
    split at h
    · exact clearWindow_keeps K p w n _ s t h
    · exact nomatch h

theorem slideDown_keeps {p part} {s t : State} (h : slideDown p part s = some t) : R s t := by
  rw [slideDown] at h
  obtain ⟨a, -, h⟩ := List.exists_of_findSome?_eq_some h
  split at h
  · split at h
    · split_ifs at h
      exact Option.some.inj h ▸ issueMove_keeps K ..
    · exact nomatch h
  · exact nomatch h

theorem startRelocation_keeps (p kd c n s) : R s (startRelocation p kd c n s) := by
  simp only [startRelocation]
  split
  · exact K.refl s
  · split
    next t h =>
      obtain ⟨x, -, h⟩ := List.exists_of_findSome?_eq_some h
      exact openWindow_keeps K h
    next =>
      cases h : (poolParts s p kd c).findSome? (fun x => slideDown p x s) with
      | none => exact K.refl s
      | some t =>
        obtain ⟨x, -, h⟩ := List.exists_of_findSome?_eq_some h
        exact slideDown_keeps K h

theorem evictYard_keeps (a s) : R s (evictYard a s) := by
  unfold evictYard
  split
  · exact freeGroup_keeps K ..
  · exact dropAlloc_keeps K ..

theorem yardRoom_keeps (kd c n) : ∀ (fuel : Nat) (s : State), R s (yardRoom kd c n fuel s).2
  | 0, s => K.refl s
  | fuel + 1, s => by
    rw [yardRoom]
    split
    · exact K.refl s
    · split
      · exact K.trans (evictYard_keeps K ..) (yardRoom_keeps kd c n fuel _)
      · exact startRelocation_keeps K ..

theorem yardRoom_of {kd c n fuel} {s t : State} {o : Option Nat} (h : yardRoom kd c n fuel s = (o, t)) : R s t := by
  have room := yardRoom_keeps K kd c n fuel s
  rw [h] at room
  exact room

theorem evictGroup_keeps (g a s) : R s (evictGroup g a s) := by
  simp only [evictGroup]
  split
  · exact freeGroup_keeps K g s
  · have asked := K.trans (dropGrant_keeps K .yard (.group g) s)
      (K.grants ((dropGrant .yard (.group g) s).granted ++ [⟨.yard, [(.group g, a.units)], none⟩]) _)
    split
    next dst t h =>
      exact K.trans (K.trans asked (yardRoom_of K h)) (K.trans (dropGrant_keeps K ..) (issueMove_keeps K ..))
    next t h => exact K.trans asked (yardRoom_of K h)

theorem deckRoom_keeps (kd c n) : ∀ (fuel : Nat) (s : State), R s (deckRoom kd c n fuel s).2
  | 0, s => K.refl s
  | fuel + 1, s => by
    rw [deckRoom]
    split
    · exact K.refl s
    · split
      · exact K.refl s
      · split
        · dsimp only
          split
          · exact K.refl s
          · exact startRelocation_keeps K ..
        · split
          · dsimp only
            split
            · exact evictGroup_keeps K ..
            · exact K.trans (evictGroup_keeps K ..) (deckRoom_keeps kd c n fuel _)
          · exact K.trans (K.trans (dropAlloc_keeps K _ s) (K.image ..)) (deckRoom_keeps kd c n fuel _)
          · exact K.trans (dropAlloc_keeps K _ s) (deckRoom_keeps kd c n fuel _)

theorem makeRoom_keeps (p kd c n s) : R s (makeRoom p kd c n s).2 := by
  unfold makeRoom
  split
  · exact deckRoom_keeps K ..
  · exact yardRoom_keeps K ..

theorem enterRun_keeps (p kd c a n s) : R s (enterRun p kd c a n s) := by
  simp only [enterRun]
  split
  · split
    · exact issueMove_keeps K ..
    · exact addAlloc_keeps K ..
  · exact addAlloc_keeps K ..

theorem Grant.Keeps.after {s t : State} (h : R s t) : ∀ {g : Grant}, g.Keeps R t → g.Keeps R s
  | .granted _ _, hg => K.trans h hg
  | .waits _, hg => K.trans h hg
  | .refused, _ => trivial

theorem placeRuns_keeps (p c) : ∀ (runs : List (AllocKind × Nat)) (last : Nat) (s : State),
    (placeRuns p c last runs s).Keeps R s
  | [], _, s => K.refl s
  | (kd, n) :: rest, last, s => by
    have asked := K.grants (s.granted ++ [⟨p, (kd, n) :: rest, c⟩]) s
    have room := makeRoom_keeps K p kd c n { s with granted := s.granted ++ [⟨p, (kd, n) :: rest, c⟩] }
    simp only [placeRuns]
    split
    next a t h =>
      rw [h] at room
      exact Grant.Keeps.after K (K.trans (K.trans asked room)
        (K.trans (dropGrant_keeps K ..) (enterRun_keeps K ..))) (placeRuns_keeps p c rest a _)
    next t h =>
      rw [h] at room
      exact K.trans asked room

omit K in
theorem ite_keeps {s : State} {g : Grant} (c : Prop) [Decidable c] (h : g.Keeps R s) :
    (if c then g else .refused).Keeps R s := by
  split
  · exact h
  · trivial

theorem allocateRuns_keeps (p c head runs s) : (allocateRuns p c head runs s).Keeps R s := by
  unfold allocateRuns
  split
  · exact K.refl s
  · split
    · exact Grant.Keeps.after K (dropGrant_keeps K ..) (placeRuns_keeps K ..)
    · refine ite_keeps _ ?_
      exact placeRuns_keeps K ..

/-- One grant of a pool placed, or held as it was. -/
theorem pumpGrants_keeps (p s) : R s (pumpGrants p s) := by
  refine foldl_related K.refl K.trans _ (fun t g => ?_) (s.granted.filter fun g => g.pool = p) s
  split
  · exact K.refl t
  next kd n rest _ =>
    have placed := Grant.Keeps.after K (dropGrant_keeps K p kd t) (placeRuns_keeps K p g.coupe g.runs 0 (dropGrant p kd t))
    split
    next u h => exact (h ▸ placed : (Grant.granted _ u).Keeps R t)
    next u h => exact (h ▸ placed : (Grant.waits u).Keeps R t)
    · exact K.refl t

end

theorem onlyStores_allocator : AllocatorKeeps OnlyStores where
  refl := .refl
  trans := .trans
  dropMove _ _ := rfl
  grants _ _ := rfl
  allocs _ _ := rfl
  moves _ _ := rfl
  freed _ _ := rfl
  group _ _ _ := rfl
  image _ _ _ := rfl

theorem placeRuns_stores (p c runs last s) : (placeRuns p c last runs s).Keeps OnlyStores s :=
  placeRuns_keeps onlyStores_allocator p c runs last s

theorem allocate_granted {p kd c n head} {s g : State} {a : Nat} (h : allocate p kd c n head s = .granted a g) :
    OnlyStores s g := by
  have all := allocateRuns_keeps onlyStores_allocator p c head [(kd, n)] s
  rw [← allocate, h] at all
  exact all

/-! ## Bindings -/

/-- As `OnlyStores`, with the records of coupes. -/
def OnlyBindings (s t : State) : Prop :=
  t = { s with
    dur := { s.dur with
      coupes := t.dur.coupes, seqs := t.dur.seqs, groups := t.dur.groups, images := t.dur.images, allocs := t.dur.allocs }
    transfers := t.transfers
    granted := t.granted
    moves := t.moves
    freedGroups := t.freedGroups }

theorem OnlyBindings.refl (s : State) : OnlyBindings s s := rfl

theorem OnlyBindings.trans {s t u : State} (h : OnlyBindings s t) (g : OnlyBindings t u) : OnlyBindings s u := by
  rw [OnlyBindings] at *
  rw [g, h]

section
variable {s t : State} (h : OnlyBindings s t)
include h

theorem OnlyBindings.rings : t.rings = s.rings := by rw [h]
theorem OnlyBindings.mem : t.mem = s.mem := by rw [h]
theorem OnlyBindings.cores : t.cores = s.cores := by rw [h]

end

theorem OnlyStores.bindings {s t : State} (h : OnlyStores s t) : OnlyBindings s t := by
  rw [OnlyStores] at h
  rw [OnlyBindings, h]

theorem unbindJob_bindings (k j s) : OnlyBindings s (unbindJob k j s) := by
  simp only [unbindJob]
  split
  · exact .refl s
  · exact (unbindImage_stores _ s).bindings.trans rfl

theorem unbindAll_bindings (k s) : OnlyBindings s (unbindAll k s) := by
  have jobs := foldl_related OnlyBindings.refl .trans (fun t j => unbindJob k j t) (fun t j => unbindJob_bindings k j t)
    (List.range 8) s
  simp only [unbindAll]
  generalize (List.range 8).foldl (fun t j => unbindJob k j t) s = u at jobs ⊢
  exact jobs.trans rfl

/-! ## Descriptors stay where they are -/

/-- The same positions of the same rings hold a descriptor. -/
def SamePlaces (s t : State) : Prop := ∀ r p, (entryOf t r p).isSome = (entryOf s r p).isSome

theorem SamePlaces.refl (s : State) : SamePlaces s s := fun _ _ => rfl

theorem SamePlaces.trans {s t u : State} (h : SamePlaces s t) (g : SamePlaces t u) : SamePlaces s u :=
  fun r p => (g r p).trans (h r p)

theorem SamePlaces.of_rings {s t : State} (h : t.rings = s.rings) : SamePlaces s t := fun r p => by rw [entryOf_of_rings h]

theorem OnlyStores.places {s t : State} (h : OnlyStores s t) : SamePlaces s t := .of_rings (by rw [h])

theorem OnlyBindings.places {s t : State} (h : OnlyBindings s t) : SamePlaces s t := .of_rings (by rw [h])

theorem SamePlaces.foldl {α : Type} {f : State → α → State} (one : ∀ t x, SamePlaces t (f t x)) (l : List α) (s : State) :
    SamePlaces s (l.foldl f s) :=
  foldl_related .refl .trans f one l s

theorem setEntry_places (r p st s) : SamePlaces s (setEntry r p st s) := fun r' p' => by
  by_cases same : r' = r
  · rw [same, entryOf_setEntry, Option.isSome_map]
  · rw [entryOf, entryOf, setEntry, State.setRing_ringOf_other _ _ _ _ same]

theorem SamePlaces.entry {s t : State} (h : SamePlaces s t) {q : Desc} (hc : canStart s q = true) :
    ∃ e, entryOf t q.ring q.pos = some e := by
  obtain ⟨e, he, -⟩ := canStart_entry hc
  exact Option.isSome_iff_exists.1 ((h q.ring q.pos).trans (by rw [he]; rfl))

end Sys2Proof.Machine
end

section
/-! PROOFS. COUPE_CREATE, COUPE_SET, COUPE_DESTROY and SPAN_SET (R266–R269, R273). -/

namespace Sys2Proof.Machine

/-! ## Stands made fresh -/

/-- Nothing but cores, their benches, the ballast and the power record differs. -/
def OnlyBenches (s t : State) : Prop :=
  t = { s with
    mem := t.mem
    poison := t.poison
    rowErrors := t.rowErrors
    granuleErrors := t.granuleErrors
    cores := t.cores
    stands := t.stands
    free := t.free
    power := t.power
    events := t.events }

theorem OnlyBenches.refl (s : State) : OnlyBenches s s := rfl

theorem OnlyBenches.trans {s t u : State} (h : OnlyBenches s t) (g : OnlyBenches t u) : OnlyBenches s u := by
  rw [OnlyBenches] at *
  rw [g, h]

theorem OnlyBenches.foldl {α : Type} {f : State → α → State} (one : ∀ t x, OnlyBenches t (f t x)) (l : List α) (s : State) :
    OnlyBenches s (l.foldl f s) :=
  foldl_related .refl .trans f one l s

theorem freshCore_benches (c s) : OnlyBenches s (freshCore c s) := rfl

theorem freshStand_benches (g s) : OnlyBenches s (freshStand g s) := .foldl (fun t c => freshCore_benches c t) _ s

theorem stopBallast_benches (g s) : OnlyBenches s (stopBallast g s) := by
  simp only [stopBallast]
  split_ifs
  · rfl
  · rfl
  · exact .refl s

theorem setDevice_benches (d s) : OnlyBenches s (setDevice d s) := by
  unfold setDevice
  split <;> rfl

theorem maybeReady_benches (s) : OnlyBenches s (maybeReady s) := by
  unfold maybeReady
  split
  · exact setDevice_benches ..
  · exact .refl s

section
variable {s t : State} (h : OnlyBenches s t)
include h

theorem OnlyBenches.rings : t.rings = s.rings := by rw [h]
theorem OnlyBenches.due : t.due = s.due := by rw [h]
theorem OnlyBenches.coupe (k : CoupeId) : t.coupe k = s.coupe k := by rw [h]; rfl
theorem OnlyBenches.run (k : CoupeId) : t.run k = s.run k := by rw [h]; rfl

end

/-! ## COUPE_CREATE -/

/-- The record that COUPE_CREATE gives the new coupe. -/
def newCoupe (w : BitVec 512) : Coupe :=
  { Coupe.reset with
    stands := CoupeD.stands w
    state := .idle
    prio := CoupeD.prio w
    preemptible := CoupeD.preemptible w
    tshare := CoupeD.tshare w
    jobs := CoupeD.jobs w
    quantum := CoupeD.quantum w
    func := CoupeD.func w
    sentinel := CoupeD.sentinel w }

/-- The new coupe stands, and its descriptor is to be finished. -/
def created (w : BitVec 512) (s : State) : State :=
  let s1 := (maskStands (CoupeD.stands w)).foldl (fun t g => freshStand g (stopBallast g t)) s
  maybeReady ((s1.setCoupe (CoupeD.coupe w) (newCoupe w)).setRun (CoupeD.coupe w) CoupeRun.reset)

theorem createDone_eq (q : Desc) (s : State) : createDone q.ring q.pos q.w s = finish q Status.ok (created q.w s) := rfl

theorem created_spec (w : BitVec 512) (s : State) : (created w s).rings = s.rings
    ∧ (created w s).run (CoupeD.coupe w) = CoupeRun.reset ∧ (created w s).coupe (CoupeD.coupe w) = newCoupe w := by
  have fresh : OnlyBenches s ((maskStands (CoupeD.stands w)).foldl (fun t g => freshStand g (stopBallast g t)) s) :=
    .foldl (fun t g => (stopBallast_benches g t).trans (freshStand_benches ..)) _ s
  simp only [created]
  generalize (maskStands (CoupeD.stands w)).foldl (fun t g => freshStand g (stopBallast g t)) s = u at fresh ⊢
  have ready := maybeReady_benches ((u.setCoupe (CoupeD.coupe w) (newCoupe w)).setRun (CoupeD.coupe w) CoupeRun.reset)
  refine ⟨ready.rings.trans fresh.rings, (ready.run _).trans (State.setRun_run ..), (ready.coupe _).trans ?_⟩
  rw [State.setRun_coupe, State.setCoupe_coupe]

theorem exec_coupeCreate_starts {q : Desc} {s : State} (hc : canStart s q = true) (ho : Hdr.opcode q.w = 0x05)
    (new : waitsInPool s q = false) (fresh : (s.run (CoupeD.coupe q.w)).action ≠ .create q.ring q.pos) :
    exec (.coupeCreate q) s = .next (if !createOk s q then
        finish q Status.doesNotFit (if isQueued s q then dropSaves (CoupeD.coupe q.w) s else s)
      else match claimed s q with
        | some true => finish q Status.doesNotFit (if isQueued s q then dropSaves (CoupeD.coupe q.w) s else s)
        | some false => awaits q s
        | none =>
          if CoupeD.preemptible q.w then
            reserveSaves q (CoupeD.coupe q.w) (maskStands (CoupeD.stands q.w)) (createTake q) s
          else createTake q s) := by
  rw [exec_coupeCreate, execCoupeCreate, starts_of_canStart _ hc ho]
  dsimp only
  rw [if_neg (by simp [new]), if_neg fresh] <;> rfl

theorem exec_coupeCreate_creates {q : Desc} {s : State} (hc : canStart s q = true) (ho : Hdr.opcode q.w = 0x05)
    (new : waitsInPool s q = false) (fresh : (s.run (CoupeD.coupe q.w)).action ≠ .create q.ring q.pos)
    (ok : createOk s q = true) (free : claimed s q = none) (stays : CoupeD.preemptible q.w = false)
    (empty : holders s (CoupeD.stands q.w) = []) :
    exec (.coupeCreate q) s = .next (finish q Status.ok (created q.w s)) := by
  rw [exec_coupeCreate_starts hc ho new fresh, if_neg (by simp [ok]), free]
  dsimp only
  rw [if_neg (by simp [stays]), createTake, empty]
  rfl

/-! ## COUPE_SET and SPAN_SET -/

/-- What COUPE_SET does once its save areas are settled. -/
def coupeSet (q : Desc) (m : BitVec 128) (s : State) : State :=
  let s1 := if CoupeD.change q.w 0 then setStands (CoupeD.coupe q.w) m s else s
  finish q Status.ok { s1 with due := s1.due ++ [.coupeSet (CoupeD.coupe q.w) q.w] }

theorem exec_coupeSet_goesOn {q : Desc} {s : State} (hc : canStart s q = true) (ho : Hdr.opcode q.w = 0x06)
    (new : waitsInPool s q = false) (used : (s.coupe (CoupeD.coupe q.w)).state ≠ .free)
    (ok : CoupeD.change q.w 0 = true → setStandsOk s (CoupeD.coupe q.w) (CoupeD.stands q.w) = true)
    (areas : (if CoupeD.change q.w 2 then CoupeD.preemptible q.w
      else (s.coupe (CoupeD.coupe q.w)).preemptible && CoupeD.change q.w 0) = false) :
    exec (.coupeSet q) s = .next (coupeSet q
      (if CoupeD.change q.w 0 then CoupeD.stands q.w else (s.coupe (CoupeD.coupe q.w)).stands) s) := by
  rw [exec_coupeSet, execCoupeSet, starts_of_canStart _ hc ho]
  dsimp only
  rw [if_neg (by simp [new]), if_neg, areas]
  · rfl
  · simp only [Bool.or_eq_true, Bool.and_eq_true, decide_eq_true_eq, used, false_or]
    rintro ⟨stands, bad⟩
    rw [if_pos stands, ok stands] at bad
    exact absurd bad (by decide)

theorem setStands_spec (k : CoupeId) (m : BitVec 128) (s : State) :
    (setStands k m s).rings = s.rings ∧ (setStands k m s).due = s.due ∧ ((setStands k m s).coupe k).stands = m := by
  have fresh : OnlyBenches s ((maskStands ((s.coupe k).stands ^^^ m)).foldl (fun t g => freshStand g t) s) :=
    .foldl (fun t g => freshStand_benches g t) _ s
  simp only [setStands]
  generalize (maskStands ((s.coupe k).stands ^^^ m)).foldl (fun t g => freshStand g t) s = u at fresh ⊢
  refine ⟨(dropKinds_stores ..).rings.trans fresh.rings, (dropKinds_stores ..).due.trans fresh.due, ?_⟩
  rw [(dropKinds_stores ..).coupe, State.setRun_coupe, State.setCoupe_coupe]

/-! ## COUPE_DESTROY -/

theorem endOpening_places (k status s) : SamePlaces s (endOpening k status s) :=
  .foldl (fun t e => by
    dsimp only
    split
    · exact .refl t
    · split
      · exact .refl t
      · exact (SamePlaces.of_rings (t := dequeue _ t) rfl).trans
          ((dropRecalls_stores _ (dequeue _ t)).places.trans (setEntry_places _ _ _ _))) _ s

theorem endReady_places (k s) : SamePlaces s (endReady k s) :=
  SamePlaces.foldl (fun t st => (setEntry_places _ _ _ _).trans
    (.foldl (fun u r => (giveBack_stores r u).places.trans (setEntry_places _ _ _ _)) _ _)) _ s

/-- A coupe's records, once its sequences and its bindings are gone. -/
def removed (k : CoupeId) (s : State) : State := { (s.setCoupe k Coupe.reset).setRun k CoupeRun.reset with
  transfers := s.transfers.filter (fun t => !Mv.ofCoupe t.w k) }

theorem destroyCoupe_spec (k : CoupeId) (s : State) : SamePlaces s (destroyCoupe k s)
    ∧ (destroyCoupe k s).coupe k = Coupe.reset ∧ (destroyCoupe k s).run k = CoupeRun.reset := by
  have ended := (endReady_places k s).trans (endOpening_places k Status.doesNotFit _)
  simp only [destroyCoupe]
  generalize endOpening k Status.doesNotFit (endReady k s) = s0 at ended ⊢
  have closed : SamePlaces s0 _ := (OnlyStores.foldl (fun t i => freeSeq_stores i t)
    ((s0.dur.seqs.filter (fun e => e.2.coupe = k && e.2.state ≠ .free)).map (fun e => BitVec.ofNat 13 e.1)) s0).places
  generalize ((s0.dur.seqs.filter (fun e => e.2.coupe = k && e.2.state ≠ .free)).map
    (fun e => BitVec.ofNat 13 e.1)).foldl (fun t i => freeSeq i t) s0 = s1 at closed ⊢
  have unpinned : SamePlaces s1 _ := (OnlyStores.foldl
    (f := fun t g => settleGroup g (t.setGroup g { t.group g with pinned := false }))
    (fun t g => (State.setGroup_stores t g _).trans (settleGroup_stores ..)) (pinnedGroups s1 k) s1).places
  generalize (pinnedGroups s1 k).foldl (fun t g => settleGroup g (t.setGroup g { t.group g with pinned := false })) s1 = s2
    at unpinned ⊢
  have unbound := (unbindAll_bindings k s2).places.trans (disown_stores k _).places
  generalize disown k (unbindAll k s2) = s3 at unbound ⊢
  have fresh := OnlyBenches.foldl (fun t g => freshStand_benches g t) (s3.coupe k).standList s3
  generalize (s3.coupe k).standList.foldl (fun t g => freshStand g t) s3 = s4 at fresh ⊢
  have there := (((ended.trans closed).trans unpinned).trans unbound).trans (.of_rings fresh.rings)
  refine ⟨there.trans (.of_rings rfl), ?_, ?_⟩
  · exact (State.setRun_coupe (s4.setCoupe k Coupe.reset) k CoupeRun.reset k).trans (State.setCoupe_coupe ..)
  · exact State.setRun_run (s4.setCoupe k Coupe.reset) k CoupeRun.reset

theorem startDrain_spec (k : CoupeId) (act : CoupeAction) (s : State) :
    ((startDrain k act s).coupe k).state = .draining ∧ ((startDrain k act s).run k).action = act := by
  unfold startDrain
  dsimp only
  rw [State.setRun_coupe, State.setCoupe_coupe, State.setRun_run]
  exact ⟨rfl, rfl⟩

/-- Settles O35. -/
theorem coupesAreMadeAndUnmade : Obligations.CoupesAreMadeAndUnmade := by
  unfold Obligations.CoupesAreMadeAndUnmade
  intro q s hc
  refine ⟨fun ho new fresh => ⟨fun bad first => ?_, fun ok free stays empty => ?_⟩, fun ho new => ⟨fun free => ?_,
    fun used only areas => ?_, fun used stands ok stays same => ?_⟩, fun ho => ⟨fun free => ?_, fun idle calm => ?_,
    fun bound calm => ?_⟩, fun ho => ⟨fun idle => ?_, fun busy => ?_⟩⟩
  · refine ⟨_, (exec_coupeCreate_starts hc ho new fresh).trans (congrArg Host.Outcome.next (if_pos (by simp [bad]))), ?_⟩
    rw [first]
    exact ⟨finish_ends hc rfl _, finish_onlyRings ..⟩
  · obtain ⟨rings, run, coupe⟩ := created_spec q.w s
    refine ⟨_, exec_coupeCreate_creates hc ho new fresh ok free stays empty, finish_ends hc rings _, run, coupe.trans ?_⟩
    rw [newCoupe, stays]
  · refine ⟨_, ?_, finish_ends hc rfl _, finish_onlyRings ..⟩
    rw [exec_coupeSet, execCoupeSet, starts_of_canStart _ hc ho]
    exact congrArg Host.Outcome.next ((if_neg (by simp [waitsInPool, new])).trans (if_pos (by simp [free])))
  · refine ⟨_, exec_coupeSet_goesOn hc ho new used (fun h => absurd h (by simp [only])) ?_, ?_⟩
    · rw [only, Bool.and_false]
      split
      next h => exact areas h
      next => rfl
    · rw [coupeSet, only]
      exact ⟨finish_ends (u := { s with due := s.due ++ [.coupeSet _ q.w] }) hc rfl _, rfl⟩
  · refine ⟨_, exec_coupeSet_goesOn hc ho new used (fun _ => ok) (by rw [same, stays]; rfl), ?_⟩
    obtain ⟨rings, due, given⟩ := setStands_spec (CoupeD.coupe q.w) (CoupeD.stands q.w) s
    rw [coupeSet, stands, if_pos rfl, if_pos rfl]
    generalize setStands (CoupeD.coupe q.w) (CoupeD.stands q.w) s = u at rings due given ⊢
    exact ⟨finish_ends (u := { u with due := u.due ++ [.coupeSet _ q.w] }) hc rings _, given, by rw [← due]; rfl⟩
  · refine ⟨_, ?_, finish_ends hc rfl _, finish_onlyRings ..⟩
    rw [exec_coupeDestroy, execCoupeDestroy, starts_of_canStart _ hc ho]
    dsimp only
    rw [free]
  · obtain ⟨places, coupe, run⟩ := destroyCoupe_spec (CoupeD.coupe q.w) s
    obtain ⟨e, he⟩ := places.entry hc
    refine ⟨finish q Status.ok (destroyCoupe (CoupeD.coupe q.w) s), ?_, finish_endsWith he _, coupe, run⟩
    rw [exec_coupeDestroy, execCoupeDestroy, starts_of_canStart _ hc ho]
    dsimp only
    rw [idle]
    exact congrArg Host.Outcome.next (if_pos calm)
  · obtain ⟨e, he, -⟩ := canStart_entry hc
    obtain ⟨draining, action⟩ := startDrain_spec (CoupeD.coupe q.w) (.destroy q.ring q.pos) s
    refine ⟨setEntry q.ring q.pos .started (startDrain (CoupeD.coupe q.w) (.destroy q.ring q.pos) s), ?_,
      setEntry_entryIs (s := startDrain (CoupeD.coupe q.w) (.destroy q.ring q.pos) s) he _, draining, action, rfl, rfl⟩
    · rw [exec_coupeDestroy, execCoupeDestroy, starts_of_canStart _ hc ho]
      dsimp only
      rw [bound]
      exact congrArg Host.Outcome.next (if_pos calm)
  · refine ⟨_, ?_, finish_ends (u := { s with due := s.due ++ _ }) hc rfl _, rfl⟩
    rw [exec_spanSet, execSpanSet, starts_of_canStart _ hc ho]
    exact congrArg Host.Outcome.next (if_pos idle)
  · refine ⟨_, ?_, finish_ends hc rfl _, finish_onlyRings ..⟩
    rw [exec_spanSet, execSpanSet, starts_of_canStart _ hc ho]
    exact congrArg Host.Outcome.next (if_neg busy)

end Sys2Proof.Machine
end

section
/-! PROOFS. Model images: LOAD_IMAGE, its checks and UNLOAD_IMAGE (R153, R195–R200). -/

namespace Sys2Proof.Machine

/-! ## What a read or a write of rows may change -/

/-- Nothing but memory with its error records, the cores' logs, the log of a memory part and what is due differs. -/
def OnlyRows (s t : State) : Prop :=
  t = { s with
    mem := t.mem
    poison := t.poison
    rowErrors := t.rowErrors
    granuleErrors := t.granuleErrors
    cores := t.cores
    leaseHits := t.leaseHits
    deckStacks := t.deckStacks
    channels := t.channels
    due := t.due
    events := t.events }

theorem OnlyRows.refl (s : State) : OnlyRows s s := rfl

theorem OnlyRows.trans {s t u : State} (h : OnlyRows s t) (g : OnlyRows t u) : OnlyRows s u := by
  rw [OnlyRows] at *
  rw [g, h]

theorem OnlyRows.foldl {α : Type} {f : State → α → State} (one : ∀ t x, OnlyRows t (f t x)) (l : List α) (s : State) :
    OnlyRows s (l.foldl f s) :=
  foldl_related .refl .trans f one l s

section
variable {s t : State} (h : OnlyRows s t)
include h

theorem OnlyRows.rings : t.rings = s.rings := by rw [h]
theorem OnlyRows.dur : t.dur = s.dur := by rw [h]
theorem OnlyRows.image (i : BitVec 10) : t.image i = s.image i := by rw [h]; rfl

end

theorem readBench_rows (c r src s) : OnlyRows s (readBench c r src s).2 := by
  rw [(readBench_read c r src s).rest]
  rfl

theorem logTier_rows (a kind symbol s) : OnlyRows s (logTier a kind symbol s) := by
  unfold logTier
  split <;> rfl

theorem foundBad_rows (a s) : OnlyRows s (foundBad a s) := by
  have logged : OnlyRows s (logTier a 1 0x3F { s with granuleErrors := s.granuleErrors.set .none a .none }) :=
    OnlyRows.trans (t := { s with granuleErrors := s.granuleErrors.set .none a .none }) rfl (logTier_rows ..)
  simp only [foundBad]
  generalize logTier a 1 0x3F { s with granuleErrors := s.granuleErrors.set .none a .none } = u at *
  split
  · exact logged.trans rfl
  · split
    · exact logged.trans rfl
    · exact logged.trans rfl

theorem readGranule_rows (a s) : OnlyRows s (readGranule a s).2 := by
  unfold readGranule
  split
  · rfl
  · exact logTier_rows ..
  · exact foundBad_rows ..

theorem readGranules_rows : ∀ l s, OnlyRows s (readGranules l s).2
  | [], s => .refl s
  | a :: as, s => (readGranule_rows a s).trans (readGranules_rows as _)

theorem readRowAt_rows (a s) : OnlyRows s (readRowAt a s).2 := by
  unfold readRowAt
  split
  · exact readBench_rows ..
  · exact readGranules_rows ..

theorem setGranules_rows (p) : ∀ l s, OnlyRows s (setGranules p l s)
  | [], s => .refl s
  | a :: as, s => OnlyRows.trans (t := { s with
      poison := Poison.put a p s.poison, granuleErrors := s.granuleErrors.set .none a .none }) rfl (setGranules_rows p as _)

theorem writeRowAt_rows (a data poison s) : OnlyRows s (writeRowAt a data poison s) := by
  unfold writeRowAt
  split
  · rfl
  · exact OnlyRows.trans (t := { s with mem := Memory.writeRow a data s.mem }) rfl (setGranules_rows ..)

/-! ## Allocations that go -/

theorem dropMoves_allocs {f : DevMove → Bool} {s : State} {a : Alloc} (h : a ∈ (dropMoves f s).dur.allocs) :
    a ∈ s.dur.allocs :=
  foldl_related (R := fun s t : State => a ∈ t.dur.allocs → a ∈ s.dur.allocs) (fun _ => id) (fun h g => h ∘ g)
    (fun t m => dropMove m t) (fun t m h => (List.mem_filter.1 h).1) (s.moves.filter f) s h

/-- Only allocations of other kinds stay. -/
theorem mem_dropAlloc {kd : AllocKind} {s : State} {a : Alloc} (h : a ∈ (dropAlloc kd s).dur.allocs) :
    a ∈ s.dur.allocs ∧ a.kind ≠ kd := by
  obtain ⟨there, other⟩ := List.mem_filter.1 h
  exact ⟨dropMoves_allocs there, by simpa using other⟩

theorem findAlloc_of_none {p : Pool} {kd : AllocKind} {s : State} (h : ∀ a ∈ s.dur.allocs, a.kind ≠ kd) :
    findAlloc s p kd = none := by
  rw [findAlloc, List.find?_eq_none]
  intro a ha
  simp [h a ha]

/-! ## Loading -/

theorem storeShard_rows (a x s) : OnlyRows s (storeShard a x s) := .foldl (fun t i => writeRowAt_rows _ _ _ t) _ s

theorem failLoad_spec (h : BitVec 10) (s : State) : OnlyStores s (failLoad h s) ∧ (failLoad h s).image h = Image.reset
    ∧ findAlloc (failLoad h s) .yard (.imageYard h) = none :=
  ⟨(dropAlloc_stores _ s).trans (State.setImage_stores ..), State.setImage_image ..,
    findAlloc_of_none fun a ha => (mem_dropAlloc (s := s) ha).2⟩

/-- One row of a shard read, where the shard has it. -/
def readRowOf (x : Shard) (acc : Bool × State) (i : Nat) : Bool × State :=
  let a := x.addr.toNat + 512 * i
  if i < x.rows then
    let (d, t) := readRowAt a acc.2
    (acc.1 || d.2, t)
  else acc

theorem readRowOf_rows (x acc i) : OnlyRows acc.2 (readRowOf x acc i).2 := by
  unfold readRowOf
  dsimp only
  split
  · exact readRowAt_rows (x.addr.toNat + 512 * i) acc.2
  · exact .refl _

theorem readShard_rows (x rows s) : OnlyRows s (readShard x rows s).2 :=
  foldl_related (R := fun s t : Bool × State => OnlyRows s.2 t.2) (fun s => .refl s.2) .trans (readRowOf x)
    (readRowOf_rows x) rows (false, s)

theorem checkShards_rows (l : List Shard) (n : Nat) (s : State) : OnlyRows s (checkShards n l s).2 := by
  induction l generalizing n s with
  | nil => exact (rfl : OnlyRows s s)
  | cons x rest ih =>
    rw [checkShards_cons]
    dsimp only
    generalize (if (checkHeader fun i => Memory.row (x.addr.toNat + 512 * i) s.mem).isSome then [0]
      else checkedRows fun i => Memory.row (x.addr.toNat + 512 * i) s.mem) = rows
    have read := readShard_rows x rows s
    generalize readShard x rows s = found at read ⊢
    split
    · exact read
    · generalize checkShard _ = bad
      cases bad with
      | some r => exact read
      | none => exact read.trans (ih (n + 1) _)

theorem refuse_with {q : Desc} {r : Refused} {s : State} {e : Entry} (he : entryOf s q.ring q.pos = some e) :
    RefusedWith q r (refuse q r s) := setEntry_entryIs he _

/-- The copies of the shards of a list in a state where the units are granted at `a`. -/
theorem copyShards_bad {q : Desc} {h : BitVec 10} {l : List ShardRead} {a : Nat} {s : State} {r : Refused}
    (soon : ∀ x ∈ l, x.late = false) (bad : firstBadShard l = some r) :
    copyShards q h l a s = refuse q r (failLoad h s) := by
  rw [copyShards, if_neg (by simpa using soon), bad]

theorem copyShards_good {q : Desc} {h : BitVec 10} {l : List ShardRead} {a : Nat} {s : State}
    (soon : ∀ x ∈ l, x.late = false) (good : firstBadShard l = none) (some_ : l ≠ []) :
    copyShards q h l a s = awaits q (((placeShards a l).foldl (fun u x => storeShard x.1 x.2 u) s).setImage h {
      state := .loading
      shards := (placeShards a l).map (fun x => ⟨ListE.shard x.2.entry, BitVec.ofNat 48 x.1, ListE.rows x.2.entry⟩)
      bindings := 0
      deck := false
      rows := listRows l }) := by
  have full : l.isEmpty = false := by simpa using some_
  rw [copyShards, if_neg (by simpa using soon), good, full]
  rfl

/-- The request of a fresh LOAD_IMAGE whose yard units are granted at once. -/
theorem exec_loadImage_granted {q : Desc} {shards : List ShardRead} {s g : State} {a : Nat} (hc : canStart s q = true)
    (ho : Hdr.opcode q.w = 0x01) (first : isQueued s q = false)
    (absent : (s.image (BitVec.ofNat 10 (bits q.w 438 429))).state = .absent)
    (granted : allocate .yard (.imageYard (BitVec.ofNat 10 (bits q.w 438 429))) none
      (ceilDiv (listRows (shards.take (bits q.w 447 439))) 8) false
      (s.setImage (BitVec.ofNat 10 (bits q.w 438 429)) { Image.reset with state := .loading }) = .granted a g) :
    exec (.loadImage q shards) s = .next
      (copyShards q (BitVec.ofNat 10 (bits q.w 438 429)) (shards.take (bits q.w 447 439)) a g) := by
  rw [exec_loadImage, execLoadImage, starts_of_canStart _ hc ho]
  dsimp only
  rw [if_neg (by simp [first]), if_neg (by simp [absent]), askYard, granted]

/-- The check of an image whose shards are in the yard. -/
theorem exec_loadImage_checks {q : Desc} {shards : List ShardRead} {s : State} (hc : canStart s q = true)
    (ho : Hdr.opcode q.w = 0x01) (again : isQueued s q = true) (placed : waitsInPool s q = false)
    (copied : (s.image (BitVec.ofNat 10 (bits q.w 438 429))).shards ≠ []) :
    exec (.loadImage q shards) s = .next (finishLoad q (BitVec.ofNat 10 (bits q.w 438 429)) s) := by
  rw [exec_loadImage, execLoadImage, starts_of_canStart _ hc ho]
  dsimp only
  rw [if_pos again, if_neg (by simp [placed]), if_pos (by simpa using copied)]

/-! ## Unloading -/

theorem exec_unloadImage_of {q : Desc} {s : State} (hc : canStart s q = true) (ho : Hdr.opcode q.w = 0x02) :
    exec (.unloadImage q) s = .next (finish q Status.ok (
      let h := BitVec.ofNat 10 (bits q.w 511 502)
      if (s.image h).state = .ready then
        if (s.image h).bindings = 0 then dropImage h s
        else (dropAlloc (.imageYard h) s).setImage h { s.image h with state := .unloading, shards := [] }
      else s)) := by
  rw [exec_unloadImage, execUnloadImage, starts_of_canStart _ hc ho]
  dsimp only
  cases (s.image (BitVec.ofNat 10 (bits q.w 511 502))).state with
  | ready =>
    rw [if_pos rfl]
    dsimp only
    split <;> rfl
  | _ => rfl

theorem mem_dropImage {h : BitVec 10} {s : State} {a : Alloc} (ha : a ∈ (dropImage h s).dur.allocs) :
    a.kind ≠ .imageYard h ∧ a.kind ≠ .imageDeck h := by
  obtain ⟨there, deck⟩ := mem_dropAlloc (s := dropAlloc (.imageYard h) s) ha
  exact ⟨(mem_dropAlloc there).2, deck⟩

theorem dropAlloc_image (kd : AllocKind) (s : State) (j : BitVec 10) : (dropAlloc kd s).image j = s.image j := by
  rw [State.image, dropAlloc_onlyPools kd s]
  rfl

theorem dropImage_image_other {h j : BitVec 10} (s : State) (ne : j ≠ h) : (dropImage h s).image j = s.image j := by
  rw [dropImage, State.setImage_image_other _ _ _ _ ne, dropAlloc_image, dropAlloc_image]

/-- Settles O33. -/
theorem imagesLoadAndUnload : Obligations.ImagesLoadAndUnload := by
  unfold Obligations.ImagesLoadAndUnload
  intro q shards s hc
  obtain ⟨e, he, -⟩ := canStart_entry hc
  refine ⟨fun ho => ?_, fun ho => ?_⟩
  · intro h l asked gone
    refine ⟨fun first taken => ?_, fun first absent soon a g granted => ?_, fun again placed copied => ⟨fun u ok => ?_,
      fun r u bad => ?_⟩⟩
    · refine ⟨refuse q handleTaken s, ?_, rfl, refuse_with he⟩
      rw [exec_loadImage, execLoadImage, starts_of_canStart _ hc ho]
      exact congrArg Host.Outcome.next ((if_neg (by simp [first])).trans (if_pos taken))
    · have run := exec_loadImage_granted hc ho first absent granted
      have rings : g.rings = s.rings := (allocate_granted granted).rings
      intro placed
      refine ⟨fun r bad => ?_, fun good some_ => ?_⟩
      · obtain ⟨stores, image, alloc⟩ := failLoad_spec h g
        rw [copyShards_bad soon bad] at run
        have he' := (entryOf_of_rings (stores.rings.trans rings) q.ring q.pos).trans he
        exact ⟨_, run, refuse_with he', ⟨image, alloc⟩, (congrArg State.mem stores).trans rfl⟩
      · rw [copyShards_good soon good some_] at run
        have stored : OnlyRows g (placed.foldl (fun u (x : Nat × ShardRead) => storeShard x.1 x.2 u) g) :=
          .foldl (fun u (x : Nat × ShardRead) => storeShard_rows x.1 x.2 u) _ g
        have he' := (entryOf_of_rings (stored.rings.trans rings) q.ring q.pos).trans he
        have image := State.setImage_image (placed.foldl (fun u (x : Nat × ShardRead) => storeShard x.1 x.2 u) g) h {
          state := .loading
          shards := placed.map (fun x => ⟨ListE.shard x.2.entry, BitVec.ofNat 48 x.1, ListE.rows x.2.entry⟩)
          bindings := 0
          deck := false
          rows := listRows l }
        exact ⟨_, run, setEntry_entryIs he' _, rfl, congrArg Image.state image, congrArg Image.bindings image,
          congrArg Image.rows image, congrArg Image.shards image⟩
    · have run := exec_loadImage_checks (shards := shards) hc ho again placed copied
      have rows := checkShards_rows (s.image h).shards 0 s
      rw [finishLoad, ok] at run
      rw [ok] at rows
      exact ⟨_, run, finish_ends (u := u.setImage h { u.image h with state := .ready }) hc rows.rings _, rfl,
        State.setImage_image ..⟩
    · have run := exec_loadImage_checks (shards := shards) hc ho again placed copied
      have rows := checkShards_rows (s.image h).shards 0 s
      rw [finishLoad, bad] at run
      rw [bad] at rows
      obtain ⟨stores, image, alloc⟩ := failLoad_spec h u
      have he' := (entryOf_of_rings (stores.rings.trans rows.rings) q.ring q.pos).trans he
      exact ⟨_, run, refuse_with he', ⟨image, alloc⟩, (congrArg State.mem stores).trans rfl⟩
  · intro h
    refine ⟨_, exec_unloadImage_of hc ho, ?_⟩
    dsimp only
    split
    next ready =>
      split
      next free =>
        have stores := dropImage_stores h s
        refine ⟨finish_ends hc stores.rings _, ?_, ?_, fun j ne => dropImage_image_other s ne, fun _ _ =>
          ⟨State.setImage_image .., fun a ha => mem_dropImage ha⟩, fun _ used => absurd free used, fun busy => absurd ready busy⟩
        · rw [stores]
          rfl
        · rw [stores]
          rfl
      next used =>
        have stores := (dropAlloc_stores (.imageYard h) s).trans
          (State.setImage_stores _ h { s.image h with state := .unloading, shards := [] })
        refine ⟨finish_ends hc stores.rings _, ?_, ?_, fun j ne => ?_, fun _ free => absurd free used, fun _ _ =>
          ⟨State.setImage_image .., fun a ha => (mem_dropAlloc (s := s) ha).2⟩, fun busy => absurd ready busy⟩
        · rw [stores]
          rfl
        · rw [stores]
          rfl
        · exact (State.setImage_image_other _ _ _ _ ne).trans (dropAlloc_image ..)
    next busy =>
      exact ⟨finish_ends hc rfl _, rfl, rfl, fun _ _ => rfl, fun ready => absurd ready busy, fun ready => absurd ready busy,
        fun _ => rfl⟩

end Sys2Proof.Machine
end

section
/-! PROOFS. What the stream network and the end of a step may change (R124, R142, R333, R349). -/

namespace Sys2Proof.Machine

/-- Of a coupe's run, only its queues, its feeds under way, its open step and the time of its last crossing differ. -/
def OnlyStream (r r' : CoupeRun) : Prop :=
  r' = { r with queues := r'.queues, feedPlans := r'.feedPlans, openStep := r'.openStep, lastCross := r'.lastCross }

/-- What identifies a step, and what it has routed: neither the network nor the end of a step changes it. -/
def Step.mark (st : Step) : (RingId × BitVec 32 × BitVec 512) × (BitVec 48 × Nat)
    × (Option Nat × List (Nat × Nat × List Nat) × List Nat) × (Bool × Bool × List Report) :=
  ((st.ring, st.pos, st.w), (st.number, st.attempt), (st.bucket, st.routing, st.routed), (st.replayable, st.poppedForeign, st.reports))

/-- What the stream network moves: packets, queues and the open steps' records. -/
structure Streams (s t : State) : Prop where
  rest : t = { s with
    runs := t.runs
    links := t.links
    sent := t.sent
    events := t.events
    injected := t.injected
    reductions := t.reductions
    leaseHits := t.leaseHits }
  run : ∀ k, OnlyStream (s.run k) (t.run k)
  mark : ∀ k, (t.run k).openStep.map Step.mark = (s.run k).openStep.map Step.mark

theorem Streams.refl (s : State) : Streams s s := ⟨rfl, fun _ => rfl, fun _ => rfl⟩

theorem Streams.trans {s t u : State} (h : Streams s t) (g : Streams t u) : Streams s u := by
  refine ⟨?_, fun k => ?_, fun k => (g.mark k).trans (h.mark k)⟩
  · rw [g.rest, h.rest]
  · have first := h.run k
    have second := g.run k
    rw [OnlyStream] at *
    rw [second, first]

theorem Streams.foldl {α : Type} {f : State → α → State} (one : ∀ t x, Streams t (f t x)) (l : List α) (s : State) :
    Streams s (l.foldl f s) :=
  foldl_related .refl .trans f one l s

/-- A change that touches no run. -/
theorem Streams.of_runs {s t : State} (rest : t = { s with
    links := t.links
    sent := t.sent
    events := t.events
    injected := t.injected
    reductions := t.reductions
    leaseHits := t.leaseHits }) : Streams s t := by
  have run (k : CoupeId) : t.run k = s.run k := by rw [rest]; rfl
  exact ⟨by rw [rest], fun k => by rw [run k]; rfl, fun k => by rw [run k]⟩

theorem State.setRun_streams {s : State} {k : CoupeId} {r : CoupeRun} (h : OnlyStream (s.run k) r)
    (isOpen : r.openStep.map Step.mark = (s.run k).openStep.map Step.mark) : Streams s (s.setRun k r) := by
  refine ⟨rfl, fun j => ?_, fun j => ?_⟩
  · by_cases same : j = k
    · rw [same, State.setRun_run]
      exact h
    · rw [State.setRun_run_other _ _ _ _ same]
      rfl
  · by_cases same : j = k
    · rw [same, State.setRun_run]
      exact isOpen
    · rw [State.setRun_run_other _ _ _ _ same]

theorem inject_streams (s) : Streams s (inject s) := .of_runs rfl
theorem raise0_streams (kind value s) : Streams s (raise0 kind value s) := .of_runs rfl
theorem setQueue_streams (s k h q) : Streams s (State.setQueue s k h q) := State.setRun_streams rfl rfl

theorem enterQueue_streams (k h q it s) : Streams s (enterQueue k h q it s) :=
  (inject_streams s).trans (setQueue_streams ..)

theorem transmit_streams (l vc header p s) : Streams s (transmit l vc header p s) := .of_runs rfl

theorem sendTo_streams (dst odd header p s) : Streams s (sendTo dst odd header p s) := by
  unfold sendTo
  split
  · exact transmit_streams ..
  · exact raise0_streams ..

theorem sendRouted_streams (k dst odd header p s) : Streams s (sendRouted k dst odd header p s) := by
  simp only [sendRouted]
  split
  · exact sendTo_streams ..
  · split
    · exact sendTo_streams ..
    · exact raise0_streams ..
    · split
      · exact transmit_streams ..
      · exact .refl s

theorem sendMember_streams (k m ptype channel poison len ord p s) :
    Streams s (sendMember k m ptype channel poison len ord p s) := by
  simp only [sendMember]
  split
  · exact .refl s
  · exact sendRouted_streams ..

theorem sendAllMembers_streams (k ptype len p s) : Streams s (sendAllMembers k ptype len p s) :=
  .foldl (fun t m => sendMember_streams k m ptype 0 false len 0 p t) _ s

theorem creditPart_streams (k h m s) : Streams s (creditPart k h m s) := by
  simp only [creditPart]
  split
  · split
    · exact .refl s
    · exact setQueue_streams ..
  · exact sendMember_streams ..

theorem contribute_streams (k h m ord data poison s) : Streams s (contribute k h m ord data poison s) := by
  simp only [contribute]
  split
  · exact .of_runs rfl
  · refine .trans ?_ (.foldl (fun t (p : Nat × Row × Bool) => creditPart_streams k h p.1 t) _ _)
    split
    · exact .of_runs rfl
    · exact .trans (.of_runs rfl) (enterQueue_streams ..)

theorem sendItem_streams {k h q it} {s t : State} (e : sendItem k h q it s = some t) : Streams s t := by
  simp only [sendItem] at e
  split_ifs at e
  · exact Option.some.inj e ▸ enterQueue_streams ..
  · exact Option.some.inj e ▸ enterQueue_streams ..
  · exact Option.some.inj e ▸ .refl s
  · exact Option.some.inj e ▸ (setQueue_streams ..).trans (contribute_streams ..)
  · exact Option.some.inj e ▸ (setQueue_streams ..).trans (sendMember_streams ..)
  · exact Option.some.inj e ▸ (setQueue_streams ..).trans (sendMember_streams ..)

theorem sendMark_streams {k h m} {s t : State} (e : sendMark k h m s = some t) : Streams s t := by
  rw [sendMark] at e
  split at e
  · exact Option.some.inj e ▸ .refl s
  · exact sendItem_streams e

theorem setStep_streams {k st} {s : State} (isOpen : (s.run k).openStep.map Step.mark = some st.mark) :
    Streams s (setStep k st s) :=
  State.setRun_streams rfl isOpen.symm

theorem sendOutcome_streams (k status s) : Streams s (sendOutcome k status s) := by
  simp only [sendOutcome]
  split
  · exact .refl s
  next st isOpen =>
    have sent := sendAllMembers_streams k 3
      (8 + st.reqs.length + (if (digestOf s k).isSome then 8 else 0)) (.outcome ⟨(s.coupe k).sIndex, StepD.xtag st.w,
        BitVec.ofNat 2 st.attempt, BitVec.ofNat 7 (StepD.nreq st.w), status, st.reqs.map st.final, digestOf s k,
        (s.coupe k).sCount⟩) s
    refine (sent.trans (setStep_streams ?_)).trans (State.setRun_streams rfl rfl)
    rw [sent.mark, isOpen]
    rfl

theorem endStep_streams (k status detail dkind s) : Streams s (endStep k status detail dkind s) := by
  simp only [endStep]
  split
  · exact .refl s
  next st isOpen =>
    have noted (x : Step) (same : x.mark = st.mark) : Streams s (setStep k x s) := setStep_streams (by rw [isOpen, same]; rfl)
    split
    · exact .refl s
    · split
      · refine .trans ?_ (sendOutcome_streams ..)
        exact noted _ rfl
      · exact noted _ rfl

theorem triggerReplay_streams (k status detail dkind s) : Streams s (triggerReplay k status detail dkind s) := by
  simp only [triggerReplay]
  split
  · exact .refl s
  next st isOpen =>
    have noted (x : Step) (same : x.mark = st.mark) : Streams s (setStep k x s) := setStep_streams (by rw [isOpen, same]; rfl)
    split_ifs
    · exact .refl s
    · refine .trans ?_ (sendOutcome_streams ..)
      exact noted _ rfl
    · exact noted _ rfl
    · exact endStep_streams ..

theorem settleHits_streams (k s) : Streams s (settleHits k s) := by
  unfold settleHits
  split
  · exact .of_runs rfl
  · exact .refl s

theorem replayLeases_streams (k s) : Streams s (replayLeases k s) := by
  have settled := settleHits_streams k s
  simp only [replayLeases]
  split
  · split
    next st isOpen =>
      split
      · exact settled.trans (setStep_streams (by rw [isOpen]; rfl))
      · exact settled
    next => exact settled
  · exact .refl s

theorem checkBoundary_streams (k s) : Streams s (checkBoundary k s) := by
  have leases := replayLeases_streams k s
  simp only [checkBoundary]
  split
  · exact leases
  · split_ifs
    · exact leases
    · exact leases.trans (sendOutcome_streams ..)
    · exact leases
    · exact leases.trans (endStep_streams ..)

theorem eraseFeed_streams (k f) (s : State) :
    Streams s (s.setRun k { s.run k with feedPlans := (s.run k).feedPlans.erase f }) := State.setRun_streams rfl rfl

theorem feedMarks_streams (k h s) : Streams s (feedMarks k h s) :=
  .foldl (fun t f => by
    dsimp only
    split
    · exact .refl t
    · split
      · exact .refl t
      next u e =>
        exact ((sendMark_streams e).trans (eraseFeed_streams k f u)).trans (checkBoundary_streams ..)) _ s

section
variable {s t : State} (h : Streams s t)
include h

theorem Streams.mem : t.mem = s.mem := by rw [h.rest]
theorem Streams.dur : t.dur = s.dur := by rw [h.rest]
theorem Streams.cores : t.cores = s.cores := by rw [h.rest]
theorem Streams.rings : t.rings = s.rings := by rw [h.rest]
theorem Streams.coupe (k : CoupeId) : t.coupe k = s.coupe k := by rw [h.rest]; rfl

end

end Sys2Proof.Machine
end

section
/-! PROOFS. BIND, DRAIN and the end of a drain (R144, R154, R155, R199, R285). -/

namespace Sys2Proof.Machine

/-! ## Staging and saving change rows only -/

theorem readLease_rows (a s) : OnlyRows s (readLease a s).2 := by
  unfold readLease
  split
  · exact (readRowAt_rows a s).trans (readRowAt_rows a _)
  · exact readRowAt_rows a s

theorem writeBench_rows (c r data poison s) : OnlyRows s (writeBench c r data poison s) := rfl

theorem stageRun_rows (runs r s) : OnlyRows s (stageRun runs r s) :=
  .foldl (fun t i => (readLease_rows _ t).trans (writeBench_rows ..)) _ s

theorem stageTile_rows (cfg runs l s) : OnlyRows s (stageTile cfg runs l s) :=
  .foldl (fun t e => by
    dsimp only
    split
    · exact (readLease_rows _ t).trans (writeBench_rows ..)
    · exact writeBench_rows ..) _ s

theorem stageFrom_rows (runs cfg s) : OnlyRows s (stageFrom runs cfg s) :=
  (OnlyRows.foldl (fun t r => stageRun_rows runs r t) _ s).trans (.foldl (fun t l => stageTile_rows cfg runs l t) _ _)

theorem copyRange_rows (src dst n s) : OnlyRows s (copyRange src dst n s) := by
  have read := OnlyRows.foldl (fun t a => readGranule_rows a t)
    ((s.granuleErrors.filter (fun e => src ≤ e.1 && e.1 < src + n)).map (·.1)) s
  simp only [copyRange]
  generalize ((s.granuleErrors.filter (fun e => src ≤ e.1 && e.1 < src + n)).map (·.1)).foldl
    (fun t a => (readGranule a t).2) s = u at read ⊢
  exact read.trans rfl

theorem fillCopy_rows (h n s) : OnlyRows s (fillCopy h n s) := by
  simp only [fillCopy]
  split
  · exact .refl s
  · exact .foldl (fun t u => copyRange_rows _ _ _ t) _ s

theorem moveRowError_rows (c a s) : OnlyRows s (moveRowError c a s) := by
  have read := readBench_rows c ((a - benchAddr c 0) / 512) 2 s
  simp only [moveRowError]
  generalize (readBench c ((a - benchAddr c 0) / 512) 2 s).2 = u at read ⊢
  exact read.trans rfl

theorem saveRows_rows (c n s) : OnlyRows s (saveRows c n s).2 := .foldl (fun t a => moveRowError_rows c a t) _ s

theorem saveJobCores_rows (cfg) (l : List CoreId) (s : State) : OnlyRows s (saveJobCores cfg l s).2 := by
  induction l generalizing s with
  | nil => exact (rfl : OnlyRows s s)
  | cons c l ih => exact (saveRows_rows c _ s).trans (ih _)

theorem saveJobStands_rows (k cfg) (l : List StandId) (s : State) : OnlyRows s (saveJobStands k cfg l s).2 := by
  induction l generalizing s with
  | nil => exact (rfl : OnlyRows s s)
  | cons g l ih =>
    rw [saveJobStands]
    exact (saveJobCores_rows cfg _ s).trans (ih _)

theorem saveJob_rings (k s) : (saveJob k s).rings = s.rings := by
  simp only [saveJob]
  split
  · rfl
  next cfg _ =>
    have rows := saveJobStands_rows k cfg (s.coupe k).standList s
    generalize saveJobStands k cfg (s.coupe k).standList s = u at rows ⊢
    exact rows.rings

/-! ## Attachment -/

theorem deckReady_rings (h s) : (deckReady h s).rings = s.rings := by
  simp only [deckReady]
  split
  · rfl
  · exact (fillCopy_rows ..).rings

/-- What attachment has staged before the coupe's record changes. -/
def staged (q : Desc) (cfg : Config) (s : State) : State :=
  let k := BindD.coupe q.w
  let s1 := if (s.coupe k).tshare && (s.coupe k).curJob.toNat ≠ BindD.job q.w then saveJob k s else s
  stageConfig cfg ((coupeCores s1 k).foldl (fun t c => closeWindows c t) s1)

theorem staged_rings (q : Desc) (cfg : Config) (s : State) : (staged q cfg s).rings = s.rings := by
  have saved : (if (s.coupe (BindD.coupe q.w)).tshare && (s.coupe (BindD.coupe q.w)).curJob.toNat ≠ BindD.job q.w
      then saveJob (BindD.coupe q.w) s else s).rings = s.rings := by
    split
    · exact saveJob_rings ..
    · rfl
  simp only [staged, stageConfig]
  generalize (if (s.coupe (BindD.coupe q.w)).tshare && (s.coupe (BindD.coupe q.w)).curJob.toNat ≠ BindD.job q.w
      then saveJob (BindD.coupe q.w) s else s) = u at saved ⊢
  have closed := OnlyRows.foldl (f := fun t c => closeWindows c t) (fun _ _ => rfl) (coupeCores u (BindD.coupe q.w)) u
  exact ((stageFrom_rows ..).rings.trans closed.rings).trans saved

/-- The coupe's record once it is bound. -/
def boundAs (q : Desc) (cfg : Config) (x : Coupe) : Coupe :=
  { x with
    state := .bound
    curJob := BitVec.ofNat 3 (BindD.job q.w)
    bindings := x.bindings.set none (BindD.job q.w) (some cfg)
    totals := Totals.zero
    firstSpanStep := true }

/-- Its run. -/
def boundRun (q : Desc) (cfg : Config) (r : CoupeRun) : CoupeRun :=
  { r with
    action := .none
    heldFrom := none
    queues := freshQueues cfg
    shown := (freshQueues cfg).filterMap (fun e => e.2.map (fun q => (e.1, q)))
    barriers := []
    spanEpoch := 0
    spanAdvanced := false
    flushed := []
    earlyBundles := []
    xtagsDone := []
    feeds := []
    feedPlans := []
    jobSaved := r.jobSaved.set none (BindD.job q.w) none
    turn := 0 }

/-- The coupe attached, before its descriptor is finished. -/
def attached (q : Desc) (cfg : Config) (s : State) : State :=
  let k := BindD.coupe q.w
  let s3 := staged q cfg s
  let s4 := s3.setImage cfg.image { s3.image cfg.image with bindings := (s3.image cfg.image).bindings + 1 }
  let s5 := s4.setCoupe k (boundAs q cfg (s4.coupe k))
  dueAnnounce (s5.setRun k (boundRun q cfg (s5.run k)))

theorem attach_eq (q : Desc) (cfg : Config) (s : State) : attach q cfg s = finish q Status.ok (attached q cfg s) := rfl

theorem dueAnnounce_records (k : CoupeId) (x : Coupe) (r : CoupeRun) (u : State) :
    let t := dueAnnounce ((u.setCoupe k x).setRun k r)
    t.rings = u.rings ∧ t.coupe k = x ∧ t.run k = r := by
  intro t
  have rest := dueAnnounce_rest ((u.setCoupe k x).setRun k r)
  have coupe : t.coupe k = ((u.setCoupe k x).setRun k r).coupe k := (congrArg (fun u => State.coupe u k) rest).trans rfl
  have run : t.run k = ((u.setCoupe k x).setRun k r).run k := (congrArg (fun u => State.run u k) rest).trans rfl
  exact ⟨(congrArg State.rings rest).trans rfl, by rw [coupe, State.setRun_coupe, State.setCoupe_coupe],
    by rw [run, State.setRun_run]⟩

theorem attached_spec (q : Desc) (cfg : Config) (s : State) :
    (attached q cfg s).rings = s.rings
      ∧ (∃ x, (attached q cfg s).coupe (BindD.coupe q.w) = boundAs q cfg x)
      ∧ ∃ r, (attached q cfg s).run (BindD.coupe q.w) = boundRun q cfg r := by
  obtain ⟨rings, coupe, run⟩ := dueAnnounce_records (BindD.coupe q.w) _ _ _
  exact ⟨rings.trans (staged_rings q cfg s), ⟨_, coupe⟩, ⟨_, run⟩⟩

/-! ## The commands -/

theorem bindFails_with {q : Desc} {r : Refused} {s : State} {e : Entry} (he : entryOf s q.ring q.pos = some e) :
    RefusedWith q r (bindFails q r s) ∧ (bindFails q r s).mem = s.mem ∧ (bindFails q r s).cores = s.cores :=
  ⟨refuse_with he, rfl, rfl⟩

/-- BIND on a drained coupe that has nothing under way makes its checks. -/
theorem exec_bind_checks {q : Desc} {s : State} (hc : canStart s q = true) (ho : Hdr.opcode q.w = 0x03)
    (job : BindD.job q.w ≤ (s.coupe (BindD.coupe q.w)).jobs.toNat) (calm : (s.run (BindD.coupe q.w)).action = .none)
    (idle : (s.coupe (BindD.coupe q.w)).state = .idle) : exec (.bind q) s = .next (bindChecks q s) := by
  rw [exec_bind, execBind, starts_of_canStart _ hc ho]
  dsimp only
  rw [if_neg (by omega), idle, calm]
  dsimp only
  rw [if_pos (by simp), bindNow, calm, if_neg (by simp)]

theorem takeFloor_rings (q cfg s) : (takeFloor q cfg s).rings = s.rings := by
  have stores := dropAlloc_stores (.jobSave (BindD.coupe q.w) (BitVec.ofNat 3 (BindD.job q.w))) s
  simp only [takeFloor]
  exact stores.rings

theorem unbindJob_rest (k : CoupeId) (j : Nat) (s : State) :
    ((unbindJob k j s).coupe k).state = (s.coupe k).state
      ∧ ((unbindJob k j s).coupe k).bindings.get none j = none
      ∧ ∀ i, i ≠ j → (s.coupe k).bindings.get none i = none → ((unbindJob k j s).coupe k).bindings.get none i = none := by
  simp only [unbindJob]
  split
  next none_ => exact ⟨rfl, none_, fun _ _ h => h⟩
  next cfg _ =>
    have same := (unbindImage_stores cfg.image s).coupe k
    rw [State.setCoupe_coupe, same]
    exact ⟨rfl, Sparse.get_set_same .., fun i ne h => (Sparse.get_set_other _ _ _ _ _ ne).trans h⟩

theorem unbindAll_spec (k : CoupeId) (s : State) : ((unbindAll k s).coupe k).state = (s.coupe k).state
    ∧ ∀ j, j < 8 → ((unbindAll k s).coupe k).bindings.get none j = none := by
  have state := foldl_related (R := fun s t : State => (t.coupe k).state = (s.coupe k).state) (fun _ => rfl)
    (fun h g => g.trans h) (fun t j => unbindJob k j t) (fun t j => (unbindJob_rest k j t).1) (List.range 8) s
  have none_ (j : Nat) (hj : j < 8) := foldl_reaches_with (I := fun _ => True)
    (P := fun j t => (State.coupe t k).bindings.get none j = none) (fun t j => unbindJob k j t) (fun _ _ _ => trivial)
    (fun t j _ => (unbindJob_rest k j t).2.1) (fun t i j ne h => (unbindJob_rest k i t).2.2 j (Ne.symm ne) h)
    (List.range 8) s j trivial (.inl (List.mem_range.2 hj))
  simp only [unbindAll]
  generalize (List.range 8).foldl (fun t j => unbindJob k j t) s = u at state none_ ⊢
  exact ⟨state, none_⟩

theorem pushEnds_streams (k s) : ((pushEnds k s).run k).ended = true ∧ (pushEnds k s).coupe k = s.coupe k
    ∧ (pushEnds k s).mem = s.mem := by
  have marks := Streams.foldl (fun t h => feedMarks_streams k h t) (persistentQueues s k) (s.setRun k { s.run k with
    ended := true, feedPlans := (s.run k).feedPlans ++ (persistentQueues s k).map (fun h => ⟨h, none, some .endOfStream⟩) })
  have ended := congrArg CoupeRun.ended (marks.run k)
  rw [State.setRun_run] at ended
  exact ⟨ended, marks.coupe k, marks.mem⟩

/-- The end of a DRAIN: the coupe without its bindings, and its descriptor to be finished. -/
def unboundDrained (k : CoupeId) (s : State) : State :=
  let s2 := unbindAll k (drained k s)
  s2.setRun k { s2.run k with action := .none, jobSaved := [] }

theorem drained_spec (k : CoupeId) (s : State) : ((drained k s).coupe k).state = .idle ∧ (drained k s).rings = s.rings
    ∧ (drained k s).mem = s.mem ∧ (drained k s).cores = s.cores := by
  refine ⟨?_, rfl, rfl, rfl⟩
  unfold drained
  dsimp only
  rw [State.setRun_coupe, State.setCoupe_coupe]

theorem unboundDrained_spec (k : CoupeId) (s : State) : let t := unboundDrained k s
    (t.coupe k).state = .idle ∧ (t.run k).action = .none ∧ (∀ j, j < 8 → (t.coupe k).bindings.get none j = none)
      ∧ t.rings = s.rings ∧ t.mem = s.mem ∧ t.cores = s.cores := by
  obtain ⟨state, bindings⟩ := unbindAll_spec k (drained k s)
  have rest := unbindAll_bindings k (drained k s)
  obtain ⟨idle, rings, mem, cores⟩ := drained_spec k s
  simp only [unboundDrained]
  generalize unbindAll k (drained k s) = u at *
  generalize drained k s = v at *
  refine ⟨?_, congrArg CoupeRun.action (State.setRun_run ..), fun j hj => ?_, ?_, ?_, ?_⟩
  · rw [State.setRun_coupe, state, idle]
  · rw [State.setRun_coupe, bindings j hj]
  · exact rest.rings.trans rings
  · exact rest.mem.trans mem
  · exact rest.cores.trans cores

theorem bindChecks_image {q : Desc} {s : State} {r : Refused} (bad : checkBindImage s q = some r) :
    bindChecks q s = bindFails q r s := by
  rw [bindChecks, bad]

theorem bindChecks_full {q : Desc} {s : State} (image : checkBindImage s q = none) (stands : checkBindStands s q = none)
    (alone : copyPending q s = false) (full : deckHolds q (bindCfg q s) s = false) :
    bindChecks q s = bindFails q (bindRefusal q Reason.deck 0) s := by
  rw [bindChecks, image]
  dsimp only
  rw [stands]
  dsimp only
  rw [if_neg (by simp [alone]), if_pos (by simp [full])]

theorem bindChecks_goes {q : Desc} {s : State} (image : checkBindImage s q = none) (stands : checkBindStands s q = none)
    (alone : copyPending q s = false) (room : deckHolds q (bindCfg q s) s = true)
    (rest : checkBindRest s q (bindCfg q s) = none) :
    bindChecks q s = bindGoes q (bindParts q (bindCfg q s) (takeFloor q (bindCfg q s) s)) (takeFloor q (bindCfg q s) s) := by
  rw [bindChecks, image]
  dsimp only
  rw [stands]
  dsimp only
  rw [if_neg (by simp [alone]), if_neg (by simp [room]), rest]

/-- A BIND whose units are granted at once is attached. -/
theorem bindGoes_granted {q : Desc} {runs : List (AllocKind × Nat)} {s u : State} {a : Nat} (hc : canStart s q = true)
    {held : State} (rings : held.rings = s.rings)
    (granted : placeRuns .deck (some (BindD.coupe q.w)) 0 runs held = .granted a u) :
    let t := bindGoes q runs held
    EndsWith q Status.ok t ∧ (t.coupe (BindD.coupe q.w)).state = .bound
      ∧ (t.coupe (BindD.coupe q.w)).curJob = BitVec.ofNat 3 (BindD.job q.w)
      ∧ (t.coupe (BindD.coupe q.w)).bindings.get none (BindD.job q.w) = some (bindCfg q u)
      ∧ (t.run (BindD.coupe q.w)).queues = freshQueues (bindCfg q u) ∧ (t.run (BindD.coupe q.w)).barriers = [] := by
  have placed := placeRuns_stores .deck (some (BindD.coupe q.w)) runs 0 held
  rw [granted] at placed
  have goes : bindGoes q runs held
      = finish q Status.ok (attached q (bindCfg q u) (deckReady (bindCfg q u).image u)) := by
    rw [← attach_eq, bindGoes, granted]
  obtain ⟨kept, ⟨x, coupe⟩, ⟨r, run⟩⟩ := attached_spec q (bindCfg q u) (deckReady (bindCfg q u).image u)
  have same := (kept.trans (deckReady_rings ..)).trans ((OnlyStores.rings placed).trans rings)
  rw [goes]
  generalize attached q (bindCfg q u) (deckReady (bindCfg q u).image u) = v at *
  refine ⟨finish_ends hc same _, ?_⟩
  change (v.coupe _).state = _ ∧ (v.coupe _).curJob = _ ∧ (v.coupe _).bindings.get none _ = _ ∧ (v.run _).queues = _
    ∧ (v.run _).barriers = _
  rw [coupe, run]
  exact ⟨rfl, rfl, Sparse.get_set_same .., rfl, rfl⟩

/-- One whose units are not free yet waits for them. -/
theorem bindGoes_waits {q : Desc} {runs : List (AllocKind × Nat)} {s u : State} (hc : canStart s q = true)
    {held : State} (rings : held.rings = s.rings)
    (waits : placeRuns .deck (some (BindD.coupe q.w)) 0 runs held = .waits u) :
    let t := bindGoes q runs held
    EntryIs q .queued t ∧ (t.run (BindD.coupe q.w)).action = .bindUnits q ∧ t.mem = u.mem := by
  have placed := placeRuns_stores .deck (some (BindD.coupe q.w)) runs 0 held
  rw [waits] at placed
  obtain ⟨e, he, -⟩ := canStart_entry hc
  have he' := (entryOf_of_rings ((OnlyStores.rings placed).trans rings) q.ring q.pos).trans he
  rw [bindGoes, waits]
  exact ⟨setEntry_entryIs (s := u.setRun _ _) he' _, congrArg CoupeRun.action (State.setRun_run ..), rfl⟩

/-- A coupe with a configuration starts its drain, and the descriptor's entry is as given. -/
theorem startDrain_entry {q : Desc} {s : State} (hc : canStart s q = true) (k : CoupeId) (act : CoupeAction) (st : EntryState) :
    let t := setEntry q.ring q.pos st (startDrain k act s)
    EntryIs q st t ∧ (t.coupe k).state = .draining ∧ (t.run k).action = act ∧ t.mem = s.mem ∧ t.cores = s.cores := by
  obtain ⟨e, he, -⟩ := canStart_entry hc
  obtain ⟨draining, action⟩ := startDrain_spec k act s
  exact ⟨setEntry_entryIs (s := startDrain k act s) he _, draining, action, rfl, rfl⟩

theorem exec_bind_drains {q : Desc} {s : State} (hc : canStart s q = true) (ho : Hdr.opcode q.w = 0x03)
    (job : BindD.job q.w ≤ (s.coupe (BindD.coupe q.w)).jobs.toNat) (calm : (s.run (BindD.coupe q.w)).action = .none)
    (bound : (s.coupe (BindD.coupe q.w)).state = .bound) :
    exec (.bind q) s = .next (awaits q (startDrain (BindD.coupe q.w) (.bind q) s)) := by
  rw [exec_bind, execBind, starts_of_canStart _ hc ho]
  dsimp only
  rw [if_neg (by omega), bound, calm]
  rfl

theorem exec_drain_of {q : Desc} {s : State} (hc : canStart s q = true) (ho : Hdr.opcode q.w = 0x04)
    (calm : (s.run (CoupeD.coupe q.w)).action = .none) :
    ((s.coupe (CoupeD.coupe q.w)).state = .idle → exec (.drain q) s = .next (finish q Status.ok s))
      ∧ ((s.coupe (CoupeD.coupe q.w)).state = .bound → exec (.drain q) s
        = .next (setEntry q.ring q.pos .started (startDrain (CoupeD.coupe q.w) (.drain q.ring q.pos) s))) := by
  rw [exec_drain, execDrain, starts_of_canStart _ hc ho]
  dsimp only
  refine ⟨fun idle => ?_, fun bound => ?_⟩
  · rw [idle, calm]
    rfl
  · rw [bound, calm]
    rfl

theorem exec_coupeDrained_unbinds {k : CoupeId} {ring : RingId} {pos : BitVec 32} {s : State}
    (done : coupeIsDrained s k = true) (act : (s.run k).action = .drain ring pos) :
    exec (.coupeDrained k) s = .next (finishAt ring pos Status.ok 0 0 0 (unboundDrained k s)) := by
  rw [exec_coupeDrained, execCoupeDrained, if_pos done]
  dsimp only
  rw [act]
  rfl

/-- Settles O34. -/
theorem bindAndDrain : Obligations.BindAndDrain := by
  unfold Obligations.BindAndDrain
  refine ⟨fun q s hc ho => ?_, fun q s hc ho => ?_, fun k s idle open' => ?_, fun k ring pos e s done act he => ?_⟩
  · intro k cfg job calm
    obtain ⟨e, he, -⟩ := canStart_entry hc
    have run (idle : (s.coupe k).state = .idle) := exec_bind_checks hc ho job calm idle
    refine ⟨fun idle r bad => ?_, fun idle image stands alone => ⟨fun full => ?_, fun room rest => ?_⟩, fun bound => ?_⟩
    · exact ⟨_, (run idle).trans (congrArg _ (bindChecks_image bad)), bindFails_with he⟩
    · exact ⟨_, (run idle).trans (congrArg _ (bindChecks_full image stands alone full)), bindFails_with he⟩
    · intro held
      have goes := (run idle).trans (congrArg _ (bindChecks_goes image stands alone room rest))
      exact ⟨fun a u granted => ⟨_, goes, bindGoes_granted hc (takeFloor_rings ..) granted⟩,
        fun u waits => ⟨_, goes, bindGoes_waits hc (takeFloor_rings ..) waits⟩⟩
    · exact ⟨_, exec_bind_drains hc ho job calm bound, startDrain_entry hc _ _ _⟩
  · intro k calm
    obtain ⟨idles, drains⟩ := exec_drain_of hc ho calm
    exact ⟨fun idle => ⟨_, idles idle, finish_ends hc rfl _, finish_onlyRings ..⟩,
      fun bound => ⟨_, drains bound, startDrain_entry hc _ _ _⟩⟩
  · obtain ⟨ended, coupe, mem⟩ := pushEnds_streams k s
    refine ⟨pushEnds k s, ?_, ended, ?_, mem⟩
    · rw [exec_coupeDrained, execCoupeDrained, if_neg (by simp [coupeIsDrained, open']), if_pos (by simp [idle, open'])]
    · rw [coupe]
      simp only [drainIdle, Bool.and_eq_true, decide_eq_true_eq] at idle
      exact idle.1.1.1.1
  · obtain ⟨state, action, bindings, rings, mem, cores⟩ := unboundDrained_spec k s
    have run := exec_coupeDrained_unbinds done act
    generalize unboundDrained k s = u at *
    refine ⟨_, run, state, action, bindings, ?_, mem, cores⟩
    have he' := (entryOf_of_rings rings ring pos).trans he
    simp [finishAt, entryOf_setEntry, he']

end Sys2Proof.Machine
end

section
/-! PROOFS. SEQ_OPEN, SEQ_CLOSE and CANCEL (R207–R214, R234, R261–R263). -/

namespace Sys2Proof.Machine

/-! ## What a release leaves of the sequences -/

theorem dropMoves_pools (f s) : OnlyPools s (dropMoves f s) :=
  foldl_related .refl .trans (fun t m => dropMove m t) (fun _ _ => rfl) _ s

theorem abandonRecall_pools (g s) : OnlyPools s (abandonRecall g s) := by
  unfold abandonRecall
  split
  · exact OnlyPools.trans (t := dropGrant .deck (.group g) s) rfl (dropMoves_pools ..)
  · exact .refl s

theorem dropRecalls_pools (gs s) : OnlyPools s (dropRecalls gs s) :=
  foldl_related .refl .trans (fun t g => if (State.group t g).refs = 0 then abandonRecall g t else t) (fun t g => by
    split
    · exact abandonRecall_pools g t
    · exact .refl t) gs s

/-- The same sequences, and no allocation of a kind that had none. -/
structure KeepsSeqs (s t : State) : Prop where
  seqs : t.dur.seqs = s.dur.seqs
  kinds : ∀ a ∈ t.dur.allocs, ∃ b ∈ s.dur.allocs, a.kind = b.kind

theorem KeepsSeqs.refl (s : State) : KeepsSeqs s s := ⟨rfl, fun a ha => ⟨a, ha, rfl⟩⟩

theorem KeepsSeqs.trans {s t u : State} (h : KeepsSeqs s t) (g : KeepsSeqs t u) : KeepsSeqs s u := by
  refine ⟨g.seqs.trans h.seqs, fun a ha => ?_⟩
  obtain ⟨b, hb, same⟩ := g.kinds a ha
  obtain ⟨c, hc, same'⟩ := h.kinds b hb
  exact ⟨c, hc, same.trans same'⟩

theorem KeepsSeqs.seq {s t : State} (h : KeepsSeqs s t) (i : SlotId) : t.seq i = s.seq i := by
  rw [State.seq, State.seq, h.seqs]

theorem dropAlloc_keepsSeqs (kd s) : KeepsSeqs s (dropAlloc kd s) :=
  ⟨congrArg (·.dur.seqs) (dropAlloc_onlyPools kd s), fun a ha => ⟨a, (mem_dropAlloc ha).1, rfl⟩⟩

theorem settleGroup_keepsSeqs (g s) : KeepsSeqs s (settleGroup g s) := by
  simp only [settleGroup]
  split_ifs
  · exact .refl s
  · exact .refl s
  · exact .refl s
  · refine ⟨rfl, fun a ha => ?_⟩
    obtain ⟨b, hb, rfl⟩ := List.mem_map.1 ha
    exact ⟨b, hb, by split <;> rfl⟩
  · exact (dropAlloc_keepsSeqs (.group g) s).trans ⟨rfl, fun a ha => ⟨a, ha, rfl⟩⟩

theorem dropRef_keepsSeqs (g s) : KeepsSeqs s (dropRef g s) := ⟨rfl, fun a ha => ⟨a, ha, rfl⟩⟩

/-- What a sequence's record reads when what it held is given up. -/
def Seq.emptied (x : Seq) : Seq := { x with pages := [], tail := none, listAddr := 0, tree := none, released := true }

theorem dropHeld_spec (i : SlotId) (s : State) : (dropHeld i s).seq i = (s.seq i).emptied
    ∧ (∀ j, j ≠ i → (dropHeld i s).seq j = s.seq j)
    ∧ ∀ a ∈ (dropHeld i s).dur.allocs, a.kind ≠ .listPages i ∧ a.kind ≠ .tree i := by
  have refs : KeepsSeqs s ((s.seq i).groups.foldl (fun t g => dropRef g t) s) :=
    foldl_related .refl .trans (fun t g => dropRef g t) (fun t g => dropRef_keepsSeqs g t) _ s
  simp only [dropHeld]
  generalize (s.seq i).groups.foldl (fun t g => dropRef g t) s = u at refs ⊢
  have dropped := (refs.trans (dropAlloc_keepsSeqs (.listPages i) u)).trans (dropAlloc_keepsSeqs (.tree i) _)
  refine ⟨State.setSeq_seq .., fun j ne => ?_, fun a ha => ?_⟩
  · rw [State.setSeq_seq_other _ _ _ _ ne, dropped.seq]
  · obtain ⟨there, tree⟩ := mem_dropAlloc (s := dropAlloc (.listPages i) u) ha
    exact ⟨(mem_dropAlloc there).2, tree⟩

theorem releaseSeq_spec (i : SlotId) (s : State) : (releaseSeq i s).seq i = (s.seq i).emptied
    ∧ ∀ a ∈ (releaseSeq i s).dur.allocs, a.kind ≠ .listPages i ∧ a.kind ≠ .tree i := by
  obtain ⟨seq, -, none_⟩ := dropHeld_spec i s
  have settled : KeepsSeqs (dropHeld i s) (releaseSeq i s) :=
    foldl_related .refl .trans (fun t g => settleGroup g t) (fun t g => settleGroup_keepsSeqs g t) _ _
  refine ⟨(settled.seq i).trans seq, fun a ha => ?_⟩
  obtain ⟨b, hb, same⟩ := settled.kinds a ha
  rw [same]
  exact none_ b hb

/-! ## SEQ_OPEN -/

/-- The record of slot `i` while a SEQ_OPEN opens it. -/
def openingSeq (q : Desc) (cfg : Config) (s : State) (x : Seq) : Seq :=
  { x with
    state := .opening
    ring := q.ring
    coupe := BitVec.ofNat 7 (bits q.w 511 505)
    span := (s.coupe (BitVec.ofNat 7 (bits q.w 511 505))).sCount ≠ 0
      && (s.coupe (BitVec.ofNat 7 (bits q.w 511 505))).spanId ≠ 0
    salt := BitVec.ofNat 12 (bits q.w 504 493)
    openPos := q.pos
    key := cfg.key
    fresh := true }

/-- The prompt of a SEQ_OPEN read for slot `i`, which is taken. -/
def opensSlot (q : Desc) (tokens : HostRead) (cfg : Config) (i : SlotId) (s : State) : State :=
  let k := BitVec.ofNat 7 (bits q.w 511 505)
  if bits q.w 492 473 = 0 then openMatch q k cfg i [] s
  else
    match tokens with
    | .failed => failOpen q i Status.lowerFailed 0 0 s
    | .timeout => failOpen q i Status.lowerTimeout 0 0 s
    | .ok ws => openMatch q k cfg i ws s

theorem exec_seqOpen_of {q : Desc} {cfg : Config} {s : State} (tokens : HostRead) (hc : canStart s q = true)
    (ho : Hdr.opcode q.w = 0x20) (may : mayName s q (BitVec.ofNat 7 (bits q.w 511 505)) = true)
    (bound : (s.coupe (BitVec.ofNat 7 (bits q.w 511 505))).state = .bound) (ready : s.scentRebuild = false)
    (job : ringBinding s q (BitVec.ofNat 7 (bits q.w 511 505)) = some cfg) (new : openingSlot s q = none) :
    (freeSlot s = none → exec (.seqOpen q tokens) s = .next (finish q Status.seqTableFull s))
      ∧ ∀ i, freeSlot s = some i →
        exec (.seqOpen q tokens) s = .next (opensSlot q tokens cfg i (s.setSeq i (openingSeq q cfg s (s.seq i)))) := by
  rw [exec_seqOpen, execSeqOpen, starts_of_canStart _ hc ho]
  rw [if_neg (by simp [may]), if_neg (by simp [bound]), if_neg (by simp [bound, ready]), job, new]
  exact ⟨fun full => by rw [full], fun i free => by rw [free]; rfl⟩

/-- The prompt names no block that the scent table knows. -/
def unmatched (i : SlotId) (s : State) : State := s.setSeq i { s.seq i with matched := 0, recalled := 0 }

theorem openMatch_unmatched {q : Desc} {k : CoupeId} {cfg : Config} {i : SlotId} {toks : List (BitVec 32)} {s : State}
    (salt : saltOf s (BitVec.ofNat 12 (bits q.w 504 493)) = none) :
    openMatch q k cfg i toks s = openPages q k i (unmatched i s) := by
  rw [openMatch]
  dsimp only
  rw [salt]
  rfl

/-- Without a page the list needs nothing and no recall is waited for. -/
theorem openPages_empty {q : Desc} {k : CoupeId} {i : SlotId} {s : State} (calm : recallLoss s q = none)
    (pages : (s.seq i).pages = []) (list : listPages s i = []) : openPages q k i s = openedSeq q i s := by
  have need : listPagesFor (s.seq i).pages.length - (listPages s i).length = 0 := by
    rw [pages, list]
    decide
  have none_ : (s.seq i).groups.any (fun g => (s.group g).inYard) = false := by
    rw [Seq.groups, pages]
    rfl
  rw [openPages, calm]
  dsimp only
  rw [if_pos need, openRecalls]
  exact if_neg (by simp [none_])

theorem lowestSlot_none {s : State} (taken : ∀ j, (s.seq j).state ≠ .free) (fuel n : Nat) : lowestSlot s fuel n = none := by
  induction fuel generalizing n with
  | zero => rfl
  | succ fuel ih => rw [lowestSlot, if_neg (taken _), ih]

theorem failOpen_spec {q : Desc} {i : SlotId} {status : BitVec 8} {s : State} {e : Entry}
    (he : entryOf s q.ring q.pos = some e) : let t := failOpen q i status 0 0 s
    t.seq i = (s.seq i).emptied ∧ EndsWith q status t := by
  obtain ⟨seq, -⟩ := dropHeld_spec i (dequeue q s)
  have held := dropHeld_stores i (dequeue q s)
  have recalls := dropRecalls_pools (s.seq i).groups (dropHeld i (dequeue q s))
  simp only [failOpen]
  generalize dropRecalls (s.seq i).groups (dropHeld i (dequeue q s)) = u at recalls ⊢
  have rings : u.rings = s.rings := (congrArg State.rings recalls).trans held.rings
  refine ⟨((congrArg (fun u => State.seq u i) recalls).trans rfl).trans seq, ?_⟩
  exact finish_endsWith (s := { u with due := u.due ++ [.settle (s.seq i).groups] })
    ((entryOf_of_rings rings q.ring q.pos).trans he) status

theorem unmatched_seq (i : SlotId) (x : Seq) (s : State) :
    (unmatched i (s.setSeq i x)).seq i = { x with matched := 0, recalled := 0 }
      ∧ ∀ j, j ≠ i → (unmatched i (s.setSeq i x)).seq j = s.seq j := by
  refine ⟨?_, fun j ne => ?_⟩
  · rw [unmatched, State.setSeq_seq, State.setSeq_seq]
  · rw [unmatched, State.setSeq_seq_other _ _ _ _ ne, State.setSeq_seq_other _ _ _ _ ne]

/-- The completion of a SEQ_OPEN without a matched block names the slot and its generation. -/
theorem openedSeq_spec {q : Desc} {i : SlotId} {s : State} {e : Entry} (he : entryOf s q.ring q.pos = some e)
    (matched : (s.seq i).matched = 0) (recalled : (s.seq i).recalled = 0) : let t := openedSeq q i s
    (entryOf t q.ring q.pos).map (·.state)
        = some (.done Status.ok 1 (put 51 i.toNat ||| put 35 (seqGen s i).toNat) 0)
      ∧ t = { s with rings := t.rings, due := s.due ++ [.activate i] } := by
  refine ⟨?_, rfl⟩
  have word : (put 51 i.toNat ||| put 35 (seqGen s i).toNat ||| put 19 (s.seq i).matched.toNat
      ||| put 3 (s.seq i).recalled.toNat : BitVec 64) = put 51 i.toNat ||| put 35 (seqGen s i).toNat := by
    rw [matched, recalled]
    simp [put]
  have he' : entryOf { s with due := s.due ++ [.activate i] } q.ring q.pos = some e := he
  rw [openedSeq, word, finishAt, entryOf_setEntry, he']
  simp

/-- Settles O26. -/
theorem seqOpenTakesASlot : Obligations.SeqOpenTakesASlot := by
  unfold Obligations.SeqOpenTakesASlot
  intro q tokens cfg i s hc ho k may bound ready job new
  obtain ⟨full, takes⟩ := exec_seqOpen_of tokens hc ho may bound ready job new
  obtain ⟨e, he, -⟩ := canStart_entry hc
  refine ⟨fun ws free read salt list pages calm => ?_, fun free prompt lost => ?_, fun taken => ?_⟩
  · have run : opensSlot q tokens cfg i (s.setSeq i (openingSeq q cfg s (s.seq i)))
        = openedSeq q i (unmatched i (s.setSeq i (openingSeq q cfg s (s.seq i)))) := by
      have asked (toks : List (BitVec 32)) : openMatch q k cfg i toks (s.setSeq i (openingSeq q cfg s (s.seq i)))
          = openedSeq q i (unmatched i (s.setSeq i (openingSeq q cfg s (s.seq i)))) := by
        rw [openMatch_unmatched (s := s.setSeq i (openingSeq q cfg s (s.seq i))) salt]
        refine openPages_empty calm ?_ list
        rw [unmatched, State.setSeq_seq, State.setSeq_seq]
        exact pages
      rw [read, opensSlot.eq_def]
      dsimp only
      split
      · exact asked []
      · exact asked ws
    obtain ⟨seq, others⟩ := unmatched_seq i (openingSeq q cfg s (s.seq i)) s
    have frame : unmatched i (s.setSeq i (openingSeq q cfg s (s.seq i)))
      = { s with dur := { s.dur with seqs := (unmatched i (s.setSeq i (openingSeq q cfg s (s.seq i)))).dur.seqs } } := rfl
    generalize unmatched i (s.setSeq i (openingSeq q cfg s (s.seq i))) = u at *
    have he' : entryOf u q.ring q.pos = some e := (entryOf_of_rings (congrArg State.rings frame) _ _).trans he
    obtain ⟨state, rest⟩ := openedSeq_spec he' (congrArg Seq.matched seq) (congrArg Seq.recalled seq)
    have mem : (openedSeq q i u).mem = s.mem := (congrArg State.mem rest).trans ((congrArg State.mem frame).trans rfl)
    have cores : (openedSeq q i u).cores = s.cores := (congrArg State.cores rest).trans ((congrArg State.cores frame).trans rfl)
    have due : (openedSeq q i u).due = s.due ++ [.activate i] :=
      (congrArg State.due rest).trans (congrArg (· ++ [Due.activate i]) ((congrArg State.due frame).trans rfl))
    have same (j : SlotId) : (openedSeq q i u).seq j = u.seq j := (congrArg (fun u => State.seq u j) rest).trans rfl
    have gen : seqGen u i = seqGen s i := by
      rw [seqGen, seqGen, seq, congrArg State.power frame]
      rfl
    rw [gen] at state
    refine ⟨_, (takes i free).trans (congrArg _ run), fun a => by rw [mem], cores, ?_, ?_, ?_, ?_, ?_, ?_, due, state,
      fun j ne => (same j).trans (others j ne)⟩ <;> rw [same, seq]
    · rfl
    · rfl
    · rfl
    · rfl
    · exact pages
    · rfl
  · obtain ⟨seq, ends⟩ := failOpen_spec (i := i) (status := if tokens = .failed then Status.lowerFailed
      else Status.lowerTimeout) (s := s.setSeq i (openingSeq q cfg s (s.seq i))) he
    have run : opensSlot q tokens cfg i (s.setSeq i (openingSeq q cfg s (s.seq i))) = failOpen q i
        (if tokens = .failed then Status.lowerFailed else Status.lowerTimeout) 0 0
        (s.setSeq i (openingSeq q cfg s (s.seq i))) := by
      rcases lost with rfl | rfl <;> exact if_neg prompt
    rw [State.setSeq_seq] at seq
    refine ⟨_, (takes i free).trans (congrArg _ run), ?_, ?_, ?_, ends⟩ <;> rw [seq] <;> rfl
  · exact ⟨_, full (lowestSlot_none taken _ _), finish_ends hc rfl _, finish_onlyRings ..⟩

end Sys2Proof.Machine
end

section
/-! PROOFS. SEQ_CLOSE, CANCEL and the release of a cancelled sequence (R208, R234, R261–R263). -/

namespace Sys2Proof.Machine

/-! ## SEQ_CLOSE -/

theorem exec_seqClose_of {q : Desc} {s : State} (hc : canStart s q = true) (ho : Hdr.opcode q.w = 0x21) :
    ((seqLost s q.w = true ∨ otherFunction s q = true) →
        exec (.seqClose q) s = .next (finish q Status.sequenceLost s))
      ∧ (seqLost s q.w = false → otherFunction s q = false → (s.seq (descSlot q.w)).state = .active →
        exec (.seqClose q) s = .next (finish q Status.ok
          { s.setSeq (descSlot q.w) { s.seq (descSlot q.w) with state := .closing } with
            due := s.due ++ [.freeSeq (descSlot q.w)] })) := by
  rw [exec_seqClose, execSeqClose, starts_of_canStart _ hc ho]
  refine ⟨fun lost => congrArg _ (if_pos (by simpa using lost)), fun there own active => ?_⟩
  rw [if_neg (by simp [there, own])]
  dsimp only
  rw [active]

/-! ## CANCEL -/

/-- The entries of a ring changed one by one. -/
def mapAccepted (f : Entry → Entry) (e : Nat × Ring) : Nat × Ring := (e.1, { e.2 with accepted := e.2.accepted.map f })

theorem accepted_of_map {s t : State} {f : Entry → Entry} (h : t.rings = s.rings.map (mapAccepted f)) (r : RingId) :
    (t.ringOf r).accepted = (s.ringOf r).accepted.map f := by
  have looked := lookup_map_same_keys (f := mapAccepted f) (fun _ => rfl) r.toNat s.rings
  rw [← h] at looked
  rw [State.ringOf, State.ringOf, Sparse.get, Sparse.get, looked]
  cases s.rings.lookup r.toNat with
  | none => rfl
  | some x => rfl

theorem mapAccepted_places {s t : State} {f : Entry → Entry} (h : t.rings = s.rings.map (mapAccepted f))
    (pos : ∀ e, (f e).pos = e.pos) : SamePlaces s t := fun r p => by
  rw [entryOf, entryOf, accepted_of_map h, find?_pos_map pos, Option.isSome_map]

/-- An entry as a CANCEL of the sequence that `v` names leaves it. -/
def cancelEntry (v : BitVec 512) (x : Entry) : Entry :=
  if !(isRequest x.w && namesSeq x.w v) then x
  else if x.state.unstarted then { x with cancelled := true }
  else
    match x.state with
    | .done st _ _ n =>
      if st = Status.shapeExceeds || st = Status.doesNotFit then { x with state := .done Status.cancelled 0 0 n } else x
    | _ => x

theorem cancelEntry_pos (v : BitVec 512) (x : Entry) : (cancelEntry v x).pos = x.pos := by
  unfold cancelEntry
  split_ifs
  · rfl
  · rfl
  · split
    · split <;> rfl
    · rfl

theorem cancelRequests_places (k v s) : SamePlaces s (cancelRequests k v s) :=
  mapAccepted_places (f := cancelEntry v) rfl (cancelEntry_pos v)

theorem cancelRequests_rest (k v s) : cancelRequests k v s
    = { s with runs := (cancelRequests k v s).runs, rings := (cancelRequests k v s).rings } := rfl

theorem cancelOpen_of_active {i : SlotId} {s : State} (active : (s.seq i).state = .active) : cancelOpen i s = s := by
  rw [cancelOpen]
  dsimp only
  split
  · rfl
  · exact if_pos (by simp [active])

/-- The slot of an accepted CANCEL is CLOSING, its descriptor runs, and its freeing is due. -/
def Cancelling (q : Desc) (immediate : Bool) (s t : State) : Prop :=
  (SameBytes s t ∧ t.cores = s.cores ∧ ∀ j, j ≠ descSlot q.w → t.seq j = s.seq j)
    ∧ t.seq (descSlot q.w) = { s.seq (descSlot q.w) with state := .closing, immediate := immediate }
    ∧ t.due = s.due ++ [.cancel (descSlot q.w) (s.seq (descSlot q.w)).coupe q.ring q.pos]
    ∧ (entryOf t q.ring q.pos).map (·.state) = some .started

/-- The slot CLOSING, and every request of the sequence cancelled. -/
def cancelled (q : Desc) (immediate : Bool) (s : State) : State :=
  cancelRequests (s.seq (descSlot q.w)).coupe q.w
    (s.setSeq (descSlot q.w) { s.seq (descSlot q.w) with state := .closing, immediate := immediate })

theorem acceptCancel_eq {q : Desc} {s : State} (immediate : Bool) (there : seqLost s q.w = false)
    (own : otherFunction s q = false) (active : (s.seq (descSlot q.w)).state = .active) :
    acceptCancel q immediate s = setEntry q.ring q.pos .started { cancelled q immediate s with
      due := (cancelled q immediate s).due ++ [.cancel (descSlot q.w) (s.seq (descSlot q.w)).coupe q.ring q.pos] } := by
  rw [acceptCancel]
  dsimp only
  rw [if_neg (by simp [there, own]), if_neg (by simp [active]), cancelOpen_of_active active]
  rfl

theorem cancelled_spec (q : Desc) (immediate : Bool) (s : State) : let t := cancelled q immediate s
    SamePlaces s t ∧ t.mem = s.mem ∧ t.cores = s.cores ∧ t.due = s.due
      ∧ t.seq (descSlot q.w) = { s.seq (descSlot q.w) with state := .closing, immediate := immediate }
      ∧ ∀ j, j ≠ descSlot q.w → t.seq j = s.seq j :=
  ⟨SamePlaces.trans (.of_rings rfl) (cancelRequests_places _ _ _), rfl, rfl, rfl, State.setSeq_seq ..,
    fun j ne => State.setSeq_seq_other s _ _ j ne⟩

theorem acceptCancel_cancels {q : Desc} {s : State} (immediate : Bool) (hc : canStartNow s q = true)
    (there : seqLost s q.w = false) (own : otherFunction s q = false) (active : (s.seq (descSlot q.w)).state = .active) :
    Cancelling q immediate s (acceptCancel q immediate s) := by
  have here : (entryOf s q.ring q.pos).isSome = true := by
    rw [canStartNow] at hc
    split at hc
    · exact nomatch hc
    next e he => rw [he]; rfl
  obtain ⟨places, mem, cores, due, seq, others⟩ := cancelled_spec q immediate s
  rw [acceptCancel_eq immediate there own active]
  generalize cancelled q immediate s = u at *
  obtain ⟨e, he⟩ := Option.isSome_iff_exists.1 ((places q.ring q.pos).trans here)
  refine ⟨⟨fun a => congrArg (Memory.byte a) mem, cores, others⟩, seq, congrArg (· ++ _) due, ?_⟩
  exact setEntry_entryIs (s := { u with due := u.due ++ _ }) he _

theorem exec_cancel_of {q : Desc} {s : State} (hc : canStartNow s q = true) (ho : Hdr.opcode q.w = 0x22)
    (form : ¬(bit q.w 482 = true ∧ ringImm s q.ring = true)) : exec (.cancel q) s = .next (acceptCancel q false s) := by
  have boundary : immediateForm s q = false := by
    rw [immediateForm, Bool.and_eq_false_iff]
    by_cases b : bit q.w 482 = true
    · exact .inr (Bool.eq_false_iff.2 fun imm => form ⟨b, imm⟩)
    · exact .inl (Bool.eq_false_iff.2 b)
  rw [exec_cancel, execCancel, if_pos (by rw [hc, ho, boundary]; rfl)]

theorem exec_cancelImmediate_of {q : Desc} {s : State} (hc : canStartNow s q = true) (ho : Hdr.opcode q.w = 0x22)
    (b : bit q.w 482 = true) (imm : ringImm s q.ring = true) (there : seqLost s q.w = false)
    (own : otherFunction s q = false) : exec (.cancelImmediate q) s
      = .next (stopTransfers (s.seq (descSlot q.w)).coupe (descSlot q.w) (acceptCancel q true s)) := by
  rw [exec_cancelImmediate, execCancelImmediate, if_pos (by rw [hc, ho, immediateForm, b, imm]; rfl)]
  dsimp only
  rw [if_neg (by simp [there, own])]

/-- No row of the sequence's transfers is written any more. -/
theorem stopTransfers_stops (k : CoupeId) (i : SlotId) (s : State) : ∀ tr ∈ (stopTransfers k i s).transfers,
    Mv.ofCoupe tr.w k = true → Mv.seq tr.w = i.toNat → tr.plan.length ≤ tr.written := by
  intro tr htr mine slot
  obtain ⟨t, -, rfl⟩ := List.mem_map.1 htr
  by_cases of_ : (Mv.ofCoupe t.w k && decide (Mv.seq t.w = i.toNat)) = true
  · rw [if_pos of_]
    exact List.length_take_le ..
  · rw [if_neg of_] at mine slot
    exact absurd (by rw [mine, slot]; simp) of_

theorem exec_cancelRelease_of {j : SlotId} {s : State} (closing : (s.seq j).state = .closing)
    (now : (s.seq j).immediate = true) (held : (s.seq j).released = false)
    (drained : ∀ tr ∈ s.transfers, Mv.ofCoupe tr.w (s.seq j).coupe = true → Mv.seq tr.w = j.toNat →
      tr.plan.length ≤ tr.written) : exec (.cancelRelease j) s = .next (releaseSeq j s) := by
  have none_ : s.transfers.any (fun t => Mv.ofCoupe t.w (s.seq j).coupe && Mv.seq t.w = j.toNat
      && t.written < t.plan.length) = false := by
    refine Bool.eq_false_iff.2 fun some_ => ?_
    obtain ⟨tr, htr, h⟩ := List.any_eq_true.1 some_
    simp only [Bool.and_eq_true, decide_eq_true_eq] at h
    obtain ⟨⟨mine, slot⟩, more⟩ := h
    exact absurd (drained tr htr mine slot) (by omega)
  rw [exec_cancelRelease, execCancelRelease]
  rw [none_, if_pos (by simp [closing, now, held])]

/-- Settles O27. -/
theorem sequencesCloseAndCancel : Obligations.SequencesCloseAndCancel := by
  unfold Obligations.SequencesCloseAndCancel
  intro q s i k others
  refine ⟨fun hc ho => ?_, fun hc ho there own active => ⟨fun form => ?_, fun b imm => ?_⟩,
    fun j closing now held drained => ?_⟩
  · obtain ⟨lost, closes⟩ := exec_seqClose_of hc ho
    refine ⟨fun h => ⟨_, lost h, ⟨fun _ => rfl, rfl, fun _ _ => rfl⟩, rfl, finish_ends hc rfl _⟩, fun there own active => ?_⟩
    exact ⟨_, closes there own active, ⟨fun _ => rfl, rfl, fun j ne => State.setSeq_seq_other s _ _ j ne⟩,
      State.setSeq_seq s _ _, rfl, finish_ends (u := { s.setSeq i { s.seq i with state := .closing } with
        due := s.due ++ [.freeSeq i] }) hc rfl _⟩
  · exact ⟨_, exec_cancel_of hc ho form, acceptCancel_cancels false hc there own active⟩
  · obtain ⟨kept, seq, due, entry⟩ := acceptCancel_cancels true hc there own active
    exact ⟨_, exec_cancelImmediate_of hc ho b imm there own, kept, seq, due, entry, stopTransfers_stops k i _⟩
  · obtain ⟨seq, none_⟩ := releaseSeq_spec j s
    have stores := releaseSeq_stores j s
    have mem : (releaseSeq j s).mem = s.mem := (congrArg State.mem stores).trans rfl
    have cores : (releaseSeq j s).cores = s.cores := (congrArg State.cores stores).trans rfl
    refine ⟨_, exec_cancelRelease_of closing now held drained, fun a => by rw [mem], cores, ?_, ?_, ?_, ?_, none_⟩ <;> rw [seq]
    · rfl
    · rfl
    · rfl
    · exact closing

end Sys2Proof.Machine
end

section
/-! PROOFS. SELF_TEST, its end, and REPAIR (R376–R380, R399). -/

namespace Sys2Proof.Machine

/-! ## What a test's begin and end leave alone -/

/-- The tests that run, the results, the descriptors, the time and the blocks' repairs. -/
def notes (s : State) : Sparse Ring × List SelfTest × List TestResult × BitVec 64 × List Block :=
  (s.rings, s.tests, s.testResults, s.timebase, s.blocks)

theorem foldl_notes {α : Type} {f : State → α → State} (h : ∀ t x, notes (f t x) = notes t) (l : List α) (s : State) :
    notes (l.foldl f s) = notes s :=
  foldl_related (R := fun s t => notes t = notes s) (fun _ => rfl) (fun h g => g.trans h) f h l s

theorem OnlyBenches.notes {s t : State} (h : OnlyBenches s t) : notes t = notes s := by
  rw [h]
  rfl

theorem enterLink_notes (l st cause n s) : notes (enterLink l st cause n s) = notes s := by
  rw [enterLink_onlyLinks]
  rfl

theorem settleRb_notes (s) : notes (settleRb s) = notes s := by
  rw [(settleRb_spec s).1]
  rfl

theorem moveJournal_notes (i s) : notes (moveJournal i s) = notes s := by
  simp only [moveJournal]
  split
  · split
    · rfl
    · exact settleRb_notes _
  · split
    · split
      · rfl
      · exact settleRb_notes _
    · rfl

theorem setSlots_notes (l : List CoreId) (f : State → CoreId → Slot) (s : State) :
    notes (l.foldl (fun t c => t.setSlot c (f t c)) s) = notes s :=
  foldl_notes (f := fun t c => t.setSlot c (f t c)) (fun _ _ => rfl) l s

theorem setSlots_stand (l : List CoreId) (f : State → CoreId → Slot) (s : State) (g : StandId) :
    (l.foldl (fun t c => t.setSlot c (f t c)) s).stand g = s.stand g :=
  foldl_related (R := fun s t : State => t.stand g = s.stand g) (fun _ => rfl) (fun h g => g.trans h)
    (fun t c => t.setSlot c (f t c)) (fun _ _ => rfl) l s

/-- A stand under test: its ballast off, its slots isolated. -/
def isolateStand (g : StandId) (s : State) : State :=
  let s1 := stopBallast g s
  let s2 := s1.setStand g { s1.stand g with isolated := true }
  (standCores g).foldl (fun t c => t.setSlot c { t.slot c with before := (t.slot c).state, state := .isolated }) s2

theorem isolateStand_spec (g : StandId) (s : State) :
    notes (isolateStand g s) = notes s ∧ ((isolateStand g s).stand g).isolated = true := by
  simp only [isolateStand]
  refine ⟨(setSlots_notes _ (fun t c => { t.slot c with before := (t.slot c).state, state := .isolated }) _).trans
    (stopBallast_benches g s).notes, ?_⟩
  rw [setSlots_stand _ (fun t c => { t.slot c with before := (t.slot c).state, state := .isolated }), State.setStand_stand]

/-- The slots of a stand as they were before its test. -/
def slotsBack (g : StandId) (s : State) : State :=
  (standCores g).foldl (fun t c => t.setSlot c { t.slot c with state := (t.slot c).before }) s

theorem slotsBack_notes (g : StandId) (s : State) : notes (slotsBack g s) = notes s :=
  setSlots_notes (standCores g) (fun t c => { t.slot c with state := (t.slot c).before }) s

/-- A stand back in service. -/
def reinitStand (g : StandId) (s : State) : State :=
  let s2 := slotsBack g (freshStand g s)
  s2.setStand g { s2.stand g with isolated := false }

theorem State.setStand_notes (s : State) (g : StandId) (x : Stand) : notes (s.setStand g x) = notes s := rfl

theorem reinitStand_spec (g : StandId) (s : State) :
    notes (reinitStand g s) = notes s ∧ ((reinitStand g s).stand g).isolated = false :=
  ⟨(State.setStand_notes ..).trans ((slotsBack_notes g _).trans (freshStand_benches g s).notes),
    congrArg Stand.isolated (State.setStand_stand ..)⟩

theorem isolate_stand (i : BitVec 16) (s : State) : isolate 1 i s = isolateStand (testStand i) s := rfl

theorem reinit_stand (i : BitVec 16) (verdict : Nat) (s : State) : reinit 1 i verdict s = reinitStand (testStand i) s := rfl

theorem isolate_notes (n i s) : notes (isolate n i s) = notes s := by
  simp only [isolate]
  split
  · exact (isolateStand_spec (testStand i) s).1
  · exact moveJournal_notes ..
  · rfl
  · split
    · rfl
    · exact enterLink_notes ..
  · rfl
  · rfl

theorem reinit_notes (n i verdict s) : notes (reinit n i verdict s) = notes s := by
  simp only [reinit]
  split
  · exact (reinitStand_spec (testStand i) s).1
  · rfl
  · split
    · unfold yardByHalf
      split_ifs <;> rfl
    · rfl
  · split
    · rfl
    · exact enterLink_notes ..
  · rfl
  · rfl

section
variable {s t : State} (h : notes t = notes s)
include h

theorem notes_rings : t.rings = s.rings := congrArg (·.1) h
theorem notes_tests : t.tests = s.tests := congrArg (·.2.1) h
theorem notes_results : t.testResults = s.testResults := congrArg (·.2.2.1) h
theorem notes_timebase : t.timebase = s.timebase := congrArg (·.2.2.2.1) h
theorem notes_blocks : t.blocks = s.blocks := congrArg (·.2.2.2.2) h

end

/-! ## Blocks -/

theorem blockOf_key (s : State) (n : BitVec 8) (i : BitVec 16) : (blockOf s n i).target = n ∧ (blockOf s n i).index = i := by
  rw [blockOf]
  cases h : s.blocks.find? (fun b => b.target = n && b.index = i) with
  | none => exact ⟨rfl, rfl⟩
  | some b => simpa using List.find?_some h

theorem blockOf_setBlock {b : Block} {n : BitVec 8} {i : BitVec 16} (hn : b.target = n) (hi : b.index = i) (s : State) :
    blockOf (setBlock b s) n i = b := by
  have none_ : (s.blocks.filter (fun x => !(x.target = b.target && x.index = b.index))).find?
      (fun b => b.target = n && b.index = i) = none := by
    rw [List.find?_eq_none]
    intro x hx same
    have other := (List.mem_filter.1 hx).2
    rw [hn, hi, same] at other
    exact absurd other (by decide)
  rw [blockOf, setBlock, List.find?_append, none_]
  simp [hn, hi]

/-! ## The commands -/

theorem byRanger_runs {q : Desc} {body : State → State} {s : State} (running : s.ranger.running = true) :
    byRanger q body s = body s := if_pos running

theorem byRanger_holds {q : Desc} {body : State → State} {s : State} (stopped : s.ranger.running = false) :
    byRanger q body s = hold q s := if_neg (by simp [stopped])

theorem hold_entryIs {q : Desc} {s : State} (hc : canStart s q = true) : EntryIs q .held (hold q s) := by
  obtain ⟨e, he, -⟩ := canStart_entry hc
  exact setEntry_entryIs he _

theorem beginTest_spec {q : Desc} {s : State} (hc : canStart s q = true) : let t := beginTest q s
    EntryIs q .started t
      ∧ t.tests = s.tests ++ [⟨TestD.target q.w, TestD.index q.w, q.ring, q.pos, s.timebase⟩]
      ∧ (TestD.target q.w = 1 → (t.stand (testStand (TestD.index q.w))).isolated = true)
      ∧ (TestD.target q.w = 2 → (t.stack (testStack (TestD.index q.w))).state = .testing) := by
  obtain ⟨e, he, -⟩ := canStart_entry hc
  have same := isolate_notes (TestD.target q.w) (TestD.index q.w) s
  have stand (one : TestD.target q.w = 1) : ((isolate (TestD.target q.w) (TestD.index q.w) s).stand
      (testStand (TestD.index q.w))).isolated = true := by
    rw [one, isolate_stand]
    exact (isolateStand_spec ..).2
  have stack (two : TestD.target q.w = 2) : ((isolate (TestD.target q.w) (TestD.index q.w) s).stack
      (testStack (TestD.index q.w))).state = .testing := by
    rw [two]
    exact congrArg Stack.state (State.setStack_stack ..)
  simp only [beginTest]
  generalize isolate (TestD.target q.w) (TestD.index q.w) s = u at *
  have he' := (entryOf_of_rings (notes_rings same) q.ring q.pos).trans he
  rw [notes_timebase same]
  refine ⟨setEntry_entryIs (s := { u with tests := _ }) he' _, ?_, stand, stack⟩
  rw [← notes_tests same]
  rfl

theorem exec_selfTest_of {q : Desc} {s : State} (hc : canStart s q = true) (ho : Hdr.opcode q.w = 0x0E) :
    (s.ranger.running = false → exec (.selfTest q) s = .next (hold q s))
      ∧ (s.ranger.running = true → underTest s (TestD.target q.w) (TestD.index q.w) = false →
        (testReady s (TestD.target q.w) (TestD.index q.w) = false →
            exec (.selfTest q) s = .next (finish q Status.doesNotFit s))
          ∧ (testReady s (TestD.target q.w) (TestD.index q.w) = true →
            (TestD.target q.w = 4 → (s.link (testLink (TestD.index q.w))).works = true →
              linkHeld s (testLink (TestD.index q.w)) = false) →
            exec (.selfTest q) s = .next (beginTest q s))) := by
  rw [exec_selfTest, execSelfTest, starts_of_canStart _ hc ho]
  refine ⟨fun stopped => congrArg _ (byRanger_holds stopped), fun running idle => ?_⟩
  rw [byRanger_runs running]
  dsimp only
  rw [if_neg (by simp [idle])]
  refine ⟨fun unfit => congrArg _ (if_pos (by simp [unfit])), fun fit free => ?_⟩
  rw [if_neg (by simp [fit]), if_neg]
  simp only [Bool.and_eq_true, decide_eq_true_eq, not_and, Bool.not_eq_true]
  exact fun four => free four.1 four.2

theorem applyLine_rest (g : StandId) (e : BitVec 128) (s : State) :
    (applyLine g e s).mem = s.mem ∧ (applyLine g e s).rings = s.rings := by
  unfold applyLine
  split
  · exact ⟨rfl, rfl⟩
  · split <;> exact ⟨rfl, rfl⟩

/-- The recorded repairs of a stand, as they take effect. -/
def linesApplied (q : Desc) (s : State) : State :=
  if TestD.target q.w = 1 then (blockOf s (TestD.target q.w) (TestD.index q.w)).recorded.foldl
    (fun u e => applyLine (testStand (TestD.index q.w)) e u) s else s

theorem linesApplied_rest (q : Desc) (s : State) :
    (linesApplied q s).mem = s.mem ∧ (linesApplied q s).rings = s.rings := by
  unfold linesApplied
  split
  · exact foldl_related (R := fun s t : State => t.mem = s.mem ∧ t.rings = s.rings) (fun _ => ⟨rfl, rfl⟩)
      (fun h g => ⟨g.1.trans h.1, g.2.trans h.2⟩) (fun u e => applyLine (testStand (TestD.index q.w)) e u)
      (fun u e => applyLine_rest _ e u) _ s
  · exact ⟨rfl, rfl⟩

theorem exec_repairSoft_of {q : Desc} {s : State} (hc : canStart s q = true) (ho : Hdr.opcode q.w = 0x0F)
    (soft : bit q.w 487 = false) :
    (s.ranger.running = false → exec (.repairSoft q) s = .next (hold q s))
      ∧ (s.ranger.running = true → underTest s (TestD.target q.w) (TestD.index q.w) = false →
        testReady s (TestD.target q.w) (TestD.index q.w) = true →
        let b := blockOf s (TestD.target q.w) (TestD.index q.w)
        exec (.repairSoft q) s = .next (finish q Status.ok
          (setBlock { b with applied := b.applied ++ b.recorded, recorded := [] } (linesApplied q s)))) := by
  rw [exec_repairSoft, execRepairSoft, if_neg (by simp [soft]), starts_of_canStart _ hc ho]
  refine ⟨fun stopped => congrArg _ (byRanger_holds stopped), fun running idle fit => ?_⟩
  rw [byRanger_runs running]
  dsimp only
  rw [if_neg (by simp [idle]), if_neg (by simp [fit])]
  rfl

/-- The repairs in effect burnt into the fuses; the cores that they return are due to take failed slots. -/
def fused (q : Desc) (s : State) : State :=
  let t := TestD.target q.w
  let i := TestD.index q.w
  let b := blockOf s t i
  let s1 := setBlock { b with fused := b.fused ++ toFuse s t i b } s
  if t = 1 then
    let g := testStand i
    let s2 := s1.setStand g { s1.stand g with
      retired := (s1.stand g).retired.filter (fun p => !(repairableCores s g b).contains p) }
    { s2 with due := s2.due ++ [.remap g] }
  else s1

theorem fused_spec (q : Desc) (s : State) : (fused q s).rings = s.rings ∧ (fused q s).mem = s.mem
    ∧ (fused q s).blocks = (setBlock { blockOf s (TestD.target q.w) (TestD.index q.w) with
      fused := (blockOf s (TestD.target q.w) (TestD.index q.w)).fused ++ toFuse s (TestD.target q.w) (TestD.index q.w)
        (blockOf s (TestD.target q.w) (TestD.index q.w)) } s).blocks := by
  unfold fused
  dsimp only
  split <;> exact ⟨rfl, rfl, rfl⟩

theorem exec_repairHard_of {q : Desc} {s : State} (hc : canStart s q = true) (ho : Hdr.opcode q.w = 0x0F)
    (hard : bit q.w 487 = true) :
    (s.ranger.running = false → exec (.repairHard q) s = .next (hold q s))
      ∧ (s.ranger.running = true → underTest s (TestD.target q.w) (TestD.index q.w) = false →
        testReady s (TestD.target q.w) (TestD.index q.w) = true →
        let b := blockOf s (TestD.target q.w) (TestD.index q.w)
        let all := b.fused ++ toFuse s (TestD.target q.w) (TestD.index q.w) b
        (fuseFits (TestD.target q.w) (TestD.index q.w) all = true →
            exec (.repairHard q) s = .next (finish q Status.ok (fused q s)))
          ∧ (fuseFits (TestD.target q.w) (TestD.index q.w) all = false →
            exec (.repairHard q) s = .next (finish q Status.noBuffer s))) := by
  rw [exec_repairHard, execRepairHard, if_neg (by simp [hard]), starts_of_canStart _ hc ho]
  refine ⟨fun stopped => congrArg _ (byRanger_holds stopped), fun running idle fit => ?_⟩
  rw [byRanger_runs running]
  dsimp only
  rw [if_neg (by simp [idle]), if_neg (by simp [fit])]
  refine ⟨fun room => ?_, fun full => congrArg _ (if_pos (by simp [full]))⟩
  rw [if_neg (by simp [room]), fused]
  dsimp only
  split <;> rfl

/-! ## The end of a test -/

/-- The test's result written and its block's record kept. -/
def tested (x : SelfTest) (f : TestFinding) (verdict : Nat) (s : State) : State :=
  let s1 : State := { s with
    tests := s.tests.filter (fun y => !(y.target = x.target && y.index = x.index))
    testResults := s.testResults ++ (match entryOf s x.ring x.pos with
      | some e => [⟨TestD.result e.w, resultHeader x verdict f s.timebase, f.entries.take 252⟩]
      | none => []) }
  let b := blockOf s1 x.target x.index
  let soft := f.entries.filter (fun e => bits e 47 44 = 0)
  setBlock { b with recorded := if verdict = 1 then soft else [], result := f.entries } s1

theorem endTest_eq (x : SelfTest) (f : TestFinding) (verdict : Nat) (s : State) : endTest x verdict f s
    = finishAt x.ring x.pos Status.ok 0 0 0 (reinit x.target x.index verdict (tested x f verdict s)) := rfl

theorem endTest_spec {x : SelfTest} {f : TestFinding} {verdict : Nat} {e : Entry} {s : State}
    (he : entryOf s x.ring x.pos = some e) : let t := endTest x verdict f s
    underTest t x.target x.index = false
      ∧ (entryOf t x.ring x.pos).map (·.state) = some (.done Status.ok 0 0 0)
      ∧ t.testResults = s.testResults
        ++ [⟨TestD.result e.w, resultHeader x verdict f s.timebase, f.entries.take 252⟩]
      ∧ (x.target = 1 → (t.stand (testStand x.index)).isolated = false) := by
  obtain ⟨hn, hi⟩ : (tested x f verdict s).tests = s.tests.filter (fun y => !(y.target = x.target && y.index = x.index))
      ∧ (tested x f verdict s).testResults = s.testResults
        ++ [⟨TestD.result e.w, resultHeader x verdict f s.timebase, f.entries.take 252⟩] := by
    refine ⟨rfl, ?_⟩
    unfold tested
    dsimp only [setBlock]
    rw [he]
  have same := reinit_notes x.target x.index verdict (tested x f verdict s)
  have stand (one : x.target = 1) :
      ((reinit x.target x.index verdict (tested x f verdict s)).stand (testStand x.index)).isolated = false := by
    rw [one, reinit_stand]
    exact (reinitStand_spec ..).2
  rw [endTest_eq]
  generalize reinit x.target x.index verdict (tested x f verdict s) = u at *
  have he' : entryOf u x.ring x.pos = some e := (entryOf_of_rings (notes_rings same) ..).trans he
  refine ⟨?_, ?_, (notes_results same).trans hi, stand⟩
  · have tests : u.tests = _ := (notes_tests same).trans hn
    change u.tests.any _ = false
    rw [tests, List.any_eq_false]
    intro y hy same'
    have other := (List.mem_filter.1 hy).2
    rw [same'] at other
    exact absurd other (by decide)
  · simp [finishAt, entryOf_setEntry, he']

/-- Settles O37. -/
theorem testsAndRepairs : Obligations.TestsAndRepairs := by
  unfold Obligations.TestsAndRepairs
  refine ⟨fun q s hc => ?_, fun n i f x e s hx he => ?_⟩
  · intro n i
    refine ⟨fun stopped => ⟨fun ho => ?_, fun ho soft => ?_, fun ho hard => ?_⟩, fun running idle => ⟨fun ho => ?_,
      fun ho fit => ⟨fun soft => ?_, fun hard room => ?_, fun hard full => ?_⟩⟩⟩
    · exact ⟨_, (exec_selfTest_of hc ho).1 stopped, hold_entryIs hc, hold_onlyRings ..⟩
    · exact ⟨_, (exec_repairSoft_of hc ho soft).1 stopped, hold_entryIs hc, hold_onlyRings ..⟩
    · exact ⟨_, (exec_repairHard_of hc ho hard).1 stopped, hold_entryIs hc, hold_onlyRings ..⟩
    · obtain ⟨refused, begins⟩ := (exec_selfTest_of hc ho).2 running idle
      exact ⟨fun unfit => ⟨_, refused unfit, finish_ends hc rfl _, finish_onlyRings ..⟩,
        fun fit free => ⟨_, begins fit free, beginTest_spec hc⟩⟩
    · obtain ⟨mem, rings⟩ := linesApplied_rest q s
      obtain ⟨hn, hi⟩ := blockOf_key s n i
      have run := (exec_repairSoft_of hc ho soft).2 running idle fit
      generalize linesApplied q s = u at *
      exact ⟨_, run, finish_ends (u := setBlock _ u) hc rings _,
        blockOf_setBlock (b := { blockOf s n i with applied := _, recorded := [] }) hn hi u, mem⟩
    · obtain ⟨rings, mem, blocks⟩ := fused_spec q s
      obtain ⟨hn, hi⟩ := blockOf_key s n i
      have run := ((exec_repairHard_of hc ho hard).2 running idle fit).1 room
      have block := blockOf_setBlock (b := { blockOf s n i with
        fused := (blockOf s n i).fused ++ toFuse s n i (blockOf s n i) }) hn hi s
      rw [blockOf, ← blocks, ← blockOf] at block
      generalize fused q s = u at *
      exact ⟨_, run, finish_ends hc rings _, block, mem⟩
    · exact ⟨_, ((exec_repairHard_of hc ho hard).2 running idle fit).2 full, finish_ends hc rfl _, finish_onlyRings ..⟩
  · have key := List.find?_some hx
    simp only [Bool.and_eq_true, decide_eq_true_eq] at key
    obtain ⟨rfl, rfl⟩ := key
    refine ⟨_, ?_, endTest_spec he⟩
    rw [exec_selfTestComplete, execSelfTestComplete, hx]

end Sys2Proof.Machine
end

section
/-! PROOFS. EXPERT_MAP, POWER, CLOCK, BALLAST, deferred clock changes and the ballast update (R255, R399–R405). -/

namespace Sys2Proof.Machine

/-! ## EXPERT_MAP -/

theorem exec_expertMap_of {q : Desc} {s : State} (hc : canStart s q = true) (ho : Hdr.opcode q.w = 0x0C) (map : HostRead) :
    let k := CoupeD.coupe q.w
    let n := bits q.w 504 492
    ((s.coupe k).state = .free → exec (.expertMap q map) s = .next (finish q Status.doesNotFit s))
      ∧ ((s.coupe k).state ≠ .free → map = .failed → exec (.expertMap q map) s = .next (finish q Status.lowerFailed s))
      ∧ ((s.coupe k).state ≠ .free → map = .timeout → exec (.expertMap q map) s = .next (finish q Status.lowerTimeout s))
      ∧ ∀ ws, (s.coupe k).state ≠ .free → map = .ok ws → ws.length = n →
        exec (.expertMap q map) s = .next (finish q Status.ok (s.setCoupe k { s.coupe k with
          nextMap := some ⟨n, bits q.w 491 487, BitVec.ofNat 64 (bits q.w 383 320), ws⟩ })) := by
  rw [exec_expertMap, execExpertMap, starts_of_canStart _ hc ho]
  dsimp only
  refine ⟨fun free => by rw [if_pos free], fun used failed => ?_, fun used timeout => ?_, fun ws used ok full => ?_⟩
  · rw [if_neg used, failed]
  · rw [if_neg used, timeout]
  · rw [if_neg used, ok]
    dsimp only
    rw [← full, Nat.sub_self, List.take_length]
    simp

/-! ## Held while the ranger restarts -/

theorem exec_power_byRanger {q : Desc} {s : State} (hc : canStart s q = true) (stopped : s.ranger.running = false) :
    (Hdr.opcode q.w = 0x11 → exec (.power q) s = .next (hold q s))
      ∧ (Hdr.opcode q.w = 0x12 → exec (.clock q) s = .next (hold q s))
      ∧ (Hdr.opcode q.w = 0x13 → exec (.ballast q) s = .next (hold q s)) := by
  refine ⟨fun ho => ?_, fun ho => ?_, fun ho => ?_⟩
  · rw [exec_power, execPower, starts_of_canStart _ hc ho, byRanger_holds stopped]
  · rw [exec_clock, execClock, starts_of_canStart _ hc ho, byRanger_holds stopped]
  · rw [exec_ballast, execBallast, starts_of_canStart _ hc ho, byRanger_holds stopped]

/-! ## The clock of one stand -/

/-- `t` is `s` but for its stands' clocks, their cores and the ballast, with the same stands in service and no change
waiting that did not wait before. -/
structure Reclocked (s t : State) : Prop where
  rest : t = { s with stands := t.stands, cores := t.cores, free := t.free, power := t.power }
  inService (g : StandId) : (t.stand g).inService = (s.stand g).inService
  settled (g : StandId) : (s.stand g).deferred = none → (t.stand g).deferred = none

theorem Reclocked.refl (s : State) : Reclocked s s := ⟨rfl, fun _ => rfl, fun _ h => h⟩

theorem Reclocked.trans {s t u : State} (h : Reclocked s t) (g : Reclocked t u) : Reclocked s u := by
  refine ⟨?_, fun x => (g.inService x).trans (h.inService x), fun x none_ => g.settled x (h.settled x none_)⟩
  rw [g.rest, h.rest]

section
variable {s t : State} (h : Reclocked s t)
include h

theorem Reclocked.rings : t.rings = s.rings := by rw [h.rest]
theorem Reclocked.mem : t.mem = s.mem := by rw [h.rest]
theorem Reclocked.sector (i : SectorId) : t.sector i = s.sector i := by rw [h.rest]; rfl

theorem Reclocked.coupeOfStand (g : StandId) : coupeOfStand t g = coupeOfStand s g := by rw [h.rest]; rfl

theorem Reclocked.stepOpenOn (g : StandId) : stepOpenOn t g = stepOpenOn s g := by rw [h.rest]; rfl

end

theorem stand_of_setStand (s : State) (g : StandId) (x : Stand) (h : StandId) :
    (s.setStand g x).stand h = if h = g then x else s.stand h := by
  split
  next same => rw [same, State.setStand_stand]
  next other => exact State.setStand_stand_other _ _ _ _ other

theorem setStand_reclocked {s : State} {g : StandId} {x : Stand} (inService : x.inService = (s.stand g).inService)
    (settled : (s.stand g).deferred = none → x.deferred = none) : Reclocked s (s.setStand g x) := by
  refine ⟨rfl, fun h => ?_, fun h none_ => ?_⟩
  · rw [stand_of_setStand]
    split
    next same => rw [same, inService]
    · rfl
  · rw [stand_of_setStand]
    split
    next same => exact settled (same ▸ none_)
    · exact none_

/-- Stand `g` runs under the clock `mhz` in state `p`, with no change waiting. -/
def Clocked (g : StandId) (mhz : BitVec 11) (p : BitVec 4) (s : State) : Prop :=
  (s.stand g).mhz = mhz ∧ (s.stand g).pstate = p ∧ (s.stand g).deferred = none

theorem setClock_spec (g : StandId) (mhz : BitVec 11) (p : BitVec 4) (s : State) :
    Clocked g mhz p (setClock g mhz p s) ∧ Reclocked s (setClock g mhz p s)
      ∧ (setClock g mhz p s).cores = s.cores ∧ ∀ h, h ≠ g → (setClock g mhz p s).stand h = s.stand h := by
  simp only [setClock]
  split
  · have drawn : Reclocked s (drawFree s).2 := ⟨rfl, fun _ => rfl, fun _ h => h⟩
    have stand (h : StandId) : (drawFree s).2.stand h = s.stand h := rfl
    have cores : (drawFree s).2.cores = s.cores := rfl
    generalize (drawFree s).2 = u at drawn stand cores ⊢
    refine ⟨?_, drawn.trans (setStand_reclocked (congrArg Stand.inService (stand g)).symm fun _ => rfl), cores,
      fun h other => (State.setStand_stand_other _ _ _ _ other).trans (stand h)⟩
    rw [Clocked, State.setStand_stand]
    exact ⟨rfl, rfl, rfl⟩
  · refine ⟨?_, setStand_reclocked rfl fun _ => rfl, rfl, fun h other => stand_of_setStand _ g _ h ▸ if_neg other⟩
    rw [Clocked, State.setStand_stand]
    exact ⟨rfl, rfl, rfl⟩

theorem wakePatrol_clocked {g : StandId} {mhz : BitVec 11} {p : BitVec 4} {s : State} (h : Clocked g mhz p s) :
    Clocked g mhz p (wakePatrol g s) := by
  rw [Clocked, wakePatrol, State.setStand_stand]
  exact h

/-- With no step open on it, a stand in service takes its new clock at once (R401). -/
theorem clockStand_spec {g : StandId} {s : State} (idle : stepOpenOn s g = false) (mhz : BitVec 11) (p : BitVec 4) :
    ((s.stand g).inService = true → Clocked g mhz p (clockStand mhz p g s)) ∧ Reclocked s (clockStand mhz p g s)
      ∧ ∀ h, h ≠ g → (clockStand mhz p g s).stand h = s.stand h := by
  obtain ⟨clocked, only, -, others⟩ := setClock_spec g mhz p s
  simp only [clockStand]
  split
  next out => exact ⟨fun inS => absurd out (by simp [inS]), .refl s, fun _ _ => rfl⟩
  · split
    · rw [if_neg (by simp [idle])]
      exact ⟨fun _ => clocked, only, others⟩
    · split
      · refine ⟨fun _ => wakePatrol_clocked clocked, only.trans (setStand_reclocked rfl id), fun h other => ?_⟩
        exact (State.setStand_stand_other _ _ _ _ other).trans (others h other)
      · exact ⟨fun _ => clocked, only, others⟩

/-! ## POWER and CLOCK -/

theorem clearCores_spec (l : List CoreId) (s : State) :
    Reclocked s (l.foldl (fun t c => t.setCore c (t.core c).cleared) s)
      ∧ ∀ h, (l.foldl (fun t c => t.setCore c (t.core c).cleared) s).stand h = s.stand h :=
  foldl_related (R := fun s t : State => Reclocked s t ∧ ∀ h, t.stand h = s.stand h) (fun s => ⟨.refl s, fun _ => rfl⟩)
    (fun h g => ⟨h.1.trans g.1, fun x => (g.2 x).trans (h.2 x)⟩) (fun t c => t.setCore c (t.core c).cleared)
    (fun _ _ => ⟨⟨rfl, fun _ => rfl, fun _ h => h⟩, fun _ => rfl⟩) l s

theorem coresOff_spec (g : StandId) (s : State) : Reclocked s (coresOff g s) ∧ ∀ h, (coresOff g s).stand h = s.stand h :=
  clearCores_spec _ s

/-- The clock and state in which POWER leaves a stand. -/
def powerClock (p : Nat) : BitVec 11 × BitVec 4 :=
  if p ≤ 3 then (BitVec.ofNat 11 (pstateMhz p), BitVec.ofNat 4 p) else (0, 9)

theorem powerStand_spec {g : StandId} {s : State} {p : Nat} (idle : stepOpenOn s g = false)
    (settled : (s.stand g).deferred = none) (hp : p ≤ 3 ∨ p = 9) :
    ((s.stand g).inService = true → Clocked g (powerClock p).1 (powerClock p).2 (powerStand p g s))
      ∧ Reclocked s (powerStand p g s) ∧ ∀ h, h ≠ g → (powerStand p g s).stand h = s.stand h := by
  by_cases out : (s.stand g).inService = false
  · rw [powerStand, if_pos (by simp [out])]
    exact ⟨fun inS => absurd (out.symm.trans inS) (by decide), .refl s, fun _ _ => rfl⟩
  rw [powerStand, if_neg (by simpa using out), powerClock]
  rcases hp with low | rfl
  · rw [if_pos low, if_pos low]
    exact clockStand_spec idle _ _
  · obtain ⟨off, same⟩ := coresOff_spec g s
    dsimp only
    rw [if_neg (by decide), if_neg (by decide), if_pos rfl, if_neg (by decide)]
    generalize coresOff g s = u at same off ⊢
    refine ⟨fun _ => ?_, off.trans (setStand_reclocked rfl id), fun h other => ?_⟩
    · rw [Clocked, State.setStand_stand]
      exact ⟨rfl, rfl, (congrArg Stand.deferred (same g)).trans settled⟩
    · exact (State.setStand_stand_other _ _ _ _ other).trans (same h)

theorem stopBallast_spec (g : StandId) (s : State) : Reclocked s (stopBallast g s)
    ∧ ∀ h, (stopBallast g s).stand h = { s.stand h with ballast := ((stopBallast g s).stand h).ballast } := by
  have one : Reclocked s (s.setStand g { s.stand g with ballast := false }) := setStand_reclocked rfl id
  have stand (h : StandId) : (s.setStand g { s.stand g with ballast := false }).stand h
      = { s.stand h with ballast := ((s.setStand g { s.stand g with ballast := false }).stand h).ballast } := by
    rw [stand_of_setStand]
    split
    next same => rw [same]
    · rfl
  simp only [stopBallast]
  split
  · generalize s.setStand g { s.stand g with ballast := false } = u at one stand ⊢
    split
    · exact ⟨one.trans ⟨rfl, fun _ => rfl, fun _ h => h⟩, stand⟩
    · exact ⟨one.trans ⟨rfl, fun _ => rfl, fun _ h => h⟩, stand⟩
  · exact ⟨.refl s, fun _ => rfl⟩

/-- The ballast of the named stands is off. -/
def ballastStopped (m : BitVec 128) (s : State) : State := (maskStands m).foldl (fun t g => stopBallast g t) s

theorem ballastStopped_spec (m : BitVec 128) (s : State) : Reclocked s (ballastStopped m s)
    ∧ ∀ h, (ballastStopped m s).stand h = { s.stand h with ballast := ((ballastStopped m s).stand h).ballast } :=
  foldl_related (R := fun s t : State => Reclocked s t ∧ ∀ h, t.stand h = { s.stand h with ballast := (t.stand h).ballast })
    (fun s => ⟨.refl s, fun _ => rfl⟩) (fun h g => ⟨h.1.trans g.1, fun x => by rw [g.2, h.2]⟩)
    (fun t g => stopBallast g t) (fun t g => stopBallast_spec g t) _ s

/-- No step is open on stand `g`, and no change waits there. -/
def Settled (s : State) (g : StandId) : Prop := stepOpenOn s g = false ∧ (s.stand g).deferred = none

theorem Reclocked.isSettled {s t : State} (h : Reclocked s t) {g : StandId} (settled : Settled s g) : Settled t g :=
  ⟨(h.stepOpenOn g).trans settled.1, h.settled g settled.2⟩

/-- Stands that are clocked one after the other, each from a settled state, all meet `P` in the end. -/
theorem clockEach {f : State → StandId → State} {P : Stand → Prop}
    (one : ∀ t g, Settled t g → ((t.stand g).inService = true → P ((f t g).stand g)) ∧ Reclocked t (f t g)
      ∧ ∀ h, h ≠ g → (f t g).stand h = t.stand h) (l : List StandId) (s : State) (settled : ∀ g ∈ l, Settled s g) :
    Reclocked s (l.foldl f s) ∧ (∀ g ∈ l, (s.stand g).inService = true → P ((l.foldl f s).stand g))
      ∧ ∀ h, h ∉ l → (l.foldl f s).stand h = s.stand h := by
  induction l generalizing s with
  | nil => exact ⟨.refl s, fun _ none_ => absurd none_ List.not_mem_nil, fun _ _ => rfl⟩
  | cons g l ih =>
    obtain ⟨clocked, only, others⟩ := one s g (settled g List.mem_cons_self)
    obtain ⟨restOnly, rest, kept⟩ := ih (f s g) fun h mem => only.isSettled (settled h (List.mem_cons_of_mem _ mem))
    refine ⟨only.trans restOnly, fun h mem inS => ?_, fun h out => ?_⟩
    · by_cases later : h ∈ l
      · exact rest h later ((only.inService h).trans inS)
      · obtain rfl := (List.mem_cons.1 mem).resolve_right later
        rw [List.foldl_cons, kept h later]
        exact clocked inS
    · rw [List.mem_cons, not_or] at out
      exact (kept h out.2).trans (others h out.1)

theorem endClock_settled {q : Desc} {s : State} (settled : ∀ g ∈ maskStands (PowerD.stands q.w), (s.stand g).deferred = none) :
    endClock q s = finish q Status.ok s := by
  refine if_neg ?_
  simp only [anyDeferred, List.any_eq_true, not_exists, not_and]
  exact fun g mem => by simp [settled g mem]

theorem standSector_of_mem {g : StandId} {i : SectorId} (h : g ∈ sectorStands i) : standSector g = i := by
  obtain ⟨n, hn, rfl⟩ := List.mem_map.1 h
  have small := List.mem_range.1 hn
  have bound := i.isLt
  apply Fin.ext
  simp only [standSector, BitVec.toNat_ofNat]
  omega

theorem mem_maskStands {m : BitVec 128} {g : StandId} (h : inMask m g = true) : g ∈ maskStands m :=
  List.mem_filter.2 ⟨mem_allStands g, h⟩

/-- No sector with a named stand sleeps, so none is to be woken. -/
theorem foldl_awake {f : State → SectorId → State} {m : BitVec 128} {s : State}
    (on : ∀ g ∈ maskStands m, (s.sector (standSector g)).mode = .on)
    (asleepOnly : ∀ i, (s.sector i).mode = .on → f s i = s) : (maskSectors m).foldl f s = s := by
  have each : ∀ i ∈ maskSectors m, f s i = s := fun i mem => by
    obtain ⟨g, hg, named⟩ := List.any_eq_true.1 (List.mem_filter.1 mem).2
    exact asleepOnly i (standSector_of_mem hg ▸ on g (mem_maskStands named))
  generalize maskSectors m = l at each ⊢
  induction l with
  | nil => rfl
  | cons i l ih =>
    rw [List.foldl_cons, each i List.mem_cons_self]
    exact ih fun j mem => each j (List.mem_cons_of_mem _ mem)

section
variable {q : Desc} {s : State} (hc : canStart s q = true) (running : s.ranger.running = true)
  (ready : ∀ g ∈ maskStands (PowerD.stands q.w), (s.stand g).deferred = none ∧ stepOpenOn s g = false
    ∧ (s.sector (standSector g)).mode = .on)
include hc running ready

theorem ballastStopped_settled : ∀ g ∈ maskStands (PowerD.stands q.w), Settled (ballastStopped (PowerD.stands q.w) s) g :=
  fun g mem => (ballastStopped_spec _ s).1.isSettled ⟨(ready g mem).2.1, (ready g mem).1⟩

theorem exec_power_runs (ho : Hdr.opcode q.w = 0x11) (allowed : powerAllowed s (PowerD.stands q.w) (PowerD.state q.w) = true)
    (hp : PowerD.state q.w ≤ 3 ∨ PowerD.state q.w = 9) :
    exec (.power q) s = .next (endClock q ((maskStands (PowerD.stands q.w)).foldl
      (fun t g => powerStand (PowerD.state q.w) g t) (ballastStopped (PowerD.stands q.w) s))) := by
  have on : ∀ g ∈ maskStands (PowerD.stands q.w),
      ((ballastStopped (PowerD.stands q.w) s).sector (standSector g)).mode = .on := fun g mem => by
    rw [(ballastStopped_spec _ s).1.sector]
    exact (ready g mem).2.2
  rw [exec_power, execPower, starts_of_canStart _ hc ho, byRanger_runs running]
  dsimp only
  rw [if_neg (by simp [allowed]), if_neg (by omega)]
  change Host.Outcome.next (endClock q ((List.filter (fun g =>
    decide (((ballastStopped (PowerD.stands q.w) s).sector (standSector g)).mode = .on)) _).foldl _ (if _ then
      (maskSectors (PowerD.stands q.w)).foldl _ (ballastStopped (PowerD.stands q.w) s)
      else ballastStopped (PowerD.stands q.w) s))) = _
  generalize ballastStopped (PowerD.stands q.w) s = u at on ⊢
  rw [List.filter_eq_self.2 fun g mem => decide_eq_true (on g mem)]
  have awake := foldl_awake (f := fun t i => if (t.sector i).mode = .s3 then
    leaveS3 i (BitVec.ofNat 11 (pstateMhz (PowerD.state q.w))) (BitVec.ofNat 4 (PowerD.state q.w)) t else t) on
    fun i up => if_neg (by simp [up])
  rw [awake, ite_self]

theorem exec_power_spec (ho : Hdr.opcode q.w = 0x11) (allowed : powerAllowed s (PowerD.stands q.w) (PowerD.state q.w) = true)
    (hp : PowerD.state q.w ≤ 3 ∨ PowerD.state q.w = 9) :
    ∃ t, exec (.power q) s = .next t ∧ EndsWith q Status.ok t ∧ t.mem = s.mem
      ∧ ∀ g ∈ maskStands (PowerD.stands q.w), (s.stand g).inService = true →
        Clocked g (powerClock (PowerD.state q.w)).1 (powerClock (PowerD.state q.w)).2 t := by
  rw [exec_power_runs hc running ready ho allowed hp]
  have settled := ballastStopped_settled hc running ready
  obtain ⟨stopped, -⟩ := ballastStopped_spec (PowerD.stands q.w) s
  generalize ballastStopped (PowerD.stands q.w) s = u at settled stopped ⊢
  obtain ⟨only, clocked, -⟩ := clockEach (f := fun t g => powerStand (PowerD.state q.w) g t)
    (P := fun x => x.mhz = (powerClock (PowerD.state q.w)).1 ∧ x.pstate = (powerClock (PowerD.state q.w)).2 ∧ x.deferred = none)
    (fun t g settled => powerStand_spec settled.1 settled.2 hp) (maskStands (PowerD.stands q.w)) u settled
  generalize (maskStands (PowerD.stands q.w)).foldl (fun t g => powerStand (PowerD.state q.w) g t) u = v at only clocked ⊢
  rw [endClock_settled fun g mem => only.settled g (settled g mem).2]
  exact ⟨_, rfl, finish_ends hc (only.rings.trans stopped.rings) _, only.mem.trans stopped.mem,
    fun g mem inS => clocked g mem ((stopped.inService g).trans inS)⟩

/-- CLOCK of one stand that is awake. -/
def clockAwake (mhz : Nat) (t : State) (g : StandId) : State :=
  clockStand (BitVec.ofNat 11 mhz) (if (t.stand g).pstate = 8 then 8 else BitVec.ofNat 4 (mhzPstate mhz)) g t

theorem exec_clock_spec (ho : Hdr.opcode q.w = 0x12) (allowed : clockAllowed s (PowerD.stands q.w) (PowerD.mhz q.w) = true) :
    ∃ t, exec (.clock q) s = .next t ∧ EndsWith q Status.ok t ∧ t.mem = s.mem
      ∧ ∀ g ∈ maskStands (PowerD.stands q.w), (s.stand g).inService = true → (s.stand g).asleep = false →
        (t.stand g).mhz = BitVec.ofNat 11 (PowerD.mhz q.w) := by
  have settled := ballastStopped_settled hc running ready
  obtain ⟨stopped, same⟩ := ballastStopped_spec (PowerD.stands q.w) s
  rw [exec_clock, execClock, starts_of_canStart _ hc ho, byRanger_runs running]
  dsimp only
  rw [if_neg (by simp [allowed])]
  change ∃ t, Host.Outcome.next (endClock q ((List.filter (fun g => !((ballastStopped (PowerD.stands q.w) s).stand g).asleep)
    _).foldl (clockAwake (PowerD.mhz q.w)) (ballastStopped (PowerD.stands q.w) s))) = .next t ∧ _
  generalize ballastStopped (PowerD.stands q.w) s = u at settled stopped same ⊢
  obtain ⟨only, clocked, -⟩ := clockEach (f := clockAwake (PowerD.mhz q.w)) (P := fun x => x.mhz = BitVec.ofNat 11 (PowerD.mhz q.w))
    (fun t g settled => by
      obtain ⟨clocked, rest⟩ := clockStand_spec settled.1 (BitVec.ofNat 11 (PowerD.mhz q.w))
        (if (t.stand g).pstate = 8 then 8 else BitVec.ofNat 4 (mhzPstate (PowerD.mhz q.w)))
      exact ⟨fun inS => (clocked inS).1, rest⟩)
    ((maskStands (PowerD.stands q.w)).filter fun g => !(u.stand g).asleep) u fun g mem => settled g (List.mem_filter.1 mem).1
  generalize ((maskStands (PowerD.stands q.w)).filter fun g => !(u.stand g).asleep).foldl (clockAwake (PowerD.mhz q.w)) u = v
    at only clocked ⊢
  rw [endClock_settled fun g mem => only.settled g (settled g mem).2]
  refine ⟨_, rfl, finish_ends hc (only.rings.trans stopped.rings) _, only.mem.trans stopped.mem, fun g mem inS awake => ?_⟩
  refine clocked g (List.mem_filter.2 ⟨mem, ?_⟩) ((stopped.inService g).trans inS)
  rw [same g]
  exact (congrArg not awake).trans rfl

end

/-! ## Deferred changes and the ballast -/

theorem endClocks_rings (s : State) : OnlyRings s (endClocks s) :=
  foldl_related (R := OnlyRings) (fun _ => rfl) (fun h g => by rw [OnlyRings] at *; rw [g, h])
    (fun (t : State) (e : Entry) => finishAt 0 e.pos Status.ok 0 0 0 t) (fun _ _ => rfl) _ s

theorem exec_clockChangeApply_waits {g : StandId} {x : BitVec 11 × BitVec 4} {s : State} (due : (s.stand g).deferred = some x)
    (held : stepOpenOn s g = true ∨ s.ranger.running = false) : exec (.clockChangeApply g) s = .next s := by
  rw [exec_clockChangeApply, execClockChangeApply, due]
  exact if_pos (by simpa [Bool.or_eq_true] using held)

theorem exec_clockChangeApply_spec {g : StandId} {mhz : BitVec 11} {p : BitVec 4} {s : State}
    (due : (s.stand g).deferred = some (mhz, p)) (idle : stepOpenOn s g = false) (running : s.ranger.running = true) :
    ∃ t, exec (.clockChangeApply g) s = .next t ∧ Clocked g mhz p t ∧ t.mem = s.mem ∧ t.cores = s.cores := by
  rw [exec_clockChangeApply, execClockChangeApply, due]
  dsimp only
  rw [if_neg (by simp [idle, running])]
  obtain ⟨clocked, only, cores, -⟩ := setClock_spec g mhz p s
  have mem := only.mem
  generalize setClock g mhz p s = u at clocked mem cores ⊢
  refine ⟨_, rfl, ?_⟩
  rw [endClocks_rings]
  split
  · exact ⟨clocked, mem, cores⟩
  · exact ⟨clocked, mem, cores⟩

/-- Stand `g` draws as the choice `on` says. -/
def drawAs (on : List StandId) (t : State) (g : StandId) : State :=
  if (t.stand g).ballast = on.contains g then t else t.setStand g { t.stand g with ballast := on.contains g }

theorem drawAs_stand (on : List StandId) (t : State) (g : StandId) : ((drawAs on t g).stand g).ballast = on.contains g := by
  rw [drawAs]
  split
  next same => exact same
  · rw [State.setStand_stand]

theorem drawAs_other (on : List StandId) (t : State) (g h : StandId) (drawn : (t.stand h).ballast = on.contains h) :
    ((drawAs on t g).stand h).ballast = on.contains h := by
  rw [drawAs]
  split
  · exact drawn
  · rw [stand_of_setStand]
    split
    next same => rw [same]
    · exact drawn

theorem drawEach_spec (on : List StandId) (s : State) :
    (∀ g, ((allStands.foldl (drawAs on) s).stand g).ballast = on.contains g)
      ∧ allStands.foldl (drawAs on) s = { s with stands := (allStands.foldl (drawAs on) s).stands } :=
  ⟨fun g => foldl_reaches (P := fun g t => (State.stand t g).ballast = on.contains g) (drawAs on) (drawAs_stand on)
      (drawAs_other on) allStands s g (.inl (mem_allStands g)),
    foldl_related (R := fun s t : State => t = { s with stands := t.stands }) (fun _ => rfl) (fun h g => by rw [g, h])
      (drawAs on) (fun t g => by rw [drawAs]; split <;> rfl) allStands s⟩

/-- A warning to function 0 changes nothing but the events. -/
theorem warnIf_of {warns : Bool} {kind value : Nat} {s u : State} {fl : Nat} {b : BitVec 16} {on : List StandId}
    (h : u.power.floorNow = fl ∧ u.power.ballast = b ∧ u.mem = s.mem ∧ u.cores = s.cores
      ∧ ∀ g, (u.stand g).ballast = on.contains g) : let t := if warns then raise0 kind value u else u
    t.power.floorNow = fl ∧ t.power.ballast = b ∧ t.mem = s.mem ∧ t.cores = s.cores
      ∧ ∀ g, (t.stand g).ballast = on.contains g := by
  cases warns
  · exact h
  · exact h

theorem exec_ballastUpdate_spec (w : BitVec 16) {s : State} (main : s.power.main = true) (running : s.ranger.running = true)
    (up : s.power.resetPhase = .none) (cool : s.power.device ≠ .tripped) :
    let ok := allStands.filter (ballastOk s)
    let bal := min (ok.map ballastMax).sum (rampFloor s.power - 10 * (w.toNat - s.power.ballast.toNat))
    ∃ t, exec (.ballastUpdate w) s = .next t ∧ t.power.floorNow = rampFloor s.power
      ∧ t.power.ballast = BitVec.ofNat 16 (bal / 10) ∧ t.mem = s.mem ∧ t.cores = s.cores
      ∧ ∀ g, (t.stand g).ballast = (ballastStands bal ok).contains g := by
  intro ok bal
  obtain ⟨drawn, only⟩ := drawEach_spec (ballastStands bal ok) s
  rw [exec_ballastUpdate, execBallastUpdate]
  dsimp only
  rw [if_neg (by simp [main, running, up, cool])]
  generalize each : allStands.foldl (drawAs (ballastStands bal ok)) s = u at drawn only
  change allStands.foldl (fun t g => if (t.stand g).ballast = (ballastStands bal ok).contains g then t
    else t.setStand g { t.stand g with ballast := (ballastStands bal ok).contains g }) s = u at each
  rw [each]
  have mem : u.mem = s.mem := by rw [only]
  have cores : u.cores = s.cores := by rw [only]
  exact ⟨_, rfl, warnIf_of ⟨rfl, rfl, mem, cores, drawn⟩⟩

/-- Settles O38: each descriptor in its turn, then the deferred change and the ballast update. -/
theorem clocksPowerAndBallast : Obligations.ClocksPowerAndBallast := by
  unfold Obligations.ClocksPowerAndBallast
  refine ⟨fun q map s hc ho => ?_, fun q s hc stopped => ?_, fun q s hc running => ?_, fun g mhz p s due => ⟨?_, ?_⟩,
    fun w s main running up cool => exec_ballastUpdate_spec w main running up cool⟩
  · obtain ⟨free, failed, timeout, taken⟩ := exec_expertMap_of hc ho map
    refine ⟨fun h => ⟨_, free h, finish_ends hc rfl _, finish_onlyRings ..⟩, fun used bad => ?_,
      fun ws used ok full => ⟨_, taken ws used ok full, finish_ends hc rfl _, State.setCoupe_coupe .., rfl⟩⟩
    rcases bad with bad | bad
    · exact ⟨_, failed used bad, finish_onlyRings .., by rw [if_pos bad]; exact finish_ends hc rfl _⟩
    · exact ⟨_, timeout used bad, finish_onlyRings .., by rw [if_neg (by simp [bad])]; exact finish_ends hc rfl _⟩
  · obtain ⟨power, clock, ballast⟩ := exec_power_byRanger hc stopped
    exact ⟨fun ho => ⟨_, power ho, hold_entryIs hc, hold_onlyRings ..⟩,
      fun ho => ⟨_, clock ho, hold_entryIs hc, hold_onlyRings ..⟩,
      fun ho => ⟨_, ballast ho, hold_entryIs hc, hold_onlyRings ..⟩⟩
  · intro m ready
    refine ⟨fun ho refused => ?_, fun ho allowed low => ?_, fun ho allowed off => ?_,
      fun ho allowed => exec_clock_spec hc running ready ho allowed, fun ho => ?_⟩
    · refine ⟨_, ?_, finish_ends hc rfl Status.doesNotFit, finish_onlyRings ..⟩
      rw [exec_power, execPower, starts_of_canStart _ hc ho, byRanger_runs running]
      exact congrArg _ (if_pos (congrArg not refused))
    · obtain ⟨t, ran, ends_, mem, clocked⟩ := exec_power_spec hc running ready ho allowed (.inl low)
      rw [powerClock, if_pos low] at clocked
      exact ⟨t, ran, ends_, mem, fun g hg inS => ⟨(clocked g hg inS).1, (clocked g hg inS).2.1⟩⟩
    · obtain ⟨t, ran, ends_, mem, clocked⟩ := exec_power_spec hc running ready ho (off ▸ allowed) (.inr off)
      rw [powerClock, if_neg (by omega)] at clocked
      exact ⟨t, ran, ends_, mem, fun g hg inS => ⟨(clocked g hg inS).1, (clocked g hg inS).2.1⟩⟩
    · rw [exec_ballast, execBallast, starts_of_canStart _ hc ho, byRanger_runs running]
      exact ⟨_, rfl, finish_ends hc rfl _, rfl⟩
  · exact exec_clockChangeApply_waits due
  · intro idle running
    obtain ⟨t, ran, ⟨mhz', p', none_⟩, mem, cores⟩ := exec_clockChangeApply_spec due idle running
    exact ⟨t, ran, mhz', p', none_, mem, cores⟩

end Sys2Proof.Machine
end

section
/-! PROOFS. Failed stands, sectors, stacks and channels leave service with what they hold (R203–R205, R372, R374). -/

namespace Sys2Proof.Machine

/-! ## What the reset, flush and restart of cores may change -/

/-- Nothing but the cores, the runs of the coupes and the traffic of cores differs. -/
def OnlyFlow (s t : State) : Prop :=
  t = { s with
    cores := t.cores
    runs := t.runs
    injected := t.injected
    readReqs := t.readReqs
    readReplies := t.readReplies
    windowRows := t.windowRows
    acks := t.acks
    skids := t.skids
    arrivals := t.arrivals
    reductions := t.reductions
    transfers := t.transfers }

theorem OnlyFlow.refl (s : State) : OnlyFlow s s := rfl

theorem OnlyFlow.trans {s t u : State} (h : OnlyFlow s t) (g : OnlyFlow t u) : OnlyFlow s u := by
  rw [OnlyFlow] at *
  rw [g, h]

theorem OnlyFlow.foldl {α : Type} {f : State → α → State} (one : ∀ t x, OnlyFlow t (f t x)) (l : List α) (s : State) :
    OnlyFlow s (l.foldl f s) :=
  foldl_related .refl .trans f one l s

theorem State.setRun_flow (s k r) : OnlyFlow s (State.setRun s k r) := rfl
theorem setQueue_flow (s k h q) : OnlyFlow s (State.setQueue s k h q) := rfl

theorem dropStaging_flow (c s) : OnlyFlow s (dropStaging c s) :=
  .foldl (f := fun t p => match portQueue t c p with
    | none => t
    | some b => t.setQueue b.coupe b.handle (some { b.queue with
        staging := [], returning := b.queue.returning + b.queue.staging.length })) (fun t p => by
      dsimp only
      split
      · exact .refl t
      · exact setQueue_flow ..) (List.range 4) s

theorem resetCore_flow (c s) : OnlyFlow s (resetCore c s) := by
  have staged := dropStaging_flow c s
  simp only [resetCore]
  generalize dropStaging c s = u at staged ⊢
  exact staged.trans rfl

theorem flushCoupe_flow (k s) : OnlyFlow s (flushCoupe k s) := by
  have reset := OnlyFlow.foldl (f := fun t c => resetCore c t) (fun t c => resetCore_flow c t) (coupeCores s k) s
  simp only [flushCoupe]
  generalize (coupeCores s k).foldl (fun t c => resetCore c t) s = u at reset ⊢
  exact reset.trans rfl

theorem sendAgain_flow (c l s) : OnlyFlow s (sendAgain c l s) := by
  refine foldl_related (R := OnlyFlow) .refl .trans _ (fun t r => ?_) l s
  rfl

theorem startNext_flow (c s) : OnlyFlow s (startNext c s) := by
  simp only [startNext]
  split
  · split <;> rfl
  · exact .refl s

theorem startNextIdle_flow (c s) : OnlyFlow s (unhaltCore.startNextIdle c s) := by
  rw [unhaltCore.startNextIdle]
  split
  · exact startNext_flow ..
  · exact .refl s

theorem restart_flow (c l x s) : OnlyFlow s (unhaltCore.startNextIdle c (sendAgain c l (State.setCore s c x))) :=
  (OnlyFlow.trans (t := s.setCore c x) rfl (sendAgain_flow ..)).trans (startNextIdle_flow ..)

theorem unhaltCore_flow (c s) : OnlyFlow s (unhaltCore c s) := restart_flow ..

theorem unhalt_flow (k s) : OnlyFlow s (unhalt k s) := .foldl (fun t c => unhaltCore_flow c t) _ s

section
variable {s t : State} (h : OnlyFlow s t)
include h

theorem OnlyFlow.mem : t.mem = s.mem := by rw [h]
theorem OnlyFlow.dur : t.dur = s.dur := by rw [h]
theorem OnlyFlow.coupe (k : CoupeId) : t.coupe k = s.coupe k := by rw [h]; rfl

end

/-! ## A stand leaves its coupe -/

theorem coupe_of_dur {s t : State} (h : t.dur = s.dur) (k : CoupeId) : t.coupe k = s.coupe k := by
  rw [State.coupe, State.coupe, h]

theorem unbindJob_stands (k : CoupeId) (j : Nat) (s : State) : ((unbindJob k j s).coupe k).stands = (s.coupe k).stands := by
  simp only [unbindJob]
  split
  · rfl
  next cfg _ =>
    have same := (unbindImage_stores cfg.image s).coupe k
    rw [State.setCoupe_coupe, same]

theorem unbindCoupe_spec (k : CoupeId) (s : State) : ((unbindCoupe k s).coupe k).state = (s.coupe k).state
    ∧ ((unbindCoupe k s).coupe k).stands = (s.coupe k).stands
    ∧ ∀ j, j < 8 → ((unbindCoupe k s).coupe k).bindings.get none j = none := by
  obtain ⟨state, bindings⟩ := unbindAll_spec k s
  have stands : ((unbindAll k s).coupe k).stands = (s.coupe k).stands := by
    have each := foldl_related (R := fun s t : State => (t.coupe k).stands = (s.coupe k).stands) (fun _ => rfl)
      (fun h g => g.trans h) (fun t j => unbindJob k j t) (fun t j => unbindJob_stands k j t) (List.range 8) s
    simp only [unbindAll]
    generalize (List.range 8).foldl (fun t j => unbindJob k j t) s = u at each ⊢
    exact each
  simp only [unbindCoupe]
  generalize unbindAll k s = u at state bindings stands ⊢
  exact ⟨state, stands, bindings⟩

theorem failSave_coupe (act : CoupeAction) (status : BitVec 8) (s : State) (k : CoupeId) :
    (failSave act status s).coupe k = s.coupe k := by
  have dropped (j : CoupeId) (r : CoupeRun) : (dropSaves j (s.setRun j r)).coupe k = s.coupe k :=
    ((dropKinds_stores _ (s.setRun j r)).coupe k).trans (State.setRun_coupe ..)
  unfold failSave
  split
  · rfl
  · dsimp only
    split
    · exact dropped ..
    · rfl
    · rfl
  · rfl

theorem bit_put_self : ∀ g : StandId, bit (put g.toNat 1 : BitVec 128) g.toNat = true := by decide

theorem inMask_cleared (m : BitVec 128) (g : StandId) : inMask (m &&& ~~~(put g.toNat 1 : BitVec 128)) g = false := by
  have one : (put g.toNat 1 : BitVec 128).getLsbD g.toNat = true := bit_put_self g
  have both : bit (m &&& ~~~(put g.toNat 1 : BitVec 128)) g.toNat
      = (bit m g.toNat && (~~~(put g.toNat 1 : BitVec 128)).getLsbD g.toNat) := BitVec.getLsbD_and
  rw [inMask, both, BitVec.getLsbD_not, one, Bool.not_true, Bool.and_false, Bool.and_false]

/-- Coupe `x` without stand `g` (R372). -/
def Coupe.without (x : Coupe) (g : StandId) (y : Coupe) : Prop :=
  inMask y.stands g = false ∧ (∀ j, j < 8 → y.bindings.get none j = none) ∧ (x.state ≠ .draining → y.state = .idle)

theorem loseStand_coupe (k : CoupeId) (g : StandId) (s : State) : (s.coupe k).without g ((loseStand k g s).coupe k) := by
  have ended : (endStep k Status.doesNotFit 0 0 (flushCoupe k s)).coupe k = s.coupe k :=
    ((endStep_streams ..).coupe k).trans ((flushCoupe_flow k s).coupe k)
  obtain ⟨state, -, bindings⟩ := unbindCoupe_spec k (endStep k Status.doesNotFit 0 0 (flushCoupe k s))
  rw [ended] at state
  simp only [loseStand]
  generalize unbindCoupe k (endStep k Status.doesNotFit 0 0 (flushCoupe k s)) = u at state bindings ⊢
  have left : (s.coupe k).without g { u.coupe k with
      stands := (u.coupe k).stands &&& ~~~(put g.toNat 1 : BitVec 128)
      state := if (u.coupe k).state = .draining then .draining else .idle } :=
    ⟨inMask_cleared .., bindings, fun other => if_neg (by rw [state]; exact other)⟩
  have put_ := State.setCoupe_coupe u k { u.coupe k with
      stands := (u.coupe k).stands &&& ~~~(put g.toNat 1 : BitVec 128)
      state := if (u.coupe k).state = .draining then .draining else .idle }
  rw [← put_] at left
  generalize u.setCoupe k { u.coupe k with
      stands := (u.coupe k).stands &&& ~~~(put g.toNat 1 : BitVec 128)
      state := if (u.coupe k).state = .draining then .draining else .idle } = v at left ⊢
  split
  · exact left
  · split
    · rw [failSave_coupe]
      exact left
    · rw [failSave_coupe]
      exact left
    · split
      · exact left
      · exact left

theorem standOut_coupe {g : StandId} {k : CoupeId} {s : State} (inS : (s.stand g).inService = true)
    (of_ : coupeOfStand s g = some k) : (s.coupe k).without g ((standOut g s).coupe k) := by
  have raised : raiseStand 0x15 (1 + g.toNat * 256) g s = { s with events := (raiseStand 0x15 (1 + g.toNat * 256) g s).events } := by
    simp only [raiseStand]
    split <;> rfl
  simp only [standOut]
  rw [if_pos inS]
  generalize raiseStand 0x15 (1 + g.toNat * 256) g s = u at raised ⊢
  have coupes (x : Stand) : coupeOfStand (u.setStand g x) g = some k := by
    rw [raised]
    exact of_
  rw [coupes, (maybeReady_benches _).coupe]
  have same (x : Stand) : (u.setStand g x).coupe k = s.coupe k := by
    rw [raised]
    rfl
  dsimp only
  rw [← same { u.stand g with inService := false }]
  exact loseStand_coupe ..

theorem standOut_off (g : StandId) (s : State) : ((standOut g s).stand g).inService = false ∧ (standOut g s).mem = s.mem
    ∧ (standOut g s).sectors = s.sectors
    ∧ ∀ h, (s.stand h).inService = false → ((standOut g s).stand h).inService = false := by
  have out := standOut_ground g s
  obtain ⟨mem, -, stand⟩ := standOut_frame g s
  refine ⟨by rw [stand], mem, ?_, fun h off => ?_⟩
  · split at out
    · exact (ground_sectors out).trans rfl
    · exact ground_sectors out
  · by_cases same : h = g
    · rw [same, stand]
    · split at out
      · rw [ground_stand out h, State.setStand_stand_other _ _ _ _ same, off]
      · rw [ground_stand out h, off]

theorem sectorOut_off (i : SectorId) {s : State} (serves : (s.sector i).mode ≠ .out) :
    ((sectorOut i s).sector i).mode = .out ∧ (sectorOut i s).mem = s.mem
      ∧ ∀ g ∈ sectorStands i, ((sectorOut i s).stand g).inService = false := by
  rw [sectorOut, if_neg serves]
  have put_ : ((raise0 0x15 (2 + i.val * 256) (s.setSector i { s.sector i with mode := .out })).sector i).mode = .out :=
    congrArg Sector.mode (State.setSector_sector s i _)
  have mem : (raise0 0x15 (2 + i.val * 256) (s.setSector i { s.sector i with mode := .out })).mem = s.mem := rfl
  dsimp only
  generalize raise0 0x15 (2 + i.val * 256) (s.setSector i { s.sector i with mode := .out }) = u at put_ mem ⊢
  obtain ⟨sectors, same⟩ := foldl_related (R := fun s t : State => t.sectors = s.sectors ∧ t.mem = s.mem)
    (fun _ => ⟨rfl, rfl⟩) (fun h g => ⟨g.1.trans h.1, g.2.trans h.2⟩) (fun t g => standOut g t)
    (fun t g => ⟨(standOut_off g t).2.2.1, (standOut_off g t).2.1⟩) (sectorStands i) u
  refine ⟨?_, same.trans mem, fun g hg => ?_⟩
  · rw [State.sector, sectors]
    exact put_
  · exact foldl_reaches (P := fun g t => (State.stand t g).inService = false) (fun t g => standOut g t)
      (fun t g => (standOut_off g t).1) (fun t h g => (standOut_off h t).2.2.2 g) (sectorStands i) u g (.inl hg)

/-! ## What a tier's loss leaves -/

/-- The stacks and channels stand as they did, and no allocation lies where none lay. -/
structure Loses (s t : State) : Prop where
  stacks_ : t.deckStacks = s.deckStacks
  channels : t.channels = s.channels
  spots : ∀ a ∈ t.dur.allocs, ∃ b ∈ s.dur.allocs, b.pool = a.pool ∧ b.addr = a.addr

theorem Loses.refl (s : State) : Loses s s := ⟨rfl, rfl, fun a h => ⟨a, h, rfl, rfl⟩⟩

theorem Loses.trans {s t u : State} (h : Loses s t) (g : Loses t u) : Loses s u := by
  refine ⟨g.stacks_.trans h.stacks_, g.channels.trans h.channels, fun a ha => ?_⟩
  obtain ⟨b, hb, pool, addr⟩ := g.spots a ha
  obtain ⟨c, hc, pool', addr'⟩ := h.spots b hb
  exact ⟨c, hc, pool'.trans pool, addr'.trans addr⟩

theorem Loses.foldl {α : Type} {f : State → α → State} (one : ∀ t x, Loses t (f t x)) (l : List α) (s : State) :
    Loses s (l.foldl f s) :=
  foldl_related .refl .trans f one l s

theorem Loses.of_eq {s t : State} (stacks_ : t.deckStacks = s.deckStacks) (channels : t.channels = s.channels)
    (allocs : t.dur.allocs = s.dur.allocs) : Loses s t :=
  ⟨stacks_, channels, fun a h => ⟨a, allocs ▸ h, rfl, rfl⟩⟩

theorem Loses.of_filter {s t : State} {f : Alloc → Bool} (stacks_ : t.deckStacks = s.deckStacks)
    (channels : t.channels = s.channels) (allocs : t.dur.allocs = s.dur.allocs.filter f) : Loses s t :=
  ⟨stacks_, channels, fun a h => ⟨a, List.mem_of_mem_filter (allocs ▸ h), rfl, rfl⟩⟩

theorem Streams.loses {s t : State} (h : Streams s t) : Loses s t := by
  rw [h.rest]
  exact .of_eq rfl rfl rfl

theorem OnlyFlow.loses {s t : State} (h : OnlyFlow s t) : Loses s t := by
  rw [h]
  exact .of_eq rfl rfl rfl

theorem dropMove_loses (m s) : Loses s (dropMove m s) := .of_filter rfl rfl rfl
theorem dropMoves_loses (f s) : Loses s (dropMoves f s) := .foldl (fun t m => dropMove_loses m t) _ s

theorem dropKinds_loses (f s) : Loses s (dropKinds f s) := by
  unfold dropKinds
  exact (dropMoves_loses _ s).trans (.of_filter rfl rfl rfl)

theorem dropAlloc_loses (kd s) : Loses s (dropAlloc kd s) := dropKinds_loses _ s
theorem trimList_loses (i s) : Loses s (trimList i s) := .of_filter rfl rfl rfl
theorem State.setSeq_loses (s i x) : Loses s (State.setSeq s i x) := .of_eq rfl rfl rfl
theorem State.setGroup_loses (s g x) : Loses s (State.setGroup s g x) := .of_eq rfl rfl rfl
theorem State.setImage_loses (s h x) : Loses s (State.setImage s h x) := .of_eq rfl rfl rfl
theorem State.setCoupe_loses (s k x) : Loses s (State.setCoupe s k x) := .of_eq rfl rfl rfl
theorem State.setRun_loses (s k r) : Loses s (State.setRun s k r) := .of_eq rfl rfl rfl
theorem setStep_loses (k st s) : Loses s (setStep k st s) := .of_eq rfl rfl rfl
theorem finishAt_loses (r p status dkind detail stepno s) : Loses s (finishAt r p status dkind detail stepno s) :=
  .of_eq rfl rfl rfl

theorem dropImage_loses (h s) : Loses s (dropImage h s) :=
  ((dropAlloc_loses _ s).trans (dropAlloc_loses ..)).trans (State.setImage_loses ..)

theorem freeGroup_loses (g s) : Loses s (freeGroup g s) := by
  unfold freeGroup
  exact (dropAlloc_loses _ s).trans (.of_eq rfl rfl rfl)

theorem giveBack_loses (r s) : Loses s (giveBack r s) := by
  have groups := Loses.foldl (f := fun t g => dropAlloc (.group g) t) (fun t g => dropAlloc_loses _ t) r.groups s
  simp only [giveBack]
  generalize r.groups.foldl (fun t g => dropAlloc (.group g) t) s = u at groups ⊢
  refine groups.trans ?_
  split
  · exact (dropAlloc_loses _ u).trans (trimList_loses ..)
  · exact trimList_loses ..

/-- An image's deck copy is ready to be evicted: it lies where it lay. -/
theorem evictable_loses {s t : State} {f : Alloc → Bool} {since : Option (BitVec 48)} (stacks_ : t.deckStacks = s.deckStacks)
    (channels : t.channels = s.channels)
    (allocs : t.dur.allocs = s.dur.allocs.map (fun a => if f a then { a with evictable := since } else a)) : Loses s t := by
  refine ⟨stacks_, channels, fun a h => ?_⟩
  rw [allocs] at h
  obtain ⟨b, hb, rfl⟩ := List.mem_map.1 h
  refine ⟨b, hb, ?_⟩
  split <;> exact ⟨rfl, rfl⟩

theorem unbindImage_loses (h s) : Loses s (unbindImage h s) := by
  simp only [unbindImage]
  split
  · exact dropImage_loses h s
  · split
    · refine evictable_loses (s := s) (f := fun a => decide (a.kind = .imageDeck h)) (since := some (now48 s)) rfl rfl ?_
      simp only [decide_eq_true_eq]
      rfl
    · exact State.setImage_loses ..

theorem unbindJob_loses (k j s) : Loses s (unbindJob k j s) := by
  simp only [unbindJob]
  split
  · exact .refl s
  · exact (unbindImage_loses _ s).trans (State.setCoupe_loses ..)

theorem unbindCoupe_loses (k s) : Loses s (unbindCoupe k s) := by
  have jobs := Loses.foldl (f := fun t j => unbindJob k j t) (fun t j => unbindJob_loses k j t) (List.range 8) s
  simp only [unbindCoupe, unbindAll]
  generalize (List.range 8).foldl (fun t j => unbindJob k j t) s = u at jobs ⊢
  exact jobs.trans (.of_filter rfl rfl rfl)

theorem endOpenStep_loses (k status s) : Loses s (endOpenStep k status s) := by
  unfold endOpenStep
  split
  · exact .refl s
  next st _ =>
    have each := (finishAt_loses st.ring st.pos status 0 0 st.number s).trans (.foldl (f := fun t (r : Req) =>
      finishAt st.ring r.pos (if r.status = some Status.cancelled then Status.cancelled else status) 0 0 st.number
        (giveBack r t)) (fun t r => (giveBack_loses r t).trans (finishAt_loses ..)) st.reqs _)
    dsimp only
    exact each.trans (State.setRun_loses ..)

theorem dropSaves_loses (k s) : Loses s (dropSaves k s) := dropKinds_loses _ s

theorem failSave_loses (act status s) : Loses s (failSave act status s) := by
  unfold failSave
  split
  · exact finishAt_loses ..
  · dsimp only
    split
    · exact ((State.setRun_loses ..).trans (dropSaves_loses ..)).trans (finishAt_loses ..)
    · exact (State.setRun_loses ..).trans (finishAt_loses ..)
    · exact .refl s
  · exact .refl s

/-! ## Transfers that end -/

theorem noteStatus_loses (k status detail dkind s) : Loses s (noteStatus k status detail dkind s) := by
  unfold noteStatus
  split
  · exact .refl s
  · split
    · exact .refl s
    · exact setStep_loses ..

theorem endRequests_loses (k seq status detail dkind s) : Loses s (endRequests k seq status detail dkind s) := by
  unfold endRequests
  split
  · exact .refl s
  next st _ =>
    split
    · exact .refl s
    · have stopped := Loses.foldl (f := fun t i => stopTransfers k i t) (fun t i => .of_eq rfl rfl rfl)
        ((st.reqs.filter fun r => decide (seq = 0x3FFF) || decide (r.slot.toNat = seq)).map Req.slot) s
      dsimp only
      split
      · exact (stopped.trans (setStep_loses ..)).trans (noteStatus_loses ..)
      · exact stopped.trans (setStep_loses ..)

theorem onLoad_loses (w f s) : Loses s (onLoad w f s) := by
  unfold onLoad
  split
  · exact .refl s
  · split
    · exact .refl s
    · exact setStep_loses ..

theorem dropFeed_loses (w s) : Loses s (dropFeed w s) := by
  simp only [dropFeed]
  split
  · exact .refl s
  · exact State.setRun_loses ..

theorem deviceEnds_loses (w status detail dkind s) : Loses s (deviceEnds w status detail dkind s) := by
  unfold deviceEnds
  split
  · exact .refl s
  next m _ =>
    have dropped := dropMove_loses m s
    dsimp only
    split
    · exact dropped.trans (.of_eq rfl rfl rfl)
    · exact dropped

theorem abortTransfer_loses (m w status s) : Loses s (abortTransfer m w status s) := by
  have left : Loses s (onLoad w (fun _ => none) (dropFeed w (dropTransfer m s))) :=
    ((Loses.of_eq (s := s) (t := dropTransfer m s) rfl rfl rfl).trans (dropFeed_loses ..)).trans (onLoad_loses ..)
  simp only [abortTransfer]
  split
  · exact left.trans (deviceEnds_loses ..)
  · exact (left.trans (endRequests_loses ..)).trans (checkBoundary_streams ..).loses

theorem endPaused_loses (k : CoupeId) (x : Transfer) (u : State) :
    Loses u (endRequests k (Mv.seq x.w) Status.lowerFailed 0 0 (onLoad x.w (fun _ => none) (dropFeed x.w u))) :=
  ((dropFeed_loses ..).trans (onLoad_loses ..)).trans (endRequests_loses ..)

theorem abortPaused_loses (f s) : Loses s (abortPaused f s) := by
  refine foldl_related (R := Loses) .refl .trans _ (fun t k => ?_) (listedCoupes s) s
  dsimp only
  split
  · exact .refl t
  · exact (State.setRun_loses ..).trans (.foldl (fun u (x : Transfer) => endPaused_loses k x u) _ _)

theorem abortFailed_loses (f lo hi s) : Loses s (abortFailed f lo hi s) :=
  ((abortPaused_loses f s).trans (.foldl (f := fun t (x : Transfer) => abortTransfer x.mover x.w Status.lowerFailed t)
    (fun t x => abortTransfer_loses x.mover x.w _ t) _ _)).trans
    (.foldl (f := fun t (m : DevMove) => deviceEnds m.desc Status.lowerFailed 0 0 t) (fun t m => deviceEnds_loses m.desc _ 0 0 t) _ _)

/-! ## A stack -/

theorem moveJournal_loses (i s) : Loses s (moveJournal i s) := by
  have settled (u : State) : Loses u (settleRb u) := by
    rw [(settleRb_spec u).1]
    exact .of_eq rfl rfl rfl
  simp only [moveJournal]
  split_ifs
  · split
    · exact .of_eq rfl rfl rfl
    · exact .trans (t := { s with journalOk := false }) (.of_eq rfl rfl rfl) (settled _)
  · split
    · exact .of_eq rfl rfl rfl
    · exact .trans (t := { s with journalOk := false }) (.of_eq rfl rfl rfl) (settled _)
  · exact .refl s

theorem loseSeqPart_loses (i s a) : Loses s (loseSeqPart i s a) := by
  unfold loseSeqPart
  split
  · exact .refl s
  · split
    · exact State.setSeq_loses ..
    · exact State.setSeq_loses ..
    · exact State.setImage_loses ..
    · exact .refl s

theorem dropScent_loses (f s) : Loses s (dropScent f s) := .of_eq rfl rfl rfl

theorem loseGroup_loses (g s) : Loses s (loseGroup g s) := by
  have scent := (dropAlloc_loses (.group g) s).trans (dropScent_loses (fun e => e.group = g) _)
  simp only [loseGroup]
  split
  · exact scent.trans (freeGroup_loses ..)
  · exact scent.trans (State.setGroup_loses ..)

theorem markStep_loses (i lost before k s) : Loses s (markStep i lost before k s) := by
  unfold markStep
  split
  · exact .refl s
  · exact setStep_loses ..

theorem loseSaved_loses (k s) : Loses s (loseSaved k s) := by
  have left := (endOpenStep_loses k Status.lowerFailed s).trans (unbindCoupe_loses k _)
  simp only [loseSaved]
  exact (left.trans (State.setCoupe_loses ..)).trans (State.setRun_loses ..)

theorem loseArea_loses (k s) : Loses s (loseArea k s) := by
  have freed := (State.setCoupe_loses s k { s.coupe k with preemptible := false }).trans (dropSaves_loses k _)
  simp only [loseArea]
  generalize dropSaves k (s.setCoupe k { s.coupe k with preemptible := false }) = u at freed ⊢
  refine freed.trans ?_
  split
  · refine .trans ?_ ((unhalt_flow k _).loses.trans (failSave_loses ..))
    exact .of_eq rfl rfl rfl
  · exact loseSaved_loses k u
  · have lost := (loseSaved_loses k u).trans (State.setCoupe_loses _ k { (loseSaved k u).coupe k with savedStands := 0 })
    generalize (loseSaved k u).setCoupe k { (loseSaved k u).coupe k with savedStands := 0 } = v at lost ⊢
    split
    · exact (lost.trans (State.setRun_loses ..)).trans (finishAt_loses ..)
    · exact lost.trans (State.setRun_loses ..)
  · exact .refl u

theorem loseJobs_loses (i s) : Loses s (loseJobs i s) := by
  refine foldl_related (R := Loses) .refl .trans _ (fun t a => ?_) s.dur.allocs s
  dsimp only
  split
  · split
    · exact (unbindJob_loses ..).trans (State.setRun_loses ..)
    · exact .refl t
  · exact .refl t

theorem floorsAgain_loses (s) : Loses s (floorsAgain s) := by
  refine foldl_related (R := Loses) .refl .trans _ (fun t k => ?_) (listedCoupes s) s
  exact State.setCoupe_loses ..

theorem floorsAgain_mem (s : State) : (floorsAgain s).mem = s.mem := by
  refine foldl_related (R := fun s t : State => t.mem = s.mem) (fun _ => rfl) (fun h g => g.trans h) _ (fun t k => ?_)
    (listedCoupes s) s
  rfl

/-- The bytes of a cleared range read as empty. -/
theorem clearRange_byte {lo n a : Nat} (s : State) (above : lo ≤ a) (below : a < lo + n) :
    Memory.byte a (clearRange lo n s).mem = Memory.empty := by
  refine congrArg (·.getD Memory.empty) (Sparse.lookup_filter_false a (fun b => b < lo || lo + n ≤ b) ?_ s.mem)
  simp only [Bool.or_eq_false_iff, decide_eq_false_iff_not]
  omega

/-- No allocation of the deck pool lies in stack `i`. -/
def Vacated (i : SectorId) (s : State) : Prop := ∀ a ∈ s.dur.allocs, inStack i a = false

theorem Vacated.loses {i : SectorId} {s t : State} (v : Vacated i s) (h : Loses s t) : Vacated i t := fun a ha => by
  obtain ⟨b, hb, pool, addr⟩ := h.spots a ha
  have out := v b hb
  rw [inStack, pool, addr] at out
  exact out

theorem dropStack_vacates (i : SectorId) (s : State) : Vacated i (dropStack i s) := fun a ha => by
  have kept := (List.mem_filter.1 ha).2
  simp only [Bool.and_eq_true, Bool.not_eq_true'] at kept
  exact kept.1

theorem dropStack_loses (i s) : Loses s (dropStack i s) := .of_filter rfl rfl rfl

theorem State.setStack_failed (s : State) (i : SectorId) (x : Stack) (failed : x.state = .failed) :
    ((s.setStack i x).stack i).state = .failed := by
  rw [State.setStack_stack, failed]

/-- A stack that fails is empty: no byte of it is kept, and no allocation lies in it (R203, R204). -/
theorem exec_deckStackFailure_spec (i : SectorId) {s : State} (serves : (s.stack i).state ≠ .failed) :
    ∃ t, exec (.deckStackFailure i) s = .next t ∧ (t.stack i).state = .failed
      ∧ (∀ a, stackBase i.val ≤ a → a < stackBase i.val + stackSize → Memory.byte a t.mem = Memory.empty)
      ∧ Vacated i t := by
  rw [exec_deckStackFailure, execDeckStackFailure]
  dsimp only
  rw [if_neg serves]
  have failed := State.setStack_failed s i
    { s.stack i with state := .failed, log := tierLog (s.stack i).log 3 0x3F (bits (s.stack i).log 31 0) } rfl
  generalize s.setStack i
    { s.stack i with state := .failed, log := tierLog (s.stack i).log 3 0x3F (bits (s.stack i).log 31 0) } = s0 at failed ⊢
  have begin_ : Loses s0 (moveJournal i (raise0 0x15 (3 + i.val * 256) s0)) :=
    (raise0_streams ..).loses.trans (moveJournal_loses ..)
  generalize moveJournal i (raise0 0x15 (3 + i.val * 256) s0) = s2 at begin_ ⊢
  have aborted : Loses s2 (abortFailed (fun t => touchesFailed s2 t.w t.plan) (stackBase i.val)
      (stackBase i.val + stackSize) (dropAsked i s2)) :=
    (Loses.of_eq (s := s2) (t := dropAsked i s2) rfl rfl rfl).trans (abortFailed_loses ..)
  generalize abortFailed (fun t => touchesFailed s2 t.w t.plan) (stackBase i.val) (stackBase i.val + stackSize)
    (dropAsked i s2) = s3 at aborted ⊢
  have jobs := (loseJobs_loses i s3).trans
    (.foldl (f := loseSeqPart i) (fun t a => loseSeqPart_loses i t a) s3.dur.allocs _)
  generalize s3.dur.allocs.foldl (loseSeqPart i) (loseJobs i s3) = s4 at jobs ⊢
  have empty := dropStack_vacates i s4
  have dropped := dropStack_loses i s4
  generalize dropStack i s4 = s5 at empty dropped ⊢
  have groups := Loses.foldl (f := fun t g => loseGroup g t) (fun t g => loseGroup_loses g t) (groupsOfStack s3 i) s5
  generalize (groupsOfStack s3 i).foldl (fun t g => loseGroup g t) s5 = s6 at groups ⊢
  have steps := Loses.foldl (f := fun t k => checkBoundary k (markStep i (groupsOfStack s3 i) s3 k t))
    (fun t k => (markStep_loses ..).trans (checkBoundary_streams ..).loses) (listedCoupes s6) s6
  generalize (listedCoupes s6).foldl (fun t k => checkBoundary k (markStep i (groupsOfStack s3 i) s3 k t)) s6 = s7
    at steps ⊢
  have areas := Loses.foldl (f := fun t k => loseArea k t) (fun t k => loseArea_loses k t) (savedInStack s3 i) s7
  generalize (savedInStack s3 i).foldl (fun t k => loseArea k t) s7 = s8 at areas ⊢
  have cleared : Loses s8 (clearRange (stackBase i.val) stackSize s8) := .of_eq rfl rfl rfl
  have floors := floorsAgain_loses (clearRange (stackBase i.val) stackSize s8)
  have after := (((groups.trans steps).trans areas).trans cleared).trans floors
  refine ⟨_, rfl, ?_, fun a above below => ?_, empty.loses after⟩
  · rw [State.stack, ((((begin_.trans aborted).trans jobs).trans dropped).trans after).stacks_]
    exact failed
  · rw [floorsAgain_mem]
    exact clearRange_byte s8 above below

/-! ## The yard -/

theorem failLoads_loses (h s) : Loses s (failLoads h s) := by
  refine foldl_related (R := Loses) .refl .trans _ (fun t e => ?_) _ s
  exact .of_eq rfl rfl rfl

theorem loseImage_loses (h s) : Loses s (loseImage h s) := by
  simp only [loseImage]
  split_ifs
  · exact .refl s
  · exact (failLoads_loses h s).trans (dropImage_loses ..)
  · exact State.setImage_loses ..

/-- What the loss of the yard does before its allocations and bytes go. -/
def yardEmptied (s : State) : State :=
  let groups := (s.dur.groups.filter (fun e => e.2.state ≠ .free && e.2.inYard)).map (fun e => BitVec.ofNat 22 e.1)
  let s1 := groups.foldl (fun t g => loseGroup g (loseRecall g t)) s
  (s1.dur.images.map (fun e => BitVec.ofNat 10 e.1)).foldl (fun t h => loseImage h t) s1

theorem emptyYard_eq (s : State) : emptyYard s = clearRange yardBase (2 ^ 43) { yardEmptied s with
    dur := { (yardEmptied s).dur with allocs := (yardEmptied s).dur.allocs.filter (fun a => a.pool ≠ .yard) } } := rfl

theorem yardEmptied_loses (s) : Loses s (yardEmptied s) := by
  have groups := Loses.foldl (f := fun t g => loseGroup g (loseRecall g t)) (fun t g =>
    (Loses.of_eq (s := t) (t := loseRecall g t) rfl rfl rfl).trans (loseGroup_loses ..))
    ((s.dur.groups.filter (fun e => e.2.state ≠ .free && e.2.inYard)).map (fun e => BitVec.ofNat 22 e.1)) s
  simp only [yardEmptied]
  generalize ((s.dur.groups.filter (fun e => e.2.state ≠ .free && e.2.inYard)).map (fun e => BitVec.ofNat 22 e.1)).foldl
    (fun t g => loseGroup g (loseRecall g t)) s = u at groups ⊢
  exact groups.trans (.foldl (f := fun t h => loseImage h t) (fun t h => loseImage_loses h t) _ u)

theorem emptyYard_spec (s : State) : (emptyYard s).channels = s.channels ∧ ∀ a ∈ (emptyYard s).dur.allocs, a.pool ≠ .yard := by
  rw [emptyYard_eq]
  exact ⟨(yardEmptied_loses s).channels, fun a ha => of_decide_eq_true (List.mem_filter.1 ha).2⟩

theorem yardByHalf_spec (s : State) : (yardByHalf s).channels = s.channels ∧ (yardByHalf s).dur = s.dur := by
  unfold yardByHalf
  split_ifs <;> exact ⟨rfl, rfl⟩

theorem exec_yardChannelFailure_spec (c : ChannelId) {s : State} (works : (s.channel c).failed = false) :
    ∃ t, exec (.yardChannelFailure c) s = .next t ∧ (t.channel c).failed = true
      ∧ (channelInUse s c = false → t.mem = s.mem ∧ t.dur = s.dur)
      ∧ (channelInUse s c = true → ∀ a ∈ t.dur.allocs, a.pool ≠ .yard) := by
  rw [exec_yardChannelFailure, execYardChannelFailure]
  dsimp only
  rw [if_neg (by simp [works])]
  have failed : ((s.setChannel c { s.channel c with
      failed := true, log := tierLog (s.channel c).log 3 0x3F (bits (s.channel c).log 31 0) }).channel c).failed = true := by
    rw [State.setChannel_channel]
  have mem : (s.setChannel c { s.channel c with
      failed := true, log := tierLog (s.channel c).log 3 0x3F (bits (s.channel c).log 31 0) }).mem = s.mem := rfl
  have dur : (s.setChannel c { s.channel c with
      failed := true, log := tierLog (s.channel c).log 3 0x3F (bits (s.channel c).log 31 0) }).dur = s.dur := rfl
  generalize s.setChannel c { s.channel c with
      failed := true, log := tierLog (s.channel c).log 3 0x3F (bits (s.channel c).log 31 0) } = u at failed mem dur ⊢
  have raised := (raise0_streams 0x15 (4 + c.val * 256) u).loses
  by_cases used : channelInUse s c = true
  · rw [if_neg (by simp [used])]
    have aborted := raised.trans (abortFailed_loses (fun t => (moverRanges t.w t.plan).any (fun r => yardBase ≤ r.1))
      yardBase (2 ^ 48) _)
    generalize abortFailed (fun t => (moverRanges t.w t.plan).any (fun r => yardBase ≤ r.1)) yardBase (2 ^ 48)
      (raise0 0x15 (4 + c.val * 256) u) = v at aborted ⊢
    obtain ⟨channels, empty⟩ := emptyYard_spec { v with granted := v.granted.filter (fun g => g.pool ≠ .yard) }
    generalize emptyYard { v with granted := v.granted.filter (fun g => g.pool ≠ .yard) } = w at channels empty ⊢
    obtain ⟨channels', dur'⟩ := yardByHalf_spec w
    refine ⟨_, rfl, ?_, fun unused => absurd (used.symm.trans unused) (by decide), fun _ a ha => empty a (dur' ▸ ha)⟩
    rw [State.channel, channels', channels, aborted.channels]
    exact failed
  · rw [if_pos (by simp [used])]
    exact ⟨_, rfl, failed, fun _ => ⟨mem, dur⟩, fun h => absurd h used⟩

/-- Settles O45: a stand and a sector that are out, a stack that is empty, a yard that is empty. -/
theorem failedUnitsLeaveService : Obligations.FailedUnitsLeaveService := by
  unfold Obligations.FailedUnitsLeaveService
  refine ⟨fun g cause s => ⟨fun off => ?_, fun on => ?_⟩, fun i die s serves => ?_,
    fun i s serves => exec_deckStackFailure_spec i serves, fun c s works => exec_yardChannelFailure_spec c works⟩
  · rw [exec_standLost, execStandLost, standOut, if_neg (by simp [off])]
  · rw [exec_standLost, execStandLost]
    obtain ⟨out, mem, -⟩ := standOut_off g s
    exact ⟨_, rfl, out, mem, fun k of_ => standOut_coupe on of_⟩
  · rw [exec_sramDieFailure, execSramDieFailure]
    exact ⟨_, rfl, sectorOut_off i serves⟩

end Sys2Proof.Machine
end

section
/-! PROOFS. Transfers complete or expire; the allocator's wait queue is served or expires (R180, R181, R186, R188, R202,
R203). -/

namespace Sys2Proof.Machine

/-! ## What leaves the movers -/

/-- Memory, the cores and the arrivals stand as they did, and no mover runs that did not run before. -/
structure Ebbs (s t : State) : Prop where
  mem : t.mem = s.mem
  cores : t.cores = s.cores
  arrivals : t.arrivals = s.arrivals
  movers : ∀ x ∈ t.transfers, ∃ y ∈ s.transfers, y.mover = x.mover

theorem Ebbs.refl (s : State) : Ebbs s s := ⟨rfl, rfl, rfl, fun x h => ⟨x, h, rfl⟩⟩

theorem Ebbs.trans {s t u : State} (h : Ebbs s t) (g : Ebbs t u) : Ebbs s u := by
  refine ⟨g.mem.trans h.mem, g.cores.trans h.cores, g.arrivals.trans h.arrivals, fun x hx => ?_⟩
  obtain ⟨y, hy, xy⟩ := g.movers x hx
  obtain ⟨z, hz, yz⟩ := h.movers y hy
  exact ⟨z, hz, yz.trans xy⟩

theorem Ebbs.of_transfers {s t : State} (mem : t.mem = s.mem) (cores : t.cores = s.cores) (arrivals : t.arrivals = s.arrivals)
    (transfers : t.transfers = s.transfers) : Ebbs s t :=
  ⟨mem, cores, arrivals, fun x h => ⟨x, transfers ▸ h, rfl⟩⟩

theorem Ebbs.of_filter {s t : State} {f : Transfer → Bool} (mem : t.mem = s.mem) (cores : t.cores = s.cores)
    (arrivals : t.arrivals = s.arrivals) (transfers : t.transfers = s.transfers.filter f) : Ebbs s t :=
  ⟨mem, cores, arrivals, fun x h => ⟨x, List.mem_of_mem_filter (transfers ▸ h), rfl⟩⟩

theorem Streams.ebbs {s t : State} (h : Streams s t) : Ebbs s t := by
  rw [h.rest]
  exact .of_transfers rfl rfl rfl rfl

theorem ebbs_allocator : AllocatorKeeps Ebbs where
  refl := .refl
  trans := .trans
  dropMove _ _ := .of_filter rfl rfl rfl rfl
  grants _ _ := .of_transfers rfl rfl rfl rfl
  allocs _ _ := .of_transfers rfl rfl rfl rfl
  moves _ _ := .of_transfers rfl rfl rfl rfl
  freed _ _ := .of_transfers rfl rfl rfl rfl
  group _ _ _ := .of_transfers rfl rfl rfl rfl
  image _ _ _ := .of_transfers rfl rfl rfl rfl

theorem setStep_ebbs (k st s) : Ebbs s (setStep k st s) := .of_transfers rfl rfl rfl rfl

theorem onLoad_ebbs (w f s) : Ebbs s (onLoad w f s) := by
  unfold onLoad
  split
  · exact .refl s
  · split
    · exact .refl s
    · exact setStep_ebbs ..

theorem dropFeed_ebbs (w s) : Ebbs s (dropFeed w s) := by
  simp only [dropFeed]
  split
  · exact .refl s
  · exact .of_transfers rfl rfl rfl rfl

theorem deviceEnds_ebbs (w status detail dkind s) : Ebbs s (deviceEnds w status detail dkind s) := by
  unfold deviceEnds
  split
  · exact .refl s
  next m _ =>
    have dropped := ebbs_allocator.dropMove m s
    dsimp only
    split
    · exact dropped.trans (.of_transfers rfl rfl rfl rfl)
    · exact dropped

theorem stopTransfers_ebbs (k i s) : Ebbs s (stopTransfers k i s) := by
  refine ⟨rfl, rfl, rfl, fun x hx => ?_⟩
  obtain ⟨y, hy, rfl⟩ := List.mem_map.1 hx
  refine ⟨y, hy, ?_⟩
  split <;> rfl

theorem noteStatus_ebbs (k status detail dkind s) : Ebbs s (noteStatus k status detail dkind s) := by
  unfold noteStatus
  split
  · exact .refl s
  · split
    · exact .refl s
    · exact setStep_ebbs ..

theorem endRequests_ebbs (k seq status detail dkind s) : Ebbs s (endRequests k seq status detail dkind s) := by
  unfold endRequests
  split
  · exact .refl s
  next st _ =>
    split
    · exact .refl s
    · have stopped := foldl_related Ebbs.refl .trans (fun t i => stopTransfers k i t) (fun t i => stopTransfers_ebbs k i t)
        ((st.reqs.filter fun r => decide (seq = 0x3FFF) || decide (r.slot.toNat = seq)).map Req.slot) s
      dsimp only
      split
      · exact (stopped.trans (setStep_ebbs ..)).trans (noteStatus_ebbs ..)
      · exact stopped.trans (setStep_ebbs ..)

/-- A mover whose transfer was dropped runs none. -/
theorem mover_idle {m : MoverId} {s t : State} (h : Ebbs (dropTransfer m s) t) :
    t.transfers.find? (fun x => x.mover = m) = none := by
  refine List.find?_eq_none.2 fun x hx => ?_
  obtain ⟨y, hy, same⟩ := h.movers x hx
  have other := (List.mem_filter.1 hy).2
  rw [same] at other
  simpa using other

/-! ## The requests of an open step -/

theorem sendMember_runs (k m ptype channel poison len ord p s) :
    (sendMember k m ptype channel poison len ord p s).runs = s.runs := by
  simp only [sendMember, sendRouted, sendTo]
  repeat' split
  all_goals rfl

theorem sendAllMembers_runs (k ptype len p s) : (sendAllMembers k ptype len p s).runs = s.runs := by
  refine foldl_related (R := fun s t : State => t.runs = s.runs) (fun _ => rfl) (fun h g => g.trans h) _ (fun t m => ?_)
    (otherMembers (s.coupe k)) s
  exact sendMember_runs ..

/-- The requests of coupe k's open step. -/
def openReqs (s : State) (k : CoupeId) : Option (List Req) := (s.run k).openStep.map (·.reqs)

theorem openReqs_setStep (k st s) : openReqs (setStep k st s) k = some st.reqs := by
  rw [openReqs, setStep, State.setRun_run]
  rfl

theorem sendOutcome_openReqs (k status s) : openReqs (sendOutcome k status s) k = openReqs s k := by
  simp only [sendOutcome]
  split
  · rfl
  next st isOpen =>
    rw [openReqs, State.setRun_run, openReqs, isOpen]
    have put_ := openReqs_setStep k { st with outcomeSent := true } (sendAllMembers k 3 (8 + st.reqs.length +
      (if (digestOf s k).isSome then 8 else 0)) (.outcome ⟨(s.coupe k).sIndex, StepD.xtag st.w,
        BitVec.ofNat 2 st.attempt, BitVec.ofNat 7 (StepD.nreq st.w), status, st.reqs.map st.final, digestOf s k,
        (s.coupe k).sCount⟩) s)
    exact put_

theorem endStep_openReqs (k status detail dkind s) : openReqs (endStep k status detail dkind s) k = openReqs s k := by
  simp only [endStep]
  split
  · rfl
  next st isOpen =>
    have same : openReqs s k = some st.reqs := by rw [openReqs, isOpen]; rfl
    split
    · rfl
    · split
      · rw [sendOutcome_openReqs, openReqs_setStep, same]
      · rw [openReqs_setStep, same]

theorem replayLeases_openReqs (k s) : openReqs (replayLeases k s) k = openReqs s k := by
  have settled : (settleHits k s).runs = s.runs := by
    unfold settleHits
    split <;> rfl
  have same : openReqs (settleHits k s) k = openReqs s k := by rw [openReqs, openReqs, State.run, State.run, settled]
  simp only [replayLeases]
  split
  · split
    next st isOpen =>
      have reqs : openReqs (settleHits k s) k = some st.reqs := by rw [openReqs, isOpen]; rfl
      split
      · rw [openReqs_setStep, ← same, reqs]
      · exact same
    next => exact same
  · rfl

theorem checkBoundary_openReqs (k s) : openReqs (checkBoundary k s) k = openReqs s k := by
  have leases := replayLeases_openReqs k s
  simp only [checkBoundary]
  split
  · exact leases
  · split_ifs
    · exact leases
    · exact (sendOutcome_openReqs ..).trans leases
    · exact leases
    · exact (endStep_openReqs ..).trans leases

theorem onLoad_openStep (w f s) : ((onLoad w f s).run (Mv.coupe w)).openStep.map (fun st => (st.reqs, st.boundary))
    = (s.run (Mv.coupe w)).openStep.map (fun st => (st.reqs, st.boundary)) := by
  unfold onLoad
  split
  · rfl
  next st isOpen =>
    split
    · rfl
    · rw [setStep, State.setRun_run, isOpen]
      rfl

theorem dropFeed_openStep (w s) : ((dropFeed w s).run (Mv.coupe w)).openStep = (s.run (Mv.coupe w)).openStep := by
  simp only [dropFeed]
  split
  · rfl
  · rw [State.setRun_run]

/-- Request `r` as it stands when what transfer `w` serves ends with a status. -/
def Req.endedBy (seq : Nat) (status : BitVec 8) (r : Req) : Req :=
  if (seq = 0x3FFF ∨ r.slot.toNat = seq) ∧ r.status = none then { r with status := some status, detail := 0, dkind := 0 }
  else r

theorem endRequests_openReqs {k : CoupeId} {seq : Nat} {status : BitVec 8} {s : State} {st : Step}
    (isOpen : (s.run k).openStep = some st) (runs : st.boundary = false) :
    openReqs (endRequests k seq status 0 0 s) k = some (st.reqs.map (Req.endedBy seq status)) := by
  have ended : st.reqs.map (fun r => if ((decide (seq = 0x3FFF) || decide (r.slot.toNat = seq)) && r.status.isNone) = true then
      { r with status := some status, detail := 0, dkind := 0 } else r) = st.reqs.map (Req.endedBy seq status) := by
    refine List.map_congr_left fun r _ => ?_
    simp [Req.endedBy]
  unfold endRequests
  rw [isOpen]
  dsimp only
  rw [if_neg (by simp [runs]), ended]
  split
  · unfold noteStatus
    rw [setStep, State.setRun_run]
    dsimp only
    split
    · rw [openReqs, State.setRun_run]
      rfl
    · exact openReqs_setStep ..
  · exact openReqs_setStep ..

/-! ## A deadline that has passed -/

theorem logTier_ebbs (a kind symbol s) : Ebbs s (logTier a kind symbol s) := by
  unfold logTier
  split <;> exact .of_transfers rfl rfl rfl rfl

theorem logTier_runs (a kind symbol s) : (logTier a kind symbol s).runs = s.runs := by
  unfold logTier
  split <;> rfl

theorem countTimeout_spec (tr : Transfer) (s : State) : Ebbs s (countTimeout tr s) ∧ (countTimeout tr s).runs = s.runs := by
  unfold countTimeout
  dsimp only
  split_ifs
  · exact ⟨logTier_ebbs .., logTier_runs ..⟩
  · exact ⟨logTier_ebbs .., logTier_runs ..⟩
  · exact ⟨logTier_ebbs .., logTier_runs ..⟩
  · exact ⟨.refl s, rfl⟩

theorem abortTransfer_spec (m : MoverId) (w : BitVec 512) (status : BitVec 8) (s : State) :
    Ebbs (dropTransfer m s) (abortTransfer m w status s)
      ∧ ∀ st, Mv.device w = false → (s.run (Mv.coupe w)).openStep = some st → st.boundary = false →
        openReqs (abortTransfer m w status s) (Mv.coupe w) = some (st.reqs.map (Req.endedBy (Mv.seq w) status)) := by
  have left := (dropFeed_ebbs w (dropTransfer m s)).trans (onLoad_ebbs w (fun _ => none) _)
  have step := onLoad_openStep w (fun _ => none) (dropFeed w (dropTransfer m s))
  rw [dropFeed_openStep] at step
  simp only [abortTransfer]
  generalize onLoad w (fun _ => none) (dropFeed w (dropTransfer m s)) = u at left step ⊢
  refine ⟨?_, fun st host isOpen runs => ?_⟩
  · split
    · exact left.trans (deviceEnds_ebbs ..)
    · exact (left.trans (endRequests_ebbs ..)).trans (checkBoundary_streams ..).ebbs
  · rw [if_neg (by simp [host]), checkBoundary_openReqs]
    have same : (u.run (Mv.coupe w)).openStep.map (fun st => (st.reqs, st.boundary)) = some (st.reqs, st.boundary) :=
      step.trans (congrArg (Option.map fun st => (st.reqs, st.boundary)) isOpen)
    obtain ⟨st', isOpen', both⟩ := Option.map_eq_some_iff.1 same
    obtain ⟨reqs, boundary⟩ := Prod.mk.inj both
    rw [endRequests_openReqs isOpen' (boundary.trans runs), reqs]

section
variable {m : MoverId} {tr : Transfer} {s : State} (runs : s.transfers.find? (fun t => t.mover = m) = some tr)
  (free : transferHeld s tr.w = false)
include runs free

theorem exec_transferDeadline_early (early : s.timebase.toNat < tr.started.toNat + tr.limit) :
    exec (.transferDeadline m) s = .next s := by
  rw [exec_transferDeadline, execTransferDeadline, runs]
  exact if_pos (by simp [early])

theorem exec_transferDeadline_late (late : tr.started.toNat + tr.limit ≤ s.timebase.toNat) :
    ∃ t, exec (.transferDeadline m) s = .next t ∧ SameBytes s t ∧ t.cores = s.cores
      ∧ t.transfers.find? (fun t => t.mover = m) = none
      ∧ ∀ st, Mv.device tr.w = false → (s.run (Mv.coupe tr.w)).openStep = some st → st.boundary = false →
        ∃ st', (t.run (Mv.coupe tr.w)).openStep = some st'
          ∧ st'.reqs = st.reqs.map (Req.endedBy (Mv.seq tr.w) Status.lowerTimeout) := by
  obtain ⟨counted, sameRuns⟩ := countTimeout_spec tr s
  rw [exec_transferDeadline, execTransferDeadline, runs]
  dsimp only
  rw [if_neg (by simp [free, late])]
  generalize countTimeout tr s = u at counted sameRuns ⊢
  obtain ⟨left, reqs⟩ := abortTransfer_spec m tr.w Status.lowerTimeout u
  have dropped : Ebbs u (dropTransfer m u) := .of_filter rfl rfl rfl rfl
  have all := (counted.trans dropped).trans left
  refine ⟨_, rfl, fun a => congrArg (Memory.byte a) all.mem, all.cores, mover_idle left, fun st host isOpen runs => ?_⟩
  have isOpen' : (u.run (Mv.coupe tr.w)).openStep = some st := by
    rw [State.run, sameRuns]
    exact isOpen
  exact Option.map_eq_some_iff.1 (reqs st host isOpen' runs)

end

/-! ## A transfer whose rows are all written -/

theorem moveRows_done {tr : Transfer} (done : tr.plan.length ≤ tr.written) (host : List (Row × Bool)) (s : State) :
    ∀ n, moveRows n tr host s = (tr, s)
  | 0 => rfl
  | n + 1 => by rw [moveRows, List.getElem?_eq_none done]

/-- A transfer that no failed host read stops goes on with its rows. -/
theorem continueTransfer_moves {tr : Transfer} {n : Nat} {host : HostRows} {s t : State} {tr' : Transfer}
    (given : Mv.sspace tr.w = 1 ∧ Mv.op tr.w ≠ 3 → ∃ rows, host = .ok rows)
    (moved : moveRows n tr (hostList host) s = (tr', t)) : continueTransfer tr n host s
      = { t with transfers := t.transfers.map (fun x => if x.mover = tr.mover then tr' else x) } := by
  have good : (if (decide (Mv.sspace tr.w = 1) && decide (Mv.op tr.w ≠ 3) && !tr.padded) = true then
      hostBad tr.mover tr.w host s else none) = none := by
    split
    next fromHost =>
      simp only [Bool.and_eq_true, decide_eq_true_eq] at fromHost
      obtain ⟨rows, rfl⟩ := given fromHost.1
      rfl
    · rfl
  rw [continueTransfer, good, moved]

theorem continueTransfer_done {tr : Transfer} {n : Nat} {host : HostRows} {s : State} (done : tr.plan.length ≤ tr.written)
    (given : Mv.sspace tr.w = 1 ∧ Mv.op tr.w ≠ 3 → ∃ rows, host = .ok rows) : continueTransfer tr n host s
      = { s with transfers := s.transfers.map (fun x => if x.mover = tr.mover then tr else x) } :=
  continueTransfer_moves given (moveRows_done done ..)

theorem find?_replaced {l : List Transfer} {m : MoverId} {tr : Transfer} (runs : l.find? (fun t => t.mover = m) = some tr) :
    (l.map fun x => if x.mover = tr.mover then tr else x).find? (fun t => t.mover = m) = some tr := by
  have mover : tr.mover = m := by simpa using List.find?_some runs
  have same : (fun t : Transfer => decide (t.mover = m)) ∘ (fun x => if x.mover = tr.mover then tr else x)
      = fun t => decide (t.mover = m) := by
    funext x
    simp only [Function.comp]
    split
    next h => rw [h]
    · rfl
  rw [List.find?_map, same, runs, Option.map_some, if_pos rfl]

/-- Nothing but memory, its records of errors and poison, and the homes of data differs. -/
def OnlyHomes (s t : State) : Prop :=
  t = { s with
    mem := t.mem
    poison := t.poison
    rowErrors := t.rowErrors
    granuleErrors := t.granuleErrors
    leaseHits := t.leaseHits
    deckStacks := t.deckStacks
    channels := t.channels
    due := t.due
    events := t.events
    moves := t.moves
    dur := { s.dur with seqs := t.dur.seqs, groups := t.dur.groups, allocs := t.dur.allocs } }

theorem OnlyHomes.refl (s : State) : OnlyHomes s s := rfl

theorem OnlyHomes.trans {s t u : State} (h : OnlyHomes s t) (g : OnlyHomes t u) : OnlyHomes s u := by
  rw [OnlyHomes] at *
  rw [g, h]

/-- As `OnlyHomes`, with every allocation where it was. -/
def OnlyList (s t : State) : Prop := OnlyHomes s t ∧ t.dur.allocs = s.dur.allocs

theorem OnlyList.trans {s t u : State} (h : OnlyList s t) (g : OnlyList t u) : OnlyList s u :=
  ⟨h.1.trans g.1, g.2.trans h.2⟩

theorem logTier_list (a kind symbol s) : OnlyList s (logTier a kind symbol s) := by
  unfold logTier
  split <;> exact ⟨rfl, rfl⟩

theorem foundBad_list (a s) : OnlyList s (foundBad a s) := by
  have logged : OnlyList s (logTier a 1 0x3F { s with granuleErrors := s.granuleErrors.set .none a .none }) :=
    OnlyList.trans (t := { s with granuleErrors := s.granuleErrors.set .none a .none }) ⟨rfl, rfl⟩ (logTier_list ..)
  simp only [foundBad]
  generalize logTier a 1 0x3F { s with granuleErrors := s.granuleErrors.set .none a .none } = u at *
  split
  · exact logged.trans ⟨rfl, rfl⟩
  · split
    · exact logged.trans ⟨rfl, rfl⟩
    · exact logged.trans ⟨rfl, rfl⟩

theorem mergeGranule_list (p a s) : OnlyList s (mergeGranule p a s) := by
  unfold mergeGranule
  split
  · split <;> exact ⟨rfl, rfl⟩
  · refine OnlyList.trans ?_ (logTier_list ..)
    exact ⟨rfl, rfl⟩
  · exact foundBad_list a s

theorem setGranules_list (p) : ∀ l s, OnlyList s (setGranules p l s)
  | [], _ => ⟨rfl, rfl⟩
  | a :: as, s => by
    rw [setGranules]
    refine OnlyList.trans ?_ (setGranules_list p as _)
    exact ⟨rfl, rfl⟩

theorem writeBytesAt_list (a bs p s) : OnlyList s (writeBytesAt a bs p s) := by
  refine OnlyList.trans (t := { s with mem := Memory.write a bs s.mem }) ⟨rfl, rfl⟩ ?_
  refine foldl_related (R := OnlyList) (fun _ => ⟨rfl, rfl⟩) .trans _ (fun t g => ?_) (granulesOf a bs.length) _
  split
  · exact setGranules_list ..
  · exact mergeGranule_list ..

theorem storeList_list : ∀ pages l s, OnlyList s (storeList pages l s)
  | [], _, _ => ⟨rfl, rfl⟩
  | a :: rest, l, s => by
    simp only [storeList]
    exact (writeBytesAt_list ..).trans (storeList_list rest _ _)

theorem writeList_list (i s) : OnlyList s (writeList i s) := by
  simp only [writeList]
  refine OnlyList.trans ?_ (storeList_list ..)
  exact ⟨rfl, rfl⟩

/-- The allocations after move `v`: what lay at its source lies at its destination. -/
def movedAllocs (v : DevMove) (l : List Alloc) : List Alloc :=
  (l.filter fun a => !(a.kind = .transit && a.addr = v.dst)).map fun a =>
    if a.kind = v.kind && a.addr = v.src then
      { a with addr := v.dst, pool := if yardBase ≤ v.dst.toNat then .yard else .deck } else a

theorem moveDone_spec (v : DevMove) (s : State) : OnlyHomes s (moveDone v s)
    ∧ (moveDone v s).dur.allocs = movedAllocs v s.dur.allocs := by
  have list (u : State) (i : SlotId) (h : OnlyHomes s u ∧ u.dur.allocs = movedAllocs v s.dur.allocs) :
      OnlyHomes s (writeList i u) ∧ (writeList i u).dur.allocs = movedAllocs v s.dur.allocs :=
    ⟨h.1.trans (writeList_list i u).1, (writeList_list i u).2.trans h.2⟩
  obtain ⟨purpose, kind, src, dst, units⟩ := v
  cases kind with
  | listPages i =>
    simp only [moveDone]
    generalize moved : ({ s with moves := _, dur := _ } : State) = u
    have start : OnlyHomes s u ∧ u.dur.allocs = movedAllocs ⟨purpose, .listPages i, src, dst, units⟩ s.dur.allocs := by
      rw [← moved]
      exact ⟨rfl, rfl⟩
    split
    · exact start
    · exact list u i start
  | _ => exact ⟨rfl, rfl⟩

theorem moveHome_homes (src dst : Nat) (s : State) : OnlyHomes s (moveHome src dst s) := by
  unfold moveHome
  split
  · exact .refl s
  · exact OnlyHomes.trans
      (t := { s with dur := { s.dur with allocs := s.dur.allocs.filter (fun b => b.addr.toNat ≠ dst) } }) rfl (moveDone_spec ..).1

theorem homeMoves_homes (tr : Transfer) (s : State) : OnlyHomes s (homeMoves tr s) := by
  unfold homeMoves
  split
  · split
    · exact (moveDone_spec ..).1
    · exact moveHome_homes ..
  · exact .refl s

/-- A MOVE's datum has its new address (R181). -/
theorem moveHome_moves {src dst : Nat} {s : State} {a : Alloc} (away : src ≠ dst) (small : dst < 2 ^ 48)
    (home : s.dur.allocs.find? (fun a => a.addr.toNat = src) = some a) :
    ∃ b ∈ (moveHome src dst s).dur.allocs, b.kind = a.kind ∧ b.units = a.units ∧ b.addr = BitVec.ofNat 48 dst := by
  have at_ : a.addr.toNat = src := by simpa using List.find?_some home
  have source : a.addr = BitVec.ofNat 48 src := by rw [← at_, BitVec.ofNat_toNat, BitVec.setWidth_eq]
  have elsewhere : a.addr ≠ BitVec.ofNat 48 dst := fun same => by
    have := congrArg BitVec.toNat same
    rw [at_, BitVec.toNat_ofNat, Nat.mod_eq_of_lt small] at this
    exact away this
  rw [moveHome, home]
  dsimp only
  rw [(moveDone_spec ..).2]
  refine ⟨{ a with addr := BitVec.ofNat 48 dst, pool := if yardBase ≤ (BitVec.ofNat 48 dst).toNat then .yard else .deck },
    List.mem_map.2 ⟨a, List.mem_filter.2 ⟨List.mem_filter.2 ⟨List.mem_of_find?_eq_some home, ?_⟩, ?_⟩, ?_⟩, rfl, rfl, rfl⟩
  · simp [at_, away]
  · simp [elsewhere]
  · rw [if_pos (by simp [source])]

theorem transferArrival_eq (w : BitVec 512) (s : State) : transferArrival w s = { s with arrivals := s.arrivals ++
    (if Mv.bscope w = 1 then [.coupe (Mv.coupe w) (Mv.barrier w)]
      else if Mv.bscope w = 2 then [.memory (Mv.baddr w) (Mv.btag w)] else []) } := by
  unfold transferArrival
  split_ifs
  · rfl
  · rfl
  · rw [List.append_nil]

theorem onLoad_feedPlans (w f s) : ((onLoad w f s).run (Mv.coupe w)).feedPlans = (s.run (Mv.coupe w)).feedPlans := by
  unfold onLoad
  split
  · rfl
  · split
    · rfl
    · rw [setStep, State.setRun_run]

theorem onLoad_dur (w f s) : (onLoad w f s).dur = s.dur ∧ (onLoad w f s).moves = s.moves := by
  unfold onLoad
  split
  · exact ⟨rfl, rfl⟩
  · split <;> exact ⟨rfl, rfl⟩

/-- What the end of a transfer does to the loads of its step. -/
def loadEnds (l : StepLoad) : Option StepLoad :=
  match l.kind with
  | .layer _ => none
  | .chain _ => if l.plan.isEmpty then none else some { l with sent := true }

/-- The mover free of its transfer, its step told. -/
def unloaded (m : MoverId) (tr : Transfer) (s : State) : State :=
  onLoad tr.w loadEnds (dropTransfer m
    { s with transfers := s.transfers.map (fun x => if x.mover = tr.mover then tr else x) })

theorem unloaded_spec (m : MoverId) (tr : Transfer) (s : State) :
    let s1 := { s with transfers := s.transfers.map (fun x => if x.mover = tr.mover then tr else x) }
    Ebbs (dropTransfer m s1) (unloaded m tr s) ∧ (unloaded m tr s).dur = s.dur ∧ (unloaded m tr s).moves = s.moves
      ∧ ((unloaded m tr s).run (Mv.coupe tr.w)).feedPlans = (s.run (Mv.coupe tr.w)).feedPlans :=
  ⟨onLoad_ebbs .., (onLoad_dur ..).1, (onLoad_dur ..).2, onLoad_feedPlans ..⟩

section
variable {m : MoverId} {host : HostRows} {tr : Transfer} {s : State}
  (runs : s.transfers.find? (fun t => t.mover = m) = some tr) (free : transferHeld s tr.w = false)
  (done : tr.plan.length ≤ tr.written) (noFeed : (s.run (Mv.coupe tr.w)).feedPlans.find? (fun f => f.w = some tr.w) = none)
  (given : Mv.sspace tr.w = 1 ∧ Mv.op tr.w ≠ 3 → ∃ rows, host = .ok rows)
include runs free done noFeed given

theorem exec_moverTransferComplete_of : exec (.moverTransferComplete m host) s =
    let s4 := transferArrival tr.w (homeMoves tr (unloaded m tr s))
    .next (if Mv.device tr.w then pumpGrants .yard (pumpGrants .deck s4) else checkBoundary (Mv.coupe tr.w) s4) := by
  obtain ⟨-, -, -, feeds⟩ := unloaded_spec m tr s
  have unfed : feedMark tr.w (unloaded m tr s) = some (unloaded m tr s) := by
    rw [feedMark, feeds, noFeed]
  rw [exec_moverTransferComplete, execMoverTransferComplete, runs]
  dsimp only
  rw [if_neg (by simp [free]), continueTransfer_done done given]
  dsimp only
  rw [find?_replaced runs]
  dsimp only
  rw [if_neg (by omega)]
  change (match feedMark tr.w (unloaded m tr s) with | none => _ | some s3 => _) = _
  rw [unfed]

theorem exec_moverTransferComplete_spec :
    ∃ t, exec (.moverTransferComplete m host) s = .next t ∧ t.transfers.find? (fun t => t.mover = m) = none
      ∧ t.cores = s.cores
      ∧ t.arrivals = s.arrivals ++ (if Mv.bscope tr.w = 1 then [.coupe (Mv.coupe tr.w) (Mv.barrier tr.w)]
          else if Mv.bscope tr.w = 2 then [.memory (Mv.baddr tr.w) (Mv.btag tr.w)] else [])
      ∧ (Mv.device tr.w = false → Mv.op tr.w = 2 → Mv.sspace tr.w = 0 → Mv.dspace tr.w = 0 → tr.empty = false →
          s.moves.find? (fun v => v.desc = tr.w) = none → Mv.src tr.w ≠ Mv.dst tr.w → Mv.dst tr.w < 2 ^ 48 →
          ∀ a, s.dur.allocs.find? (fun a => a.addr.toNat = Mv.src tr.w) = some a →
            ∃ b ∈ t.dur.allocs, b.kind = a.kind ∧ b.units = a.units ∧ b.addr = BitVec.ofNat 48 (Mv.dst tr.w)) := by
  obtain ⟨left, dur, moves, -⟩ := unloaded_spec m tr s
  rw [exec_moverTransferComplete_of runs free done noFeed given]
  have cores : (unloaded m tr s).cores = s.cores := left.cores
  have arrivals : (unloaded m tr s).arrivals = s.arrivals := left.arrivals
  generalize unloaded m tr s = u at left dur moves cores arrivals ⊢
  have home := homeMoves_homes tr u
  have moved : Mv.op tr.w = 2 → Mv.sspace tr.w = 0 → Mv.dspace tr.w = 0 → tr.empty = false →
      s.moves.find? (fun v => v.desc = tr.w) = none → homeMoves tr u = moveHome (Mv.src tr.w) (Mv.dst tr.w) u :=
    fun op from_ to_ full own => by
      rw [homeMoves, if_pos (by simp [op, from_, to_, full]), moves, own]
  have kept : ∀ t, Ebbs (transferArrival tr.w (homeMoves tr u)) t → t.transfers.find? (fun t => t.mover = m) = none
      ∧ t.cores = s.cores ∧ t.arrivals = s.arrivals ++ (if Mv.bscope tr.w = 1 then [.coupe (Mv.coupe tr.w) (Mv.barrier tr.w)]
          else if Mv.bscope tr.w = 2 then [.memory (Mv.baddr tr.w) (Mv.btag tr.w)] else []) := fun t h => by
    rw [transferArrival_eq, home] at h
    refine ⟨List.find?_eq_none.2 fun x hx => ?_, h.cores.trans cores, h.arrivals.trans (congrArg (· ++ _) arrivals)⟩
    obtain ⟨y, hy, same⟩ := h.movers x hx
    obtain ⟨z, hz, same'⟩ := left.movers y hy
    have other := (List.mem_filter.1 hz).2
    rw [same', same] at other
    simpa using other
  dsimp only
  split
  next own =>
    obtain ⟨idle, cores, arrivals⟩ := kept _ ((pumpGrants_keeps ebbs_allocator .deck _).trans
      (pumpGrants_keeps ebbs_allocator .yard _))
    exact ⟨_, rfl, idle, cores, arrivals, fun host => absurd (own.symm.trans host) (by decide)⟩
  · have boundary := checkBoundary_streams (Mv.coupe tr.w) (transferArrival tr.w (homeMoves tr u))
    obtain ⟨idle, cores, arrivals⟩ := kept _ boundary.ebbs
    refine ⟨_, rfl, idle, cores, arrivals, fun _ op from_ to_ full own away small a ha => ?_⟩
    rw [boundary.dur, transferArrival_eq, moved op from_ to_ full own]
    exact moveHome_moves away small (dur ▸ ha)

end

/-! ## The allocator's wait queue -/

theorem dropWait_length {w : PoolWait} : ∀ {l : List PoolWait}, w ∈ l → (dropWait w l).length + 1 = l.length
  | x :: xs, h => by
    rw [dropWait]
    split
    · rfl
    next other =>
      have rest := (List.mem_cons.1 h).resolve_left (Ne.symm other)
      rw [List.length_cons, List.length_cons, dropWait_length rest]

theorem pumpGrants_none {p : Pool} {s : State} (none_ : ∀ g ∈ s.granted, g.pool ≠ p) : pumpGrants p s = s := by
  have empty : s.granted.filter (fun g => g.pool = p) = [] :=
    List.filter_eq_nil_iff.2 fun g hg => by simpa using none_ g hg
  rw [pumpGrants, empty]
  rfl

theorem findGrant_none {p : Pool} {s : State} (none_ : ∀ g ∈ s.granted, g.pool ≠ p) (kd : AllocKind) :
    findGrant s p kd = none :=
  List.find?_eq_none.2 fun g hg => by simp [none_ g hg]

/-- A place that is free is taken with no eviction. -/
theorem makeRoom_of_place {p : Pool} {kd : AllocKind} {c : Option CoupeId} {n a : Nat} {s : State}
    (free : place s p kd c n = some a) : makeRoom p kd c n s = (some a, s) := by
  cases p with
  | deck => rw [makeRoom, deckRoom, free]
  | yard =>
    have any : place s .yard kd none n = some a := free
    rw [makeRoom, yardRoom, any]

theorem enterRun_adds {p : Pool} {kd : AllocKind} (c : Option CoupeId) (a n : Nat) (s : State) (other : ∀ g, kd ≠ .group g) :
    enterRun p kd c a n s = addAlloc ⟨p, kd, c, BitVec.ofNat 48 a, n, none⟩ s := by
  cases kd with
  | group g => exact absurd rfl (other g)
  | _ => rfl

/-- A request of one run that is not a group's is placed where there is room. -/
theorem placeRuns_one {p : Pool} {kd : AllocKind} {c : Option CoupeId} {n a last : Nat} {s : State} (other : ∀ g, kd ≠ .group g)
    (free : place s p kd c n = some a) : ∃ l, placeRuns p c last [(kd, n)] s
      = .granted a { s with granted := l, dur := { s.dur with allocs := s.dur.allocs ++ [⟨p, kd, c, BitVec.ofNat 48 a, n, none⟩] } } := by
  have room : makeRoom p kd c n { s with granted := s.granted ++ [⟨p, [(kd, n)], c⟩] }
      = (some a, { s with granted := s.granted ++ [⟨p, [(kd, n)], c⟩] }) := makeRoom_of_place free
  refine ⟨(s.granted ++ [PoolGrant.mk p [(kd, n)] c]).filter (fun g => !(g.pool = p && g.runs.any (fun r => r.1 = kd))), ?_⟩
  rw [placeRuns, room]
  dsimp only
  rw [enterRun_adds _ _ _ _ other, placeRuns]
  rfl

section
variable {p : Pool} {w : PoolWait} {s : State}

theorem exec_allocationRetry_spec {kd : AllocKind} {n a : Nat} (head : s.poolWait.find? (fun w => w.pool = p) = some w)
    (one : w.runs = [(kd, n)]) (other : ∀ g, kd ≠ .group g) (alone : ∀ g ∈ s.granted, g.pool ≠ p)
    (may : grants s p w.coupe n 0 = true) (free : place s p kd w.coupe n = some a) :
    ∃ t, exec (.allocationRetry p) s = .next t ∧ SameBytes s t ∧ t.poolWait.length + 1 = s.poolWait.length
      ∧ t.dur.allocs = s.dur.allocs ++ [⟨p, kd, w.coupe, BitVec.ofNat 48 a, n, none⟩] := by
  have first : (pumpGrants p s).granted.any (fun g => g.pool = p) = false := by
    rw [pumpGrants_none alone, List.any_eq_false]
    exact fun g hg => by simpa using alone g hg
  have none_ : findGrant { s with poolWait := dropWait w s.poolWait } p kd = none := findGrant_none (by exact alone) kd
  obtain ⟨l, placed⟩ := placeRuns_one (last := 0) (s := { s with poolWait := dropWait w s.poolWait }) other free
  have units : unitsOf [(kd, n)] = n := by simp [unitsOf]
  have allowed : grants { s with poolWait := dropWait w s.poolWait } p w.coupe (unitsOf [(kd, n)]) 0 = true := by
    rw [units]
    exact may
  rw [exec_allocationRetry, execAllocationRetry, if_neg (by simp [first]), pumpGrants_none alone, head]
  dsimp only
  rw [one, allocateRuns, none_]
  dsimp only
  rw [if_pos rfl, if_pos allowed, placed]
  exact ⟨_, rfl, fun _ => rfl, dropWait_length (List.mem_of_find?_eq_some head), rfl⟩

theorem dequeue_gone (q : Desc) (s : State) : ∀ v ∈ (dequeue q s).poolWait, ¬(v.ring = q.ring ∧ v.pos = q.pos) := fun v hv => by
  have kept := (List.mem_filter.1 hv).2
  rintro ⟨ring, pos⟩
  simp [ring, pos] at kept

theorem failOpen_poolWait (q i status detail dkind s) :
    (failOpen q i status detail dkind s).poolWait = (dequeue q s).poolWait := by
  have stores := (dropHeld_stores i (dequeue q s)).trans (dropRecalls_stores (s.seq i).groups _)
  simp only [failOpen]
  generalize dropRecalls (s.seq i).groups (dropHeld i (dequeue q s)) = u at stores ⊢
  exact (congrArg State.poolWait stores).trans rfl

theorem failOpen_ends {q : Desc} {i : SlotId} {status : BitVec 8} {s : State} {e : Entry}
    (he : entryOf s q.ring q.pos = some e) : EndsWith q status (failOpen q i status 0 0 s) := (failOpen_spec he).2

/-- A request past its limit leaves the queue, and its descriptor ends with NO_BUFFER (R188). -/
theorem expireWait_spec (w : PoolWait) (s : State) : (∀ v ∈ (expireWait w s).poolWait, ¬(v.ring = w.ring ∧ v.pos = w.pos))
    ∧ ∀ e, entryOf s w.ring w.pos = some e →
      (entryOf (expireWait w s) w.ring w.pos).map (·.state) = some (.done Status.noBuffer 0 0 0) := by
  have gone := dequeue_gone ⟨w.ring, w.pos, (entryOf s w.ring w.pos).elim 0 (·.w)⟩ s
  have gone' := dequeue_gone ⟨w.ring, w.pos, (entryOf s w.ring w.pos).elim 0 (·.w)⟩
    (dequeue ⟨w.ring, w.pos, (entryOf s w.ring w.pos).elim 0 (·.w)⟩ s)
  simp only [expireWait]
  generalize hq : (⟨w.ring, w.pos, (entryOf s w.ring w.pos).elim 0 (·.w)⟩ : Desc) = q at gone gone' ⊢
  have ring : q.ring = w.ring := by rw [← hq]
  have pos : q.pos = w.pos := by rw [← hq]
  rw [← ring, ← pos] at *
  split
  · exact ⟨fun v hv => gone' v (failOpen_poolWait .. ▸ hv), fun e he => failOpen_ends (s := dequeue q s) (e := e) he⟩
  next h _ _ _ =>
    exact ⟨gone, fun e he => finish_endsWith (q := q) (s := (dequeue q s).setImage h Image.reset) (e := e) he Status.noBuffer⟩
  · exact ⟨gone, fun e he => finish_endsWith (q := q) (s := dequeue q s) (e := e) he Status.noBuffer⟩

end

/-- Settles O25: the completion and the deadline of a transfer, the retry and the expiry of a request that waits. -/
theorem transfersAndAllocations : Obligations.TransfersAndAllocations := by
  unfold Obligations.TransfersAndAllocations
  refine ⟨⟨fun m host tr s runs free done noFeed given => exec_moverTransferComplete_spec runs free done noFeed given,
    fun m tr s runs free => ⟨exec_transferDeadline_late runs free, exec_transferDeadline_early runs free⟩⟩, fun p w s =>
    ⟨fun kd n head one other alone may a free => exec_allocationRetry_spec head one other alone may free, fun due => ?_⟩⟩
  obtain ⟨gone, ended⟩ := expireWait_spec w s
  refine ⟨expireWait w s, ?_, gone, ended⟩
  rw [exec_allocationWaitExpiry, execAllocationWaitExpiry, due]

end Sys2Proof.Machine
end

section
/-! PROOFS. A mover writes the rows of its descriptor in order and nothing else (R176–R180, R202). -/

namespace Sys2Proof.Machine

/-! ## Consecutive rows of memory -/

/-- `n` rows from row `i` on of the area at `dst`, row x holding `D x`. -/
def rowsWritten (dst : Nat) (D : Nat → Row) : Nat → Nat → List Host.Cell → List Host.Cell
  | 0, _, m => m
  | n + 1, i, m => rowsWritten dst D n (i + 1) (Memory.writeRow (dst + 512 * i) (D i) m)

/-- A row ends before every later one begins. -/
theorem row_end_le (dst : Nat) {i j : Nat} (h : i < j) : dst + 512 * i + 512 ≤ dst + 512 * j := by
  rw [Nat.add_assoc, ← Nat.mul_succ]
  exact Nat.add_le_add_left (Nat.mul_le_mul_left 512 h) dst

theorem rowsWritten_byte (dst : Nat) (D : Nat → Row) {n i a : Nat} (m : List Host.Cell)
    (h : a < dst + 512 * i ∨ dst + 512 * (i + n) ≤ a) : Memory.byte a (rowsWritten dst D n i m) = Memory.byte a m := by
  induction n generalizing i m with
  | zero => rfl
  | succ n ih =>
    have outside : a < dst + 512 * i ∨ dst + 512 * i + 512 ≤ a :=
      h.imp_right (Nat.le_trans (row_end_le dst (by omega)))
    rw [rowsWritten, ih _ (by omega)]
    have outside' : a < dst + 512 * i ∨ dst + 512 * i + (bytesLE 512 (D i).toNat).length ≤ a := by
      rw [bytesLE_length]
      exact outside
    exact Memory.byte_write_outside _ _ _ _ outside'

theorem rowsWritten_row_outside (dst : Nat) (D : Nat → Row) {n i a : Nat} (m : List Host.Cell)
    (h : a + 512 ≤ dst + 512 * i ∨ dst + 512 * (i + n) ≤ a) : Memory.row a (rowsWritten dst D n i m) = Memory.row a m := by
  induction n generalizing i m with
  | zero => rfl
  | succ n ih =>
    rw [rowsWritten, ih _ (by omega)]
    exact Memory.row_writeRow_other _ _ _ _ (h.imp_right (Nat.le_trans (row_end_le dst (by omega))))

theorem rowsWritten_row (dst : Nat) (D : Nat → Row) {n i x : Nat} (m : List Host.Cell) (low : i ≤ x) (high : x < i + n) :
    Memory.row (dst + 512 * x) (rowsWritten dst D n i m) = D x := by
  induction n generalizing i m with
  | zero => omega
  | succ n ih =>
    rw [rowsWritten]
    by_cases first : x = i
    · subst first
      rw [rowsWritten_row_outside dst D _ (by omega), Memory.row_writeRow_same]
    · exact ih _ (by omega) (by omega)

/-! ## One row -/

/-- What the move of one row for `w` leaves: the movers, no load of the step for `w`, and no stored error where none was. -/
structure RowGoes (w : BitVec 512) (s t : State) : Prop where
  transfers : t.transfers = s.transfers
  unloaded : loadOf s w = none → loadOf t w = none
  clean : s.granuleErrors = [] → t.granuleErrors = []

theorem RowGoes.refl (w : BitVec 512) (s : State) : RowGoes w s s := ⟨rfl, id, id⟩

theorem RowGoes.trans {w : BitVec 512} {s t u : State} (h : RowGoes w s t) (g : RowGoes w t u) : RowGoes w s u :=
  ⟨g.transfers.trans h.transfers, fun none_ => g.unloaded (h.unloaded none_), fun none_ => g.clean (h.clean none_)⟩

theorem loadOf_of_runs {s t : State} (h : t.runs = s.runs) (w : BitVec 512) : loadOf t w = loadOf s w := by
  rw [loadOf, loadOf, State.run, State.run, h]

theorem OnlyRows.goes {s t : State} (h : OnlyRows s t) (clean : s.granuleErrors = [] → t.granuleErrors = [])
    (w : BitVec 512) : RowGoes w s t :=
  ⟨by rw [h], fun none_ => (loadOf_of_runs (by rw [h]) w).trans none_, clean⟩

theorem loadOf_setStep {w : BitVec 512} {st : Step} {s : State} (h : st.loads.find? (fun l => l.w = w) = none) :
    loadOf (setStep (Mv.coupe w) st s) w = none := by
  unfold loadOf
  split
  · rfl
  · rw [setStep, State.setRun_run]
    exact h

/-- The loads of an open step that has none for `w`. -/
theorem loads_of_loadOf {w : BitVec 512} {s : State} {st : Step} (host : Mv.device w = false) (none_ : loadOf s w = none)
    (isOpen : (s.run (Mv.coupe w)).openStep = some st) : st.loads.find? (fun l => l.w = w) = none := by
  rw [loadOf, if_neg (by simp [host]), isOpen] at none_
  exact none_

theorem sendOutcome_loadOf {w : BitVec 512} {s : State} (status : BitVec 8) (host : Mv.device w = false)
    (none_ : loadOf s w = none) : loadOf (sendOutcome (Mv.coupe w) status s) w = none := by
  simp only [sendOutcome]
  split
  · exact none_
  next st isOpen =>
    have loads := loads_of_loadOf host none_ isOpen
    have put_ := loadOf_setStep (st := { st with outcomeSent := true }) (s := sendAllMembers (Mv.coupe w) 3 (8 + st.reqs.length +
      (if (digestOf s (Mv.coupe w)).isSome then 8 else 0)) (.outcome ⟨(s.coupe (Mv.coupe w)).sIndex, StepD.xtag st.w,
        BitVec.ofNat 2 st.attempt, BitVec.ofNat 7 (StepD.nreq st.w), status, st.reqs.map st.final, digestOf s (Mv.coupe w),
        (s.coupe (Mv.coupe w)).sCount⟩) s) loads
    generalize setStep (Mv.coupe w) { st with outcomeSent := true } _ = u at put_ ⊢
    rw [loadOf, if_neg (by simp [host])] at put_ ⊢
    rw [State.setRun_run]
    exact put_

theorem endStep_loadOf {w : BitVec 512} {s : State} (status detail dkind) (host : Mv.device w = false)
    (none_ : loadOf s w = none) : loadOf (endStep (Mv.coupe w) status detail dkind s) w = none := by
  unfold endStep
  split
  · exact none_
  next st isOpen =>
    split
    · exact none_
    · dsimp only
      split
      · exact sendOutcome_loadOf _ host (loadOf_setStep List.find?_nil)
      · exact loadOf_setStep List.find?_nil

theorem triggerReplay_loadOf {w : BitVec 512} {s : State} (status detail dkind) (host : Mv.device w = false)
    (none_ : loadOf s w = none) : loadOf (triggerReplay (Mv.coupe w) status detail dkind s) w = none := by
  unfold triggerReplay
  split
  · exact none_
  next st isOpen =>
    have loads := loads_of_loadOf host none_ isOpen
    have kept := loadOf_setStep (st := { st with needReplay := true }) (s := s) loads
    split_ifs
    · exact none_
    · exact sendOutcome_loadOf _ host kept
    · exact kept
    · exact endStep_loadOf _ _ _ host none_

theorem replayIfAble_goes {w : BitVec 512} (host : Mv.device w = false) (s : State) :
    RowGoes w s (replayIfAble (Mv.coupe w) s) ∧ (replayIfAble (Mv.coupe w) s).mem = s.mem := by
  unfold replayIfAble
  split
  · split
    · have streams := triggerReplay_streams (Mv.coupe w) Status.restartRequired 0 0 s
      exact ⟨⟨by rw [streams.rest], triggerReplay_loadOf _ _ _ host, fun clean => by rw [streams.rest]; exact clean⟩, streams.mem⟩
    · exact ⟨.refl w s, rfl⟩
  · exact ⟨.refl w s, rfl⟩

theorem consumePoison_goes {w : BitVec 512} (host : Mv.device w = false) (origin core tag) (s : State) :
    RowGoes w s (consumePoison w origin core tag s) ∧ (consumePoison w origin core tag s).mem = s.mem := by
  simp only [consumePoison]
  split
  · exact ⟨.refl w s, rfl⟩
  next st isOpen =>
    refine ⟨⟨rfl, fun none_ => ?_, id⟩, rfl⟩
    have loads := loads_of_loadOf host none_ isOpen
    exact loadOf_setStep loads

theorem setGranules_clean (p) : ∀ (l : List Nat) (s : State), s.granuleErrors = [] → (setGranules p l s).granuleErrors = []
  | [], _, clean => clean
  | a :: as, s, clean => setGranules_clean p as _ (by
    change s.granuleErrors.set .none a .none = []
    rw [clean]
    simp [Sparse.set])

theorem setGranules_mem (p) : ∀ (l : List Nat) (s : State), (setGranules p l s).mem = s.mem
  | [], _ => rfl
  | _ :: as, _ => (setGranules_mem p as _).trans rfl

/-- The bench row of an aligned bench address lies at that address. -/
theorem benchAddr_of {a : Nat} (aligned : a % 512 = 0) (bench : isBench a = true) :
    benchAddr (BitVec.ofNat 12 (a >>> 24)) (a >>> 9 % 2 ^ 15) = a := by
  have small : a < 0x001000000000 := of_decide_eq_true bench
  rw [benchAddr, BitVec.toNat_ofNat, Nat.shiftRight_eq_div_pow, Nat.shiftRight_eq_div_pow]
  omega

theorem writeRowAt_goes {a : Nat} (aligned : a % 512 = 0) (d : Row) (p : Bool) (s : State) (w : BitVec 512) :
    RowGoes w s (writeRowAt a d p s) ∧ (writeRowAt a d p s).mem = Memory.writeRow a d s.mem := by
  have rows := writeRowAt_rows a d p s
  unfold writeRowAt at rows ⊢
  split
  next bench =>
    refine ⟨⟨rfl, id, id⟩, ?_⟩
    rw [writeBench, benchAddr_of aligned bench]
  next tier =>
    rw [if_neg tier] at rows
    exact ⟨rows.goes (fun clean => setGranules_clean p _ _ clean) w, setGranules_mem ..⟩

section
variable {tr : Transfer}

theorem chainRow_none {s : State} (none_ : loadOf s tr.w = none) (d : Row) (p : Bool) : chainRow tr d p s = none := by
  rw [chainRow, none_]

/-- A row for memory is written at its place. -/
theorem destRow_writes {s : State} (none_ : loadOf s tr.w = none) (tier : Mv.dspace tr.w = 0) (whole : Mv.blen tr.w = 0)
    (d : Row) (p : Bool) : destRow tr d p s = some (writeRowAt (Mv.dst tr.w + 512 * tr.written) d p s) := by
  rw [destRow, chainRow_none none_, if_neg (by simp), if_neg (by omega), if_neg (by omega), if_neg (by omega)]

theorem moveRow_stores {e : Option (BitVec 64)} {host rest : List (Row × Bool)} {s s1 : State} {d : Row} {p : Bool}
    (none_ : loadOf s tr.w = none) (tier : Mv.dspace tr.w = 0) (whole : Mv.blen tr.w = 0) (aligned : Mv.dst tr.w % 512 = 0)
    (source : sourceRow tr e host s = some ((d, p), rest, s1)) (goes : RowGoes tr.w s s1) (same : s1.mem = s.mem) :
    ∃ t, moveRow tr e host s = some (rest, t) ∧ RowGoes tr.w s t
      ∧ t.mem = Memory.writeRow (Mv.dst tr.w + 512 * tr.written) d s.mem := by
  have at_ : (Mv.dst tr.w + 512 * tr.written) % 512 = 0 := by rw [Nat.add_mul_mod_self_left, aligned]
  obtain ⟨wrote, mem⟩ := writeRowAt_goes at_ d p s1 tr.w
  rw [moveRow, source]
  dsimp only
  rw [destRow_writes (goes.unloaded none_) tier whole]
  dsimp only
  rw [same] at mem
  have stored := goes.trans wrote
  generalize writeRowAt (Mv.dst tr.w + 512 * tr.written) d p s1 = u at mem stored ⊢
  have after {t : State} (h : RowGoes tr.w u t ∧ t.mem = u.mem) :
      RowGoes tr.w s t ∧ t.mem = Memory.writeRow (Mv.dst tr.w + 512 * tr.written) d s.mem :=
    ⟨stored.trans h.1, h.2.trans mem⟩
  have replays (own : Mv.device tr.w = false) (c : Prop) [Decidable c] {v : State} (h : RowGoes tr.w u v ∧ v.mem = u.mem) :
      RowGoes tr.w u (if c then replayIfAble (Mv.coupe tr.w) v else v)
        ∧ (if c then replayIfAble (Mv.coupe tr.w) v else v).mem = u.mem := by
    split
    · obtain ⟨again, kept⟩ := replayIfAble_goes own v
      exact ⟨h.1.trans again, kept.trans h.2⟩
    · exact h
  split
  next consumes =>
    simp only [Bool.and_eq_true, Bool.not_eq_true'] at consumes
    have consumed := consumePoison_goes consumes.2
    refine ⟨_, rfl, after ?_⟩
    split
    · exact replays consumes.2 _ (consumed _ _ _ u)
    · exact consumed _ _ _ u
  · refine ⟨_, rfl, after ?_⟩
    split
    next x _ =>
      by_cases own : Mv.device tr.w = false
      · exact replays own _ ⟨.refl _ u, rfl⟩
      · rw [if_neg (by simp [own])]
        exact ⟨.refl _ u, rfl⟩
    · exact ⟨.refl _ u, rfl⟩

/-! ## Many rows -/

/-- Rows `i` to `lim` − 1, each read as `D` says from a state that meets `I`, are written one after the other. -/
theorem moveRows_stores {D : Nat → Row} {I : State → Prop} {hosts : Nat → List (Row × Bool)} {lim : Nat}
    (tier : Mv.dspace tr.w = 0) (whole : Mv.blen tr.w = 0) (aligned : Mv.dst tr.w % 512 = 0)
    (short : lim ≤ tr.plan.length)
    (source : ∀ i (h : i < lim) t, I t → ∃ p t1, sourceRow { tr with written := i } (tr.plan[i]'(by omega)) (hosts i) t
      = some ((D i, p), hosts (i + 1), t1) ∧ RowGoes tr.w t t1 ∧ t1.mem = t.mem)
    (keeps : ∀ i t u, i < lim → I t → RowGoes tr.w t u → u.mem = Memory.writeRow (Mv.dst tr.w + 512 * i) (D i) t.mem → I u)
    (n i : Nat) (s : State) (low : i ≤ lim)
    (ends : i + n = lim ∨ (lim ≤ i + n ∧ ∀ n t, moveRows n { tr with written := lim } (hosts lim) t = ({ tr with written := lim }, t)))
    (none_ : loadOf s tr.w = none) (meets : I s) :
    ∃ t, moveRows n { tr with written := i } (hosts i) s = ({ tr with written := lim }, t) ∧ RowGoes tr.w s t
      ∧ t.mem = rowsWritten (Mv.dst tr.w) D (lim - i) i s.mem := by
  induction n generalizing i s with
  | zero =>
    obtain rfl : i = lim := by omega
    exact ⟨s, rfl, .refl _ s, by rw [Nat.sub_self]; rfl⟩
  | succ n ih =>
    by_cases more : i < lim
    · obtain ⟨p, t1, read, goes, same⟩ := source i more s meets
      obtain ⟨u, moved, stored, mem⟩ := moveRow_stores (tr := { tr with written := i }) none_ tier whole aligned read goes same
      obtain ⟨v, rest, goesOn, mem'⟩ := ih (i + 1) u more (ends.imp (by omega) fun h => ⟨by omega, h.2⟩) (stored.unloaded none_) (keeps i s u more meets stored mem)
      refine ⟨v, ?_, stored.trans goesOn, ?_⟩
      · rw [moveRows, List.getElem?_eq_getElem (by omega : i < tr.plan.length)]
        dsimp only
        rw [moved]
        exact rest
      · obtain ⟨left, hleft⟩ : ∃ left, lim - i = left + 1 := ⟨lim - i - 1, by omega⟩
        rw [mem', mem, hleft, show lim - (i + 1) = left by omega]
        rfl
    · obtain rfl : i = lim := by omega
      have stuck := (ends.resolve_left (by omega)).2
      exact ⟨s, stuck _ s, .refl _ s, by rw [Nat.sub_self]; rfl⟩

end

/-! ## The start of a transfer -/

theorem moverCause_zero {s : State} {w : BitVec 512} {plan : List (Option (BitVec 64))} (h : moverCause s w plan = 0) :
    moverFields s w = true ∧ ∀ r ∈ moverRanges w plan, r.1 % 512 = 0 := by
  simp only [moverCause] at h
  split at h
  · exact absurd h (by decide)
  next fields =>
    refine ⟨by simpa using fields, ?_⟩
    split at h
    · exact absurd h (by decide)
    · split at h
      · exact absurd h (by decide)
      · split at h
        · exact absurd h (by decide)
        next aligned =>
          simp only [List.any_eq_true, decide_eq_true_eq, not_exists, not_and, not_not] at aligned
          exact aligned

/-- The transfer that mover `m` starts for `w` (R178). -/
def begun (m : MoverId) (w : BitVec 512) (s : State) : Transfer :=
  ⟨m, w, transferPlan s w, 0, s.timebase, transferLimit w (transferPlan s w), false, false⟩

section
variable {m : MoverId} {w : BitVec 512} {s : State} (idle : s.transfers.find? (fun t => t.mover = m) = none)
include idle

theorem exec_moverTransfer_begins {n : Nat} {host : HostRows} (free : transferHeld s w = false)
    (legal : moverCause s w (transferPlan s w) = 0) (sound : touchesFailed s w (transferPlan s w) = false)
    (unmasked : Mv.device w = true ∨ (maskedSeq s w false = false ∧ maskedSeq s w true = false)) :
    exec (.moverTransfer m w n host) s
      = .next (continueTransfer (begun m w s) n host { s with transfers := s.transfers ++ [begun m w s] }) := by
  have masks : maskedSeq s w false = false ∧ maskedSeq s w true = false := by
    rcases unmasked with own | masks
    · have none_ (passed : Bool) : maskedSeq s w passed = false := by
        unfold maskedSeq
        split
        · rfl
        · simp [own]
      exact ⟨none_ _, none_ _⟩
    · exact masks
  obtain ⟨failed, passed⟩ := masks
  rw [exec_moverTransfer, execMoverTransfer, if_neg (by simp [free]), idle]
  dsimp only
  rw [if_neg (by simp [legal]), if_neg (by simp [sound]), failed, passed]
  rfl

/-- Mover `m` runs `w` with `rows` rows written. -/
theorem begun_runs {t : State} {rows : Nat} (same : t.transfers = s.transfers ++ [begun m w s]) :
    ∃ tr, (t.transfers.map (fun x => if x.mover = m then { begun m w s with written := rows } else x)).find?
        (fun t => t.mover = m) = some tr
      ∧ tr.w = w ∧ tr.written = rows ∧ tr.started = s.timebase ∧ tr.limit = transferLimit w (transferPlan s w) := by
  refine ⟨{ begun m w s with written := rows }, ?_, rfl, rfl, rfl, rfl⟩
  have others : s.transfers.map (fun x => if x.mover = m then { begun m w s with written := rows } else x) = s.transfers := by
    refine (List.map_congr_left fun x hx => ?_).trans s.transfers.map_id
    have other : ¬x.mover = m := by simpa using List.find?_eq_none.1 idle x hx
    rw [if_neg other]
    rfl
  rw [same, List.map_append, others, List.find?_append, idle, List.map_singleton]
  simp [begun]

end

/-! ## Where the rows come from -/

/-- Nothing is wrong with a row read from a tier without stored errors. -/
theorem readRowAt_goes {a : Nat} {s : State} (aligned : a % 512 = 0) (clean : s.granuleErrors = []) (w : BitVec 512) :
    (readRowAt a s).1.1 = Memory.row a s.mem ∧ RowGoes w s (readRowAt a s).2 ∧ (readRowAt a s).2.mem = s.mem := by
  unfold readRowAt
  split
  next bench =>
    have read := (readBench_read (BitVec.ofNat 12 (a >>> 24)) (a >>> 9 % 2 ^ 15) 2 s).rest
    refine ⟨?_, ⟨by rw [read], fun none_ => (loadOf_of_runs (by rw [read]) w).trans none_, fun h => by rw [read]; exact h⟩,
      by rw [read]⟩
    have data : (readBench (BitVec.ofNat 12 (a >>> 24)) (a >>> 9 % 2 ^ 15) 2 s).1.1
        = Memory.row (benchAddr (BitVec.ofNat 12 (a >>> 24)) (a >>> 9 % 2 ^ 15)) s.mem := by
      simp only [readBench]
      split
      · split <;> rfl
      · rfl
      · rfl
      · rfl
    rw [data, benchAddr_of aligned bench]
  · have same : ∀ l : List Nat, (readGranules l s).2 = s := fun l => by
      induction l with
      | nil => rfl
      | cons g l ih =>
        have one : readGranule g s = (s.poison.contains g, s) := by rw [readGranule, clean]; rfl
        rw [readGranules, one]
        exact ih
    dsimp only
    rw [same]
    exact ⟨rfl, .refl w s, rfl⟩

/-! ## The five kinds of transfer -/

/-- Mover `m` runs `w` since `s`, with `rows` rows written. -/
def Running (m : MoverId) (w : BitVec 512) (s t : State) (rows : Nat) : Prop :=
  ∃ tr, t.transfers.find? (fun t => t.mover = m) = some tr ∧ tr.w = w ∧ tr.written = rows
    ∧ tr.started = s.timebase ∧ tr.limit = transferLimit w (transferPlan s w)

section
variable {m : MoverId} {w : BitVec 512} {n : Nat} {host : HostRows} {s : State}
  (idle : s.transfers.find? (fun t => t.mover = m) = none) (free : transferHeld s w = false) (unfed : loadOf s w = none)
  (legal : moverCause s w (transferPlan s w) = 0) (sound : touchesFailed s w (transferPlan s w) = false)
  (unmasked : Mv.device w = true ∨ (maskedSeq s w false = false ∧ maskedSeq s w true = false))
include idle free unfed legal sound unmasked

/-- Rows that are read as `D` says are stored at the destination, and no other byte changes. -/
theorem exec_moverTransfer_stores {D : Nat → Row} {I : State → Prop} {hosts : Nat → List (Row × Bool)} {lim : Nat}
    (tier : Mv.dspace w = 0) (whole : Mv.blen w = 0) (given : Mv.sspace w = 1 ∧ Mv.op w ≠ 3 → ∃ rows, host = .ok rows)
    (short : lim ≤ (transferPlan s w).length) (first : hosts 0 = hostList host)
    (source : ∀ i (h : i < lim) t, I t → ∃ p t1, sourceRow { begun m w s with written := i }
      ((transferPlan s w)[i]'(by omega)) (hosts i) t = some ((D i, p), hosts (i + 1), t1) ∧ RowGoes w t t1 ∧ t1.mem = t.mem)
    (keeps : ∀ i t u, i < lim → I t → RowGoes w t u → u.mem = Memory.writeRow (Mv.dst w + 512 * i) (D i) t.mem → I u)
    (ends : n = lim ∨ (lim ≤ n ∧ ∀ n t, moveRows n { begun m w s with written := lim } (hosts lim) t
      = ({ begun m w s with written := lim }, t)))
    (meets : I { s with transfers := s.transfers ++ [begun m w s] }) :
    ∃ t, exec (.moverTransfer m w n host) s = .next t
      ∧ ((∀ a, (a < Mv.dst w ∨ Mv.dst w + 512 * lim ≤ a) → Memory.byte a t.mem = Memory.byte a s.mem) ∧ Running m w s t lim)
      ∧ ∀ i, i < lim → Memory.row (Mv.dst w + 512 * i) t.mem = D i := by
  have aligned : Mv.dst w % 512 = 0 := (moverCause_zero legal).2 (Mv.dst w, 512 * (transferPlan s w).length) (by
    rw [moverRanges, if_pos tier]
    exact List.mem_append_right _ List.mem_cons_self)
  obtain ⟨t, moved, goes, mem⟩ := moveRows_stores (tr := begun m w s) (D := D) (I := I) (hosts := hosts) tier whole aligned short
    source keeps n 0 { s with transfers := s.transfers ++ [begun m w s] } (Nat.zero_le _)
    (by rw [Nat.zero_add]; exact ends) unfed meets
  rw [first] at moved
  refine ⟨{ t with transfers := t.transfers.map (fun x => if x.mover = m then { begun m w s with written := lim } else x) }, ?_,
    ⟨fun a out => ?_, begun_runs (rows := lim) idle goes.transfers⟩, fun i h => ?_⟩
  · rw [exec_moverTransfer_begins idle free legal sound unmasked]
    exact congrArg _ (continueTransfer_moves (tr := begun m w s) given moved)
  · exact (congrArg (Memory.byte a) mem).trans (rowsWritten_byte _ _ _ (by rw [Nat.zero_add, Nat.mul_zero]; exact out))
  · exact (congrArg (Memory.row _) mem).trans (rowsWritten_row _ _ _ (Nat.zero_le i) (by omega))

omit idle free unfed legal sound unmasked in
theorem ends_of_plan {k : Nat} {hosts : Nat → List (Row × Bool)} {tr : Transfer} (h : k = min n tr.plan.length) :
    n = k ∨ (k ≤ n ∧ ∀ n t, moveRows n { tr with written := k } (hosts k) t = ({ tr with written := k }, t)) := by
  by_cases few : n ≤ tr.plan.length
  · exact .inl (by omega)
  · exact .inr ⟨by omega, fun n t => moveRows_done (tr := { tr with written := k }) (by change tr.plan.length ≤ k; omega) _ _ n⟩

omit idle free unfed legal sound unmasked in
/-- A FILL reads its pattern. -/
theorem sourceRow_fill {tr : Transfer} (fill : Mv.op tr.w = 3) (bare : tr.padded = false) (host : List (Row × Bool)) (t : State) :
    sourceRow tr none host t = some ((Row.ofWords32 (List.replicate 128 (Mv.pattern tr.w)), false), host, t) := by
  simp only [sourceRow, bare, padRowOf, fill]
  rfl

omit idle free unfed legal sound unmasked in
theorem transferPlan_fill (fill : Mv.op w = 3) : transferPlan s w = List.replicate (Mv.rows w) none := by
  rw [transferPlan, if_pos fill]

omit idle free unfed legal sound unmasked in
theorem transferPlan_straight (copies : Mv.op w ≠ 3) (straight : Mv.walk w = 0xFFFF) :
    transferPlan s w = (List.range (Mv.rows w)).map (fun i => some (BitVec.ofNat 64 (Mv.src w + 512 * i))) := by
  rw [transferPlan, if_neg copies, if_pos straight]

theorem exec_moverTransfer_fills (fill : Mv.op w = 3) (tier : Mv.dspace w = 0) (whole : Mv.blen w = 0) :
    ∃ t, exec (.moverTransfer m w n host) s = .next t
      ∧ ((∀ a, (a < Mv.dst w ∨ Mv.dst w + 512 * min n (transferPlan s w).length ≤ a) →
          Memory.byte a t.mem = Memory.byte a s.mem) ∧ Running m w s t (min n (transferPlan s w).length))
      ∧ ∀ i, i < min n (transferPlan s w).length →
        Memory.row (Mv.dst w + 512 * i) t.mem = Row.ofWords32 (List.replicate 128 (Mv.pattern w)) := by
  refine exec_moverTransfer_stores idle free unfed legal sound unmasked
    (D := fun _ => Row.ofWords32 (List.replicate 128 (Mv.pattern w))) (I := fun _ => True) (hosts := fun _ => hostList host)
    tier whole (fun h => absurd fill h.2) (Nat.min_le_right ..) rfl (fun i h t _ => ?_) (fun _ _ _ _ _ _ _ => trivial)
    (ends_of_plan (n := n) (hosts := fun _ => hostList host) (tr := begun m w s) rfl) trivial
  refine ⟨false, t, ?_, .refl w t, rfl⟩
  have pad : (transferPlan s w)[i]'(Nat.lt_of_lt_of_le h (Nat.min_le_right ..)) = none := by
    simp only [transferPlan_fill fill, List.getElem_replicate]
  rw [pad]
  exact sourceRow_fill (tr := { begun m w s with written := i }) fill rfl _ t

theorem exec_moverTransfer_copies (copies : Mv.op w ≠ 3) (from_ : Mv.sspace w = 0) (tier : Mv.dspace w = 0)
    (whole : Mv.blen w = 0) (straight : Mv.walk w = 0xFFFF) (clean : s.granuleErrors = [])
    (apart : Mv.src w + 512 * min n (transferPlan s w).length ≤ Mv.dst w
      ∨ Mv.dst w + 512 * min n (transferPlan s w).length ≤ Mv.src w) :
    ∃ t, exec (.moverTransfer m w n host) s = .next t
      ∧ ((∀ a, (a < Mv.dst w ∨ Mv.dst w + 512 * min n (transferPlan s w).length ≤ a) →
          Memory.byte a t.mem = Memory.byte a s.mem) ∧ Running m w s t (min n (transferPlan s w).length))
      ∧ ∀ i, i < min n (transferPlan s w).length →
        Memory.row (Mv.dst w + 512 * i) t.mem = Memory.row (Mv.src w + 512 * i) s.mem := by
  obtain ⟨fields, rows⟩ := moverCause_zero legal
  have aligned : Mv.src w % 512 = 0 := rows (Mv.src w, 512 * Mv.rows w) (by
    rw [moverRanges, if_neg (by simp [copies, from_]), if_pos straight]
    exact List.mem_append_left _ List.mem_cons_self)
  have low : Mv.src w < 2 ^ 48 := by
    simp only [moverFields, Bool.and_eq_true, Bool.or_eq_true, decide_eq_true_eq] at fields
    omega
  have few : Mv.rows w < 2 ^ 24 := Nat.mod_lt _ (by decide)
  refine exec_moverTransfer_stores idle free unfed legal sound unmasked
    (D := fun x => Memory.row (Mv.src w + 512 * x) s.mem)
    (I := fun t => t.granuleErrors = [] ∧ ∀ x, x < min n (transferPlan s w).length →
      Memory.row (Mv.src w + 512 * x) t.mem = Memory.row (Mv.src w + 512 * x) s.mem)
    (hosts := fun _ => hostList host) tier whole (fun h => absurd (from_.symm.trans h.1) (by decide)) (Nat.min_le_right ..) rfl
    (fun i h t meets => ?_) (fun i t u h meets goes mem => ⟨goes.clean meets.1, fun x hx => ?_⟩)
    (ends_of_plan (n := n) (hosts := fun _ => hostList host) (tr := begun m w s) rfl) ⟨clean, fun _ _ => rfl⟩
  · have inPlan : i < (transferPlan s w).length := Nat.lt_of_lt_of_le h (Nat.min_le_right ..)
    have entry : (transferPlan s w)[i] = some (BitVec.ofNat 64 (Mv.src w + 512 * i)) := by
      simp only [transferPlan_straight copies straight, List.getElem_map, List.getElem_range]
    have inRows : i < Mv.rows w := by
      rw [transferPlan_straight copies straight, List.length_map, List.length_range] at inPlan
      exact inPlan
    have small : Mv.src w + 512 * i < 2 ^ 64 := by omega
    have at_ : (Mv.src w + 512 * i) % 512 = 0 := by rw [Nat.add_mul_mod_self_left, aligned]
    obtain ⟨data, goes, same⟩ := readRowAt_goes (s := t) at_ meets.1 w
    have notHost : ¬Mv.sspace w = 1 := by omega
    refine ⟨(readRowAt (Mv.src w + 512 * i) t).1.2, (readRowAt (Mv.src w + 512 * i) t).2, ?_, goes, same⟩
    rw [entry]
    unfold sourceRow
    dsimp only
    rw [if_neg (by exact notHost), BitVec.toNat_ofNat, Nat.mod_eq_of_lt small, ← meets.2 i h, ← data]
  · rw [mem, Memory.row_writeRow_other, meets.2 x hx]
    rcases apart with before | after
    · exact .inl (Nat.le_trans (row_end_le _ hx) (Nat.le_trans before (Nat.le_add_right ..)))
    · exact .inr (Nat.le_trans (row_end_le _ h) (Nat.le_trans after (Nat.le_add_right ..)))

theorem exec_moverTransfer_receives {rows : List (Row × Bool)} (copies : Mv.op w ≠ 3) (from_ : Mv.sspace w = 1)
    (tier : Mv.dspace w = 0) (whole : Mv.blen w = 0) (straight : Mv.walk w = 0xFFFF) (ok : host = .ok rows) :
    ∃ t, exec (.moverTransfer m w n host) s = .next t
      ∧ ((∀ a, (a < Mv.dst w ∨ Mv.dst w + 512 * min (min n (transferPlan s w).length) rows.length ≤ a) →
          Memory.byte a t.mem = Memory.byte a s.mem)
        ∧ Running m w s t (min (min n (transferPlan s w).length) rows.length))
      ∧ ∀ i (h : i < rows.length), i < min n (transferPlan s w).length →
        Memory.row (Mv.dst w + 512 * i) t.mem = rows[i].1 := by
  have entry (i : Nat) (h : i < (transferPlan s w).length) :
      (transferPlan s w)[i] = some (BitVec.ofNat 64 (Mv.src w + 512 * i)) := by
    simp only [transferPlan_straight copies straight, List.getElem_map, List.getElem_range]
  have main := exec_moverTransfer_stores (n := n) (host := host) idle free unfed legal sound unmasked
    (D := fun x => ((rows[x]?).map (·.1)).getD 0) (I := fun _ => True) (hosts := fun i => rows.drop i)
    (lim := min (min n (transferPlan s w).length) rows.length) tier whole (fun _ => ⟨rows, ok⟩)
    (by omega) (by rw [ok]; rfl) (fun i h t _ => ?_) (fun _ _ _ _ _ _ _ => trivial) ?_ trivial
  · obtain ⟨t, ran, stored, data⟩ := main
    refine ⟨t, ran, stored, fun i h hi => ?_⟩
    rw [data i (by omega), List.getElem?_eq_getElem h]
    rfl
  · have inRows : i < rows.length := by omega
    refine ⟨rows[i].2, t, ?_, .refl w t, rfl⟩
    rw [entry i (by omega), List.drop_eq_getElem_cons inRows, sourceRow]
    dsimp only
    rw [if_pos (by exact from_), List.getElem?_eq_getElem inRows]
    rfl
  · by_cases all : n ≤ min (transferPlan s w).length rows.length
    · exact .inl (by omega)
    · refine .inr ⟨by omega, fun n' t => ?_⟩
      by_cases planned : (transferPlan s w).length ≤ min (min n (transferPlan s w).length) rows.length
      · exact moveRows_done (tr := { begun m w s with written := min (min n (transferPlan s w).length) rows.length }) planned _ _ n'
      · have out : rows.drop (min (min n (transferPlan s w).length) rows.length) = [] := List.drop_eq_nil_of_le (by omega)
        rw [out]
        cases n' with
        | zero => rfl
        | succ n' =>
          have inPlan : min (min n (transferPlan s w).length) rows.length < (transferPlan s w).length := by omega
          have given : (begun m w s).plan[min (min n (transferPlan s w).length) rows.length]?
              = some (some (BitVec.ofNat 64 (Mv.src w + 512 * min (min n (transferPlan s w).length) rows.length))) :=
            (List.getElem?_eq_getElem inPlan).trans (congrArg some (entry _ inPlan))
          rw [moveRows]
          dsimp only
          rw [given]
          dsimp only
          rw [moveRow, sourceRow]
          dsimp only
          rw [if_pos (by exact from_)]

theorem exec_moverTransfer_fails (copies : Mv.op w ≠ 3) (from_ : Mv.sspace w = 1) (bad : host = .failed ∨ host = .timeout) :
    ∃ t, exec (.moverTransfer m w n host) s = .next t ∧ SameBytes s t ∧ t.transfers.find? (fun t => t.mover = m) = none := by
  rw [exec_moverTransfer_begins idle free legal sound unmasked]
  have aborts (status : BitVec 8) : let t := abortTransfer m w status { s with transfers := s.transfers ++ [begun m w s] }
      SameBytes s t ∧ t.transfers.find? (fun t => t.mover = m) = none := by
    obtain ⟨left, -⟩ := abortTransfer_spec m w status { s with transfers := s.transfers ++ [begun m w s] }
    exact ⟨fun a => congrArg (Memory.byte a) left.mem, mover_idle left⟩
  have fromHost : (decide (Mv.sspace (begun m w s).w = 1) && decide (Mv.op (begun m w s).w ≠ 3) && !(begun m w s).padded) = true := by
    simp only [Bool.and_eq_true, decide_eq_true_eq]
    exact ⟨⟨from_, copies⟩, rfl⟩
  rw [continueTransfer, if_pos fromHost]
  rcases bad with rfl | rfl
  · exact ⟨_, rfl, aborts Status.lowerFailed⟩
  · exact ⟨_, rfl, aborts Status.lowerTimeout⟩

/-! ## Rows to the host -/

omit idle free unfed legal sound unmasked in
theorem moveRow_sends {tr : Transfer} {s : State} (none_ : loadOf s tr.w = none) (fill : Mv.op tr.w = 3) (out : Mv.dspace tr.w = 1)
    (whole : Mv.blen tr.w = 0) (bare : tr.padded = false) (host : List (Row × Bool)) :
    moveRow tr none host s = some (host, { s with hostOut := s.hostOut ++ [⟨BitVec.ofNat 64 (Mv.dst tr.w + 512 * tr.written),
      bytesLE 512 (Row.ofWords32 (List.replicate 128 (Mv.pattern tr.w))).toNat, false⟩] }) := by
  have sent : destRow tr (Row.ofWords32 (List.replicate 128 (Mv.pattern tr.w))) false s = some { s with hostOut := s.hostOut ++
      [⟨BitVec.ofNat 64 (Mv.dst tr.w + 512 * tr.written),
        bytesLE 512 (Row.ofWords32 (List.replicate 128 (Mv.pattern tr.w))).toNat, false⟩] } := by
    rw [destRow, chainRow_none none_, if_neg (by simp), if_pos out, if_neg (by simp [whole])]
    simp [sendHost, rowPart, whole]
  rw [moveRow, sourceRow_fill fill bare]
  dsimp only
  rw [sent]
  dsimp only
  rw [if_neg (by simp)]
  split <;> simp_all

/-- Rows of the pattern of `w` on their way to the host. -/
def patternRows (w : BitVec 512) (l : List Nat) : List HostWrite :=
  l.map fun x => ⟨BitVec.ofNat 64 (Mv.dst w + 512 * x),
    bytesLE 512 (Row.ofWords32 (List.replicate 128 (Mv.pattern w))).toNat, false⟩

omit idle free unfed legal sound unmasked in
theorem moveRows_sends {tr : Transfer} {rows : Nat} (fill : Mv.op tr.w = 3) (out : Mv.dspace tr.w = 1)
    (whole : Mv.blen tr.w = 0) (bare : tr.padded = false) (plan : tr.plan = List.replicate rows none)
    (host : List (Row × Bool)) (n i : Nat) (s : State) (low : i ≤ rows) (none_ : loadOf s tr.w = none) :
    moveRows n { tr with written := i } host s = ({ tr with written := min (i + n) rows }, { s with
        hostOut := s.hostOut ++ patternRows tr.w (List.range' i (min (i + n) rows - i)) }) := by
  induction n generalizing i s with
  | zero =>
    rw [Nat.add_zero, Nat.min_eq_left low, Nat.sub_self]
    simp [moveRows, patternRows]
  | succ n ih =>
    by_cases more : i < rows
    · have entry : tr.plan[i]? = some none := by rw [plan, List.getElem?_replicate, if_pos more]
      have sent := moveRow_sends (tr := { tr with written := i }) none_ fill out whole bare host
      rw [moveRows]
      dsimp only
      rw [entry]
      dsimp only
      rw [sent]
      dsimp only
      refine (ih (i + 1) { s with hostOut := s.hostOut ++ patternRows tr.w [i] } more none_).trans ?_
      rw [show i + 1 + n = i + (n + 1) by omega]
      have left : min (i + (n + 1)) rows - i = min (i + (n + 1)) rows - (i + 1) + 1 := by omega
      rw [left, List.range'_succ, List.append_assoc]
      rfl
    · obtain rfl : i = rows := by omega
      rw [moveRows_done (by rw [plan, List.length_replicate]), Nat.min_eq_right (by omega), Nat.sub_self]
      simp [patternRows]

theorem exec_moverTransfer_sends (fill : Mv.op w = 3) (out : Mv.dspace w = 1) (whole : Mv.blen w = 0) (from_ : Mv.sspace w = 0) :
    ∃ t, exec (.moverTransfer m w n host) s = .next t ∧ SameBytes s t
      ∧ Running m w s t (min n (transferPlan s w).length)
      ∧ t.hostOut = s.hostOut ++ (List.range (min n (transferPlan s w).length)).map (fun i =>
        ⟨BitVec.ofNat 64 (Mv.dst w + 512 * i), bytesLE 512 (Row.ofWords32 (List.replicate 128 (Mv.pattern w))).toNat, false⟩) := by
  have rows : (transferPlan s w).length = Mv.rows w := by rw [transferPlan_fill fill, List.length_replicate]
  have moved := moveRows_sends (tr := begun m w s) fill out whole rfl (transferPlan_fill fill) (hostList host) n 0
    { s with transfers := s.transfers ++ [begun m w s] } (Nat.zero_le _) unfed
  rw [Nat.zero_add, Nat.sub_zero, ← rows, ← List.range_eq_range'] at moved
  rw [exec_moverTransfer_begins idle free legal sound unmasked,
    continueTransfer_moves (tr := begun m w s) (fun h => absurd (from_.symm.trans h.1) (by decide)) moved]
  exact ⟨_, rfl, fun _ => rfl, begun_runs (t := { s with transfers := s.transfers ++ [begun m w s] }) idle rfl, rfl⟩

end

/-- Settles O24: the pattern, the rows of memory and the host's rows, each stored one after the other. -/
theorem moversWriteRowsInOrder : Obligations.MoversWriteRowsInOrder := by
  unfold Obligations.MoversWriteRowsInOrder
  intro m w n host s idle free unfed plan k legal sound unmasked running stored
  exact ⟨exec_moverTransfer_fills idle free unfed legal sound unmasked,
    fun fill out whole from_ => exec_moverTransfer_sends idle free unfed legal sound unmasked fill out whole from_,
    fun copies from_ tier whole straight clean apart =>
      exec_moverTransfer_copies idle free unfed legal sound unmasked copies from_ tier whole straight clean apart,
    fun rows copies from_ tier whole straight ok =>
      exec_moverTransfer_receives idle free unfed legal sound unmasked copies from_ tier whole straight ok,
    fun copies from_ bad => exec_moverTransfer_fails idle free unfed legal sound unmasked copies from_ bad⟩

end Sys2Proof.Machine
end

section
/-! PROOFS. Links train, authenticate, degrade, fence and quarantine; the coordinate record places them (R328, R341–R343,
R430). -/

namespace Sys2Proof.Machine

theorem link_of_setLink (s : State) (l : LinkId) (x : Link) (m : LinkId) :
    (s.setLink l x).link m = if m = l then x else s.link m := by
  split
  next same => rw [same, State.setLink_link]
  next other => exact State.setLink_link_other _ _ _ _ other

section
variable {l : LinkId} {st : LinkState} {cause n : Nat} {s : State}

theorem enterLink_enters : LinkEnters l st cause s (enterLink l st cause n s) := by
  have only := enterLink_onlyLinks l st cause n s
  refine ⟨by rw [enterLink_link]; rfl, by rw [enterLink_link]; rfl, fun m other => enterLink_link_other _ _ _ _ _ other, ?_, ?_⟩
  · rw [only]
  · rw [only]

/-- A change of the link's own record before it enters a state changes no other link. -/
theorem enterLink_enters_from {x : Link} : LinkEnters l st cause s (enterLink l st cause n (s.setLink l x)) := by
  obtain ⟨state, why, others, mem, cores⟩ := enterLink_enters (l := l) (st := st) (cause := cause) (n := n) (s := s.setLink l x)
  exact ⟨state, why, fun m other => (others m other).trans (State.setLink_link_other _ _ _ _ other), mem, cores⟩

end

section
variable {l : LinkId} {s : State}

/-! ## Training -/

theorem exec_linkSignalDetect_of {lanes : BitVec 4} (on : linksOn s = true) (powered : linkPowered s l = true)
    (probes : (s.link l).state = .probe) (ready : (s.link l).retryWait = false) (two : 2 ≤ lanes.toNat) :
    exec (.linkSignalDetect l lanes) s = .next (enterLink l .train LinkCause.signal 0 s) := by
  rw [exec_linkSignalDetect, execLinkSignalDetect, if_pos (by simp [on, powered, probes, ready, two])]

/-- The link level as it starts afresh (R341). -/
def Link.trained (x : Link) (lanes : BitVec 4) (half : Bool) : Link :=
  { x with
    lanes := lanes, half := half, degradedNext := lanes ≠ 8 || half, fseq := 0, lastGood := 255, replay := [], fill := []
    awaiting := false, nakOwed := false, retraining := false, groupFlits := 0, credits := streamBuffers, spdm := [], coord := none }

theorem exec_linkTrainComplete_of {lanes : BitVec 4} {half : Bool} (trains : (s.link l).state = .train)
    (width : lanes = 8 ∨ lanes = 4 ∨ lanes = 2) : exec (.linkTrainComplete l lanes half) s
      = .next (sendCoord l (enterLink l .auth LinkCause.training 0 (s.setLink l ((s.link l).trained lanes half)))) := by
  rw [exec_linkTrainComplete, execLinkTrainComplete, if_pos]
  · rfl
  · simpa [trains, or_assoc] using width

theorem Link.sends_kept (x : Link) (vc : Nat) (h : BitVec 128) : (x.sends vc h).state = x.state
    ∧ (x.sends vc h).cause = x.cause ∧ (x.sends vc h).lanes = x.lanes ∧ (x.sends vc h).half = x.half
    ∧ (x.sends vc h).coord = x.coord := by
  simp only [Link.sends]
  split <;> exact ⟨rfl, rfl, rfl, rfl, rfl⟩

theorem sendCoord_enters {t u : State} {st : LinkState} {cause : Nat} (h : LinkEnters l st cause u t) :
    LinkEnters l st cause u (sendCoord l t) ∧ ((sendCoord l t).link l).lanes = (t.link l).lanes
      ∧ ((sendCoord l t).link l).half = (t.link l).half ∧ ((sendCoord l t).link l).coord = (t.link l).coord := by
  obtain ⟨state, why, others, mem, cores⟩ := h
  have own := State.setLink_link t l ((t.link l).sends 0 (Pkt.make 8 0 (ownDev t) 0 0 0 0 false 16 0))
  have sent : (sendCoord l t).link l = (t.link l).sends 0 (Pkt.make 8 0 (ownDev t) 0 0 0 0 false 16 0) := own
  obtain ⟨sameState, sameCause, kept⟩ := (t.link l).sends_kept 0 (Pkt.make 8 0 (ownDev t) 0 0 0 0 false 16 0)
  refine ⟨⟨?_, ?_, fun m other => (State.setLink_link_other _ _ _ _ other).trans (others m other), mem, cores⟩, ?_⟩
  · rw [sent, sameState, state]
  · rw [sent, sameCause, why]
  · rw [sent]
    exact kept

theorem exec_linkTrainComplete_spec {lanes : BitVec 4} {half : Bool} (trains : (s.link l).state = .train)
    (width : lanes = 8 ∨ lanes = 4 ∨ lanes = 2) :
    ∃ t, exec (.linkTrainComplete l lanes half) s = .next t ∧ LinkEnters l .auth LinkCause.training s t
      ∧ (t.link l).lanes = lanes ∧ (t.link l).half = half ∧ (t.link l).coord = none := by
  obtain ⟨enters, lanesIs, halfIs, coordIs⟩ := sendCoord_enters (l := l) (enterLink_enters_from (l := l) (st := .auth)
    (cause := LinkCause.training) (n := 0) (s := s) (x := (s.link l).trained lanes half))
  have own := enterLink_link l .auth LinkCause.training 0 (s.setLink l ((s.link l).trained lanes half))
  rw [State.setLink_link] at own
  rw [own] at lanesIs halfIs coordIs
  exact ⟨_, exec_linkTrainComplete_of trains width, enters, lanesIs, halfIs, coordIs⟩

theorem exec_linkTrainTimeout_spec (trains : (s.link l).state = .train)
    (late : trainTicks (s.link l) ≤ (now48 s - (s.link l).since).toNat) :
    ∃ t, exec (.linkTrainTimeout l) s = .next t ∧ LinkEnters l .probe LinkCause.training s t ∧ (t.link l).retryWait = true := by
  refine ⟨enterLink l .probe LinkCause.training 0 (s.setLink l { s.link l with retryWait := true }), ?_, enterLink_enters_from, ?_⟩
  · rw [exec_linkTrainTimeout, execLinkTrainTimeout, if_pos (by
      simp only [Bool.and_eq_true, decide_eq_true_eq]
      exact ⟨trains, late⟩)]
  · rw [enterLink_link, State.setLink_link]
    rfl

theorem exec_linkProbeRetry_of (probes : (s.link l).state = .probe) (waits : (s.link l).retryWait = true)
    (late : 100000000 ≤ (now48 s - (s.link l).since).toNat) :
    exec (.linkProbeRetry l) s = .next (s.setLink l { s.link l with retryWait := false }) := by
  rw [exec_linkProbeRetry, execLinkProbeRetry, if_pos (by
    simp only [Bool.and_eq_true, decide_eq_true_eq]
    exact ⟨⟨probes, waits⟩, late⟩)]

/-! ## Authentication -/

theorem enterLink_pLink_from {st : LinkState} {cause n : Nat} {x : Link} :
    ((enterLink l st cause n (s.setLink l x)).link l).pLink = x.pLink := by
  rw [enterLink_link, State.setLink_link]
  rfl

theorem exec_linkAuth_rejects {r : AuthResult} (auth : (s.link l).state = .auth) (running : s.ranger.running = true)
    (forged : (r.chainOk && r.leafOk && r.challengeOk && r.measurementOk) = false) :
    ∃ t, exec (.linkAuth l r) s = .next t ∧ LinkEnters l .quarantined LinkCause.auth s t := by
  rw [exec_linkAuth, execLinkAuth]
  dsimp only
  rw [if_neg (by simp [auth, running]), if_pos (by simp [forged])]
  exact ⟨_, rfl, enterLink_enters⟩

theorem exec_linkAuth_finds {r : AuthResult} {w : BitVec 128} (auth : (s.link l).state = .auth)
    (running : s.ranger.running = true) (genuine : (r.chainOk && r.leafOk && r.challengeOk && r.measurementOk) = true)
    (told : (s.link l).coord = some w) :
    ∃ t, exec (.linkAuth l r) s = .next t ∧ (t.link l).pLink = r.partnerLink
      ∧ (partnerOk (coordOf s) w l r.partnerLink = true →
          LinkEnters l (if (s.link l).degradedNext then .degraded else .up) LinkCause.auth s t)
      ∧ (partnerOk (coordOf s) w l r.partnerLink = false → LinkEnters l .quarantined LinkCause.coordinate s t) := by
  rw [exec_linkAuth, execLinkAuth]
  dsimp only
  rw [if_neg (by simp [auth, running]), if_neg (by simp [genuine]), told]
  dsimp only
  by_cases fits : partnerOk (coordOf s) w l r.partnerLink = true
  · rw [if_pos fits]
    exact ⟨_, rfl, enterLink_pLink_from, fun _ => enterLink_enters_from, fun no => absurd (fits.symm.trans no) (by decide)⟩
  · rw [if_neg fits]
    exact ⟨_, rfl, enterLink_pLink_from, fun yes => absurd yes fits, fun _ => enterLink_enters_from⟩

theorem exec_linkAuthTimeout_spec (auth : (s.link l).state = .auth) (late : 5000000 ≤ (now48 s - (s.link l).since).toNat) :
    ∃ t, exec (.linkAuthTimeout l) s = .next t ∧ LinkEnters l .quarantined LinkCause.auth s t := by
  rw [exec_linkAuthTimeout, execLinkAuthTimeout]
  rw [if_pos (by
    simp only [Bool.and_eq_true, decide_eq_true_eq]
    exact ⟨auth, late⟩)]
  exact ⟨_, rfl, enterLink_enters⟩

/-! ## Loss, fences and fallback -/

theorem exec_linkErrorFallback_lowers {e : LinkErrors} {lanes : BitVec 4} {half : Bool} (works : (s.link l).works = true)
    (lower : lowerConfig (s.link l) e = some (lanes, half)) :
    ∃ t, exec (.linkErrorFallback l e) s = .next t ∧ LinkEnters l .degraded LinkCause.errors s t
      ∧ (t.link l).lanes = lanes ∧ (t.link l).half = half ∧ (t.link l).retraining = true := by
  rw [exec_linkErrorFallback, execLinkErrorFallback]
  rw [if_neg (by simp [works]), lower]
  refine ⟨_, rfl, enterLink_enters_from, ?_⟩
  rw [enterLink_link, State.setLink_link]
  simp only [Link.enters]
  refine ⟨rfl, rfl, ?_⟩
  simp [LinkState.works]

theorem exec_linkErrorFallback_fences {e : LinkErrors} (works : (s.link l).works = true)
    (lower : lowerConfig (s.link l) e = none) :
    ∃ t, exec (.linkErrorFallback l e) s = .next t ∧ LinkEnters l .fenced LinkCause.errors s t := by
  rw [exec_linkErrorFallback, execLinkErrorFallback]
  rw [if_neg (by simp [works]), lower]
  exact ⟨_, rfl, enterLink_enters⟩

theorem signalLost_of_works (works : (s.link l).works = true) :
    signalLost l s = enterLink l .probe LinkCause.signal 0 s := if_pos works

theorem signalLost_onlyLinks (l : LinkId) (s : State) : OnlyLinks s (signalLost l s) := by
  unfold signalLost
  split
  · exact enterLink_onlyLinks ..
  · exact .refl s

theorem signalLost_other (s : State) {m : LinkId} (other : m ≠ l) : (signalLost l s).link m = s.link m := by
  unfold signalLost
  split
  · exact enterLink_link_other _ _ _ _ _ other
  · rfl

/-- The link is as it was, or lost its signal. -/
theorem signalLost_link (l : LinkId) (s : State) :
    ((s.link l).works = true → ((signalLost l s).link l).state = .probe)
      ∧ ((s.link l).works = false → (signalLost l s).link l = s.link l) := by
  unfold signalLost
  refine ⟨fun works => ?_, fun broken => ?_⟩
  · rw [if_pos works]
    exact enterLink_enters.1
  · rw [if_neg (by simp [broken])]

end

/-- The links of a reference clock lose their signal (R430). -/
theorem signalsLost_spec (L : List LinkId) (s : State) : let t := L.foldl (fun t l => signalLost l t) s
    OnlyLinks s t ∧ ∀ l : LinkId, (l ∈ L → (s.link l).works = true → (t.link l).state = .probe)
      ∧ (l ∉ L → t.link l = s.link l) := by
  have only : OnlyLinks s (L.foldl (fun t l => signalLost l t) s) :=
    foldl_related .refl .trans (fun t l => signalLost l t) (fun t l => signalLost_onlyLinks l t) L s
  refine ⟨only, fun l => ⟨fun mem works => ?_, fun out => ?_⟩⟩
  · refine foldl_reaches_with (I := fun t => t.link l = s.link l ∨ (t.link l).state = .probe)
      (P := fun m t => m = l → (State.link t l).state = .probe) (fun t l => signalLost l t) (fun t m h => ?_) (fun t m h same => ?_)
      (fun t m n _ h same => ?_) L s l (.inl rfl) (.inl mem) rfl
    · by_cases own : m = l
      · subst own
        rcases h with h | h
        · exact .inr ((signalLost_link m t).1 (h ▸ works))
        · by_cases on : (t.link m).works = true
          · exact .inr ((signalLost_link m t).1 on)
          · rw [(signalLost_link m t).2 (by simpa using on)]
            exact .inr h
      · rw [signalLost_other t (Ne.symm own)]
        exact h
    · subst same
      rcases h with h | h
      · exact (signalLost_link m t).1 (h ▸ works)
      · by_cases on : (t.link m).works = true
        · exact (signalLost_link m t).1 on
        · rw [(signalLost_link m t).2 (by simpa using on)]
          exact h
    · have probes := h same
      by_cases own : m = l
      · subst own
        by_cases on : (t.link m).works = true
        · exact (signalLost_link m t).1 on
        · rw [(signalLost_link m t).2 (by simpa using on)]
          exact probes
      · rw [signalLost_other t (Ne.symm own)]
        exact probes
  · induction L generalizing s with
    | nil => rfl
    | cons m L ih =>
      rw [List.mem_cons, not_or] at out
      exact (ih (signalLost m s) (foldl_related .refl .trans (fun t l => signalLost l t)
        (fun t l => signalLost_onlyLinks l t) L _) out.2).trans (signalLost_other s out.1)

/-! ## The coordinate record -/

theorem placeLink_onlyLinks (w : BitVec 128) (l : LinkId) (s : State) : OnlyLinks s (placeLink w l s) := by
  have put_ (u : State) (x : Link) : OnlyLinks u (u.setLink l x) := rfl
  simp only [placeLink]
  generalize (if (expectedPartner w l).isSome then LinkState.probe else .down) = dest
  generalize hu : s.setLink l { s.link l with reach := BitVec.ofNat 2 (Coord.reach w l.val) } = u
  have reached : OnlyLinks s u := hu ▸ put_ ..
  split_ifs
  · exact reached.trans (put_ ..)
  · exact reached.trans (put_ ..)
  · exact reached.trans (enterLink_onlyLinks ..)
  · exact reached
  · exact reached.trans (enterLink_onlyLinks ..)

theorem placeLink_link (w : BitVec 128) (l : LinkId) (s : State) :
    ((placeLink w l s).link l).reach = BitVec.ofNat 2 (Coord.reach w l.val)
      ∧ ∀ m, m ≠ l → (placeLink w l s).link m = s.link m := by
  have own := State.setLink_link s l { s.link l with reach := BitVec.ofNat 2 (Coord.reach w l.val) }
  have others (m : LinkId) (h : m ≠ l) := State.setLink_link_other s l { s.link l with
    reach := BitVec.ofNat 2 (Coord.reach w l.val) } m h
  simp only [placeLink]
  generalize s.setLink l { s.link l with reach := BitVec.ofNat 2 (Coord.reach w l.val) } = u at own others ⊢
  have entered (st : LinkState) (cause : Nat) : ((enterLink l st cause 0 u).link l).reach = BitVec.ofNat 2 (Coord.reach w l.val)
      ∧ ∀ m, m ≠ l → (enterLink l st cause 0 u).link m = s.link m := by
    refine ⟨?_, fun m h => (enterLink_link_other _ _ _ _ _ h).trans (others m h)⟩
    rw [enterLink_link, own]
    rfl
  generalize (if (expectedPartner w l).isSome then LinkState.probe else .down) = dest
  have put_ (x : Link) (h : x.reach = (u.link l).reach) : ((u.setLink l x).link l).reach = BitVec.ofNat 2 (Coord.reach w l.val)
      ∧ ∀ m, m ≠ l → (u.setLink l x).link m = s.link m := by
    refine ⟨?_, fun m other => (State.setLink_link_other _ _ _ _ other).trans (others m other)⟩
    rw [State.setLink_link, h]
    exact congrArg Link.reach own
  split_ifs
  · exact put_ _ rfl
  · exact put_ _ rfl
  · exact entered ..
  · exact ⟨congrArg Link.reach own, others⟩
  · exact entered ..

theorem placeLinks_spec (w : BitVec 128) (s : State) : OnlyLinks s (placeLinks w s)
    ∧ ∀ l, ((placeLinks w s).link l).reach = BitVec.ofNat 2 (Coord.reach w l.val) := by
  refine ⟨foldl_related .refl .trans (fun t l => placeLink w l t) (fun t l => placeLink_onlyLinks w l t) allLinks s, fun l => ?_⟩
  refine foldl_reaches (P := fun l t => (State.link t l).reach = BitVec.ofNat 2 (Coord.reach w l.val))
    (fun t l => placeLink w l t) (fun t l => (placeLink_link w l t).1) (fun t m l h => ?_) allLinks s l (.inl (mem_allLinks l))
  by_cases same : l = m
  · subst same
    exact (placeLink_link w l t).1
  · rw [(placeLink_link w m t).2 l same, h]

/-- Settles O51: each command on a link in its state, the loss of a clock, and the record. -/
theorem linksChangeState : Obligations.LinksChangeState := by
  unfold Obligations.LinksChangeState
  refine ⟨fun l s => ⟨fun lanes on powered probes ready two => ?_, fun lanes half trains width => ?_, fun trains late => ?_,
    fun probes waits late => ?_, fun r auth running => ?_, fun auth late => ?_, fun works => ?_⟩,
    fun second s => ?_, fun w s running => ⟨fun bad => ?_, fun good on => ?_⟩⟩
  · exact ⟨_, exec_linkSignalDetect_of on powered probes ready two, enterLink_enters⟩
  · exact exec_linkTrainComplete_spec trains width
  · exact exec_linkTrainTimeout_spec trains late
  · exact ⟨_, exec_linkProbeRetry_of probes waits late, State.setLink_link .., rfl⟩
  · exact ⟨exec_linkAuth_rejects auth running, fun w => exec_linkAuth_finds auth running⟩
  · exact exec_linkAuthTimeout_spec auth late
  · refine ⟨?_, fun cause => ?_, fun e => exec_linkErrorFallback_fences works, fun e lanes half =>
      exec_linkErrorFallback_lowers works⟩
    · rw [exec_linkSignalLoss, execLinkSignalLoss, signalLost_of_works works]
      exact ⟨_, rfl, enterLink_enters⟩
    · rw [exec_linkFence, execLinkFence, if_pos works]
      exact ⟨_, rfl, enterLink_enters⟩
  · obtain ⟨only, links⟩ := signalsLost_spec (allLinks.filter fun l => decide (12 ≤ l.val) = second) s
    rw [exec_mrefLoss, execMrefLoss]
    generalize (allLinks.filter fun l => decide (12 ≤ l.val) = second).foldl (fun t l => signalLost l t) s = t at only links ⊢
    refine ⟨t, rfl, by rw [only], by rw [only], fun l => ⟨fun own => (links l).1 ?_, fun other => (links l).2 ?_⟩⟩
    · exact List.mem_filter.2 ⟨mem_allLinks l, by simpa using own⟩
    · exact fun mem => other (by simpa using (List.mem_filter.1 mem).2)
  · rw [exec_coordinateRecord, execCoordinateRecord, if_neg (by simp [running])]
    dsimp only
    rw [if_pos (by simp [bad])]
    exact ⟨_, rfl, rfl⟩
  · rw [exec_coordinateRecord, execCoordinateRecord, if_neg (by simp [running])]
    dsimp only
    rw [if_neg (by simp [good]), if_pos (by exact on)]
    obtain ⟨only, reach⟩ := placeLinks_spec w { raise0 0x25 ((Coord.rgen w).toNat * 65536 + b2n (!Coord.ok w) * 256) s with
      coord := some w }
    refine ⟨_, rfl, ?_, ?_, ?_, reach⟩
    · rw [only]
    · rw [only]
      rfl
    · rw [only]
      rfl

end Sys2Proof.Machine
end

section
/-! PROOFS. Flits, NAKs, SPDM messages and coordinate records of a link (R331–R333, R342, R343, R345). -/

namespace Sys2Proof.Machine

/-- Only the record of link `l` changes, to `y`. -/
def Relinks (l : LinkId) (y : Link) (s t : State) : Prop :=
  t.link l = y ∧ (∀ m, m ≠ l → t.link m = s.link m) ∧ t = { s with links := t.links }

theorem setLink_relinks (s : State) (l : LinkId) (y : Link) : Relinks l y s (s.setLink l y) :=
  ⟨State.setLink_link .., fun _ other => State.setLink_link_other _ _ _ _ other, rfl⟩

theorem quarantine_enters {l : LinkId} {cause n : Nat} {s : State} (works : (s.link l).works = true) :
    LinkEnters l .quarantined cause s (quarantine l cause n s) := by
  rw [quarantine, if_pos works]
  exact enterLink_enters

/-- As `quarantine_enters`, with the link's own record changed first. -/
theorem quarantine_enters_from {l : LinkId} {cause n : Nat} {s : State} {y : Link} (works : y.works = true) :
    LinkEnters l .quarantined cause s (quarantine l cause n (s.setLink l y)) := by
  rw [quarantine, if_pos (by rw [State.setLink_link]; exact works)]
  exact enterLink_enters_from

section
variable {l : LinkId} {s : State}

theorem Link.works_not_auth {x : Link} (works : x.works = true) : x.state ≠ .auth := fun auth => by
  rw [Link.works, auth] at works
  exact absurd works (by decide)

section
variable (hears : (s.link l).works = true ∨ (s.link l).state = .auth)
include hears

theorem hears_bool : (!((s.link l).works || decide ((s.link l).state = .auth))) = false := by
  rcases hears with h | h
  · simp [h]
  · simp [h]

theorem exec_linkNak_good {a : BitVec 8} (good : (s.link l).ackOk a = true) :
    exec (.linkNak l a) s = .next (s.setLink l ((s.link l).naked a)) := by
  rw [exec_linkNak, execLinkNak]
  rw [if_neg (by simp [hears_bool hears]), if_pos good]

theorem exec_linkNak_bad {a : BitVec 8} (bad : (s.link l).ackOk a = false) :
    exec (.linkNak l a) s = .next (quarantine l LinkCause.malformed (s.link l).pDev.toNat s) := by
  rw [exec_linkNak, execLinkNak]
  rw [if_neg (by simp [hears_bool hears]), if_neg (by simp [bad])]

/-- What a flit does on a link that hears it. -/
theorem exec_flit_of {w : BitVec 2048} {n : Option (BitVec 8)} (steady : (s.link l).retraining = false) :
    exec (.flit l w n) s = .next (if (n.isSome && crc32c (flitBytes w) == Flit.crc w) = false then
        s.setLink l { (s.link l).counted n with nakOwed := true, awaiting := true }
      else if ((s.link l).counted n).malformed w then
        quarantine l LinkCause.malformed (s.link l).pDev.toNat (s.setLink l ((s.link l).counted n))
      else s.setLink l (((s.link l).counted n).takes w)) := by
  have damaged : (n.isNone || decide (crc32c (flitBytes w) ≠ Flit.crc w)) = true
      ↔ (n.isSome && crc32c (flitBytes w) == Flit.crc w) = false := by
    cases n <;> simp
  rw [exec_flit, execFlit]
  dsimp only
  rw [if_neg (by simp [hears_bool hears, steady])]
  simp only [damaged]
  split
  · rfl
  · split <;> rfl

end

theorem exec_spdm_auth (auth : (s.link l).state = .auth) (m : BitVec 8) :
    exec (.spdm l m) s = .next (s.setLink l { s.link l with spdm := (s.link l).spdm ++ [m] }) := by
  rw [exec_spdm, execSpdm, takeAuth]
  exact if_pos auth

theorem exec_coord_auth (auth : (s.link l).state = .auth) (w : BitVec 128) :
    exec (.coord l w) s = .next (s.setLink l { s.link l with
      coord := some w, pPod := Coord.pod w, pDev := BitVec.ofNat 8 (Coord.devno w) }) := by
  rw [exec_coord, execCoord, takeAuth]
  exact if_pos auth

theorem exec_spdm_working (works : (s.link l).works = true) (steady : (s.link l).retraining = false) (m : BitVec 8) :
    exec (.spdm l m) s = .next (quarantine l LinkCause.malformed (s.link l).pDev.toNat s) := by
  rw [exec_spdm, execSpdm, takeAuth]
  rw [if_neg (Link.works_not_auth works), if_neg (by simp [steady])]

end

/-- Settles O52: NAKs, flits, the messages of AUTH, and the end of a retrain. -/
theorem flitsAndManagementPackets : Obligations.FlitsAndManagementPackets := by
  unfold Obligations.FlitsAndManagementPackets
  intro l s x becomes
  refine ⟨fun hears => ⟨fun a good => ?_, fun a bad works => ?_, fun w n steady => ?_⟩, fun auth => ⟨fun m => ?_, fun w => ?_⟩, fun works steady m => ?_, ?_⟩
  · exact ⟨_, exec_linkNak_good hears good, setLink_relinks ..⟩
  · exact ⟨_, exec_linkNak_bad hears bad, quarantine_enters works⟩
  · have runs := exec_flit_of (w := w) (n := n) hears steady
    refine ⟨fun bad => ?_, fun good formed => ?_, fun good broken works => ?_⟩
    · exact ⟨_, runs.trans (congrArg _ (if_pos bad)), setLink_relinks ..⟩
    · rw [if_neg (by rw [good]; decide), if_neg (by rw [formed]; decide)] at runs
      exact ⟨_, runs, setLink_relinks ..⟩
    · rw [if_neg (by rw [good]; decide), if_pos broken] at runs
      exact ⟨_, runs, quarantine_enters_from (y := x.counted n) works⟩
  · exact ⟨_, exec_spdm_auth auth m, setLink_relinks ..⟩
  · exact ⟨_, exec_coord_auth auth w, setLink_relinks ..⟩
  · exact ⟨_, exec_spdm_working works steady m, quarantine_enters works⟩
  · refine ⟨s.setLink l { s.link l with retraining := false }, ?_, setLink_relinks ..⟩
    rw [exec_fastRetrainComplete, execFastRetrainComplete]

end Sys2Proof.Machine
end

section
/-! PROOFS. What an admitted packet does, by its type (R336, R337, R345, R347–R349). -/

namespace Sys2Proof.Machine

section
variable {s : State} {l : LinkId} {h : BitVec 128} {ptype : Nat} {lenOk : Bool}

/-! ## Admission -/

theorem takePkt_admitted {windowed : Bool} (ok : Admitted s l h ptype) (len : lenOk = true)
    (window : (windowed && !windowOk s h) = false) (p : Payload) (act : State → State) :
    takePkt l h ptype lenOk windowed p act s = .next (act s) := by
  obtain ⟨works, steady, type_, rsvd, may, dst⟩ := ok
  rw [takePkt]
  rw [if_neg (by simp [works, steady]), if_neg (by simp [type_, rsvd, len]), if_neg (by simp [may]), if_neg (by simp [dst]),
    if_neg (by simp [window])]

theorem takePkt_malformed (works : (s.link l).works = true) (steady : (s.link l).retraining = false)
    (bad : Pkt.ptype h ≠ ptype ∨ Pkt.rsvdOk h = false) (windowed : Bool) (p : Payload) (act : State → State) :
    takePkt l h ptype lenOk windowed p act s = .next (quarantine l LinkCause.malformed (Pkt.src h) s) := by
  rw [takePkt]
  rw [if_neg (by simp [works, steady]), if_pos (by rcases bad with bad | bad <;> simp [bad])]

variable {k : CoupeId}

theorem takePkt_for (ok : AdmittedFor s l h ptype k) (len : lenOk = true) (p : Payload) (act : State → State) :
    takePkt l h ptype lenOk true p act s = .next (act s) :=
  takePkt_admitted ok.1 len (by simp [ok.2.1]) p act

theorem exec_row_for {data : Row} (ok : AdmittedFor s l h 1 k) (len : Pkt.len h = 512) :
    exec (.row l h data) s = .next (takeRow k h data s) := by
  rw [exec_row, execRow, takePkt_for ok (by simp [len])]
  simp only [ok.2.2]

theorem exec_credit_for {n : BitVec 8} (ok : AdmittedFor s l h 2 k) (len : Pkt.len h = 4) :
    exec (.credit l h n) s = .next (takeCredit k h n.toNat s) := by
  rw [exec_credit, execCredit, takePkt_for ok (by simp [len])]
  simp only [ok.2.2]

/-- An OUTCOME of h's member without a digest. -/
def outcomeOf (h : BitVec 128) (xtag : BitVec 32) (attempt : BitVec 2) (nreq : BitVec 7) (status : BitVec 8)
    (l2 : List (BitVec 8)) (count : BitVec 9) : HeldOutcome :=
  ⟨BitVec.ofNat 8 (Pkt.idx h), xtag, attempt, nreq, status, l2, none, count⟩

theorem exec_outcome_for {xtag attempt nreq status} {l2 : List (BitVec 8)} (count : BitVec 9) (ok : AdmittedFor s l h 3 k)
    (len : Pkt.len h = 8 + l2.length) :
    exec (.outcome l h xtag attempt nreq status l2 none count) s = .next (if count = (s.coupe k).sCount then
      takeOutcome k (outcomeOf h xtag attempt nreq status l2 count) s else crossArrival k s) := by
  rw [exec_outcome, execOutcome, takePkt_for ok (by simp [len])]
  simp only [ok.2.2]
  rfl

/-- The FLUSH of h's member noted in coupe k's run. -/
def noteFlush (k : CoupeId) (h : BitVec 128) (s : State) : State :=
  let r := s.run k
  let e := Pkt.idx h * 256 + (Pkt.epoch h).toNat
  s.setRun k { r with flushed := if r.flushed.contains e then r.flushed else r.flushed ++ [e] }

theorem exec_flush_for (ok : AdmittedFor s l h 4 k) (len : Pkt.len h = 0) :
    exec (.flush l h) s = .next (releaseTo k (Pkt.idx h) (noteFlush k h s)) := by
  rw [exec_flush, execFlush, takePkt_for ok (by simp [len])]
  simp only [ok.2.2]
  rfl

theorem exec_bundle_for {layer : BitVec 16} {sender : BitVec 8} {ps : List (BitVec 128)} (ok : AdmittedFor s l h 6 k)
    (len : Pkt.len h = 4 + 16 * ps.length) :
    exec (.bundle l h layer sender ps) s = .next (takeBundle k h layer.toNat sender.toNat ps s) := by
  rw [exec_bundle, execBundle, takePkt_for ok (by simp [len])]
  simp only [ok.2.2]

/-! ## ROW -/

section
variable {data : Row} (ok : AdmittedFor s l h 1 k) (len : Pkt.len h = 512) (low : Pkt.channel h < 24)
include ok len low

theorem row_strays (unbound : s.queue k (spanHandle (Pkt.idx h) (Pkt.channel h)) = none) :
    exec (.row l h data) s = .next (s.setRun k { s.run k with strays := (s.run k).strays + 1 }) := by
  have low' : ¬ 24 ≤ Pkt.channel h := by omega
  rw [exec_row_for ok len]
  simp only [takeRow, low', if_false, unbound]

variable {q : Queue} (bound : s.queue k (spanHandle (Pkt.idx h) (Pkt.channel h)) = some q)
include bound

theorem row_discarded (old : q.epoch ≠ Pkt.epoch h) : exec (.row l h data) s
    = .next (s.setQueue k (spanHandle (Pkt.idx h) (Pkt.channel h)) (some { q with discarded := q.discarded + 1 })) := by
  have low' : ¬ 24 ≤ Pkt.channel h := by omega
  rw [exec_row_for ok len]
  simp only [takeRow, low', if_false, bound, old, ne_eq, not_false_eq_true, if_true]

theorem row_joins (current : q.epoch = Pkt.epoch h) : exec (.row l h data) s
    = .next (rowToQueue k (spanHandle (Pkt.idx h) (Pkt.channel h)) q (.row data (Pkt.poison h)) (crossArrival k s)) := by
  have low' : ¬ 24 ≤ Pkt.channel h := by omega
  rw [exec_row_for ok len]
  simp only [takeRow, low', if_false, bound, current, ne_eq, not_true_eq_false, rowItem, len, if_true]

end

/-! ## CREDIT -/

/-- A feed of coupe k that has nothing to send changes nothing. -/
theorem runFeed_idle {k : CoupeId} {g : BitVec 16} {s : State} (noPlans : (s.run k).feedPlans = [])
    (noFeeds : ∀ x ∈ s.transfers, Mv.dspace x.w ≠ 2) : runFeed k g s = s := by
  have none_ : s.transfers.filter (fun t => Mv.ofCoupe t.w k && Mv.dspace t.w = 2 && Mv.dst t.w = g.toNat && Mv.sspace t.w ≠ 1)
      = [] := List.filter_eq_nil_iff.2 fun x hx => by simp [noFeeds x hx]
  rw [runFeed]
  dsimp only
  rw [none_, List.foldl_nil, feedMarks, noPlans]
  exact ite_self s

theorem takeCredit_idle {n : Nat} {q : Queue} (bound : s.queue k (spanHandle (Pkt.idx h) (Pkt.channel h)) = some q)
    (current : q.epoch = Pkt.epoch h)
    (elsewhere : (s.core (QRec.prod q.record)).port (4 + QRec.prodPort q.record) ≠ spanHandle (Pkt.idx h) (Pkt.channel h))
    (noPlans : (s.run k).feedPlans = []) (noFeeds : ∀ x ∈ s.transfers, Mv.dspace x.w ≠ 2) : takeCredit k h n s
      = s.setQueue k (spanHandle (Pkt.idx h) (Pkt.channel h)) (some { q with credits := min q.depth (q.credits + n) }) := by
  rw [takeCredit, bound]
  dsimp only
  rw [if_neg (by simp [current])]
  generalize spanHandle (Pkt.idx h) (Pkt.channel h) = g at *
  have put_ : (s.setQueue k g (some { q with credits := min q.depth (q.credits + n) })).core (QRec.prod q.record)
      = s.core (QRec.prod q.record) := rfl
  rw [put_, if_neg elsewhere]
  exact runFeed_idle (by rw [State.setQueue, State.setRun_run]; exact noPlans) noFeeds

/-! ## OUTCOME -/

theorem crossArrival_run (k : CoupeId) (s : State) :
    (crossArrival k s).run k = { s.run k with lastCross := s.timebase } := State.setRun_run ..

section
variable {o : HeldOutcome}

theorem takeOutcome_held (closed : (s.run k).openStep = none) (new : (s.run k).xtagsDone.contains o.xtag = false)
    (room : ((s.run k).heldOutcomes.filter (fun x => x.member = o.member)).length < 4) :
    ((takeOutcome k o s).run k).heldOutcomes = (s.run k).heldOutcomes ++ [o]
      ∧ (takeOutcome k o s).mem = s.mem ∧ (takeOutcome k o s).cores = s.cores := by
  simp only [takeOutcome, crossArrival_run, closed]
  have room' : ¬ 4 ≤ ((s.run k).heldOutcomes.filter (fun x => x.member = o.member)).length := by omega
  rw [if_neg (by rw [new]; simpa using room'), State.setRun_run]
  exact ⟨rfl, rfl, rfl⟩

theorem takeOutcome_joins {st : Step} (isOpen : (s.run k).openStep = some st) (spans : st.spans = true)
    (tag : StepD.xtag st.w = o.xtag) (current : st.attempt ≤ o.attempt.toNat)
    (first : st.outcomes.any (fun x => x.member = o.member && x.attempt = o.attempt) = false) :
    ((takeOutcome k o s).run k).openStep = some { st with outcomes := st.outcomes ++ [o] }
      ∧ (takeOutcome k o s).mem = s.mem ∧ (takeOutcome k o s).cores = s.cores := by
  simp only [takeOutcome, crossArrival_run, isOpen]
  rw [if_pos (by simp [spans, tag]), if_neg (by simpa [first] using current), setStep, State.setRun_run]
  exact ⟨rfl, rfl, rfl⟩

end

end

/-! ## What a feed moves -/

theorem replayIfAble_streams (j s) : Streams s (replayIfAble j s) := by
  unfold replayIfAble
  split
  · split
    · exact triggerReplay_streams ..
    · exact .refl s
  · exact .refl s

theorem consumePoison_streams (w origin core tag s) : Streams s (consumePoison w origin core tag s) := by
  simp only [consumePoison]
  split
  · exact .refl s
  next st isOpen => exact setStep_streams (by rw [isOpen]; rfl)

/-- Feeds under way: the coupes, and of their runs only what the stream network moves. -/
structure Feeds (s t : State) : Prop where
  run : ∀ k, OnlyStream (s.run k) (t.run k)
  mark : ∀ k, (t.run k).openStep.map Step.mark = (s.run k).openStep.map Step.mark
  coupes : t.dur.coupes = s.dur.coupes

theorem Feeds.trans {s t u : State} (h : Feeds s t) (g : Feeds t u) : Feeds s u := by
  refine ⟨fun k => ?_, fun k => (g.mark k).trans (h.mark k), g.coupes.trans h.coupes⟩
  have first := h.run k
  have second := g.run k
  rw [OnlyStream] at *
  rw [second, first]

theorem feeds_of_runs {s t : State} (runs : t.runs = s.runs) (coupes : t.dur.coupes = s.dur.coupes) : Feeds s t := by
  have run (k : CoupeId) : t.run k = s.run k := by rw [State.run, State.run, runs]
  exact ⟨fun k => by rw [run k]; rfl, fun k => by rw [run k], coupes⟩

theorem Feeds.refl (s : State) : Feeds s s := feeds_of_runs rfl rfl

theorem Feeds.foldl {α : Type} {f : State → α → State} (one : ∀ t x, Feeds t (f t x)) (l : List α) (s : State) :
    Feeds s (l.foldl f s) := foldl_related .refl .trans f one l s

theorem Streams.feeds {s t : State} (h : Streams s t) : Feeds s t := ⟨h.run, h.mark, by rw [h.dur]⟩
theorem OnlyRows.feeds {s t : State} (h : OnlyRows s t) : Feeds s t := feeds_of_runs (by rw [h]) (by rw [h])
theorem OnlyList.feeds {s t : State} (h : OnlyList s t) : Feeds s t := feeds_of_runs (by rw [h.1]) (by rw [h.1])

theorem destRow_feeds {tr : Transfer} {d p} {s t : State} (e : destRow tr d p s = some t) : Feeds s t := by
  unfold destRow at e
  dsimp only at e
  split at e
  · obtain rfl := Option.some.inj e
    exact feeds_of_runs rfl rfl
  split at e
  · obtain rfl := Option.some.inj e
    exact feeds_of_runs rfl rfl
  split at e
  · split at e
    · exact absurd e (by simp)
    · exact (sendItem_streams e).feeds
  split at e
  · obtain rfl := Option.some.inj e
    exact (writeBytesAt_list ..).feeds
  · obtain rfl := Option.some.inj e
    exact (writeRowAt_rows ..).feeds

theorem sourceRow_feeds {tr : Transfer} {e host} {s t : State} {rp rest}
    (h : sourceRow tr e host s = some (rp, rest, t)) : Feeds s t := by
  unfold sourceRow at h
  split at h
  · simp only [Option.some.injEq, Prod.mk.injEq] at h
    exact h.2.2 ▸ .refl s
  · split at h
    · split at h
      · exact absurd h (by simp)
      · simp only [Option.some.injEq, Prod.mk.injEq] at h
        exact h.2.2 ▸ .refl s
    · simp only [Option.some.injEq, Prod.mk.injEq] at h
      exact h.2.2 ▸ (readRowAt_rows ..).feeds

theorem moveRow_feeds {tr : Transfer} {e host rest} {s t : State} (h : moveRow tr e host s = some (rest, t)) :
    Feeds s t := by
  unfold moveRow at h
  split at h
  · exact absurd h (by simp)
  next d p rest' s1 source =>
    split at h
    · exact absurd h (by simp)
    next s2 dest =>
      have stored : Feeds s s2 := .trans (sourceRow_feeds source) (destRow_feeds dest)
      dsimp only at h
      split at h
      · simp only [Option.some.injEq, Prod.mk.injEq] at h
        rw [← h.2]
        have consumed (origin core tag) : Feeds s (consumePoison tr.w origin core tag s2) :=
          stored.trans (consumePoison_streams ..).feeds
        split
        · split
          · exact (consumed ..).trans (replayIfAble_streams ..).feeds
          · exact consumed ..
        · exact consumed ..
      · simp only [Option.some.injEq, Prod.mk.injEq] at h
        rw [← h.2]
        split
        · split
          · exact stored.trans (replayIfAble_streams ..).feeds
          · exact stored
        · exact stored

theorem moveRows_feeds : ∀ (n : Nat) (tr : Transfer) (host : List (Row × Bool)) (s : State),
    Feeds s (moveRows n tr host s).2
  | 0, _, _, s => .refl s
  | n + 1, tr, host, s => by
    unfold moveRows
    split
    · exact .refl s
    · split
      · exact .refl s
      next rest s1 moved => exact (moveRow_feeds moved).trans (moveRows_feeds n _ rest s1)

theorem continueTransfer_feeds (tr : Transfer) (n : Nat) (s : State) :
    Feeds s (continueTransfer tr n (.ok []) s) := by
  have moved := moveRows_feeds n tr [] s
  unfold continueTransfer
  rw [hostBad, ite_self]
  exact moved.trans (feeds_of_runs rfl rfl)

theorem runFeed_feeds (j h s) : Feeds s (runFeed j h s) := by
  unfold runFeed
  split
  · exact .refl s
  · exact (feedMarks_streams j h s).feeds.trans (.foldl (fun t x => continueTransfer_feeds x _ t) _ _)

/-! ## FLUSH -/

/-- The FLUSH packets that have arrived for coupe k are the same. -/
def SameFlushed (k : CoupeId) (s t : State) : Prop := (t.run k).flushed = (s.run k).flushed

section
variable {k : CoupeId}

theorem SameFlushed.refl (s : State) : SameFlushed k s s := rfl

theorem SameFlushed.trans {s t u : State} (h : SameFlushed k s t) (g : SameFlushed k t u) : SameFlushed k s u := Eq.trans g h

theorem SameFlushed.foldl {α : Type} {f : State → α → State} (one : ∀ t x, SameFlushed k t (f t x)) (l : List α)
    (s : State) : SameFlushed k s (l.foldl f s) := foldl_related .refl .trans f one l s

theorem sameFlushed_of_runs {s t : State} (h : t.runs = s.runs) : SameFlushed k s t := by
  rw [SameFlushed, State.run, State.run, h]

theorem Feeds.sameFlushed {s t : State} (h : Feeds s t) : SameFlushed k s t := by
  have run := h.run k
  rw [OnlyStream] at run
  rw [SameFlushed, run]

theorem State.setRun_sameFlushed {s : State} {j : CoupeId} {r : CoupeRun} (h : r.flushed = (s.run j).flushed) :
    SameFlushed k s (s.setRun j r) := by
  by_cases same : k = j
  · subst same
    rw [SameFlushed, State.setRun_run, h]
  · rw [SameFlushed, State.setRun_run_other _ _ _ _ same]

theorem progress_sameFlushed (s c) : SameFlushed k s (progress s c) := by
  unfold progress
  split
  · exact .refl s
  · exact State.setRun_sameFlushed rfl

theorem releaseItems_streams (j h) : ∀ (l : List Item) (s : State), Streams s (releaseItems j h l s).2
  | [], s => .refl s
  | it :: rest, s => by
    unfold releaseItems
    split
    · exact .refl s
    · split
      · exact .refl s
      next t sent => exact (sendItem_streams sent).trans (releaseItems_streams j h rest t)

theorem releasePort_sameFlushed (c p j h s) : SameFlushed k s (releasePort c p j h s) := by
  have sent := (releaseItems_streams j h ((s.core c).outStage.get [] p) s).feeds.sameFlushed (k := k)
  simp only [releasePort]
  split
  · exact sent.trans (.trans (sameFlushed_of_runs rfl) (progress_sameFlushed ..))
  · exact sent.trans (sameFlushed_of_runs rfl)

theorem releaseTo_sameFlushed (j m s) : SameFlushed k s (releaseTo j m s) := by
  refine foldl_related (R := SameFlushed k) .refl .trans _ (fun t h => ?_) _ s
  dsimp only
  split
  · exact .refl t
  · refine .trans ?_ (runFeed_feeds ..).sameFlushed
    split
    · exact releasePort_sameFlushed ..
    · exact .refl t

theorem noteFlush_noted (h : BitVec 128) (s : State) :
    Pkt.idx h * 256 + (Pkt.epoch h).toNat ∈ ((noteFlush k h s).run k).flushed := by
  simp only [noteFlush, State.setRun_run]
  split
  next there => exact List.contains_iff_mem.1 there
  · exact List.mem_append_right _ (List.mem_singleton.2 rfl)

end

/-! ## ANNOUNCE -/

/-- Neither memory nor what the devices have announced differs. -/
def SameClaims (s t : State) : Prop := t.mem = s.mem ∧ t.announced = s.announced

theorem SameClaims.refl (s : State) : SameClaims s s := ⟨rfl, rfl⟩

theorem SameClaims.trans {s t u : State} (h : SameClaims s t) (g : SameClaims t u) : SameClaims s u :=
  ⟨g.1.trans h.1, g.2.trans h.2⟩

theorem SameClaims.foldl {α : Type} {f : State → α → State} (one : ∀ t x, SameClaims t (f t x)) (l : List α)
    (s : State) : SameClaims s (l.foldl f s) := foldl_related .refl .trans f one l s

theorem Streams.sameClaims {s t : State} (h : Streams s t) : SameClaims s t := ⟨h.mem, by rw [h.rest]⟩

theorem raiseConflicts_sameClaims (old s) : SameClaims s (raiseConflicts old s) :=
  SameClaims.foldl (fun t c => (raise0_streams ..).sameClaims) _ s

theorem markConflict_sameClaims (k s) : SameClaims s (markConflict k s) := by
  simp only [markConflict]
  split
  · exact .refl s
  · split
    · split
      · have flushed := flushCoupe_flow k
          (s.setRun k { s.run k with spanConflict := (s.coupe k).sCount ≠ 0 && (spanConflicts s).any (fun c => c.1 = (s.coupe k).spanId) })
        exact .trans ⟨flushed.mem, by rw [flushed]; rfl⟩ (endStep_streams ..).sameClaims
      · exact ⟨rfl, rfl⟩
    · exact ⟨rfl, rfl⟩

theorem judgeClaims_sameClaims (old s) : SameClaims s (judgeClaims old s) :=
  (raiseConflicts_sameClaims old s).trans (.foldl (fun t k => markConflict_sameClaims k t) _ _)

theorem relayAnnounce_sameClaims (l h p s) : SameClaims s (relayAnnounce l h p s) := by
  simp only [relayAnnounce]
  split
  · exact .refl s
  · exact SameClaims.foldl (fun t o => (transmit_streams ..).sameClaims) _ s

theorem exec_announce_spec {l : LinkId} {h : BitVec 128} {s : State} {members : List (BitVec 16 × BitVec 8)}
    {reach : BitVec 32} (ok : Admitted s l h 5) (len : Pkt.len h = 8 + 4 * members.length) :
    ∃ t, exec (.announce l h members reach) s = .next t ∧ t.mem = s.mem
      ∧ t.announced = s.announced.filter (fun a => a.dev ≠ BitVec.ofNat 8 (Pkt.src h))
        ++ [⟨BitVec.ofNat 8 (Pkt.src h), members, reach⟩] := by
  rw [exec_announce, execAnnounce, takePkt_admitted ok (by simp [len]) (by simp)]
  refine ⟨_, rfl, ?_⟩
  exact (judgeClaims_sameClaims ..).trans (relayAnnounce_sameClaims ..)

/-! ## BUNDLE -/

/-- Memory, the cores and the bundles of coupe k's run are the same. -/
def SameBundles (k : CoupeId) (s t : State) : Prop :=
  t.mem = s.mem ∧ t.cores = s.cores ∧ (t.run k).bundles = (s.run k).bundles

section
variable {k : CoupeId}

theorem SameBundles.refl (s : State) : SameBundles k s s := ⟨rfl, rfl, rfl⟩

theorem SameBundles.trans {s t u : State} (h : SameBundles k s t) (g : SameBundles k t u) : SameBundles k s u :=
  ⟨g.1.trans h.1, g.2.1.trans h.2.1, g.2.2.trans h.2.2⟩

theorem SameBundles.foldl {α : Type} {f : State → α → State} (one : ∀ t x, SameBundles k t (f t x)) (l : List α)
    (s : State) : SameBundles k s (l.foldl f s) := foldl_related .refl .trans f one l s

theorem Streams.sameBundles {s t : State} (h : Streams s t) : SameBundles k s t := by
  have run := h.run k
  rw [OnlyStream] at run
  exact ⟨h.mem, h.cores, by rw [run]⟩

theorem setStep_sameBundles (st : Step) (s : State) : SameBundles k s (setStep k st s) :=
  ⟨rfl, rfl, by rw [setStep, State.setRun_run]⟩

theorem addRun_sameBundles (cfg run s) : SameBundles k s (addRun k cfg run s) := by
  unfold addRun
  split
  · exact .refl s
  · exact setStep_sameBundles ..

theorem buildLayers_sameBundles (cfg m) : ∀ (n : Nat) (s : State), SameBundles k s (buildLayers k cfg m n s)
  | 0, s => .refl s
  | n + 1, s => by
    unfold buildLayers
    split
    · exact .refl s
    · split
      · exact .refl s
      · dsimp only
        split
        · exact (endStep_streams ..).sameBundles
        · exact ((setStep_sameBundles ..).trans (.foldl (fun t r => addRun_sameBundles cfg r t) _ _)).trans
            (buildLayers_sameBundles cfg m n _)

theorem givePairs_sameBundles {d : CoupeId} (other : d ≠ k) (layer ps s) : SameBundles k s (givePairs k d layer ps s) := by
  have kept (r : CoupeRun) : SameBundles k s (s.setRun d r) :=
    ⟨rfl, rfl, by rw [State.setRun_run_other _ _ _ _ (Ne.symm other)]⟩
  simp only [givePairs]
  split
  · exact kept _
  · exact kept _

theorem givePairs_each (layer : Nat) (m : ExpertMap) (ps : List (BitVec 128)) : ∀ (l : List CoupeId) (s : State),
    (∀ d ∈ l, d ≠ k) → SameBundles k s (l.foldl (fun t d => givePairs k d layer (pairsOn m d ps) t) s)
  | [], s, _ => .refl s
  | d :: l, s, other => (givePairs_sameBundles (other d List.mem_cons_self) layer _ s).trans
      (givePairs_each layer m ps l _ fun e he => other e (List.mem_cons_of_mem d he))

theorem keepPairs_bundles (m : ExpertMap) (layer sender : Nat) (ps : List (BitVec 128)) (s : State) :
    (keepPairs k m layer sender ps s).mem = s.mem ∧ (keepPairs k m layer sender ps s).cores = s.cores
      ∧ ((keepPairs k m layer sender ps s).run k).bundles = (s.run k).bundles ++ [(layer, sender, pairsOn m k ps)] := by
  have others : ∀ d ∈ otherCoupes m k ps, d ≠ k := fun d hd => of_decide_eq_true (List.mem_filter.1 hd).2
  obtain ⟨mem, cores, bundles⟩ := givePairs_each layer m ps (otherCoupes m k ps)
    (s.setRun k { s.run k with bundles := (s.run k).bundles ++ [(layer, sender, pairsOn m k ps)] }) others
  refine ⟨mem, cores, bundles.trans ?_⟩
  rw [State.setRun_run]

theorem joinBundle_bundles {cfg m} {layer sender : Nat} {ps : List (BitVec 128)} {s : State}
    (new : (s.run k).bundles.any (fun b => b.1 = layer && b.2.1 = sender) = false) (member : sender < 256) :
    (joinBundle k cfg m layer sender ps s).mem = s.mem ∧ (joinBundle k cfg m layer sender ps s).cores = s.cores
      ∧ ((joinBundle k cfg m layer sender ps s).run k).bundles
        = (s.run k).bundles ++ [(layer, sender, pairsOn m k (ownPairs (s.coupe k) m ps))] := by
  simp only [joinBundle]
  rw [if_neg (by rw [new]; decide), if_neg (by omega)]
  have relayed : SameBundles k s (if sender / 8 ≠ (s.coupe k).sIndex.toNat / 8 && (s.coupe k).sIndex.toNat % 8 = 0 then
      ((otherMembers (s.coupe k)).filter (fun j => j / 8 = (s.coupe k).sIndex.toNat / 8)).foldl (fun t j =>
        sendBundle k j layer sender (pairsAt m (j / 8) (some (j % 8)) ps) t) s else s) := by
    split
    · exact SameBundles.foldl (fun t j => (sendMember_streams ..).sameBundles) _ s
    · exact .refl s
  obtain ⟨mem, cores, bundles⟩ := relayed
  obtain ⟨mem', cores', bundles'⟩ := keepPairs_bundles (k := k) m layer sender (ownPairs (s.coupe k) m ps) (_ : State)
  obtain ⟨mem'', cores'', bundles''⟩ := buildLayers_sameBundles (k := k) cfg m cfg.players.toNat (_ : State)
  exact ⟨(mem''.trans mem').trans mem, (cores''.trans cores').trans cores, (bundles''.trans bundles').trans (by rw [bundles])⟩

section
variable {h : BitVec 128} {layer sender : Nat} {ps : List (BitVec 128)} {s : State}

theorem takeBundle_early (closed : (s.run k).openStep = none) :
    (takeBundle k h layer sender ps s).mem = s.mem ∧ (takeBundle k h layer sender ps s).cores = s.cores
      ∧ ((takeBundle k h layer sender ps s).run k).earlyBundles
        = (s.run k).earlyBundles ++ [((Pkt.epoch h).toNat, layer, sender, ps)] := by
  simp only [takeBundle, crossArrival_run, closed]
  refine ⟨rfl, rfl, ?_⟩
  rw [State.setRun_run]

theorem takeBundle_joins {st : Step} {cfg : Config} (isOpen : (s.run k).openStep = some st)
    (bound : bindingOf s k = some cfg) (spans : st.spans = true) (runs : st.boundary = false)
    (current : Pkt.epoch h = (s.run k).spanEpoch)
    (new : (s.run k).bundles.any (fun b => b.1 = layer && b.2.1 = sender) = false) (member : sender < 256) :
    (takeBundle k h layer sender ps s).mem = s.mem ∧ (takeBundle k h layer sender ps s).cores = s.cores
      ∧ ((takeBundle k h layer sender ps s).run k).bundles
        = (s.run k).bundles ++ [(layer, sender, pairsOn (s.coupe k).map k (ownPairs (s.coupe k) (s.coupe k).map ps))] := by
  have bound' : bindingOf (crossArrival k s) k = some cfg := bound
  simp only [takeBundle, crossArrival_run, isOpen, bound']
  rw [if_pos (by simp [spans, runs, current])]
  have new' : ((crossArrival k s).run k).bundles.any (fun b => b.1 = layer && b.2.1 = sender) = false := by
    rw [crossArrival_run]
    exact new
  obtain ⟨mem, cores, bundles⟩ := joinBundle_bundles (cfg := cfg) (m := (s.coupe k).map) (ps := ps) new' member
  rw [crossArrival_run] at bundles
  obtain ⟨mem', cores', bundles'⟩ := (checkBoundary_streams k
    (joinBundle k cfg (s.coupe k).map layer sender ps (crossArrival k s))).sameBundles (k := k)
  exact ⟨mem'.trans mem, cores'.trans cores, bundles'.trans bundles⟩

end

end

/-- Settles O53: `takePkt` passes an admitted packet to its type's handler and refuses a malformed one; each handler is
followed through what it sends on. -/
theorem packetsAreTaken : Obligations.PacketsAreTaken := by
  unfold Obligations.PacketsAreTaken
  intro l h s
  refine ⟨fun k data ok len low => ?_, fun k n q ok len => ?_, fun k xtag attempt nreq status l2 ok len => ?_,
    fun k ok len => ?_, fun members reach ok len => exec_announce_spec ok len, fun k layer sender ps ok len => ?_,
    fun data works steady bad => ?_⟩
  · refine ⟨fun unbound => ?_, fun q bound old => ?_, fun q bound current full => ?_, fun q bound current empty room => ?_⟩
    · refine ⟨_, row_strays ok len low unbound, ?_, rfl⟩
      rw [State.setRun_run]
    · exact ⟨_, row_discarded ok len low bound old, (setQueue_is ..).1, rfl⟩
    · refine ⟨_, row_joins ok len low bound current, ?_⟩
      rw [rowToQueue, if_neg (by simp [full])]
      refine ⟨(setQueue_is ..).1, ?_, rfl⟩
      rw [enterQueue, State.setQueue, State.setRun_run]
      change ((crossArrival k s).run k).lastCross = _
      rw [crossArrival_run]
    · rw [row_joins ok len low bound current, rowToQueue, if_pos (by simp [empty, room])]
  · intro qh bound current elsewhere noPlans noFeeds
    refine ⟨_, exec_credit_for ok len, ?_⟩
    rw [takeCredit_idle bound current elsewhere noPlans noFeeds]
    exact ⟨rfl, rfl, (setQueue_is ..).1⟩
  · intro count o
    refine ⟨fun closed new room => ?_, fun st isOpen spans tag current first => ?_, fun other differs => ?_⟩
    · refine ⟨_, (exec_outcome_for count ok len).trans (congrArg Host.Outcome.next (if_pos rfl)), takeOutcome_held closed new room⟩
    · refine ⟨_, (exec_outcome_for count ok len).trans (congrArg Host.Outcome.next (if_pos rfl)),
        takeOutcome_joins isOpen spans tag current first⟩
    · refine ⟨_, (exec_outcome_for other ok len).trans (congrArg Host.Outcome.next (if_neg differs)), ?_⟩
      rw [crossArrival_run]
      exact ⟨rfl, rfl⟩
  · refine ⟨_, exec_flush_for ok len, ?_⟩
    rw [releaseTo_sameFlushed]
    exact noteFlush_noted h s
  · refine ⟨fun closed => ⟨_, exec_bundle_for ok len, takeBundle_early closed⟩, fun st cfg isOpen bound spans runs => ?_⟩
    intro m current new
    exact ⟨_, exec_bundle_for ok len, takeBundle_joins isOpen bound spans runs current new sender.isLt⟩
  · exact ⟨_, (exec_row ..).trans (takePkt_malformed works steady bad true _ _), quarantine_enters works⟩

end Sys2Proof.Machine
end

section
/-! PROOFS. Ethernet work requests, frames, imports and port changes (R353–R355, R413). -/

namespace Sys2Proof.Machine

/-! ## Counters -/

/-- Only the Ethernet ports differ. -/
def OnlyEth (s t : State) : Prop := t = { s with eth := t.eth }

theorem OnlyEth.trans {s t u : State} (h : OnlyEth s t) (g : OnlyEth t u) : OnlyEth s u := by
  rw [OnlyEth] at *
  rw [g, h]

theorem countEth_eth (p k n s) : OnlyEth s (countEth p k n s) := rfl

theorem countEths_eth (p) : ∀ (l : List (Nat × Nat)) (s : State), OnlyEth s (countEths p l s)
  | [], _ => rfl
  | c :: l, s => (countEth_eth p c.1 c.2 s).trans (countEths_eth p l _)

/-- Counter `k` of port `p`. -/
def ethCount (p : Bool) (k : Nat) (s : State) : BitVec 64 := (s.ethPort p).stats.get 0 k

theorem countEth_count (p : Bool) (k n : Nat) (s : State) : ethCount p k (countEth p k n s) = ethCount p k s + BitVec.ofNat 64 n := by
  rw [ethCount, countEth, State.setEth_ethPort]
  exact Sparse.get_set_same _ _ _ _

theorem countEth_count_other (p : Bool) {k j : Nat} (n : Nat) (s : State) (other : j ≠ k) :
    ethCount p j (countEth p k n s) = ethCount p j s := by
  rw [ethCount, countEth, State.setEth_ethPort]
  exact Sparse.get_set_other _ _ _ _ _ other

theorem countEths_count_other (p : Bool) {j : Nat} : ∀ (l : List (Nat × Nat)) (s : State), (∀ c ∈ l, j ≠ c.1) →
    ethCount p j (countEths p l s) = ethCount p j s
  | [], _, _ => rfl
  | c :: l, s, other => (countEths_count_other p l _ fun d hd => other d (List.mem_cons_of_mem c hd)).trans
      (countEth_count_other p c.2 s (other c List.mem_cons_self))

/-! ## Work requests -/

section
variable {qp : BitVec 10} {f : BitVec 3} {p : Bool} {b : EthBuffer} {c : EthSent} {s : State}

section
variable (on : ethOn s p = true) (free : (s.ethPort p).testing = false) (ready : qpReady s qp f = true)
include on free ready

theorem exec_workRequest_send {op : EthOp} (sends : op = .send ∨ op = .write) (reply : EthReply) :
    exec (.ethWorkRequest qp f p op b c reply) s
      = .next (if sourceOk s f b then sendFrom p qp b c reply s else localError p qp s) := by
  rcases sends with rfl | rfl
  all_goals
    rw [exec_ethWorkRequest, execEthWorkRequest, if_neg (by simp [on, free, ready])]
    exact (apply_ite Host.Outcome.next ..).symm

theorem exec_workRequest_deck {a : BitVec 48} {n : Nat} {data : List (BitVec 8)} (reply : EthReply)
    (ok : deckRangeOk s f a.toNat n true = true) :
    exec (.ethWorkRequest qp f p (.read data) (.deck a n) c reply) s
      = .next (readInto p qp (.deck a n) data c reply s) := by
  rw [exec_ethWorkRequest]
  unfold execEthWorkRequest
  rw [if_neg (by simp [on, free, ready])]
  exact if_pos ok

theorem exec_workRequest_seq {i : SlotId} {gen b0 n : BitVec 16} {data : List (BitVec 8)} (reply : EthReply)
    (ok : seqTargetOk s i gen b0 = true) :
    exec (.ethWorkRequest qp f p (.read data) (.seq i gen b0 n) c reply) s
      = .next (readInto p qp (.seq i gen b0 n) data c reply s) := by
  rw [exec_ethWorkRequest]
  unfold execEthWorkRequest
  rw [if_neg (by simp [on, free, ready])]
  exact if_pos ok

end

theorem localError_spec : (localError p qp s).workDone = s.workDone ++ [⟨qp, 1⟩]
    ∧ localError p qp s = { s with workDone := (localError p qp s).workDone, eth := (localError p qp s).eth } := ⟨rfl, rfl⟩

theorem sendFrom_clean (unread : bufferGranules s b = []) : (sendFrom p qp b c .done s).workDone = s.workDone ++ [⟨qp, 0⟩]
    ∧ (sendFrom p qp b c .done s).mem = s.mem ∧ (sendFrom p qp b c .done s).cores = s.cores := by
  have counted : OnlyEth s (countSent p c s) := countEths_eth ..
  rw [OnlyEth] at counted
  simp only [sendFrom, unread, readGranules]
  rw [counted]
  exact ⟨rfl, rfl, rfl⟩

/-- A granule merged where no error is stored. -/
theorem mergeGranule_clean (a : Nat) {s : State} (clean : s.granuleErrors = []) : mergeGranule false a s = s := by
  rw [mergeGranule, clean]
  rfl

/-- Where no error is stored, sound bytes change no other than their own. -/
theorem writeBytesAt_clean (a : Nat) (bs : List (BitVec 8)) {s : State} (clean : s.granuleErrors = []) :
    (writeBytesAt a bs false s).mem = Memory.write a bs s.mem := by
  have same := foldl_related (R := fun s t : State => s.granuleErrors = [] → t.granuleErrors = [] ∧ t.mem = s.mem)
    (fun _ clean => ⟨clean, rfl⟩) (fun h g clean => ⟨(g (h clean).1).1, (g (h clean).1).2.trans (h clean).2⟩)
    (fun t g => if a ≤ g && g + 64 ≤ a + bs.length then setGranules false [g] t else mergeGranule false g t)
    (fun t g clean => by
      split
      · exact ⟨setGranules_clean false [g] t clean, setGranules_mem false [g] t⟩
      · rw [mergeGranule_clean g clean]
        exact ⟨clean, rfl⟩) (granulesOf a bs.length) { s with mem := Memory.write a bs s.mem } clean
  exact same.2

theorem readInto_deck {a : BitVec 48} {data : List (BitVec 8)} (clean : s.granuleErrors = []) :
    (readInto p qp (.deck a data.length) data c .done s).workDone = s.workDone ++ [⟨qp, 0⟩]
      ∧ (readInto p qp (.deck a data.length) data c .done s).cores = s.cores
      ∧ (readInto p qp (.deck a data.length) data c .done s).mem = Memory.write a.toNat data s.mem := by
  have counted : OnlyEth s (countSent p c s) := countEths_eth ..
  rw [OnlyEth] at counted
  simp only [readInto, fillBuffer, List.take_length]
  rw [counted]
  generalize (countSent p c s).eth = e
  have stored := writeBytesAt_clean a.toNat data (s := { s with eth := e }) clean
  have list := (writeBytesAt_list a.toNat data false { s with eth := e }).1
  refine ⟨?_, ?_, stored⟩
  · rw [workDone, list]
    rfl
  · rw [workDone, list]

theorem readInto_seq {i : SlotId} {gen b0 n : BitVec 16} {data : List (BitVec 8)} :
    (readInto p qp (.seq i gen b0 n) data c .done s).imports = s.imports ++ [⟨qp, i, gen, b0, n, []⟩]
      ∧ (readInto p qp (.seq i gen b0 n) data c .done s).workDone = s.workDone
      ∧ (readInto p qp (.seq i gen b0 n) data c .done s).mem = s.mem := by
  have counted : OnlyEth s (countSent p c s) := countEths_eth ..
  rw [OnlyEth] at counted
  simp only [readInto]
  rw [counted]
  exact ⟨rfl, rfl, rfl⟩

end

/-! ## Frames -/

section
variable {p : Bool} {x : EthFrame} {s : State}

/-- The counters of forward error correction advanced by a frame. -/
def fecCounted (p : Bool) (x : EthFrame) (s : State) : State :=
  countEths p [(14, x.fecCorrected), (15, x.fecUncorrectable)] s

/-- A sound frame counted. -/
def frameCounted (p : Bool) (x : EthFrame) (s : State) : State := countEths p [(1, 1), (3, x.len)] (fecCounted p x s)

theorem fecCounted_count (k : Nat) (low : k < 14) : ethCount p k (fecCounted p x s) = ethCount p k s :=
  countEths_count_other p _ s (by simp; omega)

theorem fecCounted_eth : OnlyEth s (fecCounted p x s) := countEths_eth ..

theorem frameCounted_eth : OnlyEth s (frameCounted p x s) := fecCounted_eth.trans (countEths_eth ..)

theorem frameCounted_frames : ethCount p 1 (frameCounted p x s) = ethCount p 1 s + 1 := by
  rw [frameCounted, countEths, List.foldl_cons, List.foldl_cons, List.foldl_nil, countEth_count_other (k := 3) _ _ _ (by decide),
    countEth_count, fecCounted_count _ (by decide)]
  rfl

theorem frameCounted_bytes : ethCount p 3 (frameCounted p x s) = ethCount p 3 s + BitVec.ofNat 64 x.len := by
  rw [frameCounted, countEths, List.foldl_cons, List.foldl_cons, List.foldl_nil, countEth_count,
    countEth_count_other _ _ _ (by decide), fecCounted_count _ (by decide)]

theorem frameCounted_count {k : Nat} (low : k < 14) (h1 : k ≠ 1) (h3 : k ≠ 3) :
    ethCount p k (frameCounted p x s) = ethCount p k s :=
  (countEths_count_other p _ _ (by simp; omega)).trans (fecCounted_count k low)

variable (on : ethOn s p = true)
include on

theorem exec_frame_damaged (damaged : x.fcsOk = false) :
    exec (.ethFrameReceive p x) s = .next (countEth p 4 1 (fecCounted p x s)) := by
  rw [exec_ethFrameReceive, execEthFrameReceive, if_neg (by simp [on])]
  dsimp only
  rw [if_pos (by simp [damaged])]
  rfl

variable (free : (s.ethPort p).testing = false) (sound : x.fcsOk = true) (goesOn : x.pause = false)
include free sound goesOn

theorem exec_frame_unsupported (unsupported : frameUnsupported x = true) :
    exec (.ethFrameReceive p x) s = .next (countEth p 5 1 (frameCounted p x s)) := by
  rw [exec_ethFrameReceive, execEthFrameReceive, if_neg (by simp [on])]
  dsimp only
  rw [if_neg (by simp [sound]), if_neg (by simp [goesOn]), if_neg (by simp [free]), if_pos unsupported]
  rfl

theorem exec_frame_taken (supported : frameUnsupported x = false) (data : x.cnp = false) (inOrder : x.outOfSequence = false)
    (silent : x.access = .none) : exec (.ethFrameReceive p x) s
      = .next (if x.congested then countEth p 9 1 (frameCounted p x s) else frameCounted p x s) := by
  rw [exec_ethFrameReceive, execEthFrameReceive, if_neg (by simp [on])]
  dsimp only
  rw [if_neg (by simp [sound]), if_neg (by simp [goesOn]), if_neg (by simp [free]), if_neg (by simp [supported]),
    if_neg (by simp [data]), if_neg (by simp [inOrder]), silent]
  rfl

end

/-! ## Imports -/

section
variable {qp : BitVec 10} {m : Import} {cfg : Config} {s : State} {bs : List (List (BitVec 32) × List (Row × Bool))}

theorem failImport_spec (qp : BitVec 10) (i : SlotId) (gs : List GroupId) (s : State) :
    (failImport qp i gs s).workDone = s.workDone ++ [⟨qp, 3⟩] ∧ (failImport qp i gs s).mem = s.mem
      ∧ (failImport qp i gs s).cores = s.cores ∧ (failImport qp i gs s).imports = s.imports
      ∧ ∀ j, (failImport qp i gs s).seq j = s.seq j := by
  have pools : OnlyPools s (trimList i (gs.foldl (fun t g => dropAlloc (.group g) t) s)) :=
    (foldl_related .refl .trans _ (fun t g => dropAlloc_onlyPools (.group g) t) gs s).trans (trimList_onlyPools ..)
  rw [failImport]
  generalize trimList i (gs.foldl (fun t g => dropAlloc (.group g) t) s) = u at pools ⊢
  rw [OnlyPools] at pools
  rw [pools]
  exact ⟨rfl, rfl, rfl, rfl, fun _ => rfl⟩

theorem writeBlock_rows : ∀ (l : List (Row × Bool)) (a : Nat) (s : State), OnlyRows s (writeBlock a l s)
  | [], _, s => .refl s
  | r :: rest, a, s => (writeRowAt_rows ..).trans (writeBlock_rows rest _ _)

variable (goes : s.imports.find? (fun x => x.qp = qp) = some m) (bound : bindingOf s (s.seq m.slot).coupe = some cfg)
include goes bound

theorem exec_import_bad (bad : blocksOk cfg m.blocks.toNat bs = false ∨ seqTargetOk s m.slot m.gen m.b0 = false) :
    exec (.seqImportComplete qp bs) s
      = .next (failImport qp m.slot m.groups { s with imports := s.imports.erase m }) := by
  rw [exec_seqImportComplete, execSeqImportComplete, goes]
  simp only [bound]
  exact if_pos (by rcases bad with bad | bad <;> simp [bad])

variable (whole : blocksOk cfg m.blocks.toNat bs = true) (fits : seqTargetOk s m.slot m.gen m.b0 = true)
include whole fits

theorem exec_import_granted {gs : List GroupId} {u : State}
    (granted : takeImport (s.seq m.slot).coupe cfg m { s with imports := s.imports.erase m } = .granted gs u) :
    ∃ t, exec (.seqImportComplete qp bs) s = .next t ∧ t.workDone = u.workDone ∧ t.dur = u.dur
      ∧ ∃ d, t.due = d ++ [.importBlocks qp m.slot m.gen m.b0 (gs.zip (bs.map (·.1)))] := by
  have rows := foldl_related (R := OnlyRows) .refl .trans (fun v (g : GroupId × List (BitVec 32) × List (Row × Bool)) =>
    writeBlock (((findAlloc v .deck (.group g.1)).map (fun a => a.addr.toNat)).getD 0) g.2.2 v)
    (fun v g => writeBlock_rows ..) (gs.zip bs) u
  rw [exec_seqImportComplete, execSeqImportComplete, goes]
  simp only [bound, granted]
  refine ⟨_, if_neg (by simp [whole, fits]), ?_⟩
  generalize (gs.zip bs).foldl (fun v (g : GroupId × List (BitVec 32) × List (Row × Bool)) =>
    writeBlock (((findAlloc v .deck (.group g.1)).map (fun a => a.addr.toNat)).getD 0) g.2.2 v) u = v at rows ⊢
  rw [OnlyRows] at rows
  rw [rows]
  exact ⟨rfl, rfl, _, rfl⟩

theorem exec_import_waits {gs : List GroupId} {u : State}
    (waits : takeImport (s.seq m.slot).coupe cfg m { s with imports := s.imports.erase m } = .waits gs u) :
    exec (.seqImportComplete qp bs) s = .next { u with imports := { m with groups := gs } :: u.imports } := by
  rw [exec_seqImportComplete, execSeqImportComplete, goes]
  simp only [bound, waits]
  exact if_neg (by simp [whole, fits])

end

/-! ## Ports -/

theorem exec_portLinkChange {p up : Bool} {s : State} (main : s.power.main = true) (changes : (s.ethPort p).up ≠ up) :
    exec (.ethPortLinkChange p up) s = .next (raise0 0x26 (b2n p + 2 * b2n up) (s.setEth p { s.ethPort p with up := up })) := by
  rw [exec_ethPortLinkChange, execEthPortLinkChange]
  exact if_neg (by simp [main, changes])

/-- Settles O54: each work request, frame, import and port change by the branch of its command that its conditions select. -/
theorem ethernetMovesBytes : Obligations.EthernetMovesBytes := by
  unfold Obligations.EthernetMovesBytes
  refine ⟨fun qp f p b c s on free ready => ?_, fun p x s on free => ?_, fun qp bs m cfg s goes bound => ?_,
    fun p up s main changes => ?_⟩
  · refine ⟨fun op sends ok unread => ?_, fun op sends bad => ?_, fun a n data deck ok length clean => ?_,
      fun i gen b0 n data target ok => ?_⟩
    · exact ⟨_, (exec_workRequest_send on free ready sends .done).trans (congrArg Host.Outcome.next (if_pos ok)), sendFrom_clean unread⟩
    · exact ⟨_, (exec_workRequest_send on free ready sends .done).trans
        (congrArg Host.Outcome.next (if_neg (by simp [bad]))), localError_spec⟩
    · subst deck length
      obtain ⟨done, cores, mem⟩ := readInto_deck (qp := qp) (p := p) (c := c) (a := a) (data := data) clean
      refine ⟨_, exec_workRequest_deck on free ready .done ok, done, cores, fun j h => ?_, fun x outside => ?_⟩
      · rw [mem, Memory.byte_write_inside _ _ _ _ h]
      · rw [mem, Memory.byte_write_outside _ _ _ _ outside]
    · subst target
      exact ⟨_, exec_workRequest_seq on free ready .done ok, readInto_seq⟩
  · intro count
    refine ⟨fun damaged => ?_, fun sound goesOn unsupported => ?_, fun sound goesOn supported data inOrder silent => ?_⟩
    · refine ⟨_, exec_frame_damaged on damaged, ?_, fecCounted_eth.trans (countEth_eth ..)⟩
      exact (countEth_count ..).trans (by rw [fecCounted_count _ (by decide)]; rfl)
    · refine ⟨_, exec_frame_unsupported on free sound goesOn unsupported, ?_, ?_, frameCounted_eth.trans (countEth_eth ..)⟩
      · exact (countEth_count ..).trans (by rw [frameCounted_count (by decide) (by decide) (by decide)]; rfl)
      · exact (countEth_count_other _ _ _ (by decide)).trans frameCounted_frames
    · refine ⟨_, exec_frame_taken on free sound goesOn supported data inOrder silent, ?_⟩
      split
      · exact ⟨(countEth_count_other _ _ _ (by decide)).trans frameCounted_frames,
          (countEth_count_other _ _ _ (by decide)).trans frameCounted_bytes, frameCounted_eth.trans (countEth_eth ..)⟩
      · exact ⟨frameCounted_frames, frameCounted_bytes, frameCounted_eth⟩
  · intro s1
    refine ⟨fun bad => ⟨_, exec_import_bad goes bound bad, ?_⟩, fun whole fits gs u =>
      ⟨exec_import_granted goes bound whole fits, exec_import_waits goes bound whole fits⟩⟩
    exact failImport_spec qp m.slot m.groups s1
  · refine ⟨_, exec_portLinkChange main changes, ?_, ?_, rfl⟩
    · exact State.setEth_ethPort ..
    · exact State.setEth_ethPort_other _ _ _ _ (by cases p <;> decide)

end Sys2Proof.Machine
end

section
/-! PROOFS. What the effects of a commit leave alone: the number of the last commit and the power record (R305). -/

namespace Sys2Proof.Machine

/-! ## Relations that keep them -/

theorem Streams.phase {s t : State} (h : Streams s t) : phase t = phase s := by rw [h.rest]; rfl
theorem OnlyFlow.phase {s t : State} (h : OnlyFlow s t) : phase t = phase s := by rw [h]; rfl
theorem OnlyList.phase {s t : State} (h : OnlyList s t) : phase t = phase s := by rw [h.1]; rfl

@[simp] theorem State.setSlot_phase (s c x) : phase (State.setSlot s c x) = phase s := rfl
@[simp] theorem State.setStand_phase (s g x) : phase (State.setStand s g x) = phase s := rfl
@[simp] theorem raise_phase (f kind record value stepno ring k c s) :
    phase (raise f kind record value stepno ring k c s) = phase s := rfl
@[simp] theorem raiseCore_phase (kind record value c s) : phase (raiseCore kind record value c s) = phase s := by
  unfold raiseCore
  split <;> rfl
@[simp] theorem suspect_phase (c cause s) : phase (suspect c cause s) = phase s := by simp [suspect]
@[simp] theorem transient_phase (c s) : phase (transient c s) = phase s := by simp [transient]
@[simp] theorem drawFree_phase (s) : phase (drawFree s).2 = phase s := rfl
@[simp] theorem workDone_phase (qp status s) : phase (workDone qp status s) = phase s := rfl
@[simp] theorem finishAt_phase (r p status dkind detail stepno s) :
    phase (finishAt r p status dkind detail stepno s) = phase s := rfl
@[simp] theorem writeList_phase (i s) : phase (writeList i s) = phase s := (writeList_list i s).phase

/-! ## Lease rows -/

@[simp] theorem repairRow_phase (c r s) : phase (repairRow c r s) = phase s := by
  simp only [repairRow]
  split
  · exact raiseCore_phase ..
  · exact suspect_phase ..

@[simp] theorem reportLease_phase (s h) : phase (reportLease s h) = phase s := by simp [reportLease]

theorem reportLeases_phase (s) : phase (reportLeases s) = phase s := by
  have replayed := Streams.foldl (fun t k => replayLeases_streams k t)
    (s.leaseHits.filterMap (fun h => coupeOf s h.core)).eraseDups s
  exact (foldl_phase reportLease_phase _ _).trans replayed.phase

/-! ## Groups and sequences -/

@[simp] theorem setWay_phase (set w e s) : phase (setWay set w e s) = phase s := rfl
@[simp] theorem takeWay_phase (g set w s) : phase (takeWay g set w s) = phase s := rfl
@[simp] theorem dropScent_phase (f s) : phase (dropScent f s) = phase s := rfl

@[simp] theorem offerGroup_phase (g s) : phase (offerGroup g s) = phase s := by
  simp only [offerGroup]
  split
  · rfl
  split
  · rfl
  split
  · rfl
  split
  · rfl
  · exact (takeWay_phase ..).trans (freeGroup_phase ..)

@[simp] theorem sealGroup_phase (g s) : phase (sealGroup g s) = phase s := by
  simp only [sealGroup]
  split
  · rfl
  · simp

@[simp] theorem createGroup_phase (cfg i g s) : phase (createGroup cfg i g s) = phase s := rfl
@[simp] theorem fillGroup_phase (g toks s) : phase (fillGroup g toks s) = phase s := by simp [fillGroup]

@[simp] theorem commitTokens_phase (cfg i) : ∀ fuel p toks gs s, phase (commitTokens cfg i fuel p toks gs s) = phase s
  | 0, _, _, _, _ => rfl
  | fuel + 1, p, toks, gs, s => by
    simp only [commitTokens]
    repeat' split
    all_goals simp [commitTokens_phase cfg i fuel]

@[simp] theorem cutSeq_phase (i kept s) : phase (cutSeq i kept s) = phase s := by simp [cutSeq]
@[simp] theorem commitTree_phase (r s) : phase (commitTree r s) = phase s := by simp [commitTree]
@[simp] theorem commitOk_phase (cfg r s) : phase (commitOk cfg r s) = phase s := by simp [commitOk]

@[simp] theorem giveBack_phase (r s) : phase (giveBack r s) = phase s := by
  rw [giveBack_onlyPools r s]
  rfl

@[simp] theorem failImport_phase (qp i gs s) : phase (failImport qp i gs s) = phase s := by simp [failImport]

/-! ## Steps -/

@[simp] theorem commitLost_phase (st r s) : phase (commitLost st r s) = phase s := by simp [commitLost]
@[simp] theorem commitReq_phase (cfg st status r s) : phase (commitReq cfg st status r s) = phase s := by simp [commitReq]

@[simp] theorem commitReqs_phase (cfg st) : ∀ l s, phase (commitReqs cfg st l s) = phase s
  | [], _ => rfl
  | (r, x) :: rest, s => by simp [commitReqs, commitReqs_phase cfg st rest]

@[simp] theorem countCoreSteps_phase (cfg st s) : phase (countCoreSteps cfg st s) = phase s := by
  unfold countCoreSteps
  split
  · rfl
  · refine foldl_phase (fun t c => ?_) _ s
    rfl

@[simp] theorem transientVerdict_phase (st ok s) : phase (transientVerdict st ok s) = phase s := by
  unfold transientVerdict
  split
  · rfl
  · split
    · simp
    · rfl

@[simp] theorem rearmZombies_phase (k s) : phase (rearmZombies k s) = phase s := by
  refine foldl_phase (fun t g => ?_) _ s
  rfl


@[simp] theorem spanAdvance_phase (k s) : phase (spanAdvance k s) = phase s := (sendAllMembers_streams ..).phase.trans rfl

@[simp] theorem commitStep_phase (k cfg st s) : phase (commitStep k cfg st s) = phase s := by
  simp only [commitStep]
  split <;> simp

theorem commitSteps_phase (s) : phase (commitSteps s) = phase s := by
  refine foldl_related (R := fun s t => phase t = phase s) (fun _ => rfl) (fun h g => g.trans h) _ (fun t k => ?_) _ s
  split <;> simp

/-! ## Other changes -/

@[simp] theorem activateSeq_phase (i s) : phase (activateSeq i s) = phase s := by simp [activateSeq]
@[simp] theorem freeTaken_phase (i s) : phase (freeTaken i s) = phase s := by simp [freeTaken]
@[simp] theorem unscent_phase (g s) : phase (unscent g s) = phase s := by simp [unscent]
@[simp] theorem unevict_phase (g s) : phase (unevict g s) = phase s := rfl
@[simp] theorem applySalt_phase (i v s) : phase (applySalt i v s) = phase s := by
  simp only [applySalt]
  exact (foldl_phase (fun t g => by simp) _ _).trans rfl
@[simp] theorem poisonGroup_phase (g s) : phase (poisonGroup g s) = phase s := by simp [poisonGroup]
@[simp] theorem dropSaves_phase (k s) : phase (dropSaves k s) = phase s := by simp [dropSaves]
@[simp] theorem applyCoupeSet_phase (k w s) : phase (applyCoupeSet k w s) = phase s := by simp [applyCoupeSet]

theorem markConflict_phase (k s) : phase (markConflict k s) = phase s := by
  simp only [markConflict]
  split
  · rfl
  · split
    · split
      · exact (endStep_streams ..).phase.trans ((flushCoupe_flow ..).phase.trans rfl)
      · rfl
    · rfl

@[simp] theorem raise0_phase (kind value s) : phase (raise0 kind value s) = phase s := rfl
@[simp] theorem transmit_phase (l vc header p s) : phase (transmit l vc header p s) = phase s := (transmit_streams ..).phase

theorem judgeClaims_phase (old s) : phase (judgeClaims old s) = phase s := by
  refine (foldl_phase (fun t k => markConflict_phase k t) _ _).trans (foldl_phase (fun t c => ?_) _ s)
  rfl

@[simp] theorem announceAll_phase (s) : phase (announceAll s) = phase s := by simp [announceAll]

@[simp] theorem applySpanSet_phase (k id count index s) : phase (applySpanSet k id count index s) = phase s := by
  unfold applySpanSet
  split
  · exact (announceAll_phase ..).trans ((judgeClaims_phase ..).trans rfl)
  · rfl

@[simp] theorem placeRing_phase (valid r w s) : phase (placeRing valid r w s) = phase s := by
  simp only [placeRing]
  split
  · rfl
  · split <;> rfl

@[simp] theorem applyRingEntry_phase (r w s) : phase (applyRingEntry r w s) = phase s := by simp [applyRingEntry]

@[simp] theorem applyImport_phase (qp i gen b0 gs s) : phase (applyImport qp i gen b0 gs s) = phase s := by
  unfold applyImport
  split
  · split
    · simp
    · simp
  · simp

@[simp] theorem remapFailed_phase (g s) : phase (remapFailed g s) = phase s := by
  have mapped := foldl_related (R := fun s t : State => phase t = phase s) (fun _ => rfl) (fun h g => g.trans h)
    (fun t c => if (t.slot c).state = .failed then
      match spares t g with
      | p :: _ => t.setSlot c { t.slot c with state := .inService, phys := some p }
      | [] => t
    else t) (fun t c => by split <;> [split <;> rfl; rfl]) (standCores g) s
  simp only [remapFailed]
  split
  · exact (State.setStand_phase ..).trans mapped
  · exact mapped

@[simp] theorem applyPin_phase (i n k ring pos s) : phase (applyPin i n k ring pos s) = phase s := by
  simp only [applyPin]
  split
  · rfl
  · simp

@[simp] theorem applyDue_phase (d s) : phase (applyDue d s) = phase s := by
  unfold applyDue
  split
  case h_3 =>
    split
    · rfl
    · simp
  all_goals simp

theorem applyDues_phase (l s) : phase (applyDues l s) = phase s := foldl_phase (fun t d => applyDue_phase d t) l s

theorem applyCommit_phase (s) : phase (applyCommit s) = phase s := by
  simp only [applyCommit]
  exact (applyDues_phase ..).trans ((commitSteps_phase _).trans ((applyDues_phase ..).trans rfl))

theorem clearSuspects_phase (s) : phase (clearSuspects s) = phase s := by
  refine foldl_related (R := fun s t => phase t = phase s) (fun _ => rfl) (fun h g => g.trans h) _ (fun t n => ?_) _ s
  dsimp only
  split <;> simp

end Sys2Proof.Machine
end

section
/-! PROOFS. A commit journals the live records and publishes finished descriptors in ring order (R304–R307, R312). -/

namespace Sys2Proof.Machine

/-! ## What publication changes -/

/-- Publication: rings, their posted entries and the events, and what the slots of failed openings held. -/
structure Publishing (s t : State) : Prop where
  rest : t = { s with
    dur := { s.dur with seqs := t.dur.seqs, groups := t.dur.groups, images := t.dur.images, allocs := t.dur.allocs }
    transfers := t.transfers
    granted := t.granted
    moves := t.moves
    freedGroups := t.freedGroups
    rings := t.rings
    posted := t.posted
    events := t.events
    dropped := t.dropped
    power := { s.power with barkOwed := t.power.barkOwed } }
  entry : ∀ r, (t.ringOf r).entry = (s.ringOf r).entry
  posted : ∀ p ∈ s.posted, p ∈ t.posted

theorem Publishing.refl (s : State) : Publishing s s := ⟨rfl, fun _ => rfl, fun _ hp => hp⟩

theorem Publishing.trans {s t u : State} (h : Publishing s t) (g : Publishing t u) : Publishing s u :=
  ⟨by rw [g.rest, h.rest], fun r => (g.entry r).trans (h.entry r), fun p hp => g.posted p (h.posted p hp)⟩

section
variable {s t : State} (h : Publishing s t)
include h

theorem Publishing.mem : t.mem = s.mem := by rw [h.rest]
theorem Publishing.commits : t.dur.commits = s.dur.commits := by rw [h.rest]
theorem Publishing.device : t.power.device = s.power.device := by rw [h.rest]
theorem Publishing.funcReset : t.funcReset = s.funcReset := by rw [h.rest]

end

/-- As `Publishing`, with the accepted descriptors of every ring as they were. -/
structure Announcing (s t : State) : Prop extends Publishing s t where
  accepted : ∀ r, (t.ringOf r).accepted = (s.ringOf r).accepted

theorem Announcing.refl (s : State) : Announcing s s := ⟨.refl s, fun _ => rfl⟩

theorem Announcing.trans {s t u : State} (h : Announcing s t) (g : Announcing t u) : Announcing s u :=
  ⟨h.toPublishing.trans g.toPublishing, fun r => (g.accepted r).trans (h.accepted r)⟩

theorem Announcing.foldl {α : Type} {f : State → α → State} (one : ∀ t x, Announcing t (f t x)) (l : List α) (s : State) :
    Announcing s (l.foldl f s) := foldl_related .refl .trans f one l s

section
variable {s : State} {r : RingId} {x : Ring} (entry : x.entry = (s.ringOf r).entry)
include entry

theorem setRing_entry (j : RingId) : ((s.setRing r x).ringOf j).entry = (s.ringOf j).entry := by
  by_cases same : j = r
  · rw [same, State.setRing_ringOf, entry]
  · rw [State.setRing_ringOf_other _ _ _ _ same]

theorem State.setRing_publishing : Publishing s (s.setRing r x) := ⟨rfl, setRing_entry entry, fun _ hp => hp⟩

theorem State.setRing_announcing (accepted : x.accepted = (s.ringOf r).accepted) : Announcing s (s.setRing r x) := by
  refine ⟨State.setRing_publishing entry, fun j => ?_⟩
  by_cases same : j = r
  · rw [same, State.setRing_ringOf, accepted]
  · rw [State.setRing_ringOf_other _ _ _ _ same]

end

theorem OnlyStores.announcing {s t : State} (h : OnlyStores s t) : Announcing s t := by
  have rings (r : RingId) : t.ringOf r = s.ringOf r := by rw [h]; rfl
  refine ⟨⟨?_, fun r => by rw [rings r], fun p hp => ?_⟩, fun r => by rw [rings r]⟩
  · rw [h]
  · rw [h]
    exact hp

theorem post_announcing (s : State) (p : Posted) : Announcing s { s with posted := s.posted ++ [p] } :=
  ⟨⟨rfl, fun _ => rfl, fun _ hp => List.mem_append_left _ hp⟩, fun _ => rfl⟩

theorem oweBark_announcing (s : State) : Announcing s { s with power := { s.power with barkOwed := true } } :=
  ⟨⟨rfl, fun _ => rfl, fun _ hp => hp⟩, fun _ => rfl⟩

theorem keepEvent_announcing (s : State) (l : List Event) : Announcing s { s with events := l } :=
  ⟨⟨rfl, fun _ => rfl, fun _ hp => hp⟩, fun _ => rfl⟩

/-! ## Attention -/

theorem dropAttention_announcing (s) : Announcing s (dropAttention s) := ⟨⟨rfl, fun _ => rfl, fun _ hp => hp⟩, fun _ => rfl⟩

theorem putAttention_announcing (n r e s) : Announcing s (putAttention n r e s) :=
  ((State.setRing_announcing (s := s) (r := r) (x := { s.ringOf r with front := (s.ringOf r).front + 1, commit := n }) rfl rfl).trans
    (post_announcing _ ⟨r, (s.ringOf r).front, attentionEntry e n⟩)).trans (oweBark_announcing _)

theorem putOverflow_announcing (n r s) : Announcing s (putOverflow n r s) := by
  simp only [putOverflow]
  split
  · refine .trans ?_ (putAttention_announcing ..)
    exact State.setRing_announcing rfl rfl
  · exact .refl s

theorem loseAttention_announcing (r s) : Announcing s (loseAttention r s) := State.setRing_announcing rfl rfl

theorem publishEvent_announcing (n e s) : Announcing s (publishEvent n e s) := by
  unfold publishEvent
  split
  · exact dropAttention_announcing s
  · split
    · exact keepEvent_announcing ..
    · dsimp only
      split
      · exact (putOverflow_announcing ..).trans (loseAttention_announcing ..)
      · exact (putOverflow_announcing ..).trans (putAttention_announcing ..)

theorem notifyRing_announcing (n r s) : Announcing s (notifyRing n r s) := by
  simp only [notifyRing]
  split
  · split
    · exact dropAttention_announcing s
    next a _ =>
      split
      · exact .refl s
      · split
        · exact putOverflow_announcing ..
        · refine ((putOverflow_announcing n a s).trans ?_).trans (putAttention_announcing ..)
          exact State.setRing_announcing rfl rfl
  · exact .refl s

theorem publishEvents_announcing (n s) : Announcing s (publishEvents n s) := by
  simp only [publishEvents]
  have events := (keepEvent_announcing s []).trans (.foldl (fun t e => publishEvent_announcing n e t) s.events _)
  generalize s.events.foldl (fun t e => publishEvent n e t) { s with events := [] } = u at events ⊢
  refine (events.trans (.foldl (fun t r => ?_) _ u)).trans (.foldl (fun t r => notifyRing_announcing n _ t) _ _)
  split
  · exact putOverflow_announcing ..
  · exact .refl t

/-! ## Completions -/

theorem freeFailed_announcing (r pos s) : Announcing s (freeFailed r pos s) := by
  unfold freeFailed
  split
  · exact (freeSeq_stores ..).announcing
  · exact .refl s

section
variable {n : BitVec 64} {r : RingId}

/-- The record of `e`'s completion under commit n is posted to the completion ring of ring r. -/
def PostedFor (n : BitVec 64) (r : RingId) (cq : RingId) (t : State) (e : Entry) : Prop :=
  ∀ status dkind detail stepno, e.state = .done status dkind detail stepno →
    ∃ p ∈ t.posted, p.ring = cq ∧ p.w = completionEntry r e.pos status dkind detail stepno (Hdr.tag e.w) n

theorem PostedFor.later {cq : RingId} {s t : State} {e : Entry} (h : PostedFor n r cq s e) (g : Publishing s t) :
    PostedFor n r cq t e := fun status dkind detail stepno done => by
  obtain ⟨p, hp, at_, is⟩ := h status dkind detail stepno done
  exact ⟨p, g.posted p hp, at_, is⟩

theorem publishOne_announces (e : Entry) (s : State) : Announcing s (publishOne n r e s)
    ∧ PostedFor n r (RingE.cq (s.ringOf r).entry) (publishOne n r e s) e := by
  unfold publishOne
  split
  next status dkind detail stepno done =>
    dsimp only
    generalize hs1 : s.setRing (RingE.cq (s.ringOf r).entry) { s.ringOf (RingE.cq (s.ringOf r).entry) with
      front := (s.ringOf (RingE.cq (s.ringOf r).entry)).front + 1
      reserved := (s.ringOf (RingE.cq (s.ringOf r).entry)).reserved - 1
      commit := n } = s1
    have first : Announcing s s1 := hs1 ▸ State.setRing_announcing rfl rfl
    generalize hs2 : s1.setRing r { s1.ringOf r with
      back := (s.ringOf r).back + 1
      commit := n
      ledger := (s.ringOf r).ledger.set none (e.pos.toNat % RingE.size (s.ringOf r).entry)
        (some ⟨e.pos, 2, status, BitVec.ofNat 8 (Hdr.opcode e.w), n⟩) } = s2
    have second : Announcing s s2 := first.trans (hs2 ▸ State.setRing_announcing rfl rfl)
    have freed := freeFailed_announcing r e.pos { s2 with posted := s2.posted ++ [⟨RingE.cq (s.ringOf r).entry,
      (s.ringOf (RingE.cq (s.ringOf r).entry)).front,
      completionEntry r e.pos status dkind detail stepno (Hdr.tag e.w) n⟩] }
    refine ⟨(second.trans (post_announcing ..)).trans freed, fun a b c d h => ?_⟩
    rw [done] at h
    cases h
    exact ⟨_, freed.posted _ (List.mem_append_right _ List.mem_cons_self), rfl, rfl⟩
  next pending => exact ⟨.refl s, fun a b c d h => absurd h (pending a b c d)⟩

theorem publishAll_announces : ∀ (l : List Entry) (s : State),
    Announcing s (l.foldl (fun t e => publishOne n r e t) s)
      ∧ ∀ e ∈ l, PostedFor n r (RingE.cq (s.ringOf r).entry) (l.foldl (fun t e => publishOne n r e t) s) e
  | [], s => ⟨.refl s, fun _ he => absurd he List.not_mem_nil⟩
  | e :: l, s => by
    obtain ⟨first, posted⟩ := publishOne_announces (n := n) (r := r) e s
    obtain ⟨later, others⟩ := publishAll_announces l (publishOne n r e s)
    rw [first.entry r] at others
    refine ⟨first.trans later, fun x hx => ?_⟩
    rcases List.mem_cons.1 hx with rfl | hx
    · exact posted.later later.toPublishing
    · exact others x hx

theorem publishRing_publishing (s : State) : Publishing s (publishRing n r s) := by
  simp only [publishRing]
  split
  · exact .refl s
  · split
    · exact State.setRing_publishing rfl
    · refine .trans ?_ (publishAll_announces ..).1.toPublishing
      exact State.setRing_publishing rfl

theorem publishRing_accepted_other (s : State) {j : RingId} (other : j ≠ r) :
    ((publishRing n r s).ringOf j).accepted = (s.ringOf j).accepted := by
  simp only [publishRing]
  split
  · rfl
  · split
    · rw [State.setRing_ringOf_other _ _ _ _ other]
    · rw [(publishAll_announces ..).1.accepted, State.setRing_ringOf_other _ _ _ _ other]

/-- A ring whose front descriptor is not finished publishes none. -/
theorem publishRing_unfinished {s : State} (none_ : (s.ringOf r).accepted.takeWhile (fun e => e.state.isDone) = []) :
    ((publishRing n r s).ringOf r).accepted = (s.ringOf r).accepted := by
  have all := List.takeWhile_append_dropWhile (p := fun e : Entry => e.state.isDone) (l := (s.ringOf r).accepted)
  rw [none_, List.nil_append] at all
  simp only [publishRing, none_, all]
  split
  · rfl
  · split
    · rw [State.setRing_ringOf]
      rfl
    · rw [List.foldl_nil, State.setRing_ringOf]

/-- A live submission ring publishes the finished descriptors at its front. -/
theorem publishRing_publishes {s : State} (kind : RingE.kind (s.ringOf r).entry = 1)
    (live : funcStopped s (RingE.func (s.ringOf r).entry) = false) :
    ((publishRing n r s).ringOf r).accepted = (s.ringOf r).accepted.dropWhile (fun e => e.state.isDone)
      ∧ ∀ e ∈ (s.ringOf r).accepted.takeWhile (fun e => e.state.isDone),
        PostedFor n r (RingE.cq (s.ringOf r).entry) (publishRing n r s) e := by
  obtain ⟨announces, posted⟩ := publishAll_announces (n := n) (r := r)
    ((s.ringOf r).accepted.takeWhile (fun e => e.state.isDone))
    (s.setRing r { s.ringOf r with accepted := (s.ringOf r).accepted.dropWhile (fun e => e.state.isDone) })
  simp only [publishRing, kind, live]
  rw [State.setRing_ringOf] at posted
  refine ⟨(announces.accepted r).trans ?_, posted⟩
  rw [State.setRing_ringOf]

/-- Ring r has published what it could of the descriptors `l` that it held, under commit n. -/
def RingPublished (n : BitVec 64) (r cq : RingId) (l : List Entry) (t : State) : Prop :=
  (t.ringOf r).accepted = l.dropWhile (fun e => e.state.isDone)
    ∧ ∀ e ∈ l.takeWhile (fun e => e.state.isDone), PostedFor n r cq t e

theorem takeWhile_dropWhile {α : Type} (p : α → Bool) (l : List α) : (l.dropWhile p).takeWhile p = [] := by
  induction l with
  | nil => rfl
  | cons x l ih =>
    rw [List.dropWhile_cons]
    split
    · exact ih
    next no => rw [List.takeWhile_cons_of_neg no]

theorem RingPublished.later {cq : RingId} {l : List Entry} {s : State} (h : RingPublished n r cq l s) (j : RingId) :
    RingPublished n r cq l (publishRing n j s) := by
  refine ⟨?_, fun e he => (h.2 e he).later (publishRing_publishing s)⟩
  by_cases same : r = j
  · subst same
    rw [publishRing_unfinished (by rw [h.1]; exact takeWhile_dropWhile ..), h.1]
  · rw [publishRing_accepted_other s same, h.1]

theorem publishRings_publishing (s : State) : Publishing s (publishRings n s) :=
  foldl_related .refl .trans _ (fun t _ => publishRing_publishing t) _ s

theorem publishRings_publishes {s : State} (kind : RingE.kind (s.ringOf r).entry = 1)
    (live : funcStopped s (RingE.func (s.ringOf r).entry) = false) :
    RingPublished n r (RingE.cq (s.ringOf r).entry) (s.ringOf r).accepted (publishRings n s) := by
  have listed : r.toNat ∈ s.rings.map (·.1) := by
    obtain ⟨v, hv⟩ := mem_keys_of_get (m := s.rings) (d := Ring.reset) (k := r.toNat) fun none_ => by
      rw [State.ringOf, none_] at kind
      exact absurd kind (by decide +kernel)
    exact List.mem_map.2 ⟨_, hv, rfl⟩
  have named : BitVec.ofNat 15 r.toNat = r := by simp
  have reached := foldl_reaches_with
    (I := fun t => Publishing s t ∧ ((t.ringOf r).accepted = (s.ringOf r).accepted
      ∨ RingPublished n r (RingE.cq (s.ringOf r).entry) (s.ringOf r).accepted t))
    (P := fun k t => BitVec.ofNat 15 k = r → RingPublished n r (RingE.cq (s.ringOf r).entry) (s.ringOf r).accepted t)
    (fun t k => publishRing n (BitVec.ofNat 15 k) t) ?_ ?_ ?_ (s.rings.map (·.1)) s r.toNat ⟨.refl s, .inl rfl⟩ (.inl listed)
  · exact reached named
  · rintro t k ⟨publishing, waits | done⟩
    · refine ⟨publishing.trans (publishRing_publishing t), ?_⟩
      by_cases same : BitVec.ofNat 15 k = r
      · right
        rw [same, RingPublished, ← waits, ← publishing.entry r]
        exact publishRing_publishes (by rw [publishing.entry]; exact kind)
          (by rw [funcStopped, publishing.funcReset, publishing.entry]; exact live)
      · exact .inl ((publishRing_accepted_other t (Ne.symm same)).trans waits)
    · exact ⟨publishing.trans (publishRing_publishing t), .inr (done.later _)⟩
  · rintro t k ⟨publishing, waits | done⟩ same
    · rw [same, RingPublished, ← waits, ← publishing.entry r]
      exact publishRing_publishes (by rw [publishing.entry]; exact kind)
        (by rw [funcStopped, publishing.funcReset, publishing.entry]; exact live)
    · exact done.later _
  · exact fun t j k _ published same => (published same).later _

end

/-! ## Before publication -/

/-- Only the rows, logs and events of lease rows and suspect slots differ. -/
def OnlyReports (s t : State) : Prop :=
  t = { s with rowErrors := t.rowErrors, cores := t.cores, slots := t.slots, events := t.events, leaseHits := t.leaseHits }

theorem OnlyReports.refl (s : State) : OnlyReports s s := rfl

theorem OnlyReports.trans {s t u : State} (h : OnlyReports s t) (g : OnlyReports t u) : OnlyReports s u := by
  rw [OnlyReports] at *
  rw [g, h]

theorem OnlyReports.foldl {α : Type} {f : State → α → State} (one : ∀ t x, OnlyReports t (f t x)) (l : List α) (s : State) :
    OnlyReports s (l.foldl f s) := foldl_related .refl .trans f one l s

/-- No coupe has an open step. -/
def NoneOpen (s : State) : Prop := ∀ k, (s.run k).openStep = none

theorem OnlyReports.noneOpen {s t : State} (h : OnlyReports s t) (closed : NoneOpen s) : NoneOpen t := fun k => by
  rw [h]
  exact closed k

theorem raiseCore_reports (kind record value c s) : OnlyReports s (raiseCore kind record value c s) := by
  unfold raiseCore
  split <;> rfl

theorem suspect_reports (c cause s) : OnlyReports s (suspect c cause s) := by
  simp only [suspect]
  split
  · exact .trans (t := s.setSlot c { s.slot c with state := .suspect, lastBad := (s.slot c).coreSteps }) rfl (raiseCore_reports ..)
  · rfl

theorem repairRow_reports (c r s) : OnlyReports s (repairRow c r s) := by
  simp only [repairRow]
  split
  · refine .trans ?_ (raiseCore_reports ..)
    rfl
  · exact suspect_reports ..

theorem reportLease_reports (s h) : OnlyReports s (reportLease s h) := by
  rw [reportLease]
  refine .trans ?_ (raiseCore_reports ..)
  split
  · exact repairRow_reports ..
  · exact .refl s

theorem replayLeases_closed {k : CoupeId} {s : State} (closed : NoneOpen s) : OnlyReports s (replayLeases k s) := by
  have settled : OnlyReports s (settleHits k s) := by
    unfold settleHits
    split <;> rfl
  simp only [replayLeases]
  split
  · rw [settled.noneOpen closed k]
    exact settled
  · exact .refl s

theorem replayEach_closed : ∀ (l : List CoupeId) (s : State), NoneOpen s →
    OnlyReports s (l.foldl (fun t k => replayLeases k t) s)
  | [], s, _ => .refl s
  | k :: l, s, closed =>
    have first := replayLeases_closed (k := k) closed
    first.trans (replayEach_closed l _ (first.noneOpen closed))

theorem reportLeases_closed {s : State} (closed : NoneOpen s) : OnlyReports s (reportLeases s) := by
  have replayed := replayEach_closed (s.leaseHits.filterMap (fun h => coupeOf s h.core)).eraseDups s closed
  simp only [reportLeases]
  generalize (s.leaseHits.filterMap (fun h => coupeOf s h.core)).eraseDups.foldl (fun t k => replayLeases k t) s = u at *
  refine (replayed.trans ?_).trans (.foldl reportLease_reports _ _)
  rfl

theorem clearSuspects_reports (s) : OnlyReports s (clearSuspects s) := by
  refine foldl_related .refl .trans _ (fun t n => ?_) _ s
  dsimp only
  split
  · refine .trans ?_ (raiseCore_reports ..)
    rfl
  · exact .refl t

theorem commitSteps_closed {s : State} (closed : NoneOpen s) : commitSteps s = s := by
  unfold commitSteps
  generalize listedCoupes s = l
  induction l with
  | nil => rfl
  | cons k l ih => simp only [List.foldl_cons, closed k, ih]

/-- Nothing due and no step open: a commit only returns the numbers of groups freed. -/
theorem applyCommit_closed {s : State} (closed : NoneOpen s) (due : s.due = []) :
    applyCommit s = releaseNumbers { s with due := [] } := by
  have closed' : NoneOpen (releaseNumbers { s with due := [] }) := closed
  simp only [applyCommit, due, List.filter_nil]
  have none_ (u : State) : applyDues [] u = u := rfl
  rw [none_, none_, commitSteps_closed closed']
  rfl

/-! ## The commit -/

/-- The state that a commit publishes. -/
def committed (s : State) : State := clearSuspects (applyCommit (reportLeases s))

theorem committed_phase (s : State) : phase (committed s) = phase s :=
  (clearSuspects_phase _).trans ((applyCommit_phase _).trans (reportLeases_phase s))

theorem committed_rings {s : State} (closed : NoneOpen s) (due : s.due = []) :
    (committed s).rings = s.rings ∧ (committed s).funcReset = s.funcReset ∧ (committed s).mem = s.mem := by
  have reports := reportLeases_closed closed
  have due' : (reportLeases s).due = [] := by rw [reports]; exact due
  rw [committed, clearSuspects_reports, applyCommit_closed (reports.noneOpen closed) due', releaseNumbers, dropScent]
  change (reportLeases s).rings = _ ∧ (reportLeases s).funcReset = _ ∧ (reportLeases s).mem = _
  rw [reports]
  exact ⟨rfl, rfl, rfl⟩

/-- The state with the next commit number and everything published under it. -/
def announced (s : State) : State :=
  publishEvents (s.dur.commits + 1) (publishRings (s.dur.commits + 1) { s with dur := { s.dur with commits := s.dur.commits + 1 } })

theorem announced_publishing (s : State) :
    Publishing { s with dur := { s.dur with commits := s.dur.commits + 1 } } (announced s) :=
  (publishRings_publishing _).trans (publishEvents_announcing ..).toPublishing

theorem publish_durable (s : State) : (publish s).dur = (announced s).dur ∧ (publish s).journal = (announced s).dur
    ∧ (publish s).mem = (announced s).mem ∧ (publish s).posted = (announced s).posted
    ∧ (publish s).power = (announced s).power := ⟨rfl, rfl, rfl, rfl, rfl⟩

theorem publish_accepted (s : State) (r : RingId) : ((publish s).ringOf r).accepted.map (fun e => (e.pos, e.w, e.state))
    = ((announced s).ringOf r).accepted.map (fun e => (e.pos, e.w, e.state)) := by
  have look := lookup_map_same_keys (f := fun e : Nat × Ring => (e.1, { e.2 with
    accepted := e.2.accepted.map (fun x => if x.state.isDone then { x with kept := true } else x) })) (fun _ => rfl) r.toNat
    (announced s).rings
  change ((List.lookup r.toNat ((announced s).rings.map _)).getD Ring.reset).accepted.map _
    = ((List.lookup r.toNat (announced s).rings).getD Ring.reset).accepted.map _
  rw [look]
  cases (announced s).rings.lookup r.toNat with
  | none => rfl
  | some x =>
    simp only [Option.map_some, Option.getD_some, List.map_map]
    refine List.map_congr_left fun e _ => ?_
    simp only [Function.comp_apply]
    split <;> rfl

theorem exec_commit_publishes {s : State} (may : mayCommit s = true) (busy : s.power.device ≠ .draining) :
    exec .commit s = .next (publish (committed s)) := by
  have power : (committed s).power = s.power := congrArg (·.2.2) (committed_phase s)
  have device : (publish (committed s)).power.device ≠ .draining := by
    rw [(publish_durable _).2.2.2.2, (announced_publishing _).device]
    change (committed s).power.device ≠ .draining
    rw [power]
    exact busy
  rw [exec_commit, execCommit, if_pos may]
  change Host.Outcome.next (drainEnd (publish (committed s))) = _
  rw [drainEnd, if_neg (by simp [device])]

/-- Settles O31: no effect of a commit touches the commit number (`committed_phase`); each ring's finished descriptors are
posted in turn (`publishRings_publishes`), and nothing published later takes them back. -/
theorem commitPublishesInRingOrder : Obligations.CommitPublishesInRingOrder := by
  unfold Obligations.CommitPublishesInRingOrder
  intro s may busy
  have run := exec_commit_publishes may busy
  have number : (committed s).dur.commits = s.dur.commits := congrArg (·.1) (committed_phase s)
  refine ⟨⟨_, run, ?_, rfl⟩, fun r due closed kind live => ?_⟩
  · rw [(publish_durable _).1, (announced_publishing _).commits]
    change (committed s).dur.commits + 1 = _
    rw [number]
  · obtain ⟨rings, funcReset, mem⟩ := committed_rings closed due
    have ring : (committed s).ringOf r = s.ringOf r := by rw [State.ringOf, rings]; rfl
    obtain ⟨accepted, posted⟩ := publishRings_publishes (n := (committed s).dur.commits + 1) (r := r)
      (s := { committed s with dur := { (committed s).dur with commits := (committed s).dur.commits + 1 } })
      (by change RingE.kind ((committed s).ringOf r).entry = 1; rw [ring]; exact kind)
      (by
        change bit (committed s).funcReset (RingE.func ((committed s).ringOf r).entry) = false
        rw [ring, funcReset]
        exact live)
    have attention := publishEvents_announcing ((committed s).dur.commits + 1)
      (publishRings ((committed s).dur.commits + 1)
        { committed s with dur := { (committed s).dur with commits := (committed s).dur.commits + 1 } })
    have same (t : State) : ({ t with dur := { t.dur with commits := t.dur.commits + 1 } } : State).ringOf r = t.ringOf r := rfl
    rw [same, ring] at accepted posted
    refine ⟨_, run, fun a => ?_, ?_, fun e he status dkind detail stepno done => ?_⟩
    · rw [(publish_durable _).2.2.1, (announced_publishing _).mem]
      change Memory.byte a (committed s).mem = _
      rw [mem]
    · rw [publish_accepted, announced, attention.accepted, accepted]
    · obtain ⟨p, hp, at_, is⟩ := (posted e he).later attention.toPublishing status dkind detail stepno done
      rw [number] at is
      refine ⟨p, ?_, at_, is⟩
      rw [(publish_durable _).2.2.2.1]
      exact hp

end Sys2Proof.Machine
end

section
/-! PROOFS. Pre-emption, resume and the switch of time-shared jobs (R274, R276, R281–R283, R286, R287). -/

namespace Sys2Proof.Machine

/-! ## Coupes, their runs and the rings kept -/

/-- Every coupe, every run and every ring is the same. -/
def Placed (s t : State) : Prop := t.dur.coupes = s.dur.coupes ∧ t.runs = s.runs ∧ t.rings = s.rings

theorem Placed.refl (s : State) : Placed s s := ⟨rfl, rfl, rfl⟩

theorem Placed.trans {s t u : State} (h : Placed s t) (g : Placed t u) : Placed s u :=
  ⟨g.1.trans h.1, g.2.1.trans h.2.1, g.2.2.trans h.2.2⟩

theorem Placed.foldl {α : Type} {f : State → α → State} (one : ∀ t x, Placed t (f t x)) (l : List α) (s : State) :
    Placed s (l.foldl f s) := foldl_related .refl .trans f one l s

section
variable {s t : State} (h : Placed s t)
include h

theorem Placed.coupe (k : CoupeId) : t.coupe k = s.coupe k := by rw [State.coupe, State.coupe, h.1]
theorem Placed.run (k : CoupeId) : t.run k = s.run k := by rw [State.run, State.run, h.2.1]
theorem Placed.entryOf (r : RingId) (p : BitVec 32) : Machine.entryOf t r p = Machine.entryOf s r p := entryOf_of_rings h.2.2 r p

end

theorem OnlyRows.placed {s t : State} (h : OnlyRows s t) : Placed s t := by rw [h]; exact ⟨rfl, rfl, rfl⟩
theorem OnlyList.placed {s t : State} (h : OnlyList s t) : Placed s t := by rw [h.1]; exact ⟨rfl, rfl, rfl⟩
theorem OnlyStores.placed {s t : State} (h : OnlyStores s t) : Placed s t := by rw [h]; exact ⟨rfl, rfl, rfl⟩
theorem OnlyBenches.placed {s t : State} (h : OnlyBenches s t) : Placed s t := by rw [h]; exact ⟨rfl, rfl, rfl⟩

/-! ## Descriptors -/

theorem startPreempt_spec (k : CoupeId) (act : CoupeAction) (s : State) :
    ((startPreempt k act s).coupe k).state = .preempting ∧ ((startPreempt k act s).run k).action = act := by
  unfold startPreempt
  dsimp only
  rw [State.setRun_coupe, State.setCoupe_coupe, State.setRun_run]
  exact ⟨rfl, rfl⟩

section
variable {q : Desc} {s : State} (hc : canStart s q = true)
include hc

theorem exec_coupePreempt_starts (ho : Hdr.opcode q.w = 0x08) (able : (s.coupe (CoupeD.coupe q.w)).preemptible = true)
    (runs : (s.coupe (CoupeD.coupe q.w)).state = .idle ∨ (s.coupe (CoupeD.coupe q.w)).state = .bound)
    (calm : (s.run (CoupeD.coupe q.w)).action = .none) : exec (.coupePreempt q) s
      = .next (setEntry q.ring q.pos .started (startPreempt (CoupeD.coupe q.w) (.preempt q.ring q.pos) s)) := by
  rw [exec_coupePreempt, execCoupePreempt, starts_of_canStart _ hc ho]
  rcases runs with runs | runs
  all_goals
    dsimp only
    rw [if_neg (by simp [runs, able]), if_neg (by simp [runs]), if_pos (by simp [runs, calm])]

theorem exec_coupePreempt_refused (ho : Hdr.opcode q.w = 0x08)
    (bad : (s.coupe (CoupeD.coupe q.w)).state = .free ∨ (s.coupe (CoupeD.coupe q.w)).preemptible = false) :
    exec (.coupePreempt q) s = .next (finish q Status.doesNotFit s) := by
  rw [exec_coupePreempt, execCoupePreempt, starts_of_canStart _ hc ho]
  exact congrArg Host.Outcome.next (if_pos (by rcases bad with bad | bad <;> simp [bad]))

theorem startPreempt_entry (k : CoupeId) (act : CoupeAction) (st : EntryState) :
    let t := setEntry q.ring q.pos st (startPreempt k act s)
    EntryIs q st t ∧ (t.coupe k).state = .preempting ∧ (t.run k).action = act ∧ t.mem = s.mem ∧ t.cores = s.cores := by
  obtain ⟨e, he, -⟩ := canStart_entry hc
  obtain ⟨preempting, action⟩ := startPreempt_spec k act s
  exact ⟨setEntry_entryIs (s := startPreempt k act s) he _, preempting, action, rfl, rfl⟩

theorem exec_coupeResume_starts (ho : Hdr.opcode q.w = 0x09) (saved : (s.coupe (CoupeD.coupe q.w)).state = .preempted)
    (serve : (maskStands (s.coupe (CoupeD.coupe q.w)).savedStands).all (standServes s) = true)
    (unclaimed : (maskStands (s.coupe (CoupeD.coupe q.w)).savedStands).any (fun g => (claimant s g).isSome) = false)
    (free : holders s (s.coupe (CoupeD.coupe q.w)).savedStands = []) : exec (.coupeResume q) s
      = .next (resumeStart (CoupeD.coupe q.w) q.ring q.pos (setEntry q.ring q.pos .started s)) := by
  rw [exec_coupeResume, execCoupeResume, starts_of_canStart _ hc ho]
  dsimp only
  rw [if_neg (by simp [saved]), if_neg (by simp only [serve]; decide), if_neg (by simp [unclaimed, free]), free]
  rfl

end

theorem resumeStart_spec {k : CoupeId} {s : State} {sv : Saved} (saved : (s.run k).saved = some sv) (ring : RingId)
    (pos : BitVec 32) : ((resumeStart k ring pos s).coupe k).state = .resuming
      ∧ ((resumeStart k ring pos s).coupe k).stands = (s.coupe k).savedStands
      ∧ ((resumeStart k ring pos s).run k).action = .resume ring pos ∧ (resumeStart k ring pos s).mem = s.mem
      ∧ (resumeStart k ring pos s).cores = s.cores ∧ (resumeStart k ring pos s).rings = s.rings := by
  simp only [resumeStart, saved]
  rw [State.setRun_coupe, State.setCoupe_coupe, State.setRun_run]
  exact ⟨rfl, rfl, rfl, rfl, rfl, rfl⟩

/-! ## The save -/

/-- Core c being saved. -/
def savingCore (t : State) (c : CoreId) : State := t.setCore c { t.core c with saving := true }

theorem savingEach_spec (l : List CoreId) (s : State) : l.foldl savingCore s = { s with cores := (l.foldl savingCore s).cores }
    ∧ ∀ c ∈ l, ((l.foldl savingCore s).core c).saving = true := by
  refine ⟨foldl_related (R := fun s t : State => t = { s with cores := t.cores }) (fun _ => rfl)
    (fun h g => by rw [g, h]) savingCore (fun _ _ => rfl) l s, fun c hc => ?_⟩
  refine foldl_reaches (P := fun c t => (t.core c).saving = true) savingCore (fun t c => ?_) (fun t x y saves => ?_) l s c (.inl hc)
  · rw [savingCore, State.setCore_core]
  · by_cases same : y = x
    · rw [same, savingCore, State.setCore_core]
    · rw [savingCore, State.setCore_core_other _ _ _ _ same]
      exact saves

theorem exec_coupeQuiesced_spec {k : CoupeId} {s : State} (halting : coupeHalting s k = true)
    (once : (s.run k).quiesced = false) (halted : (coupeCores s k).all (fun c => (s.core c).halted) = true)
    (quiet : networkQuiet s k = true) :
    ∃ t, exec (.coupeQuiesced k) s = .next t ∧ (t.run k).quiesced = true ∧ t.mem = s.mem
      ∧ (∀ c ∈ coupeCores s k, (t.core c).saving = true)
      ∧ t.transfers = s.transfers.filter (fun x => !Mv.ofCoupe x.w k)
      ∧ ∃ sv, (t.run k).saved = some sv ∧ sv.barriers = (s.run k).barriers
        ∧ sv.areas.map (fun a => (a.stand, a.state)) = (s.coupe k).standList.map (fun g => (g, .writing)) := by
  obtain ⟨rest, saves⟩ := savingEach_spec (coupeCores s k) { s with transfers := s.transfers.filter (fun t => !Mv.ofCoupe t.w k) }
  rw [exec_coupeQuiesced, execCoupeQuiesced]
  dsimp only
  rw [if_pos (by simp only [halting, once, halted, quiet]; decide)]
  refine ⟨_, rfl, ?_⟩
  change ∀ c ∈ _, (((coupeCores s k).foldl savingCore _).core c).saving = true at saves
  change _ ∧ ((coupeCores s k).foldl savingCore _).mem = _ ∧ (∀ c ∈ _, (((coupeCores s k).foldl savingCore _).core c).saving = true)
    ∧ ((coupeCores s k).foldl savingCore _).transfers = _ ∧ _
  generalize (coupeCores s k).foldl savingCore { s with transfers := s.transfers.filter (fun t => !Mv.ofCoupe t.w k) } = u at *
  rw [State.setRun_run]
  refine ⟨rfl, by rw [rest], saves, by rw [rest], _, rfl, rfl, ?_⟩
  rw [List.map_map]
  rfl

theorem writeFile_placed {w : Nat} (a size : Nat) (l : Sparse (BitVec w)) (s : State) : Placed s (writeFile a size l s) :=
  .foldl (fun _ _ => (writeBytesAt_list ..).placed) l s

theorem writeItems_placed (a l s) : Placed s (writeItems a l s) := by
  refine foldl_related .refl .trans _ (fun t e => ?_) _ s
  split
  · exact (writeRowAt_rows ..).placed
  · exact .refl t

theorem writeImage_placed (a c s) : Placed s (writeImage a c s) := by
  simp only [writeImage]
  refine .trans ?_ (.foldl (fun t p => (writeItems_placed ..).trans (writeItems_placed ..)) _ _)
  exact ((writeFile_placed ..).trans (writeFile_placed ..)).trans (writeFile_placed ..)

theorem saveBench_placed (c dst s) : Placed s (saveBench c dst s) := by
  have moved := (OnlyRows.foldl (fun t a => moveRowError_rows c a t) ((s.rowErrors.filter (fun e =>
    benchAddr c 0 ≤ e.1 && e.1 < benchAddr c 0 + benchBytes)).map (·.1)) s).placed
  exact moved.trans ⟨rfl, rfl, rfl⟩

theorem writePaused_placed (a l s) : Placed s (writePaused a l s) :=
  .foldl (fun _ _ => (writeBytesAt_list ..).placed) _ s

theorem writeArea_placed (a g paused s) : Placed s (writeArea a g paused s) := by
  have cleared : Placed s (writePaused (a + Area.paused) paused (clearRange a (4096 * saveUnits) s)) :=
    .trans ⟨rfl, rfl, rfl⟩ (writePaused_placed ..)
  exact cleared.trans (.foldl (fun t c =>
    ((writeFile_placed ..).trans (writeImage_placed ..)).trans (saveBench_placed ..)) _ _)

theorem saveStands_placed (k) : ∀ (l : List SaveArea) (paused : List Transfer) (s : State), Placed s (saveStands k paused l s).2
  | [], _, s => .refl s
  | a :: rest, paused, s => by
    simp only [saveStands]
    refine .trans ?_ (saveStands_placed k rest [] _)
    split
    · exact writeArea_placed ..
    · exact .refl s

/-! ## Benches cleared -/

/-- Core c's bench holds nothing. -/
def BenchEmpty (c : CoreId) (t : State) : Prop :=
  ∀ a, benchAddr c 0 ≤ a → a < benchAddr c 0 + 2 ^ 24 → Memory.byte a t.mem = Memory.empty

theorem freshCore_empty (c : CoreId) (t : State) : BenchEmpty c (freshCore c t) :=
  fun _ above below => clearRange_byte t above below

theorem clearRange_keeps_empty {a : Nat} (lo n : Nat) {s : State} (h : Memory.byte a s.mem = Memory.empty) :
    Memory.byte a (clearRange lo n s).mem = Memory.empty := by
  by_cases inside : lo ≤ a ∧ a < lo + n
  · exact clearRange_byte s inside.1 inside.2
  · refine (congrArg (·.getD Memory.empty) (Sparse.lookup_filter_true a (fun b => b < lo || lo + n ≤ b) ?_ s.mem)).trans h
    simp only [Bool.or_eq_true, decide_eq_true_eq]
    omega

theorem freshCore_keeps_empty {c : CoreId} (d : CoreId) {t : State} (h : BenchEmpty c t) : BenchEmpty c (freshCore d t) :=
  fun a above below => clearRange_keeps_empty (benchAddr d 0) (2 ^ 24) (h a above below)

theorem freshStands_empty (l : List StandId) (s : State) (c : CoreId) (hc : c ∈ l.flatMap standCores) :
    BenchEmpty c (l.foldl (fun t g => freshStand g t) s) := by
  have flat : l.foldl (fun t g => freshStand g t) s = (l.flatMap standCores).foldl (fun t c => freshCore c t) s :=
    (List.foldl_flatMap ..).symm
  rw [flat]
  exact foldl_reaches (P := BenchEmpty) _ (fun t c => freshCore_empty c t) (fun t x y h => freshCore_keeps_empty x h) _ s c
    (.inl hc)

theorem finishAt_state {r : RingId} {p : BitVec 32} {s : State} {e : Entry} (he : entryOf s r p = some e) (status : BitVec 8) :
    (entryOf (finishAt r p status 0 0 0 s) r p).map (·.state) = some (.done status 0 0 0) := by
  rw [finishAt, entryOf_setEntry, he]
  simp

theorem exec_saveComplete_spec {k : CoupeId} {s : State} {sv : Saved} {ring : RingId} {pos : BitVec 32} {e : Entry}
    (saved : (s.run k).saved = some sv) (preempting : (s.coupe k).state = .preempting) (quiesced : (s.run k).quiesced = true)
    (action : (s.run k).action = .preempt ring pos) (he : entryOf s ring pos = some e) :
    ∃ t, exec (.saveComplete k) s = .next t ∧ (t.coupe k).state = .preempted ∧ (t.coupe k).stands = 0
      ∧ (t.coupe k).savedStands = (s.coupe k).stands ∧ (t.run k).action = .none
      ∧ (entryOf t ring pos).map (·.state) = some (.done Status.ok 0 0 0) ∧ ∀ c ∈ coupeCores s k, BenchEmpty c t := by
  have stored := saveStands_placed k sv.areas sv.transfers s
  rw [exec_saveComplete, execSaveComplete]
  simp only [saved]
  rw [if_pos (by simp [preempting, quiesced]), action]
  refine ⟨_, rfl, ?_⟩
  generalize (saveStands k sv.transfers sv.areas s).2 = u at stored ⊢
  have empty := freshStands_empty (s.coupe k).standList u
  have fresh := stored.trans (OnlyBenches.foldl (fun t g => freshStand_benches g t) (s.coupe k).standList u).placed
  generalize (s.coupe k).standList.foldl (fun t g => freshStand g t) u = v at empty fresh ⊢
  have he' : entryOf v ring pos = some e := (fresh.entryOf ring pos).trans he
  refine ⟨?_, ?_, ?_, ?_, finishAt_state (s := (v.setCoupe k _).setRun k _) he' _, fun c hc => empty c hc⟩
  · exact congrArg Coupe.state (State.setCoupe_coupe v k _)
  · exact congrArg Coupe.stands (State.setCoupe_coupe v k _)
  · exact (congrArg Coupe.savedStands (State.setCoupe_coupe v k _)).trans (by rw [← fresh.coupe k])
  · exact congrArg CoupeRun.action (State.setRun_run (v.setCoupe k _) k _)

/-! ## The restore -/

theorem restoreBench_placed (c src s) : Placed s (restoreBench c src s) := by
  have read := OnlyRows.foldl (fun t a => readGranule_rows a t) ((s.granuleErrors.filter (fun e =>
    src ≤ e.1 && e.1 < src + benchBytes)).map (·.1)) (clearBench c s)
  exact .trans (t := clearBench c s) ⟨rfl, rfl, rfl⟩ (read.placed.trans ⟨rfl, rfl, rfl⟩)

theorem restoreArea_placed (k a s) : Placed s (restoreArea k a s) := by
  refine foldl_related .refl .trans _ (fun t x => ?_) a.cores s
  refine Placed.trans ?_ (show Placed _ (restoreCore x _) from ⟨rfl, rfl, rfl⟩)
  split
  · exact restoreBench_placed ..
  · exact .refl t

theorem sendAgain_placed (c l s) : Placed s (sendAgain c l s) := by
  refine foldl_related .refl .trans _ (fun t r => ?_) l s
  exact ⟨rfl, rfl, rfl⟩

theorem startNext_placed (c s) : Placed s (startNext c s) := by
  simp only [startNext]
  split
  · split
    · exact .refl s
    · exact ⟨rfl, rfl, rfl⟩
  · exact .refl s

theorem startIdle_placed (c : CoreId) (s : State) : Placed s (if (s.core c).task.isNone then startNext c s else s) := by
  split
  · exact startNext_placed c s
  · exact .refl s

/-- The run of a coupe that goes on with what `sv` kept. -/
def CoupeRun.resumed (r : CoupeRun) (sv : Saved) (bare : Bool) (ago : BitVec 64) : CoupeRun :=
  { r with
    saved := none
    action := .none
    queues := restoreQueues sv.queues
    barriers := sv.barriers
    heldFrom := if bare then r.heldFrom else none
    lastProgress := r.lastProgress + ago
    lastCross := r.lastCross + ago }

/-- The coupe that has its stands again. -/
def Coupe.resumed (x : Coupe) : Coupe := { x with state := if x.bindings.isEmpty then .idle else .bound, savedStands := 0 }

theorem exec_resumeComplete_spec {k : CoupeId} {s : State} {sv : Saved} {ring : RingId} {pos : BitVec 32} {e : Entry}
    (saved : (s.run k).saved = some sv) (resuming : (s.coupe k).state = .resuming)
    (action : (s.run k).action = .resume ring pos) (he : entryOf s ring pos = some e) (sound : sv.refused = false) :
    ∃ t, exec (.resumeComplete k) s = .next t ∧ t.coupe k = (s.coupe k).resumed
      ∧ t.run k = (s.run k).resumed sv (s.coupe k).bindings.isEmpty (s.timebase - sv.time)
      ∧ (entryOf t ring pos).map (·.state) = some (.done Status.ok 0 0 0) := by
  have areas := Placed.foldl (fun t a => restoreArea_placed k a t) sv.areas s
  rw [exec_resumeComplete, execResumeComplete]
  simp only [saved, resuming, action]
  rw [if_neg (by simp [sound])]
  refine ⟨_, rfl, ?_⟩
  generalize sv.areas.foldl (fun t a => restoreArea k a t) s = u at areas ⊢
  have reads := areas.trans (.foldl (fun t (x : SavedCore) => sendAgain_placed x.id (t.core x.id).reads t) (sv.areas.flatMap (·.cores)) u)
  change Placed s ((sv.areas.flatMap (·.cores)).foldl (fun t x => reissueReads x.id t) u) at reads
  generalize (sv.areas.flatMap (·.cores)).foldl (fun t x => reissueReads x.id t) u = v at reads ⊢
  have started := Placed.foldl (fun t (x : SavedCore) => startIdle_placed x.id t) (sv.areas.flatMap (·.cores))
  have resumed : ∀ w : State, w.dur.coupes = ((v.setCoupe k (v.coupe k).resumed).dur.coupes) →
      w.runs = ((v.setCoupe k (v.coupe k).resumed).setRun k ((s.run k).resumed sv (v.coupe k).bindings.isEmpty (s.timebase - sv.time))).runs →
      w.rings = v.rings →
      let t := (sv.areas.flatMap (·.cores)).foldl (fun t x => if (t.core x.id).task.isNone then startNext x.id t else t)
        (finishAt ring pos Status.ok 0 0 0 w)
      t.coupe k = (s.coupe k).resumed ∧ t.run k = (s.run k).resumed sv (s.coupe k).bindings.isEmpty (s.timebase - sv.time)
        ∧ (entryOf t ring pos).map (·.state) = some (.done Status.ok 0 0 0) := by
    intro w coupes runs rings
    have on := started (finishAt ring pos Status.ok 0 0 0 w)
    have he' : entryOf w ring pos = some e := (entryOf_of_rings rings ring pos).trans ((reads.entryOf ring pos).trans he)
    refine ⟨(on.coupe k).trans ?_, (on.run k).trans ?_, ?_⟩
    · change w.coupe k = _
      rw [State.coupe, coupes, ← reads.coupe k]
      exact State.setCoupe_coupe ..
    · change w.run k = _
      rw [State.run, runs, ← reads.coupe k]
      exact State.setRun_run ..
    · rw [on.entryOf]
      exact finishAt_state he' _
  split
  · exact resumed _ rfl rfl rfl
  · have dropped := (dropKinds_stores (fun kd => match kd with
      | .save k' _ => k' = k
      | _ => false) { (v.setCoupe k (v.coupe k).resumed).setRun k ((s.run k).resumed sv (v.coupe k).bindings.isEmpty (s.timebase - sv.time)) with
        transfers := v.transfers ++ sv.transfers.map (fun t => { t with started := v.timebase }) }).placed
    exact resumed _ dropped.1 dropped.2.1 dropped.2.2

/-! ## Time-sharing -/

theorem saveJob_coupes (k s) : (saveJob k s).dur.coupes = s.dur.coupes := by
  simp only [saveJob]
  split
  · rfl
  next cfg _ => exact (saveJobStands_rows k cfg (s.coupe k).standList s).placed.1

theorem restoreJob_spec (k : CoupeId) (j : BitVec 3) (s : State) : (restoreJob k j s).coupe k = { s.coupe k with curJob := j }
    ∧ ((restoreJob k j s).run k).turn = 0 := by
  simp only [restoreJob]
  split
  · rw [State.setRun_coupe, State.setCoupe_coupe, State.setRun_run]
    exact ⟨rfl, rfl⟩
  next sv _ =>
    have rows := Placed.foldl (f := fun t x => restoreRows x t) (fun _ _ => ⟨rfl, rfl, rfl⟩) (sv.areas.flatMap (·.cores))
      (s.setCoupe k { s.coupe k with curJob := j })
    rw [State.setRun_coupe, State.setRun_run]
    exact ⟨(rows.coupe k).trans (State.setCoupe_coupe ..), rfl⟩

theorem switchJob_spec (k : CoupeId) (j : BitVec 3) (s : State) : ((switchJob k j s).coupe k).curJob = j
    ∧ ((switchJob k j s).coupe k).state = (s.coupe k).state ∧ ((switchJob k j s).run k).turn = 0 := by
  unfold switchJob
  split
  · rw [(restoreJob_spec k j s).1]
    exact ⟨rfl, rfl, (restoreJob_spec k j s).2⟩
  next cfg _ =>
    have cleared := Placed.foldl (f := fun t c => clearRows cfg c t) (fun _ _ => ⟨rfl, rfl, rfl⟩) (coupeCores s k) (saveJob k s)
    obtain ⟨coupe, turn⟩ := restoreJob_spec k j ((coupeCores s k).foldl (fun t c => clearRows cfg c t) (saveJob k s))
    rw [coupe, cleared.coupe]
    refine ⟨rfl, ?_, turn⟩
    change ((saveJob k s).coupe k).state = _
    rw [State.coupe, saveJob_coupes]
    rfl

theorem exec_jobSwitch_switches {k : CoupeId} {j : BitVec 3} {s : State} (shared : (s.coupe k).tshare = true)
    (bound : (s.coupe k).state = .bound) (closed : (s.run k).openStep = none) (calm : (s.run k).action = .none)
    (idle : (coupeCores s k).all (fun c => (s.core c).task.isNone && (s.core c).next.isNone) = true)
    (next : nextJob s k = some j) : exec (.jobSwitch k) s = .next (switchJob k j s) := by
  rw [exec_jobSwitch, execJobSwitch]
  rw [if_pos (by simp only [shared, bound, closed, calm, idle]; decide), next]

/-- Settles O36: pre-emption and resume by the descriptor, the quiescence, the save and the restore, each from its own
conditions; none of the bytes moved on the way touches a coupe, a run or a ring (`Placed`). -/
theorem coupesArePreemptedAndResumed : Obligations.CoupesArePreemptedAndResumed := by
  unfold Obligations.CoupesArePreemptedAndResumed
  refine ⟨fun q s hc => ⟨fun ho => ⟨fun bad => ?_, fun able runs calm => ?_⟩, fun ho saved sv kept => ?_⟩, fun k s =>
    ⟨exec_coupeQuiesced_spec, fun sv ring pos e saved preempting quiesced action he => ?_,
      fun sv ring pos e saved resuming action he sound => ?_, fun j shared bound closed calm idle next => ?_⟩⟩
  · exact ⟨_, exec_coupePreempt_refused hc ho bad, finish_ends hc rfl _, finish_onlyRings ..⟩
  · exact ⟨_, exec_coupePreempt_starts hc ho able runs calm, startPreempt_entry hc _ _ _⟩
  · intro m serve unclaimed free
    obtain ⟨e, he, -⟩ := canStart_entry hc
    obtain ⟨state, stands, action, mem, cores, rings⟩ := resumeStart_spec (s := setEntry q.ring q.pos .started s) kept q.ring q.pos
    exact ⟨_, exec_coupeResume_starts hc ho saved serve unclaimed free,
      (entryIs_of_rings rings).2 (setEntry_entryIs he _), state, stands, action, mem, cores⟩
  · exact exec_saveComplete_spec saved preempting quiesced action he
  · obtain ⟨t, run, coupe, resumed, done⟩ := exec_resumeComplete_spec saved resuming action he sound
    refine ⟨t, run, coupe, ?_⟩
    rw [resumed]
    exact ⟨rfl, rfl, rfl, rfl, done⟩
  · obtain ⟨job, state, turn⟩ := switchJob_spec k j s
    exact ⟨_, exec_jobSwitch_switches shared bound closed calm idle next, job, state.trans bound, turn⟩

end Sys2Proof.Machine
end

section
/-! PROOFS. Steps open, and threshold routing joins the open one (R157, R237, R241, R242, R257, R258). -/

namespace Sys2Proof.Machine

/-! ## What opening carries along -/

/-- What names an open step. -/
def Step.name (st : Step) : (RingId × BitVec 32 × BitVec 512) × (BitVec 48 × Nat) := (st.mark.1, st.mark.2.1)

/-- Every coupe, and which step each has open, is the same. -/
def KeepsOpen (s t : State) : Prop :=
  t.dur.coupes = s.dur.coupes ∧ ∀ k, (t.run k).openStep.map Step.name = (s.run k).openStep.map Step.name

theorem KeepsOpen.trans {s t u : State} (h : KeepsOpen s t) (g : KeepsOpen t u) : KeepsOpen s u :=
  ⟨g.1.trans h.1, fun k => (g.2 k).trans (h.2 k)⟩

theorem KeepsOpen.refl (s : State) : KeepsOpen s s := ⟨rfl, fun _ => rfl⟩

theorem KeepsOpen.foldl {α : Type} {f : State → α → State} (one : ∀ t x, KeepsOpen t (f t x)) (l : List α) (s : State) :
    KeepsOpen s (l.foldl f s) := foldl_related .refl .trans f one l s

theorem map_name_of_mark {a b : Option Step} (h : a.map Step.mark = b.map Step.mark) : a.map Step.name = b.map Step.name := by
  have split_ (x : Option Step) : x.map Step.name = (x.map Step.mark).map (fun m => (m.1, m.2.1)) := by
    cases x <;> rfl
  rw [split_, split_, h]

theorem Feeds.keepsOpen {s t : State} (h : Feeds s t) : KeepsOpen s t := ⟨h.coupes, fun k => map_name_of_mark (h.mark k)⟩

theorem Placed.keepsOpen {s t : State} (h : Placed s t) : KeepsOpen s t := ⟨h.1, fun k => by rw [h.run]⟩

theorem setRun_keepsOpen {s : State} {k : CoupeId} {r : CoupeRun}
    (h : r.openStep.map Step.name = (s.run k).openStep.map Step.name) : KeepsOpen s (s.setRun k r) := by
  refine ⟨rfl, fun j => ?_⟩
  by_cases same : j = k
  · rw [same, State.setRun_run, h]
  · rw [State.setRun_run_other _ _ _ _ same]

theorem setStep_keepsOpen {k : CoupeId} {st st' : Step} {s : State} (isOpen : (s.run k).openStep = some st)
    (same : st'.name = st.name) : KeepsOpen s (setStep k st' s) :=
  setRun_keepsOpen (by rw [isOpen, Option.map_some, Option.map_some, same])

/-- Memory, every coupe and the marks of every open step are the same. -/
structure Marks (s t : State) : Prop where
  mem : t.mem = s.mem
  coupes : t.dur.coupes = s.dur.coupes
  mark : ∀ k, (t.run k).openStep.map Step.mark = (s.run k).openStep.map Step.mark

theorem Marks.refl (s : State) : Marks s s := ⟨rfl, rfl, fun _ => rfl⟩

theorem Marks.trans {s t u : State} (h : Marks s t) (g : Marks t u) : Marks s u :=
  ⟨g.mem.trans h.mem, g.coupes.trans h.coupes, fun k => (g.mark k).trans (h.mark k)⟩

theorem Marks.foldl {α : Type} {f : State → α → State} (one : ∀ t x, Marks t (f t x)) (l : List α) (s : State) :
    Marks s (l.foldl f s) := foldl_related .refl .trans f one l s

theorem Marks.keepsOpen {s t : State} (h : Marks s t) : KeepsOpen s t := ⟨h.coupes, fun k => map_name_of_mark (h.mark k)⟩

theorem Streams.marks {s t : State} (h : Streams s t) : Marks s t := ⟨h.mem, by rw [h.dur], h.mark⟩

theorem setRun_marks {s : State} {k : CoupeId} {r : CoupeRun}
    (h : r.openStep.map Step.mark = (s.run k).openStep.map Step.mark) : Marks s (s.setRun k r) := by
  refine ⟨rfl, rfl, fun j => ?_⟩
  by_cases same : j = k
  · rw [same, State.setRun_run, h]
  · rw [State.setRun_run_other _ _ _ _ same]

theorem setStep_marks {k : CoupeId} {st st' : Step} {s : State} (isOpen : (s.run k).openStep = some st)
    (same : st'.mark = st.mark) : Marks s (setStep k st' s) :=
  setRun_marks (by rw [isOpen, Option.map_some, Option.map_some, same])

/-! ## Experts -/

section
variable {k : CoupeId}

theorem sendBundle_marks (m layer sender ps s) : Marks s (sendBundle k m layer sender ps s) := (sendMember_streams ..).marks

theorem sendLayer_marks (m layer ps s) : Marks s (sendLayer k m layer ps s) := by
  refine foldl_related .refl .trans _ (fun t j => ?_) _ s
  split
  · exact sendBundle_marks ..
  · split
    · exact sendBundle_marks ..
    · exact .refl t

theorem givePairs_marks (d layer ps s) : Marks s (givePairs k d layer ps s) := by
  simp only [givePairs]
  split
  · exact setRun_marks rfl
  · exact setRun_marks rfl

theorem keepPairs_marks (m layer sender ps s) : Marks s (keepPairs k m layer sender ps s) := by
  simp only [keepPairs]
  refine .trans ?_ (.foldl (fun t d => givePairs_marks ..) _ _)
  exact setRun_marks rfl

theorem addRun_marks (cfg run s) : Marks s (addRun k cfg run s) := by
  unfold addRun
  split
  · exact .refl s
  next st isOpen => exact setStep_marks isOpen rfl

theorem buildLayers_marks (cfg m) : ∀ (n : Nat) (s : State), Marks s (buildLayers k cfg m n s)
  | 0, s => .refl s
  | n + 1, s => by
    unfold buildLayers
    split
    · exact .refl s
    next st isOpen =>
      split
      · exact .refl s
      · dsimp only
        split
        · exact (endStep_streams ..).marks
        · refine .trans (.trans ?_ (.foldl (fun t r => addRun_marks cfg r t) _ _)) (buildLayers_marks cfg m n _)
          exact setStep_marks isOpen rfl

theorem joinBundle_marks (cfg m layer sender ps s) : Marks s (joinBundle k cfg m layer sender ps s) := by
  simp only [joinBundle]
  split
  · exact .refl s
  split
  · exact setRun_marks rfl
  · refine .trans (.trans ?_ (keepPairs_marks ..)) (buildLayers_marks ..)
    split
    · exact .foldl (fun t j => sendBundle_marks ..) _ s
    · exact .refl s

theorem joinEarly_marks (cfg m s) : Marks s (joinEarly k cfg m s) := by
  simp only [joinEarly]
  refine .trans ?_ (.foldl (fun t b => joinBundle_marks ..) _ _)
  exact setRun_marks rfl

/-- The pairs of layer `l` sent and kept. -/
def layerKept (k : CoupeId) (m : ExpertMap) (ps : List (BitVec 128)) (own l : Nat) (t : State) : State :=
  keepPairs k m l own (ownPairs ((if (t.coupe k).sCount = 0 || (t.coupe k).spanId = 0 then t else sendLayer k m l ps t).coupe k) m ps)
    (if (t.coupe k).sCount = 0 || (t.coupe k).spanId = 0 then t else sendLayer k m l ps t)

theorem layerKept_marks (m ps own l t) : Marks t (layerKept k m ps own l t) := by
  refine .trans ?_ (keepPairs_marks ..)
  split
  · exact .refl t
  · exact sendLayer_marks ..

/-- One layer dispatched. -/
def layerDispatched (k : CoupeId) (m : ExpertMap) (rt : List (Nat × Nat × List Nat)) (own : Nat) (t : State) (l : Nat) : State :=
  match ((layerKept k m (layerPairs rt l) own l t).run k).openStep with
  | none => layerKept k m (layerPairs rt l) own l t
  | some st => setStep k { st with routed := st.routed ++ [l] } (layerKept k m (layerPairs rt l) own l t)

theorem dispatchLayers_eq (cfg : Config) (m : ExpertMap) (rt : List (Nat × Nat × List Nat)) (layers : List Nat) (s : State) :
    dispatchLayers k cfg m rt layers s = buildLayers k cfg m cfg.players.toNat
      (layers.foldl (layerDispatched k m rt (s.coupe k).sIndex.toNat) s) := rfl

theorem layerDispatched_keepsOpen (m rt own t l) : KeepsOpen t (layerDispatched k m rt own t l) := by
  have kept := (layerKept_marks (k := k) m (layerPairs rt l) own l t).keepsOpen
  unfold layerDispatched
  split
  · exact kept
  next st isOpen => exact kept.trans (setStep_keepsOpen isOpen rfl)

theorem dispatchLayers_keepsOpen (cfg m rt layers s) : KeepsOpen s (dispatchLayers k cfg m rt layers s) := by
  rw [dispatchLayers_eq]
  exact (KeepsOpen.foldl (fun t l => layerDispatched_keepsOpen m rt _ t l) layers s).trans (buildLayers_marks ..).keepsOpen

theorem writeRouting_keepsOpen (cfg st rt s) : KeepsOpen s (writeRouting k cfg st rt s) := by
  refine foldl_related .refl .trans _ (fun t l => ?_) _ s
  split
  · exact .refl t
  · split
    · exact .refl t
    · exact .foldl (fun u i => (writeBench_rows ..).placed.keepsOpen) _ t

theorem openExperts_keepsOpen (cfg s) : KeepsOpen s (openExperts k cfg s) := by
  unfold openExperts
  split
  · exact .refl s
  · dsimp only
    split
    · exact .refl s
    · refine .trans ?_ (joinEarly_marks ..).keepsOpen
      split
      · exact (writeRouting_keepsOpen ..).trans (dispatchLayers_keepsOpen ..)
      · exact .refl s

/-! ## Launching -/

theorem startFeeds_keepsOpen (plans s) : KeepsOpen s (startFeeds k plans s) := by
  rw [startFeeds]
  refine .trans ?_ (.foldl (fun t p => (runFeed_feeds ..).keepsOpen) _ _)
  exact setRun_keepsOpen rfl

theorem arriveMemory_keepsOpen (addr tag s) : KeepsOpen s (arriveMemory addr tag s) := by
  simp only [arriveMemory]
  split
  · exact (writeBytesAt_list ..).placed.keepsOpen
  · split
    · exact (writeBytesAt_list ..).placed.keepsOpen
    · exact .refl s

theorem raiseBarriers_keepsOpen (cfg stage s) : KeepsOpen s (raiseBarriers k cfg stage s) := by
  refine foldl_related .refl .trans _ (fun t w => ?_) _ s
  dsimp only
  split
  · exact .refl t
  · refine foldl_related .refl .trans _ (fun u _ => ?_) _ t
    split
    · exact .refl u
    · exact arriveMemory_keepsOpen ..

theorem launch_keepsOpen (cfg choice s) : KeepsOpen s (launch k cfg choice s) := by
  unfold launch
  split
  · exact .refl s
  next st isOpen =>
    dsimp only
    split
    · refine .trans ?_ (startFeeds_keepsOpen ..)
      exact setStep_keepsOpen isOpen rfl
    · exact ((raiseBarriers_keepsOpen ..).trans (startFeeds_keepsOpen ..)).trans (checkBoundary_streams ..).marks.keepsOpen

/-! ## Compaction -/

theorem copyEntry_placed (src dst n s) : Placed s (copyEntry src dst n s).2 :=
  (readGranules_rows _ s).placed.trans (writeBytesAt_list ..).placed

theorem compactPath_placed (cfg r s) : Placed s (compactPath cfg r s).2 := by
  simp only [compactPath]
  split
  next tr h _ _ =>
    refine foldl_related (R := fun a b : Bool × State => Placed a.2 b.2) (fun _ => .refl _) .trans _ (fun acc n => ?_) _ (false, s)
    refine foldl_related (R := fun a b : Bool × State => Placed a.2 b.2) (fun _ => .refl _) .trans _ (fun a l => ?_) _ acc
    split
    · exact .refl _
    · exact copyEntry_placed ..
  · exact .refl s

theorem compactAll_placed (cfg) : ∀ (l : List Req) (s : State), Placed s (compactAll cfg l s).2
  | [], s => .refl s
  | r :: rs, s => by
    simp only [compactAll]
    refine .trans ?_ (compactAll_placed cfg rs _)
    split
    · exact compactPath_placed ..
    · exact .refl s

/-! ## Opening -/

/-- Coupe k has step `st` open under `number`, which its counter shows. -/
def OpenAs (k : CoupeId) (st : Step) (number : BitVec 48) (t : State) : Prop :=
  (t.coupe k).stepctr = number ∧ ∃ st', (t.run k).openStep = some st' ∧ st'.number = number ∧ st'.ring = st.ring
    ∧ st'.pos = st.pos ∧ st'.attempt = st.attempt ∧ st'.w = st.w

theorem KeepsOpen.openAs {st x : Step} {number : BitVec 48} {s t : State} (h : KeepsOpen s t)
    (counter : (s.coupe k).stepctr = number) (isOpen : (s.run k).openStep = some x)
    (same : x.name = { st with number := number }.name) : OpenAs k st number t := by
  have named := h.2 k
  rw [isOpen, Option.map_some, same] at named
  obtain ⟨st', opened, name⟩ := Option.map_eq_some_iff.1 named
  simp only [Step.name, Step.mark, Prod.mk.injEq] at name
  obtain ⟨⟨ring, pos, w⟩, number', attempt⟩ := name
  refine ⟨?_, st', opened, number', ring, pos, attempt, w⟩
  rw [State.coupe, h.1]
  exact counter

/-- The coupe whose step opens. -/
def Coupe.opening (x : Coupe) : Coupe := { x with stepctr := x.stepctr + 1, map := x.nextMap.getD x.map, nextMap := none }

theorem openWith_opens (cfg : Config) (st : Step) (choice : ShapeChoice) (rt : List (Nat × Nat × List Nat)) (src : HostRead)
    (reqs : List Req) (s : State) : OpenAs k st ((s.coupe k).stepctr + 1) (openWith k cfg st choice rt src reqs s) := by
  simp only [openWith]
  generalize hs1 : (settleHits k (dropReady k st (takeHandoff k st.w s))).setCoupe k
    { s.coupe k with stepctr := (s.coupe k).stepctr + 1, map := (s.coupe k).nextMap.getD (s.coupe k).map, nextMap := none } = s1
  have counted : s1.coupe k = (s.coupe k).opening := hs1 ▸ State.setCoupe_coupe ..
  have compacted := compactAll_placed cfg (reqs.map (markLost s1)) s1
  generalize (compactAll cfg (reqs.map (markLost s1)) s1).2 = s2 at compacted ⊢
  have counter : (s2.coupe k).stepctr = (s.coupe k).stepctr + 1 := by rw [compacted.coupe, counted]; rfl
  split
  · exact (endStep_streams ..).marks.keepsOpen.openAs (s := s2.setRun k _) counter
      (congrArg CoupeRun.openStep (State.setRun_run ..)) rfl
  · exact ((launch_keepsOpen ..).trans (openExperts_keepsOpen ..)).openAs (s := s2.setRun k _) counter
      (congrArg CoupeRun.openStep (State.setRun_run ..)) rfl

section
variable {src : HostRead} {cfg : Config} {st : Step} {s : State}

theorem openStep_refused (choice : chooseBucket cfg (StepD.stage st.w) (StepD.shapes st.w) = .refused) :
    openStep k cfg st src s = refuseStep k st Status.shapeExceeds s := by
  rw [openStep, choice]

/-- The hash routing of a step at its open. -/
def routingOf (cfg : Config) (st : Step) (m : ExpertMap) (reqs : List Req) : List (Nat × Nat × List Nat) :=
  if cfg.experts && StepD.route st.w = 0 then hashRouting cfg m reqs else []

theorem openStep_granted (fits : chooseBucket cfg (StepD.stage st.w) (StepD.shapes st.w) ≠ .refused)
    (valid : routingBad ((s.coupe k).nextMap.getD (s.coupe k).map)
      (routingOf cfg st ((s.coupe k).nextMap.getD (s.coupe k).map) (checkReqs s cfg st)) = false) :
    openStep k cfg st src s = if (grantReqs k cfg (checkReqs s cfg st) s).2.2 then
        holdReady k st (grantReqs k cfg (checkReqs s cfg st) s).1 (grantReqs k cfg (checkReqs s cfg st) s).2.1
      else openWith k cfg st (chooseBucket cfg (StepD.stage st.w) (StepD.shapes st.w))
        (routingOf cfg st ((s.coupe k).nextMap.getD (s.coupe k).map) (checkReqs s cfg st)) src
        (grantReqs k cfg (checkReqs s cfg st) s).1 (grantReqs k cfg (checkReqs s cfg st) s).2.1 := by
  rw [routingOf] at *
  unfold openStep
  split
  next refused => exact absurd refused fits
  · exact if_neg (by rw [valid]; decide)

end

/-! ## A refusal -/

theorem refuseStep_ends {st : Step} {status : BitVec 8} {s : State} {e : Entry}
    (apart : ∀ r ∈ st.reqs, r.pos ≠ st.pos) (he : entryOf s st.ring st.pos = some e) :
    (refuseStep k st status s).mem = s.mem ∧ (refuseStep k st status s).cores = s.cores
      ∧ (refuseStep k st status s).coupe k = s.coupe k
      ∧ (entryOf (refuseStep k st status s) st.ring st.pos).map (·.state)
        = some (.done status 0 0 ((s.coupe k).stepctr + 1)) := by
  have pools := withdrawStep_onlyPools k st s
  have he' : entryOf (withdrawStep k st s) st.ring st.pos = some e := by rw [← he, pools]; rfl
  have first : (entryOf (finishAt st.ring st.pos status 0 0 ((s.coupe k).stepctr + 1) (withdrawStep k st s)) st.ring st.pos).map
      (·.state) = some (.done status 0 0 ((s.coupe k).stepctr + 1)) := by
    rw [finishAt, entryOf_setEntry, he']
    simp
  have others : ∀ (l : List Req) (u : State), (∀ r ∈ l, r.pos ≠ st.pos) →
      let v := l.foldl (fun t r => finishAt st.ring r.pos
        (if r.status = some Status.cancelled then Status.cancelled else status) 0 0 ((s.coupe k).stepctr + 1) t) u
      OnlyRings u v ∧ entryOf v st.ring st.pos = entryOf u st.ring st.pos := by
    intro l
    induction l with
    | nil => exact fun u _ => ⟨.refl u, rfl⟩
    | cons r l ih =>
      intro u apart
      obtain ⟨rings, same⟩ := ih (finishAt st.ring r.pos
        (if r.status = some Status.cancelled then Status.cancelled else status) 0 0 ((s.coupe k).stepctr + 1) u)
        fun x hx => apart x (List.mem_cons_of_mem r hx)
      refine ⟨.trans (t := finishAt ..) rfl rings, same.trans ?_⟩
      rw [finishAt, entryOf_setEntry]
      have elsewhere : st.pos ≠ r.pos := (apart r List.mem_cons_self).symm
      simp [elsewhere]
  obtain ⟨rings, same⟩ := others st.reqs
    (finishAt st.ring st.pos status 0 0 ((s.coupe k).stepctr + 1) (withdrawStep k st s)) apart
  have rest : OnlyRings (withdrawStep k st s) (refuseStep k st status s) :=
    .trans (t := finishAt st.ring st.pos status 0 0 ((s.coupe k).stepctr + 1) (withdrawStep k st s)) rfl rings
  rw [OnlyRings] at rest
  rw [OnlyPools] at pools
  refine ⟨?_, ?_, ?_, (congrArg _ same).trans first⟩
  · rw [rest, pools]
    rfl
  · rw [rest, pools]
    rfl
  · rw [rest, pools]
    rfl

/-! ## Threshold routing -/

theorem readBenchRows_quiet (c src) : ∀ (l : List Nat) (s : State),
    (readBenchRows c src l s).2.mem = s.mem ∧ Placed s (readBenchRows c src l s).2
  | [], s => ⟨rfl, .refl s⟩
  | r :: rs, s => by
    obtain ⟨mem, placed⟩ := readBenchRows_quiet c src rs (readBench c r src s).2
    have first : (readBench c r src s).2.mem = s.mem := by rw [(readBench_read c r src s).rest]
    exact ⟨mem.trans first, (readBench_rows c r src s).placed.trans placed⟩

theorem readRouting_quiet (cfg st layer s) : (readRouting k cfg st layer s).2.mem = s.mem
    ∧ Placed s (readRouting k cfg st layer s).2 := by
  unfold readRouting
  split
  · exact ⟨rfl, .refl s⟩
  · split
    · exact ⟨rfl, .refl s⟩
    · exact readBenchRows_quiet ..

theorem endStep_running {st : Step} {s : State} (isOpen : (s.run k).openStep = some st) (runs : st.boundary = false)
    (status : BitVec 8) (detail : BitVec 64) (dkind : BitVec 4) :
    ∃ st', ((endStep k status detail dkind s).run k).openStep = some st' ∧ st'.status = some status ∧ st'.boundary = true
      ∧ st'.detail = detail ∧ st'.dkind = dkind ∧ st'.mark = st.mark := by
  simp only [endStep, isOpen, runs]
  rw [if_neg (by decide)]
  split
  · generalize hx : { st with
      status := some status, detail := detail, dkind := dkind, boundary := true, needReplay := false, running := [],
      toDispatch := [], loads := [], layerTasks := [] } = x
    have sent : ((setStep k x s).run k).openStep = some x := by rw [setStep, State.setRun_run]
    simp only [sendOutcome, sent]
    rw [State.setRun_run, setStep, State.setRun_run]
    refine ⟨_, rfl, ?_⟩
    rw [← hx]
    exact ⟨rfl, rfl, rfl, rfl, rfl⟩
  · rw [setStep, State.setRun_run]
    exact ⟨_, rfl, rfl, rfl, rfl, rfl, rfl⟩

theorem dispatchLayers_one {cfg : Config} {m : ExpertMap} {rt : List (Nat × Nat × List Nat)} {l : Nat} {st : Step} {s : State}
    (isOpen : (s.run k).openStep = some st) : (dispatchLayers k cfg m rt [l] s).mem = s.mem
      ∧ ((dispatchLayers k cfg m rt [l] s).run k).openStep.map Step.mark
        = some { st with routed := st.routed ++ [l] }.mark := by
  have kept := layerKept_marks (k := k) m (layerPairs rt l) (s.coupe k).sIndex.toNat l s
  rw [dispatchLayers_eq, List.foldl_cons, List.foldl_nil]
  generalize hd : layerDispatched k m rt (s.coupe k).sIndex.toNat s l = d
  have built := buildLayers_marks (k := k) cfg m cfg.players.toNat d
  rw [layerDispatched] at hd
  generalize layerKept k m (layerPairs rt l) (s.coupe k).sIndex.toNat l s = u at kept hd
  have mark := kept.mark k
  rw [isOpen, Option.map_some] at mark
  obtain ⟨st1, opened, same⟩ := Option.map_eq_some_iff.1 mark
  simp only [opened] at hd
  refine ⟨built.mem.trans ?_, (built.mark k).trans ?_⟩
  · rw [← hd]
    exact kept.mem
  · rw [← hd, setStep, State.setRun_run]
    simp only [Step.mark, Prod.mk.injEq] at same
    simp [Step.mark, same]

section
variable {layer : BitVec 16} {cfg : Config} {st : Step} {s : State}

theorem exec_threshold_of (bound : bindingOf s k = some cfg) (isOpen : (s.run k).openStep = some st)
    (runs : st.boundary = false) (experts : cfg.experts = true) (bucket : st.bucket.isSome = true)
    (route : StepD.route st.w = 1) (new : st.routed.contains layer.toNat = false) (low : layer.toNat < cfg.players.toNat)
    (goes : coupeHalting s k = false) (ready : routingOpen s k cfg layer.toNat = true) :
    exec (.thresholdRouteDispatch k layer) s = .next (
      if routingBad (s.coupe k).map (readRouting k cfg st layer.toNat s).1 then
        endStep k Status.doesNotFit 0 0 (readRouting k cfg st layer.toNat s).2
      else checkBoundary k (dispatchLayers k cfg (s.coupe k).map (readRouting k cfg st layer.toNat s).1 [layer.toNat]
        (setStep k { st with routing := st.routing ++ (readRouting k cfg st layer.toNat s).1 }
          (readRouting k cfg st layer.toNat s).2))) := by
  have low' : ¬ cfg.players.toNat ≤ layer.toNat := by omega
  have bucket' : st.bucket.isNone = false := by
    cases h : st.bucket
    · rw [h] at bucket
      exact absurd bucket (by decide)
    · rfl
  rw [exec_thresholdRouteDispatch, execThresholdRouteDispatch]
  simp only [isOpen, bound]
  rw [if_neg (by simp only [runs, experts, bucket', route, new, low', goes, ready]; decide)]
  exact (apply_ite Host.Outcome.next ..).symm

end

/-- Settles O41: `openStep` by its choice of bucket and its grants, and everything that follows the opening carries the
step's name and the counter; threshold routing by what its layer dispatches. -/
theorem stepsOpen : Obligations.StepsOpen := by
  unfold Obligations.StepsOpen
  refine ⟨fun k src cfg st s bound may first => ?_,
    fun k layer cfg st s bound isOpen runs experts bucket route new low goes ready => ?_⟩
  · intro choice m reqs opens
    have run := exec_stepOpen_opens k src cfg st s bound may first
    have granted : choice ≠ .refused → routingBad m (routingOf cfg st m reqs) = false → ∀ rs u,
        (grantReqs k cfg reqs s = (rs, u, false) →
            ∃ t, exec (.stepOpen k src) s = .next t ∧ opens ((u.coupe k).stepctr + 1) t)
          ∧ (grantReqs k cfg reqs s = (rs, u, true) →
            ∃ t, exec (.stepOpen k src) s = .next t ∧ t.mem = u.mem ∧ t.coupe k = u.coupe k
              ∧ (t.run k).openStep = (u.run k).openStep) := by
      intro fits valid rs u
      rw [openStep_granted fits valid] at run
      refine ⟨fun given => ⟨_, run, ?_⟩, fun waits => ⟨_, run, ?_⟩⟩
      · rw [show grantReqs k cfg (checkReqs s cfg st) s = (rs, u, false) from given]
        exact openWith_opens ..
      · rw [show grantReqs k cfg (checkReqs s cfg st) s = (rs, u, true) from waits]
        change (holdReady k st rs u).mem = _ ∧ (holdReady k st rs u).coupe k = _ ∧ ((holdReady k st rs u).run k).openStep = _
        rw [holdReady, State.setRun_run]
        exact ⟨rfl, rfl, rfl⟩
    refine ⟨fun refused apart e he => ?_, fun fits none_ => ?_, granted⟩
    · rw [openStep_refused refused] at run
      exact ⟨_, run, refuseStep_ends apart he⟩
    · have noReqs : reqs = [] := by
        change checkReqs s cfg st = []
        rw [checkReqs, none_]
        rfl
      have noRouting : routingOf cfg st m reqs = [] := by
        rw [routingOf, noReqs]
        split
        · rw [hashRouting]
          exact List.flatMap_eq_nil_iff.2 fun _ _ => rfl
        · rfl
      exact (granted fits (by rw [noRouting]; rfl) [] s).1 (by rw [noReqs]; rfl)
  · intro m rt
    have run := exec_threshold_of bound isOpen runs experts bucket route new low goes ready
    obtain ⟨mem, placed⟩ := readRouting_quiet (k := k) cfg st layer.toNat s
    have isOpen' : ((readRouting k cfg st layer.toNat s).2.run k).openStep = some st := by rw [placed.run]; exact isOpen
    refine ⟨fun valid => ?_, fun bad => ?_⟩
    · rw [if_neg (by rw [show routingBad (s.coupe k).map (readRouting k cfg st layer.toNat s).1 = false from valid]; decide)] at run
      have noted : ((setStep k { st with routing := st.routing ++ rt } (readRouting k cfg st layer.toNat s).2).run k).openStep
          = some { st with routing := st.routing ++ rt } := by rw [setStep, State.setRun_run]
      obtain ⟨same, mark⟩ := dispatchLayers_one (cfg := cfg) (m := m) (rt := rt) (l := layer.toNat) noted
      have checked := (checkBoundary_streams k (dispatchLayers k cfg m rt [layer.toNat]
        (setStep k { st with routing := st.routing ++ rt } (readRouting k cfg st layer.toNat s).2))).marks
      obtain ⟨st', opened, marked⟩ := Option.map_eq_some_iff.1 ((checked.mark k).trans mark)
      simp only [Step.mark, Prod.mk.injEq] at marked
      exact ⟨_, run, (checked.mem.trans same).trans mem, st', opened, marked.2.2.1.2.1, marked.2.2.1.2.2⟩
    · rw [if_pos (show routingBad (s.coupe k).map (readRouting k cfg st layer.toNat s).1 = true from bad)] at run
      obtain ⟨st', opened, status, boundary, -⟩ := endStep_running isOpen' runs Status.doesNotFit 0 0
      exact ⟨_, run, (endStep_streams ..).mem.trans mem, st', opened, status, boundary⟩

end

end Sys2Proof.Machine
end

section
/-! PROOFS. The sentinel, the shard deadline and the replay of a step (R139–R143, R350, R361–R363). -/

namespace Sys2Proof.Machine

/-! ## Open steps kept -/

/-- Every open step is the same. -/
def KeepsSteps (s t : State) : Prop := ∀ k, (t.run k).openStep = (s.run k).openStep

theorem KeepsSteps.refl (s : State) : KeepsSteps s s := fun _ => rfl

theorem KeepsSteps.trans {s t u : State} (h : KeepsSteps s t) (g : KeepsSteps t u) : KeepsSteps s u :=
  fun k => (g k).trans (h k)

theorem setRun_keepsSteps {s : State} {k : CoupeId} {r : CoupeRun} (h : r.openStep = (s.run k).openStep) :
    KeepsSteps s (s.setRun k r) := fun j => by
  by_cases same : j = k
  · rw [same, State.setRun_run, h]
  · rw [State.setRun_run_other _ _ _ _ same]

theorem dropStaging_keepsSteps (c s) : KeepsSteps s (dropStaging c s) := by
  refine foldl_related .refl .trans _ (fun t p => ?_) _ s
  split
  · exact .refl t
  · exact setRun_keepsSteps rfl

theorem resetCore_keepsSteps (c s) : KeepsSteps s (resetCore c s) := by
  have dropped := dropStaging_keepsSteps c s
  simp only [resetCore]
  generalize dropStaging c s = u at dropped ⊢
  exact dropped.trans fun _ => rfl

theorem flushCoupe_keepsSteps (k s) : KeepsSteps s (flushCoupe k s) := by
  have reset := foldl_related .refl .trans _ (fun t c => resetCore_keepsSteps c t) (coupeCores s k) s
  simp only [flushCoupe]
  generalize (coupeCores s k).foldl (fun t c => resetCore c t) s = u at reset ⊢
  refine reset.trans (KeepsSteps.trans (t := u.setRun k _) ?_ fun _ => rfl)
  exact setRun_keepsSteps rfl

theorem spanAdvance_keepsSteps (k s) : KeepsSteps s (spanAdvance k s) := by
  simp only [spanAdvance]
  intro j
  rw [State.run, sendAllMembers_runs]
  exact setRun_keepsSteps (by rfl) j

section
variable {k : CoupeId} {st : Step} {s : State}

/-! ## A step's end on its coupe and on others -/

theorem sendOutcome_open (isOpen : (s.run k).openStep = some st) (status : BitVec 8) :
    ((sendOutcome k status s).run k).openStep = some { st with outcomeSent := true } := by
  simp only [sendOutcome, isOpen]
  rw [State.setRun_run, setStep, State.setRun_run]

theorem sendOutcome_other {j : CoupeId} (other : j ≠ k) (status : BitVec 8) (s : State) :
    (sendOutcome k status s).run j = s.run j := by
  simp only [sendOutcome]
  split
  · rfl
  · rw [State.setRun_run_other _ _ _ _ other, setStep, State.setRun_run_other _ _ _ _ other, State.run, State.run,
      sendAllMembers_runs]

theorem endStep_other {j : CoupeId} (other : j ≠ k) (status detail dkind) (s : State) :
    (endStep k status detail dkind s).run j = s.run j := by
  simp only [endStep]
  split
  · rfl
  · split
    · rfl
    · split
      · rw [sendOutcome_other other, setStep, State.setRun_run_other _ _ _ _ other]
      · rw [setStep, State.setRun_run_other _ _ _ _ other]

/-- A step at its boundary stays as it is. -/
theorem endStep_ended (isOpen : (s.run k).openStep = some st) (ended : st.boundary = true) (status detail dkind) :
    endStep k status detail dkind s = s := by
  simp only [endStep, isOpen, ended, if_true]

/-- Step `st` of coupe k has ended with a status. -/
def EndedWith (k : CoupeId) (st : Step) (status : BitVec 8) (t : State) : Prop :=
  ∃ st', (t.run k).openStep = some st' ∧ st'.status = some status ∧ st'.boundary = true ∧ st'.number = st.number

/-! ## The sentinel -/

theorem fire_mem (k : CoupeId) (s : State) : (fire k s).mem = s.mem :=
  (endStep_streams ..).mem.trans (flushCoupe_flow k s).mem

theorem fire_ends (isOpen : (s.run k).openStep = some st) (runs : st.boundary = false) :
    ∃ st', ((fire k s).run k).openStep = some st' ∧ st'.status = some Status.deadlock ∧ st'.boundary = true
      ∧ st'.detail = deadlockOf s k ∧ st'.dkind = 4 ∧ st'.mark = st.mark :=
  endStep_running ((flushCoupe_keepsSteps k s k).trans isOpen) runs _ _ _

theorem fire_other {j : CoupeId} (other : j ≠ k) (s : State) : ((fire k s).run j).openStep = (s.run j).openStep := by
  simp only [fire]
  rw [endStep_other other, flushCoupe_keepsSteps]

theorem EndedWith.fire {status : BitVec 8} (h : EndedWith k st status s) (j : CoupeId) :
    EndedWith k st status (Machine.fire j s) := by
  obtain ⟨st', isOpen, is⟩ := h
  refine ⟨st', ?_, is⟩
  by_cases same : k = j
  · subst same
    have flushed := (flushCoupe_keepsSteps k s k).trans isOpen
    rw [Machine.fire, endStep_ended flushed is.2.1, flushed]
  · rw [fire_other same, isOpen]

theorem fireAll_ends {l : List CoupeId} (isOpen : (s.run k).openStep = some st) (runs : st.boundary = false) (fires : k ∈ l) :
    (l.foldl (fun t k => fire k t) s).mem = s.mem ∧ EndedWith k st Status.deadlock (l.foldl (fun t k => fire k t) s) := by
  refine ⟨foldl_related (R := fun s t : State => t.mem = s.mem) (fun _ => rfl) (fun h g => g.trans h) _
    (fun t j => fire_mem j t) l s, ?_⟩
  refine foldl_reaches_with (I := fun t => (t.run k).openStep = some st ∨ EndedWith k st Status.deadlock t)
    (P := fun j t => j = k → EndedWith k st Status.deadlock t) (fun t j => fire j t) ?_ ?_ ?_ l s k (.inl isOpen) (.inl fires) rfl
  · rintro t j (waits | ended)
    · by_cases same : k = j
      · subst same
        obtain ⟨st', opened, status, boundary, -, -, mark⟩ := fire_ends waits runs
        exact .inr ⟨st', opened, status, boundary, congrArg (·.2.1.1) mark⟩
      · exact .inl ((fire_other same t).trans waits)
    · exact .inr (ended.fire j)
  · rintro t j (waits | ended) rfl
    · obtain ⟨st', opened, status, boundary, -, -, mark⟩ := fire_ends waits runs
      exact ⟨st', opened, status, boundary, congrArg (·.2.1.1) mark⟩
    · exact ended.fire j
  · exact fun t j x _ ended same => (ended same).fire j

theorem exec_sentinel (grid : gridInstant s = true) : exec .sentinelEvaluation s
    = .next (((listedCoupes s).filter (sentinelFires s)).foldl (fun t k => fire k t) s) := by
  rw [exec_sentinelEvaluation, execSentinelEvaluation, if_pos grid]

theorem exec_sentinel_silent (silent : (listedCoupes s).filter (sentinelFires s) = []) :
    exec .sentinelEvaluation s = .next s := by
  rw [exec_sentinelEvaluation, execSentinelEvaluation, silent]
  exact ite_self _

theorem coupeRuns_bound (bound : (s.coupe k).state = .bound) : coupeRuns s k = true := by
  simp [coupeRuns, bound]

theorem sentinelFires_of (isOpen : (s.run k).openStep = some st) (runs : st.boundary = false)
    (bound : (s.coupe k).state = .bound)
    (late : (s.run k).lastProgress.toNat + 1000 * (s.coupe k).sentinel.toNat ≤ s.timebase.toNat)
    (stalled : ∃ c ∈ coupeCores s k, (s.core c).task.isSome = true ∧ (s.core c).stall.latched = true ∧ (s.core c).halted = false)
    (still_ : transfersOf s k = false) (alone : crossWait s k = false) : sentinelFires s k = true := by
  obtain ⟨c, hc, task, latched, goes⟩ := stalled
  have waits : (stalledCores s k).isEmpty = false :=
    List.isEmpty_eq_false_iff_exists_mem.2 ⟨c, List.mem_filter.2 ⟨hc, by simp [task, latched, goes]⟩⟩
  rw [Nat.mul_comm] at late
  simp only [sentinelFires, isOpen, runs, coupeRuns_bound bound, Coupe.threshold, late, waits, still_, alone]
  decide

/-! ## The shard deadline -/

theorem shardTimeout_ends (isOpen : (s.run k).openStep = some st) : (shardTimeout k s).mem = s.mem
    ∧ ((shardTimeout k s).run k).shardWait = some s.timebase ∧ EndedWith k st Status.shardTimeout (shardTimeout k s) := by
  have flushed := (flushCoupe_keepsSteps k s k).trans isOpen
  simp only [shardTimeout, flushed]
  generalize hx : { st with
    status := some Status.shardTimeout, detail := 0, dkind := 0, boundary := true, needReplay := false, running := [],
    toDispatch := [], loads := [], layerTasks := [] } = x
  have noted : ((setStep k x (flushCoupe k s)).run k).openStep = some x := by rw [setStep, State.setRun_run]
  have ends : x.status = some Status.shardTimeout ∧ x.boundary = true ∧ x.number = st.number := hx ▸ ⟨rfl, rfl, rfl⟩
  have mem : (setStep k x (flushCoupe k s)).mem = s.mem := (flushCoupe_flow k s).mem
  generalize setStep k x (flushCoupe k s) = u at noted mem ⊢
  have sent : (if st.spans = true then sendOutcome k Status.shardTimeout u else u).mem = s.mem
      ∧ ∃ y, ((if st.spans = true then sendOutcome k Status.shardTimeout u else u).run k).openStep = some y
        ∧ y.status = x.status ∧ y.boundary = x.boundary ∧ y.number = x.number := by
    split
    · exact ⟨(sendOutcome_streams ..).mem.trans mem, _, sendOutcome_open noted _, rfl, rfl, rfl⟩
    · exact ⟨mem, x, noted, rfl, rfl, rfl⟩
  generalize (if st.spans = true then sendOutcome k Status.shardTimeout u else u) = v at sent ⊢
  obtain ⟨mem', y, isOpen', status, boundary, number⟩ := sent
  rw [EndedWith, State.setRun_run]
  exact ⟨mem', rfl, y, isOpen', status.trans ends.1, boundary.trans ends.2.1, number.trans ends.2.2⟩

theorem exec_shardDeadline_first (isOpen : (s.run k).openStep = some st) (grid : gridInstant s = true)
    (runs : coupeRuns s k = true) (first : (s.run k).shardWait = none) (waits : crossWait s k = true)
    (late : waitStart s k + (s.coupe k).threshold ≤ s.timebase.toNat) :
    exec (.shardDeadline k) s = .next (shardTimeout k s) := by
  rw [exec_shardDeadline, execShardDeadline]
  simp only [grid, runs, isOpen, first, waits, late]
  rfl

theorem exec_shardDeadline_second {since : BitVec 64} (isOpen : (s.run k).openStep = some st) (grid : gridInstant s = true)
    (runs : coupeRuns s k = true) (first : (s.run k).shardWait = some since)
    (late : since.toNat + (s.coupe k).threshold ≤ s.timebase.toNat) (missing : agreement s k st = none) :
    exec (.shardDeadline k) s = .next (setStep k (noAgreement st) s) := by
  rw [exec_shardDeadline, execShardDeadline]
  simp only [grid, runs, isOpen, first, missing, late]
  rfl

theorem reduction_waits (waits : ∃ r ∈ s.reductions, r.coupe = k) :
    crossWait s k = true ∧ waitStart s k = (s.run k).lastCross.toNat := by
  obtain ⟨r, hr, of⟩ := waits
  have other : otherCrossWait s k = true := by
    rw [otherCrossWait, List.any_eq_true.2 ⟨r, hr, decide_eq_true of⟩]
    rfl
  refine ⟨by rw [crossWait, other]; rfl, ?_⟩
  rw [waitStart, if_pos other]

/-! ## Replay -/

theorem clearWords_placed (cfg stage s) : Placed s (clearWords k cfg stage s) := by
  refine foldl_related .refl .trans _ (fun t w => ?_) _ s
  dsimp only
  split
  · exact (writeBytesAt_list ..).placed
  · exact .refl t

/-- Coupe k has step `st` open in its next attempt. -/
def NextAttempt (k : CoupeId) (st : Step) (t : State) : Prop :=
  ∃ st', (t.run k).openStep = some st' ∧ st'.attempt = st.attempt + 1 ∧ st'.number = st.number ∧ st'.w = st.w

theorem KeepsOpen.nextAttempt {x : Step} {t : State} (h : KeepsOpen s t) (isOpen : (s.run k).openStep = some x)
    (same : x.name = st.again.name) : NextAttempt k st t := by
  have named := h.2 k
  rw [isOpen, Option.map_some, same] at named
  obtain ⟨st', opened, name⟩ := Option.map_eq_some_iff.1 named
  simp only [Step.name, Step.mark, Prod.mk.injEq] at name
  obtain ⟨⟨-, -, w⟩, number, attempt⟩ := name
  exact ⟨st', opened, attempt, number, w⟩

theorem reopen_opens (cfg : Config) : NextAttempt k st (reopen k cfg st s) := by
  simp only [reopen]
  generalize compactAll cfg _ _ = p
  refine ((launch_keepsOpen ..).trans (openExperts_keepsOpen ..)).nextAttempt
    (x := { st.again with reqs := p.1 }) ?_ rfl
  split
  · rw [spanAdvance_keepsSteps, State.setRun_run]
  · rw [State.setRun_run]

theorem cannotReplay_ends (isOpen : (s.run k).openStep = some st) : (cannotReplay k st s).mem = s.mem
    ∧ ∃ st', ((cannotReplay k st s).run k).openStep = some st' ∧ st'.attempt = st.attempt + 1
      ∧ st'.status = some Status.restartRequired ∧ st'.boundary = true ∧ st'.w = st.w := by
  simp only [cannotReplay]
  generalize hx : { st with
    attempt := st.attempt + 1, status := some Status.restartRequired, detail := 0, dkind := 0, boundary := true,
    needReplay := false, outcomes := st.outcomes.filter (fun o => st.attempt < o.attempt.toNat) } = x
  have noted : ((spanAdvance k (setStep k x (flushCoupe k s))).run k).openStep = some x := by
    rw [spanAdvance_keepsSteps, setStep, State.setRun_run]
  have mem : (spanAdvance k (setStep k x (flushCoupe k s))).mem = s.mem :=
    (sendAllMembers_streams ..).mem.trans (flushCoupe_flow k s).mem
  refine ⟨(sendOutcome_streams ..).mem.trans mem, _, sendOutcome_open noted _, ?_⟩
  rw [← hx]
  exact ⟨rfl, rfl, rfl, rfl⟩

theorem exec_stepReplay_of {cfg : Config} (isOpen : (s.run k).openStep = some st) (bound : bindingOf s k = some cfg)
    (runs : coupeRuns s k = true) (settled : (coupeCores s k).any (fun c => (s.slot c).moving) = false)
    (asked : st.needReplay = true) : exec (.stepReplay k) s
      = .next (if st.replayable && !st.poppedForeign && st.attempt < 3 then reopen k cfg st s else cannotReplay k st s) := by
  rw [exec_stepReplay, execStepReplay]
  simp only [isOpen, bound, runs, settled, asked]
  exact (apply_ite Host.Outcome.next ..).symm

theorem exec_stepReplay_reopens {cfg : Config} (isOpen : (s.run k).openStep = some st) (bound : bindingOf s k = some cfg)
    (runs : coupeRuns s k = true) (settled : (coupeCores s k).any (fun c => (s.slot c).moving) = false)
    (asked : st.needReplay = true) (able : st.replayable = true) (own : st.poppedForeign = false) (left_ : st.attempt < 3) :
    exec (.stepReplay k) s = .next (reopen k cfg st s) := by
  rw [exec_stepReplay_of isOpen bound runs settled asked, if_pos (by simp [able, own, left_])]

theorem exec_stepReplay_gives_up {cfg : Config} (isOpen : (s.run k).openStep = some st) (bound : bindingOf s k = some cfg)
    (runs : coupeRuns s k = true) (settled : (coupeCores s k).any (fun c => (s.slot c).moving) = false)
    (asked : st.needReplay = true) (unable : st.replayable = false ∨ st.poppedForeign = true ∨ 3 ≤ st.attempt) :
    exec (.stepReplay k) s = .next (cannotReplay k st s) := by
  rw [exec_stepReplay_of isOpen bound runs settled asked, if_neg]
  rcases unable with h | h | h
  · simp [h]
  · simp [h]
  · simp only [Bool.and_eq_true, decide_eq_true_eq]
    omega

end

/-- Settles O43: each of the three commands by the branch that its conditions select; the flush that comes first keeps every
open step (`flushCoupe_keepsSteps`), and a firing on one coupe leaves the steps of the others. -/
theorem stepsEndAndReplay : Obligations.StepsEndAndReplay := by
  unfold Obligations.StepsEndAndReplay
  refine ⟨fun k st s isOpen => ⟨fun grid fires => ?_, fun grid runs => ⟨fun first waits late => ?_,
      fun since first late missing => ?_⟩, fun cfg bound runs settled asked => ⟨fun able own left_ => ?_, fun unable => ?_⟩⟩,
    fun s silent => exec_sentinel_silent silent, fun k st s isOpen runs bound grid => ?_,
    fun k st cfg s isOpen bound state asked settled => ?_⟩
  · have run := exec_sentinel grid
    rw [fires, List.foldl_cons, List.foldl_nil] at run
    have running : st.boundary = false := by
      have fires' : sentinelFires s k = true := (List.mem_filter.1 (fires ▸ List.mem_singleton_self k)).2
      simp only [sentinelFires, isOpen, Bool.and_eq_true, Bool.not_eq_true'] at fires'
      exact fires'.1.1.1.1.1
    obtain ⟨st', opened, status, boundary, detail, dkind, -⟩ := fire_ends isOpen running
    exact ⟨_, run, fire_mem k s, st', opened, status, boundary, detail, dkind⟩
  · obtain ⟨mem, wait, st', opened, status, boundary, -⟩ := shardTimeout_ends isOpen
    exact ⟨_, exec_shardDeadline_first isOpen grid runs first waits late, mem, wait, st', opened, status, boundary⟩
  · refine ⟨_, exec_shardDeadline_second isOpen grid runs first late missing, ?_, rfl⟩
    rw [setStep, State.setRun_run]
  · obtain ⟨st', opened, attempt, number, -⟩ := reopen_opens (k := k) (st := st) (s := s) cfg
    exact ⟨_, exec_stepReplay_reopens isOpen bound runs settled asked able own left_, st', opened, attempt, number⟩
  · obtain ⟨mem, st', opened, attempt, status, boundary, -⟩ := cannotReplay_ends isOpen
    exact ⟨_, exec_stepReplay_gives_up isOpen bound runs settled asked unable, mem, st', opened, attempt, status, boundary⟩
  · intro ends
    refine ⟨fun listed late stalled still_ alone => ?_, fun first waits late => ?_⟩
    · have fires := sentinelFires_of isOpen runs bound late stalled still_ alone
      exact ⟨_, exec_sentinel (decide_eq_true grid), fireAll_ends isOpen runs (List.mem_filter.2 ⟨listed, fires⟩)⟩
    · obtain ⟨cross, start⟩ := reduction_waits waits
      obtain ⟨mem, -, ended⟩ := shardTimeout_ends isOpen
      refine ⟨_, exec_shardDeadline_first isOpen (decide_eq_true grid) (coupeRuns_bound bound) first cross ?_, mem, ended⟩
      rw [start, Coupe.threshold, Nat.mul_comm]
      exact late
  · have settled' : (coupeCores s k).any (fun c => (s.slot c).moving) = false :=
      List.any_eq_false.2 fun c hc => by rw [settled c hc]; decide
    by_cases again : st.replayable = true ∧ st.poppedForeign = false ∧ st.attempt < 3
    · obtain ⟨st', opened, attempt, -, w⟩ := reopen_opens (k := k) (st := st) (s := s) cfg
      refine ⟨_, exec_stepReplay_reopens isOpen bound (coupeRuns_bound state) settled' asked again.1 again.2.1 again.2.2, st',
        opened, attempt, w, fun unable => ?_⟩
      rw [again.1] at unable
      exact absurd unable (by decide)
    · have unable : st.replayable = false ∨ st.poppedForeign = true ∨ 3 ≤ st.attempt := by
        by_contra h
        push Not at h
        exact again ⟨by simpa using h.1, by simpa using h.2.1, h.2.2⟩
      obtain ⟨-, st', opened, attempt, status, -, w⟩ := cannotReplay_ends isOpen
      exact ⟨_, exec_stepReplay_gives_up isOpen bound (coupeRuns_bound state) settled' asked unable, st', opened, attempt, w,
        fun _ => status⟩

end Sys2Proof.Machine
end

section
/-! PROOFS. Halt, core reset and coupe reset leave cores and queues as the rules say (R60, R61, R69–R71, R146). -/

namespace Sys2Proof.Machine

/-! ## What the replay after a reset keeps -/

/-- Every coupe has its queues and its epoch still. -/
structure KeepsQueues (s t : State) : Prop where
  queues : ∀ k, (t.run k).queues = (s.run k).queues
  epoch : ∀ k, (t.run k).epoch = (s.run k).epoch

theorem KeepsQueues.refl (s : State) : KeepsQueues s s := ⟨fun _ => rfl, fun _ => rfl⟩

theorem KeepsQueues.trans {s t u : State} (h : KeepsQueues s t) (g : KeepsQueues t u) : KeepsQueues s u :=
  ⟨fun k => (g.queues k).trans (h.queues k), fun k => (g.epoch k).trans (h.epoch k)⟩

theorem setRun_keepsQueues {s : State} {k : CoupeId} {r : CoupeRun}
    (queues : r.queues = (s.run k).queues) (epoch : r.epoch = (s.run k).epoch) : KeepsQueues s (s.setRun k r) := by
  constructor <;> intro j <;> by_cases same : j = k
  · rw [same, State.setRun_run, queues]
  · rw [State.setRun_run_other _ _ _ _ same]
  · rw [same, State.setRun_run, epoch]
  · rw [State.setRun_run_other _ _ _ _ same]

theorem setStep_keepsQueues (k st s) : KeepsQueues s (setStep k st s) := setRun_keepsQueues rfl rfl

theorem sendAllMembers_keepsQueues (k ptype len p s) : KeepsQueues s (sendAllMembers k ptype len p s) := by
  constructor <;> intro j <;> rw [State.run, State.run, sendAllMembers_runs]

theorem sendOutcome_keepsQueues (k status s) : KeepsQueues s (sendOutcome k status s) := by
  simp only [sendOutcome]
  split
  · exact .refl s
  · exact ((sendAllMembers_keepsQueues ..).trans (setStep_keepsQueues ..)).trans (setRun_keepsQueues rfl rfl)

theorem endStep_keepsQueues (k status detail dkind s) : KeepsQueues s (endStep k status detail dkind s) := by
  simp only [endStep]
  split
  · exact .refl s
  · split
    · exact .refl s
    · split
      · exact (setStep_keepsQueues ..).trans (sendOutcome_keepsQueues ..)
      · exact setStep_keepsQueues ..

theorem triggerReplay_keepsQueues (k status detail dkind s) : KeepsQueues s (triggerReplay k status detail dkind s) := by
  simp only [triggerReplay]
  split
  · exact .refl s
  · split
    · exact .refl s
    · split
      · split
        · exact (setStep_keepsQueues ..).trans (sendOutcome_keepsQueues ..)
        · exact setStep_keepsQueues ..
      · exact endStep_keepsQueues ..

theorem markInvalid_keepsQueues (k c s) : KeepsQueues s (markInvalid k c s) := by
  simp only [markInvalid]
  split
  · exact .refl s
  · exact setRun_keepsQueues rfl rfl

/-- What a reset does once its cores and queues are reset: the step replays or ends, or a save area is marked invalid. -/
structure Follows (s t : State) : Prop where
  mem : t.mem = s.mem
  cores : t.cores = s.cores
  reads : t.readReqs = s.readReqs
  replies : t.readReplies = s.readReplies
  rings : t.rings = s.rings
  queues : KeepsQueues s t

theorem Follows.refl (s : State) : Follows s s := ⟨rfl, rfl, rfl, rfl, rfl, .refl s⟩

theorem Follows.trans {s t u : State} (h : Follows s t) (g : Follows t u) : Follows s u :=
  ⟨g.mem.trans h.mem, g.cores.trans h.cores, g.reads.trans h.reads, g.replies.trans h.replies, g.rings.trans h.rings,
    h.queues.trans g.queues⟩

theorem triggerReplay_follows (k status detail dkind s) : Follows s (triggerReplay k status detail dkind s) := by
  have rest := (triggerReplay_streams k status detail dkind s).rest
  exact ⟨by rw [rest], by rw [rest], by rw [rest], by rw [rest], by rw [rest], triggerReplay_keepsQueues ..⟩

theorem markInvalid_follows (k c s) : Follows s (markInvalid k c s) := by
  have queues := markInvalid_keepsQueues k c s
  rw [markInvalid] at queues ⊢
  split at queues
  · exact .refl s
  · exact ⟨rfl, rfl, rfl, rfl, rfl, queues⟩

/-! ## A core reset -/

theorem resetAndReplay_follows (c s) : Follows (resetCore c s) (resetAndReplay c s) := by
  simp only [resetAndReplay]
  split
  · exact .refl _
  · split
    · exact markInvalid_follows ..
    · exact triggerReplay_follows ..

theorem resetCore_reads (c : CoreId) (s : State) : (∀ q ∈ (resetCore c s).readReqs, q.reader ≠ c)
    ∧ ∀ q ∈ (resetCore c s).readReplies, q.reader ≠ c :=
  ⟨fun _ h => of_decide_eq_true (List.mem_filter.1 h).2, fun _ h => of_decide_eq_true (List.mem_filter.1 h).2⟩

theorem resetAndReplay_bytes (c : CoreId) (s : State) : SameBytes s (resetAndReplay c s) := fun a => by
  rw [(resetAndReplay_follows c s).mem, (resetCore_flow c s).mem]

theorem resetAndReplay_core (c : CoreId) (s : State) : (resetAndReplay c s).core c = (s.core c).cleared :=
  (core_of_cores (resetAndReplay_follows c s).cores c).trans (resetCore_core c s)

theorem resetAndReplay_others (c : CoreId) (s : State) : OtherCoresSame c s (resetAndReplay c s) := fun d other =>
  (core_of_cores (resetAndReplay_follows c s).cores d).trans (resetCore_core_other s other)

theorem resetAndReplay_reads (c : CoreId) (s : State) : (∀ q ∈ (resetAndReplay c s).readReqs, q.reader ≠ c)
    ∧ ∀ q ∈ (resetAndReplay c s).readReplies, q.reader ≠ c := by
  rw [(resetAndReplay_follows c s).reads, (resetAndReplay_follows c s).replies]
  exact resetCore_reads c s

theorem resetCore_rings (c : CoreId) (s : State) : (resetCore c s).rings = s.rings := by rw [resetCore_flow c s]

theorem resetAndReplay_rings (c : CoreId) (s : State) : (resetAndReplay c s).rings = s.rings :=
  (resetAndReplay_follows c s).rings.trans (resetCore_rings c s)

/-! ## A coupe reset -/

theorem Core.cleared_cleared (x : Core) : x.cleared.cleared = x.cleared := rfl

/-- Every core is as it was or cleared. -/
def ClearedOrSame (s t : State) : Prop := ∀ d, t.core d = s.core d ∨ t.core d = (s.core d).cleared

theorem resetCore_clears {c d : CoreId} {s t : State} (h : t.core d = s.core d ∨ t.core d = (s.core d).cleared)
    (same : d = c) : (resetCore c t).core d = (s.core d).cleared := by
  subst same
  rw [resetCore_core]
  rcases h with h | h
  · rw [h]
  · rw [h, Core.cleared_cleared]

theorem resetCore_clearedOrSame {s t : State} (h : ClearedOrSame s t) (c : CoreId) : ClearedOrSame s (resetCore c t) :=
  fun d => by
    by_cases same : d = c
    · exact .inr (resetCore_clears (h d) same)
    · rw [resetCore_core_other t same]
      exact h d

theorem resetCores_cleared (s : State) (l : List CoreId) {d : CoreId} (h : d ∈ l) :
    ((l.foldl (fun t c => resetCore c t) s).core d) = (s.core d).cleared := by
  refine foldl_reaches_with (I := ClearedOrSame s) (P := fun d t => t.core d = (s.core d).cleared) _ ?_ ?_ ?_ l s d
    (fun _ => .inl rfl) (.inl h)
  · exact fun t c h => resetCore_clearedOrSame h c
  · exact fun t c h => resetCore_clears (h c) rfl
  · exact fun t c d other h => (resetCore_core_other t (Ne.symm other)).trans h

theorem resetCores_other (l : List CoreId) {d : CoreId} (h : d ∉ l) (s : State) :
    ((l.foldl (fun t c => resetCore c t) s).core d) = s.core d := by
  induction l generalizing s with
  | nil => rfl
  | cons c l ih =>
    rw [List.mem_cons, not_or] at h
    exact (ih h.2 (resetCore c s)).trans (resetCore_core_other s h.1)

theorem dropStaging_epoch (c : CoreId) (k : CoupeId) (s : State) : ((dropStaging c s).run k).epoch = (s.run k).epoch := by
  refine foldl_related (R := fun s t : State => (t.run k).epoch = (s.run k).epoch) (fun _ => rfl) (fun h g => g.trans h) _
    (fun t p => ?_) _ s
  split
  · rfl
  next b _ =>
    by_cases same : k = b.coupe
    · rw [same, State.setQueue, State.setRun_run]
    · rw [State.setQueue, State.setRun_run_other _ _ _ _ same]

theorem resetCore_epoch (c : CoreId) (k : CoupeId) (s : State) : ((resetCore c s).run k).epoch = (s.run k).epoch := by
  have dropped := dropStaging_epoch c k s
  simp only [resetCore]
  generalize dropStaging c s = u at dropped ⊢
  exact dropped

theorem resetCores_epoch (l : List CoreId) (k : CoupeId) (s : State) :
    ((l.foldl (fun t c => resetCore c t) s).run k).epoch = (s.run k).epoch := by
  refine foldl_related (R := fun s t : State => (t.run k).epoch = (s.run k).epoch) (fun _ => rfl) (fun h g => g.trans h) _
    (fun t c => ?_) l s
  exact resetCore_epoch c k t

/-- The queue is as a flush leaves it (R146). -/
def Queue.IsEmptied (q : Queue) : Prop :=
  q.network = [] ∧ q.staging = [] ∧ q.slackCount = 0 ∧ q.marker = none ∧ q.returning = 0 ∧ q.credits = q.depth

theorem Queue.flushed_isEmptied (q : Queue) : q.flushed.IsEmptied := by
  rw [Queue.flushed]
  split <;> exact ⟨rfl, rfl, rfl, rfl, rfl, rfl⟩

/-- A queue of a table of flushed queues is an emptied one. -/
theorem mapQueues_flushed {m : Sparse (Option Queue)} {h : Nat} {q : Queue}
    (at_ : (mapQueues Queue.flushed m).get none h = some q) : q.IsEmptied := by
  have same := lookup_map_same_keys (f := fun e : Nat × Option Queue => (e.1, e.2.map Queue.flushed)) (fun _ => rfl) h m
  rw [Sparse.get, mapQueues, same] at at_
  cases found : m.lookup h with
  | none => simp [found] at at_
  | some o =>
    cases o with
    | none => simp [found] at at_
    | some p =>
      rw [found] at at_
      cases at_
      exact p.flushed_isEmptied

/-- Coupe `k` flushed, with its cores reset. -/
theorem flushCoupe_spec (k : CoupeId) (s : State) :
    (∀ d, d ∈ coupeCores s k → (flushCoupe k s).core d = (s.core d).cleared)
      ∧ (∀ d, d ∉ coupeCores s k → (flushCoupe k s).core d = s.core d)
      ∧ ((flushCoupe k s).run k).epoch = (s.run k).epoch + 1
      ∧ ∃ m, ((flushCoupe k s).run k).queues = mapQueues Queue.flushed m := by
  have clears (d : CoreId) (h : d ∈ coupeCores s k) := resetCores_cleared s (coupeCores s k) h
  have others (d : CoreId) (h : d ∉ coupeCores s k) := resetCores_other (coupeCores s k) h s
  have epoch := resetCores_epoch (coupeCores s k) k s
  simp only [flushCoupe]
  generalize (coupeCores s k).foldl (fun t c => resetCore c t) s = u at clears others epoch ⊢
  refine ⟨clears, others, ?_, (u.run k).queues, ?_⟩
  · rw [← epoch]
    exact congrArg CoupeRun.epoch (State.setRun_run u k _)
  · exact congrArg CoupeRun.queues (State.setRun_run u k _)

theorem resetCoupe_follows (k s) : Follows (flushCoupe k s) (resetCoupe k s) := by
  simp only [resetCoupe]
  split
  · exact triggerReplay_follows ..
  · refine foldl_related .refl .trans _ (fun t c => ?_) _ (flushCoupe k s)
    exact markInvalid_follows ..

theorem resetCoupe_spec (k : CoupeId) (s : State) : SameBytes s (resetCoupe k s)
    ∧ (∀ d, d ∈ coupeCores s k → (resetCoupe k s).core d = (s.core d).cleared)
    ∧ (∀ d, d ∉ coupeCores s k → (resetCoupe k s).core d = s.core d)
    ∧ ((resetCoupe k s).run k).epoch = (s.run k).epoch + 1
    ∧ ∀ h q, (resetCoupe k s).queue k h = some q → q.IsEmptied := by
  obtain ⟨clears, others, epoch, m, queues⟩ := flushCoupe_spec k s
  have next := resetCoupe_follows k s
  refine ⟨fun a => ?_, fun d h => ?_, fun d h => ?_, ?_, fun h q at_ => ?_⟩
  · rw [next.mem, (flushCoupe_flow k s).mem]
  · rw [core_of_cores next.cores, clears d h]
  · rw [core_of_cores next.cores, others d h]
  · rw [next.queues.epoch k, epoch]
  · rw [State.queue, next.queues.queues k, queues] at at_
    exact mapQueues_flushed at_

theorem resetCoupe_rings (k : CoupeId) (s : State) : (resetCoupe k s).rings = s.rings :=
  (resetCoupe_follows k s).rings.trans (by rw [flushCoupe_flow k s])

/-! ## RESET descriptors (R70, R71) -/

theorem finish_core (q : Desc) (status : BitVec 8) (s : State) (c : CoreId) : (finish q status s).core c = s.core c := by
  rw [State.core, finish_onlyRings q status s]
  rfl

theorem finish_mem (q : Desc) (status : BitVec 8) (s : State) : (finish q status s).mem = s.mem := by
  rw [finish_onlyRings q status s]

theorem exec_coreReset_starts {c : CoreId} {q : Desc} {s : State} (hc : canStart s q = true) (ho : Hdr.opcode q.w = 0x0D)
    (kind_ : bits q.w 511 510 = 0) (target : bits q.w 509 498 = c.toNat) :
    exec (.coreReset c (some q)) s = .next (finish q Status.ok (resetAndReplay c s)) := by
  have named : (bits q.w 511 510 = 0 && bits q.w 509 498 = c.toNat) = true := by simp [kind_, target]
  exact (if_pos named).trans (starts_of_canStart (fun s => finish q Status.ok (resetAndReplay c s)) hc ho)

theorem exec_coupeReset_starts {k : CoupeId} {q : Desc} {s : State} (hc : canStart s q = true) (ho : Hdr.opcode q.w = 0x0D)
    (kind_ : bits q.w 511 510 = 1) (target : bits q.w 497 491 = k.toNat) :
    exec (.coupeReset k (some q)) s = .next (finish q Status.ok (resetCoupe k s)) := by
  have named : (bits q.w 511 510 = 1 && bits q.w 497 491 = k.toNat) = true := by simp [kind_, target]
  exact (if_pos named).trans (starts_of_canStart (fun s => finish q Status.ok (resetCoupe k s)) hc ho)

/-! ## Halt -/

theorem exec_halt_running {c : CoreId} {s : State} (runs : (s.core c).halted = false) :
    ∃ t, exec (.halt c) s = .next t ∧ t = s.setCore c { s.core c with haltWanted := true } ∧ (t.core c).ready = false := by
  refine ⟨_, by simp only [exec_halt, execHalt, runs]; rfl, rfl, ?_⟩
  rw [State.setCore_core]
  simp [Core.ready]

theorem exec_halt_halted {c : CoreId} {s : State} (halted : (s.core c).halted = true) :
    exec (.halt c) s = .next s := by
  simp only [exec_halt, execHalt, halted, if_true]

/-- Core `c` is halted in the state it is in (R52, R61, R92). -/
def haltedNow (c : CoreId) (s : State) : State :=
  let x := s.core c
  { s.setCore c { x with
      halted := true, reads := [], cancelledReads := x.cancelledReads ++ x.reads
      haltedAt := now48 s, stationary := []
      resumeHeader := x.resumeRecord.1, resumeList := x.resumeRecord.2 } with
    readReqs := s.readReqs.filter (fun q => q.reader ≠ c)
    readReplies := s.readReplies.filter (fun q => q.reader ≠ c) }

theorem haltedNow_spec (c : CoreId) (s : State) : SameBytes s (haltedNow c s) ∧ OtherCoresSame c s (haltedNow c s)
    ∧ (haltedNow c s).core c = { s.core c with
        halted := true
        reads := []
        cancelledReads := (s.core c).cancelledReads ++ (s.core c).reads
        haltedAt := now48 s
        stationary := []
        resumeHeader := (s.core c).resumeRecord.1
        resumeList := (s.core c).resumeRecord.2 }
    ∧ (haltedNow c s).readReqs = s.readReqs.filter (fun q => q.reader ≠ c)
    ∧ (haltedNow c s).readReplies = s.readReplies.filter (fun q => q.reader ≠ c) :=
  ⟨fun _ => rfl, fun d other => State.setCore_core_other _ _ _ _ other, State.setCore_core .., rfl, rfl⟩

section
variable {c : CoreId} {s : State} (wanted : (s.core c).haltWanted = true) (runs : (s.core c).halted = false)
include wanted runs

theorem exec_coreHalted_now (phase : (s.core c).phase = .run ∨ (s.core c).phase = .idle) :
    exec (.coreHalted c) s = .next (haltedNow c s) := by
  have open_ : ((s.core c).haltWanted && !(s.core c).halted
      && ((s.core c).phase = .run || (s.core c).phase = .idle)) = true := by
    rcases phase with phase | phase <;> rw [wanted, runs, phase] <;> rfl
  exact if_pos open_

theorem exec_coreHalted_later (phase : (s.core c).phase = .drain ∨ (s.core c).phase = .retire) :
    exec (.coreHalted c) s = .next s := by
  have shut : ((s.core c).haltWanted && !(s.core c).halted
      && ((s.core c).phase = .run || (s.core c).phase = .idle)) = false := by
    rcases phase with phase | phase <;> rw [wanted, runs, phase] <;> rfl
  exact if_neg (by rw [shut]; decide)

end

/-- Settles O19: a core reset is the clearing of its core and a coupe reset the flush of its queues with its cores cleared;
the replay of the step or the mark in the save area that follows keeps cores, queues, rings and memory. -/
theorem haltAndResets : Obligations.HaltAndResets := by
  unfold Obligations.HaltAndResets
  refine ⟨fun c s => ⟨exec_halt_running, exec_halt_halted, fun wanted runs phase => ?_, exec_coreHalted_later⟩,
    fun c k s => ⟨?_, fun q hc ho kind_ target => ?_, ?_, fun q hc ho kind_ target => ?_⟩⟩
  · exact ⟨_, exec_coreHalted_now wanted runs phase, haltedNow_spec c s⟩
  · exact ⟨_, rfl, resetAndReplay_bytes c s, resetAndReplay_others c s, resetAndReplay_core c s, resetAndReplay_reads c s⟩
  · exact ⟨_, exec_coreReset_starts hc ho kind_ target, finish_ends hc (resetAndReplay_rings c s) _, by
      rw [finish_core, resetAndReplay_core], fun a => by
      rw [finish_mem, resetAndReplay_bytes c s a], fun d other => by
      rw [finish_core, resetAndReplay_others c s d other]⟩
  · obtain ⟨bytes, clears, others, epoch, queues⟩ := resetCoupe_spec k s
    exact ⟨resetCoupe k s, exec_coupeReset k none s, bytes, clears, others, epoch, queues⟩
  · exact ⟨_, exec_coupeReset_starts hc ho kind_ target, finish_ends hc (resetCoupe_rings k s) _, fun d h => by
      rw [finish_core, (resetCoupe_spec k s).2.1 d h]⟩

end Sys2Proof.Machine
end

section
/-! PROOFS. TASK_DISPATCH starts or holds a task; TASK_RETIRE frees the core (R34, R55–R59). -/

namespace Sys2Proof.Machine

/-! ## The cores when a sector fails -/

theorem ClearedOrSame.refl (s : State) : ClearedOrSame s s := fun _ => .inl rfl

theorem ClearedOrSame.trans {s t u : State} (h : ClearedOrSame s t) (g : ClearedOrSame t u) : ClearedOrSame s u := fun d => by
  rcases g d with same | cleared
  · rw [same]
    exact h d
  · refine .inr (cleared.trans ?_)
    rcases h d with same | before
    · rw [same]
    · rw [before, Core.cleared_cleared]

theorem ClearedOrSame.of_cores {s t : State} (h : t.cores = s.cores) : ClearedOrSame s t := fun d => .inl (core_of_cores h d)

theorem ClearedOrSame.foldl {α : Type} {f : State → α → State} (one : ∀ t x, ClearedOrSame t (f t x)) (l : List α) (s : State) :
    ClearedOrSame s (l.foldl f s) := foldl_related .refl .trans f one l s

theorem flushCoupe_clearedOrSame (k s) : ClearedOrSame s (flushCoupe k s) := fun d => by
  obtain ⟨clears, others, -⟩ := flushCoupe_spec k s
  by_cases h : d ∈ coupeCores s k
  · exact .inr (clears d h)
  · exact .inl (others d h)

theorem unbindJob_cores (k j s) : (unbindJob k j s).cores = s.cores := by
  simp only [unbindJob]
  split
  · rfl
  next cfg _ =>
    have same : (unbindImage cfg.image s).cores = s.cores := by rw [unbindImage_stores cfg.image s]
    exact same

theorem unbindAll_cores (k s) : (unbindAll k s).cores = s.cores := by
  have jobs : ((List.range 8).foldl (fun t j => unbindJob k j t) s).cores = s.cores :=
    foldl_cores (fun t j => unbindJob_cores k j t) _ s
  simp only [unbindAll]
  generalize (List.range 8).foldl (fun t j => unbindJob k j t) s = u at jobs ⊢
  exact jobs

theorem unbindCoupe_cores (k s) : (unbindCoupe k s).cores = s.cores := by
  have unbound := unbindAll_cores k s
  simp only [unbindCoupe]
  generalize unbindAll k s = u at unbound ⊢
  exact unbound

theorem dropSaves_cores (k s) : (dropSaves k s).cores = s.cores := by
  rw [dropSaves, dropKinds_stores _ s]

theorem failSave_cores (act status s) : (failSave act status s).cores = s.cores := by
  unfold failSave
  split
  · rfl
  · dsimp only
    split
    · exact dropSaves_cores ..
    · rfl
    · rfl
  · rfl

theorem loseStand_clearedOrSame (k g s) : ClearedOrSame s (loseStand k g s) := by
  have flushed := flushCoupe_clearedOrSame k s
  have ended : (unbindCoupe k (endStep k Status.doesNotFit 0 0 (flushCoupe k s))).cores = (flushCoupe k s).cores :=
    (unbindCoupe_cores ..).trans (endStep_cores ..)
  simp only [loseStand]
  generalize unbindCoupe k (endStep k Status.doesNotFit 0 0 (flushCoupe k s)) = u at ended ⊢
  refine flushed.trans (.of_cores ?_)
  split
  · exact ended
  · split
    · exact (failSave_cores ..).trans ended
    · exact (failSave_cores ..).trans ended
    · split <;> exact ended

theorem standOut_clearedOrSame (g s) : ClearedOrSame s (standOut g s) := by
  have raised := raiseStand_cores 0x15 (1 + g.toNat * 256) g s
  simp only [standOut]
  split
  · generalize raiseStand 0x15 (1 + g.toNat * 256) g s = u at raised ⊢
    refine .trans (.trans (.of_cores (t := u.setStand g { u.stand g with inService := false }) raised) ?_)
      (.of_cores (maybeReady_cores _))
    split
    · exact .refl _
    · exact loseStand_clearedOrSame _ _ _
  · exact .refl s

theorem sectorOut_clearedOrSame (i s) : ClearedOrSame s (sectorOut i s) := by
  simp only [sectorOut]
  split
  · exact .refl s
  · exact .trans (.of_cores (by rfl)) (.foldl (fun t g => standOut_clearedOrSame g t) _ _)

theorem deviceFault_clearedOrSame (i record s) : ClearedOrSame s (deviceFault i record s) := by
  have replays (l : List CoupeId) (u : State) :
      ClearedOrSame u (l.foldl (fun u k => triggerReplay k Status.restartRequired 0 0 u) u) :=
    .of_cores (foldl_cores (fun t k => triggerReplay_cores ..) l u)
  simp only [deviceFault]
  split
  · split
    · exact .trans (.of_cores (by rfl)) (sectorOut_clearedOrSame _ _)
    · exact .trans (.of_cores (by rfl)) (replays _ _)
  · exact .trans (.of_cores (by rfl)) (replays _ _)

/-! ## Dispatch -/

theorem onStep_rest (c f s) : onStep c f s = { s with runs := (onStep c f s).runs } := by
  unfold onStep
  split
  · rfl
  · split <;> rfl

theorem onStep_open {c : CoreId} {k : CoupeId} {st : Step} {s : State} (f : Step → Step) (of_ : coupeOf s c = some k)
    (isOpen : (s.run k).openStep = some st) : ((onStep c f s).run k).openStep = some (f st) := by
  simp only [onStep, of_, isOpen]
  rw [setStep, State.setRun_run]

theorem onStep_core (c f s) (d : CoreId) : (onStep c f s).core d = s.core d := core_of_cores (by rw [onStep_rest c f s]) d

/-- What a dispatched core is (R57, R34). -/
def Dispatched (w : BitVec 512) (x y : Core) : Prop :=
  y.task = some w ∧ y.phase = .run ∧ y.exc = .done
    ∧ y.pc = BitVec.ofNat 21 (bits w 321 301) ∧ y.base = BitVec.ofNat 15 (bits w 351 337)
    ∧ y.bound = BitVec.ofNat 15 (bits w 336 322)
    ∧ (∀ r, y.rd r = if r = 1 then BitVec.ofNat 64 (bits w 172 109) else if r = 2 then BitVec.ofNat 64 (bits w 108 45) else 0)
    ∧ y.qcw = BitVec.ofNat 64 (bits w 511 448) ∧ y.lfsr = BitVec.ofNat 32 (bits w 447 416)
    ∧ y.qsat = 0 ∧ y.kovf = 0 ∧ y.nanp = 0 ∧ y.maxabs = 0 ∧ y.queue = [] ∧ y.windows = x.windows ∧ y.counters = x.counters

theorem Core.dispatched_rd (x : Core) (w : BitVec 512) (ports : Sparse (BitVec 16)) (r : Nat) : (x.dispatched w ports).rd r
    = if r = 1 then BitVec.ofNat 64 (bits w 172 109) else if r = 2 then BitVec.ofNat 64 (bits w 108 45) else 0 := by
  simp only [Core.rd, Core.dispatched, Sparse.get_set]
  by_cases zero : r = 0
  · simp [zero]
  · by_cases one : r = 1
    · simp [one, Task.arg0]
    · by_cases two : r = 2
      · simp [two, Task.arg1]
      · simp [zero, one, two, Sparse.get]

theorem Core.dispatched_is (x : Core) (w : BitVec 512) (ports : Sparse (BitVec 16)) : Dispatched w x (x.dispatched w ports) :=
  ⟨rfl, rfl, rfl, rfl, rfl, rfl, x.dispatched_rd w ports, rfl, rfl, rfl, rfl, rfl, rfl, rfl, rfl, rfl⟩

theorem startTask_spec (c : CoreId) (w : BitVec 512) (s : State) : (startTask c w s).mem = s.mem
    ∧ OtherCoresSame c s (startTask c w s) ∧ ∃ ports, (startTask c w s).core c = (s.core c).dispatched w ports := by
  simp only [startTask]
  generalize (List.range 8).foldl (fun m p => Sparse.set 0xFFFF p (bindPort s c w p) m) [] = ports
  exact ⟨rfl, otherCoresSame_setCore _ _ _, ports, State.setCore_core ..⟩

section
variable {c : CoreId} {w : BitVec 512} {s : State} (clocks : clocksRun s = true) (wanted : (s.core c).haltWanted = false)
  (runs : (s.core c).halted = false) (moving : (s.slot c).moving = false) (next : (s.core c).next = none)
  (halting : coreHalting s c = false)
include clocks wanted runs moving next halting

theorem exec_taskDispatch_bad (bad : recordOk c w = false) :
    exec (.taskDispatch c w) s = .next (deviceFault (coreSector c) 0 s) := by
  simp [exec_taskDispatch, execTaskDispatch, clocks, wanted, runs, moving, next, halting, bad]

theorem exec_taskDispatch_later (ok : recordOk c w = true) (later : nextRecord s c w = false) :
    exec (.taskDispatch c w) s = .next s := by
  simp [exec_taskDispatch, execTaskDispatch, clocks, wanted, runs, moving, next, halting, ok, later]

theorem exec_taskDispatch_stale (ok : recordOk c w = true) (sent : nextRecord s c w = true)
    (stale : Task.incarn w ≠ (s.slot c).incarn) :
    exec (.taskDispatch c w) s = .next (onStep c (fun st => { st with toDispatch := st.toDispatch.map (fun e =>
      if e = (c, w) then (c, withIncarn w (s.slot c).incarn) else e) }) s) := by
  simp [exec_taskDispatch, execTaskDispatch, clocks, wanted, runs, moving, next, halting, ok, sent, stale]

theorem exec_taskDispatch_fits (ok : recordOk c w = true) (sent : nextRecord s c w = true)
    (fresh : Task.incarn w = (s.slot c).incarn) :
    exec (.taskDispatch c w) s = .next (if (s.core c).task.isSome
      then (noteDispatch c w s).setCore c { s.core c with next := some w } else startTask c w (noteDispatch c w s)) := by
  simp only [exec_taskDispatch, execTaskDispatch, clocks, wanted, runs, moving, next, halting, ok, sent, fresh,
    Option.isSome_none, Bool.not_true, Bool.or_self, Bool.false_eq_true, ne_eq, not_true_eq_false, if_false]
  exact (apply_ite Host.Outcome.next ..).symm

end

theorem noteDispatch_startTask (c : CoreId) (w : BitVec 512) (s : State) :
    SameBytes s (startTask c w (noteDispatch c w s)) ∧ OtherCoresSame c s (startTask c w (noteDispatch c w s))
      ∧ Dispatched w (s.core c) ((startTask c w (noteDispatch c w s)).core c) := by
  have noted := onStep_rest c (fun st => { st with toDispatch := dropFirst c w st.toDispatch, running := st.running ++ [c] }) s
  have cores (d : CoreId) : (noteDispatch c w s).core d = s.core d := onStep_core ..
  obtain ⟨mem, others, ports, core⟩ := startTask_spec c w (noteDispatch c w s)
  refine ⟨fun a => ?_, fun d other => (others d other).trans (cores d), ?_⟩
  · rw [mem, noteDispatch, noted]
  · rw [core, cores]
    exact Core.dispatched_is ..

/-! ## Retirement -/

/-- What reporting a retired task keeps: memory, coupes, cores and the marks of open steps. -/
structure Reporting (s t : State) : Prop where
  marks : Marks s t
  cores : t.cores = s.cores

theorem Reporting.refl (s : State) : Reporting s s := ⟨.refl s, rfl⟩

theorem Reporting.trans {s t u : State} (h : Reporting s t) (g : Reporting t u) : Reporting s u :=
  ⟨h.marks.trans g.marks, g.cores.trans h.cores⟩

theorem Streams.reporting {s t : State} (h : Streams s t) : Reporting s t := ⟨h.marks, by rw [h.rest]⟩

theorem setStep_reporting {k : CoupeId} {st st' : Step} {s : State} (isOpen : (s.run k).openStep = some st)
    (same : st'.mark = st.mark) : Reporting s (setStep k st' s) := ⟨setStep_marks isOpen same, rfl⟩

theorem noteStatus_reporting (k status detail dkind s) : Reporting s (noteStatus k status detail dkind s) := by
  unfold noteStatus
  split
  · exact .refl s
  next st isOpen =>
    split
    · exact .refl s
    · exact setStep_reporting isOpen rfl

theorem raiseCore_reporting (kind record value c s) : Reporting s (raiseCore kind record value c s) := by
  unfold raiseCore
  split <;> exact ⟨⟨rfl, rfl, fun _ => rfl⟩, rfl⟩

theorem verdict_reporting (k c tag kind attempts row fail s) :
    Reporting s (verdict k c tag kind attempts row fail s) := by
  simp only [verdict]
  split
  · exact (raiseCore_reporting ..).trans (endStep_streams ..).reporting
  · exact raiseCore_reporting ..

theorem suspect_reporting (c cause s) : Reporting s (suspect c cause s) := by
  have slotted (x : Slot) : Reporting s (s.setSlot c x) := ⟨⟨rfl, rfl, fun _ => rfl⟩, rfl⟩
  simp only [suspect]
  split
  · exact (slotted _).trans (raiseCore_reporting ..)
  · exact slotted _

theorem drawFree_reporting (s) : Reporting s (drawFree s).2 := ⟨⟨rfl, rfl, fun _ => rfl⟩, rfl⟩

theorem checksumFlagged_reporting (k c x w pass row s) : Reporting s (checksumFlagged k c x w pass row s) := by
  unfold checksumFlagged
  split
  · exact .refl s
  next st isOpen =>
    split
    · exact verdict_reporting ..
    split
    · split
      · exact (verdict_reporting ..).trans (suspect_reporting ..)
      · dsimp only
        split
        · exact verdict_reporting ..
        · exact (drawFree_reporting s).trans (verdict_reporting ..)
    split
    · refine .trans ?_ (checkBoundary_streams ..).reporting
      exact setStep_reporting isOpen rfl
    · exact verdict_reporting ..

theorem progress_reporting (s c) : Reporting s (progress s c) := by
  refine ⟨?_, progress_cores s c⟩
  unfold progress
  split
  · exact .refl s
  · exact setRun_marks (by rfl)

/-- The flags of the column sums that a task left open change only its flags and its poisoned rows. -/
theorem closeSpans_only (x : Core) : x.closeSpans
    = { x with spanSums := [], flagged := x.closeSpans.flagged, accPoison := x.closeSpans.accPoison } := by
  have flags : ∀ y : Core, (x.spanSums.foldl (fun y o =>
      flagRow o.k o.nc o.pass o.accRow 0 o.sum (F32.add o.check o.start) (F32.add o.mag o.startMag) y) y)
      = { y with
        flagged := (x.spanSums.foldl (fun y o =>
          flagRow o.k o.nc o.pass o.accRow 0 o.sum (F32.add o.check o.start) (F32.add o.mag o.startMag) y) y).flagged
        accPoison := (x.spanSums.foldl (fun y o =>
          flagRow o.k o.nc o.pass o.accRow 0 o.sum (F32.add o.check o.start) (F32.add o.mag o.startMag) y) y).accPoison } :=
    foldl_related (R := fun y z : Core => z = { y with flagged := z.flagged, accPoison := z.accPoison }) (fun _ => rfl)
      (fun h g => by rw [g, h]) _ (fun y o => by rw [flagRow]; split <;> rfl) x.spanSums
  exact flags { x with spanSums := [] }

/-- Core `x` once its task has retired (R58). -/
def Core.retired (x : Core) : Core :=
  { x.closeSpans with task := none, phase := .idle, stall := .idle, stallSince := 0 }

theorem Core.retired_next (x : Core) : x.retired.next = x.next ∧ x.retired.haltWanted = x.haltWanted := by
  rw [Core.retired, closeSpans_only]
  exact ⟨rfl, rfl⟩

/-- The state once core `c` has given its totals and its report, before its status is noted (R34, R58). -/
def reported (c : CoreId) (w : BitVec 512) (s : State) : State :=
  let x := (s.core c).closeSpans
  onStep c (fun st => { st with
    running := dropRunning c st.running, layerTasks := dropLayer c st.layerTasks, reports := st.reports ++ [retireReport c x w] })
    (addTotals c x (s.setCore c (s.core c).retired))

/-- The status and the flagged checksum of a reported task, noted of its step. -/
def statusNoted (c : CoreId) (w : BitVec 512) (x : Core) (s : State) : State :=
  match coupeOf s c with
  | none => s
  | some k =>
    let t := if x.exc = .done then s
      else noteStatus k (exceptionStatus c x w).1 (exceptionStatus c x w).2.2 (exceptionStatus c x w).2.1 s
    match lowestFlag x.flagged with
    | none => t
    | some (pass, row) => checksumFlagged k c x w pass row t

/-- The boundary of the step of core `c`'s coupe, looked for. -/
def boundaryLooked (c : CoreId) (s : State) : State :=
  match coupeOf s c with
  | none => s
  | some k => checkBoundary k s

theorem retireTask_eq (c : CoreId) (w : BitVec 512) (s : State) : retireTask c w s = boundaryLooked c
    (progress (startNext c (statusNoted c w (s.core c).closeSpans (reported c w s))) c) := by
  have same : reported c w s = onStep c (fun st => { st with
      running := dropRunning c st.running, layerTasks := dropLayer c st.layerTasks
      reports := st.reports ++ [retireReport c (s.core c).closeSpans w] })
      (addTotals c (s.core c).closeSpans (s.setCore c { (s.core c).closeSpans with
        task := none, phase := .idle, stall := .idle, stallSince := 0 })) := rfl
  simp only [retireTask]
  rw [← same]
  generalize reported c w s = u
  generalize (s.core c).closeSpans = x
  rfl

theorem statusNoted_reporting (c w x s) : Reporting s (statusNoted c w x s) := by
  simp only [statusNoted]
  split
  · exact .refl s
  next k _ =>
    have noted : Reporting s (if x.exc = .done then s else noteStatus k (exceptionStatus c x w).1
        (exceptionStatus c x w).2.2 (exceptionStatus c x w).2.1 s) := by
      split
      · exact .refl s
      · exact noteStatus_reporting ..
    split
    · exact noted
    · exact noted.trans (checksumFlagged_reporting ..)

theorem boundaryLooked_reporting (c s) : Reporting s (boundaryLooked c s) := by
  unfold boundaryLooked
  split
  · exact .refl s
  · exact (checkBoundary_streams ..).reporting

/-- After its report a task's status is noted, the core goes on, and the step's boundary is looked for. -/
theorem retireTask_reports (c : CoreId) (w : BitVec 512) (s : State) :
    ∃ u, Reporting (reported c w s) u ∧ Reporting (startNext c u) (retireTask c w s) :=
  ⟨statusNoted c w (s.core c).closeSpans (reported c w s), statusNoted_reporting .., by
    rw [retireTask_eq]
    exact (progress_reporting ..).trans (boundaryLooked_reporting ..)⟩

theorem addTotals_rest (c x s) : (addTotals c x s).mem = s.mem ∧ (addTotals c x s).cores = s.cores := by
  unfold addTotals
  split
  · exact ⟨rfl, rfl⟩
  · split <;> exact ⟨rfl, rfl⟩

theorem reported_core (c w s) : (reported c w s).mem = s.mem ∧ (reported c w s).core c = (s.core c).retired
    ∧ OtherCoresSame c s (reported c w s) := by
  obtain ⟨mem, cores⟩ := addTotals_rest c (s.core c).closeSpans (s.setCore c (s.core c).retired)
  refine ⟨?_, ?_, fun d other => ?_⟩
  · rw [reported, onStep_rest]
    exact mem
  · rw [reported, onStep_core, core_of_cores cores, State.setCore_core]
  · rw [reported, onStep_core, core_of_cores cores, State.setCore_core_other _ _ _ _ other]

section
variable {c : CoreId} {k : CoupeId} {s : State} (of_ : coupeOf s c = some k)
include of_

theorem reported_open {st : Step} (isOpen : (s.run k).openStep = some st) (w : BitVec 512) :
    ∃ st', ((reported c w s).run k).openStep = some st'
      ∧ st'.reports = st.reports ++ [retireReport c (s.core c).closeSpans w] := by
  have still (x : Core) : coupeOf (s.setCore c x) c = some k := of_
  have added : addTotals c (s.core c).closeSpans (s.setCore c (s.core c).retired)
      = setStep k { st with totals := st.totals.add (s.core c).closeSpans } (s.setCore c (s.core c).retired) := by
    have same : ((s.setCore c (s.core c).retired).run k).openStep = some st := isOpen
    simp only [addTotals, still, same]
  rw [reported, added]
  have counted : ((setStep k { st with totals := st.totals.add (s.core c).closeSpans }
      (s.setCore c (s.core c).retired)).run k).openStep = some { st with totals := st.totals.add (s.core c).closeSpans } := by
    rw [setStep, State.setRun_run]
  exact ⟨_, onStep_open _ of_ counted, rfl⟩

theorem reported_totals (closed : (s.run k).openStep = none) (w : BitVec 512) :
    ((reported c w s).coupe k).totals = (s.coupe k).totals.add (s.core c).closeSpans := by
  have still (x : Core) : coupeOf (s.setCore c x) c = some k := of_
  have added : addTotals c (s.core c).closeSpans (s.setCore c (s.core c).retired)
      = (s.setCore c (s.core c).retired).setCoupe k { s.coupe k with
          totals := (s.coupe k).totals.add (s.core c).closeSpans } := by
    have same : ((s.setCore c (s.core c).retired).run k).openStep = none := closed
    simp only [addTotals, still, same]
    rfl
  rw [reported, coupe_of_dur (s := addTotals c (s.core c).closeSpans (s.setCore c (s.core c).retired))
    (by rw [onStep_rest]), added, State.setCoupe_coupe]

end

theorem startNext_others (c s) : OtherCoresSame c s (startNext c s) := by
  simp only [startNext]
  split
  · split
    · exact fun _ _ => rfl
    · exact (otherCoresSame_setCore _ _ _).trans (startTask_spec ..).2.1
  · exact fun _ _ => rfl

theorem startNext_idle {c : CoreId} {s : State} (h : (s.core c).next = none ∨ (s.core c).haltWanted = true) :
    startNext c s = s := by
  simp only [startNext]
  split
  next w some_ => exact if_pos (h.resolve_left (by rw [some_]; exact Option.some_ne_none w))
  · rfl

theorem startNext_starts {c : CoreId} {n : BitVec 512} {s : State} (next : (s.core c).next = some n)
    (goes : (s.core c).haltWanted = false) :
    ((startNext c s).core c).task = some n ∧ ((startNext c s).core c).next = none ∧ ((startNext c s).core c).phase = .run
      ∧ ((startNext c s).core c).pc = BitVec.ofNat 21 (bits n 321 301) := by
  obtain ⟨-, -, ports, core⟩ := startTask_spec c n (s.setCore c { s.core c with next := none })
  have started : startNext c s = startTask c n (s.setCore c { s.core c with next := none }) := by
    simp only [startNext, next, goes, Bool.false_eq_true, if_false]
  rw [started, core, State.setCore_core]
  exact ⟨rfl, rfl, rfl, rfl⟩

theorem startNext_reports (c s) : Marks s (startNext c s) := by
  have placed := startNext_placed c s
  refine ⟨(startNext_flow c s).mem, by rw [(startNext_flow c s).dur], fun k => ?_⟩
  rw [placed.run]

/-- The retirement of a task, of the core and the coupe as they were (R34, R57–R59). -/
theorem retireTask_spec (c : CoreId) (w : BitVec 512) (s : State) :
    let x := s.core c
    let t := retireTask c w s
    SameBytes s t ∧ OtherCoresSame c s t
      ∧ (x.next = none ∨ x.haltWanted = true → t.core c = x.retired)
      ∧ (∀ n, x.next = some n → x.haltWanted = false → (t.core c).task = some n ∧ (t.core c).next = none
          ∧ (t.core c).phase = .run ∧ (t.core c).pc = BitVec.ofNat 21 (bits n 321 301))
      ∧ (∀ k st, coupeOf s c = some k → (s.run k).openStep = some st →
          ∃ st', (t.run k).openStep = some st' ∧ st'.reports = st.reports ++ [retireReport c x.closeSpans w])
      ∧ (∀ k, coupeOf s c = some k → (s.run k).openStep = none →
          (t.coupe k).totals = (s.coupe k).totals.add x.closeSpans) := by
  intro x t
  obtain ⟨u, first, last⟩ := retireTask_reports c w s
  obtain ⟨mem, core, others⟩ := reported_core c w s
  have uCore : u.core c = x.retired := (core_of_cores first.cores c).trans core
  have next : (u.core c).next = x.next ∧ (u.core c).haltWanted = x.haltWanted := by
    rw [uCore]
    exact x.retired_next
  have marks := (first.marks.trans (startNext_reports c u)).trans last.marks
  refine ⟨fun a => by rw [marks.mem, mem], ?_, fun h => ?_, fun n some_ goes => ?_, fun k st of_ isOpen => ?_,
    fun k of_ closed => ?_⟩
  · exact ((others.trans fun d _ => core_of_cores first.cores d).trans (startNext_others c u)).trans
      fun d _ => core_of_cores last.cores d
  · rw [core_of_cores last.cores, startNext_idle (by rw [next.1, next.2]; exact h), uCore]
  · have starts_ := startNext_starts (next.1.trans some_) (next.2.trans goes)
    rw [core_of_cores last.cores]
    exact starts_
  · obtain ⟨st', opened, reports⟩ := reported_open of_ isOpen w
    have mark := marks.mark k
    rw [opened, Option.map_some] at mark
    obtain ⟨st'', opened'', same⟩ := Option.map_eq_some_iff.1 mark
    simp only [Step.mark, Prod.mk.injEq] at same
    exact ⟨st'', opened'', by rw [← reports]; exact same.2.2.2.2.2⟩
  · have same : t.coupe k = (reported c w s).coupe k := by rw [State.coupe, State.coupe, marks.coupes]
    rw [same, reported_totals of_ closed]

theorem Totals.add_closeSpans (t : Totals) (x : Core) : (t.add x.closeSpans).qsat = t.qsat + x.qsat.setWidth 64
    ∧ (t.add x.closeSpans).kovf = t.kovf + x.kovf.setWidth 64 ∧ (t.add x.closeSpans).nanp = t.nanp + x.nanp.setWidth 64 := by
  rw [closeSpans_only]
  exact ⟨rfl, rfl, rfl⟩

section
variable {c : CoreId} {w : BitVec 512} {s : State} (task : (s.core c).task = some w)
include task

theorem exec_taskRetire_issued (issued : (s.core c).queue ≠ []) : exec (.taskRetire c) s = .next s := by
  have waits : (!(s.core c).queue.isEmpty) = true := by simpa using issued
  simp only [exec_taskRetire, execTaskRetire, task, waits, if_true]

theorem exec_taskRetire_retire (done : (s.core c).queue = []) (phase : (s.core c).phase = .retire) :
    exec (.taskRetire c) s = .next (retireTask c w s) := by
  simp [exec_taskRetire, execTaskRetire, task, done, phase]

theorem exec_taskRetire_drain (done : (s.core c).queue = []) (phase : (s.core c).phase = .drain) :
    exec (.taskRetire c) s = .next (if (writeOut c s).1 && ((writeOut c s).2.core c).drained
      then retireTask c w (writeOut c s).2 else (writeOut c s).2) := by
  have running : (!(s.core c).queue.isEmpty) = false := by rw [done]; rfl
  simp only [exec_taskRetire, execTaskRetire, task, running, phase, Bool.false_eq_true, if_false, if_true, reduceCtorEq]
  exact (apply_ite Host.Outcome.next ..).symm

theorem exec_taskRetire_drained (done : (s.core c).queue = []) (phase : (s.core c).phase = .drain)
    (drained : (s.core c).drained = true) (written : (s.core c).qout = none) :
    exec (.taskRetire c) s = .next (retireTask c w s) := by
  have out : writeOut c s = (true, s) := by simp only [writeOut, written]
  rw [exec_taskRetire_drain task done phase, out]
  simp only [drained, Bool.and_self, if_true]

end

/-- Settles O18: a dispatched record starts through the core's clearing or waits as the next; a task that retires gives its
totals and its report before its status and the step's boundary are looked at, which keep cores, reports and totals. -/
theorem tasksStartAndRetire : Obligations.TasksStartAndRetire := by
  unfold Obligations.TasksStartAndRetire
  refine ⟨fun c w s => ?_, fun c w s => ?_⟩
  · intro x clocks wanted runs moving next halting
    refine ⟨fun ok sent fresh => ?_, fun ok later => ?_, fun ok sent stale => ?_, fun bad => ?_⟩
    · have fits := exec_taskDispatch_fits clocks wanted runs moving next halting ok sent fresh
      obtain free | ⟨v, free⟩ := Option.eq_none_or_eq_some x.task
      · obtain ⟨mem, others, is⟩ := noteDispatch_startTask c w s
        have idle : (s.core c).task.isSome = false := by rw [free]; rfl
        rw [idle, if_neg Bool.false_ne_true] at fits
        exact ⟨_, fits, mem, others, fun _ => is, fun busy => absurd free busy⟩
      · have busy : (s.core c).task.isSome = true := by rw [← Option.isSome_some (a := v), ← free]
        rw [busy, if_pos rfl] at fits
        have noted := onStep_rest c (fun st => { st with
          toDispatch := dropFirst c w st.toDispatch, running := st.running ++ [c] }) s
        refine ⟨_, fits, fun a => ?_, fun d other => ?_, fun idle => (Option.some_ne_none v (free.symm.trans idle)).elim,
          fun _ => State.setCore_core ..⟩
        · show Memory.byte a (noteDispatch c w s).mem = Memory.byte a s.mem
          rw [noteDispatch, noted]
        · rw [State.setCore_core_other _ _ _ _ other]
          exact onStep_core ..
    · exact exec_taskDispatch_later clocks wanted runs moving next halting ok later
    · refine ⟨_, exec_taskDispatch_stale clocks wanted runs moving next halting ok sent stale, fun a => ?_, ?_,
        fun k st of_ isOpen => onStep_open _ of_ isOpen⟩
      · rw [onStep_rest]
      · rw [onStep_rest]
    · refine ⟨_, exec_taskDispatch_bad clocks wanted runs moving next halting bad, ?_⟩
      rcases deviceFault_clearedOrSame (coreSector c) 0 s c with same | cleared
      · rw [same]
        exact ⟨next, .inl rfl⟩
      · rw [cleared]
        exact ⟨rfl, .inr rfl⟩
  · intro x task
    refine ⟨fun done phase => ?_, exec_taskRetire_issued task, fun done phase unwritten => ?_⟩
    · have retires : exec (.taskRetire c) s = .next (retireTask c w s) := by
        rcases phase with ⟨phase, drained, written⟩ | phase
        · exact exec_taskRetire_drained task done phase drained written
        · exact exec_taskRetire_retire task done phase
      obtain ⟨mem, others, idle, goes, reports, totals⟩ := retireTask_spec c w s
      refine ⟨_, retires, mem, others, idle, goes, reports, fun k of_ closed => ?_⟩
      rw [totals k of_ closed]
      exact Totals.add_closeSpans ..
    · have held : ((writeOut c s).1 && ((writeOut c s).2.core c).drained) = false := by
        rcases unwritten with h | h <;> rw [h]
        · rfl
        · exact Bool.and_false _
      rw [exec_taskRetire_drain task done phase, held]
      rfl

end Sys2Proof.Machine
end

section
/-! PROOFS. Starved requests, dead cores, the scrubber and the memory patrol (R66, R99, R101, R102, R116, R191, R370). -/

namespace Sys2Proof.Machine

/-! ## A starved request -/

/-- Core `x` once an instruction is charged with a conflict that starved a request (R99–R102). -/
def Core.charged (x : Core) (record : BitVec 64) (seq : Nat) : Core :=
  { x with
    conflictRec := record, queue := x.queue.filter (fun o => o.seq < seq)
    phase := .retire, exc := .conflict, stall := .other, stallSince := 0 }

theorem chargeConflict_core (c : CoreId) (cause row gap : Nat) (pc : BitVec 21) (seq : Nat) (s : State) :
    OtherCoresSame c s (chargeConflict c c cause row gap pc seq s)
      ∧ chargeConflict c c cause row gap pc seq s = { s with cores := (chargeConflict c c cause row gap pc seq s).cores }
      ∧ (chargeConflict c c cause row gap pc seq s).core c
        = (s.core c).charged (conflictRecord c cause row (pc.toNat / 64) (pc.toNat % 64) gap) seq := by
  refine ⟨fun d other => ?_, rfl, ?_⟩
  · rw [chargeConflict, takeExc, State.setCore_core_other _ _ _ _ other, State.setCore_core_other _ _ _ _ other]
  · rw [chargeConflict, takeExc, State.setCore_core, State.setCore_core]
    rfl

theorem countCycles_counter (k : Stall) (n : Nat) (x : Core) (nonzero : k.index ≠ 0) (i : Nat) :
    (countCycles k n x).counters.get 0 i = x.counters.get 0 i + if i = 0 ∨ i = k.index then BitVec.ofNat 48 n else 0 := by
  simp only [countCycles, Sparse.get_set]
  by_cases own : i = k.index
  · rw [if_pos own, if_neg nonzero, if_pos (.inr own), own]
  · by_cases total : i = 0
    · rw [if_neg own, if_pos total, if_pos (.inl total), total]
    · rw [if_neg own, if_neg total, if_neg (not_or.2 ⟨total, own⟩)]
      exact (BitVec.add_zero _).symm

section
variable {c : CoreId} {s : State} (task : (s.core c).task.isSome = true) (phase : (s.core c).phase = .run)
  (runs : (s.core c).halted = false)
include task phase runs

theorem execBenchStarvation_starves : ((s.core c).task.isSome && decide ((s.core c).phase = .run) && !(s.core c).halted) = true := by
  rw [task, phase, runs]
  rfl

theorem exec_benchStarvation_local (row : BitVec 15) : exec (.benchStarvation c row .localRequest) s
    = .next (chargeConflict c c 1 row.toNat 0 (s.core c).firstIssued.1 (s.core c).firstIssued.2
        (s.setCore c (countCycles .narrow 1024 (s.core c)))) :=
  if_pos (execBenchStarvation_starves task phase runs)

theorem exec_benchStarvation_other {row : BitVec 15} {pc : BitVec 21} {seq : Nat}
    (wide : (s.core c).lastWide.get none (row.toNat % 32) = some (pc, seq)) :
    exec (.benchStarvation c row .otherRequest) s = .next (chargeConflict c c 2 row.toNat 0 pc seq s) := by
  refine (if_pos (execBenchStarvation_starves task phase runs)).trans ?_
  simp only [wide]

theorem exec_benchStarvation_unknown {row : BitVec 15} (wide : (s.core c).lastWide.get none (row.toNat % 32) = none) :
    exec (.benchStarvation c row .otherRequest) s = .next s := by
  refine (if_pos (execBenchStarvation_starves task phase runs)).trans ?_
  simp only [wide]

theorem exec_benchStarvation_scrubber (row : BitVec 15) : exec (.benchStarvation c row .scrubber) s = .next s :=
  if_pos (execBenchStarvation_starves task phase runs)

end

theorem nextIncarn_eq (n : BitVec 16) : nextIncarn n = if n = 0xFFFF then 1 else n + 1 := rfl

/-! ## The scrubber -/

/-- Row `r` of core `c` is mended, or found bad: of the cores only the records of `c`'s bench differ. -/
structure Mends (c : CoreId) (s t : State) : Prop where
  mem : t.mem = s.mem
  others : OtherCoresSame c s t
  work : (t.core c).g = (s.core c).g ∧ (t.core c).pc = (s.core c).pc ∧ (t.core c).task = (s.core c).task

theorem Mends.refl (c : CoreId) (s : State) : Mends c s s := ⟨rfl, fun _ _ => rfl, rfl, rfl, rfl⟩

theorem Mends.trans {c : CoreId} {s t u : State} (h : Mends c s t) (g : Mends c t u) : Mends c s u := by
  obtain ⟨g1, pc1, task1⟩ := h.work
  obtain ⟨g2, pc2, task2⟩ := g.work
  exact ⟨g.mem.trans h.mem, h.others.trans g.others, g2.trans g1, pc2.trans pc1, task2.trans task1⟩

theorem Mends.of_core {c : CoreId} {s t : State} {y : Core} (mem : t.mem = s.mem) (cores : t.cores = (s.setCore c y).cores)
    (work : y.g = (s.core c).g ∧ y.pc = (s.core c).pc ∧ y.task = (s.core c).task) : Mends c s t := by
  refine ⟨mem, fun d other => ?_, ?_⟩
  · rw [core_of_cores cores, State.setCore_core_other _ _ _ _ other]
  · rw [core_of_cores cores, State.setCore_core]
    exact work

theorem Mends.of_cores {c : CoreId} {s t : State} (mem : t.mem = s.mem) (cores : t.cores = s.cores) : Mends c s t := by
  refine ⟨mem, fun d _ => core_of_cores cores d, ?_⟩
  rw [core_of_cores cores]
  exact ⟨rfl, rfl, rfl⟩

theorem readBench_mends (c : CoreId) (r src : Nat) (s : State) : Mends c s (readBench c r src s).2 := by
  have read := readBench_read c r src s
  obtain ⟨l, core⟩ := read.core
  refine ⟨by rw [read.rest], read.others, ?_⟩
  rw [core]
  exact ⟨rfl, rfl, rfl⟩

theorem raiseCore_mends (c : CoreId) (kind record value d s) : Mends c s (raiseCore kind record value d s) :=
  .of_cores (ground_mem (raiseCore_ground ..)) (raiseCore_cores ..)

theorem suspect_mends (c cause s) : Mends c s (suspect c cause s) := by
  have reporting := suspect_reporting c cause s
  exact .of_cores reporting.marks.mem reporting.cores

/-- Row `r` of core `c`'s bench on a spare line. -/
def spared (c : CoreId) (r : Nat) (s : State) : State :=
  let x := s.core c
  { s with rowErrors := s.rowErrors.set RowError.none (benchAddr c r) RowError.none }.setCore c
    { x with spareLines := x.spareLines.set 0 (r % 32) (x.spareLines.get 0 (r % 32) + 1) }

theorem spared_mends (c r s) : Mends c s (spared c r s) := .of_core (y := _) rfl rfl ⟨rfl, rfl, rfl⟩

theorem repairRow_mends (c r s) : Mends c s (repairRow c r s) := by
  simp only [repairRow]
  split
  · exact .trans (spared_mends c r s) (raiseCore_mends ..)
  · exact suspect_mends ..

/-- The correctable errors stored of row `r` of core `c`'s bench. -/
def storedCe (c : CoreId) (r : Nat) (s : State) : List (Nat × Nat) := (s.rowErrors.get RowError.none (benchAddr c r)).ce

theorem raiseCore_storedCe (c r kind record value d s) : storedCe c r (raiseCore kind record value d s) = storedCe c r s := by
  have same : (raiseCore kind record value d s).rowErrors = s.rowErrors := by
    unfold raiseCore
    split <;> rfl
  rw [storedCe, same, storedCe]

theorem suspect_storedCe (c r d cause s) : storedCe c r (suspect d cause s) = storedCe c r s := by
  simp only [suspect]
  split
  · exact raiseCore_storedCe ..
  · rfl

theorem repairRow_storedCe {c : CoreId} {r : Nat} {s : State} (none_ : storedCe c r s = []) :
    storedCe c r (repairRow c r s) = [] := by
  simp only [repairRow]
  split
  · rw [raiseCore_storedCe]
    simp only [storedCe, State.setCore, Sparse.get_set, if_true, RowError.none]
  · rw [suspect_storedCe, none_]

theorem scrubCorrected_mends (c r s) : Mends c s (scrubCorrected c r s) := by
  simp only [scrubCorrected]
  split
  · refine .trans (.of_core (y := { s.core c with scrubCE := (s.core c).scrubCE.filter (· ≠ r) }) ?_ ?_ ⟨rfl, rfl, rfl⟩)
      (repairRow_mends ..)
    · rfl
    · rfl
  · exact .of_core (y := { s.core c with scrubCE := (s.core c).scrubCE ++ [r] }) rfl rfl ⟨rfl, rfl, rfl⟩

theorem scrubCorrected_storedCe (c r s) : storedCe c r (scrubCorrected c r s) = [] := by
  simp only [scrubCorrected]
  split
  · refine repairRow_storedCe ?_
    simp only [storedCe, State.setCore, Sparse.get_set, if_true]
  · simp only [storedCe, State.setCore, Sparse.get_set, if_true]

theorem readBench_storedCe {c : CoreId} {r : Nat} {s : State} (src : Nat)
    (sound : (s.rowErrors.get RowError.none (benchAddr c r)).ue = none) :
    storedCe c r (readBench c r src s).2 = storedCe c r s := by
  simp only [readBench, sound]
  split
  next w at_ => exact nomatch at_
  · simp only [storedCe, State.setCore, Sparse.get_set, if_true]
  · rfl
  · rfl

/-- Row `r` of core `c` as the scrubber leaves it. -/
def scrubbed (c : CoreId) (r : Nat) (s : State) : State :=
  let e := s.rowErrors.get RowError.none (benchAddr c r)
  let s1 := (readBench c r 3 s).2
  if e.ue.isSome then repairRow c r s1
  else if !e.ce.isEmpty then scrubCorrected c r s1
  else s1.setCore c { s1.core c with scrubCE := (s1.core c).scrubCE.filter (· ≠ r) }

theorem scrubbed_mends (c r s) : Mends c s (scrubbed c r s) := by
  have read := readBench_mends c r 3 s
  simp only [scrubbed]
  split
  · exact read.trans (repairRow_mends ..)
  · split
    · exact read.trans (scrubCorrected_mends ..)
    · exact read.trans (.of_core rfl rfl ⟨rfl, rfl, rfl⟩)

theorem scrubbed_storedCe {c : CoreId} {r : Nat} {s : State}
    (sound : (s.rowErrors.get RowError.none (benchAddr c r)).ue = none) : storedCe c r (scrubbed c r s) = [] := by
  have read := readBench_storedCe 3 sound
  simp only [scrubbed, sound, Option.isSome_none, Bool.false_eq_true, if_false]
  split
  · exact scrubCorrected_storedCe ..
  next clean =>
    have none_ : storedCe c r s = [] := by simpa [storedCe] using clean
    exact read.trans none_

theorem exec_scrubRow_scrubs {c : CoreId} {s : State} (awake : (s.stand (coreStand c)).asleep = false) :
    exec (.scrubRow c) s = .next ((scrubbed c (s.core c).scrub.toNat s).setCore c
      { (scrubbed c (s.core c).scrub.toNat s).core c with
        scrub := BitVec.ofNat 15 (((s.core c).scrub.toNat + 1) % 30720) }) :=
  if_neg (by rw [awake]; exact Bool.false_ne_true)

/-! ## The memory patrol -/

/-- A patrolled granule: it holds no stored error, every other granule as before; its bytes change only by its copy. -/
structure PatrolsGranule (a : Nat) (s t : State) : Prop where
  cores : t.cores = s.cores
  clean : t.granuleErrors.get .none a = .none
  others : ∀ b, b ≠ a → t.granuleErrors.get .none b = s.granuleErrors.get .none b
  bytes : leaseSource s a = none → t.mem = s.mem

theorem logTier_rest (a kind symbol s) : (logTier a kind symbol s).cores = s.cores
    ∧ (logTier a kind symbol s).granuleErrors = s.granuleErrors ∧ (logTier a kind symbol s).mem = s.mem := by
  simp only [logTier]
  split <;> exact ⟨rfl, rfl, rfl⟩

theorem patrols_of_cleared {a : Nat} {s t : State} (cores : t.cores = s.cores)
    (errors : t.granuleErrors = s.granuleErrors.set .none a .none) (bytes : leaseSource s a = none → t.mem = s.mem) :
    PatrolsGranule a s t := by
  refine ⟨cores, ?_, fun b other => ?_, bytes⟩
  · rw [errors, Sparse.get_set, if_pos rfl]
  · rw [errors, Sparse.get_set, if_neg other]

theorem foundBad_patrols (a s) : PatrolsGranule a s (foundBad a s) := by
  obtain ⟨cores, errors, mem⟩ := logTier_rest a 1 0x3F { s with granuleErrors := s.granuleErrors.set .none a .none }
  simp only [foundBad]
  generalize logTier a 1 0x3F { s with granuleErrors := s.granuleErrors.set .none a .none } = u at cores errors mem ⊢
  split
  next src at_ => exact patrols_of_cleared cores errors fun none_ => by rw [none_] at at_; exact nomatch at_
  · split
    · exact patrols_of_cleared cores errors fun _ => mem
    · exact patrols_of_cleared cores errors fun _ => mem

theorem patrolGranule_patrols (a s) : PatrolsGranule a s (patrolGranule a s) := by
  unfold patrolGranule
  split
  next none_ => exact ⟨rfl, none_, fun _ _ => rfl, fun _ => rfl⟩
  next sym _ =>
    obtain ⟨cores, errors, mem⟩ := logTier_rest a 0 sym.toNat { s with granuleErrors := s.granuleErrors.set .none a .none }
    exact patrols_of_cleared cores errors fun _ => mem
  · exact foundBad_patrols a s

theorem exec_memoryPatrol_deck {u : Fin 24} (h : u.val < 8) {s : State} (on_ : (s.stack ⟨u.val, h⟩).state = .on) :
    exec (.memoryPatrol u) s = .next
      ((patrolGranule (stackBase u.val + 64 * (s.stack ⟨u.val, h⟩).patrol) s).setStack ⟨u.val, h⟩
        { (patrolGranule (stackBase u.val + 64 * (s.stack ⟨u.val, h⟩).patrol) s).stack ⟨u.val, h⟩ with
          patrol := ((s.stack ⟨u.val, h⟩).patrol + 1) % (stackSize / 64) }) := by
  refine (dif_pos h).trans ?_
  exact if_pos on_

/-- Settles O20: a starved request ends its core's task as a conflict; a core's retirement is the layer's; the scrubber's
and the patrol's reads leave no stored error. -/
theorem theBenchIsKept : Obligations.TheBenchIsKept := by
  unfold Obligations.TheBenchIsKept
  refine ⟨⟨fun c row s => ?_, fun c s => ?_⟩, fun c s awake => ?_, fun u h s on_ => ?_⟩
  · intro x task phase runs charged
    refine ⟨?_, fun pc seq wide => ?_, fun wide => exec_benchStarvation_unknown task phase runs wide,
      exec_benchStarvation_scrubber task phase runs row⟩
    · obtain ⟨others, rest, core⟩ := chargeConflict_core c 1 row.toNat 0 x.firstIssued.1 x.firstIssued.2
        (s.setCore c (countCycles .narrow 1024 x))
      rw [State.setCore_core] at core
      refine ⟨_, exec_benchStarvation_local task phase runs row, (otherCoresSame_setCore _ _ _).trans others, rest, ?_⟩
      rw [core]
      refine ⟨rfl, rfl, rfl, rfl, rfl, rfl, rfl, rfl, fun i => ?_⟩
      refine (countCycles_counter .narrow 1024 x (by decide) i).trans ?_
      simp only [true_and]
      rfl
    · obtain ⟨others, rest, core⟩ := chargeConflict_core c 2 row.toNat 0 pc seq s
      refine ⟨_, exec_benchStarvation_other task phase runs wide, others, rest, ?_⟩
      rw [core]
      refine ⟨rfl, rfl, rfl, rfl, rfl, rfl, rfl, rfl, fun i => ?_⟩
      simp [Core.charged]
      rfl
  · intro g old left
    obtain ⟨mem, incarn, retired, replaces, fails, others⟩ := retireCore_spec c s
    refine ⟨retireCore c s, rfl, fun a => by rw [mem], incarn, retired, fun p rest some_ => ?_, fun none_ => ?_, others⟩
    · obtain ⟨slot, core⟩ := replaces p rest some_
      rw [slot]
      exact ⟨rfl, rfl, rfl, rfl, core⟩
    · obtain ⟨slot, out⟩ := fails none_
      rw [slot]
      exact ⟨rfl, out⟩
  · intro r e
    have mends := scrubbed_mends c r s
    obtain ⟨g, pc, task⟩ := mends.work
    refine ⟨_, exec_scrubRow_scrubs awake, fun a => ?_, mends.others.trans (otherCoresSame_setCore _ _ _), ?_,
      fun sound => scrubbed_storedCe sound, ?_⟩
    · rw [State.setCore_mem, mends.mem]
    · rw [State.setCore_core, BitVec.toNat_ofNat]
      exact Nat.mod_eq_of_lt (Nat.lt_trans (Nat.mod_lt _ (by decide)) (by decide))
    · rw [State.setCore_core]
      exact ⟨g, pc, task⟩
  · intro p a _
    have patrols := patrolGranule_patrols a s
    refine ⟨_, exec_memoryPatrol_deck h on_, patrols.cores, ?_, patrols.clean, patrols.others, fun none_ b => ?_⟩
    · rw [State.setStack_stack]
    · rw [State.setStack_mem, patrols.bytes none_]

end Sys2Proof.Machine
end

section
/-! PROOFS. Remote replies, window writes and their acknowledgements (R78, R85, R89, R109, R129). -/

namespace Sys2Proof.Machine

theorem writeBench_row (c : CoreId) (r : Nat) (d : Row) (p : Bool) (s : State) :
    Memory.row (benchAddr c r) (writeBench c r d p s).mem = d := Memory.row_writeRow_same ..

theorem writeBench_outside (c : CoreId) (r : Nat) (d : Row) (p : Bool) (s : State) (a : Nat)
    (h : a < benchAddr c r ∨ benchAddr c (r + 1) ≤ a) :
    Memory.byte a (writeBench c r d p s).mem = Memory.byte a s.mem :=
  (writeBench_stored c r d p s).byte a h

/-! ## Replies to remote reads -/

/-- A register moved on by `v` (R85). -/
def Core.movedOn (x : Core) (r : BitVec 5) (v : BitVec 64) : Core := x.wr r.toNat (x.rd r.toNat + v) (x.rdP r.toNat)

theorem Core.movedOn_rd (x : Core) (r : BitVec 5) (v : BitVec 64) (i : Nat) :
    (x.movedOn r v).rd i = if i = 0 then 0 else if i = r.toNat then x.rd i + v else x.rd i := by
  rw [Core.movedOn, Core.wr_rd]
  by_cases zero : i = 0
  · simp [zero, Core.rd]
  · by_cases own : i = r.toNat
    · rw [if_pos ⟨own, zero⟩, if_neg zero, if_pos own, own]
    · rw [if_neg fun h => own h.1, if_neg zero, if_neg own]

theorem Core.movedOn_rest (x : Core) (r : BitVec 5) (v : BitVec 64) : (x.movedOn r v).reads = x.reads
    ∧ (x.movedOn r v).pc = x.pc ∧ (x.movedOn r v).v = x.v ∧ (x.movedOn r v).queue = x.queue := by
  rw [Core.movedOn, Core.wr]
  split <;> exact ⟨rfl, rfl, rfl, rfl⟩

/-- Core `x` once the reply to its oldest read has come: the registers of RREAD go one row on (R78, R85). -/
def Core.replied (x : Core) (rr : RemoteRead) (more : List RemoteRead) : Core :=
  (({ x with reads := more }.movedOn rr.dReg 1).movedOn rr.aReg 1).movedOn rr.bReg (-1)

theorem Core.replied_rest (x : Core) (rr : RemoteRead) (more : List RemoteRead) : (x.replied rr more).reads = more
    ∧ (x.replied rr more).pc = x.pc ∧ (x.replied rr more).v = x.v ∧ (x.replied rr more).queue = x.queue := by
  obtain ⟨reads1, pc1, v1, queue1⟩ := { x with reads := more }.movedOn_rest rr.dReg 1
  obtain ⟨reads2, pc2, v2, queue2⟩ := ({ x with reads := more }.movedOn rr.dReg 1).movedOn_rest rr.aReg 1
  obtain ⟨reads3, pc3, v3, queue3⟩ :=
    (({ x with reads := more }.movedOn rr.dReg 1).movedOn rr.aReg 1).movedOn_rest rr.bReg (-1)
  exact ⟨(reads3.trans reads2).trans reads1, (pc3.trans pc2).trans pc1, (v3.trans v2).trans v1,
    (queue3.trans queue2).trans queue1⟩

theorem Core.replied_rd (x : Core) (rr : RemoteRead) (more : List RemoteRead) (da : rr.dReg ≠ rr.aReg)
    (db : rr.dReg ≠ rr.bReg) (ab : rr.aReg ≠ rr.bReg) (r : Nat) :
    (x.replied rr more).rd r = if r = 0 then 0 else if r = rr.dReg.toNat then x.rd r + 1
      else if r = rr.aReg.toNat then x.rd r + 1 else if r = rr.bReg.toNat then x.rd r - 1 else x.rd r := by
  have same : ({ x with reads := more } : Core).rd r = x.rd r := rfl
  have apart {p q : BitVec 5} (h : p ≠ q) : p.toNat ≠ q.toNat := fun e => h (BitVec.eq_of_toNat_eq e)
  rw [Core.replied, Core.movedOn_rd, Core.movedOn_rd, Core.movedOn_rd, same]
  by_cases zero : r = 0
  · simp [zero]
  · by_cases own : r = rr.dReg.toNat
    · simp [zero, ← own, own ▸ apart da, own ▸ apart db]
    · by_cases source : r = rr.aReg.toNat
      · simp [zero, own, ← source, source ▸ apart ab]
      · by_cases count : r = rr.bReg.toNat
        · simp [zero, own, source, ← count, BitVec.sub_eq_add_neg]
        · simp [zero, own, source, count]

section
variable {c : CoreId} {q : ReadReply} {rest : List ReadReply} {s : State}
  (ht : takeFirst (fun q => q.reader = c) s.readReplies = some (q, rest))
include ht

theorem exec_remoteReadReply_held (later : replyFirst s q = false) : exec (.remoteReadReply c) s = .next s := by
  simp only [exec_remoteReadReply, execRemoteReadReply, ht, later, Bool.not_false, if_true]

/-- The state in which the reply of `q` to the read `rr` of core `c` is stored. -/
def replied (c : CoreId) (q : ReadReply) (rest : List ReadReply) (rr : RemoteRead) (more : List RemoteRead) (s : State) :
    State :=
  progress (taskWrite c rr.dest.toNat q.data q.poison
    ({ s with readReplies := rest }.setCore c ((s.core c).replied rr more))) c

theorem exec_remoteReadReply_stores {rr : RemoteRead} {more : List RemoteRead} (reads : (s.core c).reads = rr :: more)
    (first : replyFirst s q = true) : exec (.remoteReadReply c) s = .next (replied c q rest rr more s) := by
  have same : ({ s with readReplies := rest } : State).core c = s.core c := rfl
  simp only [exec_remoteReadReply, execRemoteReadReply, ht, first, same, reads, Bool.not_true, Bool.false_eq_true, if_false]
  rfl

end

theorem replied_core (c q rest rr more s) : (replied c q rest rr more s).core c = (s.core c).replied rr more := by
  rw [replied, progress_core, taskWrite_core, State.setCore_core]

theorem replied_others (c q rest rr more s) : OtherCoresSame c s (replied c q rest rr more s) := fun d other => by
  rw [replied, progress_core, taskWrite_core, State.setCore_core_other _ _ _ _ other]
  rfl

theorem replied_row (c q rest rr more s) :
    Memory.row (benchAddr c rr.dest.toNat) (replied c q rest rr more s).mem = q.data := by
  rw [replied, progress_mem]
  exact writeBench_row ..

theorem replied_outside (c q rest) (rr : RemoteRead) (more s) (a : Nat)
    (h : a < benchAddr c rr.dest.toNat ∨ benchAddr c (rr.dest.toNat + 1) ≤ a) :
    Memory.byte a (replied c q rest rr more s).mem = Memory.byte a s.mem := by
  rw [replied, progress_mem]
  exact writeBench_outside _ _ _ _ _ a h

theorem replied_replies (c q rest rr more s) : (replied c q rest rr more s).readReplies = rest := by
  rw [replied, progress_rest]
  rfl

/-! ## Window rows -/

theorem raiseIsolation_rest (kind k dst c s) : raiseIsolation kind k dst c s
    = { s with events := (raiseIsolation kind k dst c s).events, runs := (raiseIsolation kind k dst c s).runs } := by
  cases again : (s.run k).isolation.contains kind with
  | true => rw [raiseIsolation_again kind k dst c s again]
  | false =>
    simp only [raiseIsolation, again]
    rfl

/-- Window row `q` of core `c` stored when the window admits it, and refused otherwise (R109). -/
def admitted (c : CoreId) (q : WindowRow) (s : State) : State :=
  let cause := windowCheck s q
  if cause = 0 then
    writeBench c (Win.baseRow ((s.core c).windows.get 0 q.window.toNat) + q.offset.toNat) q.data q.poison s
  else if cause = 5 then
    (match coupeOf s q.writer with
      | none => s
      | some k => raiseIsolation 2 k (coupeOf s c) q.writer s)
  else s

/-- What the admission of a window row keeps besides memory. -/
theorem admitted_keeps (c q s) : (admitted c q s).windowRows = s.windowRows ∧ (admitted c q s).cores = s.cores
    ∧ (admitted c q s).acks = s.acks ∧ sentNow (admitted c q s) = sentNow s := by
  simp only [admitted]
  split
  · exact ⟨rfl, rfl, rfl, rfl⟩
  · split
    · split
      · exact ⟨rfl, rfl, rfl, rfl⟩
      · rw [raiseIsolation_rest]
        exact ⟨rfl, rfl, rfl, rfl⟩
    · exact ⟨rfl, rfl, rfl, rfl⟩

theorem admitted_refuses {c : CoreId} {q : WindowRow} {s : State} (refused : windowCheck s q ≠ 0) :
    (admitted c q s).mem = s.mem := by
  simp only [admitted, if_neg refused]
  split
  · split
    · rfl
    · rw [raiseIsolation_rest]
  · rfl

theorem admitted_stores {c : CoreId} {q : WindowRow} {s : State} (admits : windowCheck s q = 0) : admitted c q s
    = writeBench c (Win.baseRow ((s.core c).windows.get 0 q.window.toNat) + q.offset.toNat) q.data q.poison s := by
  simp only [admitted, if_pos admits]

section
variable {c : CoreId} {q : WindowRow} {rest : List WindowRow} {s : State}
  (ht : takeFirst (fun q => q.target = c) s.windowRows = some (q, rest))
include ht

theorem exec_windowRowArrival_held (later : windowFirst s q = false) : exec (.windowRowArrival c) s = .next s := by
  simp only [exec_windowRowArrival, execWindowRowArrival, ht, later, Bool.not_false, if_true]

theorem exec_windowRowArrival_answers (fresh : q.incarn = (s.slot q.writer).incarn) (first : windowFirst s q = true) :
    exec (.windowRowArrival c) s = .next { admitted c q { s with windowRows := rest } with
      acks := (admitted c q { s with windowRows := rest }).acks
        ++ [⟨q.writer, BitVec.ofNat 4 (windowCheck s q), c, sentNow (admitted c q { s with windowRows := rest })⟩]
      injected := (admitted c q { s with windowRows := rest }).injected + 1 } := by
  simp only [exec_windowRowArrival, execWindowRowArrival, ht, first, fresh, ne_eq, not_true_eq_false, Bool.not_true,
    Bool.false_eq_true, if_false]
  rfl

end

/-! ## Acknowledgements -/

theorem exec_rwriteAcknowledgement_takes {c : CoreId} {q : WriteAck} {rest : List WriteAck} {s : State}
    (ht : takeFirst (fun q => q.writer = c) s.acks = some (q, rest)) (first : ackFirst s q = true) :
    exec (.rwriteAcknowledgement c) s = .next ({ s with acks := rest }.setCore c { s.core c with
      writesOut := (s.core c).writesOut - 1
      refused := if q.cause = 0 then (s.core c).refused else (s.core c).refused.or (some q.cause)
      windowCause := if q.cause ≠ 0 && (s.core c).refused.isNone then q.cause else (s.core c).windowCause }) := by
  simp only [exec_rwriteAcknowledgement, execRwriteAcknowledgement, ht, first, Bool.not_true, Bool.false_eq_true, if_false]
  rfl

/-- Settles O22: a reply is stored where its read asked and its registers go on by one row; a window row is stored when the
window admits it; the first refusal of a task's writes stays. -/
theorem theRemotePath : Obligations.TheRemotePath := by
  unfold Obligations.TheRemotePath
  refine ⟨fun c q rest rr more s ht => ?_, fun c q rest s ht fresh => ?_, fun c q rest s ht first => ?_⟩
  · intro x reads
    refine ⟨exec_remoteReadReply_held ht, fun first => ?_⟩
    obtain ⟨reads', pc, v, queue⟩ := x.replied_rest rr more
    refine ⟨_, exec_remoteReadReply_stores ht reads first, replied_replies .., replied_others _ _ _ _ _ _, replied_row ..,
      replied_outside c q rest rr more s, ?_⟩
    rw [replied_core]
    exact ⟨reads', pc, v, queue, x.replied_rd rr more⟩
  · intro row
    refine ⟨exec_windowRowArrival_held ht, fun first => ?_⟩
    obtain ⟨rows, cores, acks, sent⟩ := admitted_keeps c q { s with windowRows := rest }
    refine ⟨_, exec_windowRowArrival_answers ht fresh first, rows, cores, ?_, fun admits => ?_, fun refused a => ?_⟩
    · dsimp only
      rw [acks, sent]
      rfl
    · dsimp only
      rw [admitted_stores (s := { s with windowRows := rest }) admits]
      exact ⟨writeBench_row .., fun a h => writeBench_outside _ _ _ _ _ a h⟩
    · dsimp only
      rw [admitted_refuses (s := { s with windowRows := rest }) refused]
  · intro x
    refine ⟨_, exec_rwriteAcknowledgement_takes ht first, rfl, fun _ => rfl, otherCoresSame_setCore _ _ _, ?_⟩
    rw [State.setCore_core]
    refine ⟨rfl, rfl, rfl, fun accepted => if_pos accepted, fun cause none_ => ?_, fun v some_ => ?_⟩
    · have free : (s.core c).refused = none := none_
      exact ⟨(if_neg cause).trans (by rw [free]; rfl), if_pos (by simpa [free] using cause)⟩
    · have taken : (s.core c).refused = some v := some_
      simp [taken]

end Sys2Proof.Machine
end

section
/-! PROOFS. Stream items, slack rows, credits, skid rows and barrier arrivals (R124–R127, R129, R166, R169, R170). -/

namespace Sys2Proof.Machine

/-! ## Queues -/

theorem RunsSame.queue {s t : State} (h : RunsSame s t) (k : CoupeId) (i : BitVec 16) : t.queue k i = s.queue k i := by
  rw [State.queue, h k, State.queue]

theorem progress_queue (s : State) (c : CoreId) (k : CoupeId) (h : BitVec 16) : (progress s c).queue k h = s.queue k h :=
  (progress_runs s c).queue k h

/-- A queue put in its table, then progress of a core: the queue is as put, and of the rest nothing but runs differs. -/
theorem putQueue_spec (k : CoupeId) (h : BitVec 16) (q : Queue) (c : CoreId) (s : State) :
    let t := progress (s.setQueue k h (some q)) c
    t.mem = s.mem ∧ t.cores = s.cores ∧ t.queue k h = some q :=
  ⟨progress_mem .., progress_cores .., (progress_queue ..).trans (setQueue_is s k h q).1⟩

/-- The item staged without padding: it is the last of the staging; nothing else of the queue but its counts differs. -/
theorem stageItem_staging (q : Queue) (it : Item) : (stageItem q none it).staging = q.staging ++ [it]
    ∧ (stageItem q none it).network = q.network ∧ (stageItem q none it).sent = q.sent
    ∧ (stageItem q none it).slackCount = q.slackCount ∧ (stageItem q none it).credits = q.credits
    ∧ (stageItem q none it).returning = q.returning ∧ (stageItem q none it).marker = q.marker := by
  cases it <;> exact ⟨rfl, rfl, rfl, rfl, rfl, rfl, rfl⟩

section
variable {k : CoupeId} {h : BitVec 16} {q : Queue} {s : State} (at_ : s.queue k h = some q)
include at_

theorem exec_streamRowArrival_held (later : laneFirst s k q = false) : exec (.streamRowArrival k h) s = .next s := by
  simp only [exec_streamRowArrival, execStreamRowArrival, at_, later, Bool.and_false, Bool.false_eq_true, if_false]
  split <;> rfl

theorem exec_streamRowArrival_admits {it : Item} {rest : List Item} (network : q.network = it :: rest)
    (first : laneFirst s k q = true) (admits : q.admits it = true) : exec (.streamRowArrival k h) s
    = .next (progress (admitItem k h (q.left1 rest) it s) (QRec.cons q.record)) := by
  simp only [exec_streamRowArrival, execStreamRowArrival, at_, network, first, admits, Bool.and_self, if_true]

/-- An item that finds an empty slack ring and room in the staging is staged. -/
theorem exec_streamRowArrival_stages (plain : padOf s k q = none) {it : Item} {rest : List Item}
    (first : laneFirst s k q = true) (network : q.network = it :: rest) (unmarked : q.marker = none)
    (dry : q.slackCount = 0) (room : q.staging.length < 4) : exec (.streamRowArrival k h) s
    = .next (progress (s.setQueue k h (some (stageItem (q.left1 rest) none it))) (QRec.cons q.record)) := by
  have admits : q.admits it = true := by
    cases it <;> simp [Queue.admits, unmarked, dry, room]
  have open_ : (decide ((q.left1 rest).slackCount = 0) && decide ((q.left1 rest).staging.length < 4)) = true := by
    simp [Queue.left1, dry, room]
  have pad : padOf s k (q.left1 rest) = none := plain
  rw [exec_streamRowArrival_admits at_ network first admits]
  cases it with
  | row d p => simp only [admitItem, open_, if_true, pad]
  | marker m => simp only [admitItem, open_, if_true]

/-- The queue with one more row in its slack ring. -/
def Queue.spilledOne (q : Queue) : Queue :=
  Queue.seen { q with slackCount := q.slackCount + 1, spilled := BitVec.ofNat 32 (satAdd 32 q.spilled.toNat 1) }

/-- A row that finds the staging full, or rows in the slack ring, goes to the ring. -/
theorem exec_streamRowArrival_spills {d : Row} {p : Bool} {rest : List Item} (first : laneFirst s k q = true)
    (network : q.network = .row d p :: rest) (unmarked : q.marker = none) (full : 0 < q.slackCount ∨ 4 ≤ q.staging.length)
    (room : q.slackCount < QRec.slackLen q.record) : exec (.streamRowArrival k h) s
    = .next (progress ((writeBench (QRec.cons q.record) (q.slackRow q.slackCount) d p s).setQueue k h
        (some (q.left1 rest).spilledOne)) (QRec.cons q.record)) := by
  have admits : q.admits (.row d p) = true := by simp [Queue.admits, unmarked, room]
  have shut : (decide ((q.left1 rest).slackCount = 0) && decide ((q.left1 rest).staging.length < 4)) = false := by
    simp only [Queue.left1, Bool.and_eq_false_iff]
    exact full.imp (fun h => decide_eq_false (Nat.ne_of_gt h)) fun h => decide_eq_false (Nat.not_lt.2 h)
  rw [exec_streamRowArrival_admits at_ network first admits]
  simp only [admitItem, shut, Bool.false_eq_true, if_false]
  rfl

theorem exec_slackRefill_refills (plain : padOf s k q = none) (some_ : 0 < q.slackCount) (room : q.staging.length < 4)
    (unmarked : q.marker = none) : exec (.slackRefill k h) s
    = .next (progress ((readBench (QRec.cons q.record) (q.slackRow 0) 2 s).2.setQueue k h
        (some (stageItem { q with
          slackHead := (q.slackHead + 1) % QRec.slackLen q.record, slackCount := q.slackCount - 1 } none
          (.row (readBench (QRec.cons q.record) (q.slackRow 0) 2 s).1.1
            (readBench (QRec.cons q.record) (q.slackRow 0) 2 s).1.2)))) (QRec.cons q.record)) := by
  have unstaged (p : Queue) (m : p.marker = none) : stageMarker p = p := by simp only [stageMarker, m]
  simp only [exec_slackRefill, execSlackRefill, at_, room, if_true, Nat.ne_of_gt some_, if_false, plain]
  rw [unstaged]
  exact unmarked

/-! ## Credits -/

omit at_ in
theorem feedMarks_none {s : State} (none_ : (s.run k).feedPlans.find? (fun f => f.handle = h) = none) : feedMarks k h s = s := by
  have empty_ : (s.run k).feedPlans.filter (fun f => f.handle = h && f.w.isNone) = [] :=
    List.filter_eq_nil_iff.2 fun f hf => by
      have other := List.find?_eq_none.1 none_ f hf
      simp only [decide_eq_true_eq] at other
      simp [other]
  simp only [feedMarks, empty_, List.foldl_nil]

omit at_ in
/-- A queue into which nothing feeds now runs no feed. -/
theorem runFeed_unfed {s : State} (idle : coupeHalting s k = true
    ∨ ((s.run k).feedPlans.find? (fun f => f.handle = h) = none
      ∧ ∀ tr ∈ s.transfers, ¬(Mv.ofCoupe tr.w k = true ∧ Mv.dspace tr.w = 2 ∧ Mv.dst tr.w = h.toNat))) : runFeed k h s = s := by
  simp only [runFeed]
  rcases idle with halting | ⟨plans, transfers⟩
  · rw [if_pos halting]
  · have mine : s.transfers.filter (fun t => Mv.ofCoupe t.w k && Mv.dspace t.w = 2 && Mv.dst t.w = h.toNat && Mv.sspace t.w ≠ 1)
        = [] := List.filter_eq_nil_iff.2 fun tr mem => by
      have other := transfers tr mem
      simp only [Bool.and_eq_true, decide_eq_true_eq]
      exact fun all => other ⟨all.1.1.1, all.1.1.2, all.1.2⟩
    rw [mine, feedMarks_none plans]
    exact ite_self _

theorem exec_creditReturn_returns (away : q.returning ≠ 0) (whole : isReduction h = false) (own : q.span = false)
    (idle : coupeHalting s k = true ∨ ((s.run k).feedPlans.find? (fun f => f.handle = h) = none
      ∧ ∀ tr ∈ s.transfers, ¬(Mv.ofCoupe tr.w k = true ∧ Mv.dspace tr.w = 2 ∧ Mv.dst tr.w = h.toNat)))
    (unbound : (s.core (QRec.prod q.record)).port (4 + QRec.prodPort q.record) ≠ h) : exec (.creditReturn k h) s
    = .next (s.setQueue k h (some { q with returning := q.returning - 1, credits := q.credits + 1 })) := by
  have run (x : Option Queue) : (s.setQueue k h x).run k = { s.run k with queues := (s.run k).queues.set none h.toNat x } :=
    State.setRun_run ..
  have still (x : Option Queue) : runFeed k h (s.setQueue k h x) = s.setQueue k h x := by
    refine runFeed_unfed ?_
    rw [run]
    refine idle.imp (fun halting => ?_) id
    rw [← halting]
    simp only [coupeHalting, run]
    rfl
  have free (x : Option Queue) : ((s.setQueue k h x).core (QRec.prod q.record)).port (4 + QRec.prodPort q.record) ≠ h := unbound
  simp only [exec_creditReturn, execCreditReturn, at_, if_neg away, whole, own, Bool.false_eq_true, if_false, if_neg (free _)]
  exact congrArg Host.Outcome.next (still _)

end

/-! ## Skid rows -/

theorem chainDone_streams (k n x s) : (chainDone k n x s).mem = s.mem ∧ (chainDone k n x s).cores = s.cores
    ∧ (chainDone k n x s).skids = s.skids ∧ (chainDone k n x s).arrivals = s.arrivals ++ [.coupe k x.barrier] := by
  simp only [chainDone]
  split
  · exact ⟨rfl, rfl, rfl, rfl⟩
  · rw [(checkBoundary_streams ..).rest]
    exact ⟨rfl, rfl, rfl, rfl⟩

/-- Row `f` of chain `x` stored in the bench of its member `c` (R166). -/
def skidStored (c : CoreId) (f : SkidFwd) (x : Chain) (s : State) : State :=
  writeBench c (x.row + f.ord) f.data f.poison { s with skids := dropSkid f s.skids }

section
variable {k : CoupeId} {c : CoreId} {f : SkidFwd} {x : Chain} {s : State} (for_ : skidFor s k c = some (f, x))
  (of_ : coupeOf s c = some k) (moving : (s.slot c).moving = false)
include for_ of_ moving

theorem exec_skidRow_held (halting : coupeHalting s k = true) : exec (.skidRow k c) s = .next s := by
  simp only [exec_skidRow, execSkidRow, for_, of_, moving, halting, ne_eq, not_true_eq_false, decide_false, Bool.false_or, if_true]

theorem exec_skidRow_stores (runs : coupeHalting s k = false) : exec (.skidRow k c) s = .next
    (if f.place + 1 < x.members.length then { skidStored c f x s with
        skids := (skidStored c f x s).skids ++ [{ f with place := f.place + 1 }] }
      else if f.last then chainDone k f.chain x (skidStored c f x s) else skidStored c f x s) := by
  simp only [exec_skidRow, execSkidRow, for_, of_, moving, runs, ne_eq, not_true_eq_false, decide_false, Bool.or_self,
    Bool.false_eq_true, if_false]
  split
  · rfl
  · split <;> rfl

end

theorem skidStored_row (c f x s) : Memory.row (benchAddr c (x.row + f.ord)) (skidStored c f x s).mem = f.data
    ∧ ∀ a, (a < benchAddr c (x.row + f.ord) ∨ benchAddr c (x.row + f.ord + 1) ≤ a) →
      Memory.byte a (skidStored c f x s).mem = Memory.byte a s.mem :=
  ⟨writeBench_row .., fun a h => writeBench_outside _ _ _ _ { s with skids := dropSkid f s.skids } a h⟩

/-! ## Words of the deck -/

theorem Memory.cells_append : ∀ (xs ys : List (BitVec 8)) (a : Nat),
    Memory.cells a (xs ++ ys) = Memory.cells a xs ++ Memory.cells (a + xs.length) ys
  | [], ys, a => rfl
  | x :: xs, ys, a => by
    rw [List.cons_append, Memory.cells, Memory.cells, Memory.cells_append xs ys (a + 1), List.append_assoc, List.length_cons,
      Nat.add_assoc, Nat.add_comm 1]

/-- Two runs of bytes written one behind the other are one run. -/
theorem Memory.write_append (a : Nat) (xs ys : List (BitVec 8)) (m : List Host.Cell) :
    Memory.write a (xs ++ ys) m = Memory.write (a + xs.length) ys (Memory.write a xs m) := by
  obtain ⟨-, range⟩ := Memory.cells_spec xs a
  have below : (Memory.cells a xs).filter (fun c => c.1 < a + xs.length) = Memory.cells a xs :=
    List.filter_eq_self.2 fun c hc => by simpa using (range c hc).2
  have none_ : (Memory.cells a xs).filter (fun c => a + xs.length + ys.length ≤ c.1) = [] :=
    List.filter_eq_nil_iff.2 fun c hc => by have := range c hc; simp; omega
  have low : (m.filter (fun c => c.1 < a)).filter (fun c => c.1 < a + xs.length) = m.filter (fun c => c.1 < a) := by
    rw [List.filter_filter]
    exact List.filter_congr fun c _ => by rw [← Bool.decide_and, decide_eq_decide]; omega
  have high : (m.filter (fun c => a + xs.length ≤ c.1)).filter (fun c => a + xs.length + ys.length ≤ c.1)
      = m.filter (fun c => a + (xs ++ ys).length ≤ c.1) := by
    rw [List.filter_filter, List.length_append]
    exact List.filter_congr fun c _ => by rw [← Bool.decide_and, decide_eq_decide]; omega
  rw [Memory.write, Memory.write, Memory.write, List.filter_append, List.filter_append, List.filter_append,
    List.filter_append, below, none_, low, high,
    Memory.filter_filter_nil (fun c => a + xs.length ≤ c.1) (fun c => c.1 < a + xs.length) m (fun c h => by simp at h ⊢; omega),
    Memory.filter_filter_nil (fun c => c.1 < a) (fun c => a + xs.length + ys.length ≤ c.1) m (fun c h => by simp at h ⊢; omega),
    Memory.cells_append]
  simp

theorem bytesLE_add : ∀ m n v : Nat, bytesLE (m + n) v = bytesLE m v ++ bytesLE n (v / 256 ^ m)
  | 0, n, v => by rw [Nat.zero_add, Nat.pow_zero, Nat.div_one]; rfl
  | m + 1, n, v => by
    rw [Nat.add_right_comm, bytesLE, bytesLE, bytesLE_add m n, Nat.div_div_eq_div_mul, Nat.pow_succ', List.cons_append]

/-- The low bytes of a number that has been written. -/
theorem Memory.read_write_low (a m n v : Nat) (mem : List Host.Cell) :
    Memory.read a m (Memory.write a (bytesLE (m + n) v) mem) = v % 2 ^ (8 * m) := by
  rw [bytesLE_add, Memory.write_append, bytesLE_length, Memory.read_write_other _ _ _ _ _ (.inl (Nat.le_refl _)),
    Memory.read_write_same]

/-- The high bytes of a number that has been written. -/
theorem Memory.read_write_high (a m n v : Nat) (mem : List Host.Cell) :
    Memory.read (a + m) n (Memory.write a (bytesLE (m + n) v) mem) = v / 256 ^ m % 2 ^ (8 * n) := by
  rw [bytesLE_add, Memory.write_append, bytesLE_length, Memory.read_write_same]

/-- No error is stored of granule `g`. -/
def CleanGranule (s : State) (g : Nat) : Prop := s.granuleErrors.get .none g = .none

theorem mergeGranule_of_clean {s : State} {g : Nat} (clean : CleanGranule s g) : mergeGranule false g s = s := by
  rw [CleanGranule] at clean
  simp only [mergeGranule, clean, Bool.false_eq_true, if_false]

theorem setGranule_clean (p : Bool) (b : Nat) {s : State} {g : Nat} (clean : CleanGranule s g) :
    CleanGranule (setGranules p [b] s) g := by
  rw [CleanGranule] at *
  simp only [setGranules, Sparse.get_set]
  split
  · rfl
  · exact clean

/-- Where none of the granules that bytes touch holds an error, sound bytes change no other than their own. -/
theorem writeBytesAt_sound (a : Nat) (bs : List (BitVec 8)) {s : State}
    (clean : ∀ g ∈ granulesOf a bs.length, CleanGranule s g) :
    (writeBytesAt a bs false s).mem = Memory.write a bs s.mem ∧ (writeBytesAt a bs false s).cores = s.cores := by
  have each (l : List Nat) : ∀ u : State, (∀ g ∈ l, CleanGranule u g) →
      (l.foldl (fun t g => if a ≤ g && g + 64 ≤ a + bs.length then setGranules false [g] t else mergeGranule false g t) u).mem
        = u.mem
      ∧ (l.foldl (fun t g => if a ≤ g && g + 64 ≤ a + bs.length then setGranules false [g] t else mergeGranule false g t) u).cores
        = u.cores := by
    induction l with
    | nil => exact fun _ _ => ⟨rfl, rfl⟩
    | cons b l ih =>
      intro u cleans
      rw [List.foldl_cons]
      split
      · exact ih _ fun g mem => setGranule_clean false b (cleans g (.tail b mem))
      · rw [mergeGranule_of_clean (cleans b (.head l))]
        exact ih u fun g mem => cleans g (.tail b mem)
  exact each _ { s with mem := Memory.write a bs s.mem } clean

theorem granulesOf_word {a g : Nat} (mem : g ∈ granulesOf a 8) : g = a / 64 * 64 ∨ g = (a + 7) / 64 * 64 := by
  simp only [granulesOf, if_neg (show (8 : Nat) ≠ 0 by decide), List.mem_map, List.mem_range] at mem
  obtain ⟨i, small, rfl⟩ := mem
  omega

section
variable {addr : Nat} {s : State} (low : CleanGranule s (addr / 64 * 64)) (high : CleanGranule s ((addr + 7) / 64 * 64))
include low high

theorem setWord_memory (tag : BitVec 16) (count : Nat) : (setWord addr tag count s).mem
      = Memory.write addr (bytesLE 8 (tag.toNat * 2 ^ 48 + count % 2 ^ 32)) s.mem
    ∧ (setWord addr tag count s).cores = s.cores := by
  refine writeBytesAt_sound addr _ fun g mem => ?_
  rw [bytesLE_length] at mem
  rcases granulesOf_word mem with e | e
  · exact e ▸ low
  · exact e ▸ high

theorem setWord_other (tag : BitVec 16) (count a : Nat) (h : a < addr ∨ addr + 8 ≤ a) :
    Memory.byte a (setWord addr tag count s).mem = Memory.byte a s.mem := by
  rw [(setWord_memory low high tag count).1]
  exact Memory.byte_write_outside _ _ _ _ (by rw [bytesLE_length]; exact h)

theorem setWord_word (tag : BitVec 16) {count : Nat} (small : count < 2 ^ 32) :
    wordTag (setWord addr tag count s) addr = tag ∧ wordCount (setWord addr tag count s) addr = count := by
  have tagged := tag.isLt
  rw [wordTag, wordCount, (setWord_memory low high tag count).1, Memory.read_write_high addr 6 2, Memory.read_write_low addr 4 4]
  constructor
  · refine BitVec.eq_of_toNat_eq ?_
    rw [BitVec.toNat_ofNat]
    omega
  · omega

/-- An arrival at a word whose granules hold no error (R170). -/
theorem arriveMemory_spec (tag : BitVec 16) : (arriveMemory addr tag s).cores = s.cores
    ∧ (∀ a, (a < addr ∨ addr + 8 ≤ a) → Memory.byte a (arriveMemory addr tag s).mem = Memory.byte a s.mem)
    ∧ (wordTag s addr = tag → wordCount s addr < 2 ^ 32 - 1 →
        wordTag (arriveMemory addr tag s) addr = tag ∧ wordCount (arriveMemory addr tag s) addr = wordCount s addr + 1) := by
  refine ⟨?_, fun a h => ?_, fun same small => ?_⟩
  · simp only [arriveMemory]
    split
    · exact (setWord_memory low high ..).2
    · split
      · exact (setWord_memory low high ..).2
      · rfl
  · simp only [arriveMemory]
    split
    · exact setWord_other low high _ _ _ h
    · split
      · exact setWord_other low high _ _ _ h
      · rfl
  · have counted : arriveMemory addr tag s = setWord addr tag (wordCount s addr + 1) s := by
      simp only [arriveMemory, same, BitVec.sub_self]
      rfl
    rw [counted]
    exact setWord_word low high tag (by omega)

end

theorem arriveMemory_arrivals (addr : Nat) (tag : BitVec 16) (s : State) : (arriveMemory addr tag s).arrivals = s.arrivals := by
  have put (t : BitVec 16) (n : Nat) : (setWord addr t n s).arrivals = s.arrivals := by
    rw [setWord, (writeBytesAt_list _ _ _ _).1]
  simp only [arriveMemory]
  split
  · exact put ..
  · split
    · exact put ..
    · rfl

/-- Settles O23: an item is staged or spilled to the slack ring, a credit and a skid row go one place on, and an arrival
adds one to its barrier or to its word. -/
theorem theStreamNetwork : Obligations.TheStreamNetwork := by
  unfold Obligations.TheStreamNetwork
  refine ⟨fun k h q s at_ plain => ⟨exec_streamRowArrival_held at_, fun it rest first network unmarked dry room => ?_,
    fun d p rest first network unmarked full room => ?_, fun some_ room unmarked => ?_,
    fun away whole own idle unbound => ?_⟩, fun k c f x s for_ of_ moving => ⟨exec_skidRow_held for_ of_ moving,
    fun runs => ?_⟩, fun k b rest s drops => ?_, fun addr tag rest s drops stands low high => ?_⟩
  · obtain ⟨mem, cores, queue⟩ := putQueue_spec k h (stageItem (q.left1 rest) none it) (QRec.cons q.record) s
    obtain ⟨staging, network', sent, slack, credits, returning, -⟩ := stageItem_staging (q.left1 rest) it
    exact ⟨_, _, exec_streamRowArrival_stages at_ plain first network unmarked dry room, fun a => by rw [mem], cores, queue,
      network', sent, staging, slack.trans dry, credits, returning⟩
  · intro row
    obtain ⟨mem, cores, queue⟩ := putQueue_spec k h (q.left1 rest).spilledOne (QRec.cons q.record)
      (writeBench (QRec.cons q.record) (q.slackRow q.slackCount) d p s)
    refine ⟨_, _, exec_streamRowArrival_spills at_ first network unmarked full room, cores, queue, ?_, fun a outside => ?_,
      rfl, rfl, rfl⟩
    · rw [mem]
      exact writeBench_row ..
    · rw [mem]
      exact writeBench_outside _ _ _ _ _ a outside
  · intro row
    have bytes := (readBench_mends (QRec.cons q.record) (q.slackRow 0) 2 s).mem
    have data := readBench_data (QRec.cons q.record) (q.slackRow 0) 2 s
    have first : q.slackRow 0 = row := rfl
    have refills := exec_slackRefill_refills at_ plain some_ room unmarked
    rw [data] at refills
    generalize (readBench (QRec.cons q.record) (q.slackRow 0) 2 s).2 = u at bytes refills
    generalize (readBench (QRec.cons q.record) (q.slackRow 0) 2 s).1.2 = p at refills
    obtain ⟨mem, -, queue⟩ := putQueue_spec k h (stageItem { q with
      slackHead := (q.slackHead + 1) % QRec.slackLen q.record, slackCount := q.slackCount - 1 } none
      (.row (Memory.row (benchAddr (QRec.cons q.record) (q.slackRow 0)) s.mem) p)) (QRec.cons q.record) u
    exact ⟨_, _, p, refills, fun a => by rw [mem, bytes], queue, rfl, rfl, rfl⟩
  · exact ⟨_, exec_creditReturn_returns at_ away whole own idle unbound, fun _ => rfl, rfl, (setQueue_is s k h _).1⟩
  · obtain ⟨row, others⟩ := skidStored_row c f x s
    refine ⟨_, exec_skidRow_stores for_ of_ moving runs, ?_⟩
    split
    next more =>
      refine ⟨rfl, row, others, rfl, ?_⟩
      rw [if_pos (.inl more), List.append_nil]
      rfl
    next last_ =>
      split
      next over_ =>
        obtain ⟨mem, cores, skids, arrivals⟩ := chainDone_streams k f.chain x (skidStored c f x s)
        rw [mem, cores, skids, arrivals, if_neg (by simp [last_, over_]), List.append_nil]
        exact ⟨rfl, row, others, rfl, rfl⟩
      next more =>
        rw [if_pos (.inr (by simpa using more)), List.append_nil, List.append_nil]
        exact ⟨rfl, row, others, rfl, rfl⟩
  · have arrives : exec (.barrierArrival (.coupe k b)) s = .next ({ s with arrivals := rest }.setRun k { s.run k with
        barriers := (s.run k).barriers.set 0 b.toNat ((s.run k).barriers.get 0 b.toNat + 1) }) := by
      simp only [exec_barrierArrival, execBarrierArrival, drops]
      rfl
    refine ⟨_, arrives, fun _ => rfl, rfl, rfl, fun i => ?_⟩
    rw [State.setRun_run]
    simp only [Sparse.get_set]
    split
    next same => rw [same]
    · rfl
  · obtain ⟨cores, others, counts⟩ := arriveMemory_spec (s := { s with arrivals := rest }) low high tag
    have arrives : exec (.barrierArrival (.memory addr tag)) s = .next (arriveMemory addr.toNat tag { s with arrivals := rest }) := by
      simp only [exec_barrierArrival, execBarrierArrival, drops]
      exact if_pos stands
    exact ⟨_, arrives, cores, arriveMemory_arrivals .., others, counts⟩

end Sys2Proof.Machine
end

section
/-! PROOFS. QCVT holds the codes of the values that it converts (R49, R82, R85, R91). -/

namespace Sys2Proof.Machine

/-! ## The lengths of a converted group -/

theorem toNarrowList_length (f : Nat) (stoch : Bool) : ∀ (vs : List Val) (l : BitVec 32),
    (toNarrowList f stoch vs l).codes.length = vs.length
  | [], _ => rfl
  | v :: vs, l => by simp only [toNarrowList, List.length_cons, toNarrowList_length f stoch vs]

theorem quantMX_lengths (f : Nat) (stoch : Bool) : ∀ (bs : List (List (F32 × Bool))) (l : BitVec 32),
    (quantMX f stoch bs l).elems.length = bs.flatten.length ∧ (quantMX f stoch bs l).scales.length = bs.length
      ∧ (quantMX f stoch bs l).knots = []
  | [], _ => ⟨rfl, rfl, rfl⟩
  | b :: bs, l => by
    obtain ⟨elems, scales, -⟩ := quantMX_lengths f stoch bs (toNarrowList f stoch
      ((b.map (fun v => v.1.val)).map (fun v => v.scale (-(mxScale f (b.map (fun v => v.1.val)))))) l).lfsr
    refine ⟨?_, ?_, rfl⟩
    · simp only [quantMX, List.length_append, List.length_zipWith, toNarrowList_length, List.length_map, Nat.min_self, elems,
        List.flatten_cons]
    · simp only [quantMX, List.length_cons, scales]

theorem blocks32_lengths : ∀ (n : Nat) (l : List (F32 × Bool)),
    (blocks32 n l).flatten.length ≤ l.length ∧ (blocks32 n l).length ≤ n
  | 0, l => ⟨Nat.zero_le _, Nat.le_refl 0⟩
  | n + 1, [] => ⟨Nat.le_refl 0, Nat.zero_le _⟩
  | n + 1, v :: l => by
    obtain ⟨values, blocks⟩ := blocks32_lengths n ((v :: l).drop 32)
    simp only [blocks32, List.flatten_cons, List.length_append, List.length_take, List.length_cons, List.length_drop] at *
    omega

/-- A group has no more codes than values, at most 4 scales and at most one knot (R19–R23). -/
theorem quantGroup_lengths (f : Nat) (stoch : Bool) (ot : Nat) (cb : Codebook) (vals : List (F32 × Bool)) (l : BitVec 32) :
    (quantGroup f stoch ot cb vals l).elems.length ≤ vals.length ∧ (quantGroup f stoch ot cb vals l).scales.length ≤ 4
      ∧ (quantGroup f stoch ot cb vals l).knots.length ≤ 1 := by
  obtain ⟨values, blocks⟩ := blocks32_lengths 4 vals
  rw [quantGroup]
  split
  · refine ⟨?_, ?_, Nat.le_refl 1⟩
    · rw [List.length_zipWith]
      exact Nat.min_le_right ..
    · rw [List.length_zipWith]
      exact Nat.le_trans (Nat.min_le_right ..) blocks
  · split
    · obtain ⟨elems, scales, knots⟩ := quantMX_lengths f stoch (blocks32 4 vals) l
      exact ⟨elems ▸ values, scales ▸ blocks, by rw [knots]; exact Nat.zero_le 1⟩
    · refine ⟨?_, Nat.zero_le 4, Nat.zero_le 1⟩
      rw [List.length_zipWith]
      exact Nat.min_le_right ..

/-! ## An output that fills no row -/

/-- The held output fills no row of any plane. -/
def QOut.Partial (q : QOut) : Prop := q.elems.length < Fmt.perRow q.fmt ∧ q.scales.length < 512 ∧ q.knots.length < 256

theorem QOut.Partial.nextRow {q : QOut} (h : q.Partial) : q.nextRow false = none := by
  obtain ⟨elems, scales, knots⟩ := h
  simp only [QOut.nextRow, Bool.false_and, Bool.or_false, decide_eq_true_eq, if_neg (Nat.not_le.2 elems),
    decide_eq_false (Nat.not_le.2 scales), decide_eq_false (Nat.not_le.2 knots), Bool.and_false, Bool.false_eq_true, if_false]

theorem emitFull_partial {c : CoreId} {q : QOut} {s : State} (held : (s.core c).qout = some q) (h : q.Partial) :
    emitFull c s = (true, s) := by
  simp only [emitFull, held, QOut.fuel, emit, h.nextRow]

/-! ## Values enter the quantiser -/

/-- Of core `x` at most what a conversion changes differs. -/
def Converting (x y : Core) : Prop :=
  y = { x with
    qsat := y.qsat, kovf := y.kovf, nanp := y.nanp, maxabs := y.maxabs, rangeRaised := y.rangeRaised, lfsr := y.lfsr
    nanMet := y.nanMet, qout := y.qout, qdone := y.qdone, tainted := y.tainted }

theorem Converting.trans {x y z : Core} (h : Converting x y) (g : Converting y z) : Converting x z := by
  unfold Converting at *
  rw [g, h]

theorem converting_taint (x : Core) (p : Bool) : Converting x (x.taint p) := rfl

/-- The values of the range guard, and its event (R34). -/
theorem rangeGuard_spec (c : CoreId) (tag : BitVec 32) (vals : List F32) (s : State) :
    (rangeGuard c tag vals s).mem = s.mem ∧ OtherCoresSame c s (rangeGuard c tag vals s)
      ∧ ∃ m b, (rangeGuard c tag vals s).core c = { s.core c with maxabs := m, rangeRaised := b } := by
  have raised (record : BitVec 64) (u : State) : (raiseTask 0x02 record c u).mem = u.mem
      ∧ (raiseTask 0x02 record c u).cores = u.cores := by
    unfold raiseTask
    repeat' split
    all_goals exact ⟨rfl, rfl⟩
  simp only [rangeGuard]
  split
  next record _ =>
    split
    · exact ⟨rfl, otherCoresSame_setCore _ _ _, _, (s.core c).rangeRaised, State.setCore_core ..⟩
    · obtain ⟨mem, cores⟩ := raised (put 32 tag.toNat ||| put 0 record.toNat) (s.setCore c { s.core c with
        maxabs := (rangeScan (qcwThr (s.core c).qcw) vals (s.core c).maxabs none).1, rangeRaised := true })
      exact ⟨mem, fun d other => (core_of_cores cores d).trans (State.setCore_core_other _ _ _ _ other), _, true,
        (core_of_cores cores c).trans (State.setCore_core ..)⟩
  · exact ⟨rfl, otherCoresSame_setCore _ _ _, _, (s.core c).rangeRaised, State.setCore_core ..⟩

/-- An output with a group's codes behind its own. -/
def QOut.append (q : QOut) (g : QGroup) : QOut :=
  { q with elems := q.elems ++ g.elems, scales := q.scales ++ g.scales, knots := q.knots ++ g.knots }

/-- The group that the values make, converted by core `x` into format `fmt`. -/
def Core.groupOf (x : Core) (fmt : Nat) (vals : List (F32 × Bool)) : QGroup :=
  quantGroup fmt (qcwStoch x.qcw) (qcwOT x.qcw) x.cb vals x.lfsr

/-- The core whose quantiser has taken a group. -/
def Core.quantised (x : Core) (q : QOut) (g : QGroup) : Core :=
  { ((x.addQsat g.qsat).addKovf g.kovf).addNanp (g.nan && !x.nanMet) with
    lfsr := g.lfsr, nanMet := x.nanMet || g.nan, qout := some (q.append g) }

theorem Core.quantised_converting (x : Core) (q : QOut) (g : QGroup) : Converting x (x.quantised q g) := by
  rw [Core.quantised, Core.addNanp]
  split <;> rfl

theorem quantise_spec {c : CoreId} {q : QOut} {s : State} (held : (s.core c).qout = some q) (vals : List (F32 × Bool)) :
    (quantise c vals s).mem = s.mem ∧ OtherCoresSame c s (quantise c vals s)
      ∧ Converting (s.core c) ((quantise c vals s).core c)
      ∧ ((quantise c vals s).core c).qout = some (q.append ((s.core c).groupOf q.fmt vals))
      ∧ ((quantise c vals s).core c).lfsr = ((s.core c).groupOf q.fmt vals).lfsr := by
  obtain ⟨mem, others, m, b, core⟩ := rangeGuard_spec c (if Fmt.isKB q.fmt then (s.core c).cb.tag else 0) (vals.map (·.1))
    (s.setCore c ((s.core c).quantised q ((s.core c).groupOf q.fmt vals)))
  have run : quantise c vals s = rangeGuard c (if Fmt.isKB q.fmt then (s.core c).cb.tag else 0) (vals.map (·.1))
      (s.setCore c ((s.core c).quantised q ((s.core c).groupOf q.fmt vals))) := by
    simp only [quantise, held]
    rfl
  rw [State.setCore_core] at core
  refine ⟨by rw [run, mem]; rfl, ?_, ?_, ?_, ?_⟩
  · rw [run]
    exact (otherCoresSame_setCore _ _ _).trans others
  · rw [run, core]
    exact ((s.core c).quantised_converting ..).trans rfl
  · rw [run, core]
    rfl
  · rw [run, core]
    rfl

/-! ## One group -/

/-- The state in which the group of `n` values is converted. -/
def groupConverted (c : CoreId) (f : Fields) (n : Nat) (s : State) : State :=
  let u := quantise c (qcvtSource c (s.core c) f n) s
  u.setCore c { u.core c with qdone := (u.core c).qdone + n }

theorem qcvtSource_length (c : CoreId) (x : Core) (f : Fields) (n : Nat) : (qcvtSource c x f n).length ≤ n := by
  simp only [qcvtSource]
  split
  · split
    · exact Nat.zero_le n
    · rw [List.length_map, List.length_range]
      exact Nat.min_le_right ..
  · rw [List.length_map, List.length_range]
    exact Nat.min_le_right ..

section
variable {c : CoreId} {f : Fields} {n : Nat} {q : QOut} {s : State} (held : (s.core c).qout = some q)
include held

theorem groupConverted_spec : (groupConverted c f n s).mem = s.mem ∧ OtherCoresSame c s (groupConverted c f n s)
    ∧ Converting (s.core c) ((groupConverted c f n s).core c)
    ∧ ((groupConverted c f n s).core c).qout = some (q.append ((s.core c).groupOf q.fmt (qcvtSource c (s.core c) f n)))
    ∧ ((groupConverted c f n s).core c).lfsr = ((s.core c).groupOf q.fmt (qcvtSource c (s.core c) f n)).lfsr := by
  obtain ⟨mem, others, converting, out, lfsr⟩ := quantise_spec held (qcvtSource c (s.core c) f n)
  simp only [groupConverted]
  generalize quantise c (qcvtSource c (s.core c) f n) s = u at mem others converting out lfsr ⊢
  rw [State.setCore_core]
  exact ⟨mem, others.trans (otherCoresSame_setCore _ _ _), converting.trans rfl, out, lfsr⟩

/-- A fresh output that a group does not fill stays partial. -/
theorem append_partial (fresh : q.elems = [] ∧ q.scales = [] ∧ q.knots = []) (fits : n < Fmt.perRow q.fmt) :
    (q.append ((s.core c).groupOf q.fmt (qcvtSource c (s.core c) f n))).Partial := by
  obtain ⟨elems, scales, knots⟩ := fresh
  obtain ⟨codes, few, one⟩ := quantGroup_lengths q.fmt (qcwStoch (s.core c).qcw) (qcwOT (s.core c).qcw) (s.core c).cb
    (qcvtSource c (s.core c) f n) (s.core c).lfsr
  have values := qcvtSource_length c (s.core c) f n
  refine ⟨?_, ?_, ?_⟩ <;> simp only [QOut.append, elems, scales, knots, List.nil_append, Core.groupOf]
  · omega
  · omega
  · omega

/-- The groups of at most 128 values that fill no row are one, all of them converted. -/
theorem qcvtGroups_one (fresh : q.elems = [] ∧ q.scales = [] ∧ q.knots = []) (fits : n < Fmt.perRow q.fmt) (some_ : 0 < n)
    (few : n ≤ 128) (fuel : Nat) : qcvtGroups c f (fuel + 1) n s = (0, false, groupConverted c f n s) := by
  have before : q.Partial := by
    obtain ⟨elems, scales, knots⟩ := fresh
    refine ⟨?_, ?_, ?_⟩
    · rw [elems]
      exact Nat.lt_of_le_of_lt (Nat.zero_le n) fits
    · rw [scales]
      decide
    · rw [knots]
      decide
  have all : min 128 n = n := Nat.min_eq_right few
  have after := emitFull_partial (groupConverted_spec (f := f) (n := n) held).2.2.2.1
    (append_partial (c := c) (f := f) (s := s) held fresh fits)
  have rest (k : Nat) : qcvtGroups c f k 0 (groupConverted c f n s) = (0, false, groupConverted c f n s) := by
    cases k with
    | zero => simp only [qcvtGroups, after, Bool.not_true]
    | succ k => simp only [qcvtGroups, after, Bool.not_true, Bool.false_eq_true, if_false, if_true]
  simp only [qcvtGroups, emitFull_partial held before, Bool.not_true, Bool.false_eq_true, if_false, Nat.ne_of_gt some_, all,
    Nat.sub_self]
  exact rest fuel

end

/-! ## QCVT of a region or of vectors into the bench -/

theorem pauseAt_zero (n : Nat) : pauseAt (some 0) n = 0 := Nat.zero_min n

theorem pauseAt_succ {stop : Option Nat} (goes : stop ≠ some 0) (n : Nat) : ∃ k, pauseAt stop (n + 2) = k + 1 := by
  cases stop with
  | none => exact ⟨n + 1, rfl⟩
  | some k =>
    have pos : k ≠ 0 := fun h => goes (congrArg some h)
    exact ⟨min k (n + 2) - 1, by simp only [pauseAt]; omega⟩

theorem Core.wr_wr_rest (x : Core) (a b : Nat) (u v : BitVec 64) (p q : Bool) : (x.wr a u p).wr b v q
    = { x with g := ((x.wr a u p).wr b v q).g, gPoison := ((x.wr a u p).wr b v q).gPoison } := by
  unfold Core.wr
  split <;> split <;> rfl

section
variable {f : Fields} {x : Core} {q : QOut} (bench : qcvtPort f = none) (held : x.qout = some q)
include bench held

theorem qcvtRegs_bench (m : Nat) : ∃ w, qcvtRegs f m x
    = (x.wr f.b.toNat (BitVec.ofNat 64 m) (x.rdP f.b.toNat)).wr f.a.toNat w (x.rdP f.a.toNat) := by
  simp only [qcvtRegs, bench, held]
  exact ⟨_, rfl⟩

/-- The registers after a conversion into the bench: nothing else of the core changes. -/
theorem qcvtRegs_scalar (m : Nat) : qcvtRegs f m x
    = { x with g := (qcvtRegs f m x).g, gPoison := (qcvtRegs f m x).gPoison } := by
  obtain ⟨w, regs⟩ := qcvtRegs_bench bench held m
  rw [regs]
  exact Core.wr_wr_rest ..

theorem qcvtRegs_count (apart : f.b ≠ f.a) (m : Nat) :
    (qcvtRegs f m x).rd f.b.toNat = if f.b.toNat = 0 then 0 else BitVec.ofNat 64 m := by
  have other : f.b.toNat ≠ f.a.toNat := fun e => apart (BitVec.eq_of_toNat_eq e)
  obtain ⟨w, regs⟩ := qcvtRegs_bench bench held m
  simp only [regs, Core.wr_rd, if_neg (fun h : f.b.toNat = f.a.toNat ∧ f.b.toNat ≠ 0 => other h.1)]
  by_cases zero : f.b.toNat = 0
  · rw [if_neg fun h => h.2 zero, if_pos zero, zero]
    rfl
  · rw [if_pos ⟨trivial, zero⟩, if_neg zero]

end

/-- The fresh output that QCVT of core `x` fills (R82). -/
def freshOut (x : Core) (f : Fields) : QOut := QOut.start (qcwOutFmt x.qcw) (qcvtPort f) (qcvtPlanes x f)

theorem freshOut_fresh (x : Core) (f : Fields) : (freshOut x f).elems = [] ∧ (freshOut x f).scales = []
    ∧ (freshOut x f).knots = [] := ⟨rfl, rfl, rfl⟩

/-- The core with a fresh output open. -/
def Core.opened (x : Core) (f : Fields) (p : Bool) : Core :=
  { x.taint p with qout := some (freshOut (x.taint p) f), nanMet := false }

theorem Core.opened_converting (x : Core) (f : Fields) (p : Bool) : Converting x (x.opened f p) := rfl

/-- The state with core `c`'s output open. -/
def outOpened (c : CoreId) (f : Fields) (p : Bool) (s : State) : State :=
  (s.setCore c ((s.core c).taint p)).setCore c ((s.core c).opened f p)

theorem qcvtOpen_fresh {c : CoreId} {f : Fields} {s : State} (free : (s.core c).qout = none) (p : Bool) :
    qcvtOpen c f (s.setCore c ((s.core c).taint p)) = (true, outOpened c f p s) := by
  have core : (s.setCore c ((s.core c).taint p)).core c = (s.core c).taint p := State.setCore_core ..
  have none_ : ((s.core c).taint p).qout = none := free
  simp only [qcvtOpen, core, qcvtHeld, none_, writeOut_empty (core ▸ none_), if_true]
  rfl

theorem outOpened_core (c f p s) : (outOpened c f p s).core c = (s.core c).opened f p := State.setCore_core ..

theorem outOpened_others (c f p s) : OtherCoresSame c s (outOpened c f p s) :=
  (otherCoresSame_setCore _ _ _).trans (otherCoresSame_setCore _ _ _)

/-- What of a core a conversion and its registers leave as it was. -/
theorem converted_keeps {f : Fields} {x y : Core} {q : QOut} (bench : qcvtPort f = none) (converting : Converting x y)
    (held : y.qout = some q) (m : Nat) : Stays x (qcvtRegs f m y) ∧ (qcvtRegs f m y).lastQueue = x.lastQueue
      ∧ (qcvtRegs f m y).v = x.v ∧ (qcvtRegs f m y).acc = x.acc ∧ (qcvtRegs f m y).qcw = x.qcw
      ∧ (qcvtRegs f m y).qout = y.qout ∧ (qcvtRegs f m y).lfsr = y.lfsr := by
  rw [Converting] at converting
  rw [qcvtRegs_scalar bench held]
  exact ⟨⟨by rw [converting], by rw [converting], by rw [converting], by rw [converting], by rw [converting]⟩,
    by rw [converting], by rw [converting], by rw [converting], by rw [converting], rfl, rfl⟩

/-- What a conversion reads of a core is what the core had. -/
theorem opened_source (c : CoreId) (x : Core) (f : Fields) (p : Bool) (n : Nat) :
    qcvtSource c (x.opened f p) f n = qcvtSource c x f n := rfl

theorem opened_group (x : Core) (f : Fields) (p : Bool) (fmt : Nat) (vals : List (F32 × Bool)) :
    (x.opened f p).groupOf fmt vals = x.groupOf fmt vals := rfl

/-- A QCVT of values of core `c` (SEL 4 or 5) into the bench that meets R82. -/
structure ConvertsValues (c : CoreId) (f : Fields) (stop : Option Nat) (s : State) : Prop where
  starts : Starts (.qcvt c f stop) s
  free : (s.core c).qout = none
  some_ : 0 < ((s.core c).rd f.b.toNat).toNat
  few : ((s.core c).rd f.b.toNat).toNat ≤ 128
  fits : ((s.core c).rd f.b.toNat).toNat < Fmt.perRow (qcwOutFmt (s.core c).qcw)
  bench : bit f.mod 1 = false
  source : f.sel.toNat = 4 ∨ f.sel.toNat = 5
  form : Form.ok ⟨if f.sel.toNat = 4 then 3 else 4, 5, 5, 6, 2, 0⟩ f = true
  pair : pairOk f.a = true
  plane : planeOk ((s.core c).rd f.a.toNat) = true
  vectors : f.sel.toNat = 5 → f.d.toNat + ceilDiv ((s.core c).qdone + ((s.core c).rd f.b.toNat).toNat) 64 ≤ 16
  book : Fmt.isKB (qcwOutFmt (s.core c).qcw) = true → ((s.core c).rd f.b.toNat).toNat % 128 = 0
    ∧ (s.core c).codebook.isSome = true ∧ (s.core c).cb.fmt = qcwOutFmt (s.core c).qcw
  bound : qcvtBound (s.core c) f ((s.core c).rd f.b.toNat).toNat = true
  region : f.sel.toNat = 4 → ∃ r, (s.core c).region f.d.toNat = some r
    ∧ ceilDiv ((s.core c).qdone + ((s.core c).rd f.b.toNat).toNat) (engineCols c) ≤ r.rows

section
variable {c : CoreId} {f : Fields} {stop : Option Nat} {s : State} (h : ConvertsValues c f stop s)
include h

theorem ConvertsValues.notPort : ¬f.sel.toNat < 4 := by
  rcases h.source with e | e <;> rw [e] <;> decide

theorem ConvertsValues.noPort : qcvtPort f = none := by rw [qcvtPort, h.bench]; rfl

theorem ConvertsValues.formed : (Form.ok ⟨if f.sel.toNat < 4 then 0 else if f.sel.toNat = 4 then 3 else 4,
      if bit f.mod 1 then 0 else 5, 5, 6, 2, if bit f.mod 1 then 2 else 0⟩ f
    && (bit f.mod 1 || (pairOk f.a && planeOk ((s.core c).rd f.a.toNat)))
    && !(f.sel.toNat = 5 && 16 < f.d.toNat + ceilDiv ((s.core c).qdone + ((s.core c).rd f.b.toNat).toNat) 64)) = true := by
  have vectors : (decide (f.sel.toNat = 5)
      && decide (16 < f.d.toNat + ceilDiv ((s.core c).qdone + ((s.core c).rd f.b.toNat).toNat) 64)) = false := by
    rw [Bool.and_eq_false_iff, decide_eq_false_iff_not, decide_eq_false_iff_not, ← imp_iff_not_or, Nat.not_lt]
    exact h.vectors
  rw [if_neg h.notPort, h.bench, vectors, h.pair, h.plane]
  simp only [Bool.false_eq_true, if_false, Bool.false_or, Bool.and_self, Bool.not_false, Bool.and_true]
  exact h.form

theorem ConvertsValues.booked : (!Fmt.isKB (qcwOutFmt (s.core c).qcw) || (((s.core c).rd f.b.toNat).toNat % 128 = 0
    && (s.core c).codebook.isSome && (s.core c).cb.fmt = qcwOutFmt (s.core c).qcw)) = true := by
  cases kb : Fmt.isKB (qcwOutFmt (s.core c).qcw) with
  | false => rfl
  | true =>
    obtain ⟨whole, book, format⟩ := h.book kb
    simp only [whole, book, format, decide_true, Bool.and_self, Bool.or_true]

theorem ConvertsValues.placed : (decide (f.sel.toNat = 4) && (match (s.core c).region f.d.toNat with
    | some r => decide (r.rows < ceilDiv ((s.core c).qdone + ((s.core c).rd f.b.toNat).toNat) (engineCols c))
    | none => true)) = false := by
  by_cases region : f.sel.toNat = 4
  · obtain ⟨r, at_, rows⟩ := h.region region
    simp only [at_, decide_eq_false (Nat.not_lt.2 rows), Bool.and_false]
  · simp only [decide_eq_false region, Bool.false_and]

theorem ConvertsValues.causes : ∀ k ∈ [(ExcClass.illegal, !(Form.ok ⟨if f.sel.toNat < 4 then 0 else if f.sel.toNat = 4 then 3 else 4,
      if bit f.mod 1 then 0 else 5, 5, 6, 2, if bit f.mod 1 then 2 else 0⟩ f
    && (bit f.mod 1 || (pairOk f.a && planeOk ((s.core c).rd f.a.toNat)))
    && !(f.sel.toNat = 5 && 16 < f.d.toNat + ceilDiv ((s.core c).qdone + ((s.core c).rd f.b.toNat).toNat) 64))),
    (ExcClass.format, !(!Fmt.isKB (qcwOutFmt (s.core c).qcw) || (((s.core c).rd f.b.toNat).toNat % 128 = 0
      && (s.core c).codebook.isSome && (s.core c).cb.fmt = qcwOutFmt (s.core c).qcw))
      || (bit f.mod 1 && qcvtTooMuch (s.core c) f ((s.core c).rd f.b.toNat).toNat)),
    (ExcClass.bound, !bit f.mod 1 && !qcvtBound (s.core c) f ((s.core c).rd f.b.toNat).toNat),
    (ExcClass.region, decide (f.sel.toNat = 4) && (match (s.core c).region f.d.toNat with
      | some r => decide (r.rows < ceilDiv ((s.core c).qdone + ((s.core c).rd f.b.toNat).toNat) (engineCols c))
      | none => true)),
    (ExcClass.stream, (decide (f.sel.toNat < 4) && (if f.sel.toNat < 4 then portQueue s c f.sel.toNat else none).isNone)
      || (match qcvtPort f with
        | some i => (portQueue s c (4 + i)).isNone
        | none => false))], k.2 = false := by
  rw [h.formed, h.booked, h.placed, h.bench, h.bound, decide_eq_false h.notPort, h.noPort]
  simp

/-- The effect of QCVT, once its output is open (R49, R91). -/
def qcvtEffect (c : CoreId) (f : Fields) (stop : Option Nat) (n : Nat) (s : State) : State :=
  let r := qcvtGroups c f (pauseAt stop (n / 128 + 2)) n s
  if r.2.1 then
    let u := qcvtWaitOut c f r.1 r.2.2
    if r.1 < n then progress u c else u
  else if r.1 = 0 then qcvtDone c f 0 r.2.2
  else progress (pauseWith c (qcvtRegs f r.1 (r.2.2.core c)) r.2.2) c

/-- The instruction's poison: that of its count and of its plane rows (R358). -/
def qcvtTaint (x : Core) (f : Fields) : Bool := x.rdP f.b.toNat || (x.rdP f.a.toNat || x.rdP (f.a.toNat + 1))

theorem ConvertsValues.run : ∃ causes body, exec (.qcvt c f stop) s = issue c Op.qcvt f causes body s
    ∧ (∀ k ∈ causes, k.2 = false) ∧ body s
      = qcvtEffect c f stop ((s.core c).rd f.b.toNat).toNat (outOpened c f (qcvtTaint (s.core c) f) s) := by
  refine ⟨_, _, exec_qcvt c f stop s, h.causes, ?_⟩
  have opened := qcvtOpen_fresh (f := f) h.free (qcvtTaint (s.core c) f)
  simp only [qcvtTaint] at opened
  simp only [h.bench, Bool.not_false, Bool.true_and, opened, Bool.not_true, Bool.false_eq_true, if_false, if_neg h.notPort]
  rfl

/-- One that does not stop before its group converts it and completes (R49). -/
theorem ConvertsValues.converts (goes : stop ≠ some 0) :
    let x := s.core c
    let g := x.groupOf (qcwOutFmt x.qcw) (qcvtSource c x f (x.rd f.b.toNat).toNat)
    ∃ t, exec (.qcvt c f stop) s = .next t ∧ SameBytes s t ∧ OtherCoresSame c s t ∧ Advanced x (t.core c)
      ∧ (f.b ≠ f.a → (t.core c).rd f.b.toNat = 0) ∧ (t.core c).v = x.v ∧ (t.core c).acc = x.acc ∧ (t.core c).qcw = x.qcw
      ∧ (t.core c).qout = some ((freshOut x f).append g) ∧ (t.core c).lfsr = g.lfsr := by
  intro x g
  obtain ⟨causes, body, run, legal, effect⟩ := h.run
  obtain ⟨k, fuel⟩ := pauseAt_succ goes (((s.core c).rd f.b.toNat).toNat / 128)
  have held : ((outOpened c f (qcvtTaint x f) s).core c).qout = some (freshOut x f) := by
    rw [outOpened_core]
    rfl
  have group := qcvtGroups_one (c := c) (f := f) held (freshOut_fresh x f) h.fits h.some_ h.few k
  obtain ⟨mem, others, converting, out, lfsr⟩ := groupConverted_spec (f := f) (n := (x.rd f.b.toNat).toNat) held
  have format : (freshOut x f).fmt = qcwOutFmt x.qcw := rfl
  rw [outOpened_core] at converting out lfsr
  rw [opened_source, opened_group, format] at out lfsr
  have converting := (x.opened_converting f (qcvtTaint x f)).trans converting
  obtain ⟨stays, last, v, acc, qcw, qout, lfsr'⟩ := converted_keeps h.noPort converting out 0
  have count := qcvtRegs_count h.noPort out (m := 0)
  generalize groupConverted c f (x.rd f.b.toNat).toNat (outOpened c f (qcvtTaint x f) s) = u at *
  have ended : body s = completeWith c { qcvtRegs f 0 (u.core c) with nanMet := false, qdone := 0 } u := by
    rw [effect, qcvtEffect]
    simp only [fuel]
    rw [group]
    rfl
  obtain ⟨t, ex, only, ends, kept⟩ := exec_ends (i := .qcvt c f stop) rfl h.starts legal run
    (y := { qcvtRegs f 0 (u.core c) with nanMet := false, qdone := 0 }) ⟨stays.1, stays.2, stays.3, stays.4, stays.5⟩ last ended
  refine ⟨t, ex, fun a => ?_, ((outOpened_others c f (qcvtTaint x f) s).trans others).trans only.2.1, ends, fun apart => ?_, ?_, ?_, ?_, ?_, ?_⟩
  · rw [only.1, mem]
    rfl
  · rw [kept]
    refine (count apart).trans ?_
    exact ite_self _
  · rw [kept]
    exact v
  · rw [kept]
    exact acc
  · rw [kept]
    exact qcw
  · rw [kept]
    exact qout.trans out
  · rw [kept]
    exact lfsr'.trans lfsr

omit h in
theorem freshOut_partial {x : Core} {n : Nat} (fits : n < Fmt.perRow (qcwOutFmt x.qcw)) : (freshOut x f).Partial :=
  ⟨Nat.lt_of_le_of_lt (Nat.zero_le n) fits, Nat.succ_pos 511, Nat.succ_pos 255⟩

/-- One that stops before its group has converted nothing (R91). -/
theorem ConvertsValues.pauses (stops : stop = some 0) :
    let x := s.core c
    ∃ t, exec (.qcvt c f stop) s = .next t ∧ SameBytes s t ∧ OtherCoresSame c s t ∧ PausesQueued Op.qcvt f x (t.core c)
      ∧ (t.core c).qout = some (freshOut x f) ∧ (t.core c).lfsr = x.lfsr
      ∧ (f.b ≠ f.a → (t.core c).rd f.b.toNat = x.rd f.b.toNat) := by
  intro x
  obtain ⟨causes, body, run, legal, effect⟩ := h.run
  have core := outOpened_core c f (qcvtTaint x f) s
  have held : ((outOpened c f (qcvtTaint x f) s).core c).qout = some (freshOut x f) := by
    rw [core]
    rfl
  have others := outOpened_others c f (qcvtTaint x f) s
  have left_ : qcvtGroups c f (pauseAt stop ((x.rd f.b.toNat).toNat / 128 + 2)) (x.rd f.b.toNat).toNat
      (outOpened c f (qcvtTaint x f) s) = ((x.rd f.b.toNat).toNat, false, outOpened c f (qcvtTaint x f) s) := by
    rw [stops, pauseAt_zero]
    simp only [qcvtGroups, emitFull_partial held (freshOut_partial h.fits), Bool.not_true]
  have bytes : (outOpened c f (qcvtTaint x f) s).mem = s.mem := rfl
  have converting : Converting x ((outOpened c f (qcvtTaint x f) s).core c) := core ▸ x.opened_converting ..
  have lfsr : ((outOpened c f (qcvtTaint x f) s).core c).lfsr = x.lfsr := by
    rw [core]
    rfl
  obtain ⟨stays, -, -, -, -, qout, lfsr'⟩ := converted_keeps h.noPort converting held (x.rd f.b.toNat).toNat
  have count := qcvtRegs_count h.noPort held (m := (x.rd f.b.toNat).toNat)
  generalize outOpened c f (qcvtTaint x f) s = u at *
  have paused : body s = progress (pauseWith c (qcvtRegs f (x.rd f.b.toNat).toNat (u.core c)) u) c := by
    rw [effect, qcvtEffect, left_]
    simp only [Bool.false_eq_true, if_false]
    exact if_neg (Nat.ne_of_gt h.some_)
  obtain ⟨t, ex, only, ends, kept⟩ := exec_pauses (i := .qcvt c f stop) (t := u) rfl h.starts legal run stays rfl paused
    (by simp [pauseWith]) ((onlyCore_setCore ..).trans (onlyCore_progress ..))
  refine ⟨t, ex, fun a => by rw [only.1, bytes], others.trans only.2.1, ends, ?_, ?_, fun apart => ?_⟩
  · rw [kept]
    exact qout.trans held
  · rw [kept]
    exact lfsr'.trans lfsr
  · rw [kept]
    refine (count apart).trans ?_
    by_cases zero : f.b.toNat = 0
    · rw [if_pos zero, Core.rd, if_pos zero]
    · rw [if_neg zero, BitVec.ofNat_toNat, BitVec.setWidth_eq]

end

/-- Settles O13: a fresh output that one group does not fill writes no row, so the instruction converts its group and
completes, or pauses before it. -/
theorem qcvtConvertsAGroup : Obligations.QcvtConvertsAGroup := by
  unfold Obligations.QcvtConvertsAGroup
  intro c f stop s starts x n fmt free some_ few fits bench source form pair plane vectors book bound region
  have values : ConvertsValues c f stop s :=
    ⟨starts, free, some_, few, fits, bench, source, form, pair, plane, vectors, book, bound, region⟩
  refine ⟨fun goes => ?_, fun stops => ?_⟩
  · obtain ⟨t, ex, bytes, others, ends, count, v, acc, qcw, qout, lfsr⟩ := values.converts goes
    exact ⟨t, _, ex, bytes, others, ends, count, v, acc, qcw, qout, rfl, values.noPort, rfl, lfsr⟩
  · obtain ⟨t, ex, bytes, others, pauses, qout, lfsr, count⟩ := values.pauses stops
    exact ⟨t, _, ex, bytes, others, pauses, qout, rfl, lfsr, count⟩

end Sys2Proof.Machine
end

section
/-! PROOFS. The sums of a pass, and the slices and units in which it makes them (R26–R28, R38, R40). -/

namespace Sys2Proof.Machine

/-! ## Sums over consecutive positions -/

/-- `n` units of 32 positions of an operand, from unit `lo` on. -/
def elemsOf (F : Nat → Elem) (lo n : Nat) : List Elem := (List.range (32 * n)).map (fun j => F (32 * lo + j))

theorem elemsOf_add (F : Nat → Elem) (lo m n : Nat) : elemsOf F lo (m + n) = elemsOf F lo m ++ elemsOf F (lo + m) n := by
  have shifted : (fun j => F (32 * lo + j)) ∘ (fun j => 32 * m + j) = fun j => F (32 * (lo + m) + j) := by
    funext j
    simp only [Function.comp_apply, Nat.mul_add, Nat.add_assoc]
  rw [elemsOf, elemsOf, elemsOf, Nat.mul_add, List.range_add, List.map_append, List.map_map, shifted]

theorem elemsOf_length (F : Nat → Elem) (lo n : Nat) : (elemsOf F lo n).length = 32 * n := by
  rw [elemsOf, List.length_map, List.length_range]

/-- An accumulator after `n` units of 32 positions from unit `lo` on: slices of 32 positions on the narrow path, one product
at a time on the wide path (R27, R28). -/
def sumOver (wide : Bool) (W A : Nat → Elem) (lo n : Nat) (acc : F32) : F32 :=
  if wide then wideSum (elemsOf W lo n) (elemsOf A lo n) acc else narrowSum n (elemsOf W lo n) (elemsOf A lo n) acc

theorem sumOver_zero (wide : Bool) (W A : Nat → Elem) (lo : Nat) (acc : F32) : sumOver wide W A lo 0 acc = acc := by
  rw [sumOver]
  split <;> rfl

theorem wideSum_append (ws vs as bs : List Elem) (acc : F32) (same : ws.length = as.length) :
    wideSum (ws ++ vs) (as ++ bs) acc = wideSum vs bs (wideSum ws as acc) := by
  rw [wideSum, List.zip_append same, List.foldl_append]
  rfl

theorem narrowSum_succ (W A : Nat → Elem) (lo n : Nat) (acc : F32) :
    narrowSum (n + 1) (elemsOf W lo (n + 1)) (elemsOf A lo (n + 1)) acc
      = narrowSum n (elemsOf W (lo + 1) n) (elemsOf A (lo + 1) n)
        (F32.add acc (sliceSum (elemsOf W lo 1) (elemsOf A lo 1))) := by
  have first (F : Nat → Elem) : (elemsOf F lo (n + 1)).take 32 = elemsOf F lo 1 := by
    rw [Nat.add_comm, elemsOf_add]
    exact List.take_left' (elemsOf_length F lo 1)
  have rest (F : Nat → Elem) : (elemsOf F lo (n + 1)).drop 32 = elemsOf F (lo + 1) n := by
    rw [Nat.add_comm, elemsOf_add]
    exact List.drop_left' (elemsOf_length F lo 1)
  rw [narrowSum, first, first, rest, rest]

theorem narrowSum_add (W A : Nat → Elem) (n : Nat) : ∀ (m lo : Nat) (acc : F32),
    narrowSum (m + n) (elemsOf W lo (m + n)) (elemsOf A lo (m + n)) acc
      = narrowSum n (elemsOf W (lo + m) n) (elemsOf A (lo + m) n)
        (narrowSum m (elemsOf W lo m) (elemsOf A lo m) acc)
  | 0, lo, acc => by
    rw [Nat.zero_add]
    rfl
  | m + 1, lo, acc => by
    rw [Nat.add_right_comm m 1 n, narrowSum_succ, narrowSum_succ W A lo m, narrowSum_add W A n m (lo + 1),
      Nat.add_right_comm lo 1 m]
    rfl

/-- The sum over a pass is the sums over its parts, one after the other (R26). -/
theorem sumOver_add (wide : Bool) (W A : Nat → Elem) (lo m n : Nat) (acc : F32) :
    sumOver wide W A lo (m + n) acc = sumOver wide W A (lo + m) n (sumOver wide W A lo m acc) := by
  simp only [sumOver]
  split
  · rw [elemsOf_add, elemsOf_add, wideSum_append _ _ _ _ _ (by rw [elemsOf_length, elemsOf_length])]
  · exact narrowSum_add W A n m lo acc

/-! ## Slices -/

/-- The slices follow one another from unit `lo` to unit `hi`, none of them empty. -/
inductive Tiles : Nat → Nat → List (Nat × Nat) → Prop
  | nil (k : Nat) : Tiles k k []
  | cons (lo len hi : Nat) (l : List (Nat × Nat)) (pos : 0 < len) (rest : Tiles (lo + len) hi l) : Tiles lo hi ((lo, len) :: l)

/-- Slice `i` of a pass, counted from unit 0 in slices of `u` units. -/
def sliceAt (u ks klen i : Nat) : Nat × Nat := (max ks (i * u), min (ks + klen) ((i + 1) * u) - max ks (i * u))

theorem slicesOf_eq (u ks klen : Nat) : slicesOf u ks klen
    = (List.range' (ks / u) ((ks + klen - 1) / u + 1 - ks / u)).map (sliceAt u ks klen) := by
  rw [slicesOf, List.range'_eq_map_range, List.map_map]
  rfl

/-- The slices from number `i` on, up to the last, tile the rest of the pass. -/
theorem slices_tile {u ks klen : Nat} (some_ : 0 < klen) : ∀ (n i : Nat), ks < (i + 1) * u →
    (i + n) * u < ks + klen → ks + klen ≤ (i + n + 1) * u → Tiles (max ks (i * u)) (ks + klen) ((List.range' i (n + 1)).map (sliceAt u ks klen))
  | 0, i, begins, last_, ends => by
    rw [Nat.add_zero] at last_ ends
    have whole : sliceAt u ks klen i = (max ks (i * u), ks + klen - max ks (i * u)) := by rw [sliceAt, Nat.min_eq_left ends]
    have next : (i + 1) * u = i * u + u := Nat.succ_mul i u
    rw [List.range'_one, List.map_singleton, whole]
    refine .cons _ _ _ _ (by omega) ?_
    rw [Nat.add_sub_cancel' (by omega)]
    exact .nil _
  | n + 1, i, begins, last_, ends => by
    have within : (i + 1) * u ≤ (i + (n + 1)) * u := Nat.mul_le_mul_right u (by omega)
    have next : (i + 1) * u = i * u + u := Nat.succ_mul i u
    have whole : sliceAt u ks klen i = (max ks (i * u), (i + 1) * u - max ks (i * u)) := by
      rw [sliceAt, Nat.min_eq_right (Nat.le_of_lt (Nat.lt_of_le_of_lt within last_))]
    have after : (i + 1 + 1) * u = (i + 1) * u + u := Nat.succ_mul (i + 1) u
    have count : i + 1 + n = i + (n + 1) := by omega
    have rest := slices_tile (u := u) some_ n (i + 1) (by omega) (count ▸ last_) (count ▸ ends)
    rw [Nat.max_eq_right (Nat.le_of_lt begins)] at rest
    have pos : 0 < u := Nat.pos_of_ne_zero fun zero => by
      rw [zero] at begins
      exact Nat.not_lt_zero _ begins
    have len : max ks (i * u) + ((i + 1) * u - max ks (i * u)) = (i + 1) * u := Nat.add_sub_cancel' (by omega)
    rw [List.range'_succ, List.map_cons, whole]
    refine .cons _ _ _ _ (by omega) ?_
    rw [len]
    exact rest

/-- The slices of a pass follow one another from its first position to its last (R38). -/
theorem slicesOf_tiles {u ks klen : Nat} (pos : 0 < u) (some_ : 0 < klen) : Tiles ks (ks + klen) (slicesOf u ks klen) := by
  have below : ks / u ≤ (ks + klen - 1) / u := Nat.div_le_div_right (by omega)
  have begins : ks < (ks / u + 1) * u := Nat.mul_comm u _ ▸ Nat.lt_mul_div_succ ks pos
  have ends : ks + klen - 1 < ((ks + klen - 1) / u + 1) * u := Nat.mul_comm u _ ▸ Nat.lt_mul_div_succ (ks + klen - 1) pos
  have last_ : (ks + klen - 1) / u * u ≤ ks + klen - 1 := Nat.div_mul_le_self ..
  have first : ks / u * u ≤ ks := Nat.div_mul_le_self ..
  have count : ks / u + ((ks + klen - 1) / u - ks / u) = (ks + klen - 1) / u := Nat.add_sub_cancel' below
  have tiles := slices_tile (u := u) some_ ((ks + klen - 1) / u - ks / u) (ks / u) begins
    (by rw [count]; omega) (by rw [count]; omega)
  rw [Nat.max_eq_left first] at tiles
  rw [slicesOf_eq, Nat.succ_sub below]
  exact tiles

/-! ## The units of a pass -/

/-- The units of one slice: one for each activation row. -/
def sliceRows (m : Nat) (sl : Nat × Nat) : List PassUnit := (List.range m).map (fun r => ⟨sl.1, sl.2, r⟩)

theorem Tiles.from_le {lo hi : Nat} {l : List (Nat × Nat)} (h : Tiles lo hi l) : ∀ sl ∈ l, lo ≤ sl.1 ∧ sl.1 + sl.2 ≤ hi := by
  induction h with
  | nil => exact fun _ => nofun
  | cons lo len hi l pos rest ih =>
    have ends : lo + len ≤ hi := by
      cases rest with
      | nil => exact Nat.le_refl _
      | cons _ len' _ _ _ _ => have := ih (lo + len, len') (.head _); omega
    intro sl mem
    rcases List.mem_cons.1 mem with rfl | mem
    · exact ⟨Nat.le_refl lo, ends⟩
    · have := ih sl mem
      omega

/-- A pass that starts at its first position has all the units of its slices. -/
theorem passUnits_start {u ks klen m : Nat} (tiles : Tiles ks (ks + klen) (slicesOf u ks klen)) :
    passUnits u ks klen m ks 0 = (slicesOf u ks klen).flatMap (sliceRows m) := by
  rw [passUnits]
  refine List.flatMap_congr fun sl mem => ?_
  rw [if_neg (Nat.not_lt.2 (tiles.from_le sl mem).1), sliceRows]
  simp only [Nat.not_lt_zero, decide_false, Bool.and_false, Bool.false_eq_true, if_false]
  exact congrFun List.filterMap_eq_map' _

/-- Every slice begins at another unit. -/
theorem Tiles.distinct {lo hi : Nat} {l : List (Nat × Nat)} (h : Tiles lo hi l) : l.Pairwise (fun a b => a.1 ≠ b.1) := by
  induction h with
  | nil => exact .nil
  | cons lo len hi l pos rest ih =>
    refine .cons (fun sl mem => ?_) ih
    have := (rest.from_le sl mem).1
    exact Nat.ne_of_lt (by omega)

theorem sliceRows_slices (m : Nat) (sl : Nat × Nat) : (sliceRows m sl).map (fun q => (q.k, q.len)) = List.replicate m sl := by
  rw [sliceRows, List.map_map]
  exact List.eq_replicate_iff.2 ⟨by rw [List.length_map, List.length_range], fun a mem => by
    obtain ⟨r, -, rfl⟩ := List.mem_map.1 mem
    rfl⟩

/-- The slices of the units, each once, are the slices. -/
theorem units_slices {m : Nat} (pos : 0 < m) : ∀ {l : List (Nat × Nat)}, l.Pairwise (fun a b => a.1 ≠ b.1) →
    ((l.flatMap (sliceRows m)).map (fun q => (q.k, q.len))).eraseDups = l
  | [], _ => rfl
  | sl :: l, distinct => by
    obtain ⟨k, rfl⟩ := Nat.exists_eq_add_one_of_ne_zero (Nat.ne_of_gt pos)
    obtain ⟨other, later⟩ := List.pairwise_cons.1 distinct
    have copies : (List.replicate k sl).filter (fun b => !b == sl) = [] :=
      List.filter_eq_nil_iff.2 fun b mem => by simp [List.eq_of_mem_replicate mem]
    have rest : ((l.flatMap (sliceRows (k + 1))).map (fun q => (q.k, q.len))).filter (fun b => !b == sl)
        = (l.flatMap (sliceRows (k + 1))).map (fun q => (q.k, q.len)) := by
      refine List.filter_eq_self.2 fun b mem => ?_
      obtain ⟨q, unit, rfl⟩ := List.mem_map.1 mem
      obtain ⟨sl', slice, row⟩ := List.mem_flatMap.1 unit
      obtain ⟨r, -, rfl⟩ := List.mem_map.1 row
      have apart : (sl'.1, sl'.2) ≠ sl := fun e => other sl' slice (congrArg Prod.fst e).symm
      simp [apart]
    rw [List.flatMap_cons, List.map_append, sliceRows_slices, List.replicate_succ, List.cons_append, List.eraseDups_cons,
      List.filter_append, copies, List.nil_append, rest, units_slices pos later]

/-- The units of one slice are those that begin where it does. -/
theorem units_filter (m : Nat) {sl : Nat × Nat} : ∀ {l : List (Nat × Nat)}, l.Pairwise (fun a b => a.1 ≠ b.1) → sl ∈ l →
    (l.flatMap (sliceRows m)).filter (fun q => q.k = sl.1) = sliceRows m sl
  | [], _, mem => nomatch mem
  | sl' :: l, distinct, mem => by
    obtain ⟨other, later⟩ := List.pairwise_cons.1 distinct
    have own (a : Nat × Nat) (same : a.1 = sl.1) : (sliceRows m a).filter (fun q => q.k = sl.1) = sliceRows m a :=
      List.filter_eq_self.2 fun q row => by
        obtain ⟨r, -, rfl⟩ := List.mem_map.1 row
        exact decide_eq_true same
    have none_ (a : Nat × Nat) (apart : a.1 ≠ sl.1) : (sliceRows m a).filter (fun q => q.k = sl.1) = [] :=
      List.filter_eq_nil_iff.2 fun q row => by
        obtain ⟨r, -, rfl⟩ := List.mem_map.1 row
        simpa using apart
    rw [List.flatMap_cons, List.filter_append]
    rcases List.mem_cons.1 mem with rfl | mem
    · have rest : (l.flatMap (sliceRows m)).filter (fun q => q.k = sl.1) = [] :=
        List.filter_eq_nil_iff.2 fun q unit => by
          obtain ⟨a, slice, row⟩ := List.mem_flatMap.1 unit
          obtain ⟨r, -, rfl⟩ := List.mem_map.1 row
          simpa using (other a slice).symm
      rw [own sl rfl, rest, List.append_nil]
    · rw [none_ sl' (other sl mem), List.nil_append, units_filter m later mem]

theorem sliceRows_end {m : Nat} (pos : 0 < m) {lo len e : Nat} (below : e ≤ lo + len) :
    (sliceRows m (lo, len)).foldl (fun e q => max e (q.k + q.len)) e = lo + len := by
  have each (n : Nat) : ∀ e, e ≤ lo + len →
      ((List.range n).map (fun r => (⟨lo, len, r⟩ : PassUnit))).foldl (fun e q => max e (q.k + q.len)) e
        = if n = 0 then e else lo + len := by
    induction n with
    | zero => exact fun e _ => rfl
    | succ n ih =>
      intro e below
      rw [List.range_succ, List.map_append, List.foldl_append, ih e below, if_neg n.succ_ne_zero]
      split
      · exact Nat.max_eq_right below
      · exact Nat.max_self _
  rw [sliceRows, each m e below, if_neg (Nat.ne_of_gt pos)]

/-- The last unit of the units is the last of the slices. -/
theorem units_end {m : Nat} (pos : 0 < m) {lo hi : Nat} {l : List (Nat × Nat)} (tiles : Tiles lo hi l) :
    ∀ e, e ≤ lo → l ≠ [] → (l.flatMap (sliceRows m)).foldl (fun e q => max e (q.k + q.len)) e = hi := by
  induction tiles with
  | nil => exact fun _ _ some_ => absurd rfl some_
  | cons lo len hi l _ rest ih =>
    intro e below _
    rw [List.flatMap_cons, List.foldl_append, sliceRows_end pos (Nat.le_trans below (Nat.le_add_right ..))]
    cases rest with
    | nil => rfl
    | cons lo' len' hi' l' pos' rest' => exact ih _ (Nat.le_refl _) (List.cons_ne_nil _ _)

end Sys2Proof.Machine
end

section
/-! PROOFS. What the units of a pass add to the accumulators, and what else of the core they change (R26–R28, R35, R36). -/

namespace Sys2Proof.Machine

/-! ## What a pass may change of its core -/

/-- Nothing of the core but its accumulators, what it keeps of the pass in progress and its checksums, and its cycle
bookkeeping differs. -/
def PassFrame (x y : Core) : Prop :=
  y = { x with
    acc := y.acc, accPoison := y.accPoison, lanes := y.lanes, spanSums := y.spanSums, flagged := y.flagged
    passNan := y.passNan, passBad := y.passBad, passRows := y.passRows, cursor := y.cursor, sides := y.sides
    statDesc := y.statDesc, tainted := y.tainted, counters := y.counters, counted := y.counted, errLog := y.errLog
    planeBufs := y.planeBufs, stationary := y.stationary, lastWide := y.lastWide, nanp := y.nanp }

theorem PassFrame.trans {x y z : Core} (h : PassFrame x y) (g : PassFrame y z) : PassFrame x z := by
  rw [PassFrame] at *
  rw [g, h]

/-- A pass keeps what a task reads of its core, its regions and its passes. -/
theorem PassFrame.stays {x y : Core} (h : PassFrame x y) : Stays x y := by
  rw [h]
  exact ⟨rfl, rfl, rfl, rfl, rfl⟩

/-- Nothing of the core but its checksum lanes, their sums and flags, and the poison of its accumulators differs. -/
def LaneFrame (x y : Core) : Prop :=
  y = { x with lanes := y.lanes, spanSums := y.spanSums, flagged := y.flagged, accPoison := y.accPoison }

theorem LaneFrame.trans {x y z : Core} (h : LaneFrame x y) (g : LaneFrame y z) : LaneFrame x z := by
  rw [LaneFrame] at *
  rw [g, h]

theorem LaneFrame.pass {x y : Core} (h : LaneFrame x y) : PassFrame x y := by
  rw [h]
  rfl

theorem LaneFrame.acc {x y : Core} (h : LaneFrame x y) : y.acc = x.acc := by rw [h]

theorem laneFrame_foldl {α : Type} {g : Core → α → Core} (step : ∀ x e, LaneFrame x (g x e)) :
    ∀ (l : List α) (x : Core), LaneFrame x (l.foldl g x)
  | [], _ => rfl
  | e :: l, x => (step x e).trans (laneFrame_foldl step l (g x e))

theorem laneStep_frame (i : PassInfo) (cols : Nat) (as : List Elem) (before : List F32) (m : Nat) (x : Core)
    (e : Nat × List (Val × Val)) : LaneFrame x (laneStep i cols as before m x e) := rfl

theorem flagRow_frame (k nc pass accRow col : Nat) (sum cv pv : F32) (x : Core) :
    LaneFrame x (flagRow k nc pass accRow col sum cv pv x) := by
  rw [flagRow]
  split <;> rfl

theorem closeLane_frame (c : CoreId) (i : PassInfo) (cols m : Nat) (x : Core) (span : Nat) :
    LaneFrame x (closeLane c i cols m x span) := by
  unfold closeLane
  split
  · rfl
  · dsimp only
    split
    · refine LaneFrame.trans ?_ (flagRow_frame ..)
      rfl
    · rfl

/-! ## One unit -/

/-- An accumulator of row `r` and column `n` after the products of `len` units of 32 positions from `lo` on. -/
def passedSum (i : PassInfo) (w : Stationary) (a : Activation) (r n lo len : Nat) (acc : F32) : F32 :=
  sumOver (Fmt.wide w.fmt || Fmt.wide a.fmt) (fun k => w.at k n) (fun k => a.at r (k - 32 * i.ks)) lo len acc

/-- What the products of `len` units of 32 positions from `lo` on, for `m` activation rows, change of the core. -/
structure Summed (c : CoreId) (i : PassInfo) (w : Stationary) (a : Activation) (m lo len : Nat) (x y : Core) : Prop where
  frame : PassFrame x y
  row : ∀ r n, r < m → n < engineCols c → y.acc.get 0 ((i.first + r) * engineCols c + n)
    = passedSum i w a r n lo len (x.acc.get 0 ((i.first + r) * engineCols c + n))
  outside : ∀ e, (e < i.first * engineCols c ∨ (i.first + m) * engineCols c ≤ e) → y.acc.get 0 e = x.acc.get 0 e

section
variable {c : CoreId} {i : PassInfo} {w : Stationary} {a : Activation} {m lo len n : Nat} {x y z : Core}

theorem Summed.none (x : Core) : Summed c i w a m lo 0 x x :=
  ⟨rfl, fun _ _ _ _ => (sumOver_zero ..).symm, fun _ _ => rfl⟩

theorem Summed.noRows (x : Core) : Summed c i w a 0 lo len x x :=
  ⟨rfl, fun _ _ h => absurd h (Nat.not_lt_zero _), fun _ _ => rfl⟩

theorem Summed.append (h : Summed c i w a m lo len x y) (g : Summed c i w a m (lo + len) n y z) :
    Summed c i w a m lo (len + n) x z :=
  ⟨h.frame.trans g.frame, fun r k hr hk => by rw [g.row r k hr hk, h.row r k hr hk]; exact (sumOver_add ..).symm,
    fun e out => (g.outside e out).trans (h.outside e out)⟩

end

/-- The columns of a slice: for each, its elements at the slice's positions. -/
def sliceCols (w : Stationary) (sl : Nat × Nat) : List (List Elem) :=
  (List.range w.cols).map (fun n => elemsOf (fun k => w.at k n) sl.1 sl.2)

theorem sliceCols_eq (w : Stationary) (sl : Nat × Nat) : (List.range w.cols).map (fun n =>
    ((List.range (32 * sl.2)).map (32 * sl.1 + ·)).map (fun k => w.at k n)) = sliceCols w sl := by
  simp only [List.map_map]
  rfl

theorem setAcc_frame (x : Core) (c : CoreId) (r : Nat) (vs : List F32) (p : Bool) : PassFrame x (x.setAcc c r vs p) := rfl

/-- The values that a unit gives to its accumulator row. -/
def unitRow (c : CoreId) (i : PassInfo) (w : Stationary) (a : Activation) (wcols : List (List Elem)) (q : PassUnit)
    (x : Core) : List F32 :=
  List.zipWith (fun ws v => if Fmt.wide w.fmt || Fmt.wide a.fmt
      then wideSum ws ((List.range (32 * q.len)).map (fun j => a.at q.row (32 * (q.k - i.ks) + j))) v
      else narrowSum q.len ws ((List.range (32 * q.len)).map (fun j => a.at q.row (32 * (q.k - i.ks) + j))) v)
    wcols (x.accRow c (i.first + q.row))

/-- A unit writes its accumulator row, and changes no other accumulator. -/
theorem passUnit_frame (c : CoreId) (i : PassInfo) (w : Stationary) (a : Activation) (wcols : List (List Elem))
    (entries : List (Nat × List (Val × Val))) (q : PassUnit) (x : Core) :
    PassFrame x (passUnit c i w a wcols entries q x)
      ∧ (passUnit c i w a wcols entries q x).acc = setAccRow c (i.first + q.row) (unitRow c i w a wcols q x) x.acc := by
  rw [passUnit]
  have begun (nan : Bool) : PassFrame x { x.setAcc c (i.first + q.row) (unitRow c i w a wcols q x)
      (x.accRowP (i.first + q.row)) with passNan := nan } := rfl
  have written (nan : Bool) : ({ x.setAcc c (i.first + q.row) (unitRow c i w a wcols q x)
      (x.accRowP (i.first + q.row)) with passNan := nan } : Core).acc
        = setAccRow c (i.first + q.row) (unitRow c i w a wcols q x) x.acc := rfl
  have lanes (y : Core) := laneFrame_foldl (laneStep_frame i w.cols
    ((List.range (32 * q.len)).map (fun j => a.at q.row (32 * (q.k - i.ks) + j))) (x.accRow c (i.first + q.row)) q.row)
    entries y
  split
  · have closed (y : Core) := (lanes y).trans (laneFrame_foldl (closeLane_frame c i w.cols q.row) (i.spans w.cols) _)
    exact ⟨(begun _).trans (closed _).pass, (closed _).acc.trans (written _)⟩
  · exact ⟨(begun _).trans (lanes _).pass, (lanes _).acc.trans (written _)⟩

section
variable {c : CoreId} {i : PassInfo} {w : Stationary} {a : Activation} {wcols : List (List Elem)} {q : PassUnit} {x y : Core}

/-- The positions of the activation operand that a unit reads. -/
theorem unit_positions (within : i.ks ≤ q.k) :
    (List.range (32 * q.len)).map (fun j => a.at q.row (32 * (q.k - i.ks) + j))
      = elemsOf (fun k => a.at q.row (k - 32 * i.ks)) q.k q.len := by
  rw [elemsOf]
  refine List.map_congr_left fun j _ => ?_
  have at_ : 32 * (q.k - i.ks) + j = 32 * q.k + j - 32 * i.ks := by omega
  rw [at_]

theorem unitRow_length (cols : w.cols = engineCols c) :
    (unitRow c i w a (sliceCols w (q.k, q.len)) q x).length = engineCols c := by
  simp [unitRow, sliceCols, Core.accRow, cols]

theorem unitRow_getD (cols : w.cols = engineCols c) (within : i.ks ≤ q.k) {n : Nat} (hn : n < engineCols c) :
    (unitRow c i w a (sliceCols w (q.k, q.len)) q x).getD n 0
      = passedSum i w a q.row n q.k q.len (x.acc.get 0 ((i.first + q.row) * engineCols c + n)) := by
  rw [List.getD_eq_getElem _ _ (by rw [unitRow_length cols]; exact hn)]
  simp only [unitRow, sliceCols, Core.accRow, List.getElem_zipWith, List.getElem_map, List.getElem_range, unit_positions within]
  rfl

end

/-! ## Slices and passes -/

section
variable {c : CoreId} {i : PassInfo} {w : Stationary} {a : Activation} (cols : w.cols = engineCols c)
  (entries : List (Nat × List (Val × Val)))
include cols

/-- One more row of a slice. -/
theorem Summed.unit {m lo len : Nat} {x y : Core} (within : i.ks ≤ lo) (h : Summed c i w a m lo len x y) :
    Summed c i w a (m + 1) lo len x (passUnit c i w a (sliceCols w (lo, len)) entries ⟨lo, len, m⟩ y) := by
  obtain ⟨frame, acc⟩ := passUnit_frame c i w a (sliceCols w (lo, len)) entries ⟨lo, len, m⟩ y
  have acc : _ = setAccRow c (i.first + m) _ _ := acc
  have length := unitRow_length (i := i) (a := a) (q := ⟨lo, len, m⟩) (x := y) cols
  have last : (i.first + (m + 1)) * engineCols c = (i.first + m) * engineCols c + engineCols c := Nat.succ_mul (i.first + m) _
  have begins : i.first * engineCols c ≤ (i.first + m) * engineCols c := Nat.mul_le_mul_right _ (Nat.le_add_right ..)
  refine ⟨h.frame.trans frame, fun r n hr hn => ?_, fun e out => ?_⟩
  · rw [acc, setAccRow_get, length]
    by_cases this_ : r = m
    · subst this_
      rw [if_pos (by omega), Nat.add_sub_cancel_left, unitRow_getD (q := ⟨lo, len, r⟩) cols within hn,
        h.outside _ (.inr (Nat.le_add_right ..))]
    · have before : (i.first + r) * engineCols c + engineCols c ≤ (i.first + m) * engineCols c := by
        rw [← Nat.succ_mul]
        exact Nat.mul_le_mul_right _ (by omega)
      rw [if_neg (by omega)]
      exact h.row r n (by omega) hn
  · rw [acc, setAccRow_get, length, if_neg (by omega)]
    exact h.outside e (by omega)

/-- A slice of all activation rows. -/
theorem slice_summed {lo len : Nat} (within : i.ks ≤ lo) (x : Core) : ∀ m, Summed c i w a m lo len x
    ((sliceRows m (lo, len)).foldl (fun z q => passUnit c i w a (sliceCols w (lo, len)) entries q z) x)
  | 0 => .noRows x
  | m + 1 => by
    rw [sliceRows, List.range_succ, List.map_append, List.foldl_append]
    exact (slice_summed within x m).unit cols entries within

omit entries in
/-- The slices of a pass one after another. -/
theorem passSlices_summed {us : List PassUnit} {m lo hi : Nat} {l : List (Nat × Nat)} (tiles : Tiles lo hi l) :
    i.ks ≤ lo → (∀ sl ∈ l, us.filter (fun q => q.k = sl.1) = sliceRows m sl) → ∀ x,
    Summed c i w a m lo (hi - lo) x (passSlices c i w a us l x) := by
  induction tiles with
  | nil k =>
    intro _ _ x
    rw [Nat.sub_self]
    exact .none x
  | cons lo len hi l pos rest ih =>
    intro within rows x
    have upTo : lo + len ≤ hi := ((Tiles.cons lo len hi l pos rest).from_le _ (.head _)).2
    have split_ : hi - lo = len + (hi - (lo + len)) := by omega
    rw [split_, passSlices, rows _ (.head _), sliceCols_eq]
    exact (slice_summed cols _ within x m).append
      (ih (Nat.le_trans within (Nat.le_add_right ..)) (fun sl mem => rows sl (.tail _ mem)) _)

end

end Sys2Proof.Machine
end

section
/-! PROOFS. The stationary operand that a pass reads, and the run of its units (R39–R41, R79, R80). -/

namespace Sys2Proof.Machine

/-! ## Planes -/

/-- A plane's rows without their poison. -/
def Plane.data (p : Plane) : List (Nat × Row) := p.rows.map (fun r => (r.1, r.2.1))

theorem Plane.row_eq (p : Plane) (i : Nat) : p.row i = ((p.data.find? (fun r => r.1 = i)).map (·.2)).getD 0 := by
  rw [Plane.row, Plane.data, List.find?_map, Option.map_map]
  rfl

/-- What a row of a plane is depends on the data that was read alone. -/
theorem Plane.row_congr {p q : Plane} (same : p.data = q.data) (i : Nat) : p.row i = q.row i := by
  rw [p.row_eq, q.row_eq, same]

/-- A row of zeros after the others changes nothing. -/
theorem Plane.row_zero (p : Plane) (j i : Nat) (b : Bool) : Plane.row { p with rows := p.rows ++ [(j, 0, b)] } i = p.row i := by
  rw [Plane.row, Plane.row, List.find?_append]
  cases p.rows.find? (fun r => r.1 = i) with
  | some r => rfl
  | none =>
    by_cases at_ : j = i <;> simp [at_]

/-- A core that differs in its error log alone. -/
def Logged (x y : Core) : Prop := ∃ l, y = x.withLog l

theorem Logged.trans {x y z : Core} (h : Logged x y) (g : Logged y z) : Logged x z := by
  obtain ⟨l, rfl⟩ := h
  obtain ⟨k, rfl⟩ := g
  exact ⟨k, rfl⟩

theorem Logged.pass {x y : Core} (h : Logged x y) : PassFrame x y ∧ y.acc = x.acc ∧ y.passRows = x.passRows := by
  obtain ⟨l, rfl⟩ := h
  exact ⟨rfl, rfl, rfl⟩

theorem OnlyCoreReading.mem {c : CoreId} {s t : State} (h : OnlyCoreReading c s t) : t.mem = s.mem := by
  obtain ⟨-, -, -, rest⟩ := h
  rw [rest]

theorem readPlane_spec (c : CoreId) (x : Core) (first : Nat) (rows : List Nat) (s : State) :
    (readPlane c x first rows s).1.data = rows.map (fun r => (r, Memory.row (benchAddr c (x.phys (first + r))) s.mem))
      ∧ Logged (s.core c) ((readPlane c x first rows s).2.core c) ∧ OnlyCoreReading c s (readPlane c x first rows s).2 := by
  obtain ⟨data, log, only⟩ := readBenchRows_read c 0 (rows.map (fun j => x.phys (first + j))) s
  refine ⟨?_, log, only⟩
  rw [List.map_map] at data
  have zipped : (readPlane c x first rows s).1.data
      = rows.zip ((readBenchRows c 0 (rows.map (fun j => x.phys (first + j))) s).1.map Prod.fst) := by
    rw [List.zip_map_right]
    rfl
  rw [zipped, data, ← List.map_prod_left_eq_zip]
  rfl

theorem refill_spec (c : CoreId) (x : Core) (which first : Nat) (p : Plane) (y : Core) :
    ∃ b, refill c x which first p y = { y with planeBufs := b } := by
  rw [refill]
  split
  · exact ⟨y.planeBufs, rfl⟩
  · exact ⟨_, rfl⟩

/-! ## The stationary operand -/

/-- The rows of planes that a whole pass touches. -/
def PassOp.planes (o : PassOp) (c : CoreId) : PassPlanes :=
  passPlanes (engineCols c) o.ext o.info (32 * o.info.ks) (32 * (o.info.ks + o.info.klen))

/-- The stationary operand of a pass as it stands in the bench. -/
def PassOp.weights (o : PassOp) (c : CoreId) (s : State) : Stationary :=
  ⟨o.ext.wfmt, engineCols c, passPlane s c o.rows.elem (o.planes c).elem, passPlane s c o.rows.scale (o.planes c).scale,
    passPlane s c o.rows.knot (o.planes c).knot, passPlane s c o.rows.side (o.planes c).side,
    Codebook.ofBits (codebookAt (if Fmt.isKB o.ext.wfmt then taskRow s c o.ext.cbRow else 0) o.ext.cbSlot)⟩

theorem passWeights_eq (s : State) (c : CoreId) (f : Fields) :
    passWeights s c f = (passOp c (s.core c) f).weights c s := rfl

theorem taskRow_congr {s t : State} {c : CoreId} (mem : t.mem = s.mem) (base : (t.core c).base = (s.core c).base) (r : Nat) :
    taskRow t c r = taskRow s c r := by
  rw [taskRow, mem, base]
  rfl

theorem PassOp.weights_congr (o : PassOp) {c : CoreId} {s t : State} (mem : t.mem = s.mem)
    (base : (t.core c).base = (s.core c).base) : o.weights c t = o.weights c s := by
  have planes (first : Nat) (rows : List Nat) : passPlane t c first rows = passPlane s c first rows := by
    simp only [passPlane, taskRow_congr mem base]
  rw [PassOp.weights, PassOp.weights, planes, planes, planes, planes, taskRow_congr mem base]

/-- What an element of the stationary operand is depends on these of its parts alone. -/
theorem Stationary.at_congr {w v : Stationary} (fmt : w.fmt = v.fmt) (cols : w.cols = v.cols) (cb : w.cb = v.cb)
    (elem : ∀ i, w.elem.row i = v.elem.row i) (scale : ∀ i, w.scale.row i = v.scale.row i)
    (knot : ∀ i, w.knot.row i = v.knot.row i) (k n : Nat) : w.at k n = v.at k n := by
  simp only [Stationary.at, fmt, cols, cb, elem, scale, knot]

theorem passPlane_data (s : State) (c : CoreId) (first : Nat) (rows : List Nat) : (passPlane s c first rows).data
    = rows.map (fun r => (r, Memory.row (benchAddr c ((s.core c).phys (first + r))) s.mem)) := by
  rw [Plane.data, passPlane, List.map_map]
  rfl

/-- `w` is the stationary operand `v` as the elements of the matrix engine see it. -/
structure SameWeights (w v : Stationary) : Prop where
  fmt : w.fmt = v.fmt
  cols : w.cols = v.cols
  elem : ∀ k n, w.at k n = v.at k n

theorem readStationary_eq (c : CoreId) (x : Core) (p : PlaneRows) (e : Extent) (sp : PassPlanes) (cb : Row × Bool)
    (s : State) : readStationary c x p e sp cb s =
      let r1 := readPlane c x p.elem sp.elem s
      let r2 := readPlane c x p.scale sp.scale r1.2
      let r3 := readPlane c x p.knot sp.knot r2.2
      let r4 := readPlane c x p.side sp.side r3.2
      (⟨e.wfmt, engineCols c, r1.1, r2.1, { r3.1 with rows := r3.1.rows ++ [(2 ^ 16, 0, cb.2)] }, r4.1,
          Codebook.ofBits (codebookAt cb.1 e.cbSlot)⟩,
        r4.2.setCore c (refill c x 2 p.side r4.1 (refill c x 1 p.knot r3.1 (refill c x 0 p.scale r2.1 (r4.2.core c))))) := rfl

theorem readStationary_spec (c : CoreId) (o : PassOp) (cb : Row × Bool) {s s0 : State} (mem : s0.mem = s.mem)
    (code : cb.1 = if Fmt.isKB o.ext.wfmt then taskRow s c o.ext.cbRow else 0) :
    SameWeights (readStationary c (s.core c) o.rows o.ext (o.planes c) cb s0).1 (o.weights c s)
      ∧ (∃ l b, (readStationary c (s.core c) o.rows o.ext (o.planes c) cb s0).2.core c
          = { (s0.core c).withLog l with planeBufs := b })
      ∧ OnlyCoreReading c s0 (readStationary c (s.core c) o.rows o.ext (o.planes c) cb s0).2 := by
  rw [readStationary_eq]
  dsimp only
  obtain ⟨elem, log1, only1⟩ := readPlane_spec c (s.core c) o.rows.elem (o.planes c).elem s0
  generalize readPlane c (s.core c) o.rows.elem (o.planes c).elem s0 = r1 at elem log1 only1
  obtain ⟨scale, log2, only2⟩ := readPlane_spec c (s.core c) o.rows.scale (o.planes c).scale r1.2
  generalize readPlane c (s.core c) o.rows.scale (o.planes c).scale r1.2 = r2 at scale log2 only2
  obtain ⟨knot, log3, only3⟩ := readPlane_spec c (s.core c) o.rows.knot (o.planes c).knot r2.2
  generalize readPlane c (s.core c) o.rows.knot (o.planes c).knot r2.2 = r3 at knot log3 only3
  obtain ⟨-, log4, only4⟩ := readPlane_spec c (s.core c) o.rows.side (o.planes c).side r3.2
  generalize readPlane c (s.core c) o.rows.side (o.planes c).side r3.2 = r4 at log4 only4
  have mem1 := only1.mem.trans mem
  have mem2 := only2.mem.trans mem1
  have same {p : Plane} {first : Nat} {rows : List Nat} {u : State} (mem : u.mem = s.mem)
      (data : p.data = rows.map (fun r => (r, Memory.row (benchAddr c ((s.core c).phys (first + r))) u.mem))) (i : Nat) :
      p.row i = (passPlane s c first rows).row i := by
    rw [mem, ← passPlane_data] at data
    exact Plane.row_congr data i
  refine ⟨⟨rfl, rfl, Stationary.at_congr rfl rfl (by rw [code]; rfl) (same mem elem) (same mem1 scale)
    fun i => (Plane.row_zero ..).trans (same mem2 knot i)⟩, ?_,
    (only1.trans (only2.trans (only3.trans only4))).trans (onlyCore_setCore ..).reading⟩
  obtain ⟨l, log⟩ := log1.trans (log2.trans (log3.trans log4))
  obtain ⟨b1, fill1⟩ := refill_spec c (s.core c) 0 o.rows.scale r2.1 (r4.2.core c)
  obtain ⟨b2, fill2⟩ := refill_spec c (s.core c) 1 o.rows.knot r3.1 { r4.2.core c with planeBufs := b1 }
  obtain ⟨b3, fill3⟩ := refill_spec c (s.core c) 2 o.rows.side r4.1 { r4.2.core c with planeBufs := b2 }
  refine ⟨l, b3, ?_⟩
  rw [State.setCore_core, fill1, fill2, fill3, log]

/-! ## The run of a pass -/

section
variable {c : CoreId} {i : PassInfo} {w v : Stationary} {a : Activation} {m lo len : Nat} {x y z : Core}

theorem Summed.after (h : Summed c i w a m lo len x y) (frame : PassFrame y z) (acc : z.acc = y.acc) :
    Summed c i w a m lo len x z :=
  ⟨h.frame.trans frame, fun r n hr hn => by rw [acc]; exact h.row r n hr hn, fun e out => by rw [acc]; exact h.outside e out⟩

theorem Summed.before (frame : PassFrame x y) (acc : y.acc = x.acc) (h : Summed c i w a m lo len y z) :
    Summed c i w a m lo len x z :=
  ⟨frame.trans h.frame, fun r n hr hn => by rw [← acc]; exact h.row r n hr hn,
    fun e out => by rw [← acc]; exact h.outside e out⟩

theorem passedSum_congr (same : SameWeights w v) (r n : Nat) (acc : F32) :
    passedSum i w a r n lo len acc = passedSum i v a r n lo len acc := by
  simp only [passedSum, same.fmt, same.elem]

theorem Summed.weights (h : Summed c i w a m lo len x y) (same : SameWeights w v) : Summed c i v a m lo len x y :=
  ⟨h.frame, fun r n hr hn => by rw [← passedSum_congr same]; exact h.row r n hr hn, h.outside⟩

end

/-- The first unit is the first row of the first slice. -/
theorem Tiles.starts {m lo hi : Nat} {l : List (Nat × Nat)} (tiles : Tiles lo hi l) (some_ : lo < hi) (rows : 0 < m) :
    ∃ len rest, l.flatMap (sliceRows m) = ⟨lo, len, 0⟩ :: rest ∧ l ≠ [] := by
  cases tiles with
  | nil => exact absurd some_ (Nat.lt_irrefl _)
  | cons _ len _ l _ _ =>
    obtain ⟨k, rfl⟩ := Nat.exists_eq_add_one_of_ne_zero (Nat.ne_of_gt rows)
    exact ⟨_, _, by rw [List.flatMap_cons, sliceRows, List.range_succ_eq_map]; rfl, List.cons_ne_nil _ _⟩

/-- The codebook row that a pass reads. -/
def readCodebook (c : CoreId) (o : PassOp) (s : State) : (Row × Bool) × State :=
  if Fmt.isKB o.ext.wfmt then readBench c ((s.core c).phys o.ext.cbRow) 0 s else ((0, false), s)

theorem readCodebook_spec (c : CoreId) (o : PassOp) (s : State) :
    (readCodebook c o s).1.1 = (if Fmt.isKB o.ext.wfmt then taskRow s c o.ext.cbRow else 0)
      ∧ Logged (s.core c) ((readCodebook c o s).2.core c) ∧ OnlyCoreReading c s (readCodebook c o s).2 := by
  rw [readCodebook]
  split
  · have read := readBench_read c ((s.core c).phys o.ext.cbRow) 0 s
    exact ⟨readBench_data .., read.core, read.onlyReading⟩
  · exact ⟨rfl, ⟨(s.core c).errLog, rfl⟩, fun _ => rfl, fun _ _ => rfl, fun _ => rfl, rfl⟩

/-- The run of a list of units, the first of which is `u`, through the planes of the positions that they cover. -/
theorem runUnits_cons (c : CoreId) (f : Fields) (o : PassOp) (us : List PassUnit) {u : PassUnit} (l : List PassUnit)
    (starts : us = u :: l) (s : State) {sp : PassPlanes} {sls : List (Nat × Nat)}
    (planes : passPlanes (engineCols c) o.ext o.info (32 * u.k) (32 * us.foldl (fun e q => max e (q.k + q.len)) 0) = sp)
    (slices : (us.map (fun q => (q.k, q.len))).eraseDups = sls) :
    ∃ b p, runUnits c f o us s =
      let r := readStationary c (s.core c) o.rows o.ext sp (readCodebook c o s).1 (readCodebook c o s).2
      let y := passSlices c o.info r.1 ⟨o.afmt, o.m, o.info.klen, (s.core c).passRows⟩ us sls (r.2.core c)
      r.2.setCore c { (y.loadSlices (engineCols c) o.ext.wfmt r.1.elem sls).noteWide ((s.core c).pcOf Op.mpass f)
        ((s.core c).seqOf Op.mpass f) p with passBad := b } := by
  subst starts planes slices
  exact ⟨_, _, rfl⟩

/-- The run of a whole pass: its products are added, and the planes that it needs are read. -/
theorem runUnits_pass {c : CoreId} {f : Fields} {o : PassOp} {u : Nat} (some_ : 0 < u) (rows : 0 < o.m) (long : 0 < o.info.klen)
    (s : State) :
    Summed c o.info (o.weights c s) ⟨o.afmt, o.m, o.info.klen, (s.core c).passRows⟩ o.m o.info.ks o.info.klen (s.core c)
        ((runUnits c f o (passUnits u o.info.ks o.info.klen o.m o.info.ks 0) s).core c)
      ∧ OnlyCoreReading c s (runUnits c f o (passUnits u o.info.ks o.info.klen o.m o.info.ks 0) s) := by
  have tiles := slicesOf_tiles (ks := o.info.ks) some_ long
  rw [passUnits_start tiles]
  obtain ⟨l, hl⟩ : ∃ l, slicesOf u o.info.ks o.info.klen = l := ⟨_, rfl⟩
  rw [hl] at tiles ⊢
  have rowsOf (sl) (mem : sl ∈ l) := units_filter o.m tiles.distinct mem
  have slices := units_slices rows tiles.distinct
  obtain ⟨len, rest, starts, any⟩ := tiles.starts (Nat.lt_add_of_pos_right long) rows
  have ends := units_end rows tiles 0 (Nat.zero_le _) any
  obtain ⟨b, p, run⟩ := runUnits_cons c f o _ _ starts s (sp := o.planes c) (by rw [ends]; rfl) slices
  rw [run]
  obtain ⟨code, log, read⟩ := readCodebook_spec c o s
  generalize readCodebook c o s = cb at code log read
  obtain ⟨same, ⟨g, bufs, core⟩, only⟩ := readStationary_spec c o cb.1 read.mem code
  generalize readStationary c (s.core c) o.rows o.ext (o.planes c) cb.1 cb.2 = r at same core only
  obtain ⟨frame, acc, -⟩ := log.pass
  have summed := passSlices_summed (a := ⟨o.afmt, o.m, o.info.klen, (s.core c).passRows⟩) same.cols tiles (Nat.le_refl _)
    rowsOf (r.2.core c)
  rw [Nat.add_sub_cancel_left] at summed
  dsimp only
  refine ⟨?_, (read.trans only).trans (onlyCore_setCore ..).reading⟩
  rw [State.setCore_core]
  have begun : PassFrame (cb.2.core c) (r.2.core c) ∧ (r.2.core c).acc = (cb.2.core c).acc := by
    rw [core]
    exact ⟨rfl, rfl⟩
  refine (((summed.weights same).before begun.1 begun.2).before frame acc).after ?_ ?_
  · rfl
  · rfl

end Sys2Proof.Machine
end

section
/-! PROOFS. The activation rows that a pass takes, and how many of them its units need (R80, R85). -/

namespace Sys2Proof.Machine

/-! ## Rows that a unit needs -/

theorem act_formats {fmt : Nat} (ok : Fmt.actOk fmt = true) (plain : Fmt.isMX fmt = false) :
    (Fmt.perRow fmt = 256 ∧ Fmt.ebits fmt = 16) ∨ (Fmt.perRow fmt = 512 ∧ Fmt.ebits fmt = 8) := by
  have formats : fmt = 0x01 ∨ fmt = 0x02 ∨ fmt = 0x10 ∨ fmt = 0x11 := by
    simp [Fmt.actOk, Fmt.known, Fmt.isKB] at ok
    simp [Fmt.isMX] at plain
    omega
  rcases formats with rfl | rfl | rfl | rfl
  · exact .inl ⟨rfl, rfl⟩
  · exact .inl ⟨rfl, rfl⟩
  · exact .inr ⟨rfl, rfl⟩
  · exact .inr ⟨rfl, rfl⟩

/-- The rows of one activation row reach its last position. -/
theorem actRowLen_reaches {fmt klen j : Nat} (ok : Fmt.actOk fmt = true) (plain : Fmt.isMX fmt = false) (le : j ≤ klen)
    (some_ : 0 < klen) : (32 * j - 1) / Fmt.perRow fmt + 1 ≤ actRowLen fmt klen := by
  have rows : actRowLen fmt klen = (32 * klen * Fmt.ebits fmt + 4096 - 1) / 4096 := rfl
  rw [rows]
  obtain ⟨per, bits_⟩ | ⟨per, bits_⟩ := act_formats ok plain <;> rw [per, bits_] <;> omega

/-- No unit of a pass needs more rows than the whole operand has. -/
theorem Activation.needs_le {a : Activation} {ks : Nat} {q : PassUnit} (ok : Fmt.actOk a.fmt = true) (row : q.row < a.m)
    (within : q.k - ks + q.len ≤ a.klen) (some_ : 0 < a.klen) : a.needs ks q ≤ actRows a.fmt a.m a.klen := by
  rw [Activation.needs]
  split
  · exact Nat.le_refl _
  next plain =>
    have plain := Bool.eq_false_iff.2 plain
    have reaches := actRowLen_reaches ok plain within some_
    have rows : (q.row + 1) * actRowLen a.fmt a.klen ≤ a.m * actRowLen a.fmt a.klen := Nat.mul_le_mul_right _ row
    have next_ : (q.row + 1) * actRowLen a.fmt a.klen = q.row * actRowLen a.fmt a.klen + actRowLen a.fmt a.klen :=
      Nat.succ_mul ..
    rw [actRows, plain]
    simp only [Bool.false_eq_true, if_false]
    omega

/-- Every unit needs a row. -/
theorem Activation.needs_pos {a : Activation} (ks : Nat) (q : PassUnit) (rows : 0 < a.m) (some_ : 0 < a.klen) :
    0 < a.needs ks q := by
  rw [Activation.needs]
  split
  next scaled =>
    have blocks : 0 < a.m * a.klen := Nat.mul_pos rows some_
    have scales : ceilDiv (a.m * a.klen) 512 = (a.m * a.klen + 512 - 1) / 512 := rfl
    rw [actRows, if_pos scaled, scales]
    omega
  · exact Nat.succ_pos _

theorem Tiles.unit {m lo hi : Nat} {l : List (Nat × Nat)} (tiles : Tiles lo hi l) {q : PassUnit}
    (mem : q ∈ l.flatMap (sliceRows m)) : q.row < m ∧ lo ≤ q.k ∧ q.k + q.len ≤ hi := by
  obtain ⟨sl, slice, row⟩ := List.mem_flatMap.1 mem
  obtain ⟨r, below, rfl⟩ := List.mem_map.1 row
  exact ⟨List.mem_range.1 below, tiles.from_le sl slice⟩

/-- With the whole operand there, every unit of the pass can run. -/
theorem units_here {u ks : Nat} {a : Activation} (pos : 0 < u) (some_ : 0 < a.klen) (ok : Fmt.actOk a.fmt = true)
    (enough : actRows a.fmt a.m a.klen ≤ a.rows.length) :
    (passUnits u ks a.klen a.m ks 0).takeWhile (fun q => a.needs ks q ≤ a.rows.length) = passUnits u ks a.klen a.m ks 0 := by
  refine List.takeWhile_eq_self_iff.2 fun q mem => decide_eq_true ?_
  have tiles := slicesOf_tiles (ks := ks) pos some_
  rw [passUnits_start tiles] at mem
  obtain ⟨row, from_, upTo⟩ := tiles.unit mem
  exact Nat.le_trans (a.needs_le ok row (by omega) some_) enough

/-- What an element of the activation operand is depends on the data of its rows alone. -/
theorem Activation.at_congr {fmt m klen : Nat} {rows others : List (Row × Bool)}
    (same : rows.map Prod.fst = others.map Prod.fst) (r k : Nat) :
    Activation.at ⟨fmt, m, klen, rows⟩ r k = Activation.at ⟨fmt, m, klen, others⟩ r k := by
  have row (j : Nat) : (rows.getD j (0, false)).1 = (others.getD j (0, false)).1 := by
    have data (l : List (Row × Bool)) : (l.getD j (0, false)).1 = (l.map Prod.fst).getD j 0 :=
      (List.getD_map l (0, false) Prod.fst).symm
    rw [data, data, same]
  simp only [Activation.at, row]

/-! ## Rows taken -/

theorem Queue.takeRows_eq : ∀ (n : Nat) (q : Queue), q.takeRows n
    = { q with staging := q.staging.drop n, returning := q.returning + n, rows := q.rows + BitVec.ofNat 48 n }
  | 0, q => by simp [Queue.takeRows]
  | n + 1, q => by
    rw [Queue.takeRows, Queue.takeRows_eq n]
    simp only [Queue.takeRow, BitVec.ofNat_add, BitVec.add_assoc, Nat.add_assoc, List.drop_tail, Nat.add_comm 1 n]
    rw [BitVec.add_comm 1]
    rfl

theorem OnlyCoreAndQueues.reading {c : CoreId} {s t : State} (h : OnlyCoreAndQueues c s t) : OnlyCoreAndQueuesReading c s t := by
  obtain ⟨bytes, others, runs, rest⟩ := h
  exact ⟨bytes, others, runs, by rw [rest]⟩

theorem OnlyCoreReading.andQueues {c : CoreId} {s t : State} (h : OnlyCoreReading c s t) : OnlyCoreAndQueuesReading c s t := by
  obtain ⟨bytes, others, runs, rest⟩ := h
  exact ⟨bytes, others, runs.queueRuns, by rw [rest]⟩

theorem OnlyCoreAndQueuesReading.trans {c : CoreId} {s t u : State} (h : OnlyCoreAndQueuesReading c s t)
    (g : OnlyCoreAndQueuesReading c t u) : OnlyCoreAndQueuesReading c s u := by
  obtain ⟨hb, hc, hr, he⟩ := h
  obtain ⟨gb, gc, gr, ge⟩ := g
  exact ⟨hb.trans gb, hc.trans gc, hr.trans gr, by rw [ge, he]⟩

/-- A pass's activation rows have been taken: the core keeps `rows` of them. -/
structure RowsTaken (c : CoreId) (rows : List (Row × Bool)) (s t : State) : Prop where
  core : ∃ l, t.core c = { (s.core c).withLog l with passRows := rows }
  only : OnlyCoreAndQueuesReading c s t
  mem : t.mem = s.mem

/-- The state after `n` rows have left a port's staging. -/
def portTaken (c : CoreId) (b : Bound) (n : Nat) (s : State) : State :=
  if n = 0 then s else progress (notePop b (s.setQueue b.coupe b.handle (some (b.queue.takeRows n)))) c

theorem portTaken_spec (c : CoreId) {b : Bound} (n : Nat) {s : State} (hq : s.queue b.coupe b.handle = some b.queue) :
    OnlyCoreAndQueues c s (portTaken c b n s) ∧ (portTaken c b n s).core c = s.core c
      ∧ QueueIs b.coupe b.handle (b.queue.takeRows n) s (portTaken c b n s) := by
  rw [portTaken]
  split
  next zero =>
    subst zero
    exact ⟨⟨fun _ => rfl, fun _ _ => rfl, fun _ => rfl, rfl⟩, rfl, hq, fun _ _ _ => rfl⟩
  · have moved := (onlyQueues_setQueue s b.coupe b.handle (some (b.queue.takeRows n))).trans (onlyQueues_notePop b _)
    have queue := (setQueue_is s b.coupe b.handle (b.queue.takeRows n)).after (sameQueues_notePop b _)
    have progressed := onlyCore_progress c (notePop b (s.setQueue b.coupe b.handle (some (b.queue.takeRows n))))
    exact ⟨moved.onlyCoreAndQueues.trans progressed.onlyCoreAndQueues, (progress_core ..).trans (moved.core c),
      queue.after progressed.2.2.1.sameQueues⟩

theorem passTake_some (c : CoreId) (o : PassOp) (b : Bound) (s : State) (fresh : (s.core c).passRows = []) :
    passTake c o (some b) s = ((takeRows b b.queue.staging o.nact).2,
      (portTaken c b (takeRows b b.queue.staging o.nact).1.length s).setCore c
      { (portTaken c b (takeRows b b.queue.staging o.nact).1.length s).core c with
        passRows := (takeRows b b.queue.staging o.nact).1 }) := by
  have none_ (l : List (Row × Bool)) : l.isEmpty = decide (l.length = 0) := by cases l <;> rfl
  simp only [passTake, portTaken, fresh, List.length_nil, Nat.sub_zero, List.nil_append, none_, decide_eq_true_eq]

/-- A port's rows leave its staging. -/
theorem passTake_port {c : CoreId} {o : PassOp} {b : Bound} {s : State} (fresh : (s.core c).passRows = [])
    (hq : s.queue b.coupe b.handle = some b.queue) :
    RowsTaken c (takeRows b b.queue.staging o.nact).1 s (passTake c o (some b) s).2
      ∧ QueueIs b.coupe b.handle (b.queue.takeRows (takeRows b b.queue.staging o.nact).1.length) s (passTake c o (some b) s).2
      ∧ OnlyCoreAndQueues c s (passTake c o (some b) s).2 := by
  have took := passTake_some c o b s fresh
  obtain ⟨only, core, queue⟩ := portTaken_spec c (takeRows b b.queue.staging o.nact).1.length hq
  rw [took]
  have kept := onlyCore_setCore c { (portTaken c b (takeRows b b.queue.staging o.nact).1.length s).core c with
    passRows := (takeRows b b.queue.staging o.nact).1 } (portTaken c b (takeRows b b.queue.staging o.nact).1.length s)
  have all := only.trans kept.onlyCoreAndQueues
  refine ⟨⟨⟨(s.core c).errLog, ?_⟩, all.reading, ?_⟩, queue.after kept.2.2.1.sameQueues, all⟩
  · rw [State.setCore_core, core]
    rfl
  · obtain ⟨-, -, -, rest⟩ := all
    rw [rest]

/-- Rows of the bench are read. -/
theorem passTake_bench {c : CoreId} {o : PassOp} {s : State} (fresh : (s.core c).passRows = []) (sel : o.sel = 4) :
    ∃ rows, RowsTaken c rows s (passTake c o none s).2
      ∧ rows.map Prod.fst = (List.range o.nact).map (fun j => taskRow s c (o.actRow + j)) := by
  obtain ⟨data, ⟨l, log⟩, only⟩ := readBenchRows_read c 1 ((List.range o.nact).map (fun j => (s.core c).phys (o.actRow + j))) s
  simp only [passTake, fresh, sel, List.isEmpty_nil, Bool.not_true, Bool.false_eq_true, if_false, if_true]
  generalize readBenchRows c 1 _ s = v at data log only
  refine ⟨v.1, ⟨⟨l, ?_⟩, only.andQueues.trans (onlyCore_setCore ..).reading.andQueues, only.mem⟩, ?_⟩
  · rw [State.setCore_core, log]
  · rw [data, List.map_map]
    rfl

/-- The packed bytes of v8 to v15 are four rows. -/
theorem passTake_vectors {c : CoreId} {o : PassOp} {s : State} (fresh : (s.core c).passRows = []) (sel : o.sel ≠ 4) :
    RowsTaken c (vecRows (s.core c)) s (passTake c o none s).2 := by
  simp only [passTake, fresh, sel, List.isEmpty_nil, Bool.not_true, Bool.false_eq_true, if_false]
  exact ⟨⟨(s.core c).errLog, State.setCore_core ..⟩, (onlyCore_setCore ..).reading.andQueues, rfl⟩

end Sys2Proof.Machine
end

section
/-! PROOFS. MPASS: a pass whose operands are there runs from its first unit to its last, and one whose port is empty waits
before its first (R80, R83, R85). -/

namespace Sys2Proof.Machine

/-! ## The pass that runs -/

/-- The core as a pass begins: the descriptor is kept, and the group noted that a side plane covers. -/
def Core.passReady (x : Core) (f : Fields) (o : PassOp) (wload : Nat) : Core :=
  let y := countCycles .wload wload ({ x with statDesc := x.rd f.a.toNat ++ x.rd (f.a.toNat + 1) }.taint
    (x.rdP f.a.toNat || x.rdP (f.a.toNat + 1) || x.rdP f.b.toNat))
  if o.ext.ncs = 0 then y else y.noteGroup o.rows.side o.rows.elem o.info.col

/-- The core when a pass has ended: its region's cursor stands after the pass. -/
def Core.passed (x : Core) (o : PassOp) (r : Region) : Core :=
  { x.passEnd o.info.first o.m with
    regions := (x.passEnd o.info.first o.m).regions.set none o.info.region (some { r with cursor := o.info.ks + o.info.klen })
    passes := (x.passEnd o.info.first o.m).passes + 1 }

/-- The units of a pass from its start. -/
def PassOp.units (o : PassOp) (c : CoreId) : List PassUnit :=
  passUnits (sliceUnits c o.ext.wfmt) o.info.ks o.info.klen o.m o.info.ks 0

/-- What a pass does that meets no wide-port conflict and no interruption point, once its operands are `t`'s. -/
def passEffect (c : CoreId) (f : Fields) (o : PassOp) (b : Option Bound) (r : Region) (marker : Bool) (t : State) : State :=
  let here := (o.units c).takeWhile (fun q => Activation.needs ⟨o.afmt, o.m, o.info.klen, (t.core c).passRows⟩ o.info.ks q
    ≤ (t.core c).passRows.length)
  let u := runUnits c f o here t
  match (o.units c)[here.length]? with
  | none => completeWith c ((u.core c).passed o r) u
  | some q => passStop c f o b none false marker q u

theorem Core.passReady_frame (x : Core) (f : Fields) (o : PassOp) (wload : Nat) : PassFrame x (x.passReady f o wload) := by
  unfold Core.passReady
  dsimp only
  split <;> rfl

theorem Core.passReady_same (x : Core) (f : Fields) (o : PassOp) (wload : Nat) :
    (x.passReady f o wload).acc = x.acc ∧ (x.passReady f o wload).cursor = x.cursor
      ∧ (x.passReady f o wload).passRows = x.passRows := by
  unfold Core.passReady
  dsimp only
  split <;> exact ⟨rfl, rfl, rfl⟩

/-- What a legal pass says of its activation operand, its region and its size. -/
theorem PassLegal.operand {s : State} {c : CoreId} {f : Fields} {r : Region} (h : PassLegal s c f r) :
    f.sel.toNat < 6 ∧ (f.sel.toNat = 5 → passNeeds f ≤ 4) ∧ Fmt.actOk (passAfmt f.imm) = true
      ∧ (s.core c).region f.d.toNat = some r ∧ passM f.imm ≠ 0 ∧ passKlen f.imm ≠ 0 := by
  obtain ⟨form, -, -, -, -, vectors, -, acts, -, -, -, -, -, -, -, -, region, -, -, some_, long⟩ := h
  simp only [Form.ok, Bool.and_eq_true, decide_eq_true_eq] at form
  exact ⟨form.1.1.2, vectors, acts, region, some_, long⟩

theorem sliceUnits_pos (c : CoreId) (wfmt : Nat) : 0 < sliceUnits c wfmt := by
  rw [sliceUnits]
  split <;> split <;> decide

/-- A pass that may start, on region `r` and port `b`. -/
structure PassStarts (c : CoreId) (f : Fields) (wload : Nat) (s : State) (r : Region) (b : Option Bound) : Prop where
  starts : Starts (.mpass c f none none wload) s
  legal : PassLegal s c f r
  fresh : PassFresh (s.core c)
  port : f.sel.toNat < 4 → b = portQueue s c f.sel.toNat ∧ b.isSome = true
  noPort : ¬f.sel.toNat < 4 → b = none

section
variable {c : CoreId} {f : Fields} {wload : Nat} {s : State} {r : Region} {b : Option Bound}
  (h : PassStarts c f wload s r b)
include h

omit h in
theorem not_or_of_imp {p q : Bool} (h : p = true → q = true) : (!p || q) = true := by
  cases p with
  | false => rfl
  | true => exact h rfl

omit h in
theorem not_and_not_of_imp {p q o : Bool} (h : p = true → o = true) : (!(p && q && !o)) = true := by
  cases p with
  | false => rfl
  | true => simp [h rfl]

theorem PassStarts.bound : (if f.sel.toNat < 4 then portQueue s c f.sel.toNat else none) = b := by
  split
  next low => exact (h.port low).1.symm
  next high => exact (h.noPort high).symm

theorem PassStarts.run : ∃ causes body, exec (.mpass c f none none wload) s = issue c Op.mpass f causes body s
    ∧ (∀ k ∈ causes, k.2 = false)
    ∧ body s = passEffect c f (passOp c (s.core c) f) b r
        (passTake c (passOp c (s.core c) f) b (s.setCore c ((s.core c).passReady f (passOp c (s.core c) f) wload))).1
        (passTake c (passOp c (s.core c) f) b (s.setCore c ((s.core c).passReady f (passOp c (s.core c) f) wload))).2 := by
  obtain ⟨form, pair, plane, extent, rows, vectors, weights, acts, spans, book, depth, elem, scale, knot, side, bench, region,
    fits, order, some_, long⟩ := h.legal
  have nact : (passOp c (s.core c) f).nact = passNeeds f := if_neg long
  refine ⟨_, _, (exec_mpass c f none none wload s).trans rfl, ?_, ?_⟩
  · have few : (passOp c (s.core c) f).sel = 5 → (passOp c (s.core c) f).nact ≤ 4 := fun e => nact ▸ vectors e
    have inside : (passOp c (s.core c) f).sel = 4 →
        (s.core c).rowsIn (passOp c (s.core c) f).actRow (passOp c (s.core c) f).nact = true := fun e => nact ▸ bench e
    have region' : (s.core c).region f.d.toNat = some r := region
    have bound := h.bound
    simp only [List.forall_mem_cons, List.not_mem_nil, false_imp_iff, implies_true, and_true, Bool.not_eq_false', region']
    refine ⟨?_, ?_, ?_, decide_eq_true fits, decide_eq_true order, ?_⟩
    · simp only [form, pair, plane, extent, rows, Bool.true_and, Bool.not_eq_true', Bool.and_eq_false_iff,
        decide_eq_false_iff_not]
      by_cases five : (passOp c (s.core c) f).sel = 5
      · exact .inr (Nat.not_lt.2 (few five))
      · exact .inl (.inl five)
    · exact Bool.and_eq_true_iff.2 ⟨Bool.and_eq_true_iff.2 ⟨Bool.and_eq_true_iff.2 ⟨weights, acts⟩, decide_eq_true spans⟩,
        not_and_not_of_imp fun kb => (book kb).2⟩
    · simp only [Bool.and_eq_true, decide_eq_true_eq]
      refine ⟨⟨⟨⟨⟨⟨depth, elem⟩, scale⟩, knot⟩, side⟩, not_or_of_imp fun kb => (book kb).1⟩, ?_⟩
      by_cases four : (passOp c (s.core c) f).sel = 4
      · rw [inside four, Bool.or_true]
      · rw [decide_eq_true four, Bool.true_or]
    · refine Bool.and_eq_false_iff.2 ?_
      by_cases low : f.sel.toNat < 4
      · refine .inr ?_
        refine (congrArg Option.isNone bound).trans ?_
        rw [Option.isNone_eq_false_iff]
        exact (h.port low).2
      · exact .inl (decide_eq_false low)
  · have work : ¬(decide ((passOp c (s.core c) f).m = 0) || decide ((passOp c (s.core c) f).info.klen = 0)) = true := by
      simp only [Bool.or_eq_true, decide_eq_true_eq, not_or]
      exact ⟨some_, long⟩
    have bound : (if (passOp c (s.core c) f).sel < 4 then portQueue s c (passOp c (s.core c) f).sel else none) = b := h.bound
    have region' : (s.core c).region f.d.toNat = some r := region
    have cursor := ((s.core c).passReady_same f (passOp c (s.core c) f) wload).2.1
    refine (if_neg work).trans ?_
    unfold passEffect PassOp.units
    simp only [Core.passReady] at cursor ⊢
    simp only [bound, region', Core.passFrom, cursor, h.fresh.1, Bool.false_eq_true, if_false, pauseAt, List.take_length,
      Nat.lt_irrefl, decide_false, ite_self, Option.map_some]
    rfl

end

/-! ## The pass that completes -/

/-- The rows that a pass takes from its port. -/
def passPort (b : Option Bound) (f : Fields) : List (Row × Bool) :=
  match b with
  | some b => (takeRows b b.queue.staging (passNeeds f)).1
  | none => []

theorem accPoison_foldl (rows : List Nat) (first : Nat) : ∀ x : Core, LaneFrame x
    (rows.foldl (fun z r => { z with accPoison := z.accPoison.set false (first + r) true }) x) :=
  laneFrame_foldl (g := fun z r => { z with accPoison := z.accPoison.set false (first + r) true }) (fun _ _ => rfl) rows

theorem Core.addNanp_frame (x : Core) (met : Bool) : PassFrame x (x.addNanp met) ∧ (x.addNanp met).acc = x.acc := by
  rw [Core.addNanp]
  split <;> exact ⟨rfl, rfl⟩

/-- A pass that ends keeps the accumulators, and leaves nothing of itself in progress. -/
theorem Core.passEnd_spec (x : Core) (first m : Nat) : PassFrame x (x.passEnd first m) ∧ (x.passEnd first m).acc = x.acc
    ∧ PassFresh (x.passEnd first m) := by
  have poisoned (y : Core) (h : LaneFrame x y) : PassFrame x { y.addNanp x.passNan with
      passNan := false, passBad := false, cursor := 0, passRows := [] } ∧ (y.addNanp x.passNan).acc = x.acc := by
    obtain ⟨frame, acc⟩ := y.addNanp_frame x.passNan
    exact ⟨(h.pass.trans frame).trans rfl, acc.trans h.acc⟩
  unfold Core.passEnd
  dsimp only
  have none_ : bit (0 : BitVec 64) 63 = false := by decide
  split
  · obtain ⟨frame, acc⟩ := poisoned _ (accPoison_foldl (List.range m) first x)
    exact ⟨frame, acc, none_, rfl⟩
  · obtain ⟨frame, acc⟩ := poisoned x rfl
    exact ⟨frame, acc, none_, rfl⟩

section
variable {x : Core} {o : PassOp} {r : Region}

theorem Core.passed_region (j : Nat) : (x.passed o r).region j
    = if j = o.info.region then some { r with cursor := o.info.ks + o.info.klen } else x.region j := by
  have regions : (x.passEnd o.info.first o.m).regions = x.regions := by rw [(x.passEnd_spec o.info.first o.m).1]
  rw [Core.region, Core.passed, regions]
  by_cases e : j = o.info.region
  · rw [if_pos e, e, Sparse.get_set_same]
  · rw [if_neg e, Sparse.get_set_other _ _ _ _ _ e]
    rfl

end

section
variable {c : CoreId} {f : Fields} {wload : Nat} {s : State} {r : Region} {b : Option Bound}
  (h : PassStarts c f wload s r b)
include h

/-- The state in which the pass takes its activation rows. -/
theorem PassStarts.taken (t : State) (core : t.core c = (s.core c).passReady f (passOp c (s.core c) f) wload)
    (only : OnlyCore c s t) (whole : f.sel.toNat < 4 → (passPort b f).length = passNeeds f) :
    ∃ rows, RowsTaken c rows t (passTake c (passOp c (s.core c) f) b t).2
      ∧ rows.map Prod.fst = (passActivation s c f (passPort b f)).rows.map Prod.fst ∧ passNeeds f ≤ rows.length
      ∧ ∀ q, b = some q →
        QueueIs q.coupe q.handle (q.queue.takeRows (passPort b f).length) t (passTake c (passOp c (s.core c) f) b t).2 := by
  obtain ⟨six, vectors, -, -, -, long⟩ := h.legal.operand
  have nact : (passOp c (s.core c) f).nact = passNeeds f := if_neg long
  have fresh : (t.core c).passRows = [] := by
    rw [core, ((s.core c).passReady_same ..).2.2]
    exact h.fresh.2
  have base : (t.core c).base = (s.core c).base := by rw [core, (s.core c).passReady_frame]
  have mem : t.mem = s.mem := by rw [only.2.2.2]
  by_cases low : f.sel.toNat < 4
  · obtain ⟨q, rfl⟩ := Option.isSome_iff_exists.1 (h.port low).2
    have hq : t.queue q.coupe q.handle = some q.queue :=
      (only.2.2.1.sameQueues ..).trans (portQueue_queue (h.port low).1.symm)
    obtain ⟨taken, queue, -⟩ := passTake_port (o := passOp c (s.core c) f) fresh hq
    rw [nact] at taken queue
    exact ⟨_, taken, by rw [passActivation, if_pos low]; rfl, Nat.le_of_eq (whole low).symm,
      fun p e => Option.some.inj e ▸ queue⟩
  · obtain rfl := h.noPort low
    by_cases four : f.sel.toNat = 4
    · obtain ⟨rows, taken, data⟩ := passTake_bench (o := passOp c (s.core c) f) fresh four
      rw [nact] at data
      refine ⟨rows, taken, ?_, ?_, nofun⟩
      · rw [data, passActivation]
        simp only [if_neg low, if_pos four, List.map_map, taskRow_congr mem base]
        rfl
      · have length := congrArg List.length data
        simp only [List.length_map, List.length_range] at length
        exact Nat.le_of_eq length.symm
    · refine ⟨_, passTake_vectors (o := passOp c (s.core c) f) fresh four, ?_, ?_, nofun⟩
      · rw [passActivation]
        simp only [if_neg low, if_neg four]
        rw [core, (s.core c).passReady_frame]
        rfl
      · exact vectors (by omega)

omit h in
theorem Summed.activations {i : PassInfo} {w : Stationary} {fmt m klen lo len : Nat} {rows others : List (Row × Bool)}
    {x y : Core} (sum : Summed c i w ⟨fmt, m, klen, rows⟩ m lo len x y)
    (same : ∀ r k, Activation.at ⟨fmt, m, klen, rows⟩ r k = Activation.at ⟨fmt, m, klen, others⟩ r k) :
    Summed c i w ⟨fmt, m, klen, others⟩ m lo len x y :=
  ⟨sum.frame, fun r n hr hn => (sum.row r n hr hn).trans (by simp only [passedSum, same]), sum.outside⟩

omit h in
/-- The state in which a pass takes its activation rows. -/
theorem passBegun (c : CoreId) (f : Fields) (wload : Nat) (s : State) :
    ∃ t, t = s.setCore c ((s.core c).passReady f (passOp c (s.core c) f) wload)
    ∧ t.core c = (s.core c).passReady f (passOp c (s.core c) f) wload ∧ OnlyCore c s t :=
  ⟨_, rfl, State.setCore_core .., onlyCore_setCore ..⟩

/-- A pass whose operands are all there adds its products and completes. -/
theorem PassStarts.ends (whole : f.sel.toNat < 4 → (passPort b f).length = passNeeds f) :
    ∃ t z, exec (.mpass c f none none wload) s = .next t ∧ OnlyCoreAndQueuesReading c s t ∧ Advanced (s.core c) (t.core c)
      ∧ Summed c (passOp c (s.core c) f).info (passWeights s c f) (passActivation s c f (passPort b f)) (passM f.imm)
          (passStart (s.core c) f) (passKlen f.imm) (s.core c) z
      ∧ Bookkept (z.passed (passOp c (s.core c) f) r) (t.core c)
      ∧ ∀ q, b = some q → QueueIs q.coupe q.handle (q.queue.takeRows (passPort b f).length) s t := by
  obtain ⟨causes, body, run, legal, effect⟩ := h.run
  obtain ⟨-, -, acts, -, some_, long⟩ := h.legal.operand
  have positive := sliceUnits_pos c (passOp c (s.core c) f).ext.wfmt
  obtain ⟨t0, begun, core0, only0⟩ := passBegun c f wload s
  rw [← begun] at effect
  obtain ⟨rows, ⟨⟨l, core1⟩, only1, mem1⟩, data, enough, queue⟩ := h.taken t0 core0 only0 whole
  generalize passTake c (passOp c (s.core c) f) b t0 = took at effect core1 only1 mem1 queue
  have rows1 : (took.2.core c).passRows = rows := by rw [core1]
  have here := units_here (u := sliceUnits c (passOp c (s.core c) f).ext.wfmt) (ks := (passOp c (s.core c) f).info.ks)
    (a := ⟨(passOp c (s.core c) f).afmt, (passOp c (s.core c) f).m, (passOp c (s.core c) f).info.klen, rows⟩) positive
    (Nat.pos_of_ne_zero long) acts enough
  obtain ⟨summed, only2⟩ := runUnits_pass (c := c) (f := f) (o := passOp c (s.core c) f) positive
    (Nat.pos_of_ne_zero some_) (Nat.pos_of_ne_zero long) took.2
  have ended : body s = completeWith c
      (((runUnits c f (passOp c (s.core c) f) ((passOp c (s.core c) f).units c) took.2).core c).passed
        (passOp c (s.core c) f) r) (runUnits c f (passOp c (s.core c) f) ((passOp c (s.core c) f).units c) took.2) := by
    rw [effect, passEffect]
    dsimp only [PassOp.units]
    rw [rows1, here, List.getElem?_length]
  have frame0 := (s.core c).passReady_frame f (passOp c (s.core c) f) wload
  have same0 := (s.core c).passReady_same f (passOp c (s.core c) f) wload
  have core : PassFrame (s.core c) (took.2.core c) ∧ (took.2.core c).acc = (s.core c).acc := by
    rw [core1, core0]
    exact ⟨frame0.trans rfl, same0.1⟩
  have base : (took.2.core c).base = (s.core c).base := by rw [core.1]
  have mem : took.2.mem = s.mem := mem1.trans (by rw [only0.2.2.2])
  rw [PassOp.weights_congr _ mem base, rows1] at summed
  have products := (summed.before core.1 core.2).activations (Activation.at_congr data)
  rw [PassOp.units] at ended
  generalize runUnits c f (passOp c (s.core c) f) _ took.2 = u at ended products only2
  have frame := products.frame.trans (Core.passEnd_spec (u.core c) (passOp c (s.core c) f).info.first (passOp c (s.core c) f).m).1
  have stays : Stays (s.core c) ((u.core c).passed (passOp c (s.core c) f) r) :=
    frame.stays.trans ⟨rfl, rfl, rfl, rfl, rfl⟩
  have last : ((u.core c).passed (passOp c (s.core c) f) r).lastQueue = (s.core c).lastQueue := by
    rw [Core.passed, frame]
  obtain ⟨t, ex, only3, advanced, kept⟩ := exec_ends (i := .mpass c f none none wload) (t := u) rfl h.starts legal run stays last
    ended
  have after := only2.trans only3.reading
  refine ⟨t, u.core c, ex, only0.reading.andQueues.trans (only1.trans after.andQueues), advanced, products, kept,
    fun q e => ((queue q e).before only0.2.2.1.sameQueues).after after.2.2.1.sameQueues⟩

end

/-! ## The pass that waits -/

/-- The cursor at a unit of the first row reads as it was put. -/
theorem cursorAt_bits {k len : Nat} (small : k < 2 ^ 16) :
    bit (cursorAt ⟨k, len, 0⟩) 63 = true ∧ bits (cursorAt ⟨k, len, 0⟩) 62 47 = k ∧ bits (cursorAt ⟨k, len, 0⟩) 46 39 = 0 := by
  have value : (cursorAt ⟨k, len, 0⟩).toNat = 2 ^ 63 + k * 2 ^ 47 := by
    have apart : 1 <<< 63 + k <<< 47 = 1 <<< 63 ||| k <<< 47 := Nat.shiftLeft_add_eq_or_of_lt (by rw [Nat.shiftLeft_eq]; omega) 1
    simp only [cursorAt, put, BitVec.toNat_or, BitVec.toNat_ofNat, Nat.shiftLeft_eq] at apart ⊢
    rw [Nat.mod_eq_of_lt (a := k * 2 ^ 47) (by omega)]
    simpa using apart.symm
  refine ⟨?_, ?_, ?_⟩
  · rw [bit, value, Nat.testBit_eq_decide_div_mod_eq]
    exact decide_eq_true (by omega)
  · rw [bits, value, Nat.shiftRight_eq_div_pow]
    omega
  · rw [bits, value, Nat.shiftRight_eq_div_pow]
    omega

section
variable {c : CoreId} {f : Fields} {wload : Nat} {s : State} {r : Region} {q : Bound}
  (h : PassStarts c f wload s r (some q)) (empty : q.queue.staging = [])
include h empty

/-- A pass whose port is empty waits at its first unit. -/
theorem PassStarts.waits :
    ∃ t len, exec (.mpass c f none none wload) s = .next t ∧ OnlyCoreAndQueues c s t
      ∧ WaitsQueued Op.mpass f .inEmpty (s.core c) (t.core c) ∧ (t.core c).acc = (s.core c).acc
      ∧ (t.core c).regions = (s.core c).regions ∧ (t.core c).cursor = cursorAt ⟨passStart (s.core c) f, len, 0⟩ := by
  obtain ⟨causes, body, run, legal, effect⟩ := h.run
  obtain ⟨-, -, -, -, some_, long⟩ := h.legal.operand
  have low : f.sel.toNat < 4 := by
    by_contra high
    exact nomatch h.noPort high
  have positive := sliceUnits_pos c (passOp c (s.core c) f).ext.wfmt
  obtain ⟨t0, begun, core0, only0⟩ := passBegun c f wload s
  rw [← begun] at effect
  have fresh : (t0.core c).passRows = [] := by
    rw [core0, ((s.core c).passReady_same ..).2.2]
    exact h.fresh.2
  have hq : t0.queue q.coupe q.handle = some q.queue :=
    (only0.2.2.1.sameQueues ..).trans (portQueue_queue (h.port low).1.symm)
  have took := congrArg Prod.fst (passTake_some c (passOp c (s.core c) f) q t0 fresh)
  obtain ⟨⟨⟨l, core1⟩, -, -⟩, queue, only1⟩ := passTake_port (o := passOp c (s.core c) f) fresh hq
  have nothing (n : Nat) : takeRows q q.queue.staging n = ([], false) := by rw [empty]; rfl
  rw [nothing] at took core1 queue
  generalize passTake c (passOp c (s.core c) f) (some q) t0 = tk at effect took core1 queue only1
  obtain ⟨m, t1⟩ := tk
  dsimp only at *
  subst took
  have rows1 : (t1.core c).passRows = [] := by rw [core1]
  have tiles := slicesOf_tiles (ks := passStart (s.core c) f) positive (Nat.pos_of_ne_zero long)
  obtain ⟨len, rest, starts, -⟩ := tiles.starts (Nat.lt_add_of_pos_right (Nat.pos_of_ne_zero long)) (Nat.pos_of_ne_zero some_)
  have units : (passOp c (s.core c) f).units c = ⟨passStart (s.core c) f, len, 0⟩ :: rest :=
    (passUnits_start tiles).trans starts
  have needs := Activation.needs_pos (a := ⟨(passOp c (s.core c) f).afmt, (passOp c (s.core c) f).m,
    (passOp c (s.core c) f).info.klen, []⟩) (passOp c (s.core c) f).info.ks ⟨passStart (s.core c) f, len, 0⟩
    (Nat.pos_of_ne_zero some_) (Nat.pos_of_ne_zero long)
  have stops : body s
      = passStop c f (passOp c (s.core c) f) (some q) none false false ⟨passStart (s.core c) f, len, 0⟩ t1 := by
    have none_ (a : Activation) (few : 0 < a.needs (passOp c (s.core c) f).info.ks ⟨passStart (s.core c) f, len, 0⟩) :
        (⟨passStart (s.core c) f, len, 0⟩ :: rest).takeWhile (fun q => a.needs (passOp c (s.core c) f).info.ks q
          ≤ ([] : List (Row × Bool)).length) = [] :=
      List.takeWhile_cons_of_neg fun ran => Nat.not_le.2 few (of_decide_eq_true ran)
    rw [effect, passEffect]
    rw [units, rows1, none_ _ needs]
    rfl
  have waits : body s = stallIn c { t1.core c with cursor := cursorAt ⟨passStart (s.core c) f, len, 0⟩ } q t1 := stops
  obtain ⟨stalled, only2, -⟩ := stallIn_spec (c := c) (x := { t1.core c with
    cursor := cursorAt ⟨passStart (s.core c) f, len, 0⟩ }) queue.1
  have frame : PassFrame (s.core c) (t1.core c) := by
    rw [core1, core0]
    exact ((s.core c).passReady_frame ..).trans rfl
  have acc : (t1.core c).acc = (s.core c).acc := by
    rw [core1, core0]
    exact ((s.core c).passReady_same ..).1
  obtain ⟨t, ex, only3, ends, kept⟩ := exec_waits (i := .mpass c f none none wload) rfl h.starts legal run
    (frame.trans rfl : PassFrame (s.core c) { t1.core c with cursor := cursorAt ⟨passStart (s.core c) f, len, 0⟩ }).stays rfl
    waits stalled
  refine ⟨t, len, ex, only0.onlyCoreAndQueues.trans (only1.trans (only2.trans only3.onlyCoreAndQueues)), ends, ?_, ?_, ?_⟩
  · rw [kept]
    exact acc
  · rw [kept, frame]
  · rw [kept]

end

/-- The sum over a whole pass, from its first position on. -/
theorem passedSum_whole (i : PassInfo) (w : Stationary) (a : Activation) (m n len : Nat) (acc : F32) :
    passedSum i w a m n i.ks len acc = if Fmt.wide w.fmt || Fmt.wide a.fmt
      then wideSum ((List.range (32 * len)).map (fun k => w.at (32 * i.ks + k) n)) ((List.range (32 * len)).map (a.at m)) acc
      else narrowSum len ((List.range (32 * len)).map (fun k => w.at (32 * i.ks + k) n)) ((List.range (32 * len)).map (a.at m))
        acc := by
  simp only [passedSum, sumOver, elemsOf, Nat.add_sub_cancel_left]

/-- Settles O11: the operands of a pass give its products, slice after slice and row after row; without activation rows it
waits at its first slice. -/
theorem mpassAccumulates : Obligations.MpassAccumulates := by
  unfold Obligations.MpassAccumulates
  intro c f wload s r b starts legal fresh x port noPort taken w a cols col act
  have pass : PassStarts c f wload s r b := ⟨starts, legal, fresh, port, noPort⟩
  refine ⟨fun whole => ?_, fun q e empty => ?_⟩
  · obtain ⟨t, z, ex, only, advanced, products, kept, queue⟩ := pass.ends whole
    obtain ⟨ended, kept_, fresh_⟩ := z.passEnd_spec (passOp c x f).info.first (passOp c x f).m
    have frame := products.frame.trans ended
    have first : (passOp c x f).info.first = r.first := by
      obtain ⟨-, -, -, region, -⟩ := legal.operand
      exact congrArg (fun g => (g.map Region.first).getD 0) region
    have acc : (t.core c).acc = z.acc := by
      rw [kept]
      exact kept_
    refine ⟨t, ex, only, advanced, fun m n hm hn => ?_, fun e out => ?_, fun i => ?_, ?_, ?_, ?_, ?_, fun q e => ?_⟩
    · have row := products.row m n hm hn
      rw [first, ← acc] at row
      exact row.trans (passedSum_whole ..)
    · have outside := products.outside e
      rw [first, ← acc] at outside
      exact outside out
    · have regions : (t.core c).region i = (z.passed (passOp c x f) r).region i := by rw [kept]; rfl
      have same : z.region i = x.region i := by rw [products.frame]; rfl
      rw [regions, Core.passed_region, same]
      rfl
    · rw [kept, Core.passed, frame]
    · rw [kept, Core.passed, frame]
    · rw [kept, Core.passed, frame]
    · rw [kept]
      exact fresh_
    · rw [← Queue.takeRows_eq]
      exact queue q e
  · subst e
    obtain ⟨t, len, ex, only, ends, acc, regions, cursor⟩ := pass.waits empty
    obtain ⟨under, at_, row⟩ := cursorAt_bits (k := passStart x f) (len := len) (Nat.mod_lt _ (by decide))
    exact ⟨t, ex, only, ends, acc, regions, cursor ▸ under, cursor ▸ at_, cursor ▸ row⟩

end Sys2Proof.Machine
end
